-- ==== Sys2Proof/Word.lean ====
section
/-! DEFINITION. Words, masks and the sorted association list in which every sparse store of the machine is held. -/

namespace Sys2Proof

/-- A byte of memory (R2). -/
abbrev Byte := BitVec 8
/-- A 32-bit register or instruction word (R10, R72). -/
abbrev Word := BitVec 32
/-- A 64-bit uniform register, pair, address or counter (R10). -/
abbrev DWord := BitVec 64
/-- One bit a thread: bit t names thread t (R10). -/
abbrev Mask := BitVec 64

/-- A sparse store: keys strictly rising, and no entry equal to the value an unlisted key reads as. -/
abbrev Sparse (α : Type) := List (Nat × α)

/-- The value at key `k`, `dflt` where the store lists none. -/
def sget {α : Type} (dflt : α) : Sparse α → Nat → α
  | [], _ => dflt
  | (j, v) :: m, k => if j = k then v else sget dflt m k

/-- The value at key `k`, if the store lists one. -/
def sfind {α : Type} : Sparse α → Nat → Option α
  | [], _ => none
  | (j, v) :: m, k => if j = k then some v else sfind m k

/-- Remove key `k`. -/
def sdrop {α : Type} : Sparse α → Nat → Sparse α
  | [], _ => []
  | (j, v) :: m, k => if j = k then sdrop m k else (j, v) :: sdrop m k

/-- Put `v` at key `k`, keeping the keys strictly rising. -/
def sput {α : Type} : Sparse α → Nat → α → Sparse α
  | [], k, v => [(k, v)]
  | (j, w) :: m, k, v =>
    if j = k then (k, v) :: m
    else if k < j then (k, v) :: (j, w) :: m
    else (j, w) :: sput m k v

/-- Write `v` at key `k`: the default value removes the entry, so that equal stores are equal data. -/
def sset {α : Type} [DecidableEq α] (dflt : α) (m : Sparse α) (k : Nat) (v : α) : Sparse α :=
  if v = dflt then sdrop m k else sput m k v

/-- Every key of the store is at least `lo`, and the keys rise strictly from there. -/
def srising {α : Type} : Nat → Sparse α → Bool
  | _, [] => true
  | lo, (j, _) :: m => decide (lo ≤ j) && srising (j + 1) m

/-- The canonical form of a sparse store with default `dflt`. -/
def swf {α : Type} [DecidableEq α] (dflt : α) (m : Sparse α) : Bool :=
  srising 0 m && m.all (fun e => decide (e.2 ≠ dflt))

/-- Bit `t` of a mask. -/
def bitOf (m : Mask) (t : Nat) : Bool := m.getLsbD t

/-- The mask with exactly bit `t`. -/
def bitMask (t : Nat) : Mask := BitVec.ofNat 64 (2 ^ t)

/-- The mask of the threads below `w` (R10). -/
def lowMask (w : Nat) : Mask := BitVec.ofNat 64 (2 ^ w - 1)

/-- Set or clear bit `t`. -/
def setBit (m : Mask) (t : Nat) (b : Bool) : Mask :=
  if b then m ||| bitMask t else m &&& ~~~ bitMask t

/-- The threads of a mask below `w`, ascending (R6). -/
def threadsOf (w : Nat) (m : Mask) : List Nat := (List.range w).filter (fun t => bitOf m t)

end Sys2Proof
end

