-- ==== Sys2Proof/Config.lean ====
section
/-! DEFINITION. What one device fixes and the free values: constants without a body, of which nothing can be proved. -/

namespace Sys2Proof.Config

/-- A free 32-bit value for each tick of `State.freeCtr`: the value a register or buffer element takes where the spec
calls it unpredictable (R130, R165, R227) or states none. Log entry 6. -/
opaque freeWord : Nat → Word
/-- A free byte for each tick, for content the spec leaves to the device. Log entry 6. -/
opaque freeByte : Nat → Byte
/-- The choice an approximate special function makes among the results its bound allows (R126, R127), from the
function number and the operand. Log entry 7. -/
opaque sfuPick : Nat → Word → Nat
/-- AES-256 on one 128-bit block (R373), uninterpreted. Log entry 8. -/
opaque aes256 : BitVec 256 → BitVec 128 → BitVec 128
/-- Multiplication in GF(2^64) (R373): the spec names no reduction polynomial. Log entry 8. -/
opaque gfMul : BitVec 64 → BitVec 64 → BitVec 64
/-- Keys the device's random generator draws (R372), by draw number. Log entry 8. -/
opaque drawKey : Nat → BitVec 256
/-- SHAKE256 of a byte string, 256 bits taken (R380, R381), uninterpreted. Log entry 8. -/
opaque shake256 : List Byte → BitVec 256
/-- A Falcon-1024 signature of a byte string by the device identity (R380), uninterpreted. Log entry 8. -/
opaque falconSign : List Byte → List Byte
/-- Falcon-1024 verification of an image against the vendor key (R382), uninterpreted. Log entry 8. -/
opaque falconVerify : (body signature : List Byte) → Bool
/-- The public identity key of the device (R380), uninterpreted. Log entry 8. -/
opaque identityKey : List Byte
/-- The ML-KEM-1024 encapsulation key the device keeps (R380), by draw number. Log entry 8. -/
opaque kemKey : Nat → List Byte
/-- ML-KEM-1024 encapsulation under a key: the 1,568-byte ciphertext and the shared secret (R381). Log entry 8. -/
opaque kemEncap : List Byte → Nat → List Byte × BitVec 256
/-- The secret the device's ML-KEM-1024 decapsulation recovers from a ciphertext (R381). Log entry 8. -/
opaque kemDecap : List Byte → BitVec 256
/-- Wrapping of a byte string under a 256-bit key (R381). Log entry 8. -/
opaque wrapKey : BitVec 256 → List Byte → List Byte
/-- How the fixed binary tree of a collective splits `n` ranks (R366): 1 and this, modulo n − 1, are in the left half. Log entry 6. -/
opaque sumSplit : Nat → Nat

end Sys2Proof.Config
end

