-- ==== Sys2Proof/Syntax.lean ====
section
/-! DEFINITION. The instructions: one constructor per row of spec/opcode_table.json, 259 encoded words and 96 steps of the
lane, the homes, the engines, the scheduler, the firmware, the host and the fabric that have no word of their own. -/

namespace Sys2Proof

/-- An operand register (R73): v0 to v95, relative to the window base, or s0 to s30. -/
inductive Reg where
  | v (n : Fin 96)
  | s (n : Fin 31)
  deriving DecidableEq, Repr

/-- A source operand (R73): a register or a 32-bit literal word. -/
inductive Src where
  | reg (r : Reg)
  | lit (w : Word)
  deriving DecidableEq, Repr

/-- A mask register m0 to m7. -/
abbrev MaskReg := Fin 8

/-- The offset of formats LD, ST and PF (R163): a signed count of access units, or a literal byte offset. -/
inductive Off where
  | units (n : BitVec 7)
  | bytes (w : Word)
  deriving DecidableEq, Repr

/-- A tile slot operand (R208): a slot number or a uniform register that holds it. -/
inductive SlotRef where
  | num (n : Fin 64)
  | s (n : Fin 31)
  deriving DecidableEq, Repr

/-- An envelope slot operand (R236). -/
inductive EnvRef where
  | num (n : Fin 16)
  | s (n : Fin 31)
  deriving DecidableEq, Repr

/-- The control registers of R257. -/
inductive Csr where
  | fpctl | fpsum | envtol | envctl | mxctl | scopepol | tvec | tcause | tepc | tmprev | tmfault | taddr | tinfo
  | cyc | pinfo | injaddr | injarm
  deriving DecidableEq, Repr

/-- The prefix of R78 without its fourth operand, which stands in the two instructions that have one. In class 3 `rnd`
is the memory order and `rep` the scope (R79). -/
structure Prefix where
  give : Bool
  mask : MaskReg
  inv : Bool
  zero : Bool
  rnd : BitVec 3
  rep : BitVec 3
  deriving DecidableEq, Repr

/-- What every encoded word carries beside its operands: the chain bit C, the give-way bit Y and the prefix (R72, R78). -/
structure Mods where
  chain : Bool
  give : Bool
  pre : Option Prefix
  deriving DecidableEq, Repr

/-- Who owns a 2 MiB block of physical memory (R371): nobody, a key slot, or a window. -/
inductive Owner where
  | free
  | key (n : Nat)
  | window (w : Nat)
  deriving DecidableEq, Repr

/-- The fields of a `win.open` command (R377); `tl` is the bound timeline, a core and a timeline number. -/
structure WinRequest where
  owner : Nat
  guest : Nat
  base : Nat
  len : Nat
  write : Bool
  tl : Option (Nat × Nat)
  deriving DecidableEq, Repr

/-- A firmware image given to the recovery mailbox (R382). -/
structure FwImage where
  body : List Byte
  signature : List Byte
  version : Nat
  deriving DecidableEq, Repr

/-- An attestation report (R380). -/
structure Report where
  nonce : BitVec 256
  measurement : BitVec 256
  descriptor : DWord
  windows : List Nat
  kemKey : List Byte
  identity : List Byte
  signature : List Byte
  deriving DecidableEq, Repr

/-- The Passport of a migration (R381). -/
structure Passport where
  stream : Nat
  destination : BitVec 256
  quads : Nat
  colours : Nat
  pool : Nat
  tag : BitVec 256
  deriving DecidableEq, Repr

/-- One constructor per row of the table. The operands stand in the order D, A, B, fourth operand. -/
inductive Instr where
  -- class 0: integer and address
  | add (m : Mods) (d a : Reg) (b : Src)
  | sub (m : Mods) (d a : Reg) (b : Src)
  | addi (m : Mods) (d a : Reg) (b : BitVec 7)
  | mul (m : Mods) (d a : Reg) (b : Src)
  | mulhI (m : Mods) (d a : Reg) (b : Src)
  | mulhN (m : Mods) (d a : Reg) (b : Src)
  | mad (m : Mods) (d a : Reg) (b : Src)
  | minI (m : Mods) (d a : Reg) (b : Src)
  | maxI (m : Mods) (d a : Reg) (b : Src)
  | minN (m : Mods) (d a : Reg) (b : Src)
  | maxN (m : Mods) (d a : Reg) (b : Src)
  | abs (m : Mods) (d a : Reg)
  | neg (m : Mods) (d a : Reg)
  | and (m : Mods) (d a : Reg) (b : Src)
  | or (m : Mods) (d a : Reg) (b : Src)
  | xor (m : Mods) (d a : Reg) (b : Src)
  | andn (m : Mods) (d a : Reg) (b : Src)
  | not (m : Mods) (d a : Reg)
  | shl (m : Mods) (d a : Reg) (b : Src)
  | shr (m : Mods) (d a : Reg) (b : Src)
  | sar (m : Mods) (d a : Reg) (b : Src)
  | rot (m : Mods) (d a : Reg) (b : Src)
  | shli (m : Mods) (d a : Reg) (b : BitVec 7)
  | shri (m : Mods) (d a : Reg) (b : BitVec 7)
  | sari (m : Mods) (d a : Reg) (b : BitVec 7)
  | clz (m : Mods) (d a : Reg)
  | popc (m : Mods) (d a : Reg)
  | brev (m : Mods) (d a : Reg)
  | bfeI (m : Mods) (d a : Reg) (b : Src)
  | bfeN (m : Mods) (d a : Reg) (b : Src)
  | bfi (m : Mods) (d a : Reg) (b : Src)
  | sel (m : Mods) (d a : Reg) (b : Src) (k : MaskReg)
  | cmpEq (m : Mods) (d : MaskReg) (a : Reg) (b : Src)
  | cmpNe (m : Mods) (d : MaskReg) (a : Reg) (b : Src)
  | cmpLtI (m : Mods) (d : MaskReg) (a : Reg) (b : Src)
  | cmpLeI (m : Mods) (d : MaskReg) (a : Reg) (b : Src)
  | cmpLtN (m : Mods) (d : MaskReg) (a : Reg) (b : Src)
  | cmpLeN (m : Mods) (d : MaskReg) (a : Reg) (b : Src)
  | cmpiEq (m : Mods) (d : MaskReg) (a : Reg) (b : BitVec 7)
  | cmpiLtI (m : Mods) (d : MaskReg) (a : Reg) (b : BitVec 7)
  | cmpiLtN (m : Mods) (d : MaskReg) (a : Reg) (b : BitVec 7)
  | mov (m : Mods) (d a : Reg)
  | movi (m : Mods) (d : Reg) (imm : BitVec 14)
  | leaB (m : Mods) (d a : Reg) (b : Src)
  | leaH (m : Mods) (d a : Reg) (b : Src)
  | leaW (m : Mods) (d a : Reg) (b : Src)
  | leaD (m : Mods) (d a : Reg) (b : Src)
  | add64 (m : Mods) (d a : Reg) (b : Src)
  | sub64 (m : Mods) (d a : Reg) (b : Src)
  | mulW (m : Mods) (d a : Reg) (b : Src)
  | mulWn (m : Mods) (d a : Reg) (b : Src)
  | divI (m : Mods) (d a : Reg) (b : Src)
  | divN (m : Mods) (d a : Reg) (b : Src)
  | remI (m : Mods) (d a : Reg) (b : Src)
  | remN (m : Mods) (d a : Reg) (b : Src)
  | adds (m : Mods) (d a : Reg) (b : Src)
  | subs (m : Mods) (d a : Reg) (b : Src)
  | dot4Ii (m : Mods) (d a : Reg) (b : Src)
  | dot4Ni (m : Mods) (d a : Reg) (b : Src)
  | sad (m : Mods) (d a : Reg) (b : Src)
  -- class 1: floating
  | fadd (m : Mods) (d a : Reg) (b : Src)
  | fsub (m : Mods) (d a : Reg) (b : Src)
  | fmul (m : Mods) (d a : Reg) (b : Src)
  | fma (m : Mods) (d a : Reg) (b : Src)
  | fmin (m : Mods) (d a : Reg) (b : Src)
  | fmax (m : Mods) (d a : Reg) (b : Src)
  | fabs (m : Mods) (d a : Reg)
  | fneg (m : Mods) (d a : Reg)
  | fcmpEq (m : Mods) (d : MaskReg) (a : Reg) (b : Src)
  | fcmpLt (m : Mods) (d : MaskReg) (a : Reg) (b : Src)
  | fcmpLe (m : Mods) (d : MaskReg) (a : Reg) (b : Src)
  | fcmpUn (m : Mods) (d : MaskReg) (a : Reg) (b : Src)
  | frnd (m : Mods) (d a : Reg)
  | fclass (m : Mods) (d a : Reg)
  | fscale (m : Mods) (d a : Reg) (b : Src)
  | fcopysign (m : Mods) (d a : Reg) (b : Src)
  | hadd2Bf (m : Mods) (d a : Reg) (b : Src)
  | hadd2Hf (m : Mods) (d a : Reg) (b : Src)
  | hmul2Bf (m : Mods) (d a : Reg) (b : Src)
  | hmul2Hf (m : Mods) (d a : Reg) (b : Src)
  | hfma2Bf (m : Mods) (d a : Reg) (b : Src)
  | hfma2Hf (m : Mods) (d a : Reg) (b : Src)
  | hmin2Bf (m : Mods) (d a : Reg) (b : Src)
  | hmax2Bf (m : Mods) (d a : Reg) (b : Src)
  | hdot2Bf (m : Mods) (d a : Reg) (b : Src)
  | hdot2Hf (m : Mods) (d a : Reg) (b : Src)
  | f8dot4E4 (m : Mods) (d a : Reg) (b : Src)
  | f8dot4E5 (m : Mods) (d a : Reg) (b : Src)
  | fminP (m : Mods) (d a : Reg) (b : Src)
  | fmaxP (m : Mods) (d a : Reg) (b : Src)
  -- class 2: special, conversion, permutation and masks
  | rcp (m : Mods) (d a : Reg)
  | rsq (m : Mods) (d a : Reg)
  | sqrt (m : Mods) (d a : Reg)
  | ex2 (m : Mods) (d a : Reg)
  | lg2 (m : Mods) (d a : Reg)
  | sinT (m : Mods) (d a : Reg)
  | cosT (m : Mods) (d a : Reg)
  | tanh (m : Mods) (d a : Reg)
  | sigm (m : Mods) (d a : Reg)
  | fdiv (m : Mods) (d a : Reg) (b : Src)
  | cvtFI (m : Mods) (d a : Reg)
  | cvtFN (m : Mods) (d a : Reg)
  | cvtIF (m : Mods) (d a : Reg)
  | cvtNF (m : Mods) (d a : Reg)
  | cvt2Bf (m : Mods) (d a : Reg) (b : Src)
  | cvt2Hf (m : Mods) (d a : Reg) (b : Src)
  | cvtFBfl (m : Mods) (d a : Reg)
  | cvtFBfh (m : Mods) (d a : Reg)
  | cvtFHfl (m : Mods) (d a : Reg)
  | cvtFHfh (m : Mods) (d a : Reg)
  | cvtE4 (m : Mods) (d a : Reg)
  | cvtE5 (m : Mods) (d a : Reg)
  | cvtFE4 (m : Mods) (d a : Reg)
  | cvtFE5 (m : Mods) (d a : Reg)
  | swp (m : Mods) (d a : Reg) (b : Src)
  | shfl (m : Mods) (d a : Reg) (b : Src)
  | rotw (m : Mods) (d a : Reg) (b : Src)
  | bcast (m : Mods) (d a : Reg) (b : Src)
  | voteAll (m : Mods) (d a : MaskReg)
  | voteAny (m : Mods) (d a : MaskReg)
  | ballot (m : Mods) (d : Reg) (a : MaskReg)
  | cmpr (m : Mods) (d a : Reg)
  | expd (m : Mods) (d a : Reg)
  | scanAdd (m : Mods) (d a : Reg)
  | scanFadd (m : Mods) (d a : Reg)
  | redAdd (m : Mods) (d a : Reg)
  | redFadd (m : Mods) (d a : Reg)
  | redMinI (m : Mods) (d a : Reg)
  | redMaxI (m : Mods) (d a : Reg)
  | redFmax (m : Mods) (d a : Reg)
  | redFmin (m : Mods) (d a : Reg)
  | ixr (m : Mods) (d a : Reg)
  | ixw (m : Mods) (a : Reg) (b : Src)
  | win (m : Mods) (b : Src)
  | tid (m : Mods) (d : Reg) (b : BitVec 7)
  | mand (m : Mods) (d a b : MaskReg)
  | mor (m : Mods) (d a b : MaskReg)
  | mxor (m : Mods) (d a b : MaskReg)
  | mnot (m : Mods) (d a : MaskReg)
  | m2v (m : Mods) (d : Reg) (a : MaskReg)
  | v2m (m : Mods) (d : MaskReg) (a : Reg)
  -- class 3: memory
  | ld8 (m : Mods) (d a : Reg) (b : Off)
  | ld8s (m : Mods) (d a : Reg) (b : Off)
  | ld16 (m : Mods) (d a : Reg) (b : Off)
  | ld16s (m : Mods) (d a : Reg) (b : Off)
  | ld32 (m : Mods) (d a : Reg) (b : Off)
  | ld64 (m : Mods) (d a : Reg) (b : Off)
  | ld128 (m : Mods) (d a : Reg) (b : Off)
  | st8 (m : Mods) (d a : Reg) (b : Off)
  | st16 (m : Mods) (d a : Reg) (b : Off)
  | st32 (m : Mods) (d a : Reg) (b : Off)
  | st64 (m : Mods) (d a : Reg) (b : Off)
  | st128 (m : Mods) (d a : Reg) (b : Off)
  | ldU (m : Mods) (d a : Reg) (b : Off)
  | stU (m : Mods) (d a : Reg) (b : Off)
  | ldRc (m : Mods) (d a : Reg) (b : Off)
  | pf (m : Mods) (a : Reg) (b : Off)
  | atomAdd (m : Mods) (d a : Reg) (b : Src)
  | atomMinI (m : Mods) (d a : Reg) (b : Src)
  | atomMaxI (m : Mods) (d a : Reg) (b : Src)
  | atomMinN (m : Mods) (d a : Reg) (b : Src)
  | atomMaxN (m : Mods) (d a : Reg) (b : Src)
  | atomAnd (m : Mods) (d a : Reg) (b : Src)
  | atomOr (m : Mods) (d a : Reg) (b : Src)
  | atomXor (m : Mods) (d a : Reg) (b : Src)
  | atomXch (m : Mods) (d a : Reg) (b : Src)
  | atomCas (m : Mods) (d a : Reg) (b c : Src)
  | atomFadd (m : Mods) (d a : Reg) (b : Src)
  | atomAdd64 (m : Mods) (d a : Reg) (b : Src)
  | redmAdd (m : Mods) (a : Reg) (b : Src)
  | redmFadd (m : Mods) (a : Reg) (b : Src)
  | redmMax (m : Mods) (a : Reg) (b : Src)
  | fence (m : Mods)
  | nap (m : Mods) (a : Reg) (b : Src)
  | mbxLd (m : Mods) (d a : Reg) (b : Off)
  | mbxSt (m : Mods) (d a : Reg) (b : Off)
  | mbxTst (m : Mods) (d a : Reg) (b : Off)
  -- class 4: control and synchronisation
  | br (m : Mods) (off : BitVec 21)
  | brC (m : Mods) (k : MaskReg) (off : BitVec 18)
  | brAny (m : Mods) (k : MaskReg) (off : BitVec 18)
  | brAll (m : Mods) (k : MaskReg) (off : BitVec 18)
  | brx (m : Mods) (d : BitVec 7) (a b : Reg)
  | call (m : Mods) (off : BitVec 21)
  | callX (m : Mods) (a : Reg)
  | ret (m : Mods)
  | div (m : Mods) (off : BitVec 18)
  | join (m : Mods)
  | exit (m : Mods)
  | barArr (m : Mods) (scope : BitVec 3) (num : BitVec 4)
  | barArrRlx (m : Mods) (scope : BitVec 3) (num : BitVec 4)
  | barWait (m : Mods) (scope : BitVec 3) (num : BitVec 4)
  | barSync (m : Mods) (scope : BitVec 3) (num : BitVec 4)
  | syncP (m : Mods) (a : Reg)
  | idem (m : Mods)
  | nop (m : Mods)
  | loop (m : Mods) (c : BitVec 3) (off : BitVec 18)
  -- class 5: agents
  | belPut (m : Mods) (d a : Reg) (b : Src)
  | belRet (m : Mods) (d a : Reg)
  | belGet (m : Mods) (d a : Reg) (b : Src)
  | belFacts (m : Mods) (d a : Reg)
  | belTst (m : Mods) (d : MaskReg) (a : Reg) (b : Src)
  | goalAdd (m : Mods) (a b : Reg)
  | goalDone (m : Mods) (d a : Reg) (b : Src)
  | goalFail (m : Mods) (a : Reg)
  | intAdopt (m : Mods) (d a b : Reg)
  | intDrop (m : Mods) (a : Reg)
  | intSusp (m : Mods) (d a b : Reg)
  | intResm (m : Mods) (d a : Reg) (b : Src)
  | planSub (m : Mods) (d a b : Reg)
  | planRet (m : Mods) (a : Reg) (b : Src)
  | step (m : Mods) (a : Reg) (b : Src)
  | intInfo (m : Mods) (d a : Reg)
  | agtNew (m : Mods) (d : Reg) (b : Src)
  | agtFree (m : Mods) (a : Reg)
  -- class 6: engines and the envelope
  | tileClaim (m : Mods) (d : Reg) (b : Src)
  | tileRel (m : Mods) (a : SlotRef) (b : Src)
  | tileSt (m : Mods) (d : Reg) (a : SlotRef)
  | cpIn (m : Mods) (d a : Reg) (b : Src)
  | cpOut (m : Mods) (d a : Reg) (b : Src)
  | cpMem (m : Mods) (d a : Reg) (b : Src)
  | cpInMx (m : Mods) (d a : Reg) (b : Src)
  | mxMma (m : Mods) (d : Fin 2) (a b : SlotRef)
  | mxSm (m : Mods) (d : Fin 2) (a : SlotRef) (b : Src)
  | mxRd (m : Mods) (d : Reg) (a : Fin 2) (b : Src)
  | mxClr (m : Mods) (d : Fin 2)
  | mxCtlClaim (m : Mods) (d : Fin 2)
  | mxCtlBind (m : Mods) (d : Fin 2)
  | mxCtlRelease (m : Mods) (d : Fin 2)
  | tlWait (m : Mods) (a : Fin 16) (b : Src)
  | tlRd (m : Mods) (d : Reg) (a : Fin 16) (b : Fin 2)
  | tlInc (m : Mods) (d : Reg) (a : Fin 16) (b : Src)
  | bankCmd (m : Mods) (d a : Reg) (b : Src)
  | launch (m : Mods) (d : MaskReg) (a : Reg)
  | recEmit (m : Mods) (d a : Reg) (b : Src)
  | logApp (m : Mods) (d a b : Reg)
  | envClaim (m : Mods) (d : Reg) (b : Src)
  | envRel (m : Mods) (a : EnvRef) (b : Src)
  | envClr (m : Mods) (d : EnvRef) (b : Reg)
  | envIns (m : Mods) (d : EnvRef) (a : Reg) (b : Src)
  | envSum (m : Mods) (d a b : EnvRef)
  | envMax (m : Mods) (d a b : EnvRef)
  | envIcv (m : Mods) (d a b : EnvRef)
  | envConj (m : Mods) (d a : EnvRef) (b : Reg)
  | envSimp (m : Mods) (d a : EnvRef)
  | envEval (m : Mods) (d : Reg) (a : EnvRef) (b : Src)
  | envSlope (m : Mods) (d : Reg) (a : EnvRef) (b : Src)
  | envRd (m : Mods) (d : Reg) (a : EnvRef) (b : Src)
  | envCnt (m : Mods) (d : Reg) (a : EnvRef)
  | envLd (m : Mods) (d : EnvRef) (a : Reg)
  | envSt (m : Mods) (d : EnvRef) (a : Reg)
  -- class 7: system
  | csrRd (m : Mods) (d : Reg) (a : Csr)
  | csrWr (m : Mods) (a : Csr) (b : Src)
  | csrSet (m : Mods) (d : Reg) (a : Csr) (b : Src)
  | csrClr (m : Mods) (d : Reg) (a : Csr) (b : Src)
  | trap (m : Mods) (b : Src)
  | tret (m : Mods)
  | brk (m : Mods) (b : BitVec 7)
  | clk (m : Mods) (d : Reg)
  | fenceWin (m : Mods)
  -- the steps without a word of their own
  | specialFunctionResult (op : Nat)
  | mailboxStorePerform (req : Nat)
  | homeAcceptance (req : Nat)
  | loadResultWrite (req : Nat)
  | writeAcknowledged (req : Nat)
  | gridEndFlush (grid : Nat)
  | barrierArrivalCount (arr : Nat)
  | stewardReply (req : Nat)
  | exitEndRequest (req : Nat)
  | planSelection (quad : Nat)
  | activationEntry (quad : Nat)
  | coachTimerDeparture (quad : Nat) (node : Nat)
  | dieFifoPlacement (die : Nat)
  | porterChunk (core : Nat) (ctx : Nat)
  | followOnIssue (core : Nat) (x : Nat)
  | matrixCommandExecute (core : Nat) (x : Nat)
  | bankListStart (engine : Nat)
  | bend (engine : Nat)
  | bvec (engine : Nat)
  | bmv (engine : Nat)
  | bclr (engine : Nat)
  | bout (engine : Nat)
  | bsync (engine : Nat)
  | deferredLaunchEnqueue (fe : Nat)
  | envelopeExecute (core : Nat)
  | clauseEntry (party : Nat)
  | lanePick (lane : Nat)
  | trapEntry (party : Nat)
  | napTimeout (party : Nat)
  | periodBoundary
  | tokenReturn (core : Nat)
  | watchdogExpiry (party : Nat)
  | gridPlacement (fe : Nat)
  | crewAdmission (crew : Nat)
  | restoration (crew : Nat)
  | preemption (fe : Nat)
  | lodgingRestore (fe : Nat)
  | caravanMemberLoss (caravan : Nat)
  | functionLevelReset (fe : Nat)
  | pfReset
  | warmReset
  | coldReset
  | firmwareBoot
  | recoveryImage (image : FwImage)
  | fullServiceTransition
  | innkeeperMismatch
  | doorbell (fe : Nat) (tail : DWord)
  | statusResume (fe : Nat)
  | powerCap (watts : BitVec 16)
  | barRegisterWrite (fe : Nat) (off : Nat) (value : DWord)
  | packetStart (fe : Nat)
  | packetWait (fe : Nat)
  | packetSignal (pkt : Nat)
  | msixUnmask (fe : Nat) (vector : Nat)
  | nopPacket (fe : Nat)
  | grid (fe : Nat)
  | copy (fe : Nat)
  | ib (fe : Nat)
  | loopPacket (fe : Nat)
  | ffence (fe : Nat)
  | inval (fe : Nat)
  | invalidationArrival (inv : Nat) (quad : Nat)
  | invalidationComplete (inv : Nat)
  | pageWalk (quad : Nat) (fe : Nat) (va : DWord)
  | coll (fe : Nat)
  | collectiveComplete (coll : Nat)
  | msg (fe : Nat)
  | messageReceive (message : Nat)
  | regionCreate (fe : Nat)
  | regionDestroy (fe : Nat)
  | agents (fe : Nat)
  | libraryInstall (fe : Nat) (base : DWord) (prio : BitVec 4)
  | lodgingDescriptorWrite (fe : Nat) (desc : DWord)
  | blockAssign (block : Nat) (owner : Owner)
  | winOpen (req : WinRequest)
  | winClose (window : Nat)
  | cellarPin (fe : Nat) (base : Nat) (len : Nat)
  | cellarUnpin (fe : Nat) (base : Nat) (len : Nat)
  | attestationReport (fe : Nat) (nonce : BitVec 256)
  | migration (fe : Nat) (report : Report)
  | passportAccept (fe : Nat) (passport : Passport)
  | caravanSliceStart (caravan : Nat)
  | lineWriteMemory (line : Nat)
  | lineReadMemory (line : Nat)
  | lineWriteback (line : Nat)
  | patrolScrub (line : Nat)
  | regionTagLoss (slice : Nat) (set : Nat)
  | fabricTimeout (req : Nat)
  | portFailure (port : Nat)
  | budgetPeriod
  | powerSample (watts : Nat) (average : Nat)
  | blockedOnDependence (fe : Nat)
  | caravanSliceEnd (caravan : Nat)
  | debugHalt (party : Nat)
  | restoreAcknowledged (fe : Nat)
  | failedFlit (port : Nat)
  deriving DecidableEq, Repr

end Sys2Proof
end

