-- ==== Sys2Proof/Decode.lean ====
section
/-! DEFINITION. The decoder and the encoder (04_encoding.md, 05_opcode_map.md): the fields of a word, the operand rules of
each function, the decode checks of R83 with their causes, the packet as chain groups, and the words of an instruction. -/

namespace Sys2Proof

/-! ### Fields of a word -/

/-- An instruction word taken apart (R72) with its prefix (R78), the prefix's fourth-operand field and its literal word. -/
structure Raw where
  chain : Bool
  give : Bool
  cls : BitVec 3
  fn : BitVec 6
  low : BitVec 21
  lit : Option Word
  pre : Option Prefix
  pc : BitVec 7
  deriving DecidableEq, Repr

/-- The D field, bits [20:14]. -/
def Raw.d (x : Raw) : BitVec 7 := x.low.extractLsb' 14 7
/-- The A field, bits [13:7]. -/
def Raw.a (x : Raw) : BitVec 7 := x.low.extractLsb' 7 7
/-- The B field, bits [6:0]. -/
def Raw.b (x : Raw) : BitVec 7 := x.low.extractLsb' 0 7
/-- Bits [20:18]: the mask, counter or scope field of the branch forms (R74). -/
def Raw.top3 (x : Raw) : BitVec 3 := x.low.extractLsb' 18 3
/-- The chain, give-way and prefix part of an instruction. -/
def Raw.mods (x : Raw) : Mods := ⟨x.chain, x.give, x.pre⟩

/-- The low 21 bits of a word from its D, A and B fields. -/
def pack (d a b : BitVec 7) : BitVec 21 := d ++ a ++ b

/-- The fields of an instruction without literal and fourth operand. -/
def mkRaw (m : Mods) (cls : BitVec 3) (fn : BitVec 6) (low : BitVec 21) : Raw :=
  ⟨m.chain, m.give, cls, fn, low, none, m.pre, 0⟩

/-- The word of the fields (R72). -/
def Raw.word (x : Raw) : Word :=
  (BitVec.ofBool x.chain ++ BitVec.ofBool x.give ++ x.cls ++ x.fn ++ x.low : BitVec (1 + 1 + 3 + 6 + 21))

/-- The word of a prefix with fourth-operand field `c` (R78). -/
def Prefix.word (p : Prefix) (c : BitVec 7) : Word :=
  (BitVec.ofBool true ++ BitVec.ofBool p.give ++ (7 : BitVec 3) ++ (0x3F : BitVec 6) ++ BitVec.ofNat 3 p.mask.val ++
    BitVec.ofBool p.inv ++ BitVec.ofBool p.zero ++ p.rnd ++ p.rep ++ (0 : BitVec 3) ++ c :
    BitVec (1 + 1 + 3 + 6 + 3 + 1 + 1 + 3 + 3 + 3 + 7))

/-! ### Operand fields (R73, R208, R236, R257) -/

/-- A register field: v0 to v95 at 0x00, s0 to s30 at 0x60. -/
def regOf (f : BitVec 7) : Option Reg :=
  if h : f.toNat < 96 then some (.v ⟨f.toNat, h⟩)
  else if h : f.toNat - 96 < 31 then some (.s ⟨f.toNat - 96, h⟩) else none

/-- The field of a register. -/
def Reg.code : Reg → BitVec 7
  | .v n => BitVec.ofNat 7 n.val
  | .s n => BitVec.ofNat 7 (96 + n.val)

/-- A source field: 0x7F is the literal word of the packet. -/
def srcOf (lit : Option Word) (f : BitVec 7) : Option Src :=
  if f = 0x7F then lit.map .lit else (regOf f).map .reg

/-- The field of a source. -/
def Src.code : Src → BitVec 7
  | .reg r => r.code
  | .lit _ => 0x7F

/-- The literal word of a source. -/
def Src.word : Src → Option Word
  | .reg _ => none
  | .lit w => some w

/-- An offset field (R163). -/
def offOf (lit : Option Word) (f : BitVec 7) : Option Off :=
  if f = 0x7F then lit.map .bytes else some (.units f)

/-- The field of an offset. -/
def Off.code : Off → BitVec 7
  | .units n => n
  | .bytes _ => 0x7F

/-- The literal word of an offset. -/
def Off.word : Off → Option Word
  | .units _ => none
  | .bytes w => some w

/-- A mask field: m0 to m7, bits [6:3] zero. -/
def maskOf (f : BitVec 7) : Option MaskReg := if h : f.toNat < 8 then some ⟨f.toNat, h⟩ else none
/-- The field of a mask register. -/
def maskCode (k : MaskReg) : BitVec 7 := BitVec.ofNat 7 k.val

/-- A tile slot field: 0x00 to 0x3F a slot, 0x60 to 0x7E a uniform register. -/
def slotOf (f : BitVec 7) : Option SlotRef :=
  if h : f.toNat < 64 then some (.num ⟨f.toNat, h⟩)
  else if f.toNat < 96 then none
  else if h : f.toNat - 96 < 31 then some (.s ⟨f.toNat - 96, h⟩) else none
/-- The field of a tile slot operand. -/
def SlotRef.code : SlotRef → BitVec 7
  | .num n => BitVec.ofNat 7 n.val
  | .s n => BitVec.ofNat 7 (96 + n.val)

/-- An envelope slot field: 0x00 to 0x0F a slot, 0x60 to 0x7E a uniform register. -/
def envOf (f : BitVec 7) : Option EnvRef :=
  if h : f.toNat < 16 then some (.num ⟨f.toNat, h⟩)
  else if f.toNat < 96 then none
  else if h : f.toNat - 96 < 31 then some (.s ⟨f.toNat - 96, h⟩) else none
/-- The field of an envelope slot operand. -/
def EnvRef.code : EnvRef → BitVec 7
  | .num n => BitVec.ofNat 7 n.val
  | .s n => BitVec.ofNat 7 (96 + n.val)

/-- A field of 0 or 1: a matrix context, or the selector of `tl.rd`. -/
def fin2Of (f : BitVec 7) : Option (Fin 2) := if h : f.toNat < 2 then some ⟨f.toNat, h⟩ else none
/-- The field of 0 or 1. -/
def fin2Code (n : Fin 2) : BitVec 7 := BitVec.ofNat 7 n.val
/-- A timeline field. -/
def fin16Of (f : BitVec 7) : Option (Fin 16) := if h : f.toNat < 16 then some ⟨f.toNat, h⟩ else none
/-- The field of a timeline. -/
def fin16Code (n : Fin 16) : BitVec 7 := BitVec.ofNat 7 n.val

/-- The register codes of R257. -/
def Csr.code : Csr → BitVec 7
  | .fpctl => 0x00 | .fpsum => 0x01 | .envtol => 0x02 | .envctl => 0x03 | .mxctl => 0x04 | .scopepol => 0x05
  | .tvec => 0x08 | .tcause => 0x09 | .tepc => 0x0A | .tmprev => 0x0B | .tmfault => 0x0C | .taddr => 0x0D
  | .tinfo => 0x0E | .cyc => 0x10 | .pinfo => 0x11 | .injaddr => 0x18 | .injarm => 0x19

/-- All control registers. -/
def Csr.all : List Csr :=
  [.fpctl, .fpsum, .envtol, .envctl, .mxctl, .scopepol, .tvec, .tcause, .tepc, .tmprev, .tmfault, .taddr, .tinfo,
   .cyc, .pinfo, .injaddr, .injarm]

/-- The register of a code; every other code is refused. -/
def csrOf (f : BitVec 7) : Option Csr := Csr.all.find? (fun c => c.code = f)

/-- Whether a control register is 32 bits wide (R257). -/
def Csr.narrow : Csr → Bool
  | .fpctl | .fpsum | .envtol | .envctl | .mxctl | .scopepol | .tcause | .injarm => true
  | .tvec | .tepc | .tmprev | .tmfault | .taddr | .tinfo | .cyc | .pinfo | .injaddr => false

/-! ### Operand rules -/

/-- What a field of an entry holds. `zeroL` is a zero field of class 7, where 0x7F counts as a literal (R270). -/
inductive Opnd where
  | zero | zeroL | reg | pair | vec | vpair | run4 | run8 | uni | unip | src | srcPair | srcUni
  | mask | maskD | imm | shift | tidSel | bound | upto (n : Nat) | slot | env | ctx | tl | tlSoft | csr | csrD | off
  deriving DecidableEq, Repr

/-- How a word's low 21 bits are laid out (R74, R84). -/
inductive Layout where
  | dab (d a b : Opnd)
  | mv | bj | bc | bd | bl | bar | none
  deriving DecidableEq, Repr

/-- What the prefix's C field holds for a base (R80). -/
inductive CUse where
  | zero | mask | value
  deriving DecidableEq, Repr

/-- Which order and scope codes a class-3 function accepts (R164). -/
inductive OrdUse where
  | rlx | scope | all
  deriving DecidableEq, Repr

/-- The flag kind of R70. -/
inductive FlagKind where
  | none | a | b
  deriving DecidableEq, Repr

/-- The operand rules of one function. `uni`: a uniform D requires uniform sources (R98); `uniB`: it requires a uniform B
(R139); `rep`: a repeat above 1 is accepted (R80, R99, R147); `pol`: the zero policy is accepted; `pfx`: a prefix is
accepted at all; `writes`: D is a destination. -/
structure Row where
  layout : Layout
  uni : Bool := false
  uniB : Bool := false
  rep : Bool := false
  pol : Bool := false
  cf : CUse := .zero
  ord : OrdUse := .rlx
  flag : FlagKind := .none
  pfx : Bool := true
  writes : Bool := false
  deriving DecidableEq, Repr

/-! ### The class tables (R85 to R92) -/

/-- Operand rules shared by 54 functions. -/
def fRegRegSrc : Row := { layout := (.dab .reg .reg .src), uni := true, rep := true, pol := true, writes := true }

/-- Operand rules shared by 23 functions. -/
def fRegRegZero : Row := { layout := (.dab .reg .reg .zero), uni := true, rep := true, pol := true, writes := true }

/-- Operand rules shared by 10 functions. -/
def fRegPairSrc : Row := { layout := (.dab .reg .pair .src), uni := true, ord := .all, flag := .a, writes := true }

/-- Operand rules shared by 9 functions. -/
def fRegRegZero2 : Row := { layout := (.dab .reg .reg .zero), uni := true, rep := true, pol := true, flag := .b, writes := true }

/-- Operand rules shared by 7 functions. -/
def fRegPairOff : Row := { layout := (.dab .reg .pair .off), uni := true, pol := true, flag := .a, writes := true }

/-- Operand rules shared by 6 functions. -/
def fMaskdRegSrc : Row := { layout := (.dab .maskD .reg .src), pol := true, writes := true }

/-- Operand rules shared by 6 functions. -/
def fRegVecZero : Row := { layout := (.dab .reg .vec .zero), rep := true, pol := true, writes := true }

/-- Operand rules shared by 5 functions. -/
def fNone : Row := { layout := .none, pfx := false }

/-- Operand rules shared by 4 functions. -/
def fPairPairSrc : Row := { layout := (.dab .pair .pair .src), uni := true, pol := true, writes := true }

/-- Operand rules shared by 4 functions. -/
def fMaskdRegSrc2 : Row := { layout := (.dab .maskD .reg .src), rep := true, pol := true, writes := true }

/-- Operand rules shared by 4 functions. -/
def fVecVecZero : Row := { layout := (.dab .vec .vec .zero), rep := true, pol := true, writes := true }

/-- Operand rules shared by 4 functions. -/
def fRegPairOff2 : Row := { layout := (.dab .reg .pair .off), uni := true }

/-- Operand rules shared by 4 functions. -/
def fBar : Row := { layout := .bar, pfx := false }

/-- Operand rules shared by 3 functions. -/
def fRegRegShift : Row := { layout := (.dab .reg .reg .shift), uni := true, rep := true, pol := true, writes := true }

/-- Operand rules shared by 3 functions. -/
def fMaskdRegImm : Row := { layout := (.dab .maskD .reg .imm), pol := true, writes := true }

/-- Operand rules shared by 3 functions. -/
def fVecVecSrc : Row := { layout := (.dab .vec .vec .src), rep := true, pol := true, writes := true }

/-- Operand rules shared by 3 functions. -/
def fMaskdMaskZero : Row := { layout := (.dab .maskD .mask .zero), pol := true, writes := true }

/-- Operand rules shared by 3 functions. -/
def fMaskdMaskMask : Row := { layout := (.dab .maskD .mask .mask), pol := true, writes := true }

/-- Operand rules shared by 3 functions. -/
def fZeroPairSrc : Row := { layout := (.dab .zero .pair .src), ord := .all }

/-- Operand rules shared by 3 functions. -/
def fBc : Row := { layout := .bc, pfx := false }

/-- Operand rules shared by 3 functions. -/
def fUniUniSrcuni : Row := { layout := (.dab .uni .uni .srcUni), flag := .b, pfx := false, writes := true }

/-- Operand rules shared by 3 functions. -/
def fMxCtl : Row := { layout := (.dab .ctx .zero (.upto 2)), flag := .b, pfx := false }

/-- Operand rules shared by 3 functions. -/
def fEnvEnvEnv : Row := { layout := (.dab .env .env .env), flag := .b, pfx := false }

/-- Operand rules shared by 2 functions. -/
def fPairPairSrcpair : Row := { layout := (.dab .pair .pair .srcPair), uni := true, pol := true, writes := true }

/-- Operand rules shared by 2 functions. -/
def fPairRegSrc : Row := { layout := (.dab .pair .reg .src), uni := true, pol := true, writes := true }

/-- Operand rules shared by 2 functions. -/
def fBj : Row := { layout := .bj, pfx := false }

/-- Operand rules shared by 2 functions. -/
def fZeroPairZero : Row := { layout := (.dab .zero .pair .zero), pfx := false }

/-- Operand rules shared by 2 functions. -/
def fZeroPairZero2 : Row := { layout := (.dab .zero .pair .zero), flag := .a, pfx := false }

/-- Operand rules shared by 2 functions. -/
def fRegPairPair : Row := { layout := (.dab .reg .pair .pair), pfx := false }

/-- Operand rules shared by 2 functions. -/
def fZeroPairSrc2 : Row := { layout := (.dab .zero .pair .src), pfx := false }

/-- Operand rules shared by 2 functions. -/
def fUniZeroSrcuni : Row := { layout := (.dab .uni .zero .srcUni), flag := .b, pfx := false, writes := true }

/-- Operand rules shared by 2 functions. -/
def fUniUnipSrcuni : Row := { layout := (.dab .uni .unip .srcUni), flag := .b, pfx := false, writes := true }

/-- Operand rules shared by 2 functions. -/
def fVecEnvSrc : Row := { layout := (.dab .vec .env .src), flag := .b, pfx := false, writes := true }

/-- Operand rules shared by 2 functions. -/
def fEnvUniZero : Row := { layout := (.dab .env .uni .zero), flag := .b, pfx := false }

/-- Operand rules shared by 2 functions. -/
def fUniCsrSrcuni : Row := { layout := (.dab .uni .csr .srcUni), pfx := false, writes := true }

/-- Operand rules shared by 2 functions. -/
def fZerolZerolZero : Row := { layout := (.dab .zeroL .zeroL .zero), pfx := false }

/-- The three operations of `mx.ctl` (R219). -/
noncomputable def buildMxCtl (x : Raw) : Option Instr := do
  let d ← fin2Of x.d
  if x.a ≠ 0 then none
  else if x.b = 0 then some (.mxCtlClaim x.mods d)
  else if x.b = 1 then some (.mxCtlBind x.mods d)
  else if x.b = 2 then some (.mxCtlRelease x.mods d)
  else none

/-- Operand rules, class 0 functions 0 to 19. -/
def rows0_0 : List (Option Row) :=
  [ some fRegRegSrc,
    some fRegRegSrc,
    some { layout := (.dab .reg .reg .imm), uni := true, rep := true, pol := true, writes := true },
    some fRegRegSrc,
    some fRegRegSrc,
    some fRegRegSrc,
    some fRegRegSrc,
    some fRegRegSrc,
    some fRegRegSrc,
    some fRegRegSrc,
    some fRegRegSrc,
    some fRegRegZero,
    some fRegRegZero,
    some fRegRegSrc,
    some fRegRegSrc,
    some fRegRegSrc,
    some fRegRegSrc,
    some fRegRegZero,
    some fRegRegSrc,
    some fRegRegSrc ]

/-- Operand rules, class 0 functions 20 to 39. -/
def rows0_1 : List (Option Row) :=
  [ some fRegRegSrc,
    some fRegRegSrc,
    some fRegRegShift,
    some fRegRegShift,
    some fRegRegShift,
    some fRegRegZero,
    some fRegRegZero,
    some fRegRegZero,
    some fRegRegSrc,
    some fRegRegSrc,
    some fRegRegSrc,
    some { layout := (.dab .vec .reg .src), rep := true, pol := true, cf := .mask, writes := true },
    some fMaskdRegSrc,
    some fMaskdRegSrc,
    some fMaskdRegSrc,
    some fMaskdRegSrc,
    some fMaskdRegSrc,
    some fMaskdRegSrc,
    some fMaskdRegImm,
    some fMaskdRegImm ]

/-- Operand rules, class 0 functions 40 to 59. -/
def rows0_2 : List (Option Row) :=
  [ some fMaskdRegImm,
    some fRegRegZero,
    some { layout := .mv, uni := true, rep := true, pol := true, writes := true },
    some fPairPairSrc,
    some fPairPairSrc,
    some fPairPairSrc,
    some fPairPairSrc,
    some fPairPairSrcpair,
    some fPairPairSrcpair,
    some fPairRegSrc,
    some fPairRegSrc,
    some fRegRegSrc,
    some fRegRegSrc,
    some fRegRegSrc,
    some fRegRegSrc,
    some fRegRegSrc,
    some fRegRegSrc,
    some fRegRegSrc,
    some fRegRegSrc,
    some fRegRegSrc ]

/-- Operand rules of class 0, integer and address (R85). -/
def rows0 : List (Option Row) := rows0_0 ++ rows0_1 ++ rows0_2

/-- Builders, class 0 functions 0 to 19. -/
noncomputable def build0_0 : List (Raw → Option Instr) :=
  [ fun x => (do return .add x.mods (← regOf x.d) (← regOf x.a) (← srcOf x.lit x.b)),
    fun x => (do return .sub x.mods (← regOf x.d) (← regOf x.a) (← srcOf x.lit x.b)),
    fun x => (do return .addi x.mods (← regOf x.d) (← regOf x.a) x.b),
    fun x => (do return .mul x.mods (← regOf x.d) (← regOf x.a) (← srcOf x.lit x.b)),
    fun x => (do return .mulhI x.mods (← regOf x.d) (← regOf x.a) (← srcOf x.lit x.b)),
    fun x => (do return .mulhN x.mods (← regOf x.d) (← regOf x.a) (← srcOf x.lit x.b)),
    fun x => (do return .mad x.mods (← regOf x.d) (← regOf x.a) (← srcOf x.lit x.b)),
    fun x => (do return .minI x.mods (← regOf x.d) (← regOf x.a) (← srcOf x.lit x.b)),
    fun x => (do return .maxI x.mods (← regOf x.d) (← regOf x.a) (← srcOf x.lit x.b)),
    fun x => (do return .minN x.mods (← regOf x.d) (← regOf x.a) (← srcOf x.lit x.b)),
    fun x => (do return .maxN x.mods (← regOf x.d) (← regOf x.a) (← srcOf x.lit x.b)),
    fun x => if x.b = 0 then (do return .abs x.mods (← regOf x.d) (← regOf x.a)) else none,
    fun x => if x.b = 0 then (do return .neg x.mods (← regOf x.d) (← regOf x.a)) else none,
    fun x => (do return .and x.mods (← regOf x.d) (← regOf x.a) (← srcOf x.lit x.b)),
    fun x => (do return .or x.mods (← regOf x.d) (← regOf x.a) (← srcOf x.lit x.b)),
    fun x => (do return .xor x.mods (← regOf x.d) (← regOf x.a) (← srcOf x.lit x.b)),
    fun x => (do return .andn x.mods (← regOf x.d) (← regOf x.a) (← srcOf x.lit x.b)),
    fun x => if x.b = 0 then (do return .not x.mods (← regOf x.d) (← regOf x.a)) else none,
    fun x => (do return .shl x.mods (← regOf x.d) (← regOf x.a) (← srcOf x.lit x.b)),
    fun x => (do return .shr x.mods (← regOf x.d) (← regOf x.a) (← srcOf x.lit x.b)) ]

/-- Builders, class 0 functions 20 to 39. -/
noncomputable def build0_1 : List (Raw → Option Instr) :=
  [ fun x => (do return .sar x.mods (← regOf x.d) (← regOf x.a) (← srcOf x.lit x.b)),
    fun x => (do return .rot x.mods (← regOf x.d) (← regOf x.a) (← srcOf x.lit x.b)),
    fun x => (do return .shli x.mods (← regOf x.d) (← regOf x.a) x.b),
    fun x => (do return .shri x.mods (← regOf x.d) (← regOf x.a) x.b),
    fun x => (do return .sari x.mods (← regOf x.d) (← regOf x.a) x.b),
    fun x => if x.b = 0 then (do return .clz x.mods (← regOf x.d) (← regOf x.a)) else none,
    fun x => if x.b = 0 then (do return .popc x.mods (← regOf x.d) (← regOf x.a)) else none,
    fun x => if x.b = 0 then (do return .brev x.mods (← regOf x.d) (← regOf x.a)) else none,
    fun x => (do return .bfeI x.mods (← regOf x.d) (← regOf x.a) (← srcOf x.lit x.b)),
    fun x => (do return .bfeN x.mods (← regOf x.d) (← regOf x.a) (← srcOf x.lit x.b)),
    fun x => (do return .bfi x.mods (← regOf x.d) (← regOf x.a) (← srcOf x.lit x.b)),
    fun x => (do return .sel x.mods (← regOf x.d) (← regOf x.a) (← srcOf x.lit x.b) (← maskOf x.pc)),
    fun x => (do return .cmpEq x.mods (← maskOf x.d) (← regOf x.a) (← srcOf x.lit x.b)),
    fun x => (do return .cmpNe x.mods (← maskOf x.d) (← regOf x.a) (← srcOf x.lit x.b)),
    fun x => (do return .cmpLtI x.mods (← maskOf x.d) (← regOf x.a) (← srcOf x.lit x.b)),
    fun x => (do return .cmpLeI x.mods (← maskOf x.d) (← regOf x.a) (← srcOf x.lit x.b)),
    fun x => (do return .cmpLtN x.mods (← maskOf x.d) (← regOf x.a) (← srcOf x.lit x.b)),
    fun x => (do return .cmpLeN x.mods (← maskOf x.d) (← regOf x.a) (← srcOf x.lit x.b)),
    fun x => (do return .cmpiEq x.mods (← maskOf x.d) (← regOf x.a) x.b),
    fun x => (do return .cmpiLtI x.mods (← maskOf x.d) (← regOf x.a) x.b) ]

/-- Builders, class 0 functions 40 to 59. -/
noncomputable def build0_2 : List (Raw → Option Instr) :=
  [ fun x => (do return .cmpiLtN x.mods (← maskOf x.d) (← regOf x.a) x.b),
    fun x => if x.b = 0 then (do return .mov x.mods (← regOf x.d) (← regOf x.a)) else none,
    fun x => return .movi x.mods (← regOf x.d) (x.low.extractLsb' 0 14),
    fun x => (do return .leaB x.mods (← regOf x.d) (← regOf x.a) (← srcOf x.lit x.b)),
    fun x => (do return .leaH x.mods (← regOf x.d) (← regOf x.a) (← srcOf x.lit x.b)),
    fun x => (do return .leaW x.mods (← regOf x.d) (← regOf x.a) (← srcOf x.lit x.b)),
    fun x => (do return .leaD x.mods (← regOf x.d) (← regOf x.a) (← srcOf x.lit x.b)),
    fun x => (do return .add64 x.mods (← regOf x.d) (← regOf x.a) (← srcOf x.lit x.b)),
    fun x => (do return .sub64 x.mods (← regOf x.d) (← regOf x.a) (← srcOf x.lit x.b)),
    fun x => (do return .mulW x.mods (← regOf x.d) (← regOf x.a) (← srcOf x.lit x.b)),
    fun x => (do return .mulWn x.mods (← regOf x.d) (← regOf x.a) (← srcOf x.lit x.b)),
    fun x => (do return .divI x.mods (← regOf x.d) (← regOf x.a) (← srcOf x.lit x.b)),
    fun x => (do return .divN x.mods (← regOf x.d) (← regOf x.a) (← srcOf x.lit x.b)),
    fun x => (do return .remI x.mods (← regOf x.d) (← regOf x.a) (← srcOf x.lit x.b)),
    fun x => (do return .remN x.mods (← regOf x.d) (← regOf x.a) (← srcOf x.lit x.b)),
    fun x => (do return .adds x.mods (← regOf x.d) (← regOf x.a) (← srcOf x.lit x.b)),
    fun x => (do return .subs x.mods (← regOf x.d) (← regOf x.a) (← srcOf x.lit x.b)),
    fun x => (do return .dot4Ii x.mods (← regOf x.d) (← regOf x.a) (← srcOf x.lit x.b)),
    fun x => (do return .dot4Ni x.mods (← regOf x.d) (← regOf x.a) (← srcOf x.lit x.b)),
    fun x => (do return .sad x.mods (← regOf x.d) (← regOf x.a) (← srcOf x.lit x.b)) ]

/-- Builders of class 0, integer and address (R85). -/
noncomputable def build0 : List (Raw → Option Instr) := build0_0 ++ build0_1 ++ build0_2

/-- Operand rules, class 1 functions 0 to 19. -/
def rows1_0 : List (Option Row) :=
  [ some fRegRegSrc,
    some fRegRegSrc,
    some fRegRegSrc,
    some fRegRegSrc,
    some fRegRegSrc,
    some fRegRegSrc,
    some fRegRegZero,
    some fRegRegZero,
    some fMaskdRegSrc2,
    some fMaskdRegSrc2,
    some fMaskdRegSrc2,
    some fMaskdRegSrc2,
    some fRegRegZero,
    some fRegRegZero,
    some fRegRegSrc,
    some fRegRegSrc,
    some fRegRegSrc,
    some fRegRegSrc,
    some fRegRegSrc,
    some fRegRegSrc ]

/-- Operand rules, class 1 functions 20 to 29. -/
def rows1_1 : List (Option Row) :=
  [ some fRegRegSrc,
    some fRegRegSrc,
    some fRegRegSrc,
    some fRegRegSrc,
    some fRegRegSrc,
    some fRegRegSrc,
    some fRegRegSrc,
    some fRegRegSrc,
    some fRegRegSrc,
    some fRegRegSrc ]

/-- Operand rules of class 1, floating (R86). -/
def rows1 : List (Option Row) := rows1_0 ++ rows1_1

/-- Builders, class 1 functions 0 to 19. -/
noncomputable def build1_0 : List (Raw → Option Instr) :=
  [ fun x => (do return .fadd x.mods (← regOf x.d) (← regOf x.a) (← srcOf x.lit x.b)),
    fun x => (do return .fsub x.mods (← regOf x.d) (← regOf x.a) (← srcOf x.lit x.b)),
    fun x => (do return .fmul x.mods (← regOf x.d) (← regOf x.a) (← srcOf x.lit x.b)),
    fun x => (do return .fma x.mods (← regOf x.d) (← regOf x.a) (← srcOf x.lit x.b)),
    fun x => (do return .fmin x.mods (← regOf x.d) (← regOf x.a) (← srcOf x.lit x.b)),
    fun x => (do return .fmax x.mods (← regOf x.d) (← regOf x.a) (← srcOf x.lit x.b)),
    fun x => if x.b = 0 then (do return .fabs x.mods (← regOf x.d) (← regOf x.a)) else none,
    fun x => if x.b = 0 then (do return .fneg x.mods (← regOf x.d) (← regOf x.a)) else none,
    fun x => (do return .fcmpEq x.mods (← maskOf x.d) (← regOf x.a) (← srcOf x.lit x.b)),
    fun x => (do return .fcmpLt x.mods (← maskOf x.d) (← regOf x.a) (← srcOf x.lit x.b)),
    fun x => (do return .fcmpLe x.mods (← maskOf x.d) (← regOf x.a) (← srcOf x.lit x.b)),
    fun x => (do return .fcmpUn x.mods (← maskOf x.d) (← regOf x.a) (← srcOf x.lit x.b)),
    fun x => if x.b = 0 then (do return .frnd x.mods (← regOf x.d) (← regOf x.a)) else none,
    fun x => if x.b = 0 then (do return .fclass x.mods (← regOf x.d) (← regOf x.a)) else none,
    fun x => (do return .fscale x.mods (← regOf x.d) (← regOf x.a) (← srcOf x.lit x.b)),
    fun x => (do return .fcopysign x.mods (← regOf x.d) (← regOf x.a) (← srcOf x.lit x.b)),
    fun x => (do return .hadd2Bf x.mods (← regOf x.d) (← regOf x.a) (← srcOf x.lit x.b)),
    fun x => (do return .hadd2Hf x.mods (← regOf x.d) (← regOf x.a) (← srcOf x.lit x.b)),
    fun x => (do return .hmul2Bf x.mods (← regOf x.d) (← regOf x.a) (← srcOf x.lit x.b)),
    fun x => (do return .hmul2Hf x.mods (← regOf x.d) (← regOf x.a) (← srcOf x.lit x.b)) ]

/-- Builders, class 1 functions 20 to 29. -/
noncomputable def build1_1 : List (Raw → Option Instr) :=
  [ fun x => (do return .hfma2Bf x.mods (← regOf x.d) (← regOf x.a) (← srcOf x.lit x.b)),
    fun x => (do return .hfma2Hf x.mods (← regOf x.d) (← regOf x.a) (← srcOf x.lit x.b)),
    fun x => (do return .hmin2Bf x.mods (← regOf x.d) (← regOf x.a) (← srcOf x.lit x.b)),
    fun x => (do return .hmax2Bf x.mods (← regOf x.d) (← regOf x.a) (← srcOf x.lit x.b)),
    fun x => (do return .hdot2Bf x.mods (← regOf x.d) (← regOf x.a) (← srcOf x.lit x.b)),
    fun x => (do return .hdot2Hf x.mods (← regOf x.d) (← regOf x.a) (← srcOf x.lit x.b)),
    fun x => (do return .f8dot4E4 x.mods (← regOf x.d) (← regOf x.a) (← srcOf x.lit x.b)),
    fun x => (do return .f8dot4E5 x.mods (← regOf x.d) (← regOf x.a) (← srcOf x.lit x.b)),
    fun x => (do return .fminP x.mods (← regOf x.d) (← regOf x.a) (← srcOf x.lit x.b)),
    fun x => (do return .fmaxP x.mods (← regOf x.d) (← regOf x.a) (← srcOf x.lit x.b)) ]

/-- Builders of class 1, floating (R86). -/
noncomputable def build1 : List (Raw → Option Instr) := build1_0 ++ build1_1

/-- Operand rules, class 2 functions 0 to 19. -/
def rows2_0 : List (Option Row) :=
  [ some fRegRegZero2,
    some fRegRegZero2,
    some fRegRegZero2,
    some fRegRegZero2,
    some fRegRegZero2,
    some fRegRegZero2,
    some fRegRegZero2,
    some fRegRegZero2,
    some fRegRegZero2,
    some { layout := (.dab .reg .reg .src), uni := true, rep := true, pol := true, flag := .b, writes := true },
    none,
    none,
    none,
    none,
    none,
    none,
    some fRegRegZero,
    some fRegRegZero,
    some fRegRegZero,
    some fRegRegZero ]

/-- Operand rules, class 2 functions 20 to 39. -/
def rows2_1 : List (Option Row) :=
  [ some fRegRegSrc,
    some fRegRegSrc,
    some fRegRegZero,
    some fRegRegZero,
    some fRegRegZero,
    some fRegRegZero,
    some fRegRegZero,
    some fRegRegZero,
    some fRegRegZero,
    some fRegRegZero,
    none,
    none,
    some fVecVecSrc,
    some fVecVecSrc,
    some fVecVecSrc,
    some { layout := (.dab .reg .vec .src), uniB := true, rep := true, pol := true, writes := true },
    some fMaskdMaskZero,
    some fMaskdMaskZero,
    some { layout := (.dab .pair .mask .zero), pol := true, writes := true },
    some fVecVecZero ]

/-- Operand rules, class 2 functions 40 to 58. -/
def rows2_2 : List (Option Row) :=
  [ some fVecVecZero,
    some fVecVecZero,
    some fVecVecZero,
    some fRegVecZero,
    some fRegVecZero,
    some fRegVecZero,
    some fRegVecZero,
    some fRegVecZero,
    some fRegVecZero,
    some { layout := (.dab .vec .reg .zero), pol := true, writes := true },
    some { layout := (.dab .zero .reg .src), pol := true },
    some { layout := (.dab .zero .zero .srcUni), pol := true, pfx := false },
    some { layout := (.dab .reg .zero .tidSel), pol := true, writes := true },
    some fMaskdMaskMask,
    some fMaskdMaskMask,
    some fMaskdMaskMask,
    some fMaskdMaskZero,
    some { layout := (.dab .vec .mask .zero), rep := true, pol := true, writes := true },
    some { layout := (.dab .maskD .vec .zero), pol := true, writes := true } ]

/-- Operand rules of class 2, special, convert and permute (R87). -/
def rows2 : List (Option Row) := rows2_0 ++ rows2_1 ++ rows2_2

/-- Builders, class 2 functions 0 to 19. -/
noncomputable def build2_0 : List (Raw → Option Instr) :=
  [ fun x => if x.b = 0 then (do return .rcp x.mods (← regOf x.d) (← regOf x.a)) else none,
    fun x => if x.b = 0 then (do return .rsq x.mods (← regOf x.d) (← regOf x.a)) else none,
    fun x => if x.b = 0 then (do return .sqrt x.mods (← regOf x.d) (← regOf x.a)) else none,
    fun x => if x.b = 0 then (do return .ex2 x.mods (← regOf x.d) (← regOf x.a)) else none,
    fun x => if x.b = 0 then (do return .lg2 x.mods (← regOf x.d) (← regOf x.a)) else none,
    fun x => if x.b = 0 then (do return .sinT x.mods (← regOf x.d) (← regOf x.a)) else none,
    fun x => if x.b = 0 then (do return .cosT x.mods (← regOf x.d) (← regOf x.a)) else none,
    fun x => if x.b = 0 then (do return .tanh x.mods (← regOf x.d) (← regOf x.a)) else none,
    fun x => if x.b = 0 then (do return .sigm x.mods (← regOf x.d) (← regOf x.a)) else none,
    fun x => (do return .fdiv x.mods (← regOf x.d) (← regOf x.a) (← srcOf x.lit x.b)),
    fun _ => none,
    fun _ => none,
    fun _ => none,
    fun _ => none,
    fun _ => none,
    fun _ => none,
    fun x => if x.b = 0 then (do return .cvtFI x.mods (← regOf x.d) (← regOf x.a)) else none,
    fun x => if x.b = 0 then (do return .cvtFN x.mods (← regOf x.d) (← regOf x.a)) else none,
    fun x => if x.b = 0 then (do return .cvtIF x.mods (← regOf x.d) (← regOf x.a)) else none,
    fun x => if x.b = 0 then (do return .cvtNF x.mods (← regOf x.d) (← regOf x.a)) else none ]

/-- Builders, class 2 functions 20 to 39. -/
noncomputable def build2_1 : List (Raw → Option Instr) :=
  [ fun x => (do return .cvt2Bf x.mods (← regOf x.d) (← regOf x.a) (← srcOf x.lit x.b)),
    fun x => (do return .cvt2Hf x.mods (← regOf x.d) (← regOf x.a) (← srcOf x.lit x.b)),
    fun x => if x.b = 0 then (do return .cvtFBfl x.mods (← regOf x.d) (← regOf x.a)) else none,
    fun x => if x.b = 0 then (do return .cvtFBfh x.mods (← regOf x.d) (← regOf x.a)) else none,
    fun x => if x.b = 0 then (do return .cvtFHfl x.mods (← regOf x.d) (← regOf x.a)) else none,
    fun x => if x.b = 0 then (do return .cvtFHfh x.mods (← regOf x.d) (← regOf x.a)) else none,
    fun x => if x.b = 0 then (do return .cvtE4 x.mods (← regOf x.d) (← regOf x.a)) else none,
    fun x => if x.b = 0 then (do return .cvtE5 x.mods (← regOf x.d) (← regOf x.a)) else none,
    fun x => if x.b = 0 then (do return .cvtFE4 x.mods (← regOf x.d) (← regOf x.a)) else none,
    fun x => if x.b = 0 then (do return .cvtFE5 x.mods (← regOf x.d) (← regOf x.a)) else none,
    fun _ => none,
    fun _ => none,
    fun x => (do return .swp x.mods (← regOf x.d) (← regOf x.a) (← srcOf x.lit x.b)),
    fun x => (do return .shfl x.mods (← regOf x.d) (← regOf x.a) (← srcOf x.lit x.b)),
    fun x => (do return .rotw x.mods (← regOf x.d) (← regOf x.a) (← srcOf x.lit x.b)),
    fun x => (do return .bcast x.mods (← regOf x.d) (← regOf x.a) (← srcOf x.lit x.b)),
    fun x => if x.b = 0 then (do return .voteAll x.mods (← maskOf x.d) (← maskOf x.a)) else none,
    fun x => if x.b = 0 then (do return .voteAny x.mods (← maskOf x.d) (← maskOf x.a)) else none,
    fun x => if x.b = 0 then (do return .ballot x.mods (← regOf x.d) (← maskOf x.a)) else none,
    fun x => if x.b = 0 then (do return .cmpr x.mods (← regOf x.d) (← regOf x.a)) else none ]

/-- Builders, class 2 functions 40 to 58. -/
noncomputable def build2_2 : List (Raw → Option Instr) :=
  [ fun x => if x.b = 0 then (do return .expd x.mods (← regOf x.d) (← regOf x.a)) else none,
    fun x => if x.b = 0 then (do return .scanAdd x.mods (← regOf x.d) (← regOf x.a)) else none,
    fun x => if x.b = 0 then (do return .scanFadd x.mods (← regOf x.d) (← regOf x.a)) else none,
    fun x => if x.b = 0 then (do return .redAdd x.mods (← regOf x.d) (← regOf x.a)) else none,
    fun x => if x.b = 0 then (do return .redFadd x.mods (← regOf x.d) (← regOf x.a)) else none,
    fun x => if x.b = 0 then (do return .redMinI x.mods (← regOf x.d) (← regOf x.a)) else none,
    fun x => if x.b = 0 then (do return .redMaxI x.mods (← regOf x.d) (← regOf x.a)) else none,
    fun x => if x.b = 0 then (do return .redFmax x.mods (← regOf x.d) (← regOf x.a)) else none,
    fun x => if x.b = 0 then (do return .redFmin x.mods (← regOf x.d) (← regOf x.a)) else none,
    fun x => if x.b = 0 then (do return .ixr x.mods (← regOf x.d) (← regOf x.a)) else none,
    fun x => if x.d = 0 then (do return .ixw x.mods (← regOf x.a) (← srcOf x.lit x.b)) else none,
    fun x => if x.d = 0 ∧ x.a = 0 then (do return .win x.mods (← srcOf x.lit x.b)) else none,
    fun x => if x.a = 0 then (do return .tid x.mods (← regOf x.d) x.b) else none,
    fun x => (do return .mand x.mods (← maskOf x.d) (← maskOf x.a) (← maskOf x.b)),
    fun x => (do return .mor x.mods (← maskOf x.d) (← maskOf x.a) (← maskOf x.b)),
    fun x => (do return .mxor x.mods (← maskOf x.d) (← maskOf x.a) (← maskOf x.b)),
    fun x => if x.b = 0 then (do return .mnot x.mods (← maskOf x.d) (← maskOf x.a)) else none,
    fun x => if x.b = 0 then (do return .m2v x.mods (← regOf x.d) (← maskOf x.a)) else none,
    fun x => if x.b = 0 then (do return .v2m x.mods (← maskOf x.d) (← regOf x.a)) else none ]

/-- Builders of class 2, special, convert and permute (R87). -/
noncomputable def build2 : List (Raw → Option Instr) := build2_0 ++ build2_1 ++ build2_2

/-- Operand rules, class 3 functions 0 to 19. -/
def rows3_0 : List (Option Row) :=
  [ some fRegPairOff,
    some fRegPairOff,
    some fRegPairOff,
    some fRegPairOff,
    some fRegPairOff,
    some { layout := (.dab .pair .pair .off), uni := true, pol := true, flag := .a, writes := true },
    some { layout := (.dab .run4 .pair .off), pol := true, flag := .a, writes := true },
    some fRegPairOff2,
    some fRegPairOff2,
    some fRegPairOff2,
    some { layout := (.dab .pair .pair .off), uni := true },
    some { layout := (.dab .run4 .pair .off) },
    some fRegPairOff,
    some fRegPairOff2,
    some fRegPairOff,
    some { layout := (.dab .zero .pair .off) },
    some fRegPairSrc,
    some fRegPairSrc,
    some fRegPairSrc,
    some fRegPairSrc ]

/-- Operand rules, class 3 functions 20 to 35. -/
def rows3_1 : List (Option Row) :=
  [ some fRegPairSrc,
    some fRegPairSrc,
    some fRegPairSrc,
    some fRegPairSrc,
    some fRegPairSrc,
    some { layout := (.dab .vec .pair .src), cf := .value, ord := .all, flag := .a, writes := true },
    some fRegPairSrc,
    some { layout := (.dab .pair .pair .srcPair), uni := true, ord := .all, flag := .a, writes := true },
    some fZeroPairSrc,
    some fZeroPairSrc,
    some fZeroPairSrc,
    some { layout := .none, ord := .all },
    some { layout := (.dab .zero .pair .src) },
    some { layout := (.dab .pair .pair .off), uni := true, ord := .scope, flag := .a, writes := true },
    some { layout := (.dab .pair .pair .off), uni := true, ord := .scope },
    some { layout := (.dab .reg .pair .off), uni := true, ord := .scope, flag := .a, writes := true } ]

/-- Operand rules of class 3, memory (R88). -/
def rows3 : List (Option Row) := rows3_0 ++ rows3_1

/-- Builders, class 3 functions 0 to 19. -/
noncomputable def build3_0 : List (Raw → Option Instr) :=
  [ fun x => (do return .ld8 x.mods (← regOf x.d) (← regOf x.a) (← offOf x.lit x.b)),
    fun x => (do return .ld8s x.mods (← regOf x.d) (← regOf x.a) (← offOf x.lit x.b)),
    fun x => (do return .ld16 x.mods (← regOf x.d) (← regOf x.a) (← offOf x.lit x.b)),
    fun x => (do return .ld16s x.mods (← regOf x.d) (← regOf x.a) (← offOf x.lit x.b)),
    fun x => (do return .ld32 x.mods (← regOf x.d) (← regOf x.a) (← offOf x.lit x.b)),
    fun x => (do return .ld64 x.mods (← regOf x.d) (← regOf x.a) (← offOf x.lit x.b)),
    fun x => (do return .ld128 x.mods (← regOf x.d) (← regOf x.a) (← offOf x.lit x.b)),
    fun x => (do return .st8 x.mods (← regOf x.d) (← regOf x.a) (← offOf x.lit x.b)),
    fun x => (do return .st16 x.mods (← regOf x.d) (← regOf x.a) (← offOf x.lit x.b)),
    fun x => (do return .st32 x.mods (← regOf x.d) (← regOf x.a) (← offOf x.lit x.b)),
    fun x => (do return .st64 x.mods (← regOf x.d) (← regOf x.a) (← offOf x.lit x.b)),
    fun x => (do return .st128 x.mods (← regOf x.d) (← regOf x.a) (← offOf x.lit x.b)),
    fun x => (do return .ldU x.mods (← regOf x.d) (← regOf x.a) (← offOf x.lit x.b)),
    fun x => (do return .stU x.mods (← regOf x.d) (← regOf x.a) (← offOf x.lit x.b)),
    fun x => (do return .ldRc x.mods (← regOf x.d) (← regOf x.a) (← offOf x.lit x.b)),
    fun x => if x.d = 0 then (do return .pf x.mods (← regOf x.a) (← offOf x.lit x.b)) else none,
    fun x => (do return .atomAdd x.mods (← regOf x.d) (← regOf x.a) (← srcOf x.lit x.b)),
    fun x => (do return .atomMinI x.mods (← regOf x.d) (← regOf x.a) (← srcOf x.lit x.b)),
    fun x => (do return .atomMaxI x.mods (← regOf x.d) (← regOf x.a) (← srcOf x.lit x.b)),
    fun x => (do return .atomMinN x.mods (← regOf x.d) (← regOf x.a) (← srcOf x.lit x.b)) ]

/-- Builders, class 3 functions 20 to 35. -/
noncomputable def build3_1 : List (Raw → Option Instr) :=
  [ fun x => (do return .atomMaxN x.mods (← regOf x.d) (← regOf x.a) (← srcOf x.lit x.b)),
    fun x => (do return .atomAnd x.mods (← regOf x.d) (← regOf x.a) (← srcOf x.lit x.b)),
    fun x => (do return .atomOr x.mods (← regOf x.d) (← regOf x.a) (← srcOf x.lit x.b)),
    fun x => (do return .atomXor x.mods (← regOf x.d) (← regOf x.a) (← srcOf x.lit x.b)),
    fun x => (do return .atomXch x.mods (← regOf x.d) (← regOf x.a) (← srcOf x.lit x.b)),
    fun x => (do return .atomCas x.mods (← regOf x.d) (← regOf x.a) (← srcOf x.lit x.b) (← srcOf x.lit x.pc)),
    fun x => (do return .atomFadd x.mods (← regOf x.d) (← regOf x.a) (← srcOf x.lit x.b)),
    fun x => (do return .atomAdd64 x.mods (← regOf x.d) (← regOf x.a) (← srcOf x.lit x.b)),
    fun x => if x.d = 0 then (do return .redmAdd x.mods (← regOf x.a) (← srcOf x.lit x.b)) else none,
    fun x => if x.d = 0 then (do return .redmFadd x.mods (← regOf x.a) (← srcOf x.lit x.b)) else none,
    fun x => if x.d = 0 then (do return .redmMax x.mods (← regOf x.a) (← srcOf x.lit x.b)) else none,
    fun x => some (.fence x.mods),
    fun x => if x.d = 0 then (do return .nap x.mods (← regOf x.a) (← srcOf x.lit x.b)) else none,
    fun x => (do return .mbxLd x.mods (← regOf x.d) (← regOf x.a) (← offOf x.lit x.b)),
    fun x => (do return .mbxSt x.mods (← regOf x.d) (← regOf x.a) (← offOf x.lit x.b)),
    fun x => (do return .mbxTst x.mods (← regOf x.d) (← regOf x.a) (← offOf x.lit x.b)) ]

/-- Builders of class 3, memory (R88). -/
noncomputable def build3 : List (Raw → Option Instr) := build3_0 ++ build3_1

/-- Operand rules, class 4 functions 0 to 18. -/
def rows4_0 : List (Option Row) :=
  [ some fBj,
    some fBc,
    some fBc,
    some fBc,
    some { layout := (.dab .bound .uni .reg), pfx := false },
    some fBj,
    some fZeroPairZero,
    some fNone,
    some { layout := .bd, pfx := false },
    some fNone,
    some fNone,
    some fBar,
    some fBar,
    some fBar,
    some fBar,
    some fZeroPairZero,
    some fNone,
    some fNone,
    some { layout := .bl, pfx := false } ]

/-- Operand rules of class 4, control (R89). -/
def rows4 : List (Option Row) := rows4_0

/-- Builders, class 4 functions 0 to 18. -/
noncomputable def build4_0 : List (Raw → Option Instr) :=
  [ fun x => some (.br x.mods x.low),
    fun x => some (.brC x.mods ⟨x.top3.toNat, x.top3.isLt⟩ (x.low.extractLsb' 0 18)),
    fun x => some (.brAny x.mods ⟨x.top3.toNat, x.top3.isLt⟩ (x.low.extractLsb' 0 18)),
    fun x => some (.brAll x.mods ⟨x.top3.toNat, x.top3.isLt⟩ (x.low.extractLsb' 0 18)),
    fun x => (do return .brx x.mods x.d (← regOf x.a) (← regOf x.b)),
    fun x => some (.call x.mods x.low),
    fun x => if x.d = 0 ∧ x.b = 0 then (do return .callX x.mods (← regOf x.a)) else none,
    fun x => some (.ret x.mods),
    fun x => if x.top3 = 0 then some (.div x.mods (x.low.extractLsb' 0 18)) else none,
    fun x => some (.join x.mods),
    fun x => some (.exit x.mods),
    fun x => if x.low.extractLsb' 0 14 = 0 then some (.barArr x.mods x.top3 (x.low.extractLsb' 14 4)) else none,
    fun x => if x.low.extractLsb' 0 14 = 0 then some (.barArrRlx x.mods x.top3 (x.low.extractLsb' 14 4)) else none,
    fun x => if x.low.extractLsb' 0 14 = 0 then some (.barWait x.mods x.top3 (x.low.extractLsb' 14 4)) else none,
    fun x => if x.low.extractLsb' 0 14 = 0 then some (.barSync x.mods x.top3 (x.low.extractLsb' 14 4)) else none,
    fun x => if x.d = 0 ∧ x.b = 0 then (do return .syncP x.mods (← regOf x.a)) else none,
    fun x => some (.idem x.mods),
    fun x => some (.nop x.mods),
    fun x => some (.loop x.mods x.top3 (x.low.extractLsb' 0 18)) ]

/-- Builders of class 4, control (R89). -/
noncomputable def build4 : List (Raw → Option Instr) := build4_0

/-- Operand rules, class 5 functions 0 to 17. -/
def rows5_0 : List (Option Row) :=
  [ some { layout := (.dab .reg .reg .srcPair), flag := .a, pfx := false },
    some { layout := (.dab .reg .reg .zero), flag := .a, pfx := false },
    some { layout := (.dab .vpair .reg .src), flag := .a, pfx := false, writes := true },
    some { layout := (.dab .vpair .reg .zero), flag := .a, pfx := false, writes := true },
    some { layout := (.dab .maskD .reg .src), flag := .a, pfx := false, writes := true },
    some { layout := (.dab .zero .reg .pair), flag := .a, pfx := false },
    some { layout := (.dab .vec .reg .src), flag := .a, pfx := false, writes := true },
    some fZeroPairZero2,
    some { layout := (.dab .vec .reg .pair), flag := .a, pfx := false, writes := true },
    some fZeroPairZero2,
    some fRegPairPair,
    some { layout := (.dab .vec .pair .src), flag := .a, pfx := false, writes := true },
    some fRegPairPair,
    some fZeroPairSrc2,
    some fZeroPairSrc2,
    some { layout := (.dab .vpair .pair .zero), flag := .a, pfx := false, writes := true },
    some { layout := (.dab .vec .zero .srcPair), flag := .a, pfx := false, writes := true },
    some { layout := (.dab .zero .reg .zero), flag := .a, pfx := false } ]

/-- Operand rules of class 5, agent (R90). -/
def rows5 : List (Option Row) := rows5_0

/-- Builders, class 5 functions 0 to 17. -/
noncomputable def build5_0 : List (Raw → Option Instr) :=
  [ fun x => (do return .belPut x.mods (← regOf x.d) (← regOf x.a) (← srcOf x.lit x.b)),
    fun x => if x.b = 0 then (do return .belRet x.mods (← regOf x.d) (← regOf x.a)) else none,
    fun x => (do return .belGet x.mods (← regOf x.d) (← regOf x.a) (← srcOf x.lit x.b)),
    fun x => if x.b = 0 then (do return .belFacts x.mods (← regOf x.d) (← regOf x.a)) else none,
    fun x => (do return .belTst x.mods (← maskOf x.d) (← regOf x.a) (← srcOf x.lit x.b)),
    fun x => if x.d = 0 then (do return .goalAdd x.mods (← regOf x.a) (← regOf x.b)) else none,
    fun x => (do return .goalDone x.mods (← regOf x.d) (← regOf x.a) (← srcOf x.lit x.b)),
    fun x => if x.d = 0 ∧ x.b = 0 then (do return .goalFail x.mods (← regOf x.a)) else none,
    fun x => (do return .intAdopt x.mods (← regOf x.d) (← regOf x.a) (← regOf x.b)),
    fun x => if x.d = 0 ∧ x.b = 0 then (do return .intDrop x.mods (← regOf x.a)) else none,
    fun x => (do return .intSusp x.mods (← regOf x.d) (← regOf x.a) (← regOf x.b)),
    fun x => (do return .intResm x.mods (← regOf x.d) (← regOf x.a) (← srcOf x.lit x.b)),
    fun x => (do return .planSub x.mods (← regOf x.d) (← regOf x.a) (← regOf x.b)),
    fun x => if x.d = 0 then (do return .planRet x.mods (← regOf x.a) (← srcOf x.lit x.b)) else none,
    fun x => if x.d = 0 then (do return .step x.mods (← regOf x.a) (← srcOf x.lit x.b)) else none,
    fun x => if x.b = 0 then (do return .intInfo x.mods (← regOf x.d) (← regOf x.a)) else none,
    fun x => if x.a = 0 then (do return .agtNew x.mods (← regOf x.d) (← srcOf x.lit x.b)) else none,
    fun x => if x.d = 0 ∧ x.b = 0 then (do return .agtFree x.mods (← regOf x.a)) else none ]

/-- Builders of class 5, agent (R90). -/
noncomputable def build5 : List (Raw → Option Instr) := build5_0

/-- Operand rules, class 6 functions 0 to 19. -/
def rows6_0 : List (Option Row) :=
  [ some fUniZeroSrcuni,
    some { layout := (.dab .zero .slot .srcUni), flag := .b, pfx := false },
    some { layout := (.dab .uni .slot .zero), flag := .b, pfx := false, writes := true },
    some fUniUniSrcuni,
    some fUniUniSrcuni,
    some fUniUnipSrcuni,
    some fUniUnipSrcuni,
    some { layout := (.dab .ctx .slot .slot), flag := .b, pfx := false },
    some { layout := (.dab .ctx .slot .srcUni), flag := .b, pfx := false },
    some { layout := (.dab .reg .ctx .srcUni), flag := .b, pfx := false, writes := true },
    some { layout := (.dab .ctx .zero .zero), flag := .b, pfx := false },
    some fMxCtl,
    some { layout := (.dab .zero .tl .srcUni), flag := .b, pfx := false },
    some { layout := (.dab .reg .tl (.upto 1)), flag := .b, pfx := false, writes := true },
    some { layout := (.dab .uni .tlSoft .srcUni), flag := .b, pfx := false, writes := true },
    some fUniUniSrcuni,
    some { layout := (.dab .maskD .pair .zero), flag := .b, pfx := false, writes := true },
    some { layout := (.dab .reg .run4 .src), flag := .b, pfx := false },
    some { layout := (.dab .vec .pair .run8), flag := .b, pfx := false, writes := true },
    none ]

/-- Operand rules, class 6 functions 20 to 39. -/
def rows6_1 : List (Option Row) :=
  [ none,
    none,
    none,
    none,
    none,
    none,
    none,
    none,
    none,
    none,
    none,
    none,
    some fUniZeroSrcuni,
    some { layout := (.dab .zero .env .srcUni), flag := .b, pfx := false },
    some { layout := (.dab .env .zero .unip), flag := .b, pfx := false },
    some { layout := (.dab .env .reg .src), flag := .b, pfx := false },
    some fEnvEnvEnv,
    some fEnvEnvEnv,
    some fEnvEnvEnv,
    some { layout := (.dab .env .env .unip), flag := .b, pfx := false } ]

/-- Operand rules, class 6 functions 40 to 46. -/
def rows6_2 : List (Option Row) :=
  [ some { layout := (.dab .env .env .zero), flag := .b, pfx := false },
    some fVecEnvSrc,
    some fVecEnvSrc,
    some { layout := (.dab .reg .env .srcUni), flag := .b, pfx := false, writes := true },
    some { layout := (.dab .reg .env .zero), flag := .b, pfx := false, writes := true },
    some fEnvUniZero,
    some fEnvUniZero ]

/-- Operand rules of class 6, engines and envelope (R91). -/
def rows6 : List (Option Row) := rows6_0 ++ rows6_1 ++ rows6_2

/-- Builders, class 6 functions 0 to 19. -/
noncomputable def build6_0 : List (Raw → Option Instr) :=
  [ fun x => if x.a = 0 then (do return .tileClaim x.mods (← regOf x.d) (← srcOf x.lit x.b)) else none,
    fun x => if x.d = 0 then (do return .tileRel x.mods (← slotOf x.a) (← srcOf x.lit x.b)) else none,
    fun x => if x.b = 0 then (do return .tileSt x.mods (← regOf x.d) (← slotOf x.a)) else none,
    fun x => (do return .cpIn x.mods (← regOf x.d) (← regOf x.a) (← srcOf x.lit x.b)),
    fun x => (do return .cpOut x.mods (← regOf x.d) (← regOf x.a) (← srcOf x.lit x.b)),
    fun x => (do return .cpMem x.mods (← regOf x.d) (← regOf x.a) (← srcOf x.lit x.b)),
    fun x => (do return .cpInMx x.mods (← regOf x.d) (← regOf x.a) (← srcOf x.lit x.b)),
    fun x => (do return .mxMma x.mods (← fin2Of x.d) (← slotOf x.a) (← slotOf x.b)),
    fun x => (do return .mxSm x.mods (← fin2Of x.d) (← slotOf x.a) (← srcOf x.lit x.b)),
    fun x => (do return .mxRd x.mods (← regOf x.d) (← fin2Of x.a) (← srcOf x.lit x.b)),
    fun x => if x.a = 0 ∧ x.b = 0 then (do return .mxClr x.mods (← fin2Of x.d)) else none,
    buildMxCtl,
    fun x => if x.d = 0 then (do return .tlWait x.mods (← fin16Of x.a) (← srcOf x.lit x.b)) else none,
    fun x => (do return .tlRd x.mods (← regOf x.d) (← fin16Of x.a) (← fin2Of x.b)),
    fun x => (do return .tlInc x.mods (← regOf x.d) (← fin16Of x.a) (← srcOf x.lit x.b)),
    fun x => (do return .bankCmd x.mods (← regOf x.d) (← regOf x.a) (← srcOf x.lit x.b)),
    fun x => if x.b = 0 then (do return .launch x.mods (← maskOf x.d) (← regOf x.a)) else none,
    fun x => (do return .recEmit x.mods (← regOf x.d) (← regOf x.a) (← srcOf x.lit x.b)),
    fun x => (do return .logApp x.mods (← regOf x.d) (← regOf x.a) (← regOf x.b)),
    fun _ => none ]

/-- Builders, class 6 functions 20 to 39. -/
noncomputable def build6_1 : List (Raw → Option Instr) :=
  [ fun _ => none,
    fun _ => none,
    fun _ => none,
    fun _ => none,
    fun _ => none,
    fun _ => none,
    fun _ => none,
    fun _ => none,
    fun _ => none,
    fun _ => none,
    fun _ => none,
    fun _ => none,
    fun x => if x.a = 0 then (do return .envClaim x.mods (← regOf x.d) (← srcOf x.lit x.b)) else none,
    fun x => if x.d = 0 then (do return .envRel x.mods (← envOf x.a) (← srcOf x.lit x.b)) else none,
    fun x => if x.a = 0 then (do return .envClr x.mods (← envOf x.d) (← regOf x.b)) else none,
    fun x => (do return .envIns x.mods (← envOf x.d) (← regOf x.a) (← srcOf x.lit x.b)),
    fun x => (do return .envSum x.mods (← envOf x.d) (← envOf x.a) (← envOf x.b)),
    fun x => (do return .envMax x.mods (← envOf x.d) (← envOf x.a) (← envOf x.b)),
    fun x => (do return .envIcv x.mods (← envOf x.d) (← envOf x.a) (← envOf x.b)),
    fun x => (do return .envConj x.mods (← envOf x.d) (← envOf x.a) (← regOf x.b)) ]

/-- Builders, class 6 functions 40 to 46. -/
noncomputable def build6_2 : List (Raw → Option Instr) :=
  [ fun x => if x.b = 0 then (do return .envSimp x.mods (← envOf x.d) (← envOf x.a)) else none,
    fun x => (do return .envEval x.mods (← regOf x.d) (← envOf x.a) (← srcOf x.lit x.b)),
    fun x => (do return .envSlope x.mods (← regOf x.d) (← envOf x.a) (← srcOf x.lit x.b)),
    fun x => (do return .envRd x.mods (← regOf x.d) (← envOf x.a) (← srcOf x.lit x.b)),
    fun x => if x.b = 0 then (do return .envCnt x.mods (← regOf x.d) (← envOf x.a)) else none,
    fun x => if x.b = 0 then (do return .envLd x.mods (← envOf x.d) (← regOf x.a)) else none,
    fun x => if x.b = 0 then (do return .envSt x.mods (← envOf x.d) (← regOf x.a)) else none ]

/-- Builders of class 6, engines and envelope (R91). -/
noncomputable def build6 : List (Raw → Option Instr) := build6_0 ++ build6_1 ++ build6_2

/-- Operand rules, class 7 functions 0 to 8. -/
def rows7_0 : List (Option Row) :=
  [ some { layout := (.dab .csrD .csr .zero), pfx := false, writes := true },
    some { layout := (.dab .zeroL .csr .srcUni), pfx := false },
    some fUniCsrSrcuni,
    some fUniCsrSrcuni,
    some { layout := (.dab .zeroL .zeroL .srcUni), pfx := false },
    some fZerolZerolZero,
    some { layout := (.dab .zeroL .zeroL .imm), pfx := false },
    some { layout := (.dab .pair .zeroL .zero), pfx := false, writes := true },
    some fZerolZerolZero ]

/-- Operand rules of class 7, system (R92). -/
def rows7 : List (Option Row) := rows7_0

/-- Builders, class 7 functions 0 to 8. -/
noncomputable def build7_0 : List (Raw → Option Instr) :=
  [ fun x => if x.b = 0 then (do return .csrRd x.mods (← regOf x.d) (← csrOf x.a)) else none,
    fun x => if x.d = 0 then (do return .csrWr x.mods (← csrOf x.a) (← srcOf x.lit x.b)) else none,
    fun x => (do return .csrSet x.mods (← regOf x.d) (← csrOf x.a) (← srcOf x.lit x.b)),
    fun x => (do return .csrClr x.mods (← regOf x.d) (← csrOf x.a) (← srcOf x.lit x.b)),
    fun x => if x.d = 0 ∧ x.a = 0 then (do return .trap x.mods (← srcOf x.lit x.b)) else none,
    fun x => if x.d = 0 ∧ x.a = 0 ∧ x.b = 0 then (do return .tret x.mods) else none,
    fun x => if x.d = 0 ∧ x.a = 0 then (do return .brk x.mods x.b) else none,
    fun x => if x.a = 0 ∧ x.b = 0 then (do return .clk x.mods (← regOf x.d)) else none,
    fun x => if x.d = 0 ∧ x.a = 0 ∧ x.b = 0 then (do return .fenceWin x.mods) else none ]

/-- Builders of class 7, system (R92). -/
noncomputable def build7 : List (Raw → Option Instr) := build7_0

/-- The operand rules of a class and function; none where the pair is reserved (R93). -/
def rowOf (cls : BitVec 3) (fn : BitVec 6) : Option Row :=
  (([rows0, rows1, rows2, rows3, rows4, rows5, rows6, rows7][cls.toNat]?.getD [])[fn.toNat]?).getD none

/-- The instruction of a class and function with the given fields; none where a field holds no operand of its kind. -/
noncomputable def build (x : Raw) : Option Instr :=
  match ([build0, build1, build2, build3, build4, build5, build6, build7][x.cls.toNat]?.getD [])[x.fn.toNat]? with
  | some f => f x
  | none => none

/-! ### Encoder -/

/-- The fields of an encoded instruction; a step without a word has none. -/
def Instr.raw : Instr → Option Raw
  | .add m d a b => some { mkRaw m 0 0 (pack (Reg.code d) (Reg.code a) (Src.code b)) with lit := b.word, pc := 0 }
  | .sub m d a b => some { mkRaw m 0 1 (pack (Reg.code d) (Reg.code a) (Src.code b)) with lit := b.word, pc := 0 }
  | .addi m d a b => some (mkRaw m 0 2 (pack (Reg.code d) (Reg.code a) b))
  | .mul m d a b => some { mkRaw m 0 3 (pack (Reg.code d) (Reg.code a) (Src.code b)) with lit := b.word, pc := 0 }
  | .mulhI m d a b => some { mkRaw m 0 4 (pack (Reg.code d) (Reg.code a) (Src.code b)) with lit := b.word, pc := 0 }
  | .mulhN m d a b => some { mkRaw m 0 5 (pack (Reg.code d) (Reg.code a) (Src.code b)) with lit := b.word, pc := 0 }
  | .mad m d a b => some { mkRaw m 0 6 (pack (Reg.code d) (Reg.code a) (Src.code b)) with lit := b.word, pc := 0 }
  | .minI m d a b => some { mkRaw m 0 7 (pack (Reg.code d) (Reg.code a) (Src.code b)) with lit := b.word, pc := 0 }
  | .maxI m d a b => some { mkRaw m 0 8 (pack (Reg.code d) (Reg.code a) (Src.code b)) with lit := b.word, pc := 0 }
  | .minN m d a b => some { mkRaw m 0 9 (pack (Reg.code d) (Reg.code a) (Src.code b)) with lit := b.word, pc := 0 }
  | .maxN m d a b => some { mkRaw m 0 10 (pack (Reg.code d) (Reg.code a) (Src.code b)) with lit := b.word, pc := 0 }
  | .abs m d a => some (mkRaw m 0 11 (pack (Reg.code d) (Reg.code a) 0))
  | .neg m d a => some (mkRaw m 0 12 (pack (Reg.code d) (Reg.code a) 0))
  | .and m d a b => some { mkRaw m 0 13 (pack (Reg.code d) (Reg.code a) (Src.code b)) with lit := b.word, pc := 0 }
  | .or m d a b => some { mkRaw m 0 14 (pack (Reg.code d) (Reg.code a) (Src.code b)) with lit := b.word, pc := 0 }
  | .xor m d a b => some { mkRaw m 0 15 (pack (Reg.code d) (Reg.code a) (Src.code b)) with lit := b.word, pc := 0 }
  | .andn m d a b => some { mkRaw m 0 16 (pack (Reg.code d) (Reg.code a) (Src.code b)) with lit := b.word, pc := 0 }
  | .not m d a => some (mkRaw m 0 17 (pack (Reg.code d) (Reg.code a) 0))
  | .shl m d a b => some { mkRaw m 0 18 (pack (Reg.code d) (Reg.code a) (Src.code b)) with lit := b.word, pc := 0 }
  | .shr m d a b => some { mkRaw m 0 19 (pack (Reg.code d) (Reg.code a) (Src.code b)) with lit := b.word, pc := 0 }
  | .sar m d a b => some { mkRaw m 0 20 (pack (Reg.code d) (Reg.code a) (Src.code b)) with lit := b.word, pc := 0 }
  | .rot m d a b => some { mkRaw m 0 21 (pack (Reg.code d) (Reg.code a) (Src.code b)) with lit := b.word, pc := 0 }
  | .shli m d a b => some (mkRaw m 0 22 (pack (Reg.code d) (Reg.code a) b))
  | .shri m d a b => some (mkRaw m 0 23 (pack (Reg.code d) (Reg.code a) b))
  | .sari m d a b => some (mkRaw m 0 24 (pack (Reg.code d) (Reg.code a) b))
  | .clz m d a => some (mkRaw m 0 25 (pack (Reg.code d) (Reg.code a) 0))
  | .popc m d a => some (mkRaw m 0 26 (pack (Reg.code d) (Reg.code a) 0))
  | .brev m d a => some (mkRaw m 0 27 (pack (Reg.code d) (Reg.code a) 0))
  | .bfeI m d a b => some { mkRaw m 0 28 (pack (Reg.code d) (Reg.code a) (Src.code b)) with lit := b.word, pc := 0 }
  | .bfeN m d a b => some { mkRaw m 0 29 (pack (Reg.code d) (Reg.code a) (Src.code b)) with lit := b.word, pc := 0 }
  | .bfi m d a b => some { mkRaw m 0 30 (pack (Reg.code d) (Reg.code a) (Src.code b)) with lit := b.word, pc := 0 }
  | .sel m d a b k => some { mkRaw m 0 31 (pack (Reg.code d) (Reg.code a) (Src.code b)) with lit := b.word, pc := (maskCode k) }
  | .cmpEq m d a b => some { mkRaw m 0 32 (pack (maskCode d) (Reg.code a) (Src.code b)) with lit := b.word, pc := 0 }
  | .cmpNe m d a b => some { mkRaw m 0 33 (pack (maskCode d) (Reg.code a) (Src.code b)) with lit := b.word, pc := 0 }
  | .cmpLtI m d a b => some { mkRaw m 0 34 (pack (maskCode d) (Reg.code a) (Src.code b)) with lit := b.word, pc := 0 }
  | .cmpLeI m d a b => some { mkRaw m 0 35 (pack (maskCode d) (Reg.code a) (Src.code b)) with lit := b.word, pc := 0 }
  | .cmpLtN m d a b => some { mkRaw m 0 36 (pack (maskCode d) (Reg.code a) (Src.code b)) with lit := b.word, pc := 0 }
  | .cmpLeN m d a b => some { mkRaw m 0 37 (pack (maskCode d) (Reg.code a) (Src.code b)) with lit := b.word, pc := 0 }
  | .cmpiEq m d a b => some (mkRaw m 0 38 (pack (maskCode d) (Reg.code a) b))
  | .cmpiLtI m d a b => some (mkRaw m 0 39 (pack (maskCode d) (Reg.code a) b))
  | .cmpiLtN m d a b => some (mkRaw m 0 40 (pack (maskCode d) (Reg.code a) b))
  | .mov m d a => some (mkRaw m 0 41 (pack (Reg.code d) (Reg.code a) 0))
  | .movi m d imm => some (mkRaw m 0 42 (d.code ++ imm))
  | .leaB m d a b => some { mkRaw m 0 43 (pack (Reg.code d) (Reg.code a) (Src.code b)) with lit := b.word, pc := 0 }
  | .leaH m d a b => some { mkRaw m 0 44 (pack (Reg.code d) (Reg.code a) (Src.code b)) with lit := b.word, pc := 0 }
  | .leaW m d a b => some { mkRaw m 0 45 (pack (Reg.code d) (Reg.code a) (Src.code b)) with lit := b.word, pc := 0 }
  | .leaD m d a b => some { mkRaw m 0 46 (pack (Reg.code d) (Reg.code a) (Src.code b)) with lit := b.word, pc := 0 }
  | .add64 m d a b => some { mkRaw m 0 47 (pack (Reg.code d) (Reg.code a) (Src.code b)) with lit := b.word, pc := 0 }
  | .sub64 m d a b => some { mkRaw m 0 48 (pack (Reg.code d) (Reg.code a) (Src.code b)) with lit := b.word, pc := 0 }
  | .mulW m d a b => some { mkRaw m 0 49 (pack (Reg.code d) (Reg.code a) (Src.code b)) with lit := b.word, pc := 0 }
  | .mulWn m d a b => some { mkRaw m 0 50 (pack (Reg.code d) (Reg.code a) (Src.code b)) with lit := b.word, pc := 0 }
  | .divI m d a b => some { mkRaw m 0 51 (pack (Reg.code d) (Reg.code a) (Src.code b)) with lit := b.word, pc := 0 }
  | .divN m d a b => some { mkRaw m 0 52 (pack (Reg.code d) (Reg.code a) (Src.code b)) with lit := b.word, pc := 0 }
  | .remI m d a b => some { mkRaw m 0 53 (pack (Reg.code d) (Reg.code a) (Src.code b)) with lit := b.word, pc := 0 }
  | .remN m d a b => some { mkRaw m 0 54 (pack (Reg.code d) (Reg.code a) (Src.code b)) with lit := b.word, pc := 0 }
  | .adds m d a b => some { mkRaw m 0 55 (pack (Reg.code d) (Reg.code a) (Src.code b)) with lit := b.word, pc := 0 }
  | .subs m d a b => some { mkRaw m 0 56 (pack (Reg.code d) (Reg.code a) (Src.code b)) with lit := b.word, pc := 0 }
  | .dot4Ii m d a b => some { mkRaw m 0 57 (pack (Reg.code d) (Reg.code a) (Src.code b)) with lit := b.word, pc := 0 }
  | .dot4Ni m d a b => some { mkRaw m 0 58 (pack (Reg.code d) (Reg.code a) (Src.code b)) with lit := b.word, pc := 0 }
  | .sad m d a b => some { mkRaw m 0 59 (pack (Reg.code d) (Reg.code a) (Src.code b)) with lit := b.word, pc := 0 }
  | .fadd m d a b => some { mkRaw m 1 0 (pack (Reg.code d) (Reg.code a) (Src.code b)) with lit := b.word, pc := 0 }
  | .fsub m d a b => some { mkRaw m 1 1 (pack (Reg.code d) (Reg.code a) (Src.code b)) with lit := b.word, pc := 0 }
  | .fmul m d a b => some { mkRaw m 1 2 (pack (Reg.code d) (Reg.code a) (Src.code b)) with lit := b.word, pc := 0 }
  | .fma m d a b => some { mkRaw m 1 3 (pack (Reg.code d) (Reg.code a) (Src.code b)) with lit := b.word, pc := 0 }
  | .fmin m d a b => some { mkRaw m 1 4 (pack (Reg.code d) (Reg.code a) (Src.code b)) with lit := b.word, pc := 0 }
  | .fmax m d a b => some { mkRaw m 1 5 (pack (Reg.code d) (Reg.code a) (Src.code b)) with lit := b.word, pc := 0 }
  | .fabs m d a => some (mkRaw m 1 6 (pack (Reg.code d) (Reg.code a) 0))
  | .fneg m d a => some (mkRaw m 1 7 (pack (Reg.code d) (Reg.code a) 0))
  | .fcmpEq m d a b => some { mkRaw m 1 8 (pack (maskCode d) (Reg.code a) (Src.code b)) with lit := b.word, pc := 0 }
  | .fcmpLt m d a b => some { mkRaw m 1 9 (pack (maskCode d) (Reg.code a) (Src.code b)) with lit := b.word, pc := 0 }
  | .fcmpLe m d a b => some { mkRaw m 1 10 (pack (maskCode d) (Reg.code a) (Src.code b)) with lit := b.word, pc := 0 }
  | .fcmpUn m d a b => some { mkRaw m 1 11 (pack (maskCode d) (Reg.code a) (Src.code b)) with lit := b.word, pc := 0 }
  | .frnd m d a => some (mkRaw m 1 12 (pack (Reg.code d) (Reg.code a) 0))
  | .fclass m d a => some (mkRaw m 1 13 (pack (Reg.code d) (Reg.code a) 0))
  | .fscale m d a b => some { mkRaw m 1 14 (pack (Reg.code d) (Reg.code a) (Src.code b)) with lit := b.word, pc := 0 }
  | .fcopysign m d a b => some { mkRaw m 1 15 (pack (Reg.code d) (Reg.code a) (Src.code b)) with lit := b.word, pc := 0 }
  | .hadd2Bf m d a b => some { mkRaw m 1 16 (pack (Reg.code d) (Reg.code a) (Src.code b)) with lit := b.word, pc := 0 }
  | .hadd2Hf m d a b => some { mkRaw m 1 17 (pack (Reg.code d) (Reg.code a) (Src.code b)) with lit := b.word, pc := 0 }
  | .hmul2Bf m d a b => some { mkRaw m 1 18 (pack (Reg.code d) (Reg.code a) (Src.code b)) with lit := b.word, pc := 0 }
  | .hmul2Hf m d a b => some { mkRaw m 1 19 (pack (Reg.code d) (Reg.code a) (Src.code b)) with lit := b.word, pc := 0 }
  | .hfma2Bf m d a b => some { mkRaw m 1 20 (pack (Reg.code d) (Reg.code a) (Src.code b)) with lit := b.word, pc := 0 }
  | .hfma2Hf m d a b => some { mkRaw m 1 21 (pack (Reg.code d) (Reg.code a) (Src.code b)) with lit := b.word, pc := 0 }
  | .hmin2Bf m d a b => some { mkRaw m 1 22 (pack (Reg.code d) (Reg.code a) (Src.code b)) with lit := b.word, pc := 0 }
  | .hmax2Bf m d a b => some { mkRaw m 1 23 (pack (Reg.code d) (Reg.code a) (Src.code b)) with lit := b.word, pc := 0 }
  | .hdot2Bf m d a b => some { mkRaw m 1 24 (pack (Reg.code d) (Reg.code a) (Src.code b)) with lit := b.word, pc := 0 }
  | .hdot2Hf m d a b => some { mkRaw m 1 25 (pack (Reg.code d) (Reg.code a) (Src.code b)) with lit := b.word, pc := 0 }
  | .f8dot4E4 m d a b => some { mkRaw m 1 26 (pack (Reg.code d) (Reg.code a) (Src.code b)) with lit := b.word, pc := 0 }
  | .f8dot4E5 m d a b => some { mkRaw m 1 27 (pack (Reg.code d) (Reg.code a) (Src.code b)) with lit := b.word, pc := 0 }
  | .fminP m d a b => some { mkRaw m 1 28 (pack (Reg.code d) (Reg.code a) (Src.code b)) with lit := b.word, pc := 0 }
  | .fmaxP m d a b => some { mkRaw m 1 29 (pack (Reg.code d) (Reg.code a) (Src.code b)) with lit := b.word, pc := 0 }
  | .rcp m d a => some (mkRaw m 2 0 (pack (Reg.code d) (Reg.code a) 0))
  | .rsq m d a => some (mkRaw m 2 1 (pack (Reg.code d) (Reg.code a) 0))
  | .sqrt m d a => some (mkRaw m 2 2 (pack (Reg.code d) (Reg.code a) 0))
  | .ex2 m d a => some (mkRaw m 2 3 (pack (Reg.code d) (Reg.code a) 0))
  | .lg2 m d a => some (mkRaw m 2 4 (pack (Reg.code d) (Reg.code a) 0))
  | .sinT m d a => some (mkRaw m 2 5 (pack (Reg.code d) (Reg.code a) 0))
  | .cosT m d a => some (mkRaw m 2 6 (pack (Reg.code d) (Reg.code a) 0))
  | .tanh m d a => some (mkRaw m 2 7 (pack (Reg.code d) (Reg.code a) 0))
  | .sigm m d a => some (mkRaw m 2 8 (pack (Reg.code d) (Reg.code a) 0))
  | .fdiv m d a b => some { mkRaw m 2 9 (pack (Reg.code d) (Reg.code a) (Src.code b)) with lit := b.word, pc := 0 }
  | .cvtFI m d a => some (mkRaw m 2 16 (pack (Reg.code d) (Reg.code a) 0))
  | .cvtFN m d a => some (mkRaw m 2 17 (pack (Reg.code d) (Reg.code a) 0))
  | .cvtIF m d a => some (mkRaw m 2 18 (pack (Reg.code d) (Reg.code a) 0))
  | .cvtNF m d a => some (mkRaw m 2 19 (pack (Reg.code d) (Reg.code a) 0))
  | .cvt2Bf m d a b => some { mkRaw m 2 20 (pack (Reg.code d) (Reg.code a) (Src.code b)) with lit := b.word, pc := 0 }
  | .cvt2Hf m d a b => some { mkRaw m 2 21 (pack (Reg.code d) (Reg.code a) (Src.code b)) with lit := b.word, pc := 0 }
  | .cvtFBfl m d a => some (mkRaw m 2 22 (pack (Reg.code d) (Reg.code a) 0))
  | .cvtFBfh m d a => some (mkRaw m 2 23 (pack (Reg.code d) (Reg.code a) 0))
  | .cvtFHfl m d a => some (mkRaw m 2 24 (pack (Reg.code d) (Reg.code a) 0))
  | .cvtFHfh m d a => some (mkRaw m 2 25 (pack (Reg.code d) (Reg.code a) 0))
  | .cvtE4 m d a => some (mkRaw m 2 26 (pack (Reg.code d) (Reg.code a) 0))
  | .cvtE5 m d a => some (mkRaw m 2 27 (pack (Reg.code d) (Reg.code a) 0))
  | .cvtFE4 m d a => some (mkRaw m 2 28 (pack (Reg.code d) (Reg.code a) 0))
  | .cvtFE5 m d a => some (mkRaw m 2 29 (pack (Reg.code d) (Reg.code a) 0))
  | .swp m d a b => some { mkRaw m 2 32 (pack (Reg.code d) (Reg.code a) (Src.code b)) with lit := b.word, pc := 0 }
  | .shfl m d a b => some { mkRaw m 2 33 (pack (Reg.code d) (Reg.code a) (Src.code b)) with lit := b.word, pc := 0 }
  | .rotw m d a b => some { mkRaw m 2 34 (pack (Reg.code d) (Reg.code a) (Src.code b)) with lit := b.word, pc := 0 }
  | .bcast m d a b => some { mkRaw m 2 35 (pack (Reg.code d) (Reg.code a) (Src.code b)) with lit := b.word, pc := 0 }
  | .voteAll m d a => some (mkRaw m 2 36 (pack (maskCode d) (maskCode a) 0))
  | .voteAny m d a => some (mkRaw m 2 37 (pack (maskCode d) (maskCode a) 0))
  | .ballot m d a => some (mkRaw m 2 38 (pack (Reg.code d) (maskCode a) 0))
  | .cmpr m d a => some (mkRaw m 2 39 (pack (Reg.code d) (Reg.code a) 0))
  | .expd m d a => some (mkRaw m 2 40 (pack (Reg.code d) (Reg.code a) 0))
  | .scanAdd m d a => some (mkRaw m 2 41 (pack (Reg.code d) (Reg.code a) 0))
  | .scanFadd m d a => some (mkRaw m 2 42 (pack (Reg.code d) (Reg.code a) 0))
  | .redAdd m d a => some (mkRaw m 2 43 (pack (Reg.code d) (Reg.code a) 0))
  | .redFadd m d a => some (mkRaw m 2 44 (pack (Reg.code d) (Reg.code a) 0))
  | .redMinI m d a => some (mkRaw m 2 45 (pack (Reg.code d) (Reg.code a) 0))
  | .redMaxI m d a => some (mkRaw m 2 46 (pack (Reg.code d) (Reg.code a) 0))
  | .redFmax m d a => some (mkRaw m 2 47 (pack (Reg.code d) (Reg.code a) 0))
  | .redFmin m d a => some (mkRaw m 2 48 (pack (Reg.code d) (Reg.code a) 0))
  | .ixr m d a => some (mkRaw m 2 49 (pack (Reg.code d) (Reg.code a) 0))
  | .ixw m a b => some { mkRaw m 2 50 (pack 0 (Reg.code a) (Src.code b)) with lit := b.word, pc := 0 }
  | .win m b => some { mkRaw m 2 51 (pack 0 0 (Src.code b)) with lit := b.word, pc := 0 }
  | .tid m d b => some (mkRaw m 2 52 (pack (Reg.code d) 0 b))
  | .mand m d a b => some (mkRaw m 2 53 (pack (maskCode d) (maskCode a) (maskCode b)))
  | .mor m d a b => some (mkRaw m 2 54 (pack (maskCode d) (maskCode a) (maskCode b)))
  | .mxor m d a b => some (mkRaw m 2 55 (pack (maskCode d) (maskCode a) (maskCode b)))
  | .mnot m d a => some (mkRaw m 2 56 (pack (maskCode d) (maskCode a) 0))
  | .m2v m d a => some (mkRaw m 2 57 (pack (Reg.code d) (maskCode a) 0))
  | .v2m m d a => some (mkRaw m 2 58 (pack (maskCode d) (Reg.code a) 0))
  | .ld8 m d a b => some { mkRaw m 3 0 (pack (Reg.code d) (Reg.code a) (Off.code b)) with lit := b.word, pc := 0 }
  | .ld8s m d a b => some { mkRaw m 3 1 (pack (Reg.code d) (Reg.code a) (Off.code b)) with lit := b.word, pc := 0 }
  | .ld16 m d a b => some { mkRaw m 3 2 (pack (Reg.code d) (Reg.code a) (Off.code b)) with lit := b.word, pc := 0 }
  | .ld16s m d a b => some { mkRaw m 3 3 (pack (Reg.code d) (Reg.code a) (Off.code b)) with lit := b.word, pc := 0 }
  | .ld32 m d a b => some { mkRaw m 3 4 (pack (Reg.code d) (Reg.code a) (Off.code b)) with lit := b.word, pc := 0 }
  | .ld64 m d a b => some { mkRaw m 3 5 (pack (Reg.code d) (Reg.code a) (Off.code b)) with lit := b.word, pc := 0 }
  | .ld128 m d a b => some { mkRaw m 3 6 (pack (Reg.code d) (Reg.code a) (Off.code b)) with lit := b.word, pc := 0 }
  | .st8 m d a b => some { mkRaw m 3 7 (pack (Reg.code d) (Reg.code a) (Off.code b)) with lit := b.word, pc := 0 }
  | .st16 m d a b => some { mkRaw m 3 8 (pack (Reg.code d) (Reg.code a) (Off.code b)) with lit := b.word, pc := 0 }
  | .st32 m d a b => some { mkRaw m 3 9 (pack (Reg.code d) (Reg.code a) (Off.code b)) with lit := b.word, pc := 0 }
  | .st64 m d a b => some { mkRaw m 3 10 (pack (Reg.code d) (Reg.code a) (Off.code b)) with lit := b.word, pc := 0 }
  | .st128 m d a b => some { mkRaw m 3 11 (pack (Reg.code d) (Reg.code a) (Off.code b)) with lit := b.word, pc := 0 }
  | .ldU m d a b => some { mkRaw m 3 12 (pack (Reg.code d) (Reg.code a) (Off.code b)) with lit := b.word, pc := 0 }
  | .stU m d a b => some { mkRaw m 3 13 (pack (Reg.code d) (Reg.code a) (Off.code b)) with lit := b.word, pc := 0 }
  | .ldRc m d a b => some { mkRaw m 3 14 (pack (Reg.code d) (Reg.code a) (Off.code b)) with lit := b.word, pc := 0 }
  | .pf m a b => some { mkRaw m 3 15 (pack 0 (Reg.code a) (Off.code b)) with lit := b.word, pc := 0 }
  | .atomAdd m d a b => some { mkRaw m 3 16 (pack (Reg.code d) (Reg.code a) (Src.code b)) with lit := b.word, pc := 0 }
  | .atomMinI m d a b => some { mkRaw m 3 17 (pack (Reg.code d) (Reg.code a) (Src.code b)) with lit := b.word, pc := 0 }
  | .atomMaxI m d a b => some { mkRaw m 3 18 (pack (Reg.code d) (Reg.code a) (Src.code b)) with lit := b.word, pc := 0 }
  | .atomMinN m d a b => some { mkRaw m 3 19 (pack (Reg.code d) (Reg.code a) (Src.code b)) with lit := b.word, pc := 0 }
  | .atomMaxN m d a b => some { mkRaw m 3 20 (pack (Reg.code d) (Reg.code a) (Src.code b)) with lit := b.word, pc := 0 }
  | .atomAnd m d a b => some { mkRaw m 3 21 (pack (Reg.code d) (Reg.code a) (Src.code b)) with lit := b.word, pc := 0 }
  | .atomOr m d a b => some { mkRaw m 3 22 (pack (Reg.code d) (Reg.code a) (Src.code b)) with lit := b.word, pc := 0 }
  | .atomXor m d a b => some { mkRaw m 3 23 (pack (Reg.code d) (Reg.code a) (Src.code b)) with lit := b.word, pc := 0 }
  | .atomXch m d a b => some { mkRaw m 3 24 (pack (Reg.code d) (Reg.code a) (Src.code b)) with lit := b.word, pc := 0 }
  | .atomCas m d a b c => some { mkRaw m 3 25 (pack (Reg.code d) (Reg.code a) (Src.code b)) with lit := (b.word <|> c.word), pc := c.code }
  | .atomFadd m d a b => some { mkRaw m 3 26 (pack (Reg.code d) (Reg.code a) (Src.code b)) with lit := b.word, pc := 0 }
  | .atomAdd64 m d a b => some { mkRaw m 3 27 (pack (Reg.code d) (Reg.code a) (Src.code b)) with lit := b.word, pc := 0 }
  | .redmAdd m a b => some { mkRaw m 3 28 (pack 0 (Reg.code a) (Src.code b)) with lit := b.word, pc := 0 }
  | .redmFadd m a b => some { mkRaw m 3 29 (pack 0 (Reg.code a) (Src.code b)) with lit := b.word, pc := 0 }
  | .redmMax m a b => some { mkRaw m 3 30 (pack 0 (Reg.code a) (Src.code b)) with lit := b.word, pc := 0 }
  | .fence m => some (mkRaw m 3 31 0)
  | .nap m a b => some { mkRaw m 3 32 (pack 0 (Reg.code a) (Src.code b)) with lit := b.word, pc := 0 }
  | .mbxLd m d a b => some { mkRaw m 3 33 (pack (Reg.code d) (Reg.code a) (Off.code b)) with lit := b.word, pc := 0 }
  | .mbxSt m d a b => some { mkRaw m 3 34 (pack (Reg.code d) (Reg.code a) (Off.code b)) with lit := b.word, pc := 0 }
  | .mbxTst m d a b => some { mkRaw m 3 35 (pack (Reg.code d) (Reg.code a) (Off.code b)) with lit := b.word, pc := 0 }
  | .br m off => some (mkRaw m 4 0 off)
  | .brC m k off => some (mkRaw m 4 1 (BitVec.ofNat 3 k.val ++ off))
  | .brAny m k off => some (mkRaw m 4 2 (BitVec.ofNat 3 k.val ++ off))
  | .brAll m k off => some (mkRaw m 4 3 (BitVec.ofNat 3 k.val ++ off))
  | .brx m d a b => some (mkRaw m 4 4 (pack d (Reg.code a) (Reg.code b)))
  | .call m off => some (mkRaw m 4 5 off)
  | .callX m a => some (mkRaw m 4 6 (pack 0 (Reg.code a) 0))
  | .ret m => some (mkRaw m 4 7 0)
  | .div m off => some (mkRaw m 4 8 ((0 : BitVec 3) ++ off))
  | .join m => some (mkRaw m 4 9 0)
  | .exit m => some (mkRaw m 4 10 0)
  | .barArr m scope num => some (mkRaw m 4 11 (scope ++ num ++ (0 : BitVec 14)))
  | .barArrRlx m scope num => some (mkRaw m 4 12 (scope ++ num ++ (0 : BitVec 14)))
  | .barWait m scope num => some (mkRaw m 4 13 (scope ++ num ++ (0 : BitVec 14)))
  | .barSync m scope num => some (mkRaw m 4 14 (scope ++ num ++ (0 : BitVec 14)))
  | .syncP m a => some (mkRaw m 4 15 (pack 0 (Reg.code a) 0))
  | .idem m => some (mkRaw m 4 16 0)
  | .nop m => some (mkRaw m 4 17 0)
  | .loop m c off => some (mkRaw m 4 18 (c ++ off))
  | .belPut m d a b => some { mkRaw m 5 0 (pack (Reg.code d) (Reg.code a) (Src.code b)) with lit := b.word, pc := 0 }
  | .belRet m d a => some (mkRaw m 5 1 (pack (Reg.code d) (Reg.code a) 0))
  | .belGet m d a b => some { mkRaw m 5 2 (pack (Reg.code d) (Reg.code a) (Src.code b)) with lit := b.word, pc := 0 }
  | .belFacts m d a => some (mkRaw m 5 3 (pack (Reg.code d) (Reg.code a) 0))
  | .belTst m d a b => some { mkRaw m 5 4 (pack (maskCode d) (Reg.code a) (Src.code b)) with lit := b.word, pc := 0 }
  | .goalAdd m a b => some (mkRaw m 5 5 (pack 0 (Reg.code a) (Reg.code b)))
  | .goalDone m d a b => some { mkRaw m 5 6 (pack (Reg.code d) (Reg.code a) (Src.code b)) with lit := b.word, pc := 0 }
  | .goalFail m a => some (mkRaw m 5 7 (pack 0 (Reg.code a) 0))
  | .intAdopt m d a b => some (mkRaw m 5 8 (pack (Reg.code d) (Reg.code a) (Reg.code b)))
  | .intDrop m a => some (mkRaw m 5 9 (pack 0 (Reg.code a) 0))
  | .intSusp m d a b => some (mkRaw m 5 10 (pack (Reg.code d) (Reg.code a) (Reg.code b)))
  | .intResm m d a b => some { mkRaw m 5 11 (pack (Reg.code d) (Reg.code a) (Src.code b)) with lit := b.word, pc := 0 }
  | .planSub m d a b => some (mkRaw m 5 12 (pack (Reg.code d) (Reg.code a) (Reg.code b)))
  | .planRet m a b => some { mkRaw m 5 13 (pack 0 (Reg.code a) (Src.code b)) with lit := b.word, pc := 0 }
  | .step m a b => some { mkRaw m 5 14 (pack 0 (Reg.code a) (Src.code b)) with lit := b.word, pc := 0 }
  | .intInfo m d a => some (mkRaw m 5 15 (pack (Reg.code d) (Reg.code a) 0))
  | .agtNew m d b => some { mkRaw m 5 16 (pack (Reg.code d) 0 (Src.code b)) with lit := b.word, pc := 0 }
  | .agtFree m a => some (mkRaw m 5 17 (pack 0 (Reg.code a) 0))
  | .tileClaim m d b => some { mkRaw m 6 0 (pack (Reg.code d) 0 (Src.code b)) with lit := b.word, pc := 0 }
  | .tileRel m a b => some { mkRaw m 6 1 (pack 0 (SlotRef.code a) (Src.code b)) with lit := b.word, pc := 0 }
  | .tileSt m d a => some (mkRaw m 6 2 (pack (Reg.code d) (SlotRef.code a) 0))
  | .cpIn m d a b => some { mkRaw m 6 3 (pack (Reg.code d) (Reg.code a) (Src.code b)) with lit := b.word, pc := 0 }
  | .cpOut m d a b => some { mkRaw m 6 4 (pack (Reg.code d) (Reg.code a) (Src.code b)) with lit := b.word, pc := 0 }
  | .cpMem m d a b => some { mkRaw m 6 5 (pack (Reg.code d) (Reg.code a) (Src.code b)) with lit := b.word, pc := 0 }
  | .cpInMx m d a b => some { mkRaw m 6 6 (pack (Reg.code d) (Reg.code a) (Src.code b)) with lit := b.word, pc := 0 }
  | .mxMma m d a b => some (mkRaw m 6 7 (pack (fin2Code d) (SlotRef.code a) (SlotRef.code b)))
  | .mxSm m d a b => some { mkRaw m 6 8 (pack (fin2Code d) (SlotRef.code a) (Src.code b)) with lit := b.word, pc := 0 }
  | .mxRd m d a b => some { mkRaw m 6 9 (pack (Reg.code d) (fin2Code a) (Src.code b)) with lit := b.word, pc := 0 }
  | .mxClr m d => some (mkRaw m 6 10 (pack (fin2Code d) 0 0))
  | .mxCtlClaim m d => some (mkRaw m 6 11 (pack (fin2Code d) 0 0))
  | .mxCtlBind m d => some (mkRaw m 6 11 (pack (fin2Code d) 0 1))
  | .mxCtlRelease m d => some (mkRaw m 6 11 (pack (fin2Code d) 0 2))
  | .tlWait m a b => some { mkRaw m 6 12 (pack 0 (fin16Code a) (Src.code b)) with lit := b.word, pc := 0 }
  | .tlRd m d a b => some (mkRaw m 6 13 (pack (Reg.code d) (fin16Code a) (fin2Code b)))
  | .tlInc m d a b => some { mkRaw m 6 14 (pack (Reg.code d) (fin16Code a) (Src.code b)) with lit := b.word, pc := 0 }
  | .bankCmd m d a b => some { mkRaw m 6 15 (pack (Reg.code d) (Reg.code a) (Src.code b)) with lit := b.word, pc := 0 }
  | .launch m d a => some (mkRaw m 6 16 (pack (maskCode d) (Reg.code a) 0))
  | .recEmit m d a b => some { mkRaw m 6 17 (pack (Reg.code d) (Reg.code a) (Src.code b)) with lit := b.word, pc := 0 }
  | .logApp m d a b => some (mkRaw m 6 18 (pack (Reg.code d) (Reg.code a) (Reg.code b)))
  | .envClaim m d b => some { mkRaw m 6 32 (pack (Reg.code d) 0 (Src.code b)) with lit := b.word, pc := 0 }
  | .envRel m a b => some { mkRaw m 6 33 (pack 0 (EnvRef.code a) (Src.code b)) with lit := b.word, pc := 0 }
  | .envClr m d b => some (mkRaw m 6 34 (pack (EnvRef.code d) 0 (Reg.code b)))
  | .envIns m d a b => some { mkRaw m 6 35 (pack (EnvRef.code d) (Reg.code a) (Src.code b)) with lit := b.word, pc := 0 }
  | .envSum m d a b => some (mkRaw m 6 36 (pack (EnvRef.code d) (EnvRef.code a) (EnvRef.code b)))
  | .envMax m d a b => some (mkRaw m 6 37 (pack (EnvRef.code d) (EnvRef.code a) (EnvRef.code b)))
  | .envIcv m d a b => some (mkRaw m 6 38 (pack (EnvRef.code d) (EnvRef.code a) (EnvRef.code b)))
  | .envConj m d a b => some (mkRaw m 6 39 (pack (EnvRef.code d) (EnvRef.code a) (Reg.code b)))
  | .envSimp m d a => some (mkRaw m 6 40 (pack (EnvRef.code d) (EnvRef.code a) 0))
  | .envEval m d a b => some { mkRaw m 6 41 (pack (Reg.code d) (EnvRef.code a) (Src.code b)) with lit := b.word, pc := 0 }
  | .envSlope m d a b => some { mkRaw m 6 42 (pack (Reg.code d) (EnvRef.code a) (Src.code b)) with lit := b.word, pc := 0 }
  | .envRd m d a b => some { mkRaw m 6 43 (pack (Reg.code d) (EnvRef.code a) (Src.code b)) with lit := b.word, pc := 0 }
  | .envCnt m d a => some (mkRaw m 6 44 (pack (Reg.code d) (EnvRef.code a) 0))
  | .envLd m d a => some (mkRaw m 6 45 (pack (EnvRef.code d) (Reg.code a) 0))
  | .envSt m d a => some (mkRaw m 6 46 (pack (EnvRef.code d) (Reg.code a) 0))
  | .csrRd m d a => some (mkRaw m 7 0 (pack (Reg.code d) (Csr.code a) 0))
  | .csrWr m a b => some { mkRaw m 7 1 (pack 0 (Csr.code a) (Src.code b)) with lit := b.word, pc := 0 }
  | .csrSet m d a b => some { mkRaw m 7 2 (pack (Reg.code d) (Csr.code a) (Src.code b)) with lit := b.word, pc := 0 }
  | .csrClr m d a b => some { mkRaw m 7 3 (pack (Reg.code d) (Csr.code a) (Src.code b)) with lit := b.word, pc := 0 }
  | .trap m b => some { mkRaw m 7 4 (pack 0 0 (Src.code b)) with lit := b.word, pc := 0 }
  | .tret m => some (mkRaw m 7 5 (pack 0 0 0))
  | .brk m b => some (mkRaw m 7 6 (pack 0 0 b))
  | .clk m d => some (mkRaw m 7 7 (pack (Reg.code d) 0 0))
  | .fenceWin m => some (mkRaw m 7 8 (pack 0 0 0))
  | .specialFunctionResult _ => none
  | .mailboxStorePerform _ => none
  | .homeAcceptance _ => none
  | .loadResultWrite _ => none
  | .writeAcknowledged _ => none
  | .gridEndFlush _ => none
  | .barrierArrivalCount _ => none
  | .stewardReply _ => none
  | .exitEndRequest _ => none
  | .planSelection _ => none
  | .activationEntry _ => none
  | .coachTimerDeparture _ _ => none
  | .dieFifoPlacement _ => none
  | .porterChunk _ _ => none
  | .followOnIssue _ _ => none
  | .matrixCommandExecute _ _ => none
  | .bankListStart _ => none
  | .bend _ => none
  | .bvec _ => none
  | .bmv _ => none
  | .bclr _ => none
  | .bout _ => none
  | .bsync _ => none
  | .deferredLaunchEnqueue _ => none
  | .envelopeExecute _ => none
  | .clauseEntry _ => none
  | .lanePick _ => none
  | .trapEntry _ => none
  | .napTimeout _ => none
  | .periodBoundary => none
  | .tokenReturn _ => none
  | .watchdogExpiry _ => none
  | .gridPlacement _ => none
  | .crewAdmission _ => none
  | .restoration _ => none
  | .preemption _ => none
  | .lodgingRestore _ => none
  | .caravanMemberLoss _ => none
  | .functionLevelReset _ => none
  | .pfReset => none
  | .warmReset => none
  | .coldReset => none
  | .firmwareBoot => none
  | .recoveryImage _ => none
  | .fullServiceTransition => none
  | .innkeeperMismatch => none
  | .doorbell _ _ => none
  | .statusResume _ => none
  | .powerCap _ => none
  | .barRegisterWrite _ _ _ => none
  | .packetStart _ => none
  | .packetWait _ => none
  | .packetSignal _ => none
  | .msixUnmask _ _ => none
  | .nopPacket _ => none
  | .grid _ => none
  | .copy _ => none
  | .ib _ => none
  | .loopPacket _ => none
  | .ffence _ => none
  | .inval _ => none
  | .invalidationArrival _ _ => none
  | .invalidationComplete _ => none
  | .pageWalk _ _ _ => none
  | .coll _ => none
  | .collectiveComplete _ => none
  | .msg _ => none
  | .messageReceive _ => none
  | .regionCreate _ => none
  | .regionDestroy _ => none
  | .agents _ => none
  | .libraryInstall _ _ _ => none
  | .lodgingDescriptorWrite _ _ => none
  | .blockAssign _ _ => none
  | .winOpen _ => none
  | .winClose _ => none
  | .cellarPin _ _ _ => none
  | .cellarUnpin _ _ _ => none
  | .attestationReport _ _ => none
  | .migration _ _ => none
  | .passportAccept _ _ => none
  | .caravanSliceStart _ => none
  | .lineWriteMemory _ => none
  | .lineReadMemory _ => none
  | .lineWriteback _ => none
  | .patrolScrub _ => none
  | .regionTagLoss _ _ => none
  | .fabricTimeout _ => none
  | .portFailure _ => none
  | .budgetPeriod => none
  | .powerSample _ _ => none
  | .blockedOnDependence _ => none
  | .caravanSliceEnd _ => none
  | .debugHalt _ => none
  | .restoreAcknowledged _ => none
  | .failedFlit _ => none

/-- The words of an instruction: prefix, base, literal (R78). -/
def Raw.words (x : Raw) : List Word :=
  (match x.pre with | some p => [p.word x.pc] | none => []) ++ [x.word] ++
    (match x.lit with | some w => [w] | none => [])

/-- The words of an instruction, in packet order; none for a step without a word of its own. -/
def encode (i : Instr) : Option (List Word) := i.raw.map Raw.words

/-! ### Decode checks (R83) -/

/-- A vector register field. -/
def isVec (f : BitVec 7) : Bool := f.toNat < 96
/-- A uniform register field. -/
def isUni (f : BitVec 7) : Bool := 96 ≤ f.toNat && f.toNat < 127

/-- Whether a field of this kind can name the literal word (R73). -/
def Opnd.mayLit : Opnd → Bool
  | .src | .srcPair | .srcUni | .off => true
  | _ => false

/-- Whether 0x7F in D or A of this kind is a literal misplaced there (R73, R233, R254, R270). -/
def Opnd.litFault : Opnd → Bool
  | .reg | .pair | .vec | .vpair | .run4 | .run8 | .uni | .unip | .slot | .env | .csrD | .zeroL => true
  | _ => false

/-- Whether a field breaks its kind (cause 0x02): a register of the wrong file, an odd pair, a run out of step, a mask
above m7 or m0 as a destination, an immediate out of range, a nonzero unused field. A literal marker passes where the
kind may name one. -/
def Opnd.bad (k : Opnd) (f : BitVec 7) : Bool :=
  let n := f.toNat
  if k.mayLit && n == 127 then false
  else match k with
  | .zero | .zeroL => n != 0
  | .reg | .csrD => n == 127
  | .src => false
  | .pair | .srcPair => n == 127 || (isVec f && n % 2 == 1)
  | .vec => !isVec f
  | .vpair => !(isVec f && n % 2 == 0)
  | .run4 => !(isVec f && n % 4 == 0)
  | .run8 => !(isVec f && n % 8 == 0)
  | .uni | .srcUni => !isUni f
  | .unip => !(isUni f && n % 2 == 0 && n ≤ 124)
  | .mask => 7 < n
  | .maskD => 7 < n || n == 0
  | .imm | .off => false
  | .shift => 31 < n
  | .tidSel => 7 < n
  | .bound => n == 0
  | .upto m => m < n
  | .slot => 63 < n && !isUni f
  | .env => 15 < n && !isUni f
  | .ctx => 1 < n
  | .tl => 15 < n
  | .tlSoft => 15 < n || n < 8
  | .csr => (csrOf f).isNone

/-- The repeat count of a prefix (R78). -/
def Prefix.count (p : Prefix) : Nat := p.rep.toNat + 1

/-- How many times a word is executed: the repeat of its prefix, outside class 3 (R79, R82). -/
def Raw.reps (x : Raw) : Nat :=
  match x.pre with
  | some p => if x.cls = 3 then 1 else p.count
  | none => 1

/-- Whether D names a uniform register that the function reads or writes as an operand. -/
def Raw.uniformD (r : Row) (x : Raw) : Bool :=
  match r.layout with
  | .dab .reg _ _ | .dab .pair _ _ | .dab .uni _ _ | .dab .csrD _ _ => isUni x.d
  | .mv => isUni x.d
  | _ => false

/-- The vector registers a field names: first and length, for one iteration. -/
def Opnd.span (k : Opnd) (f : BitVec 7) : Option (Nat × Nat) :=
  if !isVec f then none
  else match k with
  | .reg | .vec | .src | .csrD => some (f.toNat, 1)
  | .pair | .vpair | .srcPair => some (f.toNat, 2)
  | .run4 => some (f.toNat, 4)
  | .run8 => some (f.toNat, 8)
  | _ => none

/-- Whether a source run overlaps a destination run in part (R82, R100, R180): under a repeat only the same first register
is legal; without one, a destination of several registers may hold a source that starts at its first register, or a pair
or run lying inside it, and nothing else. -/
def overlapBad (reps : Nat) (d s : Nat × Nat) : Bool :=
  let dl := d.2 + reps - 1
  let sl := s.2 + reps - 1
  let meet := d.1 < s.1 + sl && s.1 < d.1 + dl
  if 1 < reps then meet && d.1 != s.1
  else 1 < d.2 && meet && !(d.1 == s.1) && !(1 < s.2 && d.1 ≤ s.1 && s.1 + s.2 ≤ d.1 + d.2)

/-- Whether a class-3 order and scope pass (R79, R164); `nap` and the plain accesses take only order rlx and scope core. -/
def ordOk (u : OrdUse) (p : Prefix) : Bool :=
  match u with
  | .rlx => p.rnd == 0 && p.rep == 0
  | .scope => p.rnd == 0 && p.rep.toNat ≤ 5
  | .all => p.rnd.toNat ≤ 3 && p.rep.toNat ≤ 5

/-- The prefix word's own failure for a base with rules `r` (R78, R80): 0x05, then 0x04, then 0x02. -/
def prefixCause (r : Row) (x : Raw) : Option (BitVec 6) :=
  match x.pre with
  | none => none
  | some p =>
    if r.cf == .value && x.pc == 0x7F && (x.b == 0x7F || x.lit.isNone) then some 0x05
    else if !r.pfx || x.uniformD r || (p.mask == 0 && p.inv) || (x.cls != 3 && p.rnd == 7)
        || (x.cls == 0 && p.rnd != 0) || (p.zero && !r.pol)
        || (x.cls != 3 && p.rep != 0 && !r.rep) || (x.cls == 3 && !ordOk r.ord p)
        || (r.cf == .zero && x.pc != 0) then some 0x04
    else if r.cf == .mask && (maskOf x.pc).isNone then some 0x02
    else none

/-- The base word's failure with rules `r` (R72 to R82 and the entries): 0x05, then 0x04, then 0x02, then 0x06. -/
def baseCause (r : Row) (x : Raw) : Option (BitVec 6) :=
  let needs := r.cf != .zero && x.pre.isNone
  match r.layout with
  | .dab d a b =>
    let uni := x.uniformD r
    let reps := x.reps
    let past := fun (k : Opnd) (f : BitVec 7) => match k.span f with
      | some (n, l) => 96 < n + l + reps - 1
      | none => false
    if (d.litFault && x.d == 0x7F) || (a.litFault && x.a == 0x7F) || (b.mayLit && x.b == 0x7F && x.lit.isNone)
    then some 0x05
    else if needs then some 0x04
    else if d.bad x.d || a.bad x.a || b.bad x.b
        || (uni && r.uni && (isVec x.a && (a.span x.a).isSome || isVec x.b && (b.span x.b).isSome))
        || (uni && r.uniB && isVec x.b && (b.span x.b).isSome)
        || (b == .tidSel && uni && x.b == 0)
        || (d == .csrD && match csrOf x.a with
            | some c => if isVec x.d then !c.narrow && x.d.toNat % 2 == 1 else c == .taddr
            | none => false)
        || past d x.d || past a x.a || past b x.b
        || (r.cf == .value && x.pc != 0x7F && (regOf x.pc).isNone) then some 0x02
    else if r.writes && (match d.span x.d with
        | none => false
        | some dd =>
          let dd := match d, csrOf x.a with
            | .csrD, some c => if c.narrow then dd else (dd.1, 2)
            | _, _ => dd
          ([(a, x.a), (b, x.b)] ++ (if r.cf == .value then [(Opnd.src, x.pc)] else [])).any (fun e =>
            match e.1.span e.2 with
            | some ss => overlapBad reps dd ss
            | none => false)) then some 0x06
    else none
  | .mv =>
    if x.d == 0x7F then some 0x05
    else if isVec x.d && 96 < x.d.toNat + x.reps then some 0x02 else none
  | .bj | .bc => none
  | .bd => if x.top3 != 0 then some 0x02 else none
  | .bl => if x.top3 == 7 then some 0x02 else none
  | .bar =>
    let num := (x.low.extractLsb' 14 4).toNat
    let lim := match x.top3.toNat with | 0 => 16 | 1 => 8 | 2 => 8 | 3 => 4 | 4 => 4 | _ => 0
    if x.low.extractLsb' 0 14 != 0 || lim ≤ num then some 0x02 else none
  | .none =>
    if x.cls == 7 && (x.d == 0x7F || x.a == 0x7F) then some 0x05
    else if x.low != 0 then some 0x02 else none

/-- Whether the base word reads the packet's next word as its literal (R73). -/
def takesLit (r : Row) (x : Raw) : Bool :=
  (match r.layout with
   | .dab _ _ b => b.mayLit && x.b == 0x7F
   | _ => false) || (r.cf == .value && x.pre.isSome && x.pc == 0x7F)

/-- The registers, masks and uniform registers a word writes (R76), as numbers 0 to 95, 100 and up, 200 and up. -/
def destsOf (r : Row) (x : Raw) : List Nat :=
  let uni := if isUni x.d then [100 + x.d.toNat - 96] else []
  match r.layout with
  | .dab .maskD _ _ => [200 + x.d.toNat]
  | .dab d _ _ =>
    if !r.writes then []
    else match d.span x.d with
    | some (n, l) =>
      let l := match d, csrOf x.a with
        | .csrD, some c => if c.narrow then 1 else 2
        | _, _ => l
      (List.range (l + x.reps - 1)).map (n + ·)
    | none => uni
  | .mv => if isVec x.d then (List.range x.reps).map (x.d.toNat + ·) else uni
  | .bl => [100 + 24 + x.top3.toNat]
  | _ => []

/-- The pipe of a class (R75): classes 4 and 5 share pipe C. -/
def pipeOf (cls : BitVec 3) : Nat := if cls.toNat ≤ 4 then cls.toNat else cls.toNat - 1

/-- A decode failure (R83, R275): its cause, the slot of the failing word, and whether the header is at fault. -/
structure Diag where
  cause : BitVec 6
  slot : Nat
  header : Bool
  deriving DecidableEq, Repr

/-- The fields of a clause header (R68). -/
structure Header where
  wait : BitVec 12
  flagA : Nat
  flagB : Nat
  gaps : List Nat
  deriving DecidableEq, Repr

/-- A header's flag field names a flag or none. -/
def flagOk (n : Nat) : Bool := n < 12 || n == 15

/-- The clause header (R68). -/
def headerOf (w : Word) : Except Diag Header :=
  let fa := (w.extractLsb' 12 4).toNat
  let fb := (w.extractLsb' 16 4).toNat
  if w.extractLsb' 30 2 != 0 || !flagOk fa || !flagOk fb then .error ⟨0x02, 0, true⟩
  else .ok ⟨w.extractLsb' 0 12, fa, fb,
    (List.range 5).map (fun k => match (w.extractLsb' (20 + 2 * k) 2).toNat with | 0 => 0 | 1 => 1 | 2 => 2 | _ => 4)⟩

/-- Whether a word is 7.0x3F. -/
def isPrefixWord (w : Word) : Bool := w.extractLsb' 21 9 == 0x1FF

/-- The prefix fields of 7.0x3F. -/
def prefixOf (w : Word) : Prefix :=
  ⟨w.getLsbD 30, ⟨(w.extractLsb' 18 3).toNat, (w.extractLsb' 18 3).isLt⟩, w.getLsbD 17, w.getLsbD 16, w.extractLsb' 13 3, w.extractLsb' 10 3⟩

/-- What the chain group being read has used so far (R76). -/
structure ChainUse where
  pipes : List Nat
  dests : List Nat
  deriving DecidableEq, Repr

/-- One instruction of a packet: the instruction, the slots of its first word and of the word after it, whether any of its
words carries Y, and the pipes and destinations its group has used with it. -/
structure Read where
  instr : Instr
  first : Nat
  next : Nat
  give : Bool
  use : ChainUse
  deriving Repr

/-- The fields of a base word read at slot `j` of the packet `ws`. -/
def rawAt (ws : List Word) (j : Nat) (pre : Option Prefix) (pc : BitVec 7) : Raw :=
  let w := ws.getD j 0
  ⟨w.getLsbD 31, w.getLsbD 30, w.extractLsb' 27 3, w.extractLsb' 21 6, w.extractLsb' 0 21, none, pre, pc⟩

/-- Read the base word at slot `j`, whose prefix, if any, stands at `j - 1` (R76, R80, R83). -/
noncomputable def readBase (h : Header) (ws : List Word) (j : Nat) (pre : Option Prefix) (pc : BitVec 7) (use : ChainUse) :
    Except Diag Read := do
  let x := rawAt ws j pre pc
  let first := if pre.isSome then j - 1 else j
  match rowOf x.cls x.fn with
  | none => .error ⟨0x01, j, false⟩
  | some r =>
    let lit := takesLit r x
    let x := if lit then { x with lit := ws[j + 1]? } else x
    match prefixCause r x with
    | some c => .error ⟨c, first, false⟩
    | none =>
    let next := if lit then j + 2 else j + 1
    let pipe := pipeOf x.cls
    let dests := destsOf r x
    if (x.chain && 3 ≤ next) || use.pipes.contains pipe || dests.any use.dests.contains then
      .error ⟨0x03, j, false⟩
    else match baseCause r x with
    | some c => .error ⟨c, j, false⟩
    | none =>
    if (r.flag == .a && h.flagA == 15) || (r.flag == .b && h.flagB == 15) then .error ⟨0x02, j, false⟩
    else match build x with
    | none => .error ⟨0x02, j, false⟩
    | some i =>
      let give := x.give || (match pre with | some p => p.give | none => false)
      .ok ⟨i, first, next, give, ⟨use.pipes ++ [pipe], use.dests ++ dests⟩⟩

/-- Read the instruction whose first word stands at slot `k` (R78, R83). -/
noncomputable def readAt (h : Header) (ws : List Word) (k : Nat) (use : ChainUse) : Except Diag Read :=
  let w := ws.getD k 0
  if isPrefixWord w then
    if 2 ≤ k then .error ⟨0x03, k, false⟩
    else if !w.getLsbD 31 || isPrefixWord (ws.getD (k + 1) 0) || w.extractLsb' 7 3 != 0 then .error ⟨0x04, k, false⟩
    else readBase h ws (k + 1) (some (prefixOf w)) (w.extractLsb' 0 7) use
  else readBase h ws k none 0 use

/-- A chain group (R75): its words' instructions in slot order, its first slot and the slot after it. -/
structure Group where
  instrs : List Instr
  first : Nat
  next : Nat
  give : Bool
  deriving Repr

/-- Whether an instruction's word has C = 1. -/
def Instr.chained (i : Instr) : Bool := match i.raw with | some x => x.chain | none => false

/-- Read the rest of a packet from slot `k`: `cur` is the group being read. A packet has three words, so three readings
suffice. -/
noncomputable def readGroups (h : Header) (ws : List Word) : Nat → Nat → List Instr → Nat → Bool → ChainUse → Except Diag (List Group)
  | 0, _, _, _, _, _ => .ok []
  | fuel + 1, k, cur, first, give, use =>
    if 3 ≤ k then .ok []
    else match readAt h ws k use with
    | .error d => .error d
    | .ok r =>
      let first := if cur.isEmpty then r.first else first
      let cur := cur ++ [r.instr]
      let give := give || r.give
      if r.instr.chained then readGroups h ws fuel r.next cur first give r.use
      else match readGroups h ws fuel r.next [] r.next false ⟨[], []⟩ with
        | .error d => .error d
        | .ok gs => .ok (⟨cur, first, r.next, give⟩ :: gs)

/-- A packet: the header's fields and the chain groups of its three words, or the first failure (R83). -/
noncomputable def decodePacket (header : Word) (ws : List Word) : Except Diag (Header × List Group) :=
  match headerOf header with
  | .error d => .error d
  | .ok h => match readGroups h ws 3 0 [] 0 false ⟨[], []⟩ with
    | .error d => .error d
    | .ok gs => .ok (h, gs)

/-- The instruction a list of packet words starts with, under a header that names both flags. -/
noncomputable def decodeWords (ws : List Word) : Option Instr :=
  match readAt ⟨0, 0, 0, [0, 0, 0, 0, 0]⟩ ws 0 ⟨[], []⟩ with
  | .ok r => some r.instr
  | .error _ => none

/-! ### The opcode table's words -/

/-- The prefix that selects every thread of m0, merges, does not repeat and has fourth operand 0. -/
def plainPrefix : Word := (⟨false, 0, false, false, 0, 0⟩ : Prefix).word 0

/-- The words of a packet that begins with the table's word `w` in slot order, all bits above it 0. `sel` and `atom.cas`
need their prefix (R80), which stands before them (log entry 10). -/
def tableWords (w : Nat) : List Word :=
  let b := BitVec.ofNat 32 w
  let rest := BitVec.ofNat 32 (w / 2 ^ 32)
  if b.extractLsb' 21 9 == 0x1F || b.extractLsb' 21 9 == (3 * 64 + 0x19 : BitVec 9) then [plainPrefix, b, rest]
  else [b, rest, BitVec.ofNat 32 (w / 2 ^ 64)]

/-- The instruction the decoder reads from a word of the opcode table. -/
noncomputable def decodeTableWord (_nbits w : Nat) : Option Instr := decodeWords (tableWords w)

end Sys2Proof
end

