-- ==== Sys2Proof/Machine/State.lean ====
section
/-! DEFINITION. The state of the AM-960 as plain data: what each thread, party, crew, core, quad, lodging, memory line,
stream and package register holds, the faults and refusals, and the state right after cold reset.

Sparse stores (`Sparse`) list only the entries that differ from their reset value; numbers of parties, crews, launches,
requests and packets are drawn from `State.nextId`. -/

namespace Sys2Proof.Machine

open Sys2Proof

/-- What stops the machine. -/
inductive Fault where
  /-- An encoded instruction was executed while no party is issuing. Raised by every encoded meaning when `State.cur`
  names no party; safe, since no lane issues a word outside a party (R8). -/
  | noIssuingParty
  deriving DecidableEq, Repr

/-- What the model turns away. -/
inductive Refusal where
  /-- The instruction has no meaning in this model yet. Raised by arms of `exec` only; safe. -/
  | notModelled (mnemonic : String)
  deriving DecidableEq, Repr

/-! ### Parties -/

/-- The registers a party's threads and the party itself hold (R10): vector registers keyed by 1024·t + physical number,
uniform registers s1 to s30, masks m1 to m7. Unlisted registers read 0 (R10, R13). -/
structure RegFile where
  v : Sparse Word
  u : Sparse DWord
  m : Sparse Mask
  deriving DecidableEq, Repr

/-- A divergence entry (R25): the join address and the members still expected. `arrived` holds those that wait. -/
structure DivEntry where
  join : DWord
  members : Mask
  arrived : Mask
  deriving DecidableEq, Repr

/-- One entry of the trap shadow (R273); `rerun` keeps the re-execution record of the trapped group (R169, R183). -/
structure Shadow where
  tpc : Sparse DWord
  joinWait : Mask
  syncWait : Mask
  callDepth : Sparse Nat
  wb : Nat
  entries : Nat
  level : BitVec 2
  rerun : Option Mask
  deriving DecidableEq, Repr

/-- A trap that is to be entered (R271, R274, R275): the cause, whether an engine record delivers it, the pc it reports,
the masks, the addresses by thread and the detail. `rerun` is the re-execution record it leaves. -/
structure TrapReq where
  cause : BitVec 6
  deferred : Bool
  epc : DWord
  mprev : Mask
  mfault : Mask
  addr : Sparse DWord
  info : DWord
  rerun : Option Mask
  deriving DecidableEq, Repr

/-- What a parked party waits for (R30, R177, R179, R223). `nap` keeps its watched lines, the lane-cycles left of its
timeout, and the place of the group for the watchdog; the other waits execute their group again on return. -/
inductive Park where
  | none
  | nap (lines : List Nat) (left : Option Nat) (addr : DWord) (m0 : Mask)
  | timeline (tl : Nat) (target : Nat)
  | barrier (inst : Nat) (phase : Nat)
  | mailbox
  | mbxStore
  deriving DecidableEq, Repr

/-- Where a party stands in its packet: the packet's code address, the words captured at its fetch (header and three
words), the slot of the next group and the slot after it, the threads still in m0, the threads that transferred, left or
wait in this packet, and whether any group of the packet has issued. -/
structure IssuePos where
  pkt : DWord
  words : Option (List Word)
  slot : Nat
  after : Nat
  m0 : Mask
  moved : Mask
  begun : Bool
  deriving DecidableEq, Repr

/-- How the group just executed leaves the party (R149, R211, R272): on to the next group, held at issue without effect,
or waiting for its home requests or parked on them. -/
inductive Ctl where
  | run
  | stall
  | await
  deriving DecidableEq, Repr

/-- A fault a home found for one thread (R272): thread, cause, address, detail, and whether the effect was kept (R423). -/
structure HomeFault where
  thread : Nat
  cause : BitVec 6
  addr : DWord
  info : DWord
  kept : Bool
  deriving DecidableEq, Repr

/-- Life of a party or crew (R30). -/
inductive Life where
  | pending | resident | switchedOut | evicted | saved | halted | retired
  deriving DecidableEq, Repr

/-- The control registers of R257 that belong to a party; `level`, `prior` and `single` are the changing fields of `pinfo`. -/
structure PartyCsr where
  fpctl : Word
  fpsum : Word
  envtol : Word
  envctl : Word
  mxctl : Word
  tcause : Word
  tepc : DWord
  tmprev : Mask
  tmfault : Mask
  taddr : Sparse DWord
  tinfo : DWord
  level : BitVec 2
  prior : BitVec 2
  single : Bool
  deriving DecidableEq, Repr

/-- The party as it stood before a chain group (R77): what its words read (registers, masks, active threads, window base and
control registers), and what a thread takes back when its home refuses it (R169): the control state of the threads. -/
structure Latch where
  regs : RegFile
  m0 : Mask
  wb : Nat
  csr : PartyCsr
  tpc : Sparse DWord
  xfer : Sparse DWord
  calls : Sparse (List DWord)
  depth : Sparse Nat
  left : Mask
  joinWait : Mask
  syncWait : Mask
  deriving DecidableEq, Repr

/-- A party (R8, R10, R24 to R26, R30). -/
structure Party where
  fe : Nat
  crew : Nat
  /-- The launch; none in a plan party (R18). -/
  grid : Option Nat
  plan : Bool
  width : Nat
  rt : Nat
  /-- Global lane: 64·core + lane; the resident slot of `pinfo`. -/
  lane : Nat
  rslot : Nat
  index : Nat
  count : Nat
  posInCrew : Nat
  prio : Nat
  life : Life
  regs : RegFile
  wb : Nat
  csr : PartyCsr
  /-- The stochastic generator of R58. -/
  gen : Word
  /-- Per flag, the operations that set it and have not completed (R14). -/
  flags : Sparse Nat
  tpc : Sparse DWord
  /-- The group whose transfer named a thread's tpc, until the thread advances (R274). -/
  xfer : Sparse DWord
  calls : Sparse (List DWord)
  depth : Sparse Nat
  left : Mask
  joinWait : Mask
  syncWait : Mask
  syncMask : Option Mask
  /-- The group of the latest `sync.p` and its threads, for the watchdog (R283). -/
  syncAt : DWord
  syncLast : Mask
  /-- Threads whose leaving request waits for its Steward (R183). -/
  leaving : Mask
  divs : List DivEntry
  idempc : Option DWord
  rc : Nat
  shadow : List Shadow
  rerun : Option Mask
  /-- Barrier states (R156), keyed by 16·scope + number: phase arrived in, plus 1. -/
  bars : Sparse Nat
  /-- The region sequence of each thread (R294, R332). -/
  region : Sparse Nat
  detached : Mask
  /-- The agent handle and intention slot each thread of a plan party runs (R23). -/
  runs : Sparse (Nat × Nat)
  park : Park
  parkedAt : Nat
  pos : IssuePos
  entered : Bool
  latch : Option Latch
  ctl : Ctl
  hold : Bool
  /-- Requests of the current group not accepted yet, and the faults its homes found. -/
  waitReqs : Nat
  homeFaults : List HomeFault
  pend : Option TrapReq
  /-- Issue age, gap turns left, give-way (R343, R344). -/
  age : Nat
  gap : Nat
  giveWay : Bool
  /-- Lane-cycles counted before `cycSince` (R264); `cycSince` is none while the count stands. -/
  cycAcc : Nat
  cycSince : Option Nat
  /-- Lines copied by `ld.rc` (R170): physical line and its bytes. -/
  rcCopies : Sparse (List Byte)
  /-- The windows a thread has written since its last `fence.win` (R269, R317): thread and window number. -/
  winWrites : List (Nat × Nat)
  deriving DecidableEq, Repr

/-! ### Requests -/

/-- The read-modify-write of an atomic or reduction (R173). -/
inductive AtomOp where
  | add | minI | maxI | minN | maxN | and | or | xor | xch | cas | fadd | add64
  deriving DecidableEq, Repr

/-- A class-5 request as its Steward receives it (R182). -/
inductive AgentOp where
  | belPut (key : Nat) (value : DWord)
  | belRet (key : Nat)
  | belGet (key : Nat)
  | belFacts
  | belTst (key : Nat)
  | goalAdd (entry : DWord)
  | goalDone (gid : Nat)
  | goalFail
  | intAdopt (spec : DWord)
  | intDrop
  | intSusp (ctl : Word) (wake : DWord) (run : List (Nat × Word))
  | intResm (arg : Word)
  | planSub (ctl : Word) (goal : DWord) (run : List (Nat × Word))
  | planRet (value : Word)
  | step (node : Word)
  | intInfo
  | agtNew (facts : DWord)
  | agtFree
  | exitEnd
  deriving DecidableEq, Repr

/-- An activation (R23, R192, R349): lodging, agent handle, intention slot and depth, plan, node, code address and timer
once its bucket has read them, arguments, the saved registers to restore, the frame locals' address, and whether it is a
detached record (R231). -/
structure Activation where
  fe : Nat
  handle : Nat
  slot : Nat
  depth : Nat
  plan : Nat
  node : Nat
  args : List Word
  run : List (Nat × Word)
  locals : DWord
  detached : Bool
  code : DWord
  timer : Nat
  arrived : Nat
  deriving DecidableEq, Repr

/-- What a request does at its home. -/
inductive ReqKind where
  | load (size : Nat) (sx : Bool)
  | rcLoad
  | store (size : Nat) (data : Nat)
  | atom (op : AtomOp) (b c : DWord)
  | mbxLd
  | mbxSt (value : DWord)
  | mbxTst
  | logApp (words : List Word)
  | agent (op : AgentOp) (handle : Word) (intent : Word)
  | emit (act : Activation)
  deriving DecidableEq, Repr

/-- Where a result goes: a run of physical vector registers of the thread, a uniform register, or a mask bit. -/
inductive Dest where
  | none
  | vec (base : Nat) (n : Nat)
  | uni (n : Nat)
  | mask (n : Nat)
  deriving DecidableEq, Repr

/-- Where a request stands: sent and not accepted; recorded in a mailbox FIFO or held by a full selection FIFO; accepted
with its reply to come; a write accepted and not acknowledged. -/
inductive Phase where
  | sent
  | waiting
  | selecting
  | reply (value : Nat)
  | unacked
  deriving DecidableEq, Repr

/-- A request on its way to a home or at it (R169, R172, R272, R294). `pieces` are physical ranges. -/
structure Req where
  fe : Nat
  party : Nat
  lane : Nat
  thread : Nat
  uniform : Bool
  /-- The threads the request counts for, with their regions: all threads of the party for a uniform access (R295). -/
  owners : List (Nat × Nat)
  va : DWord
  pieces : List (Nat × Nat)
  kind : ReqKind
  dest : Dest
  flag : Option Nat
  win : Bool
  rel : Bool
  acq : Bool
  pod : Bool
  /-- Belongs to the group its party is held on. -/
  held : Bool
  phase : Phase
  issued : Nat
  deriving DecidableEq, Repr

/-- A region-tag record (R297, R332): lodging, granule, lane and party of the access, the threads and regions it belongs to, and
whether it was read or written. -/
structure Tag where
  fe : Nat
  granule : Nat
  lane : Nat
  party : Nat
  owners : List (Nat × Nat)
  r : Bool
  w : Bool
  deriving DecidableEq, Repr

/-- A special-function operation in flight (R126, R130): the group it issued in and its active threads, function, rounding,
flush, and per thread and iteration the destination register and the operands; `stoch` holds their draws (R58). -/
structure SfuOp where
  party : Nat
  epc : DWord
  m0 : Mask
  fn : Nat
  rm : BitVec 3
  ftz : Bool
  lanes : List (Nat × Dest × Word × Word)
  flag : Nat
  stoch : List Nat
  deriving DecidableEq, Repr

/-- A barrier arrival that waits for the acknowledgement of the party's earlier writes `after` (R157). -/
structure Arrival where
  party : Nat
  inst : Nat
  scope : Nat
  after : List Nat
  deriving DecidableEq, Repr

/-! ### Launches and crews -/

/-- A barrier instance (R156): phase, and the parties counted in it. -/
structure BarInst where
  phase : Nat
  arrived : List Nat
  members : Nat
  retired : Nat
  deriving DecidableEq, Repr

/-- A grid descriptor (R229). -/
structure GridDesc where
  entry : DWord
  args : DWord
  count : Nat
  width : Nat
  rt : Nat
  scope : Nat
  podFlush : Bool
  prio : Nat
  reserve : Nat
  deriving DecidableEq, Repr

/-- A grid on a lodging's queues: its descriptor, the packet it came from, and whether its crew of origin deferred it. -/
structure GridRec where
  desc : GridDesc
  packet : Option Nat
  deriving DecidableEq, Repr

/-- A placed launch (R16, R31, R346): the ranges still unplaced by quad, the parties not retired, the barrier instances
keyed by instance number, and whether its end flush has run. -/
structure Launch where
  fe : Nat
  desc : GridDesc
  packet : Option Nat
  unplaced : List (Nat × Nat × Nat)
  alive : Nat
  gang : Bool
  bars : Sparse BarInst
  done : Bool
  deriving DecidableEq, Repr

/-- A crew (R16, R30): its launch or plan party, lodging, quad, core and lane of each party once placed. -/
structure Crew where
  fe : Nat
  grid : Option Nat
  quad : Nat
  core : Option Nat
  parties : List Nat
  life : Life
  pinned : Bool
  prio : Nat
  gang : Bool
  since : Nat
  reserve : Nat
  deriving DecidableEq, Repr

/-! ### Engines of a core -/

/-- State of a tile slot (R212). -/
inductive TileSt where
  | empty | filling | ready | draining
  deriving DecidableEq, Repr

/-- A tile slot and its entry of the tile table (R211, R212): layout 0 none, 1 c8, 2 c16, 3 c4; 16 KiB of data at
128·row + byte; 4 sideband bytes a row, 0x7F where unlisted (R211); poison (R340). -/
structure Tile where
  owner : Option Nat
  st : TileSt
  layout : Nat
  readers : Nat
  poison : Bool
  data : Sparse Byte
  side : Sparse Byte
  deriving DecidableEq, Repr

/-- The binding of a matrix context (R219, R263). -/
structure MxBind where
  layout : Nat
  tyA : Nat
  tyB : Nat
  unsA : Bool
  unsB : Bool
  scA : Bool
  scB : Bool
  deriving DecidableEq, Repr

/-- A queued matrix command (R217, R220 to R222); `drain` marks the place of a `cp.out` from the context (R215);
`rd` keeps the destinations of its threads. -/
inductive MxOp where
  | mma (a b : Nat)
  | follow (filled other : Nat) (roleB : Bool) (landed : Bool) (dead : Bool)
  | sm (p : Nat) (c : Word)
  | rd (party : Nat) (lanes : List (Nat × Dest × Nat)) (src row : Nat) (flag : Nat)
  | clr
  | drain (ctx : Nat) (ticket : Nat)
  deriving DecidableEq, Repr

/-- A matrix command with its ticket, crew and binding; `needs` is a ticket of the other context to wait for (R323). -/
structure MxCmd where
  ticket : Nat
  crew : Nat
  bind : MxBind
  op : MxOp
  needs : Nat
  deriving DecidableEq, Repr

/-- A matrix context (R219 to R222): unlisted accumulators read +0, m −∞, l +0, pending 1. -/
structure MxCtx where
  owner : Option Nat
  bind : MxBind
  acc : Sparse Word
  m : Sparse Word
  l : Sparse Word
  pend : Sparse Word
  queue : List MxCmd
  deriving DecidableEq, Repr

/-- What a Porter command does (R213 to R217). -/
inductive CpOp where
  | fill (slot fmt : Nat) (sp : Bool) (stride : Nat) (follow : Option Nat)
  | drain (slot fmt : Nat) (sp : Bool) (stride : Nat)
  | ctxOut (x fmt : Nat) (stride : Nat)
  | mem (src : DWord) (len : Nat)
  deriving DecidableEq, Repr

/-- A queued Porter command: `user` says at which level its party issued it, `pos` is the first byte or row of its next chunk,
`after` the writes its issue released. -/
structure CpCmd where
  ticket : Nat
  crew : Nat
  fe : Nat
  user : Bool
  party : Nat
  addr : DWord
  op : CpOp
  pos : Nat
  after : List Nat
  deriving DecidableEq, Repr

/-- A piece of an envelope (R234). -/
structure Piece where
  m : Word
  b : Word
  x : Word
  deriving DecidableEq, Repr

/-- The content of a set envelope slot (R234). -/
structure Env where
  lo : Word
  hi : Word
  pieces : List Piece
  deriving DecidableEq, Repr

/-- An envelope slot (R234): its owner at issue, and its content as the unit has left it (none: unset). -/
structure EnvSlot where
  owner : Option Nat
  env : Option Env
  deriving DecidableEq, Repr

/-- A queued envelope instruction with its operands as read at issue (R236, R237); `claim` holds the slots its issue took, first
16 when there were none, and `retire` marks the place in the queue at which a crew retired (R31). -/
inductive EnvOp where
  | claim (first count : Nat)
  | rel (first count : Nat)
  | clr (d : Nat) (lo hi : Word)
  | ins (d : Nat) (lines : List (Word × Word))
  | sum (d a b : Nat)
  | max (d a b : Nat)
  | icv (d a b : Nat)
  | conj (d a : Nat) (lo hi : Word)
  | simp (d a : Nat)
  | eval (a : Nat) (lanes : List (Nat × Dest × Word))
  | slope (a : Nat) (lanes : List (Nat × Dest × Word))
  | rd (a : Nat) (lanes : List (Nat × Dest)) (k0 field : Nat)
  | cnt (a : Nat) (lanes : List (Nat × Dest))
  | ld (d : Nat) (addr : DWord)
  | st (d : Nat) (addr : DWord)
  | retire (crew : Nat)
  deriving DecidableEq, Repr

/-- An issued envelope instruction: `tol` and `auto` are `envtol` and `envctl` at issue (R245, R246), `dest` the uniform
destination of `env.claim`, `after` the writes its issue released. -/
structure EnvCmd where
  party : Nat
  crew : Nat
  fe : Nat
  user : Bool
  ticket : Nat
  flag : Nat
  op : EnvOp
  dest : Dest
  tol : Word
  auto : Bool
  after : List Nat
  deriving DecidableEq, Repr

/-- An engine fault record (R210, R238): the party and flag are read for the envelope unit only. -/
structure EngFault where
  crew : Nat
  party : Nat
  cause : BitVec 6
  addr : DWord
  tl : Nat
  ticket : Nat
  flag : Nat
  deriving DecidableEq, Repr

/-- A core: tiles, contexts, envelope slots, timelines and their issued counts, queues, fault records, power tokens, the
lodging it serves and the timelines it keeps for others (R10, R209, R351, R370). -/
structure Core where
  tiles : Sparse Tile
  mx : Sparse MxCtx
  env : Sparse EnvSlot
  envQ : List EnvCmd
  porter : Sparse (List CpCmd)
  issued : Sparse Nat
  done : Sparse Nat
  bankDone : List Nat
  faults : List EngFault
  tokens : Bool
  fe : Option Nat
  idleSince : Option Nat
  savedTl : Sparse (Sparse Nat × Sparse Nat)
  deriving DecidableEq, Repr

/-- A list sent to a bank engine (R225): `after` are the party's writes that its issue released (R228). -/
structure BankList where
  core : Nat
  crew : Nat
  fe : Nat
  user : Bool
  ticket : Nat
  desc : DWord
  after : List Nat
  deriving DecidableEq, Repr

/-- A range a bank command in flight touches, and whether it writes it (R227): elements of the vector buffer, accumulators, bytes
of memory by physical address. -/
inductive BankTouch where
  | vec (w : Bool) (lo n : Nat)
  | acc (w : Bool) (lo n : Nat)
  | bytes (w : Bool) (lo n : Nat)
  deriving DecidableEq, Repr

/-- A bank engine (R225 to R227): the lists in order of arrival, the running list and its next command, the accumulators
and the vector buffer of BF16 elements, and what the commands since the last BSYNC touch. -/
structure Bank where
  queue : List BankList
  run : Option BankList
  next : Nat
  acc : Sparse Word
  vec : Sparse Word
  touched : List BankTouch
  deriving DecidableEq, Repr

/-! ### Quads and lodgings -/

/-- The kinds of event (R190). -/
inductive EvKind where
  | goal | fail | put | ret
  deriving DecidableEq, Repr

/-- Work the deliberation unit does for a request (R190, R191, R348): a belief event, the service of the goal queue, the
goal-failed condition of a goal with its origin (whether its frame was fail-adopted), or the goal event of a subgoal with the
frame block taken for it. -/
inductive SelWork where
  | event (kind : EvKind) (key : Nat) (value : DWord)
  | serve
  | goalFailed (goal : DWord) (adopted : Bool)
  | subgoal (goal : DWord) (block : DWord)
  deriving DecidableEq, Repr

/-- One entry of a deliberation FIFO: the request it belongs to, with the reply that request will get. -/
structure SelItem where
  fe : Nat
  handle : Nat
  req : Option (Nat × Nat)
  work : SelWork
  deriving DecidableEq, Repr

/-- A translation-cache entry (R362): lodging, virtual 64 KiB page, the physical page and the rights of stage 1, and those of
stage 2. -/
structure TlbEntry where
  fe : Nat
  page : Nat
  pa : Nat
  kind : Nat
  w : Bool
  u : Bool
  x : Bool
  w2 : Bool
  x2 : Bool
  deriving DecidableEq, Repr

/-- A quad: the deliberation FIFO, the activations its Steward has emitted and not delivered, the Coach's buckets by
lodging and node, and the translation cache (R348, R349, R362). -/
structure Quad where
  fifo : List SelItem
  emitted : List Activation
  buckets : Sparse (List Activation)
  tlb : List TlbEntry
  deriving DecidableEq, Repr

/-- An indirect buffer that is being run (R391): its packet, the next packet's address, and the end of the buffer. -/
structure StreamLevel where
  packet : Nat
  next : DWord
  limit : DWord
  deriving DecidableEq, Repr

/-- A loop being run (R391): its packet, the depth of buffers it stands at, the place of its first packet, its length, the packets
left in this pass and the passes left. -/
structure StreamLoop where
  packet : Nat
  depth : Nat
  first : DWord
  bodyLen : Nat
  left : Nat
  passes : Nat
  deriving DecidableEq, Repr

/-- Stage of a packet (R390): waiting at its wait word; started, its body to come; its work running; run to its end, with packets
inside it still at work; complete, its signal to come. -/
inductive PktStage where
  | wait | body | running | closing | complete
  deriving DecidableEq, Repr

/-- A packet (R387): its address, its bytes as fetched, its stage, the buffer or loop packet it runs inside, and its place in the FIFO of
its wait word. -/
structure Packet where
  fe : Nat
  addr : DWord
  bytes : List Byte
  stage : PktStage
  parent : Option Nat
  waitReq : Option Nat
  deriving DecidableEq, Repr

/-- MSI-X state of a function (R358): enable, masks, pending bits, the message words of the table, and the vectors sent. -/
structure Msix where
  enabled : Bool
  masked : BitVec 32
  pending : BitVec 32
  table : Sparse DWord
  sent : List Nat
  deriving DecidableEq, Repr

/-- A function's stream and BAR0 registers (R385, R386): `code` is the fault code, `item` is status bit 16, `skip` the bytes that a
resumption passes over, `cur` the packet whose start is under way, `noticed` whether vector 2 has been raised for the present block, and
`prefetched` the bytes fetched ahead by address. -/
structure Stream where
  ringBase : DWord
  ringSize : Nat
  head : Nat
  tail : Nat
  failed : Bool
  code : Nat
  item : Bool
  faultPacket : DWord
  skip : Nat
  cur : Option Nat
  levels : List StreamLevel
  looping : Option StreamLoop
  blockedAt : Option Nat
  noticed : Bool
  prefetched : Sparse Byte
  msix : Msix
  deriving DecidableEq, Repr

/-- A saved lodging image (R280), with the base quad it was saved under. -/
structure Image where
  qb : Nat
  parties : Sparse Party
  crews : Sparse Crew
  launches : Sparse Launch
  cores : Sparse Core
  quads : Sparse Quad
  tags : List Tag
  reqs : Sparse Req
  sfus : Sparse SfuOp
  arrivals : Sparse Arrival
  banks : Sparse Bank
  pinned : List Nat
  deriving DecidableEq, Repr

/-- Whether a lodging runs, is saved, or is lost (R280, R369). -/
inductive LodgingSt where
  | none | running | saved | lost
  deriving DecidableEq, Repr

/-- A front end and its lodging (R345, R369, R386, R389): the descriptor, translation roots, lodging registers, watchdog
period in ns, plan library, launch queue, deferred launches, agent area and frame pool, and its stream. `failFrames` are the
frame blocks adopted by a fail trigger (R186); `mbxWakes` the kind-1 waits registered, by mailbox word, handle and slot (R200). -/
structure Lodging where
  desc : DWord
  st : LodgingSt
  root1 : Nat
  root2 : Nat
  tvec : DWord
  scopepol : Word
  watchdog : Nat
  lib : Option DWord
  planPrio : Nat
  queue : List GridRec
  launchQ : List GridRec
  deferred : List GridRec
  lastSrc : Sparse Nat
  agentBase : DWord
  hmax : Nat
  poolBase : DWord
  poolCount : Nat
  poolHead : DWord
  poolUsed : Nat
  heads : Sparse (Nat × Nat)
  failFrames : List DWord
  mbxWakes : List (Nat × Nat × Nat)
  kemDraw : Nat
  keyDraw : Nat
  image : Option Image
  scrubOnAck : Bool
  report : Option Report
  stream : Stream
  deriving DecidableEq, Repr

/-! ### Memory and package -/

/-- One stored line in DRAM as the package's pins see it (R373): ciphertext and tag. -/
structure DramLine where
  cipher : BitVec 512
  tag : DWord
  deriving DecidableEq, Repr

/-- A counter block or tree node (R374, R375). -/
structure Counters where
  major : Nat
  minor : Sparse Nat
  deriving DecidableEq, Repr

/-- The state of a line in its cellar slice (R329, R330). -/
structure CellarLine where
  dirty : Bool
  pinned : Bool
  deriving DecidableEq, Repr

/-- A layout region (R334). -/
structure Region where
  fe : Nat
  base : Nat
  size : Nat
  desc : DWord
  deriving DecidableEq, Repr

/-- An open window (R317, R377, R378). -/
structure Window where
  owner : Nat
  guest : Nat
  base : Nat
  len : Nat
  write : Bool
  tl : Option (Nat × Nat)
  keyDraw : Nat
  deriving DecidableEq, Repr

/-- Memory (R2, R178, R276, R327 to R334, R371 to R378): bytes by physical address; the full bits of mailbox words by
address / 8; poisoned lines by address / 64, with the bytes stored since (R276); lines whose tag or cells are bad; the DRAM images, counter blocks and tree nodes
where the protection has run; the cellar lines; the owners of 2 MiB blocks; the layout regions and open windows; the bytes
of host memory that COPY packets reach. -/
structure Mem where
  bytes : Sparse Byte
  full : Sparse Bool
  poison : Sparse (Option Mask)
  badTag : Sparse Bool
  badCells : Sparse Bool
  dram : Sparse (Option DramLine)
  counters : Sparse Counters
  nodes : Sparse Counters
  cellar : Sparse (Option CellarLine)
  owner : Sparse Owner
  regions : List Region
  windows : Sparse (Option Window)
  host : Sparse Byte
  deriving DecidableEq, Repr

/-- A Logbook record (R394). -/
structure LogRec where
  time : Nat
  code : Nat
  lodging : Nat
  unit : Nat
  seq : Nat
  detail : BitVec 128
  deriving DecidableEq, Repr

/-- Service levels (R396). -/
inductive Service where
  | recovery | reduced | full
  deriving DecidableEq, Repr

/-- An invalidation in progress (R363): the front end that gave it, the lodging, stage and pages it covers, its completion word and
packet, the quads it has reached, and the requests that may have used a covered translation before. -/
structure Inval where
  fe : Nat
  target : Nat
  stage : Nat
  first : Nat
  count : Nat
  word : DWord
  packet : Nat
  arrived : List Nat
  older : List Nat
  deriving DecidableEq, Repr

/-- A collective operation started by a packet (R366). -/
structure Collective where
  fe : Nat
  packet : Nat
  group : Nat
  op : Nat
  ty : Nat
  root : Nat
  src : DWord
  dst : DWord
  len : Nat
  word : DWord
  contrib : Sparse (List Byte)
  deriving DecidableEq, Repr

/-- A Caravan (R282, R347, R367): its slice start and length in ns, the lodgings that hold its quads, the lodging that runs in it, whether
its start has moved, whether it runs, and the lodgings it has pre-empted. -/
structure Caravan where
  start : Nat
  length : Nat
  lodgings : List Nat
  member : Nat
  moved : Bool
  running : Bool
  saved : List Nat
  deriving DecidableEq, Repr

/-- A message for another package or from one (R365). -/
structure Message where
  pod : Nat
  package : Nat
  ringWord : DWord
  payload : List Byte
  fe : Nat
  deriving DecidableEq, Repr

/-- A migration stream at its source or destination (R368, R381): the source's front end, the Passport, the head of the stream, and the
lodging with its saved image and its memory. -/
structure Stream2 where
  fe : Nat
  passport : Passport
  ciphertext : List Byte
  wrapped : List Byte
  lod : Lodging
  bytes : Sparse Byte
  full : Sparse Bool
  regions : List Region
  deriving DecidableEq, Repr

/-- One firmware slot (R382). -/
structure FwSlot where
  image : Option FwImage
  deriving DecidableEq, Repr

/-- What the package holds once (R257, R268, R351, R354, R382 to R398). -/
structure Package where
  number : Nat
  service : Service
  cap : Nat
  pool : Nat
  /-- The average of module power has exceeded the cap and not fallen below it since (R398). -/
  lowering : Bool
  tokensHeld : Nat
  injaddr : DWord
  injarm : Word
  log : List LogRec
  logSeq : Nat
  slots : List FwSlot
  antiRollback : Nat
  running : Option Nat
  /-- Keys drawn (R372). -/
  draws : Nat
  /-- The time of the Innkeeper pair's last mismatch and the packets completed at its last checkpoint (R384). -/
  mismatchAt : Option Nat
  checkpoint : Nat
  /-- Activity budgets that firmware has set, what the period has spent, and the activities notified in it (R354). -/
  budgets : Sparse Nat
  spent : Sparse Nat
  noticed : List Nat
  portsDown : List Nat
  flitRepeats : Nat
  /-- The other packages of the pod, and the remote 2 MiB blocks that have no mapping there (R361). -/
  podPackages : List Nat
  absentRemote : List Nat
  /-- Collective groups: members in rank order (R366). -/
  groups : Sparse (List Nat)
  /-- The recovery mailbox's bytes, and the images it has accepted or discarded (R382). -/
  mailbox : Sparse Byte
  mailboxDone : Nat
  notices : List Nat
  /-- The last period boundary (R353), and the period whose budgets run (R354). -/
  periods : Nat
  budgetPeriods : Nat
  deriving DecidableEq, Repr

/-- A hardware upset that the next matching unit meets (R131, R135, R327, R340, R395); the spec gives these errors no
cause inside the machine, so a run's schedule is free to set one. -/
inductive Upset where
  | none
  | shadow (element : Nat)
  | sfu (twice : Bool)
  | regFile
  | maskState
  | checksum
  | tile
  | envelope
  | cells
  | tag
  | saveArea
  | training
  deriving DecidableEq, Repr

/-- What the outside gives the machine without a step of its own in the table (log entry 34): the translation roots of a front end
(R359), watchdog periods (R283), budgets (R354), bytes of host memory, the place of the package in its pod and what is mapped there
(R361), collective groups and the contributions of other members (R366), Caravans (R367), messages (R365) and migration streams (R368). -/
inductive Given where
  | root (fe : Nat) (stage2 : Bool) (table : Nat)
  | watchdog (fe ns : Nat)
  | budget (key n : Nat)
  | hostByte (addr : Nat) (b : Byte)
  | pod (number : Nat) (packages absent : List Nat)
  | group (g : Nat) (members : List Nat)
  | contribution (coll rank : Nat) (data : List Byte)
  | caravan (c : Nat) (x : Caravan)
  | message (m : Message)
  | stream (n : Nat) (x : Stream2)
  deriving DecidableEq, Repr

/-- One entry of the schedule: a step that happens next, time that passes, in half-nanosecond ticks, an upset, or an input. -/
inductive Turn where
  | act (i : Instr)
  | elapse (ticks : Nat)
  | upset (u : Upset)
  | given (g : Given)
  deriving DecidableEq, Repr

/-- The machine. `script` is the schedule of R339 and R172: which step happens next is free, and the script holds the
choice (log entry 3); `cur` is the party whose packet is issuing; `now` counts half-nanosecond ticks; `freeCtr` numbers
the free values (log entry 6); `nextId` numbers parties, crews, launches, requests and packets. -/
structure State where
  script : List Turn
  cur : Option Nat
  now : Nat
  freeCtr : Nat
  nextId : Nat
  upset : Upset
  parties : Sparse Party
  crews : Sparse Crew
  launches : Sparse Launch
  cores : Sparse Core
  quads : Sparse Quad
  dieFifo : Sparse (List Nat)
  banks : Sparse Bank
  lods : Sparse Lodging
  packets : Sparse Packet
  reqs : Sparse Req
  sfus : Sparse SfuOp
  arrivals : Sparse Arrival
  tags : List Tag
  mem : Mem
  pkg : Package
  invals : Sparse Inval
  colls : Sparse Collective
  caravans : Sparse Caravan
  msgsOut : List Message
  msgsIn : Sparse Message
  streamsOut : Sparse Stream2
  streamsIn : Sparse Stream2
  deriving DecidableEq, Repr

/-! ### Reset -/

/-- Memory as the list of its cells. -/
abbrev Memory := List Host.Cell

/-- The canonical form of memory: addresses strictly rising, and no entry equal to 0, which an unlisted byte reads as
(R371: a block is zero when it is given; log entry 2). -/
def Memory.wf (m : Memory) : Bool := swf (0 : Byte) m

/-- A tile slot owned by no crew (R10, R211). -/
def Tile.reset : Tile := ⟨none, .empty, 0, 0, false, [], []⟩
/-- The binding `mxctl` selects at reset (R219): c8, signed INT8, no scales. -/
def MxBind.reset : MxBind := ⟨0, 0, 0, false, false, false, false⟩
/-- A matrix context owned by no crew, cleared (R219). -/
def MxCtx.reset : MxCtx := ⟨none, MxBind.reset, [], [], [], [], []⟩
/-- An envelope slot that is unowned (R234). -/
def EnvSlot.reset : EnvSlot := ⟨none, none⟩
/-- A core that has run nothing (R10, R370). -/
def Core.reset : Core := ⟨[], [], [], [], [], [], [], [], [], false, none, none, []⟩
/-- A bank engine with no list (R225). -/
def Bank.reset : Bank := ⟨[], none, 0, [], [], []⟩
/-- A quad with nothing queued (R348, R349). -/
def Quad.reset : Quad := ⟨[], [], [], []⟩
/-- MSI-X disabled, every vector masked, nothing pending. PRESUMED: the reset values PCI Express gives its registers (R356, R358; log
entry 30). -/
def Msix.reset : Msix := ⟨false, 0xFFFFFFFF, 0, [], []⟩
/-- A stream's registers at reset (R385). -/
def Stream.reset : Stream := ⟨0, 0, 0, 0, false, 0, false, 0, 0, none, [], none, none, false, [], Msix.reset⟩
/-- A front end with no lodging: descriptor 0 (R369), watchdog 1 s (R283), plan priority 8 (R345). -/
def Lodging.reset : Lodging :=
  ⟨0, .none, 0, 0, 0, 0, 1000000000, none, 8, [], [], [], [], 0, 0, 0, 0, 0, 0, [], [], [], 0, 0, none, false, none, Stream.reset⟩
/-- The control registers of a party at its start (R257, R261 to R265). -/
def PartyCsr.reset : PartyCsr := ⟨1, 0, 0, 0, 0, 0, 0, 0, 0, [], 0, 0, 0, false⟩
/-- Memory with nothing listed (log entry 2). -/
def Mem.reset : Mem := ⟨[], [], [], [], [], [], [], [], [], [], [], [], []⟩
/-- The package's single registers: power cap 3,200 W and service field 0 (R385), 1,024 tokens (R351), injection off
(R277), the clock at 0 (R268), package number 0 and two empty firmware slots (log entry 1). -/
def Package.reset : Package where
  number := 0
  service := .recovery
  cap := 3200
  pool := 1024
  lowering := false
  tokensHeld := 0
  injaddr := 0
  injarm := 0
  log := []
  logSeq := 0
  slots := [⟨none⟩, ⟨none⟩]
  antiRollback := 0
  running := none
  draws := 0
  mismatchAt := none
  checkpoint := 0
  budgets := []
  spent := []
  noticed := []
  portsDown := []
  flitRepeats := 0
  podPackages := []
  absentRemote := []
  groups := []
  mailbox := []
  mailboxDone := 0
  notices := []
  periods := 0
  budgetPeriods := 0

/-- The machine right after cold reset: no lodging, no party, memory with nothing listed, an empty schedule. -/
def State.reset : State where
  script := []
  cur := none
  now := 0
  freeCtr := 0
  nextId := 1
  upset := .none
  parties := []
  crews := []
  launches := []
  cores := []
  quads := []
  dieFifo := []
  banks := []
  lods := []
  packets := []
  reqs := []
  sfus := []
  arrivals := []
  tags := []
  mem := Mem.reset
  pkg := Package.reset
  invals := []
  colls := []
  caravans := []
  msgsOut := []
  msgsIn := []
  streamsOut := []
  streamsIn := []

end Sys2Proof.Machine
end

