-- ==== Sys2Proof/Machine/Ops.lean ====
section
/-! DEFINITION. The named operations over the state that every meaning shares: looking up and updating parties, cores,
lodgings and memory; the Logbook; translation and the lane's access checks; regions and flags; taking a trap, the return
from it and idempotent restart. -/

namespace Sys2Proof.Machine

open Sys2Proof

/-! ### Numbers -/

/-- Numbers below `n` in ascending order, as threads and records are served. -/
def upto (n : Nat) : List Nat := List.range n
/-- The quad of a core (R3: four cores a quad). -/
def quadOfCore (c : Nat) : Nat := c / 4
/-- The die of a quad (R3: 32 quads a die). -/
def dieOfQuad (q : Nat) : Nat := q / 32
/-- The core of a global lane (64 lanes a core). -/
def coreOfLane (l : Nat) : Nat := l / 64
/-- Sign-extend the low `n` bits of a natural number to an integer. -/
def sxInt (n v : Nat) : Int :=
  let v := v % 2 ^ n
  if v < 2 ^ (n - 1) then (v : Int) else (v : Int) - (2 ^ n : Nat)

/-! ### Looking up and updating -/

/-- The party numbered `p`. -/
def State.party? (s : State) (p : Nat) : Option Party := sfind s.parties p
/-- Replace a party. -/
def State.setParty (s : State) (p : Nat) (x : Party) : State := { s with parties := sput s.parties p x }
/-- Update a party that exists. -/
def State.onParty (s : State) (p : Nat) (f : Party → Party) : State :=
  match s.party? p with
  | some x => s.setParty p (f x)
  | none => s
/-- Update every party. -/
def State.mapParties (s : State) (f : Nat → Party → Party) : State :=
  { s with parties := s.parties.map (fun e => (e.1, f e.1 e.2)) }
/-- The core numbered `c`. -/
def State.core (s : State) (c : Nat) : Core := sget Core.reset s.cores c
/-- Replace a core; one equal to its reset value is not listed. -/
def State.setCore (s : State) (c : Nat) (x : Core) : State := { s with cores := sset Core.reset s.cores c x }
/-- Update a core. -/
def State.onCore (s : State) (c : Nat) (f : Core → Core) : State := s.setCore c (f (s.core c))
/-- The quad numbered `q`. -/
def State.quad (s : State) (q : Nat) : Quad := sget Quad.reset s.quads q
/-- Update a quad. -/
def State.onQuad (s : State) (q : Nat) (f : Quad → Quad) : State :=
  { s with quads := sset Quad.reset s.quads q (f (s.quad q)) }
/-- The lodging of front end `fe`. -/
def State.lod (s : State) (fe : Nat) : Lodging := sget Lodging.reset s.lods fe
/-- Update a lodging. -/
def State.onLod (s : State) (fe : Nat) (f : Lodging → Lodging) : State :=
  { s with lods := sset Lodging.reset s.lods fe (f (s.lod fe)) }
/-- Update a front end's stream. -/
def State.onStream (s : State) (fe : Nat) (f : Stream → Stream) : State :=
  s.onLod fe (fun l => { l with stream := f l.stream })
/-- The bank engine numbered `e`. -/
def State.bank (s : State) (e : Nat) : Bank := sget Bank.reset s.banks e
/-- Update a bank engine. -/
def State.onBank (s : State) (e : Nat) (f : Bank → Bank) : State :=
  { s with banks := sset Bank.reset s.banks e (f (s.bank e)) }
/-- The crew numbered `c`. -/
def State.crew? (s : State) (c : Nat) : Option Crew := sfind s.crews c
/-- Update a crew that exists. -/
def State.onCrew (s : State) (c : Nat) (f : Crew → Crew) : State :=
  match s.crew? c with
  | some x => { s with crews := sput s.crews c (f x) }
  | none => s
/-- Update a launch that exists. -/
def State.onLaunch (s : State) (g : Nat) (f : Launch → Launch) : State :=
  match sfind s.launches g with
  | some x => { s with launches := sput s.launches g (f x) }
  | none => s
/-- Update a request that exists. -/
def State.onReq (s : State) (r : Nat) (f : Req → Req) : State :=
  match sfind s.reqs r with
  | some x => { s with reqs := sput s.reqs r (f x) }
  | none => s
/-- Remove a request. -/
def State.dropReq (s : State) (r : Nat) : State := { s with reqs := sdrop s.reqs r }
/-- Draw a number. -/
def State.fresh (s : State) : Nat × State := (s.nextId, { s with nextId := s.nextId + 1 })
/-- A free value (R130, R165, R227), and the state with the counter advanced. Log entry 6. -/
def State.freeWord (s : State) : Word × State := (Config.freeWord s.freeCtr, { s with freeCtr := s.freeCtr + 1 })
/-- Update the package's registers. -/
def State.onPkg (s : State) (f : Package → Package) : State := { s with pkg := f s.pkg }

/-- An event may have ended what a held group waits for (R211, R237, R272): every party may be picked again. -/
def State.wake (s : State) : State := s.mapParties (fun _ x => { x with hold := false })
/-- A step that is no instruction word: it always gives a next state. -/
def State.event (s : State) : Host.Outcome State Fault Refusal := .next s.wake

/-! ### Time (R4, R264, R268, R396) -/

/-- Half-nanosecond ticks in a lane-cycle: one at 2 GHz, two in reduced service. -/
def State.cycle (s : State) : Nat := match s.pkg.service with | .reduced => 2 | _ => 1
/-- The package time in ns (R268). -/
def State.clk (s : State) : Nat := s.now / 2
/-- The lane-cycles a party has counted (R264). -/
def State.cyc (s : State) (p : Party) : Nat :=
  p.cycAcc + (match p.cycSince with | some t => (s.now - t) / s.cycle | none => 0)
/-- Stop counting a party's lane-cycles. -/
def State.stopCyc (s : State) (p : Party) : Party := { p with cycAcc := s.cyc p, cycSince := none }

/-! ### Logbook and notices (R358, R394) -/

/-- Raise an MSI-X vector: a message when the vector can be sent, its pending bit otherwise (R358). -/
def State.msix (s : State) (fe v : Nat) : State :=
  s.onStream fe (fun st =>
    let m := st.msix
    let m := if m.enabled && !m.masked.getLsbD v then { m with sent := m.sent ++ [v] }
      else { m with pending := m.pending ||| BitVec.ofNat 32 (2 ^ v) }
    { st with msix := m })

/-- Write a Logbook record; the oldest of 4,096 is overwritten first, and the PF's vector 5 is raised (R358, R394). -/
def State.log (s : State) (code lodging unit : Nat) (detail : BitVec 128) : State :=
  let s := s.onPkg (fun k =>
    let l := k.log ++ [⟨s.clk, code, lodging, unit, k.logSeq % 2 ^ 32, detail⟩]
    { k with log := if 4096 < l.length then l.drop 1 else l, logSeq := (k.logSeq + 1) % 2 ^ 32 })
  s.msix 0 5

/-- Firmware receives a cause (0x34, 0x3B, 0x3C): the PF's vector 6 for 0x34 and 0x3B (R271, R358). -/
def State.notify (s : State) (cause : Nat) : State :=
  let s := s.onPkg (fun k => { k with notices := k.notices ++ [cause] })
  if cause == 0x34 || cause == 0x3B then s.msix 0 6 else s

/-! ### Bytes of memory (R2) -/

/-- The byte at a physical address. -/
def State.byteAt (s : State) (a : Nat) : Byte := sget 0 s.mem.bytes a
/-- Write a byte, keeping the canonical form. -/
def Mem.setByte (m : Mem) (a : Nat) (b : Byte) : Mem := { m with bytes := sset 0 m.bytes a b }
/-- The little-endian number in `n` bytes at `a`. -/
def State.loadN (s : State) (a : Nat) : Nat → Nat
  | 0 => 0
  | n + 1 => (s.byteAt a).toNat + 256 * s.loadN (a + 1) n
/-- Write `n` bytes of a number little-endian at `a`. -/
def Mem.storeN (m : Mem) (a v : Nat) : Nat → Mem
  | 0 => m
  | n + 1 => (m.setByte a (BitVec.ofNat 8 v)).storeN (a + 1) (v / 256) n
/-- A write of `n` bytes at `a` covers part of a poisoned line; a line whose 64 bytes have all been written since is
poisoned no longer (R276). -/
def Mem.cover (m : Mem) (a n : Nat) : Mem :=
  let line := a / 64
  match sget none m.poison line with
  | none => m
  | some w =>
    let w := w ||| BitVec.ofNat 64 ((2 ^ n - 1) * 2 ^ (a % 64))
    if w = BitVec.allOnes 64 then { m with poison := sset none m.poison line none, badTag := sset false m.badTag line false }
    else { m with poison := sset none m.poison line (some w) }
/-- Write `n` bytes of a number little-endian at `a`; the line becomes dirty in its cellar slice (R329). -/
def State.storeN (s : State) (a v n : Nat) : State :=
  let m := (s.mem.storeN a v n).cover a n
  let line := a / 64
  let c := match sget none m.cellar line with | some c => { c with dirty := true } | none => ⟨true, false⟩
  { s with mem := { m with cellar := sset none m.cellar line (some c) } }
/-- The number in a list of physical pieces, first piece lowest. -/
def State.loadPieces (s : State) : List (Nat × Nat) → Nat
  | [] => 0
  | (a, n) :: ps => s.loadN a n + 2 ^ (8 * n) * s.loadPieces ps
/-- Write a number over a list of physical pieces. -/
def State.storePieces (s : State) (v : Nat) : List (Nat × Nat) → State
  | [] => s
  | (a, n) :: ps => (s.storeN a (v % 2 ^ (8 * n)) n).storePieces (v / 2 ^ (8 * n)) ps
/-- Bytes of a list of words, little-endian. -/
def wordsNat : List Word → Nat
  | [] => 0
  | w :: ws => w.toNat + 2 ^ 32 * wordsNat ws

/-- Poison a line, with the Logbook record of the error (R276, R394). -/
def State.poisonLine (s : State) (code fe unit line : Nat) : State :=
  { s with mem := { s.mem with poison := sset none s.mem.poison line (some 0) } }.log code fe unit
    (BitVec.ofNat 128 (64 * line))

/-- What a read of a line meets, by whoever makes it (R276, R277, R373): an armed injection, a failed tag, poison, or faulty
cells, which a retry finds again and which poison the line. Poison of another package arrives as 0x3A (R364). -/
def State.readLine (s : State) (fe unit line : Nat) : State × Option (BitVec 6) :=
  let hit := s.pkg.injarm.getLsbD 0 && s.pkg.injaddr.toNat / 64 == line
  let corrected := s.pkg.injarm.getLsbD 1
  let s := if hit then
      (s.onPkg (fun k => { k with injarm := k.injarm &&& ~~~ (1 : Word) })).log (if corrected then 0x40 else 0x37) fe unit
        (BitVec.ofNat 128 (64 * line))
    else s
  if hit && !corrected then (s, some 0x37)
  else if line / 2 ^ 38 != s.pkg.number then (s, if (sget none s.mem.poison line).isSome then some 0x3A else none)
  else if sget false s.mem.badTag line then
    ({ s with mem := { s.mem with badTag := sset false s.mem.badTag line false } }.poisonLine 0x13 fe unit line, some 0x13)
  else if (sget none s.mem.poison line).isSome then (s, some 0x14)
  else if sget false s.mem.badCells line then (s.poisonLine 0x14 fe unit line, some 0x14)
  else (s, none)

/-- The first cause among the reads of several lines. -/
def State.readLines (s : State) (fe unit : Nat) : List Nat → State × Option (BitVec 6)
  | [] => (s, none)
  | l :: ls =>
    match s.readLine fe unit l with
    | (s, some c) => (s, some c)
    | (s, none) => s.readLines fe unit ls

/-! ### Lodging geometry (R328, R369) -/

/-- The base quad of a lodging. -/
def Lodging.qb (l : Lodging) : Nat := (l.desc.extractLsb' 0 7).toNat
/-- The quad count of a lodging. -/
def Lodging.nq (l : Lodging) : Nat := (l.desc.extractLsb' 7 8).toNat
/-- The colours of a lodging, ascending. -/
def Lodging.colours (l : Lodging) : List Nat := (List.range 16).filter (fun c => l.desc.getLsbD (15 + c))
/-- The quads of a lodging, ascending. -/
def Lodging.quads (l : Lodging) : List Nat := (List.range l.nq).map (l.qb + ·)

/-- The home slice of a physical address under a lodging's parameters (R328): quad and colour. -/
def Lodging.home (l : Lodging) (pa : Nat) : Nat × Nat :=
  let n := pa / 64
  let h := (n ^^^ (n / 2 ^ 19) ^^^ (n / 2 ^ 38)) % 2 ^ 19
  (l.qb + h % l.nq, l.colours.getD (h / l.nq % l.colours.length) 0)

/-- The home quad of an agent (R21). -/
def Lodging.agentHome (l : Lodging) (h : Nat) : Nat :=
  l.qb + ((h ^^^ (h / 2 ^ 11)) * 0x2545 % 2 ^ 24) % l.nq

/-! ### Translation (R28, R359 to R361, R371) -/

/-- The result of a walk: page base, page size in bits, kind, and the W, U and X rights. -/
structure Walk where
  pa : Nat
  kind : Nat
  w : Bool
  u : Bool
  x : Bool
  deriving DecidableEq, Repr

/-- An address is canonical when bits [63:57] equal bit 56 (R28). -/
def canonical (va : DWord) : Bool :=
  va.extractLsb' 57 7 == (if va.getLsbD 56 then 0x7F else 0)

/-- The index of a level, its entry count's bits and the page size it may map (R359). -/
def levelIndex (a level : Nat) : Nat :=
  match level with
  | 0 => a / 2 ^ 16 % 32
  | n + 1 => a / 2 ^ (21 + 9 * n) % 512

/-- The size in bits of a page mapped at a level: 64 KiB, 2 MiB, 1 GiB. -/
def pageBits (level : Nat) : Nat := match level with | 0 => 16 | 1 => 21 | _ => 30

/-- An entry's form (R360): `none` where it breaks the table, otherwise whether it points on, its address, rights and
kind. `one` is the stage. -/
def entryOf (one : Bool) (level e : Nat) : Option (Bool × Nat × Walk) :=
  let bit := fun k => e / 2 ^ k % 2 == 1
  let addr := e / 2 ^ 8 % 2 ^ 46 * 2 ^ 8
  let t := bit 1
  let kind := e / 2 ^ 5 % 4
  let align := if t then (if level == 1 then 8 else 12) else pageBits level
  if !bit 0 || bit 7 || e / 2 ^ 54 != 0 || (2 < level && !t) || (level == 0 && t) || addr % 2 ^ align != 0
      || (!one && (bit 3 || kind != 0)) then none
  else some (t, addr, ⟨addr, kind, bit 2, bit 3, bit 4⟩)

/-- A local address is backed (R361, R396): HBM or second tier, or in reduced service the 1,200 MiB held in D0's cellar. -/
def State.backed (s : State) (a : Nat) : Bool :=
  match s.pkg.service with
  | .reduced => a < 1200 * 2 ^ 20
  | _ => a < 660 * 10 ^ 9 || (2 ^ 42 ≤ a && a < 2 ^ 42 + 2640 * 10 ^ 9)

/-- A stage-2 walk from `level` down. Every refusal is 0x11 (R360). The rights of the entries passed are combined; log
entry 11. -/
def State.walk2 (s : State) (table ia : Nat) (w x : Bool) : Nat → Option Walk
  | 0 =>
    match entryOf false 0 (s.loadN (table + 8 * levelIndex ia 0) 8) with
    | some (_, base, r) => some ⟨base + ia % 2 ^ 16, 0, w && r.w, true, x && r.x⟩
    | none => none
  | level + 1 =>
    match entryOf false (level + 1) (s.loadN (table + 8 * levelIndex ia (level + 1)) 8) with
    | none => none
    | some (true, next, r) => s.walk2 next ia (w && r.w) (x && r.x) level
    | some (false, base, r) =>
      some ⟨base + ia % 2 ^ pageBits (level + 1), 0, w && r.w, true, x && r.x⟩

/-- Stage 2 of an intermediate address (R359): bits [63:54] must be 0, and a local address must be backed (R361). -/
def State.stage2 (s : State) (l : Lodging) (ia : Nat) : Option Walk :=
  if 2 ^ 54 ≤ ia then none
  else match s.walk2 l.root2 ia true true 4 with
  | none => none
  | some r =>
    if r.pa / 2 ^ 44 == s.pkg.number && !s.backed (r.pa % 2 ^ 44) then none else some r

/-- A stage-1 walk from `level` down, each table address itself translated by stage 2 (R359, R360). -/
def State.walk1 (s : State) (l : Lodging) (table va : Nat) (w u x : Bool) : Nat → Except (BitVec 6) Walk
  | 0 =>
    match s.stage2 l (table + 8 * levelIndex va 0) with
    | none => .error 0x11
    | some t => match entryOf true 0 (s.loadN t.pa 8) with
      | none => .error 0x0F
      | some (_, base, r) => .ok ⟨base + va % 2 ^ 16, r.kind, w && r.w, u && r.u, x && r.x⟩
  | level + 1 =>
    match s.stage2 l (table + 8 * levelIndex va (level + 1)) with
    | none => .error 0x11
    | some t => match entryOf true (level + 1) (s.loadN t.pa 8) with
      | none => .error 0x0F
      | some (true, next, r) => s.walk1 l next va (w && r.w) (u && r.u) (x && r.x) level
      | some (false, base, r) =>
        .ok ⟨base + va % 2 ^ pageBits (level + 1), r.kind, w && r.w, u && r.u, x && r.x⟩

/-- Both stages of a canonical virtual address (R28, R359): rights combined over the stages, W and X denied by stage 2
kept apart as `w2` and `x2`. -/
structure Translated where
  walk : Walk
  w2 : Bool
  x2 : Bool
  deriving DecidableEq, Repr

/-- The nested walk of a virtual address (R359, R360). -/
def State.walk (s : State) (fe : Nat) (va : DWord) : Except (BitVec 6) Translated :=
  let l := s.lod fe
  match s.walk1 l l.root1 (va.toNat % 2 ^ 57) true true true 4 with
  | .error c => .error c
  | .ok r => match s.stage2 l r.pa with
    | none => .error 0x11
    | some r2 => .ok ⟨{ r with pa := r2.pa }, r2.w, r2.x⟩

/-- Translation as a quad sees it (R362): its cached entry for the page where one is held, else a walk. -/
def State.translate (s : State) (fe quad : Nat) (va : DWord) : Except (BitVec 6) Translated :=
  let page := va.toNat % 2 ^ 57 / 2 ^ 16
  match (s.quad quad).tlb.find? (fun e => e.fe == fe && e.page == page) with
  | some e => .ok ⟨⟨e.pa + va.toNat % 2 ^ 16, e.kind, e.w, e.u, e.x⟩, e.w2, e.x2⟩
  | none => s.walk fe va

/-- The owner of the block of a physical address (R371). -/
def State.ownerOf (s : State) (pa : Nat) : Owner := sget .free s.mem.owner (pa / 2 ^ 21)
/-- The open window of a number. -/
def State.window? (s : State) (w : Nat) : Option Window := sget none s.mem.windows w
/-- The window open to a lodging in which a physical line lies. -/
def State.windowAt (s : State) (fe pa : Nat) : Option Window :=
  match s.ownerOf pa with
  | .window w => match s.window? w with
    | some x => if x.owner == fe || x.guest == fe then some x else none
    | none => none
  | _ => none

/-- How a page stands to ordinary accesses (R29, R361). -/
inductive PageKind where
  | device | tier2 | agent | window (w : Option Window) | remote
  deriving DecidableEq, Repr

/-- The kind of the page a translation gives (R29, R361). -/
def State.pageKind (s : State) (fe : Nat) (t : Walk) : PageKind :=
  if t.kind == 1 then .agent
  else if t.kind == 2 then .window (s.windowAt fe t.pa)
  else if t.pa / 2 ^ 44 != s.pkg.number then .remote
  else if 2 ^ 42 ≤ t.pa % 2 ^ 44 then .tier2 else .device

/-- A block belongs to the lodging or to a window open to it (R371). Remote pages are judged at their home, and kind-2 pages
by R361. -/
def State.owned (s : State) (fe : Nat) (t : Walk) : Bool :=
  t.kind == 2 || t.pa / 2 ^ 44 != s.pkg.number ||
    (match s.ownerOf t.pa with | .key n => n == fe | .window _ => (s.windowAt fe t.pa).isSome | .free => false)

/-- What an access wants. -/
structure Want where
  write : Bool
  fetch : Bool
  user : Bool
  deriving DecidableEq, Repr

/-- Canonical form, halves and rights of one address (R28, R360, R371): the cause or the translation. -/
def State.reach (s : State) (fe quad : Nat) (w : Want) (va : DWord) : Except (BitVec 6) Walk :=
  if !canonical va then .error 0x0F
  else if va.getLsbD 56 && w.user then .error 0x10
  else match s.translate fe quad va with
  | .error c => .error c
  | .ok t =>
    if t.walk.kind == 3 || (w.write && !t.walk.w) || (w.user && !t.walk.u) || (w.fetch && !t.walk.x) then .error 0x10
    else if (w.write && !t.w2) || (w.fetch && !t.x2) || !s.owned fe t.walk then .error 0x11
    else .ok t.walk

/-! ### Parties -/

/-- All threads of a party. -/
def Party.all (p : Party) : Mask := lowMask p.width
/-- The threads that have not left. -/
def Party.alive (p : Party) : Mask := p.all &&& ~~~ p.left
/-- The eligible threads (R24): not left, not at a join, not in `sync.p`, no leaving request open (R183). -/
def Party.eligible (p : Party) : Mask := p.alive &&& ~~~ (p.joinWait ||| p.syncWait ||| p.leaving)
/-- A thread's tpc. -/
def Party.pcOf (p : Party) (t : Nat) : DWord := sget 0 p.tpc t
/-- The lowest tpc among a list of threads (R24). -/
def Party.minPc (p : Party) : List Nat → Option DWord
  | [] => none
  | t :: ts => match p.minPc ts with
    | none => some (p.pcOf t)
    | some a => some (if p.pcOf t ≤ a then p.pcOf t else a)
/-- The fetch address of a party (R24). -/
def Party.fetchPc (p : Party) : Option DWord := p.minPc (threadsOf p.width p.eligible)
/-- The eligible threads whose tpc is the fetch address (R12, R24). -/
def Party.atPc (p : Party) (a : DWord) : Mask :=
  (threadsOf p.width p.eligible).foldl (fun m t => if p.pcOf t = a then setBit m t true else m) 0
/-- Set the tpc of the threads of a mask; no transfer named it. -/
def Party.setPc (p : Party) (m : Mask) (a : DWord) : Party :=
  { p with
    tpc := (threadsOf p.width m).foldl (fun st t => sset 0 st t a) p.tpc
    xfer := (threadsOf p.width m).foldl (fun st t => sset 0 st t 0) p.xfer }
/-- A party stands between packets. -/
def IssuePos.fresh : IssuePos := ⟨0, none, 0, 0, 0, 0, false⟩
/-- Some completion flag is set (R14). -/
def Party.busyFlags (p : Party) : Bool := !p.flags.isEmpty
/-- A flag is set. -/
def Party.flagSet (p : Party) (f : Nat) : Bool := sget 0 p.flags f != 0
/-- An operation sets a flag. -/
def Party.addFlag (p : Party) (f : Nat) : Party := { p with flags := sset 0 p.flags f (sget 0 p.flags f + 1) }
/-- An operation that set a flag completes. -/
def Party.dropFlag (p : Party) (f : Nat) : Party := { p with flags := sset 0 p.flags f (sget 0 p.flags f - 1) }
/-- A thread's region sequence (R294). -/
def Party.regionOf (p : Party) (t : Nat) : Nat := sget 0 p.region t
/-- The party runs at user level (R7, R264). -/
def Party.user (p : Party) : Bool := p.csr.level == 0

/-! ### Regions (R293, R294, R297) -/

/-- A request writes memory and its home has not acknowledged it (R294): an atomic is acknowledged with its
service, a store or reduction by WRITE_ACKNOWLEDGED. -/
def Req.openWrite (r : Req) : Bool :=
  match r.kind, r.phase with
  | .store _ _, .sent => true
  | .store _ _, .unacked => true
  | .atom _ _ _, .sent => true
  | .atom _ _ _, .unacked => true
  | _, _ => false

/-- A thread's region has a write that is not acknowledged (R294). -/
def State.unacked (s : State) (p : Nat) (o : Nat × Nat) : Bool :=
  s.reqs.any (fun e => e.2.party == p && e.2.owners.contains o && e.2.openWrite)

/-- Take a thread's region off the records that hold it; a record that belongs to no region is released. -/
def dropOwner (tags : List Tag) (p : Nat) (o : Nat × Nat) : List Tag :=
  (tags.map (fun g => if g.party == p then { g with owners := g.owners.filter (· != o) } else g)).filter
    (fun g => !g.owners.isEmpty)

/-- End a thread's region: the next begins, and the records are released once every access is acknowledged (R294). -/
def State.endRegion (s : State) (p t : Nat) : State :=
  match s.party? p with
  | none => s
  | some x =>
    let o := (t, x.regionOf t)
    let s' := s.setParty p { x with region := sset 0 x.region t (x.regionOf t + 1) }
    if s.unacked p o then s' else { s' with tags := dropOwner s'.tags p o }

/-- End the regions of several threads. -/
def State.endRegions (s : State) (p : Nat) (ts : List Nat) : State := ts.foldl (fun s t => s.endRegion p t) s

/-- Some write of these threads waits for its acknowledgement (R175, R181): every write for a pod-scope release, those
homed in the package otherwise (R311); window writes are ordered by `fence.win` alone (R291). -/
def State.writesOpen (s : State) (p : Nat) (ts : List Nat) (pod : Bool) : Bool :=
  s.reqs.any (fun e => e.2.party == p && ts.any (fun t => e.2.owners.any (fun o => o.1 == t)) && !e.2.win &&
    e.2.openWrite && (pod || e.2.pieces.all (fun q => q.1 / 2 ^ 44 == s.pkg.number)))

/-- A party's writes not yet acknowledged, window writes apart (R157, R218, R228, R251, R312). -/
def State.openWrites (s : State) (p : Nat) : List Nat :=
  (s.reqs.filter (fun e => e.2.party == p && !e.2.win && e.2.openWrite)).map (·.1)

/-- A thread has an `mbx.st` that waits for its word to empty (R179). -/
def State.mbxStOpen (s : State) (p : Nat) (ts : List Nat) : Bool :=
  s.reqs.any (fun e => e.2.party == p && ts.any (fun t => e.2.owners.any (fun o => o.1 == t)) &&
    (match e.2.kind with | .mbxSt _ => true | _ => false) && e.2.phase == .waiting)

/-! ### Taking a trap (R273 to R275) -/

/-- The code address of the group being issued: the packet with its slot in bits [5:4] (R265, R274). -/
def Party.here (p : Party) : DWord := p.pos.pkt ||| BitVec.ofNat 64 (p.pos.slot % 4 * 16)

/-- The code address of the group after the one being issued (R266): its slot, or slot 0 of the next packet. -/
def Party.nextHere (p : Party) (next : DWord) : DWord :=
  if 3 ≤ p.pos.after then next else p.pos.pkt ||| BitVec.ofNat 64 (p.pos.after % 4 * 16)

/-- The packet after a code address (R67). -/
def nextPacket (a : DWord) : DWord :=
  if a.extractLsb' 0 3 == 4 then (a &&& ~~~ (0x3F : DWord)) + 64 else a + 1

/-- The linear packet number of a code address, as an integer (R67). -/
def packetNo (a : DWord) : Int := (a.toNat / 64 : Nat) * 5 + (a.toNat % 8 : Nat)

/-- The code address `n` packets from `a` (R67): modulo 2^64, so that a target outside the space is refused at fetch. -/
def branchTarget (a : DWord) (n : Int) : DWord :=
  let k := packetNo a + n
  BitVec.ofInt 64 (k / 5 * 64 + k % 5)

/-- A trap of the group being issued (R271 to R275). -/
def Party.trapHere (p : Party) (m0 : Mask) (cause : BitVec 6) (mfault : Mask) (addr : Sparse DWord) (info : DWord) :
    TrapReq :=
  ⟨cause, false, p.here, m0, mfault, addr, info, none⟩

/-- The party halts as at 0x3C (R265, R271, R273). -/
def Party.halt (p : Party) : Party :=
  { p with life := .halted, pend := none, park := .none, hold := false, ctl := .run }

/-- The shadow entry a trap pushes (R273). -/
def Party.shadowEntry (p : Party) (rerun : Option Mask) : Shadow :=
  ⟨p.tpc, p.joinWait, p.syncWait, p.calls.map (fun e => (e.1, e.2.length)), p.wb, p.divs.length, p.csr.level, rerun⟩

/-- The trap registers after entry (R273, R275). -/
def PartyCsr.trapped (c : PartyCsr) (r : TrapReq) : PartyCsr :=
  { c with
    tcause := r.cause.setWidth 32 ||| (if r.deferred then 0x100 else 0)
    tepc := r.epc
    tmprev := r.mprev
    tmfault := r.mfault
    taddr := r.addr
    tinfo := r.info
    prior := c.level
    level := 1 }

/-- Entering the handler (R273): the shadow, the trap registers, supervisor level, window base 0, and every thread that has
not left at `tvec`. -/
def Party.enter (p : Party) (tvec : DWord) (r : TrapReq) : Party :=
  let q := { p with
    shadow := p.shadowEntry r.rerun :: p.shadow
    csr := p.csr.trapped r
    wb := 0
    joinWait := 0
    syncWait := 0
    rerun := none
    park := .none
    hold := false
    latch := none
    pend := none
    homeFaults := []
    waitReqs := 0
    ctl := .run
    entered := false
    pos := IssuePos.fresh }
  q.setPc q.alive tvec

/-- Take a trap (R273): wait, with the trap pending, while a completion flag is set or a home has not answered; halt at a third level or with no
handler (R265), firmware receiving 0x3B; otherwise enter the handler. -/
def State.takeTrap (s : State) (p : Nat) (r : TrapReq) : State :=
  match s.party? p with
  | none => s
  | some x =>
    if x.busyFlags || x.waitReqs != 0 then s.setParty p { x with pend := some r, ctl := .await, latch := none }
    else
      let tvec := (s.lod x.fe).tvec
      if tvec == 0 || 2 ≤ x.shadow.length then
        let s := (s.setParty p (s.stopCyc x.halt)).notify 0x3B
        if s.cur == some p then { s with cur := none } else s
      else s.setParty p { x.enter tvec r with parkedAt := s.now }

/-- Raise a trap from a word of the group being issued. Inside a chain group the trap is kept and raised for the whole
group (R77); the check made first keeps its place. -/
def State.raise (s : State) (p : Nat) (r : TrapReq) : State :=
  match s.party? p with
  | none => s
  | some x =>
    if x.latch.isSome then (if x.pend.isSome then s else s.setParty p { x with pend := some r })
    else s.takeTrap p r

/-- Raise a precise cause for the threads of `mfault` at the group being issued. -/
def State.raiseHere (s : State) (p : Nat) (cause : BitVec 6) (mfault : Mask) (info : DWord) : State :=
  match s.party? p with
  | none => s
  | some x => s.raise p (x.trapHere x.pos.m0 cause mfault [] info)

/-! ### The return from a trap (R267, R273) -/

/-- The state a `tret` restores: tpc, waits, window base and re-execution record of the popped entry; the threads of
`tmprev` that have not left resume at `tepc`. -/
def Party.leaveTrap (p : Party) (e : Shadow) (rest : List Shadow) : Party :=
  let m := p.csr.tmprev &&& p.alive
  let pkt := p.csr.tepc &&& ~~~ (0x38 : DWord)
  let slot := (p.csr.tepc.extractLsb' 4 2).toNat
  let q := { p with
    shadow := rest
    csr := { p.csr with
      level := e.level
      prior := match rest with | x :: _ => x.level | [] => 0 }
    wb := e.wb
    tpc := e.tpc
    joinWait := e.joinWait &&& ~~~ m
    syncWait := e.syncWait &&& ~~~ m
    rerun := e.rerun
    entered := false
    pos := if m == 0 then IssuePos.fresh else ⟨pkt, none, slot, slot, m, 0, false⟩ }
  q.setPc m pkt

/-- The checks of `tret` below the level check (R267, R273, R284), in the order the rules give them. -/
def Party.tretCause (p : Party) (e : Shadow) : Option (BitVec 6) :=
  if p.csr.tepc.getLsbD 3 || p.csr.tepc.extractLsb' 4 2 == 3 then some 0x02
  else if p.csr.tcause.extractLsb' 0 6 == 0x3F && p.csr.tinfo.getLsbD 0 then some 0x02
  else if p.divs.length != e.entries then some 0x1A
  else if (threadsOf p.width p.alive).any (fun t => (sget [] p.calls t).length != sget 0 e.callDepth t) then some 0x36
  else none

/-! ### A party at its start (R10) -/

/-- A party before its launch conventions (R10): registers 0, m0 the threads that take part, every thread at the entry. -/
def Party.blank (fe crew : Nat) (grid : Option Nat) (width rt : Nat) (entry : DWord) : Party :=
  let p : Party := {
    fe := fe, crew := crew, grid := grid, plan := grid.isNone, width := width, rt := rt, lane := 0, rslot := 0,
    index := 0, count := 1, posInCrew := 0, prio := 0, life := .pending, regs := ⟨[], [], []⟩, wb := 0,
    csr := PartyCsr.reset, gen := 1, flags := [], tpc := [], xfer := [], calls := [], depth := [], left := 0,
    joinWait := 0, syncWait := 0, syncMask := none, syncAt := 0, syncLast := 0, leaving := 0, divs := [], idempc := none, rc := 0, shadow := [],
    rerun := none, bars := [], region := [], detached := 0, runs := [], park := .none, parkedAt := 0,
    pos := IssuePos.fresh, entered := false, latch := none, ctl := .run, hold := false, waitReqs := 0,
    homeFaults := [], pend := none, age := 0, gap := 0, giveWay := false, cycAcc := 0, cycSince := none, rcCopies := [],
    winWrites := [] }
  p.setPc p.all entry

/-! ### Idempotent restart (R276) -/

/-- An engine command without its register results (R276). -/
def EnvCmd.blind (q : EnvCmd) : EnvCmd :=
  let op := match q.op with
    | .eval a _ => EnvOp.eval a []
    | .slope a _ => EnvOp.slope a []
    | .rd a _ k f => EnvOp.rd a [] k f
    | .cnt a _ => EnvOp.cnt a []
    | o => o
  { q with flag := 12, dest := .none, op := op }

/-- A matrix command without register results for a party (R276). -/
def MxCmd.blind (p : Nat) (q : MxCmd) : MxCmd :=
  match q.op with
  | .rd o lanes src row f => if o == p then { q with op := MxOp.rd o [] src row 12 } else { q with op := .rd o lanes src row f }
  | _ => q

/-- A core's queues without register results for a party (R276). -/
def Core.blind (p : Nat) (c : Core) : Core :=
  { c with
    mx := c.mx.map (fun e => (e.1, { e.2 with queue := e.2.queue.map (MxCmd.blind p) }))
    envQ := c.envQ.map (fun q => if q.party == p then q.blind else q) }

/-- Discard every outstanding result of a party (R276): replies to come, special-function results, register results of
engine commands. Accepted writes stay. Flag number 12 stands for no flag. -/
def State.discardResults (s : State) (p : Nat) : State :=
  let kept := s.reqs.filter (fun (e : Nat × Req) =>
    !(e.2.party == p && (match e.2.phase with | .reply _ => true | _ => false)))
  let s := { s with
    reqs := kept.map (fun (e : Nat × Req) =>
      if e.2.party == p then (e.1, { e.2 with dest := .none, flag := none, held := false }) else e)
    sfus := s.sfus.filter (fun (e : Nat × SfuOp) => e.2.party != p) }
  match s.party? p with
  | none => s
  | some x => (s.onCore (coreOfLane x.lane) (Core.blind p)).setParty p { x with flags := [] }

/-- The party consumes an uncorrectable error (R276): the first and second in a region restart it at `idempc`, the third
raises 0x15 with the cause that would have been raised in `tinfo`; outside a region the cause itself is raised. -/
def State.consumeError (s : State) (p : Nat) (cause : BitVec 6) (r : TrapReq) : State :=
  match s.party? p with
  | none => s
  | some x => match x.idempc with
    | none => s.takeTrap p r
    | some a =>
      if x.rc + 1 = 3 then
        (s.setParty p { x with rc := 0 }).takeTrap p
          { r with cause := 0x15, epc := a, info := cause.setWidth 64, rerun := none }
      else
        (s.discardResults p).onParty p (fun x =>
          { x.setPc x.alive a with
            rc := x.rc + 1, pos := IssuePos.fresh, entered := false, waitReqs := 0, homeFaults := [], ctl := .run,
            latch := none, hold := false, park := .none, rerun := none, parkedAt := s.now })

end Sys2Proof.Machine
end

