-- ==== Sys2Proof/Machine/Operands.lean ====
section
/-! DEFINITION. Operand forms: the threads a word executes for, reading and writing vector, uniform and mask registers, the
register-allocation check, and the executors that run a function over the selected threads and iterations. -/

namespace Sys2Proof.Machine

open Sys2Proof

/-- Run a word for the party that is issuing. No issuing party is a fault of the model (`Fault.noIssuingParty`). -/
def State.issue (s : State) (f : Nat → Party → State) : Host.Outcome State Fault Refusal :=
  match s.cur with
  | none => .fault .noIssuingParty
  | some p => match s.party? p with
    | none => .fault .noIssuingParty
    | some x => .next (f p x)

/-! ### Sources (R77, R97, R114) -/

/-- The registers a word reads: those of the chain group's start inside a group (R77), else the party's. -/
def Party.src (p : Party) : RegFile := match p.latch with | some l => l.regs | none => p.regs
/-- The window base a word's register names are taken from (R11). -/
def Party.base (p : Party) : Nat := match p.latch with | some l => l.wb | none => p.wb
/-- The control registers a word reads (R77, R260). -/
def Party.ctlRegs (p : Party) : PartyCsr := match p.latch with | some l => l.csr | none => p.csr
/-- The active threads a word reads: m0 narrowed in the packet (R149), the same for every word of a group (R77), less the
threads that have completed the instruction already (R169, R183). -/
def Party.m0 (p : Party) : Mask :=
  let m := match p.latch with | some l => l.m0 | none => p.pos.m0
  match p.rerun with | some r => m &&& r | none => m
/-- A mask register as a source: m0 is the active mask (R12). -/
def Party.mask (p : Party) (k : MaskReg) : Mask := if k = 0 then p.m0 else sget 0 p.src.m k.val
/-- A uniform register: s0 reads as zero (R13). -/
def Party.uni (p : Party) (n : Fin 31) : DWord := if n = 0 then 0 else sget 0 p.src.u n.val
/-- A physical vector register of a thread. -/
def Party.vphys (p : Party) (t r : Nat) : Word := sget 0 p.src.v (1024 * t + r)
/-- The threads a prefixed or plain word selects (R81). -/
def Party.selected (p : Party) (m : Mods) : Mask :=
  match m.pre with
  | none => p.m0
  | some q => p.m0 &&& (if q.inv then ~~~ p.mask q.mask else p.mask q.mask)
/-- The threads whose destination the zero policy clears (R81). -/
def Party.zeroed (p : Party) (m : Mods) : Mask :=
  match m.pre with
  | none => 0
  | some q => if q.zero then p.m0 &&& ~~~ p.selected m else 0
/-- The iterations of a word (R82). -/
def repsOf (m : Mods) : Nat := match m.pre with | some q => q.count | none => 1

/-- A class-3 word as its operands are checked: its prefix holds an order and a scope there, and it does not repeat (R79). -/
def Mods.once (m : Mods) : Mods := { m with pre := m.pre.map (fun q => { q with rep := 0 }) }

/-- A 32-bit source of thread `t` in iteration `k` (R82, R97). -/
def Party.reg32 (p : Party) (t k : Nat) : Reg → Word
  | .v n => p.vphys t (p.base + n.val + k)
  | .s n => (p.uni n).setWidth 32
/-- A 64-bit source: an even pair or a whole uniform register (R11, R97). -/
def Party.reg64 (p : Party) (t : Nat) : Reg → DWord
  | .v n => p.vphys t (p.base + n.val + 1) ++ p.vphys t (p.base + n.val)
  | .s n => p.uni n
/-- A 32-bit source or literal. -/
def Party.src32 (p : Party) (t k : Nat) : Src → Word
  | .reg r => p.reg32 t k r
  | .lit w => w
/-- A 64-bit source; a literal is sign-extended (R97). -/
def Party.src64 (p : Party) (t : Nat) : Src → DWord
  | .reg r => p.reg64 t r
  | .lit w => w.signExtend 64
/-- A 64-bit source of classes 6 and 7; a literal is zero-extended (R208, R255). -/
def Party.srcZ (p : Party) : Src → DWord
  | .reg r => p.reg64 0 r
  | .lit w => w.setWidth 64
/-- The 64 bits a uniform form reads as its 32-bit source (R98). -/
def imm7 (b : BitVec 7) : Word := b.signExtend 32

/-! ### Destinations -/

/-- Write a physical vector register of a thread. -/
def Party.setV (p : Party) (t r : Nat) (w : Word) : Party :=
  { p with regs := { p.regs with v := sset 0 p.regs.v (1024 * t + r) w } }
/-- Write a uniform register; a write to s0 is discarded (R13). -/
def Party.setU (p : Party) (n : Nat) (v : DWord) : Party :=
  if n = 0 then p else { p with regs := { p.regs with u := sset 0 p.regs.u n v } }
/-- Write a whole mask register m1 to m7. -/
def Party.setM (p : Party) (k : Nat) (m : Mask) : Party :=
  { p with regs := { p.regs with m := sset 0 p.regs.m k m } }
/-- The bits of a mask register as they stand now, for a destination. -/
def Party.maskNow (p : Party) (k : Nat) : Mask := sget 0 p.regs.m k

/-- A physical vector register of a thread as it stands now. -/
def Party.vNow (p : Party) (t r : Nat) : Word := sget 0 p.regs.v (1024 * t + r)
/-- A uniform register as it stands now; s0 reads as zero (R13). -/
def Party.uNow (p : Party) (n : Nat) : DWord := if n = 0 then 0 else sget 0 p.regs.u n

/-- Write one value per thread. -/
def Party.setVs (p : Party) (r : Nat) : List (Nat × Word) → Party
  | [] => p
  | (t, w) :: vs => (p.setV t r w).setVs r vs

/-- Write a value to its destination: nothing, a run of vector registers lowest first, a uniform register, a mask bit. -/
def Party.setRun (p : Party) (t r v : Nat) : Nat → Party
  | 0 => p
  | n + 1 => (p.setV t r (BitVec.ofNat 32 v)).setRun t (r + 1) (v / 2 ^ 32) n
/-- Write a result to a destination of thread `t`. -/
def Party.setDest (p : Party) (t : Nat) (d : Dest) (v : Nat) : Party :=
  match d with
  | .none => p
  | .vec r n => p.setRun t r v n
  | .uni n => p.setU n (BitVec.ofNat 64 v)
  | .mask k => p.setM k (setBit (p.maskNow k) t (v % 2 == 1))

/-- A result that arrives while the party's group waits for its homes stands also where the group would take a thread back
(R77, R169). -/
def Party.deposit (p : Party) (f : Party → Party) : Party :=
  let q := f p
  match p.latch with
  | none => q
  | some l =>
    let b := f { p with regs := l.regs, csr := l.csr }
    { q with latch := some { l with regs := b.regs, csr := b.csr } }

/-! ### Allocation (R11, R82) -/

/-- The registers of a party's threads: Rt, which no launch sets above 1,024 (R15). -/
def Party.limit (p : Party) : Nat := min p.rt 1024

/-- The first physical register at or beyond Rt that the named runs reach in any iteration. -/
def Party.beyond (p : Party) (reps : Nat) : List (Reg × Nat) → Option Nat
  | [] => none
  | (.s _, _) :: rs => p.beyond reps rs
  | (.v n, l) :: rs =>
    let last := p.base + n.val + l + reps - 2
    if p.limit ≤ last then some (max p.limit (p.base + n.val)) else p.beyond reps rs

/-- Run a word unless a register it names lies at or beyond Rt: then 0x07 is raised, `tmfault` holding the selected
threads and `tinfo` the register (R11, R82, R275). A word that touches no thread raises nothing (R81). -/
def State.alloc (s : State) (p : Nat) (x : Party) (m : Mods) (regs : List (Reg × Nat)) (go : State) : State :=
  if x.selected m ||| x.zeroed m = 0 then go
  else match x.beyond (repsOf m) regs with
  | some r => s.raiseHere p 0x07 (x.selected m) (BitVec.ofNat 64 (r % 2048))
  | none => go

/-- The register a source names, with its length. -/
def srcRun (b : Src) (n : Nat) : List (Reg × Nat) := match b with | .reg r => [(r, n)] | .lit _ => []

/-! ### Executors -/

/-- One iteration of a 32-bit vector function: every value is computed before any is written. -/
def Party.vecStep (p : Party) (m : Mods) (n k : Nat) (f : Party → Nat → Nat → Word) : Party :=
  let sel := threadsOf p.width (p.selected m)
  let zer := threadsOf p.width (p.zeroed m)
  p.setVs (p.base + n + k) (sel.map (fun t => (t, f p t k)) ++ zer.map (fun t => (t, 0)))

/-- The iterations from `k` on. -/
def Party.vecIter (p : Party) (m : Mods) (n : Nat) (f : Party → Nat → Nat → Word) (k : Nat) : Nat → Party
  | 0 => p
  | r + 1 => (p.vecStep m n k f).vecIter m n f (k + 1) r

/-- A function with a 32-bit destination (R81, R82, R98): once to a uniform register, zero-extended; otherwise for every
selected thread and iteration. `regs` are the registers it names. -/
def State.vecOp (s : State) (m : Mods) (d : Reg) (regs : List (Reg × Nat)) (f : Party → Nat → Nat → Word) :
    Host.Outcome State Fault Refusal :=
  s.issue fun p x =>
    match d with
    | .s n => s.setParty p (x.setU n.val ((f x 0 0).setWidth 64))
    | .v n => s.alloc p x m ((d, 1) :: regs) (s.setParty p (x.vecIter m n.val f 0 (repsOf m)))

/-- A function with a 64-bit destination: one uniform register, or a pair of every selected thread (R97, R109). -/
def State.vecOp64 (s : State) (m : Mods) (d : Reg) (regs : List (Reg × Nat)) (f : Party → Nat → DWord) :
    Host.Outcome State Fault Refusal :=
  s.issue fun p x =>
    match d with
    | .s n => s.setParty p (x.setU n.val (f x 0))
    | .v n => s.alloc p x m ((d, 2) :: regs) (s.setParty p
        (((x.vecStep m n.val 0 (fun _ t _ => (f x t).setWidth 32))).vecStep m n.val 1
          (fun _ t _ => (f x t).extractLsb' 32 32)))

/-- The bits a mask destination takes: the selected threads' results; cleared under the zero policy (R81, R106). -/
def Party.maskStep (p : Party) (m : Mods) (d k : Nat) (f : Party → Nat → Nat → Bool) : Party :=
  let bits := (threadsOf p.width (p.selected m)).foldl (fun b t => setBit b t (f p t k)) (p.maskNow d)
  p.setM d (bits &&& ~~~ p.zeroed m)

/-- The iterations of a compare from `k` on: the last one's result remains. -/
def Party.maskIter (p : Party) (m : Mods) (d : Nat) (f : Party → Nat → Nat → Bool) (k : Nat) : Nat → Party
  | 0 => p
  | r + 1 => (p.maskStep m d k f).maskIter m d f (k + 1) r

/-- A compare or mask function (R106, R121, R141). -/
def State.maskOp (s : State) (m : Mods) (d : MaskReg) (regs : List (Reg × Nat)) (f : Party → Nat → Nat → Bool) :
    Host.Outcome State Fault Refusal :=
  s.issue fun p x => s.alloc p x m regs (s.setParty p (x.maskIter m d.val f 0 (repsOf m)))

end Sys2Proof.Machine
end

