-- ==== Sys2Proof/Machine/Float.lean ====
section
/-! DEFINITION. Exact floating-point arithmetic (03_number_formats.md): formats, values, rounding with its flags (R57 to R61),
addition, multiplication and comparison of exact values. -/

namespace Sys2Proof.Machine

open Sys2Proof

/-! ### Formats and values (R50, R59) -/

/-- A binary format: exponent bits, fraction bits, and whether it is E4M3, which has no infinity and its NaN at all ones. -/
structure Fmt where
  eb : Nat
  mb : Nat
  e4 : Bool
  deriving DecidableEq, Repr

/-- FP32. -/
def fp32 : Fmt := ⟨8, 23, false⟩
/-- BF16. -/
def bf16 : Fmt := ⟨8, 7, false⟩
/-- FP16. -/
def fp16 : Fmt := ⟨5, 10, false⟩
/-- E4M3. -/
def e4m3 : Fmt := ⟨4, 3, true⟩
/-- E5M2. -/
def e5m2 : Fmt := ⟨5, 2, false⟩

/-- The exponent bias. -/
def Fmt.bias (f : Fmt) : Nat := 2 ^ (f.eb - 1) - 1
/-- The encoding above the largest finite magnitude: infinity, or the NaN of E4M3. -/
def Fmt.top (f : Fmt) : Nat := if f.e4 then 2 ^ (f.eb + f.mb) - 1 else (2 ^ f.eb - 1) * 2 ^ f.mb
/-- The sign bit. -/
def Fmt.sign (f : Fmt) : Nat := 2 ^ (f.eb + f.mb)
/-- The default NaN (R50). -/
def Fmt.nan (f : Fmt) : Nat := if f.e4 then 2 ^ (f.eb + f.mb) - 1 else f.top + 2 ^ (f.mb - 1)

/-- A floating-point value: NaN, an infinity, or a finite number of magnitude num/den with its sign; `num` 0 is a zero. -/
inductive Val where
  | nan
  | inf (neg : Bool)
  | fin (neg : Bool) (num den : Nat)
  deriving DecidableEq, Repr

/-- The exact value of an encoding, and whether it is a signalling NaN (R50). -/
def Fmt.read (f : Fmt) (bits : Nat) : Val × Bool :=
  let neg := bits / f.sign % 2 == 1
  let mag := bits % f.sign
  let e := mag / 2 ^ f.mb
  let m := mag % 2 ^ f.mb
  if f.e4 then
    if mag == f.top then (.nan, false)
    else if e == 0 then (.fin neg m (2 ^ (f.bias + f.mb - 1)), false)
    else (.fin neg ((2 ^ f.mb + m) * 2 ^ e) (2 ^ (f.bias + f.mb)), false)
  else if f.top < mag then (.nan, 3 < f.mb && m < 2 ^ (f.mb - 1))
  else if mag == f.top then (.inf neg, false)
  else if e == 0 then (.fin neg m (2 ^ (f.bias + f.mb - 1)), false)
  else (.fin neg ((2 ^ f.mb + m) * 2 ^ e) (2 ^ (f.bias + f.mb)), false)

/-- An encoding is subnormal and not zero. -/
def Fmt.subnormal (f : Fmt) (bits : Nat) : Bool := bits % f.sign != 0 && bits % f.sign < 2 ^ f.mb

/-- A floating-point source: under flush-to-zero a subnormal reads as a zero of its sign (R60). -/
def Fmt.source (f : Fmt) (ftz : Bool) (bits : Nat) : Val × Bool :=
  if ftz && f.subnormal bits then (.fin (bits / f.sign % 2 == 1) 0 1, false) else f.read bits

/-! ### Flags (R61) -/

/-- invalid, div0, overflow, underflow, inexact: bits 0 to 4 of `fpsum`. -/
abbrev FpFlags := BitVec 5
/-- The invalid flag. -/
def fInvalid : FpFlags := 1
/-- The div0 flag. -/
def fDiv0 : FpFlags := 2
/-- The overflow flag. -/
def fOverflow : FpFlags := 4
/-- The underflow flag. -/
def fUnderflow : FpFlags := 8
/-- The inexact flag. -/
def fInexact : FpFlags := 16
/-- A flag when a condition holds. -/
def fWhen (b : Bool) (f : FpFlags) : FpFlags := if b then f else 0

/-! ### Rounding (R57 to R60) -/

/-- Rounding modes by their codes 1 to 6 (R57). -/
def RNE : BitVec 3 := 1
/-- Stochastic rounding (R58). -/
def SR : BitVec 3 := 6

/-- An integer from a magnitude n/d under a mode: n/d rounded down, or one more. `u` is the random draw of R58. -/
def roundInt (mode : BitVec 3) (neg : Bool) (n d u : Nat) : Nat :=
  let k := n / d
  let r := n % d
  let up := match mode.toNat with
    | 1 => d < 2 * r || (2 * r == d && k % 2 == 1)
    | 2 => false
    | 3 => !neg && r != 0
    | 4 => neg && r != 0
    | 5 => d ≤ 2 * r
    | _ => u < r * 2 ^ 16 / d
  if up then k + 1 else k

/-- The floor of the binary logarithm of n/d, for n and d above 0. -/
def log2Q (n d : Nat) : Int :=
  let e : Int := (Nat.log2 n : Int) - (Nat.log2 d : Int)
  let below := if 0 ≤ e then n < d * 2 ^ e.toNat else n * 2 ^ (-e).toNat < d
  if below then e - 1 else e

/-- n/d divided by 2^u, as a fraction. -/
def scaleQ (n d : Nat) (u : Int) : Nat × Nat :=
  if 0 ≤ u then (n, d * 2 ^ u.toNat) else (n * 2 ^ (-u).toNat, d)

/-- What an overflow stores (R59). -/
def Fmt.overflowMag (f : Fmt) (mode : BitVec 3) (neg : Bool) : Nat :=
  if f.e4 then f.top - 1
  else match mode.toNat with
    | 2 => f.top - 1
    | 3 => if neg then f.top - 1 else f.top
    | 4 => if neg then f.top else f.top - 1
    | _ => f.top

/-- Round a finite nonzero magnitude n/d into a format (R57 to R61). The result is tiny when, rounded as if the exponent were
unbounded, it lies below the smallest normal (log entry 13). Under stochastic rounding an inexact value whose upper
neighbour lies beyond the largest finite value overflows (R58, log entry 14). -/
def Fmt.round (f : Fmt) (mode : BitVec 3) (ftz neg : Bool) (n d u : Nat) : Nat × FpFlags :=
  let emin : Int := 1 - (f.bias : Int)
  let e := log2Q n d
  let em := max e emin
  let q := scaleQ n d (em - f.mb)
  let k := roundInt mode neg q.1 q.2 u
  let exact := q.1 % q.2 == 0
  let mag := (em - emin).toNat * 2 ^ f.mb + k
  let sign := if neg then f.sign else 0
  let past := f.top ≤ mag || (mode == SR && !exact && f.top ≤ (em - emin).toNat * 2 ^ f.mb + q.1 / q.2 + 1)
  if past then (sign + f.overflowMag mode neg, fOverflow ||| fInexact)
  else
    let tiny := e < emin &&
      (let q' := scaleQ n d (e - f.mb)
       !(e == emin - 1 && 2 ^ (f.mb + 1) ≤ roundInt mode neg q'.1 q'.2 u))
    if ftz && mag != 0 && mag < 2 ^ f.mb then (sign, fUnderflow ||| fInexact)
    else (sign + mag, fWhen (!exact) fInexact ||| fWhen (tiny && !exact) fUnderflow)

/-- Write a value into a format under a mode: the default NaN, infinities (±448 with invalid in E4M3), zeros with their sign,
and rounded finite values. -/
def Fmt.write (f : Fmt) (mode : BitVec 3) (ftz : Bool) (u : Nat) : Val → Nat × FpFlags
  | .nan => (f.nan, 0)
  | .inf neg =>
    let sign := if neg then f.sign else 0
    if f.e4 then (sign + f.top - 1, fInvalid) else (sign + f.top, 0)
  | .fin neg n d =>
    if n = 0 then ((if neg then f.sign else 0), 0) else f.round mode ftz neg n d u

/-! ### Exact arithmetic (IEEE 754-2019 special cases) -/

/-- The sum of two magnitudes or their difference, over a common denominator. -/
def commonDen (d e : Nat) : Nat := if e % d = 0 then e else if d % e = 0 then d else d * e

/-- A signed fraction of a finite value over a denominator it divides. -/
def signedNum (neg : Bool) (n d c : Nat) : Int := let m : Int := (n * (c / d) : Nat); if neg then -m else m

/-- Exact addition, with invalid for infinities of both signs. A zero sum of opposite signs is +0, −0 when rounding down. -/
def addV (mode : BitVec 3) : Val → Val → Val × Bool
  | .nan, _ => (.nan, false)
  | _, .nan => (.nan, false)
  | .inf a, .inf b => if a == b then (.inf a, false) else (.nan, true)
  | .inf a, .fin _ _ _ => (.inf a, false)
  | .fin _ _ _, .inf b => (.inf b, false)
  | .fin a n d, .fin b k e =>
    let c := commonDen d e
    let s := signedNum a n d c + signedNum b k e c
    if s = 0 then (.fin (if a == b then a else mode == 4) 0 1, false)
    else (.fin (decide (s < 0)) s.natAbs c, false)

/-- Exact multiplication, with invalid for 0 · ∞. -/
def mulV : Val → Val → Val × Bool
  | .nan, _ => (.nan, false)
  | _, .nan => (.nan, false)
  | .inf a, .inf b => (.inf (a != b), false)
  | .inf a, .fin b n _ => if n = 0 then (.nan, true) else (.inf (a != b), false)
  | .fin a n _, .inf b => if n = 0 then (.nan, true) else (.inf (a != b), false)
  | .fin a n d, .fin b k e => (.fin (a != b) (n * k) (d * e), false)

/-- The value with its sign inverted. -/
def negV : Val → Val
  | .nan => .nan
  | .inf a => .inf (!a)
  | .fin a n d => .fin (!a) n d

/-- The order of two values that are not NaN: less, equal, greater as −1, 0, 1; zeros are equal. -/
def cmpV : Val → Val → Int
  | .inf a, .inf b => if a == b then 0 else if a then -1 else 1
  | .inf a, _ => if a then -1 else 1
  | _, .inf b => if b then 1 else -1
  | .fin a n d, .fin b k e =>
    let c := commonDen d e
    let x := signedNum a n d c
    let y := signedNum b k e c
    if x < y then -1 else if x = y then 0 else 1
  | _, _ => 0

/-- A value is NaN. -/
def Val.isNan : Val → Bool
  | .nan => true
  | _ => false

/-- The sign of a value. -/
def Val.neg : Val → Bool
  | .nan => false
  | .inf a => a
  | .fin a _ _ => a

/-- FP32 bits of an exact value rounded to nearest even, subnormals kept, no flag (the engines, R57, R60). -/
def rn (v : Val) : Word := BitVec.ofNat 32 (fp32.write RNE false 0 v).1
/-- The exact value of FP32 bits. -/
def val32 (w : Word) : Val := (fp32.read w.toNat).1

/-! ### The stochastic generator (R58) -/

/-- One advance of the generator. -/
def xorshift (g : Word) : Word :=
  let g := g ^^^ (g <<< 13)
  let g := g ^^^ (g >>> 17)
  g ^^^ (g <<< 5)

/-- The generator after `n` advances. -/
def advance (g : Word) : Nat → Word
  | 0 => g
  | n + 1 => advance (xorshift g) n

/-- The draw of the `j`-th advance from `g`. -/
def draw (g : Word) (j : Nat) : Nat := (advance g (j + 1)).toNat / 2 ^ 16

/-! ### Executing over threads (R115, R116, R134, R135) -/

/-- The effective rounding mode (R57). -/
def Party.mode (p : Party) (m : Mods) : BitVec 3 :=
  let c := match m.pre with | some q => q.rnd | none => 0
  if c = 0 then p.ctlRegs.fpctl.extractLsb' 0 3 else c
/-- Flush-to-zero is set (R60, R261). -/
def Party.ftz (p : Party) : Bool := p.ctlRegs.fpctl.getLsbD 8
/-- OR flags into `fpsum`. -/
def Party.orFlags (p : Party) (f : FpFlags) : Party :=
  { p with csr := { p.csr with fpsum := p.csr.fpsum ||| f.setWidth 32 } }

/-- What a floating-point function computes for one thread: from mode, flush and the draws of its elements, the result and
its flags. -/
abbrev FpFn := BitVec 3 → Bool → (Nat → Nat) → Word × FpFlags

/-- The threads' results of one iteration in ascending order, with the flags raised and the generator after `draws` advances
for each thread under stochastic rounding. -/
def fpThreads (mode : BitVec 3) (ftz : Bool) (draws : Nat) (f : Nat → FpFn) : List Nat → Word →
    List (Nat × Word) × FpFlags × Word
  | [], g => ([], 0, g)
  | t :: ts, g =>
    let r := f t mode ftz (draw g)
    let g' := if mode == SR then advance g draws else g
    let rest := fpThreads mode ftz draws f ts g'
    ((t, r.1) :: rest.1, r.2 ||| rest.2.1, rest.2.2)

/-- One iteration of a floating-point function with a 32-bit destination. -/
def Party.fpStep (p : Party) (m : Mods) (n k draws : Nat) (f : Party → Nat → Nat → FpFn) : Party :=
  let r := fpThreads (p.mode m) p.ftz draws (fun t => f p t k) (threadsOf p.width (p.selected m)) p.gen
  let zer := (threadsOf p.width (p.zeroed m)).map (fun t => (t, (0 : Word)))
  { ((p.setVs (p.base + n + k) (r.1 ++ zer)).orFlags r.2.1) with gen := r.2.2 }

/-- The iterations from `k` on. -/
def Party.fpIter (p : Party) (m : Mods) (n draws : Nat) (f : Party → Nat → Nat → FpFn) (k : Nat) : Nat → Party
  | 0 => p
  | r + 1 => (p.fpStep m n k draws f).fpIter m n draws f (k + 1) r

/-- A shadow upset waits for this word: the state without it, and the packed element it strikes (R134, R135). -/
def State.shadowUpset (s : State) : Option (State × Nat) :=
  match s.upset with
  | .shadow e => some ({ s with upset := .none }, e)
  | _ => none

/-- A shadow mismatch (R135): 0x19 for the selected threads, m0 for a uniform word, `tinfo` naming the word and element;
nothing is written. The threads whose results differ are the hardware's: the schedule's upset strikes the lowest selected
thread (log entry 15). -/
def State.shadowTrap (s : State) (p : Nat) (x : Party) (m : Mods) (uniform : Bool) (e : Nat) : State :=
  let hit := match threadsOf x.width (x.selected m) with | t :: _ => bitMask t | [] => 0
  let slot := x.pos.slot + (if m.pre.isSome then 1 else 0)
  s.raiseHere p 0x19 (if uniform then x.m0 else hit) (BitVec.ofNat 64 (slot % 4 + e % 4 * 4))

/-- A floating-point function with a 32-bit destination (R114 to R116): `draws` roundings for each element, `checked` when
the shadow check acts on it (R134). -/
def State.fpOp (s : State) (m : Mods) (d : Reg) (regs : List (Reg × Nat)) (draws : Nat) (checked : Bool)
    (f : Party → Nat → Nat → FpFn) : Host.Outcome State Fault Refusal :=
  s.issue fun p x =>
    match d with
    | .s n =>
      match (if checked then s.shadowUpset else none) with
      | some (s, e) => s.shadowTrap p x m true e
      | none =>
        let r := f x 0 0 (x.mode m) x.ftz (draw x.gen)
        let g := if x.mode m == SR then advance x.gen draws else x.gen
        s.setParty p { ((x.setU n.val (r.1.setWidth 64)).orFlags r.2) with gen := g }
    | .v n => s.alloc p x m ((d, 1) :: regs)
      (match (if checked && x.selected m != 0 then s.shadowUpset else none) with
      | some (s, e) => s.shadowTrap p x m false e
      | none => s.setParty p (x.fpIter m n.val draws f 0 (repsOf m)))

/-- One iteration of a floating-point compare for the threads `sel`; the bits of `zer` are cleared. -/
def Party.fcmpStep (p : Party) (sel zer : Mask) (d k : Nat) (f : Party → Nat → Nat → Bool → Bool × FpFlags) : Party :=
  let ts := threadsOf p.width sel
  let fl := ts.foldl (fun a t => a ||| (f p t k p.ftz).2) 0
  let bits := ts.foldl (fun b t => setBit b t (f p t k p.ftz).1) (p.maskNow d)
  (p.setM d (bits &&& ~~~ zer)).orFlags fl

/-- The iterations of a floating-point compare (R121): the prefix selects the threads once, before the first (R81, R82). -/
def Party.fcmpIter (p : Party) (sel zer : Mask) (d : Nat) (f : Party → Nat → Nat → Bool → Bool × FpFlags) (k : Nat) : Nat → Party
  | 0 => p
  | r + 1 => (p.fcmpStep sel zer d k f).fcmpIter sel zer d f (k + 1) r

/-- A floating-point compare (R121). -/
def State.fcmpOp (s : State) (m : Mods) (d : MaskReg) (regs : List (Reg × Nat))
    (f : Party → Nat → Nat → Bool → Bool × FpFlags) : Host.Outcome State Fault Refusal :=
  s.issue fun p x => s.alloc p x m regs (s.setParty p (x.fcmpIter (x.selected m) (x.zeroed m) d.val f 0 (repsOf m)))

end Sys2Proof.Machine
end

