-- ==== Sys2Proof/Machine/FloatOps.lean ====
section
/-! DEFINITION. Class 1: floating-point arithmetic, minimum and maximum, sign functions, compares, rounding, classification,
packed halves and small dot products (07_isa_float_special.md, R114 to R125). -/

namespace Sys2Proof.Machine

open Sys2Proof

/-! ### The functions -/

/-- A source element of a format: its value, and whether it is a signalling NaN (R116). -/
abbrev Elem := Val × Bool

/-- Invalid when a source is a signalling NaN (R116). -/
def snanFlags (xs : List Elem) : FpFlags := fWhen (xs.any (fun x => x.2)) fInvalid

/-- Round a value into a format, with the flags of its sources and of the operation. -/
def Fmt.out (f : Fmt) (mode : BitVec 3) (ftz : Bool) (u : Nat) (r : Val × Bool) (xs : List Elem) : Nat × FpFlags :=
  let w := f.write mode ftz u r.1
  (w.1, w.2 ||| fWhen r.2 fInvalid ||| snanFlags xs)

/-- `a + b` in a format (R118, R124). -/
def Fmt.add (f : Fmt) (mode : BitVec 3) (ftz : Bool) (u a b : Nat) : Nat × FpFlags :=
  let x := f.source ftz a
  let y := f.source ftz b
  f.out mode ftz u (addV mode x.1 y.1) [x, y]
/-- `a − b` (R118). -/
def Fmt.sub (f : Fmt) (mode : BitVec 3) (ftz : Bool) (u a b : Nat) : Nat × FpFlags :=
  let x := f.source ftz a
  let y := f.source ftz b
  f.out mode ftz u (addV mode x.1 (negV y.1)) [x, y]
/-- `a · b` (R118, R124). -/
def Fmt.mul (f : Fmt) (mode : BitVec 3) (ftz : Bool) (u a b : Nat) : Nat × FpFlags :=
  let x := f.source ftz a
  let y := f.source ftz b
  f.out mode ftz u (mulV x.1 y.1) [x, y]
/-- `a · b + d`, rounded once; invalid for 0 · ∞ whatever d is (R118, R124). -/
def Fmt.fma (f : Fmt) (mode : BitVec 3) (ftz : Bool) (u d a b : Nat) : Nat × FpFlags :=
  let x := f.source ftz a
  let y := f.source ftz b
  let z := f.source ftz d
  let p := mulV x.1 y.1
  let r := addV mode p.1 z.1
  f.out mode ftz u (r.1, p.2 || r.2) [x, y, z]

/-- The smaller (`min`) or larger of two values that are not NaN; −0 lies below +0 (R119). -/
def pickV (min : Bool) (x y : Val) : Val :=
  let c := cmpV x y
  let first := if c = 0 then x.neg == min else if min then decide (c < 0) else decide (0 < c)
  if first then x else y
/-- `fmin`, `fmax`, `fmin.p` and `fmax.p` (R119): `prop` propagates a NaN. -/
def Fmt.minmax (f : Fmt) (min prop : Bool) (ftz : Bool) (a b : Nat) : Nat × FpFlags :=
  let x := f.source ftz a
  let y := f.source ftz b
  let r := if x.1.isNan then (if prop then Val.nan else y.1) else if y.1.isNan then (if prop then Val.nan else x.1)
    else pickV min x.1 y.1
  f.out RNE false 0 (r, false) [x, y]

/-- A value with a given sign. -/
def Val.withSign (neg : Bool) : Val → Val
  | .nan => .nan
  | .inf _ => .inf neg
  | .fin _ n d => .fin neg n d

/-- `fabs` (R120). -/
def fabsF (ftz : Bool) (a : Nat) : Nat × FpFlags :=
  let x := fp32.source ftz a
  fp32.out RNE false 0 (x.1.withSign false, false) [x]
/-- `fneg` (R120). -/
def fnegF (ftz : Bool) (a : Nat) : Nat × FpFlags :=
  let x := fp32.source ftz a
  fp32.out RNE false 0 (negV x.1, false) [x]
/-- `fcopysign` (R120): the sign bit of b as stored. -/
def fcopysignF (ftz : Bool) (a b : Nat) : Nat × FpFlags :=
  let x := fp32.source ftz a
  let y := fp32.source ftz b
  fp32.out RNE false 0 (x.1.withSign (b / fp32.sign % 2 == 1), false) [x, y]

/-- `frnd` (R122). -/
def frndF (mode : BitVec 3) (ftz : Bool) (u a : Nat) : Nat × FpFlags :=
  let x := fp32.source ftz a
  match x.1 with
  | .fin neg n d =>
    let r := fp32.write RNE false 0 (.fin neg (roundInt mode neg n d u) 1)
    (r.1, fWhen (n % d != 0) fInexact)
  | v => fp32.out RNE false 0 (v, false) [x]

/-- `fclass` (R123): the encoding as stored. -/
def fclassF (a : Nat) : Nat × FpFlags :=
  let x := fp32.read a
  let neg := a / fp32.sign % 2 == 1
  let bit := match x.1 with
    | .nan => if x.2 then 8 else 9
    | .inf _ => if neg then 0 else 7
    | .fin _ n _ => if n = 0 then (if neg then 3 else 4)
      else if fp32.subnormal a then (if neg then 2 else 5) else (if neg then 1 else 6)
  (2 ^ bit, snanFlags [x])

/-- `fscale` (R118): b is a signed integer. -/
def fscaleF (mode : BitVec 3) (ftz : Bool) (u a : Nat) (b : Word) : Nat × FpFlags :=
  let x := fp32.source ftz a
  let k := max (-512) (min 512 b.toInt)
  let v := match x.1 with
    | .fin neg n d => if 0 ≤ k then Val.fin neg (n * 2 ^ k.toNat) d else Val.fin neg n (d * 2 ^ (-k).toNat)
    | v => v
  fp32.out mode ftz u (v, false) [x]

/-- The exact sum of d and the products of elements, rounded once into FP32 (R125): NaN for a NaN among them, and NaN with
invalid for 0 · ∞ or infinities of both signs. -/
def dotF (mode : BitVec 3) (ftz : Bool) (u d : Nat) (f : Fmt) (ps : List (Nat × Nat)) : Nat × FpFlags :=
  let z := fp32.source ftz d
  let xs := ps.map (fun p => f.source ftz p.1)
  let ys := ps.map (fun p => f.source ftz p.2)
  let prods := (xs.zip ys).map (fun p => mulV p.1.1 p.2.1)
  let terms := z.1 :: prods.map (fun p => p.1)
  let bad := prods.any (fun p => p.2) || (terms.contains (.inf true) && terms.contains (.inf false))
  let r := if bad || terms.any Val.isNan then Val.nan else terms.tail.foldl (fun s t => (addV mode s t).1) z.1
  fp32.out mode ftz u (r, bad) (z :: xs ++ ys)

/-- Element `j` of a packed word of `n`-bit elements (R114). -/
def elem (n j : Nat) (w : Word) : Nat := w.toNat / 2 ^ (n * j) % 2 ^ n

/-- A compare of two FP32 values (R121): the bit, and its flags. `un` is `fcmp.un`; `any` sets invalid for any NaN. -/
def fcmpF (un any : Bool) (rel : Int → Bool) (ftz : Bool) (a b : Nat) : Bool × FpFlags :=
  let x := fp32.source ftz a
  let y := fp32.source ftz b
  let nan := x.1.isNan || y.1.isNan
  (if nan then un else !un && rel (cmpV x.1 y.1), fWhen (any && nan) fInvalid ||| snanFlags [x, y])

/-! ### Executors -/

/-- Widen a result to a register word. -/
def asWord (r : Nat × FpFlags) : Word × FpFlags := (BitVec.ofNat 32 r.1, r.2)

/-- A function of A (`draws` roundings). -/
def State.fp1 (s : State) (m : Mods) (d a : Reg) (draws : Nat) (checked : Bool)
    (f : BitVec 3 → Bool → Nat → Nat → Nat × FpFlags) : Host.Outcome State Fault Refusal :=
  s.fpOp m d [(a, 1)] draws checked (fun p t k mode ftz u => asWord (f mode ftz (u 0) (p.reg32 t k a).toNat))
/-- A function of A and B. -/
def State.fp2 (s : State) (m : Mods) (d a : Reg) (b : Src) (draws : Nat)
    (f : BitVec 3 → Bool → Nat → Word → Word → Nat × FpFlags) : Host.Outcome State Fault Refusal :=
  s.fpOp m d ((a, 1) :: srcRun b 1) draws true
    (fun p t k mode ftz u => asWord (f mode ftz (u 0) (p.reg32 t k a) (p.src32 t k b)))
/-- A function of the old D, A and B. -/
def State.fp3 (s : State) (m : Mods) (d a : Reg) (b : Src)
    (f : BitVec 3 → Bool → Nat → Word → Word → Word → Nat × FpFlags) : Host.Outcome State Fault Refusal :=
  s.fpOp m d ((a, 1) :: srcRun b 1) 1 true
    (fun p t k mode ftz u => asWord (f mode ftz (u 0) (p.reg32 t k d) (p.reg32 t k a) (p.src32 t k b)))
/-- A packed function of two 16-bit elements (R124). -/
def State.fpPair (s : State) (m : Mods) (d a : Reg) (b : Src) (draws : Nat)
    (f : BitVec 3 → Bool → Nat → Nat → Nat → Nat → Nat × FpFlags) : Host.Outcome State Fault Refusal :=
  s.fpOp m d ((a, 1) :: srcRun b 1) draws true (fun p t k mode ftz u =>
    let one := fun j => f mode ftz (u j) (elem 16 j (p.reg32 t k d)) (elem 16 j (p.reg32 t k a)) (elem 16 j (p.src32 t k b))
    let lo := one 0
    let hi := one 1
    (BitVec.ofNat 32 (lo.1 + 2 ^ 16 * hi.1), lo.2 ||| hi.2))
/-- A dot product of `n` elements of `w` bits (R125). -/
def State.fpDot (s : State) (m : Mods) (d a : Reg) (b : Src) (f : Fmt) (w n : Nat) : Host.Outcome State Fault Refusal :=
  s.fp3 m d a b (fun mode ftz u dd x y => dotF mode ftz u dd.toNat f ((List.range n).map (fun k => (elem w k x, elem w k y))))
/-- A compare (R121). -/
def State.fpCmp (s : State) (m : Mods) (d : MaskReg) (a : Reg) (b : Src) (un any : Bool) (rel : Int → Bool) :
    Host.Outcome State Fault Refusal :=
  s.fcmpOp m d ((a, 1) :: srcRun b 1)
    (fun p t k ftz => fcmpF un any rel ftz (p.reg32 t k a).toNat (p.src32 t k b).toNat)

/-! ### Meanings -/

/-- `fadd` (R118). -/
def execFadd (m : Mods) (d a : Reg) (b : Src) (s : State) : Host.Outcome State Fault Refusal :=
  s.fp2 m d a b 1 (fun mode ftz u x y => fp32.add mode ftz u x.toNat y.toNat)

/-- `fsub` (R118). -/
def execFsub (m : Mods) (d a : Reg) (b : Src) (s : State) : Host.Outcome State Fault Refusal :=
  s.fp2 m d a b 1 (fun mode ftz u x y => fp32.sub mode ftz u x.toNat y.toNat)

/-- `fmul` (R118). -/
def execFmul (m : Mods) (d a : Reg) (b : Src) (s : State) : Host.Outcome State Fault Refusal :=
  s.fp2 m d a b 1 (fun mode ftz u x y => fp32.mul mode ftz u x.toNat y.toNat)

/-- `fma` (R118). -/
def execFma (m : Mods) (d a : Reg) (b : Src) (s : State) : Host.Outcome State Fault Refusal :=
  s.fp3 m d a b (fun mode ftz u z x y => fp32.fma mode ftz u z.toNat x.toNat y.toNat)

/-- `fmin` (R119). -/
def execFmin (m : Mods) (d a : Reg) (b : Src) (s : State) : Host.Outcome State Fault Refusal :=
  s.fp2 m d a b 0 (fun _ ftz _ x y => fp32.minmax true false ftz x.toNat y.toNat)

/-- `fmax` (R119). -/
def execFmax (m : Mods) (d a : Reg) (b : Src) (s : State) : Host.Outcome State Fault Refusal :=
  s.fp2 m d a b 0 (fun _ ftz _ x y => fp32.minmax false false ftz x.toNat y.toNat)

/-- `fmin.p` (R119). -/
def execFminP (m : Mods) (d a : Reg) (b : Src) (s : State) : Host.Outcome State Fault Refusal :=
  s.fp2 m d a b 0 (fun _ ftz _ x y => fp32.minmax true true ftz x.toNat y.toNat)

/-- `fmax.p` (R119). -/
def execFmaxP (m : Mods) (d a : Reg) (b : Src) (s : State) : Host.Outcome State Fault Refusal :=
  s.fp2 m d a b 0 (fun _ ftz _ x y => fp32.minmax false true ftz x.toNat y.toNat)

/-- `fabs` (R120). -/
def execFabs (m : Mods) (d a : Reg) (s : State) : Host.Outcome State Fault Refusal :=
  s.fp1 m d a 0 true (fun _ ftz _ x => fabsF ftz x)

/-- `fneg` (R120). -/
def execFneg (m : Mods) (d a : Reg) (s : State) : Host.Outcome State Fault Refusal :=
  s.fp1 m d a 0 true (fun _ ftz _ x => fnegF ftz x)

/-- `fcopysign` (R120). -/
def execFcopysign (m : Mods) (d a : Reg) (b : Src) (s : State) : Host.Outcome State Fault Refusal :=
  s.fp2 m d a b 0 (fun _ ftz _ x y => fcopysignF ftz x.toNat y.toNat)

/-- `fcmp.eq` (R121). -/
def execFcmpEq (m : Mods) (d : MaskReg) (a : Reg) (b : Src) (s : State) : Host.Outcome State Fault Refusal :=
  s.fpCmp m d a b false false (fun c => c == 0)

/-- `fcmp.lt` (R121). -/
def execFcmpLt (m : Mods) (d : MaskReg) (a : Reg) (b : Src) (s : State) : Host.Outcome State Fault Refusal :=
  s.fpCmp m d a b false true (fun c => decide (c < 0))

/-- `fcmp.le` (R121). -/
def execFcmpLe (m : Mods) (d : MaskReg) (a : Reg) (b : Src) (s : State) : Host.Outcome State Fault Refusal :=
  s.fpCmp m d a b false true (fun c => decide (c ≤ 0))

/-- `fcmp.un` (R121). -/
def execFcmpUn (m : Mods) (d : MaskReg) (a : Reg) (b : Src) (s : State) : Host.Outcome State Fault Refusal :=
  s.fpCmp m d a b true false (fun _ => true)

/-- `frnd` (R122). -/
def execFrnd (m : Mods) (d a : Reg) (s : State) : Host.Outcome State Fault Refusal :=
  s.fp1 m d a 1 true (fun mode ftz u x => frndF mode ftz u x)

/-- `fclass` (R123). -/
def execFclass (m : Mods) (d a : Reg) (s : State) : Host.Outcome State Fault Refusal :=
  s.fp1 m d a 0 false (fun _ _ _ x => fclassF x)

/-- `fscale` (R118). -/
def execFscale (m : Mods) (d a : Reg) (b : Src) (s : State) : Host.Outcome State Fault Refusal :=
  s.fp2 m d a b 1 (fun mode ftz u x y => fscaleF mode ftz u x.toNat y)

/-- `hadd2.bf` (R124). -/
def execHadd2Bf (m : Mods) (d a : Reg) (b : Src) (s : State) : Host.Outcome State Fault Refusal :=
  s.fpPair m d a b 2 (fun mode ftz u _ x y => bf16.add mode ftz u x y)

/-- `hmul2.bf` (R124). -/
def execHmul2Bf (m : Mods) (d a : Reg) (b : Src) (s : State) : Host.Outcome State Fault Refusal :=
  s.fpPair m d a b 2 (fun mode ftz u _ x y => bf16.mul mode ftz u x y)

/-- `hfma2.bf` (R124). -/
def execHfma2Bf (m : Mods) (d a : Reg) (b : Src) (s : State) : Host.Outcome State Fault Refusal :=
  s.fpPair m d a b 2 (fun mode ftz u z x y => bf16.fma mode ftz u z x y)

/-- `hdot2.bf` (R125). -/
def execHdot2Bf (m : Mods) (d a : Reg) (b : Src) (s : State) : Host.Outcome State Fault Refusal :=
  s.fpDot m d a b bf16 16 2

/-- `hadd2.hf` (R124). -/
def execHadd2Hf (m : Mods) (d a : Reg) (b : Src) (s : State) : Host.Outcome State Fault Refusal :=
  s.fpPair m d a b 2 (fun mode ftz u _ x y => fp16.add mode ftz u x y)

/-- `hmul2.hf` (R124). -/
def execHmul2Hf (m : Mods) (d a : Reg) (b : Src) (s : State) : Host.Outcome State Fault Refusal :=
  s.fpPair m d a b 2 (fun mode ftz u _ x y => fp16.mul mode ftz u x y)

/-- `hfma2.hf` (R124). -/
def execHfma2Hf (m : Mods) (d a : Reg) (b : Src) (s : State) : Host.Outcome State Fault Refusal :=
  s.fpPair m d a b 2 (fun mode ftz u z x y => fp16.fma mode ftz u z x y)

/-- `hdot2.hf` (R125). -/
def execHdot2Hf (m : Mods) (d a : Reg) (b : Src) (s : State) : Host.Outcome State Fault Refusal :=
  s.fpDot m d a b fp16 16 2

/-- `hmin2.bf` (R124). -/
def execHmin2Bf (m : Mods) (d a : Reg) (b : Src) (s : State) : Host.Outcome State Fault Refusal :=
  s.fpPair m d a b 0 (fun _ ftz _ _ x y => bf16.minmax true false ftz x y)

/-- `hmax2.bf` (R124). -/
def execHmax2Bf (m : Mods) (d a : Reg) (b : Src) (s : State) : Host.Outcome State Fault Refusal :=
  s.fpPair m d a b 0 (fun _ ftz _ _ x y => bf16.minmax false false ftz x y)

/-- `f8dot4.e4` (R125). -/
def execF8dot4E4 (m : Mods) (d a : Reg) (b : Src) (s : State) : Host.Outcome State Fault Refusal :=
  s.fpDot m d a b e4m3 8 4

/-- `f8dot4.e5` (R125). -/
def execF8dot4E5 (m : Mods) (d a : Reg) (b : Src) (s : State) : Host.Outcome State Fault Refusal :=
  s.fpDot m d a b e5m2 8 4

end Sys2Proof.Machine
end

