-- ==== Sys2Proof/Machine/Flags.lean ====
section
/-! DEFINITION. Completion flags and exception delivery: the flag an operation sets (R14, R68, R70), holding a word at issue,
and the test of `fpsum` at barriers and fences (R62). -/

namespace Sys2Proof.Machine

open Sys2Proof

/-- A flag field of the header of the packet being issued (R68): 15 where the party has no packet. -/
def Party.headerFlag (p : Party) (lo : Nat) : Nat :=
  match p.pos.words with
  | some (h :: _) => (h.extractLsb' lo 4).toNat
  | _ => 15
/-- The flag that operations of kind A set (R70). -/
def Party.flagA (p : Party) : Nat := p.headerFlag 12
/-- The flag that operations of kind B set (R70). -/
def Party.flagB (p : Party) : Nat := p.headerFlag 16

/-- Operations that set a flag have completed: its count falls by `n` (R14). -/
def Party.doneFlag (p : Party) (f n : Nat) : Party := { p with flags := sset 0 p.flags f (sget 0 p.flags f - n) }

/-- The word holds its group at issue: `retire` restores the state in which the group started (R62, R175, R211). -/
def State.stall (s : State) (p : Nat) : State := s.onParty p (fun x => { x with ctl := .stall })

/-- The party has an X-pipe operation outstanding (R130). -/
def State.sfuOpen (s : State) (p : Nat) : Bool := s.sfus.any (fun e => e.2.party == p)

/-- The enabled flags of `fpctl` that are set in `fpsum` (R62, R261): enables stand in bits 7 to 3. -/
def Party.fpEnabled (p : Party) : BitVec 5 := p.csr.fpctl.extractLsb' 3 5 &&& p.csr.fpsum.extractLsb' 0 5

/-- What barriers and fences do first (R62): wait for the party's outstanding X-pipe operations, then raise 0x18 when an
enabled flag is set. At supervisor level no exception is delivered (R273). -/
def State.deliverFp (s : State) (p : Nat) (x : Party) (go : State) : State :=
  if s.sfuOpen p then s.stall p
  else if x.csr.level == 0 && x.fpEnabled != 0 then s.raiseHere p 0x18 x.m0 (x.csr.fpsum.setWidth 64)
  else go

end Sys2Proof.Machine
end

