-- ==== Sys2Proof/Machine/Life.lean ====
section
/-! DEFINITION. Threads that wait and leave: divergence entries and `sync.p` (R25, R159), barrier instances (R16, R156), and the
retirement of parties, crews and grids (R26, R31). -/

namespace Sys2Proof.Machine

open Sys2Proof

/-! ### Divergence entries and `sync.p` (R25, R159) -/

/-- A masked fold of a sparse map over threads. -/
def setAll {α : Type} [DecidableEq α] (dflt : α) (w : Nat) (m : Mask) (v : α) (st : Sparse α) : Sparse α :=
  (threadsOf w m).foldl (fun st t => sset dflt st t v) st

/-- Every member of an entry has arrived or left (R25). -/
def DivEntry.complete (e : DivEntry) (alive : Mask) : Bool := (e.members &&& alive &&& ~~~ e.arrived) == 0

/-- The threads of `m` resume at `a`: where they wait at a `join` now, or in a shadow entry that keeps their wait (R273). -/
def Party.resumeJoin (p : Party) (m : Mask) (a : DWord) : Party :=
  let now := p.joinWait &&& m
  let q := { p.setPc now a with
    joinWait := p.joinWait &&& ~~~ m
    depth := (threadsOf p.width m).foldl (fun st t => sset 0 st t (sget 0 st t - 1)) p.depth }
  { q with shadow := q.shadow.map (fun e =>
      { e with tpc := setAll 0 p.width (e.joinWait &&& m) a e.tpc, joinWait := e.joinWait &&& ~~~ m }) }

/-- Pop every complete entry among `es` (R25): the surviving members become eligible at the packet after the join, and the
restart entry is no longer valid (R160). The entries that remain keep their order. -/
def Party.popDivs (p : Party) : List DivEntry → Party × List DivEntry
  | [] => (p, [])
  | e :: es =>
    let r := p.popDivs es
    if e.complete p.alive then
      ({ r.1.resumeJoin (e.members &&& p.alive) (nextPacket e.join) with idempc := none }, r.2)
    else (r.1, e :: r.2)

/-- Pop complete entries. -/
def Party.settleDivs (p : Party) : Party :=
  let r := p.popDivs p.divs
  { r.1 with divs := r.2 }

/-- The threads that wait in `sync.p`, those kept in the trap shadow included (R159, R273). -/
def Party.syncWaiting (p : Party) : Mask := p.shadow.foldl (fun m e => m ||| e.syncWait) p.syncWait

/-- Every thread named in the pending mask that has not left waits (R159). -/
def Party.syncReady (p : Party) : Bool :=
  match p.syncMask with
  | none => false
  | some m => (m &&& p.alive &&& ~~~ p.syncWaiting) == 0

/-- Release a complete `sync.p`: the waiting threads become eligible at the packet after their own and the mask clears. -/
def Party.settleSync (p : Party) : Party :=
  if p.syncReady then
    { p with syncWait := 0, syncMask := none, shadow := p.shadow.map (fun e => { e with syncWait := 0 }) }
  else p

/-- Threads leave the party (R26): they transfer out of the packet, and count as arrived for every entry that holds them. -/
def Party.leave (p : Party) (m : Mask) : Party :=
  { p with
    left := p.left ||| m
    leaving := p.leaving &&& ~~~ m
    joinWait := p.joinWait &&& ~~~ m
    syncWait := p.syncWait &&& ~~~ m
    pos := { p.pos with moved := p.pos.moved ||| m } }

/-! ### Barrier instances (R16, R155, R156) -/

/-- The extent of a barrier of a scope that a party's crew belongs to: its crew, quad, die or the whole launch (R16). -/
def Crew.extent (c : Crew) (crew scope : Nat) : Nat :=
  match scope with
  | 0 => crew
  | 1 => c.quad
  | 2 => dieOfQuad c.quad
  | _ => 0

/-- The number of a barrier instance: extent, scope and barrier number. -/
def barInstance (extent scope num : Nat) : Nat := (extent * 8 + scope) * 16 + num

/-- The parties of a launch in one extent, retired ones included: those of placed crews, then the number still unplaced. -/
def State.extentParties (s : State) (grid extent scope : Nat) : List Nat × Nat :=
  let ps := (s.crews.filter (fun (e : Nat × Crew) => e.2.grid == some grid && e.2.extent e.1 scope == extent)).flatMap
    (fun e => e.2.parties)
  let waiting := match sfind s.launches grid with
    | none => 0
    | some l => ((l.unplaced.filter (fun u => match scope with
        | 0 => false | 1 => u.1 == extent | 2 => dieOfQuad u.1 == extent | _ => true)).map (fun u => u.2.2)).sum
  (ps, waiting)

/-- The retired members of an extent. -/
def State.retiredMembers (s : State) (grid extent scope : Nat) : Nat :=
  ((s.extentParties grid extent scope).1.filter (fun p => (s.party? p).isNone)).length

/-- A fresh instance with the members of its extent. -/
def State.newBar (s : State) (grid extent scope : Nat) : BarInst :=
  let r := s.extentParties grid extent scope
  ⟨0, [], r.1.length + r.2, s.retiredMembers grid extent scope⟩

/-- A launch's barrier instance. -/
def State.bar (s : State) (grid inst : Nat) : BarInst :=
  let fresh := s.newBar grid (inst / 16 / 8) (inst / 16 % 8)
  match sfind s.launches grid with
  | none => fresh
  | some l => match sfind l.bars inst with | some b => b | none => fresh

/-- Open the next phase when the arrivals and retired members reach the member count (R156). -/
def BarInst.close (b : BarInst) : BarInst :=
  if b.arrived.length + b.retired < b.members || b.members = 0 then b else { b with phase := b.phase + 1, arrived := [] }

/-- Count the arrival of a party in the open phase. -/
def State.arrive (s : State) (grid inst p : Nat) : State :=
  let b := s.bar grid inst
  s.onLaunch grid (fun l => { l with bars := sput l.bars inst ({ b with arrived := b.arrived ++ [p] }.close) })

/-- A member retired: every instance it belongs to counts it from now on; an arrival it had made is counted with the retired
members alone. -/
def State.barsAfterRetire (s : State) (grid p : Nat) : State :=
  match sfind s.launches grid with
  | none => s
  | some l => s.onLaunch grid (fun l' => { l' with bars := l.bars.map (fun e =>
      let b := { e.2 with
        retired := s.retiredMembers grid (e.1 / 16 / 8) (e.1 / 16 % 8)
        arrived := e.2.arrived.filter (fun q => q != p) }
      (e.1, if b.retired = b.members then b else b.close)) })

/-! ### Retirement (R26, R31) -/

/-- Release what a crew owns on its core (R31); the items become claimable as their commands complete: envelope slots once the
unit has reached the place of the retirement in its queue. -/
def Core.release (c : Core) (crew : Nat) : Core :=
  { c with
    tiles := c.tiles.map (fun e => (e.1, if e.2.owner == some crew then { e.2 with owner := none } else e.2))
    mx := c.mx.map (fun e => (e.1, if e.2.owner == some crew then { e.2 with owner := none } else e.2))
    env := if c.envQ.isEmpty then c.env.map (fun e => (e.1, if e.2.owner == some crew then EnvSlot.reset else e.2)) else c.env
    envQ := if c.envQ.isEmpty || !c.env.any (fun e => e.2.owner == some crew) then c.envQ
      else c.envQ ++ [⟨0, crew, 0, false, 0, 12, .retire crew, .none, 0, false, []⟩] }

/-- A core without the entries that equal their reset values. -/
def Core.tidy (c : Core) : Core :=
  { c with
    tiles := c.tiles.filter (fun e => decide (e.2 ≠ Tile.reset))
    mx := c.mx.filter (fun e => decide (e.2 ≠ MxCtx.reset))
    env := c.env.filter (fun e => decide (e.2 ≠ EnvSlot.reset)) }

/-- The last party of a crew has retired (R31): its core's items are released and its undelivered fault records go to the
Logbook (R210). The crew's record stays until its grid ends, for barrier membership. -/
def State.retireCrew (s : State) (crew : Nat) : State :=
  match s.crew? crew with
  | none => s
  | some c =>
    let s := match c.core with
      | none => s
      | some k =>
        let lost := (s.core k).faults.filter (fun (f : EngFault) => f.crew == crew)
        let s := s.onCore k (fun x => { (x.release crew).tidy with
          faults := x.faults.filter (fun f => f.crew != crew), idleSince := some s.now })
        lost.foldl (fun (s : State) (f : EngFault) => s.log f.cause.toNat c.fe k (f.addr.setWidth 128)) s
    if c.grid.isNone then { s with crews := sdrop s.crews crew }
    else s.onCrew crew (fun c => { c with life := .retired })

/-- A party's last thread has left (R26, R31): the party is removed, its barriers count it, and its crew and grid follow. -/
def State.retireParty (s : State) (p : Nat) : State :=
  match s.party? p with
  | none => s
  | some x =>
    let s := { s with
      parties := sdrop s.parties p
      sfus := s.sfus.filter (fun (e : Nat × SfuOp) => e.2.party != p)
      cur := if s.cur == some p then none else s.cur }
    let s := match x.grid with
      | none => s
      | some g => (s.onLaunch g (fun l => { l with alive := l.alive - 1 })).barsAfterRetire g p
    match s.crew? x.crew with
    | none => s
    | some c => if c.parties.all (fun q => (s.party? q).isNone) then s.retireCrew x.crew else s

/-- What follows a group or a Steward's answer for a party: complete entries and `sync.p` sets release their threads, and a
party without threads retires. -/
def State.settle (s : State) (p : Nat) : State :=
  match s.party? p with
  | none => s
  | some x => if x.alive == 0 then s.retireParty p else s.setParty p x.settleDivs.settleSync

end Sys2Proof.Machine
end

