-- ==== Sys2Proof/Machine/Control.lean ====
section
/-! DEFINITION. Class 4: branches, calls, divergence, leaving, barriers, `sync.p`, restart entries and loops
(08_isa_permute_control.md, R148 to R161), and the counting of barrier arrivals. -/

namespace Sys2Proof.Machine

open Sys2Proof

/-! ### Transfers (R149, R67) -/

/-- Transfer threads to a code address (R149): they end their packet, and a refused target reports this group (R274). -/
def Party.goto (p : Party) (m : Mask) (a : DWord) : Party :=
  let q := p.setPc m a
  { q with xfer := setAll 0 p.width m p.here q.xfer, pos := { p.pos with moved := p.pos.moved ||| m } }

/-- Transfer each thread of a list to its own address. -/
def Party.gotoEach (p : Party) : List (Nat × DWord) → Party
  | [] => p
  | (t, a) :: ts => (p.goto (bitMask t) a).gotoEach ts

/-- The target of a packet offset (R67). -/
def Party.target (p : Party) {n : Nat} (off : BitVec n) : DWord := branchTarget p.pos.pkt off.toInt

/-- Transfer the threads `f` picks from m0 to a packet offset. -/
def State.branch (s : State) {n : Nat} (off : BitVec n) (f : Party → Mask) : Host.Outcome State Fault Refusal :=
  s.issue fun p x => s.setParty p (x.goto (f x) (x.target off))

/-- Push the return address of every active thread and transfer it (R152); 0x36 for the threads whose stack is full. -/
def State.callTo (s : State) (p : Nat) (x : Party) (ts : List (Nat × DWord)) : State :=
  let full := (ts.filter (fun e => decide (8 ≤ (sget [] x.calls e.1).length))).map (fun e => e.1)
  if full.isEmpty then
    let calls := ts.foldl (fun st e => sset [] st e.1 (nextPacket x.pos.pkt :: sget [] st e.1)) x.calls
    s.setParty p { (x.gotoEach ts) with calls := calls, idempc := none }
  else s.raiseHere p 0x36 (full.foldl (fun m t => setBit m t true) 0) 0

/-- `br` (R150). -/
def execBr (_m : Mods) (off : BitVec 21) (s : State) : Host.Outcome State Fault Refusal :=
  s.branch off (fun x => x.m0)

/-- `br.c` (R150): each thread of m0 whose bit in the mask is 1. -/
def execBrC (_m : Mods) (k : MaskReg) (off : BitVec 18) (s : State) : Host.Outcome State Fault Refusal :=
  s.branch off (fun x => x.m0 &&& x.mask k)

/-- `br.any` (R150). -/
def execBrAny (_m : Mods) (k : MaskReg) (off : BitVec 18) (s : State) : Host.Outcome State Fault Refusal :=
  s.branch off (fun x => if x.m0 &&& x.mask k = 0 then 0 else x.m0)

/-- `br.all` (R150). -/
def execBrAll (_m : Mods) (k : MaskReg) (off : BitVec 18) (s : State) : Host.Outcome State Fault Refusal :=
  s.branch off (fun x => if x.m0 &&& ~~~ x.mask k = 0 then x.m0 else 0)

/-- The entry of a jump table (R151): a base that is no code address stays as it is and is refused at fetch (log entry 17). -/
def tableEntry (base : DWord) (n : Nat) : DWord :=
  if base.extractLsb' 3 3 != 0 || decide (4 < (base.extractLsb' 0 3).toNat) then base else branchTarget base n

/-- `brx` (R151): 0x0D for the threads whose index reaches the bound. -/
def execBrx (m : Mods) (d : BitVec 7) (a b : Reg) (s : State) : Host.Outcome State Fault Refusal :=
  s.issue fun p x => s.alloc p x m [(b, 1)] <|
    let ts := (threadsOf x.width x.m0).map (fun t => (t, (x.reg32 t 0 b).toNat))
    let bad := (ts.filter (fun e => decide (d.toNat ≤ e.2))).map (fun e => e.1)
    if bad.isEmpty then s.setParty p (x.gotoEach (ts.map (fun e => (e.1, tableEntry (x.reg64 0 a) e.2))))
    else s.raiseHere p 0x0D (bad.foldl (fun w t => setBit w t true) 0) 0

/-- `call` (R152). -/
def execCall (_m : Mods) (off : BitVec 21) (s : State) : Host.Outcome State Fault Refusal :=
  s.issue fun p x => s.callTo p x ((threadsOf x.width x.m0).map (fun t => (t, x.target off)))

/-- `call.x` (R152). -/
def execCallX (m : Mods) (a : Reg) (s : State) : Host.Outcome State Fault Refusal :=
  s.issue fun p x => s.alloc p x m [(a, 2)] (s.callTo p x ((threadsOf x.width x.m0).map (fun t => (t, x.reg64 t a))))

/-- `ret` (R152): 0x36 for the threads whose stack is empty. -/
def execRet (_m : Mods) (s : State) : Host.Outcome State Fault Refusal :=
  s.issue fun p x =>
    let ts := threadsOf x.width x.m0
    let bad := ts.filter (fun t => (sget [] x.calls t).isEmpty)
    if bad.isEmpty then
      let calls := ts.foldl (fun st t => sset [] st t (sget [] st t).tail) x.calls
      s.setParty p { (x.gotoEach (ts.map (fun t => (t, (sget [] x.calls t).headD 0)))) with calls := calls, idempc := none }
    else s.raiseHere p 0x36 (bad.foldl (fun w t => setBit w t true) 0) 0

/-! ### Divergence (R25, R153) and leaving (R26, R154) -/

/-- `div` (R25, R153): 0x0C with 16 entries on the stack. -/
def execDiv (_m : Mods) (off : BitVec 18) (s : State) : Host.Outcome State Fault Refusal :=
  s.issue fun p x =>
    if 16 ≤ x.divs.length then s.raiseHere p 0x0C x.m0 0
    else s.setParty p { x with
      divs := ⟨x.target off, x.m0, 0⟩ :: x.divs
      depth := (threadsOf x.width x.m0).foldl (fun st t => sset 0 st t (sget 0 st t + 1)) x.depth
      idempc := none }

/-- The innermost entry that holds a thread (R153). -/
def heldBy (t : Nat) : List DivEntry → Option DivEntry
  | [] => none
  | e :: es => if bitOf e.members t && !bitOf e.arrived t then some e else heldBy t es

/-- Count a thread as arrived at its innermost entry. -/
def arriveAt (t : Nat) : List DivEntry → List DivEntry
  | [] => []
  | e :: es => if bitOf e.members t && !bitOf e.arrived t then { e with arrived := setBit e.arrived t true } :: es
    else e :: arriveAt t es

/-- `join` (R153): 0x1A for the threads that no entry holds or whose entry joins elsewhere. The entry pops when the group
retires (`State.settle`). -/
def execJoin (_m : Mods) (s : State) : Host.Outcome State Fault Refusal :=
  s.issue fun p x =>
    let ts := threadsOf x.width x.m0
    let bad := ts.filter (fun t => match heldBy t x.divs with | some e => e.join != x.pos.pkt | none => true)
    if bad.isEmpty then s.setParty p { x with
      divs := ts.foldl (fun es t => arriveAt t es) x.divs
      joinWait := x.joinWait ||| x.m0
      pos := { x.pos with moved := x.pos.moved ||| x.m0 } }
    else s.raiseHere p 0x1A (bad.foldl (fun w t => setBit w t true) 0) 0

/-- The end request of an exiting thread of a plan party (R203): the handle and intention word it runs. -/
def State.endRequest (s : State) (p : Nat) (x : Party) (t : Nat) : State :=
  match sfind x.runs t with
  | none => s
  | some r =>
    if bitOf x.detached t then s
    else
      let n := s.fresh
      { n.2 with reqs := sput n.2.reqs n.1 {
          fe := x.fe, party := p, lane := x.lane, thread := t, uniform := false, owners := [], va := 0, pieces := [],
          kind := .agent .exitEnd (BitVec.ofNat 32 r.1) (BitVec.ofNat 32 r.2), dest := .none, flag := none, win := false,
          rel := false, acq := false, pod := false, held := false, phase := .sent, issued := s.now } }

/-- `exit` (R154, R203): the active threads leave, their regions end, and the threads of a plan party send their end requests.
The party retires with its last thread when the group retires. -/
def execExit (_m : Mods) (s : State) : Host.Outcome State Fault Refusal :=
  s.issue fun p x =>
    let ts := threadsOf x.width x.m0
    let s := ts.foldl (fun s t => s.endRequest p x t) s
    (s.setParty p { x.leave x.m0 with idempc := none }).endRegions p ts

/-! ### Waiting for a thread's own earlier operations (R175, R179) -/

/-- What a synchronising operation of the threads `ts` waits for: an `mbx.st` of theirs that has not performed, parked (R179);
and, when it releases, the acknowledgement of their writes, held (R175, R181). -/
def State.whenSynced (s : State) (p : Nat) (x : Party) (ts : List Nat) (rel pod : Bool) (go : State) : State :=
  if s.mbxStOpen p ts then s.setParty p { x with park := .mbxStore, parkedAt := s.now }
  else if rel && s.writesOpen p ts pod then s.stall p
  else go

/-! ### Barriers (R155 to R158) -/

/-- A barrier operation on an instance: the party's place in it. -/
structure BarAt where
  grid : Nat
  inst : Nat
  key : Nat
  phase : Nat
  /-- The phase the party arrived in, when it is in state arrived (R156). -/
  arrived : Option Nat
  deriving DecidableEq, Repr

/-- Where a party stands at a barrier of a scope and number (R155, R156). -/
def State.barAt (s : State) (x : Party) (scope num : Nat) : Option BarAt :=
  match x.grid, s.crew? x.crew with
  | some g, some c =>
    let inst := barInstance (c.extent x.crew scope) scope num
    let key := 16 * scope + num
    some ⟨g, inst, key, (s.bar g inst).phase, match sget 0 x.bars key with | 0 => none | n + 1 => some n⟩
  | _, _ => none

/-- The party is in state arrived(p) with phase p open (R156). -/
def BarAt.waiting (b : BarAt) : Bool := match b.arrived with | some n => b.phase ≤ n | none => false

/-- The widest scope of a party's launch (R17). -/
def State.widest (s : State) (x : Party) : Nat :=
  match x.grid with | some g => (match sfind s.launches g with | some l => l.desc.scope | none => 0) | none => 0

/-- Run a barrier instruction after R62 and the checks of R158: 0x1A when a thread is missing, the scope is too wide or the
party is a plan party. -/
def State.barrier (s : State) (scope : BitVec 3) (num : BitVec 4) (sync : Bool) (go : Nat → Party → BarAt → State) :
    Host.Outcome State Fault Refusal :=
  s.issue fun p x => s.deliverFp p x <|
    match s.barAt x scope.toNat num.toNat with
    | none => s.raiseHere p 0x1A x.m0 0
    | some b =>
      if x.plan || x.alive != x.m0 || decide (s.widest x < scope.toNat) then s.raiseHere p 0x1A x.m0 0
      else if sync && s.mbxStOpen p (threadsOf x.width x.m0) then
        s.setParty p { x with park := .mbxStore, parkedAt := s.now }
      else go p x b

/-- An ordinary arrival (R157): the region ends, and the arrival is counted by BARRIER_ARRIVAL_COUNT. -/
def State.arriveOrdinary (s : State) (p : Nat) (x : Party) (b : BarAt) (scope : Nat) : State :=
  let s := s.setParty p { x with bars := sset 0 x.bars b.key (b.phase + 1), idempc := none }
  let s := s.endRegions p (threadsOf x.width x.m0)
  let n := s.fresh
  { n.2 with arrivals := sput n.2.arrivals n.1 ⟨p, b.inst, scope, n.2.openWrites p⟩ }

/-- A wait that has completed (R156, R157): the party is not-arrived and its region ends. -/
def State.barrierDone (s : State) (p key : Nat) : State :=
  match s.party? p with
  | none => s
  | some x =>
    let x := { x with bars := sset 0 x.bars key 0, park := .none, idempc := none }
    let x := if 64 ≤ key then { x with rcCopies := [] } else x
    (s.setParty p x).endRegions p (threadsOf x.width x.alive)

/-- Park on a phase of an instance (R156). -/
def State.parkAt (s : State) (p : Nat) (b : BarAt) (phase : Nat) : State :=
  s.onParty p (fun x => { x with park := .barrier b.inst phase, parkedAt := s.now, idempc := none })

/-- `bar.arr` (R156, R157). -/
def execBarArr (_m : Mods) (scope : BitVec 3) (num : BitVec 4) (s : State) : Host.Outcome State Fault Refusal :=
  s.barrier scope num true fun p x b =>
    if b.waiting then s.raiseHere p 0x1A x.m0 0 else s.arriveOrdinary p x b scope.toNat

/-- `bar.arr.rlx` (R156, R157): counted at once; the region does not end and nothing is released. -/
def execBarArrRlx (_m : Mods) (scope : BitVec 3) (num : BitVec 4) (s : State) : Host.Outcome State Fault Refusal :=
  s.barrier scope num false fun p x b =>
    if b.waiting then s.raiseHere p 0x1A x.m0 0
    else (s.setParty p { x with bars := sset 0 x.bars b.key (b.phase + 1), idempc := none }).arrive b.grid b.inst p

/-- `bar.wait` (R156, R157): parks until the phase completes. -/
def execBarWait (_m : Mods) (scope : BitVec 3) (num : BitVec 4) (s : State) : Host.Outcome State Fault Refusal :=
  s.barrier scope num true fun p x b =>
    match b.arrived with
    | none => s.raiseHere p 0x1A x.m0 0
    | some n => if b.waiting then s.parkAt p b n else s.barrierDone p b.key

/-- `bar.sync` (R156, R157): an arrival, then a wait for its phase. -/
def execBarSync (_m : Mods) (scope : BitVec 3) (num : BitVec 4) (s : State) : Host.Outcome State Fault Refusal :=
  s.barrier scope num true fun p x b =>
    if b.waiting then s.raiseHere p 0x1A x.m0 0 else (s.arriveOrdinary p x b scope.toNat).parkAt p b b.phase

/-- BARRIER_ARRIVAL_COUNT (R157): an ordinary arrival is counted once the writes before it are acknowledged; the phase may
complete (R156). -/
def execBarrierArrivalCount (arr : Nat) (s : State) : Host.Outcome State Fault Refusal :=
  State.event (match sfind s.arrivals arr with
  | none => s
  | some a => match s.party? a.party with
    | none => { s with arrivals := sdrop s.arrivals arr }
    | some x =>
      if a.after.any (fun r => (s.openWrites a.party).contains r) then s
      else match x.grid with
      | none => s
      | some g => ({ s with arrivals := sdrop s.arrivals arr }).arrive g a.inst a.party)

/-! ### `sync.p`, restart entries, loops (R159 to R161) -/

/-- The mask of the pending set of `sync.p`: the one that is pending, or the lowest executing thread's (R159). -/
def Party.syncTarget (p : Party) (a : Reg) : Mask :=
  match p.syncMask with
  | some m => m
  | none => match threadsOf p.width p.m0 with | t :: _ => p.reg64 t a | [] => 0

/-- The threads of m0 whose mask fails a test of R159. -/
def Party.syncBad (p : Party) (a : Reg) : List Nat :=
  (threadsOf p.width p.m0).filter (fun t =>
    let m := p.reg64 t a
    m != p.syncTarget a || !bitOf m t || (m &&& ~~~ p.all) != 0)

/-- `sync.p` (R159): the threads wait; the set is released when the group retires (`State.settle`). 0x1B for the threads whose
mask fails a test. -/
def execSyncP (m : Mods) (a : Reg) (s : State) : Host.Outcome State Fault Refusal :=
  s.issue fun p x => s.alloc p x m [(a, 2)] <|
    let ts := threadsOf x.width x.m0
    let bad := x.syncBad a
    if bad.isEmpty then s.whenSynced p x ts true false <|
      let y := x.setPc x.m0 (nextPacket x.pos.pkt)
      (s.setParty p { y with
        syncMask := some (x.syncTarget a)
        syncWait := x.syncWait ||| x.m0
        syncAt := x.here
        syncLast := x.m0
        idempc := none
        pos := { x.pos with moved := x.pos.moved ||| x.m0 } }).endRegions p ts
    else s.raiseHere p 0x1B (bad.foldl (fun w t => setBit w t true) 0) (x.syncTarget a)

/-- `idem` (R160). -/
def execIdem (_m : Mods) (s : State) : Host.Outcome State Fault Refusal :=
  s.issue fun p x => s.setParty p { x with
    idempc := if x.alive == x.m0 then some (nextPacket x.pos.pkt) else none
    rc := 0 }

/-- `nop` (R161). -/
def execNop (_m : Mods) (s : State) : Host.Outcome State Fault Refusal :=
  s.issue fun _ _ => s

/-- `loop` (R161): the counter falls by one once; the threads of m0 go to the target while it is not 0. -/
def execLoop (_m : Mods) (c : BitVec 3) (off : BitVec 18) (s : State) : Host.Outcome State Fault Refusal :=
  s.issue fun p x =>
    let n := 24 + c.toNat
    let v := sget 0 x.src.u n - 1
    let y := x.setU n v
    s.setParty p (if v = 0 then y else y.goto x.m0 (x.target off))

end Sys2Proof.Machine
end

