-- ==== Sys2Proof/Machine/Memory.lean ====
section
/-! DEFINITION. Class 3 at the lane: addresses, the checks made before any request leaves, loads, stores, atomics, reductions,
fences, naps and mailbox instructions (09_isa_memory.md, R163 to R179). What a home does with a request is in Home.lean. -/

namespace Sys2Proof.Machine

open Sys2Proof

/-! ### Addresses and checks (R163, R169) -/

/-- The effective address of a thread (R163). -/
def Party.ea (p : Party) (t : Nat) (a : Reg) (off : Off) (unit : Nat) : DWord :=
  p.reg64 t a + (match off with | .units n => BitVec.ofInt 64 (n.toInt * unit) | .bytes w => w.signExtend 64)

/-- What an access is to the page-kind check of R169. -/
inductive AccClass where
  | plain | atomic | mailbox
  deriving DecidableEq, Repr

/-- The shape of an access (R164): size, whether it must be aligned, whether it writes, and its class. -/
structure Acc where
  size : Nat
  aligned : Bool
  write : Bool
  cls : AccClass
  deriving DecidableEq, Repr

/-- The page-kind check (R29, R169, R172, R178, R377): the cause, if the page refuses the access. -/
def pageRefuses (fe : Nat) (k : PageKind) (a : Acc) : Option (BitVec 6) :=
  match k with
  | .agent => some 0x10
  | .window none => some 0x12
  | .window (some w) => match a.cls with
    | .atomic => some 0x17
    | _ => if a.write && fe != w.owner && !w.write then some 0x12 else none
  | .tier2 | .remote => if a.cls == .mailbox then some 0x30 else none
  | .device => none

/-- The virtual pieces of an access: two for a 4-byte access that spans two granules (R167). -/
def Acc.parts (a : Acc) (va : DWord) : List (DWord × Nat) :=
  let r := va.toNat % 4
  if !a.aligned && a.size == 4 && r != 0 then [(va, 4 - r), (va + BitVec.ofNat 64 (4 - r), r)] else [(va, a.size)]

/-- Translate every piece: the first failure, or the physical pieces and the kind of the page of the first. -/
def State.pieces (s : State) (x : Party) (w : Want) : List (DWord × Nat) →
    Except (BitVec 6) (List (Nat × Nat) × List PageKind)
  | [] => .ok ([], [])
  | (va, n) :: ps =>
    match s.reach x.fe (quadOfCore (coreOfLane x.lane)) w va with
    | .error c => .error c
    | .ok t => match s.pieces x w ps with
      | .error c => .error c
      | .ok r => .ok ((t.pa, n) :: r.1, s.pageKind x.fe t :: r.2)

/-- What the lane's checks give for one thread: a cause with its place in the order of R169, or the physical pieces and whether
the page is a window. -/
inductive Checked where
  | bad (rank : Nat) (cause : BitVec 6)
  | ok (pieces : List (Nat × Nat)) (win remote : Bool)
  deriving DecidableEq, Repr

/-- The checks of R169 for one address, in order: canonical form and translation, alignment, page kind. -/
def State.check (s : State) (x : Party) (a : Acc) (va : DWord) : Checked :=
  match s.pieces x ⟨a.write, false, x.user⟩ (a.parts va) with
  | .error c => .bad (c.toNat - 0x0F) c
  | .ok r =>
    if a.aligned && va.toNat % a.size != 0 then .bad 3 0x0E
    else match r.2.filterMap (fun k => pageRefuses x.fe k a) with
    | c :: _ => .bad (4 + c.toNat) c
    | [] => .ok r.1 (r.2.any (fun k => match k with | .window _ => true | _ => false)) (r.2.contains .remote)

/-- The cause of a failed instruction: that of the check that comes first (R272). -/
def firstCause : List (Nat × BitVec 6) → Option (Nat × BitVec 6)
  | [] => none
  | (r, c) :: es => match firstCause es with
    | none => some (r, c)
    | some e => some (if r ≤ e.1 then (r, c) else e)

/-- Raise what the lane's checks found (R169, R272, R275): every failing thread, with its address. -/
def State.raiseLane (s : State) (p : Nat) (x : Party) (uniform write : Bool) (bad : List (Nat × DWord × Nat × BitVec 6)) : State :=
  match firstCause (bad.map (fun e => e.2.2)) with
  | none => s
  | some (_, c) =>
    let ts := if uniform then threadsOf x.width x.pos.m0 else bad.map (fun e => e.1)
    let at_ := fun t => match bad.find? (fun e => e.1 == t || uniform) with | some e => e.2.1 | none => 0
    s.raise p (x.trapHere x.pos.m0 c (ts.foldl (fun m t => setBit m t true) 0)
      (ts.foldl (fun st t => sset 0 st t (at_ t)) []) (if write then 1 else 0))

/-- The failing threads of a list of checked addresses. -/
def failures : List (Nat × DWord × Checked) → List (Nat × DWord × Nat × BitVec 6)
  | [] => []
  | (t, va, .bad r c) :: es => (t, va, r, c) :: failures es
  | (_, _, .ok _ _ _) :: es => failures es

/-! ### Requests (R272) -/

/-- Fields of a request that do not depend on the thread. -/
structure Send where
  flag : Option Nat
  rel : Bool
  acq : Bool
  pod : Bool
  deriving DecidableEq, Repr

/-- The threads a request counts for (R295): one thread, or every thread that has not left for a uniform access. -/
def Party.owners (p : Party) (uniform : Bool) (t : Nat) : List (Nat × Nat) :=
  if uniform then (threadsOf p.width p.alive).map (fun t => (t, p.regionOf t)) else [(t, p.regionOf t)]

/-- Send one request; the party waits for its acceptance, and the flag is set for it. -/
def State.send (s : State) (p : Nat) (f : Send) (t : Nat) (uniform : Bool) (va : DWord) (pieces : List (Nat × Nat)) (win : Bool)
    (kind : ReqKind) (dest : Dest) : State :=
  match s.party? p with
  | none => s
  | some x =>
    let n := s.fresh
    let y := { x with ctl := .await, waitReqs := x.waitReqs + 1 }
    let y := match f.flag with | some k => y.addFlag k | none => y
    { n.2.setParty p y with reqs := sput n.2.reqs n.1 {
        fe := x.fe, party := p, lane := x.lane, thread := t, uniform := uniform, owners := x.owners uniform t, va := va,
        pieces := pieces, kind := kind, dest := dest, flag := f.flag, win := win, rel := f.rel, acq := f.acq, pod := f.pod,
        held := true, phase := .sent, issued := s.now } }

/-- The requests of the checked threads, in ascending thread order. -/
def State.sendAll (s : State) (p : Nat) (f : Send) (uniform : Bool) (kind : Nat → Bool → ReqKind) (dest : Dest) :
    List (Nat × DWord × Checked) → State
  | [] => s
  | (t, va, .ok ps win remote) :: es =>
    (s.send p f t uniform va ps win (kind t remote) dest).sendAll p f uniform kind dest es
  | (_, _, .bad _ _) :: es => s.sendAll p f uniform kind dest es

/-- The threads a class-3 word serves with their addresses: one entry for a uniform form (R165, R166, R172). -/
def Party.served (p : Party) (m : Mods) (uniform : Bool) : List Nat :=
  if uniform then [match threadsOf p.width p.pos.m0 with | t :: _ => t | [] => 0] else threadsOf p.width (p.selected m)

/-- A class-3 access: allocation, the lane's checks, then `go` with the checked addresses. -/
def State.access (s : State) (m : Mods) (uniform : Bool) (regs : List (Reg × Nat)) (a : Acc)
    (va : Party → Nat → DWord) (go : Nat → Party → List (Nat × DWord × Checked) → State) :
    Host.Outcome State Fault Refusal :=
  s.issue fun p x => s.alloc p x (Mods.once m) regs <|
    let cs := (x.served m uniform).map (fun t => (t, va x t, s.check x a (va x t)))
    let bad := failures cs
    if bad.isEmpty then go p x cs else s.raiseLane p x uniform a.write bad

/-- The zero policy of a load: the threads of m0 that are not selected read 0 (R81). -/
def Party.zeroRun (p : Party) (m : Mods) (d : Reg) (n : Nat) : Party :=
  match d with
  | .s _ => p
  | .v r => (threadsOf p.width (p.zeroed m)).foldl (fun q t => q.setRun t (p.base + r.val) 0 n) p

/-- Where a result of `n` registers goes. -/
def Party.destOf (p : Party) (d : Reg) (n : Nat) : Dest :=
  match d with | .s k => .uni k.val | .v k => .vec (p.base + k.val) n

/-- Whether a register operand names a uniform register. -/
def Reg.uniform : Reg → Bool
  | .s _ => true
  | .v _ => false

/-- Registers of an access of a size. -/
def regsOf (size : Nat) : Nat := if size ≤ 4 then 1 else size / 4

/-- A load (R165, R167, R170). -/
def State.load (s : State) (m : Mods) (d a : Reg) (off : Off) (size unit : Nat) (aligned : Bool)
    (kind : Bool → ReqKind) : Host.Outcome State Fault Refusal :=
  s.access m (Reg.uniform d) [(d, regsOf size), (a, 2)] ⟨size, aligned, false, .plain⟩ (fun x t => x.ea t a off unit)
    (fun p x cs => (s.setParty p (x.zeroRun m d (regsOf size))).sendAll p ⟨some x.flagA, false, false, false⟩
      (Reg.uniform d) (fun _ remote => kind remote) (x.destOf d (regsOf size)) cs)

/-- The low bytes a store writes: a register, a pair or a run of four, lowest first (R166). -/
def Party.storeData (p : Party) (t : Nat) (d : Reg) (size : Nat) : Nat :=
  match d with
  | .s _ => (p.reg64 t d).toNat % 2 ^ (8 * size)
  | .v _ => wordsNat ((List.range (regsOf size)).map (fun k => p.reg32 t k d)) % 2 ^ (8 * size)

/-- A store (R166, R167). -/
def State.store (s : State) (m : Mods) (d a : Reg) (off : Off) (size : Nat) (aligned : Bool) :
    Host.Outcome State Fault Refusal :=
  s.access m (Reg.uniform d) [(d, regsOf size), (a, 2)] ⟨size, aligned, true, .plain⟩ (fun x t => x.ea t a off size)
    (fun p x cs => s.sendAll p ⟨none, false, false, false⟩ (Reg.uniform d)
      (fun t _ => .store size (x.storeData t d size)) .none cs)

/-! ### Orders and scopes (R79, R175, R314) -/

/-- The order code of a class-3 word. -/
def orderOf (m : Mods) : BitVec 3 := match m.pre with | some q => q.rnd | none => 0
/-- The scope code of a class-3 word. -/
def scopeOf (m : Mods) : BitVec 3 := match m.pre with | some q => q.rep | none => 0
/-- The order releases. -/
def releases (o : BitVec 3) : Bool := o.getLsbD 1
/-- The order acquires. -/
def acquires (o : BitVec 3) : Bool := o.getLsbD 0

/-- Narrowing (R175, R264, R314): pod scope in a limited lodging acts at tenant scope and sets the narrowed bit, or raises
0x1C when the trap bit is set. `acts` says whether the scope has an effect (log entry 18). -/
def State.narrow (s : State) (p : Nat) (x : Party) (acts : Bool) (m : Mods) (go : State → State) : State :=
  let pol := (s.lod x.fe).scopepol
  if acts && scopeOf m == 4 && pol.getLsbD 0 then
    if pol.getLsbD 1 then s.raiseHere p 0x1C (x.selected m) 0
    else go (s.onLod x.fe (fun l => { l with scopepol := l.scopepol ||| 0x100 }))
  else go s

/-- Pod and tenant scope drain remote writes and drop `ld.rc` copies (R175, R314). -/
def podScope (m : Mods) : Bool := 4 ≤ (scopeOf m).toNat

/-- A synchronising operation ends the region of the threads it serves (R293), and no restart entry survives it (R160). -/
def State.endSync (s : State) (p : Nat) (ts : List Nat) (dropCopies : Bool) : State :=
  (s.onParty p (fun x => { x with idempc := none, rcCopies := if dropCopies then [] else x.rcCopies })).endRegions p ts

/-- The threads whose region a word ends. -/
def Party.syncThreads (p : Party) (m : Mods) (uniform : Bool) : List Nat :=
  threadsOf p.width (if uniform then p.m0 else p.selected m)

/-- An atomic or reduction (R172 to R175): a release waits for the threads' earlier writes; an order other than rlx ends their
regions. -/
def State.atomic (s : State) (m : Mods) (uniform : Bool) (regs : List (Reg × Nat)) (a : Reg) (size : Nat)
    (flag : Party → Option Nat) (kind : Party → Nat → ReqKind) (dest : Party → Dest) : Host.Outcome State Fault Refusal :=
  let o := orderOf m
  s.access m uniform regs ⟨size, true, true, .atomic⟩ (fun x t => x.reg64 t a) (fun p x cs =>
    s.narrow p x (o != 0) m fun s =>
      let ts := x.syncThreads m uniform
      let go := fun (s : State) =>
        s.sendAll p ⟨flag x, releases o, acquires o, podScope m⟩ uniform (fun t _ => kind x t) (dest x) cs
      if o = 0 then go s
      else s.whenSynced p x ts (releases o) (podScope m) (go (s.endSync p ts false)))

/-- An atomic with a 32-bit operand (R173). -/
def State.atom32 (s : State) (m : Mods) (op : AtomOp) (d a : Reg) (b c : Src) : Host.Outcome State Fault Refusal :=
  s.atomic m (Reg.uniform d) ([(d, 1), (a, 2)] ++ srcRun b 1 ++ srcRun c 1) a 4 (fun x => some x.flagA)
    (fun x t => .atom op ((x.src32 t 0 b).setWidth 64) ((x.src32 t 0 c).setWidth 64)) (fun x => x.destOf d 1)

/-- A reduction (R174): no destination and no flag. -/
def State.redm (s : State) (m : Mods) (op : AtomOp) (a : Reg) (b : Src) : Host.Outcome State Fault Refusal :=
  s.atomic m false ([(a, 2)] ++ srcRun b 1) a 4 (fun _ => none)
    (fun x t => .atom op ((x.src32 t 0 b).setWidth 64) 0) (fun _ => .none)

/-- A mailbox instruction (R179): it ends the thread's region; a store releases before it performs. -/
def State.mailbox (s : State) (m : Mods) (d a : Reg) (off : Off) (n : Nat) (write acts : Bool) (flag : Party → Option Nat)
    (kind : Party → Nat → ReqKind) (dest : Party → Dest) : Host.Outcome State Fault Refusal :=
  s.access m (Reg.uniform d) [(d, n), (a, 2)] ⟨8, true, write, .mailbox⟩ (fun x t => x.ea t a off 8) (fun p x cs =>
    s.narrow p x acts m fun s =>
      let ts := x.syncThreads m (Reg.uniform d)
      s.whenSynced p x ts write (podScope m)
        ((s.endSync p ts false).sendAll p ⟨flag x, write, !write && acts, podScope m⟩ (Reg.uniform d) (fun t _ => kind x t)
          (dest x) cs))

/-! ### Meanings -/

/-- `ld.8` (R165). -/
def execLd8 (m : Mods) (d a : Reg) (b : Off) (s : State) : Host.Outcome State Fault Refusal :=
  s.load m d a b 1 1 true (fun _ => .load 1 false)

/-- `ld.8s` (R165). -/
def execLd8s (m : Mods) (d a : Reg) (b : Off) (s : State) : Host.Outcome State Fault Refusal :=
  s.load m d a b 1 1 true (fun _ => .load 1 true)

/-- `ld.16` (R165). -/
def execLd16 (m : Mods) (d a : Reg) (b : Off) (s : State) : Host.Outcome State Fault Refusal :=
  s.load m d a b 2 2 true (fun _ => .load 2 false)

/-- `ld.16s` (R165). -/
def execLd16s (m : Mods) (d a : Reg) (b : Off) (s : State) : Host.Outcome State Fault Refusal :=
  s.load m d a b 2 2 true (fun _ => .load 2 true)

/-- `ld.32` (R165). -/
def execLd32 (m : Mods) (d a : Reg) (b : Off) (s : State) : Host.Outcome State Fault Refusal :=
  s.load m d a b 4 4 true (fun _ => .load 4 false)

/-- `ld.64` (R165). -/
def execLd64 (m : Mods) (d a : Reg) (b : Off) (s : State) : Host.Outcome State Fault Refusal :=
  s.load m d a b 8 8 true (fun _ => .load 8 false)

/-- `ld.128` (R165). -/
def execLd128 (m : Mods) (d a : Reg) (b : Off) (s : State) : Host.Outcome State Fault Refusal :=
  s.load m d a b 16 16 true (fun _ => .load 16 false)

/-- `st.8` (R166). -/
def execSt8 (m : Mods) (d a : Reg) (b : Off) (s : State) : Host.Outcome State Fault Refusal :=
  s.store m d a b 1 true

/-- `st.16` (R166). -/
def execSt16 (m : Mods) (d a : Reg) (b : Off) (s : State) : Host.Outcome State Fault Refusal :=
  s.store m d a b 2 true

/-- `st.32` (R166). -/
def execSt32 (m : Mods) (d a : Reg) (b : Off) (s : State) : Host.Outcome State Fault Refusal :=
  s.store m d a b 4 true

/-- `st.64` (R166). -/
def execSt64 (m : Mods) (d a : Reg) (b : Off) (s : State) : Host.Outcome State Fault Refusal :=
  s.store m d a b 8 true

/-- `st.128` (R166). -/
def execSt128 (m : Mods) (d a : Reg) (b : Off) (s : State) : Host.Outcome State Fault Refusal :=
  s.store m d a b 16 true

/-- `ld.u` (R167). -/
def execLdU (m : Mods) (d a : Reg) (b : Off) (s : State) : Host.Outcome State Fault Refusal :=
  s.load m d a b 4 4 false (fun _ => .load 4 false)

/-- `st.u` (R167). -/
def execStU (m : Mods) (d a : Reg) (b : Off) (s : State) : Host.Outcome State Fault Refusal :=
  s.store m d a b 4 false

/-- `ld.rc` (R170): a copy of the line on a remote pod page, else as `ld.32`. -/
def execLdRc (m : Mods) (d a : Reg) (b : Off) (s : State) : Host.Outcome State Fault Refusal :=
  s.load m d a b 4 4 true (fun remote => if remote then .rcLoad else .load 4 false)

/-- Bring a line into the cellar (R171, R329): a line of this package that is not there comes in clean. -/
def State.prefetch (s : State) (pa : Nat) : State :=
  if pa / 2 ^ 44 != s.pkg.number then s
  else match sget none s.mem.cellar (pa / 64) with
    | some _ => s
    | none => { s with mem := { s.mem with cellar := sset none s.mem.cellar (pa / 64) (some ⟨false, false⟩) } }

/-- `pf` (R171): a thread whose address fails a check of R169 is dropped. -/
def execPf (m : Mods) (a : Reg) (b : Off) (s : State) : Host.Outcome State Fault Refusal :=
  s.issue fun p x => s.alloc p x (Mods.once m) [(a, 2)] <|
    (threadsOf x.width (x.selected m)).foldl (fun s t =>
      match s.check x ⟨64, false, false, .plain⟩ (x.ea t a b 64) with
      | .ok ((pa, _) :: _) _ _ => s.prefetch pa
      | _ => s) s

/-- `atom.add` (R173). -/
def execAtomAdd (m : Mods) (d a : Reg) (b : Src) (s : State) : Host.Outcome State Fault Refusal :=
  s.atom32 m .add d a b (.lit 0)

/-- `atom.min.i` (R173). -/
def execAtomMinI (m : Mods) (d a : Reg) (b : Src) (s : State) : Host.Outcome State Fault Refusal :=
  s.atom32 m .minI d a b (.lit 0)

/-- `atom.max.i` (R173). -/
def execAtomMaxI (m : Mods) (d a : Reg) (b : Src) (s : State) : Host.Outcome State Fault Refusal :=
  s.atom32 m .maxI d a b (.lit 0)

/-- `atom.min.n` (R173). -/
def execAtomMinN (m : Mods) (d a : Reg) (b : Src) (s : State) : Host.Outcome State Fault Refusal :=
  s.atom32 m .minN d a b (.lit 0)

/-- `atom.max.n` (R173). -/
def execAtomMaxN (m : Mods) (d a : Reg) (b : Src) (s : State) : Host.Outcome State Fault Refusal :=
  s.atom32 m .maxN d a b (.lit 0)

/-- `atom.and` (R173). -/
def execAtomAnd (m : Mods) (d a : Reg) (b : Src) (s : State) : Host.Outcome State Fault Refusal :=
  s.atom32 m .and d a b (.lit 0)

/-- `atom.or` (R173). -/
def execAtomOr (m : Mods) (d a : Reg) (b : Src) (s : State) : Host.Outcome State Fault Refusal :=
  s.atom32 m .or d a b (.lit 0)

/-- `atom.xor` (R173). -/
def execAtomXor (m : Mods) (d a : Reg) (b : Src) (s : State) : Host.Outcome State Fault Refusal :=
  s.atom32 m .xor d a b (.lit 0)

/-- `atom.xch` (R173). -/
def execAtomXch (m : Mods) (d a : Reg) (b : Src) (s : State) : Host.Outcome State Fault Refusal :=
  s.atom32 m .xch d a b (.lit 0)

/-- `atom.fadd` (R173). -/
def execAtomFadd (m : Mods) (d a : Reg) (b : Src) (s : State) : Host.Outcome State Fault Refusal :=
  s.atom32 m .fadd d a b (.lit 0)

/-- `atom.cas` (R173): c is the new value. -/
def execAtomCas (m : Mods) (d a : Reg) (b c : Src) (s : State) : Host.Outcome State Fault Refusal :=
  s.atom32 m .cas d a b c

/-- `atom.add64` (R173). -/
def execAtomAdd64 (m : Mods) (d a : Reg) (b : Src) (s : State) : Host.Outcome State Fault Refusal :=
  s.atomic m (Reg.uniform d) ([(d, 2), (a, 2)] ++ srcRun b 2) a 8 (fun x => some x.flagA)
    (fun x t => .atom .add64 (x.src64 t b) 0) (fun x => x.destOf d 2)

/-- `redm.add` (R174). -/
def execRedmAdd (m : Mods) (a : Reg) (b : Src) (s : State) : Host.Outcome State Fault Refusal :=
  s.redm m .add a b

/-- `redm.fadd` (R174). -/
def execRedmFadd (m : Mods) (a : Reg) (b : Src) (s : State) : Host.Outcome State Fault Refusal :=
  s.redm m .fadd a b

/-- `redm.max` (R174). -/
def execRedmMax (m : Mods) (a : Reg) (b : Src) (s : State) : Host.Outcome State Fault Refusal :=
  s.redm m .maxI a b

/-- `fence` (R175, R176): rlx acts as ar. -/
def execFence (m : Mods) (s : State) : Host.Outcome State Fault Refusal :=
  let o : BitVec 3 := if orderOf m = 0 then 3 else orderOf m
  s.issue fun p x => s.deliverFp p x <| s.narrow p x true m fun s =>
    let ts := threadsOf x.width (x.selected m)
    s.whenSynced p x ts (releases o) (podScope m) (s.endSync p ts (acquires o && podScope m))

/-- The smallest nonzero timeout of a list (R177). -/
def napTimeout (ws : List Nat) : Option Nat :=
  ws.foldl (fun m w => if w = 0 then m else match m with | none => some w | some v => some (min v w)) none

/-- `nap` (R177, R306): the watched lines are registered and the party parks after the group. -/
def execNap (m : Mods) (a : Reg) (b : Src) (s : State) : Host.Outcome State Fault Refusal :=
  s.access m false ([(a, 2)] ++ srcRun b 1) ⟨1, true, false, .plain⟩ (fun x t => x.reg64 t a) (fun p x cs =>
    let ts := threadsOf x.width (x.selected m)
    if ts.isEmpty then s
    else s.whenSynced p x ts true false <|
      let lines := cs.filterMap (fun c => match c.2.2 with | .ok ((pa, _) :: _) _ _ => some (pa / 64) | _ => none)
      let t := napTimeout (ts.map (fun t => (x.src32 t 0 b).toNat))
      (s.endSync p ts false).onParty p (fun y => { y with park := .nap lines t y.here y.pos.m0, parkedAt := s.now }))

/-- `mbx.ld` (R179). -/
def execMbxLd (m : Mods) (d a : Reg) (b : Off) (s : State) : Host.Outcome State Fault Refusal :=
  s.mailbox m d a b 2 false true (fun x => some x.flagA) (fun _ _ => .mbxLd) (fun x => x.destOf d 2)

/-- `mbx.st` (R179). -/
def execMbxSt (m : Mods) (d a : Reg) (b : Off) (s : State) : Host.Outcome State Fault Refusal :=
  s.mailbox m d a b 2 true true (fun _ => none) (fun x t => .mbxSt (x.reg64 t d)) (fun _ => .none)

/-- `mbx.tst` (R179): its scope has no effect. -/
def execMbxTst (m : Mods) (d a : Reg) (b : Off) (s : State) : Host.Outcome State Fault Refusal :=
  s.mailbox m d a b 1 false false (fun x => some x.flagA) (fun _ _ => .mbxTst) (fun x => x.destOf d 1)

end Sys2Proof.Machine
end

