-- ==== Sys2Proof/Machine/Protect.lean ====
section
/-! DEFINITION. Activity budgets (R354), and the protection of lines in memory (R372 to R376): counters, encryption, tags and the tree. -/

namespace Sys2Proof.Machine

open Sys2Proof

/-! ### Activity budgets (R354) -/

/-- The measured activities. -/
inductive Activity where
  | tenant | porter | scrub | counters | migration | firmware | collectives
  deriving DecidableEq, Repr

/-- The number of an activity of a lodging; package activities take lodging 0. -/
def Activity.key (fe : Nat) : Activity → Nat
  | .tenant => fe
  | .porter => 64 + fe
  | .scrub => 128
  | .counters => 192
  | .migration => 256
  | .firmware => 320
  | .collectives => 384

/-- The default budget of a 10 µs period: bytes, lines, counter blocks or ns. The shares of HBM line reads count the 384 MB that the
stacks deliver in a period. -/
def Activity.dflt (nq : Nat) : Activity → Nat
  | .tenant => 3000000 * nq
  | .porter => 1500000 * nq
  | .scrub => 60000
  | .counters => 750000
  | .migration => 64000000
  | .firmware => 64000
  | .collectives => 128000000

/-- The budget of an activity: what firmware has set, else the default. -/
def State.budget (s : State) (a : Activity) (fe : Nat) : Nat :=
  (sfind s.pkg.budgets (a.key fe)).getD (a.dflt (s.lod fe).nq)

/-- An activity has reached its budget: its further requests wait for the next period. -/
def State.throttled (s : State) (a : Activity) (fe : Nat) : Bool := s.budget a fe ≤ sget 0 s.pkg.spent (a.key fe)

/-- Measure an activity; firmware is notified once when it reaches its budget. -/
def State.spend (s : State) (a : Activity) (fe n : Nat) : State :=
  let k := a.key fe
  let s := s.onPkg (fun p => { p with spent := sset 0 p.spent k (sget 0 p.spent k + n) })
  if s.throttled a fe && !s.pkg.noticed.contains k then
    (s.onPkg (fun p => { p with noticed := p.noticed ++ [k] })).notify 0x34
  else s

/-- BUDGET_PERIOD (R354): a 10 µs period begins; the measures start again and throttled work goes on. -/
def execBudgetPeriod (s : State) : Host.Outcome State Fault Refusal :=
  State.event (
    if s.now < (s.pkg.budgetPeriods + 1) * 20000 then s
    else s.onPkg (fun p => { p with spent := [], noticed := [], budgetPeriods := s.now / 20000 }))

/-! ### Keys (R372) -/

/-- The keys that protect a block: the draw of its owner. A block that is free has none. -/
def State.keyDraw (s : State) : Owner → Option Nat
  | .free => none
  | .key n => some (s.lod n).keyDraw
  | .window w => match s.window? w with | some x => some x.keyDraw | none => none

/-- Kd, Kt and Kh of a draw. -/
def keysOf (n : Nat) : BitVec 256 × BitVec 256 × DWord :=
  (Config.drawKey (3 * n), Config.drawKey (3 * n + 1), (Config.drawKey (3 * n + 2)).setWidth 64)

/-! ### Encryption and tags (R373) -/

/-- The block p[53:6] ‖ M ‖ μ ‖ j, padded with zeros above (log entry 8). -/
def seedBlock (line major minor j : Nat) : BitVec 128 :=
  BitVec.ofNat 128 (line % 2 ^ 48 * 2 ^ 74 + major % 2 ^ 64 * 2 ^ 10 + minor % 2 ^ 7 * 2 ^ 3 + j)

/-- The ciphertext of a line of 512 bits. -/
def encrypt (kd : BitVec 256) (line major minor : Nat) (p : BitVec 512) : BitVec 512 :=
  let pad := fun j => Config.aes256 kd (seedBlock line major minor j)
  p ^^^ (pad 3 ++ pad 2 ++ pad 1 ++ pad 0)

/-- A power in GF(2^64). -/
def gfPow (k : DWord) : Nat → DWord
  | 0 => 1
  | n + 1 => Config.gfMul k (gfPow k n)

/-- The tag of a ciphertext. -/
def tagOf (kt : BitVec 256) (kh : DWord) (line major minor : Nat) (c : BitVec 512) : DWord :=
  let sum := (List.range 8).foldl (fun (t : DWord) i => t ^^^ Config.gfMul (c.extractLsb' (64 * i) 64) (gfPow kh (9 - i))) 0
  (sum ^^^ Config.gfMul (BitVec.ofNat 64 (64 * line)) kh) ^^^ (Config.aes256 kt (seedBlock line major minor 4)).setWidth 64

/-- A line's plaintext. -/
def State.plainLine (s : State) (line : Nat) : BitVec 512 := BitVec.ofNat 512 (s.loadN (64 * line) 64)

/-- The stored form of a line under its owner's keys: none under no key. -/
def State.sealedLine (s : State) (line major minor : Nat) : Option DramLine :=
  match s.keyDraw (s.ownerOf (64 * line)) with
  | none => none
  | some n =>
    let k := keysOf n
    let c := encrypt k.1 line major minor (s.plainLine line)
    some ⟨c, tagOf k.2.1 k.2.2 line major minor c⟩

/-- Put a line's stored form in memory. -/
def State.putDram (s : State) (line major minor : Nat) : State :=
  { s with mem := { s.mem with dram := sset none s.mem.dram line (s.sealedLine line major minor) } }

/-! ### Counters and the tree (R374, R375) -/

/-- Counters at 0. -/
def Counters.reset : Counters := ⟨0, []⟩

/-- A line's counters are exhausted, so that a write to it raises 0x13 at the writer (R374). -/
def State.countersDone (s : State) (pa : Nat) : Bool :=
  let c := sget Counters.reset s.mem.counters (pa / 4096)
  c.major == 2 ^ 64 - 1 && decide (127 ≤ sget 0 c.minor (pa / 64 % 64))

/-- A counter block after a write of its line or child `i`, and whether its major rose. -/
def Counters.bump (c : Counters) (i : Nat) : Counters × Bool :=
  let m := sget 0 c.minor i
  if m < 127 then ({ c with minor := sset 0 c.minor i (m + 1) }, false) else (⟨c.major + 1, []⟩, true)

/-- The nodes over a counter block, numbered by level and block: one for 64 children at each of two levels, then the root (log
entry 31). -/
def nodesOver (block : Nat) : List (Nat × Nat) :=
  [(2 ^ 60 + block / 64, block % 64), (2 ^ 61 + block / 4096, block / 64 % 64), (2 ^ 62, block / 4096 % 64)]

/-- A write of a line reaches memory (R374, R376): its counters, every node over them, and its stored form; when the minor counter
overflows the whole block is encrypted again. In reduced service lines are held in the cellar alone (R396, R397). -/
def State.lineWrite (s : State) (line : Nat) : State :=
  if s.pkg.service == .reduced || line / 2 ^ 38 != s.pkg.number || s.countersDone (64 * line) then s
  else
    let block := line / 64
    let b := (sget Counters.reset s.mem.counters block).bump (line % 64)
    let nodes := (nodesOver block).foldl (fun st e =>
      sset Counters.reset st e.1 (Counters.bump (sget Counters.reset st e.1) e.2).1) s.mem.nodes
    let s := { s with mem := { s.mem with counters := sset Counters.reset s.mem.counters block b.1, nodes := nodes } }
    let s := if b.2 then (List.range 64).foldl (fun (s : State) i => s.putDram (64 * block + i) b.1.major 0) s
      else s.putDram line b.1.major (sget 0 b.1.minor (line % 64))
    let s := match sget none s.mem.cellar line with
      | some c => { s with mem := { s.mem with cellar := sset none s.mem.cellar line (some { c with dirty := false }) } }
      | none => s
    match s.ownerOf (64 * line) with
    | .key n => (s.spend .tenant n 64).spend .counters 0 1
    | _ => s.spend .counters 0 1

/-- Writes of several lines reach memory. -/
def State.linesWrite (s : State) (ls : List Nat) : State := ls.foldl (fun s l => s.lineWrite l) s

/-- The stored tag of a line matches its ciphertext and counters (R373); a line that protection has not written has no tag yet. -/
def State.tagGood (s : State) (line : Nat) : Bool :=
  match sget none s.mem.dram line, s.keyDraw (s.ownerOf (64 * line)) with
  | some d, some n =>
    let k := keysOf n
    let c := sget Counters.reset s.mem.counters (line / 64)
    d.tag == tagOf k.2.1 k.2.2 line c.major (sget 0 c.minor (line % 64)) d.cipher
  | _, _ => true

/-! ### Lines between the cellar and memory (R329, R342, R373, R374) -/

/-- A line stays in its slice (R329): a mailbox waiter is recorded on it, or it is pinned. -/
def State.lineHeld (s : State) (line : Nat) : Bool :=
  (match sget none s.mem.cellar line with | some c => c.pinned | none => false) ||
    s.reqs.any (fun e => e.2.phase == .waiting && e.2.pieces.any (fun q => q.1 / 64 == line))

/-- LINE_WRITE_MEMORY (R374, R376): a dirty line's data reaches memory. -/
def execLineWriteMemory (line : Nat) (s : State) : Host.Outcome State Fault Refusal :=
  State.event (match sget none s.mem.cellar line with
  | some c => if c.dirty then s.lineWrite line else s
  | none => s)

/-- LINE_WRITEBACK (R329): a line leaves its slice; a dirty one is written back first. -/
def execLineWriteback (line : Nat) (s : State) : Host.Outcome State Fault Refusal :=
  State.event (match sget none s.mem.cellar line with
  | none => s
  | some c =>
    if s.lineHeld line then s
    else
      let s := if c.dirty then s.lineWrite line else s
      { s with mem := { s.mem with cellar := sset none s.mem.cellar line none } })

/-- LINE_READ_MEMORY (R373): a line that its slice does not hold is decrypted and its tag checked; a failed tag or cells that fail
are met by whoever consumes the line. A scheduled upset makes the tag or the cells fail. -/
def execLineReadMemory (line : Nat) (s : State) : Host.Outcome State Fault Refusal :=
  State.event (match sget none s.mem.cellar line with
  | some _ => s
  | none =>
    let m := match s.upset with
      | .tag => { s.mem with badTag := sset false s.mem.badTag line true }
      | .cells => { s.mem with badCells := sset false s.mem.badCells line true }
      | _ => if s.tagGood line then s.mem else { s.mem with badTag := sset false s.mem.badTag line true }
    let up := match s.upset with | .tag => Upset.none | .cells => Upset.none | u => u
    let s := { s with mem := { m with cellar := sset none m.cellar line (some ⟨false, false⟩) }, upset := up }
    match s.ownerOf (64 * line) with
    | .key n => s.spend .tenant n 64
    | _ => s)

/-- PATROL_SCRUB (R342, R354): the scrubber reads a line within its budget. A corrected error leaves the data as it is; cells that fail
poison the line, with a Logbook record, and raise nothing. -/
def execPatrolScrub (line : Nat) (s : State) : Host.Outcome State Fault Refusal :=
  State.event (
    if s.throttled .scrub 0 then s
    else
      let s := s.spend .scrub 0 1
      let s := match s.upset with
        | .cells => { s with upset := .none, mem := { s.mem with badCells := sset false s.mem.badCells line true } }
        | _ => s
      if sget false s.mem.badCells line && (sget none s.mem.poison line).isNone then s.poisonLine 0x14 0xFF 0 line else s)

end Sys2Proof.Machine
end

