-- ==== Sys2Proof/Machine/Issue.lean ====
section
/-! DEFINITION. Issue: fetching a party's packet (R24, R66, R83, R303) and starting one chain group (R77). -/

namespace Sys2Proof.Machine

open Sys2Proof

/-- Threads of a mask each given one address, for `taddr`. -/
def addrFor (w : Nat) (m : Mask) (a : DWord) : Sparse DWord :=
  (threadsOf w m).foldl (fun st t => sset 0 st t a) []

/-- A fetch refused (R66, R67, R274, R275): `tepc` names the group whose transfer named the target; when none did, the
target itself where it has a code address's form, and 0 otherwise. For 0x01 and 0x0F `tinfo` holds the target. Any other
cause reports the packet itself with the fetch bit. Log entry 12. -/
def Party.fetchTrap (p : Party) (m0 : Mask) (a : DWord) (cause : BitVec 6) : TrapReq :=
  if cause == 0x01 || cause == 0x0F then
    let from_ := match threadsOf p.width m0 with | t :: _ => sget 0 p.xfer t | [] => 0
    let form := a.extractLsb' 3 3 == 0 && a.extractLsb' 0 3 ≤ 4
    ⟨cause, false, if from_ != 0 then from_ else if form then a else 0, m0, m0,
      if cause == 0x01 then [] else addrFor p.width m0 a, a, none⟩
  else ⟨cause, false, a, m0, m0, addrFor p.width m0 a, 2, none⟩

/-- The code line of a packet address, read from memory in one step (R303): its physical address, or the cause. A fetch
reaches device, cellar pinned and second-tier pages only (R29). Log entry 9. -/
def State.fetchLine (s : State) (p : Party) (a : DWord) : State × Except (BitVec 6) Nat :=
  if a.extractLsb' 3 3 != 0 || 4 < (a.extractLsb' 0 3).toNat then (s, .error 0x01)
  else
    let va := a &&& ~~~ (0x3F : DWord)
    match s.reach p.fe (quadOfCore (coreOfLane p.lane)) ⟨false, true, p.user⟩ va with
    | .error c => (s, .error c)
    | .ok t => match s.pageKind p.fe t with
      | .device | .tier2 => match s.readLine p.fe p.lane (t.pa / 64) with
        | (s, some c) => (s, .error c)
        | (s, none) => (s, .ok t.pa)
      | .agent | .window _ | .remote => (s, .error 0x10)

/-- The header and the three words of a packet of the line at a physical address (R66). -/
def State.packetWords (s : State) (pa k : Nat) : List Word :=
  [BitVec.ofNat 32 (s.loadN pa 4), BitVec.ofNat 32 (s.loadN (pa + 4 + 12 * k) 4),
   BitVec.ofNat 32 (s.loadN (pa + 8 + 12 * k) 4), BitVec.ofNat 32 (s.loadN (pa + 12 + 12 * k) 4)]

/-- A decode failure as a trap (R83, R274, R275): at the packet, slot 0, for the threads of m0. -/
def Party.decodeTrap (p : Party) (d : Diag) : TrapReq :=
  ⟨d.cause, false, p.pos.pkt, p.pos.m0, p.pos.m0, [], BitVec.ofNat 64 d.slot ||| (if d.header then 4 else 0), none⟩

/-- The place of a party at its next packet (R24): the fetch address and the threads there. A party that resumes inside a
packet after `tret` keeps its place. -/
def Party.place (p : Party) : Option IssuePos :=
  if p.pos.m0 != 0 then some p.pos
  else match p.fetchPc with
  | none => none
  | some a => some ⟨a, none, 0, 0, p.atPc a, 0, false⟩

/-- What starting a group gives: a state in which nothing executes (a trap was taken, or there is no thread to serve), or
the state with the group to execute. -/
inductive Started where
  | over (s : State)
  | group (s : State) (g : Group)

/-- The latch of a party at the start of a chain group (R77). -/
def Party.toLatch (p : Party) : Latch :=
  ⟨p.regs, p.pos.m0, p.wb, p.csr, p.tpc, p.xfer, p.calls, p.depth, p.left, p.joinWait, p.syncWait⟩

/-- Find the group that starts at the party's slot. -/
def groupAt (k : Nat) : List Group → Option Group
  | [] => none
  | g :: gs => if g.first = k then some g else groupAt k gs

/-- Start the next group of party `p`: fetch the packet if it has not been fetched, decode it, and hand over the group at
the party's slot. A slot inside a group raises 0x01 (R267). Inside a group of several words every word reads the registers
latched here (R77). -/
noncomputable def State.startGroup (s : State) (p : Nat) : Started :=
  match s.party? p with
  | none => .over { s with cur := none }
  | some x => match x.place with
    | none => .over { s with cur := none }
    | some pos =>
      let x := { x with pos := pos }
      let go := fun (s : State) (x : Party) (ws : List Word) =>
        match decodePacket (ws.getD 0 0) (ws.drop 1) with
        | .error d => Started.over ({ s with cur := none }.setParty p x |>.takeTrap p (x.decodeTrap d))
        | .ok (h, gs) => match groupAt x.pos.slot gs with
          | none => Started.over ({ s with cur := none }.setParty p x |>.takeTrap p
              (x.decodeTrap ⟨0x01, x.pos.slot, false⟩))
          | some g =>
            let x := { x with
              pos := { x.pos with after := g.next }
              gap := h.gaps.getD (x.pos.pkt.toNat % 8) 0
              giveWay := gs.any (fun g => g.give)
              ctl := .run
              latch := if 1 < g.instrs.length then some x.toLatch else none }
            Started.group (s.setParty p x) g
      match pos.words with
      | some ws => go s x ws
      | none => match s.fetchLine x pos.pkt with
        | (s, .error c) => .over ({ s with cur := none }.setParty p x |>.takeTrap p (x.fetchTrap pos.m0 pos.pkt c))
        | (s, .ok pa) =>
          let ws := s.packetWords pa (pos.pkt.toNat % 8)
          go s { x with pos := { pos with words := some ws } } ws

end Sys2Proof.Machine
end

