-- ==== Sys2Proof/Machine/Retire.lean ====
section
/-! DEFINITION. What follows a group that has executed (R77, R149, R211, R266, R272): the next group, the next packet, a hold,
a park or a trap. -/

namespace Sys2Proof.Machine

open Sys2Proof

/-- The party has finished its group at `next` (R149, R266): m0 narrows to the threads that neither transferred nor left;
the next group follows, or the packet ends and they go to the next packet. With `pinfo` step set at user level the party
takes 0x0B; a fault of R423 takes its place. -/
def State.finishGroupWith (s : State) (p : Nat) (kept : Option TrapReq) : State :=
  match s.party? p with
  | none => s
  | some x =>
    let m := x.pos.m0 &&& ~~~ x.pos.moved
    let past := nextPacket x.pos.pkt
    let stepTrap : TrapReq := ⟨0x0B, false, x.nextHere past, m, x.pos.m0, [], 0, none⟩
    let x' := { x with rerun := none, ctl := .run, waitReqs := 0, latch := none, homeFaults := [] }
    let y :=
      if x.pos.after < 3 && m != 0 then
        { x' with pos := { x.pos with slot := x.pos.after, m0 := m, moved := 0, begun := true } }
      else
        { x'.setPc m past with pos := IssuePos.fresh, entered := false, parkedAt := s.now }
    let s := ((s.setParty p y).settle p).wake
    let s := if y.pos.words.isNone && s.cur == some p then { s with cur := none } else s
    let single := if x.csr.single && x.user && y.life == .resident then some stepTrap else none
    match (match kept with | some r => some r | none => single) with
    | some r =>
      if (s.party? p).isSome then (if s.cur == some p then { s with cur := none } else s).takeTrap p r else s
    | none => s

/-- The party has finished its group. -/
def State.finishGroup (s : State) (p : Nat) : State := s.finishGroupWith p none

/-- Every home has answered the group of a party that waits (R272): a trap raised by its words is entered, a barrier wait goes
on, otherwise the group is finished. -/
def State.groupDone (s : State) (p : Nat) : State :=
  match s.party? p with
  | none => s
  | some x => match x.pend, x.park with
    | some r, _ => s.takeTrap p r
    | none, .barrier _ _ => s.setParty p { x with ctl := .run, waitReqs := 0 }
    | none, _ => s.finishGroup p

end Sys2Proof.Machine
end

