-- ==== Sys2Proof/Machine/Home.lean ====
section
/-! DEFINITION. The home slices (R165 to R179, R272, R294 to R315): when a request may be accepted, the region tags and the
conflict check, the accesses themselves, mailbox words, and what follows for the party whose requests are answered. -/

namespace Sys2Proof.Machine

open Sys2Proof

/-! ### Order at a home (R23, R172) -/

/-- The request of an `exit`, for which no thread waits (R203). -/
def Req.isEnd (r : Req) : Bool := match r.kind with | .agent .exitEnd _ _ => true | _ => false

/-- The home quad a request goes to: an agent's, the issuing quad's for `agt.new` and a node of handle 0, or that of the first
byte (R21, R204, R231, R328). -/
def State.reqHome (s : State) (r : Req) : Nat :=
  let own := quadOfCore (coreOfLane r.lane)
  match r.kind with
  | .agent (.agtNew _) _ _ => own
  | .agent _ h _ => (s.lod r.fe).agentHome (h.toNat % 2 ^ 24)
  | .emit act => if act.handle = 0 then own else (s.lod r.fe).agentHome (act.handle % 2 ^ 24)
  | _ => match r.pieces with | (pa, _) :: _ => ((s.lod r.fe).home pa).1 | [] => own

/-- No earlier request of the lane to the same home is still to be accepted (R23, R172). -/
def State.firstAtHome (s : State) (n : Nat) (r : Req) : Bool :=
  !(s.reqs.any (fun e => decide (e.1 < n) && e.2.lane == r.lane && e.2.phase == .sent && !e.2.isEnd &&
    s.reqHome e.2 == s.reqHome r))

/-! ### Region tags and conflicts (R295 to R297, R332) -/

/-- The granules of a list of pieces. -/
def granulesOf (ps : List (Nat × Nat)) : List Nat :=
  ps.flatMap (fun q => (List.range ((q.1 + q.2 - 1) / 4 + 1 - q.1 / 4)).map (q.1 / 4 + ·))

/-- A request is an access that is recorded and checked (R295): a load or store outside windows. -/
def Req.recorded (r : Req) : Bool := !r.win && (match r.kind with | .load _ _ => true | .store _ _ => true | _ => false)
/-- A request writes. -/
def Req.writes (r : Req) : Bool :=
  match r.kind with | .store _ _ => true | .atom _ _ _ => true | .logApp _ => true | .mbxSt _ => true | _ => false

/-- A record conflicts with an access (R295): a granule in common, one of them a write, and no thread in common. -/
def Tag.conflicts (g : Tag) (r : Req) (gs : List Nat) : Bool :=
  gs.contains g.granule && (g.w || r.writes) &&
    !(g.party == r.party && g.owners.any (fun o => r.owners.any (fun q => q.1 == o.1)))

/-- Of two live accesses, the one `tinfo` names: lowest lane, then lowest thread (R296). -/
def lowerAccess (a b : Nat × Nat × Bool) : Nat × Nat × Bool :=
  if a.1 < b.1 || (a.1 == b.1 && a.2.1 ≤ b.2.1) then a else b

/-- The live access that conflicts with a request, as `tinfo` names it (R275, R296). -/
def State.conflict (s : State) (r : Req) : Option DWord :=
  let gs := granulesOf r.pieces
  let live := (s.tags.filter (fun g => g.conflicts r gs)).flatMap (fun g => g.owners.map (fun o => (g.lane, o.1, g.w)))
  match live with
  | [] => none
  | a :: as =>
    let b := as.foldl lowerAccess a
    some (BitVec.ofNat 64 (b.1 % 2 ^ 16 + b.2.1 * 2 ^ 16 + (if b.2.2 then 2 ^ 22 else 0)))

/-- The set of a granule in its slice's store (R332). -/
def State.tagSet (s : State) (fe g : Nat) : Nat × Nat := (((s.lod fe).home (4 * g)).1, 4 * g / 64 % 8192)

/-- The record of a region and granule. -/
def Tag.same (t : Tag) (r : Req) (g : Nat) : Bool := t.granule == g && t.party == r.party && t.owners == r.owners

/-- The records of a request would not fit their sets (R297, R332). -/
def State.tagFull (s : State) (r : Req) : Bool :=
  let new := (granulesOf r.pieces).filter (fun g => !s.tags.any (fun t => t.same r g))
  new.any (fun g =>
    let set := s.tagSet r.fe g
    decide (16 < (s.tags.filter (fun t => s.tagSet t.fe t.granule == set)).length +
      (new.filter (fun h => s.tagSet r.fe h == set)).length))

/-- Record an access to a granule: one record for each region and granule. -/
def recordTag (r : Req) (g : Nat) : List Tag → List Tag
  | [] => [⟨r.fe, g, r.lane, r.party, r.owners, !r.writes, r.writes⟩]
  | t :: ts => if t.same r g then { t with r := t.r || !r.writes, w := t.w || r.writes } :: ts else t :: recordTag r g ts

/-- Record an access. -/
def State.record (s : State) (r : Req) : State :=
  if r.recorded then { s with tags := (granulesOf r.pieces).foldl (fun ts g => recordTag r g ts) s.tags } else s

/-- A region of a thread has ended: its party is gone, the thread has left, or it is past that region. -/
def State.regionOver (s : State) (p : Nat) (o : Nat × Nat) : Bool :=
  match s.party? p with
  | none => true
  | some x => bitOf x.left o.1 || x.regionOf o.1 != o.2

/-- Release the records of the regions among `os` that have ended and whose writes are acknowledged (R294). -/
def State.releaseRegions (s : State) (p : Nat) (os : List (Nat × Nat)) : State :=
  os.foldl (fun s o => if s.regionOver p o && !s.unacked p o then { s with tags := dropOwner s.tags p o } else s) s

/-! ### Waking naps and mailbox waits (R177, R200, R306) -/

/-- A write to these lines wakes the parties that nap on one of them. -/
def State.napWake (s : State) (lines : List Nat) : State :=
  s.mapParties (fun _ x => match x.park with
    | .nap ls _ _ _ => if lines.any (fun l => ls.contains l) then { x with park := .none } else x
    | _ => x)

/-- Lines of a list of pieces. -/
def linesOf (ps : List (Nat × Nat)) : List Nat := ps.map (fun q => q.1 / 64)

/-! ### Checks at the home (R169, R272) -/

/-- The package or the address is absent from the pod (R361, R397). -/
def State.unmapped (s : State) (pa : Nat) : Bool :=
  let k := pa / 2 ^ 44
  k != s.pkg.number &&
    (s.pkg.service == .reduced || !s.pkg.podPackages.contains k || s.pkg.absentRemote.contains (pa / 2 ^ 21))

/-- The checks of a request at its home, in order: absence, conflict, integrity of the data read, counters of the line written.
A cause comes with the detail `tinfo` takes. -/
def State.homeCheck (s : State) (r : Req) : State × Option (BitVec 6 × DWord) :=
  let w : DWord := if r.writes then 1 else 0
  if r.pieces.any (fun q => s.unmapped q.1) then (s, some (0x38, w))
  else match (if r.recorded then s.conflict r else none) with
  | some i => (s, some (0x16, i))
  | none =>
    let reads := match r.kind with
      | .load _ _ => true | .rcLoad => true | .atom _ _ _ => true | .mbxLd => true | .logApp _ => true | _ => false
    match (if reads then s.readLines r.fe r.lane (linesOf r.pieces) else (s, none)) with
    | (s, some c) => (s, some (c, if c == 0x14 then 0 else w))
    | (s, none) =>
      if r.writes && r.pieces.any (fun q => s.countersDone q.1) then (s, some (0x13, w)) else (s, none)

/-! ### Answers (R165, R272) -/

/-- A thread's answer is a fault its home found. -/
def Req.fault (r : Req) (c : BitVec 6) (info : DWord) (kept : Bool) : HomeFault := ⟨r.thread, c, r.va, info, kept⟩

/-- Take back from the threads of `m` what their group did (R77, R169): their registers and mask bits, uniform registers, control
registers and control state are those of the group's start. -/
def Party.takeBack (p : Party) (l : Latch) (m : Mask) : Party :=
  let mine := fun (k : Nat) => bitOf m (k / 1024)
  let pick := fun {α : Type} (new old : Sparse α) (f : Nat → Bool) =>
    (old.filter (fun e => f e.1)).foldl (fun st (e : Nat × α) => sput st e.1 e.2) (new.filter (fun e => !f e.1))
  let th := fun (k : Nat) => bitOf m k
  let masks := (upto 8).foldl (fun st k =>
    sset 0 st k ((sget 0 p.regs.m k &&& ~~~ m) ||| (sget 0 l.regs.m k &&& m))) p.regs.m
  let joined := p.joinWait &&& ~~~ l.joinWait &&& m
  let unjoin := fun (es : List DivEntry) (t : Nat) =>
    match es.findIdx? (fun e => bitOf e.arrived t) with
    | some i => es.modify i (fun e => { e with arrived := setBit e.arrived t false })
    | none => es
  { p with
    regs := ⟨pick p.regs.v l.regs.v mine, l.regs.u, masks⟩
    csr := l.csr
    wb := l.wb
    tpc := pick p.tpc l.tpc th
    xfer := pick p.xfer l.xfer th
    calls := pick p.calls l.calls th
    depth := pick p.depth l.depth th
    left := p.left &&& ~~~ (m &&& ~~~ l.left)
    joinWait := p.joinWait &&& ~~~ (m &&& ~~~ l.joinWait)
    syncWait := p.syncWait &&& ~~~ (m &&& ~~~ l.syncWait)
    divs := (threadsOf p.width joined).foldl unjoin p.divs
    pos := { p.pos with moved := p.pos.moved &&& ~~~ m } }

/-- The lowest cause among faults. -/
def lowestCause (fs : List HomeFault) : BitVec 6 := fs.foldl (fun c f => if f.cause < c then f.cause else c) 0x3F

/-- The trap that faults found at homes raise (R169, R272, R275, R423). -/
def Party.homeTrap (p : Party) (fs : List HomeFault) : TrapReq :=
  let c := lowestCause fs
  let info := match (fs.filter (fun f => f.cause == c)).head? with | some f => f.info | none => 0
  let m := fs.foldl (fun m f => setBit m f.thread true) 0
  ⟨c, false, p.here, p.pos.m0, m, fs.foldl (fun st f => sset 0 st f.thread f.addr) [], info, some m⟩

/-- A group's requests are no longer those of a group that is held. -/
def State.unhold (s : State) (p : Nat) : State :=
  { s with reqs := s.reqs.map (fun (e : Nat × Req) => if e.2.party == p then (e.1, { e.2 with held := false }) else e) }

/-- A load waits at a mailbox word for the group of a party (R179). -/
def State.mbxLdOpen (s : State) (p : Nat) : Bool :=
  s.reqs.any (fun e => e.2.party == p && e.2.held && e.2.phase == .waiting && e.2.kind == .mbxLd)

/-- Every home has answered the group of a party (R272): without a fault it goes on, or parks on its mailbox loads; a fault is
raised for the threads that failed, whose group has no effect; an uncorrectable error in a region restarts it (R276); a fault
whose effect is kept is raised after the group, when it is alone (R423). -/
def State.conclude (s : State) (p : Nat) : State :=
  match s.party? p with
  | none => s
  | some x =>
    if x.waitReqs != 0 then s
    else
      let own := x.homeFaults.filter (fun f => !f.kept)
      let kept := x.homeFaults.filter (fun f => f.kept)
      match own with
      | [] =>
        if !kept.isEmpty then
          let r := x.homeTrap kept
          (s.unhold p).finishGroupWith p (some { r with
            epc := x.nextHere (nextPacket x.pos.pkt), mprev := x.pos.m0 &&& ~~~ x.pos.moved, info := 4, rerun := none })
        else if s.mbxLdOpen p then s.setParty p { x with park := .mailbox, parkedAt := s.now, ctl := .run }
        else (s.unhold p).groupDone p
      | _ :: _ =>
        let r := x.homeTrap own
        let y := match x.latch with | some l => x.takeBack l r.mfault | none => x
        let s := (s.unhold p).setParty p { y with
          latch := none, pend := none, park := .none, ctl := .run, homeFaults := [], leaving := y.leaving &&& ~~~ r.mfault }
        if r.cause == 0x14 || r.cause == 0x37 then s.consumeError p r.cause r else s.takeTrap p r

/-! ### What follows a group that has executed (R77, R149, R211, R272) -/

/-- A cause that is raised after its group has executed (R266). -/
def afterGroup (c : BitVec 6) : Bool := c == 0x09 || c == 0x0A

/-- What follows the execution of a group (R77, R149, R211, R272): `old` is the state in which it started. A group of
several words in which a word traps, holds or parks takes none of its effects; `trap` and `brk` are raised after the
group. A party that holds issue or parks keeps its place. The issue of a packet's first group is the party's new issue age (R344). -/
def State.retire (old s : State) (p : Nat) : State :=
  let s := s.onParty p (fun x => if x.ctl == .stall || x.pos.begun then x else { x with age := s.now })
  match s.party? p with
  | none => { s with cur := none }
  | some x =>
    let quit := fun (s : State) => if s.cur == some p then { s with cur := none } else s
    if x.life != .resident then quit s
    else match x.latch, x.pend with
    | some _, some r =>
      if afterGroup r.cause then
        quit (((s.setParty p { x with latch := none, pend := none }).settle p).takeTrap p
          { r with mprev := x.pos.m0 &&& ~~~ x.pos.moved })
      else quit ((old.onParty p (fun y => { y with latch := none })).takeTrap p r)
    | none, some _ => quit s
    | l, none =>
      if x.pos.words.isNone then quit (s.setParty p { x with latch := none, ctl := .run })
      else if x.ctl == .stall then
        quit (old.onParty p (fun y => { y with latch := none, hold := true, ctl := .run }))
      else if x.ctl == .await then
        let s := s.setParty p { x with pos := { x.pos with begun := true } }
        quit (if x.waitReqs = 0 then s.conclude p else s)
      else match x.park with
      | .none => s.finishGroup p
      | .nap _ _ _ _ => quit (s.finishGroup p)
      | .barrier _ _ => quit s
      | k =>
        if l.isSome then quit (old.onParty p (fun y => { y with latch := none, park := k, parkedAt := x.parkedAt }))
        else quit s

/-- A home has answered a request of a group: with the faults it found, or with none. -/
def State.answer (s : State) (r : Req) (fs : List HomeFault) : State :=
  if r.held then
    match s.party? r.party with
    | none => s
    | some x => (s.setParty r.party { x with
        waitReqs := x.waitReqs - 1, homeFaults := x.homeFaults ++ fs }).conclude r.party
  else s

/-- A home refuses a request: no effect, its flag count falls, and the threads it serves have failed (R169, R272). -/
def State.refuse (s : State) (n : Nat) (r : Req) (c : BitVec 6) (info : DWord) : State :=
  let s := s.dropReq n
  match s.party? r.party with
  | none => s
  | some x =>
    let x := match r.flag with | some k => x.doneFlag k 1 | none => x
    let ts := if r.uniform then threadsOf x.width x.pos.m0 else [r.thread]
    (s.setParty r.party x).answer r (ts.map (fun t => { r.fault c info false with thread := t }))

/-- A home accepts a request, which stays in a phase. -/
def State.accept (s : State) (n : Nat) (r : Req) (ph : Phase) : State :=
  (s.onReq n (fun q => { q with phase := ph })).answer r []

/-- A result reaches its destination and its flag count falls (R14, R165): nothing for a thread that has left. -/
def State.deliver (s : State) (n : Nat) (r : Req) (v : Nat) : State :=
  let s := s.dropReq n
  match s.party? r.party with
  | none => s
  | some x =>
    let y := if !r.uniform && bitOf x.left r.thread then x else x.deposit (fun x => x.setDest r.thread r.dest v)
    s.setParty r.party (match r.flag with | some k => y.doneFlag k 1 | none => y)

/-! ### Accesses (R165, R166, R170, R173, R315) -/

/-- A byte as a thread's own window writes on their way leave it (R166, R315). -/
def State.ownByte (s : State) (r : Req) (a : Nat) : Byte :=
  s.reqs.foldl (fun b (e : Nat × Req) =>
    match e.2.kind with
    | .store _ data =>
      if e.2.win && e.2.phase == .unacked && e.2.party == r.party &&
          e.2.owners.any (fun o => r.owners.any (fun q => q.1 == o.1)) then
        let step := fun (acc : Nat × Byte) (q : Nat × Nat) =>
          (acc.1 + q.2, if q.1 ≤ a && a < q.1 + q.2 then BitVec.ofNat 8 (data / 2 ^ (8 * (acc.1 + (a - q.1)))) else acc.2)
        (e.2.pieces.foldl step (0, b)).2
      else b
    | _ => b) (s.byteAt a)

/-- The number a load reads: memory, under its own window writes on a window page. -/
def State.readFor (s : State) (r : Req) : Nat :=
  if r.win then
    (r.pieces.flatMap (fun q => (List.range q.2).map (q.1 + ·))).foldr (fun a v => (s.ownByte r a).toNat + 256 * v) 0
  else s.loadPieces r.pieces

/-- A loaded value, sign-extended where the function says so (R165). -/
def extendLoad (size : Nat) (sx : Bool) (v : Nat) : Nat :=
  if sx then (BitVec.ofInt 64 (sxInt (8 * size) v)).toNat else v

/-- The new memory value of an atomic (R173). -/
def atomNew (op : AtomOp) (m b c : Nat) : Nat :=
  let lo := b % 2 ^ 32
  match op with
  | .add => (m + lo) % 2 ^ 32
  | .minI => if sxInt 32 m ≤ sxInt 32 lo then m else lo
  | .maxI => if sxInt 32 m ≤ sxInt 32 lo then lo else m
  | .minN => min m lo
  | .maxN => max m lo
  | .and => m &&& lo
  | .or => m ||| lo
  | .xor => m ^^^ lo
  | .xch => lo
  | .cas => if m = lo then c % 2 ^ 32 else m
  | .fadd => (fp32.add RNE false 0 m lo).1
  | .add64 => (m + b) % 2 ^ 64

/-- The quad slice's copy of a line that a party has read by `ld.rc` (R170). -/
def State.copyOf (s : State) (r : Req) (line : Nat) : Option (List Byte) :=
  match s.party? r.party with | some x => sfind x.rcCopies line | none => none

/-- An acquire at pod scope drops the party's copies (R170, R175). -/
def State.acquire (s : State) (r : Req) : State :=
  if r.acq && r.pod then s.onParty r.party (fun x => { x with rcCopies := [] }) else s

/-! ### Mailbox words (R178, R179, R200, R307) -/

/-- The full bit of a word. -/
def State.isFull (s : State) (pa : Nat) : Bool := sget false s.mem.full (pa / 8)
/-- Set the full bit of a word. -/
def State.setFull (s : State) (pa : Nat) (b : Bool) : State :=
  { s with mem := { s.mem with full := sset false s.mem.full (pa / 8) b } }

/-- A request waits at a mailbox word. -/
def Req.waitsAt (r : Req) (pa : Nat) : Bool := r.phase == .waiting && (match r.pieces with | (a, _) :: _ => a == pa | [] => false)
/-- The oldest load that waits at a word; requests are numbered as they join the FIFO. -/
def State.oldestLd (s : State) (pa : Nat) : Option (Nat × Req) :=
  s.reqs.find? (fun e => e.2.waitsAt pa && e.2.kind == .mbxLd)
/-- The oldest store that waits at a word. -/
def State.oldestSt (s : State) (pa : Nat) : Option (Nat × Req) :=
  s.reqs.find? (fun e => e.2.waitsAt pa && (match e.2.kind with | .mbxSt _ => true | _ => false))

/-- A request joins the tail of a word's FIFO. -/
def State.enqueue (s : State) (n : Nat) (r : Req) : State :=
  let m := s.fresh
  ({ m.2 with reqs := sput (sdrop m.2.reqs n) m.1 { r with phase := .waiting } }).answer r []

/-- Read a word and empty it (R179). -/
def State.drain (s : State) (pa : Nat) : Nat × State := (s.loadN pa 8, s.setFull pa false)

end Sys2Proof.Machine
end

