-- ==== Sys2Proof/Machine/Steward.lean ====
section
/-! DEFINITION. The Steward's data: agent records and frame blocks in memory (R184 to R187, R389), the plan library (R205), the
goal queue, watches, failures and activations (R190 to R196). -/

namespace Sys2Proof.Machine

open Sys2Proof

/-! ### Addresses -/

/-- An agent as its Steward holds it: lodging, home quad, handle and the physical address of its record. -/
structure Ag where
  fe : Nat
  quad : Nat
  h : Nat
  pa : Nat
  deriving DecidableEq, Repr

/-- A Steward's or Coach's translation at its quad (R389): a write at supervisor level. -/
def State.stewardPa (s : State) (fe quad : Nat) (write : Bool) (va : DWord) : Except (BitVec 6) Nat :=
  match s.reach fe quad ⟨write, false, false⟩ va with
  | .ok t =>
    if sget false s.mem.badTag (t.pa / 64) then .error 0x13
    else if (sget none s.mem.poison (t.pa / 64)).isSome then .error 0x14
    else .ok t.pa
  | .error c => .error c

/-- The record of a handle of a lodging (R389), or the cause its translation raises. -/
def State.agent (s : State) (fe h : Nat) : Except (BitVec 6) Ag :=
  let l := s.lod fe
  let q := l.agentHome h
  match s.stewardPa fe q true (l.agentBase + BitVec.ofNat 64 (4096 * h)) with
  | .ok pa => .ok ⟨fe, q, h, pa⟩
  | .error c => .error c

/-- A field of the record. -/
def State.recF (s : State) (a : Ag) (off n : Nat) : Nat := s.loadN (a.pa + off) n
/-- Write a field of the record. -/
def State.setRec (s : State) (a : Ag) (off n v : Nat) : State := s.storeN (a.pa + off) v n
/-- The record is allocated (R184). -/
def State.allocated (s : State) (a : Ag) : Bool := s.recF a 3 1 == 1
/-- The fact word. -/
def State.facts (s : State) (a : Ag) : DWord := BitVec.ofNat 64 (s.recF a 8 8)

/-! ### Intention slots (R186) -/

/-- The status word of a slot. -/
structure Status where
  state : Nat
  goalValid : Bool
  depth : Nat
  failAdopted : Bool
  kind : Nat
  cause : Nat
  plan : Nat
  deriving DecidableEq, Repr

/-- A free slot. -/
def Status.free : Status := ⟨0, false, 0, false, 0, 0, 0⟩
/-- Status words in memory. -/
def Status.word (x : Status) : Nat :=
  x.state + (if x.goalValid then 8 else 0) + x.depth * 16 + (if x.failAdopted then 128 else 0) + x.kind * 256 + x.cause * 1024
    + x.plan * 65536
/-- A status word read. -/
def statusOf (w : Nat) : Status :=
  ⟨w % 8, w / 8 % 2 == 1, w / 16 % 8, w / 128 % 2 == 1, w / 256 % 4, w / 1024 % 4, w / 65536 % 65536⟩

/-- The place of a slot in the record. -/
def slotOff (i : Nat) : Nat := 0xC0 + 64 * i
/-- The status of a slot. -/
def State.status (s : State) (a : Ag) (i : Nat) : Status := statusOf (s.recF a (slotOff i) 4)
/-- Write a slot's status. -/
def State.setStatus (s : State) (a : Ag) (i : Nat) (x : Status) : State := s.setRec a (slotOff i) 4 x.word
/-- The top frame block's address. -/
def State.top (s : State) (a : Ag) (i : Nat) : DWord := BitVec.ofNat 64 (s.recF a (slotOff i + 0x20) 8)
/-- The root goal of a slot. -/
def State.rootGoal (s : State) (a : Ag) (i : Nat) : DWord := BitVec.ofNat 64 (s.recF a (slotOff i + 8) 8)
/-- The runner the Coach writes (R186): lane, thread and party. The spec gives no bit layout; log entry 19. -/
def runnerWord (lane party thread : Nat) : Nat := lane % 2 ^ 16 + thread * 2 ^ 16 + party * 2 ^ 24 % 2 ^ 64
/-- The runner of a slot is a thread of a party. -/
def State.ranBy (s : State) (a : Ag) (i party thread : Nat) : Bool :=
  s.recF a (slotOff i + 0x30) 8 / 2 ^ 16 == runnerWord 0 party thread / 2 ^ 16
/-- The free slots, ascending. -/
def State.freeSlots (s : State) (a : Ag) : List Nat := (upto 8).filter (fun i => (s.status a i).state == 0)

/-! ### Frame blocks (R187, R389) -/

/-- The physical address of a frame block; a fault was found when the request was accepted. -/
def State.blockPa (s : State) (a : Ag) (b : DWord) : Nat :=
  match s.stewardPa a.fe a.quad true b with | .ok pa => pa | .error _ => 0
/-- A field of a frame. -/
def State.frame (s : State) (a : Ag) (b : DWord) (off n : Nat) : Nat := s.loadN (s.blockPa a b + off) n
/-- Write a field of a frame. -/
def State.setFrame (s : State) (a : Ag) (b : DWord) (off n v : Nat) : State := s.storeN (s.blockPa a b + off) v n

/-- Write zeros over a physical range. -/
def State.zeroRange (s : State) (lo n : Nat) : State :=
  let bytes := s.mem.bytes.filter (fun (e : Nat × Byte) => !(decide (lo ≤ e.1) && decide (e.1 < lo + n)))
  let poison := s.mem.poison.filter (fun (e : Nat × Option Mask) => !(decide (lo ≤ 64 * e.1) && decide (64 * e.1 + 64 ≤ lo + n)))
  { s with mem := { s.mem with bytes := bytes, poison := poison } }

/-- What taking a frame block gives (R187, R389): none free, a fault on it, or the block, its locals zeroed. -/
inductive Taken where
  | none
  | fault (c : BitVec 6)
  | ok (b : DWord) (s : State)

/-- Take a block from the head of the lodging's pool list. -/
def State.takeBlock (s : State) (a : Ag) : Taken :=
  let b := (s.lod a.fe).poolHead
  if b == 0 then .none
  else match s.stewardPa a.fe a.quad true b with
  | .error c => .fault c
  | .ok pa =>
    let next := BitVec.ofNat 64 (s.loadN pa 8)
    .ok b ((s.zeroRange pa 4096).onLod a.fe (fun l => { l with poolHead := next, poolUsed := l.poolUsed + 1 }))

/-- Return a block to the head of the pool list. -/
def State.freeBlock (s : State) (a : Ag) (b : DWord) : State :=
  let head := (s.lod a.fe).poolHead
  (s.setFrame a b 0 8 head.toNat).onLod a.fe (fun l =>
    { l with poolHead := b, poolUsed := l.poolUsed - 1, failFrames := l.failFrames.filter (· != b) })

/-- Free every frame of a chain, from the top down; `n` bounds the depth. -/
def State.freeFrames (s : State) (a : Ag) (b : DWord) : Nat → State
  | 0 => s
  | n + 1 => if b == 0 then s
    else
      let parent := BitVec.ofNat 64 (s.frame a b 8 8)
      (s.freeBlock a b).freeFrames a parent n

/-- Every frame of a chain can be translated; the first cause otherwise (R389). -/
def State.framesFault (s : State) (a : Ag) (b : DWord) : Nat → Option (BitVec 6)
  | 0 => none
  | n + 1 => if b == 0 then none
    else match s.stewardPa a.fe a.quad true b with
    | .error c => some c
    | .ok pa => s.framesFault a (BitVec.ofNat 64 (s.loadN (pa + 8) 8)) n

/-- Make a slot free (R196): frames freed, status 0, no runner, no registered mailbox wait. -/
def State.freeSlot (s : State) (a : Ag) (i : Nat) : State :=
  let s := s.freeFrames a (s.top a i) 8
  let s := s.zeroRange (a.pa + slotOff i) 64
  s.onLod a.fe (fun l => { l with mbxWakes := l.mbxWakes.filter (fun w => !(w.2.1 == a.h && w.2.2 == i)) })

/-! ### Goal entries and the queue (R185, R190) -/

/-- Goal id. -/
def goalId (g : DWord) : Nat := (g.extractLsb' 0 16).toNat
/-- Priority. -/
def goalPrio (g : DWord) : Nat := (g.extractLsb' 16 4).toNat
/-- The origin, slot and depth, when it is valid. -/
def goalOrigin (g : DWord) : Option (Nat × Nat) :=
  if g.getLsbD 23 then some ((g.extractLsb' 20 3).toNat, (g.extractLsb' 24 3).toNat) else none
/-- A goal entry with an origin. -/
def withOrigin (g : DWord) (slot depth : Nat) : DWord :=
  (g &&& ~~~ (0xFFF00000 : DWord)) ||| BitVec.ofNat 64 (slot * 2 ^ 20 + 2 ^ 23 + depth * 2 ^ 24)

/-- The goal queue, oldest first. -/
def State.goals (s : State) (a : Ag) : List DWord :=
  (upto (s.recF a 0x13 1)).map (fun k => BitVec.ofNat 64 (s.recF a (0x40 + 8 * k) 8))
/-- Write goal entries from the k-th on. -/
def State.putGoals (s : State) (a : Ag) (k : Nat) : List DWord → State
  | [] => s
  | g :: gs => (s.setRec a (0x40 + 8 * k) 8 g.toNat).putGoals a (k + 1) gs
/-- Replace the queue. -/
def State.setGoals (s : State) (a : Ag) (gs : List DWord) : State :=
  ((s.zeroRange (a.pa + 0x40) 128).putGoals a 0 gs).setRec a 0x13 1 gs.length
/-- The head: highest priority, oldest within it. -/
def headGoal : List DWord → Option DWord
  | [] => none
  | g :: gs => match headGoal gs with
    | none => some g
    | some h => if goalPrio g < goalPrio h then some h else some g
/-- Remove the first entry equal to one. -/
def dropGoal (g : DWord) : List DWord → List DWord
  | [] => []
  | h :: gs => if h == g then gs else h :: dropGoal g gs

/-! ### Valued beliefs (R184, R188) -/

/-- The place of a key among the 192 entries; key 0 finds an empty one. -/
def State.beliefAt (s : State) (a : Ag) (key : Nat) : Option Nat :=
  (upto 192).find? (fun k => s.recF a (0x300 + 16 * k) 2 == key)
/-- The value of a key, facts included; an absent belief reads 0 (R189). -/
def State.belief (s : State) (a : Ag) (key : Nat) : DWord :=
  if key < 64 then (if (s.facts a).getLsbD key then 1 else 0)
  else match s.beliefAt a key with | some k => BitVec.ofNat 64 (s.recF a (0x308 + 16 * k) 8) | none => 0
/-- A key is present (R189). -/
def State.present (s : State) (a : Ag) (key : Nat) : Bool :=
  if key < 64 then (s.facts a).getLsbD key else (s.beliefAt a key).isSome

/-! ### The plan library (R205) -/

/-- A library as read: base and the fields of its header. -/
structure Lib where
  fe : Nat
  quad : Nat
  base : DWord
  nodes : Nat
  plans : Nat
  triggers : Nat
  nodeOff : Nat
  planOff : Nat
  trigOff : Nat
  candOff : Nat
  shape : Nat
  len : Nat
  ok : Bool
  deriving DecidableEq, Repr

/-- A field of the library through translation; an address that cannot be translated reads as none. -/
def State.libAt (s : State) (fe quad : Nat) (base : DWord) (off n : Nat) : Option Nat :=
  match s.stewardPa fe quad false (base + BitVec.ofNat 64 off) with
  | .ok pa => some (s.loadN pa n)
  | .error _ => none

/-- The header of a lodging's library, with the header checks of R205. An unreadable or missing library is malformed. -/
def State.library (s : State) (fe quad : Nat) : Lib :=
  match (s.lod fe).lib with
  | none => ⟨fe, quad, 0, 0, 0, 0, 0, 0, 0, 0, 0, 0, false⟩
  | some b =>
    let f := fun off n => (s.libAt fe quad b off n).getD 0
    let nodes := f 4 4
    let plans := f 8 4
    let trigs := f 0xC 4
    let no := f 0x10 8
    let po := f 0x18 8
    let tr := f 0x20 8
    let ca := f 0x28 8
    let len := f 0x38 8
    let within := fun o n => decide (64 ≤ o) && decide (o + n ≤ len)
    ⟨fe, quad, b, nodes, plans, trigs, no, po, tr, ca, f 0x30 4, len,
      (s.libAt fe quad b 0 4).isSome && f 0 4 == 1 && len % 64 == 0 && within no (16 * nodes) && within po (32 * plans) &&
        within tr (8 * trigs) && within ca 0⟩

/-- A field at an offset of the library. -/
def State.libF (s : State) (l : Lib) (off n : Nat) : Nat := (s.libAt l.fe l.quad l.base off n).getD 0

/-- A plan entry. -/
structure PlanEntry where
  id : Nat
  node : Nat
  required : DWord
  forbidden : DWord
  deriving DecidableEq, Repr

/-- The k-th plan entry. -/
def State.planAt (s : State) (l : Lib) (k : Nat) : PlanEntry :=
  let o := l.planOff + 32 * k
  ⟨s.libF l o 2, s.libF l (o + 2) 2 % 4096, BitVec.ofNat 64 (s.libF l (o + 8) 8), BitVec.ofNat 64 (s.libF l (o + 16) 8)⟩
/-- The plan entry of an id. -/
def State.planOf (s : State) (l : Lib) (id : Nat) : Option PlanEntry :=
  ((upto l.plans).map (s.planAt l)).find? (fun p => p.id == id)
/-- The candidates of a trigger in declaration order; none when the library has no such trigger. -/
def State.candidates (s : State) (l : Lib) (kind key : Nat) : Option (Nat × Nat) :=
  ((upto l.triggers).map (fun k =>
    let o := l.trigOff + 8 * k
    (s.libF l o 1 % 4, s.libF l (o + 2) 2, s.libF l (o + 4) 2, s.libF l (o + 6) 1))).find?
      (fun t => t.1 == kind && t.2.1 == key) |>.map (fun t => (t.2.2.1, t.2.2.2))
/-- The context of a plan applies to a fact word (R191). -/
def applies (f required forbidden : DWord) : Bool := f &&& required == required && f &&& forbidden == 0

/-- What a lookup finds (R191, R205). -/
inductive Found where
  | malformed
  | none
  | plan (p : PlanEntry)
  deriving DecidableEq, Repr

/-- The first plan of a candidate list that applies. -/
def State.firstPlan (s : State) (l : Lib) (f : DWord) : List Nat → Found
  | [] => .none
  | c :: cs => match s.planOf l c with
    | none => .malformed
    | some p => if l.nodes ≤ p.node then .malformed else if applies f p.required p.forbidden then .plan p else s.firstPlan l f cs

/-- Selection for a trigger (R191). -/
def State.select (s : State) (a : Ag) (kind key : Nat) : Found :=
  let l := s.library a.fe a.quad
  if !l.ok then .malformed
  else match s.candidates l kind key with
  | none => .none
  | some (first, n) =>
    if l.len < l.candOff + 2 * (first + n) then .malformed
    else s.firstPlan l (s.facts a) ((upto n).map (fun k => s.libF l (l.candOff + 2 * (first + k)) 2))

/-- The code address of a node. -/
def State.nodeCode (s : State) (l : Lib) (node : Nat) : DWord := BitVec.ofNat 64 (s.libF l (l.nodeOff + 16 * node) 8)

/-! ### Activations (R192) -/

/-- The saved register run of a frame (R187). -/
def State.savedRun (s : State) (a : Ag) (b : DWord) : List (Nat × Word) :=
  let h := s.frame a b 0x18 4
  if h / 2 ^ 30 % 2 == 0 then []
  else (upto (h / 2 ^ 16 % 16 + 1)).map (fun k => (h / 2 ^ 20 % 1024 + k, BitVec.ofNat 32 (s.frame a b (0x40 + 4 * k) 4)))

/-- Emit the activation of a slot's top frame to the Coach of the home quad. -/
def State.emit (s : State) (a : Ag) (i : Nat) (args : List Word) : State :=
  let st := s.status a i
  let b := s.top a i
  let act : Activation := ⟨a.fe, a.h, i, st.depth, st.plan, s.frame a b 0x1C 4 % 4096, args, s.savedRun a b,
    b + 0x80, false, 0, 0, 0⟩
  s.onQuad a.quad (fun q => { q with emitted := q.emitted ++ [act] })

/-- A suspended slot's wake condition holds: ready, and its activation is emitted (R194). -/
def State.wakeSlot (s : State) (a : Ag) (i : Nat) (args : List Word) : State :=
  let s := s.onLod a.fe (fun l => { l with mbxWakes := l.mbxWakes.filter (fun w => !(w.2.1 == a.h && w.2.2 == i)) })
  let st := s.status a i
  let s := s.setFrame a (s.top a i) 0x1B 1 (s.frame a (s.top a i) 0x1B 1 % 128)
  (s.setStatus a i { st with state := 1, kind := 0 }).emit a i args

/-- Write a new frame on a slot and make it ready (R191): the block was taken already. -/
def State.pushFrame (s : State) (a : Ag) (i depth : Nat) (b : DWord) (goal : Option DWord) (p : PlanEntry) (failed : Bool)
    (args : List Word) : State :=
  let l := s.library a.fe a.quad
  let parent := if depth = 0 then 0 else s.top a i
  let s := s.setFrame a b 0 8 (s.nodeCode l p.node).toNat
  let s := s.setFrame a b 8 8 parent.toNat
  let s := s.setFrame a b 0x10 8 (goal.getD 0).toNat
  let s := s.setFrame a b 0x18 4 p.id
  let s := s.setFrame a b 0x1C 4 p.node
  let s := s.setRec a (slotOff i + 0x20) 8 b.toNat
  let st := s.status a i
  let s := if depth = 0 then
      let s := s.setRec a (slotOff i + 8) 8 (goal.getD 0).toNat
      let s := s.setRec a (slotOff i + 0x10) 8 p.required.toNat
      let s := s.setRec a (slotOff i + 0x18) 8 p.forbidden.toNat
      s.setStatus a i ⟨1, goal.isSome, 0, failed, 0, 0, p.id⟩
    else s.setStatus a i ⟨1, st.goalValid, depth, failed, 0, 0, p.id⟩
  let s := if failed then s.onLod a.fe (fun l => { l with failFrames := b :: l.failFrames }) else s
  s.emit a i args

/-! ### Failure (R193, R195, R196) -/

/-- Mark a slot failed with a cause: 1 context, 2 goal, 3 drop. -/
def State.markFailed (s : State) (a : Ag) (i cause : Nat) : State :=
  s.setStatus a i { s.status a i with state := 4, cause := cause }

/-- The origin rule of R193: a valid origin makes its frame resume with status 1; otherwise the goal is discarded and counted. -/
def State.originRule (s : State) (a : Ag) (g : DWord) : State :=
  match goalOrigin g with
  | some (slot, _) => s.wakeSlot a slot [1, 0, 0, BitVec.ofNat 32 (goalId g)]
  | none => (s.setRec a 4 4 ((s.recF a 4 4 + 1) % 2 ^ 32)).setRec a 0x10 2 (goalId g)

/-- Apply the failure recorded in a slot (R196): the state, and the goal-failed condition it raises, if any. -/
def State.applyFailure (s : State) (a : Ag) (i : Nat) : State × List SelWork :=
  let st := s.status a i
  let b := s.top a i
  match st.cause with
  | 1 =>
    let g := s.rootGoal a i
    let s := s.freeSlot a i
    if !st.goalValid then (s, [])
    else if (s.goals a).length < 16 then (s.setGoals a (s.goals a ++ [g]), [])
    else (s, [.goalFailed g false])
  | 2 =>
    let g := BitVec.ofNat 64 (s.frame a b 0x10 8)
    if st.depth = 0 then
      let s := s.freeSlot a i
      (s, if st.goalValid then [.goalFailed g st.failAdopted] else [])
    else
      let parent := BitVec.ofNat 64 (s.frame a b 8 8)
      let s := s.freeBlock a b
      let s := s.setRec a (slotOff i + 0x20) 8 parent.toNat
      let low := s.frame a parent 0x18 4 % 65536
      (s.setStatus a i ⟨3, st.goalValid, st.depth - 1, (s.lod a.fe).failFrames.contains parent, 3, 0, low⟩,
        [.goalFailed g st.failAdopted])
  | _ => (s.freeSlot a i, [])

/-- Fail a slot with a cause: a suspended slot at once, another at its next leaving instruction (R194). -/
def State.failSlot (s : State) (a : Ag) (i cause : Nat) : State × List SelWork :=
  let st := (s.status a i).state
  let s := s.markFailed a i cause
  if st = 3 then s.applyFailure a i else (s, [])

/-- Test every watch (R195): the slots whose context no longer applies fail; the suspended ones among them, to apply. -/
def State.testWatches (s : State) (a : Ag) : List Nat → State × List Nat
  | [] => (s, [])
  | i :: is =>
    let st := s.status a i
    let req := BitVec.ofNat 64 (s.recF a (slotOff i + 0x10) 8)
    let forb := BitVec.ofNat 64 (s.recF a (slotOff i + 0x18) 8)
    if (st.state == 1 || st.state == 2 || st.state == 3) && !applies (s.facts a) req forb then
      let r := (s.markFailed a i 1).testWatches a is
      (r.1, if st.state == 3 then i :: r.2 else r.2)
    else s.testWatches a is

/-- Apply failures in ascending slot order. -/
def State.applyAll (s : State) (a : Ag) : List Nat → State × List SelWork
  | [] => (s, [])
  | i :: is =>
    let r := s.applyFailure a i
    let q := r.1.applyAll a is
    (q.1, r.2 ++ q.2)

/-- Wake the kind-2 suspensions on a fact, ascending (R190, R200). -/
def State.wakeFacts (s : State) (a : Ag) (key : Nat) (new : Bool) : List Nat → State
  | [] => s
  | i :: is =>
    let st := s.status a i
    if st.state == 3 && st.kind == 2 && s.recF a (slotOff i + 0x28) 8 == key then
      (s.wakeSlot a i [if new then 1 else 0, 0, 0, BitVec.ofNat 32 key]).wakeFacts a key new is
    else s.wakeFacts a key new is

/-- A fact was put or retracted (R188, R190): watches, failures and wakes in order, then the event, if any. -/
def State.factChanged (s : State) (a : Ag) (key : Nat) (old new : Bool) : State × List SelWork :=
  let w := s.testWatches a (upto 8)
  let f := w.1.applyAll a w.2
  let s := if old != new then f.1.wakeFacts a key new (upto 8) else f.1
  let ev := if old == new then [] else [SelWork.event (if new then .put else .ret) key 1]
  (s, f.2 ++ ev)

end Sys2Proof.Machine
end

