-- ==== Sys2Proof/Machine/Serve.lean ====
section
/-! DEFINITION. The Steward's service of class-5 requests (R181 to R204): handle and intention checks, each request's own effect,
the selections it needs, and what the deliberation unit does with them (R190 to R193, R348, R423). -/

namespace Sys2Proof.Machine

open Sys2Proof

/-! ### What serving a request gives -/

/-- A request refused with a cause, or performed: the state, the reply, and the selections to make in order. -/
inductive Served where
  | no (c : BitVec 6)
  | yes (s : State) (value : Nat) (work : List SelWork)

/-- The agent a handle operand names (R181): bits [31:24] are 0, the handle is not 0, and the record exists. -/
def State.agentOf (s : State) (fe : Nat) (w : Word) : Except (BitVec 6) Ag :=
  let h := (w.extractLsb' 0 24).toNat
  if w.extractLsb' 24 8 != 0 || h = 0 || decide ((s.lod fe).hmax < h) then .error 0x28 else s.agent fe h

/-- Every frame of a slot can be translated (R389), checked before any effect. -/
def State.slotFault (s : State) (a : Ag) (i : Nat) : Option (BitVec 6) :=
  if (s.status a i).state == 0 then none else s.framesFault a (s.top a i) 8

/-- The first cause among the frames of several slots. -/
def State.slotsFault (s : State) (a : Ag) : List Nat → Option (BitVec 6)
  | [] => none
  | i :: is => match s.slotFault a i with | some c => some c | none => s.slotsFault a is

/-- Perform when the frames of the slots it touches can be translated. -/
def State.withFrames (s : State) (a : Ag) (is : List Nat) (go : Served) : Served :=
  match s.slotsFault a is with | some c => .no c | none => go

/-! ### Beliefs and goals (R188, R189, R197) -/

/-- A fact takes a new value (R188, R190): the store, the watches, failures, wakes, then the event. -/
def State.putFact (s : State) (a : Ag) (key : Nat) (new : Bool) : Served :=
  let old := (s.facts a).getLsbD key
  let f := if new then s.facts a ||| bitMask key else s.facts a &&& ~~~ bitMask key
  let s' := s.setRec a 8 8 f.toNat
  let hit := (upto 8).filter (fun i =>
    let st := s.status a i
    st.state == 3 && ((st.kind == 2 && old != new && s.recF a (slotOff i + 0x28) 8 == key) ||
      !applies f (BitVec.ofNat 64 (s.recF a (slotOff i + 0x10) 8)) (BitVec.ofNat 64 (s.recF a (slotOff i + 0x18) 8))))
  s.withFrames a hit <|
    let r := s'.factChanged a key old new
    .yes r.1 0 r.2

/-- A valued belief is put (R188). -/
def State.putBelief (s : State) (a : Ag) (key : Nat) (v : DWord) : Served :=
  match s.beliefAt a key with
  | some k =>
    let old := s.belief a key
    .yes (s.setRec a (0x308 + 16 * k) 8 v.toNat) 0 (if old == v then [] else [.event .put key v])
  | none =>
    let n := s.recF a 0x12 1
    match s.beliefAt a 0 with
    | none => .no 0x29
    | some k =>
      if n = 192 then .no 0x29
      else
        let s := s.setRec a (0x300 + 16 * k) 8 key
        let s := s.setRec a (0x308 + 16 * k) 8 v.toNat
        .yes (s.setRec a 0x12 1 (n + 1)) 0 [.event .put key v]

/-- A valued belief is retracted (R188). -/
def State.dropBelief (s : State) (a : Ag) (key : Nat) : Served :=
  match s.beliefAt a key with
  | none => .yes s 0 []
  | some k =>
    let old := s.belief a key
    let s := s.zeroRange (a.pa + 0x300 + 16 * k) 16
    .yes (s.setRec a 0x12 1 (s.recF a 0x12 1 - 1)) 0 [.event .ret key old]

/-- A goal entry is queued (R185, R197). -/
def State.addGoal (s : State) (a : Ag) (g : DWord) : Served :=
  if g.extractLsb' 20 12 != 0 || decide (16 ≤ (s.goals a).length) then .no 0x2A
  else .yes (s.setGoals a (s.goals a ++ [g])) 0 []

/-- Queued goals with an id are removed (R197). -/
def State.doneGoals (s : State) (a : Ag) (gid : Nat) : Served :=
  let keep := (s.goals a).filter (fun g => goalId g != gid)
  .yes (s.setGoals a keep) ((s.goals a).length - keep.length) []

/-! ### Intentions (R194, R198 to R202) -/

/-- Slot and depth of an intention word. -/
def intentSlot (w : Word) : Nat := (w.extractLsb' 0 3).toNat
/-- Depth of an intention word. -/
def intentDepth (w : Word) : Nat := (w.extractLsb' 4 3).toNat
/-- The zero bits of an intention word are 0 (R19, R181). -/
def intentOk (w : Word) : Bool := w.extractLsb' 7 9 == 0 && !w.getLsbD 3

/-- A ready, running or suspended intention fails with a cause (R194, R197, R202). -/
def State.failBy (s : State) (a : Ag) (w : Word) (cause : Nat) : Served :=
  let i := intentSlot w
  let st := s.status a i
  if st.state = 0 || st.state = 4 || (cause = 2 && st.depth != intentDepth w) then .no 0x2C
  else s.withFrames a (if st.state = 3 then [i] else []) <|
    let r := s.failSlot a i cause
    .yes r.1 0 r.2

/-- `int.adopt` (R202): plan, context, slot and block in order. A library found malformed refuses it (log entry 20). -/
def State.adopt (s : State) (a : Ag) (spec : DWord) : Served :=
  let l := s.library a.fe a.quad
  if !l.ok then .no 0x2D
  else match s.planOf l (spec.extractLsb' 0 16).toNat with
  | none => .no 0x2E
  | some p =>
    if l.nodes ≤ p.node then .no 0x2D
    else if !applies (s.facts a) p.required p.forbidden then .yes s 8 []
    else match s.freeSlots a with
    | [] => .no 0x2B
    | i :: _ => match s.takeBlock a with
      | .none => .no 0x2B
      | .fault c => .no c
      | .ok b s => .yes (s.pushFrame a i 0 b none p false [spec.extractLsb' 32 32, 0, 4, BitVec.ofNat 32 p.id]) i []

/-- Wake a suspended intention of kind 0 (R200). -/
def State.resume (s : State) (a : Ag) (w arg : Word) : Served :=
  let i := intentSlot w
  let st := s.status a i
  if st.state == 3 && st.kind == 0 then s.withFrames a [i] (.yes (s.wakeSlot a i [arg, 0, 0, 0]) 1 []) else .yes s 0 []

/-- The status word and word 0 of the root goal (R202). -/
def State.info (s : State) (a : Ag) (w : Word) : Served :=
  let i := intentSlot w
  .yes s (s.recF a (slotOff i) 4 + 2 ^ 32 * s.recF a (slotOff i + 8) 4) []

/-- Save a leaving thread's continuation in the top frame (R187, R199): node, address, and the run when there is one. -/
def State.saveFrame (s : State) (a : Ag) (i node : Nat) (run : List (Nat × Word)) (suspended : Bool) : State :=
  let b := s.top a i
  let l := s.library a.fe a.quad
  let low := s.frame a b 0x18 4 % 65536
  let head := low + (match run with
    | [] => 0
    | (r, _) :: _ => (run.length - 1) * 2 ^ 16 + r % 1024 * 2 ^ 20 + 2 ^ 30) + (if suspended then 2 ^ 31 else 0)
  let s := s.setFrame a b 0 8 (s.nodeCode l node).toNat
  let s := s.setFrame a b 0x18 4 head
  let s := s.setFrame a b 0x1C 4 node
  s.setFrame a b 0x40 (4 * run.length) (wordsNat (run.map (·.2)))

/-- The node of a control word. -/
def nodeOf (c : Word) : Nat := (c.extractLsb' 16 12).toNat

/-- A node is beyond the library, or there is no library to name it (R199, R205). -/
def State.badNode (s : State) (a : Ag) (node : Nat) : Bool :=
  let l := s.library a.fe a.quad
  !l.ok || decide (l.nodes ≤ node)

/-- `int.susp` (R200). -/
def State.suspend (s : State) (a : Ag) (i : Nat) (ctl : Word) (wake : DWord) (run : List (Nat × Word)) : Served :=
  let kind := (ctl.extractLsb' 11 2).toNat
  let st := s.status a i
  let go := fun (s : State) =>
    let s := s.saveFrame a i (nodeOf ctl) run true
    let s := s.setRec a (slotOff i + 0x28) 8 wake.toNat
    s.setStatus a i { st with state := 3, kind := kind }
  if s.badNode a (nodeOf ctl) then .no 0x2D
  else match kind with
  | 1 =>
    if wake.extractLsb' 0 3 != 0 then .no 0x2F
    else match s.reach a.fe a.quad ⟨false, false, false⟩ wake with
    | .error c => .no c
    | .ok t => match s.pageKind a.fe t with
      | .device | .window (some _) =>
        let s := go s
        if s.isFull t.pa then .yes (s.wakeSlot a i [0, 0, 0, 0]) 0 []
        else .yes (s.onLod a.fe (fun l => { l with mbxWakes := l.mbxWakes ++ [(t.pa, a.h, i)] })) 0 []
      | .window none => .no 0x12
      | _ => .no 0x30
  | 2 => if wake.extractLsb' 6 58 != 0 then .no 0x2F else .yes (go s) 0 []
  | _ => .yes (go s) 0 []

/-- `plan.sub` (R201): node, goal operand, then depth and frame block (log entry 21); the block is kept for the selection. -/
def State.subgoal (s : State) (a : Ag) (i : Nat) (ctl : Word) (g : DWord) (run : List (Nat × Word)) : Served :=
  let st := s.status a i
  if s.badNode a (nodeOf ctl) then .no 0x2D
  else if g.extractLsb' 20 12 != 0 then .no 0x2A
  else if 7 ≤ st.depth then .no 0x2B
  else if s.select a 0 (goalId g) == .malformed then .no 0x2D
  else match s.takeBlock a with
  | .none => .no 0x2B
  | .fault c => .no c
  | .ok b s =>
    let s := s.saveFrame a i (nodeOf ctl) run true
    let s := s.setStatus a i { st with state := 3, kind := 3 }
    .yes s 0 [.subgoal (withOrigin g i st.depth) b]

/-- `plan.ret` (R201). -/
def State.planReturn (s : State) (a : Ag) (i : Nat) (v : Word) : Served :=
  let st := s.status a i
  let b := s.top a i
  if st.depth = 0 then .yes (s.freeSlot a i) 0 []
  else
    let g := BitVec.ofNat 64 (s.frame a b 0x10 8)
    let parent := BitVec.ofNat 64 (s.frame a b 8 8)
    let s := s.freeBlock a b
    let s := s.setRec a (slotOff i + 0x20) 8 parent.toNat
    let low := s.frame a parent 0x18 4 % 65536
    let s := s.setStatus a i ⟨3, st.goalValid, st.depth - 1, (s.lod a.fe).failFrames.contains parent, 3, 0, low⟩
    .yes (s.wakeSlot a i [0, v, 0, BitVec.ofNat 32 (goalId g)]) 0 []

/-- `step` (R201). -/
def State.stepTo (s : State) (a : Ag) (i : Nat) (node : Word) : Served :=
  if node.extractLsb' 12 20 != 0 || s.badNode a node.toNat then .no 0x2D
  else
    let s := s.saveFrame a i node.toNat [] false
    let st := s.status a i
    .yes ((s.setStatus a i { st with state := 1 }).emit a i [0, 0, 0, 0]) 0 []

/-- A leaving instruction (R194, R196, R198): slot, depth, state and runner match; a failed intention takes its recorded failure
in place of the instruction's effect. -/
def State.leaveBy (s : State) (a : Ag) (r : Req) (w : Word) (go : Nat → Served) : Served :=
  let i := intentSlot w
  let st := s.status a i
  if st.depth != intentDepth w || !(st.state = 2 || st.state = 4) || !s.ranBy a i r.party r.thread then .no 0x2C
  else s.withFrames a [i] <|
    if st.state = 4 then
      let f := s.applyFailure a i
      .yes f.1 0 f.2
    else go i

/-! ### Agents (R204) -/

/-- `agt.new` at the issuing quad's Steward: the head of its free list, or 0. -/
def State.newAgent (s : State) (fe quad : Nat) (facts : DWord) : Served :=
  let l := s.lod fe
  let hd := sget (0, 0) l.heads quad
  if hd.1 = 0 then .yes s 0 []
  else match s.agent fe hd.1 with
  | .error c => .no c
  | .ok a =>
    let next := s.recF a 4 4 % 2 ^ 24
    let s := s.zeroRange a.pa 4096
    let s := s.setRec a 0 4 (hd.1 + 2 ^ 24)
    let s := s.setRec a 8 8 facts.toNat
    let s := s.onLod fe (fun l => { l with heads := sset (0, 0) l.heads quad (next, if next = 0 then 0 else hd.2) })
    .yes s hd.1 []

/-- `agt.free`: every intention dropped, the record free, the handle at the tail of its quad's list. -/
def State.freeAgent (s : State) (a : Ag) : Served :=
  s.withFrames a (upto 8) <|
    let s := (upto 8).foldl (fun s i => if (s.status a i).state == 0 then s else s.freeSlot a i) s
    let s := s.zeroRange a.pa 4096
    let s := s.setRec a 0 4 a.h
    let hd := sget (0, 0) (s.lod a.fe).heads a.quad
    let s := if hd.1 = 0 then s else match s.agent a.fe hd.2 with
      | .ok t => s.setRec t 4 4 a.h
      | .error _ => s
    .yes (s.onLod a.fe (fun l => { l with
      heads := sset (0, 0) l.heads a.quad (if hd.1 = 0 then (a.h, a.h) else (hd.1, a.h)) })) 0 []

/-! ### Serving (R181, R182) -/

/-- A leaving instruction. -/
def AgentOp.leaves : AgentOp → Bool
  | .intSusp _ _ _ | .planSub _ _ _ | .planRet _ | .step _ => true
  | _ => false

/-- The effect of a request on an allocated agent. -/
def State.serveOn (s : State) (a : Ag) (r : Req) (op : AgentOp) (w : Word) : Served :=
  let intent := fun (go : Served) => if intentOk w then go else .no 0x2C
  match op with
  | .belPut key v => if key < 64 then s.putFact a key (v != 0) else s.putBelief a key v
  | .belRet key => if key < 64 then s.putFact a key false else s.dropBelief a key
  | .belGet key => .yes s (s.belief a key).toNat []
  | .belFacts => .yes s (s.facts a).toNat []
  | .belTst key => .yes s (if s.present a key then 1 else 0) []
  | .goalAdd g => s.addGoal a g
  | .goalDone gid => s.doneGoals a gid
  | .goalFail => intent (s.failBy a w 2)
  | .intAdopt spec => s.adopt a spec
  | .intDrop => intent (s.failBy a w 3)
  | .intSusp c wake run => intent (s.leaveBy a r w (fun i => s.suspend a i c wake run))
  | .intResm arg => intent (s.resume a w arg)
  | .planSub c g run => intent (s.leaveBy a r w (fun i => s.subgoal a i c g run))
  | .planRet v => intent (s.leaveBy a r w (fun i => s.planReturn a i v))
  | .step n => intent (s.leaveBy a r w (fun i => s.stepTo a i n))
  | .intInfo => intent (s.info a w)
  | .agtNew _ => .no 0x28
  | .agtFree => s.freeAgent a
  | .exitEnd => .no 0x28

/-- A request at its Steward (R181, R204): `agt.new` names no agent; a leaving instruction on a handle that is not allocated is a
context-failure exit without further effect. -/
def State.serve (s : State) (r : Req) (op : AgentOp) (h w : Word) : Served :=
  match op with
  | .agtNew f => s.newAgent r.fe (quadOfCore (coreOfLane r.lane)) f
  | _ => match s.agentOf r.fe h with
    | .error c => if c == 0x28 && op.leaves && h.extractLsb' 24 8 == 0 && h != 0 then .yes s 0 [] else .no c
    | .ok a =>
      if s.allocated a then s.serveOn a r op w else if op.leaves then .yes s 0 [] else .no 0x28

/-- The end request of an `exit` (R203): the failure recorded, or a drop; nothing when the agent is gone or the slot is run by
another thread. -/
def State.serveEnd (s : State) (r : Req) (h w : Word) : State × List SelWork :=
  match s.agentOf r.fe h with
  | .error _ => (s, [])
  | .ok a =>
    let i := intentSlot w
    let st := (s.status a i).state
    if !s.allocated a || !s.ranBy a i r.party r.thread then (s, [])
    else if st = 4 then s.applyFailure a i
    else if st = 1 || st = 2 then (s.markFailed a i 3).applyFailure a i
    else (s, [])

/-! ### Selection (R190, R191, R193, R348, R423) -/

/-- What a selection gives: the state, a fault that R423 delivers, and further work before what is queued. -/
structure Selected where
  s : State
  kept : Option (BitVec 6)
  more : List SelWork

/-- The goal arguments of an activation (R192): argument, word 0, 0 or 1 for a failure plan, id. -/
def goalArgs (g : DWord) (kind : Word) : List Word := [g.extractLsb' 32 32, g.extractLsb' 0 32, kind, BitVec.ofNat 32 (goalId g)]

/-- The event is lost and counted (R191). -/
def State.loseEvent (s : State) (a : Ag) : State := s.setRec a 0x14 4 ((s.recF a 0x14 4 + 1) % 2 ^ 32)

/-- A belief event (R191, R192). -/
def State.selectBelief (s : State) (a : Ag) (kind : EvKind) (key : Nat) (v : DWord) : Selected :=
  let k := if kind = .put then 2 else 3
  match s.select a k key with
  | .malformed => ⟨s, some 0x2D, []⟩
  | .none => ⟨s, none, []⟩
  | .plan p => match s.freeSlots a with
    | [] => ⟨s.loseEvent a, none, []⟩
    | i :: _ => match s.takeBlock a with
      | .none => ⟨s.loseEvent a, none, []⟩
      | .fault c => ⟨s.loseEvent a, some c, []⟩
      | .ok b s => ⟨s.pushFrame a i 0 b none p false
          [v.extractLsb' 0 32, v.extractLsb' 32 32, BitVec.ofNat 32 k, BitVec.ofNat 32 key], none, []⟩

/-- Service of the goal queue (R190): the head, while a slot is free. -/
def State.serveQueue (s : State) (a : Ag) : Selected :=
  match headGoal (s.goals a), s.freeSlots a with
  | some g, i :: _ =>
    let out := fun (s : State) => s.setGoals a (dropGoal g (s.goals a))
    match s.select a 0 (goalId g) with
    | .malformed => ⟨out s, some 0x2D, [.serve]⟩
    | .none => ⟨out s, none, [.goalFailed g false, .serve]⟩
    | .plan p => match s.takeBlock a with
      | .none => ⟨s, none, []⟩
      | .fault c => ⟨s, some c, []⟩
      | .ok b s => ⟨(out s).pushFrame a i 0 b (some g) p false (goalArgs g 0), none, [.serve]⟩
  | _, _ => ⟨s, none, []⟩

/-- The goal-failed condition (R191, R193). -/
def State.goalFailed (s : State) (a : Ag) (g : DWord) (adopted : Bool) : Selected :=
  if adopted then ⟨s.originRule a g, none, []⟩
  else match s.select a 1 (goalId g) with
  | .malformed => ⟨s, some 0x2D, []⟩
  | .none => ⟨s.originRule a g, none, []⟩
  | .plan p =>
    let place := match goalOrigin g with
      | some (i, d) => some (i, d + 1)
      | none => match s.freeSlots a with | i :: _ => some (i, 0) | [] => none
    match place with
    | none => ⟨s.originRule a g, none, []⟩
    | some (i, d) => match s.takeBlock a with
      | .none => ⟨s.originRule a g, none, []⟩
      | .fault c => ⟨s.originRule a g, some c, []⟩
      | .ok b s => ⟨s.pushFrame a i d b (some g) p true (goalArgs g 1), none, []⟩

/-- The goal event of a subgoal (R191, R201): a frame on its origin, or the goal-failed condition. -/
def State.selectSub (s : State) (a : Ag) (g b : DWord) : Selected :=
  match s.select a 0 (goalId g), goalOrigin g with
  | .plan p, some (i, d) => ⟨s.pushFrame a i (d + 1) b (some g) p false (goalArgs g 0), none, []⟩
  | .malformed, _ => ⟨s.freeBlock a b, some 0x2D, []⟩
  | _, _ => ⟨s.freeBlock a b, none, [.goalFailed g false]⟩

/-- One selection. -/
def State.doSelect (s : State) (a : Ag) : SelWork → Selected
  | .event k key v => s.selectBelief a k key v
  | .serve => s.serveQueue a
  | .goalFailed g adopted => s.goalFailed a g adopted
  | .subgoal g b => s.selectSub a g b

/-- The work a request leaves: its selections, then the service of the queue when it is not empty. -/
def State.workOf (s : State) (fe : Nat) (h : Word) (work : List SelWork) : List SelWork :=
  match s.agentOf fe h with
  | .ok a => if s.allocated a && !(s.goals a).isEmpty && !(s.freeSlots a).isEmpty then work ++ [.serve] else work
  | .error _ => work

/-! ### Acceptance (R183, R286, R348) -/

/-- The Steward has finished a request: an end request is gone, a leaving thread leaves, another thread's reply is to come. -/
def State.finishAgent (s : State) (n : Nat) : State :=
  match sfind s.reqs n with
  | none => s
  | some r => match r.kind, r.phase with
    | .agent op _ _, .reply v =>
      if r.isEnd then s.dropReq n
      else if op.leaves then
        ((s.dropReq n).onParty r.party (fun x => x.leave (bitMask r.thread))).answer r []
      else s.accept n r (.reply v)
    | _, _ => s

/-- Queue a request's selections; the request waits for the last one, its reply kept. -/
def State.queueWork (s : State) (q n : Nat) (r : Req) (v h : Nat) (work : List SelWork) : State :=
  let s := s.onReq n (fun r => { r with phase := .reply v })
  match work with
  | [] => s.finishAgent n
  | _ => (s.onReq n (fun r => { r with phase := .selecting })).onQuad q (fun k =>
      { k with fifo := k.fifo ++ work.map (fun w => ⟨r.fe, h, some (n, v), w⟩) })

/-- The Steward of a quad may serve a request on a handle (R23, R348): nothing is being emitted or selected for the agent, and the
deliberation FIFO has room. -/
def State.stewardFree (s : State) (q h fe : Nat) : Bool :=
  let k := s.quad q
  k.emitted.isEmpty && !k.fifo.any (fun i => i.fe == fe && i.handle == h) && decide (k.fifo.length < 64)

/-- Acceptance of a class-5 request. -/
def State.acceptAgent (s : State) (n : Nat) (r : Req) (op : AgentOp) (h w : Word) : State :=
  let q := s.reqHome r
  let hn := (h.extractLsb' 0 24).toNat
  if !s.stewardFree q hn r.fe then s
  else match s.serve r op h w with
  | .no c => s.refuse n r c 0
  | .yes s v work => s.queueWork q n r v hn (s.workOf r.fe h work)

end Sys2Proof.Machine
end

