-- ==== Sys2Proof/Machine/Accept.lean ====
section
/-! DEFINITION. The steps of the homes and Stewards: HOME_ACCEPTANCE, MAILBOX_STORE_PERFORM, LOAD_RESULT_WRITE,
WRITE_ACKNOWLEDGED, STEWARD_REPLY, EXIT_END_REQUEST, PLAN_SELECTION and FABRIC_TIMEOUT. A step that is not enabled changes
nothing (log entry 5). -/

namespace Sys2Proof.Machine

open Sys2Proof

/-! ### Mailbox fills (R179, R200, R306, R307) -/

/-- Wake the intentions of a lodging that wait on a word (R200): the handles and slots registered for it. -/
def State.wakeWaiters (s : State) (fe : Nat) : List (Nat × Nat × Nat) → State
  | [] => s
  | (_, h, i) :: ws =>
    (match s.agent fe h with | .ok a => s.wakeSlot a i [0, 0, 0, 0] | .error _ => s).wakeWaiters fe ws

/-- A word has become full and stays full: the kind-1 waits on it wake. -/
def State.wakeMailbox (s : State) (pa : Nat) : State :=
  (s.lods.map (fun e => e.1)).foldl (fun s fe =>
    s.wakeWaiters fe ((s.lod fe).mbxWakes.filter (fun w => w.1 == pa))) s

/-- Fill a word (R179): the oldest waiting load takes the value, and otherwise the word is full. -/
def State.fill (s : State) (pa v : Nat) : State :=
  let s := s.storeN pa v 8
  let s := match s.oldestLd pa with
    | some (n, r) => ((s.setFull pa false).acquire r).onReq n (fun q => { q with phase := .reply v })
    | none => (s.setFull pa true).wakeMailbox pa
  s.napWake [pa / 64]

/-! ### `log.app` and `rec.emit` at their homes (R231, R232) -/

/-- Append a record (R232): 0x31 when the log has no room; the record's own page is translated with the party's rights. -/
def State.logAppend (s : State) (n : Nat) (r : Req) (pa : Nat) (words : List Word) : State :=
  let base := BitVec.ofNat 64 (s.loadN pa 8)
  let cap := s.loadN (pa + 8) 4
  let next := s.loadN (pa + 0x10) 8
  let used := (next + 2 ^ 64 - s.loadN (pa + 0x18) 8) % 2 ^ 64
  if cap = 0 || cap ≤ used then s.refuse n r 0x31 0
  else
    let va := base + BitVec.ofNat 64 (32 * (next % cap))
    let user := match s.party? r.party with | some x => x.user | none => true
    match s.reach r.fe (s.reqHome r) ⟨true, false, user⟩ va with
    | .error c => s.refuse n { r with va := va } c 1
    | .ok t => match pageRefuses r.fe (s.pageKind r.fe t) ⟨32, true, true, .plain⟩ with
      | some c => s.refuse n { r with va := va } c 1
      | none =>
        let s := s.storeN t.pa (wordsNat words) 32
        let s := (s.storeN (pa + 0x10) ((next + 1) % 2 ^ 64) 8).napWake [t.pa / 64, pa / 64]
        s.accept n r (.reply (next % 2 ^ 32))

/-- Records in a quad's store (R349). -/
def Quad.records (q : Quad) : Nat := q.emitted.length + (q.buckets.map (fun e => e.2.length)).sum

/-- A detached record at its Coach (R231): the handle, the node, then the fill of the store. -/
def State.emitDetached (s : State) (n : Nat) (r : Req) (act : Activation) : State :=
  let q := s.reqHome r
  let bad := if act.handle = 0 then none
    else match s.agentOf r.fe (BitVec.ofNat 32 act.handle) with
      | .error c => some c
      | .ok a => if s.allocated a then none else some 0x28
  let l := s.library r.fe q
  match bad with
  | some c => s.refuse n r c 0
  | none =>
    if !l.ok || decide (l.nodes ≤ act.node) then s.refuse n r 0x2D 0
    else if 229376 ≤ (s.quad q).records then s.refuse n r 0x27 0
    else (s.onQuad q (fun k => { k with emitted := k.emitted ++ [act] })).accept n r (.reply 0)

/-! ### HOME_ACCEPTANCE (R272) -/

/-- `ld.rc` on a remote page (R170): a copy may serve it; otherwise the line is fetched and kept. -/
def State.acceptRc (s : State) (n : Nat) (r : Req) (pa : Nat) : State :=
  let line := pa / 64
  let word := fun (bs : List Byte) => ((bs.drop (pa % 64)).take 4).foldr (fun b v => b.toNat + 256 * v) 0
  let f := s.freeWord
  match s.copyOf r line, f.1.getLsbD 0 with
  | some bs, true => f.2.accept n r (.reply (word bs))
  | _, _ => match f.2.homeCheck r with
    | (s, some (c, i)) => s.refuse n r c i
    | (s, none) =>
      let bs := (List.range 64).map (fun k => s.byteAt (64 * line + k))
      (s.onParty r.party (fun x => { x with rcCopies := sput x.rcCopies line bs })).accept n r (.reply (word bs))

/-- A thread's write to a window page is remembered for its next `fence.win` (R317). -/
def State.winWrote (s : State) (r : Req) : State :=
  let ws := (r.pieces.filterMap (fun q => match s.ownerOf q.1 with | .window w => some w | _ => none)).dedup
  s.onParty r.party (fun x => { x with
    winWrites := (x.winWrites ++ r.owners.flatMap (fun o => ws.map (fun w => (o.1, w)))).dedup })

/-- The effect of a request whose checks have passed. -/
def State.perform (s : State) (n : Nat) (r : Req) (pa : Nat) : State :=
  match r.kind with
  | .load size sx => (s.record r).accept n r (.reply (extendLoad size sx (s.readFor r)))
  | .store _ data =>
    let s := s.record r
    (if r.win then s.winWrote r else s.storePieces data r.pieces).accept n r .unacked
  | .atom op b c =>
    let n8 := if op = .add64 then 8 else 4
    let old := s.loadN pa n8
    let s := ((s.storeN pa (atomNew op old b.toNat c.toNat) n8).lineWrite (pa / 64)).acquire r
    if r.flag.isNone then s.accept n r .unacked else (s.napWake [pa / 64]).accept n r (.reply old)
  | .mbxLd =>
    if s.isFull pa then
      let d := s.drain pa
      (d.2.acquire r).accept n r (.reply d.1)
    else s.enqueue n r
  | .mbxSt v =>
    if s.isFull pa || (s.oldestSt pa).isSome then s.enqueue n r else ((s.dropReq n).fill pa v.toNat).answer r []
  | .mbxTst => s.accept n r (.reply (if s.isFull pa then 1 else 0))
  | .logApp words => s.logAppend n r pa words
  | .rcLoad => s.acceptRc n r pa
  | .agent _ _ _ => s
  | .emit _ => s

/-- HOME_ACCEPTANCE (R272): a home takes the first request of its lane, after its checks; a load or store that needs a record in a
full set waits (R297). -/
def execHomeAcceptance (n : Nat) (s : State) : Host.Outcome State Fault Refusal :=
  State.event (match sfind s.reqs n with
  | none => s
  | some r =>
    if r.phase != .sent || r.isEnd || !s.firstAtHome n r then s
    else match r.kind with
    | .agent op h w => s.acceptAgent n r op h w
    | .emit act => s.emitDetached n r act
    | .rcLoad => s.acceptRc n r ((r.pieces.headD (0, 0)).1)
    | _ =>
      if r.recorded && (s.conflict r).isNone && s.tagFull r then s
      else match s.homeCheck r with
      | (s, some (c, i)) => s.refuse n r c i
      | (s, none) => s.perform n r ((r.pieces.headD (0, 0)).1))

/-- MAILBOX_STORE_PERFORM (R179, R307): the oldest store that waits at a word fills it once it is empty. -/
def execMailboxStorePerform (n : Nat) (s : State) : Host.Outcome State Fault Refusal :=
  State.event (match sfind s.reqs n with
  | none => s
  | some r => match r.kind, r.pieces with
    | .mbxSt v, (pa, _) :: _ => match s.oldestSt pa with
      | some (k, _) => if k = n && r.party != 0 && !s.isFull pa then (s.dropReq n).fill pa v.toNat else s
      | none => s
    | _, _ => s)

/-- A reply of a Steward to a class-5 request. -/
def Req.isAgent (r : Req) : Bool := match r.kind with | .agent _ _ _ => true | _ => false

/-- LOAD_RESULT_WRITE (R14, R165): the data of an accepted request reaches its destination and its flag count falls. -/
def execLoadResultWrite (n : Nat) (s : State) : Host.Outcome State Fault Refusal :=
  State.event (match sfind s.reqs n with
  | none => s
  | some r => match r.phase with
    | .reply v => if r.isAgent || r.party = 0 then s else s.deliver n r v
    | _ => s)

/-- STEWARD_REPLY (R181, R288): the reply of a class-5 request. -/
def execStewardReply (n : Nat) (s : State) : Host.Outcome State Fault Refusal :=
  State.event (match sfind s.reqs n with
  | none => s
  | some r => match r.phase with
    | .reply v => if r.isAgent then s.deliver n r v else s
    | _ => s)

/-- An earlier window write of the thread to one of the lines is still on its way (R166, R376). -/
def State.winBehind (s : State) (n : Nat) (r : Req) : Bool :=
  s.reqs.any (fun e => decide (e.1 < n) && e.2.win && e.2.phase == .unacked && e.2.party == r.party &&
    (linesOf e.2.pieces).any (fun l => (linesOf r.pieces).contains l))

/-- WRITE_ACKNOWLEDGED (R294, R306, R315, R376): a write is acknowledged, its line and counters in memory; a window write takes its place now; naps on its line wake, and
the records of regions that have ended are released. -/
def execWriteAcknowledged (n : Nat) (s : State) : Host.Outcome State Fault Refusal :=
  State.event (match sfind s.reqs n with
  | none => s
  | some r =>
    if r.phase != .unacked || (r.win && s.winBehind n r) then s
    else
      let s := match r.win, r.kind with
        | true, .store _ data => s.storePieces data r.pieces
        | _, _ => s
      (((s.dropReq n).linesWrite (linesOf r.pieces)).napWake (linesOf r.pieces)).releaseRegions r.party r.owners)

/-- FABRIC_TIMEOUT (R364): a remote request unanswered 200 µs after issue raises 0x39. -/
def execFabricTimeout (n : Nat) (s : State) : Host.Outcome State Fault Refusal :=
  State.event (match sfind s.reqs n with
  | none => s
  | some r =>
    if r.phase == .sent && r.pieces.any (fun q => q.1 / 2 ^ 44 != s.pkg.number) && decide (400000 ≤ s.now - r.issued) then
      s.refuse n r 0x39 (if r.writes then 1 else 0)
    else s)

/-- A thread's writes are all acknowledged, window writes apart. -/
def State.threadAcked (s : State) (p t : Nat) : Bool :=
  !s.reqs.any (fun e => e.2.party == p && e.2.owners.any (fun o => o.1 == t) && !e.2.win && e.2.openWrite)

/-- EXIT_END_REQUEST (R203, R290): the Steward performs the drop of an exited thread after that thread's writes. -/
def execExitEndRequest (n : Nat) (s : State) : Host.Outcome State Fault Refusal :=
  State.event (match sfind s.reqs n with
  | none => s
  | some r => match r.kind with
    | .agent .exitEnd h w =>
      let hn := (h.extractLsb' 0 24).toNat
      let q := s.reqHome r
      if r.phase != .sent || !s.threadAcked r.party r.thread || !s.stewardFree q hn r.fe then s
      else
        let e := s.serveEnd r h w
        e.1.queueWork q n r 0 hn (e.1.workOf r.fe h e.2)
    | _ => s)

/-- A fault of a selection (R423): in the Logbook always, and at the request's thread unless it has left. -/
def State.keepFault (s : State) (fe quad : Nat) (req : Option (Nat × Nat)) (c : BitVec 6) : State :=
  let s := s.log c.toNat fe quad 0
  match req with
  | none => s
  | some (n, _) => match sfind s.reqs n with
    | none => s
    | some r =>
      let leaves := match r.kind with | .agent op _ _ => op.leaves | _ => false
      if r.held && !leaves then s.onParty r.party (fun x => { x with homeFaults := x.homeFaults ++ [r.fault c 4 true] }) else s

/-- PLAN_SELECTION (R191, R348): the deliberation unit of a quad makes the selection at the head of its FIFO, once the activation of
the one before has reached the Coach. A request is accepted with its last selection. -/
def execPlanSelection (q : Nat) (s : State) : Host.Outcome State Fault Refusal :=
  State.event (match (s.quad q).fifo with
  | [] => s
  | i :: is =>
    if !(s.quad q).emitted.isEmpty then s
    else
      let r : Selected := match s.agent i.fe i.handle with
        | .ok a => s.doSelect a i.work
        | .error c => ⟨s, some c, []⟩
      let rest := r.more.map (fun w => { i with work := w }) ++ is
      let s := r.s.onQuad q (fun k => { k with fifo := rest })
      let s := match r.kept with | some c => s.keepFault i.fe q i.req c | none => s
      match i.req with
      | none => s
      | some (n, v) =>
        if rest.any (fun j => j.req == i.req) then s
        else (s.onReq n (fun r => { r with phase := .reply v })).finishAgent n)

end Sys2Proof.Machine
end

