-- ==== Sys2Proof/Machine/Agents.lean ====
section
/-! DEFINITION. Class 5 at the lane: operands, the lane's own checks, and the requests sent to the home Steward
(10_isa_agent.md, R181, R182, R198, R199). What a Steward does with a request is in Home.lean. -/

namespace Sys2Proof.Machine

open Sys2Proof

/-- The handle an operand holds (R181). -/
def Party.handleOf (p : Party) (t : Nat) (a : Reg) : Word := p.reg32 t 0 a
/-- The intention word of an intention pair (R181). -/
def Party.intentOf (p : Party) (t : Nat) (a : Reg) : Word := (p.reg64 t a).extractLsb' 32 32
/-- The key in the low half of a 32-bit operand (R182). -/
def keyOf (w : Word) : Nat := (w.extractLsb' 0 16).toNat

/-- A class-5 word (R181, R183): the lane's checks for every thread, the release of the thread's earlier writes, the end of
its region, then one request a thread. A leaving thread is not eligible until its Steward has accepted it. -/
def State.agentOps (s : State) (m : Mods) (regs : List (Reg × Nat)) (leaves flagged : Bool)
    (lane : Party → Nat → Option (BitVec 6)) (req : Party → Nat → Word × Word × AgentOp) (dest : Party → Dest) :
    Host.Outcome State Fault Refusal :=
  s.issue fun p x => s.alloc p x m regs <|
    let ts := threadsOf x.width x.m0
    let bad := ts.filterMap (fun t => match lane x t with | some c => some (t, (0 : DWord), c.toNat, c) | none => none)
    if bad.isEmpty then s.whenSynced p x ts true false <|
      let s := s.endSync p ts false
      let s := if leaves then s.onParty p (fun y => { y with leaving := y.leaving ||| x.m0 }) else s
      ts.foldl (fun s t =>
        let r := req x t
        s.send p ⟨if flagged then some x.flagA else none, true, true, false⟩ t false 0 [] false
          (.agent r.2.2 r.1 r.2.1) (dest x)) s
    else s.raiseLane p x false false bad

/-- A request named by a handle. -/
def State.byHandle (s : State) (m : Mods) (regs : List (Reg × Nat)) (a : Reg) (op : Party → Nat → AgentOp)
    (dest : Party → Dest) : Host.Outcome State Fault Refusal :=
  s.agentOps m ((a, 1) :: regs) false true (fun _ _ => none) (fun x t => (x.handleOf t a, 0, op x t)) dest

/-- A request named by an intention pair. -/
def State.byIntent (s : State) (m : Mods) (regs : List (Reg × Nat)) (a : Reg) (op : Party → Nat → AgentOp)
    (dest : Party → Dest) : Host.Outcome State Fault Refusal :=
  s.agentOps m ((a, 2) :: regs) false true (fun _ _ => none)
    (fun x t => ((x.reg64 t a).setWidth 32, x.intentOf t a, op x t)) dest

/-- The thread may not execute a leaving instruction (R198): a grid party, or a detached record. -/
def Party.mayNotLeave (p : Party) (t : Nat) : Bool := !p.plan || bitOf p.detached t

/-- A leaving instruction. -/
def State.leaving (s : State) (m : Mods) (regs : List (Reg × Nat)) (a : Reg) (run : Party → Nat → Bool)
    (op : Party → Nat → AgentOp) : Host.Outcome State Fault Refusal :=
  s.agentOps m ((a, 2) :: regs) true false
    (fun x t => if x.mayNotLeave t then some 0x2C else if run x t then some 0x2F else none)
    (fun x t => ((x.reg64 t a).setWidth 32, x.intentOf t a, op x t)) (fun _ => .none)

/-- The saved run of a control word (R199): the first register and the count. -/
def runOf (c : Word) : Nat × Nat := ((c.extractLsb' 0 7).toNat, (c.extractLsb' 7 4).toNat + 1)

/-- The control word breaks R199; `maxKind` is the highest wake kind it may name. -/
def Party.badRun (p : Party) (c : Word) (maxKind : Nat) : Bool :=
  let r := runOf c
  decide (0x5F < r.1) || decide (95 < r.1 + r.2 - 1) || decide (p.limit ≤ p.base + r.1 + r.2 - 1) ||
    c.extractLsb' 13 3 != 0 || c.extractLsb' 28 4 != 0 || decide (maxKind < (c.extractLsb' 11 2).toNat)

/-- The registers a leaving thread saves, by physical index (R199). -/
def Party.saveRun (p : Party) (t : Nat) (c : Word) : List (Nat × Word) :=
  let r := runOf c
  (upto r.2).map (fun k => (p.base + r.1 + k, p.vphys t (p.base + r.1 + k)))

/-- `bel.put` (R182, R188). -/
def execBelPut (m : Mods) (d a : Reg) (b : Src) (s : State) : Host.Outcome State Fault Refusal :=
  s.byHandle m ((d, 1) :: srcRun b 2) a (fun x t => .belPut (keyOf (x.reg32 t 0 d)) (x.src64 t b)) (fun _ => .none)

/-- `bel.ret` (R182, R188). -/
def execBelRet (m : Mods) (d a : Reg) (s : State) : Host.Outcome State Fault Refusal :=
  s.byHandle m [(d, 1)] a (fun x t => .belRet (keyOf (x.reg32 t 0 d))) (fun _ => .none)

/-- `bel.get` (R182, R189). -/
def execBelGet (m : Mods) (d a : Reg) (b : Src) (s : State) : Host.Outcome State Fault Refusal :=
  s.byHandle m ((d, 2) :: srcRun b 1) a (fun x t => .belGet (keyOf (x.src32 t 0 b))) (fun x => x.destOf d 2)

/-- `bel.facts` (R182, R189). -/
def execBelFacts (m : Mods) (d a : Reg) (s : State) : Host.Outcome State Fault Refusal :=
  s.byHandle m [(d, 2)] a (fun _ _ => .belFacts) (fun x => x.destOf d 2)

/-- `bel.tst` (R182, R189). -/
def execBelTst (m : Mods) (d : MaskReg) (a : Reg) (b : Src) (s : State) : Host.Outcome State Fault Refusal :=
  s.byHandle m (srcRun b 1) a (fun x t => .belTst (keyOf (x.src32 t 0 b))) (fun _ => .mask d.val)

/-- `goal.add` (R182, R197). -/
def execGoalAdd (m : Mods) (a b : Reg) (s : State) : Host.Outcome State Fault Refusal :=
  s.byHandle m [(b, 2)] a (fun x t => .goalAdd (x.reg64 t b)) (fun _ => .none)

/-- `goal.done` (R182, R197). -/
def execGoalDone (m : Mods) (d a : Reg) (b : Src) (s : State) : Host.Outcome State Fault Refusal :=
  s.byHandle m ((d, 1) :: srcRun b 1) a (fun x t => .goalDone (keyOf (x.src32 t 0 b))) (fun x => x.destOf d 1)

/-- `goal.fail` (R182, R197). -/
def execGoalFail (m : Mods) (a : Reg) (s : State) : Host.Outcome State Fault Refusal :=
  s.byIntent m [] a (fun _ _ => .goalFail) (fun _ => .none)

/-- `int.adopt` (R182, R202). -/
def execIntAdopt (m : Mods) (d a b : Reg) (s : State) : Host.Outcome State Fault Refusal :=
  s.byHandle m [(d, 1), (b, 2)] a (fun x t => .intAdopt (x.reg64 t b)) (fun x => x.destOf d 1)

/-- `int.drop` (R182, R202). -/
def execIntDrop (m : Mods) (a : Reg) (s : State) : Host.Outcome State Fault Refusal :=
  s.byIntent m [] a (fun _ _ => .intDrop) (fun _ => .none)

/-- `int.susp` (R182, R198 to R200): wake kind 3 breaks the control word. -/
def execIntSusp (m : Mods) (d a b : Reg) (s : State) : Host.Outcome State Fault Refusal :=
  s.leaving m [(d, 1), (b, 2)] a (fun x t => x.badRun (x.reg32 t 0 d) 2)
    (fun x t => .intSusp (x.reg32 t 0 d) (x.reg64 t b) (x.saveRun t (x.reg32 t 0 d)))

/-- `int.resm` (R182, R200). -/
def execIntResm (m : Mods) (d a : Reg) (b : Src) (s : State) : Host.Outcome State Fault Refusal :=
  s.byIntent m ((d, 1) :: srcRun b 1) a (fun x t => .intResm (x.src32 t 0 b)) (fun x => x.destOf d 1)

/-- `plan.sub` (R182, R199, R201): its control word has kind 0. -/
def execPlanSub (m : Mods) (d a b : Reg) (s : State) : Host.Outcome State Fault Refusal :=
  s.leaving m [(d, 1), (b, 2)] a (fun x t => x.badRun (x.reg32 t 0 d) 0)
    (fun x t => .planSub (x.reg32 t 0 d) (x.reg64 t b) (x.saveRun t (x.reg32 t 0 d)))

/-- `plan.ret` (R182, R201). -/
def execPlanRet (m : Mods) (a : Reg) (b : Src) (s : State) : Host.Outcome State Fault Refusal :=
  s.leaving m (srcRun b 1) a (fun _ _ => false) (fun x t => .planRet (x.src32 t 0 b))

/-- `step` (R182, R199, R201). -/
def execStep (m : Mods) (a : Reg) (b : Src) (s : State) : Host.Outcome State Fault Refusal :=
  s.leaving m (srcRun b 1) a (fun _ _ => false) (fun x t => .step (x.src32 t 0 b))

/-- `int.info` (R182, R202). -/
def execIntInfo (m : Mods) (d a : Reg) (s : State) : Host.Outcome State Fault Refusal :=
  s.byIntent m [(d, 2)] a (fun _ _ => .intInfo) (fun x => x.destOf d 2)

/-- `agt.new` (R182, R204): it names no agent. -/
def execAgtNew (m : Mods) (d : Reg) (b : Src) (s : State) : Host.Outcome State Fault Refusal :=
  s.agentOps m ((d, 1) :: srcRun b 2) false true (fun _ _ => none) (fun x t => (0, 0, .agtNew (x.src64 t b)))
    (fun x => x.destOf d 1)

/-- `agt.free` (R182, R204). -/
def execAgtFree (m : Mods) (a : Reg) (s : State) : Host.Outcome State Fault Refusal :=
  s.byHandle m [] a (fun _ _ => .agtFree) (fun _ => .none)

end Sys2Proof.Machine
end

