-- ==== Sys2Proof/Machine/Place.lean ====
section
/-! DEFINITION. Residency (R15, R16, R30 to R34, R346, R347, R351 to R353, R370): the room of a core, seating a crew, eviction
and switch-out, hand-over of a core between lodgings, power tokens. -/

namespace Sys2Proof.Machine

open Sys2Proof

/-! ### Room on lanes (R15) -/

/-- A lane as the distributors see it: its global number, the parties on it and their registers in words. -/
structure Room where
  lane : Nat
  count : Nat
  words : Nat
  deriving DecidableEq, Repr

/-- The lanes of a core that hold user parties: lane 63 of core 3 of a quad is the Steward's (R15). -/
def lanesOf (c : Nat) : List Nat := (List.range (if c % 4 = 3 then 63 else 64)).map (64 * c + ·)

/-- A party holds registers on its lane. -/
def Party.seated (p : Party) : Bool := p.life == .resident || p.life == .halted
/-- The words of the register file a party takes. -/
def Party.words (p : Party) : Nat := p.width * p.rt

/-- The lanes of a core with what they hold. -/
def State.rooms (s : State) (c : Nat) : List Room :=
  let here := (s.parties.map (fun e => e.2)).filter (fun x => x.seated && coreOfLane x.lane == c)
  (lanesOf c).map (fun l =>
    let ps := here.filter (fun x => x.lane == l)
    ⟨l, ps.length, (ps.map Party.words).sum⟩)

/-- How many more parties of `w` words a lane takes (R15). -/
def Room.more (r : Room) (w : Nat) : Nat := min (8 - r.count) ((8192 - r.words) / w)

/-- One pass over the lanes, one party each while any is left: the lanes taken, the lanes after it, and the parties left. -/
def fillPass (w : Nat) : Nat → List Room → List Nat × List Room × Nat
  | n, [] => ([], [], n)
  | 0, rs => ([], rs, 0)
  | n + 1, r :: rs =>
    if 0 < r.more w then
      let t := fillPass w n rs
      (r.lane :: t.1, { r with count := r.count + 1, words := r.words + w } :: t.2.1, t.2.2)
    else
      let t := fillPass w (n + 1) rs
      (t.1, r :: t.2.1, t.2.2)

/-- The lanes of `n` parties in order (R346): from lane 0 upward, one a lane before any lane takes a second. -/
def fillLanes (w : Nat) : Nat → Nat → List Room → List Nat
  | 0, _, _ => []
  | f + 1, n, rs =>
    if n = 0 then [] else
      let t := fillPass w n rs
      t.1 ++ fillLanes w f t.2.2 t.2.1

/-- The number of parties of `w` words a core could take at once (R346). -/
def State.capacity (s : State) (c w : Nat) : Nat := ((s.rooms c).map (fun r => r.more w)).sum

/-! ### Hand-over between lodgings (R370) -/

/-- Nothing of the former lodging is on a core: no resident crew, no owned item, no queued engine command. -/
def State.coreFree (s : State) (c : Nat) : Bool :=
  let k := s.core c
  !s.crews.any (fun e => e.2.core == some c && e.2.life == .resident) &&
    k.tiles.all (fun e => e.2.owner.isNone) && k.mx.all (fun e => e.2.owner.isNone && e.2.queue.isEmpty) &&
    k.env.all (fun e => e.2.owner.isNone) && k.envQ.isEmpty && k.porter.all (fun e => e.2.isEmpty) &&
    s.banks.all (fun e => e.2.queue.all (fun l => l.core != c) && (match e.2.run with | some l => l.core != c | none => true))

/-- A core may serve a lodging. -/
def State.mayServe (s : State) (c fe : Nat) : Bool :=
  match (s.core c).fe with | none => true | some f => f == fe || s.coreFree c

/-- A core passes to a lodging: the former one's timelines are kept, and the newcomer's loaded. -/
def Core.handOver (c : Core) (fe : Nat) : Core :=
  match c.fe with
  | none => { c with fe := some fe }
  | some f =>
    if f = fe then c
    else
      let now := sget ([], []) c.savedTl fe
      { c with
        savedTl := sset ([], []) (sset ([], []) c.savedTl f (c.issued, c.done)) fe ([], [])
        issued := now.1
        done := now.2
        fe := some fe }

/-! ### Power tokens (R351) -/

/-- A core takes two tokens, if it has none and the pool has them. -/
def State.takeTokens (s : State) (c : Nat) : State :=
  if (s.core c).tokens || decide (s.pkg.pool < s.pkg.tokensHeld + 2) then s
  else (s.onCore c (fun k => { k with tokens := true })).onPkg (fun k => { k with tokensHeld := k.tokensHeld + 2 })

/-! ### Seating (R30, R346, R347) -/

/-- The words of a crew's parties. -/
def State.crewWords (s : State) (k : Crew) : Nat :=
  match k.parties.filterMap s.party? with | x :: _ => x.words | [] => 1

/-- The parties of a crew that have not retired, in ascending position. -/
def State.crewAlive (s : State) (k : Crew) : List Nat := k.parties.filter (fun p => (s.party? p).isSome)

/-- A core has room for a whole crew. -/
def State.hasRoom (s : State) (k : Crew) (c : Nat) : Bool :=
  s.mayServe c k.fe && decide ((s.crewAlive k).length ≤ s.capacity c (s.crewWords k))

/-- Of two cores, the one a crew of parties of `w` words goes to: most free capacity, then tokens held, then the lower number. -/
def State.betterCore (s : State) (w a b : Nat) : Nat :=
  let ca := s.capacity a w
  let cb := s.capacity b w
  if ca = cb then (if (s.core b).tokens && !(s.core a).tokens then b else a) else if ca < cb then b else a

/-- The best of a list of cores. -/
def State.bestOf (s : State) (w : Nat) : List Nat → Option Nat
  | [] => none
  | c :: cs => match s.bestOf w cs with | none => some c | some d => some (s.betterCore w c d)

/-- The cores of a quad. -/
def coresOf (q : Nat) : List Nat := (List.range 4).map (4 * q + ·)

/-- The cores a crew may run on: its own when it is pinned, any of its quad otherwise (R30). -/
def Crew.cores (k : Crew) : List Nat :=
  if k.pinned then (match k.core with | some c => [c] | none => coresOf k.quad) else coresOf k.quad

/-- The core a crew would go to now. -/
def State.coreFor (s : State) (k : Crew) : Option Nat := s.bestOf (s.crewWords k) (k.cores.filter (s.hasRoom k))

/-- The lowest free resident slot of a lane. -/
def State.freeSlotOn (s : State) (l : Nat) : Nat :=
  let used := (s.parties.map (fun e => e.2)).filter (fun x => x.seated && x.lane == l)
  ((List.range 8).find? (fun k => used.all (fun x => x.rslot != k))).getD 0

/-- A party becomes resident on a lane with a new issue age, and its lane-cycles count (R10, R264). -/
def State.seat (s : State) (p l : Nat) : State :=
  let r := s.freeSlotOn l
  s.onParty p (fun x => { x with
    lane := l
    rslot := r
    life := if x.life == .halted then .halted else .resident
    age := s.now
    gap := 0
    giveWay := false
    hold := false
    parkedAt := s.now
    cycSince := some s.now })

/-- Seat parties on lanes. -/
def State.seatAll (s : State) : List (Nat × Nat) → State
  | [] => s
  | (p, l) :: es => (s.seat p l).seatAll es

/-- A crew becomes resident on a core (R30, R347, R370). -/
def State.admitCrew (s : State) (crew c : Nat) : State :=
  match s.crew? crew with
  | none => s
  | some k =>
    let ps := s.crewAlive k
    let lanes := fillLanes (s.crewWords k) 8 ps.length (s.rooms c)
    let s := s.onCore c (fun x => { x.handOver k.fe with idleSince := none })
    let s := s.takeTokens c
    let s := s.seatAll (ps.zip lanes)
    let s := { s with dieFifo := (s.dieFifo.map (fun (e : Nat × List Nat) => (e.1, e.2.filter (· != crew)))).filter (fun (e : Nat × List Nat) => !e.2.isEmpty) }
    s.onCrew crew (fun k => { k with core := some c, life := .resident, since := s.now })

/-! ### Leaving a core (R30, R352, R353) -/

/-- A party leaves its lane: its lane-cycles stop, its `ld.rc` copies are dropped (R170), and the cycles left of a nap's timeout
are kept. -/
def State.unseat (s : State) (x : Party) (next : Life) : Party :=
  let park := match x.park with
    | .nap ls (some n) a m => Park.nap ls (some (n - (s.now - x.parkedAt) / s.cycle)) a m
    | k => k
  { s.stopCyc x with life := if x.life == .halted then .halted else next, rcCopies := [], park := park, hold := false }

/-- A crew leaves its core for the save area: evicted when every party is parked, switched out otherwise. -/
def State.removeCrew (s : State) (crew : Nat) : State :=
  match s.crew? crew with
  | none => s
  | some k =>
    let ps := s.crewAlive k
    let parked := ps.all (fun p => match s.party? p with | some x => x.park != .none | none => true)
    let next := if parked then Life.evicted else Life.switchedOut
    let s := ps.foldl (fun s p => s.onParty p (fun x => s.unseat x next)) s
    let s := match k.core with
      | some c => s.onCore c (fun x => { x with idleSince := some s.now })
      | none => s
    s.onCrew crew (fun k => { k with life := next, since := s.now, core := if k.pinned then k.core else none })

/-- A crew can be evicted: it is resident and every party of it is parked (R30). -/
def State.evictable (s : State) (k : Crew) : Bool :=
  k.life == .resident && (s.crewAlive k).all (fun p => match s.party? p with
    | some x => x.park != .none && x.life == .resident | none => true)

/-- Of two crews, the one that leaves first: lower priority, then the one that stands there longest. -/
def Crew.before (a b : Crew) : Bool := decide (a.prio < b.prio) || (a.prio == b.prio && decide (a.since ≤ b.since))

/-- The crew of a list that leaves first. -/
def firstOut : List (Nat × Crew) → Option (Nat × Crew)
  | [] => none
  | e :: es => match firstOut es with | none => some e | some f => some (if e.2.before f.2 then e else f)

/-- Remove crews that `may` leave from a core, one at a time, until a crew has room there; none when that never helps. -/
def State.makeRoom (s : State) (k : Crew) (c : Nat) (may : State → Nat × Crew → Bool) : Nat → Option State
  | 0 => none
  | f + 1 =>
    if s.hasRoom k c then some s
    else match firstOut (s.crews.filter (fun e => e.2.core == some c && e.2.life == .resident && may s e)) with
    | none => none
    | some e => (s.removeCrew e.1).makeRoom k c may f

/-- The first core of a list on which room can be made. -/
def State.roomOn (s : State) (k : Crew) (may : State → Nat × Crew → Bool) : List Nat → Option (State × Nat)
  | [] => none
  | c :: cs => match s.makeRoom k c may 600 with | some t => some (t, c) | none => s.roomOn k may cs

/-- The parked crews that a pending crew may evict (R352). -/
def mayEvict (k : Crew) (s : State) (e : Nat × Crew) : Bool := decide (e.2.prio ≤ k.prio) && s.evictable e.2

/-! ### Gangs (R347) -/

/-- The crews that are admitted together with a crew: those of its extent that are pending. -/
def State.gangOf (s : State) (crew : Nat) (k : Crew) : List Nat :=
  match k.grid with
  | none => [crew]
  | some g =>
    let scope := match sfind s.launches g with | some l => l.desc.scope | none => 0
    (s.crews.filter (fun e => e.2.grid == some g && e.2.life == .pending && e.2.extent e.1 scope == k.extent crew scope)).map (·.1)

/-- Part of a crew's extent has not been cut into crews yet. -/
def State.extentOpen (s : State) (crew : Nat) (k : Crew) : Bool :=
  match k.grid with
  | none => false
  | some g =>
    let scope := match sfind s.launches g with | some l => l.desc.scope | none => 0
    0 < (s.extentParties g (k.extent crew scope) scope).2

/-- Admit every crew of a list, each after `room` has found it a core; nothing when one has none. -/
def State.admitAll (s : State) (room : State → Crew → Option (State × Nat)) : List Nat → Option State
  | [] => some s
  | c :: cs => match s.crew? c with
    | none => s.admitAll room cs
    | some k => match room s k with
      | none => none
      | some (t, core) => (t.admitCrew c core).admitAll room cs

/-- A core with room now. -/
def State.roomNow (s : State) (k : Crew) : Option (State × Nat) :=
  match s.coreFor k with | some c => some (s, c) | none => none

/-! ### The steps of admission -/

/-- CREW_ADMISSION (R347, R352, R370): a pending crew goes to the core with most room, after an eviction if need be; the crews of
a gang go together. -/
def execCrewAdmission (crew : Nat) (s : State) : Host.Outcome State Fault Refusal :=
  State.event (match s.crew? crew with
  | none => s
  | some k =>
    if k.life != .pending || (s.lod k.fe).st != .running then s
    else if k.gang then
      if s.extentOpen crew k then s else (s.admitAll State.roomNow (s.gangOf crew k)).getD s
    else match s.coreFor k with
    | some c => s.admitCrew crew c
    | none => match s.roomOn k (mayEvict k) k.cores with
      | some (t, c) => t.admitCrew crew c
      | none => s)

/-- RESTORATION (R30, R353): a switched-out or evicted crew returns to a core it may run on that has room; the waits of its
parties are tested again there. -/
def execRestoration (crew : Nat) (s : State) : Host.Outcome State Fault Refusal :=
  State.event (match s.crew? crew with
  | none => s
  | some k =>
    if (k.life == .switchedOut || k.life == .evicted) && (s.lod k.fe).st == .running then
      match s.coreFor k with | some c => s.admitCrew crew c | none => s
    else s)

/-- TOKEN_RETURN (R351): a core returns its tokens after a full period without a resident crew and an owned context. -/
def execTokenReturn (c : Nat) (s : State) : Host.Outcome State Fault Refusal :=
  State.event (
    let k := s.core c
    let idle := match k.idleSince with | some t => decide (t + 20000 ≤ s.now) | none => false
    if k.tokens && idle && k.mx.all (fun e => e.2.owner.isNone) &&
        !s.crews.any (fun e => e.2.core == some c && e.2.life == .resident) then
      (s.onCore c (fun k => { k with tokens := false })).onPkg (fun k => { k with tokensHeld := k.tokensHeld - 2 })
    else s)

/-! ### Rotation (R34, R353) -/

/-- The crews that wait to run on a core: switched-out ones, and pending ones that are not part of a gang. -/
def State.waitingFor (s : State) (c : Nat) : List (Nat × Crew) :=
  s.crews.filter (fun e => (e.2.life == .switchedOut || (e.2.life == .pending && !e.2.gang)) && e.2.cores.contains c &&
    (s.lod e.2.fe).st == .running && s.mayServe c e.2.fe)

/-- The crew that a core takes: highest priority, then the one that has waited longest. -/
def firstIn : List (Nat × Crew) → Option (Nat × Crew)
  | [] => none
  | e :: es => match firstIn es with
    | none => some e
    | some f => some (if f.2.prio < e.2.prio || (e.2.prio == f.2.prio && e.2.since ≤ f.2.since) then e else f)

/-- The resident crews a rotation may switch out for a crew: priority no higher, and of another launch. -/
def mayRotate (k : Crew) (_ : State) (e : Nat × Crew) : Bool :=
  decide (e.2.prio ≤ k.prio) && !(k.grid.isSome && e.2.grid == k.grid && k.gang)

/-- One core's rotation. -/
def State.rotateCore (s : State) (c : Nat) : State :=
  match firstIn (s.waitingFor c) with
  | none => s
  | some (crew, k) => match s.makeRoom k c (mayRotate k) 600 with
    | some t => t.admitCrew crew c
    | none => s

/-- The gangs that wait, by one crew of each extent. -/
def State.rotateGangs (s : State) : List (Nat × Crew) → State
  | [] => s
  | (crew, k) :: es =>
    let s := if k.gang && (match s.crew? crew with | some k => k.life == .pending | none => false) && !s.extentOpen crew k &&
        (s.lod k.fe).st == .running then
        (s.admitAll (fun s k => match s.roomNow k with
          | some r => some r
          | none => s.roomOn k (mayRotate k) k.cores) (s.gangOf crew k)).getD s
      else s
    s.rotateGangs es

/-- No party stands inside a group (R279): a boundary stops parties between issues. -/
def State.betweenGroups (s : State) : Bool :=
  s.cur.isNone && s.parties.all (fun e => e.2.waitReqs == 0 && e.2.pend.isNone && e.2.ctl == .run)

/-- PERIOD_BOUNDARY (R177, R353): at each 10 µs the naps end, and each core and each gang makes room for a waiting crew. It falls
between groups. -/
def execPeriodBoundary (s : State) : Host.Outcome State Fault Refusal :=
  State.event (
    if s.now < (s.pkg.periods + 1) * 20000 || !s.betweenGroups then s
    else
      let s := s.onPkg (fun k => { k with periods := s.now / 20000 })
      let s := s.mapParties (fun _ x => match x.park with | .nap _ _ _ _ => { x with park := .none } | _ => x)
      let s := (List.range 512).foldl (fun s c => s.rotateCore c) s
      s.rotateGangs s.crews)

end Sys2Proof.Machine
end

