-- ==== Sys2Proof/Machine/Launch.lean ====
section
/-! DEFINITION. Grids (R15 to R17, R31, R229, R345, R346): the descriptor, the queues of a lodging, the distributor tree, the crews it
cuts, and the end of a grid. -/

namespace Sys2Proof.Machine

open Sys2Proof

/-! ### Descriptors (R15, R229) -/

/-- A field of a little-endian record read as one number: `n` bytes at an offset. -/
def leField (v off n : Nat) : Nat := v / 2 ^ (8 * off) % 2 ^ (8 * n)

/-- A grid descriptor of 64 bytes read as one number: none where it breaks R15 or R229. -/
def descOf (v : Nat) : Option GridDesc :=
  let w := leField v 0x14 4
  let r := leField v 0x18 4
  let code := w % 4
  let width := 16 * 2 ^ code
  let rt := 16 * (w / 2 ^ 8 % 128)
  let scope := w / 2 ^ 16 % 8
  let other := w / 4 % 64 + w / 2 ^ 15 % 2 + w / 2 ^ 24
  let count := leField v 0x10 4
  if code = 3 || rt = 0 || 1024 < rt || 4 < scope || other != 0 || 4096 ≤ r || leField v 0x1C 0x24 != 0 || count = 0 ||
      8192 < width * rt then none
  else some ⟨BitVec.ofNat 64 (leField v 0 8), BitVec.ofNat 64 (leField v 8 8), count, width, rt, scope, w / 2 ^ 19 % 2 == 1,
    w / 2 ^ 20 % 16, r⟩

/-- Parties of a descriptor that a lane takes (R15). -/
def GridDesc.perLane (d : GridDesc) : Nat := min 8 (8192 / (d.width * d.rt))

/-! ### The distributor tree (R346) -/

/-- Split `n` over shares in proportion to weights; what the division leaves goes to the lower shares, one each. -/
def splitBy (n : Nat) (ws : List Nat) : List Nat :=
  let total := ws.sum
  let base := ws.map (fun w => n * w / total)
  let left := n - base.sum
  base.zipIdx.map (fun e => if e.2 < left then e.1 + 1 else e.1)

/-- Lay parts out as contiguous ranges from `lo`. -/
def rangesFrom : Nat → List (Nat × Nat) → List (Nat × Nat × Nat)
  | _, [] => []
  | lo, (q, n) :: ps => (q, lo, n) :: rangesFrom (lo + n) ps

/-- The quads of a lodging on a die. -/
def Lodging.onDie (l : Lodging) (d : Nat) : List Nat := l.quads.filter (fun q => dieOfQuad q == d)

/-- The share of each quad of a lodging in `n` parties: first by die, then by quad. -/
def Lodging.shares (l : Lodging) (n : Nat) : List (Nat × Nat) :=
  let dies := (List.range 4).filter (fun d => !(l.onDie d).isEmpty)
  let parts := splitBy n (dies.map (fun d => (l.onDie d).length))
  (dies.zip parts).flatMap (fun e =>
    let qs := l.onDie e.1
    qs.zip (splitBy e.2 (qs.map (fun _ => 1))))

/-- A gang that could never be on its quads at once (R347). -/
def Lodging.neverFits (l : Lodging) (d : GridDesc) : Bool :=
  d.scope != 0 && (l.shares d.count).any (fun e => decide (255 * d.perLane < e.2))

/-- A descriptor that a lodging accepts (R15, R229, R347). -/
def State.gridDesc (s : State) (fe v : Nat) : Option GridDesc :=
  match descOf v with
  | none => none
  | some d => if (s.lod fe).neverFits d then none else some d

/-! ### Crews (R16, R17, R346) -/

/-- A party of a grid at its start (R10, R17). -/
def gridParty (fe crew g : Nat) (d : GridDesc) (index pos : Nat) : Party :=
  let x := Party.blank fe crew (some g) d.width d.rt d.entry
  let x := ((x.setU 1 d.args).setU 2 (BitVec.ofNat 64 index)).setU 3 (BitVec.ofNat 64 d.count)
  { x with index := index, count := d.count, posInCrew := pos, prio := d.prio }

/-- New parties of a crew with consecutive indices. -/
def State.addParties (s : State) (fe crew g : Nat) (d : GridDesc) (lo : Nat) : Nat → List Nat × State
  | 0 => ([], s)
  | n + 1 =>
    let r := s.addParties fe crew g d lo n
    let f := r.2.fresh
    (r.1 ++ [f.1], f.2.setParty f.1 (gridParty fe crew g d (lo + n) n))

/-- Replace a quad's range in a launch. -/
def Launch.setRange (l : Launch) (q lo n : Nat) : Launch :=
  let rest := l.unplaced.filter (fun u => u.1 != q)
  { l with unplaced := if n = 0 then rest else rest ++ [(q, lo, n)] }

/-- A quad distributor cuts its next crew (R346): the longest run that fits the core with the most free capacity, counted empty. -/
def State.cutCrew (s : State) (g : Nat) (l : Launch) (q : Nat) : State :=
  match l.unplaced.find? (fun u => u.1 == q) with
  | none => s
  | some (_, lo, n) =>
    let w := l.desc.width * l.desc.rt
    let c := (s.bestOf w ((coresOf q).filter (fun c => s.mayServe c l.fe))).getD (4 * q)
    let size := min n ((lanesOf c).length * l.desc.perLane)
    let f := s.fresh
    let r := f.2.addParties l.fe f.1 g l.desc lo size
    let s := { r.2 with crews := sput r.2.crews f.1 ⟨l.fe, some g, q, none, r.1, .pending, false, l.desc.prio, l.gang, s.now,
      l.desc.reserve⟩ }
    s.onLaunch g (fun l => l.setRange q (lo + size) (n - size))

/-- The range with the most indices among some, the lower quad first. -/
def mostUnplaced : List (Nat × Nat × Nat) → Option (Nat × Nat × Nat)
  | [] => none
  | u :: us => match mostUnplaced us with
    | none => some u
    | some v => some (if u.2.2 < v.2.2 || (u.2.2 == v.2.2 && v.1 < u.1) then v else u)

/-- DISTRIBUTOR_STEAL (R346): a quad without an unplaced index takes the upper half of the sibling range with most of them; when its
die has none, of another die's. -/
def Launch.steal (l : Launch) (q : Nat) : Launch :=
  let own := l.unplaced.filter (fun u => dieOfQuad u.1 == dieOfQuad q)
  match mostUnplaced (if own.isEmpty then l.unplaced else own) with
  | none => l
  | some (v, lo, n) =>
    let take := (n + 1) / 2
    (l.setRange v lo (n - take)).setRange q (lo + (n - take)) take

/-- A crew of a launch waits on a quad. -/
def State.crewWaits (s : State) (g q : Nat) : Bool :=
  s.crews.any (fun e => e.2.grid == some g && e.2.quad == q && e.2.life == .pending)

/-- A distributor acts for a launch: the first quad that may cut a crew; when none may, the first idle quad steals and cuts. -/
def State.distribute (s : State) (g : Nat) (l : Launch) : Option State :=
  let free := fun q => l.gang || !s.crewWaits g q
  match l.unplaced.find? (fun u => free u.1) with
  | some u => some (s.cutCrew g l u.1)
  | none => match (s.lod l.fe).quads.find? (fun q => !s.crewWaits g q && !l.unplaced.any (fun u => u.1 == q)) with
    | none => none
    | some q =>
      let l' := l.steal q
      if l'.unplaced.any (fun u => u.1 == q) then some ((s.onLaunch g (fun _ => l')).cutCrew g l' q) else none

/-! ### Queues (R345) -/

/-- The first grid of a priority in a queue, and the queue without it. -/
def takeGrid (p : Nat) : List GridRec → Option (GridRec × List GridRec)
  | [] => none
  | r :: rs =>
    if r.desc.prio = p then some (r, rs)
    else match takeGrid p rs with | none => none | some (g, gs) => some (g, r :: gs)

/-- The highest priority of some grids. -/
def topPrio (rs : List GridRec) : Option Nat := rs.foldl (fun m r => match m with
  | none => some r.desc.prio | some p => some (max p r.desc.prio)) none

/-- The next grid of a lodging (R345): the highest priority, the two sources in turn; the lodging without it. -/
def Lodging.nextGrid (l : Lodging) : Option (GridRec × Lodging) :=
  match topPrio (l.queue ++ l.launchQ) with
  | none => none
  | some p =>
    let fromFe := fun (g : GridRec) (q : List GridRec) => (g, { l with queue := q, lastSrc := sset 0 l.lastSrc p 1 })
    let fromDev := fun (g : GridRec) (q : List GridRec) => (g, { l with launchQ := q, lastSrc := sset 0 l.lastSrc p 2 })
    match takeGrid p l.queue, takeGrid p l.launchQ with
    | some (g, q), none => some (fromFe g q)
    | none, some (g, q) => some (fromDev g q)
    | some (g, q), some (h, r) => some (if sget 0 l.lastSrc p = 1 then fromDev h r else fromFe g q)
    | none, none => none

/-- The package distributor places a grid: its ranges go to the quads. -/
def State.placeGrid (s : State) (fe : Nat) (g : GridRec) (l : Lodging) : State :=
  let f := s.fresh
  let s := f.2.onLod fe (fun _ => l)
  let n : Launch := ⟨fe, g.desc, g.packet, rangesFrom 0 ((l.shares g.desc.count).filter (fun e => e.2 != 0)), g.desc.count,
    g.desc.scope != 0, [], false⟩
  { s with launches := sput s.launches f.1 n }

/-- The launch of a lodging with unplaced indices that is served first: highest priority, then the oldest. -/
def State.openLaunch (s : State) (fe : Nat) : Option (Nat × Launch) :=
  (s.launches.filter (fun e => e.2.fe == fe && !e.2.unplaced.isEmpty)).foldl (fun m e => match m with
    | none => some e
    | some f => some (if f.2.desc.prio < e.2.desc.prio then e else f)) none

/-- GRID_PLACEMENT (R345, R346): a distributor of a lodging cuts the next crew of the launch being placed, or the package
distributor takes the next grid. -/
def execGridPlacement (fe : Nat) (s : State) : Host.Outcome State Fault Refusal :=
  State.event (
    let l := s.lod fe
    if l.st != .running then s
    else
      let next := fun (s : State) => match l.nextGrid with | some (g, l') => s.placeGrid fe g l' | none => s
      match s.openLaunch fe with
      | none => next s
      | some (g, a) =>
        if (match topPrio (l.queue ++ l.launchQ) with | some p => decide (a.desc.prio < p) | none => false) then next s
        else match s.distribute g a with | some t => t | none => next s)

/-- DEFERRED_LAUNCH_ENQUEUE (R230): the oldest deferred record enters the launch queue once it has room. -/
def execDeferredLaunchEnqueue (fe : Nat) (s : State) : Host.Outcome State Fault Refusal :=
  State.event (
    let l := s.lod fe
    match l.deferred with
    | [] => s
    | g :: gs =>
      if 4096 ≤ l.launchQ.length then s
      else s.onLod fe (fun l => { l with deferred := gs, launchQ := l.launchQ ++ [g] }))

/-! ### The end of a grid (R31) -/

/-- The crews of a launch. -/
def State.crewsOf (s : State) (g : Nat) : List (Nat × Crew) := s.crews.filter (fun e => e.2.grid == some g)

/-- GRID_END_FLUSH (R31, R312): after its last crew a grid's writes are flushed to its scope, and the grid is complete. -/
def execGridEndFlush (g : Nat) (s : State) : Host.Outcome State Fault Refusal :=
  State.event (match sfind s.launches g with
  | none => s
  | some l =>
    let ps := (s.crewsOf g).flatMap (fun e => e.2.parties)
    let open_ := s.reqs.any (fun e => ps.contains e.2.party && e.2.openWrite && !e.2.win &&
      (l.desc.podFlush || e.2.pieces.all (fun q => q.1 / 2 ^ 44 == s.pkg.number)))
    if l.alive != 0 || !l.unplaced.isEmpty || open_ then s
    else
      let s := { s with
        launches := sdrop s.launches g
        crews := s.crews.filter (fun (e : Nat × Crew) => e.2.grid != some g) }
      match l.packet with
      | none => s
      | some k => match sfind s.packets k with
        | none => s
        | some q => { s with packets := sput s.packets k { q with stage := .complete } })

end Sys2Proof.Machine
end

