-- ==== Sys2Proof/Machine/Engines.lean ====
section
/-! DEFINITION. Class 6 at issue, functions 0x00 to 0x12: tiles, Porter and matrix commands, timelines, bank lists, launches, detached
records and log records (11_isa_engines.md, R207 to R232). What the engines do with their commands is in Porter.lean,
Matrix.lean and BankEngine.lean. -/

namespace Sys2Proof.Machine

open Sys2Proof

/-! ### Issue (R30, R207) -/

/-- A class-6 word pins its crew (R30); `go` gets the core and the party. -/
def State.engine (s : State) (go : State → Nat → Party → Nat → State) : Host.Outcome State Fault Refusal :=
  s.issue fun p x => go (s.onCrew x.crew (fun c => { c with pinned := true })) p x (coreOfLane x.lane)

/-- Write a uniform register of the issuing party. -/
def State.giveU (s : State) (p : Nat) (d : Reg) (v : DWord) : State :=
  match d with | .s n => s.onParty p (fun x => x.setU n.val v) | .v _ => s

/-- A precise fault of a party instruction that has an address (R275): every thread of m0 gets it. -/
def State.raiseAddr (s : State) (p : Nat) (x : Party) (c : BitVec 6) (a : DWord) (write : Bool) : State :=
  s.raise p (x.trapHere x.pos.m0 c x.pos.m0 (addrFor x.width x.pos.m0 a) (if write then 1 else 0))

/-- A precise fault of a party instruction. -/
def State.refuseCmd (s : State) (p : Nat) (x : Party) (c : BitVec 6) : State := s.raiseHere p c x.pos.m0 0

/-- A tile of a core. -/
def Core.tile (c : Core) (k : Nat) : Tile := sget Tile.reset c.tiles k
/-- Replace a tile. -/
def Core.setTile (c : Core) (k : Nat) (t : Tile) : Core := { c with tiles := sset Tile.reset c.tiles k t }
/-- A context of a core. -/
def Core.ctx (c : Core) (k : Nat) : MxCtx := sget MxCtx.reset c.mx k
/-- Replace a context. -/
def Core.setCtx (c : Core) (k : Nat) (x : MxCtx) : Core := { c with mx := sset MxCtx.reset c.mx k x }
/-- The issued count of an engine timeline (R209). -/
def Core.issuedOf (c : Core) (tl : Nat) : Nat := sget 0 c.issued tl
/-- The completed value of a timeline (R209, R224). -/
def Core.doneOf (c : Core) (tl : Nat) : Nat := sget 0 c.done tl
/-- Issue on an engine timeline: its count rises by one, and that is the ticket. -/
def Core.ticket (c : Core) (tl : Nat) : Nat × Core :=
  let n := (c.issuedOf tl + 1) % 2 ^ 64
  (n, { c with issued := sset 0 c.issued tl n })

/-! ### Tiles (R211, R212) -/

/-- The slot an operand names (R208): a register's whole value. -/
def Party.slotOf (p : Party) : SlotRef → Nat
  | .num n => n.val
  | .s n => (p.uni n).toNat

/-- A slot can be claimed (R31, R211): owned by no crew, and no command on it is outstanding. -/
def Tile.claimable (t : Tile) : Bool := t.owner.isNone && (t.st == .empty || (t.st == .ready && t.readers == 0))

/-- Apply a function to the tiles of a run. -/
def Core.mapTiles (c : Core) (k : Nat) (f : Tile → Tile) : Nat → Core
  | 0 => c
  | n + 1 => (c.setTile k (f (c.tile k))).mapTiles (k + 1) f n

/-- `tile.claim` (R211): the lowest run of free slots, or 64. -/
def execTileClaim (_m : Mods) (d : Reg) (b : Src) (s : State) : Host.Outcome State Fault Refusal :=
  s.engine fun s p x c =>
    let n := (x.srcZ b).toNat
    if n = 0 || 64 < n then s.refuseCmd p x 0x1D
    else
      let k := s.core c
      match (upto (65 - n)).find? (fun a => (upto n).all (fun i => (k.tile (a + i)).claimable)) with
      | none => s.giveU p d 64
      | some a =>
        (s.onCore c (fun k => k.mapTiles a (fun t => { Tile.reset with owner := some x.crew, poison := t.poison }) n)).giveU p d
          (BitVec.ofNat 64 a)

/-- `tile.rel` (R211): owned slots that are empty or ready; the issue is held while one is filling or draining. -/
def execTileRel (_m : Mods) (a : SlotRef) (b : Src) (s : State) : Host.Outcome State Fault Refusal :=
  s.engine fun s p x c =>
    let n := (x.srcZ b).toNat
    let a := x.slotOf a
    let k := s.core c
    if n = 0 || 64 < a + n || !(upto n).all (fun i => (k.tile (a + i)).owner == some x.crew) then s.refuseCmd p x 0x1D
    else if (upto n).any (fun i => (k.tile (a + i)).st == .filling || (k.tile (a + i)).st == .draining) then s.stall p
    else s.onCore c (fun k => k.mapTiles a (fun t => { Tile.reset with poison := t.poison }) n)

/-- The state code of a tile. -/
def TileSt.code : TileSt → Nat
  | .empty => 0
  | .filling => 1
  | .ready => 2
  | .draining => 3

/-- `tile.st` (R211). -/
def execTileSt (_m : Mods) (d : Reg) (a : SlotRef) (s : State) : Host.Outcome State Fault Refusal :=
  s.engine fun s p x c =>
    let a := x.slotOf a
    if 63 < a then s.refuseCmd p x 0x1D
    else
      let t := (s.core c).tile a
      s.giveU p d (BitVec.ofNat 64 (t.st.code + (if t.owner == some x.crew then 4 else 0) +
        (if t.owner.isSome then 8 else 0) + t.layout % 4 * 16))

/-- How a command uses a slot at issue (R212). -/
inductive SlotUse where
  | read | follow | write
  deriving DecidableEq, Repr

/-- What the tile table answers (R212): refused, held, or the core with the use recorded. -/
inductive Used where
  | bad
  | hold
  | ok (c : Core)

/-- Use one slot. -/
def Core.use (c : Core) (crew k : Nat) (u : SlotUse) : Used :=
  let t := c.tile k
  if 63 < k || t.owner != some crew then .bad
  else match u, t.st with
    | .read, .empty => .bad
    | .follow, .empty => .bad
    | .read, .filling => .hold
    | .follow, .filling => .ok (c.setTile k { t with readers := t.readers + 1 })
    | .write, .filling => .hold
    | .write, .draining => .hold
    | .write, _ => .ok (c.setTile k { t with st := .filling })
    | _, _ => .ok (c.setTile k { t with st := .draining, readers := t.readers + 1 })

/-- Use several slots in order: refused when one is refused, held when one is held. -/
def Core.useAll (c : Core) (crew : Nat) : List (Nat × SlotUse) → Used
  | [] => .ok c
  | (k, u) :: us => match c.use crew k u with
    | .bad => .bad
    | .hold => match c.useAll crew us with | .bad => .bad | _ => .hold
    | .ok d => d.useAll crew us

/-- Issue a command that uses slots (R211, R212). -/
def State.withSlots (s : State) (p : Nat) (x : Party) (c : Nat) (us : List (Nat × SlotUse)) (go : Core → State) : State :=
  match (s.core c).useAll x.crew us with
  | .bad => s.refuseCmd p x 0x1D
  | .hold => s.stall p
  | .ok k => go k

/-! ### The Porter at issue (R213 to R218) -/

/-- The fields of a control word (R213). -/
structure CpWord where
  slot : Nat
  fmt : Nat
  sp : Bool
  ac : Bool
  ctx : Nat
  stride : Nat
  deriving DecidableEq, Repr

/-- Read a control word. -/
def cpWord (w : DWord) : CpWord :=
  ⟨(w.extractLsb' 0 6).toNat, (w.extractLsb' 6 4).toNat, w.getLsbD 10, w.getLsbD 11, (w.extractLsb' 12 2).toNat,
    2 * (w.extractLsb' 14 18).toNat⟩

/-- The alignment of a format (R214). -/
def cpAlign (fmt : Nat) : Nat := match fmt with | 6 | 7 | 8 => 2 | 9 | 10 | 12 => 4 | _ => 1

/-- The layout a fill of a format gives: 1 c8, 2 c16, 3 c4, 0 none (R214). -/
def cpLayout (fmt : Nat) : Nat := if fmt ≤ 6 then 1 else if fmt ≤ 10 then 2 else if fmt = 11 then 3 else 0

/-- A `cp.out` from a slot of a layout may name the format (R214): its element formats, with the sideband for MX. -/
def cpOutSlot (fmt layout : Nat) : Bool :=
  match layout with | 1 => fmt ≤ 5 | 2 => fmt == 7 || fmt == 8 | 3 => fmt == 11 | _ => false

/-- A `cp.out` from a context may name the format (R214). -/
def cpOutCtx (fmt : Nat) : Bool := [0, 1, 2, 7, 8, 12].contains fmt

/-- Alignment of a command's address and stride (R213). -/
def cpMisaligned (w : CpWord) (a : DWord) : Bool := a.toNat % cpAlign w.fmt != 0 || w.stride % cpAlign w.fmt != 0

/-- Queue a Porter command: its ticket goes to D, and it waits for the party's earlier writes (R209, R218). -/
def State.queueCp (s : State) (p : Nat) (x : Party) (c : Nat) (k : Core) (d : Reg) (ctx : Nat) (a : DWord) (op : CpOp) : State :=
  let t := k.ticket ctx
  let cmd : CpCmd := ⟨t.1, x.crew, x.fe, x.user, p, a, op, 0, s.openWrites p⟩
  let k := { t.2 with porter := sset [] t.2.porter ctx (sget [] t.2.porter ctx ++ [cmd]) }
  (s.setCore c k).giveU p d (BitVec.ofNat 64 t.1)

/-- `cp.in` (R213 to R215). -/
def execCpIn (_m : Mods) (d a : Reg) (b : Src) (s : State) : Host.Outcome State Fault Refusal :=
  s.engine fun s p x c =>
    let w := cpWord (x.srcZ b)
    let ad := x.reg64 0 a
    if (x.srcZ b).extractLsb' 32 32 != 0 || w.ac then s.refuseCmd p x 0x02
    else if cpMisaligned w ad then s.raiseAddr p x 0x0E ad false
    else if cpLayout w.fmt = 0 then s.refuseCmd p x 0x1E
    else s.withSlots p x c [(w.slot, .write)] fun k =>
      let k := k.setTile w.slot { k.tile w.slot with layout := cpLayout w.fmt }
      s.queueCp p x c k d w.ctx ad (.fill w.slot w.fmt w.sp w.stride none)

/-- `cp.out` (R213 to R215): from a slot, or from a context of the crew, whose later matrix commands wait for it. -/
def execCpOut (_m : Mods) (d a : Reg) (b : Src) (s : State) : Host.Outcome State Fault Refusal :=
  s.engine fun s p x c =>
    let w := cpWord (x.srcZ b)
    let ad := x.reg64 0 a
    let k := s.core c
    if (x.srcZ b).extractLsb' 32 32 != 0 || (w.ac && 1 < w.slot) then s.refuseCmd p x 0x02
    else if cpMisaligned w ad then s.raiseAddr p x 0x0E ad true
    else if w.sp || !(if w.ac then cpOutCtx w.fmt else [1, 2, 3].any (cpOutSlot w.fmt)) then s.refuseCmd p x 0x1E
    else if w.ac then
      let m := k.ctx w.slot
      if m.owner != some x.crew then s.refuseCmd p x 0x1F
      else
        let t := k.ticket w.ctx
        let k := k.setCtx w.slot { m with queue := m.queue ++ [⟨0, x.crew, m.bind, .drain w.ctx t.1, 0⟩] }
        s.queueCp p x c k d w.ctx ad (.ctxOut w.slot w.fmt w.stride)
    else s.withSlots p x c [(w.slot, .read)] fun k =>
      if cpOutSlot w.fmt (k.tile w.slot).layout then s.queueCp p x c k d w.ctx ad (.drain w.slot w.fmt w.sp w.stride)
      else s.refuseCmd p x 0x1E

/-- The second register of a uniform pair. -/
def Party.uniNext (p : Party) (a : Reg) : DWord :=
  match a with | .s n => sget 0 p.src.u (n.val + 1) | .v _ => 0

/-- `cp.mem` (R216). A misaligned destination is named first (log entry 22). -/
def execCpMem (_m : Mods) (d a : Reg) (b : Src) (s : State) : Host.Outcome State Fault Refusal :=
  s.engine fun s p x c =>
    let w : Word := (x.srcZ b).setWidth 32
    let dst := x.reg64 0 a
    let src := x.uniNext a
    let len := (w.extractLsb' 0 26).toNat
    if w.extractLsb' 28 4 != 0 then s.refuseCmd p x 0x02
    else if dst.toNat % 4 != 0 then s.raiseAddr p x 0x0E dst true
    else if src.toNat % 4 != 0 || len % 4 != 0 then s.raiseAddr p x 0x0E src false
    else s.queueCp p x c (s.core c) d (w.extractLsb' 26 2).toNat dst (.mem src len)

/-! ### Matrix commands at issue (R219 to R222) -/

/-- The layout number of a binding, as tiles carry it. -/
def MxBind.tileLayout (b : MxBind) : Nat := b.layout + 1

/-- The largest ticket of a queued `mx.sm` on a context: a command on the other one waits for it (R323). -/
def MxCtx.lastSm (x : MxCtx) : Nat :=
  x.queue.foldl (fun m q => match q.op with | .sm _ _ => max m q.ticket | _ => m) 0

/-- Queue a matrix command on a context: its ticket, its binding, and the `mx.sm` of the other context it waits for. -/
def Core.queueMx (k : Core) (crew x : Nat) (op : MxOp) : Core :=
  let t := k.ticket (4 + x)
  let m := t.2.ctx x
  t.2.setCtx x { m with queue := m.queue ++ [⟨t.1, crew, m.bind, op, (t.2.ctx (1 - x)).lastSm⟩] }

/-- Issue on a context of the crew, else 0x1F (R219). -/
def State.onCtx (s : State) (p : Nat) (x : Party) (c d : Nat) (go : Core → MxCtx → State) : State :=
  let k := s.core c
  if (k.ctx d).owner != some x.crew then s.refuseCmd p x 0x1F else go k (k.ctx d)

/-- `mx.mma` (R220). -/
def execMxMma (_m : Mods) (d : Fin 2) (a b : SlotRef) (s : State) : Host.Outcome State Fault Refusal :=
  s.engine fun s p x c => s.onCtx p x c d.val fun _ m =>
    let a := x.slotOf a
    let b := x.slotOf b
    s.withSlots p x c [(a, .read), (b, .read)] fun k =>
      if (k.tile a).layout != m.bind.tileLayout || (k.tile b).layout != m.bind.tileLayout then s.refuseCmd p x 0x1E
      else s.setCore c (k.queueMx x.crew d.val (.mma a b))

/-- `cp.in.mx` (R217): a `cp.in` with a follow-on product, checked as `mx.mma` would be. -/
def execCpInMx (_m : Mods) (d a : Reg) (b : Src) (s : State) : Host.Outcome State Fault Refusal :=
  s.engine fun s p x c =>
    let w := cpWord (x.srcZ b)
    let ad := x.reg64 0 a
    let f := x.uniNext a
    let other := (f.extractLsb' 0 6).toNat
    let cx := (f.extractLsb' 7 1).toNat
    if (x.srcZ b).extractLsb' 32 32 != 0 || w.ac || f.extractLsb' 8 56 != 0 then s.refuseCmd p x 0x02
    else if cpMisaligned w ad then s.raiseAddr p x 0x0E ad false
    else if cpLayout w.fmt = 0 then s.refuseCmd p x 0x1E
    else s.onCtx p x c cx fun _ m =>
      s.withSlots p x c [(w.slot, .write), (other, .follow)] fun k =>
        let k := k.setTile w.slot { k.tile w.slot with layout := cpLayout w.fmt }
        if cpLayout w.fmt != m.bind.tileLayout || (k.tile other).layout != m.bind.tileLayout then s.refuseCmd p x 0x1E
        else
          let k := k.queueMx x.crew cx (.follow w.slot other (f.getLsbD 6) false false)
          s.queueCp p x c k d w.ctx ad (.fill w.slot w.fmt w.sp w.stride (some cx))

/-- The scale of `mx.sm` is a positive finite number (R221). -/
def goodScale (w : Word) : Bool := match val32 w with | .fin false n _ => n != 0 | _ => false

/-- `mx.sm` (R221). -/
def execMxSm (_m : Mods) (d : Fin 2) (a : SlotRef) (b : Src) (s : State) : Host.Outcome State Fault Refusal :=
  s.engine fun s p x c => s.onCtx p x c d.val fun k _ =>
    let w : Word := (x.srcZ b).setWidth 32
    let t := x.slotOf a
    if !goodScale w || (k.ctx (1 - d.val)).owner != some x.crew then s.refuseCmd p x 0x1F
    else if 62 < t then s.refuseCmd p x 0x1D
    else s.withSlots p x c [(t, .write), (t + 1, .write)] fun k =>
      let k := k.mapTiles t (fun t => { t with layout := 2 }) 2
      s.setCore c (k.queueMx x.crew d.val (.sm t w))

/-- `mx.rd` (R222): queued with the registers of its threads; an index above 127 raises 0x1F (log entry 23). -/
def execMxRd (m : Mods) (d : Reg) (a : Fin 2) (b : Src) (s : State) : Host.Outcome State Fault Refusal :=
  s.engine fun s p x c => s.onCtx p x c a.val fun k _ => s.alloc p x m [(d, 1)] <|
    let w := x.srcZ b
    let row := (w.extractLsb' 0 7).toNat
    let col := (w.extractLsb' 8 7).toNat
    let src := (w.extractLsb' 16 2).toNat
    let ts := match d with | .s _ => [0] | .v _ => threadsOf x.width x.m0
    if w.getLsbD 7 || w.getLsbD 15 || w.extractLsb' 18 46 != 0 then s.refuseCmd p x 0x02
    else if ts.any (fun t => decide (127 < (if src = 0 then col else row) + t)) then s.refuseCmd p x 0x1F
    else
      let lanes := ts.map (fun t => (t, x.destOf d 1, if src = 0 then col + t else row + t))
      (s.setCore c (k.queueMx x.crew a.val (.rd p lanes src row x.flagB))).onParty p (fun x => x.addFlag x.flagB)

/-- `mx.clr` (R222). -/
def execMxClr (_m : Mods) (d : Fin 2) (s : State) : Host.Outcome State Fault Refusal :=
  s.engine fun s p x c => s.onCtx p x c d.val fun k _ => s.setCore c (k.queueMx x.crew d.val .clr)

/-- The binding `mxctl` selects (R219, R263): none where the types do not fit the layout. -/
def bindOf (w : Word) : Option MxBind :=
  let l := (w.extractLsb' 0 2).toNat
  let a := (w.extractLsb' 2 3).toNat
  let b := (w.extractLsb' 5 3).toNat
  let fits := match l with
    | 0 => a ≤ 2 && b ≤ 2 && ((a == 0) == (b == 0))
    | 1 => (a == 3 || a == 4) && (b == 3 || b == 4)
    | 2 => a == 0 && b == 0
    | _ => false
  if fits then some ⟨l, a, b, w.getLsbD 8, w.getLsbD 9, w.getLsbD 10, w.getLsbD 11⟩ else none

/-- A context as `mx.clr` leaves it (R222). -/
def MxCtx.clear (x : MxCtx) : MxCtx := { x with acc := [], m := [], l := [], pend := [] }

/-- `mx.ctl` claim (R219): a context whose commands have not completed since its release cannot be claimed yet (R31) and holds the
issue, as does a core without its tokens (R351; log entry 24). -/
def execMxCtlClaim (_m : Mods) (d : Fin 2) (s : State) : Host.Outcome State Fault Refusal :=
  s.engine fun s p x c =>
    let t := (s.core c).ctx d.val
    if t.owner.isSome && t.owner != some x.crew then s.refuseCmd p x 0x1F
    else match bindOf x.ctlRegs.mxctl with
    | none => s.refuseCmd p x 0x1E
    | some b =>
      let s' := s.takeTokens c
      if (t.owner.isNone && !t.queue.isEmpty) || !(s'.core c).tokens then s.stall p
      else s'.onCore c (fun k =>
        let t := k.ctx d.val
        k.setCtx d.val { (if t.owner.isNone then t.clear else t) with owner := some x.crew, bind := b })

/-- `mx.ctl` bind (R219). -/
def execMxCtlBind (_m : Mods) (d : Fin 2) (s : State) : Host.Outcome State Fault Refusal :=
  s.engine fun s p x c => s.onCtx p x c d.val fun k m =>
    match bindOf x.ctlRegs.mxctl with
    | none => s.refuseCmd p x 0x1E
    | some b => s.setCore c (k.setCtx d.val { m with bind := b })

/-- `mx.ctl` release (R219): held until the context's commands have completed. -/
def execMxCtlRelease (_m : Mods) (d : Fin 2) (s : State) : Host.Outcome State Fault Refusal :=
  s.engine fun s p x c => s.onCtx p x c d.val fun k m =>
    if m.queue.isEmpty then s.setCore c (k.setCtx d.val { m with owner := none }) else s.stall p

/-! ### Timelines (R210, R223, R224) -/

/-- The first fault record of a crew that a wait or read of a timeline up to `n` covers. -/
def Core.faultFor (k : Core) (crew tl n : Nat) : Option EngFault :=
  (k.faults.filter (fun f => f.crew == crew && f.tl == tl && decide (f.ticket ≤ n))).foldl (fun m f => match m with
    | none => some f
    | some g => some (if f.ticket < g.ticket then f else g)) none

/-- Deliver a fault record (R210, R275): the cause is raised with the record's address, timeline and ticket, and the record
clears. -/
def State.deliverEngine (s : State) (p : Nat) (x : Party) (c : Nat) (f : EngFault) : State :=
  let s := s.onCore c (fun k => { k with faults := k.faults.erase f })
  s.raise p { x.trapHere x.pos.m0 f.cause x.pos.m0 (addrFor x.width x.pos.m0 f.addr)
    (BitVec.ofNat 64 (f.tl % 16 + f.ticket % 2 ^ 56 * 256)) with deferred := true }

/-- `tl.wait` (R223): 0x25 past the issued count, then a fault record, then the wait; its completion ends the region. -/
def execTlWait (_m : Mods) (a : Fin 16) (b : Src) (s : State) : Host.Outcome State Fault Refusal :=
  s.engine fun s p x c =>
    let k := s.core c
    let n := (x.srcZ b).toNat
    if a.val < 8 && k.issuedOf a.val < n then s.refuseCmd p x 0x25
    else match k.faultFor x.crew a.val n with
    | some f => s.deliverEngine p x c f
    | none =>
      let ts := threadsOf x.width x.m0
      s.whenSynced p x ts false false <|
        if n ≤ k.doneOf a.val then s.endSync p ts false
        else s.setParty p { x with park := .timeline a.val n, parkedAt := s.now }

/-- `tl.rd` (R224): selector 0 reads the completed value, 1 the issued count; a vector destination takes the low word (log
entry 25). -/
def execTlRd (m : Mods) (d : Reg) (a : Fin 16) (b : Fin 2) (s : State) : Host.Outcome State Fault Refusal :=
  s.engine fun s p x c => s.alloc p x m [(d, 1)] <|
    let k := s.core c
    let v := if b.val = 1 && a.val < 8 then k.issuedOf a.val else k.doneOf a.val
    match k.faultFor x.crew a.val v with
    | some f => s.deliverEngine p x c f
    | none => match d with
      | .s _ => s.giveU p d (BitVec.ofNat 64 v)
      | .v n => s.onParty p (fun y => y.setVs (x.base + n.val) ((threadsOf x.width x.m0).map (fun t => (t, BitVec.ofNat 32 v))))

/-- `tl.inc` (R224): after the party's earlier writes of the package; its region ends and the waiters it satisfies wake. -/
def execTlInc (_m : Mods) (d : Reg) (a : Fin 16) (b : Src) (s : State) : Host.Outcome State Fault Refusal :=
  s.engine fun s p x c =>
    let ts := threadsOf x.width x.m0
    s.whenSynced p x ts false false <| if s.writesOpen p (upto x.width) false then s.stall p else
      let v := ((s.core c).doneOf a.val + (x.srcZ b).toNat) % 2 ^ 64
      ((s.endSync p ts false).onCore c (fun k => { k with done := sset 0 k.done a.val v })).giveU p d
        (BitVec.ofNat 64 v)

/-! ### Bank lists, launches, records (R225, R230 to R232) -/

/-- `bank.cmd` (R225, R228, R397). -/
def execBankCmd (_m : Mods) (d a : Reg) (b : Src) (s : State) : Host.Outcome State Fault Refusal :=
  s.engine fun s p x c =>
    let e := (x.srcZ b).setWidth 32
    let ad := x.reg64 0 a
    if e.extractLsb' 10 22 != 0 || 767 < e.toNat || s.pkg.service == .reduced then s.refuseCmd p x 0x23
    else if ad.toNat % 64 != 0 then s.raiseAddr p x 0x0E ad false
    else
      let t := (s.core c).ticket 7
      let l : BankList := ⟨c, x.crew, x.fe, x.user, t.1, ad, s.openWrites p⟩
      ((s.setCore c t.2).onBank e.toNat (fun k => { k with queue := k.queue ++ [l] })).giveU p d (BitVec.ofNat 64 t.1)

/-- What `launch` does for one thread (R229, R230): a cause with its place among the checks, or the state and D's bit. -/
inductive Launched where
  | bad (rank : Nat) (c : BitVec 6)
  | ok (s : State) (deferred : Bool)

/-- One thread's launch. -/
def State.launchOne (s : State) (x : Party) (va : DWord) : Launched :=
  match s.check x ⟨64, true, false, .plain⟩ va with
  | .bad r c => .bad r c
  | .ok ps _ _ =>
    match s.readLines x.fe x.lane (linesOf ps) with
    | (_, some c) => .bad 90 c
    | (s, none) => match s.gridDesc x.fe (s.loadPieces ps) with
    | none => .bad 100 0x02
    | some d =>
      let l := s.lod x.fe
      if l.launchQ.length < 4096 && l.deferred.isEmpty then
        .ok (s.onLod x.fe (fun l => { l with launchQ := l.launchQ ++ [⟨d, none⟩] })) false
      else match s.crew? x.crew with
        | none => .bad 101 0x26
        | some k =>
          if k.reserve = 0 then .bad 101 0x26
          else .ok ((s.onLod x.fe (fun l => { l with deferred := l.deferred ++ [⟨d, none⟩] })).onCrew x.crew
            (fun k => { k with reserve := k.reserve - 1 })) true

/-- The launches of several threads in order: the state, the bits of D, and the failures. -/
def State.launchAll (s : State) (x : Party) (va : Nat → DWord) :
    List Nat → State × List (Nat × Bool) × List (Nat × DWord × Nat × BitVec 6)
  | [] => (s, [], [])
  | t :: ts => match s.launchOne x (va t) with
    | .bad r c =>
      let q := s.launchAll x va ts
      (q.1, q.2.1, (t, va t, r, c) :: q.2.2)
    | .ok s b =>
      let q := s.launchAll x va ts
      (q.1, (t, b) :: q.2.1, q.2.2)

/-- `launch` (R230): after each thread's earlier writes; the threads that fail fail alone, and the others keep their records. -/
def execLaunch (m : Mods) (d : MaskReg) (a : Reg) (s : State) : Host.Outcome State Fault Refusal :=
  s.engine fun s p x _ => s.alloc p x m [(a, 2)] <|
    let ts := threadsOf x.width x.m0
    s.whenSynced p x ts true false <|
      let r := (s.endSync p ts false).launchAll x (fun t => x.reg64 t a) ts
      let s := r.1.onParty p (fun y => y.setM d.val (r.2.1.foldl (fun w e => setBit w e.1 e.2) (y.maskNow d.val)))
      match firstCause (r.2.2.map (fun e => e.2.2)) with
      | none => s
      | some (_, c) => s.onParty p (fun y => { y with
          ctl := .await, homeFaults := y.homeFaults ++ r.2.2.map (fun e => ⟨e.1, c, e.2.1, 0, false⟩) })

/-- `rec.emit` (R231): the node's other bits are checked at the lane; the rest at the record's target. -/
def execRecEmit (m : Mods) (d a : Reg) (b : Src) (s : State) : Host.Outcome State Fault Refusal :=
  s.engine fun s p x _ => s.alloc p x m ([(d, 1), (a, 4)] ++ srcRun b 1) <|
    let ts := threadsOf x.width x.m0
    let bad := ts.filterMap (fun t => if (x.src32 t 0 b).extractLsb' 12 20 != 0 then some (t, (0 : DWord), 0, (0x2D : BitVec 6))
      else none)
    if !bad.isEmpty then s.raiseLane p x false false bad
    else ts.foldl (fun s t =>
      let act : Activation := ⟨x.fe, (x.reg32 t 0 d).toNat, 0, 0, 0xFFFF, (x.src32 t 0 b).toNat,
        (upto 4).map (fun k => x.reg32 t k a), [], 0, true, 0, 0, 0⟩
      s.send p ⟨some x.flagB, false, false, false⟩ t false 0 [] false (.emit act) .none) s

/-- `log.app` (R232): the header is checked at the lane as an aligned 64-byte write that its Steward serves. -/
def execLogApp (m : Mods) (d a b : Reg) (s : State) : Host.Outcome State Fault Refusal :=
  s.engine fun s p x _ => s.alloc p x m [(d, 1), (a, 2), (b, 8)] <|
    let cs := (threadsOf x.width x.m0).map (fun t => (t, x.reg64 t a, s.check x ⟨64, true, true, .atomic⟩ (x.reg64 t a)))
    let bad := failures cs
    if !bad.isEmpty then s.raiseLane p x false true bad
    else s.sendAll p ⟨some x.flagB, false, false, false⟩ false
      (fun t _ => .logApp ((upto 8).map (fun k => x.reg32 t k b))) (x.destOf d 1) cs

end Sys2Proof.Machine
end

