-- ==== Sys2Proof/Machine/Porter.lean ====
section
/-! DEFINITION. The Porter at work (R51 to R56, R210, R212 to R217): PORTER_CHUNK, which moves at most 4 KiB of a command, and
FOLLOW_ON_ISSUE. -/

namespace Sys2Proof.Machine

open Sys2Proof

/-! ### Engine accesses (R29, R210, R319, R362) -/

/-- A virtual range cut at lines: addresses and lengths, first lowest; `f` bounds the lines. -/
def segments (va : DWord) (n : Nat) : Nat → List (DWord × Nat)
  | 0 => []
  | f + 1 =>
    if n = 0 then []
    else
      let k := min n (64 - va.toNat % 64)
      (va, k) :: segments (va + BitVec.ofNat 64 k) (n - k) f

/-- The lines of a range of at most 4 KiB, or as long as it is. -/
def segmentsOf (va : DWord) (n : Nat) : List (DWord × Nat) := segments va n (n / 64 + 2)

/-- An engine's view of a quad and lodging, at the level its command was issued at (log entry 26). -/
structure Eng where
  fe : Nat
  quad : Nat
  user : Bool
  deriving DecidableEq, Repr

/-- The physical address of one segment of an engine access, or the cause. -/
def State.engPa (s : State) (g : Eng) (write : Bool) (va : DWord) : Except (BitVec 6) Nat :=
  match s.reach g.fe g.quad ⟨write, false, g.user⟩ va with
  | .error c => .error c
  | .ok t => match pageRefuses g.fe (s.pageKind g.fe t) ⟨1, false, write, .plain⟩ with
    | some c => .error c
    | none => if s.unmapped t.pa then .error 0x38 else .ok t.pa

/-- Bytes at a physical address. -/
def State.bytesAt (s : State) (pa n : Nat) : List Byte := (List.range n).map (fun k => s.byteAt (pa + k))

/-- Read segments: the bytes, or the first cause with its address. -/
def State.engRead (s : State) (g : Eng) : List (DWord × Nat) → State × Except (BitVec 6 × DWord) (List Byte)
  | [] => (s, .ok [])
  | (va, n) :: es => match s.engPa g false va with
    | .error c => (s, .error (c, va))
    | .ok pa => match s.readLine g.fe g.quad (pa / 64) with
      | (s, some c) => (s, .error (c, va))
      | (s, none) => match s.engRead g es with
        | (s, .ok bs) => (s, .ok (s.bytesAt pa n ++ bs))
        | r => r

/-- The physical places of segments to write, or the first cause. -/
def State.engPlaces (s : State) (g : Eng) : List (DWord × Nat) → Except (BitVec 6 × DWord) (List (Nat × Nat))
  | [] => .ok []
  | (va, n) :: es => match s.engPa g true va with
    | .error c => .error (c, va)
    | .ok pa =>
      if s.countersDone pa then .error (0x13, va)
      else match s.engPlaces g es with
      | .ok ps => .ok ((pa, n) :: ps)
      | .error e => .error e

/-- The number a list of bytes stands for. -/
def bytesNat (bs : List Byte) : Nat := bs.foldr (fun b v => b.toNat + 256 * v) 0

/-- Write bytes over places. -/
def State.engWrite (s : State) (bs : List Byte) : List (Nat × Nat) → State
  | [] => s
  | (pa, n) :: ps => (s.storeN pa (bytesNat (bs.take n)) n).engWrite (bs.drop n) ps

/-- Write a range of bytes, after every place of it has been translated. -/
def State.engStore (s : State) (g : Eng) (rows : List (DWord × List Byte)) : Except (BitVec 6 × DWord) State :=
  match s.engPlaces g (rows.flatMap (fun r => segmentsOf r.1 r.2.length)) with
  | .error e => .error e
  | .ok ps => .ok (s.engWrite (rows.flatMap (·.2)) ps)

/-- Record an engine fault for a crew (R210); a crew that has retired gets it in the Logbook. -/
def State.engFault (s : State) (c fe : Nat) (f : EngFault) : State :=
  match s.crew? f.crew with
  | some k =>
    if k.life == .retired then s.log f.cause.toNat fe c (f.addr.setWidth 128)
    else s.onCore c (fun k => { k with faults := k.faults ++ [f] })
  | none => s.log f.cause.toNat fe c (f.addr.setWidth 128)

/-! ### Row formats (R51 to R56, R214) -/

/-- Bytes of a row in memory: the value part and the index part. -/
def rowSizes (fmt : Nat) (sp : Bool) : Nat × Nat :=
  let v := if fmt ≤ 2 then 128 else if fmt ≤ 5 then 132 else if fmt = 6 then 72 else if fmt ≤ 8 then 128 else if fmt ≤ 10 then 256
    else if fmt = 11 then 128 else 512
  if !sp then (v, 0)
  else
    let v := if fmt ≤ 2 then 64 else if fmt ≤ 5 then 68 else if fmt = 6 then 40 else if fmt ≤ 8 then 64 else if fmt ≤ 10 then 128
      else 64
    (v, match cpLayout fmt with | 1 => 16 | 2 => 8 | _ => 32)

/-- A list cut into pieces of `n`; `f` bounds their number. -/
def chunks {α : Type} (n : Nat) : Nat → List α → List (List α)
  | 0, _ => []
  | f + 1, l => if l.isEmpty then [] else l.take n :: chunks n f (l.drop n)

/-- Little-endian numbers of `n` bytes. -/
def numbers (n : Nat) (bs : List Byte) : List Nat := (chunks n bs.length bs).map bytesNat

/-- The nibbles of bytes, low first (R52). -/
def nibbles (bs : List Byte) : List Nat := bs.flatMap (fun b => [b.toNat % 16, b.toNat / 16])

/-- The E4M3 byte of a 4-bit integer (R53). -/
def nibE4 (a : Nat) : Nat :=
  let i := sxInt 4 a
  (e4m3.write RNE false 0 (.fin (decide (i < 0)) i.natAbs 1)).1

/-- One pair of O4S codes under the block's high nibble (R53): none where the block is malformed. -/
def o4sPair (hi a b : Nat) : Option (List Nat) :=
  if a = 8 && b = 8 then none
  else if a = 8 then (let q := hi * 16 + b; if q % 128 = 0x7F then none else some [q, 0])
  else if b = 8 then (let q := hi * 16 + a; if q % 128 = 0x7F then none else some [0, q])
  else some [nibE4 a, nibE4 b]

/-- The pairs of a block. -/
def o4sPairs (hi : Nat) : List (List Nat) → Option (List Nat)
  | [] => some []
  | [a, b] :: ps => match o4sPair hi a b, o4sPairs hi ps with | some x, some y => some (x ++ y) | _, _ => none
  | _ :: ps => o4sPairs hi ps

/-- An O4S block (R53): elements and scale. -/
def o4sBlock (bs : List Byte) : Option (List Nat × Nat) :=
  let n := bs.length - 2
  let sc := (bs.getD n 0).toNat
  let out := (bs.getD (n + 1) 0).toNat
  if sc = 0xFF || out % 16 != 0 then none
  else match o4sPairs (out / 16) (chunks 2 64 (nibbles (bs.take n))) with
  | some es => some (es, sc)
  | none => none

/-- An MX block (R51, R56): elements, then the scale. -/
def mxBlock (bs : List Byte) : Option (List Nat × Nat) :=
  let n := bs.length - 1
  let sc := (bs.getD n 0).toNat
  if sc = 0xFF then none else some ((bs.take n).map (·.toNat), sc)

/-- The blocks of a row, or the index of the first one that is malformed. -/
def blocksOf (f : List Byte → Option (List Nat × Nat)) (k : Nat) : List (List Byte) → Except Nat (List Nat × List Nat)
  | [] => .ok ([], [])
  | b :: bs => match f b with
    | none => .error k
    | some (es, sc) => match blocksOf f (k + 1) bs with
      | .error e => .error e
      | .ok r => .ok (es ++ r.1, sc :: r.2)

/-- FP32 rounded into a 16-bit format (R56, R59). -/
def narrowTo (f : Fmt) (w : Nat) : Nat := (f.write RNE false 0 (fp32.read w).1).1

/-- The elements of a row's value part with the row's scales; an error is the offset of the unit that failed. -/
def rowValues (fmt : Nat) (sp : Bool) (bs : List Byte) : Except Nat (List Nat × List Nat) :=
  let ones := [0x7F, 0x7F, 0x7F, 0x7F]
  let m := if sp then 16 else 32
  match fmt with
  | 0 | 1 | 2 => .ok (bs.map (·.toNat), ones)
  | 3 | 4 | 5 => match blocksOf mxBlock 0 (chunks (m + 1) 4 bs) with
    | .ok r => .ok r
    | .error k => .error (k * (m + 1))
  | 6 => match blocksOf o4sBlock 0 (chunks (m / 2 + 2) 4 bs) with
    | .ok r => .ok r
    | .error k => .error (k * (m / 2 + 2))
  | 7 | 8 => .ok (numbers 2 bs, ones)
  | 9 => .ok ((numbers 4 bs).map (narrowTo bf16), ones)
  | 10 => .ok ((numbers 4 bs).map (narrowTo fp16), ones)
  | _ => .ok (nibbles bs, ones)

/-- Put the kept values of 2:4 storage in their places (R54): an error is the group whose indices are out of order. -/
def scatter (g : Nat) : List Nat → List Nat → Except Nat (List Nat)
  | [], _ => .ok []
  | i :: is, vs =>
    let a := i % 4
    let b := i / 4 % 4
    if b ≤ a then .error g
    else match scatter (g + 1) is (vs.drop 2) with
    | .error e => .error e
    | .ok r => .ok ((List.range 4).map (fun k => if k = a then vs.getD 0 0 else if k = b then vs.getD 1 0 else 0) ++ r)

/-- A row decoded (R53 to R56): elements, sideband bytes; an error is the offset of the unit that failed. -/
def decodeRow (fmt : Nat) (sp : Bool) (bs : List Byte) : Except Nat (List Nat × List Nat) :=
  let sz := rowSizes fmt sp
  match rowValues fmt sp (bs.take sz.1) with
  | .error e => .error e
  | .ok (vs, sc) =>
    if !sp then .ok (vs, sc)
    else match scatter 0 (nibbles (bs.drop sz.1)) vs with
    | .error g => .error (sz.1 + g / 2)
    | .ok es => .ok (es, sc)

/-- The 128 bytes of a row in its layout (R55). -/
def packRow (layout : Nat) (es : List Nat) : List Byte :=
  match layout with
  | 1 => es.map (BitVec.ofNat 8)
  | 2 => es.flatMap (fun e => [BitVec.ofNat 8 e, BitVec.ofNat 8 (e / 256)])
  | _ => (chunks 2 es.length es).map (fun p => BitVec.ofNat 8 (p.getD 0 0 + 16 * p.getD 1 0))

/-- Write consecutive keys of a sparse store. -/
def putFrom {α : Type} [DecidableEq α] (dflt : α) (k : Nat) : List α → Sparse α → Sparse α
  | [], st => st
  | v :: vs, st => putFrom dflt (k + 1) vs (sset dflt st k v)

/-- A row of a tile in memory form (R214): its bytes, with the sideband for MX. -/
def Tile.rowOut (t : Tile) (fmt r : Nat) : List Byte :=
  let row := (List.range 128).map (fun k => sget 0 t.data (128 * r + k))
  if 3 ≤ fmt && fmt ≤ 5 then
    (chunks 32 4 row).zipIdx.flatMap (fun e => e.1 ++ [sget 0x7F t.side (4 * r + e.2)])
  else row

/-- A float to a signed INT8 byte (R59, R214). -/
def toInt8 (w : Nat) : Nat :=
  match (fp32.read w).1 with
  | .nan => 0
  | .inf neg => if neg then 0x80 else 0x7F
  | .fin neg n d =>
    let k := roundInt RNE neg n d 0
    if neg then (256 - min k 128) % 256 else min k 127

/-- A row of an accumulator in memory form (R214, R215): all 128 columns (log entry 27). -/
def MxCtx.rowOut (x : MxCtx) (fmt r : Nat) : List Byte :=
  (List.range 128).flatMap (fun j =>
    let w := (sget 0 x.acc (128 * r + j)).toNat
    let le := fun (n v : Nat) => (List.range n).map (fun k => BitVec.ofNat 8 (v / 256 ^ k))
    match fmt with
    | 0 => le 1 (toInt8 w)
    | 1 => le 1 (narrowTo e4m3 w)
    | 2 => le 1 (narrowTo e5m2 w)
    | 7 => le 2 (narrowTo bf16 w)
    | 8 => le 2 (narrowTo fp16 w)
    | _ => le 4 w)

/-! ### Slots at the end of a command (R212, R217) -/

/-- A read of a slot completes: it is ready at reader count 0. -/
def Tile.release (t : Tile) : Tile :=
  let n := t.readers - 1
  { t with readers := n, st := if n = 0 && t.st == .draining then .ready else t.st }

/-- A read of slot `k` completes. -/
def Core.readDone (c : Core) (k : Nat) : Core := c.setTile k (c.tile k).release

/-- Replace a context's queue. -/
def Core.mapQueue (c : Core) (x : Nat) (f : MxCmd → MxCmd) : Core :=
  let m := c.ctx x
  c.setCtx x { m with queue := m.queue.map f }

/-- The follow-on of a filled slot reaches its context (R217): it reads the slot from now on. -/
def Core.land (c : Core) (slot x : Nat) : Core :=
  let c := c.mapQueue x (fun q => match q.op with
    | .follow f o r false false => if f = slot then { q with op := .follow f o r true false } else q
    | _ => q)
  if (c.ctx x).queue.any (fun q => match q.op with | .follow f _ _ true false => f == slot | _ => false) then
    let t := c.tile slot
    c.setTile slot { t with st := .draining, readers := t.readers + 1 }
  else c

/-- A fill completes (R212). -/
def Core.fillDone (c : Core) (slot : Nat) (follow : Option Nat) : Core :=
  let t := c.tile slot
  let c := c.setTile slot { t with st := if t.readers = 0 then .ready else .draining, poison := false }
  match follow with | some x => c.land slot x | none => c

/-- Cancel the follow-on that a faulting fill carries: its read of the other slot is released (R217). -/
def Core.cancelOwn (c : Core) (slot x : Nat) : Core :=
  match (c.ctx x).queue.find? (fun q => match q.op with | .follow f _ _ false false => f == slot | _ => false) with
  | none => c
  | some q => match q.op with
    | .follow f o r l _ => (c.mapQueue x (fun p => if p.ticket = q.ticket then { p with op := .follow f o r l true } else p)).readDone o
    | _ => c

/-- Cancel the follow-ons of a context that wait for a slot whose fill faulted: the tickets cancelled, and the core with their reads
released. -/
def Core.cancelOthers (c : Core) (slot x : Nat) : List MxCmd → List (Nat × Nat) × Core
  | [] => ([], c)
  | q :: qs => match q.op with
    | .follow f o r l false =>
      if o = slot then
        let c := c.mapQueue x (fun p => if p.ticket = q.ticket then { p with op := .follow f o r l true } else p)
        let c := c.readDone o
        let c := if l then c.readDone f else c
        let t := c.cancelOthers slot x qs
        ((q.ticket, q.crew) :: t.1, t.2)
      else c.cancelOthers slot x qs
    | _ => c.cancelOthers slot x qs

/-- A fill faults (R212, R217): the slot is empty; the follow-ons that wait for it are cancelled and recorded as 0x1D. -/
def State.fillFault (s : State) (c fe slot : Nat) (follow : Option Nat) : State :=
  let k := match follow with | some x => (s.core c).cancelOwn slot x | none => s.core c
  let a := k.cancelOthers slot 0 (k.ctx 0).queue
  let b := a.2.cancelOthers slot 1 (a.2.ctx 1).queue
  let t := b.2.tile slot
  let s := s.setCore c (b.2.setTile slot { t with st := .empty, layout := 0, readers := 0, data := [], side := [] })
  let s := a.1.foldl (fun s e => s.engFault c fe ⟨e.2, 0, 0x1D, 0, 4, e.1, 12⟩) s
  b.1.foldl (fun s e => s.engFault c fe ⟨e.2, 0, 0x1D, 0, 5, e.1, 12⟩) s

/-- Matrix contexts lose the place of a `cp.out` once the Porter has read the accumulator (R215). -/
def Core.drained (c : Core) (x ctx ticket : Nat) : Core :=
  let m := c.ctx x
  c.setCtx x { m with queue := m.queue.filter (fun q => q.op != .drain ctx ticket) }

/-! ### PORTER_CHUNK (R215) -/

/-- The head of a context's queue is finished: its timeline reaches the ticket (R209). -/
def State.cpDone (s : State) (c ctx : Nat) (q : CpCmd) : State :=
  s.onCore c (fun k => { k with
    porter := sset [] k.porter ctx (sget [] k.porter ctx).tail
    done := sset 0 k.done ctx q.ticket })

/-- A command takes a fault: it is recorded, what it holds is released, and it completes. -/
def State.cpFault (s : State) (c ctx : Nat) (q : CpCmd) (e : BitVec 6 × DWord) : State :=
  let s := s.engFault c q.fe ⟨q.crew, q.party, e.1, e.2, ctx, q.ticket, 12⟩
  let s := match q.op with
    | .fill slot _ _ _ follow => s.fillFault c q.fe slot follow
    | .drain slot _ _ _ => s.onCore c (fun k => k.readDone slot)
    | .ctxOut x _ _ => s.onCore c (fun k => k.drained x ctx q.ticket)
    | .mem _ _ => s
  s.cpDone c ctx q

/-- The command goes on at a later chunk. -/
def State.cpNext (s : State) (c ctx : Nat) (q : CpCmd) (pos : Nat) : State :=
  s.onCore c (fun k => { k with porter := sset [] k.porter ctx ({ q with pos := pos } :: (sget [] k.porter ctx).tail) })

/-- Rows of a chunk of at most 4 KiB from row `pos`. -/
def chunkRows (pos rowBytes : Nat) : List Nat := (List.range (min (128 - pos) (4096 / rowBytes))).map (pos + ·)

/-- The address of a row (R213). -/
def CpCmd.row (q : CpCmd) (stride r : Nat) : DWord := q.addr + BitVec.ofNat 64 (stride * r)

/-- Fill rows of a slot: the state, and the first fault. -/
def State.fillRows (s : State) (g : Eng) (c : Nat) (q : CpCmd) (slot fmt : Nat) (sp : Bool) (stride : Nat) :
    List Nat → State × Option (BitVec 6 × DWord)
  | [] => (s, none)
  | r :: rs =>
    let sz := rowSizes fmt sp
    let va := q.row stride r
    match s.engRead g (segmentsOf va (sz.1 + sz.2)) with
    | (s, .error e) => (s, some e)
    | (s, .ok bs) => match decodeRow fmt sp bs with
      | .error off => (s, some (0x1E, va + BitVec.ofNat 64 off))
      | .ok (es, sc) =>
        let s := s.onCore c (fun k =>
          let t := k.tile slot
          k.setTile slot { t with
            data := putFrom 0 (128 * r) (packRow (cpLayout fmt) es) t.data
            side := putFrom 0x7F (4 * r) (sc.map (BitVec.ofNat 8)) t.side })
        s.fillRows g c q slot fmt sp stride rs

/-- A slot that is read has an uncorrectable error (R340): the schedule's upset poisons it. -/
def State.tileError (s : State) (c slot : Nat) : State × Bool :=
  match s.upset with
  | .tile =>
    let s := { s with upset := .none }
    (s.onCore c (fun k => k.setTile slot { k.tile slot with poison := true }), true)
  | _ => (s, ((s.core c).tile slot).poison)

/-- Write rows of a chunk and go on, or finish with `fin`. -/
def State.outRows (s : State) (g : Eng) (c ctx : Nat) (q : CpCmd) (pos rowBytes : Nat) (row : Nat → DWord × List Byte)
    (fin : Core → Core) : State :=
  let rs := chunkRows pos rowBytes
  let s := s.spend .porter q.fe (rs.length * rowBytes)
  match s.engStore g (rs.map row) with
  | .error e => s.cpFault c ctx q e
  | .ok s => if pos + rs.length < 128 then s.cpNext c ctx q (pos + rs.length) else (s.onCore c fin).cpDone c ctx q

/-- PORTER_CHUNK (R215, R216): the next chunk of a Porter context's first command, once the writes its issue released are
acknowledged and the lodging's Porter traffic is within its budget (R354), and, for an accumulator, every earlier command of its context has completed. -/
def execPorterChunk (c ctx : Nat) (s : State) : Host.Outcome State Fault Refusal :=
  State.event (match sget [] (s.core c).porter ctx with
  | [] => s
  | q :: _ =>
    let g : Eng := ⟨q.fe, quadOfCore c, q.user⟩
    if q.after.any (fun r => (s.openWrites q.party).contains r) || s.throttled .porter q.fe then s
    else match q.op with
    | .fill slot fmt sp stride follow =>
      let sz := rowSizes fmt sp
      let rs := chunkRows q.pos (sz.1 + sz.2)
      let s := s.spend .porter q.fe (rs.length * (sz.1 + sz.2))
      match s.fillRows g c q slot fmt sp stride rs with
      | (s, some e) => s.cpFault c ctx q e
      | (s, none) =>
        if q.pos + rs.length < 128 then s.cpNext c ctx q (q.pos + rs.length)
        else (s.onCore c (fun k => k.fillDone slot follow)).cpDone c ctx q
    | .drain slot fmt _ stride =>
      match s.tileError c slot with
      | (s, true) => s.cpFault c ctx q (0x14, 0)
      | (s, false) =>
        let t := (s.core c).tile slot
        s.outRows g c ctx q q.pos (rowSizes fmt false).1 (fun r => (q.row stride r, t.rowOut fmt r)) (fun k => k.readDone slot)
    | .ctxOut x fmt stride =>
      let m := (s.core c).ctx x
      match m.queue with
      | h :: _ =>
        if h.op == .drain ctx q.ticket then
          s.outRows g c ctx q q.pos (m.rowOut fmt 0).length (fun r => (q.row stride r, m.rowOut fmt r))
            (fun k => k.drained x ctx q.ticket)
        else s
      | [] => s
    | .mem src len =>
      let n := min 4096 (len - q.pos)
      let off := BitVec.ofNat 64 q.pos
      let s := s.spend .porter q.fe n
      match s.engRead g (segmentsOf (src + off) n) with
      | (s, .error e) => s.cpFault c ctx q e
      | (s, .ok bs) => match s.engStore g [(q.addr + off, bs)] with
        | .error e => s.cpFault c ctx q e
        | .ok s => if q.pos + n < len then s.cpNext c ctx q (q.pos + n) else s.cpDone c ctx q)

/-- FOLLOW_ON_ISSUE (R217): the follow-on at the head of a context becomes a product once its fill has landed and its other slot is
ready; its ticket and its reads stand already. -/
def execFollowOnIssue (c x : Nat) (s : State) : Host.Outcome State Fault Refusal :=
  State.event (
    let k := s.core c
    let m := k.ctx x
    match m.queue with
    | q :: qs => match q.op with
      | .follow f o roleB true false =>
        let t := k.tile o
        if t.st == .ready || t.st == .draining then
          s.setCore c (k.setCtx x { m with queue := { q with op := if roleB then .mma o f else .mma f o } :: qs })
        else s
      | _ => s
    | [] => s)

end Sys2Proof.Machine
end

