-- ==== Sys2Proof/Machine/Special.lean ====
section
/-! DEFINITION. Class 2: the special functions and the write of their results (R126 to R131), and the conversions (R132,
R133) of 07_isa_float_special.md. -/

namespace Sys2Proof.Machine

open Sys2Proof

/-! ### Fixed-point evaluation

The approximate functions are evaluated on integers scaled by 2^320, far finer than any bound of R126. -/

/-- The scale 2^320. -/
def sfuOne : Nat := 2 ^ 320
/-- ln 2, scaled. -/
def sfuLn2 : Nat := 0xB17217F7D1CF79ABC9E3B39803F2F6AF40F343267298B62D8A0D175B8BAAFA2BE7B876206DEBAC98
/-- 2π, scaled. -/
def sfuTwoPi : Nat := 0x6487ED5110B4611A62633145C06E0E68948127044533E63A0105DF531D89CD9128A5043CC71A026EF

/-- The integer square root from its high bits down: `k` bits are still to be found. -/
def isqrt (n r : Nat) : Nat → Nat
  | 0 => r
  | k + 1 => let c := r + 2 ^ k; isqrt n (if c * c ≤ n then c else r) k

/-- √(n/d) as a fraction, and whether it is exact; an inexact root lies strictly between two neighbours of its grid. -/
def sqrtQ (n d : Nat) : Nat × Nat × Bool :=
  let m := n * d * 4 ^ 128
  let r := isqrt m 0 (Nat.log2 m / 2 + 1)
  if r * r = m then (r, d * 2 ^ 128, true) else (2 * r + 1, 2 * d * 2 ^ 128, false)

/-- The terms of e^y from the `k`-th on, y scaled. -/
def expTerms (y term : Int) (k : Nat) : Nat → Int
  | 0 => 0
  | f + 1 => term + expTerms y (term * y / (sfuOne * (k + 1) : Nat)) (k + 1) f
/-- e^y scaled, for |y| below 1. -/
def expS (y : Int) : Int := expTerms y sfuOne 0 80
/-- 2^(−q), q scaled. -/
def exp2Neg (q : Nat) : Nat :=
  (expS (-((q % sfuOne * sfuLn2 / sfuOne : Nat) : Int))).toNat / 2 ^ (q / sfuOne)
/-- e^(−y), y scaled. -/
def expNeg (y : Nat) : Nat := exp2Neg (y * sfuOne / sfuLn2)
/-- The terms of the inverse hyperbolic tangent of z from the power 2k + 1 on. -/
def atanhTerms (z2 p k : Nat) : Nat → Nat
  | 0 => 0
  | f + 1 => p / (2 * k + 1) + atanhTerms z2 (p * z2 / sfuOne) (k + 1) f
/-- ln of n/d in [1, 2), scaled. -/
def lnS (n d : Nat) : Nat :=
  let z := (n - d) * sfuOne / (n + d)
  2 * atanhTerms (z * z / sfuOne) z 0 110
/-- The terms of an alternating series x^k/k!, every second power, from `term` at power `k`. -/
def trigTerms (x2 term : Int) (k : Nat) : Nat → Int
  | 0 => 0
  | f + 1 => term + trigTerms x2 (-(term * x2 / (sfuOne * ((k + 1) * (k + 2)) : Nat))) (k + 2) f
/-- sin θ scaled. -/
def sinS (t : Int) : Int := trigTerms (t * t / (sfuOne : Nat)) t 1 64
/-- cos θ scaled. -/
def cosS (t : Int) : Int := trigTerms (t * t / (sfuOne : Nat)) sfuOne 0 64

/-! ### The choice of a result within its bound (R127)

FP32 values are numbered in order: k for the encoding k, −k for its negative. -/

/-- The number of the largest encoding at or below a magnitude n/d, the exponent unbounded above. -/
def floorMag (n d : Nat) : Nat × Bool :=
  if n = 0 then (0, true)
  else
    let em := max (log2Q n d) (-126)
    let q := scaleQ n d (em - 23)
    ((em + 126).toNat * 2 ^ 23 + q.1 / q.2, q.1 % q.2 == 0)

/-- The number of the largest FP32 value below i/d. -/
def ordBelow (i : Int) (d : Nat) : Int :=
  let (k, exact) := floorMag i.natAbs d
  if 0 < i then (if exact then (k : Int) - 1 else k) else -((k : Int) + 1)

/-- An exact value that is no FP32 value: sign and magnitude. -/
structure Target where
  neg : Bool
  num : Nat
  den : Nat
  deriving DecidableEq, Repr

/-- The bound of a function at a value (R126, R127): `k` gaps, or 2^−22 where `abs22` says so; as a fraction. -/
def sfuBound (k : Nat) (abs22 : Bool) (x : Target) : Nat × Nat :=
  if abs22 then (1, 2 ^ 22)
  else
    let e := max (log2Q x.num x.den) (-126) - 23
    if 0 ≤ e then (k * 2 ^ e.toNat, 1) else (k, 2 ^ (-e).toNat)

/-- The lowest and highest results within the bound. -/
def sfuRange (k : Nat) (abs22 : Bool) (x : Target) : Int × Int :=
  let b := sfuBound k abs22 x
  let d := x.den * b.2
  let v : Int := (x.num * b.2 : Nat)
  let v := if x.neg then -v else v
  let w : Int := (b.1 * x.den : Nat)
  (-(ordBelow (w - v) d), ordBelow (v + w) d)

/-- A result within the bound, chosen freely (log entry 7), with its flags (R127). -/
def sfuResult (fn k : Nat) (abs22 ftz : Bool) (a : Word) (x : Target) : Nat × FpFlags :=
  let r := sfuRange k abs22 x
  let c := r.1 + (Config.sfuPick fn a % (r.2 - r.1 + 1).toNat : Nat)
  let neg := decide (c < 0) || (c == 0 && x.neg)
  let sign := if neg then fp32.sign else 0
  let mag := c.natAbs
  if fp32.top ≤ mag then (sign + fp32.top, fOverflow ||| fInexact)
  else if ftz && mag != 0 && mag < 2 ^ 23 then (sign, fUnderflow ||| fInexact)
  else (sign + mag, fInexact ||| fWhen (mag < 2 ^ 23) fUnderflow)

/-- An exact FP32 result n/d: flags only where flush-to-zero acts (R60, R127). -/
def sfuExact (ftz neg : Bool) (n d : Nat) : Nat × FpFlags := fp32.write RNE ftz 0 (.fin neg n d)
/-- A value is an FP32 value. -/
def isFp32 (n d : Nat) : Bool := (fp32.write RNE false 0 (.fin false n d)).2 == 0
/-- A result the value decides, or one within the bound. -/
def sfuReal (fn k : Nat) (abs22 ftz : Bool) (a : Word) (exact : Bool) (x : Target) : Nat × FpFlags :=
  if exact && isFp32 x.num x.den then sfuExact ftz x.neg x.num x.den else sfuResult fn k abs22 ftz a x

/-- A fraction scaled. -/
def scaled (n d : Nat) : Nat := n * sfuOne / d

/-- 2^±(n/d) (R126, R128): 2^n exactly for an integer from −149 to 127. Arguments beyond ±512 decide like ±512. `fn` numbers the unit
that chooses. -/
def ex2N (fn : Nat) (ftz : Bool) (a : Word) (neg : Bool) (n d : Nat) : Nat × FpFlags :=
  let i := n / d
  let f := n % d
  if 512 ≤ i then (if neg then sfuResult fn 1 false ftz a ⟨false, 1, 2 ^ 512⟩ else sfuResult fn 1 false ftz a ⟨false, 2 ^ 512, 1⟩)
  else if f = 0 then
    (if neg then sfuReal fn 1 false ftz a true ⟨false, 1, 2 ^ i⟩ else sfuReal fn 1 false ftz a true ⟨false, 2 ^ i, 1⟩)
  else
    let y := exp2Neg (scaled (if neg then f else d - f) d)
    if neg then sfuResult fn 1 false ftz a ⟨false, y, sfuOne * 2 ^ i⟩ else sfuResult fn 1 false ftz a ⟨false, y * 2 ^ (i + 1), sfuOne⟩

/-- 2^±(n/d) in the special-function unit. -/
def ex2F (ftz : Bool) (a : Word) (neg : Bool) (n d : Nat) : Nat × FpFlags := ex2N 3 ftz a neg n d

/-- log2 (n/d) (R126, R128). -/
def lg2F (ftz : Bool) (a : Word) (n d : Nat) : Nat × FpFlags :=
  let e := log2Q n d
  let q := scaleQ n d e
  if q.1 = q.2 then sfuExact ftz (decide (e < 0)) e.natAbs 1
  else
    let x : Int := e * (sfuOne : Nat) + (lnS q.1 q.2 * sfuOne / sfuLn2 : Nat)
    sfuResult 4 1 (d < 2 * n && n < 2 * d) ftz a ⟨decide (x < 0), x.natAbs, sfuOne⟩

/-- `sin.t` and `cos.t` (R129). -/
def turnF (cosine ftz : Bool) (a : Word) (neg : Bool) (n d : Nat) : Nat × FpFlags :=
  let m := n % d
  let f := if neg && m != 0 then d - m else m
  if 4 * f % d = 0 then
    let one := fun neg => sfuExact ftz neg 1 1
    match 4 * f / d, cosine with
    | 0, true => one false
    | 1, false => one false
    | 2, true => one true
    | 3, false => one true
    | 0, false => sfuExact ftz (neg && n == 0) 0 1
    | _, _ => sfuExact ftz false 0 1
  else
    let r : Int := if d < 2 * f then (f : Int) - d else f
    let t : Int := sfuTwoPi * r / d
    let x := if cosine then cosS t else sinS t
    sfuResult (if cosine then 6 else 5) 1 false ftz a ⟨decide (x < 0), x.natAbs, sfuOne⟩

/-- `tanh` of a nonzero value (R126). Below 2^−60 the value lies just under its argument; from 100 on it decides like 100. -/
def tanhF (ftz : Bool) (a : Word) (neg : Bool) (n d : Nat) : Nat × FpFlags :=
  if n * 2 ^ 60 < d then sfuResult 7 2 false ftz a ⟨neg, n * (2 ^ 200 - 1), d * 2 ^ 200⟩
  else
    let t := expNeg (2 * min (scaled n d) (100 * sfuOne))
    sfuResult 7 2 false ftz a ⟨neg, sfuOne - t, sfuOne + t⟩

/-- `sigm` of a nonzero value (R126); beyond ±200 it decides like ±200. -/
def sigmF (ftz : Bool) (a : Word) (neg : Bool) (n d : Nat) : Nat × FpFlags :=
  let t := expNeg (min (scaled n d) (200 * sfuOne))
  sfuResult 8 2 false ftz a ⟨false, if neg then t else sfuOne, sfuOne + t⟩

/-- Infinity with a sign. -/
def infBits (neg : Bool) : Nat := (if neg then fp32.sign else 0) + fp32.top

/-- Division (R126, R128): correctly rounded under the mode, with IEEE special cases. -/
def fdivF (mode : BitVec 3) (ftz : Bool) (u : Nat) (x y : Val) : Nat × FpFlags :=
  match x, y with
  | .nan, _ => (fp32.nan, 0)
  | _, .nan => (fp32.nan, 0)
  | .inf _, .inf _ => (fp32.nan, fInvalid)
  | .inf a, .fin b _ _ => (infBits (a != b), 0)
  | .fin a _ _, .inf b => fp32.write mode ftz u (.fin (a != b) 0 1)
  | .fin a n d, .fin b k e =>
    if k = 0 then (if n = 0 then (fp32.nan, fInvalid) else (infBits (a != b), fDiv0))
    else fp32.write mode ftz u (.fin (a != b) (n * e) (d * k))

/-- √a (R126, R128), correctly rounded under the mode. -/
def sqrtF (mode : BitVec 3) (ftz : Bool) (u : Nat) : Val → Nat × FpFlags
  | .nan => (fp32.nan, 0)
  | .inf neg => if neg then (fp32.nan, fInvalid) else (infBits false, 0)
  | .fin neg n d =>
    if n = 0 then fp32.write mode ftz u (.fin neg 0 1)
    else if neg then (fp32.nan, fInvalid)
    else let r := sqrtQ n d; fp32.write mode ftz u (.fin false r.1 r.2.1)

/-- The approximate functions by number, on a value that is not NaN (R128, R129). -/
def approxF (fn : Nat) (ftz : Bool) (a : Word) : Val → Nat × FpFlags
  | .nan => (fp32.nan, 0)
  | .inf neg =>
    match fn with
    | 0 => sfuExact ftz neg 0 1
    | 1 => if neg then (fp32.nan, fInvalid) else sfuExact ftz false 0 1
    | 3 => if neg then sfuExact ftz false 0 1 else (infBits false, 0)
    | 4 => if neg then (fp32.nan, fInvalid) else (infBits false, 0)
    | 7 => sfuExact ftz neg 1 1
    | 8 => if neg then sfuExact ftz false 0 1 else sfuExact ftz false 1 1
    | _ => (fp32.nan, fInvalid)
  | .fin neg n d =>
    match fn with
    | 0 => if n = 0 then (infBits neg, fDiv0) else sfuReal 0 1 false ftz a true ⟨neg, d, n⟩
    | 1 =>
      if n = 0 then (infBits neg, fDiv0)
      else if neg then (fp32.nan, fInvalid)
      else let r := sqrtQ d n; sfuReal 1 1 false ftz a r.2.2 ⟨false, r.1, r.2.1⟩
    | 3 => ex2F ftz a neg n d
    | 4 =>
      if n = 0 then (infBits true, fDiv0)
      else if neg then (fp32.nan, fInvalid)
      else lg2F ftz a n d
    | 7 => if n = 0 then sfuExact ftz neg 0 1 else tanhF ftz a neg n d
    | 8 => if n = 0 then sfuExact ftz false 1 2 else sigmF ftz a neg n d
    | 5 => turnF false ftz a neg n d
    | _ => turnF true ftz a neg n d

/-- The result of special function `fn` (R126): the numbers of class 2. -/
def sfuValue (fn : Nat) (mode : BitVec 3) (ftz : Bool) (u : Nat) (a b : Word) : Word × FpFlags :=
  let x := fp32.source ftz a.toNat
  let y := fp32.source ftz b.toNat
  let r := match fn with
    | 2 => sqrtF mode ftz u x.1
    | 9 => fdivF mode ftz u x.1 y.1
    | _ => approxF fn ftz a x.1
  (BitVec.ofNat 32 r.1, r.2 ||| snanFlags (if fn = 9 then [x, y] else [x]))

/-! ### Issue (R126, R130) -/

/-- The draws of the elements under stochastic rounding, and the generator after them. -/
def sfuDraws (on : Bool) : Nat → Word → List Nat × Word
  | 0, g => ([], g)
  | n + 1, g => if on then let r := sfuDraws on n (xorshift g); (draw g 0 :: r.1, r.2) else let r := sfuDraws on n g; (0 :: r.1, r.2)

/-- Issue a special function: operands, mode and draws are read, flag B is set, and the results follow at
SPECIAL_FUNCTION_RESULT. The zero policy clears at issue. Only `sqrt` and `fdiv` round under the mode (R115). -/
def State.sfu (s : State) (m : Mods) (fn : Nat) (d a : Reg) (b : Src) : Host.Outcome State Fault Refusal :=
  s.issue fun p x =>
    let launch := fun (x : Party) (lanes : List (Nat × Dest × Word × Word)) =>
      let mode := x.mode m
      let r := sfuDraws ((fn == 2 || fn == 9) && mode == SR) lanes.length x.gen
      let n := s.fresh
      let op : SfuOp := ⟨p, x.here, x.pos.m0, fn, mode, x.ftz, lanes, x.flagB, r.1⟩
      { (n.2.setParty p { (x.addFlag x.flagB) with gen := r.2 }) with sfus := sput n.2.sfus n.1 op }
    match d with
    | .s n => launch x [(0, .uni n.val, x.reg32 0 0 a, x.src32 0 0 b)]
    | .v n => s.alloc p x m ((d, 1) :: (a, 1) :: srcRun b 1)
      (let sel := threadsOf x.width (x.selected m)
       let lanes := (List.range (repsOf m)).flatMap (fun k =>
         sel.map (fun t => (t, Dest.vec (x.base + n.val + k) 1, x.reg32 t k a, x.src32 t k b)))
       let zer := (List.range (repsOf m)).flatMap (fun k =>
         (threadsOf x.width (x.zeroed m)).map (fun t => (t, x.base + n.val + k)))
       let x := zer.foldl (fun x e => x.setV e.1 e.2 0) x
       if lanes.isEmpty then s.setParty p x else launch x lanes)

/-- Write the results of the lanes of an operation, with their flags (R116). -/
def Party.sfuWrite (p : Party) (op : SfuOp) : List (Nat × Dest × Word × Word) → List Nat → Party
  | [], _ => p
  | (t, d, a, b) :: ls, us =>
    let r := sfuValue op.fn op.rm op.ftz (us.headD 0) a b
    ((p.setDest t d r.1.toNat).orFlags r.2).sfuWrite op ls us.tail

/-- SPECIAL_FUNCTION_RESULT (R126): the results are written, their flags reach `fpsum` and flag B falls. A pair of halves that
differs once is computed again; when it differs twice (R131) the first thread gets no result, its flag is set until the
machine check 0x3F of its group is taken, and the Logbook keeps lane and function (log entry 16). -/
def execSpecialFunctionResult (n : Nat) (s : State) : Host.Outcome State Fault Refusal :=
  State.event (match sfind s.sfus n with
  | none => s
  | some op => match s.party? op.party with
    | none => { s with sfus := sdrop s.sfus n }
    | some x =>
      let s' := { s with sfus := sdrop s.sfus n }
      let whole := s'.setParty op.party ((x.deposit (fun x => x.sfuWrite op op.lanes op.stoch)).doneFlag op.flag 1)
      match s.upset with
      | .sfu twice =>
        if !twice then { whole with upset := .none }
        else
          let t := (op.lanes.head?.map (·.1)).getD 0
          let y := (x.deposit (fun x => x.sfuWrite op op.lanes.tail op.stoch.tail)).doneFlag op.flag 1
          let s := { (s'.setParty op.party y) with upset := .none }
          let s := s.log 0x3F x.fe (coreOfLane x.lane) (BitVec.ofNat 128 (x.lane % 64 + 64 * op.fn))
          s.takeTrap op.party ⟨0x3F, false, op.epc, op.m0, bitMask t, [], 0x100, none⟩
      | _ => whole)

/-! ### Conversions (R132, R133) -/

/-- An integer to FP32 (R132). -/
def cvtFromInt (mode : BitVec 3) (ftz : Bool) (u : Nat) (i : Int) : Nat × FpFlags :=
  fp32.write mode ftz u (.fin (decide (i < 0)) i.natAbs 1)

/-- FP32 to an integer range (R133). -/
def cvtToInt (lo hi : Int) (mode : BitVec 3) (ftz : Bool) (u a : Nat) : Nat × FpFlags :=
  let x := fp32.source ftz a
  let bits := fun (i : Int) => (BitVec.ofInt 32 i).toNat
  match x.1 with
  | .nan => (0, fInvalid)
  | .inf neg => (bits (if neg then lo else hi), fInvalid)
  | .fin neg n d =>
    let k : Int := roundInt mode neg n d u
    let q := if neg then -k else k
    if hi < q then (bits hi, fInvalid)
    else if q < lo then (bits lo, fInvalid)
    else (bits q, fWhen (n % d != 0) fInexact)

/-- FP32 narrowed to a format (R132): infinity gives ±448 with invalid in E4M3. -/
def cvtNarrow (f : Fmt) (mode : BitVec 3) (ftz : Bool) (u a : Nat) : Nat × FpFlags :=
  let x := fp32.source ftz a
  f.out mode ftz u (x.1, false) [x]

/-- A format widened to FP32, exactly (R132). -/
def cvtWiden (f : Fmt) (ftz : Bool) (a : Nat) : Nat × FpFlags :=
  let x := f.source ftz a
  fp32.out RNE ftz 0 (x.1, false) [x]

/-- `cvt2.*` (R132). -/
def State.cvtPack (s : State) (m : Mods) (d a : Reg) (b : Src) (f : Fmt) : Host.Outcome State Fault Refusal :=
  s.fpOp m d ((a, 1) :: srcRun b 1) 2 true (fun p t k mode ftz u =>
    let lo := cvtNarrow f mode ftz (u 0) (p.reg32 t k a).toNat
    let hi := cvtNarrow f mode ftz (u 1) (p.src32 t k b).toNat
    (BitVec.ofNat 32 (lo.1 + 2 ^ 16 * hi.1), lo.2 ||| hi.2))

/-! ### Meanings -/

/-- `rcp` (R126). -/
def execRcp (m : Mods) (d a : Reg) (s : State) : Host.Outcome State Fault Refusal :=
  s.sfu m 0 d a (.lit 0)

/-- `rsq` (R126). -/
def execRsq (m : Mods) (d a : Reg) (s : State) : Host.Outcome State Fault Refusal :=
  s.sfu m 1 d a (.lit 0)

/-- `sqrt` (R126). -/
def execSqrt (m : Mods) (d a : Reg) (s : State) : Host.Outcome State Fault Refusal :=
  s.sfu m 2 d a (.lit 0)

/-- `ex2` (R126). -/
def execEx2 (m : Mods) (d a : Reg) (s : State) : Host.Outcome State Fault Refusal :=
  s.sfu m 3 d a (.lit 0)

/-- `lg2` (R126). -/
def execLg2 (m : Mods) (d a : Reg) (s : State) : Host.Outcome State Fault Refusal :=
  s.sfu m 4 d a (.lit 0)

/-- `sin.t` (R126). -/
def execSinT (m : Mods) (d a : Reg) (s : State) : Host.Outcome State Fault Refusal :=
  s.sfu m 5 d a (.lit 0)

/-- `cos.t` (R126). -/
def execCosT (m : Mods) (d a : Reg) (s : State) : Host.Outcome State Fault Refusal :=
  s.sfu m 6 d a (.lit 0)

/-- `tanh` (R126). -/
def execTanh (m : Mods) (d a : Reg) (s : State) : Host.Outcome State Fault Refusal :=
  s.sfu m 7 d a (.lit 0)

/-- `sigm` (R126). -/
def execSigm (m : Mods) (d a : Reg) (s : State) : Host.Outcome State Fault Refusal :=
  s.sfu m 8 d a (.lit 0)

/-- `fdiv` (R126). -/
def execFdiv (m : Mods) (d a : Reg) (b : Src) (s : State) : Host.Outcome State Fault Refusal :=
  s.sfu m 9 d a b

/-- `cvt.f.i` (R132). -/
def execCvtFI (m : Mods) (d a : Reg) (s : State) : Host.Outcome State Fault Refusal :=
  s.fp1 m d a 1 true (fun mode ftz u x => cvtFromInt mode ftz u (BitVec.ofNat 32 x).toInt)

/-- `cvt.f.n` (R132). -/
def execCvtFN (m : Mods) (d a : Reg) (s : State) : Host.Outcome State Fault Refusal :=
  s.fp1 m d a 1 true (fun mode ftz u x => cvtFromInt mode ftz u x)

/-- `cvt.i.f` (R133). -/
def execCvtIF (m : Mods) (d a : Reg) (s : State) : Host.Outcome State Fault Refusal :=
  s.fp1 m d a 1 false (cvtToInt (-2 ^ 31) (2 ^ 31 - 1))

/-- `cvt.n.f` (R133). -/
def execCvtNF (m : Mods) (d a : Reg) (s : State) : Host.Outcome State Fault Refusal :=
  s.fp1 m d a 1 false (cvtToInt 0 (2 ^ 32 - 1))

/-- `cvt2.bf` (R132). -/
def execCvt2Bf (m : Mods) (d a : Reg) (b : Src) (s : State) : Host.Outcome State Fault Refusal :=
  s.cvtPack m d a b bf16

/-- `cvt2.hf` (R132). -/
def execCvt2Hf (m : Mods) (d a : Reg) (b : Src) (s : State) : Host.Outcome State Fault Refusal :=
  s.cvtPack m d a b fp16

/-- `cvt.f.bfl` (R132). -/
def execCvtFBfl (m : Mods) (d a : Reg) (s : State) : Host.Outcome State Fault Refusal :=
  s.fp1 m d a 0 true (fun _ ftz _ x => cvtWiden bf16 ftz (x % 2 ^ 16))

/-- `cvt.f.bfh` (R132). -/
def execCvtFBfh (m : Mods) (d a : Reg) (s : State) : Host.Outcome State Fault Refusal :=
  s.fp1 m d a 0 true (fun _ ftz _ x => cvtWiden bf16 ftz (x / 2 ^ 16))

/-- `cvt.f.hfl` (R132). -/
def execCvtFHfl (m : Mods) (d a : Reg) (s : State) : Host.Outcome State Fault Refusal :=
  s.fp1 m d a 0 true (fun _ ftz _ x => cvtWiden fp16 ftz (x % 2 ^ 16))

/-- `cvt.f.hfh` (R132). -/
def execCvtFHfh (m : Mods) (d a : Reg) (s : State) : Host.Outcome State Fault Refusal :=
  s.fp1 m d a 0 true (fun _ ftz _ x => cvtWiden fp16 ftz (x / 2 ^ 16))

/-- `cvt.f.e4` (R132). -/
def execCvtFE4 (m : Mods) (d a : Reg) (s : State) : Host.Outcome State Fault Refusal :=
  s.fp1 m d a 0 true (fun _ ftz _ x => cvtWiden e4m3 ftz (x % 2 ^ 8))

/-- `cvt.f.e5` (R132). -/
def execCvtFE5 (m : Mods) (d a : Reg) (s : State) : Host.Outcome State Fault Refusal :=
  s.fp1 m d a 0 true (fun _ ftz _ x => cvtWiden e5m2 ftz (x % 2 ^ 8))

/-- `cvt.e4` (R132). -/
def execCvtE4 (m : Mods) (d a : Reg) (s : State) : Host.Outcome State Fault Refusal :=
  s.fp1 m d a 1 true (cvtNarrow e4m3)

/-- `cvt.e5` (R132). -/
def execCvtE5 (m : Mods) (d a : Reg) (s : State) : Host.Outcome State Fault Refusal :=
  s.fp1 m d a 1 true (cvtNarrow e5m2)

end Sys2Proof.Machine
end

