-- ==== Sys2Proof/Machine/Matrix.lean ====
section
/-! DEFINITION. The matrix array (R52, R63, R219 to R222, R323, R340): products of tiles, the online-softmax step, reads and clears of a
context, in ticket order. -/

namespace Sys2Proof.Machine

open Sys2Proof

/-! ### Elements (R52, R55, R263) -/

/-- An element of a tile: an exact integer, or a floating-point value. -/
inductive Elt where
  | int (i : Int)
  | flt (v : Val)
  deriving DecidableEq, Repr

/-- The bits of element (r, k) of a tile in a layout (0 c8, 1 c16, 2 c4). -/
def Tile.bits (t : Tile) (layout r k : Nat) : Nat :=
  let at_ := fun b => (sget 0 t.data (128 * r + b)).toNat
  match layout with
  | 0 => at_ k
  | 1 => at_ (2 * k) + 256 * at_ (2 * k + 1)
  | _ => at_ (k / 2) / 16 ^ (k % 2) % 16

/-- The value of element bits under a type code (R263) and signedness. -/
def eltOf (layout ty : Nat) (uns : Bool) (b : Nat) : Elt :=
  match ty with
  | 0 =>
    let w := if layout = 2 then 4 else 8
    .int (if uns then (b : Int) else sxInt w b)
  | 1 => .flt (e4m3.read b).1
  | 2 => .flt (e5m2.read b).1
  | 3 => .flt (bf16.read b).1
  | _ => .flt (fp16.read b).1

/-- The value of an element. -/
def Elt.val : Elt → Val
  | .int i => .fin (decide (i < 0)) i.natAbs 1
  | .flt v => v

/-- A product of two elements (R52, R63): an integer product is never −0. -/
def Elt.mul : Elt → Elt → Val
  | .int i, .int j => .fin (decide (i * j < 0)) (i * j).natAbs 1
  | a, b => (mulV a.val b.val).1

/-- A value times 2^e. -/
def scaleVal (e : Int) : Val → Val
  | .fin neg n d => if 0 ≤ e then .fin neg (n * 2 ^ e.toNat) d else .fin neg n (d * 2 ^ (-e).toNat)
  | v => v

/-- The exact sum of products (R63): −0 only when every product is −0, NaN for infinities of both signs. -/
def sumVals : List Val → Val
  | [] => .fin false 0 1
  | v :: vs => vs.foldl (fun a b => (addV RNE a b).1) v

/-- Columns of a group (R63). -/
def groupSize (layout : Nat) : Nat := match layout with | 0 => 32 | 1 => 16 | _ => 64

/-- The sideband exponent of a row and group, or 0 (R63). -/
def Tile.scaleExp (t : Tile) (use : Bool) (r g : Nat) : Int :=
  if use then ((sget 0x7F t.side (4 * r + g)).toNat : Int) - 127 else 0

/-- The exact group sum of an element (R63). -/
def groupSum (b : MxBind) (ta tb : Tile) (i j g : Nat) : Val :=
  let n := groupSize b.layout
  let e := ta.scaleExp (b.scA && b.layout == 0) i g + tb.scaleExp (b.scB && b.layout == 0) j g
  scaleVal e (sumVals ((List.range n).map (fun k =>
    (eltOf b.layout b.tyA b.unsA (ta.bits b.layout i (n * g + k))).mul
      (eltOf b.layout b.tyB b.unsB (tb.bits b.layout j (n * g + k))))))

/-- RN(a + v) in FP32. -/
def addTo (a : Word) (v : Val) : Word := rn (addV RNE (val32 a) v).1
/-- RN(a · b) in FP32. -/
def mul32 (a b : Word) : Word := rn (mulV (val32 a) (val32 b)).1

/-- FP32 1.0. -/
def one32 : Word := 0x3F800000
/-- FP32 −∞. -/
def negInf32 : Word := 0xFF800000

/-- One accumulator after `mx.mma` (R220). -/
def mmaElt (b : MxBind) (ta tb : Tile) (acc pend : Word) (i j : Nat) : Word :=
  let a := if pend = one32 then acc else mul32 acc pend
  (List.range 4).foldl (fun a g => addTo a (groupSum b ta tb i j g)) a

/-- A context after `mx.mma` (R220). -/
def MxCtx.mma (x : MxCtx) (b : MxBind) (ta tb : Tile) : MxCtx :=
  let acc := (List.range 128).foldl (fun st i =>
    (List.range 128).foldl (fun st j =>
      sset 0 st (128 * i + j) (mmaElt b ta tb (sget 0 x.acc (128 * i + j)) (sget one32 x.pend i) i j)) st) x.acc
  { x with acc := acc, pend := [] }

/-! ### The softmax step (R221) -/

/-- ex2 in the array, within 1 ulp (R221; log entry 7): ex2(−∞) = +0. -/
def mxEx2 (w : Word) : Word :=
  match val32 w with
  | .nan => BitVec.ofNat 32 fp32.nan
  | .inf neg => if neg then 0 else 0x7F800000
  | .fin neg n d => BitVec.ofNat 32 (ex2N 64 false w neg n d).1

/-- The larger of two FP32 values; a NaN propagates, and −0 lies below +0 (R119, R221). -/
def max32 (a b : Word) : Word := BitVec.ofNat 32 (fp32.minmax false true false a.toNat b.toNat).1

/-- RN((a − b) · c), each operation rounded (R221). -/
def expArg (a b c : Word) : Word := mul32 (addTo a (negV (val32 b))) c

/-- What the step computes for one row: the new m and l, the factor, and P as BF16. -/
structure SmRow where
  m : Word
  l : Word
  f : Word
  p : List Nat
  deriving DecidableEq, Repr

/-- One row of `mx.sm` (R221). -/
def smRow (m l c : Word) (s : List Word) : SmRow :=
  let mn := s.foldl max32 m
  let f := if mn = negInf32 then one32 else mxEx2 (expArg m mn c)
  let p := s.map (fun v => if mn = negInf32 then 0 else narrowTo bf16 (mxEx2 (expArg v mn c)).toNat)
  let lf := mul32 l f
  ⟨mn, addTo lf (sumVals (p.map (fun b => (bf16.read b).1))), f, p⟩

/-- The rows of the scores of a context. -/
def MxCtx.row (x : MxCtx) (i : Nat) : List Word := (List.range 128).map (fun j => sget 0 x.acc (128 * i + j))

/-- One row written to the context, the other context and the two slots of P. -/
def Core.smStep (k : Core) (x p : Nat) (c : Word) (i : Nat) : Core :=
  let m := k.ctx x
  let r := smRow (sget negInf32 m.m i) (sget 0 m.l i) c (m.row i)
  let k := k.setCtx x { m with m := sset negInf32 m.m i r.m, l := sset 0 m.l i r.l }
  let o := k.ctx (1 - x)
  let k := k.setCtx (1 - x) { o with pend := sset one32 o.pend i (mul32 (sget one32 o.pend i) r.f) }
  let put := fun (k : Core) (slot : Nat) (es : List Nat) =>
    let t := k.tile slot
    k.setTile slot { t with data := putFrom 0 (128 * i) (packRow 2 es) t.data }
  put (put k p (r.p.take 64)) (p + 1) (r.p.drop 64)

/-- `mx.sm` on a core (R221): the two slots are filled. -/
def Core.softmax (k : Core) (x p : Nat) (c : Word) : Core :=
  let k := k.mapTiles p (fun t => { t with data := [], side := [] }) 2
  let k := (List.range 128).foldl (fun k i => k.smStep x p c i) k
  (k.fillDone p none).fillDone (p + 1) none

/-! ### MATRIX_COMMAND_EXECUTE (R220 to R222) -/

/-- A value of `mx.rd` (R222). -/
def MxCtx.readAt (x : MxCtx) (src row i : Nat) : Word :=
  match src with
  | 0 => sget 0 x.acc (128 * row + i)
  | 1 => sget negInf32 x.m i
  | 2 => sget 0 x.l i
  | _ => sget one32 x.pend i

/-- Write the results of an engine to the threads of a party that have not left, and lower its flag. -/
def State.engResult (s : State) (p : Nat) (flag : Nat) (uniform : Bool) (vs : List (Nat × Dest × Nat)) : State :=
  s.onParty p (fun x =>
    let y := x.deposit (fun x => vs.foldl (fun x e => if !uniform && bitOf x.left e.1 then x else x.setDest e.1 e.2.1 e.2.2) x)
    if flag < 12 then y.doneFlag flag 1 else y)

/-- A destination is a uniform register. -/
def Dest.isUni : Dest → Bool
  | .uni _ => true
  | _ => false

/-- The head of a context's queue has completed: it leaves the queue, and its timeline reaches the ticket. -/
def State.mxDone (s : State) (c x : Nat) (q : MxCmd) : State :=
  s.onCore c (fun k =>
    let m := k.ctx x
    { (k.setCtx x { m with queue := m.queue.tail }) with done := sset 0 k.done (4 + x) q.ticket })

/-- A product (R220, R340, R395): an operand slot that is poisoned records 0x14, and a checksum mismatch 0x3F; the accumulators then
stay. Both reads complete. -/
def State.product (s : State) (c x a b : Nat) (q : MxCmd) : State :=
  let fe := match s.crew? q.crew with | some k => k.fe | none => 0
  let u := s.tileError c a
  let v := u.1.tileError c b
  let s := v.1
  let k := s.core c
  let fault := fun (s : State) (cause : BitVec 6) => s.engFault c fe ⟨q.crew, 0, cause, 0, 4 + x, q.ticket, 12⟩
  let s := if u.2 || v.2 then fault s 0x14
    else match s.upset with
    | .checksum => fault { s with upset := .none } 0x3F
    | _ => s.setCore c (k.setCtx x ((k.ctx x).mma q.bind (k.tile a) (k.tile b)))
  s.onCore c (fun k => (k.readDone a).readDone b)

/-- MATRIX_COMMAND_EXECUTE (R220, R323): the first command of a context, in ticket order, once the `mx.sm` of the other context that
it follows has completed. A follow-on and the place of a `cp.out` wait for the Porter; a cancelled follow-on only completes. -/
def execMatrixCommandExecute (c x : Nat) (s : State) : Host.Outcome State Fault Refusal :=
  State.event (
    let k := s.core c
    match (k.ctx x).queue with
    | [] => s
    | q :: _ =>
      if k.doneOf (5 - x) < q.needs then s
      else match q.op with
      | .drain _ _ => s
      | .follow _ _ _ _ dead => if dead then s.mxDone c x q else s
      | .mma a b => (s.product c x a b q).mxDone c x q
      | .sm p w => (s.setCore c (k.softmax x p w)).mxDone c x q
      | .rd p lanes src row flag =>
        let m := k.ctx x
        (s.engResult p flag (lanes.any (fun e => e.2.1.isUni))
          (lanes.map (fun e => (e.1, e.2.1, (m.readAt src row e.2.2).toNat)))).mxDone c x q
      | .clr => (s.setCore c (k.setCtx x (k.ctx x).clear)).mxDone c x q)

end Sys2Proof.Machine
end

