-- ==== Sys2Proof/Machine/BankEngine.lean ====
section
/-! DEFINITION. The bank engines (R95, R225 to R228, R336): a list starts, and its commands execute one a step. -/

namespace Sys2Proof.Machine

open Sys2Proof

/-! ### Commands (R95, R226) -/

/-- A command of a list with its operands. -/
inductive BankOp where
  | bend
  | bvec (count : Nat) (src : DWord)
  | bmv (c8 : Bool) (k a n : Nat) (weights : DWord)
  | bclr (a n : Nat)
  | bout (half : Bool) (a n : Nat) (dst : DWord)
  | bsync
  deriving DecidableEq, Repr

/-- The code of a command (R95). -/
def BankOp.code : BankOp → Nat
  | .bend => 0
  | .bvec _ _ => 1
  | .bmv _ _ _ _ _ => 2
  | .bclr _ _ => 3
  | .bout _ _ _ _ => 4
  | .bsync => 5

/-- A command from its four words, its address operand in words 2 and 3; none where it breaks R226. -/
def bankDecode (w0 w1 : Word) (ad : DWord) : Option BankOp :=
  let a := (w1.extractLsb' 0 12).toNat
  let n := (w1.extractLsb' 12 12).toNat
  let range := w1.extractLsb' 24 8 == 0 && 1 ≤ n && a + n ≤ 2048
  let plain := w0.extractLsb' 8 24 == 0
  match (w0.extractLsb' 0 8).toNat with
  | 0 => if plain && w1 == 0 && ad == 0 then some .bend else none
  | 1 =>
    let c := (w0.extractLsb' 8 12).toNat
    if w0.extractLsb' 20 12 == 0 && 1 ≤ c && c ≤ 2048 && w1 == 0 && ad.toNat % 2 == 0 then some (.bvec c ad) else none
  | 2 =>
    let k := (w0.extractLsb' 12 12).toNat
    if w0.extractLsb' 9 3 == 0 && w0.extractLsb' 24 8 == 0 && k % 128 == 0 && 128 ≤ k && k ≤ 2048 && range &&
        ad.toNat % 64 == 0 then some (.bmv (w0.getLsbD 8) k a n ad) else none
  | 3 => if plain && range && ad == 0 then some (.bclr a n) else none
  | 4 =>
    let half := w0.getLsbD 8
    if w0.extractLsb' 9 23 == 0 && range && ad.toNat % (if half then 2 else 4) == 0 then some (.bout half a n ad) else none
  | 5 => if plain && w1 == 0 && ad == 0 then some .bsync else none
  | _ => none

/-! ### Conflicts between commands in flight (R227) -/

/-- Two ranges share an element. -/
def overlaps (a n b m : Nat) : Bool := a < b + m && b < a + n

/-- Two touches meet, and one of them writes. -/
def BankTouch.conflict : BankTouch → BankTouch → Bool
  | .vec w a n, .vec x b m => (w || x) && overlaps a n b m
  | .acc w a n, .acc x b m => (w || x) && overlaps a n b m
  | .bytes w a n, .bytes x b m => (w || x) && overlaps a n b m
  | _, _ => false

/-- Give `n` keys free values. -/
def State.freeKeys (s : State) (k : Nat) (st : Sparse Word) : Nat → Sparse Word × State
  | 0 => (st, s)
  | n + 1 => let f := s.freeWord; f.2.freeKeys (k + 1) (sset 0 st k f.1) n

/-- Give `n` bytes of memory free values. -/
def State.freeBytes (s : State) (a : Nat) : Nat → State
  | 0 => s
  | n + 1 => let f := s.freeWord; (f.2.storeN a (f.1.toNat % 256) 1).freeBytes (a + 1) n

/-- A written range takes unpredictable values (log entry 6). -/
def State.blur (s : State) (e : Nat) : BankTouch → State
  | .vec true a n =>
    let r := s.freeKeys a (s.bank e).vec n
    r.2.onBank e (fun b => { b with vec := r.1 })
  | .acc true a n =>
    let r := s.freeKeys a (s.bank e).acc n
    r.2.onBank e (fun b => { b with acc := r.1 })
  | .bytes true a n => s.freeBytes a n
  | _ => s

/-! ### What a command touches in memory (R226, R336) -/

/-- Every byte of a physical range lies in bank-local regions of engine `e`, one region a line at most. -/
def State.bankLocal (s : State) (e pa n : Nat) : Bool :=
  s.mem.regions.any (fun r => r.desc.extractLsb' 0 2 == 1 && (r.desc.extractLsb' 2 10).toNat == e && r.base ≤ pa &&
    pa + n ≤ r.base + r.size)

/-- BVEC and BOUT reach device memory of the package only (R226). -/
def State.bankPa (s : State) (g : Eng) (write : Bool) (va : DWord) : Except (BitVec 6) Nat :=
  match s.reach g.fe g.quad ⟨write, false, g.user⟩ va with
  | .error c => .error c
  | .ok t => match s.pageKind g.fe t with
    | .tier2 | .remote => .error 0x23
    | _ => s.engPa g write va

/-- The physical places of an operand, each checked by `ok`: the first fault, or the places. -/
def placesBy (ok : DWord → Nat → Except (BitVec 6) Nat) : List (DWord × Nat) → Except (BitVec 6 × DWord) (List (Nat × Nat))
  | [] => .ok []
  | (va, n) :: es => match ok va n with
    | .error c => .error (c, va)
    | .ok pa => match placesBy ok es with
      | .error e => .error e
      | .ok ps => .ok ((pa, n) :: ps)

/-- Bytes of a weight row: groups, scales, and the padding to lines (R226). -/
def bmvPitch (c8 : Bool) (k : Nat) : Nat :=
  let n := k / 128 * (if c8 then 128 else 64) + k / 128 * 2
  (n + 63) / 64 * 64

/-- The places of a command in memory. -/
def State.bankPlaces (s : State) (g : Eng) (e : Nat) : BankOp → Except (BitVec 6 × DWord) (List (Nat × Nat))
  | .bvec c src => placesBy (fun va _ => s.bankPa g false va) (segmentsOf src (2 * c))
  | .bmv c8 k _ n w => placesBy (fun va len => match s.engPa g false va with
      | .error c => .error c
      | .ok pa => if s.bankLocal e pa len then .ok pa else .error 0x24) (segmentsOf w (n * bmvPitch c8 k))
  | .bout half _ n dst => placesBy (fun va _ => match s.bankPa g true va with
      | .error c => .error c
      | .ok pa => if s.countersDone pa then .error 0x13 else .ok pa) (segmentsOf dst (n * (if half then 2 else 4)))
  | _ => .ok []

/-- The ranges a command touches. -/
def BankOp.touches (ps : List (Nat × Nat)) : BankOp → List BankTouch
  | .bend | .bsync => []
  | .bvec _ _ => BankTouch.vec true 0 2048 :: ps.map (fun q => BankTouch.bytes false q.1 q.2)
  | .bmv _ k a n _ => BankTouch.vec false 0 k :: BankTouch.acc true a n :: ps.map (fun q => BankTouch.bytes false q.1 q.2)
  | .bclr a n => [BankTouch.acc true a n]
  | .bout _ a n _ => BankTouch.acc false a n :: ps.map (fun q => BankTouch.bytes true q.1 q.2)

/-! ### The arithmetic (R227) -/

/-- One group of a weight row times the vector, scaled: exact (R63, R227). -/
def bmvGroup (c8 : Bool) (x : Sparse Word) (g scale : Nat) (bs : List Byte) : Val :=
  let ws : List Int := if c8 then bs.map (fun b => b.toInt) else (nibbles bs).map (sxInt 4)
  let es := ws.zipIdx.map (fun e => (Elt.int e.1).mul (.flt (bf16.read (sget 0 x (128 * g + e.2)).toNat).1))
  (mulV (sumVals es) (bf16.read scale).1).1

/-- One accumulator after a weight row. -/
def bmvRow (c8 : Bool) (k : Nat) (x : Sparse Word) (acc : Word) (row : List Byte) : Word :=
  let gb := if c8 then 128 else 64
  let sc := numbers 2 (row.drop (k / 128 * gb))
  (List.range (k / 128)).foldl (fun acc g => addTo acc (bmvGroup c8 x g (sc.getD g 0) ((row.drop (gb * g)).take gb))) acc

/-- Accumulators in memory form. -/
def outBytes (half : Bool) (w : Word) : List Byte :=
  let v := if half then narrowTo bf16 w.toNat else w.toNat
  (List.range (if half then 2 else 4)).map (fun k => BitVec.ofNat 8 (v / 256 ^ k))

/-- The effect of a command; `bs` are the bytes it has read, `ps` the places it writes. -/
def State.bankDo (s : State) (e : Nat) (bs : List Byte) (ps : List (Nat × Nat)) : BankOp → State
  | .bend | .bsync => s
  | .bvec _ _ => s.onBank e (fun b => { b with vec := putFrom 0 0 ((numbers 2 bs).map (BitVec.ofNat 32)) [] })
  | .bmv c8 k a n _ => s.onBank e (fun b =>
      let rows := chunks (bmvPitch c8 k) n bs
      { b with acc := (List.range n).foldl (fun (acc : Sparse Word) r =>
          sset 0 acc (a + r) (bmvRow c8 k b.vec (sget 0 acc (a + r)) (rows.getD r []))) b.acc })
  | .bclr a n => s.onBank e (fun b => { b with acc := (List.range n).foldl (fun (acc : Sparse Word) r => sdrop acc (a + r)) b.acc })
  | .bout half a n _ => s.engWrite ((List.range n).flatMap (fun r => outBytes half (sget 0 (s.bank e).acc (a + r)))) ps

/-! ### Lists (R209, R225, R228) -/

/-- Retire the tickets of tl7 that follow the completed value (R209); `n` bounds their number. -/
def Core.retireLists (k : Core) : Nat → Core
  | 0 => k
  | n + 1 =>
    let t := (k.doneOf 7 + 1) % 2 ^ 64
    if k.bankDone.contains t then { k with bankDone := k.bankDone.erase t, done := sset 0 k.done 7 t }.retireLists n else k

/-- The running list of an engine completes. -/
def State.listDone (s : State) (e : Nat) (l : BankList) : State :=
  (s.onBank e (fun b => { b with run := none, next := 0, touched := [] })).onCore l.core (fun k =>
    let k := { k with bankDone := k.bankDone ++ [l.ticket] }
    k.retireLists k.bankDone.length)

/-- A command faults: the fault is recorded for the issuing crew, and the list ends. -/
def State.listFault (s : State) (e : Nat) (l : BankList) (c : BitVec 6) (a : DWord) : State :=
  (s.engFault l.core l.fe ⟨l.crew, 0, c, a, 7, l.ticket, 12⟩).listDone e l

/-- The party's writes that the issue of a list released are acknowledged (R228). -/
def State.released (s : State) (after : List Nat) : Bool := !s.reqs.any (fun e => after.contains e.1 && e.2.openWrite)

/-- BANK_LIST_START (R225): an idle engine takes its oldest list and clears its accumulators and vector buffer. -/
def execBankListStart (engine : Nat) (s : State) : Host.Outcome State Fault Refusal :=
  State.event (
    let b := s.bank engine
    match b.run, b.queue with
    | none, l :: ls =>
      if s.released l.after then s.onBank engine (fun _ => ⟨ls, some l, 0, [], [], []⟩) else s
    | _, _ => s)

/-- The segments a command reads. -/
def BankOp.reads : BankOp → List (DWord × Nat)
  | .bvec c src => segmentsOf src (2 * c)
  | .bmv c8 k _ n w => segmentsOf w (n * bmvPitch c8 k)
  | _ => []

/-- What the reads of a command meet: the first cause with its address. -/
def State.readAll (s : State) (fe unit : Nat) : List ((DWord × Nat) × (Nat × Nat)) → State × Option (BitVec 6 × DWord)
  | [] => (s, none)
  | ((va, _), (pa, _)) :: es => match s.readLine fe unit (pa / 64) with
    | (s, some c) => (s, some (c, va))
    | (s, none) => s.readAll fe unit es

/-- Execute a command of the running list. -/
def State.bankExec (s : State) (g : Eng) (e : Nat) (l : BankList) (op : BankOp) : State :=
  match s.bankPlaces g e op with
  | .error f => s.listFault e l f.1 f.2
  | .ok ps =>
    match s.readAll l.fe e (op.reads.zip ps) with
    | (s, some f) => s.listFault e l f.1 f.2
    | (s, none) =>
      let ts := op.touches ps
      let before := (s.bank e).touched
      let clash := ts.any (fun t => before.any t.conflict)
      let s := if clash then before.foldl (fun (s : State) t => s.blur e t) s else s
      let s := s.bankDo e (ps.flatMap (fun q => s.bytesAt q.1 q.2)) ps op
      let s := if clash then ts.foldl (fun (s : State) t => s.blur e t) s else s
      match op with
      | .bend => s.listDone e l
      | _ => s.onBank e (fun b => { b with
          next := b.next + 1
          touched := if op.code = 5 then [] else before ++ ts })

/-- The next command of an engine's running list, if its code is `code` (R95, R225): a command that cannot be read, breaks R226
or is the 257th ends the list with a fault. -/
def State.bankStep (s : State) (e code : Nat) : State :=
  match (s.bank e).run with
  | none => s
  | some l =>
    let next := (s.bank e).next
    if 256 ≤ next then s.listFault e l 0x23 0
    else
      let g : Eng := ⟨l.fe, quadOfCore l.core, l.user⟩
      let at_ := l.desc + BitVec.ofNat 64 (16 * next)
      match s.engRead g (segmentsOf at_ 16) with
      | (s, .error f) => s.listFault e l f.1 f.2
      | (s', .ok bs) =>
        let ws := numbers 4 bs
        let w0 := BitVec.ofNat 32 (ws.getD 0 0)
        match bankDecode w0 (BitVec.ofNat 32 (ws.getD 1 0)) (BitVec.ofNat 64 (ws.getD 2 0 + 2 ^ 32 * ws.getD 3 0)) with
        | none => if w0.toNat % 256 = code || 5 < w0.toNat % 256 then s'.listFault e l 0x23 0 else s
        | some op => if op.code = code then s'.bankExec g e l op else s

/-- BEND (R225, R227): the list completes. -/
def execBend (engine : Nat) (s : State) : Host.Outcome State Fault Refusal := State.event (s.bankStep engine 0)
/-- BVEC (R226, R227). -/
def execBvec (engine : Nat) (s : State) : Host.Outcome State Fault Refusal := State.event (s.bankStep engine 1)
/-- BMV (R226, R227). -/
def execBmv (engine : Nat) (s : State) : Host.Outcome State Fault Refusal := State.event (s.bankStep engine 2)
/-- BCLR (R226, R227). -/
def execBclr (engine : Nat) (s : State) : Host.Outcome State Fault Refusal := State.event (s.bankStep engine 3)
/-- BOUT (R226, R227). -/
def execBout (engine : Nat) (s : State) : Host.Outcome State Fault Refusal := State.event (s.bankStep engine 4)
/-- BSYNC (R227): what follows no longer meets the commands before it. -/
def execBsync (engine : Nat) (s : State) : Host.Outcome State Fault Refusal := State.event (s.bankStep engine 5)

end Sys2Proof.Machine
end

