-- ==== Sys2Proof/Machine/Coach.lean ====
section
/-! DEFINITION. The Coach (R18, R349, R350): records enter their buckets, buckets depart plan parties, and the parties are placed. -/

namespace Sys2Proof.Machine

open Sys2Proof

/-! ### Entry (R349) -/

/-- The record carries an intention. -/
def Activation.owned (a : Activation) : Bool := !a.detached

/-- What a record needs of its node: the code address and the timer; none when the entry is unreadable. -/
def State.readNode (s : State) (fe quad node : Nat) : Option (DWord × Nat) :=
  let l := s.library fe quad
  let o := l.nodeOff + 16 * node
  if !l.ok || decide (l.nodes ≤ node) then none
  else match s.libAt fe quad l.base o 8, s.libAt fe quad l.base (o + 8) 4 with
  | some c, some t => if 500 ≤ t && t ≤ 1000000 then some (BitVec.ofNat 64 c, t) else none
  | _, _ => none

/-- An end request the Coach sends to the home Steward of a record whose node it cannot read (R349): a drop of a ready
intention. -/
def State.dropRecord (s : State) (a : Activation) : State :=
  match s.agent a.fe a.handle with
  | .error _ => s
  | .ok g =>
    let st := (s.status g a.slot).state
    let r := if st = 4 then s.applyFailure g a.slot
      else if st = 1 then (s.markFailed g a.slot 3).applyFailure g a.slot
      else (s, [])
    let work := r.1.workOf a.fe (BitVec.ofNat 32 a.handle) r.2
    r.1.onQuad g.quad (fun k => { k with fifo := k.fifo ++ work.map (fun w => ⟨a.fe, a.handle, none, w⟩) })

/-- The key of a bucket: lodging and node. -/
def bucketKey (fe node : Nat) : Nat := fe * 4096 + node

/-- The width and register count of a lodging's plan parties (R205). -/
def Lib.width (l : Lib) : Nat := 16 * 2 ^ (l.shape % 4)
/-- The register count of a lodging's plan parties (R205). -/
def Lib.rt (l : Lib) : Nat := 16 * (l.shape / 2 ^ 8 % 128)

/-! ### Departure (R18, R192, R349) -/

/-- What a thread holds at departure (R18, R192, R231); a saved run is written last. -/
def Party.startThread (p : Party) (t : Nat) (a : Activation) : Party :=
  let v1 := if a.detached then (0xFFFF0000 : Word) else BitVec.ofNat 32 (a.plan * 2 ^ 16 + a.depth % 8 * 16 + a.slot % 8)
  let p := (p.setV t 0 (BitVec.ofNat 32 a.handle)).setV t 1 v1
  let p := p.setRun t 2 (if a.detached then 0 else a.locals.toNat) 2
  let p := a.args.zipIdx.foldl (fun p e => p.setV t (4 + e.2) e.1) p
  a.run.foldl (fun p e => p.setV t e.1 e.2) p

/-- A plan party with a thread for each record, oldest first: threads without a record have left at departure. -/
def planParty (fe crew : Nat) (l : Lib) (rs : List Activation) : Party :=
  let first := rs.headD ⟨fe, 0, 0, 0, 0, 0, [], [], 0, false, 0, 0, 0⟩
  let x := Party.blank fe crew none l.width l.rt first.code
  let x := (x.setU 1 l.base).setU 2 (BitVec.ofNat 64 first.node)
  let ts := rs.zipIdx
  let x := ts.foldl (fun x e => x.startThread e.2 e.1) x
  { x with
    left := x.all &&& ~~~ lowMask rs.length
    prio := 0
    runs := ts.filterMap (fun e => if e.1.detached then none else some (e.2, e.1.handle, e.1.slot + e.1.depth * 16 + e.1.plan * 2 ^ 16))
    detached := ts.foldl (fun m e => setBit m e.2 e.1.detached) 0 }

/-- The Coach departs a ready intention (R194): running, with its runner. A failed one stays failed and its thread still runs it. -/
def State.depart (s : State) (p lane : Nat) (t : Nat) (a : Activation) : State :=
  if a.detached then s
  else match s.agent a.fe a.handle with
  | .error _ => s
  | .ok g =>
    let st := s.status g a.slot
    let s := if st.state = 1 then s.setStatus g a.slot { st with state := 2 } else s
    if st.state = 1 || st.state = 4 then s.setRec g (slotOff a.slot + 0x30) 8 (runnerWord lane p t) else s

/-- A plan party's core: one of its quad, else of another quad of the lodging on the die (R350). -/
def State.planCore (s : State) (k : Crew) : Option (Nat × Nat) :=
  let quads := k.quad :: ((s.lod k.fe).onDie (dieOfQuad k.quad)).filter (· != k.quad)
  (quads.filterMap (fun q => match s.coreFor { k with quad := q } with | some c => some (q, c) | none => none)).head?

/-- Place a departed party, or leave it in its die's FIFO (R350). -/
def State.placePlan (s : State) (crew : Nat) : State :=
  match s.crew? crew with
  | none => s
  | some k =>
    let die := dieOfQuad k.quad
    match (if (sget [] s.dieFifo die).isEmpty then s.planCore k else none), s.coreFor k with
    | _, some c => s.admitCrew crew c
    | some (q, c), none => (s.onCrew crew (fun k => { k with quad := q })).admitCrew crew c
    | none, none => { s with dieFifo := sset [] s.dieFifo die (sget [] s.dieFifo die ++ [crew]) }

/-- Depart a party from a bucket with the given records; the others stay (R349). -/
def State.departBucket (s : State) (q key : Nat) (go stay : List Activation) : State :=
  let fe := key / 4096
  let l := s.library fe q
  let f := s.fresh
  let g := f.2.fresh
  let s := g.2.setParty g.1 (planParty fe f.1 l go)
  let k : Crew := ⟨fe, none, q, none, [g.1], .pending, false, (s.lod fe).planPrio, false, s.now, 0⟩
  let s := { s with crews := sput s.crews f.1 k }
  let s := s.onQuad q (fun k => { k with buckets := sset [] k.buckets key stay })
  let s := s.placePlan f.1
  let lane := match s.party? g.1 with | some x => x.lane | none => 0
  go.zipIdx.foldl (fun s e => s.depart g.1 lane e.2 e.1) s

/-- The records of a bucket that may depart: those that share the oldest one's code address, at most `w`; and the rest. -/
def splitBucket (w : Nat) (rs : List Activation) : List Activation × List Activation :=
  match rs with
  | [] => ([], [])
  | r :: _ =>
    let go := (rs.filter (fun a => a.code == r.code)).take w
    let rec without : List Activation → Nat → List Activation
      | [], _ => []
      | a :: as, n => if a.code == r.code && 0 < n then without as (n - 1) else a :: without as n
    (go, without rs go.length)

/-- ACTIVATION_ENTRY (R349): the oldest emitted record enters its bucket once the store has room; a full bucket departs a party, and
a record whose node is unreadable is discarded and logged. -/
def execActivationEntry (q : Nat) (s : State) : Host.Outcome State Fault Refusal :=
  State.event (match (s.quad q).emitted with
  | [] => s
  | a :: as =>
    if 262144 ≤ ((s.quad q).buckets.map (fun e => e.2.length)).sum then s
    else
      let s := s.onQuad q (fun k => { k with emitted := as })
      match s.readNode a.fe q a.node with
      | none =>
        let s := s.log 0x2D a.fe a.node 0
        if a.owned then s.dropRecord a else s
      | some (c, t) =>
        let key := bucketKey a.fe a.node
        let rs := sget [] (s.quad q).buckets key ++ [{ a with code := c, timer := t, arrived := s.now }]
        let s := s.onQuad q (fun k => { k with buckets := sset [] k.buckets key rs })
        let w := (s.library a.fe q).width
        let r := splitBucket w rs
        if r.1.length = w && (s.lod a.fe).st == .running then s.departBucket q key r.1 r.2 else s)

/-- COACH_TIMER_DEPARTURE (R349): the oldest record of a bucket has waited its timer, or the bucket holds a whole party: it departs.
The bucket is named by lodging and node. -/
def execCoachTimerDeparture (q key : Nat) (s : State) : Host.Outcome State Fault Refusal :=
  State.event (match sget [] (s.quad q).buckets key with
  | [] => s
  | r :: rs =>
    let w := (s.library r.fe q).width
    let d := splitBucket w (r :: rs)
    if (s.lod r.fe).st == .running && (d.1.length = w || decide (r.arrived + 2 * r.timer ≤ s.now)) then
      s.departBucket q key d.1 d.2
    else s)

/-- DIE_FIFO_PLACEMENT (R350): the oldest party of a die's FIFO goes to a quad of its lodging on that die with room. -/
def execDieFifoPlacement (die : Nat) (s : State) : Host.Outcome State Fault Refusal :=
  State.event (match sget [] s.dieFifo die with
  | [] => s
  | crew :: rest => match s.crew? crew with
    | none => { s with dieFifo := sset [] s.dieFifo die rest }
    | some k =>
      if (s.lod k.fe).st != .running then s
      else match s.planCore k with
      | some (q, c) => (s.onCrew crew (fun k => { k with quad := q })).admitCrew crew c
      | none => s)

end Sys2Proof.Machine
end

