-- ==== Sys2Proof/Machine/Envelope.lean ====
section
/-! DEFINITION. The envelope unit (12_isa_envelope.md, R234 to R254): exact envelopes, the issue of `env.*`, and ENVELOPE_EXECUTE. -/

namespace Sys2Proof.Machine

open Sys2Proof

/-! ### Lines and pieces (R234) -/

/-- A finite FP32 value. -/
def fin32 (w : Word) : Bool := match val32 w with | .fin _ _ _ => true | _ => false
/-- a < b, as FP32 values. -/
def lt32 (a b : Word) : Bool := cmpV (val32 a) (val32 b) == -1
/-- Exact quotient of finite values; the divisor is not zero. -/
def divV : Val → Val → Val
  | .fin a n d, .fin b k e => .fin (a != b) (n * e) (d * k)
  | _, _ => .nan
/-- Exact sum. -/
def plus (a b : Val) : Val := (addV RNE a b).1
/-- Exact difference. -/
def minus (a b : Val) : Val := plus a (negV b)
/-- Exact product. -/
def times (a b : Val) : Val := (mulV a b).1
/-- a < b, exactly. -/
def ltV (a b : Val) : Bool := cmpV a b == -1
/-- The larger of two exact values. -/
def maxVal (a b : Val) : Val := if ltV a b then b else a
/-- A zero without its sign. -/
def posZero (w : Word) : Word := if w = 0x80000000 then 0 else w

/-- A domain (R234): finite ends, lo < hi. -/
def goodDomain (lo hi : Word) : Bool := fin32 lo && fin32 hi && lt32 lo hi

/-- The value of a piece's line at x, exactly. -/
def Piece.at (p : Piece) (x : Val) : Val := plus (times (val32 p.m) x) (val32 p.b)

/-- Where two lines of different slope meet (R235, R245), exactly. -/
def meet (a b : Word × Word) : Val := divV (minus (val32 a.2) (val32 b.2)) (minus (val32 b.1) (val32 a.1))

/-- The ends of the pieces: each one's start, then `hi`. -/
def endsOf (ps : List Piece) (hi : Word) : List Word := ps.map (·.x) ++ [hi]

/-- Remove pieces whose rounded width is zero or less (R235, step 4). -/
def trimPieces (hi : Word) (ps : List Piece) : List Piece :=
  (ps.zip (endsOf ps hi).tail).filterMap (fun e => if lt32 e.1.x e.2 then some e.1 else none)

/-! ### The canonical envelope (R235) -/

/-- Put a line in its place by slope; of equal slopes the larger intercept stays. -/
def insertLine (l : Word × Word) : List (Word × Word) → List (Word × Word)
  | [] => [l]
  | k :: ks =>
    if lt32 l.1 k.1 then l :: k :: ks
    else if lt32 k.1 l.1 then k :: insertLine l ks
    else (if lt32 k.2 l.2 then l else k) :: ks

/-- Drop from a hull, last line first, the lines that the next line leaves no interval. -/
def popHull (l : Word × Word) : List (Word × Word) → List (Word × Word)
  | b :: a :: hs => if ltV (meet a b) (meet b l) then b :: a :: hs else popHull l (a :: hs)
  | hs => hs

/-- The lines of the upper envelope over all x, ascending; the input rises in slope. -/
def hullOf (ls : List (Word × Word)) : List (Word × Word) := (ls.foldl (fun hs l => l :: popHull l hs) []).reverse

/-- The candidate pieces over a domain: `left` is where the line before ends, `first` that no candidate stands yet. -/
def candidates (lo hi : Word) (first : Bool) (left : Option Val) : List (Word × Word) → List Piece
  | [] => []
  | l :: ls =>
    let right := match ls with | r :: _ => some (meet l r) | [] => none
    let a := match left with | some v => maxVal (val32 lo) v | none => val32 lo
    let b := match right with | some v => if ltV v (val32 hi) then v else val32 hi | none => val32 hi
    if ltV a b then
      let x := if first then lo else match left with | some v => rn v | none => lo
      ⟨l.1, l.2, x⟩ :: candidates lo hi false right ls
    else candidates lo hi first right ls

/-- C(L, lo, hi) (R235). A zero slope or intercept is written as +0, so that C depends on the set of lines alone (log entry 28). -/
def canon (ls : List (Word × Word)) (lo hi : Word) : List Piece :=
  let sorted := (ls.map (fun l => (posZero l.1, posZero l.2))).foldl (fun st l => insertLine l st) []
  trimPieces hi (candidates lo hi true none (hullOf sorted))

/-- The lines of an envelope. -/
def Env.lines (e : Env) : List (Word × Word) := e.pieces.map (fun p => (p.m, p.b))

/-! ### Operations (R241 to R245) -/

/-- The common domain of two envelopes (R241, R242). -/
def commonDomain (a b : Env) : Word × Word :=
  (if lt32 a.lo b.lo then b.lo else a.lo, if lt32 b.hi a.hi then b.hi else a.hi)

/-- The last piece that starts at or before x (R234). -/
def pieceAt (x : Word) : List Piece → Option Piece
  | [] => none
  | p :: ps => if lt32 x p.x then none else match pieceAt x ps with | some q => some q | none => some p

/-- Put a start in its place; one that is there counts once. -/
def insertStart (x : Word) : List Word → List Word
  | [] => [x]
  | y :: ys => if lt32 x y then x :: y :: ys else if lt32 y x then y :: insertStart x ys else y :: ys

/-- Merge pieces into a left neighbour of equal slope (R242): the left line is kept. -/
def mergeSlopes : List Piece → List Piece
  | [] => []
  | p :: ps => match mergeSlopes ps with
    | [] => [p]
    | q :: qs => if lt32 p.m q.m then p :: q :: qs else p :: qs

/-- The pieces of a sum over a domain (R242), before the finiteness check. -/
def sumPieces (a b : Env) (lo hi : Word) : List Piece :=
  let inner := ((a.pieces ++ b.pieces).map (·.x)).filter (fun x => lt32 lo x && lt32 x hi)
  let starts := inner.foldl (fun st x => insertStart x st) [lo]
  mergeSlopes (starts.filterMap (fun s => match pieceAt s a.pieces, pieceAt s b.pieces with
    | some p, some q => some ⟨rn (plus (val32 p.m) (val32 q.m)), rn (plus (val32 p.b) (val32 q.b)), s⟩
    | _, _ => none))

/-- Slopes with the exact widths of their pieces. -/
def widthsOf (e : Env) : List (Word × Val) :=
  (e.pieces.zip (endsOf e.pieces e.hi).tail).map (fun q => (q.1.m, minus (val32 q.2) (val32 q.1.x)))

/-- Merge two ascending lists by slope, the first list's piece first; equal slopes coalesce (R243). -/
def mergeWidths (a b : List (Word × Val)) : List (Word × Val) :=
  let put := fun (st : List (Word × Val)) (e : Word × Val) =>
    if st.any (fun q => !lt32 q.1 e.1 && !lt32 e.1 q.1) then
      st.map (fun q => if !lt32 q.1 e.1 && !lt32 e.1 q.1 then (q.1, plus q.2 e.2) else q)
    else st.filter (fun q => lt32 q.1 e.1) ++ e :: st.filter (fun q => lt32 e.1 q.1)
  b.foldl put a

/-- Lay pieces end to end from z, with the value V there (R243). -/
def layPieces (z v : Val) : List (Word × Val) → List Piece
  | [] => []
  | (m, w) :: ws => ⟨m, rn (minus v (times (val32 m) z)), rn z⟩ :: layPieces (plus z w) (plus v (times (val32 m) w)) ws

/-- The infimal convolution (R243): a cause, or the new slot. -/
def icvOf (a b : Env) : Except (BitVec 6) Env :=
  let lo := rn (plus (val32 a.lo) (val32 b.lo))
  let hi := rn (plus (val32 a.hi) (val32 b.hi))
  if !goodDomain lo hi then .error 0x21
  else match a.pieces, b.pieces with
  | p :: _, q :: _ =>
    let z := plus (val32 a.lo) (val32 b.lo)
    let v := plus (p.at (val32 a.lo)) (q.at (val32 b.lo))
    let ps := trimPieces hi (layPieces z v (mergeWidths (widthsOf a) (widthsOf b)))
    if ps.all (fun p => fin32 p.b) then .ok ⟨lo, hi, ps⟩ else .error 0x21
  | _, _ => .ok ⟨lo, hi, []⟩

/-- The lines of a conjugate (R244): one for each piece's start, then one for hi from the last piece. -/
def conjLines (hi : Word) : List Piece → List (Word × Word)
  | [] => []
  | p :: ps =>
    let line := fun (v : Word) => (v, rn (negV (p.at (val32 v))))
    match ps with
    | [] => [line p.x, line hi]
    | _ :: _ => line p.x :: conjLines hi ps

/-- The conjugate (R244). -/
def conjOf (a : Env) (lo hi : Word) : Except (BitVec 6) Env :=
  if a.pieces.isEmpty || !goodDomain lo hi then .error 0x21
  else
    let ls := conjLines a.hi a.pieces
    if ls.all (fun l => fin32 l.2) then .ok ⟨lo, hi, canon ls lo hi⟩ else .error 0x21

/-- A tolerance (R245): finite and not negative. -/
def goodTol (w : Word) : Bool := fin32 w && !lt32 w 0

/-- The pass of R245 from the last kept piece `l` over the pieces after it; `f` bounds their number. -/
def simpPass (tol hi : Word) (l : Piece) : Nat → List Piece → List Piece
  | f + 1, p :: r :: rest =>
    let e := match rest with | s :: _ => s.x | [] => hi
    let q := rn (meet (l.m, l.b) (r.m, r.b))
    let err := fun (x : Word) => minus (p.at (val32 x)) (maxVal (l.at (val32 x)) (r.at (val32 x)))
    let d := maxVal (err p.x) (err r.x)
    if !ltV (val32 tol) d && fin32 q && lt32 l.x q && lt32 q e then simpPass tol hi l f ({ r with x := q } :: rest)
    else l :: simpPass tol hi p f (r :: rest)
  | _, ps => l :: ps

/-- `env.simp`'s pass (R245). -/
def simpPieces (tol hi : Word) (ps : List Piece) : List Piece :=
  if ps.length ≤ 2 then ps
  else match ps with
  | l :: rest => simpPass tol hi l ps.length rest
  | [] => []

/-- At most 512 pieces (R246): one pass first where `envctl` asks for it. -/
def fitEnv (q : EnvCmd) (e : Env) : Except (BitVec 6) Env :=
  if e.pieces.length ≤ 512 then .ok e
  else if !q.auto then .error 0x20
  else if !goodTol q.tol then .error 0x21
  else
    let ps := simpPieces q.tol e.hi e.pieces
    if ps.length ≤ 512 then .ok { e with pieces := ps } else .error 0x20

/-! ### Issue (R236 to R238) -/

/-- The slot an operand names. -/
def Party.envOf (p : Party) : EnvRef → Nat
  | .num n => n.val
  | .s n => (p.uni n).toNat

/-- An envelope slot of a core. -/
def Core.envSlot (c : Core) (k : Nat) : EnvSlot := sget EnvSlot.reset c.env k
/-- Replace an envelope slot. -/
def Core.setEnv (c : Core) (k : Nat) (e : EnvSlot) : Core := { c with env := sset EnvSlot.reset c.env k e }
/-- Update consecutive slots. -/
def Core.mapEnv (c : Core) (k : Nat) (f : EnvSlot → EnvSlot) : Nat → Core
  | 0 => c
  | n + 1 => (c.setEnv k (f (c.envSlot k))).mapEnv (k + 1) f n

/-- Every operand slot is one of the crew's (R236, R238). -/
def Core.ownsEnv (c : Core) (crew : Nat) (ks : List Nat) : Bool :=
  ks.all (fun k => k < 16 && (c.envSlot k).owner == some crew)

/-- Sixteen instructions are queued (R237); marks of retired crews do not count. -/
def Core.envFull (c : Core) : Bool :=
  16 ≤ (c.envQ.filter (fun q => match q.op with | .retire _ => false | _ => true)).length

/-- Queue an envelope instruction (R237): the issue is held while 16 are queued; `counted` ones take a ticket of tl6. -/
def State.queueEnv (s : State) (p : Nat) (x : Party) (c : Nat) (k : Core) (counted : Bool) (op : EnvOp) (dest : Dest)
    (after : List Nat) : State :=
  if k.envFull then s.stall p
  else
    let t := if counted then k.ticket 6 else (0, k)
    let cmd : EnvCmd := ⟨p, x.crew, x.fe, x.user, t.1, x.flagB, op, dest, x.ctlRegs.envtol, x.ctlRegs.envctl.getLsbD 0, after⟩
    (s.setCore c { t.2 with envQ := t.2.envQ ++ [cmd] }).onParty p (fun x => x.addFlag x.flagB)

/-- Issue an instruction over slots of the crew. -/
def State.envIssue (s : State) (slots : Party → List Nat) (go : State → Nat → Party → Nat → Core → State) :
    Host.Outcome State Fault Refusal :=
  s.engine fun s p x c =>
    let k := s.core c
    if k.ownsEnv x.crew (slots x) then go s p x c k else s.refuseCmd p x 0x22

/-- The registers a per-thread result goes to. -/
def envLanes (x : Party) (d : Reg) : List (Nat × Dest) :=
  match d with
  | .s _ => [(0, x.destOf d 1)]
  | .v _ => (threadsOf x.width x.m0).map (fun t => (t, x.destOf d 1))

/-- `env.claim` (R239): the slots are the crew's at issue; the unit unsets them in its order. -/
def execEnvClaim (_m : Mods) (d : Reg) (b : Src) (s : State) : Host.Outcome State Fault Refusal :=
  s.engine fun s p x c =>
    let n := (x.srcZ b).toNat
    if n = 0 || 16 < n then s.refuseCmd p x 0x22
    else
      let k := s.core c
      if k.envFull then s.stall p
      else match (upto (17 - n)).find? (fun a => (upto n).all (fun i => (k.envSlot (a + i)).owner.isNone)) with
      | none => s.queueEnv p x c k false (.claim 16 n) (x.destOf d 1) []
      | some a =>
        s.queueEnv p x c (k.mapEnv a (fun e => { e with owner := some x.crew }) n) false (.claim a n) (x.destOf d 1) []

/-- `env.rel` (R239): unowned at issue. -/
def execEnvRel (_m : Mods) (a : EnvRef) (b : Src) (s : State) : Host.Outcome State Fault Refusal :=
  s.engine fun s p x c =>
    let n := (x.srcZ b).toNat
    let a := x.envOf a
    let k := s.core c
    if n = 0 || 16 < a + n || !k.ownsEnv x.crew ((upto n).map (a + ·)) then s.refuseCmd p x 0x22
    else if k.envFull then s.stall p
    else s.queueEnv p x c (k.mapEnv a (fun e => { e with owner := none }) n) false (.rel a n) .none []

/-- The domain an operand names (R236). -/
def Party.domainOf (p : Party) (b : Reg) : Word × Word := ((p.reg64 0 b).setWidth 32, (p.uniNext b).setWidth 32)

/-- `env.clr` (R239). -/
def execEnvClr (_m : Mods) (d : EnvRef) (b : Reg) (s : State) : Host.Outcome State Fault Refusal :=
  s.envIssue (fun x => [x.envOf d]) fun s p x c k =>
    s.queueEnv p x c k true (.clr (x.envOf d) (x.domainOf b).1 (x.domainOf b).2) .none []

/-- `env.ins` (R240): slopes and intercepts are checked at issue. -/
def execEnvIns (m : Mods) (d : EnvRef) (a : Reg) (b : Src) (s : State) : Host.Outcome State Fault Refusal :=
  s.envIssue (fun x => [x.envOf d]) fun s p x c k => s.alloc p x m ((a, 1) :: srcRun b 1) <|
    let ts := threadsOf x.width x.m0
    let bad := ts.filter (fun t => !fin32 (x.reg32 t 0 a) || !fin32 (x.src32 t 0 b))
    if !bad.isEmpty then s.raiseHere p 0x21 (bad.foldl (fun m t => setBit m t true) 0) 0
    else s.queueEnv p x c k true (.ins (x.envOf d) (ts.map (fun t => (x.reg32 t 0 a, x.src32 t 0 b)))) .none []

/-- `env.sum` (R242). -/
def execEnvSum (_m : Mods) (d a b : EnvRef) (s : State) : Host.Outcome State Fault Refusal :=
  s.envIssue (fun x => [x.envOf d, x.envOf a, x.envOf b]) fun s p x c k =>
    s.queueEnv p x c k true (.sum (x.envOf d) (x.envOf a) (x.envOf b)) .none []

/-- `env.max` (R241). -/
def execEnvMax (_m : Mods) (d a b : EnvRef) (s : State) : Host.Outcome State Fault Refusal :=
  s.envIssue (fun x => [x.envOf d, x.envOf a, x.envOf b]) fun s p x c k =>
    s.queueEnv p x c k true (.max (x.envOf d) (x.envOf a) (x.envOf b)) .none []

/-- `env.icv` (R243). -/
def execEnvIcv (_m : Mods) (d a b : EnvRef) (s : State) : Host.Outcome State Fault Refusal :=
  s.envIssue (fun x => [x.envOf d, x.envOf a, x.envOf b]) fun s p x c k =>
    s.queueEnv p x c k true (.icv (x.envOf d) (x.envOf a) (x.envOf b)) .none []

/-- `env.conj` (R244). -/
def execEnvConj (_m : Mods) (d a : EnvRef) (b : Reg) (s : State) : Host.Outcome State Fault Refusal :=
  s.envIssue (fun x => [x.envOf d, x.envOf a]) fun s p x c k =>
    s.queueEnv p x c k true (.conj (x.envOf d) (x.envOf a) (x.domainOf b).1 (x.domainOf b).2) .none []

/-- `env.simp` (R245). -/
def execEnvSimp (_m : Mods) (d a : EnvRef) (s : State) : Host.Outcome State Fault Refusal :=
  s.envIssue (fun x => [x.envOf d, x.envOf a]) fun s p x c k =>
    s.queueEnv p x c k true (.simp (x.envOf d) (x.envOf a)) .none []

/-- `env.eval` (R247). -/
def execEnvEval (m : Mods) (d : Reg) (a : EnvRef) (b : Src) (s : State) : Host.Outcome State Fault Refusal :=
  s.envIssue (fun x => [x.envOf a]) fun s p x c k => s.alloc p x m ((d, 1) :: srcRun b 1) <|
    s.queueEnv p x c k true (.eval (x.envOf a) ((envLanes x d).map (fun e => (e.1, e.2, x.src32 e.1 0 b)))) .none []

/-- `env.slope` (R247). -/
def execEnvSlope (m : Mods) (d : Reg) (a : EnvRef) (b : Src) (s : State) : Host.Outcome State Fault Refusal :=
  s.envIssue (fun x => [x.envOf a]) fun s p x c k => s.alloc p x m ((d, 1) :: srcRun b 1) <|
    s.queueEnv p x c k true (.slope (x.envOf a) ((envLanes x d).map (fun e => (e.1, e.2, x.src32 e.1 0 b)))) .none []

/-- `env.rd` (R249): nonzero reserved selector bits raise 0x02 at issue. -/
def execEnvRd (m : Mods) (d : Reg) (a : EnvRef) (b : Src) (s : State) : Host.Outcome State Fault Refusal :=
  s.envIssue (fun x => [x.envOf a]) fun s p x c k => s.alloc p x m [(d, 1)] <|
    let w := x.srcZ b
    if w.extractLsb' 9 7 != 0 || w.extractLsb' 18 46 != 0 then s.refuseCmd p x 0x02
    else s.queueEnv p x c k true
      (.rd (x.envOf a) (envLanes x d) (w.extractLsb' 0 9).toNat (w.extractLsb' 16 2).toNat) .none []

/-- `env.cnt` (R248). -/
def execEnvCnt (m : Mods) (d : Reg) (a : EnvRef) (s : State) : Host.Outcome State Fault Refusal :=
  s.envIssue (fun x => [x.envOf a]) fun s p x c k => s.alloc p x m [(d, 1)] <|
    s.queueEnv p x c k true (.cnt (x.envOf a) (envLanes x d)) .none []

/-- `env.ld` (R251): it releases the party's earlier writes. -/
def execEnvLd (_m : Mods) (d : EnvRef) (a : Reg) (s : State) : Host.Outcome State Fault Refusal :=
  s.envIssue (fun x => [x.envOf d]) fun s p x c k =>
    let ad := x.reg64 0 a
    if ad.toNat % 64 != 0 then s.raiseAddr p x 0x0E ad false
    else s.queueEnv p x c k true (.ld (x.envOf d) ad) .none (s.openWrites p)

/-- `env.st` (R251). -/
def execEnvSt (_m : Mods) (d : EnvRef) (a : Reg) (s : State) : Host.Outcome State Fault Refusal :=
  s.envIssue (fun x => [x.envOf d]) fun s p x c k =>
    let ad := x.reg64 0 a
    if ad.toNat % 64 != 0 then s.raiseAddr p x 0x0E ad true
    else s.queueEnv p x c k true (.st (x.envOf d) ad) .none []

/-! ### Images (R250, R251) -/

/-- The first page of a range that the unit does not accept (R251). -/
def State.envPages (s : State) (g : Eng) (write : Bool) : List (DWord × Nat) → Option (BitVec 6 × DWord)
  | [] => none
  | (va, _) :: es => match s.reach g.fe g.quad ⟨write, false, g.user⟩ va with
    | .error c => some (c, va)
    | .ok t => match s.pageKind g.fe t with
      | .device | .tier2 => s.envPages g write es
      | .agent => some (0x10, va)
      | .window _ => some (0x12, va)
      | .remote => some (0x38, va)

/-- Read a range of memory for the unit. -/
def State.envRead (s : State) (g : Eng) (va : DWord) (n : Nat) : State × Except (BitVec 6 × DWord) (List Nat) :=
  match s.envPages g false (segmentsOf va n) with
  | some e => (s, .error e)
  | none => match s.engRead g (segmentsOf va n) with
    | (s, .error e) => (s, .error e)
    | (s, .ok bs) => (s, .ok (numbers 4 bs))

/-- A slot's content meets R234. -/
def Env.good (e : Env) : Bool :=
  goodDomain e.lo e.hi &&
  e.pieces.all (fun p => fin32 p.m && fin32 p.b && fin32 p.x) &&
  (match e.pieces with | p :: _ => !lt32 p.x e.lo && !lt32 e.lo p.x | [] => true) &&
  (e.pieces.zip (endsOf e.pieces e.hi).tail).all (fun q => lt32 q.1.x q.2) &&
  (e.pieces.zip e.pieces.tail).all (fun q => lt32 q.1.m q.2.m)

/-- The pieces of an image; the last word of each stands beside it. -/
def piecesOf (ws : List Nat) : List (Piece × Nat) :=
  (chunks 4 ws.length ws).map (fun q =>
    (⟨BitVec.ofNat 32 (q.getD 0 0), BitVec.ofNat 32 (q.getD 1 0), BitVec.ofNat 32 (q.getD 2 0)⟩, q.getD 3 0))

/-- Load an image (R251): the new content of the slot, or the fault. -/
def State.envLoad (s : State) (g : Eng) (ad : DWord) : State × Except (BitVec 6 × DWord) (Option Env) :=
  match s.envRead g ad 64 with
  | (s, .error e) => (s, .error e)
  | (s, .ok h) =>
    let w0 := h.getD 0 0
    let n := w0 % 2 ^ 10
    let isSet := w0 / 2 ^ 16 % 2 == 1
    if w0 / 2 ^ 10 % 64 != 0 || w0 / 2 ^ 17 != 0 || h.getD 1 0 != 0 || (h.drop 4).any (· != 0) || 512 < n || (!isSet && n != 0)
    then (s, .error (0x21, ad))
    else match s.envRead g (ad + 64) (16 * n) with
    | (s, .error e) => (s, .error e)
    | (s, .ok ws) =>
      let ps := piecesOf ws
      let e : Env := ⟨BitVec.ofNat 32 (h.getD 2 0), BitVec.ofNat 32 (h.getD 3 0), ps.map (·.1)⟩
      if !isSet then (s, .ok none)
      else if ps.any (fun q => q.2 != 0) || !e.good then (s, .error (0x21, ad))
      else (s, .ok (some e))

/-- The bytes of an image (R250). -/
def envImage (e : Option Env) : List Byte :=
  let word := fun (w : Nat) => (List.range 4).map (fun k => BitVec.ofNat 8 (w / 256 ^ k))
  match e with
  | none => List.replicate 64 0
  | some e =>
    word (e.pieces.length + 2 ^ 16) ++ word 0 ++ word e.lo.toNat ++ word e.hi.toNat ++ List.replicate 48 0 ++
      e.pieces.flatMap (fun p => word p.m.toNat ++ word p.b.toNat ++ word p.x.toNat ++ word 0)

/-! ### ENVELOPE_EXECUTE (R237, R238) -/

/-- What an instruction does to the core's slots: a fault with its address, a new content for a slot, or register results. -/
inductive EnvDone where
  | bad (c : BitVec 6) (a : DWord)
  | put (d : Nat) (e : Option Env)
  | give (vs : List (Nat × Dest × Nat))
  | done (s : State)

/-- A slot receives a result of R240 to R245, if it fits (R246). -/
def EnvCmd.result (q : EnvCmd) (d : Nat) (r : Except (BitVec 6) Env) : EnvDone :=
  match r with
  | .error c => .bad c 0
  | .ok e => match fitEnv q e with
    | .error c => .bad c 0
    | .ok e => .put d (some e)

/-- The default NaN, as the unit writes it. -/
def envNan : Nat := 0x7FC00000

/-- The value of an envelope at x (R247). -/
def Env.evalAt (e : Env) (x : Word) : Nat :=
  if (val32 x).isNan then envNan
  else if lt32 x e.lo || lt32 e.hi x then 0xFF800000
  else match pieceAt x e.pieces with
  | none => 0xFF800000
  | some p => (rn (p.at (val32 x))).toNat

/-- The slope of an envelope at x (R247). -/
def Env.slopeAt (e : Env) (x : Word) : Nat :=
  if (val32 x).isNan || lt32 x e.lo || lt32 e.hi x then envNan
  else match pieceAt x e.pieces with
  | none => envNan
  | some p => p.m.toNat

/-- What thread t reads by `env.rd` (R249). -/
def Env.readAt (e : Env) (t k0 field : Nat) : Nat :=
  if field = 3 then (if t % 2 = 0 then e.lo.toNat else e.hi.toNat)
  else match e.pieces[k0 + t]? with
  | some p => (if field = 0 then p.m else if field = 1 then p.b else p.x).toNat
  | none => if field = 2 && k0 + t = e.pieces.length then e.hi.toNat else envNan

/-- The word of `env.cnt` (R248). -/
def envCount : Option Env → Nat
  | none => 0
  | some e => e.pieces.length + 2 ^ 16

/-- The slots an instruction reads, for R340. -/
def EnvOp.reads : EnvOp → List Nat
  | .claim _ _ | .rel _ _ | .clr _ _ _ | .ld _ _ | .retire _ => []
  | .ins d _ => [d]
  | .sum _ a b | .max _ a b | .icv _ a b => [a, b]
  | .conj _ a _ _ | .simp _ a | .eval a _ | .slope a _ | .rd a _ _ _ | .cnt a _ | .st a _ => [a]

/-- The slots of a retired crew are unowned and can be claimed (R31). -/
def Core.freeEnv (k : Core) (crew : Nat) : Core :=
  { k with env := k.env.filter (fun (e : Nat × EnvSlot) => e.2.owner != some crew) }

/-- Two set slots. -/
def bothSet (a b : Option Env) (f : Env → Env → EnvDone) : EnvDone :=
  match a, b with
  | some x, some y => f x y
  | _, _ => .bad 0x22 0

/-- A set slot. -/
def isSet (a : Option Env) (f : Env → EnvDone) : EnvDone :=
  match a with
  | some x => f x
  | none => .bad 0x22 0

/-- The effect of an instruction on a core (R239 to R251). -/
def State.envDo (s : State) (c : Nat) (q : EnvCmd) : EnvDone :=
  let g : Eng := ⟨q.fe, quadOfCore c, q.user⟩
  let slot := fun k => ((s.core c).envSlot k).env
  match q.op with
  | .claim a n =>
    let s := if a < 16 then s.onCore c (fun k => k.mapEnv a (fun e => { e with env := none }) n) else s
    .done (s.engResult q.party q.flag true [(0, q.dest, a)])
  | .rel a n => .done (s.onCore c (fun k => k.mapEnv a (fun e => { e with env := none }) n))
  | .retire crew => .done (s.onCore c (fun k => k.freeEnv crew))
  | .clr d lo hi => if goodDomain lo hi then .put d (some ⟨lo, hi, []⟩) else .bad 0x21 0
  | .ins d ls => isSet (slot d) fun e => q.result d (.ok { e with pieces := canon (e.lines ++ ls) e.lo e.hi })
  | .sum d a b => bothSet (slot a) (slot b) fun x y =>
      let w := commonDomain x y
      if !goodDomain w.1 w.2 then .bad 0x21 0
      else if x.pieces.isEmpty || y.pieces.isEmpty then .put d (some ⟨w.1, w.2, []⟩)
      else
        let ps := sumPieces x y w.1 w.2
        if ps.all (fun p => fin32 p.m && fin32 p.b) then q.result d (.ok ⟨w.1, w.2, ps⟩) else .bad 0x21 0
  | .max d a b => bothSet (slot a) (slot b) fun x y =>
      let w := commonDomain x y
      if !goodDomain w.1 w.2 then .bad 0x21 0
      else q.result d (.ok ⟨w.1, w.2, canon (x.lines ++ y.lines) w.1 w.2⟩)
  | .icv d a b => bothSet (slot a) (slot b) fun x y => q.result d (icvOf x y)
  | .conj d a lo hi => isSet (slot a) fun e => q.result d (conjOf e lo hi)
  | .simp d a => isSet (slot a) fun e =>
      if !goodTol q.tol then .bad 0x21 0
      else q.result d (.ok { e with pieces := simpPieces q.tol e.hi e.pieces })
  | .eval a ls => isSet (slot a) fun e => .give (ls.map (fun l => (l.1, l.2.1, e.evalAt l.2.2)))
  | .slope a ls => isSet (slot a) fun e => .give (ls.map (fun l => (l.1, l.2.1, e.slopeAt l.2.2)))
  | .rd a ls k0 f => isSet (slot a) fun e => .give (ls.map (fun l => (l.1, l.2, e.readAt l.1 k0 f)))
  | .cnt a ls => .give (ls.map (fun l => (l.1, l.2, envCount (slot a))))
  | .ld d ad => match s.envLoad g ad with
    | (s, .error e) => .done (s.engFault c q.fe ⟨q.crew, q.party, e.1, e.2, 6, q.ticket, q.flag⟩)
    | (s, .ok e) => .done (s.onCore c (fun k => k.setEnv d { k.envSlot d with env := e }))
  | .st a ad =>
    let bs := envImage (slot a)
    match s.envPages g true (segmentsOf ad bs.length) with
    | some e => .bad e.1 e.2
    | none => match s.engStore g [(ad, bs)] with
      | .error e => .bad e.1 e.2
      | .ok s => .done s

/-- An uncorrectable error in a slot that the instruction reads (R340): the slot becomes unset. -/
def State.envError (s : State) (c : Nat) (q : EnvCmd) : Option State :=
  match s.upset, q.op.reads with
  | .envelope, a :: _ =>
    some ({ s with upset := .none }.onCore c (fun k => k.setEnv a { k.envSlot a with env := none }))
  | _, _ => none

/-- The instruction completes: it leaves the queue, tl6 reaches its ticket, and its flag clears (R70, R237). -/
def State.envDone (s : State) (c : Nat) (q : EnvCmd) (flagOpen : Bool) : State :=
  let s := s.onCore c (fun k => { k with
    envQ := k.envQ.tail
    done := if q.ticket = 0 then k.done else sset 0 k.done 6 q.ticket })
  if flagOpen && q.flag < 12 then s.onParty q.party (fun x => x.doneFlag q.flag 1) else s

/-- ENVELOPE_EXECUTE (R237): the oldest queued instruction of a core takes its whole effect, or records its fault. -/
def execEnvelopeExecute (c : Nat) (s : State) : Host.Outcome State Fault Refusal :=
  State.event (match (s.core c).envQ with
  | [] => s
  | q :: _ =>
    let fault := fun (s : State) (e : BitVec 6) (a : DWord) => s.engFault c q.fe ⟨q.crew, q.party, e, a, 6, q.ticket, q.flag⟩
    if !s.released q.after then s
    else match s.envError c q with
    | some s => (fault s 0x14 0).envDone c q true
    | none => match s.envDo c q with
      | .bad e a => (fault s e a).envDone c q true
      | .put d e => (s.onCore c (fun k => k.setEnv d { k.envSlot d with env := e })).envDone c q true
      | .give vs => (s.engResult q.party q.flag (vs.any (fun e => e.2.1.isUni)) vs).envDone c q false
      | .done s => s.envDone c q (match q.op with | .claim _ _ => false | _ => true))

end Sys2Proof.Machine
end

