-- ==== Sys2Proof/Machine/Firmware.lean ====
section
/-! DEFINITION. Firmware commands (R330, R349, R369 to R372, R377 to R380): descriptors, plan libraries, blocks, windows, pinned regions and
attestation reports. A command that firmware refuses changes nothing. -/

namespace Sys2Proof.Machine

open Sys2Proof

/-! ### Lodging descriptors (R369, R370, R397) -/

/-- The descriptor's active bit. -/
def activeBit (d : DWord) : Bool := d.getLsbD 36

/-- The descriptor's limits for a front end (R369). -/
def descWithin (fe : Nat) (d : DWord) : Bool :=
  let l : Lodging := { Lodging.reset with desc := d }
  1 ≤ l.nq && l.nq ≤ 128 && l.qb + l.nq ≤ 128 && !l.colours.isEmpty && (d.extractLsb' 31 5).toNat == fe && d.extractLsb' 37 27 == 0

/-- An active descriptor shares no quad with another active lodging unless their colours are disjoint (R370). -/
def State.descApart (s : State) (fe : Nat) (d : DWord) : Bool :=
  let l : Lodging := { Lodging.reset with desc := d }
  s.lods.all (fun e => e.1 == fe || !activeBit e.2.desc || e.2.qb + e.2.nq ≤ l.qb || l.qb + l.nq ≤ e.2.qb ||
    e.2.colours.all (fun c => !l.colours.contains c))

/-- A lodging as it stands at its creation (R257, R345, R372): its keys drawn, its registers 0. -/
def State.newLodging (s : State) (fe : Nat) (d : DWord) : State :=
  let old := s.lod fe
  let s := s.onLod fe (fun _ => { Lodging.reset with
    desc := d, st := .running, root1 := old.root1, root2 := old.root2, watchdog := old.watchdog
    keyDraw := s.pkg.draws, kemDraw := s.pkg.draws + 1, stream := old.stream })
  s.onPkg (fun k => { k with draws := k.draws + 2 })

/-! ### Windows (R317, R318, R377 to R379) -/

/-- The blocks of a range of bytes. -/
def blocksIn (base len : Nat) : List Nat := (List.range (len / 2 ^ 21)).map (base / 2 ^ 21 + ·)

/-- Set the owner of blocks. -/
def Mem.setOwners (m : Mem) (bs : List Nat) (o : Owner) : Mem :=
  { m with owner := bs.foldl (fun st b => sset Owner.free st b o) m.owner }

/-- Seal the stored lines of a range again, under the keys of their blocks' owner and their counters. -/
def State.resealRange (s : State) (base len : Nat) : State :=
  (s.mem.dram.filter (fun e => base ≤ 64 * e.1 && 64 * e.1 < base + len)).foldl (fun (s : State) e =>
    let c := sget Counters.reset s.mem.counters (e.1 / 64)
    s.putDram e.1 c.major (sget 0 c.minor (e.1 % 64))) s

/-- The indices of the open windows with a lodging in a role. -/
def State.windowsOf (s : State) (fe : Nat) : List Nat :=
  s.mem.windows.filterMap (fun e => match e.2 with
    | some w => if w.owner == fe || w.guest == fe then some e.1 else none
    | none => none)

/-- Perform the window writes to a range that are on their way (R318). -/
def State.landWindow (s : State) (base len : Nat) : State :=
  (s.reqs.filter (fun (e : Nat × Req) => e.2.win && e.2.phase == .unacked &&
      e.2.pieces.any (fun q => base ≤ q.1 && q.1 < base + len))).foldl (fun (s : State) (e : Nat × Req) =>
    let s := match e.2.kind with
      | .store _ data => s.storePieces data e.2.pieces
      | _ => s
    ((s.dropReq e.1).linesWrite (linesOf e.2.pieces)).napWake (linesOf e.2.pieces)) s

/-- Withdraw the loads that the guest has waiting at mailbox words of a window (R318): they take 0x12. -/
def State.dropGuests (s : State) (owner base len : Nat) : State :=
  (s.reqs.filter (fun (e : Nat × Req) => e.2.phase == .waiting && e.2.kind == .mbxLd && e.2.fe != owner &&
      e.2.pieces.any (fun q => base ≤ q.1 && q.1 < base + len))).foldl (fun (s : State) (e : Nat × Req) =>
    s.refuse e.1 e.2 0x12 0) s

/-- Close a window (R318, R378). -/
def State.closeWindow (s : State) (w : Nat) : State :=
  match s.window? w with
  | none => s
  | some x =>
    let s := s.landWindow x.base x.len
    let s := { s with mem := { (s.mem.setOwners (blocksIn x.base x.len) (.key x.owner)) with windows := sset none s.mem.windows w none } }
    (s.resealRange x.base x.len).dropGuests x.owner x.base x.len

/-- Close windows. -/
def State.closeWindows (s : State) (ws : List Nat) : State := ws.foldl (fun s w => s.closeWindow w) s

/-- The limits of a `win.open` (R377, R379). -/
def State.winWithin (s : State) (q : WinRequest) : Bool :=
  let owned := (blocksIn q.base q.len).all (fun b => sget Owner.free s.mem.owner b == .key q.owner)
  let g := s.lod q.guest
  activeBit (s.lod q.owner).desc && activeBit g.desc && q.owner != q.guest && q.base % 2 ^ 21 == 0 && q.len % 2 ^ 21 == 0 &&
    2 ^ 21 ≤ q.len && q.len ≤ 2 ^ 30 && owned && (s.windowsOf q.owner).length < 8 && (s.windowsOf q.guest).length < 8 &&
    (match q.tl with
     | none => true
     | some (c, t) => c < 512 && g.quads.contains (quadOfCore c) && 8 ≤ t && t ≤ 15)

/-- WIN_OPEN (R377, R378): refused outside the limits; it waits while a live region has a record in the range. -/
def execWinOpen (q : WinRequest) (s : State) : Host.Outcome State Fault Refusal :=
  State.event (
    if !s.winWithin q || s.tags.any (fun t => q.base ≤ 4 * t.granule && 4 * t.granule < q.base + q.len) then s
    else match (List.range 64).find? (fun w => (s.window? w).isNone) with
    | none => s
    | some w =>
      let x : Window := ⟨q.owner, q.guest, q.base, q.len, q.write, q.tl, s.pkg.draws⟩
      let s := { s with mem := { (s.mem.setOwners (blocksIn q.base q.len) (.window w)) with windows := sset none s.mem.windows w (some x) } }
      (s.onPkg (fun k => { k with draws := k.draws + 1 })).resealRange q.base q.len)

/-- WIN_CLOSE (R318, R378). -/
def execWinClose (w : Nat) (s : State) : Host.Outcome State Fault Refusal := State.event (s.closeWindow w)

/-! ### Descriptors and blocks (R369, R371) -/

/-- LODGING_DESCRIPTOR_WRITE (R369, R370, R397): only while the lodging is not active or is saved, and within the limits. An active
descriptor creates the lodging; an inactive one ends it and closes its windows (R379). -/
def execLodgingDescriptorWrite (fe : Nat) (d : DWord) (s : State) : Host.Outcome State Fault Refusal :=
  State.event (
    let l := s.lod fe
    let was := activeBit l.desc
    let n : Lodging := { Lodging.reset with desc := d }
    let reduced := s.pkg.service == .reduced && decide (32 < n.qb + n.nq)
    if 31 < fe || s.pkg.service == .recovery || (was && l.st != .saved) || !descWithin fe d || reduced then s
    else if !activeBit d then
      if was then (s.closeWindows (s.windowsOf fe)).onLod fe (fun l => { Lodging.reset with
        desc := d, root1 := l.root1, root2 := l.root2, watchdog := l.watchdog, stream := l.stream })
      else s.onLod fe (fun l => { l with desc := d })
    else if !s.descApart fe d then s
    else if was then s.onLod fe (fun l => { l with desc := d })
    else s.newLodging fe d)

/-- Drop the entries of a store whose keys lie in a block, `per` keys to the block. -/
def outside {α : Type} (block per : Nat) (m : Sparse α) : Sparse α := m.filter (fun e => e.1 / per != block)

/-- A block as firmware writes it (R371): every line zero under the new key, its counters 0, nothing poisoned, every mailbox word
empty. A stored line that is not listed is the zero line under its owner's keys and counters 0. -/
def Mem.zeroBlock (m : Mem) (b : Nat) : Mem :=
  { m with
    bytes := outside b (2 ^ 21) m.bytes
    full := outside b (2 ^ 18) m.full
    poison := outside b (2 ^ 15) m.poison
    badTag := outside b (2 ^ 15) m.badTag
    dram := outside b (2 ^ 15) m.dram
    cellar := outside b (2 ^ 15) m.cellar
    counters := outside b (2 ^ 9) m.counters }

/-- BLOCK_ASSIGN (R371): a block goes to a key slot or is freed; a block in a window is refused, as is a block of addresses that have no
backing (R361). -/
def execBlockAssign (b : Nat) (o : Owner) (s : State) : Host.Outcome State Fault Refusal :=
  State.event (
    let inWindow := match sget Owner.free s.mem.owner b with | .window _ => true | _ => false
    let good := match o with | .free => true | .key n => decide (n < 32) | .window _ => false
    let pa := 2 ^ 21 * b
    if inWindow || !good || pa / 2 ^ 44 != s.pkg.number || !s.backed (pa % 2 ^ 44) then s
    else { s with mem := (s.mem.zeroBlock b).setOwners [b] o })

/-! ### Plan libraries (R349) -/

/-- LIBRARY_INSTALL (R205, R345, R349): refused when the header's width and register count break R15. -/
def execLibraryInstall (fe : Nat) (base : DWord) (prio : BitVec 4) (s : State) : Host.Outcome State Fault Refusal :=
  State.event (
    let t := s.onLod fe (fun l => { l with lib := some base, planPrio := prio.toNat })
    let l := t.library fe (s.lod fe).qb
    let readable := match t.libAt fe (s.lod fe).qb base 0x30 4 with | some _ => true | none => false
    if !activeBit (s.lod fe).desc || !readable || l.shape % 4 == 3 || l.rt == 0 || 1024 < l.rt || 8192 < l.width * l.rt then s else t)

/-! ### Pinned regions (R330) -/

/-- The lines of a range. -/
def linesIn (base len : Nat) : List Nat := (List.range (len / 64)).map (base / 64 + ·)

/-- The pinned lines of a lodging by home partition, with more lines added, fill at most 75 % of each: 38,400 of 51,200. -/
def State.pinsFit (s : State) (fe : Nat) (more : List Nat) : Bool :=
  let l := s.lod fe
  let held := (s.mem.cellar.filter (fun e => (match e.2 with | some c => c.pinned | none => false) &&
    s.ownerOf (64 * e.1) == .key fe)).map (·.1)
  let all := (held ++ more.filter (fun k => !held.contains k)).map (fun k => l.home (64 * k))
  all.all (fun h => (all.filter (· == h)).length ≤ 38400)

/-- CELLAR_PIN (R330): device-memory lines of the lodging are loaded into their home partitions and stay there. -/
def execCellarPin (fe base len : Nat) (s : State) : Host.Outcome State Fault Refusal :=
  State.event (
    let ls := linesIn base len
    if base % 64 != 0 || len % 64 != 0 || 2 ^ 42 ≤ base % 2 ^ 44 || !ls.all (fun k => s.ownerOf (64 * k) == .key fe) || !s.pinsFit fe ls
    then s
    else
      let put := fun (st : Sparse (Option CellarLine)) k =>
        sset none st k (some (match sget none st k with | some c => { c with pinned := true } | none => ⟨false, true⟩))
      { s with mem := { s.mem with cellar := ls.foldl put s.mem.cellar } })

/-- A pinned line is written back and pinned no longer. -/
def State.unpin (s : State) (line : Nat) : State :=
  match sget none s.mem.cellar line with
  | some c =>
    if c.pinned then
      let s := if c.dirty then s.lineWrite line else s
      { s with mem := { s.mem with cellar := sset none s.mem.cellar line (some ⟨false, false⟩) } }
    else s
  | none => s

/-- CELLAR_UNPIN (R330). -/
def execCellarUnpin (fe base len : Nat) (s : State) : Host.Outcome State Fault Refusal :=
  State.event (((linesIn base len).filter (fun k => s.ownerOf (64 * k) == .key fe)).foldl (fun (s : State) k => s.unpin k) s)

/-! ### Attestation (R380) -/

/-- Little-endian bytes of a number. -/
def bytesOf (v n : Nat) : List Byte := (List.range n).map (fun k => BitVec.ofNat 8 (v / 256 ^ k))

/-- What a report's signature covers. -/
def reportBody (r : Report) : List Byte :=
  bytesOf r.nonce.toNat 32 ++ bytesOf r.measurement.toNat 32 ++ bytesOf r.descriptor.toNat 8 ++
    r.windows.flatMap (fun w => bytesOf w 1) ++ r.kemKey

/-- The body of the running firmware slot's image. -/
def State.runningImage (s : State) : List Byte :=
  match s.pkg.running with
  | some k => (match (s.pkg.slots.getD k ⟨none⟩).image with | some i => i.body | none => [])
  | none => []

/-- A signed report for a lodging's nonce. -/
def State.reportFor (s : State) (fe : Nat) (nonce : BitVec 256) : Report :=
  let r : Report := ⟨nonce, Config.shake256 s.runningImage, (s.lod fe).desc, s.windowsOf fe, Config.kemKey (s.lod fe).kemDraw,
    Config.identityKey, []⟩
  { r with signature := Config.falconSign (reportBody r) }

/-- ATTESTATION_REPORT (R380): the lodging receives a report signed by the device identity key. -/
def execAttestationReport (fe : Nat) (nonce : BitVec 256) (s : State) : Host.Outcome State Fault Refusal :=
  State.event (
    if !activeBit (s.lod fe).desc then s else s.onLod fe (fun l => { l with report := some (s.reportFor fe nonce) }))

end Sys2Proof.Machine
end

