-- ==== Sys2Proof/Machine/Integer.lean ====
section
/-! DEFINITION. Class 0: integer arithmetic, logic, shifts, bit fields, compares, moves, addresses, wide arithmetic, division
and byte dot products (06_isa_integer.md, R101 to R112). -/

namespace Sys2Proof.Machine

open Sys2Proof

/-! ### The functions -/

/-- `abs`: the magnitude modulo 2^32 (R102). -/
def absW (a : Word) : Word := if a.toInt < 0 then -a else a
/-- `mulh.i`: bits [63:32] of the signed product (R102). -/
def mulhI (a b : Word) : Word := BitVec.ofInt 32 (a.toInt * b.toInt / 2 ^ 32)
/-- `mulh.n`: bits [63:32] of the unsigned product (R102). -/
def mulhN (a b : Word) : Word := BitVec.ofNat 32 (a.toNat * b.toNat / 2 ^ 32)
/-- `shl`: zero from a count of 32 on (R103). -/
def shlW (a : Word) (c : Nat) : Word := if 32 ≤ c then 0 else a <<< c
/-- `shr`: zero from a count of 32 on (R103). -/
def shrW (a : Word) (c : Nat) : Word := if 32 ≤ c then 0 else a >>> c
/-- `sar`: the sign in every bit from a count of 32 on (R103). -/
def sarW (a : Word) (c : Nat) : Word :=
  if 32 ≤ c then (if a.toInt < 0 then 0xFFFFFFFF else 0) else BitVec.ofInt 32 (a.toInt / 2 ^ c)
/-- `rot`: left by the count modulo 32 (R103). -/
def rotW (a : Word) (c : Nat) : Word := (a <<< (c % 32)) ||| (a >>> ((32 - c % 32) % 32))
/-- Leading zeros below bit `n`. -/
def clzFrom (a : Word) : Nat → Nat
  | 0 => 0
  | n + 1 => if a.getLsbD n then 0 else clzFrom a n + 1
/-- `clz` (R103). -/
def clzW (a : Word) : Word := BitVec.ofNat 32 (clzFrom a 32)
/-- `popc` (R103). -/
def popcW (a : Word) : Word := BitVec.ofNat 32 (((List.range 32).filter (fun k => a.getLsbD k)).length)
/-- `brev` (R103): bit k is bit 31 − k. -/
def brevW (a : Word) : Word :=
  BitVec.ofNat 32 (((List.range 32).map (fun k => if a.getLsbD (31 - k) then 2 ^ k else 0)).sum)
/-- Position and cut length of a field operand (R104). -/
def fieldOf (b : Word) : Nat × Nat :=
  let p := (b.extractLsb' 0 5).toNat
  (p, min (b.extractLsb' 8 6).toNat (32 - p))
/-- `bfe.n` (R104). -/
def bfeN (a b : Word) : Word :=
  let (p, l) := fieldOf b
  BitVec.ofNat 32 (a.toNat / 2 ^ p % 2 ^ l)
/-- `bfe.i` (R104). -/
def bfeI (a b : Word) : Word :=
  let (p, l) := fieldOf b
  if l = 0 then 0 else BitVec.ofInt 32 (sxInt l (a.toNat / 2 ^ p))
/-- `bfi` (R104). -/
def bfi (d a b : Word) : Word :=
  let (p, l) := fieldOf b
  let mask := BitVec.ofNat 32 ((2 ^ l - 1) * 2 ^ p)
  (d &&& ~~~ mask) ||| ((a <<< p) &&& mask)
/-- `div.i` and `rem.i`: quotient toward zero, remainder with the dividend's sign (R110). -/
def divI (a b : Word) : Word × Word :=
  if b = 0 then (0xFFFFFFFF, a)
  else (BitVec.ofInt 32 (a.toInt.tdiv b.toInt), BitVec.ofInt 32 (a.toInt.tmod b.toInt))
/-- `div.n` and `rem.n` (R110). -/
def divN (a b : Word) : Word × Word :=
  if b = 0 then (0xFFFFFFFF, a) else (BitVec.ofNat 32 (a.toNat / b.toNat), BitVec.ofNat 32 (a.toNat % b.toNat))
/-- Clamp to the signed 32-bit range (R111). -/
def clampI (e : Int) : Word :=
  if 2 ^ 31 - 1 < e then 0x7FFFFFFF else if e < -2 ^ 31 then 0x80000000 else BitVec.ofInt 32 e
/-- Byte `k` of a word. -/
def byteOf (a : Word) (k : Nat) : BitVec 8 := a.extractLsb' (8 * k) 8
/-- `dot4.ii` (`signed`) and `dot4.ni` (R112). -/
def dot4 (signed : Bool) (d a b : Word) : Word :=
  d + BitVec.ofInt 32 (((List.range 4).map (fun k =>
    (if signed then (byteOf a k).toInt else ((byteOf a k).toNat : Int)) * (byteOf b k).toInt)).sum)
/-- `sad` (R112). -/
def sad (d a b : Word) : Word :=
  d + BitVec.ofNat 32 (((List.range 4).map (fun k =>
    (((byteOf a k).toNat : Int) - ((byteOf b k).toNat : Int)).natAbs)).sum)

/-! ### Executors -/

/-- A function of A. -/
def State.alu1 (s : State) (m : Mods) (d a : Reg) (f : Word → Word) : Host.Outcome State Fault Refusal :=
  s.vecOp m d [(a, 1)] (fun p t k => f (p.reg32 t k a))
/-- A function of A and B. -/
def State.alu2 (s : State) (m : Mods) (d a : Reg) (b : Src) (f : Word → Word → Word) : Host.Outcome State Fault Refusal :=
  s.vecOp m d ((a, 1) :: srcRun b 1) (fun p t k => f (p.reg32 t k a) (p.src32 t k b))
/-- A function of the old D, A and B (format T+). -/
def State.alu3 (s : State) (m : Mods) (d a : Reg) (b : Src) (f : Word → Word → Word → Word) :
    Host.Outcome State Fault Refusal :=
  s.vecOp m d ((a, 1) :: srcRun b 1) (fun p t k => f (p.reg32 t k d) (p.reg32 t k a) (p.src32 t k b))
/-- A function of A and the immediate. -/
def State.aluI (s : State) (m : Mods) (d a : Reg) (f : Word → Word) : Host.Outcome State Fault Refusal := s.alu1 m d a f
/-- A compare of A and B (R106). -/
def State.cmp2 (s : State) (m : Mods) (d : MaskReg) (a : Reg) (b : Src) (f : Word → Word → Bool) :
    Host.Outcome State Fault Refusal :=
  s.maskOp m d ((a, 1) :: srcRun b 1) (fun p t k => f (p.reg32 t k a) (p.src32 t k b))

/-! ### Meanings -/

/-- `abs` (R102). -/
def execAbs (m : Mods) (d a : Reg) (s : State) : Host.Outcome State Fault Refusal :=
  s.alu1 m d a absW

/-- `neg` (R102). -/
def execNeg (m : Mods) (d a : Reg) (s : State) : Host.Outcome State Fault Refusal :=
  s.alu1 m d a (fun a => -a)

/-- `not` (R103). -/
def execNot (m : Mods) (d a : Reg) (s : State) : Host.Outcome State Fault Refusal :=
  s.alu1 m d a (fun a => ~~~ a)

/-- `clz` (R103). -/
def execClz (m : Mods) (d a : Reg) (s : State) : Host.Outcome State Fault Refusal :=
  s.alu1 m d a clzW

/-- `popc` (R103). -/
def execPopc (m : Mods) (d a : Reg) (s : State) : Host.Outcome State Fault Refusal :=
  s.alu1 m d a popcW

/-- `brev` (R103). -/
def execBrev (m : Mods) (d a : Reg) (s : State) : Host.Outcome State Fault Refusal :=
  s.alu1 m d a brevW

/-- `mov` (R107). -/
def execMov (m : Mods) (d a : Reg) (s : State) : Host.Outcome State Fault Refusal :=
  s.alu1 m d a (fun a => a)

/-- `add` (R102). -/
def execAdd (m : Mods) (d a : Reg) (b : Src) (s : State) : Host.Outcome State Fault Refusal :=
  s.alu2 m d a b (fun a b => a + b)

/-- `sub` (R102). -/
def execSub (m : Mods) (d a : Reg) (b : Src) (s : State) : Host.Outcome State Fault Refusal :=
  s.alu2 m d a b (fun a b => a - b)

/-- `mul` (R102). -/
def execMul (m : Mods) (d a : Reg) (b : Src) (s : State) : Host.Outcome State Fault Refusal :=
  s.alu2 m d a b (fun a b => a * b)

/-- `mulhI` (R102). -/
def execMulhI (m : Mods) (d a : Reg) (b : Src) (s : State) : Host.Outcome State Fault Refusal :=
  s.alu2 m d a b mulhI

/-- `mulhN` (R102). -/
def execMulhN (m : Mods) (d a : Reg) (b : Src) (s : State) : Host.Outcome State Fault Refusal :=
  s.alu2 m d a b mulhN

/-- `minI` (R102). -/
def execMinI (m : Mods) (d a : Reg) (b : Src) (s : State) : Host.Outcome State Fault Refusal :=
  s.alu2 m d a b (fun a b => if a.toInt < b.toInt then a else b)

/-- `maxI` (R102). -/
def execMaxI (m : Mods) (d a : Reg) (b : Src) (s : State) : Host.Outcome State Fault Refusal :=
  s.alu2 m d a b (fun a b => if b.toInt < a.toInt then a else b)

/-- `minN` (R102). -/
def execMinN (m : Mods) (d a : Reg) (b : Src) (s : State) : Host.Outcome State Fault Refusal :=
  s.alu2 m d a b (fun a b => if a.toNat < b.toNat then a else b)

/-- `maxN` (R102). -/
def execMaxN (m : Mods) (d a : Reg) (b : Src) (s : State) : Host.Outcome State Fault Refusal :=
  s.alu2 m d a b (fun a b => if b.toNat < a.toNat then a else b)

/-- `and` (R103). -/
def execAnd (m : Mods) (d a : Reg) (b : Src) (s : State) : Host.Outcome State Fault Refusal :=
  s.alu2 m d a b (fun a b => a &&& b)

/-- `or` (R103). -/
def execOr (m : Mods) (d a : Reg) (b : Src) (s : State) : Host.Outcome State Fault Refusal :=
  s.alu2 m d a b (fun a b => a ||| b)

/-- `xor` (R103). -/
def execXor (m : Mods) (d a : Reg) (b : Src) (s : State) : Host.Outcome State Fault Refusal :=
  s.alu2 m d a b (fun a b => a ^^^ b)

/-- `andn` (R103). -/
def execAndn (m : Mods) (d a : Reg) (b : Src) (s : State) : Host.Outcome State Fault Refusal :=
  s.alu2 m d a b (fun a b => a &&& ~~~ b)

/-- `shl` (R103). -/
def execShl (m : Mods) (d a : Reg) (b : Src) (s : State) : Host.Outcome State Fault Refusal :=
  s.alu2 m d a b (fun a b => shlW a b.toNat)

/-- `shr` (R103). -/
def execShr (m : Mods) (d a : Reg) (b : Src) (s : State) : Host.Outcome State Fault Refusal :=
  s.alu2 m d a b (fun a b => shrW a b.toNat)

/-- `sar` (R103). -/
def execSar (m : Mods) (d a : Reg) (b : Src) (s : State) : Host.Outcome State Fault Refusal :=
  s.alu2 m d a b (fun a b => sarW a b.toNat)

/-- `rot` (R103). -/
def execRot (m : Mods) (d a : Reg) (b : Src) (s : State) : Host.Outcome State Fault Refusal :=
  s.alu2 m d a b (fun a b => rotW a b.toNat)

/-- `bfeI` (R104). -/
def execBfeI (m : Mods) (d a : Reg) (b : Src) (s : State) : Host.Outcome State Fault Refusal :=
  s.alu2 m d a b bfeI

/-- `bfeN` (R104). -/
def execBfeN (m : Mods) (d a : Reg) (b : Src) (s : State) : Host.Outcome State Fault Refusal :=
  s.alu2 m d a b bfeN

/-- `divI` (R110). -/
def execDivI (m : Mods) (d a : Reg) (b : Src) (s : State) : Host.Outcome State Fault Refusal :=
  s.alu2 m d a b (fun a b => (divI a b).1)

/-- `divN` (R110). -/
def execDivN (m : Mods) (d a : Reg) (b : Src) (s : State) : Host.Outcome State Fault Refusal :=
  s.alu2 m d a b (fun a b => (divN a b).1)

/-- `remI` (R110). -/
def execRemI (m : Mods) (d a : Reg) (b : Src) (s : State) : Host.Outcome State Fault Refusal :=
  s.alu2 m d a b (fun a b => (divI a b).2)

/-- `remN` (R110). -/
def execRemN (m : Mods) (d a : Reg) (b : Src) (s : State) : Host.Outcome State Fault Refusal :=
  s.alu2 m d a b (fun a b => (divN a b).2)

/-- `adds` (R111). -/
def execAdds (m : Mods) (d a : Reg) (b : Src) (s : State) : Host.Outcome State Fault Refusal :=
  s.alu2 m d a b (fun a b => clampI (a.toInt + b.toInt))

/-- `subs` (R111). -/
def execSubs (m : Mods) (d a : Reg) (b : Src) (s : State) : Host.Outcome State Fault Refusal :=
  s.alu2 m d a b (fun a b => clampI (a.toInt - b.toInt))

/-- `mad` (R102). -/
def execMad (m : Mods) (d a : Reg) (b : Src) (s : State) : Host.Outcome State Fault Refusal :=
  s.alu3 m d a b (fun d a b => a * b + d)

/-- `bfi` (R104). -/
def execBfi (m : Mods) (d a : Reg) (b : Src) (s : State) : Host.Outcome State Fault Refusal :=
  s.alu3 m d a b bfi

/-- `dot4Ii` (R112). -/
def execDot4Ii (m : Mods) (d a : Reg) (b : Src) (s : State) : Host.Outcome State Fault Refusal :=
  s.alu3 m d a b (dot4 true)

/-- `dot4Ni` (R112). -/
def execDot4Ni (m : Mods) (d a : Reg) (b : Src) (s : State) : Host.Outcome State Fault Refusal :=
  s.alu3 m d a b (dot4 false)

/-- `sad` (R112). -/
def execSad (m : Mods) (d a : Reg) (b : Src) (s : State) : Host.Outcome State Fault Refusal :=
  s.alu3 m d a b sad

/-- `addi` (R102). -/
def execAddi (m : Mods) (d a : Reg) (b : BitVec 7) (s : State) : Host.Outcome State Fault Refusal :=
  s.aluI m d a (fun a => a + imm7 b)

/-- `shli` (R103). -/
def execShli (m : Mods) (d a : Reg) (b : BitVec 7) (s : State) : Host.Outcome State Fault Refusal :=
  s.aluI m d a (fun a => shlW a b.toNat)

/-- `shri` (R103). -/
def execShri (m : Mods) (d a : Reg) (b : BitVec 7) (s : State) : Host.Outcome State Fault Refusal :=
  s.aluI m d a (fun a => shrW a b.toNat)

/-- `sari` (R103). -/
def execSari (m : Mods) (d a : Reg) (b : BitVec 7) (s : State) : Host.Outcome State Fault Refusal :=
  s.aluI m d a (fun a => sarW a b.toNat)

/-- `cmpEq` (R106). -/
def execCmpEq (m : Mods) (d : MaskReg) (a : Reg) (b : Src) (s : State) : Host.Outcome State Fault Refusal :=
  s.cmp2 m d a b (fun a b => a == b)

/-- `cmpNe` (R106). -/
def execCmpNe (m : Mods) (d : MaskReg) (a : Reg) (b : Src) (s : State) : Host.Outcome State Fault Refusal :=
  s.cmp2 m d a b (fun a b => a != b)

/-- `cmpLtI` (R106). -/
def execCmpLtI (m : Mods) (d : MaskReg) (a : Reg) (b : Src) (s : State) : Host.Outcome State Fault Refusal :=
  s.cmp2 m d a b (fun a b => a.toInt < b.toInt)

/-- `cmpLeI` (R106). -/
def execCmpLeI (m : Mods) (d : MaskReg) (a : Reg) (b : Src) (s : State) : Host.Outcome State Fault Refusal :=
  s.cmp2 m d a b (fun a b => a.toInt ≤ b.toInt)

/-- `cmpLtN` (R106). -/
def execCmpLtN (m : Mods) (d : MaskReg) (a : Reg) (b : Src) (s : State) : Host.Outcome State Fault Refusal :=
  s.cmp2 m d a b (fun a b => a.toNat < b.toNat)

/-- `cmpLeN` (R106). -/
def execCmpLeN (m : Mods) (d : MaskReg) (a : Reg) (b : Src) (s : State) : Host.Outcome State Fault Refusal :=
  s.cmp2 m d a b (fun a b => a.toNat ≤ b.toNat)

/-- `cmpiEq` (R106): B is the immediate extended to 32 bits. -/
def execCmpiEq (m : Mods) (d : MaskReg) (a : Reg) (b : BitVec 7) (s : State) : Host.Outcome State Fault Refusal :=
  s.cmp2 m d a (.lit (imm7 b)) (fun a b => a == b)

/-- `cmpiLtI` (R106): B is the immediate extended to 32 bits. -/
def execCmpiLtI (m : Mods) (d : MaskReg) (a : Reg) (b : BitVec 7) (s : State) : Host.Outcome State Fault Refusal :=
  s.cmp2 m d a (.lit (imm7 b)) (fun a b => a.toInt < b.toInt)

/-- `cmpiLtN` (R106): B is the immediate extended to 32 bits. -/
def execCmpiLtN (m : Mods) (d : MaskReg) (a : Reg) (b : BitVec 7) (s : State) : Host.Outcome State Fault Refusal :=
  s.cmp2 m d a (.lit (imm7 b)) (fun a b => a.toNat < b.toNat)

/-- `sel` (R105): A where the selector mask has the thread, else B. -/
def execSel (m : Mods) (d a : Reg) (b : Src) (k : MaskReg) (s : State) : Host.Outcome State Fault Refusal :=
  s.vecOp m d ((a, 1) :: srcRun b 1) (fun p t j => if bitOf (p.mask k) t then p.reg32 t j a else p.src32 t j b)

/-- `movi` (R107): a uniform destination takes the immediate sign-extended to 64 bits. -/
def execMovi (m : Mods) (d : Reg) (imm : BitVec 14) (s : State) : Host.Outcome State Fault Refusal :=
  match d with
  | .s n => s.issue fun p x => s.setParty p (x.setU n.val (imm.signExtend 64))
  | .v _ => s.vecOp m d [] (fun _ _ _ => imm.signExtend 32)

/-- The address of `lea.*`: a 64-bit base plus a signed 32-bit index times the scale (R108). -/
def State.lea (s : State) (m : Mods) (d a : Reg) (b : Src) (sc : Nat) : Host.Outcome State Fault Refusal :=
  s.vecOp64 m d ((a, 2) :: srcRun b 1) (fun p t => p.reg64 t a + (p.src32 t 0 b).signExtend 64 * BitVec.ofNat 64 sc)

/-- `leaB` (R108). -/
def execLeaB (m : Mods) (d a : Reg) (b : Src) (s : State) : Host.Outcome State Fault Refusal := s.lea m d a b 1

/-- `leaH` (R108). -/
def execLeaH (m : Mods) (d a : Reg) (b : Src) (s : State) : Host.Outcome State Fault Refusal := s.lea m d a b 2

/-- `leaW` (R108). -/
def execLeaW (m : Mods) (d a : Reg) (b : Src) (s : State) : Host.Outcome State Fault Refusal := s.lea m d a b 4

/-- `leaD` (R108). -/
def execLeaD (m : Mods) (d a : Reg) (b : Src) (s : State) : Host.Outcome State Fault Refusal := s.lea m d a b 8

/-- `add64` (R109). -/
def execAdd64 (m : Mods) (d a : Reg) (b : Src) (s : State) : Host.Outcome State Fault Refusal :=
  s.vecOp64 m d ((a, 2) :: srcRun b 2) (fun p t => p.reg64 t a + p.src64 t b)

/-- `sub64` (R109). -/
def execSub64 (m : Mods) (d a : Reg) (b : Src) (s : State) : Host.Outcome State Fault Refusal :=
  s.vecOp64 m d ((a, 2) :: srcRun b 2) (fun p t => p.reg64 t a - p.src64 t b)

/-- `mulW` (R109). -/
def execMulW (m : Mods) (d a : Reg) (b : Src) (s : State) : Host.Outcome State Fault Refusal :=
  s.vecOp64 m d ((a, 1) :: srcRun b 1) (fun p t => (p.reg32 t 0 a).signExtend 64 * (p.src32 t 0 b).signExtend 64)

/-- `mulWn` (R109). -/
def execMulWn (m : Mods) (d a : Reg) (b : Src) (s : State) : Host.Outcome State Fault Refusal :=
  s.vecOp64 m d ((a, 1) :: srcRun b 1) (fun p t => (p.reg32 t 0 a).setWidth 64 * (p.src32 t 0 b).setWidth 64)

end Sys2Proof.Machine
end

