-- ==== Sys2Proof/Machine/System.lean ====
section
/-! DEFINITION. Class 7 (13_isa_system.md, R255 to R270): control registers, `trap`, `tret`, `brk`, `clk`, `fence.win`. -/

namespace Sys2Proof.Machine

open Sys2Proof

/-! ### The register map (R257) -/

/-- The lowest level that may read a register. -/
def Csr.readLevel : Csr → Nat
  | .fpctl | .fpsum | .envtol | .envctl | .mxctl | .scopepol | .cyc | .pinfo => 0
  | .tvec | .tcause | .tepc | .tmprev | .tmfault | .taddr | .tinfo | .injaddr | .injarm => 1

/-- The lowest level that may write a register; none where nothing may. -/
def Csr.writeLevel : Csr → Option Nat
  | .fpctl | .fpsum | .envtol | .envctl | .mxctl => some 0
  | .scopepol | .tvec | .tcause | .tepc | .tmprev | .tmfault | .tinfo | .pinfo => some 1
  | .injaddr | .injarm => some 2
  | .taddr | .cyc => none

/-- The register is 64 bits wide. -/
def Csr.wide : Csr → Bool
  | .tvec | .tepc | .tmprev | .tmfault | .taddr | .tinfo | .cyc | .pinfo | .injaddr => true
  | _ => false

/-- `pinfo` (R264). -/
def Party.pinfo (p : Party) (c : PartyCsr) : DWord :=
  BitVec.ofNat 64 ((if p.width = 16 then 0 else if p.width = 32 then 1 else 2) + p.rt / 16 % 128 * 2 ^ 2 + p.rslot % 8 * 2 ^ 9 +
    c.level.toNat * 2 ^ 12 + c.prior.toNat * 2 ^ 14 + (if c.single then 2 ^ 16 else 0) + (if p.plan then 2 ^ 17 else 0) +
    (if p.plan then 0 else p.prio % 16) * 2 ^ 18 + p.fe % 32 * 2 ^ 22)

/-- The value of a register, from the party's registers `c`; `taddr` of thread `t`. -/
def State.csrRead (s : State) (x : Party) (c : PartyCsr) (t : Nat) : Csr → DWord
  | .fpctl => c.fpctl.setWidth 64
  | .fpsum => c.fpsum.setWidth 64
  | .envtol => c.envtol.setWidth 64
  | .envctl => c.envctl.setWidth 64
  | .mxctl => c.mxctl.setWidth 64
  | .scopepol => (s.lod x.fe).scopepol.setWidth 64
  | .tvec => (s.lod x.fe).tvec
  | .tcause => c.tcause.setWidth 64
  | .tepc => c.tepc
  | .tmprev => c.tmprev
  | .tmfault => c.tmfault
  | .taddr => sget 0 c.taddr t
  | .tinfo => c.tinfo
  | .cyc => BitVec.ofNat 64 (s.cyc x)
  | .pinfo => x.pinfo c
  | .injaddr => s.pkg.injaddr
  | .injarm => s.pkg.injarm.setWidth 64

/-- The generator that a write of `fpctl` loads (R58, R261). -/
def State.seedOf (s : State) (x : Party) (w : Word) : Word :=
  let seed := (w.extractLsb' 16 16).toNat
  let g : Word := match (w.extractLsb' 12 3).toNat with
    | 0 => BitVec.ofNat 32 (seed * 0x10001)
    | 1 => BitVec.ofNat 32 (seed * 2 ^ 16 + x.lane % 2 ^ 16)
    | _ => BitVec.ofNat 32 (s.cyc x)
  if g = 0 then 1 else g

/-- A write of a register (R258, R261 to R265, R277): none where a field would take a value its table forbids. -/
def State.csrWrite (s : State) (p : Nat) (x : Party) (v : DWord) : Csr → Option State
  | .fpctl =>
    let w : Word := v.setWidth 32 &&& 0xFFFF71FF
    if w.extractLsb' 0 3 == 0 || w.extractLsb' 0 3 == 7 || 2 < (w.extractLsb' 12 3).toNat then none
    else some (s.setParty p { x with csr := { x.csr with fpctl := w }, gen := s.seedOf x w })
  | .fpsum => some (s.setParty p { x with csr := { x.csr with fpsum := v.setWidth 32 &&& 0x1F } })
  | .envtol => some (s.setParty p { x with csr := { x.csr with envtol := v.setWidth 32 } })
  | .envctl => some (s.setParty p { x with csr := { x.csr with envctl := v.setWidth 32 &&& 1 } })
  | .mxctl =>
    if v.extractLsb' 0 2 == 3 then none
    else some (s.setParty p { x with csr := { x.csr with mxctl := v.setWidth 32 &&& 0xFFF } })
  | .scopepol => some (s.onLod x.fe (fun l => { l with scopepol := v.setWidth 32 &&& 0x103 }))
  | .tvec =>
    if v.extractLsb' 3 3 != 0 || 4 < (v.extractLsb' 0 3).toNat then none
    else some (s.onLod x.fe (fun l => { l with tvec := v }))
  | .tcause => some (s.setParty p { x with csr := { x.csr with tcause := v.setWidth 32 &&& 0x13F } })
  | .tepc => some (s.setParty p { x with csr := { x.csr with tepc := v } })
  | .tmprev => some (s.setParty p { x with csr := { x.csr with tmprev := v } })
  | .tmfault => some (s.setParty p { x with csr := { x.csr with tmfault := v } })
  | .tinfo => some (s.setParty p { x with csr := { x.csr with tinfo := v } })
  | .pinfo => some (s.setParty p { x with csr := { x.csr with single := v.getLsbD 16 } })
  | .injaddr => some (s.onPkg (fun k => { k with injaddr := v &&& ~~~ (0x3F : DWord) }))
  | .injarm => some (s.onPkg (fun k => { k with injarm := v.setWidth 32 &&& 3 }))
  | .taddr | .cyc => none

/-! ### Register instructions (R255 to R260) -/

/-- `csr.rd` (R258, R259). -/
def execCsrRd (m : Mods) (d : Reg) (a : Csr) (s : State) : Host.Outcome State Fault Refusal :=
  s.issue fun p x =>
    if x.csr.level.toNat < Csr.readLevel a then s.raiseHere p 0x08 x.m0 0
    else match d with
    | .s n => s.setParty p (x.setU n.val (s.csrRead x x.ctlRegs 0 a))
    | .v n => s.alloc p x m [(d, if Csr.wide a then 2 else 1)] <|
      let r := x.base + n.val
      let ts := threadsOf x.width x.m0
      let lo := ts.map (fun t => (t, (s.csrRead x x.ctlRegs t a).setWidth 32))
      let hi := ts.map (fun t => (t, (s.csrRead x x.ctlRegs t a).extractLsb' 32 32))
      s.setParty p (if Csr.wide a then (x.setVs r lo).setVs (r + 1) hi else x.setVs r lo)

/-- A write of a register with the level check (R259): `f` makes the new value from the old, and D takes the old one. -/
def State.csrChange (s : State) (a : Csr) (d : Option Reg) (f : Party → DWord → DWord) : Host.Outcome State Fault Refusal :=
  s.issue fun p x =>
    let allowed := match Csr.writeLevel a with | some l => decide (l ≤ x.csr.level.toNat) | none => false
    if !allowed then s.raiseHere p 0x08 x.m0 0
    else
      let old := s.csrRead x x.csr 0 a
      match s.csrWrite p x (f x old) a, d with
      | none, _ => s.raiseHere p 0x02 x.m0 0
      | some s, some (.s n) => s.onParty p (fun x => x.setU n.val old)
      | some s, _ => s

/-- `csr.wr` (R258). -/
def execCsrWr (_m : Mods) (a : Csr) (b : Src) (s : State) : Host.Outcome State Fault Refusal :=
  s.csrChange a none (fun x _ => x.srcZ b)

/-- `csr.set` (R258). -/
def execCsrSet (_m : Mods) (d : Reg) (a : Csr) (b : Src) (s : State) : Host.Outcome State Fault Refusal :=
  s.csrChange a (some d) (fun x old => old ||| x.srcZ b)

/-- `csr.clr` (R258). -/
def execCsrClr (_m : Mods) (d : Reg) (a : Csr) (b : Src) (s : State) : Host.Outcome State Fault Refusal :=
  s.csrChange a (some d) (fun x old => old &&& ~~~ x.srcZ b)

/-! ### Traps and the return (R265 to R267) -/

/-- `trap` and `brk` (R266): raised after the group for the whole party, at the group after it. -/
def State.softTrap (s : State) (p : Nat) (x : Party) (cause : BitVec 6) (v : Word) : State :=
  s.raise p ⟨cause, false, x.nextHere (nextPacket x.pos.pkt), x.pos.m0 &&& ~~~ x.pos.moved, x.m0, [], v.setWidth 64, none⟩

/-- `trap` (R266). -/
def execTrap (_m : Mods) (b : Src) (s : State) : Host.Outcome State Fault Refusal :=
  s.issue fun p x => s.softTrap p x 0x09 ((x.srcZ b).setWidth 32)

/-- `brk` (R266). -/
def execBrk (_m : Mods) (b : BitVec 7) (s : State) : Host.Outcome State Fault Refusal :=
  s.issue fun p x => s.softTrap p x 0x0A (imm7 b)

/-- `tret` (R267, R273, R284). With an empty shadow there is nothing to return to: 0x02 (log entry 29). -/
def execTret (_m : Mods) (s : State) : Host.Outcome State Fault Refusal :=
  s.issue fun p x =>
    if x.csr.level == 0 then s.raiseHere p 0x08 x.m0 0
    else match x.shadow with
    | [] => s.raiseHere p 0x02 x.m0 0
    | e :: es => match x.tretCause e with
      | some c => s.raiseHere p c x.m0 0
      | none => s.setParty p { x.leaveTrap e es with latch := none, parkedAt := s.now }

/-! ### Time and windows (R268, R269, R317) -/

/-- `clk` (R268). -/
def execClk (m : Mods) (d : Reg) (s : State) : Host.Outcome State Fault Refusal :=
  s.issue fun p x =>
    let v := BitVec.ofNat 64 s.clk
    match d with
    | .s n => s.setParty p (x.setU n.val v)
    | .v n => s.alloc p x m [(d, 2)] <|
      let ts := threadsOf x.width x.m0
      let r := x.base + n.val
      s.setParty p ((x.setVs r (ts.map (fun t => (t, v.setWidth 32)))).setVs (r + 1)
        (ts.map (fun t => (t, v.extractLsb' 32 32))))

/-- A thread of `ts` has a write to a window page that is not acknowledged (R269). -/
def State.winOpen (s : State) (p : Nat) (ts : List Nat) : Bool :=
  s.reqs.any (fun e => e.2.party == p && e.2.win && e.2.openWrite && e.2.owners.any (fun o => ts.contains o.1))

/-- A window's bound timeline rises by 1 (R317). -/
def State.winTick (s : State) (w : Nat) : State :=
  match s.window? w with
  | none => s
  | some x => match x.tl with
    | none => s
    | some (c, tl) => s.onCore c (fun k => { k with done := sset 0 k.done tl ((k.doneOf tl + 1) % 2 ^ 64) })

/-- `fence.win` (R62, R269, R317): the threads' window writes are acknowledged, which their home does after the window's counters are
updated (R315); their regions end, and the timelines bound to the windows they wrote advance. -/
def execFenceWin (_m : Mods) (s : State) : Host.Outcome State Fault Refusal :=
  s.issue fun p x => s.deliverFp p x <|
    let ts := threadsOf x.width x.m0
    s.whenSynced p x ts false false <|
      if s.winOpen p ts then s.stall p
      else
        let ws := ((x.winWrites.filter (fun e => ts.contains e.1)).map (·.2)).dedup
        let s := (s.endSync p ts false).onParty p (fun x =>
          { x with winWrites := x.winWrites.filter (fun e => !ts.contains e.1) })
        ws.foldl (fun (s : State) w => s.winTick w) s

end Sys2Proof.Machine
end

