-- ==== Sys2Proof/Machine/Lane.lean ====
section
/-! DEFINITION. The steps of a lane (R69, R343, R344) and of its waits: CLAUSE_ENTRY, LANE_PICK, TRAP_ENTRY, NAP_TIMEOUT, WATCHDOG_EXPIRY and
DEBUG_HALT. -/

namespace Sys2Proof.Machine

open Sys2Proof

/-! ### Ready parties (R343) -/

/-- A party that can be issued once its clause is entered and its gap is over: resident, not parked, not held, with threads to serve. -/
def Party.free (p : Party) : Bool :=
  p.life == .resident && p.park == .none && !p.hold && p.ctl == .run && p.waitReqs == 0 && p.pend.isNone && p.place.isSome

/-- The next packet is the first of its clause, and the clause has not been entered (R69). -/
def Party.atClause (p : Party) : Bool :=
  match p.place with
  | none => false
  | some q => q.words.isNone && q.slot == 0 && q.pkt.extractLsb' 0 3 == 0 && !p.entered

/-- A party is ready at a pick (R343): inside a packet no gap holds it. -/
def Party.ready (p : Party) : Bool := p.free && !p.atClause && (p.pos.words.isSome || p.gap == 0)

/-! ### CLAUSE_ENTRY (R69, R210, R238) -/

/-- The flags a wait mask names that are set. -/
def Party.waitsOn (p : Party) (mask : BitVec 12) : Bool := (upto 12).any (fun k => mask.getLsbD k && p.flagSet k)

/-- The first undelivered envelope record of a party whose flag a wait mask names (R238). -/
def Core.clauseFault (k : Core) (p : Nat) (mask : BitVec 12) : Option EngFault :=
  (k.faults.filter (fun f => f.party == p && f.tl == 6 && f.flag < 12 && mask.getLsbD f.flag)).foldl (fun m f => match m with
    | none => some f
    | some g => some (if f.ticket < g.ticket then f else g)) none

/-- CLAUSE_ENTRY (R69): the clause at whose first packet the party stands is entered once no flag of its wait mask is set; a deferred
envelope fault of a named flag is delivered there first. -/
def execClauseEntry (p : Nat) (s : State) : Host.Outcome State Fault Refusal :=
  State.event (match s.party? p with
  | none => s
  | some x => match x.place with
    | none => s
    | some q =>
      if !x.free || !x.atClause then s
      else match s.fetchLine x q.pkt with
      | (s, .error c) => s.takeTrap p (x.fetchTrap q.m0 q.pkt c)
      | (t, .ok pa) =>
        let mask : BitVec 12 := (BitVec.ofNat 32 (t.loadN pa 4)).extractLsb' 0 12
        if x.waitsOn mask then s
        else
          let c := coreOfLane x.lane
          match (t.core c).clauseFault p mask with
          | none => t.setParty p { x with entered := true }
          | some f =>
            (t.onCore c (fun k => { k with faults := k.faults.erase f })).takeTrap p
              ⟨f.cause, true, q.pkt, q.m0, q.m0, addrFor x.width q.m0 f.addr,
                BitVec.ofNat 64 (f.tl % 16 + f.ticket % 2 ^ 56 * 256), none⟩)

/-! ### Waits that are satisfied (R30, R32) -/

/-- A party whose wait is over is resident again, with a new issue age (R344). -/
def Party.unpark (p : Party) (now : Nat) : Party := { p with park := .none, age := now, parkedAt := now }

/-- Test the wait of a resident party (R30, R156, R179, R223): a timeline and a store wait execute their group again; a barrier wait and
a mailbox wait complete. -/
def State.rouse (s : State) (p : Nat) : State :=
  match s.party? p with
  | none => s
  | some x =>
    if x.life != .resident || x.waitReqs != 0 then s
    else match x.park with
    | .none | .nap _ _ _ _ => s
    | .timeline tl n =>
      let k := s.core (coreOfLane x.lane)
      if n ≤ k.doneOf tl || (k.faultFor x.crew tl n).isSome then s.setParty p (x.unpark s.now) else s
    | .mbxStore => if s.mbxStOpen p (upto x.width) then s else s.setParty p (x.unpark s.now)
    | .mailbox => if s.mbxLdOpen p then s else ((s.setParty p (x.unpark s.now)).unhold p).finishGroup p
    | .barrier inst phase =>
      match x.grid with
      | none => s
      | some g =>
        if (s.bar g inst).phase ≤ phase then s
        else ((s.setParty p (x.unpark s.now)).barrierDone p (inst % 128)).finishGroup p

/-! ### LANE_PICK (R343, R344) -/

/-- A candidate of a pick: its number, its issue age, its resident slot, and whether it gives way. -/
structure Cand where
  p : Nat
  age : Nat
  slot : Nat
  give : Bool
  deriving DecidableEq, Repr

/-- Put a candidate in its place: smaller issue age first, then the lower resident slot. -/
def insertCand (c : Cand) : List Cand → List Cand
  | [] => [c]
  | d :: ds => if c.age < d.age || (c.age == d.age && c.slot < d.slot) then c :: d :: ds else d :: insertCand c ds

/-- The choice among candidates in order: those that give way while another is ready are passed once. -/
def chooseCand : List Cand → List Nat × Option Nat
  | [] => ([], none)
  | [c] => ([], some c.p)
  | c :: cs => if c.give then (let r := chooseCand cs; (c.p :: r.1, r.2)) else ([], some c.p)

/-- The ready parties of a lane in the order of the pick. -/
def State.pickOrder (s : State) (lane : Nat) : List Cand :=
  (s.parties.filter (fun e => e.2.lane == lane && e.2.ready)).foldl (fun cs e =>
    insertCand ⟨e.1, e.2.age, e.2.rslot, e.2.giveWay && e.2.pos.words.isNone⟩ cs) []

/-- The resident parties of a lane. -/
def State.onLane (s : State) (lane : Nat) : List Nat :=
  (s.parties.filter (fun (e : Nat × Party) => e.2.life == .resident && e.2.lane == lane)).map (fun e => e.1)

/-- LANE_PICK (R343, R344): the waits of a lane's parties are tested, and the ready party with the smallest issue age issues its next
packet, or goes on with the packet it stands in. Every pick is a turn of each resident party of the lane. One packet issues at a time
(log entry 3). -/
def execLanePick (lane : Nat) (s : State) : Host.Outcome State Fault Refusal :=
  State.event (
    if s.cur.isSome then s
    else
      let s := (s.onLane lane).foldl (fun (s : State) p => s.rouse p) s
      let r := chooseCand (s.pickOrder lane)
      let s := (s.onLane lane).foldl (fun (s : State) p => s.onParty p (fun x => { x with gap := x.gap - 1 })) s
      let s := r.1.foldl (fun (s : State) p => s.onParty p (fun x => { x with giveWay := false })) s
      { s with cur := r.2 })

/-! ### Traps and waits that end (R177, R273, R283) -/

/-- TRAP_ENTRY (R273): a pending trap is entered once every completion flag is clear and every home has answered. -/
def execTrapEntry (p : Nat) (s : State) : Host.Outcome State Fault Refusal :=
  State.event (match s.party? p with
  | none => s
  | some x => match x.pend with
    | none => s
    | some r => if x.latch.isSome || x.busyFlags || x.waitReqs != 0 then s else s.takeTrap p r)

/-- NAP_TIMEOUT (R177): the lane-cycles of a nap's timeout are over. -/
def execNapTimeout (p : Nat) (s : State) : Host.Outcome State Fault Refusal :=
  State.event (match s.party? p with
  | none => s
  | some x => match x.park with
    | .nap _ (some n) _ _ =>
      if x.life == .resident && decide (n ≤ (s.now - x.parkedAt) / s.cycle) then s.setParty p (x.unpark s.now) else s
    | _ => s)

/-- The trap of the watchdog at a group (R283): the threads of m0 execute it again after `tret`. -/
def watchdogTrap (epc : DWord) (m0 : Mask) : TrapReq := ⟨0x35, false, epc, m0, m0, [], 0, none⟩

/-- Withdraw the recorded loads of a party's group (R283): each counts as completed for its flag. -/
def State.withdrawLoads (s : State) (p : Nat) : State :=
  let gone := s.reqs.filter (fun (e : Nat × Req) => e.2.party == p && e.2.held && e.2.phase == .waiting && e.2.kind == .mbxLd)
  gone.foldl (fun (s : State) (e : Nat × Req) => (s.dropReq e.1).onParty p (fun x =>
    match e.2.flag with | some k => x.doneFlag k 1 | none => x)) s

/-- What the watchdog does to a party in one of its waits: the state before the trap, and the trap (R283). -/
def State.watchdogAt (s : State) (p : Nat) (x : Party) : Option (State × TrapReq) :=
  let idle := x.free && x.atClause
  match x.park with
  | .timeline tl _ => if 8 ≤ tl then some (s, watchdogTrap x.here x.pos.m0) else none
  | .barrier _ _ => some (s, watchdogTrap x.here x.pos.m0)
  | .mbxStore => some (s, watchdogTrap x.here x.pos.m0)
  | .mailbox =>
    let waits := s.reqs.filter (fun (e : Nat × Req) => e.2.party == p && e.2.held && e.2.phase == .waiting && e.2.kind == .mbxLd)
    let m := waits.foldl (fun m e => if e.2.uniform then m ||| x.pos.m0 else setBit m e.2.thread true) 0
    let y := match x.latch with | some l => x.takeBack l m | none => x
    some (((s.setParty p { y with latch := none }).withdrawLoads p).unhold p,
      ⟨0x35, false, x.here, x.pos.m0, m, [], 0, some m⟩)
  | .nap _ none a m0 => some (s, watchdogTrap a m0)
  | .nap _ (some _) _ _ => none
  | .none =>
    if idle then match x.place with
      | some q => some (s, watchdogTrap q.pkt q.m0)
      | none => none
    else if x.syncWait != 0 && x.eligible == 0 && x.pend.isNone && x.leaving == 0 then
      some (s, watchdogTrap x.syncAt (x.syncLast &&& x.syncWait))
    else none

/-- WATCHDOG_EXPIRY (R283): a party that has stayed in one wait longer than its lodging's period takes 0x35 at the waiting group. -/
def execWatchdogExpiry (p : Nat) (s : State) : Host.Outcome State Fault Refusal :=
  State.event (match s.party? p with
  | none => s
  | some x =>
    if x.life != .resident || decide (s.now - x.parkedAt ≤ 2 * (s.lod x.fe).watchdog) then s
    else match s.watchdogAt p x with
    | none => s
    | some (s, r) => (s.onParty p (fun x => { x with park := .none })).takeTrap p r)

/-- DEBUG_HALT (R271, R398): the debug port halts a party between groups; 0x3C goes to firmware. -/
def execDebugHalt (p : Nat) (s : State) : Host.Outcome State Fault Refusal :=
  State.event (match s.party? p with
  | none => s
  | some x =>
    if x.life != .resident || s.cur == some p || x.waitReqs != 0 then s
    else (s.setParty p (s.stopCyc x.halt)).notify 0x3C)

end Sys2Proof.Machine
end

