-- ==== Sys2Proof/Machine/Lodge.lean ====
section
/-! DEFINITION. Saving, restoring, resetting and moving lodgings (R279 to R282, R341, R357, R367, R368, R379 to R384, R396 to R398): pre-emption,
resets and boot, Caravans and migration. -/

namespace Sys2Proof.Machine

open Sys2Proof

/-! ### What belongs to a lodging -/

/-- A party's engine of a core belongs to a lodging. -/
def Core.of (c : Core) (fe : Nat) : Bool := c.fe == some fe

/-- The lodging is at a boundary of every engine (R279): no party inside a group, results written, requests accepted but those recorded at a
mailbox word, Stewards and envelope units idle for it. -/
def State.quiet (s : State) (fe : Nat) : Bool :=
  s.parties.all (fun e => e.2.fe != fe || (s.cur != some e.1 && e.2.waitReqs == 0 && e.2.pend.isNone && e.2.ctl == .run &&
    (!e.2.busyFlags || s.reqs.any (fun r => r.2.party == e.1 && r.2.phase == .waiting)))) &&
  s.reqs.all (fun e => e.2.fe != fe || e.2.party == 0 || e.2.phase == .waiting) &&
  s.sfus.all (fun e => match s.party? e.2.party with | some x => x.fe != fe | none => true) &&
  s.quads.all (fun e => e.2.fifo.all (fun i => i.fe != fe) && e.2.emitted.all (fun a => a.fe != fe)) &&
  s.cores.all (fun e => !e.2.of fe || e.2.envQ.isEmpty)

/-! ### Taking a lodging's state out (R280) -/

/-- Records with the time they have waited in place of their arrival. -/
def Quad.away (q : Quad) (fe now : Nat) : Quad :=
  { Quad.reset with buckets := (q.buckets.filter (fun e => e.1 / 4096 == fe)).map (fun (e : Nat × List Activation) =>
      (e.1, e.2.map (fun a => { a with arrived := now - a.arrived }))) }

/-- A core's part of the image: its engines, or the timelines it keeps for the lodging while it serves another. -/
def Core.away (c : Core) (fe : Nat) : Core :=
  if c.of fe then { c with savedTl := [], tokens := false, idleSince := none }
  else
    let t := sget ([], []) c.savedTl fe
    { Core.reset with issued := t.1, done := t.2, fe := some fe }

/-- What stays of a core without a lodging. -/
def Core.without (c : Core) (fe now : Nat) : Core :=
  let kept := sset ([], []) c.savedTl fe ([], [])
  if c.of fe then { Core.reset with savedTl := kept, tokens := c.tokens, idleSince := some now } else { c with savedTl := kept }

/-- The list of an engine that a lodging's image keeps. -/
def Bank.away (b : Bank) (fe : Nat) : Bank :=
  let q := b.queue.filter (fun l => l.fe == fe)
  match b.run with
  | some l => if l.fe == fe then { b with queue := q } else { Bank.reset with queue := q }
  | none => { Bank.reset with queue := q }

/-- What stays of a bank engine without a lodging. -/
def Bank.without (b : Bank) (fe : Nat) : Bank :=
  let q := b.queue.filter (fun l => l.fe != fe)
  match b.run with
  | some l => if l.fe == fe then { Bank.reset with queue := q } else { b with queue := q }
  | none => { b with queue := q }

/-- Map a sparse store of defaulted entries. -/
def smap {α : Type} [DecidableEq α] (dflt : α) (f : α → α) (m : Sparse α) : Sparse α :=
  (m.map (fun (e : Nat × α) => (e.1, f e.2))).filter (fun (e : Nat × α) => decide (e.2 ≠ dflt))

/-- The pinned lines of a lodging (R330). -/
def State.pinsOf (s : State) (fe : Nat) : List Nat :=
  (s.mem.cellar.filter (fun e => (match e.2 with | some c => c.pinned | none => false) && s.ownerOf (64 * e.1) == .key fe)).map (·.1)

/-- The parties of a lodging, by number. -/
def State.isOf (s : State) (fe p : Nat) : Bool := match s.party? p with | some x => x.fe == fe | none => false

/-- Every item of a lodging leaves the machine: its image, and the state without it. -/
def State.collect (s : State) (fe : Nat) : Image × State :=
  let img : Image := {
    qb := (s.lod fe).qb
    parties := s.parties.filter (fun e => e.2.fe == fe)
    crews := s.crews.filter (fun e => e.2.fe == fe)
    launches := s.launches.filter (fun e => e.2.fe == fe)
    cores := smap Core.reset (fun c => c.away fe) (s.cores.filter (fun (e : Nat × Core) => e.2.of fe || (sfind e.2.savedTl fe).isSome))
    quads := smap Quad.reset (fun q => q.away fe s.now) s.quads
    tags := s.tags.filter (fun t => t.fe == fe)
    reqs := s.reqs.filter (fun (e : Nat × Req) => e.2.fe == fe && e.2.party != 0)
    sfus := s.sfus.filter (fun (e : Nat × SfuOp) => s.isOf fe e.2.party)
    arrivals := s.arrivals.filter (fun (e : Nat × Arrival) => s.isOf fe e.2.party)
    banks := smap Bank.reset (fun b => b.away fe) s.banks
    pinned := s.pinsOf fe }
  let crews := img.crews.map (fun e => e.1)
  (img, { s with
    parties := s.parties.filter (fun e => e.2.fe != fe)
    crews := s.crews.filter (fun e => e.2.fe != fe)
    launches := s.launches.filter (fun e => e.2.fe != fe)
    cores := smap Core.reset (fun c => c.without fe s.now) s.cores
    quads := smap Quad.reset (fun (q : Quad) => { q with
      fifo := q.fifo.filter (fun i => i.fe != fe)
      emitted := q.emitted.filter (fun a => a.fe != fe)
      buckets := q.buckets.filter (fun (e : Nat × List Activation) => e.1 / 4096 != fe) }) s.quads
    dieFifo := smap [] (fun (ps : List Nat) => ps.filter (fun c => !crews.contains c)) s.dieFifo
    tags := s.tags.filter (fun t => t.fe != fe)
    reqs := s.reqs.filter (fun (e : Nat × Req) => e.2.fe != fe || e.2.party == 0)
    sfus := s.sfus.filter (fun (e : Nat × SfuOp) => !s.isOf fe e.2.party)
    arrivals := s.arrivals.filter (fun (e : Nat × Arrival) => !s.isOf fe e.2.party)
    banks := smap Bank.reset (fun b => b.without fe) s.banks
    cur := match s.cur with | some p => if s.isOf fe p then none else some p | none => none })

/-! ### Saving and losing (R279, R280, R369) -/

/-- Every resident crew of a lodging leaves its core, as for the save area. -/
def State.leaveCores (s : State) (fe : Nat) : State :=
  (s.crews.filter (fun (e : Nat × Crew) => e.2.fe == fe && e.2.life == .resident)).foldl (fun (s : State) e => s.removeCrew e.1) s

/-- Parties of a saved lodging (R30). -/
def Party.toSaved (p : Party) : Party := { p with life := if p.life == .halted then .halted else .saved }

/-- A stream fails (R393): its status, code and packet, the item bit, and vector 0. -/
def State.failStream (s : State) (fe code skip : Nat) (packet : DWord) : State :=
  (s.onStream fe (fun st => { st with
    failed := true, code := code, item := true, faultPacket := packet, skip := skip, blockedAt := none, noticed := false })).msix fe 0

/-- A lodging is lost (R280, R341): the front end reports the code, the Logbook records it, and no party of it runs again. -/
def State.loseLodging (s : State) (fe code : Nat) : State :=
  let s := (s.collect fe).2
  let s := s.onLod fe (fun l => { l with st := .lost, image := none })
  ((s.failStream fe code 0 (s.lod fe).stream.faultPacket).log code fe 0 0).msix fe 3

/-- Save a lodging (R279, R280, R330): its pinned lines are written back, and its state leaves the machine. A save area that cannot be
written loses the lodging. -/
def State.save (s : State) (fe : Nat) : State :=
  match s.upset with
  | .saveArea => ({ s with upset := .none }).loseLodging fe 0x32
  | _ =>
    let g := (s.leaveCores fe).collect fe
    let img := { g.1 with parties := g.1.parties.map (fun (e : Nat × Party) => (e.1, e.2.toSaved)) }
    let s := img.pinned.foldl (fun (s : State) k => s.unpin k) g.2
    s.onLod fe (fun l => { l with st := .saved, image := some img })

/-- PREEMPTION (R279, R280): a running lodging whose engines all stand at their boundaries is saved. -/
def execPreemption (fe : Nat) (s : State) : Host.Outcome State Fault Refusal :=
  State.event (if (s.lod fe).st == .running && s.quiet fe then s.save fe else s)

/-! ### Restoring (R280, R330) -/

/-- The quads of an image moved by an offset, its cores and lanes with them; the front end renamed. -/
structure Move where
  src : Nat
  dst : Nat
  fe : Nat
  deriving DecidableEq, Repr

/-- A quad under a move. -/
def Move.quad (m : Move) (q : Nat) : Nat := q + m.dst - m.src
/-- A core under a move. -/
def Move.core (m : Move) (c : Nat) : Nat := c + 4 * m.dst - 4 * m.src
/-- A lane under a move. -/
def Move.lane (m : Move) (l : Nat) : Nat := l + 256 * m.dst - 256 * m.src

/-- A barrier instance under a move: the extent of quad and die scope is a place, that of core scope a crew. -/
def Move.bar (m : Move) (i : Nat) : Nat :=
  let extent := i / 128
  let rest := i % 128
  let scope := rest / 16
  let e := if scope = 1 then m.quad extent else if scope = 2 then dieOfQuad (m.quad (32 * extent)) else extent
  e * 128 + rest

/-- An activation under a move. -/
def Move.act (m : Move) (a : Activation) : Activation := { a with fe := m.fe }

/-- A core under a move. -/
def Move.coreState (m : Move) (c : Core) : Core :=
  { c with
    fe := c.fe.map (fun _ => m.fe)
    envQ := c.envQ.map (fun q => { q with fe := m.fe })
    porter := c.porter.map (fun (e : Nat × List CpCmd) => (e.1, e.2.map (fun q => { q with fe := m.fe }))) }

/-- An image under a move. -/
def Image.move (i : Image) (m : Move) : Image :=
  { i with
    qb := m.dst
    parties := i.parties.map (fun (e : Nat × Party) => (e.1, { e.2 with
      fe := m.fe
      lane := m.lane e.2.lane
      park := match e.2.park with | .barrier b ph => Park.barrier (m.bar b) ph | k => k }))
    crews := i.crews.map (fun (e : Nat × Crew) => (e.1, { e.2 with fe := m.fe, quad := m.quad e.2.quad, core := e.2.core.map m.core }))
    launches := i.launches.map (fun (e : Nat × Launch) => (e.1, { e.2 with
      fe := m.fe
      unplaced := e.2.unplaced.map (fun u => (m.quad u.1, u.2))
      bars := e.2.bars.map (fun b => (m.bar b.1, b.2)) }))
    cores := i.cores.map (fun (e : Nat × Core) => (m.core e.1, m.coreState e.2))
    quads := i.quads.map (fun (e : Nat × Quad) => (m.quad e.1, { e.2 with
      buckets := e.2.buckets.map (fun (b : Nat × List Activation) => (bucketKey m.fe (b.1 % 4096), b.2.map m.act)) }))
    tags := i.tags.map (fun t => { t with fe := m.fe })
    reqs := i.reqs.map (fun (e : Nat × Req) => (e.1, { e.2 with fe := m.fe, lane := m.lane e.2.lane }))
    arrivals := i.arrivals.map (fun (e : Nat × Arrival) => (e.1, { e.2 with inst := m.bar e.2.inst }))
    banks := i.banks.map (fun (e : Nat × Bank) =>
      let f := fun (l : BankList) => { l with fe := m.fe, core := m.core l.core }
      (e.1, { e.2 with queue := e.2.queue.map f, run := e.2.run.map f })) }

/-- A core of an image holds no engine work, only timelines. -/
def Core.plain (c : Core) : Bool :=
  c.tiles.isEmpty && c.mx.isEmpty && c.env.isEmpty && c.envQ.isEmpty && c.porter.all (fun e => e.2.isEmpty) && c.faults.isEmpty &&
    c.bankDone.isEmpty

/-- The image can return now: its cores and bank engines are free for it, and its numbers are not in use. -/
def State.canReturn (s : State) (fe : Nat) (i : Image) : Bool :=
  i.cores.all (fun e => e.2.plain || s.mayServe e.1 fe) &&
  i.banks.all (fun e => e.2.run.isNone || (s.bank e.1).run.isNone) &&
  i.parties.all (fun e => (s.party? e.1).isNone) && i.crews.all (fun e => (s.crew? e.1).isNone) &&
  i.launches.all (fun e => (sfind s.launches e.1).isNone) && i.reqs.all (fun e => (sfind s.reqs e.1).isNone)

/-- A core takes its part of an image back. -/
def State.returnCore (s : State) (fe c : Nat) (k : Core) : State :=
  if s.mayServe c fe then
    s.onCore c (fun x =>
      let y := x.handOver fe
      { k with savedTl := y.savedTl, tokens := y.tokens, idleSince := some s.now, fe := some fe })
  else s.onCore c (fun x => { x with savedTl := sset ([], []) x.savedTl fe (k.issued, k.done) })

/-- A bank engine takes its part of an image back. -/
def Bank.back (b k : Bank) : Bank :=
  match k.run with
  | some _ => { k with queue := k.queue ++ b.queue }
  | none => { b with queue := b.queue ++ k.queue }

/-- Records take an arrival again. -/
def Quad.back (q k : Quad) (now : Nat) : Quad :=
  { q with buckets := k.buckets.foldl (fun st (e : Nat × List Activation) =>
      sput st e.1 (sget [] st e.1 ++ e.2.map (fun a => { a with arrived := now - a.arrived }))) q.buckets }

/-- A crew that was on a core waits to return there: evicted when its parties are all parked, switched out otherwise (R30). -/
def Image.crewLife (i : Image) (k : Crew) : Life :=
  if k.life != .saved then k.life
  else if (k.parties.filterMap (fun p => sfind i.parties p)).all (fun x => x.park != .none) then .evicted else .switchedOut

/-- The largest key of a store. -/
def topKey {α : Type} (m : Sparse α) : Nat := m.foldl (fun t e => max t e.1) 0

/-- Put a lodging's image back (R280): its parties wait for room on their cores, its tags are reinstated, its lines pinned again. -/
def State.putBack (s : State) (fe : Nat) (i : Image) : State :=
  let parties := i.parties.map (fun (e : Nat × Party) =>
    let next := match sfind i.crews e.2.crew with | some k => i.crewLife k | none => e.2.life
    (e.1, { e.2 with life := if e.2.life == .halted then .halted else next }))
  let s := { s with
    parties := parties.foldl (fun st (e : Nat × Party) => sput st e.1 e.2) s.parties
    crews := i.crews.foldl (fun st (e : Nat × Crew) => sput st e.1 { e.2 with life := i.crewLife e.2 }) s.crews
    launches := i.launches.foldl (fun st (e : Nat × Launch) => sput st e.1 e.2) s.launches
    tags := s.tags ++ i.tags
    reqs := i.reqs.foldl (fun st (e : Nat × Req) => sput st e.1 e.2) s.reqs
    sfus := i.sfus.foldl (fun st (e : Nat × SfuOp) => sput st e.1 e.2) s.sfus
    arrivals := i.arrivals.foldl (fun st (e : Nat × Arrival) => sput st e.1 e.2) s.arrivals
    nextId := max s.nextId (1 + max (max (topKey i.parties) (topKey i.crews)) (max (topKey i.launches) (max (topKey i.reqs)
      (topKey i.arrivals)))) }
  let s := i.cores.foldl (fun (s : State) e => s.returnCore fe e.1 e.2) s
  let s := i.banks.foldl (fun (s : State) e => s.onBank e.1 (fun b => b.back e.2)) s
  let s := i.quads.foldl (fun (s : State) e => s.onQuad e.1 (fun q => q.back e.2 s.now)) s
  let put := fun (st : Sparse (Option CellarLine)) k => sset none st k (some ⟨false, true⟩)
  let s := { s with mem := { s.mem with cellar := i.pinned.foldl put s.mem.cellar } }
  s.onLod fe (fun l => { l with st := .running, image := none })

/-- Restore a saved lodging on the quads of its descriptor, when its cores are free for it. -/
def State.restore (s : State) (fe : Nat) : State :=
  match (s.lod fe).image with
  | none => s
  | some i =>
    let j := i.move ⟨i.qb, (s.lod fe).qb, fe⟩
    if s.canReturn fe j then s.putBack fe j else s

/-- LODGING_RESTORE (R280). -/
def execLodgingRestore (fe : Nat) (s : State) : Host.Outcome State Fault Refusal :=
  State.event (if (s.lod fe).st == .saved && activeBit (s.lod fe).desc then s.restore fe else s)

/-! ### Resets (R268, R281, R357, R379, R382) -/

/-- Packets of a stream, and the places they hold in mailbox FIFOs. -/
def State.dropStream (s : State) (fe : Nat) : State :=
  { s with
    packets := s.packets.filter (fun (e : Nat × Packet) => e.2.fe != fe)
    reqs := s.reqs.filter (fun (e : Nat × Req) => e.2.fe != fe)
    invals := s.invals.filter (fun (e : Nat × Inval) => (match sfind s.packets e.2.packet with | some k => k.fe != fe | none => false))
    colls := s.colls.filter (fun (e : Nat × Collective) => e.2.fe != fe)
    msgsOut := s.msgsOut.filter (fun m => m.fe != fe) }

/-- Reset a lodging (R281, R357, R379; log entry 32): its windows close, its parties, queues, saved state and stream are gone, and it
stands as at its creation, with its descriptor, keys and memory. -/
def State.resetLodging (s : State) (fe : Nat) : State :=
  let s := s.closeWindows (s.windowsOf fe)
  let s := ((s.collect fe).2).dropStream fe
  let s := { s with tags := s.tags.filter (fun t => t.fe != fe) }
  let s := s.onLod fe (fun l => { Lodging.reset with
    desc := l.desc, st := if activeBit l.desc then .running else .none, root1 := l.root1, root2 := l.root2, watchdog := l.watchdog
    keyDraw := l.keyDraw, kemDraw := l.kemDraw })
  s.msix fe 3

/-- The front ends that hold something. -/
def State.frontEnds (s : State) : List Nat := s.lods.map (fun e => e.1)

/-- FUNCTION_LEVEL_RESET (R281, R357, R379). -/
def execFunctionLevelReset (fe : Nat) (s : State) : Host.Outcome State Fault Refusal :=
  State.event (if fe = 0 || 31 < fe then s else s.resetLodging fe)

/-- The device restarts (R268, R357, R382, R394): the Logbook and the clock stay, and the boot ROM has to boot a slot. -/
def State.restart (s : State) : State :=
  s.onPkg (fun k => { k with
    service := .recovery, running := none, cap := 3200, pool := 1024, lowering := false, mismatchAt := none, mailbox := [] })

/-- A warm reset (R357): every lodging is reset. -/
def State.warm (s : State) : State := (s.frontEnds.foldl (fun (s : State) fe => s.resetLodging fe) s).restart

/-- WARM_RESET (R357). -/
def execWarmReset (s : State) : Host.Outcome State Fault Refusal := State.event s.warm

/-- PF_RESET (R357): it acts as a warm reset. -/
def execPfReset (s : State) : Host.Outcome State Fault Refusal := State.event s.warm

/-- COLD_RESET (R257, R268, R385, R394): everything returns to its state at power-on but the firmware slots, the anti-rollback counter and
the package's place in its pod; host memory is not the device's. -/
def execColdReset (s : State) : Host.Outcome State Fault Refusal :=
  State.event { State.reset with
    script := s.script
    freeCtr := s.freeCtr
    nextId := s.nextId
    mem := { Mem.reset with host := s.mem.host }
    pkg := { Package.reset with
      number := s.pkg.number, slots := s.pkg.slots, antiRollback := s.pkg.antiRollback, draws := s.pkg.draws } }

/-! ### Boot and service levels (R382, R384, R396, R397) -/

/-- A slot's image is valid (R382). -/
def State.slotValid (s : State) (k : Nat) : Bool :=
  match (s.pkg.slots.getD k ⟨none⟩).image with
  | none => false
  | some i => Config.falconVerify i.body i.signature && decide (s.pkg.antiRollback ≤ i.version)

/-- The version in a slot; none is older than any. -/
def State.slotVersion (s : State) (k : Nat) : Nat :=
  match (s.pkg.slots.getD k ⟨none⟩).image with | some i => i.version + 1 | none => 0

/-- FIRMWARE_BOOT (R382, R396): after a reset the valid slot of the higher version boots into reduced service; when both fail, no lodging
exists. -/
def execFirmwareBoot (s : State) : Host.Outcome State Fault Refusal :=
  State.event (
    if s.pkg.running.isSome then s
    else
      let best := if s.slotValid 0 && s.slotValid 1 then some (if s.slotVersion 0 < s.slotVersion 1 then 1 else 0)
        else if s.slotValid 0 then some 0 else if s.slotValid 1 then some 1 else none
      match best with
      | some k => s.onPkg (fun p => { p with running := some k, service := .reduced })
      | none =>
        let s := s.frontEnds.foldl (fun (s : State) fe => (s.resetLodging fe).onLod fe (fun l =>
          { l with desc := 0, st := .none })) s
        s.onPkg (fun p => { p with service := .recovery }))

/-- RECOVERY_IMAGE (R358, R382): an image that verifies goes to the older slot and the device takes a warm reset; another is discarded. -/
def execRecoveryImage (image : FwImage) (s : State) : Host.Outcome State Fault Refusal :=
  State.event (
    let done := fun (s : State) => (s.onPkg (fun k => { k with mailboxDone := k.mailboxDone + 1 })).msix 0 7
    if Config.falconVerify image.body image.signature && decide (s.pkg.antiRollback ≤ image.version) then
      let old := if s.slotVersion 1 < s.slotVersion 0 then 1 else 0
      done ((s.onPkg (fun k => { k with slots := k.slots.set old ⟨some image⟩ })).warm)
    else done s)

/-- Every running lodging is saved. -/
def State.saveAll (s : State) : State :=
  s.frontEnds.foldl (fun (s : State) fe => if (s.lod fe).st == .running then s.save fe else s) s

/-- Every running lodging is quiet. -/
def State.allQuiet (s : State) : Bool := s.frontEnds.all (fun fe => (s.lod fe).st != .running || s.quiet fe)

/-- The reduced range's lines as memory holds them after the move to full service (R397): every counter at 0, stored under their keys;
a stored line that is not listed is the line under counters 0. -/
def State.toHbm (s : State) : State :=
  let inside := fun (n : Nat) => n < 1200 * 2 ^ 20
  let lines := ((s.mem.bytes.filter (fun e => inside e.1)).map (fun e => e.1 / 64)).dedup
  let m := s.mem
  let s := { s with mem := { m with
    counters := m.counters.filter (fun e => !inside (4096 * e.1))
    cellar := m.cellar.map (fun (e : Nat × Option CellarLine) => if inside (64 * e.1) then (e.1, e.2.map (fun _ => ⟨false, false⟩)) else e) } }
  lines.foldl (fun (s : State) k => s.putDram k 0 0) s

/-- FULL_SERVICE_TRANSITION (R396, R397): with every stack and die trained the device moves to full service, its lodgings pre-empted and
restored; a stack that fails training is recorded and leaves it in reduced service. -/
def execFullServiceTransition (s : State) : Host.Outcome State Fault Refusal :=
  State.event (
    if s.pkg.service != .reduced then s
    else match s.upset with
    | .training => ({ s with upset := .none }).log 0x41 0xFF 0 0
    | _ =>
      if !s.allQuiet then s
      else
        let fes := s.frontEnds.filter (fun fe => (s.lod fe).st == .running)
        let s := (s.saveAll.toHbm).onPkg (fun k => { k with service := .full })
        let s := s.frontEnds.foldl (fun (s : State) fe => s.onLod fe (fun l =>
          { l with image := l.image.map (fun i => { i with pinned := [] }) })) s
        fes.foldl (fun (s : State) fe => s.restore fe) s)

/-- INNKEEPER_MISMATCH (R384): the mismatch is recorded and the pair restarts from its checkpoint; a second one within 100 ms saves every
active lodging, fails every stream with 0x3F and restarts the device (log entry 33). -/
def execInnkeeperMismatch (s : State) : Host.Outcome State Fault Refusal :=
  State.event (
    let again := match s.pkg.mismatchAt with | some t => decide (s.now - t ≤ 200000000) | none => false
    if again then
      if !s.allQuiet then s
      else
        let s := (s.log 0x42 0xFF 0 0).saveAll
        let s := s.frontEnds.foldl (fun (s : State) fe => s.failStream fe 0x3F 0 (s.lod fe).stream.faultPacket) s
        s.restart
    else (s.log 0x42 0xFF 0 0).onPkg (fun k => { k with mismatchAt := some s.now }))

/-- REGION_TAG_LOSS (R341): both copies of a record in a set fail, and every lodging with a record there is lost. -/
def execRegionTagLoss (slice set : Nat) (s : State) : Host.Outcome State Fault Refusal :=
  State.event (
    let hit := ((s.tags.filter (fun t => s.tagSet t.fe t.granule == (slice, set))).map (fun t => t.fe)).dedup
    let s := hit.foldl (fun (s : State) fe => s.loseLodging fe 0x3F) s
    s.log 0x3F 0xFF slice (BitVec.ofNat 128 set))

/-! ### Caravans (R282, R347, R367) -/

/-- Update a Caravan. -/
def State.onCaravan (s : State) (c : Nat) (f : Caravan → Caravan) : State :=
  match sfind s.caravans c with
  | some x => { s with caravans := sput s.caravans c (f x) }
  | none => s

/-- CARAVAN_SLICE_START (R367): at the start time, with the lodgings on its quads pre-empted and every member ready, the slice runs; a
member that is not ready moves the start by 50 µs once and then forfeits the slice. Whether the other members are ready is free. -/
def execCaravanSliceStart (c : Nat) (s : State) : Host.Outcome State Fault Refusal :=
  State.event (match sfind s.caravans c with
  | none => s
  | some x =>
    if x.running || s.clk < x.start then s
    else
      let here := x.lodgings.all (fun fe => (s.lod fe).st != .running || s.quiet fe)
      let f := s.freeWord
      let s := f.2
      if here && f.1.getLsbD 0 then
        let out := x.lodgings.filter (fun fe => (s.lod fe).st == .running && fe != x.member)
        let s := out.foldl (fun (s : State) fe => s.save fe) s
        let s := if (s.lod x.member).st == .saved then s.restore x.member else s
        s.onCaravan c (fun k => { k with running := true, moved := false, saved := out })
      else if !x.moved then s.onCaravan c (fun k => { k with moved := true, start := k.start + 50000 })
      else
        let s := x.saved.foldl (fun (s : State) fe => s.restore fe) s
        ({ s with caravans := sdrop s.caravans c }).log 0x43 x.member 0 (BitVec.ofNat 128 c))

/-- CARAVAN_SLICE_END (R367): the slice is over, and the quads go back to their earlier occupants. -/
def execCaravanSliceEnd (c : Nat) (s : State) : Host.Outcome State Fault Refusal :=
  State.event (match sfind s.caravans c with
  | none => s
  | some x =>
    if !x.running || s.clk < x.start + x.length || ((s.lod x.member).st == .running && !s.quiet x.member) then s
    else
      let s := if (s.lod x.member).st == .running then s.save x.member else s
      let s := x.saved.foldl (fun (s : State) fe => s.restore fe) s
      s.onCaravan c (fun k => { k with running := false, saved := [] }))

/-- The parties of a Caravan: those of its lodging's pod-scope gangs. -/
def State.caravanParties (s : State) (x : Caravan) : List Nat :=
  (s.parties.filter (fun e => e.2.fe == x.member && e.2.life == .resident && (match e.2.grid with
    | some g => (match sfind s.launches g with | some l => l.gang && l.desc.scope == 4 | none => false)
    | none => false))).map (fun e => e.1)

/-- A member stops at its next group (R282): `tepc` names it, and every thread of the party is in the trap. -/
def Party.lossTrap (p : Party) : TrapReq :=
  match p.place with
  | some q => ⟨0x33, false, q.pkt ||| BitVec.ofNat 64 (q.slot % 4 * 16), q.m0, q.m0, [], 0, none⟩
  | none => ⟨0x33, false, p.here, p.pos.m0, p.all, [], 0, none⟩

/-- CARAVAN_MEMBER_LOSS (R282): an uncorrectable error on a member's core restarts the member when its restart entry is valid; otherwise
every member takes 0x33 at its next group. Which member it is, is free. -/
def execCaravanMemberLoss (c : Nat) (s : State) : Host.Outcome State Fault Refusal :=
  State.event (match sfind s.caravans c with
  | none => s
  | some x =>
    let ps := s.caravanParties x
    if !x.running || !s.betweenGroups || ps.isEmpty then s
    else
      let f := s.freeWord
      let s := f.2
      let p := ps.getD (f.1.toNat % ps.length) 0
      match s.party? p with
      | none => s
      | some y =>
        if y.idempc.isSome then s.consumeError p 0x14 y.lossTrap
        else ps.foldl (fun (s : State) q => match s.party? q with
          | some z => (s.setParty q { z with park := .none }).takeTrap q z.lossTrap
          | none => s) s)

/-! ### Migration (R368, R379 to R381) -/

/-- The bytes a Passport's tag covers, with the migration key. -/
def passportBody (k : BitVec 256) (p : Passport) : List Byte :=
  bytesOf p.stream 8 ++ bytesOf p.destination.toNat 32 ++ bytesOf p.quads 8 ++ bytesOf p.colours 8 ++ bytesOf p.pool 8 ++
    bytesOf k.toNat 32

/-- The bytes of a 256-bit value. -/
def bytes256 (k : BitVec 256) : List Byte := bytesOf k.toNat 32

/-- MIGRATION (R368, R379 to R381): the source saves the lodging, checks the destination's report, streams image and memory, and gives the
host a Passport. A lodging with an open window, and a report that does not verify, are refused. -/
def execMigration (fe : Nat) (report : Report) (s : State) : Host.Outcome State Fault Refusal :=
  State.event (
    let l := s.lod fe
    let ready := l.st == .saved || (l.st == .running && s.quiet fe)
    if !ready || !activeBit l.desc || !(s.windowsOf fe).isEmpty || s.throttled .migration 0 ||
        !Config.falconVerify (reportBody report) report.signature then s
    else
      let s := if l.st == .running then s.save fe else s
      if (s.lod fe).st != .saved then s
      else
        let n := s.fresh
        let s := n.2
        let mk := Config.drawKey (3 * s.pkg.draws)
        let e := Config.kemEncap report.kemKey s.pkg.draws
        let wk := Config.shake256 (bytes256 e.2)
        let k := (s.lod fe).keyDraw
        let keys := bytes256 (keysOf k).1 ++ bytes256 (keysOf k).2.1 ++ bytesOf (keysOf k).2.2.toNat 8 ++ bytes256 mk
        let l := s.lod fe
        let p0 : Passport := ⟨n.1, Config.shake256 report.identity, l.nq, l.colours.length, l.poolCount, 0⟩
        let p := { p0 with tag := Config.shake256 (passportBody mk p0) }
        let mine := fun (a : Nat) => s.ownerOf a == .key fe
        let st : Stream2 := { fe := fe, passport := p, ciphertext := e.1, wrapped := Config.wrapKey wk keys, lod := l
                              bytes := s.mem.bytes.filter (fun b => mine b.1), full := s.mem.full.filter (fun b => mine (8 * b.1))
                              regions := s.mem.regions.filter (fun r => r.fe == fe) }
        let s := { s with streamsOut := sput s.streamsOut n.1 st }
        let s := (s.onPkg (fun k => { k with draws := k.draws + 1 })).onLod fe (fun l => { l with scrubOnAck := true })
        (s.spend .migration 0 st.bytes.length).msix fe 4)

/-- The stream a Passport names: one that has arrived, or one of this package whose destination is this package. -/
def State.streamOf (s : State) (p : Passport) : Option Stream2 :=
  match sfind s.streamsIn p.stream with
  | some x => some x
  | none => sfind s.streamsOut p.stream

/-- The migration key a stream carries, as the destination unwraps it: the tag is checked under it. -/
def Stream2.authentic (x : Stream2) (p : Passport) : Bool := x.passport == p

/-- PASSPORT_ACCEPT (R368, R381): refused when the identity digest differs, the Passport is not the stream's own, or the front end's
lodging offers other quad and colour counts or no room for its memory; otherwise the lodging is restored here. -/
def execPassportAccept (fe : Nat) (p : Passport) (s : State) : Host.Outcome State Fault Refusal :=
  State.event (
    let done := fun (s : State) => s.msix fe 4
    match s.streamOf p with
    | none => done s
    | some x =>
      let l := s.lod fe
      let room := x.bytes.all (fun b => s.ownerOf b.1 == .key fe)
      let empty := l.st == .running && s.parties.all (fun e => e.2.fe != fe) && s.crews.all (fun e => e.2.fe != fe)
      if p.destination != Config.shake256 Config.identityKey || !x.authentic p || !activeBit l.desc || !empty || !room ||
          l.nq != p.quads || l.colours.length != p.colours then done s
      else match x.lod.image with
      | none => done s
      | some i =>
        let j := i.move ⟨i.qb, l.qb, fe⟩
        if !s.canReturn fe j then done s
        else
          let s := { s with mem := { s.mem with
            bytes := x.bytes.foldl (fun st (b : Nat × Byte) => sset 0 st b.1 b.2) s.mem.bytes
            full := x.full.foldl (fun st (b : Nat × Bool) => sset false st b.1 b.2) s.mem.full
            regions := s.mem.regions ++ x.regions.map (fun (r : Region) => { r with fe := fe }) } }
          let m : Move := ⟨i.qb, l.qb, fe⟩
          let heads := x.lod.heads.map (fun (h : Nat × (Nat × Nat)) => (m.quad h.1, h.2))
          let s := s.onLod fe (fun l => { x.lod with
            desc := l.desc, root2 := l.root2, kemDraw := l.kemDraw, stream := l.stream, scrubOnAck := false, heads := heads })
          done (s.putBack fe j))

/-- RESTORE_ACKNOWLEDGED (R368): the destination holds the whole lodging, and the source scrubs it. -/
def execRestoreAcknowledged (fe : Nat) (s : State) : Host.Outcome State Fault Refusal :=
  State.event (
    if !(s.lod fe).scrubOnAck then s
    else
      let blocks := (s.mem.owner.filter (fun e => e.2 == .key fe)).map (fun e => e.1)
      let m := (blocks.foldl (fun (m : Mem) b => m.zeroBlock b) s.mem).setOwners blocks .free
      let s := { s with mem := { m with regions := m.regions.filter (fun r => r.fe != fe) } }
      let s := { s with streamsOut := s.streamsOut.filter (fun (e : Nat × Stream2) => e.2.fe != fe) }
      s.onLod fe (fun l => { Lodging.reset with stream := l.stream }))

/-! ### Ports and power (R364, R398) -/

/-- PORT_FAILURE (R364): firmware routes around the port, and the Logbook records it. -/
def execPortFailure (port : Nat) (s : State) : Host.Outcome State Fault Refusal :=
  State.event (
    if 127 < port || s.pkg.portsDown.contains port then s
    else (s.onPkg (fun k => { k with portsDown := k.portsDown ++ [port] })).log 0x44 0xFF port 0)

/-- FAILED_FLIT (R364): the flit is repeated at the link level. -/
def execFailedFlit (port : Nat) (s : State) : Host.Outcome State Fault Refusal :=
  State.event (if 127 < port then s else s.onPkg (fun k => { k with flitRepeats := k.flitRepeats + 1 }))

/-- The bound of the token pool under a cap (R398). -/
def poolBound (cap : Nat) : Nat := 1024 * cap / 3200

/-- POWER_CAP (R385, R398): caps outside 1,200 W to 3,200 W are ignored. -/
def execPowerCap (watts : BitVec 16) (s : State) : Host.Outcome State Fault Refusal :=
  State.event (
    if watts.toNat < 1200 || 3200 < watts.toNat then s
    else s.onPkg (fun k => { k with
      cap := watts.toNat
      pool := if k.lowering then min k.pool (poolBound watts.toNat) else poolBound watts.toNat }))

/-- POWER_SAMPLE (R398): an average above the cap lowers the pool by 32 tokens each period until it falls below the cap; then it rises
by 32 a period to its bound. -/
def execPowerSample (_watts average : Nat) (s : State) : Host.Outcome State Fault Refusal :=
  State.event (s.onPkg (fun k =>
    let low := k.cap < average || (k.lowering && k.cap ≤ average)
    { k with lowering := low, pool := if low then k.pool - 32 else min (poolBound k.cap) (k.pool + 32) }))

end Sys2Proof.Machine
end

