-- ==== Sys2Proof/Machine/Permute.lean ====
section
/-! DEFINITION. Class 2 functions 0x20 to 0x3A: values moved between the threads of a party, votes and masks, compress and
expand, scans and reductions, registers by index, the window and `tid` (08_isa_permute_control.md, R137 to R147). -/

namespace Sys2Proof.Machine

open Sys2Proof

/-! ### Executors -/

/-- A permutation (R139): thread `t` takes A of thread `u W t b`, modulo W. -/
def State.permute (s : State) (m : Mods) (d a : Reg) (b : Src) (u : Nat → Nat → Nat → Nat) :
    Host.Outcome State Fault Refusal :=
  s.vecOp m d ((a, 1) :: srcRun b 1) (fun p t k => p.reg32 (u p.width t (p.src32 t k b).toNat % p.width) k a)

/-- The bits of a mask in a list of threads, as a mask. -/
def maskOf (x : Mask) (ts : List Nat) : Mask := ts.foldl (fun w t => if bitOf x t then setBit w t true else w) 0

/-- A mask function of one step (R141): every selected thread takes its bit of the result. -/
def State.maskFn (s : State) (m : Mods) (d : MaskReg) (regs : List (Reg × Nat)) (f : Party → Mask) :
    Host.Outcome State Fault Refusal :=
  s.maskOp m d regs (fun p t _ => bitOf (f p) t)

/-- One iteration of a function whose results for the selected threads are computed together: the results, the flags and the
generator (R142, R143). The zero policy clears the other threads of m0; with an empty selection nothing is written. -/
def Party.gatherStep (p : Party) (m : Mods) (n k : Nat) (f : Party → Nat → List Nat → List Word × FpFlags × Word) : Party :=
  let ts := threadsOf p.width (p.selected m)
  if ts.isEmpty then p
  else
    let r := f p k ts
    let zer := (threadsOf p.width (p.zeroed m)).map (fun t => (t, (0 : Word)))
    { ((p.setVs (p.base + n + k) (ts.zip r.1 ++ zer)).orFlags r.2.1) with gen := r.2.2 }

/-- The iterations from `k` on. -/
def Party.gatherIter (p : Party) (m : Mods) (n : Nat) (f : Party → Nat → List Nat → List Word × FpFlags × Word) (k : Nat) :
    Nat → Party
  | 0 => p
  | r + 1 => (p.gatherStep m n k f).gatherIter m n f (k + 1) r

/-- A scan or reduction (R140, R143): a uniform destination takes the last of the results over m0. -/
def State.gather (s : State) (m : Mods) (d a : Reg) (f : Party → Nat → List Nat → List Word × FpFlags × Word) :
    Host.Outcome State Fault Refusal :=
  s.issue fun p x => s.alloc p x m [(d, 1), (a, 1)]
    (match d with
    | .v n => s.setParty p (x.gatherIter m n.val f 0 (repsOf m))
    | .s n =>
      let ts := threadsOf x.width x.m0
      if ts.isEmpty then s
      else
        let r := f x 0 ts
        s.setParty p { ((x.setU n.val ((r.1.getLastD 0).setWidth 64)).orFlags r.2.1) with gen := r.2.2 })

/-- Running results of a binary function. -/
def running (f : Word → Word → Word) (acc : Word) : List Word → List Word
  | [] => []
  | v :: vs => let r := f acc v; r :: running f r vs

/-- Every thread takes the last result (R143). -/
def allLast (rs : List Word) : List Word := rs.map (fun _ => rs.getLastD 0)

/-- An integer scan or reduction: the running results of `f` over the selected values. -/
def intScan (a : Reg) (f : Word → Word → Word) (last : Bool) (p : Party) (k : Nat) (ts : List Nat) :
    List Word × FpFlags × Word :=
  match ts.map (fun t => p.reg32 t k a) with
  | [] => ([], 0, p.gen)
  | v :: vs => let rs := v :: running f v vs; (if last then allLast rs else rs, 0, p.gen)

/-- A value read as a floating-point source, unrounded (R64). -/
def asSource (ftz : Bool) (w : Word) : Word × FpFlags :=
  let x := fp32.source ftz w.toNat
  asWord (fp32.out RNE false 0 (x.1, false) [x])

/-- The running sums of R64, each addition rounded under the mode and drawing once under stochastic rounding. -/
def sumRun (mode : BitVec 3) (ftz : Bool) (acc : Word) : List Word → Word → List Word × FpFlags × Word
  | [], g => ([], 0, g)
  | v :: vs, g =>
    let r := fp32.add mode ftz (draw g 0) acc.toNat v.toNat
    let w := BitVec.ofNat 32 r.1
    let rest := sumRun mode ftz w vs (if mode == SR then xorshift g else g)
    (w :: rest.1, r.2 ||| rest.2.1, rest.2.2)

/-- `scan.fadd` and `red.fadd` (R64, R143). -/
def floatScan (m : Mods) (a : Reg) (last : Bool) (p : Party) (k : Nat) (ts : List Nat) : List Word × FpFlags × Word :=
  match ts.map (fun t => p.reg32 t k a) with
  | [] => ([], 0, p.gen)
  | v :: vs =>
    let h := asSource p.ftz v
    let r := sumRun (p.mode m) p.ftz h.1 vs p.gen
    let rs := h.1 :: r.1
    (if last then allLast rs else rs, h.2 ||| r.2.1, r.2.2)

/-- `red.fmin` and `red.fmax` (R143): exact, every value read as a floating-point source. -/
def floatPick (min : Bool) (a : Reg) (p : Party) (k : Nat) (ts : List Nat) : List Word × FpFlags × Word :=
  let vs := ts.map (fun t => p.reg32 t k a)
  let step := fun (c : Word × FpFlags) (v : Word) =>
    let r := fp32.minmax min false p.ftz c.1.toNat v.toNat
    (BitVec.ofNat 32 r.1, c.2 ||| r.2)
  let r := vs.foldl step (vs.headD 0, 0)
  (ts.map (fun _ => r.1), r.2, p.gen)

/-- The selected threads whose index lies at or beyond Rt (R144). -/
def Party.badIndex (p : Party) (m : Mods) (a : Reg) : List Nat :=
  (threadsOf p.width (p.selected m)).filter (fun t => decide (p.limit ≤ (p.reg32 t 0 a).toNat))

/-- The mask of a list of threads. -/
def maskOfList (ts : List Nat) : Mask := ts.foldl (fun w t => setBit w t true) 0

/-- Run an indexed access unless an index is refused (R144): 0x07 for the offending threads, `tinfo` the index of the lowest
(R275). -/
def State.indexed (s : State) (p : Nat) (x : Party) (m : Mods) (a : Reg) (go : State) : State :=
  match x.badIndex m a with
  | [] => go
  | t :: ts => s.raiseHere p 0x07 (maskOfList (t :: ts)) (BitVec.ofNat 64 ((x.reg32 t 0 a).toNat % 2048))

/-! ### Permutations (R139) -/

/-- `swp` (R139). -/
def execSwp (m : Mods) (d a : Reg) (b : Src) (s : State) : Host.Outcome State Fault Refusal :=
  s.permute m d a b (fun w t k => t ^^^ (k % w))

/-- `shfl` (R139). -/
def execShfl (m : Mods) (d a : Reg) (b : Src) (s : State) : Host.Outcome State Fault Refusal :=
  s.permute m d a b (fun _ _ k => k)

/-- `rotw` (R139). -/
def execRotw (m : Mods) (d a : Reg) (b : Src) (s : State) : Host.Outcome State Fault Refusal :=
  s.permute m d a b (fun _ t k => t + k)

/-- `bcast` (R139, R140). -/
def execBcast (m : Mods) (d a : Reg) (b : Src) (s : State) : Host.Outcome State Fault Refusal :=
  match d with
  | .v _ => s.permute m d a b (fun _ _ k => k)
  | .s n => s.issue fun p x => s.alloc p x m ((a, 1) :: srcRun b 1)
      (s.setParty p (x.setU n.val ((x.reg32 ((x.src32 0 0 b).toNat % x.width) 0 a).setWidth 64)))

/-! ### Votes and masks (R141) -/

/-- `vote.all` (R141). -/
def execVoteAll (m : Mods) (d a : MaskReg) (s : State) : Host.Outcome State Fault Refusal :=
  s.maskOp m d [] (fun p _ _ => (threadsOf p.width (p.selected m)).all (fun u => bitOf (p.mask a) u))

/-- `vote.any` (R141). -/
def execVoteAny (m : Mods) (d a : MaskReg) (s : State) : Host.Outcome State Fault Refusal :=
  s.maskOp m d [] (fun p _ _ => (threadsOf p.width (p.selected m)).any (fun u => bitOf (p.mask a) u))

/-- `ballot` (R140, R141). -/
def execBallot (m : Mods) (d : Reg) (a : MaskReg) (s : State) : Host.Outcome State Fault Refusal :=
  s.vecOp64 m d [] (fun p _ => maskOf (p.mask a) (threadsOf p.width (p.selected m)))

/-- `mand` (R141). -/
def execMand (m : Mods) (d a b : MaskReg) (s : State) : Host.Outcome State Fault Refusal :=
  s.maskFn m d [] (fun p => p.mask a &&& p.mask b)

/-- `mor` (R141). -/
def execMor (m : Mods) (d a b : MaskReg) (s : State) : Host.Outcome State Fault Refusal :=
  s.maskFn m d [] (fun p => p.mask a ||| p.mask b)

/-- `mxor` (R141). -/
def execMxor (m : Mods) (d a b : MaskReg) (s : State) : Host.Outcome State Fault Refusal :=
  s.maskFn m d [] (fun p => p.mask a ^^^ p.mask b)

/-- `mnot` (R141). -/
def execMnot (m : Mods) (d a : MaskReg) (s : State) : Host.Outcome State Fault Refusal :=
  s.maskFn m d [] (fun p => ~~~ p.mask a)

/-- `m2v` (R141). -/
def execM2v (m : Mods) (d : Reg) (a : MaskReg) (s : State) : Host.Outcome State Fault Refusal :=
  s.vecOp m d [] (fun p t _ => if bitOf (p.mask a) t then 1 else 0)

/-- `v2m` (R141). -/
def execV2m (m : Mods) (d : MaskReg) (a : Reg) (s : State) : Host.Outcome State Fault Refusal :=
  s.maskOp m d [(a, 1)] (fun p t k => p.reg32 t k a != 0)

/-! ### Compress and expand (R142) -/

/-- One iteration of `cmpr`: every thread that has not left takes the packed value or follows the policy. -/
def Party.cmprStep (p : Party) (m : Mods) (n k : Nat) (a : Reg) : Party :=
  let vals := (threadsOf p.width (p.selected m)).map (fun t => p.reg32 t k a)
  let zero := match m.pre with | some q => q.zero | none => false
  let js := (threadsOf p.width p.alive).filter (fun j => decide (j < vals.length) || zero)
  p.setVs (p.base + n + k) (js.map (fun j => (j, vals.getD j 0)))

/-- The iterations of `cmpr` from `k` on. -/
def Party.cmprIter (p : Party) (m : Mods) (n : Nat) (a : Reg) (k : Nat) : Nat → Party
  | 0 => p
  | r + 1 => (p.cmprStep m n k a).cmprIter m n a (k + 1) r

/-- `cmpr` (R142). -/
def execCmpr (m : Mods) (d a : Reg) (s : State) : Host.Outcome State Fault Refusal :=
  match d with
  | .s _ => s.issue fun _ _ => s
  | .v n => s.issue fun p x => s.alloc p x m [(d, 1), (a, 1)] (s.setParty p (x.cmprIter m n.val a 0 (repsOf m)))

/-- `expd` (R142): the j-th selected thread takes A of thread j. -/
def execExpd (m : Mods) (d a : Reg) (s : State) : Host.Outcome State Fault Refusal :=
  s.vecOp m d [(a, 1)] (fun p t k => p.reg32 ((threadsOf t (p.selected m)).length) k a)

/-! ### Scans and reductions (R143) -/

/-- `scan.add` (R143). -/
def execScanAdd (m : Mods) (d a : Reg) (s : State) : Host.Outcome State Fault Refusal :=
  s.gather m d a (intScan a (fun x y => x + y) false)

/-- `scan.fadd` (R143). -/
def execScanFadd (m : Mods) (d a : Reg) (s : State) : Host.Outcome State Fault Refusal :=
  s.gather m d a (floatScan m a false)

/-- `red.add` (R143). -/
def execRedAdd (m : Mods) (d a : Reg) (s : State) : Host.Outcome State Fault Refusal :=
  s.gather m d a (intScan a (fun x y => x + y) true)

/-- `red.fadd` (R143). -/
def execRedFadd (m : Mods) (d a : Reg) (s : State) : Host.Outcome State Fault Refusal :=
  s.gather m d a (floatScan m a true)

/-- `red.min.i` (R143). -/
def execRedMinI (m : Mods) (d a : Reg) (s : State) : Host.Outcome State Fault Refusal :=
  s.gather m d a (intScan a (fun x y => if x.toInt ≤ y.toInt then x else y) true)

/-- `red.max.i` (R143). -/
def execRedMaxI (m : Mods) (d a : Reg) (s : State) : Host.Outcome State Fault Refusal :=
  s.gather m d a (intScan a (fun x y => if y.toInt ≤ x.toInt then x else y) true)

/-- `red.fmax` (R143). -/
def execRedFmax (m : Mods) (d a : Reg) (s : State) : Host.Outcome State Fault Refusal :=
  s.gather m d a (floatPick false a)

/-- `red.fmin` (R143). -/
def execRedFmin (m : Mods) (d a : Reg) (s : State) : Host.Outcome State Fault Refusal :=
  s.gather m d a (floatPick true a)

/-! ### Registers by index, the window, positions (R144 to R146) -/

/-- `ixr` (R144). -/
def execIxr (m : Mods) (d a : Reg) (s : State) : Host.Outcome State Fault Refusal :=
  match d with
  | .s _ => s.issue fun _ _ => s
  | .v n => s.issue fun p x => s.alloc p x m [(d, 1), (a, 1)] (s.indexed p x m a
      (s.setParty p (x.vecStep m n.val 0 (fun q t _ => q.vphys t (q.reg32 t 0 a).toNat))))

/-- `ixw` (R144). -/
def execIxw (m : Mods) (a : Reg) (b : Src) (s : State) : Host.Outcome State Fault Refusal :=
  s.issue fun p x => s.alloc p x m ((a, 1) :: srcRun b 1) (s.indexed p x m a
    (let ws := (threadsOf x.width (x.selected m)).map (fun t => (t, (x.reg32 t 0 a).toNat, x.src32 t 0 b))
     s.setParty p (ws.foldl (fun q w => q.setV w.1 w.2.1 w.2.2) x)))

/-- `win` (R145): the base is checked for the party's allocation; a refusal reports the base. -/
def execWin (_m : Mods) (b : Src) (s : State) : Host.Outcome State Fault Refusal :=
  s.issue fun p x =>
    let v := x.src32 0 0 b
    if v.toNat % 16 != 0 || decide (x.limit < v.toNat + 16) then
      s.raiseHere p 0x07 x.m0 (v.setWidth 64 ||| (1 <<< 63 : DWord))
    else s.setParty p { x with wb := v.toNat }

/-- The value of a `tid` selector other than 0 (R27). -/
def State.position (s : State) (x : Party) (sel : Nat) : Nat :=
  let core := coreOfLane x.lane
  match sel with
  | 1 => x.width
  | 2 => x.posInCrew
  | 3 => core % 4
  | 4 => quadOfCore core % 32
  | 5 => dieOfQuad (quadOfCore core)
  | 6 => s.pkg.number
  | _ => x.fe

/-- `tid` (R27, R146): selector 3 pins the crew (R30). -/
def execTid (m : Mods) (d : Reg) (b : BitVec 7) (s : State) : Host.Outcome State Fault Refusal :=
  s.issue fun p x => s.alloc p x m [(d, 1)] <|
    let sel := b.toNat
    let s := if sel = 3 then s.onCrew x.crew (fun c => { c with pinned := true }) else s
    let v := fun t => BitVec.ofNat 32 (if sel = 0 then t else s.position x sel)
    match d with
    | .s n => s.setParty p (x.setU n.val ((v 0).setWidth 64))
    | .v n => s.setParty p (x.vecStep m n.val 0 (fun _ t _ => v t))

end Sys2Proof.Machine
end

