-- ==== Sys2Proof/Machine/Stream.lean ====
section
/-! DEFINITION. Command streams and the function BARs (R355 to R366, R385 to R393): packets, their dependences, and what the host writes. -/

namespace Sys2Proof.Machine

open Sys2Proof

/-! ### MSI-X and the BAR registers (R356, R358, R385) -/

/-- A vector that can be sent now is sent, and its pending bit falls (R358). -/
def Msix.flush (m : Msix) (v : Nat) : Msix :=
  if m.enabled && !m.masked.getLsbD v && m.pending.getLsbD v then
    { m with pending := m.pending &&& ~~~ BitVec.ofNat 32 (2 ^ v), sent := m.sent ++ [v] }
  else m

/-- Set or clear the mask bit of a vector. -/
def Msix.setMask (m : Msix) (v : Nat) (b : Bool) : Msix :=
  let k := BitVec.ofNat 32 (2 ^ v)
  if b then { m with masked := m.masked ||| k } else ({ m with masked := m.masked &&& ~~~ k }).flush v

/-- Every vector that can be sent now is sent. -/
def Msix.flushAll (m : Msix) : Msix := (upto 32).foldl (fun m v => m.flush v) m

/-- MSIX_UNMASK (R358): a pending message is sent when its vector is unmasked. -/
def execMsixUnmask (fe vector : Nat) (s : State) : Host.Outcome State Fault Refusal :=
  State.event (if 31 < fe || 31 < vector then s else s.onStream fe (fun st => { st with msix := st.msix.setMask vector false }))

/-- The status field of a stream (R385): 0 idle, 1 running, 2 blocked on a dependence, 3 failed. -/
def Stream.status (st : Stream) : Nat :=
  if st.failed then 3
  else if st.blockedAt.isSome then 2
  else if st.cur.isSome || st.head != st.tail || !st.levels.isEmpty then 1 else 0

/-- DOORBELL (R385): the new tail, a multiple of 64 inside the ring; another value is ignored. -/
def execDoorbell (fe : Nat) (tail : DWord) (s : State) : Host.Outcome State Fault Refusal :=
  State.event (
    if 31 < fe || tail.toNat % 64 != 0 || (s.lod fe).stream.ringSize ≤ tail.toNat then s
    else s.onStream fe (fun st => { st with tail := tail.toNat }))

/-- A ring size is a power of two from 4 KiB to 64 MiB (R385). -/
def ringSizeOk (n : Nat) : Bool := (List.range 15).any (fun k => n == 2 ^ (12 + k))

/-- A write to an entry of the MSI-X table: 16 bytes a vector, the mask bit at bit 32 of the second half. -/
def Msix.write (m : Msix) (off : Nat) (value : DWord) : Msix :=
  let m := { m with table := sset 0 m.table (off / 8) value }
  if off % 16 = 8 then m.setMask (off / 16) (value.getLsbD 32) else m

/-- BAR_REGISTER_WRITE (R356, R358, R382, R385): an aligned 8-byte write. Offsets below 0x10000 are BAR0's, 0x10000 and above the MSI-X
table of BAR2, and 0x20000 the MSI-X Message Control word, whose bit 15 enables MSI-X (log entry 35). Registers with a step of their own,
read-only registers and values outside a register's limits are left as they are. -/
def execBarRegisterWrite (fe off : Nat) (value : DWord) (s : State) : Host.Outcome State Fault Refusal :=
  State.event (
    let st := (s.lod fe).stream
    if 31 < fe || off % 8 != 0 then s
    else if off = 8 then
      if value.toNat % 4096 != 0 then s else s.onStream fe (fun st => { st with ringBase := value, prefetched := [] })
    else if off = 0x10 then
      let n := value.toNat % 2 ^ 32
      if st.status != 0 || !ringSizeOk n then s else s.onStream fe (fun st => { st with ringSize := n, prefetched := [] })
    else if fe = 0 && 0x200 ≤ off && off < 0x2000 then
      s.onPkg (fun k => { k with mailbox := (List.range 8).foldl (fun m i =>
        sset 0 m (off + i) (value.extractLsb' (8 * i) 8)) k.mailbox })
    else if 0x10000 ≤ off && off < 0x10200 then
      s.onStream fe (fun st => { st with msix := st.msix.write (off - 0x10000) value })
    else if off = 0x20000 then
      s.onStream fe (fun st => { st with msix := ({ st.msix with enabled := value.getLsbD 15 }).flushAll })
    else s)

/-! ### What the outside gives (log entry 34) -/

/-- An input of the schedule. -/
def State.given (s : State) : Given → State
  | .root fe two t => if two then s.onLod fe (fun l => { l with root2 := t }) else s.onLod fe (fun l => { l with root1 := t })
  | .watchdog fe ns => if ns < 1000000 || 60000000000 < ns then s else s.onLod fe (fun l => { l with watchdog := ns })
  | .budget k n => s.onPkg (fun p => { p with budgets := sput p.budgets k n })
  | .hostByte a b => { s with mem := { s.mem with host := sset 0 s.mem.host a b } }
  | .pod n ks absent => s.onPkg (fun p => { p with number := n, podPackages := ks, absentRemote := absent })
  | .group g ms => s.onPkg (fun p => { p with groups := sput p.groups g ms })
  | .contribution c r bs => match sfind s.colls c with
    | some x => { s with colls := sput s.colls c { x with contrib := sput x.contrib r bs } }
    | none => s
  | .caravan c x => { s with caravans := sput s.caravans c x }
  | .message m =>
    let f := s.fresh
    { f.2 with msgsIn := sput f.2.msgsIn f.1 m }
  | .stream n x => { s with streamsIn := sput s.streamsIn n x }

/-! ### A front end's accesses -/

/-- An address of a front end, at supervisor level at the lodging's first quad (log entry 36): the physical address, or none where it
cannot be reached. -/
def State.fePa (s : State) (fe : Nat) (write : Bool) (cls : AccClass) (va : DWord) : Option Nat :=
  match s.reach fe (s.lod fe).qb ⟨write, false, false⟩ va with
  | .error _ => none
  | .ok t => if (pageRefuses fe (s.pageKind fe t) ⟨8, true, write, cls⟩).isSome || s.unmapped t.pa then none else some t.pa

/-- The bytes at a range of virtual addresses. -/
def State.feRead (s : State) (fe : Nat) (va : DWord) : Nat → Option (List Byte)
  | 0 => some []
  | n + 1 => match s.fePa fe false .plain va, s.feRead fe (va + 1) n with
    | some pa, some bs => some (s.byteAt pa :: bs)
    | _, _ => none

/-- Every address of a range can be written. -/
def State.feWritable (s : State) (fe : Nat) (va : DWord) : Nat → Bool
  | 0 => true
  | n + 1 => (s.fePa fe true .plain va).isSome && s.feWritable fe (va + 1) n

/-- Write bytes over a range that can be written. -/
def State.feWrite (s : State) (fe : Nat) (va : DWord) : List Byte → State
  | [] => s
  | b :: bs => match s.fePa fe true .plain va with
    | some pa => (s.storeN pa b.toNat 1).feWrite fe (va + 1) bs
    | none => s.feWrite fe (va + 1) bs

/-- The lines of a range of virtual addresses. -/
def State.feLines (s : State) (fe : Nat) (va : DWord) (n : Nat) : List Nat :=
  ((List.range n).filterMap (fun k => (s.fePa fe false .plain (va + BitVec.ofNat 64 k)).map (· / 64))).dedup

/-- Bytes read by a front end, whose lines meet what any reader meets (R276, R277); where an error is found the bytes are free. -/
def State.feTake (s : State) (fe : Nat) (va : DWord) (n : Nat) : Option (List Byte × State) :=
  match s.feRead fe va n with
  | none => none
  | some bs =>
    match s.readLines fe 0 (s.feLines fe va n) with
    | (s, none) => some (bs, s)
    | (s, some _) => some ((List.range n).map (fun k => Config.freeByte (s.freeCtr + k)), { s with freeCtr := s.freeCtr + n })

/-! ### Packets (R387, R388) -/

/-- Bytes as a little-endian number. -/
def numOf (bs : List Byte) : Nat := bs.foldr (fun b v => b.toNat + 256 * v) 0

/-- A packet's bytes as a number. -/
def Packet.num (k : Packet) : Nat := numOf k.bytes
/-- A field of a packet. -/
def Packet.field (k : Packet) (off n : Nat) : Nat := leField k.num off n
/-- A 64-bit field. -/
def Packet.dword (k : Packet) (off : Nat) : DWord := BitVec.ofNat 64 (k.field off 8)
/-- The opcode. -/
def Packet.opcode (k : Packet) : Nat := k.field 0 1
/-- A bit of the header's second byte: bit 10 is wait, 11 signal, 12 pred, 15 irq. -/
def Packet.flag (k : Packet) (b : Nat) : Bool := k.field 0 2 / 2 ^ b % 2 == 1

/-- Size in 64-byte units of a packet, from its first bytes. -/
def unitsOf (v : Nat) : Nat := v / 2 ^ 8 % 4 + 1

/-- The size in units that the table gives an opcode (R388). -/
def opcodeUnits : Nat → Option Nat
  | 0x00 => some 1
  | 0x01 => some 2
  | 0x02 => some 2
  | 0x03 => some 1
  | 0x04 => some 1
  | 0x05 => some 1
  | 0x06 => some 2
  | 0x07 => some 2
  | 0x08 => some 2
  | 0x09 => some 2
  | 0x0A => some 2
  | _ => none

/-- The reserved fields of a body are 0 (R366, R387 to R389): those the table leaves out. The places of the COLL and INVAL fields are log
entry 37. -/
def bodyClear (op v : Nat) : Bool :=
  match op with
  | 0x00 => leField v 0x30 16 == 0
  | 0x01 => leField v 0x30 16 == 0
  | 0x02 => leField v 0x48 8 / 2 == 0 && leField v 0x50 48 == 0
  | 0x05 => leField v 0x30 16 == 0
  | 0x06 => leField v 0x30 8 / 2 ^ 16 == 0 && leField v 0x50 48 == 0
  | 0x07 => leField v 0x58 40 == 0
  | 0x08 => leField v 0x58 40 == 0
  | 0x09 => leField v 0x50 48 == 0
  | 0x0A => leField v 0x50 48 == 0
  | _ => true

/-- The limits of a body that hold whatever the state (R366, R387 to R391). -/
def bodyWithin (op v : Nat) : Bool :=
  match op with
  | 0x02 =>
    let n := leField v 0x40 8
    4 ≤ n && n ≤ 2 ^ 32 && n % 4 == 0
  | 0x03 => leField v 0x30 8 % 64 == 0 && leField v 0x38 8 % 64 == 0
  | 0x04 =>
    let c := leField v 0x30 8
    let n := leField v 0x38 8
    1 ≤ c && c < 2 ^ 32 && 1 ≤ n && n ≤ 255
  | 0x06 => (leField v 0x30 1 == 1 || leField v 0x30 1 == 2) && leField v 0x48 8 % 8 == 0
  | 0x08 => leField v 0x50 8 ≤ 4096
  | 0x09 => leField v 0x30 8 ≤ 1 && leField v 0x48 8 % 8 == 0
  | _ => true

/-- The code with which a packet fails before it starts, if it does (R387, R388, R393). -/
def packetCode (v : Nat) : Option Nat :=
  let aligned := fun (bit off : Nat) => v / 2 ^ bit % 2 == 0 || leField v off 8 % 8 == 0
  match opcodeUnits (v % 2 ^ 8) with
  | none => some 0x01
  | some n =>
    if v / 2 ^ 16 % 2 ^ 48 != 0 || !bodyClear (v % 2 ^ 8) v then some 0x01
    else if unitsOf v != n || !aligned 10 0x08 || !aligned 11 0x10 || !aligned 12 0x18 || !bodyWithin (v % 2 ^ 8) v then some 0x02
    else none

/-- The predicate of a packet on the word's value (R387). -/
def Packet.test (k : Packet) (w : Nat) : Bool :=
  let c := k.field 0x20 8
  match k.field 0 2 / 2 ^ 13 % 4 with
  | 0 => w == c
  | 1 => w != c
  | 2 => decide (w < c)
  | _ => decide (c ≤ w)

/-! ### Position in a stream (R386, R391) -/

/-- The address of the next packet. -/
def Stream.place (st : Stream) : DWord :=
  match st.levels with | l :: _ => l.next | [] => st.ringBase + BitVec.ofNat 64 st.head
/-- The bytes that stand before the end of the buffer, or of the ring's valid packets. -/
def Stream.avail (st : Stream) : Nat :=
  match st.levels with
  | l :: _ => (l.limit - l.next).toNat
  | [] => (st.tail + st.ringSize - st.head) % st.ringSize
/-- The address of the unit at a distance from the next packet; the ring wraps. -/
def Stream.unitAt (st : Stream) (n : Nat) : DWord :=
  match st.levels with
  | l :: _ => l.next + BitVec.ofNat 64 n
  | [] => st.ringBase + BitVec.ofNat 64 ((st.head + n) % st.ringSize)
/-- Move the place. -/
def Stream.move (st : Stream) (n : Nat) : Stream :=
  match st.levels with
  | l :: ls => { st with levels := { l with next := l.next + BitVec.ofNat 64 n } :: ls }
  | [] => { st with head := (st.head + n) % st.ringSize }
/-- Go back to the first packet of a loop. -/
def Stream.jump (st : Stream) (a : DWord) : Stream :=
  match st.levels with
  | l :: ls => { st with levels := { l with next := a } :: ls }
  | [] => { st with head := (a - st.ringBase).toNat }
/-- The loop that the next packet belongs to. -/
def Stream.inLoop (st : Stream) : Option StreamLoop :=
  match st.looping with | some l => if l.depth = st.levels.length then some l else none | none => none
/-- Pass over a packet: the place, and the packets left in the pass. -/
def Stream.advance (st : Stream) (n : Nat) : Stream :=
  let st' := match st.inLoop with | some l => { st with looping := some { l with left := l.left - 1 } } | none => st
  st'.move n
/-- The packet inside which the next one runs. -/
def Stream.parent (st : Stream) : Option Nat :=
  match st.inLoop with | some l => some l.packet | none => (st.levels.head?).map (·.packet)

/-! ### Fetch (R386, R392) -/

/-- A unit of 64 bytes: what was fetched ahead, and otherwise memory. -/
def State.unit (s : State) (fe : Nat) (va : DWord) : Option (List Byte) :=
  let st := (s.lod fe).stream
  if (sfind st.prefetched va.toNat).isSome then
    some ((List.range 64).map (fun k => (sfind st.prefetched (va.toNat + k)).getD 0))
  else s.feRead fe va 64

/-- Units in succession. -/
def State.units (s : State) (fe : Nat) : List DWord → Option (List Byte)
  | [] => some []
  | a :: as => match s.unit fe a, s.units fe as with
    | some bs, some cs => some (bs ++ cs)
    | _, _ => none

/-- Bytes fetched ahead leave the store. -/
def Stream.forget (st : Stream) (as : List DWord) : Stream :=
  { st with prefetched := st.prefetched.filter (fun (e : Nat × Byte) => !as.any (fun a => a.toNat ≤ e.1 && e.1 < a.toNat + 64)) }

/-- List bytes at successive keys. -/
def putBytes (m : Sparse Byte) (a : Nat) : List Byte → Sparse Byte
  | [] => m
  | b :: bs => putBytes (sput m a b) (a + 1) bs

/-- Fetch a unit ahead. -/
def State.fetchAhead (s : State) (fe : Nat) (a : DWord) : State :=
  if (sfind (s.lod fe).stream.prefetched a.toNat).isSome then s
  else match s.feRead fe a 64 with
  | none => s
  | some bs => s.onStream fe (fun st => { st with prefetched := putBytes st.prefetched a.toNat bs })

/-! ### Failing and completing -/

/-- A packet that has been fetched fails before it has started. -/
def State.failStart (s : State) (fe code bytes : Nat) : State := s.failStream fe code bytes (s.lod fe).stream.place

/-- The packet whose start is under way leaves the stream with a failure; `bytes` of it stand at the place still. -/
def State.failCur (s : State) (fe n : Nat) (k : Packet) (code bytes : Nat) : State :=
  let s := { s with packets := sdrop s.packets n }
  (s.onStream fe (fun st => { st with cur := none })).failStream fe code bytes k.addr

/-- Update a packet. -/
def State.onPacket (s : State) (n : Nat) (f : Packet → Packet) : State :=
  match sfind s.packets n with
  | some k => { s with packets := sput s.packets n (f k) }
  | none => s

/-- Packets that hold others complete when none of those is left (R391). -/
def State.settlePackets (s : State) : State :=
  { s with packets := s.packets.map (fun (e : Nat × Packet) =>
      if e.2.stage == .closing && !s.packets.any (fun c => c.2.parent == some e.1) then (e.1, { e.2 with stage := .complete }) else e) }

/-- A packet is complete and leaves (R358, R384, R387). -/
def State.finishPacket (s : State) (n : Nat) (k : Packet) : State :=
  let s := ({ s with packets := sdrop s.packets n }).onPkg (fun p => { p with checkpoint := p.checkpoint + 1 })
  let s := if k.flag 15 then s.msix k.fe 1 else s
  s.settlePackets

/-! ### Starting a packet (R386, R387, R390, R391) -/

/-- The predicate has been met or not; the packet has started (R390): its body comes, or is skipped. -/
def State.started (s : State) (fe n : Nat) (k : Packet) : State :=
  let go := fun (s : State) (body : Bool) =>
    let s := s.onPacket n (fun q => { q with stage := if body then PktStage.body else PktStage.complete, waitReq := none })
    s.onStream fe (fun st =>
      let st := st.advance k.bytes.length
      { st with cur := if body then st.cur else none, blockedAt := none, noticed := false })
  if !k.flag 12 then go s true
  else match s.fePa fe false .plain (k.dword 0x18) with
  | none => s.failCur fe n k 0x03 k.bytes.length
  | some pa => go s (k.test (s.loadN pa 8))

/-- The next pass of a loop whose pass is over, or its end (R391). -/
def State.nextPass (s : State) (fe : Nat) (l : StreamLoop) : State :=
  if 1 < l.passes then
    s.onStream fe (fun st => { (st.jump l.first) with looping := some { l with left := l.bodyLen, passes := l.passes - 1 } })
  else
    ((s.onStream fe (fun st => { st with looping := none })).onPacket l.packet (fun k => { k with stage := .closing })).settlePackets

/-- Fetch and start the packet at the place: its wait comes first when it has one. -/
def State.startPacket (s : State) (fe : Nat) : State :=
  let st := (s.lod fe).stream
  match s.unit fe (st.unitAt 0) with
  | none => s.failStart fe 0x03 64
  | some h =>
    let n := unitsOf (numOf h)
    if st.avail < 64 * n then s.failStart fe 0x02 st.avail
    else
      let as := (List.range n).map (fun i => st.unitAt (64 * i))
      match s.units fe as with
      | none => s.failStart fe 0x03 (64 * n)
      | some bs => match packetCode (numOf bs) with
        | some c => s.failStart fe c (64 * n)
        | none =>
          let f := s.freeWord
          let ahead := (List.range (min (f.1.toNat % 65) (st.avail / 64 - n))).map (fun i => st.unitAt (64 * (n + i)))
          let s := ahead.foldl (fun (s : State) a => s.fetchAhead fe a) f.2
          let g := s.fresh
          let k : Packet := ⟨fe, st.place, bs, .wait, st.parent, none⟩
          let s := { g.2 with packets := sput g.2.packets g.1 k }
          let s := s.onStream fe (fun st => { st.forget as with cur := some g.1 })
          if k.flag 10 then s else s.started fe g.1 k

/-- PACKET_START (R386, R391, R393): the front end of a running lodging takes up the packet at its place, ends a pass of a loop, or
returns from a buffer whose end it has reached. -/
def execPacketStart (fe : Nat) (s : State) : Host.Outcome State Fault Refusal :=
  State.event (
    let st := (s.lod fe).stream
    if (s.lod fe).st != .running || st.failed || st.cur.isSome then s
    else match st.inLoop with
    | some l =>
      if l.left = 0 then s.nextPass fe l
      else if st.avail = 0 then
        let a := match sfind s.packets l.packet with | some k => k.addr | none => st.place
        let s := { s with packets := sdrop s.packets l.packet }
        (s.onStream fe (fun st => { st with looping := none })).failStream fe 0x04 0 a
      else s.startPacket fe
    | none =>
      if st.avail != 0 then s.startPacket fe
      else match st.levels with
      | [] => s
      | l :: ls => ((s.onStream fe (fun st => { st with levels := ls })).onPacket l.packet (fun k =>
          { k with stage := .closing })).settlePackets)

/-- A front end's request at a mailbox word, which stands in the word's FIFO. -/
def feReq (fe : Nat) (va : DWord) (pa : Nat) (kind : ReqKind) (now : Nat) : Req :=
  { fe := fe, party := 0, lane := 0, thread := 0, uniform := false, owners := [], va := va, pieces := [(pa, 8)], kind := kind
    dest := .none, flag := none, win := false, rel := false, acq := false, pod := false, held := false, phase := .waiting, issued := now }

/-- PACKET_WAIT (R390): the packet consumes its wait word; while the word is empty the stream is blocked and the packet has its place in
the word's FIFO (R307). Its predicate follows. -/
def execPacketWait (fe : Nat) (s : State) : Host.Outcome State Fault Refusal :=
  State.event (match (s.lod fe).stream.cur with
  | none => s
  | some n => match sfind s.packets n with
    | none => s
    | some k =>
      if k.stage != .wait || (s.lod fe).st != .running || (s.lod fe).stream.failed then s
      else match k.waitReq with
      | some r => match sfind s.reqs r with
        | none => s.failCur fe n k 0x03 k.bytes.length
        | some q => match q.phase with
          | .reply _ => (s.dropReq r).started fe n k
          | _ => s
      | none => match s.fePa fe true .mailbox (k.dword 0x08) with
        | none => s.failCur fe n k 0x03 k.bytes.length
        | some pa =>
          if s.isFull pa then ((s.drain pa).2).started fe n k
          else
            let g := s.fresh
            let s := { g.2 with reqs := sput g.2.reqs g.1 (feReq fe (k.dword 0x08) pa .mbxLd s.now) }
            (s.onPacket n (fun q => { q with waitReq := some g.1 })).onStream fe (fun st => { st with blockedAt := some s.now }))

/-- BLOCKED_ON_DEPENDENCE (R358): a stream that has been blocked for 1 ms raises vector 2 once. -/
def execBlockedOnDependence (fe : Nat) (s : State) : Host.Outcome State Fault Refusal :=
  State.event (match (s.lod fe).stream.blockedAt with
  | some t =>
    if s.now - t < 2000000 || (s.lod fe).stream.noticed then s
    else (s.onStream fe (fun st => { st with noticed := true })).msix fe 2
  | none => s)

/-- PACKET_SIGNAL (R358, R384, R387, R390): a complete packet fills its signal word, waiting in the word's FIFO while it is full, and
leaves. -/
def execPacketSignal (n : Nat) (s : State) : Host.Outcome State Fault Refusal :=
  State.event (match sfind s.packets n with
  | none => s
  | some k =>
    if k.stage != .complete then s
    else if !k.flag 11 then s.finishPacket n k
    else match s.fePa k.fe true .mailbox (k.dword 0x10) with
    | none => (({ s with packets := sdrop s.packets n }).settlePackets).failStream k.fe 0x03 0 k.addr
    | some pa =>
      let first := match s.oldestSt pa, k.waitReq with
        | none, none => true
        | some (r, _), some q => r == q
        | _, _ => false
      if first && !s.isFull pa then
        let s := match k.waitReq with | some q => s.dropReq q | none => s
        (s.fill pa (k.field 0x28 8)).finishPacket n k
      else if k.waitReq.isSome then s
      else
        let g := s.fresh
        let s := { g.2 with reqs := sput g.2.reqs g.1 (feReq k.fe (k.dword 0x10) pa (.mbxSt (k.dword 0x28)) s.now) }
        s.onPacket n (fun q => { q with waitReq := some g.1 }))

/-- STATUS_RESUME (R385, R393): writing 1 to status [16] clears the item bit, and after a failure skips the failed packet and resumes. -/
def execStatusResume (fe : Nat) (s : State) : Host.Outcome State Fault Refusal :=
  State.event (
    if 31 < fe then s
    else s.onStream fe (fun st =>
      if st.failed then
        let st := if st.skip = 0 then st
          else (st.forget ((List.range (st.skip / 64)).map (fun i => st.unitAt (64 * i)))).advance st.skip
        { st with failed := false, code := 0, item := false, skip := 0 }
      else { st with item := false }))

/-! ### Bodies (R366, R388 to R392) -/

/-- Perform the body of the packet that a front end has started, when it has the opcode: the new state with whether the packet is
complete, or the code it fails with. -/
def State.body (s : State) (fe op : Nat) (go : Nat → Packet → Except Nat (State × Bool)) : Host.Outcome State Fault Refusal :=
  State.event (match (s.lod fe).stream.cur with
  | none => s
  | some n => match sfind s.packets n with
    | none => s
    | some k =>
      if k.stage != .body || k.opcode != op || (s.lod fe).st != .running then s
      else match go n k with
      | .error c => s.failCur fe n k c 0
      | .ok (t, done) =>
        (t.onPacket n (fun q => { q with stage := if done then PktStage.complete else PktStage.running })).onStream fe (fun st =>
          { st with cur := none }))

/-- NOP_PACKET (R388). -/
def execNopPacket (fe : Nat) (s : State) : Host.Outcome State Fault Refusal := s.body fe 0x00 (fun _ _ => .ok (s, true))

/-- GRID (R229, R345, R386, R388): the grid joins the queue of its front end; the packet completes with the grid. -/
def execGrid (fe : Nat) (s : State) : Host.Outcome State Fault Refusal :=
  s.body fe 0x01 (fun n k => match s.gridDesc fe (k.field 0x40 64) with
    | none => .error 0x02
    | some d => .ok (s.onLod fe (fun l => { l with queue := l.queue ++ [⟨d, some n⟩] }), false))

/-- Write bytes at successive keys, keeping the canonical form. -/
def setBytes (m : Sparse Byte) (a : Nat) : List Byte → Sparse Byte
  | [] => m
  | b :: bs => setBytes (sset 0 m a b) (a + 1) bs

/-- Host bytes. -/
def State.hostBytes (s : State) (a n : Nat) : List Byte := (List.range n).map (fun k => sget 0 s.mem.host (a + k))

/-- COPY (R388): between host memory and device memory. -/
def execCopy (fe : Nat) (s : State) : Host.Outcome State Fault Refusal :=
  s.body fe 0x02 (fun _ k =>
    let n := k.field 0x40 8
    let src := k.dword 0x30
    let dst := k.dword 0x38
    if k.field 0x48 1 % 2 = 1 then
      if s.feWritable fe dst n then .ok (s.feWrite fe dst (s.hostBytes src.toNat n), true) else .error 0x03
    else match s.feTake fe src n with
    | none => .error 0x03
    | some (bs, s) => .ok ({ s with mem := { s.mem with host := setBytes s.mem.host dst.toNat bs } }, true))

/-- IB (R391): the buffer runs as a stream; a third level fails. -/
def execIb (fe : Nat) (s : State) : Host.Outcome State Fault Refusal :=
  s.body fe 0x03 (fun n k =>
    let a := k.dword 0x30
    if 2 ≤ (s.lod fe).stream.levels.length then .error 0x04
    else .ok (s.onStream fe (fun st => { st with levels := ⟨n, a, a + k.dword 0x38⟩ :: st.levels }), false))

/-- LOOP_PACKET (R391): the following packets run count times; inside a loop body it fails. -/
def execLoopPacket (fe : Nat) (s : State) : Host.Outcome State Fault Refusal :=
  s.body fe 0x04 (fun n k =>
    let b := k.field 0x38 8
    if (s.lod fe).stream.looping.isSome then .error 0x04
    else .ok (s.onStream fe (fun st => { st with looping := some ⟨n, st.levels.length, st.place, b, b, k.field 0x30 8⟩ }), false))

/-- FFENCE (R392): every byte fetched beyond the packet is discarded, at every level. -/
def execFfence (fe : Nat) (s : State) : Host.Outcome State Fault Refusal :=
  s.body fe 0x05 (fun _ _ => .ok (s.onStream fe (fun st => { st with prefetched := [] }), true))

/-! ### Translation caches (R359 to R363) -/

/-- PAGE_WALK (R359 to R362): a quad's walker translates an address of a lodging, and the cache of the quad holds the result. -/
def execPageWalk (quad fe : Nat) (va : DWord) (s : State) : Host.Outcome State Fault Refusal :=
  State.event (
    if !(s.lod fe).quads.contains quad || !canonical va then s
    else match s.walk fe va with
    | .error _ => s
    | .ok t =>
      let page := va.toNat % 2 ^ 57 / 2 ^ 16
      let base := t.walk.pa - va.toNat % 2 ^ 16
      let e : TlbEntry := ⟨fe, page, base, t.walk.kind, t.walk.w, t.walk.u, t.walk.x, t.w2, t.x2⟩
      s.onQuad quad (fun q => { q with tlb := e :: q.tlb.filter (fun e => !(e.fe == fe && e.page == page)) }))

/-- INVAL (R363): stage 1 of the front end's own lodging, or stage 2 of any lodging from FE0 (log entry 37). -/
def execInval (fe : Nat) (s : State) : Host.Outcome State Fault Refusal :=
  s.body fe 0x06 (fun n k =>
    let stage := k.field 0x30 1
    let target := if stage = 1 then fe else k.field 0x31 1
    if (stage = 1 && k.field 0x31 1 != 0) || (stage = 2 && (fe != 0 || 31 < target)) then .error 0x02
    else match s.fePa fe true .mailbox (k.dword 0x48) with
    | none => .error 0x03
    | some _ =>
      let g := s.fresh
      let i : Inval := ⟨fe, target, stage, k.field 0x38 8, k.field 0x40 8, k.dword 0x48, n, [], []⟩
      .ok ({ g.2 with invals := sput g.2.invals g.1 i }, false))

/-- A cached translation is covered: by its page for stage 1; every one of the lodging for stage 2, whose pages a cached result does not
name. -/
def Inval.covers (i : Inval) (e : TlbEntry) : Bool :=
  e.fe == i.target && (i.stage == 2 || i.count == 0 || (decide (i.first ≤ e.page) && decide (e.page < i.first + i.count)))

/-- The requests of a lodging that a quad has sent and no home has accepted. -/
def State.sentFrom (s : State) (fe quad : Nat) : List Nat :=
  (s.reqs.filter (fun e => e.2.fe == fe && e.2.party != 0 && e.2.phase == .sent && quadOfCore (coreOfLane e.2.lane) == quad)).map (·.1)

/-- INVALIDATION_ARRIVAL (R363): no cache of the quad returns a covered entry from now on, and accesses that have used one are noted. -/
def execInvalidationArrival (inv quad : Nat) (s : State) : Host.Outcome State Fault Refusal :=
  State.event (match sfind s.invals inv with
  | none => s
  | some i =>
    if i.arrived.contains quad || !(s.lod i.target).quads.contains quad then s
    else
      let s := s.onQuad quad (fun q => { q with tlb := q.tlb.filter (fun e => !i.covers e) })
      { s with invals := sput s.invals inv { i with arrived := i.arrived ++ [quad], older := i.older ++ s.sentFrom i.target quad } })

/-- A completion word is filled with a value that the spec does not name, once it is empty (log entry 6); none while it is full. -/
def State.fillDone (s : State) (fe : Nat) (word : DWord) : Option State :=
  match s.fePa fe true .mailbox word with
  | none => some s
  | some pa =>
    if s.isFull pa || (s.oldestSt pa).isSome then none
    else
      let a := s.freeWord
      let b := a.2.freeWord
      some (b.2.fill pa (a.1.toNat + 2 ^ 32 * b.1.toNat))

/-- INVALIDATION_COMPLETE (R363): once it has reached every quad and the accesses noted have been accepted or have faulted, the
completion word is filled. -/
def execInvalidationComplete (inv : Nat) (s : State) : Host.Outcome State Fault Refusal :=
  State.event (match sfind s.invals inv with
  | none => s
  | some i =>
    let open_ := i.older.any (fun n => match sfind s.reqs n with | some r => r.phase == .sent | none => false)
    if open_ || !(s.lod i.target).quads.all (fun q => i.arrived.contains q) then s
    else match s.fillDone i.fe i.word with
    | none => s
    | some t => ({ t with invals := sdrop t.invals inv }).onPacket i.packet (fun k => { k with stage := .complete }))

/-! ### Collectives (R366) -/

/-- Bytes of an element of a type: FP32, BF16, INT32, bytes. -/
def collSize : Nat → Nat
  | 0 => 4
  | 1 => 2
  | 2 => 4
  | _ => 1

/-- The types of an operation: all-reduce sum, all-reduce max, broadcast, all-gather. -/
def collTypes : Nat → List Nat
  | 0 => [0, 1, 2]
  | 1 => [0, 2]
  | 2 => [3]
  | 3 => [3]
  | _ => []

/-- One addition or maximum of a collective. -/
def collJoin (op ty a b : Nat) : Nat :=
  match op, ty with
  | 0, 0 => (fp32.add RNE false 0 a b).1
  | 0, 1 => (bf16.add RNE false 0 a b).1
  | 0, _ => (a + b) % 2 ^ 32
  | _, 0 => (fp32.minmax false false false a b).1
  | _, _ => if sxInt 32 a ≤ sxInt 32 b then b else a

/-- Join values along a binary tree that the number of ranks fixes; the first argument bounds its depth. -/
def treeJoin (f : Nat → Nat → Nat) : Nat → List Nat → Nat
  | 0, _ => 0
  | k + 1, xs => match xs with
    | [] => 0
    | [x] => x
    | xs =>
      let l := 1 + Config.sumSplit xs.length % (xs.length - 1)
      f (treeJoin f k (xs.take l)) (treeJoin f k (xs.drop l))

/-- The element of a contribution. -/
def elemOf (bs : List Byte) (size i : Nat) : Nat := numOf ((bs.drop (size * i)).take size)

/-- The members of a group in rank order. -/
def State.groupOf (s : State) (g : Nat) : List Nat := sget [] s.pkg.groups g

/-- The contributions an operation needs have come. -/
def Collective.ready (c : Collective) (ranks : Nat) : Bool :=
  if c.op = 2 then (sfind c.contrib c.root).isSome else (List.range ranks).all (fun r => (sfind c.contrib r).isSome)

/-- The result at every member. -/
def Collective.result (c : Collective) (ranks : Nat) : List Byte :=
  let of := fun (r : Nat) => sget [] c.contrib r
  match c.op with
  | 2 => of c.root
  | 3 => (List.range ranks).flatMap of
  | _ =>
    let n := collSize c.ty
    (List.range (c.len / n)).flatMap (fun i =>
      bytesOf (treeJoin (collJoin c.op c.ty) ranks ((List.range ranks).map (fun r => elemOf (of r) n i))) n)

/-- COLL (R366): the packet names a group that has this package, an operation with one of its types, and the source is read now. The
places of its fields are log entry 37. -/
def execColl (fe : Nat) (s : State) : Host.Outcome State Fault Refusal :=
  s.body fe 0x07 (fun n k =>
    let g := k.field 0x30 4
    let op := k.field 0x34 1
    let ty := k.field 0x35 1
    let root := k.field 0x36 2
    let len := k.field 0x48 8
    let ms := s.groupOf g
    let out := if op = 3 then len * ms.length else len
    if !ms.contains s.pkg.number || !(collTypes op).contains ty || ms.length ≤ root || len % collSize ty != 0 ||
        k.field 0x50 8 % 8 != 0 then .error 0x02
    else match s.feTake fe (k.dword 0x38) len, s.fePa fe true .mailbox (k.dword 0x50) with
    | some (bs, s), some _ =>
      if !s.feWritable fe (k.dword 0x40) out then .error 0x03
      else
        let f := s.fresh
        let own : Sparse (List Byte) := sput [] (ms.idxOf s.pkg.number) bs
        let c : Collective := ⟨fe, n, g, op, ty, root, k.dword 0x38, k.dword 0x40, len, k.dword 0x50, own⟩
        .ok ({ f.2 with colls := sput f.2.colls f.1 c }, false)
    | _, _ => .error 0x03)

/-- COLLECTIVE_COMPLETE (R354, R366): with every contribution in, the engine writes the result within its budget and fills the completion
word. -/
def execCollectiveComplete (coll : Nat) (s : State) : Host.Outcome State Fault Refusal :=
  State.event (match sfind s.colls coll with
  | none => s
  | some c =>
    let ranks := (s.groupOf c.group).length
    if !c.ready ranks || s.throttled .collectives 0 then s
    else
      let bs := c.result ranks
      match ((s.feWrite c.fe c.dst bs).spend .collectives 0 bs.length).fillDone c.fe c.word with
      | none => s
      | some t => ({ t with colls := sdrop t.colls coll }).onPacket c.packet (fun k => { k with stage := .complete }))

/-! ### Messages (R365) -/

/-- MSG (R365, R388): the payload is read and goes to the bridge. -/
def execMsg (fe : Nat) (s : State) : Host.Outcome State Fault Refusal :=
  s.body fe 0x08 (fun _ k => match s.feTake fe (k.dword 0x48) (k.field 0x50 8) with
    | none => .error 0x03
    | some (bs, s) => .ok ({ s with msgsOut := s.msgsOut ++ [⟨k.field 0x30 8, k.field 0x38 8, k.dword 0x40, bs, fe⟩] }, true))

/-- MESSAGE_RECEIVE (R365): a message enters the ring that its word feeds (log entry 38): the payload stands after the word, and the word
is filled once it is empty. -/
def execMessageReceive (message : Nat) (s : State) : Host.Outcome State Fault Refusal :=
  State.event (match sfind s.msgsIn message with
  | none => s
  | some m =>
    if (s.fePa m.fe true .mailbox m.ringWord).isNone then { s with msgsIn := sdrop s.msgsIn message }
    else match (s.feWrite m.fe (m.ringWord + 8) m.payload).fillDone m.fe m.ringWord with
    | none => s
    | some t => { t with msgsIn := sdrop t.msgsIn message })

/-! ### Regions (R334, R397) -/

/-- The bit fields F0 to F5 of a layout descriptor. -/
def layoutFields (d : DWord) : List Nat := (List.range 6).map (fun k => (d.extractLsb' (14 + 6 * k) 6).toNat)

/-- A layout descriptor and a size that firmware accepts (R334). -/
def layoutOk (d : DWord) (size : Nat) : Bool :=
  let kind := (d.extractLsb' 0 2).toNat
  let engine := (d.extractLsb' 2 10).toNat
  let group := (d.extractLsb' 12 2).toNat
  let fs := layoutFields d
  d.extractLsb' 50 14 == 0 && size != 0 &&
  (match kind with
   | 0 => engine == 0 && group == 0 && fs.all (· == 0) && size % (3 * 2 ^ 20) == 0
   | 1 => engine < 768 && group == 0 && fs.all (· == 0) && size % 2 ^ 20 == 0
   | 2 => engine == 0 && group ≤ 2 && fs.all (fun f => 8 ≤ f && f ≤ 55) && fs.Nodup && size % 2 ^ 20 == 0
   | _ => false)

/-- A range lies in blocks of a lodging and meets no region. -/
def State.regionFree (s : State) (fe base size : Nat) : Bool :=
  (List.range ((base + size - 1) / 2 ^ 21 + 1 - base / 2 ^ 21)).all (fun k => sget Owner.free s.mem.owner (base / 2 ^ 21 + k) == .key fe) &&
    s.mem.regions.all (fun r => base + size ≤ r.base || r.base + r.size ≤ base)

/-- The places for a region: starts of the mebibytes of the lodging's blocks. -/
def State.regionPlaces (s : State) (fe size : Nat) : List Nat :=
  ((s.mem.owner.filter (fun e => e.2 == .key fe)).flatMap (fun e => [2 ^ 21 * e.1, 2 ^ 21 * e.1 + 2 ^ 20])).filter
    (fun b => s.regionFree fe b size)

/-- REGION_CREATE (R334, R388, R397; log entry 39): where in the lodging's blocks the region lies is free; the result word receives its
physical base. -/
def execRegionCreate (fe : Nat) (s : State) : Host.Outcome State Fault Refusal :=
  if (match (s.lod fe).stream.cur with
      | some n => match sfind s.packets n with | some k => k.field 0x30 8 != 0 | none => false
      | none => false) then State.event s
  else s.body fe 0x09 (fun _ k =>
    let d := k.dword 0x38
    let size := k.field 0x40 8
    let ps := s.regionPlaces fe size
    let reduced := s.pkg.service == .reduced && d.extractLsb' 0 2 != 0
    if !layoutOk d size || reduced || ps.isEmpty then .error 0x05
    else match s.fePa fe true .plain (k.dword 0x48) with
    | none => .error 0x03
    | some pa =>
      let f := s.freeWord
      let base := ps.getD (f.1.toNat % ps.length) 0
      let s := f.2.storeN pa base 8
      .ok ({ s with mem := { s.mem with regions := s.mem.regions ++ [⟨fe, base, size, d⟩] } }, true))

/-- REGION_DESTROY (R334, R388; log entry 39): the region of the lodging whose base the result word holds is gone; none such is refused. -/
def execRegionDestroy (fe : Nat) (s : State) : Host.Outcome State Fault Refusal :=
  if (match (s.lod fe).stream.cur with
      | some n => match sfind s.packets n with | some k => k.field 0x30 8 != 1 | none => false
      | none => false) then State.event s
  else s.body fe 0x09 (fun _ k => match s.fePa fe false .plain (k.dword 0x48) with
    | none => .error 0x03
    | some pa =>
      let base := s.loadN pa 8
      if !s.mem.regions.any (fun r => r.fe == fe && r.base == base) then .error 0x05
      else .ok ({ s with mem := { s.mem with regions := s.mem.regions.filter (fun r => !(r.fe == fe && r.base == base)) } }, true))

/-! ### The agent area (R389) -/

/-- Write free records for handles, each linked to the next. -/
def State.freeRecords (s : State) (fe : Nat) : List Nat → Option State
  | [] => some s
  | h :: hs => match s.agent fe h with
    | .error _ => none
    | .ok a => (((s.zeroRange a.pa 4096).setRec a 0 4 h).setRec a 4 4 (hs.headD 0)).freeRecords fe hs

/-- Write the chains of several quads. -/
def State.freeChains (s : State) (fe : Nat) (hmax : Nat) : List Nat → Option State
  | [] => some s
  | q :: qs =>
    let hs := ((List.range hmax).map (· + 1)).filter (fun h => (s.lod fe).agentHome h == q)
    match s.freeRecords fe hs with
    | none => none
    | some t =>
      let ends := match hs with | [] => (0, 0) | h :: _ => (h, hs.getLastD 0)
      (t.onLod fe (fun l => { l with heads := sset (0, 0) l.heads q ends })).freeChains fe hmax qs

/-- Chain frame blocks from an address upward. -/
def State.freeBlocks (s : State) (fe : Nat) (va : DWord) : Nat → Option State
  | 0 => some s
  | n + 1 => match s.fePa fe true .plain va with
    | none => none
    | some pa =>
      let next := va + 4096
      (s.storeN pa (if n = 0 then 0 else next.toNat) 8).freeBlocks fe next n

/-- An agent of the lodging is allocated. -/
def State.anyAgent (s : State) (fe : Nat) : Bool :=
  (List.range (s.lod fe).hmax).any (fun h => match s.agent fe (h + 1) with | .ok a => s.allocated a | .error _ => false)

/-- AGENTS (R184, R389): refused while an agent is allocated or a frame block is in use, and outside its limits; otherwise every record
free, the free handles of each quad chained in ascending order, and every frame block in the pool list. -/
def execAgents (fe : Nat) (s : State) : Host.Outcome State Fault Refusal :=
  s.body fe 0x0A (fun _ k =>
    let base := k.dword 0x30
    let hmax := k.field 0x38 8
    let pool := k.dword 0x40
    let count := k.field 0x48 8
    if s.anyAgent fe || (s.lod fe).poolUsed != 0 || base.toNat % 4096 != 0 || hmax = 0 || 16777215 < hmax ||
        pool.toNat % 4096 != 0 || count = 0 || 2 ^ 32 ≤ count then .error 0x02
    else
      let t := s.onLod fe (fun l => { l with
        agentBase := base, hmax := hmax, heads := [], poolBase := pool, poolCount := count, poolHead := pool, poolUsed := 0 })
      match t.freeChains fe hmax (t.lod fe).quads with
      | none => .error 0x03
      | some t => match t.freeBlocks fe pool count with
        | none => .error 0x03
        | some t => .ok (t, true))

end Sys2Proof.Machine
end

