-- ==== Sys2Proof/Machine/Dispatch.lean ====
section
/-! DEFINITION. One arm per instruction: a direct call of its meaning. -/

namespace Sys2Proof.Machine

open Sys2Proof

/-- The meaning of an instruction at a state. -/
def exec (i : Instr) (s : State) : Host.Outcome State Fault Refusal :=
  match i with
  | .add m d a b => Sys2Proof.Machine.execAdd m d a b s
  | .sub m d a b => Sys2Proof.Machine.execSub m d a b s
  | .addi m d a b => Sys2Proof.Machine.execAddi m d a b s
  | .mul m d a b => Sys2Proof.Machine.execMul m d a b s
  | .mulhI m d a b => Sys2Proof.Machine.execMulhI m d a b s
  | .mulhN m d a b => Sys2Proof.Machine.execMulhN m d a b s
  | .mad m d a b => Sys2Proof.Machine.execMad m d a b s
  | .minI m d a b => Sys2Proof.Machine.execMinI m d a b s
  | .maxI m d a b => Sys2Proof.Machine.execMaxI m d a b s
  | .minN m d a b => Sys2Proof.Machine.execMinN m d a b s
  | .maxN m d a b => Sys2Proof.Machine.execMaxN m d a b s
  | .abs m d a => Sys2Proof.Machine.execAbs m d a s
  | .neg m d a => Sys2Proof.Machine.execNeg m d a s
  | .and m d a b => Sys2Proof.Machine.execAnd m d a b s
  | .or m d a b => Sys2Proof.Machine.execOr m d a b s
  | .xor m d a b => Sys2Proof.Machine.execXor m d a b s
  | .andn m d a b => Sys2Proof.Machine.execAndn m d a b s
  | .not m d a => Sys2Proof.Machine.execNot m d a s
  | .shl m d a b => Sys2Proof.Machine.execShl m d a b s
  | .shr m d a b => Sys2Proof.Machine.execShr m d a b s
  | .sar m d a b => Sys2Proof.Machine.execSar m d a b s
  | .rot m d a b => Sys2Proof.Machine.execRot m d a b s
  | .shli m d a b => Sys2Proof.Machine.execShli m d a b s
  | .shri m d a b => Sys2Proof.Machine.execShri m d a b s
  | .sari m d a b => Sys2Proof.Machine.execSari m d a b s
  | .clz m d a => Sys2Proof.Machine.execClz m d a s
  | .popc m d a => Sys2Proof.Machine.execPopc m d a s
  | .brev m d a => Sys2Proof.Machine.execBrev m d a s
  | .bfeI m d a b => Sys2Proof.Machine.execBfeI m d a b s
  | .bfeN m d a b => Sys2Proof.Machine.execBfeN m d a b s
  | .bfi m d a b => Sys2Proof.Machine.execBfi m d a b s
  | .sel m d a b k => Sys2Proof.Machine.execSel m d a b k s
  | .cmpEq m d a b => Sys2Proof.Machine.execCmpEq m d a b s
  | .cmpNe m d a b => Sys2Proof.Machine.execCmpNe m d a b s
  | .cmpLtI m d a b => Sys2Proof.Machine.execCmpLtI m d a b s
  | .cmpLeI m d a b => Sys2Proof.Machine.execCmpLeI m d a b s
  | .cmpLtN m d a b => Sys2Proof.Machine.execCmpLtN m d a b s
  | .cmpLeN m d a b => Sys2Proof.Machine.execCmpLeN m d a b s
  | .cmpiEq m d a b => Sys2Proof.Machine.execCmpiEq m d a b s
  | .cmpiLtI m d a b => Sys2Proof.Machine.execCmpiLtI m d a b s
  | .cmpiLtN m d a b => Sys2Proof.Machine.execCmpiLtN m d a b s
  | .mov m d a => Sys2Proof.Machine.execMov m d a s
  | .movi m d imm => Sys2Proof.Machine.execMovi m d imm s
  | .leaB m d a b => Sys2Proof.Machine.execLeaB m d a b s
  | .leaH m d a b => Sys2Proof.Machine.execLeaH m d a b s
  | .leaW m d a b => Sys2Proof.Machine.execLeaW m d a b s
  | .leaD m d a b => Sys2Proof.Machine.execLeaD m d a b s
  | .add64 m d a b => Sys2Proof.Machine.execAdd64 m d a b s
  | .sub64 m d a b => Sys2Proof.Machine.execSub64 m d a b s
  | .mulW m d a b => Sys2Proof.Machine.execMulW m d a b s
  | .mulWn m d a b => Sys2Proof.Machine.execMulWn m d a b s
  | .divI m d a b => Sys2Proof.Machine.execDivI m d a b s
  | .divN m d a b => Sys2Proof.Machine.execDivN m d a b s
  | .remI m d a b => Sys2Proof.Machine.execRemI m d a b s
  | .remN m d a b => Sys2Proof.Machine.execRemN m d a b s
  | .adds m d a b => Sys2Proof.Machine.execAdds m d a b s
  | .subs m d a b => Sys2Proof.Machine.execSubs m d a b s
  | .dot4Ii m d a b => Sys2Proof.Machine.execDot4Ii m d a b s
  | .dot4Ni m d a b => Sys2Proof.Machine.execDot4Ni m d a b s
  | .sad m d a b => Sys2Proof.Machine.execSad m d a b s
  | .fadd m d a b => Sys2Proof.Machine.execFadd m d a b s
  | .fsub m d a b => Sys2Proof.Machine.execFsub m d a b s
  | .fmul m d a b => Sys2Proof.Machine.execFmul m d a b s
  | .fma m d a b => Sys2Proof.Machine.execFma m d a b s
  | .fmin m d a b => Sys2Proof.Machine.execFmin m d a b s
  | .fmax m d a b => Sys2Proof.Machine.execFmax m d a b s
  | .fabs m d a => Sys2Proof.Machine.execFabs m d a s
  | .fneg m d a => Sys2Proof.Machine.execFneg m d a s
  | .fcmpEq m d a b => Sys2Proof.Machine.execFcmpEq m d a b s
  | .fcmpLt m d a b => Sys2Proof.Machine.execFcmpLt m d a b s
  | .fcmpLe m d a b => Sys2Proof.Machine.execFcmpLe m d a b s
  | .fcmpUn m d a b => Sys2Proof.Machine.execFcmpUn m d a b s
  | .frnd m d a => Sys2Proof.Machine.execFrnd m d a s
  | .fclass m d a => Sys2Proof.Machine.execFclass m d a s
  | .fscale m d a b => Sys2Proof.Machine.execFscale m d a b s
  | .fcopysign m d a b => Sys2Proof.Machine.execFcopysign m d a b s
  | .hadd2Bf m d a b => Sys2Proof.Machine.execHadd2Bf m d a b s
  | .hadd2Hf m d a b => Sys2Proof.Machine.execHadd2Hf m d a b s
  | .hmul2Bf m d a b => Sys2Proof.Machine.execHmul2Bf m d a b s
  | .hmul2Hf m d a b => Sys2Proof.Machine.execHmul2Hf m d a b s
  | .hfma2Bf m d a b => Sys2Proof.Machine.execHfma2Bf m d a b s
  | .hfma2Hf m d a b => Sys2Proof.Machine.execHfma2Hf m d a b s
  | .hmin2Bf m d a b => Sys2Proof.Machine.execHmin2Bf m d a b s
  | .hmax2Bf m d a b => Sys2Proof.Machine.execHmax2Bf m d a b s
  | .hdot2Bf m d a b => Sys2Proof.Machine.execHdot2Bf m d a b s
  | .hdot2Hf m d a b => Sys2Proof.Machine.execHdot2Hf m d a b s
  | .f8dot4E4 m d a b => Sys2Proof.Machine.execF8dot4E4 m d a b s
  | .f8dot4E5 m d a b => Sys2Proof.Machine.execF8dot4E5 m d a b s
  | .fminP m d a b => Sys2Proof.Machine.execFminP m d a b s
  | .fmaxP m d a b => Sys2Proof.Machine.execFmaxP m d a b s
  | .rcp m d a => Sys2Proof.Machine.execRcp m d a s
  | .rsq m d a => Sys2Proof.Machine.execRsq m d a s
  | .sqrt m d a => Sys2Proof.Machine.execSqrt m d a s
  | .ex2 m d a => Sys2Proof.Machine.execEx2 m d a s
  | .lg2 m d a => Sys2Proof.Machine.execLg2 m d a s
  | .sinT m d a => Sys2Proof.Machine.execSinT m d a s
  | .cosT m d a => Sys2Proof.Machine.execCosT m d a s
  | .tanh m d a => Sys2Proof.Machine.execTanh m d a s
  | .sigm m d a => Sys2Proof.Machine.execSigm m d a s
  | .fdiv m d a b => Sys2Proof.Machine.execFdiv m d a b s
  | .cvtFI m d a => Sys2Proof.Machine.execCvtFI m d a s
  | .cvtFN m d a => Sys2Proof.Machine.execCvtFN m d a s
  | .cvtIF m d a => Sys2Proof.Machine.execCvtIF m d a s
  | .cvtNF m d a => Sys2Proof.Machine.execCvtNF m d a s
  | .cvt2Bf m d a b => Sys2Proof.Machine.execCvt2Bf m d a b s
  | .cvt2Hf m d a b => Sys2Proof.Machine.execCvt2Hf m d a b s
  | .cvtFBfl m d a => Sys2Proof.Machine.execCvtFBfl m d a s
  | .cvtFBfh m d a => Sys2Proof.Machine.execCvtFBfh m d a s
  | .cvtFHfl m d a => Sys2Proof.Machine.execCvtFHfl m d a s
  | .cvtFHfh m d a => Sys2Proof.Machine.execCvtFHfh m d a s
  | .cvtE4 m d a => Sys2Proof.Machine.execCvtE4 m d a s
  | .cvtE5 m d a => Sys2Proof.Machine.execCvtE5 m d a s
  | .cvtFE4 m d a => Sys2Proof.Machine.execCvtFE4 m d a s
  | .cvtFE5 m d a => Sys2Proof.Machine.execCvtFE5 m d a s
  | .swp m d a b => Sys2Proof.Machine.execSwp m d a b s
  | .shfl m d a b => Sys2Proof.Machine.execShfl m d a b s
  | .rotw m d a b => Sys2Proof.Machine.execRotw m d a b s
  | .bcast m d a b => Sys2Proof.Machine.execBcast m d a b s
  | .voteAll m d a => Sys2Proof.Machine.execVoteAll m d a s
  | .voteAny m d a => Sys2Proof.Machine.execVoteAny m d a s
  | .ballot m d a => Sys2Proof.Machine.execBallot m d a s
  | .cmpr m d a => Sys2Proof.Machine.execCmpr m d a s
  | .expd m d a => Sys2Proof.Machine.execExpd m d a s
  | .scanAdd m d a => Sys2Proof.Machine.execScanAdd m d a s
  | .scanFadd m d a => Sys2Proof.Machine.execScanFadd m d a s
  | .redAdd m d a => Sys2Proof.Machine.execRedAdd m d a s
  | .redFadd m d a => Sys2Proof.Machine.execRedFadd m d a s
  | .redMinI m d a => Sys2Proof.Machine.execRedMinI m d a s
  | .redMaxI m d a => Sys2Proof.Machine.execRedMaxI m d a s
  | .redFmax m d a => Sys2Proof.Machine.execRedFmax m d a s
  | .redFmin m d a => Sys2Proof.Machine.execRedFmin m d a s
  | .ixr m d a => Sys2Proof.Machine.execIxr m d a s
  | .ixw m a b => Sys2Proof.Machine.execIxw m a b s
  | .win m b => Sys2Proof.Machine.execWin m b s
  | .tid m d b => Sys2Proof.Machine.execTid m d b s
  | .mand m d a b => Sys2Proof.Machine.execMand m d a b s
  | .mor m d a b => Sys2Proof.Machine.execMor m d a b s
  | .mxor m d a b => Sys2Proof.Machine.execMxor m d a b s
  | .mnot m d a => Sys2Proof.Machine.execMnot m d a s
  | .m2v m d a => Sys2Proof.Machine.execM2v m d a s
  | .v2m m d a => Sys2Proof.Machine.execV2m m d a s
  | .ld8 m d a b => Sys2Proof.Machine.execLd8 m d a b s
  | .ld8s m d a b => Sys2Proof.Machine.execLd8s m d a b s
  | .ld16 m d a b => Sys2Proof.Machine.execLd16 m d a b s
  | .ld16s m d a b => Sys2Proof.Machine.execLd16s m d a b s
  | .ld32 m d a b => Sys2Proof.Machine.execLd32 m d a b s
  | .ld64 m d a b => Sys2Proof.Machine.execLd64 m d a b s
  | .ld128 m d a b => Sys2Proof.Machine.execLd128 m d a b s
  | .st8 m d a b => Sys2Proof.Machine.execSt8 m d a b s
  | .st16 m d a b => Sys2Proof.Machine.execSt16 m d a b s
  | .st32 m d a b => Sys2Proof.Machine.execSt32 m d a b s
  | .st64 m d a b => Sys2Proof.Machine.execSt64 m d a b s
  | .st128 m d a b => Sys2Proof.Machine.execSt128 m d a b s
  | .ldU m d a b => Sys2Proof.Machine.execLdU m d a b s
  | .stU m d a b => Sys2Proof.Machine.execStU m d a b s
  | .ldRc m d a b => Sys2Proof.Machine.execLdRc m d a b s
  | .pf m a b => Sys2Proof.Machine.execPf m a b s
  | .atomAdd m d a b => Sys2Proof.Machine.execAtomAdd m d a b s
  | .atomMinI m d a b => Sys2Proof.Machine.execAtomMinI m d a b s
  | .atomMaxI m d a b => Sys2Proof.Machine.execAtomMaxI m d a b s
  | .atomMinN m d a b => Sys2Proof.Machine.execAtomMinN m d a b s
  | .atomMaxN m d a b => Sys2Proof.Machine.execAtomMaxN m d a b s
  | .atomAnd m d a b => Sys2Proof.Machine.execAtomAnd m d a b s
  | .atomOr m d a b => Sys2Proof.Machine.execAtomOr m d a b s
  | .atomXor m d a b => Sys2Proof.Machine.execAtomXor m d a b s
  | .atomXch m d a b => Sys2Proof.Machine.execAtomXch m d a b s
  | .atomCas m d a b c => Sys2Proof.Machine.execAtomCas m d a b c s
  | .atomFadd m d a b => Sys2Proof.Machine.execAtomFadd m d a b s
  | .atomAdd64 m d a b => Sys2Proof.Machine.execAtomAdd64 m d a b s
  | .redmAdd m a b => Sys2Proof.Machine.execRedmAdd m a b s
  | .redmFadd m a b => Sys2Proof.Machine.execRedmFadd m a b s
  | .redmMax m a b => Sys2Proof.Machine.execRedmMax m a b s
  | .fence m => Sys2Proof.Machine.execFence m s
  | .nap m a b => Sys2Proof.Machine.execNap m a b s
  | .mbxLd m d a b => Sys2Proof.Machine.execMbxLd m d a b s
  | .mbxSt m d a b => Sys2Proof.Machine.execMbxSt m d a b s
  | .mbxTst m d a b => Sys2Proof.Machine.execMbxTst m d a b s
  | .br m off => Sys2Proof.Machine.execBr m off s
  | .brC m k off => Sys2Proof.Machine.execBrC m k off s
  | .brAny m k off => Sys2Proof.Machine.execBrAny m k off s
  | .brAll m k off => Sys2Proof.Machine.execBrAll m k off s
  | .brx m d a b => Sys2Proof.Machine.execBrx m d a b s
  | .call m off => Sys2Proof.Machine.execCall m off s
  | .callX m a => Sys2Proof.Machine.execCallX m a s
  | .ret m => Sys2Proof.Machine.execRet m s
  | .div m off => Sys2Proof.Machine.execDiv m off s
  | .join m => Sys2Proof.Machine.execJoin m s
  | .exit m => Sys2Proof.Machine.execExit m s
  | .barArr m scope num => Sys2Proof.Machine.execBarArr m scope num s
  | .barArrRlx m scope num => Sys2Proof.Machine.execBarArrRlx m scope num s
  | .barWait m scope num => Sys2Proof.Machine.execBarWait m scope num s
  | .barSync m scope num => Sys2Proof.Machine.execBarSync m scope num s
  | .syncP m a => Sys2Proof.Machine.execSyncP m a s
  | .idem m => Sys2Proof.Machine.execIdem m s
  | .nop m => Sys2Proof.Machine.execNop m s
  | .loop m c off => Sys2Proof.Machine.execLoop m c off s
  | .belPut m d a b => Sys2Proof.Machine.execBelPut m d a b s
  | .belRet m d a => Sys2Proof.Machine.execBelRet m d a s
  | .belGet m d a b => Sys2Proof.Machine.execBelGet m d a b s
  | .belFacts m d a => Sys2Proof.Machine.execBelFacts m d a s
  | .belTst m d a b => Sys2Proof.Machine.execBelTst m d a b s
  | .goalAdd m a b => Sys2Proof.Machine.execGoalAdd m a b s
  | .goalDone m d a b => Sys2Proof.Machine.execGoalDone m d a b s
  | .goalFail m a => Sys2Proof.Machine.execGoalFail m a s
  | .intAdopt m d a b => Sys2Proof.Machine.execIntAdopt m d a b s
  | .intDrop m a => Sys2Proof.Machine.execIntDrop m a s
  | .intSusp m d a b => Sys2Proof.Machine.execIntSusp m d a b s
  | .intResm m d a b => Sys2Proof.Machine.execIntResm m d a b s
  | .planSub m d a b => Sys2Proof.Machine.execPlanSub m d a b s
  | .planRet m a b => Sys2Proof.Machine.execPlanRet m a b s
  | .step m a b => Sys2Proof.Machine.execStep m a b s
  | .intInfo m d a => Sys2Proof.Machine.execIntInfo m d a s
  | .agtNew m d b => Sys2Proof.Machine.execAgtNew m d b s
  | .agtFree m a => Sys2Proof.Machine.execAgtFree m a s
  | .tileClaim m d b => Sys2Proof.Machine.execTileClaim m d b s
  | .tileRel m a b => Sys2Proof.Machine.execTileRel m a b s
  | .tileSt m d a => Sys2Proof.Machine.execTileSt m d a s
  | .cpIn m d a b => Sys2Proof.Machine.execCpIn m d a b s
  | .cpOut m d a b => Sys2Proof.Machine.execCpOut m d a b s
  | .cpMem m d a b => Sys2Proof.Machine.execCpMem m d a b s
  | .cpInMx m d a b => Sys2Proof.Machine.execCpInMx m d a b s
  | .mxMma m d a b => Sys2Proof.Machine.execMxMma m d a b s
  | .mxSm m d a b => Sys2Proof.Machine.execMxSm m d a b s
  | .mxRd m d a b => Sys2Proof.Machine.execMxRd m d a b s
  | .mxClr m d => Sys2Proof.Machine.execMxClr m d s
  | .mxCtlClaim m d => Sys2Proof.Machine.execMxCtlClaim m d s
  | .mxCtlBind m d => Sys2Proof.Machine.execMxCtlBind m d s
  | .mxCtlRelease m d => Sys2Proof.Machine.execMxCtlRelease m d s
  | .tlWait m a b => Sys2Proof.Machine.execTlWait m a b s
  | .tlRd m d a b => Sys2Proof.Machine.execTlRd m d a b s
  | .tlInc m d a b => Sys2Proof.Machine.execTlInc m d a b s
  | .bankCmd m d a b => Sys2Proof.Machine.execBankCmd m d a b s
  | .launch m d a => Sys2Proof.Machine.execLaunch m d a s
  | .recEmit m d a b => Sys2Proof.Machine.execRecEmit m d a b s
  | .logApp m d a b => Sys2Proof.Machine.execLogApp m d a b s
  | .envClaim m d b => Sys2Proof.Machine.execEnvClaim m d b s
  | .envRel m a b => Sys2Proof.Machine.execEnvRel m a b s
  | .envClr m d b => Sys2Proof.Machine.execEnvClr m d b s
  | .envIns m d a b => Sys2Proof.Machine.execEnvIns m d a b s
  | .envSum m d a b => Sys2Proof.Machine.execEnvSum m d a b s
  | .envMax m d a b => Sys2Proof.Machine.execEnvMax m d a b s
  | .envIcv m d a b => Sys2Proof.Machine.execEnvIcv m d a b s
  | .envConj m d a b => Sys2Proof.Machine.execEnvConj m d a b s
  | .envSimp m d a => Sys2Proof.Machine.execEnvSimp m d a s
  | .envEval m d a b => Sys2Proof.Machine.execEnvEval m d a b s
  | .envSlope m d a b => Sys2Proof.Machine.execEnvSlope m d a b s
  | .envRd m d a b => Sys2Proof.Machine.execEnvRd m d a b s
  | .envCnt m d a => Sys2Proof.Machine.execEnvCnt m d a s
  | .envLd m d a => Sys2Proof.Machine.execEnvLd m d a s
  | .envSt m d a => Sys2Proof.Machine.execEnvSt m d a s
  | .csrRd m d a => Sys2Proof.Machine.execCsrRd m d a s
  | .csrWr m a b => Sys2Proof.Machine.execCsrWr m a b s
  | .csrSet m d a b => Sys2Proof.Machine.execCsrSet m d a b s
  | .csrClr m d a b => Sys2Proof.Machine.execCsrClr m d a b s
  | .trap m b => Sys2Proof.Machine.execTrap m b s
  | .tret m => Sys2Proof.Machine.execTret m s
  | .brk m b => Sys2Proof.Machine.execBrk m b s
  | .clk m d => Sys2Proof.Machine.execClk m d s
  | .fenceWin m => Sys2Proof.Machine.execFenceWin m s
  | .specialFunctionResult op => Sys2Proof.Machine.execSpecialFunctionResult op s
  | .mailboxStorePerform req => Sys2Proof.Machine.execMailboxStorePerform req s
  | .homeAcceptance req => Sys2Proof.Machine.execHomeAcceptance req s
  | .loadResultWrite req => Sys2Proof.Machine.execLoadResultWrite req s
  | .writeAcknowledged req => Sys2Proof.Machine.execWriteAcknowledged req s
  | .gridEndFlush grid => Sys2Proof.Machine.execGridEndFlush grid s
  | .barrierArrivalCount arr => Sys2Proof.Machine.execBarrierArrivalCount arr s
  | .stewardReply req => Sys2Proof.Machine.execStewardReply req s
  | .exitEndRequest req => Sys2Proof.Machine.execExitEndRequest req s
  | .planSelection quad => Sys2Proof.Machine.execPlanSelection quad s
  | .activationEntry quad => Sys2Proof.Machine.execActivationEntry quad s
  | .coachTimerDeparture quad node => Sys2Proof.Machine.execCoachTimerDeparture quad node s
  | .dieFifoPlacement die => Sys2Proof.Machine.execDieFifoPlacement die s
  | .porterChunk core ctx => Sys2Proof.Machine.execPorterChunk core ctx s
  | .followOnIssue core x => Sys2Proof.Machine.execFollowOnIssue core x s
  | .matrixCommandExecute core x => Sys2Proof.Machine.execMatrixCommandExecute core x s
  | .bankListStart engine => Sys2Proof.Machine.execBankListStart engine s
  | .bend engine => Sys2Proof.Machine.execBend engine s
  | .bvec engine => Sys2Proof.Machine.execBvec engine s
  | .bmv engine => Sys2Proof.Machine.execBmv engine s
  | .bclr engine => Sys2Proof.Machine.execBclr engine s
  | .bout engine => Sys2Proof.Machine.execBout engine s
  | .bsync engine => Sys2Proof.Machine.execBsync engine s
  | .deferredLaunchEnqueue fe => Sys2Proof.Machine.execDeferredLaunchEnqueue fe s
  | .envelopeExecute core => Sys2Proof.Machine.execEnvelopeExecute core s
  | .clauseEntry party => Sys2Proof.Machine.execClauseEntry party s
  | .lanePick lane => Sys2Proof.Machine.execLanePick lane s
  | .trapEntry party => Sys2Proof.Machine.execTrapEntry party s
  | .napTimeout party => Sys2Proof.Machine.execNapTimeout party s
  | .periodBoundary => Sys2Proof.Machine.execPeriodBoundary s
  | .tokenReturn core => Sys2Proof.Machine.execTokenReturn core s
  | .watchdogExpiry party => Sys2Proof.Machine.execWatchdogExpiry party s
  | .gridPlacement fe => Sys2Proof.Machine.execGridPlacement fe s
  | .crewAdmission crew => Sys2Proof.Machine.execCrewAdmission crew s
  | .restoration crew => Sys2Proof.Machine.execRestoration crew s
  | .preemption fe => Sys2Proof.Machine.execPreemption fe s
  | .lodgingRestore fe => Sys2Proof.Machine.execLodgingRestore fe s
  | .caravanMemberLoss caravan => Sys2Proof.Machine.execCaravanMemberLoss caravan s
  | .functionLevelReset fe => Sys2Proof.Machine.execFunctionLevelReset fe s
  | .pfReset => Sys2Proof.Machine.execPfReset s
  | .warmReset => Sys2Proof.Machine.execWarmReset s
  | .coldReset => Sys2Proof.Machine.execColdReset s
  | .firmwareBoot => Sys2Proof.Machine.execFirmwareBoot s
  | .recoveryImage image => Sys2Proof.Machine.execRecoveryImage image s
  | .fullServiceTransition => Sys2Proof.Machine.execFullServiceTransition s
  | .innkeeperMismatch => Sys2Proof.Machine.execInnkeeperMismatch s
  | .doorbell fe tail => Sys2Proof.Machine.execDoorbell fe tail s
  | .statusResume fe => Sys2Proof.Machine.execStatusResume fe s
  | .powerCap watts => Sys2Proof.Machine.execPowerCap watts s
  | .barRegisterWrite fe off value => Sys2Proof.Machine.execBarRegisterWrite fe off value s
  | .packetStart fe => Sys2Proof.Machine.execPacketStart fe s
  | .packetWait fe => Sys2Proof.Machine.execPacketWait fe s
  | .packetSignal pkt => Sys2Proof.Machine.execPacketSignal pkt s
  | .msixUnmask fe vector => Sys2Proof.Machine.execMsixUnmask fe vector s
  | .nopPacket fe => Sys2Proof.Machine.execNopPacket fe s
  | .grid fe => Sys2Proof.Machine.execGrid fe s
  | .copy fe => Sys2Proof.Machine.execCopy fe s
  | .ib fe => Sys2Proof.Machine.execIb fe s
  | .loopPacket fe => Sys2Proof.Machine.execLoopPacket fe s
  | .ffence fe => Sys2Proof.Machine.execFfence fe s
  | .inval fe => Sys2Proof.Machine.execInval fe s
  | .invalidationArrival inv quad => Sys2Proof.Machine.execInvalidationArrival inv quad s
  | .invalidationComplete inv => Sys2Proof.Machine.execInvalidationComplete inv s
  | .pageWalk quad fe va => Sys2Proof.Machine.execPageWalk quad fe va s
  | .coll fe => Sys2Proof.Machine.execColl fe s
  | .collectiveComplete coll => Sys2Proof.Machine.execCollectiveComplete coll s
  | .msg fe => Sys2Proof.Machine.execMsg fe s
  | .messageReceive message => Sys2Proof.Machine.execMessageReceive message s
  | .regionCreate fe => Sys2Proof.Machine.execRegionCreate fe s
  | .regionDestroy fe => Sys2Proof.Machine.execRegionDestroy fe s
  | .agents fe => Sys2Proof.Machine.execAgents fe s
  | .libraryInstall fe base prio => Sys2Proof.Machine.execLibraryInstall fe base prio s
  | .lodgingDescriptorWrite fe desc => Sys2Proof.Machine.execLodgingDescriptorWrite fe desc s
  | .blockAssign block owner => Sys2Proof.Machine.execBlockAssign block owner s
  | .winOpen req => Sys2Proof.Machine.execWinOpen req s
  | .winClose window => Sys2Proof.Machine.execWinClose window s
  | .cellarPin fe base len => Sys2Proof.Machine.execCellarPin fe base len s
  | .cellarUnpin fe base len => Sys2Proof.Machine.execCellarUnpin fe base len s
  | .attestationReport fe nonce => Sys2Proof.Machine.execAttestationReport fe nonce s
  | .migration fe report => Sys2Proof.Machine.execMigration fe report s
  | .passportAccept fe passport => Sys2Proof.Machine.execPassportAccept fe passport s
  | .caravanSliceStart caravan => Sys2Proof.Machine.execCaravanSliceStart caravan s
  | .lineWriteMemory line => Sys2Proof.Machine.execLineWriteMemory line s
  | .lineReadMemory line => Sys2Proof.Machine.execLineReadMemory line s
  | .lineWriteback line => Sys2Proof.Machine.execLineWriteback line s
  | .patrolScrub line => Sys2Proof.Machine.execPatrolScrub line s
  | .regionTagLoss slice set => Sys2Proof.Machine.execRegionTagLoss slice set s
  | .fabricTimeout req => Sys2Proof.Machine.execFabricTimeout req s
  | .portFailure port => Sys2Proof.Machine.execPortFailure port s
  | .budgetPeriod => Sys2Proof.Machine.execBudgetPeriod s
  | .powerSample watts average => Sys2Proof.Machine.execPowerSample watts average s
  | .blockedOnDependence fe => Sys2Proof.Machine.execBlockedOnDependence fe s
  | .caravanSliceEnd caravan => Sys2Proof.Machine.execCaravanSliceEnd caravan s
  | .debugHalt party => Sys2Proof.Machine.execDebugHalt party s
  | .restoreAcknowledged fe => Sys2Proof.Machine.execRestoreAcknowledged fe s
  | .failedFlit port => Sys2Proof.Machine.execFailedFlit port s

end Sys2Proof.Machine
end

