-- ==== Sys2Proof/Machine/Sched.lean ====
section
/-! DEFINITION. What the machine does when the schedule says nothing (log entry 3): the events it has pending, in one order that the rules
allow. -/

namespace Sys2Proof.Machine

open Sys2Proof

/-- The event that takes a request on from its phase. -/
noncomputable def reqEvent (n : Nat) (r : Req) : List Instr :=
  match r.phase with
  | .sent => if r.isEnd then [.exitEndRequest n] else [.homeAcceptance n]
  | .waiting => [.mailboxStorePerform n]
  | .selecting => []
  | .reply _ => if r.isAgent then [.stewardReply n] else [.loadResultWrite n]
  | .unacked => [.writeAcknowledged n]

/-- The steps of a front end's packet at its wait or body. -/
noncomputable def streamEvents (fe : Nat) : List Instr :=
  [.packetWait fe, .nopPacket fe, .grid fe, .copy fe, .ib fe, .loopPacket fe, .ffence fe, .inval fe, .coll fe, .msg fe, .regionCreate fe,
    .regionDestroy fe, .agents fe, .packetStart fe, .gridPlacement fe, .deferredLaunchEnqueue fe, .blockedOnDependence fe]

/-- The steps of a core's engines. -/
noncomputable def coreEvents (c : Nat) (k : Core) : List Instr :=
  (if k.envQ.isEmpty then [] else [.envelopeExecute c]) ++
    k.porter.flatMap (fun e => if e.2.isEmpty then [] else [.porterChunk c e.1]) ++
    k.mx.flatMap (fun e => [.matrixCommandExecute c e.1, .followOnIssue c e.1]) ++ [.tokenReturn c]

/-- The steps of a bank engine. -/
noncomputable def bankEvents (e : Nat) (b : Bank) : List Instr :=
  if b.queue.isEmpty && b.run.isNone then []
  else [.bankListStart e, .bend e, .bvec e, .bmv e, .bclr e, .bout e, .bsync e]

/-- The steps of a quad's Steward and Coach. -/
noncomputable def quadEvents (q : Nat) (k : Quad) : List Instr :=
  [.planSelection q, .activationEntry q] ++ k.buckets.map (fun e => .coachTimerDeparture q e.1)

/-- The steps of a party and its crew. -/
noncomputable def partyEvents (p : Nat) : List Instr := [.trapEntry p, .clauseEntry p, .napTimeout p, .watchdogExpiry p]

/-- Every event that may be pending, in the order in which the machine looks for one. -/
noncomputable def State.events (s : State) : List Instr :=
  s.reqs.flatMap (fun e => reqEvent e.1 e.2) ++ s.sfus.map (fun e => .specialFunctionResult e.1) ++
  s.arrivals.map (fun e => .barrierArrivalCount e.1) ++ s.parties.flatMap (fun e => partyEvents e.1) ++
  s.quads.flatMap (fun e => quadEvents e.1 e.2) ++ s.dieFifo.map (fun e => .dieFifoPlacement e.1) ++
  s.cores.flatMap (fun e => coreEvents e.1 e.2) ++ s.banks.flatMap (fun e => bankEvents e.1 e.2) ++
  s.packets.map (fun e => .packetSignal e.1) ++ s.lods.flatMap (fun e => streamEvents e.1) ++
  s.invals.flatMap (fun e => ((s.lod e.2.target).quads.map (fun q => .invalidationArrival e.1 q)) ++ [.invalidationComplete e.1]) ++
  s.colls.map (fun e => .collectiveComplete e.1) ++ s.msgsIn.map (fun e => .messageReceive e.1) ++
  s.launches.map (fun e => .gridEndFlush e.1) ++ s.crews.flatMap (fun e => [.crewAdmission e.1, .restoration e.1]) ++
  ((s.parties.map (fun e => e.2.lane)).dedup).map (fun l => .lanePick l) ++ [.periodBoundary, .budgetPeriod]

/-- An event changes the state. -/
def State.enabled (s : State) (i : Instr) : Bool := match exec i s with | .next t => decide (t ≠ s) | _ => true

/-- The next event the machine has pending. -/
noncomputable def State.nextEvent (s : State) : Option Instr := s.events.find? s.enabled

end Sys2Proof.Machine
end

