-- ==== Sys2Proof/Machine/Step.lean ====
section
/-! DEFINITION. One step of the machine, and where an instruction word stands to be the next one fetched. -/

namespace Sys2Proof.Machine

open Sys2Proof

/-- Execute the words of a group in slot order (R75); inside a group of several words they all read the state before it. -/
def execAll : List Instr → State → Host.Outcome State Fault Refusal
  | [], s => .next s
  | i :: is, s => match exec i s with
    | .next t => execAll is t
    | .fault f => .fault f
    | .refused r => .refused r

/-- One step: the next entry of the schedule; else the next group of the issuing party; else the next event the machine has
pending, and when there is none, time passes. -/
noncomputable def step (s : State) : Host.Outcome State Fault Refusal :=
  match s.script with
  | .act i :: rest => exec i { s with script := rest }
  | .elapse n :: rest => .next { s with script := rest, now := s.now + n }
  | .upset u :: rest => .next { s with script := rest, upset := u }
  | .given g :: rest => .next (State.given { s with script := rest } g)
  | [] => match s.cur with
    | some p => match s.startGroup p with
      | .over t => .next t
      | .group t g => match execAll g.instrs t with
        | .next u => .next (t.retire u p)
        | .fault f => .fault f
        | .refused r => .refused r
    | none => match s.nextEvent with
      | some i => exec i s
      | none => .next { s with now := s.now + 1 }

/-- The code line on which `withFetchWord` places its words: virtual and physical line 0x4000, whose page the quad's
translation cache maps for the lodging. -/
def probeLine : Nat := 0x4000

/-- The lodging of `withFetchWord`: front end 1 with every quad and colour, key slot 1, active (R369). -/
def probeDesc : DWord := 1 <<< 36 ||| 1 <<< 31 ||| 0xFFFF <<< 15 ||| 128 <<< 7

/-- The party of `withFetchWord`: one grid party at W = 16 and Rt = 512, resident on lane 0, its clause entered. -/
def probeParty (crew grid : Nat) : Party :=
  { Party.blank 1 crew (some grid) 16 512 (BitVec.ofNat 64 probeLine) with life := .resident, entered := true }

/-- The state with an opcode-table word, all bits above it 0, placed where `step` fetches next (log entry 4): a lodging, its
block and page, one resident party at a code line whose header names f0 and f1, the word in packet 0, and no schedule. A
program is otherwise loaded by the host's packets and placed by the distributor (R345, R346). -/
def State.withFetchWord (s : State) (_nbits w : Nat) : State :=
  let p := s.nextId
  let ws := tableWords w
  let mem := (((s.mem.storeN probeLine 0x00010000 4).storeN (probeLine + 4) (ws.getD 0 0).toNat 4).storeN
    (probeLine + 8) (ws.getD 1 0).toNat 4).storeN (probeLine + 12) (ws.getD 2 0).toNat 4
  let s := { s with
    script := []
    cur := some p
    nextId := p + 3
    mem := { mem with owner := sput mem.owner 0 (.key 1) }
    parties := sput s.parties p (probeParty (p + 1) (p + 2))
    crews := sput s.crews (p + 1) ⟨1, some (p + 2), 0, some 0, [p], .resident, false, 0, false, 0, 0⟩
    launches := sput s.launches (p + 2)
      ⟨1, ⟨BitVec.ofNat 64 probeLine, 0, 1, 16, 512, 0, false, 0, 0⟩, none, [], 1, false, [], false⟩ }
  let s := s.onLod 1 (fun l => { l with desc := probeDesc, st := .running })
  s.onQuad 0 (fun q => { q with tlb := ⟨1, 0, 0, 0, true, true, true, true, true⟩ :: q.tlb })

end Sys2Proof.Machine
end

