-- ==== Sys2Proof/WellFormed.lean ====
section
/-! DEFINITION. Well-formed instructions: those that pass the decode checks of R83 on their own word and prefix. -/

namespace Sys2Proof

/-- The first cause the decoder raises for an instruction's own words (R83): the prefix word's, then the base word's. A step
without a word has none. -/
def Instr.cause (i : Instr) : Option (BitVec 6) :=
  match i.raw with
  | none => none
  | some x => match rowOf x.cls x.fn with
    | none => some 0x01
    | some r => match prefixCause r x with
      | some c => some c
      | none => baseCause r x

/-- The instruction passes every check of the decoder on its own words. -/
abbrev WellFormed (i : Instr) : Prop := i.cause = none

end Sys2Proof
end

