-- ==== Sys2Proof/Laws/Encoding.lean ====
section
/-! SUPPORT. Laws of the encoding: every field of a word is read back as it was written, and every operand from its field. -/

namespace Sys2Proof

/-! ### Fields -/

theorem pack_d (d a b : BitVec 7) : (pack d a b).extractLsb' 14 7 = d := by
  apply BitVec.eq_of_getLsbD_eq
  intro i hi
  simp only [pack, BitVec.getLsbD_extractLsb', BitVec.getLsbD_append, hi, decide_true, Bool.true_and]
  rw [if_neg (by omega), if_neg (by omega)]
  congr 1
  omega

theorem pack_a (d a b : BitVec 7) : (pack d a b).extractLsb' 7 7 = a := by
  apply BitVec.eq_of_getLsbD_eq
  intro i hi
  simp only [pack, BitVec.getLsbD_extractLsb', BitVec.getLsbD_append, hi, decide_true, Bool.true_and]
  rw [if_neg (by omega), if_pos (by omega)]
  congr 1
  omega

theorem pack_b (d a b : BitVec 7) : (pack d a b).extractLsb' 0 7 = b := by
  apply BitVec.eq_of_getLsbD_eq
  intro i hi
  simp only [pack, BitVec.getLsbD_extractLsb', BitVec.getLsbD_append, hi, decide_true, Bool.true_and]
  rw [if_pos (by omega)]
  congr 1
  omega

variable (ch gi : Bool) (c : BitVec 3) (f : BitVec 6) (d a b : BitVec 7) (l : Option Word) (p : Option Prefix) (q : BitVec 7)

@[simp] theorem raw_d : Raw.d ⟨ch, gi, c, f, pack d a b, l, p, q⟩ = d := pack_d d a b
@[simp] theorem raw_a : Raw.a ⟨ch, gi, c, f, pack d a b, l, p, q⟩ = a := pack_a d a b
@[simp] theorem raw_b : Raw.b ⟨ch, gi, c, f, pack d a b, l, p, q⟩ = b := pack_b d a b

/-- A field of 3 bits over one of 18. -/
theorem split3_hi (k : BitVec 3) (o : BitVec 18) : (k ++ o : BitVec 21).extractLsb' 18 3 = k := by
  apply BitVec.eq_of_getLsbD_eq
  intro i hi
  simp only [BitVec.getLsbD_extractLsb', BitVec.getLsbD_append, hi, decide_true, Bool.true_and]
  rw [if_neg (by omega)]
  congr 1
  omega

theorem split3_lo (k : BitVec 3) (o : BitVec 18) : (k ++ o : BitVec 21).extractLsb' 0 18 = o := by
  apply BitVec.eq_of_getLsbD_eq
  intro i hi
  simp only [BitVec.getLsbD_extractLsb', BitVec.getLsbD_append, hi, decide_true, Bool.true_and]
  rw [if_pos (by omega)]
  congr 1
  omega

theorem splitBar_hi (k : BitVec 3) (n : BitVec 4) : (k ++ n ++ 0#14 : BitVec 21).extractLsb' 18 3 = k := by
  apply BitVec.eq_of_getLsbD_eq
  intro i hi
  simp only [BitVec.getLsbD_extractLsb', BitVec.getLsbD_append, hi, decide_true, Bool.true_and]
  rw [if_neg (by omega), if_neg (by omega)]
  congr 1
  omega

theorem splitBar_mid (k : BitVec 3) (n : BitVec 4) : (k ++ n ++ 0#14 : BitVec 21).extractLsb' 14 4 = n := by
  apply BitVec.eq_of_getLsbD_eq
  intro i hi
  simp only [BitVec.getLsbD_extractLsb', BitVec.getLsbD_append, hi, decide_true, Bool.true_and]
  rw [if_neg (by omega), if_pos (by omega)]
  congr 1
  omega

theorem splitBar_lo (k : BitVec 3) (n : BitVec 4) : (k ++ n ++ 0#14 : BitVec 21).extractLsb' 0 14 = 0#14 := by
  apply BitVec.eq_of_getLsbD_eq
  intro i hi
  simp only [BitVec.getLsbD_extractLsb', BitVec.getLsbD_append, hi, decide_true, Bool.true_and]
  rw [if_pos (by omega)]
  simp

/-- A field of 7 bits over one of 14. -/
theorem splitMv_hi (k : BitVec 7) (o : BitVec 14) : (k ++ o : BitVec 21).extractLsb' 14 7 = k := by
  apply BitVec.eq_of_getLsbD_eq
  intro i hi
  simp only [BitVec.getLsbD_extractLsb', BitVec.getLsbD_append, hi, decide_true, Bool.true_and]
  rw [if_neg (by omega)]
  congr 1
  omega

theorem splitMv_lo (k : BitVec 7) (o : BitVec 14) : (k ++ o : BitVec 21).extractLsb' 0 14 = o := by
  apply BitVec.eq_of_getLsbD_eq
  intro i hi
  simp only [BitVec.getLsbD_extractLsb', BitVec.getLsbD_append, hi, decide_true, Bool.true_and]
  rw [if_pos (by omega)]
  congr 1
  omega

/-! ### Operands -/

@[simp] theorem regOf_code (r : Reg) : regOf r.code = some r := by
  cases r with
  | v n => revert n; decide
  | s n => revert n; decide

theorem reg_code_ne (r : Reg) : r.code ≠ 127#7 := by
  cases r with
  | v n => revert n; decide
  | s n => revert n; decide

@[simp] theorem srcOf_code (s : Src) : srcOf s.word s.code = some s := by
  cases s with
  | reg r => simp [srcOf, Src.word, Src.code, reg_code_ne]
  | lit w => simp [srcOf, Src.word, Src.code]

@[simp] theorem src_code_lit (s : Src) : (s.code == 127#7) = s.word.isSome := by
  cases s with
  | reg r => simp [Src.word, Src.code, reg_code_ne]
  | lit w => simp [Src.word, Src.code]

/-- An offset of unit 0x7F has no field of its own: the decoder reads the literal word there. -/
def Off.inField : Off → Bool
  | .units n => n != 0x7F
  | .bytes _ => true

@[simp] theorem offOf_code {o : Off} (h : o.inField = true) : offOf o.word o.code = some o := by
  cases o with
  | units n => simp [Off.inField] at h; simp [offOf, Off.word, Off.code, h]
  | bytes w => simp [offOf, Off.word, Off.code]

theorem off_code_lit {o : Off} (h : o.inField = true) : (o.code == 127#7) = o.word.isSome := by
  cases o with
  | units n => simp [Off.inField] at h; simp [Off.word, Off.code, h]
  | bytes w => simp [Off.word, Off.code]

@[simp] theorem maskOf_code (k : MaskReg) : maskOf (maskCode k) = some k := by revert k; decide
@[simp] theorem slotOf_code (r : SlotRef) : slotOf r.code = some r := by
  cases r with
  | num n => revert n; decide
  | s n => revert n; decide
@[simp] theorem envOf_code (r : EnvRef) : envOf r.code = some r := by
  cases r with
  | num n => revert n; decide
  | s n => revert n; decide
@[simp] theorem fin2Of_code (n : Fin 2) : fin2Of (fin2Code n) = some n := by revert n; decide
@[simp] theorem fin16Of_code (n : Fin 16) : fin16Of (fin16Code n) = some n := by revert n; decide
@[simp] theorem csrOf_code (c : Csr) : csrOf c.code = some c := by cases c <;> rfl

theorem srcOf_reg (l : Option Word) (r : Reg) : srcOf l r.code = some (.reg r) := by
  simp [srcOf, reg_code_ne]

theorem maskCode_ne (k : MaskReg) : (maskCode k == 127#7) = false := by revert k; decide

@[simp] theorem mask_top3 (k : MaskReg) : (⟨(BitVec.ofNat 3 k.val).toNat, (BitVec.ofNat 3 k.val).isLt⟩ : MaskReg) = k := by
  revert k; decide

/-! ### What a well-formed instruction's own checks say -/

/-- A well-formed instruction passes the checks of its row. -/
theorem wf_checks {i : Instr} {x : Raw} {r : Row} (hw : WellFormed i) (hx : i.raw = some x) (hr : rowOf x.cls x.fn = some r) :
    prefixCause r x = none ∧ baseCause r x = none := by
  have h : i.cause = none := hw
  simp only [Instr.cause, hx, hr] at h
  cases hp : prefixCause r x with
  | some c => simp [hp] at h
  | none => exact ⟨rfl, by simpa [hp] using h⟩

/-- An offset of a well-formed instruction has a field of its own. -/
theorem off_in {r : Row} {x : Raw} {d a : Opnd} {o : Off} (h : baseCause r x = none) (hl : r.layout = .dab d a .off)
    (hb : x.b = o.code) (ho : x.lit = o.word) : o.inField = true := by
  cases o with
  | bytes w => rfl
  | units n =>
    by_contra hn
    have hn' : n = 127#7 := by simpa [Off.inField] using hn
    simp [baseCause, hl, hb, ho, Off.code, Off.word, Opnd.mayLit, hn'] at h

/-- A base that uses its fourth operand has a prefix (R80). -/
theorem need_pre {r : Row} {x : Raw} {d a b : Opnd} (h : baseCause r x = none) (hl : r.layout = .dab d a b)
    (hc : (r.cf != .zero) = true) : x.pre.isSome = true := by
  cases hp : x.pre with
  | some p => rfl
  | none =>
    simp only [baseCause, hl, hc, hp, Option.isNone_none, Bool.and_self, if_true] at h
    split at h <;> simp at h

/-- `C` and `B` never both name the literal word (R78). -/
theorem one_lit {r : Row} {x : Raw} {p : Prefix} (h : prefixCause r x = none) (hp : x.pre = some p) (hc : r.cf = .value)
    (hb : x.b = 127#7) : x.pc ≠ 127#7 := by
  intro hn
  simp [prefixCause, hp, hc, hb, hn] at h

end Sys2Proof
end

