-- ==== Sys2Proof/Laws/PerInstr.lean ====
section
/-! SUPPORT. The fields of each instruction build the instruction again: one lemma for each constructor. -/

set_option Elab.async false
set_option linter.unusedSimpArgs false

namespace Sys2Proof.Laws.RoundTrip

open Sys2Proof

/-- A well-formed instruction is built from its own fields; it names a literal word exactly where its fields hold one, and without a prefix
its fourth field is 0. -/
def Statement (i : Instr) : Prop :=
  ∀ x, i.raw = some x → WellFormed i → build x = some i ∧ (x.pre = none → x.pc = 0) ∧
    ∀ r, rowOf x.cls x.fn = some r → takesLit r x = x.lit.isSome


theorem add (m : Mods) (d a : Reg) (b : Src) : Statement (.add m d a b) := by
  intro x h hw
  obtain rfl := Option.some.inj h
  refine ⟨?_, ?_, ?_⟩
  · show (fun x => (do return .add x.mods (← regOf x.d) (← regOf x.a) (← srcOf x.lit x.b)) : Raw → Option Instr) ({ mkRaw m 0 0 (pack (Reg.code d) (Reg.code a) (Src.code b)) with lit := b.word, pc := 0 } : Raw) = _
    simp [mkRaw, Raw.mods]
  · intro hp; rfl
  · intro r hr
    have hr' : rowOf (0 : BitVec 3) (0 : BitVec 6) = some (fRegRegSrc) := rfl
    obtain rfl := Option.some.inj (hr'.symm.trans hr)
    simp [takesLit, Opnd.mayLit, mkRaw, reg_code_ne, fRegRegSrc]

theorem sub (m : Mods) (d a : Reg) (b : Src) : Statement (.sub m d a b) := by
  intro x h hw
  obtain rfl := Option.some.inj h
  refine ⟨?_, ?_, ?_⟩
  · show (fun x => (do return .sub x.mods (← regOf x.d) (← regOf x.a) (← srcOf x.lit x.b)) : Raw → Option Instr) ({ mkRaw m 0 1 (pack (Reg.code d) (Reg.code a) (Src.code b)) with lit := b.word, pc := 0 } : Raw) = _
    simp [mkRaw, Raw.mods]
  · intro hp; rfl
  · intro r hr
    have hr' : rowOf (0 : BitVec 3) (1 : BitVec 6) = some (fRegRegSrc) := rfl
    obtain rfl := Option.some.inj (hr'.symm.trans hr)
    simp [takesLit, Opnd.mayLit, mkRaw, reg_code_ne, fRegRegSrc]

theorem addi (m : Mods) (d a : Reg) (b : BitVec 7) : Statement (.addi m d a b) := by
  intro x h hw
  obtain rfl := Option.some.inj h
  refine ⟨?_, ?_, ?_⟩
  · show (fun x => (do return .addi x.mods (← regOf x.d) (← regOf x.a) x.b) : Raw → Option Instr) ((mkRaw m 0 2 (pack (Reg.code d) (Reg.code a) b)) : Raw) = _
    simp [mkRaw, Raw.mods]
  · intro hp; rfl
  · intro r hr
    have hr' : rowOf (0 : BitVec 3) (2 : BitVec 6) = some ({ layout := (.dab .reg .reg .imm), uni := true, rep := true, pol := true, writes := true }) := rfl
    obtain rfl := Option.some.inj (hr'.symm.trans hr)
    simp [takesLit, Opnd.mayLit, mkRaw, reg_code_ne]

theorem mul (m : Mods) (d a : Reg) (b : Src) : Statement (.mul m d a b) := by
  intro x h hw
  obtain rfl := Option.some.inj h
  refine ⟨?_, ?_, ?_⟩
  · show (fun x => (do return .mul x.mods (← regOf x.d) (← regOf x.a) (← srcOf x.lit x.b)) : Raw → Option Instr) ({ mkRaw m 0 3 (pack (Reg.code d) (Reg.code a) (Src.code b)) with lit := b.word, pc := 0 } : Raw) = _
    simp [mkRaw, Raw.mods]
  · intro hp; rfl
  · intro r hr
    have hr' : rowOf (0 : BitVec 3) (3 : BitVec 6) = some (fRegRegSrc) := rfl
    obtain rfl := Option.some.inj (hr'.symm.trans hr)
    simp [takesLit, Opnd.mayLit, mkRaw, reg_code_ne, fRegRegSrc]

theorem mulhI (m : Mods) (d a : Reg) (b : Src) : Statement (.mulhI m d a b) := by
  intro x h hw
  obtain rfl := Option.some.inj h
  refine ⟨?_, ?_, ?_⟩
  · show (fun x => (do return .mulhI x.mods (← regOf x.d) (← regOf x.a) (← srcOf x.lit x.b)) : Raw → Option Instr) ({ mkRaw m 0 4 (pack (Reg.code d) (Reg.code a) (Src.code b)) with lit := b.word, pc := 0 } : Raw) = _
    simp [mkRaw, Raw.mods]
  · intro hp; rfl
  · intro r hr
    have hr' : rowOf (0 : BitVec 3) (4 : BitVec 6) = some (fRegRegSrc) := rfl
    obtain rfl := Option.some.inj (hr'.symm.trans hr)
    simp [takesLit, Opnd.mayLit, mkRaw, reg_code_ne, fRegRegSrc]

theorem mulhN (m : Mods) (d a : Reg) (b : Src) : Statement (.mulhN m d a b) := by
  intro x h hw
  obtain rfl := Option.some.inj h
  refine ⟨?_, ?_, ?_⟩
  · show (fun x => (do return .mulhN x.mods (← regOf x.d) (← regOf x.a) (← srcOf x.lit x.b)) : Raw → Option Instr) ({ mkRaw m 0 5 (pack (Reg.code d) (Reg.code a) (Src.code b)) with lit := b.word, pc := 0 } : Raw) = _
    simp [mkRaw, Raw.mods]
  · intro hp; rfl
  · intro r hr
    have hr' : rowOf (0 : BitVec 3) (5 : BitVec 6) = some (fRegRegSrc) := rfl
    obtain rfl := Option.some.inj (hr'.symm.trans hr)
    simp [takesLit, Opnd.mayLit, mkRaw, reg_code_ne, fRegRegSrc]

theorem mad (m : Mods) (d a : Reg) (b : Src) : Statement (.mad m d a b) := by
  intro x h hw
  obtain rfl := Option.some.inj h
  refine ⟨?_, ?_, ?_⟩
  · show (fun x => (do return .mad x.mods (← regOf x.d) (← regOf x.a) (← srcOf x.lit x.b)) : Raw → Option Instr) ({ mkRaw m 0 6 (pack (Reg.code d) (Reg.code a) (Src.code b)) with lit := b.word, pc := 0 } : Raw) = _
    simp [mkRaw, Raw.mods]
  · intro hp; rfl
  · intro r hr
    have hr' : rowOf (0 : BitVec 3) (6 : BitVec 6) = some (fRegRegSrc) := rfl
    obtain rfl := Option.some.inj (hr'.symm.trans hr)
    simp [takesLit, Opnd.mayLit, mkRaw, reg_code_ne, fRegRegSrc]

theorem minI (m : Mods) (d a : Reg) (b : Src) : Statement (.minI m d a b) := by
  intro x h hw
  obtain rfl := Option.some.inj h
  refine ⟨?_, ?_, ?_⟩
  · show (fun x => (do return .minI x.mods (← regOf x.d) (← regOf x.a) (← srcOf x.lit x.b)) : Raw → Option Instr) ({ mkRaw m 0 7 (pack (Reg.code d) (Reg.code a) (Src.code b)) with lit := b.word, pc := 0 } : Raw) = _
    simp [mkRaw, Raw.mods]
  · intro hp; rfl
  · intro r hr
    have hr' : rowOf (0 : BitVec 3) (7 : BitVec 6) = some (fRegRegSrc) := rfl
    obtain rfl := Option.some.inj (hr'.symm.trans hr)
    simp [takesLit, Opnd.mayLit, mkRaw, reg_code_ne, fRegRegSrc]

theorem maxI (m : Mods) (d a : Reg) (b : Src) : Statement (.maxI m d a b) := by
  intro x h hw
  obtain rfl := Option.some.inj h
  refine ⟨?_, ?_, ?_⟩
  · show (fun x => (do return .maxI x.mods (← regOf x.d) (← regOf x.a) (← srcOf x.lit x.b)) : Raw → Option Instr) ({ mkRaw m 0 8 (pack (Reg.code d) (Reg.code a) (Src.code b)) with lit := b.word, pc := 0 } : Raw) = _
    simp [mkRaw, Raw.mods]
  · intro hp; rfl
  · intro r hr
    have hr' : rowOf (0 : BitVec 3) (8 : BitVec 6) = some (fRegRegSrc) := rfl
    obtain rfl := Option.some.inj (hr'.symm.trans hr)
    simp [takesLit, Opnd.mayLit, mkRaw, reg_code_ne, fRegRegSrc]

theorem minN (m : Mods) (d a : Reg) (b : Src) : Statement (.minN m d a b) := by
  intro x h hw
  obtain rfl := Option.some.inj h
  refine ⟨?_, ?_, ?_⟩
  · show (fun x => (do return .minN x.mods (← regOf x.d) (← regOf x.a) (← srcOf x.lit x.b)) : Raw → Option Instr) ({ mkRaw m 0 9 (pack (Reg.code d) (Reg.code a) (Src.code b)) with lit := b.word, pc := 0 } : Raw) = _
    simp [mkRaw, Raw.mods]
  · intro hp; rfl
  · intro r hr
    have hr' : rowOf (0 : BitVec 3) (9 : BitVec 6) = some (fRegRegSrc) := rfl
    obtain rfl := Option.some.inj (hr'.symm.trans hr)
    simp [takesLit, Opnd.mayLit, mkRaw, reg_code_ne, fRegRegSrc]

theorem maxN (m : Mods) (d a : Reg) (b : Src) : Statement (.maxN m d a b) := by
  intro x h hw
  obtain rfl := Option.some.inj h
  refine ⟨?_, ?_, ?_⟩
  · show (fun x => (do return .maxN x.mods (← regOf x.d) (← regOf x.a) (← srcOf x.lit x.b)) : Raw → Option Instr) ({ mkRaw m 0 10 (pack (Reg.code d) (Reg.code a) (Src.code b)) with lit := b.word, pc := 0 } : Raw) = _
    simp [mkRaw, Raw.mods]
  · intro hp; rfl
  · intro r hr
    have hr' : rowOf (0 : BitVec 3) (10 : BitVec 6) = some (fRegRegSrc) := rfl
    obtain rfl := Option.some.inj (hr'.symm.trans hr)
    simp [takesLit, Opnd.mayLit, mkRaw, reg_code_ne, fRegRegSrc]

theorem abs (m : Mods) (d a : Reg) : Statement (.abs m d a) := by
  intro x h hw
  obtain rfl := Option.some.inj h
  refine ⟨?_, ?_, ?_⟩
  · show (fun x => if x.b = 0 then (do return .abs x.mods (← regOf x.d) (← regOf x.a)) else none : Raw → Option Instr) ((mkRaw m 0 11 (pack (Reg.code d) (Reg.code a) 0)) : Raw) = _
    simp [mkRaw, Raw.mods]
  · intro hp; rfl
  · intro r hr
    have hr' : rowOf (0 : BitVec 3) (11 : BitVec 6) = some (fRegRegZero) := rfl
    obtain rfl := Option.some.inj (hr'.symm.trans hr)
    simp [takesLit, Opnd.mayLit, mkRaw, reg_code_ne, fRegRegZero]

theorem neg (m : Mods) (d a : Reg) : Statement (.neg m d a) := by
  intro x h hw
  obtain rfl := Option.some.inj h
  refine ⟨?_, ?_, ?_⟩
  · show (fun x => if x.b = 0 then (do return .neg x.mods (← regOf x.d) (← regOf x.a)) else none : Raw → Option Instr) ((mkRaw m 0 12 (pack (Reg.code d) (Reg.code a) 0)) : Raw) = _
    simp [mkRaw, Raw.mods]
  · intro hp; rfl
  · intro r hr
    have hr' : rowOf (0 : BitVec 3) (12 : BitVec 6) = some (fRegRegZero) := rfl
    obtain rfl := Option.some.inj (hr'.symm.trans hr)
    simp [takesLit, Opnd.mayLit, mkRaw, reg_code_ne, fRegRegZero]

theorem and (m : Mods) (d a : Reg) (b : Src) : Statement (.and m d a b) := by
  intro x h hw
  obtain rfl := Option.some.inj h
  refine ⟨?_, ?_, ?_⟩
  · show (fun x => (do return .and x.mods (← regOf x.d) (← regOf x.a) (← srcOf x.lit x.b)) : Raw → Option Instr) ({ mkRaw m 0 13 (pack (Reg.code d) (Reg.code a) (Src.code b)) with lit := b.word, pc := 0 } : Raw) = _
    simp [mkRaw, Raw.mods]
  · intro hp; rfl
  · intro r hr
    have hr' : rowOf (0 : BitVec 3) (13 : BitVec 6) = some (fRegRegSrc) := rfl
    obtain rfl := Option.some.inj (hr'.symm.trans hr)
    simp [takesLit, Opnd.mayLit, mkRaw, reg_code_ne, fRegRegSrc]

theorem or (m : Mods) (d a : Reg) (b : Src) : Statement (.or m d a b) := by
  intro x h hw
  obtain rfl := Option.some.inj h
  refine ⟨?_, ?_, ?_⟩
  · show (fun x => (do return .or x.mods (← regOf x.d) (← regOf x.a) (← srcOf x.lit x.b)) : Raw → Option Instr) ({ mkRaw m 0 14 (pack (Reg.code d) (Reg.code a) (Src.code b)) with lit := b.word, pc := 0 } : Raw) = _
    simp [mkRaw, Raw.mods]
  · intro hp; rfl
  · intro r hr
    have hr' : rowOf (0 : BitVec 3) (14 : BitVec 6) = some (fRegRegSrc) := rfl
    obtain rfl := Option.some.inj (hr'.symm.trans hr)
    simp [takesLit, Opnd.mayLit, mkRaw, reg_code_ne, fRegRegSrc]

theorem xor (m : Mods) (d a : Reg) (b : Src) : Statement (.xor m d a b) := by
  intro x h hw
  obtain rfl := Option.some.inj h
  refine ⟨?_, ?_, ?_⟩
  · show (fun x => (do return .xor x.mods (← regOf x.d) (← regOf x.a) (← srcOf x.lit x.b)) : Raw → Option Instr) ({ mkRaw m 0 15 (pack (Reg.code d) (Reg.code a) (Src.code b)) with lit := b.word, pc := 0 } : Raw) = _
    simp [mkRaw, Raw.mods]
  · intro hp; rfl
  · intro r hr
    have hr' : rowOf (0 : BitVec 3) (15 : BitVec 6) = some (fRegRegSrc) := rfl
    obtain rfl := Option.some.inj (hr'.symm.trans hr)
    simp [takesLit, Opnd.mayLit, mkRaw, reg_code_ne, fRegRegSrc]

theorem andn (m : Mods) (d a : Reg) (b : Src) : Statement (.andn m d a b) := by
  intro x h hw
  obtain rfl := Option.some.inj h
  refine ⟨?_, ?_, ?_⟩
  · show (fun x => (do return .andn x.mods (← regOf x.d) (← regOf x.a) (← srcOf x.lit x.b)) : Raw → Option Instr) ({ mkRaw m 0 16 (pack (Reg.code d) (Reg.code a) (Src.code b)) with lit := b.word, pc := 0 } : Raw) = _
    simp [mkRaw, Raw.mods]
  · intro hp; rfl
  · intro r hr
    have hr' : rowOf (0 : BitVec 3) (16 : BitVec 6) = some (fRegRegSrc) := rfl
    obtain rfl := Option.some.inj (hr'.symm.trans hr)
    simp [takesLit, Opnd.mayLit, mkRaw, reg_code_ne, fRegRegSrc]

theorem not (m : Mods) (d a : Reg) : Statement (.not m d a) := by
  intro x h hw
  obtain rfl := Option.some.inj h
  refine ⟨?_, ?_, ?_⟩
  · show (fun x => if x.b = 0 then (do return .not x.mods (← regOf x.d) (← regOf x.a)) else none : Raw → Option Instr) ((mkRaw m 0 17 (pack (Reg.code d) (Reg.code a) 0)) : Raw) = _
    simp [mkRaw, Raw.mods]
  · intro hp; rfl
  · intro r hr
    have hr' : rowOf (0 : BitVec 3) (17 : BitVec 6) = some (fRegRegZero) := rfl
    obtain rfl := Option.some.inj (hr'.symm.trans hr)
    simp [takesLit, Opnd.mayLit, mkRaw, reg_code_ne, fRegRegZero]

theorem shl (m : Mods) (d a : Reg) (b : Src) : Statement (.shl m d a b) := by
  intro x h hw
  obtain rfl := Option.some.inj h
  refine ⟨?_, ?_, ?_⟩
  · show (fun x => (do return .shl x.mods (← regOf x.d) (← regOf x.a) (← srcOf x.lit x.b)) : Raw → Option Instr) ({ mkRaw m 0 18 (pack (Reg.code d) (Reg.code a) (Src.code b)) with lit := b.word, pc := 0 } : Raw) = _
    simp [mkRaw, Raw.mods]
  · intro hp; rfl
  · intro r hr
    have hr' : rowOf (0 : BitVec 3) (18 : BitVec 6) = some (fRegRegSrc) := rfl
    obtain rfl := Option.some.inj (hr'.symm.trans hr)
    simp [takesLit, Opnd.mayLit, mkRaw, reg_code_ne, fRegRegSrc]

theorem shr (m : Mods) (d a : Reg) (b : Src) : Statement (.shr m d a b) := by
  intro x h hw
  obtain rfl := Option.some.inj h
  refine ⟨?_, ?_, ?_⟩
  · show (fun x => (do return .shr x.mods (← regOf x.d) (← regOf x.a) (← srcOf x.lit x.b)) : Raw → Option Instr) ({ mkRaw m 0 19 (pack (Reg.code d) (Reg.code a) (Src.code b)) with lit := b.word, pc := 0 } : Raw) = _
    simp [mkRaw, Raw.mods]
  · intro hp; rfl
  · intro r hr
    have hr' : rowOf (0 : BitVec 3) (19 : BitVec 6) = some (fRegRegSrc) := rfl
    obtain rfl := Option.some.inj (hr'.symm.trans hr)
    simp [takesLit, Opnd.mayLit, mkRaw, reg_code_ne, fRegRegSrc]

theorem sar (m : Mods) (d a : Reg) (b : Src) : Statement (.sar m d a b) := by
  intro x h hw
  obtain rfl := Option.some.inj h
  refine ⟨?_, ?_, ?_⟩
  · show (fun x => (do return .sar x.mods (← regOf x.d) (← regOf x.a) (← srcOf x.lit x.b)) : Raw → Option Instr) ({ mkRaw m 0 20 (pack (Reg.code d) (Reg.code a) (Src.code b)) with lit := b.word, pc := 0 } : Raw) = _
    simp [mkRaw, Raw.mods]
  · intro hp; rfl
  · intro r hr
    have hr' : rowOf (0 : BitVec 3) (20 : BitVec 6) = some (fRegRegSrc) := rfl
    obtain rfl := Option.some.inj (hr'.symm.trans hr)
    simp [takesLit, Opnd.mayLit, mkRaw, reg_code_ne, fRegRegSrc]

theorem rot (m : Mods) (d a : Reg) (b : Src) : Statement (.rot m d a b) := by
  intro x h hw
  obtain rfl := Option.some.inj h
  refine ⟨?_, ?_, ?_⟩
  · show (fun x => (do return .rot x.mods (← regOf x.d) (← regOf x.a) (← srcOf x.lit x.b)) : Raw → Option Instr) ({ mkRaw m 0 21 (pack (Reg.code d) (Reg.code a) (Src.code b)) with lit := b.word, pc := 0 } : Raw) = _
    simp [mkRaw, Raw.mods]
  · intro hp; rfl
  · intro r hr
    have hr' : rowOf (0 : BitVec 3) (21 : BitVec 6) = some (fRegRegSrc) := rfl
    obtain rfl := Option.some.inj (hr'.symm.trans hr)
    simp [takesLit, Opnd.mayLit, mkRaw, reg_code_ne, fRegRegSrc]

theorem shli (m : Mods) (d a : Reg) (b : BitVec 7) : Statement (.shli m d a b) := by
  intro x h hw
  obtain rfl := Option.some.inj h
  refine ⟨?_, ?_, ?_⟩
  · show (fun x => (do return .shli x.mods (← regOf x.d) (← regOf x.a) x.b) : Raw → Option Instr) ((mkRaw m 0 22 (pack (Reg.code d) (Reg.code a) b)) : Raw) = _
    simp [mkRaw, Raw.mods]
  · intro hp; rfl
  · intro r hr
    have hr' : rowOf (0 : BitVec 3) (22 : BitVec 6) = some (fRegRegShift) := rfl
    obtain rfl := Option.some.inj (hr'.symm.trans hr)
    simp [takesLit, Opnd.mayLit, mkRaw, reg_code_ne, fRegRegShift]

theorem shri (m : Mods) (d a : Reg) (b : BitVec 7) : Statement (.shri m d a b) := by
  intro x h hw
  obtain rfl := Option.some.inj h
  refine ⟨?_, ?_, ?_⟩
  · show (fun x => (do return .shri x.mods (← regOf x.d) (← regOf x.a) x.b) : Raw → Option Instr) ((mkRaw m 0 23 (pack (Reg.code d) (Reg.code a) b)) : Raw) = _
    simp [mkRaw, Raw.mods]
  · intro hp; rfl
  · intro r hr
    have hr' : rowOf (0 : BitVec 3) (23 : BitVec 6) = some (fRegRegShift) := rfl
    obtain rfl := Option.some.inj (hr'.symm.trans hr)
    simp [takesLit, Opnd.mayLit, mkRaw, reg_code_ne, fRegRegShift]

theorem sari (m : Mods) (d a : Reg) (b : BitVec 7) : Statement (.sari m d a b) := by
  intro x h hw
  obtain rfl := Option.some.inj h
  refine ⟨?_, ?_, ?_⟩
  · show (fun x => (do return .sari x.mods (← regOf x.d) (← regOf x.a) x.b) : Raw → Option Instr) ((mkRaw m 0 24 (pack (Reg.code d) (Reg.code a) b)) : Raw) = _
    simp [mkRaw, Raw.mods]
  · intro hp; rfl
  · intro r hr
    have hr' : rowOf (0 : BitVec 3) (24 : BitVec 6) = some (fRegRegShift) := rfl
    obtain rfl := Option.some.inj (hr'.symm.trans hr)
    simp [takesLit, Opnd.mayLit, mkRaw, reg_code_ne, fRegRegShift]

theorem clz (m : Mods) (d a : Reg) : Statement (.clz m d a) := by
  intro x h hw
  obtain rfl := Option.some.inj h
  refine ⟨?_, ?_, ?_⟩
  · show (fun x => if x.b = 0 then (do return .clz x.mods (← regOf x.d) (← regOf x.a)) else none : Raw → Option Instr) ((mkRaw m 0 25 (pack (Reg.code d) (Reg.code a) 0)) : Raw) = _
    simp [mkRaw, Raw.mods]
  · intro hp; rfl
  · intro r hr
    have hr' : rowOf (0 : BitVec 3) (25 : BitVec 6) = some (fRegRegZero) := rfl
    obtain rfl := Option.some.inj (hr'.symm.trans hr)
    simp [takesLit, Opnd.mayLit, mkRaw, reg_code_ne, fRegRegZero]

theorem popc (m : Mods) (d a : Reg) : Statement (.popc m d a) := by
  intro x h hw
  obtain rfl := Option.some.inj h
  refine ⟨?_, ?_, ?_⟩
  · show (fun x => if x.b = 0 then (do return .popc x.mods (← regOf x.d) (← regOf x.a)) else none : Raw → Option Instr) ((mkRaw m 0 26 (pack (Reg.code d) (Reg.code a) 0)) : Raw) = _
    simp [mkRaw, Raw.mods]
  · intro hp; rfl
  · intro r hr
    have hr' : rowOf (0 : BitVec 3) (26 : BitVec 6) = some (fRegRegZero) := rfl
    obtain rfl := Option.some.inj (hr'.symm.trans hr)
    simp [takesLit, Opnd.mayLit, mkRaw, reg_code_ne, fRegRegZero]

theorem brev (m : Mods) (d a : Reg) : Statement (.brev m d a) := by
  intro x h hw
  obtain rfl := Option.some.inj h
  refine ⟨?_, ?_, ?_⟩
  · show (fun x => if x.b = 0 then (do return .brev x.mods (← regOf x.d) (← regOf x.a)) else none : Raw → Option Instr) ((mkRaw m 0 27 (pack (Reg.code d) (Reg.code a) 0)) : Raw) = _
    simp [mkRaw, Raw.mods]
  · intro hp; rfl
  · intro r hr
    have hr' : rowOf (0 : BitVec 3) (27 : BitVec 6) = some (fRegRegZero) := rfl
    obtain rfl := Option.some.inj (hr'.symm.trans hr)
    simp [takesLit, Opnd.mayLit, mkRaw, reg_code_ne, fRegRegZero]

theorem bfeI (m : Mods) (d a : Reg) (b : Src) : Statement (.bfeI m d a b) := by
  intro x h hw
  obtain rfl := Option.some.inj h
  refine ⟨?_, ?_, ?_⟩
  · show (fun x => (do return .bfeI x.mods (← regOf x.d) (← regOf x.a) (← srcOf x.lit x.b)) : Raw → Option Instr) ({ mkRaw m 0 28 (pack (Reg.code d) (Reg.code a) (Src.code b)) with lit := b.word, pc := 0 } : Raw) = _
    simp [mkRaw, Raw.mods]
  · intro hp; rfl
  · intro r hr
    have hr' : rowOf (0 : BitVec 3) (28 : BitVec 6) = some (fRegRegSrc) := rfl
    obtain rfl := Option.some.inj (hr'.symm.trans hr)
    simp [takesLit, Opnd.mayLit, mkRaw, reg_code_ne, fRegRegSrc]

theorem bfeN (m : Mods) (d a : Reg) (b : Src) : Statement (.bfeN m d a b) := by
  intro x h hw
  obtain rfl := Option.some.inj h
  refine ⟨?_, ?_, ?_⟩
  · show (fun x => (do return .bfeN x.mods (← regOf x.d) (← regOf x.a) (← srcOf x.lit x.b)) : Raw → Option Instr) ({ mkRaw m 0 29 (pack (Reg.code d) (Reg.code a) (Src.code b)) with lit := b.word, pc := 0 } : Raw) = _
    simp [mkRaw, Raw.mods]
  · intro hp; rfl
  · intro r hr
    have hr' : rowOf (0 : BitVec 3) (29 : BitVec 6) = some (fRegRegSrc) := rfl
    obtain rfl := Option.some.inj (hr'.symm.trans hr)
    simp [takesLit, Opnd.mayLit, mkRaw, reg_code_ne, fRegRegSrc]

theorem bfi (m : Mods) (d a : Reg) (b : Src) : Statement (.bfi m d a b) := by
  intro x h hw
  obtain rfl := Option.some.inj h
  refine ⟨?_, ?_, ?_⟩
  · show (fun x => (do return .bfi x.mods (← regOf x.d) (← regOf x.a) (← srcOf x.lit x.b)) : Raw → Option Instr) ({ mkRaw m 0 30 (pack (Reg.code d) (Reg.code a) (Src.code b)) with lit := b.word, pc := 0 } : Raw) = _
    simp [mkRaw, Raw.mods]
  · intro hp; rfl
  · intro r hr
    have hr' : rowOf (0 : BitVec 3) (30 : BitVec 6) = some (fRegRegSrc) := rfl
    obtain rfl := Option.some.inj (hr'.symm.trans hr)
    simp [takesLit, Opnd.mayLit, mkRaw, reg_code_ne, fRegRegSrc]

theorem sel (m : Mods) (d a : Reg) (b : Src) (k : MaskReg) : Statement (.sel m d a b k) := by
  intro x h hw
  obtain rfl := Option.some.inj h
  have hs := need_pre (wf_checks hw rfl (r := { layout := (.dab .vec .reg .src), rep := true, pol := true, cf := .mask, writes := true }) rfl).2 rfl rfl
  obtain ⟨p, hp⟩ := Option.isSome_iff_exists.1 hs
  refine ⟨?_, fun hn => absurd (hp.symm.trans hn) (by simp), ?_⟩
  · have hm : m.pre = some p := hp
    show (fun x => (do return .sel x.mods (← regOf x.d) (← regOf x.a) (← srcOf x.lit x.b) (← maskOf x.pc)) : Raw → Option Instr) ({ mkRaw m 0 31 (pack (Reg.code d) (Reg.code a) (Src.code b)) with lit := b.word, pc := (maskCode k) } : Raw) = _
    simp [mkRaw, Raw.mods, hm]
    exact hm ▸ rfl
  · intro r hr
    have hr' : rowOf (0 : BitVec 3) (31 : BitVec 6) = some ({ layout := (.dab .vec .reg .src), rep := true, pol := true, cf := .mask, writes := true }) := rfl
    obtain rfl := Option.some.inj (hr'.symm.trans hr)
    simp [takesLit, Opnd.mayLit, mkRaw, maskCode_ne]

theorem cmpEq (m : Mods) (d : MaskReg) (a : Reg) (b : Src) : Statement (.cmpEq m d a b) := by
  intro x h hw
  obtain rfl := Option.some.inj h
  refine ⟨?_, ?_, ?_⟩
  · show (fun x => (do return .cmpEq x.mods (← maskOf x.d) (← regOf x.a) (← srcOf x.lit x.b)) : Raw → Option Instr) ({ mkRaw m 0 32 (pack (maskCode d) (Reg.code a) (Src.code b)) with lit := b.word, pc := 0 } : Raw) = _
    simp [mkRaw, Raw.mods]
  · intro hp; rfl
  · intro r hr
    have hr' : rowOf (0 : BitVec 3) (32 : BitVec 6) = some (fMaskdRegSrc) := rfl
    obtain rfl := Option.some.inj (hr'.symm.trans hr)
    simp [takesLit, Opnd.mayLit, mkRaw, reg_code_ne, fMaskdRegSrc]

theorem cmpNe (m : Mods) (d : MaskReg) (a : Reg) (b : Src) : Statement (.cmpNe m d a b) := by
  intro x h hw
  obtain rfl := Option.some.inj h
  refine ⟨?_, ?_, ?_⟩
  · show (fun x => (do return .cmpNe x.mods (← maskOf x.d) (← regOf x.a) (← srcOf x.lit x.b)) : Raw → Option Instr) ({ mkRaw m 0 33 (pack (maskCode d) (Reg.code a) (Src.code b)) with lit := b.word, pc := 0 } : Raw) = _
    simp [mkRaw, Raw.mods]
  · intro hp; rfl
  · intro r hr
    have hr' : rowOf (0 : BitVec 3) (33 : BitVec 6) = some (fMaskdRegSrc) := rfl
    obtain rfl := Option.some.inj (hr'.symm.trans hr)
    simp [takesLit, Opnd.mayLit, mkRaw, reg_code_ne, fMaskdRegSrc]

theorem cmpLtI (m : Mods) (d : MaskReg) (a : Reg) (b : Src) : Statement (.cmpLtI m d a b) := by
  intro x h hw
  obtain rfl := Option.some.inj h
  refine ⟨?_, ?_, ?_⟩
  · show (fun x => (do return .cmpLtI x.mods (← maskOf x.d) (← regOf x.a) (← srcOf x.lit x.b)) : Raw → Option Instr) ({ mkRaw m 0 34 (pack (maskCode d) (Reg.code a) (Src.code b)) with lit := b.word, pc := 0 } : Raw) = _
    simp [mkRaw, Raw.mods]
  · intro hp; rfl
  · intro r hr
    have hr' : rowOf (0 : BitVec 3) (34 : BitVec 6) = some (fMaskdRegSrc) := rfl
    obtain rfl := Option.some.inj (hr'.symm.trans hr)
    simp [takesLit, Opnd.mayLit, mkRaw, reg_code_ne, fMaskdRegSrc]

theorem cmpLeI (m : Mods) (d : MaskReg) (a : Reg) (b : Src) : Statement (.cmpLeI m d a b) := by
  intro x h hw
  obtain rfl := Option.some.inj h
  refine ⟨?_, ?_, ?_⟩
  · show (fun x => (do return .cmpLeI x.mods (← maskOf x.d) (← regOf x.a) (← srcOf x.lit x.b)) : Raw → Option Instr) ({ mkRaw m 0 35 (pack (maskCode d) (Reg.code a) (Src.code b)) with lit := b.word, pc := 0 } : Raw) = _
    simp [mkRaw, Raw.mods]
  · intro hp; rfl
  · intro r hr
    have hr' : rowOf (0 : BitVec 3) (35 : BitVec 6) = some (fMaskdRegSrc) := rfl
    obtain rfl := Option.some.inj (hr'.symm.trans hr)
    simp [takesLit, Opnd.mayLit, mkRaw, reg_code_ne, fMaskdRegSrc]

theorem cmpLtN (m : Mods) (d : MaskReg) (a : Reg) (b : Src) : Statement (.cmpLtN m d a b) := by
  intro x h hw
  obtain rfl := Option.some.inj h
  refine ⟨?_, ?_, ?_⟩
  · show (fun x => (do return .cmpLtN x.mods (← maskOf x.d) (← regOf x.a) (← srcOf x.lit x.b)) : Raw → Option Instr) ({ mkRaw m 0 36 (pack (maskCode d) (Reg.code a) (Src.code b)) with lit := b.word, pc := 0 } : Raw) = _
    simp [mkRaw, Raw.mods]
  · intro hp; rfl
  · intro r hr
    have hr' : rowOf (0 : BitVec 3) (36 : BitVec 6) = some (fMaskdRegSrc) := rfl
    obtain rfl := Option.some.inj (hr'.symm.trans hr)
    simp [takesLit, Opnd.mayLit, mkRaw, reg_code_ne, fMaskdRegSrc]

theorem cmpLeN (m : Mods) (d : MaskReg) (a : Reg) (b : Src) : Statement (.cmpLeN m d a b) := by
  intro x h hw
  obtain rfl := Option.some.inj h
  refine ⟨?_, ?_, ?_⟩
  · show (fun x => (do return .cmpLeN x.mods (← maskOf x.d) (← regOf x.a) (← srcOf x.lit x.b)) : Raw → Option Instr) ({ mkRaw m 0 37 (pack (maskCode d) (Reg.code a) (Src.code b)) with lit := b.word, pc := 0 } : Raw) = _
    simp [mkRaw, Raw.mods]
  · intro hp; rfl
  · intro r hr
    have hr' : rowOf (0 : BitVec 3) (37 : BitVec 6) = some (fMaskdRegSrc) := rfl
    obtain rfl := Option.some.inj (hr'.symm.trans hr)
    simp [takesLit, Opnd.mayLit, mkRaw, reg_code_ne, fMaskdRegSrc]

theorem cmpiEq (m : Mods) (d : MaskReg) (a : Reg) (b : BitVec 7) : Statement (.cmpiEq m d a b) := by
  intro x h hw
  obtain rfl := Option.some.inj h
  refine ⟨?_, ?_, ?_⟩
  · show (fun x => (do return .cmpiEq x.mods (← maskOf x.d) (← regOf x.a) x.b) : Raw → Option Instr) ((mkRaw m 0 38 (pack (maskCode d) (Reg.code a) b)) : Raw) = _
    simp [mkRaw, Raw.mods]
  · intro hp; rfl
  · intro r hr
    have hr' : rowOf (0 : BitVec 3) (38 : BitVec 6) = some (fMaskdRegImm) := rfl
    obtain rfl := Option.some.inj (hr'.symm.trans hr)
    simp [takesLit, Opnd.mayLit, mkRaw, reg_code_ne, fMaskdRegImm]

theorem cmpiLtI (m : Mods) (d : MaskReg) (a : Reg) (b : BitVec 7) : Statement (.cmpiLtI m d a b) := by
  intro x h hw
  obtain rfl := Option.some.inj h
  refine ⟨?_, ?_, ?_⟩
  · show (fun x => (do return .cmpiLtI x.mods (← maskOf x.d) (← regOf x.a) x.b) : Raw → Option Instr) ((mkRaw m 0 39 (pack (maskCode d) (Reg.code a) b)) : Raw) = _
    simp [mkRaw, Raw.mods]
  · intro hp; rfl
  · intro r hr
    have hr' : rowOf (0 : BitVec 3) (39 : BitVec 6) = some (fMaskdRegImm) := rfl
    obtain rfl := Option.some.inj (hr'.symm.trans hr)
    simp [takesLit, Opnd.mayLit, mkRaw, reg_code_ne, fMaskdRegImm]

theorem cmpiLtN (m : Mods) (d : MaskReg) (a : Reg) (b : BitVec 7) : Statement (.cmpiLtN m d a b) := by
  intro x h hw
  obtain rfl := Option.some.inj h
  refine ⟨?_, ?_, ?_⟩
  · show (fun x => (do return .cmpiLtN x.mods (← maskOf x.d) (← regOf x.a) x.b) : Raw → Option Instr) ((mkRaw m 0 40 (pack (maskCode d) (Reg.code a) b)) : Raw) = _
    simp [mkRaw, Raw.mods]
  · intro hp; rfl
  · intro r hr
    have hr' : rowOf (0 : BitVec 3) (40 : BitVec 6) = some (fMaskdRegImm) := rfl
    obtain rfl := Option.some.inj (hr'.symm.trans hr)
    simp [takesLit, Opnd.mayLit, mkRaw, reg_code_ne, fMaskdRegImm]

theorem mov (m : Mods) (d a : Reg) : Statement (.mov m d a) := by
  intro x h hw
  obtain rfl := Option.some.inj h
  refine ⟨?_, ?_, ?_⟩
  · show (fun x => if x.b = 0 then (do return .mov x.mods (← regOf x.d) (← regOf x.a)) else none : Raw → Option Instr) ((mkRaw m 0 41 (pack (Reg.code d) (Reg.code a) 0)) : Raw) = _
    simp [mkRaw, Raw.mods]
  · intro hp; rfl
  · intro r hr
    have hr' : rowOf (0 : BitVec 3) (41 : BitVec 6) = some (fRegRegZero) := rfl
    obtain rfl := Option.some.inj (hr'.symm.trans hr)
    simp [takesLit, Opnd.mayLit, mkRaw, reg_code_ne, fRegRegZero]

theorem movi (m : Mods) (d : Reg) (imm : BitVec 14) : Statement (.movi m d imm) := by
  intro x h hw
  obtain rfl := Option.some.inj h
  refine ⟨?_, ?_, ?_⟩
  · show (fun x => return .movi x.mods (← regOf x.d) (x.low.extractLsb' 0 14) : Raw → Option Instr) ((mkRaw m 0 42 (d.code ++ imm)) : Raw) = _
    simp [mkRaw, Raw.mods, Raw.d, splitMv_hi, splitMv_lo]
  · intro hp; rfl
  · intro r hr
    have hr' : rowOf (0 : BitVec 3) (42 : BitVec 6) = some ({ layout := .mv, uni := true, rep := true, pol := true, writes := true }) := rfl
    obtain rfl := Option.some.inj (hr'.symm.trans hr)
    simp [takesLit, Opnd.mayLit, mkRaw, reg_code_ne]

theorem leaB (m : Mods) (d a : Reg) (b : Src) : Statement (.leaB m d a b) := by
  intro x h hw
  obtain rfl := Option.some.inj h
  refine ⟨?_, ?_, ?_⟩
  · show (fun x => (do return .leaB x.mods (← regOf x.d) (← regOf x.a) (← srcOf x.lit x.b)) : Raw → Option Instr) ({ mkRaw m 0 43 (pack (Reg.code d) (Reg.code a) (Src.code b)) with lit := b.word, pc := 0 } : Raw) = _
    simp [mkRaw, Raw.mods]
  · intro hp; rfl
  · intro r hr
    have hr' : rowOf (0 : BitVec 3) (43 : BitVec 6) = some (fPairPairSrc) := rfl
    obtain rfl := Option.some.inj (hr'.symm.trans hr)
    simp [takesLit, Opnd.mayLit, mkRaw, reg_code_ne, fPairPairSrc]

theorem leaH (m : Mods) (d a : Reg) (b : Src) : Statement (.leaH m d a b) := by
  intro x h hw
  obtain rfl := Option.some.inj h
  refine ⟨?_, ?_, ?_⟩
  · show (fun x => (do return .leaH x.mods (← regOf x.d) (← regOf x.a) (← srcOf x.lit x.b)) : Raw → Option Instr) ({ mkRaw m 0 44 (pack (Reg.code d) (Reg.code a) (Src.code b)) with lit := b.word, pc := 0 } : Raw) = _
    simp [mkRaw, Raw.mods]
  · intro hp; rfl
  · intro r hr
    have hr' : rowOf (0 : BitVec 3) (44 : BitVec 6) = some (fPairPairSrc) := rfl
    obtain rfl := Option.some.inj (hr'.symm.trans hr)
    simp [takesLit, Opnd.mayLit, mkRaw, reg_code_ne, fPairPairSrc]

theorem leaW (m : Mods) (d a : Reg) (b : Src) : Statement (.leaW m d a b) := by
  intro x h hw
  obtain rfl := Option.some.inj h
  refine ⟨?_, ?_, ?_⟩
  · show (fun x => (do return .leaW x.mods (← regOf x.d) (← regOf x.a) (← srcOf x.lit x.b)) : Raw → Option Instr) ({ mkRaw m 0 45 (pack (Reg.code d) (Reg.code a) (Src.code b)) with lit := b.word, pc := 0 } : Raw) = _
    simp [mkRaw, Raw.mods]
  · intro hp; rfl
  · intro r hr
    have hr' : rowOf (0 : BitVec 3) (45 : BitVec 6) = some (fPairPairSrc) := rfl
    obtain rfl := Option.some.inj (hr'.symm.trans hr)
    simp [takesLit, Opnd.mayLit, mkRaw, reg_code_ne, fPairPairSrc]

theorem leaD (m : Mods) (d a : Reg) (b : Src) : Statement (.leaD m d a b) := by
  intro x h hw
  obtain rfl := Option.some.inj h
  refine ⟨?_, ?_, ?_⟩
  · show (fun x => (do return .leaD x.mods (← regOf x.d) (← regOf x.a) (← srcOf x.lit x.b)) : Raw → Option Instr) ({ mkRaw m 0 46 (pack (Reg.code d) (Reg.code a) (Src.code b)) with lit := b.word, pc := 0 } : Raw) = _
    simp [mkRaw, Raw.mods]
  · intro hp; rfl
  · intro r hr
    have hr' : rowOf (0 : BitVec 3) (46 : BitVec 6) = some (fPairPairSrc) := rfl
    obtain rfl := Option.some.inj (hr'.symm.trans hr)
    simp [takesLit, Opnd.mayLit, mkRaw, reg_code_ne, fPairPairSrc]

theorem add64 (m : Mods) (d a : Reg) (b : Src) : Statement (.add64 m d a b) := by
  intro x h hw
  obtain rfl := Option.some.inj h
  refine ⟨?_, ?_, ?_⟩
  · show (fun x => (do return .add64 x.mods (← regOf x.d) (← regOf x.a) (← srcOf x.lit x.b)) : Raw → Option Instr) ({ mkRaw m 0 47 (pack (Reg.code d) (Reg.code a) (Src.code b)) with lit := b.word, pc := 0 } : Raw) = _
    simp [mkRaw, Raw.mods]
  · intro hp; rfl
  · intro r hr
    have hr' : rowOf (0 : BitVec 3) (47 : BitVec 6) = some (fPairPairSrcpair) := rfl
    obtain rfl := Option.some.inj (hr'.symm.trans hr)
    simp [takesLit, Opnd.mayLit, mkRaw, reg_code_ne, fPairPairSrcpair]

theorem sub64 (m : Mods) (d a : Reg) (b : Src) : Statement (.sub64 m d a b) := by
  intro x h hw
  obtain rfl := Option.some.inj h
  refine ⟨?_, ?_, ?_⟩
  · show (fun x => (do return .sub64 x.mods (← regOf x.d) (← regOf x.a) (← srcOf x.lit x.b)) : Raw → Option Instr) ({ mkRaw m 0 48 (pack (Reg.code d) (Reg.code a) (Src.code b)) with lit := b.word, pc := 0 } : Raw) = _
    simp [mkRaw, Raw.mods]
  · intro hp; rfl
  · intro r hr
    have hr' : rowOf (0 : BitVec 3) (48 : BitVec 6) = some (fPairPairSrcpair) := rfl
    obtain rfl := Option.some.inj (hr'.symm.trans hr)
    simp [takesLit, Opnd.mayLit, mkRaw, reg_code_ne, fPairPairSrcpair]

theorem mulW (m : Mods) (d a : Reg) (b : Src) : Statement (.mulW m d a b) := by
  intro x h hw
  obtain rfl := Option.some.inj h
  refine ⟨?_, ?_, ?_⟩
  · show (fun x => (do return .mulW x.mods (← regOf x.d) (← regOf x.a) (← srcOf x.lit x.b)) : Raw → Option Instr) ({ mkRaw m 0 49 (pack (Reg.code d) (Reg.code a) (Src.code b)) with lit := b.word, pc := 0 } : Raw) = _
    simp [mkRaw, Raw.mods]
  · intro hp; rfl
  · intro r hr
    have hr' : rowOf (0 : BitVec 3) (49 : BitVec 6) = some (fPairRegSrc) := rfl
    obtain rfl := Option.some.inj (hr'.symm.trans hr)
    simp [takesLit, Opnd.mayLit, mkRaw, reg_code_ne, fPairRegSrc]

theorem mulWn (m : Mods) (d a : Reg) (b : Src) : Statement (.mulWn m d a b) := by
  intro x h hw
  obtain rfl := Option.some.inj h
  refine ⟨?_, ?_, ?_⟩
  · show (fun x => (do return .mulWn x.mods (← regOf x.d) (← regOf x.a) (← srcOf x.lit x.b)) : Raw → Option Instr) ({ mkRaw m 0 50 (pack (Reg.code d) (Reg.code a) (Src.code b)) with lit := b.word, pc := 0 } : Raw) = _
    simp [mkRaw, Raw.mods]
  · intro hp; rfl
  · intro r hr
    have hr' : rowOf (0 : BitVec 3) (50 : BitVec 6) = some (fPairRegSrc) := rfl
    obtain rfl := Option.some.inj (hr'.symm.trans hr)
    simp [takesLit, Opnd.mayLit, mkRaw, reg_code_ne, fPairRegSrc]

theorem divI (m : Mods) (d a : Reg) (b : Src) : Statement (.divI m d a b) := by
  intro x h hw
  obtain rfl := Option.some.inj h
  refine ⟨?_, ?_, ?_⟩
  · show (fun x => (do return .divI x.mods (← regOf x.d) (← regOf x.a) (← srcOf x.lit x.b)) : Raw → Option Instr) ({ mkRaw m 0 51 (pack (Reg.code d) (Reg.code a) (Src.code b)) with lit := b.word, pc := 0 } : Raw) = _
    simp [mkRaw, Raw.mods]
  · intro hp; rfl
  · intro r hr
    have hr' : rowOf (0 : BitVec 3) (51 : BitVec 6) = some (fRegRegSrc) := rfl
    obtain rfl := Option.some.inj (hr'.symm.trans hr)
    simp [takesLit, Opnd.mayLit, mkRaw, reg_code_ne, fRegRegSrc]

theorem divN (m : Mods) (d a : Reg) (b : Src) : Statement (.divN m d a b) := by
  intro x h hw
  obtain rfl := Option.some.inj h
  refine ⟨?_, ?_, ?_⟩
  · show (fun x => (do return .divN x.mods (← regOf x.d) (← regOf x.a) (← srcOf x.lit x.b)) : Raw → Option Instr) ({ mkRaw m 0 52 (pack (Reg.code d) (Reg.code a) (Src.code b)) with lit := b.word, pc := 0 } : Raw) = _
    simp [mkRaw, Raw.mods]
  · intro hp; rfl
  · intro r hr
    have hr' : rowOf (0 : BitVec 3) (52 : BitVec 6) = some (fRegRegSrc) := rfl
    obtain rfl := Option.some.inj (hr'.symm.trans hr)
    simp [takesLit, Opnd.mayLit, mkRaw, reg_code_ne, fRegRegSrc]

theorem remI (m : Mods) (d a : Reg) (b : Src) : Statement (.remI m d a b) := by
  intro x h hw
  obtain rfl := Option.some.inj h
  refine ⟨?_, ?_, ?_⟩
  · show (fun x => (do return .remI x.mods (← regOf x.d) (← regOf x.a) (← srcOf x.lit x.b)) : Raw → Option Instr) ({ mkRaw m 0 53 (pack (Reg.code d) (Reg.code a) (Src.code b)) with lit := b.word, pc := 0 } : Raw) = _
    simp [mkRaw, Raw.mods]
  · intro hp; rfl
  · intro r hr
    have hr' : rowOf (0 : BitVec 3) (53 : BitVec 6) = some (fRegRegSrc) := rfl
    obtain rfl := Option.some.inj (hr'.symm.trans hr)
    simp [takesLit, Opnd.mayLit, mkRaw, reg_code_ne, fRegRegSrc]

theorem remN (m : Mods) (d a : Reg) (b : Src) : Statement (.remN m d a b) := by
  intro x h hw
  obtain rfl := Option.some.inj h
  refine ⟨?_, ?_, ?_⟩
  · show (fun x => (do return .remN x.mods (← regOf x.d) (← regOf x.a) (← srcOf x.lit x.b)) : Raw → Option Instr) ({ mkRaw m 0 54 (pack (Reg.code d) (Reg.code a) (Src.code b)) with lit := b.word, pc := 0 } : Raw) = _
    simp [mkRaw, Raw.mods]
  · intro hp; rfl
  · intro r hr
    have hr' : rowOf (0 : BitVec 3) (54 : BitVec 6) = some (fRegRegSrc) := rfl
    obtain rfl := Option.some.inj (hr'.symm.trans hr)
    simp [takesLit, Opnd.mayLit, mkRaw, reg_code_ne, fRegRegSrc]

theorem adds (m : Mods) (d a : Reg) (b : Src) : Statement (.adds m d a b) := by
  intro x h hw
  obtain rfl := Option.some.inj h
  refine ⟨?_, ?_, ?_⟩
  · show (fun x => (do return .adds x.mods (← regOf x.d) (← regOf x.a) (← srcOf x.lit x.b)) : Raw → Option Instr) ({ mkRaw m 0 55 (pack (Reg.code d) (Reg.code a) (Src.code b)) with lit := b.word, pc := 0 } : Raw) = _
    simp [mkRaw, Raw.mods]
  · intro hp; rfl
  · intro r hr
    have hr' : rowOf (0 : BitVec 3) (55 : BitVec 6) = some (fRegRegSrc) := rfl
    obtain rfl := Option.some.inj (hr'.symm.trans hr)
    simp [takesLit, Opnd.mayLit, mkRaw, reg_code_ne, fRegRegSrc]

theorem subs (m : Mods) (d a : Reg) (b : Src) : Statement (.subs m d a b) := by
  intro x h hw
  obtain rfl := Option.some.inj h
  refine ⟨?_, ?_, ?_⟩
  · show (fun x => (do return .subs x.mods (← regOf x.d) (← regOf x.a) (← srcOf x.lit x.b)) : Raw → Option Instr) ({ mkRaw m 0 56 (pack (Reg.code d) (Reg.code a) (Src.code b)) with lit := b.word, pc := 0 } : Raw) = _
    simp [mkRaw, Raw.mods]
  · intro hp; rfl
  · intro r hr
    have hr' : rowOf (0 : BitVec 3) (56 : BitVec 6) = some (fRegRegSrc) := rfl
    obtain rfl := Option.some.inj (hr'.symm.trans hr)
    simp [takesLit, Opnd.mayLit, mkRaw, reg_code_ne, fRegRegSrc]

theorem dot4Ii (m : Mods) (d a : Reg) (b : Src) : Statement (.dot4Ii m d a b) := by
  intro x h hw
  obtain rfl := Option.some.inj h
  refine ⟨?_, ?_, ?_⟩
  · show (fun x => (do return .dot4Ii x.mods (← regOf x.d) (← regOf x.a) (← srcOf x.lit x.b)) : Raw → Option Instr) ({ mkRaw m 0 57 (pack (Reg.code d) (Reg.code a) (Src.code b)) with lit := b.word, pc := 0 } : Raw) = _
    simp [mkRaw, Raw.mods]
  · intro hp; rfl
  · intro r hr
    have hr' : rowOf (0 : BitVec 3) (57 : BitVec 6) = some (fRegRegSrc) := rfl
    obtain rfl := Option.some.inj (hr'.symm.trans hr)
    simp [takesLit, Opnd.mayLit, mkRaw, reg_code_ne, fRegRegSrc]

theorem dot4Ni (m : Mods) (d a : Reg) (b : Src) : Statement (.dot4Ni m d a b) := by
  intro x h hw
  obtain rfl := Option.some.inj h
  refine ⟨?_, ?_, ?_⟩
  · show (fun x => (do return .dot4Ni x.mods (← regOf x.d) (← regOf x.a) (← srcOf x.lit x.b)) : Raw → Option Instr) ({ mkRaw m 0 58 (pack (Reg.code d) (Reg.code a) (Src.code b)) with lit := b.word, pc := 0 } : Raw) = _
    simp [mkRaw, Raw.mods]
  · intro hp; rfl
  · intro r hr
    have hr' : rowOf (0 : BitVec 3) (58 : BitVec 6) = some (fRegRegSrc) := rfl
    obtain rfl := Option.some.inj (hr'.symm.trans hr)
    simp [takesLit, Opnd.mayLit, mkRaw, reg_code_ne, fRegRegSrc]

theorem sad (m : Mods) (d a : Reg) (b : Src) : Statement (.sad m d a b) := by
  intro x h hw
  obtain rfl := Option.some.inj h
  refine ⟨?_, ?_, ?_⟩
  · show (fun x => (do return .sad x.mods (← regOf x.d) (← regOf x.a) (← srcOf x.lit x.b)) : Raw → Option Instr) ({ mkRaw m 0 59 (pack (Reg.code d) (Reg.code a) (Src.code b)) with lit := b.word, pc := 0 } : Raw) = _
    simp [mkRaw, Raw.mods]
  · intro hp; rfl
  · intro r hr
    have hr' : rowOf (0 : BitVec 3) (59 : BitVec 6) = some (fRegRegSrc) := rfl
    obtain rfl := Option.some.inj (hr'.symm.trans hr)
    simp [takesLit, Opnd.mayLit, mkRaw, reg_code_ne, fRegRegSrc]

theorem fadd (m : Mods) (d a : Reg) (b : Src) : Statement (.fadd m d a b) := by
  intro x h hw
  obtain rfl := Option.some.inj h
  refine ⟨?_, ?_, ?_⟩
  · show (fun x => (do return .fadd x.mods (← regOf x.d) (← regOf x.a) (← srcOf x.lit x.b)) : Raw → Option Instr) ({ mkRaw m 1 0 (pack (Reg.code d) (Reg.code a) (Src.code b)) with lit := b.word, pc := 0 } : Raw) = _
    simp [mkRaw, Raw.mods]
  · intro hp; rfl
  · intro r hr
    have hr' : rowOf (1 : BitVec 3) (0 : BitVec 6) = some (fRegRegSrc) := rfl
    obtain rfl := Option.some.inj (hr'.symm.trans hr)
    simp [takesLit, Opnd.mayLit, mkRaw, reg_code_ne, fRegRegSrc]

theorem fsub (m : Mods) (d a : Reg) (b : Src) : Statement (.fsub m d a b) := by
  intro x h hw
  obtain rfl := Option.some.inj h
  refine ⟨?_, ?_, ?_⟩
  · show (fun x => (do return .fsub x.mods (← regOf x.d) (← regOf x.a) (← srcOf x.lit x.b)) : Raw → Option Instr) ({ mkRaw m 1 1 (pack (Reg.code d) (Reg.code a) (Src.code b)) with lit := b.word, pc := 0 } : Raw) = _
    simp [mkRaw, Raw.mods]
  · intro hp; rfl
  · intro r hr
    have hr' : rowOf (1 : BitVec 3) (1 : BitVec 6) = some (fRegRegSrc) := rfl
    obtain rfl := Option.some.inj (hr'.symm.trans hr)
    simp [takesLit, Opnd.mayLit, mkRaw, reg_code_ne, fRegRegSrc]

theorem fmul (m : Mods) (d a : Reg) (b : Src) : Statement (.fmul m d a b) := by
  intro x h hw
  obtain rfl := Option.some.inj h
  refine ⟨?_, ?_, ?_⟩
  · show (fun x => (do return .fmul x.mods (← regOf x.d) (← regOf x.a) (← srcOf x.lit x.b)) : Raw → Option Instr) ({ mkRaw m 1 2 (pack (Reg.code d) (Reg.code a) (Src.code b)) with lit := b.word, pc := 0 } : Raw) = _
    simp [mkRaw, Raw.mods]
  · intro hp; rfl
  · intro r hr
    have hr' : rowOf (1 : BitVec 3) (2 : BitVec 6) = some (fRegRegSrc) := rfl
    obtain rfl := Option.some.inj (hr'.symm.trans hr)
    simp [takesLit, Opnd.mayLit, mkRaw, reg_code_ne, fRegRegSrc]

theorem fma (m : Mods) (d a : Reg) (b : Src) : Statement (.fma m d a b) := by
  intro x h hw
  obtain rfl := Option.some.inj h
  refine ⟨?_, ?_, ?_⟩
  · show (fun x => (do return .fma x.mods (← regOf x.d) (← regOf x.a) (← srcOf x.lit x.b)) : Raw → Option Instr) ({ mkRaw m 1 3 (pack (Reg.code d) (Reg.code a) (Src.code b)) with lit := b.word, pc := 0 } : Raw) = _
    simp [mkRaw, Raw.mods]
  · intro hp; rfl
  · intro r hr
    have hr' : rowOf (1 : BitVec 3) (3 : BitVec 6) = some (fRegRegSrc) := rfl
    obtain rfl := Option.some.inj (hr'.symm.trans hr)
    simp [takesLit, Opnd.mayLit, mkRaw, reg_code_ne, fRegRegSrc]

theorem fmin (m : Mods) (d a : Reg) (b : Src) : Statement (.fmin m d a b) := by
  intro x h hw
  obtain rfl := Option.some.inj h
  refine ⟨?_, ?_, ?_⟩
  · show (fun x => (do return .fmin x.mods (← regOf x.d) (← regOf x.a) (← srcOf x.lit x.b)) : Raw → Option Instr) ({ mkRaw m 1 4 (pack (Reg.code d) (Reg.code a) (Src.code b)) with lit := b.word, pc := 0 } : Raw) = _
    simp [mkRaw, Raw.mods]
  · intro hp; rfl
  · intro r hr
    have hr' : rowOf (1 : BitVec 3) (4 : BitVec 6) = some (fRegRegSrc) := rfl
    obtain rfl := Option.some.inj (hr'.symm.trans hr)
    simp [takesLit, Opnd.mayLit, mkRaw, reg_code_ne, fRegRegSrc]

theorem fmax (m : Mods) (d a : Reg) (b : Src) : Statement (.fmax m d a b) := by
  intro x h hw
  obtain rfl := Option.some.inj h
  refine ⟨?_, ?_, ?_⟩
  · show (fun x => (do return .fmax x.mods (← regOf x.d) (← regOf x.a) (← srcOf x.lit x.b)) : Raw → Option Instr) ({ mkRaw m 1 5 (pack (Reg.code d) (Reg.code a) (Src.code b)) with lit := b.word, pc := 0 } : Raw) = _
    simp [mkRaw, Raw.mods]
  · intro hp; rfl
  · intro r hr
    have hr' : rowOf (1 : BitVec 3) (5 : BitVec 6) = some (fRegRegSrc) := rfl
    obtain rfl := Option.some.inj (hr'.symm.trans hr)
    simp [takesLit, Opnd.mayLit, mkRaw, reg_code_ne, fRegRegSrc]

theorem fabs (m : Mods) (d a : Reg) : Statement (.fabs m d a) := by
  intro x h hw
  obtain rfl := Option.some.inj h
  refine ⟨?_, ?_, ?_⟩
  · show (fun x => if x.b = 0 then (do return .fabs x.mods (← regOf x.d) (← regOf x.a)) else none : Raw → Option Instr) ((mkRaw m 1 6 (pack (Reg.code d) (Reg.code a) 0)) : Raw) = _
    simp [mkRaw, Raw.mods]
  · intro hp; rfl
  · intro r hr
    have hr' : rowOf (1 : BitVec 3) (6 : BitVec 6) = some (fRegRegZero) := rfl
    obtain rfl := Option.some.inj (hr'.symm.trans hr)
    simp [takesLit, Opnd.mayLit, mkRaw, reg_code_ne, fRegRegZero]

theorem fneg (m : Mods) (d a : Reg) : Statement (.fneg m d a) := by
  intro x h hw
  obtain rfl := Option.some.inj h
  refine ⟨?_, ?_, ?_⟩
  · show (fun x => if x.b = 0 then (do return .fneg x.mods (← regOf x.d) (← regOf x.a)) else none : Raw → Option Instr) ((mkRaw m 1 7 (pack (Reg.code d) (Reg.code a) 0)) : Raw) = _
    simp [mkRaw, Raw.mods]
  · intro hp; rfl
  · intro r hr
    have hr' : rowOf (1 : BitVec 3) (7 : BitVec 6) = some (fRegRegZero) := rfl
    obtain rfl := Option.some.inj (hr'.symm.trans hr)
    simp [takesLit, Opnd.mayLit, mkRaw, reg_code_ne, fRegRegZero]

theorem fcmpEq (m : Mods) (d : MaskReg) (a : Reg) (b : Src) : Statement (.fcmpEq m d a b) := by
  intro x h hw
  obtain rfl := Option.some.inj h
  refine ⟨?_, ?_, ?_⟩
  · show (fun x => (do return .fcmpEq x.mods (← maskOf x.d) (← regOf x.a) (← srcOf x.lit x.b)) : Raw → Option Instr) ({ mkRaw m 1 8 (pack (maskCode d) (Reg.code a) (Src.code b)) with lit := b.word, pc := 0 } : Raw) = _
    simp [mkRaw, Raw.mods]
  · intro hp; rfl
  · intro r hr
    have hr' : rowOf (1 : BitVec 3) (8 : BitVec 6) = some (fMaskdRegSrc2) := rfl
    obtain rfl := Option.some.inj (hr'.symm.trans hr)
    simp [takesLit, Opnd.mayLit, mkRaw, reg_code_ne, fMaskdRegSrc2]

theorem fcmpLt (m : Mods) (d : MaskReg) (a : Reg) (b : Src) : Statement (.fcmpLt m d a b) := by
  intro x h hw
  obtain rfl := Option.some.inj h
  refine ⟨?_, ?_, ?_⟩
  · show (fun x => (do return .fcmpLt x.mods (← maskOf x.d) (← regOf x.a) (← srcOf x.lit x.b)) : Raw → Option Instr) ({ mkRaw m 1 9 (pack (maskCode d) (Reg.code a) (Src.code b)) with lit := b.word, pc := 0 } : Raw) = _
    simp [mkRaw, Raw.mods]
  · intro hp; rfl
  · intro r hr
    have hr' : rowOf (1 : BitVec 3) (9 : BitVec 6) = some (fMaskdRegSrc2) := rfl
    obtain rfl := Option.some.inj (hr'.symm.trans hr)
    simp [takesLit, Opnd.mayLit, mkRaw, reg_code_ne, fMaskdRegSrc2]

theorem fcmpLe (m : Mods) (d : MaskReg) (a : Reg) (b : Src) : Statement (.fcmpLe m d a b) := by
  intro x h hw
  obtain rfl := Option.some.inj h
  refine ⟨?_, ?_, ?_⟩
  · show (fun x => (do return .fcmpLe x.mods (← maskOf x.d) (← regOf x.a) (← srcOf x.lit x.b)) : Raw → Option Instr) ({ mkRaw m 1 10 (pack (maskCode d) (Reg.code a) (Src.code b)) with lit := b.word, pc := 0 } : Raw) = _
    simp [mkRaw, Raw.mods]
  · intro hp; rfl
  · intro r hr
    have hr' : rowOf (1 : BitVec 3) (10 : BitVec 6) = some (fMaskdRegSrc2) := rfl
    obtain rfl := Option.some.inj (hr'.symm.trans hr)
    simp [takesLit, Opnd.mayLit, mkRaw, reg_code_ne, fMaskdRegSrc2]

theorem fcmpUn (m : Mods) (d : MaskReg) (a : Reg) (b : Src) : Statement (.fcmpUn m d a b) := by
  intro x h hw
  obtain rfl := Option.some.inj h
  refine ⟨?_, ?_, ?_⟩
  · show (fun x => (do return .fcmpUn x.mods (← maskOf x.d) (← regOf x.a) (← srcOf x.lit x.b)) : Raw → Option Instr) ({ mkRaw m 1 11 (pack (maskCode d) (Reg.code a) (Src.code b)) with lit := b.word, pc := 0 } : Raw) = _
    simp [mkRaw, Raw.mods]
  · intro hp; rfl
  · intro r hr
    have hr' : rowOf (1 : BitVec 3) (11 : BitVec 6) = some (fMaskdRegSrc2) := rfl
    obtain rfl := Option.some.inj (hr'.symm.trans hr)
    simp [takesLit, Opnd.mayLit, mkRaw, reg_code_ne, fMaskdRegSrc2]

theorem frnd (m : Mods) (d a : Reg) : Statement (.frnd m d a) := by
  intro x h hw
  obtain rfl := Option.some.inj h
  refine ⟨?_, ?_, ?_⟩
  · show (fun x => if x.b = 0 then (do return .frnd x.mods (← regOf x.d) (← regOf x.a)) else none : Raw → Option Instr) ((mkRaw m 1 12 (pack (Reg.code d) (Reg.code a) 0)) : Raw) = _
    simp [mkRaw, Raw.mods]
  · intro hp; rfl
  · intro r hr
    have hr' : rowOf (1 : BitVec 3) (12 : BitVec 6) = some (fRegRegZero) := rfl
    obtain rfl := Option.some.inj (hr'.symm.trans hr)
    simp [takesLit, Opnd.mayLit, mkRaw, reg_code_ne, fRegRegZero]

theorem fclass (m : Mods) (d a : Reg) : Statement (.fclass m d a) := by
  intro x h hw
  obtain rfl := Option.some.inj h
  refine ⟨?_, ?_, ?_⟩
  · show (fun x => if x.b = 0 then (do return .fclass x.mods (← regOf x.d) (← regOf x.a)) else none : Raw → Option Instr) ((mkRaw m 1 13 (pack (Reg.code d) (Reg.code a) 0)) : Raw) = _
    simp [mkRaw, Raw.mods]
  · intro hp; rfl
  · intro r hr
    have hr' : rowOf (1 : BitVec 3) (13 : BitVec 6) = some (fRegRegZero) := rfl
    obtain rfl := Option.some.inj (hr'.symm.trans hr)
    simp [takesLit, Opnd.mayLit, mkRaw, reg_code_ne, fRegRegZero]

theorem fscale (m : Mods) (d a : Reg) (b : Src) : Statement (.fscale m d a b) := by
  intro x h hw
  obtain rfl := Option.some.inj h
  refine ⟨?_, ?_, ?_⟩
  · show (fun x => (do return .fscale x.mods (← regOf x.d) (← regOf x.a) (← srcOf x.lit x.b)) : Raw → Option Instr) ({ mkRaw m 1 14 (pack (Reg.code d) (Reg.code a) (Src.code b)) with lit := b.word, pc := 0 } : Raw) = _
    simp [mkRaw, Raw.mods]
  · intro hp; rfl
  · intro r hr
    have hr' : rowOf (1 : BitVec 3) (14 : BitVec 6) = some (fRegRegSrc) := rfl
    obtain rfl := Option.some.inj (hr'.symm.trans hr)
    simp [takesLit, Opnd.mayLit, mkRaw, reg_code_ne, fRegRegSrc]

theorem fcopysign (m : Mods) (d a : Reg) (b : Src) : Statement (.fcopysign m d a b) := by
  intro x h hw
  obtain rfl := Option.some.inj h
  refine ⟨?_, ?_, ?_⟩
  · show (fun x => (do return .fcopysign x.mods (← regOf x.d) (← regOf x.a) (← srcOf x.lit x.b)) : Raw → Option Instr) ({ mkRaw m 1 15 (pack (Reg.code d) (Reg.code a) (Src.code b)) with lit := b.word, pc := 0 } : Raw) = _
    simp [mkRaw, Raw.mods]
  · intro hp; rfl
  · intro r hr
    have hr' : rowOf (1 : BitVec 3) (15 : BitVec 6) = some (fRegRegSrc) := rfl
    obtain rfl := Option.some.inj (hr'.symm.trans hr)
    simp [takesLit, Opnd.mayLit, mkRaw, reg_code_ne, fRegRegSrc]

theorem hadd2Bf (m : Mods) (d a : Reg) (b : Src) : Statement (.hadd2Bf m d a b) := by
  intro x h hw
  obtain rfl := Option.some.inj h
  refine ⟨?_, ?_, ?_⟩
  · show (fun x => (do return .hadd2Bf x.mods (← regOf x.d) (← regOf x.a) (← srcOf x.lit x.b)) : Raw → Option Instr) ({ mkRaw m 1 16 (pack (Reg.code d) (Reg.code a) (Src.code b)) with lit := b.word, pc := 0 } : Raw) = _
    simp [mkRaw, Raw.mods]
  · intro hp; rfl
  · intro r hr
    have hr' : rowOf (1 : BitVec 3) (16 : BitVec 6) = some (fRegRegSrc) := rfl
    obtain rfl := Option.some.inj (hr'.symm.trans hr)
    simp [takesLit, Opnd.mayLit, mkRaw, reg_code_ne, fRegRegSrc]

theorem hadd2Hf (m : Mods) (d a : Reg) (b : Src) : Statement (.hadd2Hf m d a b) := by
  intro x h hw
  obtain rfl := Option.some.inj h
  refine ⟨?_, ?_, ?_⟩
  · show (fun x => (do return .hadd2Hf x.mods (← regOf x.d) (← regOf x.a) (← srcOf x.lit x.b)) : Raw → Option Instr) ({ mkRaw m 1 17 (pack (Reg.code d) (Reg.code a) (Src.code b)) with lit := b.word, pc := 0 } : Raw) = _
    simp [mkRaw, Raw.mods]
  · intro hp; rfl
  · intro r hr
    have hr' : rowOf (1 : BitVec 3) (17 : BitVec 6) = some (fRegRegSrc) := rfl
    obtain rfl := Option.some.inj (hr'.symm.trans hr)
    simp [takesLit, Opnd.mayLit, mkRaw, reg_code_ne, fRegRegSrc]

theorem hmul2Bf (m : Mods) (d a : Reg) (b : Src) : Statement (.hmul2Bf m d a b) := by
  intro x h hw
  obtain rfl := Option.some.inj h
  refine ⟨?_, ?_, ?_⟩
  · show (fun x => (do return .hmul2Bf x.mods (← regOf x.d) (← regOf x.a) (← srcOf x.lit x.b)) : Raw → Option Instr) ({ mkRaw m 1 18 (pack (Reg.code d) (Reg.code a) (Src.code b)) with lit := b.word, pc := 0 } : Raw) = _
    simp [mkRaw, Raw.mods]
  · intro hp; rfl
  · intro r hr
    have hr' : rowOf (1 : BitVec 3) (18 : BitVec 6) = some (fRegRegSrc) := rfl
    obtain rfl := Option.some.inj (hr'.symm.trans hr)
    simp [takesLit, Opnd.mayLit, mkRaw, reg_code_ne, fRegRegSrc]

theorem hmul2Hf (m : Mods) (d a : Reg) (b : Src) : Statement (.hmul2Hf m d a b) := by
  intro x h hw
  obtain rfl := Option.some.inj h
  refine ⟨?_, ?_, ?_⟩
  · show (fun x => (do return .hmul2Hf x.mods (← regOf x.d) (← regOf x.a) (← srcOf x.lit x.b)) : Raw → Option Instr) ({ mkRaw m 1 19 (pack (Reg.code d) (Reg.code a) (Src.code b)) with lit := b.word, pc := 0 } : Raw) = _
    simp [mkRaw, Raw.mods]
  · intro hp; rfl
  · intro r hr
    have hr' : rowOf (1 : BitVec 3) (19 : BitVec 6) = some (fRegRegSrc) := rfl
    obtain rfl := Option.some.inj (hr'.symm.trans hr)
    simp [takesLit, Opnd.mayLit, mkRaw, reg_code_ne, fRegRegSrc]

theorem hfma2Bf (m : Mods) (d a : Reg) (b : Src) : Statement (.hfma2Bf m d a b) := by
  intro x h hw
  obtain rfl := Option.some.inj h
  refine ⟨?_, ?_, ?_⟩
  · show (fun x => (do return .hfma2Bf x.mods (← regOf x.d) (← regOf x.a) (← srcOf x.lit x.b)) : Raw → Option Instr) ({ mkRaw m 1 20 (pack (Reg.code d) (Reg.code a) (Src.code b)) with lit := b.word, pc := 0 } : Raw) = _
    simp [mkRaw, Raw.mods]
  · intro hp; rfl
  · intro r hr
    have hr' : rowOf (1 : BitVec 3) (20 : BitVec 6) = some (fRegRegSrc) := rfl
    obtain rfl := Option.some.inj (hr'.symm.trans hr)
    simp [takesLit, Opnd.mayLit, mkRaw, reg_code_ne, fRegRegSrc]

theorem hfma2Hf (m : Mods) (d a : Reg) (b : Src) : Statement (.hfma2Hf m d a b) := by
  intro x h hw
  obtain rfl := Option.some.inj h
  refine ⟨?_, ?_, ?_⟩
  · show (fun x => (do return .hfma2Hf x.mods (← regOf x.d) (← regOf x.a) (← srcOf x.lit x.b)) : Raw → Option Instr) ({ mkRaw m 1 21 (pack (Reg.code d) (Reg.code a) (Src.code b)) with lit := b.word, pc := 0 } : Raw) = _
    simp [mkRaw, Raw.mods]
  · intro hp; rfl
  · intro r hr
    have hr' : rowOf (1 : BitVec 3) (21 : BitVec 6) = some (fRegRegSrc) := rfl
    obtain rfl := Option.some.inj (hr'.symm.trans hr)
    simp [takesLit, Opnd.mayLit, mkRaw, reg_code_ne, fRegRegSrc]

theorem hmin2Bf (m : Mods) (d a : Reg) (b : Src) : Statement (.hmin2Bf m d a b) := by
  intro x h hw
  obtain rfl := Option.some.inj h
  refine ⟨?_, ?_, ?_⟩
  · show (fun x => (do return .hmin2Bf x.mods (← regOf x.d) (← regOf x.a) (← srcOf x.lit x.b)) : Raw → Option Instr) ({ mkRaw m 1 22 (pack (Reg.code d) (Reg.code a) (Src.code b)) with lit := b.word, pc := 0 } : Raw) = _
    simp [mkRaw, Raw.mods]
  · intro hp; rfl
  · intro r hr
    have hr' : rowOf (1 : BitVec 3) (22 : BitVec 6) = some (fRegRegSrc) := rfl
    obtain rfl := Option.some.inj (hr'.symm.trans hr)
    simp [takesLit, Opnd.mayLit, mkRaw, reg_code_ne, fRegRegSrc]

theorem hmax2Bf (m : Mods) (d a : Reg) (b : Src) : Statement (.hmax2Bf m d a b) := by
  intro x h hw
  obtain rfl := Option.some.inj h
  refine ⟨?_, ?_, ?_⟩
  · show (fun x => (do return .hmax2Bf x.mods (← regOf x.d) (← regOf x.a) (← srcOf x.lit x.b)) : Raw → Option Instr) ({ mkRaw m 1 23 (pack (Reg.code d) (Reg.code a) (Src.code b)) with lit := b.word, pc := 0 } : Raw) = _
    simp [mkRaw, Raw.mods]
  · intro hp; rfl
  · intro r hr
    have hr' : rowOf (1 : BitVec 3) (23 : BitVec 6) = some (fRegRegSrc) := rfl
    obtain rfl := Option.some.inj (hr'.symm.trans hr)
    simp [takesLit, Opnd.mayLit, mkRaw, reg_code_ne, fRegRegSrc]

theorem hdot2Bf (m : Mods) (d a : Reg) (b : Src) : Statement (.hdot2Bf m d a b) := by
  intro x h hw
  obtain rfl := Option.some.inj h
  refine ⟨?_, ?_, ?_⟩
  · show (fun x => (do return .hdot2Bf x.mods (← regOf x.d) (← regOf x.a) (← srcOf x.lit x.b)) : Raw → Option Instr) ({ mkRaw m 1 24 (pack (Reg.code d) (Reg.code a) (Src.code b)) with lit := b.word, pc := 0 } : Raw) = _
    simp [mkRaw, Raw.mods]
  · intro hp; rfl
  · intro r hr
    have hr' : rowOf (1 : BitVec 3) (24 : BitVec 6) = some (fRegRegSrc) := rfl
    obtain rfl := Option.some.inj (hr'.symm.trans hr)
    simp [takesLit, Opnd.mayLit, mkRaw, reg_code_ne, fRegRegSrc]

theorem hdot2Hf (m : Mods) (d a : Reg) (b : Src) : Statement (.hdot2Hf m d a b) := by
  intro x h hw
  obtain rfl := Option.some.inj h
  refine ⟨?_, ?_, ?_⟩
  · show (fun x => (do return .hdot2Hf x.mods (← regOf x.d) (← regOf x.a) (← srcOf x.lit x.b)) : Raw → Option Instr) ({ mkRaw m 1 25 (pack (Reg.code d) (Reg.code a) (Src.code b)) with lit := b.word, pc := 0 } : Raw) = _
    simp [mkRaw, Raw.mods]
  · intro hp; rfl
  · intro r hr
    have hr' : rowOf (1 : BitVec 3) (25 : BitVec 6) = some (fRegRegSrc) := rfl
    obtain rfl := Option.some.inj (hr'.symm.trans hr)
    simp [takesLit, Opnd.mayLit, mkRaw, reg_code_ne, fRegRegSrc]

theorem f8dot4E4 (m : Mods) (d a : Reg) (b : Src) : Statement (.f8dot4E4 m d a b) := by
  intro x h hw
  obtain rfl := Option.some.inj h
  refine ⟨?_, ?_, ?_⟩
  · show (fun x => (do return .f8dot4E4 x.mods (← regOf x.d) (← regOf x.a) (← srcOf x.lit x.b)) : Raw → Option Instr) ({ mkRaw m 1 26 (pack (Reg.code d) (Reg.code a) (Src.code b)) with lit := b.word, pc := 0 } : Raw) = _
    simp [mkRaw, Raw.mods]
  · intro hp; rfl
  · intro r hr
    have hr' : rowOf (1 : BitVec 3) (26 : BitVec 6) = some (fRegRegSrc) := rfl
    obtain rfl := Option.some.inj (hr'.symm.trans hr)
    simp [takesLit, Opnd.mayLit, mkRaw, reg_code_ne, fRegRegSrc]

theorem f8dot4E5 (m : Mods) (d a : Reg) (b : Src) : Statement (.f8dot4E5 m d a b) := by
  intro x h hw
  obtain rfl := Option.some.inj h
  refine ⟨?_, ?_, ?_⟩
  · show (fun x => (do return .f8dot4E5 x.mods (← regOf x.d) (← regOf x.a) (← srcOf x.lit x.b)) : Raw → Option Instr) ({ mkRaw m 1 27 (pack (Reg.code d) (Reg.code a) (Src.code b)) with lit := b.word, pc := 0 } : Raw) = _
    simp [mkRaw, Raw.mods]
  · intro hp; rfl
  · intro r hr
    have hr' : rowOf (1 : BitVec 3) (27 : BitVec 6) = some (fRegRegSrc) := rfl
    obtain rfl := Option.some.inj (hr'.symm.trans hr)
    simp [takesLit, Opnd.mayLit, mkRaw, reg_code_ne, fRegRegSrc]

theorem fminP (m : Mods) (d a : Reg) (b : Src) : Statement (.fminP m d a b) := by
  intro x h hw
  obtain rfl := Option.some.inj h
  refine ⟨?_, ?_, ?_⟩
  · show (fun x => (do return .fminP x.mods (← regOf x.d) (← regOf x.a) (← srcOf x.lit x.b)) : Raw → Option Instr) ({ mkRaw m 1 28 (pack (Reg.code d) (Reg.code a) (Src.code b)) with lit := b.word, pc := 0 } : Raw) = _
    simp [mkRaw, Raw.mods]
  · intro hp; rfl
  · intro r hr
    have hr' : rowOf (1 : BitVec 3) (28 : BitVec 6) = some (fRegRegSrc) := rfl
    obtain rfl := Option.some.inj (hr'.symm.trans hr)
    simp [takesLit, Opnd.mayLit, mkRaw, reg_code_ne, fRegRegSrc]

theorem fmaxP (m : Mods) (d a : Reg) (b : Src) : Statement (.fmaxP m d a b) := by
  intro x h hw
  obtain rfl := Option.some.inj h
  refine ⟨?_, ?_, ?_⟩
  · show (fun x => (do return .fmaxP x.mods (← regOf x.d) (← regOf x.a) (← srcOf x.lit x.b)) : Raw → Option Instr) ({ mkRaw m 1 29 (pack (Reg.code d) (Reg.code a) (Src.code b)) with lit := b.word, pc := 0 } : Raw) = _
    simp [mkRaw, Raw.mods]
  · intro hp; rfl
  · intro r hr
    have hr' : rowOf (1 : BitVec 3) (29 : BitVec 6) = some (fRegRegSrc) := rfl
    obtain rfl := Option.some.inj (hr'.symm.trans hr)
    simp [takesLit, Opnd.mayLit, mkRaw, reg_code_ne, fRegRegSrc]

theorem rcp (m : Mods) (d a : Reg) : Statement (.rcp m d a) := by
  intro x h hw
  obtain rfl := Option.some.inj h
  refine ⟨?_, ?_, ?_⟩
  · show (fun x => if x.b = 0 then (do return .rcp x.mods (← regOf x.d) (← regOf x.a)) else none : Raw → Option Instr) ((mkRaw m 2 0 (pack (Reg.code d) (Reg.code a) 0)) : Raw) = _
    simp [mkRaw, Raw.mods]
  · intro hp; rfl
  · intro r hr
    have hr' : rowOf (2 : BitVec 3) (0 : BitVec 6) = some (fRegRegZero2) := rfl
    obtain rfl := Option.some.inj (hr'.symm.trans hr)
    simp [takesLit, Opnd.mayLit, mkRaw, reg_code_ne, fRegRegZero2]

theorem rsq (m : Mods) (d a : Reg) : Statement (.rsq m d a) := by
  intro x h hw
  obtain rfl := Option.some.inj h
  refine ⟨?_, ?_, ?_⟩
  · show (fun x => if x.b = 0 then (do return .rsq x.mods (← regOf x.d) (← regOf x.a)) else none : Raw → Option Instr) ((mkRaw m 2 1 (pack (Reg.code d) (Reg.code a) 0)) : Raw) = _
    simp [mkRaw, Raw.mods]
  · intro hp; rfl
  · intro r hr
    have hr' : rowOf (2 : BitVec 3) (1 : BitVec 6) = some (fRegRegZero2) := rfl
    obtain rfl := Option.some.inj (hr'.symm.trans hr)
    simp [takesLit, Opnd.mayLit, mkRaw, reg_code_ne, fRegRegZero2]

theorem sqrt (m : Mods) (d a : Reg) : Statement (.sqrt m d a) := by
  intro x h hw
  obtain rfl := Option.some.inj h
  refine ⟨?_, ?_, ?_⟩
  · show (fun x => if x.b = 0 then (do return .sqrt x.mods (← regOf x.d) (← regOf x.a)) else none : Raw → Option Instr) ((mkRaw m 2 2 (pack (Reg.code d) (Reg.code a) 0)) : Raw) = _
    simp [mkRaw, Raw.mods]
  · intro hp; rfl
  · intro r hr
    have hr' : rowOf (2 : BitVec 3) (2 : BitVec 6) = some (fRegRegZero2) := rfl
    obtain rfl := Option.some.inj (hr'.symm.trans hr)
    simp [takesLit, Opnd.mayLit, mkRaw, reg_code_ne, fRegRegZero2]

theorem ex2 (m : Mods) (d a : Reg) : Statement (.ex2 m d a) := by
  intro x h hw
  obtain rfl := Option.some.inj h
  refine ⟨?_, ?_, ?_⟩
  · show (fun x => if x.b = 0 then (do return .ex2 x.mods (← regOf x.d) (← regOf x.a)) else none : Raw → Option Instr) ((mkRaw m 2 3 (pack (Reg.code d) (Reg.code a) 0)) : Raw) = _
    simp [mkRaw, Raw.mods]
  · intro hp; rfl
  · intro r hr
    have hr' : rowOf (2 : BitVec 3) (3 : BitVec 6) = some (fRegRegZero2) := rfl
    obtain rfl := Option.some.inj (hr'.symm.trans hr)
    simp [takesLit, Opnd.mayLit, mkRaw, reg_code_ne, fRegRegZero2]

theorem lg2 (m : Mods) (d a : Reg) : Statement (.lg2 m d a) := by
  intro x h hw
  obtain rfl := Option.some.inj h
  refine ⟨?_, ?_, ?_⟩
  · show (fun x => if x.b = 0 then (do return .lg2 x.mods (← regOf x.d) (← regOf x.a)) else none : Raw → Option Instr) ((mkRaw m 2 4 (pack (Reg.code d) (Reg.code a) 0)) : Raw) = _
    simp [mkRaw, Raw.mods]
  · intro hp; rfl
  · intro r hr
    have hr' : rowOf (2 : BitVec 3) (4 : BitVec 6) = some (fRegRegZero2) := rfl
    obtain rfl := Option.some.inj (hr'.symm.trans hr)
    simp [takesLit, Opnd.mayLit, mkRaw, reg_code_ne, fRegRegZero2]

theorem sinT (m : Mods) (d a : Reg) : Statement (.sinT m d a) := by
  intro x h hw
  obtain rfl := Option.some.inj h
  refine ⟨?_, ?_, ?_⟩
  · show (fun x => if x.b = 0 then (do return .sinT x.mods (← regOf x.d) (← regOf x.a)) else none : Raw → Option Instr) ((mkRaw m 2 5 (pack (Reg.code d) (Reg.code a) 0)) : Raw) = _
    simp [mkRaw, Raw.mods]
  · intro hp; rfl
  · intro r hr
    have hr' : rowOf (2 : BitVec 3) (5 : BitVec 6) = some (fRegRegZero2) := rfl
    obtain rfl := Option.some.inj (hr'.symm.trans hr)
    simp [takesLit, Opnd.mayLit, mkRaw, reg_code_ne, fRegRegZero2]

theorem cosT (m : Mods) (d a : Reg) : Statement (.cosT m d a) := by
  intro x h hw
  obtain rfl := Option.some.inj h
  refine ⟨?_, ?_, ?_⟩
  · show (fun x => if x.b = 0 then (do return .cosT x.mods (← regOf x.d) (← regOf x.a)) else none : Raw → Option Instr) ((mkRaw m 2 6 (pack (Reg.code d) (Reg.code a) 0)) : Raw) = _
    simp [mkRaw, Raw.mods]
  · intro hp; rfl
  · intro r hr
    have hr' : rowOf (2 : BitVec 3) (6 : BitVec 6) = some (fRegRegZero2) := rfl
    obtain rfl := Option.some.inj (hr'.symm.trans hr)
    simp [takesLit, Opnd.mayLit, mkRaw, reg_code_ne, fRegRegZero2]

theorem tanh (m : Mods) (d a : Reg) : Statement (.tanh m d a) := by
  intro x h hw
  obtain rfl := Option.some.inj h
  refine ⟨?_, ?_, ?_⟩
  · show (fun x => if x.b = 0 then (do return .tanh x.mods (← regOf x.d) (← regOf x.a)) else none : Raw → Option Instr) ((mkRaw m 2 7 (pack (Reg.code d) (Reg.code a) 0)) : Raw) = _
    simp [mkRaw, Raw.mods]
  · intro hp; rfl
  · intro r hr
    have hr' : rowOf (2 : BitVec 3) (7 : BitVec 6) = some (fRegRegZero2) := rfl
    obtain rfl := Option.some.inj (hr'.symm.trans hr)
    simp [takesLit, Opnd.mayLit, mkRaw, reg_code_ne, fRegRegZero2]

theorem sigm (m : Mods) (d a : Reg) : Statement (.sigm m d a) := by
  intro x h hw
  obtain rfl := Option.some.inj h
  refine ⟨?_, ?_, ?_⟩
  · show (fun x => if x.b = 0 then (do return .sigm x.mods (← regOf x.d) (← regOf x.a)) else none : Raw → Option Instr) ((mkRaw m 2 8 (pack (Reg.code d) (Reg.code a) 0)) : Raw) = _
    simp [mkRaw, Raw.mods]
  · intro hp; rfl
  · intro r hr
    have hr' : rowOf (2 : BitVec 3) (8 : BitVec 6) = some (fRegRegZero2) := rfl
    obtain rfl := Option.some.inj (hr'.symm.trans hr)
    simp [takesLit, Opnd.mayLit, mkRaw, reg_code_ne, fRegRegZero2]

theorem fdiv (m : Mods) (d a : Reg) (b : Src) : Statement (.fdiv m d a b) := by
  intro x h hw
  obtain rfl := Option.some.inj h
  refine ⟨?_, ?_, ?_⟩
  · show (fun x => (do return .fdiv x.mods (← regOf x.d) (← regOf x.a) (← srcOf x.lit x.b)) : Raw → Option Instr) ({ mkRaw m 2 9 (pack (Reg.code d) (Reg.code a) (Src.code b)) with lit := b.word, pc := 0 } : Raw) = _
    simp [mkRaw, Raw.mods]
  · intro hp; rfl
  · intro r hr
    have hr' : rowOf (2 : BitVec 3) (9 : BitVec 6) = some ({ layout := (.dab .reg .reg .src), uni := true, rep := true, pol := true, flag := .b, writes := true }) := rfl
    obtain rfl := Option.some.inj (hr'.symm.trans hr)
    simp [takesLit, Opnd.mayLit, mkRaw, reg_code_ne]

theorem cvtFI (m : Mods) (d a : Reg) : Statement (.cvtFI m d a) := by
  intro x h hw
  obtain rfl := Option.some.inj h
  refine ⟨?_, ?_, ?_⟩
  · show (fun x => if x.b = 0 then (do return .cvtFI x.mods (← regOf x.d) (← regOf x.a)) else none : Raw → Option Instr) ((mkRaw m 2 16 (pack (Reg.code d) (Reg.code a) 0)) : Raw) = _
    simp [mkRaw, Raw.mods]
  · intro hp; rfl
  · intro r hr
    have hr' : rowOf (2 : BitVec 3) (16 : BitVec 6) = some (fRegRegZero) := rfl
    obtain rfl := Option.some.inj (hr'.symm.trans hr)
    simp [takesLit, Opnd.mayLit, mkRaw, reg_code_ne, fRegRegZero]

theorem cvtFN (m : Mods) (d a : Reg) : Statement (.cvtFN m d a) := by
  intro x h hw
  obtain rfl := Option.some.inj h
  refine ⟨?_, ?_, ?_⟩
  · show (fun x => if x.b = 0 then (do return .cvtFN x.mods (← regOf x.d) (← regOf x.a)) else none : Raw → Option Instr) ((mkRaw m 2 17 (pack (Reg.code d) (Reg.code a) 0)) : Raw) = _
    simp [mkRaw, Raw.mods]
  · intro hp; rfl
  · intro r hr
    have hr' : rowOf (2 : BitVec 3) (17 : BitVec 6) = some (fRegRegZero) := rfl
    obtain rfl := Option.some.inj (hr'.symm.trans hr)
    simp [takesLit, Opnd.mayLit, mkRaw, reg_code_ne, fRegRegZero]

theorem cvtIF (m : Mods) (d a : Reg) : Statement (.cvtIF m d a) := by
  intro x h hw
  obtain rfl := Option.some.inj h
  refine ⟨?_, ?_, ?_⟩
  · show (fun x => if x.b = 0 then (do return .cvtIF x.mods (← regOf x.d) (← regOf x.a)) else none : Raw → Option Instr) ((mkRaw m 2 18 (pack (Reg.code d) (Reg.code a) 0)) : Raw) = _
    simp [mkRaw, Raw.mods]
  · intro hp; rfl
  · intro r hr
    have hr' : rowOf (2 : BitVec 3) (18 : BitVec 6) = some (fRegRegZero) := rfl
    obtain rfl := Option.some.inj (hr'.symm.trans hr)
    simp [takesLit, Opnd.mayLit, mkRaw, reg_code_ne, fRegRegZero]

theorem cvtNF (m : Mods) (d a : Reg) : Statement (.cvtNF m d a) := by
  intro x h hw
  obtain rfl := Option.some.inj h
  refine ⟨?_, ?_, ?_⟩
  · show (fun x => if x.b = 0 then (do return .cvtNF x.mods (← regOf x.d) (← regOf x.a)) else none : Raw → Option Instr) ((mkRaw m 2 19 (pack (Reg.code d) (Reg.code a) 0)) : Raw) = _
    simp [mkRaw, Raw.mods]
  · intro hp; rfl
  · intro r hr
    have hr' : rowOf (2 : BitVec 3) (19 : BitVec 6) = some (fRegRegZero) := rfl
    obtain rfl := Option.some.inj (hr'.symm.trans hr)
    simp [takesLit, Opnd.mayLit, mkRaw, reg_code_ne, fRegRegZero]

theorem cvt2Bf (m : Mods) (d a : Reg) (b : Src) : Statement (.cvt2Bf m d a b) := by
  intro x h hw
  obtain rfl := Option.some.inj h
  refine ⟨?_, ?_, ?_⟩
  · show (fun x => (do return .cvt2Bf x.mods (← regOf x.d) (← regOf x.a) (← srcOf x.lit x.b)) : Raw → Option Instr) ({ mkRaw m 2 20 (pack (Reg.code d) (Reg.code a) (Src.code b)) with lit := b.word, pc := 0 } : Raw) = _
    simp [mkRaw, Raw.mods]
  · intro hp; rfl
  · intro r hr
    have hr' : rowOf (2 : BitVec 3) (20 : BitVec 6) = some (fRegRegSrc) := rfl
    obtain rfl := Option.some.inj (hr'.symm.trans hr)
    simp [takesLit, Opnd.mayLit, mkRaw, reg_code_ne, fRegRegSrc]

theorem cvt2Hf (m : Mods) (d a : Reg) (b : Src) : Statement (.cvt2Hf m d a b) := by
  intro x h hw
  obtain rfl := Option.some.inj h
  refine ⟨?_, ?_, ?_⟩
  · show (fun x => (do return .cvt2Hf x.mods (← regOf x.d) (← regOf x.a) (← srcOf x.lit x.b)) : Raw → Option Instr) ({ mkRaw m 2 21 (pack (Reg.code d) (Reg.code a) (Src.code b)) with lit := b.word, pc := 0 } : Raw) = _
    simp [mkRaw, Raw.mods]
  · intro hp; rfl
  · intro r hr
    have hr' : rowOf (2 : BitVec 3) (21 : BitVec 6) = some (fRegRegSrc) := rfl
    obtain rfl := Option.some.inj (hr'.symm.trans hr)
    simp [takesLit, Opnd.mayLit, mkRaw, reg_code_ne, fRegRegSrc]

theorem cvtFBfl (m : Mods) (d a : Reg) : Statement (.cvtFBfl m d a) := by
  intro x h hw
  obtain rfl := Option.some.inj h
  refine ⟨?_, ?_, ?_⟩
  · show (fun x => if x.b = 0 then (do return .cvtFBfl x.mods (← regOf x.d) (← regOf x.a)) else none : Raw → Option Instr) ((mkRaw m 2 22 (pack (Reg.code d) (Reg.code a) 0)) : Raw) = _
    simp [mkRaw, Raw.mods]
  · intro hp; rfl
  · intro r hr
    have hr' : rowOf (2 : BitVec 3) (22 : BitVec 6) = some (fRegRegZero) := rfl
    obtain rfl := Option.some.inj (hr'.symm.trans hr)
    simp [takesLit, Opnd.mayLit, mkRaw, reg_code_ne, fRegRegZero]

theorem cvtFBfh (m : Mods) (d a : Reg) : Statement (.cvtFBfh m d a) := by
  intro x h hw
  obtain rfl := Option.some.inj h
  refine ⟨?_, ?_, ?_⟩
  · show (fun x => if x.b = 0 then (do return .cvtFBfh x.mods (← regOf x.d) (← regOf x.a)) else none : Raw → Option Instr) ((mkRaw m 2 23 (pack (Reg.code d) (Reg.code a) 0)) : Raw) = _
    simp [mkRaw, Raw.mods]
  · intro hp; rfl
  · intro r hr
    have hr' : rowOf (2 : BitVec 3) (23 : BitVec 6) = some (fRegRegZero) := rfl
    obtain rfl := Option.some.inj (hr'.symm.trans hr)
    simp [takesLit, Opnd.mayLit, mkRaw, reg_code_ne, fRegRegZero]

theorem cvtFHfl (m : Mods) (d a : Reg) : Statement (.cvtFHfl m d a) := by
  intro x h hw
  obtain rfl := Option.some.inj h
  refine ⟨?_, ?_, ?_⟩
  · show (fun x => if x.b = 0 then (do return .cvtFHfl x.mods (← regOf x.d) (← regOf x.a)) else none : Raw → Option Instr) ((mkRaw m 2 24 (pack (Reg.code d) (Reg.code a) 0)) : Raw) = _
    simp [mkRaw, Raw.mods]
  · intro hp; rfl
  · intro r hr
    have hr' : rowOf (2 : BitVec 3) (24 : BitVec 6) = some (fRegRegZero) := rfl
    obtain rfl := Option.some.inj (hr'.symm.trans hr)
    simp [takesLit, Opnd.mayLit, mkRaw, reg_code_ne, fRegRegZero]

theorem cvtFHfh (m : Mods) (d a : Reg) : Statement (.cvtFHfh m d a) := by
  intro x h hw
  obtain rfl := Option.some.inj h
  refine ⟨?_, ?_, ?_⟩
  · show (fun x => if x.b = 0 then (do return .cvtFHfh x.mods (← regOf x.d) (← regOf x.a)) else none : Raw → Option Instr) ((mkRaw m 2 25 (pack (Reg.code d) (Reg.code a) 0)) : Raw) = _
    simp [mkRaw, Raw.mods]
  · intro hp; rfl
  · intro r hr
    have hr' : rowOf (2 : BitVec 3) (25 : BitVec 6) = some (fRegRegZero) := rfl
    obtain rfl := Option.some.inj (hr'.symm.trans hr)
    simp [takesLit, Opnd.mayLit, mkRaw, reg_code_ne, fRegRegZero]

theorem cvtE4 (m : Mods) (d a : Reg) : Statement (.cvtE4 m d a) := by
  intro x h hw
  obtain rfl := Option.some.inj h
  refine ⟨?_, ?_, ?_⟩
  · show (fun x => if x.b = 0 then (do return .cvtE4 x.mods (← regOf x.d) (← regOf x.a)) else none : Raw → Option Instr) ((mkRaw m 2 26 (pack (Reg.code d) (Reg.code a) 0)) : Raw) = _
    simp [mkRaw, Raw.mods]
  · intro hp; rfl
  · intro r hr
    have hr' : rowOf (2 : BitVec 3) (26 : BitVec 6) = some (fRegRegZero) := rfl
    obtain rfl := Option.some.inj (hr'.symm.trans hr)
    simp [takesLit, Opnd.mayLit, mkRaw, reg_code_ne, fRegRegZero]

theorem cvtE5 (m : Mods) (d a : Reg) : Statement (.cvtE5 m d a) := by
  intro x h hw
  obtain rfl := Option.some.inj h
  refine ⟨?_, ?_, ?_⟩
  · show (fun x => if x.b = 0 then (do return .cvtE5 x.mods (← regOf x.d) (← regOf x.a)) else none : Raw → Option Instr) ((mkRaw m 2 27 (pack (Reg.code d) (Reg.code a) 0)) : Raw) = _
    simp [mkRaw, Raw.mods]
  · intro hp; rfl
  · intro r hr
    have hr' : rowOf (2 : BitVec 3) (27 : BitVec 6) = some (fRegRegZero) := rfl
    obtain rfl := Option.some.inj (hr'.symm.trans hr)
    simp [takesLit, Opnd.mayLit, mkRaw, reg_code_ne, fRegRegZero]

theorem cvtFE4 (m : Mods) (d a : Reg) : Statement (.cvtFE4 m d a) := by
  intro x h hw
  obtain rfl := Option.some.inj h
  refine ⟨?_, ?_, ?_⟩
  · show (fun x => if x.b = 0 then (do return .cvtFE4 x.mods (← regOf x.d) (← regOf x.a)) else none : Raw → Option Instr) ((mkRaw m 2 28 (pack (Reg.code d) (Reg.code a) 0)) : Raw) = _
    simp [mkRaw, Raw.mods]
  · intro hp; rfl
  · intro r hr
    have hr' : rowOf (2 : BitVec 3) (28 : BitVec 6) = some (fRegRegZero) := rfl
    obtain rfl := Option.some.inj (hr'.symm.trans hr)
    simp [takesLit, Opnd.mayLit, mkRaw, reg_code_ne, fRegRegZero]

theorem cvtFE5 (m : Mods) (d a : Reg) : Statement (.cvtFE5 m d a) := by
  intro x h hw
  obtain rfl := Option.some.inj h
  refine ⟨?_, ?_, ?_⟩
  · show (fun x => if x.b = 0 then (do return .cvtFE5 x.mods (← regOf x.d) (← regOf x.a)) else none : Raw → Option Instr) ((mkRaw m 2 29 (pack (Reg.code d) (Reg.code a) 0)) : Raw) = _
    simp [mkRaw, Raw.mods]
  · intro hp; rfl
  · intro r hr
    have hr' : rowOf (2 : BitVec 3) (29 : BitVec 6) = some (fRegRegZero) := rfl
    obtain rfl := Option.some.inj (hr'.symm.trans hr)
    simp [takesLit, Opnd.mayLit, mkRaw, reg_code_ne, fRegRegZero]

theorem swp (m : Mods) (d a : Reg) (b : Src) : Statement (.swp m d a b) := by
  intro x h hw
  obtain rfl := Option.some.inj h
  refine ⟨?_, ?_, ?_⟩
  · show (fun x => (do return .swp x.mods (← regOf x.d) (← regOf x.a) (← srcOf x.lit x.b)) : Raw → Option Instr) ({ mkRaw m 2 32 (pack (Reg.code d) (Reg.code a) (Src.code b)) with lit := b.word, pc := 0 } : Raw) = _
    simp [mkRaw, Raw.mods]
  · intro hp; rfl
  · intro r hr
    have hr' : rowOf (2 : BitVec 3) (32 : BitVec 6) = some (fVecVecSrc) := rfl
    obtain rfl := Option.some.inj (hr'.symm.trans hr)
    simp [takesLit, Opnd.mayLit, mkRaw, reg_code_ne, fVecVecSrc]

theorem shfl (m : Mods) (d a : Reg) (b : Src) : Statement (.shfl m d a b) := by
  intro x h hw
  obtain rfl := Option.some.inj h
  refine ⟨?_, ?_, ?_⟩
  · show (fun x => (do return .shfl x.mods (← regOf x.d) (← regOf x.a) (← srcOf x.lit x.b)) : Raw → Option Instr) ({ mkRaw m 2 33 (pack (Reg.code d) (Reg.code a) (Src.code b)) with lit := b.word, pc := 0 } : Raw) = _
    simp [mkRaw, Raw.mods]
  · intro hp; rfl
  · intro r hr
    have hr' : rowOf (2 : BitVec 3) (33 : BitVec 6) = some (fVecVecSrc) := rfl
    obtain rfl := Option.some.inj (hr'.symm.trans hr)
    simp [takesLit, Opnd.mayLit, mkRaw, reg_code_ne, fVecVecSrc]

theorem rotw (m : Mods) (d a : Reg) (b : Src) : Statement (.rotw m d a b) := by
  intro x h hw
  obtain rfl := Option.some.inj h
  refine ⟨?_, ?_, ?_⟩
  · show (fun x => (do return .rotw x.mods (← regOf x.d) (← regOf x.a) (← srcOf x.lit x.b)) : Raw → Option Instr) ({ mkRaw m 2 34 (pack (Reg.code d) (Reg.code a) (Src.code b)) with lit := b.word, pc := 0 } : Raw) = _
    simp [mkRaw, Raw.mods]
  · intro hp; rfl
  · intro r hr
    have hr' : rowOf (2 : BitVec 3) (34 : BitVec 6) = some (fVecVecSrc) := rfl
    obtain rfl := Option.some.inj (hr'.symm.trans hr)
    simp [takesLit, Opnd.mayLit, mkRaw, reg_code_ne, fVecVecSrc]

theorem bcast (m : Mods) (d a : Reg) (b : Src) : Statement (.bcast m d a b) := by
  intro x h hw
  obtain rfl := Option.some.inj h
  refine ⟨?_, ?_, ?_⟩
  · show (fun x => (do return .bcast x.mods (← regOf x.d) (← regOf x.a) (← srcOf x.lit x.b)) : Raw → Option Instr) ({ mkRaw m 2 35 (pack (Reg.code d) (Reg.code a) (Src.code b)) with lit := b.word, pc := 0 } : Raw) = _
    simp [mkRaw, Raw.mods]
  · intro hp; rfl
  · intro r hr
    have hr' : rowOf (2 : BitVec 3) (35 : BitVec 6) = some ({ layout := (.dab .reg .vec .src), uniB := true, rep := true, pol := true, writes := true }) := rfl
    obtain rfl := Option.some.inj (hr'.symm.trans hr)
    simp [takesLit, Opnd.mayLit, mkRaw, reg_code_ne]

theorem voteAll (m : Mods) (d a : MaskReg) : Statement (.voteAll m d a) := by
  intro x h hw
  obtain rfl := Option.some.inj h
  refine ⟨?_, ?_, ?_⟩
  · show (fun x => if x.b = 0 then (do return .voteAll x.mods (← maskOf x.d) (← maskOf x.a)) else none : Raw → Option Instr) ((mkRaw m 2 36 (pack (maskCode d) (maskCode a) 0)) : Raw) = _
    simp [mkRaw, Raw.mods]
  · intro hp; rfl
  · intro r hr
    have hr' : rowOf (2 : BitVec 3) (36 : BitVec 6) = some (fMaskdMaskZero) := rfl
    obtain rfl := Option.some.inj (hr'.symm.trans hr)
    simp [takesLit, Opnd.mayLit, mkRaw, reg_code_ne, fMaskdMaskZero]

theorem voteAny (m : Mods) (d a : MaskReg) : Statement (.voteAny m d a) := by
  intro x h hw
  obtain rfl := Option.some.inj h
  refine ⟨?_, ?_, ?_⟩
  · show (fun x => if x.b = 0 then (do return .voteAny x.mods (← maskOf x.d) (← maskOf x.a)) else none : Raw → Option Instr) ((mkRaw m 2 37 (pack (maskCode d) (maskCode a) 0)) : Raw) = _
    simp [mkRaw, Raw.mods]
  · intro hp; rfl
  · intro r hr
    have hr' : rowOf (2 : BitVec 3) (37 : BitVec 6) = some (fMaskdMaskZero) := rfl
    obtain rfl := Option.some.inj (hr'.symm.trans hr)
    simp [takesLit, Opnd.mayLit, mkRaw, reg_code_ne, fMaskdMaskZero]

theorem ballot (m : Mods) (d : Reg) (a : MaskReg) : Statement (.ballot m d a) := by
  intro x h hw
  obtain rfl := Option.some.inj h
  refine ⟨?_, ?_, ?_⟩
  · show (fun x => if x.b = 0 then (do return .ballot x.mods (← regOf x.d) (← maskOf x.a)) else none : Raw → Option Instr) ((mkRaw m 2 38 (pack (Reg.code d) (maskCode a) 0)) : Raw) = _
    simp [mkRaw, Raw.mods]
  · intro hp; rfl
  · intro r hr
    have hr' : rowOf (2 : BitVec 3) (38 : BitVec 6) = some ({ layout := (.dab .pair .mask .zero), pol := true, writes := true }) := rfl
    obtain rfl := Option.some.inj (hr'.symm.trans hr)
    simp [takesLit, Opnd.mayLit, mkRaw, reg_code_ne]

theorem cmpr (m : Mods) (d a : Reg) : Statement (.cmpr m d a) := by
  intro x h hw
  obtain rfl := Option.some.inj h
  refine ⟨?_, ?_, ?_⟩
  · show (fun x => if x.b = 0 then (do return .cmpr x.mods (← regOf x.d) (← regOf x.a)) else none : Raw → Option Instr) ((mkRaw m 2 39 (pack (Reg.code d) (Reg.code a) 0)) : Raw) = _
    simp [mkRaw, Raw.mods]
  · intro hp; rfl
  · intro r hr
    have hr' : rowOf (2 : BitVec 3) (39 : BitVec 6) = some (fVecVecZero) := rfl
    obtain rfl := Option.some.inj (hr'.symm.trans hr)
    simp [takesLit, Opnd.mayLit, mkRaw, reg_code_ne, fVecVecZero]

theorem expd (m : Mods) (d a : Reg) : Statement (.expd m d a) := by
  intro x h hw
  obtain rfl := Option.some.inj h
  refine ⟨?_, ?_, ?_⟩
  · show (fun x => if x.b = 0 then (do return .expd x.mods (← regOf x.d) (← regOf x.a)) else none : Raw → Option Instr) ((mkRaw m 2 40 (pack (Reg.code d) (Reg.code a) 0)) : Raw) = _
    simp [mkRaw, Raw.mods]
  · intro hp; rfl
  · intro r hr
    have hr' : rowOf (2 : BitVec 3) (40 : BitVec 6) = some (fVecVecZero) := rfl
    obtain rfl := Option.some.inj (hr'.symm.trans hr)
    simp [takesLit, Opnd.mayLit, mkRaw, reg_code_ne, fVecVecZero]

theorem scanAdd (m : Mods) (d a : Reg) : Statement (.scanAdd m d a) := by
  intro x h hw
  obtain rfl := Option.some.inj h
  refine ⟨?_, ?_, ?_⟩
  · show (fun x => if x.b = 0 then (do return .scanAdd x.mods (← regOf x.d) (← regOf x.a)) else none : Raw → Option Instr) ((mkRaw m 2 41 (pack (Reg.code d) (Reg.code a) 0)) : Raw) = _
    simp [mkRaw, Raw.mods]
  · intro hp; rfl
  · intro r hr
    have hr' : rowOf (2 : BitVec 3) (41 : BitVec 6) = some (fVecVecZero) := rfl
    obtain rfl := Option.some.inj (hr'.symm.trans hr)
    simp [takesLit, Opnd.mayLit, mkRaw, reg_code_ne, fVecVecZero]

theorem scanFadd (m : Mods) (d a : Reg) : Statement (.scanFadd m d a) := by
  intro x h hw
  obtain rfl := Option.some.inj h
  refine ⟨?_, ?_, ?_⟩
  · show (fun x => if x.b = 0 then (do return .scanFadd x.mods (← regOf x.d) (← regOf x.a)) else none : Raw → Option Instr) ((mkRaw m 2 42 (pack (Reg.code d) (Reg.code a) 0)) : Raw) = _
    simp [mkRaw, Raw.mods]
  · intro hp; rfl
  · intro r hr
    have hr' : rowOf (2 : BitVec 3) (42 : BitVec 6) = some (fVecVecZero) := rfl
    obtain rfl := Option.some.inj (hr'.symm.trans hr)
    simp [takesLit, Opnd.mayLit, mkRaw, reg_code_ne, fVecVecZero]

theorem redAdd (m : Mods) (d a : Reg) : Statement (.redAdd m d a) := by
  intro x h hw
  obtain rfl := Option.some.inj h
  refine ⟨?_, ?_, ?_⟩
  · show (fun x => if x.b = 0 then (do return .redAdd x.mods (← regOf x.d) (← regOf x.a)) else none : Raw → Option Instr) ((mkRaw m 2 43 (pack (Reg.code d) (Reg.code a) 0)) : Raw) = _
    simp [mkRaw, Raw.mods]
  · intro hp; rfl
  · intro r hr
    have hr' : rowOf (2 : BitVec 3) (43 : BitVec 6) = some (fRegVecZero) := rfl
    obtain rfl := Option.some.inj (hr'.symm.trans hr)
    simp [takesLit, Opnd.mayLit, mkRaw, reg_code_ne, fRegVecZero]

theorem redFadd (m : Mods) (d a : Reg) : Statement (.redFadd m d a) := by
  intro x h hw
  obtain rfl := Option.some.inj h
  refine ⟨?_, ?_, ?_⟩
  · show (fun x => if x.b = 0 then (do return .redFadd x.mods (← regOf x.d) (← regOf x.a)) else none : Raw → Option Instr) ((mkRaw m 2 44 (pack (Reg.code d) (Reg.code a) 0)) : Raw) = _
    simp [mkRaw, Raw.mods]
  · intro hp; rfl
  · intro r hr
    have hr' : rowOf (2 : BitVec 3) (44 : BitVec 6) = some (fRegVecZero) := rfl
    obtain rfl := Option.some.inj (hr'.symm.trans hr)
    simp [takesLit, Opnd.mayLit, mkRaw, reg_code_ne, fRegVecZero]

theorem redMinI (m : Mods) (d a : Reg) : Statement (.redMinI m d a) := by
  intro x h hw
  obtain rfl := Option.some.inj h
  refine ⟨?_, ?_, ?_⟩
  · show (fun x => if x.b = 0 then (do return .redMinI x.mods (← regOf x.d) (← regOf x.a)) else none : Raw → Option Instr) ((mkRaw m 2 45 (pack (Reg.code d) (Reg.code a) 0)) : Raw) = _
    simp [mkRaw, Raw.mods]
  · intro hp; rfl
  · intro r hr
    have hr' : rowOf (2 : BitVec 3) (45 : BitVec 6) = some (fRegVecZero) := rfl
    obtain rfl := Option.some.inj (hr'.symm.trans hr)
    simp [takesLit, Opnd.mayLit, mkRaw, reg_code_ne, fRegVecZero]

theorem redMaxI (m : Mods) (d a : Reg) : Statement (.redMaxI m d a) := by
  intro x h hw
  obtain rfl := Option.some.inj h
  refine ⟨?_, ?_, ?_⟩
  · show (fun x => if x.b = 0 then (do return .redMaxI x.mods (← regOf x.d) (← regOf x.a)) else none : Raw → Option Instr) ((mkRaw m 2 46 (pack (Reg.code d) (Reg.code a) 0)) : Raw) = _
    simp [mkRaw, Raw.mods]
  · intro hp; rfl
  · intro r hr
    have hr' : rowOf (2 : BitVec 3) (46 : BitVec 6) = some (fRegVecZero) := rfl
    obtain rfl := Option.some.inj (hr'.symm.trans hr)
    simp [takesLit, Opnd.mayLit, mkRaw, reg_code_ne, fRegVecZero]

theorem redFmax (m : Mods) (d a : Reg) : Statement (.redFmax m d a) := by
  intro x h hw
  obtain rfl := Option.some.inj h
  refine ⟨?_, ?_, ?_⟩
  · show (fun x => if x.b = 0 then (do return .redFmax x.mods (← regOf x.d) (← regOf x.a)) else none : Raw → Option Instr) ((mkRaw m 2 47 (pack (Reg.code d) (Reg.code a) 0)) : Raw) = _
    simp [mkRaw, Raw.mods]
  · intro hp; rfl
  · intro r hr
    have hr' : rowOf (2 : BitVec 3) (47 : BitVec 6) = some (fRegVecZero) := rfl
    obtain rfl := Option.some.inj (hr'.symm.trans hr)
    simp [takesLit, Opnd.mayLit, mkRaw, reg_code_ne, fRegVecZero]

theorem redFmin (m : Mods) (d a : Reg) : Statement (.redFmin m d a) := by
  intro x h hw
  obtain rfl := Option.some.inj h
  refine ⟨?_, ?_, ?_⟩
  · show (fun x => if x.b = 0 then (do return .redFmin x.mods (← regOf x.d) (← regOf x.a)) else none : Raw → Option Instr) ((mkRaw m 2 48 (pack (Reg.code d) (Reg.code a) 0)) : Raw) = _
    simp [mkRaw, Raw.mods]
  · intro hp; rfl
  · intro r hr
    have hr' : rowOf (2 : BitVec 3) (48 : BitVec 6) = some (fRegVecZero) := rfl
    obtain rfl := Option.some.inj (hr'.symm.trans hr)
    simp [takesLit, Opnd.mayLit, mkRaw, reg_code_ne, fRegVecZero]

theorem ixr (m : Mods) (d a : Reg) : Statement (.ixr m d a) := by
  intro x h hw
  obtain rfl := Option.some.inj h
  refine ⟨?_, ?_, ?_⟩
  · show (fun x => if x.b = 0 then (do return .ixr x.mods (← regOf x.d) (← regOf x.a)) else none : Raw → Option Instr) ((mkRaw m 2 49 (pack (Reg.code d) (Reg.code a) 0)) : Raw) = _
    simp [mkRaw, Raw.mods]
  · intro hp; rfl
  · intro r hr
    have hr' : rowOf (2 : BitVec 3) (49 : BitVec 6) = some ({ layout := (.dab .vec .reg .zero), pol := true, writes := true }) := rfl
    obtain rfl := Option.some.inj (hr'.symm.trans hr)
    simp [takesLit, Opnd.mayLit, mkRaw, reg_code_ne]

theorem ixw (m : Mods) (a : Reg) (b : Src) : Statement (.ixw m a b) := by
  intro x h hw
  obtain rfl := Option.some.inj h
  refine ⟨?_, ?_, ?_⟩
  · show (fun x => if x.d = 0 then (do return .ixw x.mods (← regOf x.a) (← srcOf x.lit x.b)) else none : Raw → Option Instr) ({ mkRaw m 2 50 (pack 0 (Reg.code a) (Src.code b)) with lit := b.word, pc := 0 } : Raw) = _
    simp [mkRaw, Raw.mods]
  · intro hp; rfl
  · intro r hr
    have hr' : rowOf (2 : BitVec 3) (50 : BitVec 6) = some ({ layout := (.dab .zero .reg .src), pol := true }) := rfl
    obtain rfl := Option.some.inj (hr'.symm.trans hr)
    simp [takesLit, Opnd.mayLit, mkRaw, reg_code_ne]

theorem win (m : Mods) (b : Src) : Statement (.win m b) := by
  intro x h hw
  obtain rfl := Option.some.inj h
  refine ⟨?_, ?_, ?_⟩
  · show (fun x => if x.d = 0 ∧ x.a = 0 then (do return .win x.mods (← srcOf x.lit x.b)) else none : Raw → Option Instr) ({ mkRaw m 2 51 (pack 0 0 (Src.code b)) with lit := b.word, pc := 0 } : Raw) = _
    simp [mkRaw, Raw.mods]
  · intro hp; rfl
  · intro r hr
    have hr' : rowOf (2 : BitVec 3) (51 : BitVec 6) = some ({ layout := (.dab .zero .zero .srcUni), pol := true, pfx := false }) := rfl
    obtain rfl := Option.some.inj (hr'.symm.trans hr)
    simp [takesLit, Opnd.mayLit, mkRaw, reg_code_ne]

theorem tid (m : Mods) (d : Reg) (b : BitVec 7) : Statement (.tid m d b) := by
  intro x h hw
  obtain rfl := Option.some.inj h
  refine ⟨?_, ?_, ?_⟩
  · show (fun x => if x.a = 0 then (do return .tid x.mods (← regOf x.d) x.b) else none : Raw → Option Instr) ((mkRaw m 2 52 (pack (Reg.code d) 0 b)) : Raw) = _
    simp [mkRaw, Raw.mods]
  · intro hp; rfl
  · intro r hr
    have hr' : rowOf (2 : BitVec 3) (52 : BitVec 6) = some ({ layout := (.dab .reg .zero .tidSel), pol := true, writes := true }) := rfl
    obtain rfl := Option.some.inj (hr'.symm.trans hr)
    simp [takesLit, Opnd.mayLit, mkRaw, reg_code_ne]

theorem mand (m : Mods) (d a b : MaskReg) : Statement (.mand m d a b) := by
  intro x h hw
  obtain rfl := Option.some.inj h
  refine ⟨?_, ?_, ?_⟩
  · show (fun x => (do return .mand x.mods (← maskOf x.d) (← maskOf x.a) (← maskOf x.b)) : Raw → Option Instr) ((mkRaw m 2 53 (pack (maskCode d) (maskCode a) (maskCode b))) : Raw) = _
    simp [mkRaw, Raw.mods]
  · intro hp; rfl
  · intro r hr
    have hr' : rowOf (2 : BitVec 3) (53 : BitVec 6) = some (fMaskdMaskMask) := rfl
    obtain rfl := Option.some.inj (hr'.symm.trans hr)
    simp [takesLit, Opnd.mayLit, mkRaw, reg_code_ne, fMaskdMaskMask]

theorem mor (m : Mods) (d a b : MaskReg) : Statement (.mor m d a b) := by
  intro x h hw
  obtain rfl := Option.some.inj h
  refine ⟨?_, ?_, ?_⟩
  · show (fun x => (do return .mor x.mods (← maskOf x.d) (← maskOf x.a) (← maskOf x.b)) : Raw → Option Instr) ((mkRaw m 2 54 (pack (maskCode d) (maskCode a) (maskCode b))) : Raw) = _
    simp [mkRaw, Raw.mods]
  · intro hp; rfl
  · intro r hr
    have hr' : rowOf (2 : BitVec 3) (54 : BitVec 6) = some (fMaskdMaskMask) := rfl
    obtain rfl := Option.some.inj (hr'.symm.trans hr)
    simp [takesLit, Opnd.mayLit, mkRaw, reg_code_ne, fMaskdMaskMask]

theorem mxor (m : Mods) (d a b : MaskReg) : Statement (.mxor m d a b) := by
  intro x h hw
  obtain rfl := Option.some.inj h
  refine ⟨?_, ?_, ?_⟩
  · show (fun x => (do return .mxor x.mods (← maskOf x.d) (← maskOf x.a) (← maskOf x.b)) : Raw → Option Instr) ((mkRaw m 2 55 (pack (maskCode d) (maskCode a) (maskCode b))) : Raw) = _
    simp [mkRaw, Raw.mods]
  · intro hp; rfl
  · intro r hr
    have hr' : rowOf (2 : BitVec 3) (55 : BitVec 6) = some (fMaskdMaskMask) := rfl
    obtain rfl := Option.some.inj (hr'.symm.trans hr)
    simp [takesLit, Opnd.mayLit, mkRaw, reg_code_ne, fMaskdMaskMask]

theorem mnot (m : Mods) (d a : MaskReg) : Statement (.mnot m d a) := by
  intro x h hw
  obtain rfl := Option.some.inj h
  refine ⟨?_, ?_, ?_⟩
  · show (fun x => if x.b = 0 then (do return .mnot x.mods (← maskOf x.d) (← maskOf x.a)) else none : Raw → Option Instr) ((mkRaw m 2 56 (pack (maskCode d) (maskCode a) 0)) : Raw) = _
    simp [mkRaw, Raw.mods]
  · intro hp; rfl
  · intro r hr
    have hr' : rowOf (2 : BitVec 3) (56 : BitVec 6) = some (fMaskdMaskZero) := rfl
    obtain rfl := Option.some.inj (hr'.symm.trans hr)
    simp [takesLit, Opnd.mayLit, mkRaw, reg_code_ne, fMaskdMaskZero]

theorem m2v (m : Mods) (d : Reg) (a : MaskReg) : Statement (.m2v m d a) := by
  intro x h hw
  obtain rfl := Option.some.inj h
  refine ⟨?_, ?_, ?_⟩
  · show (fun x => if x.b = 0 then (do return .m2v x.mods (← regOf x.d) (← maskOf x.a)) else none : Raw → Option Instr) ((mkRaw m 2 57 (pack (Reg.code d) (maskCode a) 0)) : Raw) = _
    simp [mkRaw, Raw.mods]
  · intro hp; rfl
  · intro r hr
    have hr' : rowOf (2 : BitVec 3) (57 : BitVec 6) = some ({ layout := (.dab .vec .mask .zero), rep := true, pol := true, writes := true }) := rfl
    obtain rfl := Option.some.inj (hr'.symm.trans hr)
    simp [takesLit, Opnd.mayLit, mkRaw, reg_code_ne]

theorem v2m (m : Mods) (d : MaskReg) (a : Reg) : Statement (.v2m m d a) := by
  intro x h hw
  obtain rfl := Option.some.inj h
  refine ⟨?_, ?_, ?_⟩
  · show (fun x => if x.b = 0 then (do return .v2m x.mods (← maskOf x.d) (← regOf x.a)) else none : Raw → Option Instr) ((mkRaw m 2 58 (pack (maskCode d) (Reg.code a) 0)) : Raw) = _
    simp [mkRaw, Raw.mods]
  · intro hp; rfl
  · intro r hr
    have hr' : rowOf (2 : BitVec 3) (58 : BitVec 6) = some ({ layout := (.dab .maskD .vec .zero), pol := true, writes := true }) := rfl
    obtain rfl := Option.some.inj (hr'.symm.trans hr)
    simp [takesLit, Opnd.mayLit, mkRaw, reg_code_ne]

theorem ld8 (m : Mods) (d a : Reg) (b : Off) : Statement (.ld8 m d a b) := by
  intro x h hw
  obtain rfl := Option.some.inj h
  have ho : b.inField = true := off_in (wf_checks hw rfl (r := fRegPairOff) rfl).2 rfl (by simp [mkRaw]) rfl
  refine ⟨?_, ?_, ?_⟩
  · show (fun x => (do return .ld8 x.mods (← regOf x.d) (← regOf x.a) (← offOf x.lit x.b)) : Raw → Option Instr) ({ mkRaw m 3 0 (pack (Reg.code d) (Reg.code a) (Off.code b)) with lit := b.word, pc := 0 } : Raw) = _
    simp [mkRaw, Raw.mods, ho]
  · intro hp; rfl
  · intro r hr
    have hr' : rowOf (3 : BitVec 3) (0 : BitVec 6) = some (fRegPairOff) := rfl
    obtain rfl := Option.some.inj (hr'.symm.trans hr)
    simp [takesLit, Opnd.mayLit, mkRaw, reg_code_ne, fRegPairOff, off_code_lit ho]

theorem ld8s (m : Mods) (d a : Reg) (b : Off) : Statement (.ld8s m d a b) := by
  intro x h hw
  obtain rfl := Option.some.inj h
  have ho : b.inField = true := off_in (wf_checks hw rfl (r := fRegPairOff) rfl).2 rfl (by simp [mkRaw]) rfl
  refine ⟨?_, ?_, ?_⟩
  · show (fun x => (do return .ld8s x.mods (← regOf x.d) (← regOf x.a) (← offOf x.lit x.b)) : Raw → Option Instr) ({ mkRaw m 3 1 (pack (Reg.code d) (Reg.code a) (Off.code b)) with lit := b.word, pc := 0 } : Raw) = _
    simp [mkRaw, Raw.mods, ho]
  · intro hp; rfl
  · intro r hr
    have hr' : rowOf (3 : BitVec 3) (1 : BitVec 6) = some (fRegPairOff) := rfl
    obtain rfl := Option.some.inj (hr'.symm.trans hr)
    simp [takesLit, Opnd.mayLit, mkRaw, reg_code_ne, fRegPairOff, off_code_lit ho]

theorem ld16 (m : Mods) (d a : Reg) (b : Off) : Statement (.ld16 m d a b) := by
  intro x h hw
  obtain rfl := Option.some.inj h
  have ho : b.inField = true := off_in (wf_checks hw rfl (r := fRegPairOff) rfl).2 rfl (by simp [mkRaw]) rfl
  refine ⟨?_, ?_, ?_⟩
  · show (fun x => (do return .ld16 x.mods (← regOf x.d) (← regOf x.a) (← offOf x.lit x.b)) : Raw → Option Instr) ({ mkRaw m 3 2 (pack (Reg.code d) (Reg.code a) (Off.code b)) with lit := b.word, pc := 0 } : Raw) = _
    simp [mkRaw, Raw.mods, ho]
  · intro hp; rfl
  · intro r hr
    have hr' : rowOf (3 : BitVec 3) (2 : BitVec 6) = some (fRegPairOff) := rfl
    obtain rfl := Option.some.inj (hr'.symm.trans hr)
    simp [takesLit, Opnd.mayLit, mkRaw, reg_code_ne, fRegPairOff, off_code_lit ho]

theorem ld16s (m : Mods) (d a : Reg) (b : Off) : Statement (.ld16s m d a b) := by
  intro x h hw
  obtain rfl := Option.some.inj h
  have ho : b.inField = true := off_in (wf_checks hw rfl (r := fRegPairOff) rfl).2 rfl (by simp [mkRaw]) rfl
  refine ⟨?_, ?_, ?_⟩
  · show (fun x => (do return .ld16s x.mods (← regOf x.d) (← regOf x.a) (← offOf x.lit x.b)) : Raw → Option Instr) ({ mkRaw m 3 3 (pack (Reg.code d) (Reg.code a) (Off.code b)) with lit := b.word, pc := 0 } : Raw) = _
    simp [mkRaw, Raw.mods, ho]
  · intro hp; rfl
  · intro r hr
    have hr' : rowOf (3 : BitVec 3) (3 : BitVec 6) = some (fRegPairOff) := rfl
    obtain rfl := Option.some.inj (hr'.symm.trans hr)
    simp [takesLit, Opnd.mayLit, mkRaw, reg_code_ne, fRegPairOff, off_code_lit ho]

theorem ld32 (m : Mods) (d a : Reg) (b : Off) : Statement (.ld32 m d a b) := by
  intro x h hw
  obtain rfl := Option.some.inj h
  have ho : b.inField = true := off_in (wf_checks hw rfl (r := fRegPairOff) rfl).2 rfl (by simp [mkRaw]) rfl
  refine ⟨?_, ?_, ?_⟩
  · show (fun x => (do return .ld32 x.mods (← regOf x.d) (← regOf x.a) (← offOf x.lit x.b)) : Raw → Option Instr) ({ mkRaw m 3 4 (pack (Reg.code d) (Reg.code a) (Off.code b)) with lit := b.word, pc := 0 } : Raw) = _
    simp [mkRaw, Raw.mods, ho]
  · intro hp; rfl
  · intro r hr
    have hr' : rowOf (3 : BitVec 3) (4 : BitVec 6) = some (fRegPairOff) := rfl
    obtain rfl := Option.some.inj (hr'.symm.trans hr)
    simp [takesLit, Opnd.mayLit, mkRaw, reg_code_ne, fRegPairOff, off_code_lit ho]

theorem ld64 (m : Mods) (d a : Reg) (b : Off) : Statement (.ld64 m d a b) := by
  intro x h hw
  obtain rfl := Option.some.inj h
  have ho : b.inField = true := off_in (wf_checks hw rfl (r := { layout := (.dab .pair .pair .off), uni := true, pol := true, flag := .a, writes := true }) rfl).2 rfl (by simp [mkRaw]) rfl
  refine ⟨?_, ?_, ?_⟩
  · show (fun x => (do return .ld64 x.mods (← regOf x.d) (← regOf x.a) (← offOf x.lit x.b)) : Raw → Option Instr) ({ mkRaw m 3 5 (pack (Reg.code d) (Reg.code a) (Off.code b)) with lit := b.word, pc := 0 } : Raw) = _
    simp [mkRaw, Raw.mods, ho]
  · intro hp; rfl
  · intro r hr
    have hr' : rowOf (3 : BitVec 3) (5 : BitVec 6) = some ({ layout := (.dab .pair .pair .off), uni := true, pol := true, flag := .a, writes := true }) := rfl
    obtain rfl := Option.some.inj (hr'.symm.trans hr)
    simp [takesLit, Opnd.mayLit, mkRaw, reg_code_ne, off_code_lit ho]

theorem ld128 (m : Mods) (d a : Reg) (b : Off) : Statement (.ld128 m d a b) := by
  intro x h hw
  obtain rfl := Option.some.inj h
  have ho : b.inField = true := off_in (wf_checks hw rfl (r := { layout := (.dab .run4 .pair .off), pol := true, flag := .a, writes := true }) rfl).2 rfl (by simp [mkRaw]) rfl
  refine ⟨?_, ?_, ?_⟩
  · show (fun x => (do return .ld128 x.mods (← regOf x.d) (← regOf x.a) (← offOf x.lit x.b)) : Raw → Option Instr) ({ mkRaw m 3 6 (pack (Reg.code d) (Reg.code a) (Off.code b)) with lit := b.word, pc := 0 } : Raw) = _
    simp [mkRaw, Raw.mods, ho]
  · intro hp; rfl
  · intro r hr
    have hr' : rowOf (3 : BitVec 3) (6 : BitVec 6) = some ({ layout := (.dab .run4 .pair .off), pol := true, flag := .a, writes := true }) := rfl
    obtain rfl := Option.some.inj (hr'.symm.trans hr)
    simp [takesLit, Opnd.mayLit, mkRaw, reg_code_ne, off_code_lit ho]

theorem st8 (m : Mods) (d a : Reg) (b : Off) : Statement (.st8 m d a b) := by
  intro x h hw
  obtain rfl := Option.some.inj h
  have ho : b.inField = true := off_in (wf_checks hw rfl (r := fRegPairOff2) rfl).2 rfl (by simp [mkRaw]) rfl
  refine ⟨?_, ?_, ?_⟩
  · show (fun x => (do return .st8 x.mods (← regOf x.d) (← regOf x.a) (← offOf x.lit x.b)) : Raw → Option Instr) ({ mkRaw m 3 7 (pack (Reg.code d) (Reg.code a) (Off.code b)) with lit := b.word, pc := 0 } : Raw) = _
    simp [mkRaw, Raw.mods, ho]
  · intro hp; rfl
  · intro r hr
    have hr' : rowOf (3 : BitVec 3) (7 : BitVec 6) = some (fRegPairOff2) := rfl
    obtain rfl := Option.some.inj (hr'.symm.trans hr)
    simp [takesLit, Opnd.mayLit, mkRaw, reg_code_ne, fRegPairOff2, off_code_lit ho]

theorem st16 (m : Mods) (d a : Reg) (b : Off) : Statement (.st16 m d a b) := by
  intro x h hw
  obtain rfl := Option.some.inj h
  have ho : b.inField = true := off_in (wf_checks hw rfl (r := fRegPairOff2) rfl).2 rfl (by simp [mkRaw]) rfl
  refine ⟨?_, ?_, ?_⟩
  · show (fun x => (do return .st16 x.mods (← regOf x.d) (← regOf x.a) (← offOf x.lit x.b)) : Raw → Option Instr) ({ mkRaw m 3 8 (pack (Reg.code d) (Reg.code a) (Off.code b)) with lit := b.word, pc := 0 } : Raw) = _
    simp [mkRaw, Raw.mods, ho]
  · intro hp; rfl
  · intro r hr
    have hr' : rowOf (3 : BitVec 3) (8 : BitVec 6) = some (fRegPairOff2) := rfl
    obtain rfl := Option.some.inj (hr'.symm.trans hr)
    simp [takesLit, Opnd.mayLit, mkRaw, reg_code_ne, fRegPairOff2, off_code_lit ho]

theorem st32 (m : Mods) (d a : Reg) (b : Off) : Statement (.st32 m d a b) := by
  intro x h hw
  obtain rfl := Option.some.inj h
  have ho : b.inField = true := off_in (wf_checks hw rfl (r := fRegPairOff2) rfl).2 rfl (by simp [mkRaw]) rfl
  refine ⟨?_, ?_, ?_⟩
  · show (fun x => (do return .st32 x.mods (← regOf x.d) (← regOf x.a) (← offOf x.lit x.b)) : Raw → Option Instr) ({ mkRaw m 3 9 (pack (Reg.code d) (Reg.code a) (Off.code b)) with lit := b.word, pc := 0 } : Raw) = _
    simp [mkRaw, Raw.mods, ho]
  · intro hp; rfl
  · intro r hr
    have hr' : rowOf (3 : BitVec 3) (9 : BitVec 6) = some (fRegPairOff2) := rfl
    obtain rfl := Option.some.inj (hr'.symm.trans hr)
    simp [takesLit, Opnd.mayLit, mkRaw, reg_code_ne, fRegPairOff2, off_code_lit ho]

theorem st64 (m : Mods) (d a : Reg) (b : Off) : Statement (.st64 m d a b) := by
  intro x h hw
  obtain rfl := Option.some.inj h
  have ho : b.inField = true := off_in (wf_checks hw rfl (r := { layout := (.dab .pair .pair .off), uni := true }) rfl).2 rfl (by simp [mkRaw]) rfl
  refine ⟨?_, ?_, ?_⟩
  · show (fun x => (do return .st64 x.mods (← regOf x.d) (← regOf x.a) (← offOf x.lit x.b)) : Raw → Option Instr) ({ mkRaw m 3 10 (pack (Reg.code d) (Reg.code a) (Off.code b)) with lit := b.word, pc := 0 } : Raw) = _
    simp [mkRaw, Raw.mods, ho]
  · intro hp; rfl
  · intro r hr
    have hr' : rowOf (3 : BitVec 3) (10 : BitVec 6) = some ({ layout := (.dab .pair .pair .off), uni := true }) := rfl
    obtain rfl := Option.some.inj (hr'.symm.trans hr)
    simp [takesLit, Opnd.mayLit, mkRaw, reg_code_ne, off_code_lit ho]

theorem st128 (m : Mods) (d a : Reg) (b : Off) : Statement (.st128 m d a b) := by
  intro x h hw
  obtain rfl := Option.some.inj h
  have ho : b.inField = true := off_in (wf_checks hw rfl (r := { layout := (.dab .run4 .pair .off) }) rfl).2 rfl (by simp [mkRaw]) rfl
  refine ⟨?_, ?_, ?_⟩
  · show (fun x => (do return .st128 x.mods (← regOf x.d) (← regOf x.a) (← offOf x.lit x.b)) : Raw → Option Instr) ({ mkRaw m 3 11 (pack (Reg.code d) (Reg.code a) (Off.code b)) with lit := b.word, pc := 0 } : Raw) = _
    simp [mkRaw, Raw.mods, ho]
  · intro hp; rfl
  · intro r hr
    have hr' : rowOf (3 : BitVec 3) (11 : BitVec 6) = some ({ layout := (.dab .run4 .pair .off) }) := rfl
    obtain rfl := Option.some.inj (hr'.symm.trans hr)
    simp [takesLit, Opnd.mayLit, mkRaw, reg_code_ne, off_code_lit ho]

theorem ldU (m : Mods) (d a : Reg) (b : Off) : Statement (.ldU m d a b) := by
  intro x h hw
  obtain rfl := Option.some.inj h
  have ho : b.inField = true := off_in (wf_checks hw rfl (r := fRegPairOff) rfl).2 rfl (by simp [mkRaw]) rfl
  refine ⟨?_, ?_, ?_⟩
  · show (fun x => (do return .ldU x.mods (← regOf x.d) (← regOf x.a) (← offOf x.lit x.b)) : Raw → Option Instr) ({ mkRaw m 3 12 (pack (Reg.code d) (Reg.code a) (Off.code b)) with lit := b.word, pc := 0 } : Raw) = _
    simp [mkRaw, Raw.mods, ho]
  · intro hp; rfl
  · intro r hr
    have hr' : rowOf (3 : BitVec 3) (12 : BitVec 6) = some (fRegPairOff) := rfl
    obtain rfl := Option.some.inj (hr'.symm.trans hr)
    simp [takesLit, Opnd.mayLit, mkRaw, reg_code_ne, fRegPairOff, off_code_lit ho]

theorem stU (m : Mods) (d a : Reg) (b : Off) : Statement (.stU m d a b) := by
  intro x h hw
  obtain rfl := Option.some.inj h
  have ho : b.inField = true := off_in (wf_checks hw rfl (r := fRegPairOff2) rfl).2 rfl (by simp [mkRaw]) rfl
  refine ⟨?_, ?_, ?_⟩
  · show (fun x => (do return .stU x.mods (← regOf x.d) (← regOf x.a) (← offOf x.lit x.b)) : Raw → Option Instr) ({ mkRaw m 3 13 (pack (Reg.code d) (Reg.code a) (Off.code b)) with lit := b.word, pc := 0 } : Raw) = _
    simp [mkRaw, Raw.mods, ho]
  · intro hp; rfl
  · intro r hr
    have hr' : rowOf (3 : BitVec 3) (13 : BitVec 6) = some (fRegPairOff2) := rfl
    obtain rfl := Option.some.inj (hr'.symm.trans hr)
    simp [takesLit, Opnd.mayLit, mkRaw, reg_code_ne, fRegPairOff2, off_code_lit ho]

theorem ldRc (m : Mods) (d a : Reg) (b : Off) : Statement (.ldRc m d a b) := by
  intro x h hw
  obtain rfl := Option.some.inj h
  have ho : b.inField = true := off_in (wf_checks hw rfl (r := fRegPairOff) rfl).2 rfl (by simp [mkRaw]) rfl
  refine ⟨?_, ?_, ?_⟩
  · show (fun x => (do return .ldRc x.mods (← regOf x.d) (← regOf x.a) (← offOf x.lit x.b)) : Raw → Option Instr) ({ mkRaw m 3 14 (pack (Reg.code d) (Reg.code a) (Off.code b)) with lit := b.word, pc := 0 } : Raw) = _
    simp [mkRaw, Raw.mods, ho]
  · intro hp; rfl
  · intro r hr
    have hr' : rowOf (3 : BitVec 3) (14 : BitVec 6) = some (fRegPairOff) := rfl
    obtain rfl := Option.some.inj (hr'.symm.trans hr)
    simp [takesLit, Opnd.mayLit, mkRaw, reg_code_ne, fRegPairOff, off_code_lit ho]

theorem pf (m : Mods) (a : Reg) (b : Off) : Statement (.pf m a b) := by
  intro x h hw
  obtain rfl := Option.some.inj h
  have ho : b.inField = true := off_in (wf_checks hw rfl (r := { layout := (.dab .zero .pair .off) }) rfl).2 rfl (by simp [mkRaw]) rfl
  refine ⟨?_, ?_, ?_⟩
  · show (fun x => if x.d = 0 then (do return .pf x.mods (← regOf x.a) (← offOf x.lit x.b)) else none : Raw → Option Instr) ({ mkRaw m 3 15 (pack 0 (Reg.code a) (Off.code b)) with lit := b.word, pc := 0 } : Raw) = _
    simp [mkRaw, Raw.mods, ho]
  · intro hp; rfl
  · intro r hr
    have hr' : rowOf (3 : BitVec 3) (15 : BitVec 6) = some ({ layout := (.dab .zero .pair .off) }) := rfl
    obtain rfl := Option.some.inj (hr'.symm.trans hr)
    simp [takesLit, Opnd.mayLit, mkRaw, reg_code_ne, off_code_lit ho]

theorem atomAdd (m : Mods) (d a : Reg) (b : Src) : Statement (.atomAdd m d a b) := by
  intro x h hw
  obtain rfl := Option.some.inj h
  refine ⟨?_, ?_, ?_⟩
  · show (fun x => (do return .atomAdd x.mods (← regOf x.d) (← regOf x.a) (← srcOf x.lit x.b)) : Raw → Option Instr) ({ mkRaw m 3 16 (pack (Reg.code d) (Reg.code a) (Src.code b)) with lit := b.word, pc := 0 } : Raw) = _
    simp [mkRaw, Raw.mods]
  · intro hp; rfl
  · intro r hr
    have hr' : rowOf (3 : BitVec 3) (16 : BitVec 6) = some (fRegPairSrc) := rfl
    obtain rfl := Option.some.inj (hr'.symm.trans hr)
    simp [takesLit, Opnd.mayLit, mkRaw, reg_code_ne, fRegPairSrc]

theorem atomMinI (m : Mods) (d a : Reg) (b : Src) : Statement (.atomMinI m d a b) := by
  intro x h hw
  obtain rfl := Option.some.inj h
  refine ⟨?_, ?_, ?_⟩
  · show (fun x => (do return .atomMinI x.mods (← regOf x.d) (← regOf x.a) (← srcOf x.lit x.b)) : Raw → Option Instr) ({ mkRaw m 3 17 (pack (Reg.code d) (Reg.code a) (Src.code b)) with lit := b.word, pc := 0 } : Raw) = _
    simp [mkRaw, Raw.mods]
  · intro hp; rfl
  · intro r hr
    have hr' : rowOf (3 : BitVec 3) (17 : BitVec 6) = some (fRegPairSrc) := rfl
    obtain rfl := Option.some.inj (hr'.symm.trans hr)
    simp [takesLit, Opnd.mayLit, mkRaw, reg_code_ne, fRegPairSrc]

theorem atomMaxI (m : Mods) (d a : Reg) (b : Src) : Statement (.atomMaxI m d a b) := by
  intro x h hw
  obtain rfl := Option.some.inj h
  refine ⟨?_, ?_, ?_⟩
  · show (fun x => (do return .atomMaxI x.mods (← regOf x.d) (← regOf x.a) (← srcOf x.lit x.b)) : Raw → Option Instr) ({ mkRaw m 3 18 (pack (Reg.code d) (Reg.code a) (Src.code b)) with lit := b.word, pc := 0 } : Raw) = _
    simp [mkRaw, Raw.mods]
  · intro hp; rfl
  · intro r hr
    have hr' : rowOf (3 : BitVec 3) (18 : BitVec 6) = some (fRegPairSrc) := rfl
    obtain rfl := Option.some.inj (hr'.symm.trans hr)
    simp [takesLit, Opnd.mayLit, mkRaw, reg_code_ne, fRegPairSrc]

theorem atomMinN (m : Mods) (d a : Reg) (b : Src) : Statement (.atomMinN m d a b) := by
  intro x h hw
  obtain rfl := Option.some.inj h
  refine ⟨?_, ?_, ?_⟩
  · show (fun x => (do return .atomMinN x.mods (← regOf x.d) (← regOf x.a) (← srcOf x.lit x.b)) : Raw → Option Instr) ({ mkRaw m 3 19 (pack (Reg.code d) (Reg.code a) (Src.code b)) with lit := b.word, pc := 0 } : Raw) = _
    simp [mkRaw, Raw.mods]
  · intro hp; rfl
  · intro r hr
    have hr' : rowOf (3 : BitVec 3) (19 : BitVec 6) = some (fRegPairSrc) := rfl
    obtain rfl := Option.some.inj (hr'.symm.trans hr)
    simp [takesLit, Opnd.mayLit, mkRaw, reg_code_ne, fRegPairSrc]

theorem atomMaxN (m : Mods) (d a : Reg) (b : Src) : Statement (.atomMaxN m d a b) := by
  intro x h hw
  obtain rfl := Option.some.inj h
  refine ⟨?_, ?_, ?_⟩
  · show (fun x => (do return .atomMaxN x.mods (← regOf x.d) (← regOf x.a) (← srcOf x.lit x.b)) : Raw → Option Instr) ({ mkRaw m 3 20 (pack (Reg.code d) (Reg.code a) (Src.code b)) with lit := b.word, pc := 0 } : Raw) = _
    simp [mkRaw, Raw.mods]
  · intro hp; rfl
  · intro r hr
    have hr' : rowOf (3 : BitVec 3) (20 : BitVec 6) = some (fRegPairSrc) := rfl
    obtain rfl := Option.some.inj (hr'.symm.trans hr)
    simp [takesLit, Opnd.mayLit, mkRaw, reg_code_ne, fRegPairSrc]

theorem atomAnd (m : Mods) (d a : Reg) (b : Src) : Statement (.atomAnd m d a b) := by
  intro x h hw
  obtain rfl := Option.some.inj h
  refine ⟨?_, ?_, ?_⟩
  · show (fun x => (do return .atomAnd x.mods (← regOf x.d) (← regOf x.a) (← srcOf x.lit x.b)) : Raw → Option Instr) ({ mkRaw m 3 21 (pack (Reg.code d) (Reg.code a) (Src.code b)) with lit := b.word, pc := 0 } : Raw) = _
    simp [mkRaw, Raw.mods]
  · intro hp; rfl
  · intro r hr
    have hr' : rowOf (3 : BitVec 3) (21 : BitVec 6) = some (fRegPairSrc) := rfl
    obtain rfl := Option.some.inj (hr'.symm.trans hr)
    simp [takesLit, Opnd.mayLit, mkRaw, reg_code_ne, fRegPairSrc]

theorem atomOr (m : Mods) (d a : Reg) (b : Src) : Statement (.atomOr m d a b) := by
  intro x h hw
  obtain rfl := Option.some.inj h
  refine ⟨?_, ?_, ?_⟩
  · show (fun x => (do return .atomOr x.mods (← regOf x.d) (← regOf x.a) (← srcOf x.lit x.b)) : Raw → Option Instr) ({ mkRaw m 3 22 (pack (Reg.code d) (Reg.code a) (Src.code b)) with lit := b.word, pc := 0 } : Raw) = _
    simp [mkRaw, Raw.mods]
  · intro hp; rfl
  · intro r hr
    have hr' : rowOf (3 : BitVec 3) (22 : BitVec 6) = some (fRegPairSrc) := rfl
    obtain rfl := Option.some.inj (hr'.symm.trans hr)
    simp [takesLit, Opnd.mayLit, mkRaw, reg_code_ne, fRegPairSrc]

theorem atomXor (m : Mods) (d a : Reg) (b : Src) : Statement (.atomXor m d a b) := by
  intro x h hw
  obtain rfl := Option.some.inj h
  refine ⟨?_, ?_, ?_⟩
  · show (fun x => (do return .atomXor x.mods (← regOf x.d) (← regOf x.a) (← srcOf x.lit x.b)) : Raw → Option Instr) ({ mkRaw m 3 23 (pack (Reg.code d) (Reg.code a) (Src.code b)) with lit := b.word, pc := 0 } : Raw) = _
    simp [mkRaw, Raw.mods]
  · intro hp; rfl
  · intro r hr
    have hr' : rowOf (3 : BitVec 3) (23 : BitVec 6) = some (fRegPairSrc) := rfl
    obtain rfl := Option.some.inj (hr'.symm.trans hr)
    simp [takesLit, Opnd.mayLit, mkRaw, reg_code_ne, fRegPairSrc]

theorem atomXch (m : Mods) (d a : Reg) (b : Src) : Statement (.atomXch m d a b) := by
  intro x h hw
  obtain rfl := Option.some.inj h
  refine ⟨?_, ?_, ?_⟩
  · show (fun x => (do return .atomXch x.mods (← regOf x.d) (← regOf x.a) (← srcOf x.lit x.b)) : Raw → Option Instr) ({ mkRaw m 3 24 (pack (Reg.code d) (Reg.code a) (Src.code b)) with lit := b.word, pc := 0 } : Raw) = _
    simp [mkRaw, Raw.mods]
  · intro hp; rfl
  · intro r hr
    have hr' : rowOf (3 : BitVec 3) (24 : BitVec 6) = some (fRegPairSrc) := rfl
    obtain rfl := Option.some.inj (hr'.symm.trans hr)
    simp [takesLit, Opnd.mayLit, mkRaw, reg_code_ne, fRegPairSrc]

theorem atomCas (m : Mods) (d a : Reg) (b c : Src) : Statement (.atomCas m d a b c) := by
  intro x h hw
  obtain rfl := Option.some.inj h
  have hs := need_pre (wf_checks hw rfl (r := { layout := (.dab .vec .pair .src), cf := .value, ord := .all, flag := .a, writes := true }) rfl).2 rfl rfl
  obtain ⟨p, hp⟩ := Option.isSome_iff_exists.1 hs
  have hone := one_lit (wf_checks hw rfl (r := { layout := (.dab .vec .pair .src), cf := .value, ord := .all, flag := .a, writes := true }) rfl).1 hp rfl
  have hm : m.pre = some p := hp
  simp only [mkRaw, raw_b] at hone
  refine ⟨?_, fun hn => absurd (hp.symm.trans hn) (by simp), ?_⟩
  · show (fun x => (do return .atomCas x.mods (← regOf x.d) (← regOf x.a) (← srcOf x.lit x.b) (← srcOf x.lit x.pc)) : Raw → Option Instr) ({ mkRaw m 3 25 (pack (Reg.code d) (Reg.code a) (Src.code b)) with lit := (b.word <|> c.word), pc := c.code } : Raw) = _
    cases b with
    | reg rb => cases m; cases c <;> simp_all [mkRaw, Raw.mods, Src.word, Src.code, srcOf_reg, srcOf, reg_code_ne]
    | lit wb => cases c with
      | reg rc => cases m; simp_all [mkRaw, Raw.mods, Src.word, Src.code, srcOf_reg, srcOf, reg_code_ne]
      | lit wc => exact absurd rfl (hone rfl)
  · intro r hr
    have hr' : rowOf (3 : BitVec 3) (25 : BitVec 6) = some ({ layout := (.dab .vec .pair .src), cf := .value, ord := .all, flag := .a, writes := true }) := rfl
    obtain rfl := Option.some.inj (hr'.symm.trans hr)
    cases b with
    | reg rb => simp [takesLit, Opnd.mayLit, mkRaw, hm, Src.word, Src.code, reg_code_ne]; cases c <;> simp [reg_code_ne]
    | lit wb => simp [takesLit, Opnd.mayLit, mkRaw, Src.word, Src.code]

theorem atomFadd (m : Mods) (d a : Reg) (b : Src) : Statement (.atomFadd m d a b) := by
  intro x h hw
  obtain rfl := Option.some.inj h
  refine ⟨?_, ?_, ?_⟩
  · show (fun x => (do return .atomFadd x.mods (← regOf x.d) (← regOf x.a) (← srcOf x.lit x.b)) : Raw → Option Instr) ({ mkRaw m 3 26 (pack (Reg.code d) (Reg.code a) (Src.code b)) with lit := b.word, pc := 0 } : Raw) = _
    simp [mkRaw, Raw.mods]
  · intro hp; rfl
  · intro r hr
    have hr' : rowOf (3 : BitVec 3) (26 : BitVec 6) = some (fRegPairSrc) := rfl
    obtain rfl := Option.some.inj (hr'.symm.trans hr)
    simp [takesLit, Opnd.mayLit, mkRaw, reg_code_ne, fRegPairSrc]

theorem atomAdd64 (m : Mods) (d a : Reg) (b : Src) : Statement (.atomAdd64 m d a b) := by
  intro x h hw
  obtain rfl := Option.some.inj h
  refine ⟨?_, ?_, ?_⟩
  · show (fun x => (do return .atomAdd64 x.mods (← regOf x.d) (← regOf x.a) (← srcOf x.lit x.b)) : Raw → Option Instr) ({ mkRaw m 3 27 (pack (Reg.code d) (Reg.code a) (Src.code b)) with lit := b.word, pc := 0 } : Raw) = _
    simp [mkRaw, Raw.mods]
  · intro hp; rfl
  · intro r hr
    have hr' : rowOf (3 : BitVec 3) (27 : BitVec 6) = some ({ layout := (.dab .pair .pair .srcPair), uni := true, ord := .all, flag := .a, writes := true }) := rfl
    obtain rfl := Option.some.inj (hr'.symm.trans hr)
    simp [takesLit, Opnd.mayLit, mkRaw, reg_code_ne]

theorem redmAdd (m : Mods) (a : Reg) (b : Src) : Statement (.redmAdd m a b) := by
  intro x h hw
  obtain rfl := Option.some.inj h
  refine ⟨?_, ?_, ?_⟩
  · show (fun x => if x.d = 0 then (do return .redmAdd x.mods (← regOf x.a) (← srcOf x.lit x.b)) else none : Raw → Option Instr) ({ mkRaw m 3 28 (pack 0 (Reg.code a) (Src.code b)) with lit := b.word, pc := 0 } : Raw) = _
    simp [mkRaw, Raw.mods]
  · intro hp; rfl
  · intro r hr
    have hr' : rowOf (3 : BitVec 3) (28 : BitVec 6) = some (fZeroPairSrc) := rfl
    obtain rfl := Option.some.inj (hr'.symm.trans hr)
    simp [takesLit, Opnd.mayLit, mkRaw, reg_code_ne, fZeroPairSrc]

theorem redmFadd (m : Mods) (a : Reg) (b : Src) : Statement (.redmFadd m a b) := by
  intro x h hw
  obtain rfl := Option.some.inj h
  refine ⟨?_, ?_, ?_⟩
  · show (fun x => if x.d = 0 then (do return .redmFadd x.mods (← regOf x.a) (← srcOf x.lit x.b)) else none : Raw → Option Instr) ({ mkRaw m 3 29 (pack 0 (Reg.code a) (Src.code b)) with lit := b.word, pc := 0 } : Raw) = _
    simp [mkRaw, Raw.mods]
  · intro hp; rfl
  · intro r hr
    have hr' : rowOf (3 : BitVec 3) (29 : BitVec 6) = some (fZeroPairSrc) := rfl
    obtain rfl := Option.some.inj (hr'.symm.trans hr)
    simp [takesLit, Opnd.mayLit, mkRaw, reg_code_ne, fZeroPairSrc]

theorem redmMax (m : Mods) (a : Reg) (b : Src) : Statement (.redmMax m a b) := by
  intro x h hw
  obtain rfl := Option.some.inj h
  refine ⟨?_, ?_, ?_⟩
  · show (fun x => if x.d = 0 then (do return .redmMax x.mods (← regOf x.a) (← srcOf x.lit x.b)) else none : Raw → Option Instr) ({ mkRaw m 3 30 (pack 0 (Reg.code a) (Src.code b)) with lit := b.word, pc := 0 } : Raw) = _
    simp [mkRaw, Raw.mods]
  · intro hp; rfl
  · intro r hr
    have hr' : rowOf (3 : BitVec 3) (30 : BitVec 6) = some (fZeroPairSrc) := rfl
    obtain rfl := Option.some.inj (hr'.symm.trans hr)
    simp [takesLit, Opnd.mayLit, mkRaw, reg_code_ne, fZeroPairSrc]

theorem fence (m : Mods) : Statement (.fence m) := by
  intro x h hw
  obtain rfl := Option.some.inj h
  refine ⟨?_, ?_, ?_⟩
  · show (fun x => some (.fence x.mods) : Raw → Option Instr) ((mkRaw m 3 31 0) : Raw) = _
    simp [mkRaw, Raw.mods]
  · intro hp; rfl
  · intro r hr
    have hr' : rowOf (3 : BitVec 3) (31 : BitVec 6) = some ({ layout := .none, ord := .all }) := rfl
    obtain rfl := Option.some.inj (hr'.symm.trans hr)
    simp [takesLit, Opnd.mayLit, mkRaw, reg_code_ne]

theorem nap (m : Mods) (a : Reg) (b : Src) : Statement (.nap m a b) := by
  intro x h hw
  obtain rfl := Option.some.inj h
  refine ⟨?_, ?_, ?_⟩
  · show (fun x => if x.d = 0 then (do return .nap x.mods (← regOf x.a) (← srcOf x.lit x.b)) else none : Raw → Option Instr) ({ mkRaw m 3 32 (pack 0 (Reg.code a) (Src.code b)) with lit := b.word, pc := 0 } : Raw) = _
    simp [mkRaw, Raw.mods]
  · intro hp; rfl
  · intro r hr
    have hr' : rowOf (3 : BitVec 3) (32 : BitVec 6) = some ({ layout := (.dab .zero .pair .src) }) := rfl
    obtain rfl := Option.some.inj (hr'.symm.trans hr)
    simp [takesLit, Opnd.mayLit, mkRaw, reg_code_ne]

theorem mbxLd (m : Mods) (d a : Reg) (b : Off) : Statement (.mbxLd m d a b) := by
  intro x h hw
  obtain rfl := Option.some.inj h
  have ho : b.inField = true := off_in (wf_checks hw rfl (r := { layout := (.dab .pair .pair .off), uni := true, ord := .scope, flag := .a, writes := true }) rfl).2 rfl (by simp [mkRaw]) rfl
  refine ⟨?_, ?_, ?_⟩
  · show (fun x => (do return .mbxLd x.mods (← regOf x.d) (← regOf x.a) (← offOf x.lit x.b)) : Raw → Option Instr) ({ mkRaw m 3 33 (pack (Reg.code d) (Reg.code a) (Off.code b)) with lit := b.word, pc := 0 } : Raw) = _
    simp [mkRaw, Raw.mods, ho]
  · intro hp; rfl
  · intro r hr
    have hr' : rowOf (3 : BitVec 3) (33 : BitVec 6) = some ({ layout := (.dab .pair .pair .off), uni := true, ord := .scope, flag := .a, writes := true }) := rfl
    obtain rfl := Option.some.inj (hr'.symm.trans hr)
    simp [takesLit, Opnd.mayLit, mkRaw, reg_code_ne, off_code_lit ho]

theorem mbxSt (m : Mods) (d a : Reg) (b : Off) : Statement (.mbxSt m d a b) := by
  intro x h hw
  obtain rfl := Option.some.inj h
  have ho : b.inField = true := off_in (wf_checks hw rfl (r := { layout := (.dab .pair .pair .off), uni := true, ord := .scope }) rfl).2 rfl (by simp [mkRaw]) rfl
  refine ⟨?_, ?_, ?_⟩
  · show (fun x => (do return .mbxSt x.mods (← regOf x.d) (← regOf x.a) (← offOf x.lit x.b)) : Raw → Option Instr) ({ mkRaw m 3 34 (pack (Reg.code d) (Reg.code a) (Off.code b)) with lit := b.word, pc := 0 } : Raw) = _
    simp [mkRaw, Raw.mods, ho]
  · intro hp; rfl
  · intro r hr
    have hr' : rowOf (3 : BitVec 3) (34 : BitVec 6) = some ({ layout := (.dab .pair .pair .off), uni := true, ord := .scope }) := rfl
    obtain rfl := Option.some.inj (hr'.symm.trans hr)
    simp [takesLit, Opnd.mayLit, mkRaw, reg_code_ne, off_code_lit ho]

theorem mbxTst (m : Mods) (d a : Reg) (b : Off) : Statement (.mbxTst m d a b) := by
  intro x h hw
  obtain rfl := Option.some.inj h
  have ho : b.inField = true := off_in (wf_checks hw rfl (r := { layout := (.dab .reg .pair .off), uni := true, ord := .scope, flag := .a, writes := true }) rfl).2 rfl (by simp [mkRaw]) rfl
  refine ⟨?_, ?_, ?_⟩
  · show (fun x => (do return .mbxTst x.mods (← regOf x.d) (← regOf x.a) (← offOf x.lit x.b)) : Raw → Option Instr) ({ mkRaw m 3 35 (pack (Reg.code d) (Reg.code a) (Off.code b)) with lit := b.word, pc := 0 } : Raw) = _
    simp [mkRaw, Raw.mods, ho]
  · intro hp; rfl
  · intro r hr
    have hr' : rowOf (3 : BitVec 3) (35 : BitVec 6) = some ({ layout := (.dab .reg .pair .off), uni := true, ord := .scope, flag := .a, writes := true }) := rfl
    obtain rfl := Option.some.inj (hr'.symm.trans hr)
    simp [takesLit, Opnd.mayLit, mkRaw, reg_code_ne, off_code_lit ho]

theorem br (m : Mods) (off : BitVec 21) : Statement (.br m off) := by
  intro x h hw
  obtain rfl := Option.some.inj h
  refine ⟨?_, ?_, ?_⟩
  · show (fun x => some (.br x.mods x.low) : Raw → Option Instr) ((mkRaw m 4 0 off) : Raw) = _
    simp [mkRaw, Raw.mods]
  · intro hp; rfl
  · intro r hr
    have hr' : rowOf (4 : BitVec 3) (0 : BitVec 6) = some (fBj) := rfl
    obtain rfl := Option.some.inj (hr'.symm.trans hr)
    simp [takesLit, Opnd.mayLit, mkRaw, reg_code_ne, fBj]

theorem brC (m : Mods) (k : MaskReg) (off : BitVec 18) : Statement (.brC m k off) := by
  intro x h hw
  obtain rfl := Option.some.inj h
  refine ⟨?_, ?_, ?_⟩
  · show (fun x => some (.brC x.mods ⟨x.top3.toNat, x.top3.isLt⟩ (x.low.extractLsb' 0 18)) : Raw → Option Instr) ((mkRaw m 4 1 (BitVec.ofNat 3 k.val ++ off)) : Raw) = _
    simp [mkRaw, Raw.mods, Raw.top3, split3_hi, split3_lo, mask_top3]
  · intro hp; rfl
  · intro r hr
    have hr' : rowOf (4 : BitVec 3) (1 : BitVec 6) = some (fBc) := rfl
    obtain rfl := Option.some.inj (hr'.symm.trans hr)
    simp [takesLit, Opnd.mayLit, mkRaw, reg_code_ne, fBc]

theorem brAny (m : Mods) (k : MaskReg) (off : BitVec 18) : Statement (.brAny m k off) := by
  intro x h hw
  obtain rfl := Option.some.inj h
  refine ⟨?_, ?_, ?_⟩
  · show (fun x => some (.brAny x.mods ⟨x.top3.toNat, x.top3.isLt⟩ (x.low.extractLsb' 0 18)) : Raw → Option Instr) ((mkRaw m 4 2 (BitVec.ofNat 3 k.val ++ off)) : Raw) = _
    simp [mkRaw, Raw.mods, Raw.top3, split3_hi, split3_lo, mask_top3]
  · intro hp; rfl
  · intro r hr
    have hr' : rowOf (4 : BitVec 3) (2 : BitVec 6) = some (fBc) := rfl
    obtain rfl := Option.some.inj (hr'.symm.trans hr)
    simp [takesLit, Opnd.mayLit, mkRaw, reg_code_ne, fBc]

theorem brAll (m : Mods) (k : MaskReg) (off : BitVec 18) : Statement (.brAll m k off) := by
  intro x h hw
  obtain rfl := Option.some.inj h
  refine ⟨?_, ?_, ?_⟩
  · show (fun x => some (.brAll x.mods ⟨x.top3.toNat, x.top3.isLt⟩ (x.low.extractLsb' 0 18)) : Raw → Option Instr) ((mkRaw m 4 3 (BitVec.ofNat 3 k.val ++ off)) : Raw) = _
    simp [mkRaw, Raw.mods, Raw.top3, split3_hi, split3_lo, mask_top3]
  · intro hp; rfl
  · intro r hr
    have hr' : rowOf (4 : BitVec 3) (3 : BitVec 6) = some (fBc) := rfl
    obtain rfl := Option.some.inj (hr'.symm.trans hr)
    simp [takesLit, Opnd.mayLit, mkRaw, reg_code_ne, fBc]

theorem brx (m : Mods) (d : BitVec 7) (a b : Reg) : Statement (.brx m d a b) := by
  intro x h hw
  obtain rfl := Option.some.inj h
  refine ⟨?_, ?_, ?_⟩
  · show (fun x => (do return .brx x.mods x.d (← regOf x.a) (← regOf x.b)) : Raw → Option Instr) ((mkRaw m 4 4 (pack d (Reg.code a) (Reg.code b))) : Raw) = _
    simp [mkRaw, Raw.mods]
  · intro hp; rfl
  · intro r hr
    have hr' : rowOf (4 : BitVec 3) (4 : BitVec 6) = some ({ layout := (.dab .bound .uni .reg), pfx := false }) := rfl
    obtain rfl := Option.some.inj (hr'.symm.trans hr)
    simp [takesLit, Opnd.mayLit, mkRaw, reg_code_ne]

theorem call (m : Mods) (off : BitVec 21) : Statement (.call m off) := by
  intro x h hw
  obtain rfl := Option.some.inj h
  refine ⟨?_, ?_, ?_⟩
  · show (fun x => some (.call x.mods x.low) : Raw → Option Instr) ((mkRaw m 4 5 off) : Raw) = _
    simp [mkRaw, Raw.mods]
  · intro hp; rfl
  · intro r hr
    have hr' : rowOf (4 : BitVec 3) (5 : BitVec 6) = some (fBj) := rfl
    obtain rfl := Option.some.inj (hr'.symm.trans hr)
    simp [takesLit, Opnd.mayLit, mkRaw, reg_code_ne, fBj]

theorem callX (m : Mods) (a : Reg) : Statement (.callX m a) := by
  intro x h hw
  obtain rfl := Option.some.inj h
  refine ⟨?_, ?_, ?_⟩
  · show (fun x => if x.d = 0 ∧ x.b = 0 then (do return .callX x.mods (← regOf x.a)) else none : Raw → Option Instr) ((mkRaw m 4 6 (pack 0 (Reg.code a) 0)) : Raw) = _
    simp [mkRaw, Raw.mods]
  · intro hp; rfl
  · intro r hr
    have hr' : rowOf (4 : BitVec 3) (6 : BitVec 6) = some (fZeroPairZero) := rfl
    obtain rfl := Option.some.inj (hr'.symm.trans hr)
    simp [takesLit, Opnd.mayLit, mkRaw, reg_code_ne, fZeroPairZero]

theorem ret (m : Mods) : Statement (.ret m) := by
  intro x h hw
  obtain rfl := Option.some.inj h
  refine ⟨?_, ?_, ?_⟩
  · show (fun x => some (.ret x.mods) : Raw → Option Instr) ((mkRaw m 4 7 0) : Raw) = _
    simp [mkRaw, Raw.mods]
  · intro hp; rfl
  · intro r hr
    have hr' : rowOf (4 : BitVec 3) (7 : BitVec 6) = some (fNone) := rfl
    obtain rfl := Option.some.inj (hr'.symm.trans hr)
    simp [takesLit, Opnd.mayLit, mkRaw, reg_code_ne, fNone]

theorem div (m : Mods) (off : BitVec 18) : Statement (.div m off) := by
  intro x h hw
  obtain rfl := Option.some.inj h
  refine ⟨?_, ?_, ?_⟩
  · show (fun x => if x.top3 = 0 then some (.div x.mods (x.low.extractLsb' 0 18)) else none : Raw → Option Instr) ((mkRaw m 4 8 ((0 : BitVec 3) ++ off)) : Raw) = _
    simp [mkRaw, Raw.mods, Raw.top3, split3_hi, split3_lo, mask_top3]
  · intro hp; rfl
  · intro r hr
    have hr' : rowOf (4 : BitVec 3) (8 : BitVec 6) = some ({ layout := .bd, pfx := false }) := rfl
    obtain rfl := Option.some.inj (hr'.symm.trans hr)
    simp [takesLit, Opnd.mayLit, mkRaw, reg_code_ne]

theorem join (m : Mods) : Statement (.join m) := by
  intro x h hw
  obtain rfl := Option.some.inj h
  refine ⟨?_, ?_, ?_⟩
  · show (fun x => some (.join x.mods) : Raw → Option Instr) ((mkRaw m 4 9 0) : Raw) = _
    simp [mkRaw, Raw.mods]
  · intro hp; rfl
  · intro r hr
    have hr' : rowOf (4 : BitVec 3) (9 : BitVec 6) = some (fNone) := rfl
    obtain rfl := Option.some.inj (hr'.symm.trans hr)
    simp [takesLit, Opnd.mayLit, mkRaw, reg_code_ne, fNone]

theorem exit (m : Mods) : Statement (.exit m) := by
  intro x h hw
  obtain rfl := Option.some.inj h
  refine ⟨?_, ?_, ?_⟩
  · show (fun x => some (.exit x.mods) : Raw → Option Instr) ((mkRaw m 4 10 0) : Raw) = _
    simp [mkRaw, Raw.mods]
  · intro hp; rfl
  · intro r hr
    have hr' : rowOf (4 : BitVec 3) (10 : BitVec 6) = some (fNone) := rfl
    obtain rfl := Option.some.inj (hr'.symm.trans hr)
    simp [takesLit, Opnd.mayLit, mkRaw, reg_code_ne, fNone]

theorem barArr (m : Mods) (scope : BitVec 3) (num : BitVec 4) : Statement (.barArr m scope num) := by
  intro x h hw
  obtain rfl := Option.some.inj h
  refine ⟨?_, ?_, ?_⟩
  · show (fun x => if x.low.extractLsb' 0 14 = 0 then some (.barArr x.mods x.top3 (x.low.extractLsb' 14 4)) else none : Raw → Option Instr) ((mkRaw m 4 11 (scope ++ num ++ (0 : BitVec 14))) : Raw) = _
    simp [mkRaw, Raw.mods, Raw.top3, splitBar_hi, splitBar_mid, splitBar_lo]
  · intro hp; rfl
  · intro r hr
    have hr' : rowOf (4 : BitVec 3) (11 : BitVec 6) = some (fBar) := rfl
    obtain rfl := Option.some.inj (hr'.symm.trans hr)
    simp [takesLit, Opnd.mayLit, mkRaw, reg_code_ne, fBar]

theorem barArrRlx (m : Mods) (scope : BitVec 3) (num : BitVec 4) : Statement (.barArrRlx m scope num) := by
  intro x h hw
  obtain rfl := Option.some.inj h
  refine ⟨?_, ?_, ?_⟩
  · show (fun x => if x.low.extractLsb' 0 14 = 0 then some (.barArrRlx x.mods x.top3 (x.low.extractLsb' 14 4)) else none : Raw → Option Instr) ((mkRaw m 4 12 (scope ++ num ++ (0 : BitVec 14))) : Raw) = _
    simp [mkRaw, Raw.mods, Raw.top3, splitBar_hi, splitBar_mid, splitBar_lo]
  · intro hp; rfl
  · intro r hr
    have hr' : rowOf (4 : BitVec 3) (12 : BitVec 6) = some (fBar) := rfl
    obtain rfl := Option.some.inj (hr'.symm.trans hr)
    simp [takesLit, Opnd.mayLit, mkRaw, reg_code_ne, fBar]

theorem barWait (m : Mods) (scope : BitVec 3) (num : BitVec 4) : Statement (.barWait m scope num) := by
  intro x h hw
  obtain rfl := Option.some.inj h
  refine ⟨?_, ?_, ?_⟩
  · show (fun x => if x.low.extractLsb' 0 14 = 0 then some (.barWait x.mods x.top3 (x.low.extractLsb' 14 4)) else none : Raw → Option Instr) ((mkRaw m 4 13 (scope ++ num ++ (0 : BitVec 14))) : Raw) = _
    simp [mkRaw, Raw.mods, Raw.top3, splitBar_hi, splitBar_mid, splitBar_lo]
  · intro hp; rfl
  · intro r hr
    have hr' : rowOf (4 : BitVec 3) (13 : BitVec 6) = some (fBar) := rfl
    obtain rfl := Option.some.inj (hr'.symm.trans hr)
    simp [takesLit, Opnd.mayLit, mkRaw, reg_code_ne, fBar]

theorem barSync (m : Mods) (scope : BitVec 3) (num : BitVec 4) : Statement (.barSync m scope num) := by
  intro x h hw
  obtain rfl := Option.some.inj h
  refine ⟨?_, ?_, ?_⟩
  · show (fun x => if x.low.extractLsb' 0 14 = 0 then some (.barSync x.mods x.top3 (x.low.extractLsb' 14 4)) else none : Raw → Option Instr) ((mkRaw m 4 14 (scope ++ num ++ (0 : BitVec 14))) : Raw) = _
    simp [mkRaw, Raw.mods, Raw.top3, splitBar_hi, splitBar_mid, splitBar_lo]
  · intro hp; rfl
  · intro r hr
    have hr' : rowOf (4 : BitVec 3) (14 : BitVec 6) = some (fBar) := rfl
    obtain rfl := Option.some.inj (hr'.symm.trans hr)
    simp [takesLit, Opnd.mayLit, mkRaw, reg_code_ne, fBar]

theorem syncP (m : Mods) (a : Reg) : Statement (.syncP m a) := by
  intro x h hw
  obtain rfl := Option.some.inj h
  refine ⟨?_, ?_, ?_⟩
  · show (fun x => if x.d = 0 ∧ x.b = 0 then (do return .syncP x.mods (← regOf x.a)) else none : Raw → Option Instr) ((mkRaw m 4 15 (pack 0 (Reg.code a) 0)) : Raw) = _
    simp [mkRaw, Raw.mods]
  · intro hp; rfl
  · intro r hr
    have hr' : rowOf (4 : BitVec 3) (15 : BitVec 6) = some (fZeroPairZero) := rfl
    obtain rfl := Option.some.inj (hr'.symm.trans hr)
    simp [takesLit, Opnd.mayLit, mkRaw, reg_code_ne, fZeroPairZero]

theorem idem (m : Mods) : Statement (.idem m) := by
  intro x h hw
  obtain rfl := Option.some.inj h
  refine ⟨?_, ?_, ?_⟩
  · show (fun x => some (.idem x.mods) : Raw → Option Instr) ((mkRaw m 4 16 0) : Raw) = _
    simp [mkRaw, Raw.mods]
  · intro hp; rfl
  · intro r hr
    have hr' : rowOf (4 : BitVec 3) (16 : BitVec 6) = some (fNone) := rfl
    obtain rfl := Option.some.inj (hr'.symm.trans hr)
    simp [takesLit, Opnd.mayLit, mkRaw, reg_code_ne, fNone]

theorem nop (m : Mods) : Statement (.nop m) := by
  intro x h hw
  obtain rfl := Option.some.inj h
  refine ⟨?_, ?_, ?_⟩
  · show (fun x => some (.nop x.mods) : Raw → Option Instr) ((mkRaw m 4 17 0) : Raw) = _
    simp [mkRaw, Raw.mods]
  · intro hp; rfl
  · intro r hr
    have hr' : rowOf (4 : BitVec 3) (17 : BitVec 6) = some (fNone) := rfl
    obtain rfl := Option.some.inj (hr'.symm.trans hr)
    simp [takesLit, Opnd.mayLit, mkRaw, reg_code_ne, fNone]

theorem loop (m : Mods) (c : BitVec 3) (off : BitVec 18) : Statement (.loop m c off) := by
  intro x h hw
  obtain rfl := Option.some.inj h
  refine ⟨?_, ?_, ?_⟩
  · show (fun x => some (.loop x.mods x.top3 (x.low.extractLsb' 0 18)) : Raw → Option Instr) ((mkRaw m 4 18 (c ++ off)) : Raw) = _
    simp [mkRaw, Raw.mods, Raw.top3, split3_hi, split3_lo, mask_top3]
  · intro hp; rfl
  · intro r hr
    have hr' : rowOf (4 : BitVec 3) (18 : BitVec 6) = some ({ layout := .bl, pfx := false }) := rfl
    obtain rfl := Option.some.inj (hr'.symm.trans hr)
    simp [takesLit, Opnd.mayLit, mkRaw, reg_code_ne]

theorem belPut (m : Mods) (d a : Reg) (b : Src) : Statement (.belPut m d a b) := by
  intro x h hw
  obtain rfl := Option.some.inj h
  refine ⟨?_, ?_, ?_⟩
  · show (fun x => (do return .belPut x.mods (← regOf x.d) (← regOf x.a) (← srcOf x.lit x.b)) : Raw → Option Instr) ({ mkRaw m 5 0 (pack (Reg.code d) (Reg.code a) (Src.code b)) with lit := b.word, pc := 0 } : Raw) = _
    simp [mkRaw, Raw.mods]
  · intro hp; rfl
  · intro r hr
    have hr' : rowOf (5 : BitVec 3) (0 : BitVec 6) = some ({ layout := (.dab .reg .reg .srcPair), flag := .a, pfx := false }) := rfl
    obtain rfl := Option.some.inj (hr'.symm.trans hr)
    simp [takesLit, Opnd.mayLit, mkRaw, reg_code_ne]

theorem belRet (m : Mods) (d a : Reg) : Statement (.belRet m d a) := by
  intro x h hw
  obtain rfl := Option.some.inj h
  refine ⟨?_, ?_, ?_⟩
  · show (fun x => if x.b = 0 then (do return .belRet x.mods (← regOf x.d) (← regOf x.a)) else none : Raw → Option Instr) ((mkRaw m 5 1 (pack (Reg.code d) (Reg.code a) 0)) : Raw) = _
    simp [mkRaw, Raw.mods]
  · intro hp; rfl
  · intro r hr
    have hr' : rowOf (5 : BitVec 3) (1 : BitVec 6) = some ({ layout := (.dab .reg .reg .zero), flag := .a, pfx := false }) := rfl
    obtain rfl := Option.some.inj (hr'.symm.trans hr)
    simp [takesLit, Opnd.mayLit, mkRaw, reg_code_ne]

theorem belGet (m : Mods) (d a : Reg) (b : Src) : Statement (.belGet m d a b) := by
  intro x h hw
  obtain rfl := Option.some.inj h
  refine ⟨?_, ?_, ?_⟩
  · show (fun x => (do return .belGet x.mods (← regOf x.d) (← regOf x.a) (← srcOf x.lit x.b)) : Raw → Option Instr) ({ mkRaw m 5 2 (pack (Reg.code d) (Reg.code a) (Src.code b)) with lit := b.word, pc := 0 } : Raw) = _
    simp [mkRaw, Raw.mods]
  · intro hp; rfl
  · intro r hr
    have hr' : rowOf (5 : BitVec 3) (2 : BitVec 6) = some ({ layout := (.dab .vpair .reg .src), flag := .a, pfx := false, writes := true }) := rfl
    obtain rfl := Option.some.inj (hr'.symm.trans hr)
    simp [takesLit, Opnd.mayLit, mkRaw, reg_code_ne]

theorem belFacts (m : Mods) (d a : Reg) : Statement (.belFacts m d a) := by
  intro x h hw
  obtain rfl := Option.some.inj h
  refine ⟨?_, ?_, ?_⟩
  · show (fun x => if x.b = 0 then (do return .belFacts x.mods (← regOf x.d) (← regOf x.a)) else none : Raw → Option Instr) ((mkRaw m 5 3 (pack (Reg.code d) (Reg.code a) 0)) : Raw) = _
    simp [mkRaw, Raw.mods]
  · intro hp; rfl
  · intro r hr
    have hr' : rowOf (5 : BitVec 3) (3 : BitVec 6) = some ({ layout := (.dab .vpair .reg .zero), flag := .a, pfx := false, writes := true }) := rfl
    obtain rfl := Option.some.inj (hr'.symm.trans hr)
    simp [takesLit, Opnd.mayLit, mkRaw, reg_code_ne]

theorem belTst (m : Mods) (d : MaskReg) (a : Reg) (b : Src) : Statement (.belTst m d a b) := by
  intro x h hw
  obtain rfl := Option.some.inj h
  refine ⟨?_, ?_, ?_⟩
  · show (fun x => (do return .belTst x.mods (← maskOf x.d) (← regOf x.a) (← srcOf x.lit x.b)) : Raw → Option Instr) ({ mkRaw m 5 4 (pack (maskCode d) (Reg.code a) (Src.code b)) with lit := b.word, pc := 0 } : Raw) = _
    simp [mkRaw, Raw.mods]
  · intro hp; rfl
  · intro r hr
    have hr' : rowOf (5 : BitVec 3) (4 : BitVec 6) = some ({ layout := (.dab .maskD .reg .src), flag := .a, pfx := false, writes := true }) := rfl
    obtain rfl := Option.some.inj (hr'.symm.trans hr)
    simp [takesLit, Opnd.mayLit, mkRaw, reg_code_ne]

theorem goalAdd (m : Mods) (a b : Reg) : Statement (.goalAdd m a b) := by
  intro x h hw
  obtain rfl := Option.some.inj h
  refine ⟨?_, ?_, ?_⟩
  · show (fun x => if x.d = 0 then (do return .goalAdd x.mods (← regOf x.a) (← regOf x.b)) else none : Raw → Option Instr) ((mkRaw m 5 5 (pack 0 (Reg.code a) (Reg.code b))) : Raw) = _
    simp [mkRaw, Raw.mods]
  · intro hp; rfl
  · intro r hr
    have hr' : rowOf (5 : BitVec 3) (5 : BitVec 6) = some ({ layout := (.dab .zero .reg .pair), flag := .a, pfx := false }) := rfl
    obtain rfl := Option.some.inj (hr'.symm.trans hr)
    simp [takesLit, Opnd.mayLit, mkRaw, reg_code_ne]

theorem goalDone (m : Mods) (d a : Reg) (b : Src) : Statement (.goalDone m d a b) := by
  intro x h hw
  obtain rfl := Option.some.inj h
  refine ⟨?_, ?_, ?_⟩
  · show (fun x => (do return .goalDone x.mods (← regOf x.d) (← regOf x.a) (← srcOf x.lit x.b)) : Raw → Option Instr) ({ mkRaw m 5 6 (pack (Reg.code d) (Reg.code a) (Src.code b)) with lit := b.word, pc := 0 } : Raw) = _
    simp [mkRaw, Raw.mods]
  · intro hp; rfl
  · intro r hr
    have hr' : rowOf (5 : BitVec 3) (6 : BitVec 6) = some ({ layout := (.dab .vec .reg .src), flag := .a, pfx := false, writes := true }) := rfl
    obtain rfl := Option.some.inj (hr'.symm.trans hr)
    simp [takesLit, Opnd.mayLit, mkRaw, reg_code_ne]

theorem goalFail (m : Mods) (a : Reg) : Statement (.goalFail m a) := by
  intro x h hw
  obtain rfl := Option.some.inj h
  refine ⟨?_, ?_, ?_⟩
  · show (fun x => if x.d = 0 ∧ x.b = 0 then (do return .goalFail x.mods (← regOf x.a)) else none : Raw → Option Instr) ((mkRaw m 5 7 (pack 0 (Reg.code a) 0)) : Raw) = _
    simp [mkRaw, Raw.mods]
  · intro hp; rfl
  · intro r hr
    have hr' : rowOf (5 : BitVec 3) (7 : BitVec 6) = some (fZeroPairZero2) := rfl
    obtain rfl := Option.some.inj (hr'.symm.trans hr)
    simp [takesLit, Opnd.mayLit, mkRaw, reg_code_ne, fZeroPairZero2]

theorem intAdopt (m : Mods) (d a b : Reg) : Statement (.intAdopt m d a b) := by
  intro x h hw
  obtain rfl := Option.some.inj h
  refine ⟨?_, ?_, ?_⟩
  · show (fun x => (do return .intAdopt x.mods (← regOf x.d) (← regOf x.a) (← regOf x.b)) : Raw → Option Instr) ((mkRaw m 5 8 (pack (Reg.code d) (Reg.code a) (Reg.code b))) : Raw) = _
    simp [mkRaw, Raw.mods]
  · intro hp; rfl
  · intro r hr
    have hr' : rowOf (5 : BitVec 3) (8 : BitVec 6) = some ({ layout := (.dab .vec .reg .pair), flag := .a, pfx := false, writes := true }) := rfl
    obtain rfl := Option.some.inj (hr'.symm.trans hr)
    simp [takesLit, Opnd.mayLit, mkRaw, reg_code_ne]

theorem intDrop (m : Mods) (a : Reg) : Statement (.intDrop m a) := by
  intro x h hw
  obtain rfl := Option.some.inj h
  refine ⟨?_, ?_, ?_⟩
  · show (fun x => if x.d = 0 ∧ x.b = 0 then (do return .intDrop x.mods (← regOf x.a)) else none : Raw → Option Instr) ((mkRaw m 5 9 (pack 0 (Reg.code a) 0)) : Raw) = _
    simp [mkRaw, Raw.mods]
  · intro hp; rfl
  · intro r hr
    have hr' : rowOf (5 : BitVec 3) (9 : BitVec 6) = some (fZeroPairZero2) := rfl
    obtain rfl := Option.some.inj (hr'.symm.trans hr)
    simp [takesLit, Opnd.mayLit, mkRaw, reg_code_ne, fZeroPairZero2]

theorem intSusp (m : Mods) (d a b : Reg) : Statement (.intSusp m d a b) := by
  intro x h hw
  obtain rfl := Option.some.inj h
  refine ⟨?_, ?_, ?_⟩
  · show (fun x => (do return .intSusp x.mods (← regOf x.d) (← regOf x.a) (← regOf x.b)) : Raw → Option Instr) ((mkRaw m 5 10 (pack (Reg.code d) (Reg.code a) (Reg.code b))) : Raw) = _
    simp [mkRaw, Raw.mods]
  · intro hp; rfl
  · intro r hr
    have hr' : rowOf (5 : BitVec 3) (10 : BitVec 6) = some (fRegPairPair) := rfl
    obtain rfl := Option.some.inj (hr'.symm.trans hr)
    simp [takesLit, Opnd.mayLit, mkRaw, reg_code_ne, fRegPairPair]

theorem intResm (m : Mods) (d a : Reg) (b : Src) : Statement (.intResm m d a b) := by
  intro x h hw
  obtain rfl := Option.some.inj h
  refine ⟨?_, ?_, ?_⟩
  · show (fun x => (do return .intResm x.mods (← regOf x.d) (← regOf x.a) (← srcOf x.lit x.b)) : Raw → Option Instr) ({ mkRaw m 5 11 (pack (Reg.code d) (Reg.code a) (Src.code b)) with lit := b.word, pc := 0 } : Raw) = _
    simp [mkRaw, Raw.mods]
  · intro hp; rfl
  · intro r hr
    have hr' : rowOf (5 : BitVec 3) (11 : BitVec 6) = some ({ layout := (.dab .vec .pair .src), flag := .a, pfx := false, writes := true }) := rfl
    obtain rfl := Option.some.inj (hr'.symm.trans hr)
    simp [takesLit, Opnd.mayLit, mkRaw, reg_code_ne]

theorem planSub (m : Mods) (d a b : Reg) : Statement (.planSub m d a b) := by
  intro x h hw
  obtain rfl := Option.some.inj h
  refine ⟨?_, ?_, ?_⟩
  · show (fun x => (do return .planSub x.mods (← regOf x.d) (← regOf x.a) (← regOf x.b)) : Raw → Option Instr) ((mkRaw m 5 12 (pack (Reg.code d) (Reg.code a) (Reg.code b))) : Raw) = _
    simp [mkRaw, Raw.mods]
  · intro hp; rfl
  · intro r hr
    have hr' : rowOf (5 : BitVec 3) (12 : BitVec 6) = some (fRegPairPair) := rfl
    obtain rfl := Option.some.inj (hr'.symm.trans hr)
    simp [takesLit, Opnd.mayLit, mkRaw, reg_code_ne, fRegPairPair]

theorem planRet (m : Mods) (a : Reg) (b : Src) : Statement (.planRet m a b) := by
  intro x h hw
  obtain rfl := Option.some.inj h
  refine ⟨?_, ?_, ?_⟩
  · show (fun x => if x.d = 0 then (do return .planRet x.mods (← regOf x.a) (← srcOf x.lit x.b)) else none : Raw → Option Instr) ({ mkRaw m 5 13 (pack 0 (Reg.code a) (Src.code b)) with lit := b.word, pc := 0 } : Raw) = _
    simp [mkRaw, Raw.mods]
  · intro hp; rfl
  · intro r hr
    have hr' : rowOf (5 : BitVec 3) (13 : BitVec 6) = some (fZeroPairSrc2) := rfl
    obtain rfl := Option.some.inj (hr'.symm.trans hr)
    simp [takesLit, Opnd.mayLit, mkRaw, reg_code_ne, fZeroPairSrc2]

theorem step (m : Mods) (a : Reg) (b : Src) : Statement (.step m a b) := by
  intro x h hw
  obtain rfl := Option.some.inj h
  refine ⟨?_, ?_, ?_⟩
  · show (fun x => if x.d = 0 then (do return .step x.mods (← regOf x.a) (← srcOf x.lit x.b)) else none : Raw → Option Instr) ({ mkRaw m 5 14 (pack 0 (Reg.code a) (Src.code b)) with lit := b.word, pc := 0 } : Raw) = _
    simp [mkRaw, Raw.mods]
  · intro hp; rfl
  · intro r hr
    have hr' : rowOf (5 : BitVec 3) (14 : BitVec 6) = some (fZeroPairSrc2) := rfl
    obtain rfl := Option.some.inj (hr'.symm.trans hr)
    simp [takesLit, Opnd.mayLit, mkRaw, reg_code_ne, fZeroPairSrc2]

theorem intInfo (m : Mods) (d a : Reg) : Statement (.intInfo m d a) := by
  intro x h hw
  obtain rfl := Option.some.inj h
  refine ⟨?_, ?_, ?_⟩
  · show (fun x => if x.b = 0 then (do return .intInfo x.mods (← regOf x.d) (← regOf x.a)) else none : Raw → Option Instr) ((mkRaw m 5 15 (pack (Reg.code d) (Reg.code a) 0)) : Raw) = _
    simp [mkRaw, Raw.mods]
  · intro hp; rfl
  · intro r hr
    have hr' : rowOf (5 : BitVec 3) (15 : BitVec 6) = some ({ layout := (.dab .vpair .pair .zero), flag := .a, pfx := false, writes := true }) := rfl
    obtain rfl := Option.some.inj (hr'.symm.trans hr)
    simp [takesLit, Opnd.mayLit, mkRaw, reg_code_ne]

theorem agtNew (m : Mods) (d : Reg) (b : Src) : Statement (.agtNew m d b) := by
  intro x h hw
  obtain rfl := Option.some.inj h
  refine ⟨?_, ?_, ?_⟩
  · show (fun x => if x.a = 0 then (do return .agtNew x.mods (← regOf x.d) (← srcOf x.lit x.b)) else none : Raw → Option Instr) ({ mkRaw m 5 16 (pack (Reg.code d) 0 (Src.code b)) with lit := b.word, pc := 0 } : Raw) = _
    simp [mkRaw, Raw.mods]
  · intro hp; rfl
  · intro r hr
    have hr' : rowOf (5 : BitVec 3) (16 : BitVec 6) = some ({ layout := (.dab .vec .zero .srcPair), flag := .a, pfx := false, writes := true }) := rfl
    obtain rfl := Option.some.inj (hr'.symm.trans hr)
    simp [takesLit, Opnd.mayLit, mkRaw, reg_code_ne]

theorem agtFree (m : Mods) (a : Reg) : Statement (.agtFree m a) := by
  intro x h hw
  obtain rfl := Option.some.inj h
  refine ⟨?_, ?_, ?_⟩
  · show (fun x => if x.d = 0 ∧ x.b = 0 then (do return .agtFree x.mods (← regOf x.a)) else none : Raw → Option Instr) ((mkRaw m 5 17 (pack 0 (Reg.code a) 0)) : Raw) = _
    simp [mkRaw, Raw.mods]
  · intro hp; rfl
  · intro r hr
    have hr' : rowOf (5 : BitVec 3) (17 : BitVec 6) = some ({ layout := (.dab .zero .reg .zero), flag := .a, pfx := false }) := rfl
    obtain rfl := Option.some.inj (hr'.symm.trans hr)
    simp [takesLit, Opnd.mayLit, mkRaw, reg_code_ne]

theorem tileClaim (m : Mods) (d : Reg) (b : Src) : Statement (.tileClaim m d b) := by
  intro x h hw
  obtain rfl := Option.some.inj h
  refine ⟨?_, ?_, ?_⟩
  · show (fun x => if x.a = 0 then (do return .tileClaim x.mods (← regOf x.d) (← srcOf x.lit x.b)) else none : Raw → Option Instr) ({ mkRaw m 6 0 (pack (Reg.code d) 0 (Src.code b)) with lit := b.word, pc := 0 } : Raw) = _
    simp [mkRaw, Raw.mods]
  · intro hp; rfl
  · intro r hr
    have hr' : rowOf (6 : BitVec 3) (0 : BitVec 6) = some (fUniZeroSrcuni) := rfl
    obtain rfl := Option.some.inj (hr'.symm.trans hr)
    simp [takesLit, Opnd.mayLit, mkRaw, reg_code_ne, fUniZeroSrcuni]

theorem tileRel (m : Mods) (a : SlotRef) (b : Src) : Statement (.tileRel m a b) := by
  intro x h hw
  obtain rfl := Option.some.inj h
  refine ⟨?_, ?_, ?_⟩
  · show (fun x => if x.d = 0 then (do return .tileRel x.mods (← slotOf x.a) (← srcOf x.lit x.b)) else none : Raw → Option Instr) ({ mkRaw m 6 1 (pack 0 (SlotRef.code a) (Src.code b)) with lit := b.word, pc := 0 } : Raw) = _
    simp [mkRaw, Raw.mods]
  · intro hp; rfl
  · intro r hr
    have hr' : rowOf (6 : BitVec 3) (1 : BitVec 6) = some ({ layout := (.dab .zero .slot .srcUni), flag := .b, pfx := false }) := rfl
    obtain rfl := Option.some.inj (hr'.symm.trans hr)
    simp [takesLit, Opnd.mayLit, mkRaw, reg_code_ne]

theorem tileSt (m : Mods) (d : Reg) (a : SlotRef) : Statement (.tileSt m d a) := by
  intro x h hw
  obtain rfl := Option.some.inj h
  refine ⟨?_, ?_, ?_⟩
  · show (fun x => if x.b = 0 then (do return .tileSt x.mods (← regOf x.d) (← slotOf x.a)) else none : Raw → Option Instr) ((mkRaw m 6 2 (pack (Reg.code d) (SlotRef.code a) 0)) : Raw) = _
    simp [mkRaw, Raw.mods]
  · intro hp; rfl
  · intro r hr
    have hr' : rowOf (6 : BitVec 3) (2 : BitVec 6) = some ({ layout := (.dab .uni .slot .zero), flag := .b, pfx := false, writes := true }) := rfl
    obtain rfl := Option.some.inj (hr'.symm.trans hr)
    simp [takesLit, Opnd.mayLit, mkRaw, reg_code_ne]

theorem cpIn (m : Mods) (d a : Reg) (b : Src) : Statement (.cpIn m d a b) := by
  intro x h hw
  obtain rfl := Option.some.inj h
  refine ⟨?_, ?_, ?_⟩
  · show (fun x => (do return .cpIn x.mods (← regOf x.d) (← regOf x.a) (← srcOf x.lit x.b)) : Raw → Option Instr) ({ mkRaw m 6 3 (pack (Reg.code d) (Reg.code a) (Src.code b)) with lit := b.word, pc := 0 } : Raw) = _
    simp [mkRaw, Raw.mods]
  · intro hp; rfl
  · intro r hr
    have hr' : rowOf (6 : BitVec 3) (3 : BitVec 6) = some (fUniUniSrcuni) := rfl
    obtain rfl := Option.some.inj (hr'.symm.trans hr)
    simp [takesLit, Opnd.mayLit, mkRaw, reg_code_ne, fUniUniSrcuni]

theorem cpOut (m : Mods) (d a : Reg) (b : Src) : Statement (.cpOut m d a b) := by
  intro x h hw
  obtain rfl := Option.some.inj h
  refine ⟨?_, ?_, ?_⟩
  · show (fun x => (do return .cpOut x.mods (← regOf x.d) (← regOf x.a) (← srcOf x.lit x.b)) : Raw → Option Instr) ({ mkRaw m 6 4 (pack (Reg.code d) (Reg.code a) (Src.code b)) with lit := b.word, pc := 0 } : Raw) = _
    simp [mkRaw, Raw.mods]
  · intro hp; rfl
  · intro r hr
    have hr' : rowOf (6 : BitVec 3) (4 : BitVec 6) = some (fUniUniSrcuni) := rfl
    obtain rfl := Option.some.inj (hr'.symm.trans hr)
    simp [takesLit, Opnd.mayLit, mkRaw, reg_code_ne, fUniUniSrcuni]

theorem cpMem (m : Mods) (d a : Reg) (b : Src) : Statement (.cpMem m d a b) := by
  intro x h hw
  obtain rfl := Option.some.inj h
  refine ⟨?_, ?_, ?_⟩
  · show (fun x => (do return .cpMem x.mods (← regOf x.d) (← regOf x.a) (← srcOf x.lit x.b)) : Raw → Option Instr) ({ mkRaw m 6 5 (pack (Reg.code d) (Reg.code a) (Src.code b)) with lit := b.word, pc := 0 } : Raw) = _
    simp [mkRaw, Raw.mods]
  · intro hp; rfl
  · intro r hr
    have hr' : rowOf (6 : BitVec 3) (5 : BitVec 6) = some (fUniUnipSrcuni) := rfl
    obtain rfl := Option.some.inj (hr'.symm.trans hr)
    simp [takesLit, Opnd.mayLit, mkRaw, reg_code_ne, fUniUnipSrcuni]

theorem cpInMx (m : Mods) (d a : Reg) (b : Src) : Statement (.cpInMx m d a b) := by
  intro x h hw
  obtain rfl := Option.some.inj h
  refine ⟨?_, ?_, ?_⟩
  · show (fun x => (do return .cpInMx x.mods (← regOf x.d) (← regOf x.a) (← srcOf x.lit x.b)) : Raw → Option Instr) ({ mkRaw m 6 6 (pack (Reg.code d) (Reg.code a) (Src.code b)) with lit := b.word, pc := 0 } : Raw) = _
    simp [mkRaw, Raw.mods]
  · intro hp; rfl
  · intro r hr
    have hr' : rowOf (6 : BitVec 3) (6 : BitVec 6) = some (fUniUnipSrcuni) := rfl
    obtain rfl := Option.some.inj (hr'.symm.trans hr)
    simp [takesLit, Opnd.mayLit, mkRaw, reg_code_ne, fUniUnipSrcuni]

theorem mxMma (m : Mods) (d : Fin 2) (a b : SlotRef) : Statement (.mxMma m d a b) := by
  intro x h hw
  obtain rfl := Option.some.inj h
  refine ⟨?_, ?_, ?_⟩
  · show (fun x => (do return .mxMma x.mods (← fin2Of x.d) (← slotOf x.a) (← slotOf x.b)) : Raw → Option Instr) ((mkRaw m 6 7 (pack (fin2Code d) (SlotRef.code a) (SlotRef.code b))) : Raw) = _
    simp [mkRaw, Raw.mods]
  · intro hp; rfl
  · intro r hr
    have hr' : rowOf (6 : BitVec 3) (7 : BitVec 6) = some ({ layout := (.dab .ctx .slot .slot), flag := .b, pfx := false }) := rfl
    obtain rfl := Option.some.inj (hr'.symm.trans hr)
    simp [takesLit, Opnd.mayLit, mkRaw, reg_code_ne]

theorem mxSm (m : Mods) (d : Fin 2) (a : SlotRef) (b : Src) : Statement (.mxSm m d a b) := by
  intro x h hw
  obtain rfl := Option.some.inj h
  refine ⟨?_, ?_, ?_⟩
  · show (fun x => (do return .mxSm x.mods (← fin2Of x.d) (← slotOf x.a) (← srcOf x.lit x.b)) : Raw → Option Instr) ({ mkRaw m 6 8 (pack (fin2Code d) (SlotRef.code a) (Src.code b)) with lit := b.word, pc := 0 } : Raw) = _
    simp [mkRaw, Raw.mods]
  · intro hp; rfl
  · intro r hr
    have hr' : rowOf (6 : BitVec 3) (8 : BitVec 6) = some ({ layout := (.dab .ctx .slot .srcUni), flag := .b, pfx := false }) := rfl
    obtain rfl := Option.some.inj (hr'.symm.trans hr)
    simp [takesLit, Opnd.mayLit, mkRaw, reg_code_ne]

theorem mxRd (m : Mods) (d : Reg) (a : Fin 2) (b : Src) : Statement (.mxRd m d a b) := by
  intro x h hw
  obtain rfl := Option.some.inj h
  refine ⟨?_, ?_, ?_⟩
  · show (fun x => (do return .mxRd x.mods (← regOf x.d) (← fin2Of x.a) (← srcOf x.lit x.b)) : Raw → Option Instr) ({ mkRaw m 6 9 (pack (Reg.code d) (fin2Code a) (Src.code b)) with lit := b.word, pc := 0 } : Raw) = _
    simp [mkRaw, Raw.mods]
  · intro hp; rfl
  · intro r hr
    have hr' : rowOf (6 : BitVec 3) (9 : BitVec 6) = some ({ layout := (.dab .reg .ctx .srcUni), flag := .b, pfx := false, writes := true }) := rfl
    obtain rfl := Option.some.inj (hr'.symm.trans hr)
    simp [takesLit, Opnd.mayLit, mkRaw, reg_code_ne]

theorem mxClr (m : Mods) (d : Fin 2) : Statement (.mxClr m d) := by
  intro x h hw
  obtain rfl := Option.some.inj h
  refine ⟨?_, ?_, ?_⟩
  · show (fun x => if x.a = 0 ∧ x.b = 0 then (do return .mxClr x.mods (← fin2Of x.d)) else none : Raw → Option Instr) ((mkRaw m 6 10 (pack (fin2Code d) 0 0)) : Raw) = _
    simp [mkRaw, Raw.mods]
  · intro hp; rfl
  · intro r hr
    have hr' : rowOf (6 : BitVec 3) (10 : BitVec 6) = some ({ layout := (.dab .ctx .zero .zero), flag := .b, pfx := false }) := rfl
    obtain rfl := Option.some.inj (hr'.symm.trans hr)
    simp [takesLit, Opnd.mayLit, mkRaw, reg_code_ne]

theorem mxCtlClaim (m : Mods) (d : Fin 2) : Statement (.mxCtlClaim m d) := by
  intro x h hw
  obtain rfl := Option.some.inj h
  refine ⟨?_, ?_, ?_⟩
  · show buildMxCtl ((mkRaw m 6 11 (pack (fin2Code d) 0 0)) : Raw) = _
    simp [mkRaw, Raw.mods, buildMxCtl]
  · intro hp; rfl
  · intro r hr
    have hr' : rowOf (6 : BitVec 3) (11 : BitVec 6) = some (fMxCtl) := rfl
    obtain rfl := Option.some.inj (hr'.symm.trans hr)
    simp [takesLit, Opnd.mayLit, mkRaw, reg_code_ne, fMxCtl]

theorem mxCtlBind (m : Mods) (d : Fin 2) : Statement (.mxCtlBind m d) := by
  intro x h hw
  obtain rfl := Option.some.inj h
  refine ⟨?_, ?_, ?_⟩
  · show buildMxCtl ((mkRaw m 6 11 (pack (fin2Code d) 0 1)) : Raw) = _
    simp [mkRaw, Raw.mods, buildMxCtl]
  · intro hp; rfl
  · intro r hr
    have hr' : rowOf (6 : BitVec 3) (11 : BitVec 6) = some (fMxCtl) := rfl
    obtain rfl := Option.some.inj (hr'.symm.trans hr)
    simp [takesLit, Opnd.mayLit, mkRaw, reg_code_ne, fMxCtl]

theorem mxCtlRelease (m : Mods) (d : Fin 2) : Statement (.mxCtlRelease m d) := by
  intro x h hw
  obtain rfl := Option.some.inj h
  refine ⟨?_, ?_, ?_⟩
  · show buildMxCtl ((mkRaw m 6 11 (pack (fin2Code d) 0 2)) : Raw) = _
    simp [mkRaw, Raw.mods, buildMxCtl]
  · intro hp; rfl
  · intro r hr
    have hr' : rowOf (6 : BitVec 3) (11 : BitVec 6) = some (fMxCtl) := rfl
    obtain rfl := Option.some.inj (hr'.symm.trans hr)
    simp [takesLit, Opnd.mayLit, mkRaw, reg_code_ne, fMxCtl]

theorem tlWait (m : Mods) (a : Fin 16) (b : Src) : Statement (.tlWait m a b) := by
  intro x h hw
  obtain rfl := Option.some.inj h
  refine ⟨?_, ?_, ?_⟩
  · show (fun x => if x.d = 0 then (do return .tlWait x.mods (← fin16Of x.a) (← srcOf x.lit x.b)) else none : Raw → Option Instr) ({ mkRaw m 6 12 (pack 0 (fin16Code a) (Src.code b)) with lit := b.word, pc := 0 } : Raw) = _
    simp [mkRaw, Raw.mods]
  · intro hp; rfl
  · intro r hr
    have hr' : rowOf (6 : BitVec 3) (12 : BitVec 6) = some ({ layout := (.dab .zero .tl .srcUni), flag := .b, pfx := false }) := rfl
    obtain rfl := Option.some.inj (hr'.symm.trans hr)
    simp [takesLit, Opnd.mayLit, mkRaw, reg_code_ne]

theorem tlRd (m : Mods) (d : Reg) (a : Fin 16) (b : Fin 2) : Statement (.tlRd m d a b) := by
  intro x h hw
  obtain rfl := Option.some.inj h
  refine ⟨?_, ?_, ?_⟩
  · show (fun x => (do return .tlRd x.mods (← regOf x.d) (← fin16Of x.a) (← fin2Of x.b)) : Raw → Option Instr) ((mkRaw m 6 13 (pack (Reg.code d) (fin16Code a) (fin2Code b))) : Raw) = _
    simp [mkRaw, Raw.mods]
  · intro hp; rfl
  · intro r hr
    have hr' : rowOf (6 : BitVec 3) (13 : BitVec 6) = some ({ layout := (.dab .reg .tl (.upto 1)), flag := .b, pfx := false, writes := true }) := rfl
    obtain rfl := Option.some.inj (hr'.symm.trans hr)
    simp [takesLit, Opnd.mayLit, mkRaw, reg_code_ne]

theorem tlInc (m : Mods) (d : Reg) (a : Fin 16) (b : Src) : Statement (.tlInc m d a b) := by
  intro x h hw
  obtain rfl := Option.some.inj h
  refine ⟨?_, ?_, ?_⟩
  · show (fun x => (do return .tlInc x.mods (← regOf x.d) (← fin16Of x.a) (← srcOf x.lit x.b)) : Raw → Option Instr) ({ mkRaw m 6 14 (pack (Reg.code d) (fin16Code a) (Src.code b)) with lit := b.word, pc := 0 } : Raw) = _
    simp [mkRaw, Raw.mods]
  · intro hp; rfl
  · intro r hr
    have hr' : rowOf (6 : BitVec 3) (14 : BitVec 6) = some ({ layout := (.dab .uni .tlSoft .srcUni), flag := .b, pfx := false, writes := true }) := rfl
    obtain rfl := Option.some.inj (hr'.symm.trans hr)
    simp [takesLit, Opnd.mayLit, mkRaw, reg_code_ne]

theorem bankCmd (m : Mods) (d a : Reg) (b : Src) : Statement (.bankCmd m d a b) := by
  intro x h hw
  obtain rfl := Option.some.inj h
  refine ⟨?_, ?_, ?_⟩
  · show (fun x => (do return .bankCmd x.mods (← regOf x.d) (← regOf x.a) (← srcOf x.lit x.b)) : Raw → Option Instr) ({ mkRaw m 6 15 (pack (Reg.code d) (Reg.code a) (Src.code b)) with lit := b.word, pc := 0 } : Raw) = _
    simp [mkRaw, Raw.mods]
  · intro hp; rfl
  · intro r hr
    have hr' : rowOf (6 : BitVec 3) (15 : BitVec 6) = some (fUniUniSrcuni) := rfl
    obtain rfl := Option.some.inj (hr'.symm.trans hr)
    simp [takesLit, Opnd.mayLit, mkRaw, reg_code_ne, fUniUniSrcuni]

theorem launch (m : Mods) (d : MaskReg) (a : Reg) : Statement (.launch m d a) := by
  intro x h hw
  obtain rfl := Option.some.inj h
  refine ⟨?_, ?_, ?_⟩
  · show (fun x => if x.b = 0 then (do return .launch x.mods (← maskOf x.d) (← regOf x.a)) else none : Raw → Option Instr) ((mkRaw m 6 16 (pack (maskCode d) (Reg.code a) 0)) : Raw) = _
    simp [mkRaw, Raw.mods]
  · intro hp; rfl
  · intro r hr
    have hr' : rowOf (6 : BitVec 3) (16 : BitVec 6) = some ({ layout := (.dab .maskD .pair .zero), flag := .b, pfx := false, writes := true }) := rfl
    obtain rfl := Option.some.inj (hr'.symm.trans hr)
    simp [takesLit, Opnd.mayLit, mkRaw, reg_code_ne]

theorem recEmit (m : Mods) (d a : Reg) (b : Src) : Statement (.recEmit m d a b) := by
  intro x h hw
  obtain rfl := Option.some.inj h
  refine ⟨?_, ?_, ?_⟩
  · show (fun x => (do return .recEmit x.mods (← regOf x.d) (← regOf x.a) (← srcOf x.lit x.b)) : Raw → Option Instr) ({ mkRaw m 6 17 (pack (Reg.code d) (Reg.code a) (Src.code b)) with lit := b.word, pc := 0 } : Raw) = _
    simp [mkRaw, Raw.mods]
  · intro hp; rfl
  · intro r hr
    have hr' : rowOf (6 : BitVec 3) (17 : BitVec 6) = some ({ layout := (.dab .reg .run4 .src), flag := .b, pfx := false }) := rfl
    obtain rfl := Option.some.inj (hr'.symm.trans hr)
    simp [takesLit, Opnd.mayLit, mkRaw, reg_code_ne]

theorem logApp (m : Mods) (d a b : Reg) : Statement (.logApp m d a b) := by
  intro x h hw
  obtain rfl := Option.some.inj h
  refine ⟨?_, ?_, ?_⟩
  · show (fun x => (do return .logApp x.mods (← regOf x.d) (← regOf x.a) (← regOf x.b)) : Raw → Option Instr) ((mkRaw m 6 18 (pack (Reg.code d) (Reg.code a) (Reg.code b))) : Raw) = _
    simp [mkRaw, Raw.mods]
  · intro hp; rfl
  · intro r hr
    have hr' : rowOf (6 : BitVec 3) (18 : BitVec 6) = some ({ layout := (.dab .vec .pair .run8), flag := .b, pfx := false, writes := true }) := rfl
    obtain rfl := Option.some.inj (hr'.symm.trans hr)
    simp [takesLit, Opnd.mayLit, mkRaw, reg_code_ne]

theorem envClaim (m : Mods) (d : Reg) (b : Src) : Statement (.envClaim m d b) := by
  intro x h hw
  obtain rfl := Option.some.inj h
  refine ⟨?_, ?_, ?_⟩
  · show (fun x => if x.a = 0 then (do return .envClaim x.mods (← regOf x.d) (← srcOf x.lit x.b)) else none : Raw → Option Instr) ({ mkRaw m 6 32 (pack (Reg.code d) 0 (Src.code b)) with lit := b.word, pc := 0 } : Raw) = _
    simp [mkRaw, Raw.mods]
  · intro hp; rfl
  · intro r hr
    have hr' : rowOf (6 : BitVec 3) (32 : BitVec 6) = some (fUniZeroSrcuni) := rfl
    obtain rfl := Option.some.inj (hr'.symm.trans hr)
    simp [takesLit, Opnd.mayLit, mkRaw, reg_code_ne, fUniZeroSrcuni]

theorem envRel (m : Mods) (a : EnvRef) (b : Src) : Statement (.envRel m a b) := by
  intro x h hw
  obtain rfl := Option.some.inj h
  refine ⟨?_, ?_, ?_⟩
  · show (fun x => if x.d = 0 then (do return .envRel x.mods (← envOf x.a) (← srcOf x.lit x.b)) else none : Raw → Option Instr) ({ mkRaw m 6 33 (pack 0 (EnvRef.code a) (Src.code b)) with lit := b.word, pc := 0 } : Raw) = _
    simp [mkRaw, Raw.mods]
  · intro hp; rfl
  · intro r hr
    have hr' : rowOf (6 : BitVec 3) (33 : BitVec 6) = some ({ layout := (.dab .zero .env .srcUni), flag := .b, pfx := false }) := rfl
    obtain rfl := Option.some.inj (hr'.symm.trans hr)
    simp [takesLit, Opnd.mayLit, mkRaw, reg_code_ne]

theorem envClr (m : Mods) (d : EnvRef) (b : Reg) : Statement (.envClr m d b) := by
  intro x h hw
  obtain rfl := Option.some.inj h
  refine ⟨?_, ?_, ?_⟩
  · show (fun x => if x.a = 0 then (do return .envClr x.mods (← envOf x.d) (← regOf x.b)) else none : Raw → Option Instr) ((mkRaw m 6 34 (pack (EnvRef.code d) 0 (Reg.code b))) : Raw) = _
    simp [mkRaw, Raw.mods]
  · intro hp; rfl
  · intro r hr
    have hr' : rowOf (6 : BitVec 3) (34 : BitVec 6) = some ({ layout := (.dab .env .zero .unip), flag := .b, pfx := false }) := rfl
    obtain rfl := Option.some.inj (hr'.symm.trans hr)
    simp [takesLit, Opnd.mayLit, mkRaw, reg_code_ne]

theorem envIns (m : Mods) (d : EnvRef) (a : Reg) (b : Src) : Statement (.envIns m d a b) := by
  intro x h hw
  obtain rfl := Option.some.inj h
  refine ⟨?_, ?_, ?_⟩
  · show (fun x => (do return .envIns x.mods (← envOf x.d) (← regOf x.a) (← srcOf x.lit x.b)) : Raw → Option Instr) ({ mkRaw m 6 35 (pack (EnvRef.code d) (Reg.code a) (Src.code b)) with lit := b.word, pc := 0 } : Raw) = _
    simp [mkRaw, Raw.mods]
  · intro hp; rfl
  · intro r hr
    have hr' : rowOf (6 : BitVec 3) (35 : BitVec 6) = some ({ layout := (.dab .env .reg .src), flag := .b, pfx := false }) := rfl
    obtain rfl := Option.some.inj (hr'.symm.trans hr)
    simp [takesLit, Opnd.mayLit, mkRaw, reg_code_ne]

theorem envSum (m : Mods) (d a b : EnvRef) : Statement (.envSum m d a b) := by
  intro x h hw
  obtain rfl := Option.some.inj h
  refine ⟨?_, ?_, ?_⟩
  · show (fun x => (do return .envSum x.mods (← envOf x.d) (← envOf x.a) (← envOf x.b)) : Raw → Option Instr) ((mkRaw m 6 36 (pack (EnvRef.code d) (EnvRef.code a) (EnvRef.code b))) : Raw) = _
    simp [mkRaw, Raw.mods]
  · intro hp; rfl
  · intro r hr
    have hr' : rowOf (6 : BitVec 3) (36 : BitVec 6) = some (fEnvEnvEnv) := rfl
    obtain rfl := Option.some.inj (hr'.symm.trans hr)
    simp [takesLit, Opnd.mayLit, mkRaw, reg_code_ne, fEnvEnvEnv]

theorem envMax (m : Mods) (d a b : EnvRef) : Statement (.envMax m d a b) := by
  intro x h hw
  obtain rfl := Option.some.inj h
  refine ⟨?_, ?_, ?_⟩
  · show (fun x => (do return .envMax x.mods (← envOf x.d) (← envOf x.a) (← envOf x.b)) : Raw → Option Instr) ((mkRaw m 6 37 (pack (EnvRef.code d) (EnvRef.code a) (EnvRef.code b))) : Raw) = _
    simp [mkRaw, Raw.mods]
  · intro hp; rfl
  · intro r hr
    have hr' : rowOf (6 : BitVec 3) (37 : BitVec 6) = some (fEnvEnvEnv) := rfl
    obtain rfl := Option.some.inj (hr'.symm.trans hr)
    simp [takesLit, Opnd.mayLit, mkRaw, reg_code_ne, fEnvEnvEnv]

theorem envIcv (m : Mods) (d a b : EnvRef) : Statement (.envIcv m d a b) := by
  intro x h hw
  obtain rfl := Option.some.inj h
  refine ⟨?_, ?_, ?_⟩
  · show (fun x => (do return .envIcv x.mods (← envOf x.d) (← envOf x.a) (← envOf x.b)) : Raw → Option Instr) ((mkRaw m 6 38 (pack (EnvRef.code d) (EnvRef.code a) (EnvRef.code b))) : Raw) = _
    simp [mkRaw, Raw.mods]
  · intro hp; rfl
  · intro r hr
    have hr' : rowOf (6 : BitVec 3) (38 : BitVec 6) = some (fEnvEnvEnv) := rfl
    obtain rfl := Option.some.inj (hr'.symm.trans hr)
    simp [takesLit, Opnd.mayLit, mkRaw, reg_code_ne, fEnvEnvEnv]

theorem envConj (m : Mods) (d a : EnvRef) (b : Reg) : Statement (.envConj m d a b) := by
  intro x h hw
  obtain rfl := Option.some.inj h
  refine ⟨?_, ?_, ?_⟩
  · show (fun x => (do return .envConj x.mods (← envOf x.d) (← envOf x.a) (← regOf x.b)) : Raw → Option Instr) ((mkRaw m 6 39 (pack (EnvRef.code d) (EnvRef.code a) (Reg.code b))) : Raw) = _
    simp [mkRaw, Raw.mods]
  · intro hp; rfl
  · intro r hr
    have hr' : rowOf (6 : BitVec 3) (39 : BitVec 6) = some ({ layout := (.dab .env .env .unip), flag := .b, pfx := false }) := rfl
    obtain rfl := Option.some.inj (hr'.symm.trans hr)
    simp [takesLit, Opnd.mayLit, mkRaw, reg_code_ne]

theorem envSimp (m : Mods) (d a : EnvRef) : Statement (.envSimp m d a) := by
  intro x h hw
  obtain rfl := Option.some.inj h
  refine ⟨?_, ?_, ?_⟩
  · show (fun x => if x.b = 0 then (do return .envSimp x.mods (← envOf x.d) (← envOf x.a)) else none : Raw → Option Instr) ((mkRaw m 6 40 (pack (EnvRef.code d) (EnvRef.code a) 0)) : Raw) = _
    simp [mkRaw, Raw.mods]
  · intro hp; rfl
  · intro r hr
    have hr' : rowOf (6 : BitVec 3) (40 : BitVec 6) = some ({ layout := (.dab .env .env .zero), flag := .b, pfx := false }) := rfl
    obtain rfl := Option.some.inj (hr'.symm.trans hr)
    simp [takesLit, Opnd.mayLit, mkRaw, reg_code_ne]

theorem envEval (m : Mods) (d : Reg) (a : EnvRef) (b : Src) : Statement (.envEval m d a b) := by
  intro x h hw
  obtain rfl := Option.some.inj h
  refine ⟨?_, ?_, ?_⟩
  · show (fun x => (do return .envEval x.mods (← regOf x.d) (← envOf x.a) (← srcOf x.lit x.b)) : Raw → Option Instr) ({ mkRaw m 6 41 (pack (Reg.code d) (EnvRef.code a) (Src.code b)) with lit := b.word, pc := 0 } : Raw) = _
    simp [mkRaw, Raw.mods]
  · intro hp; rfl
  · intro r hr
    have hr' : rowOf (6 : BitVec 3) (41 : BitVec 6) = some (fVecEnvSrc) := rfl
    obtain rfl := Option.some.inj (hr'.symm.trans hr)
    simp [takesLit, Opnd.mayLit, mkRaw, reg_code_ne, fVecEnvSrc]

theorem envSlope (m : Mods) (d : Reg) (a : EnvRef) (b : Src) : Statement (.envSlope m d a b) := by
  intro x h hw
  obtain rfl := Option.some.inj h
  refine ⟨?_, ?_, ?_⟩
  · show (fun x => (do return .envSlope x.mods (← regOf x.d) (← envOf x.a) (← srcOf x.lit x.b)) : Raw → Option Instr) ({ mkRaw m 6 42 (pack (Reg.code d) (EnvRef.code a) (Src.code b)) with lit := b.word, pc := 0 } : Raw) = _
    simp [mkRaw, Raw.mods]
  · intro hp; rfl
  · intro r hr
    have hr' : rowOf (6 : BitVec 3) (42 : BitVec 6) = some (fVecEnvSrc) := rfl
    obtain rfl := Option.some.inj (hr'.symm.trans hr)
    simp [takesLit, Opnd.mayLit, mkRaw, reg_code_ne, fVecEnvSrc]

theorem envRd (m : Mods) (d : Reg) (a : EnvRef) (b : Src) : Statement (.envRd m d a b) := by
  intro x h hw
  obtain rfl := Option.some.inj h
  refine ⟨?_, ?_, ?_⟩
  · show (fun x => (do return .envRd x.mods (← regOf x.d) (← envOf x.a) (← srcOf x.lit x.b)) : Raw → Option Instr) ({ mkRaw m 6 43 (pack (Reg.code d) (EnvRef.code a) (Src.code b)) with lit := b.word, pc := 0 } : Raw) = _
    simp [mkRaw, Raw.mods]
  · intro hp; rfl
  · intro r hr
    have hr' : rowOf (6 : BitVec 3) (43 : BitVec 6) = some ({ layout := (.dab .reg .env .srcUni), flag := .b, pfx := false, writes := true }) := rfl
    obtain rfl := Option.some.inj (hr'.symm.trans hr)
    simp [takesLit, Opnd.mayLit, mkRaw, reg_code_ne]

theorem envCnt (m : Mods) (d : Reg) (a : EnvRef) : Statement (.envCnt m d a) := by
  intro x h hw
  obtain rfl := Option.some.inj h
  refine ⟨?_, ?_, ?_⟩
  · show (fun x => if x.b = 0 then (do return .envCnt x.mods (← regOf x.d) (← envOf x.a)) else none : Raw → Option Instr) ((mkRaw m 6 44 (pack (Reg.code d) (EnvRef.code a) 0)) : Raw) = _
    simp [mkRaw, Raw.mods]
  · intro hp; rfl
  · intro r hr
    have hr' : rowOf (6 : BitVec 3) (44 : BitVec 6) = some ({ layout := (.dab .reg .env .zero), flag := .b, pfx := false, writes := true }) := rfl
    obtain rfl := Option.some.inj (hr'.symm.trans hr)
    simp [takesLit, Opnd.mayLit, mkRaw, reg_code_ne]

theorem envLd (m : Mods) (d : EnvRef) (a : Reg) : Statement (.envLd m d a) := by
  intro x h hw
  obtain rfl := Option.some.inj h
  refine ⟨?_, ?_, ?_⟩
  · show (fun x => if x.b = 0 then (do return .envLd x.mods (← envOf x.d) (← regOf x.a)) else none : Raw → Option Instr) ((mkRaw m 6 45 (pack (EnvRef.code d) (Reg.code a) 0)) : Raw) = _
    simp [mkRaw, Raw.mods]
  · intro hp; rfl
  · intro r hr
    have hr' : rowOf (6 : BitVec 3) (45 : BitVec 6) = some (fEnvUniZero) := rfl
    obtain rfl := Option.some.inj (hr'.symm.trans hr)
    simp [takesLit, Opnd.mayLit, mkRaw, reg_code_ne, fEnvUniZero]

theorem envSt (m : Mods) (d : EnvRef) (a : Reg) : Statement (.envSt m d a) := by
  intro x h hw
  obtain rfl := Option.some.inj h
  refine ⟨?_, ?_, ?_⟩
  · show (fun x => if x.b = 0 then (do return .envSt x.mods (← envOf x.d) (← regOf x.a)) else none : Raw → Option Instr) ((mkRaw m 6 46 (pack (EnvRef.code d) (Reg.code a) 0)) : Raw) = _
    simp [mkRaw, Raw.mods]
  · intro hp; rfl
  · intro r hr
    have hr' : rowOf (6 : BitVec 3) (46 : BitVec 6) = some (fEnvUniZero) := rfl
    obtain rfl := Option.some.inj (hr'.symm.trans hr)
    simp [takesLit, Opnd.mayLit, mkRaw, reg_code_ne, fEnvUniZero]

theorem csrRd (m : Mods) (d : Reg) (a : Csr) : Statement (.csrRd m d a) := by
  intro x h hw
  obtain rfl := Option.some.inj h
  refine ⟨?_, ?_, ?_⟩
  · show (fun x => if x.b = 0 then (do return .csrRd x.mods (← regOf x.d) (← csrOf x.a)) else none : Raw → Option Instr) ((mkRaw m 7 0 (pack (Reg.code d) (Csr.code a) 0)) : Raw) = _
    simp [mkRaw, Raw.mods]
  · intro hp; rfl
  · intro r hr
    have hr' : rowOf (7 : BitVec 3) (0 : BitVec 6) = some ({ layout := (.dab .csrD .csr .zero), pfx := false, writes := true }) := rfl
    obtain rfl := Option.some.inj (hr'.symm.trans hr)
    simp [takesLit, Opnd.mayLit, mkRaw, reg_code_ne]

theorem csrWr (m : Mods) (a : Csr) (b : Src) : Statement (.csrWr m a b) := by
  intro x h hw
  obtain rfl := Option.some.inj h
  refine ⟨?_, ?_, ?_⟩
  · show (fun x => if x.d = 0 then (do return .csrWr x.mods (← csrOf x.a) (← srcOf x.lit x.b)) else none : Raw → Option Instr) ({ mkRaw m 7 1 (pack 0 (Csr.code a) (Src.code b)) with lit := b.word, pc := 0 } : Raw) = _
    simp [mkRaw, Raw.mods]
  · intro hp; rfl
  · intro r hr
    have hr' : rowOf (7 : BitVec 3) (1 : BitVec 6) = some ({ layout := (.dab .zeroL .csr .srcUni), pfx := false }) := rfl
    obtain rfl := Option.some.inj (hr'.symm.trans hr)
    simp [takesLit, Opnd.mayLit, mkRaw, reg_code_ne]

theorem csrSet (m : Mods) (d : Reg) (a : Csr) (b : Src) : Statement (.csrSet m d a b) := by
  intro x h hw
  obtain rfl := Option.some.inj h
  refine ⟨?_, ?_, ?_⟩
  · show (fun x => (do return .csrSet x.mods (← regOf x.d) (← csrOf x.a) (← srcOf x.lit x.b)) : Raw → Option Instr) ({ mkRaw m 7 2 (pack (Reg.code d) (Csr.code a) (Src.code b)) with lit := b.word, pc := 0 } : Raw) = _
    simp [mkRaw, Raw.mods]
  · intro hp; rfl
  · intro r hr
    have hr' : rowOf (7 : BitVec 3) (2 : BitVec 6) = some (fUniCsrSrcuni) := rfl
    obtain rfl := Option.some.inj (hr'.symm.trans hr)
    simp [takesLit, Opnd.mayLit, mkRaw, reg_code_ne, fUniCsrSrcuni]

theorem csrClr (m : Mods) (d : Reg) (a : Csr) (b : Src) : Statement (.csrClr m d a b) := by
  intro x h hw
  obtain rfl := Option.some.inj h
  refine ⟨?_, ?_, ?_⟩
  · show (fun x => (do return .csrClr x.mods (← regOf x.d) (← csrOf x.a) (← srcOf x.lit x.b)) : Raw → Option Instr) ({ mkRaw m 7 3 (pack (Reg.code d) (Csr.code a) (Src.code b)) with lit := b.word, pc := 0 } : Raw) = _
    simp [mkRaw, Raw.mods]
  · intro hp; rfl
  · intro r hr
    have hr' : rowOf (7 : BitVec 3) (3 : BitVec 6) = some (fUniCsrSrcuni) := rfl
    obtain rfl := Option.some.inj (hr'.symm.trans hr)
    simp [takesLit, Opnd.mayLit, mkRaw, reg_code_ne, fUniCsrSrcuni]

theorem trap (m : Mods) (b : Src) : Statement (.trap m b) := by
  intro x h hw
  obtain rfl := Option.some.inj h
  refine ⟨?_, ?_, ?_⟩
  · show (fun x => if x.d = 0 ∧ x.a = 0 then (do return .trap x.mods (← srcOf x.lit x.b)) else none : Raw → Option Instr) ({ mkRaw m 7 4 (pack 0 0 (Src.code b)) with lit := b.word, pc := 0 } : Raw) = _
    simp [mkRaw, Raw.mods]
  · intro hp; rfl
  · intro r hr
    have hr' : rowOf (7 : BitVec 3) (4 : BitVec 6) = some ({ layout := (.dab .zeroL .zeroL .srcUni), pfx := false }) := rfl
    obtain rfl := Option.some.inj (hr'.symm.trans hr)
    simp [takesLit, Opnd.mayLit, mkRaw, reg_code_ne]

theorem tret (m : Mods) : Statement (.tret m) := by
  intro x h hw
  obtain rfl := Option.some.inj h
  refine ⟨?_, ?_, ?_⟩
  · show (fun x => if x.d = 0 ∧ x.a = 0 ∧ x.b = 0 then (do return .tret x.mods) else none : Raw → Option Instr) ((mkRaw m 7 5 (pack 0 0 0)) : Raw) = _
    simp [mkRaw, Raw.mods]
  · intro hp; rfl
  · intro r hr
    have hr' : rowOf (7 : BitVec 3) (5 : BitVec 6) = some (fZerolZerolZero) := rfl
    obtain rfl := Option.some.inj (hr'.symm.trans hr)
    simp [takesLit, Opnd.mayLit, mkRaw, reg_code_ne, fZerolZerolZero]

theorem brk (m : Mods) (b : BitVec 7) : Statement (.brk m b) := by
  intro x h hw
  obtain rfl := Option.some.inj h
  refine ⟨?_, ?_, ?_⟩
  · show (fun x => if x.d = 0 ∧ x.a = 0 then (do return .brk x.mods x.b) else none : Raw → Option Instr) ((mkRaw m 7 6 (pack 0 0 b)) : Raw) = _
    simp [mkRaw, Raw.mods]
  · intro hp; rfl
  · intro r hr
    have hr' : rowOf (7 : BitVec 3) (6 : BitVec 6) = some ({ layout := (.dab .zeroL .zeroL .imm), pfx := false }) := rfl
    obtain rfl := Option.some.inj (hr'.symm.trans hr)
    simp [takesLit, Opnd.mayLit, mkRaw, reg_code_ne]

theorem clk (m : Mods) (d : Reg) : Statement (.clk m d) := by
  intro x h hw
  obtain rfl := Option.some.inj h
  refine ⟨?_, ?_, ?_⟩
  · show (fun x => if x.a = 0 ∧ x.b = 0 then (do return .clk x.mods (← regOf x.d)) else none : Raw → Option Instr) ((mkRaw m 7 7 (pack (Reg.code d) 0 0)) : Raw) = _
    simp [mkRaw, Raw.mods]
  · intro hp; rfl
  · intro r hr
    have hr' : rowOf (7 : BitVec 3) (7 : BitVec 6) = some ({ layout := (.dab .pair .zeroL .zero), pfx := false, writes := true }) := rfl
    obtain rfl := Option.some.inj (hr'.symm.trans hr)
    simp [takesLit, Opnd.mayLit, mkRaw, reg_code_ne]

theorem fenceWin (m : Mods) : Statement (.fenceWin m) := by
  intro x h hw
  obtain rfl := Option.some.inj h
  refine ⟨?_, ?_, ?_⟩
  · show (fun x => if x.d = 0 ∧ x.a = 0 ∧ x.b = 0 then (do return .fenceWin x.mods) else none : Raw → Option Instr) ((mkRaw m 7 8 (pack 0 0 0)) : Raw) = _
    simp [mkRaw, Raw.mods]
  · intro hp; rfl
  · intro r hr
    have hr' : rowOf (7 : BitVec 3) (8 : BitVec 6) = some (fZerolZerolZero) := rfl
    obtain rfl := Option.some.inj (hr'.symm.trans hr)
    simp [takesLit, Opnd.mayLit, mkRaw, reg_code_ne, fZerolZerolZero]

theorem specialFunctionResult (op : Nat) : Statement (.specialFunctionResult op) := fun _ h => by cases h

theorem mailboxStorePerform (req : Nat) : Statement (.mailboxStorePerform req) := fun _ h => by cases h

theorem homeAcceptance (req : Nat) : Statement (.homeAcceptance req) := fun _ h => by cases h

theorem loadResultWrite (req : Nat) : Statement (.loadResultWrite req) := fun _ h => by cases h

theorem writeAcknowledged (req : Nat) : Statement (.writeAcknowledged req) := fun _ h => by cases h

theorem gridEndFlush (grid : Nat) : Statement (.gridEndFlush grid) := fun _ h => by cases h

theorem barrierArrivalCount (arr : Nat) : Statement (.barrierArrivalCount arr) := fun _ h => by cases h

theorem stewardReply (req : Nat) : Statement (.stewardReply req) := fun _ h => by cases h

theorem exitEndRequest (req : Nat) : Statement (.exitEndRequest req) := fun _ h => by cases h

theorem planSelection (quad : Nat) : Statement (.planSelection quad) := fun _ h => by cases h

theorem activationEntry (quad : Nat) : Statement (.activationEntry quad) := fun _ h => by cases h

theorem coachTimerDeparture (quad : Nat) (node : Nat) : Statement (.coachTimerDeparture quad node) := fun _ h => by cases h

theorem dieFifoPlacement (die : Nat) : Statement (.dieFifoPlacement die) := fun _ h => by cases h

theorem porterChunk (core : Nat) (ctx : Nat) : Statement (.porterChunk core ctx) := fun _ h => by cases h

theorem followOnIssue (core : Nat) (x : Nat) : Statement (.followOnIssue core x) := fun _ h => by cases h

theorem matrixCommandExecute (core : Nat) (x : Nat) : Statement (.matrixCommandExecute core x) := fun _ h => by cases h

theorem bankListStart (engine : Nat) : Statement (.bankListStart engine) := fun _ h => by cases h

theorem bend (engine : Nat) : Statement (.bend engine) := fun _ h => by cases h

theorem bvec (engine : Nat) : Statement (.bvec engine) := fun _ h => by cases h

theorem bmv (engine : Nat) : Statement (.bmv engine) := fun _ h => by cases h

theorem bclr (engine : Nat) : Statement (.bclr engine) := fun _ h => by cases h

theorem bout (engine : Nat) : Statement (.bout engine) := fun _ h => by cases h

theorem bsync (engine : Nat) : Statement (.bsync engine) := fun _ h => by cases h

theorem deferredLaunchEnqueue (fe : Nat) : Statement (.deferredLaunchEnqueue fe) := fun _ h => by cases h

theorem envelopeExecute (core : Nat) : Statement (.envelopeExecute core) := fun _ h => by cases h

theorem clauseEntry (party : Nat) : Statement (.clauseEntry party) := fun _ h => by cases h

theorem lanePick (lane : Nat) : Statement (.lanePick lane) := fun _ h => by cases h

theorem trapEntry (party : Nat) : Statement (.trapEntry party) := fun _ h => by cases h

theorem napTimeout (party : Nat) : Statement (.napTimeout party) := fun _ h => by cases h

theorem periodBoundary  : Statement .periodBoundary := fun _ h => by cases h

theorem tokenReturn (core : Nat) : Statement (.tokenReturn core) := fun _ h => by cases h

theorem watchdogExpiry (party : Nat) : Statement (.watchdogExpiry party) := fun _ h => by cases h

theorem gridPlacement (fe : Nat) : Statement (.gridPlacement fe) := fun _ h => by cases h

theorem crewAdmission (crew : Nat) : Statement (.crewAdmission crew) := fun _ h => by cases h

theorem restoration (crew : Nat) : Statement (.restoration crew) := fun _ h => by cases h

theorem preemption (fe : Nat) : Statement (.preemption fe) := fun _ h => by cases h

theorem lodgingRestore (fe : Nat) : Statement (.lodgingRestore fe) := fun _ h => by cases h

theorem caravanMemberLoss (caravan : Nat) : Statement (.caravanMemberLoss caravan) := fun _ h => by cases h

theorem functionLevelReset (fe : Nat) : Statement (.functionLevelReset fe) := fun _ h => by cases h

theorem pfReset  : Statement .pfReset := fun _ h => by cases h

theorem warmReset  : Statement .warmReset := fun _ h => by cases h

theorem coldReset  : Statement .coldReset := fun _ h => by cases h

theorem firmwareBoot  : Statement .firmwareBoot := fun _ h => by cases h

theorem recoveryImage (image : FwImage) : Statement (.recoveryImage image) := fun _ h => by cases h

theorem fullServiceTransition  : Statement .fullServiceTransition := fun _ h => by cases h

theorem innkeeperMismatch  : Statement .innkeeperMismatch := fun _ h => by cases h

theorem doorbell (fe : Nat) (tail : DWord) : Statement (.doorbell fe tail) := fun _ h => by cases h

theorem statusResume (fe : Nat) : Statement (.statusResume fe) := fun _ h => by cases h

theorem powerCap (watts : BitVec 16) : Statement (.powerCap watts) := fun _ h => by cases h

theorem barRegisterWrite (fe : Nat) (off : Nat) (value : DWord) : Statement (.barRegisterWrite fe off value) := fun _ h => by cases h

theorem packetStart (fe : Nat) : Statement (.packetStart fe) := fun _ h => by cases h

theorem packetWait (fe : Nat) : Statement (.packetWait fe) := fun _ h => by cases h

theorem packetSignal (pkt : Nat) : Statement (.packetSignal pkt) := fun _ h => by cases h

theorem msixUnmask (fe : Nat) (vector : Nat) : Statement (.msixUnmask fe vector) := fun _ h => by cases h

theorem nopPacket (fe : Nat) : Statement (.nopPacket fe) := fun _ h => by cases h

theorem grid (fe : Nat) : Statement (.grid fe) := fun _ h => by cases h

theorem copy (fe : Nat) : Statement (.copy fe) := fun _ h => by cases h

theorem ib (fe : Nat) : Statement (.ib fe) := fun _ h => by cases h

theorem loopPacket (fe : Nat) : Statement (.loopPacket fe) := fun _ h => by cases h

theorem ffence (fe : Nat) : Statement (.ffence fe) := fun _ h => by cases h

theorem inval (fe : Nat) : Statement (.inval fe) := fun _ h => by cases h

theorem invalidationArrival (inv : Nat) (quad : Nat) : Statement (.invalidationArrival inv quad) := fun _ h => by cases h

theorem invalidationComplete (inv : Nat) : Statement (.invalidationComplete inv) := fun _ h => by cases h

theorem pageWalk (quad : Nat) (fe : Nat) (va : DWord) : Statement (.pageWalk quad fe va) := fun _ h => by cases h

theorem coll (fe : Nat) : Statement (.coll fe) := fun _ h => by cases h

theorem collectiveComplete (coll : Nat) : Statement (.collectiveComplete coll) := fun _ h => by cases h

theorem msg (fe : Nat) : Statement (.msg fe) := fun _ h => by cases h

theorem messageReceive (message : Nat) : Statement (.messageReceive message) := fun _ h => by cases h

theorem regionCreate (fe : Nat) : Statement (.regionCreate fe) := fun _ h => by cases h

theorem regionDestroy (fe : Nat) : Statement (.regionDestroy fe) := fun _ h => by cases h

theorem agents (fe : Nat) : Statement (.agents fe) := fun _ h => by cases h

theorem libraryInstall (fe : Nat) (base : DWord) (prio : BitVec 4) : Statement (.libraryInstall fe base prio) := fun _ h => by cases h

theorem lodgingDescriptorWrite (fe : Nat) (desc : DWord) : Statement (.lodgingDescriptorWrite fe desc) := fun _ h => by cases h

theorem blockAssign (block : Nat) (owner : Owner) : Statement (.blockAssign block owner) := fun _ h => by cases h

theorem winOpen (req : WinRequest) : Statement (.winOpen req) := fun _ h => by cases h

theorem winClose (window : Nat) : Statement (.winClose window) := fun _ h => by cases h

theorem cellarPin (fe : Nat) (base : Nat) (len : Nat) : Statement (.cellarPin fe base len) := fun _ h => by cases h

theorem cellarUnpin (fe : Nat) (base : Nat) (len : Nat) : Statement (.cellarUnpin fe base len) := fun _ h => by cases h

theorem attestationReport (fe : Nat) (nonce : BitVec 256) : Statement (.attestationReport fe nonce) := fun _ h => by cases h

theorem migration (fe : Nat) (report : Report) : Statement (.migration fe report) := fun _ h => by cases h

theorem passportAccept (fe : Nat) (passport : Passport) : Statement (.passportAccept fe passport) := fun _ h => by cases h

theorem caravanSliceStart (caravan : Nat) : Statement (.caravanSliceStart caravan) := fun _ h => by cases h

theorem lineWriteMemory (line : Nat) : Statement (.lineWriteMemory line) := fun _ h => by cases h

theorem lineReadMemory (line : Nat) : Statement (.lineReadMemory line) := fun _ h => by cases h

theorem lineWriteback (line : Nat) : Statement (.lineWriteback line) := fun _ h => by cases h

theorem patrolScrub (line : Nat) : Statement (.patrolScrub line) := fun _ h => by cases h

theorem regionTagLoss (slice : Nat) (set : Nat) : Statement (.regionTagLoss slice set) := fun _ h => by cases h

theorem fabricTimeout (req : Nat) : Statement (.fabricTimeout req) := fun _ h => by cases h

theorem portFailure (port : Nat) : Statement (.portFailure port) := fun _ h => by cases h

theorem budgetPeriod  : Statement .budgetPeriod := fun _ h => by cases h

theorem powerSample (watts : Nat) (average : Nat) : Statement (.powerSample watts average) := fun _ h => by cases h

theorem blockedOnDependence (fe : Nat) : Statement (.blockedOnDependence fe) := fun _ h => by cases h

theorem caravanSliceEnd (caravan : Nat) : Statement (.caravanSliceEnd caravan) := fun _ h => by cases h

theorem debugHalt (party : Nat) : Statement (.debugHalt party) := fun _ h => by cases h

theorem restoreAcknowledged (fe : Nat) : Statement (.restoreAcknowledged fe) := fun _ h => by cases h

theorem failedFlit (port : Nat) : Statement (.failedFlit port) := fun _ h => by cases h


end Sys2Proof.Laws.RoundTrip
end

