-- ==== Sys2Proof/Safety.lean ====
section
/-! DEFINITION. What counts as a safe run: the steps that answer a next state, and what every state of the machine keeps. -/

namespace Sys2Proof

open Sys2Proof.Machine

/-- What every step keeps: memory and host memory are in canonical form, the Logbook is a ring of 4,096 records (R394), and the power cap
and the token pool stay within their limits (R351, R385, R398). -/
structure Inv (s : State) : Prop where
  memory : Memory.wf s.mem.bytes = true
  host : Memory.wf s.mem.host = true
  logbook : s.pkg.log.length ≤ 4096
  capLow : 1200 ≤ s.pkg.cap
  capHigh : s.pkg.cap ≤ 3200
  pool : s.pkg.pool ≤ 1024

/-- A step that stops nowhere. -/
def Completes (o : Host.Outcome State Fault Refusal) : Prop := ∃ t, o = .next t

/-- A run of `n` steps that stops nowhere. -/
def SafeRun (n : Nat) (s : State) : Prop := ∃ t, core.run n s = .next t

end Sys2Proof
end

