-- ==== Sys2Proof/Certificates/Slice0/Obligations.lean ====
section
/-! DEFINITION. What the model is claimed to do, for the provers: the terms the claims are said in, and the claims. -/

namespace Sys2Proof.Says

open Sys2Proof Sys2Proof.Machine

/-! ### Terms shared by the claims about instruction words -/

/-- Party `x`, number `p`, is the one whose word issues. -/
def Issuing (s : State) (p : Nat) (x : Party) : Prop := s.cur = some p ∧ s.party? p = some x

/-- Every register that the word names lies below Rt in every iteration, or the word touches no thread (R11, R15, R81, R82). -/
def Within (x : Party) (m : Mods) (regs : List (Reg × Nat)) : Prop :=
  x.selected m ||| x.zeroed m = 0 ∨
    ∀ n l, (Reg.v n, l) ∈ regs → ∀ j < l, ∀ k < repsOf m, x.base + n.val + j + k < min x.rt 1024

/-- Thread `t` executes the word (R8, R81). -/
def Runs (x : Party) (m : Mods) (t : Nat) : Prop := t < x.width ∧ bitOf (x.selected m) t = true
/-- Thread `t` is active, not selected, and the word clears its destination (R81). -/
def Clears (x : Party) (m : Mods) (t : Nat) : Prop := t < x.width ∧ bitOf (x.zeroed m) t = true

open Classical in
/-- `z` is `y` after one iteration of a word with a vector destination: physical register `r` of every thread that executes takes its
value, that of a thread which the zero policy names takes 0, and everything else of the party stands (R81, R82). -/
def VecStep (x : Party) (m : Mods) (r : Nat) (val : Nat → Word) (y z : Party) : Prop :=
  (∀ t r', r' < 1024 → z.vNow t r' =
    if r' = r ∧ Runs x m t then val t else if r' = r ∧ Clears x m t then 0 else y.vNow t r') ∧
  z = { y with regs := { y.regs with v := z.regs.v } }

/-- `z` is `x` after a word with the uniform destination `n`: the register takes `v`, a write to s0 is dropped, and everything else of the
party stands (R13, R98). -/
def UniStep (n : Nat) (v : DWord) (x z : Party) : Prop :=
  (∀ k, z.uNow k = if k = n ∧ n ≠ 0 then v else x.uNow k) ∧ z = { x with regs := { x.regs with u := z.regs.u } }

open Classical in
/-- `z` is `x` after a word with the mask destination `d`: the bit of every thread that executes takes its value, that of a thread which the
zero policy names is cleared, and every other bit and everything else of the party stands (R81, R106). -/
def MaskStep (m : Mods) (d : Nat) (val : Nat → Bool) (x z : Party) : Prop :=
  (∀ t, bitOf (z.maskNow d) t = if Runs x m t then val t else if bitOf (x.zeroed m) t then false else bitOf (x.maskNow d) t) ∧
  (∀ k, k ≠ d → z.maskNow k = x.maskNow k) ∧ z = { x with regs := { x.regs with m := z.regs.m } }

/-- A word with a destination of 32 bits: its prefix part, its destination, the registers it reads with their lengths, and its value for
a thread in an iteration. -/
structure WordRow where
  m : Mods
  d : Reg
  regs : List (Reg × Nat)
  val : Party → Nat → Nat → Word

/-- `z` is `x` after the word of a row: its iterations in order, each on what the one before it left; a uniform destination takes the
value once, zero-extended (R82, R98). -/
def WordRow.Result (w : WordRow) (x z : Party) : Prop :=
  match w.d with
  | .s n => UniStep n.val ((w.val x 0 0).setWidth 64) x z
  | .v n => ∃ y : Nat → Party, y 0 = x ∧ y (repsOf w.m) = z ∧
      ∀ k < repsOf w.m, VecStep x w.m (x.base + n.val + k) (fun t => w.val (y k) t k) (y k) (y (k + 1))

/-- The word of a row issues and completes: every party but `p`, memory and the rest of the machine stand. -/
def WordRow.Completes (w : WordRow) (i : Instr) : Prop :=
  ∀ s p x, Issuing s p x → Within x w.m ((w.d, 1) :: w.regs) → ∃ z, w.Result x z ∧ exec i s = .next (s.setParty p z)

/-- A function of A. -/
def row1 (m : Mods) (d a : Reg) (f : Word → Word) : WordRow := ⟨m, d, [(a, 1)], fun p t k => f (p.reg32 t k a)⟩
/-- A function of A and B. -/
def row2 (m : Mods) (d a : Reg) (b : Src) (f : Word → Word → Word) : WordRow :=
  ⟨m, d, (a, 1) :: srcRun b 1, fun p t k => f (p.reg32 t k a) (p.src32 t k b)⟩
/-- A function of the old D, A and B. -/
def row3 (m : Mods) (d a : Reg) (b : Src) (f : Word → Word → Word → Word) : WordRow :=
  ⟨m, d, (a, 1) :: srcRun b 1, fun p t k => f (p.reg32 t k d) (p.reg32 t k a) (p.src32 t k b)⟩

/-! ### Class 0 -/

/-- The field operand of R104: its position, and its length cut at bit 31. -/
def fieldPos (b : Word) : Nat := b.toNat % 32
def fieldLen (b : Word) : Nat := min (b.toNat / 256 % 64) (32 - fieldPos b)

/-- A sum or difference clamped to the signed range (R111). -/
def clamped (e : Int) : Word :=
  if e > 2 ^ 31 - 1 then 0x7FFFFFFF else if e < -2 ^ 31 then 0x80000000 else BitVec.ofInt 32 e

/-- The exact sum of four terms, one a byte of the words (R112). -/
def byteSum (f : BitVec 8 → BitVec 8 → Int) (a b : Word) : Int :=
  f (a.extractLsb' 0 8) (b.extractLsb' 0 8) + f (a.extractLsb' 8 8) (b.extractLsb' 8 8) +
    f (a.extractLsb' 16 8) (b.extractLsb' 16 8) + f (a.extractLsb' 24 8) (b.extractLsb' 24 8)

/-- The functions of class 0 with a destination of 32 bits, as R102 to R105, R107 and R110 to R112 write them; a uniform `movi` stands
apart, since it fills 64 bits. -/
inductive IntRow : Instr → WordRow → Prop where
  | add m d a b : IntRow (.add m d a b) (row2 m d a b (fun a b => a + b))
  | sub m d a b : IntRow (.sub m d a b) (row2 m d a b (fun a b => a - b))
  | addi m d a b : IntRow (.addi m d a b) (row1 m d a (fun a => a + b.signExtend 32))
  | mul m d a b : IntRow (.mul m d a b) (row2 m d a b (fun a b => a * b))
  | mulhI m d a b : IntRow (.mulhI m d a b) (row2 m d a b (fun a b => (a.signExtend 64 * b.signExtend 64).extractLsb' 32 32))
  | mulhN m d a b : IntRow (.mulhN m d a b) (row2 m d a b (fun a b => (a.setWidth 64 * b.setWidth 64).extractLsb' 32 32))
  | mad m d a b : IntRow (.mad m d a b) (row3 m d a b (fun d a b => a * b + d))
  | minI m d a b : IntRow (.minI m d a b) (row2 m d a b (fun a b => if a.slt b then a else b))
  | maxI m d a b : IntRow (.maxI m d a b) (row2 m d a b (fun a b => if b.slt a then a else b))
  | minN m d a b : IntRow (.minN m d a b) (row2 m d a b (fun a b => if a.ult b then a else b))
  | maxN m d a b : IntRow (.maxN m d a b) (row2 m d a b (fun a b => if b.ult a then a else b))
  | abs m d a : IntRow (.abs m d a) (row1 m d a (fun a => if a.msb then -a else a))
  | neg m d a : IntRow (.neg m d a) (row1 m d a (fun a => -a))
  | and m d a b : IntRow (.and m d a b) (row2 m d a b (fun a b => a &&& b))
  | or m d a b : IntRow (.or m d a b) (row2 m d a b (fun a b => a ||| b))
  | xor m d a b : IntRow (.xor m d a b) (row2 m d a b (fun a b => a ^^^ b))
  | andn m d a b : IntRow (.andn m d a b) (row2 m d a b (fun a b => a &&& ~~~b))
  | not m d a : IntRow (.not m d a) (row1 m d a (fun a => ~~~a))
  | shl m d a b : IntRow (.shl m d a b) (row2 m d a b (fun a b => a <<< b.toNat))
  | shr m d a b : IntRow (.shr m d a b) (row2 m d a b (fun a b => a >>> b.toNat))
  | sar m d a b : IntRow (.sar m d a b) (row2 m d a b (fun a b => a.sshiftRight b.toNat))
  | rot m d a b : IntRow (.rot m d a b) (row2 m d a b (fun a b => a.rotateLeft (b.toNat % 32)))
  | shli m d a b : IntRow (.shli m d a b) (row1 m d a (fun a => a <<< b.toNat))
  | shri m d a b : IntRow (.shri m d a b) (row1 m d a (fun a => a >>> b.toNat))
  | sari m d a b : IntRow (.sari m d a b) (row1 m d a (fun a => a.sshiftRight b.toNat))
  | clz m d a : IntRow (.clz m d a) (row1 m d a (fun a => a.clz))
  | popc m d a : IntRow (.popc m d a) (row1 m d a (fun a => a.cpop))
  | brev m d a : IntRow (.brev m d a) (row1 m d a (fun a => a.reverse))
  | bfeI m d a b : IntRow (.bfeI m d a b) (row2 m d a b (fun a b =>
      if fieldLen b = 0 then 0 else ((a >>> fieldPos b).setWidth (fieldLen b)).signExtend 32))
  | bfeN m d a b : IntRow (.bfeN m d a b) (row2 m d a b (fun a b => ((a >>> fieldPos b).setWidth (fieldLen b)).setWidth 32))
  | bfi m d a b : IntRow (.bfi m d a b) (row3 m d a b (fun d a b =>
      let ones : Word := ((BitVec.allOnes (fieldLen b)).setWidth 32)
      (d &&& ~~~(ones <<< fieldPos b)) ||| ((a &&& ones) <<< fieldPos b)))
  | sel m d a b k : IntRow (.sel m d a b k) ⟨m, d, (a, 1) :: srcRun b 1, fun p t j => if bitOf (p.mask k) t then p.reg32 t j a else p.src32 t j b⟩
  | mov m d a : IntRow (.mov m d a) (row1 m d a (fun a => a))
  | movi m n imm : IntRow (.movi m (.v n) imm) ⟨m, .v n, [], fun _ _ _ => imm.signExtend 32⟩
  | divI m d a b : IntRow (.divI m d a b) (row2 m d a b (fun a b => if b = 0 then 0xFFFFFFFF else a.sdiv b))
  | divN m d a b : IntRow (.divN m d a b) (row2 m d a b (fun a b => if b = 0 then 0xFFFFFFFF else a.udiv b))
  | remI m d a b : IntRow (.remI m d a b) (row2 m d a b (fun a b => if b = 0 then a else a.srem b))
  | remN m d a b : IntRow (.remN m d a b) (row2 m d a b (fun a b => if b = 0 then a else a.umod b))
  | adds m d a b : IntRow (.adds m d a b) (row2 m d a b (fun a b => clamped (a.toInt + b.toInt)))
  | subs m d a b : IntRow (.subs m d a b) (row2 m d a b (fun a b => clamped (a.toInt - b.toInt)))
  | dot4Ii m d a b : IntRow (.dot4Ii m d a b) (row3 m d a b (fun d a b => d + BitVec.ofInt 32 (byteSum (fun x y => x.toInt * y.toInt) a b)))
  | dot4Ni m d a b : IntRow (.dot4Ni m d a b) (row3 m d a b (fun d a b => d + BitVec.ofInt 32 (byteSum (fun x y => x.toNat * y.toInt) a b)))
  | sad m d a b : IntRow (.sad m d a b) (row3 m d a b (fun d a b =>
      d + BitVec.ofInt 32 (byteSum (fun x y => |(x.toNat : Int) - (y.toNat : Int)|) a b)))

/-- A word with a destination of 64 bits: a pair of vector registers or one uniform register. -/
structure WideRow where
  m : Mods
  d : Reg
  regs : List (Reg × Nat)
  val : Party → Nat → DWord

/-- `z` is `x` after the word of a row: a uniform register takes the value whole; of a pair, the first register takes the low half and the
second the high half, each half computed from the operands as the word found them (R97, R109). -/
def WideRow.Result (w : WideRow) (x z : Party) : Prop :=
  match w.d with
  | .s n => UniStep n.val (w.val x 0) x z
  | .v n => ∃ y, VecStep x w.m (x.base + n.val) (fun t => (w.val x t).setWidth 32) x y ∧
      VecStep x w.m (x.base + n.val + 1) (fun t => (w.val x t).extractLsb' 32 32) y z

/-- The address of `lea` with a scale (R108). -/
def leaRow (m : Mods) (d a : Reg) (b : Src) (sc : DWord) : WideRow :=
  ⟨m, d, (a, 2) :: srcRun b 1, fun p t => p.reg64 t a + (p.src32 t 0 b).signExtend 64 * sc⟩

/-- The functions of class 0 with a destination of 64 bits, as R108 and R109 write them. -/
inductive WideOf : Instr → WideRow → Prop where
  | leaB m d a b : WideOf (.leaB m d a b) (leaRow m d a b 1)
  | leaH m d a b : WideOf (.leaH m d a b) (leaRow m d a b 2)
  | leaW m d a b : WideOf (.leaW m d a b) (leaRow m d a b 4)
  | leaD m d a b : WideOf (.leaD m d a b) (leaRow m d a b 8)
  | add64 m d a b : WideOf (.add64 m d a b) ⟨m, d, (a, 2) :: srcRun b 2, fun p t => p.reg64 t a + p.src64 t b⟩
  | sub64 m d a b : WideOf (.sub64 m d a b) ⟨m, d, (a, 2) :: srcRun b 2, fun p t => p.reg64 t a - p.src64 t b⟩
  | mulW m d a b : WideOf (.mulW m d a b) ⟨m, d, (a, 1) :: srcRun b 1,
      fun p t => BitVec.ofInt 64 ((p.reg32 t 0 a).toInt * (p.src32 t 0 b).toInt)⟩
  | mulWn m d a b : WideOf (.mulWn m d a b) ⟨m, d, (a, 1) :: srcRun b 1,
      fun p t => BitVec.ofNat 64 ((p.reg32 t 0 a).toNat * (p.src32 t 0 b).toNat)⟩

/-- A word with a mask destination and its bit for a thread. -/
structure BitRow where
  m : Mods
  d : MaskReg
  regs : List (Reg × Nat)
  val : Party → Nat → Bool

/-- A compare of A and B. -/
def cmpRow (m : Mods) (d : MaskReg) (a : Reg) (b : Src) (f : Word → Word → Bool) : BitRow :=
  ⟨m, d, (a, 1) :: srcRun b 1, fun p t => f (p.reg32 t 0 a) (p.src32 t 0 b)⟩

/-- The compares of R106. -/
inductive CompareRow : Instr → BitRow → Prop where
  | cmpEq m d a b : CompareRow (.cmpEq m d a b) (cmpRow m d a b (fun a b => decide (a = b)))
  | cmpNe m d a b : CompareRow (.cmpNe m d a b) (cmpRow m d a b (fun a b => decide (a ≠ b)))
  | cmpLtI m d a b : CompareRow (.cmpLtI m d a b) (cmpRow m d a b (fun a b => a.slt b))
  | cmpLeI m d a b : CompareRow (.cmpLeI m d a b) (cmpRow m d a b (fun a b => a.sle b))
  | cmpLtN m d a b : CompareRow (.cmpLtN m d a b) (cmpRow m d a b (fun a b => a.ult b))
  | cmpLeN m d a b : CompareRow (.cmpLeN m d a b) (cmpRow m d a b (fun a b => a.ule b))
  | cmpiEq m d a b : CompareRow (.cmpiEq m d a b) (cmpRow m d a (.lit (b.signExtend 32)) (fun a b => decide (a = b)))
  | cmpiLtI m d a b : CompareRow (.cmpiLtI m d a b) (cmpRow m d a (.lit (b.signExtend 32)) (fun a b => a.slt b))
  | cmpiLtN m d a b : CompareRow (.cmpiLtN m d a b) (cmpRow m d a (.lit (b.signExtend 32)) (fun a b => a.ult b))

/-! ### Floating point: class 1 and the conversions -/

/-- What a floating-point word computes for a thread: from the mode, the flush bit and the draws, its result and its flags. -/
structure FpRow where
  m : Mods
  d : Reg
  regs : List (Reg × Nat)
  /-- Roundings of one thread: how often it advances the generator under stochastic rounding. -/
  draws : Nat
  val : Party → Nat → Nat → BitVec 3 → Bool → (Nat → Nat) → Word × FpFlags

/-- How many threads execute the word before thread `t` (R58: ascending thread order). -/
def rank (x : Party) (m : Mods) (t : Nat) : Nat := ((threadsOf x.width (x.selected m)).filter (fun u => decide (u < t))).length

/-- The generator as thread `t` finds it: advanced `draws` times for each thread before it under stochastic rounding, unchanged in the other
modes (R58). -/
def genAt (x y : Party) (m : Mods) (draws t : Nat) : Word :=
  if x.mode m = SR then advance y.gen (draws * rank x m t) else y.gen

open Classical in
/-- `z` is `y` after one iteration of a floating-point word: the results stand in register `r` of the threads that execute, their flags are ORed
into `fpsum`, the generator has been drawn from in thread order, and everything else of the party stands (R58, R61, R116). -/
def FpStep (x : Party) (m : Mods) (r draws : Nat) (val : Nat → (Nat → Nat) → Word × FpFlags) (y z : Party) : Prop :=
  (∀ t r', r' < 1024 → z.vNow t r' =
    if r' = r ∧ Runs x m t then (val t (draw (genAt x y m draws t))).1 else if r' = r ∧ Clears x m t then 0 else y.vNow t r') ∧
  (∀ j, z.csr.fpsum.getLsbD j = (y.csr.fpsum.getLsbD j || decide (∃ t, Runs x m t ∧ (val t (draw (genAt x y m draws t))).2.getLsbD j = true))) ∧
  z.gen = (if x.mode m = SR then advance y.gen (draws * (threadsOf x.width (x.selected m)).length) else y.gen) ∧
  z = { y with regs := { y.regs with v := z.regs.v }, csr := { y.csr with fpsum := z.csr.fpsum }, gen := z.gen }

/-- `z` is `x` after the word of a row. -/
def FpRow.Result (w : FpRow) (x z : Party) : Prop :=
  match w.d with
  | .s n =>
    let r := w.val x 0 0 (x.mode w.m) x.ftz (draw x.gen)
    ∃ y, UniStep n.val (r.1.setWidth 64) x y ∧
      z = { y with csr := { y.csr with fpsum := x.csr.fpsum ||| r.2.setWidth 32 },
                   gen := if x.mode w.m = SR then advance x.gen w.draws else x.gen }
  | .v n => ∃ y : Nat → Party, y 0 = x ∧ y (repsOf w.m) = z ∧
      ∀ k < repsOf w.m, FpStep x w.m (x.base + n.val + k) w.draws (fun t us => w.val (y k) t k (x.mode w.m) x.ftz us) (y k) (y (k + 1))

/-- A function of A with one format operation `f mode flush draw bits`. -/
def fp1Row (m : Mods) (d a : Reg) (draws : Nat) (f : BitVec 3 → Bool → Nat → Nat → Nat × FpFlags) : FpRow :=
  ⟨m, d, [(a, 1)], draws, fun p t k mode ftz us =>
    let r := f mode ftz (us 0) (p.reg32 t k a).toNat
    (BitVec.ofNat 32 r.1, r.2)⟩
/-- A function of A and B. -/
def fp2Row (m : Mods) (d a : Reg) (b : Src) (draws : Nat) (f : BitVec 3 → Bool → Nat → Nat → Nat → Nat × FpFlags) : FpRow :=
  ⟨m, d, (a, 1) :: srcRun b 1, draws, fun p t k mode ftz us =>
    let r := f mode ftz (us 0) (p.reg32 t k a).toNat (p.src32 t k b).toNat
    (BitVec.ofNat 32 r.1, r.2)⟩
/-- A function of the old D, A and B. -/
def fp3Row (m : Mods) (d a : Reg) (b : Src) (f : BitVec 3 → Bool → Nat → Nat → Nat → Nat → Nat × FpFlags) : FpRow :=
  ⟨m, d, (a, 1) :: srcRun b 1, 1, fun p t k mode ftz us =>
    let r := f mode ftz (us 0) (p.reg32 t k d).toNat (p.reg32 t k a).toNat (p.src32 t k b).toNat
    (BitVec.ofNat 32 r.1, r.2)⟩

/-- Element `j` of `n` bits. -/
def part (n j w : Nat) : Nat := w / 2 ^ (n * j) % 2 ^ n

/-- A packed function: each half on its own, with its own draw, the flags of both (R124). -/
def halvesRow (m : Mods) (d a : Reg) (b : Src) (draws : Nat) (f : BitVec 3 → Bool → Nat → Nat → Nat → Nat → Nat × FpFlags) : FpRow :=
  ⟨m, d, (a, 1) :: srcRun b 1, draws, fun p t k mode ftz us =>
    let half := fun j => f mode ftz (us j) (part 16 j (p.reg32 t k d).toNat) (part 16 j (p.reg32 t k a).toNat) (part 16 j (p.src32 t k b).toNat)
    (BitVec.ofNat 32 ((half 0).1 + 2 ^ 16 * (half 1).1), (half 0).2 ||| (half 1).2)⟩

/-- A dot product of `n` elements of `w` bits of a format with the FP32 addend D (R125). -/
def dotRow (m : Mods) (d a : Reg) (b : Src) (f : Fmt) (w n : Nat) : FpRow :=
  fp3Row m d a b (fun mode ftz u z x y => dotF mode ftz u z f ((List.range n).map (fun j => (part w j x, part w j y))))

/-- Class 1 (R118 to R120, R122 to R125) and the conversions (R132, R133) with the operation of each; the operations on encodings are those of
the format `fp32`, `bf16`, `fp16`, `e4m3` or `e5m2`. -/
inductive FloatRow : Instr → FpRow → Prop where
  | fadd m d a b : FloatRow (.fadd m d a b) (fp2Row m d a b 1 fp32.add)
  | fsub m d a b : FloatRow (.fsub m d a b) (fp2Row m d a b 1 fp32.sub)
  | fmul m d a b : FloatRow (.fmul m d a b) (fp2Row m d a b 1 fp32.mul)
  | fma m d a b : FloatRow (.fma m d a b) (fp3Row m d a b fp32.fma)
  | fmin m d a b : FloatRow (.fmin m d a b) (fp2Row m d a b 0 (fun _ ftz _ => fp32.minmax true false ftz))
  | fmax m d a b : FloatRow (.fmax m d a b) (fp2Row m d a b 0 (fun _ ftz _ => fp32.minmax false false ftz))
  | fminP m d a b : FloatRow (.fminP m d a b) (fp2Row m d a b 0 (fun _ ftz _ => fp32.minmax true true ftz))
  | fmaxP m d a b : FloatRow (.fmaxP m d a b) (fp2Row m d a b 0 (fun _ ftz _ => fp32.minmax false true ftz))
  | fabs m d a : FloatRow (.fabs m d a) (fp1Row m d a 0 (fun _ ftz _ => fabsF ftz))
  | fneg m d a : FloatRow (.fneg m d a) (fp1Row m d a 0 (fun _ ftz _ => fnegF ftz))
  | fcopysign m d a b : FloatRow (.fcopysign m d a b) (fp2Row m d a b 0 (fun _ ftz _ => fcopysignF ftz))
  | frnd m d a : FloatRow (.frnd m d a) (fp1Row m d a 1 frndF)
  | fclass m d a : FloatRow (.fclass m d a) (fp1Row m d a 0 (fun _ _ _ => fclassF))
  | fscale m d a b : FloatRow (.fscale m d a b) (fp2Row m d a b 1 (fun mode ftz u x y => fscaleF mode ftz u x (BitVec.ofNat 32 y)))
  | hadd2Bf m d a b : FloatRow (.hadd2Bf m d a b) (halvesRow m d a b 2 (fun mode ftz u _ => bf16.add mode ftz u))
  | hadd2Hf m d a b : FloatRow (.hadd2Hf m d a b) (halvesRow m d a b 2 (fun mode ftz u _ => fp16.add mode ftz u))
  | hmul2Bf m d a b : FloatRow (.hmul2Bf m d a b) (halvesRow m d a b 2 (fun mode ftz u _ => bf16.mul mode ftz u))
  | hmul2Hf m d a b : FloatRow (.hmul2Hf m d a b) (halvesRow m d a b 2 (fun mode ftz u _ => fp16.mul mode ftz u))
  | hfma2Bf m d a b : FloatRow (.hfma2Bf m d a b) (halvesRow m d a b 2 bf16.fma)
  | hfma2Hf m d a b : FloatRow (.hfma2Hf m d a b) (halvesRow m d a b 2 fp16.fma)
  | hmin2Bf m d a b : FloatRow (.hmin2Bf m d a b) (halvesRow m d a b 0 (fun _ ftz _ _ => bf16.minmax true false ftz))
  | hmax2Bf m d a b : FloatRow (.hmax2Bf m d a b) (halvesRow m d a b 0 (fun _ ftz _ _ => bf16.minmax false false ftz))
  | hdot2Bf m d a b : FloatRow (.hdot2Bf m d a b) (dotRow m d a b bf16 16 2)
  | hdot2Hf m d a b : FloatRow (.hdot2Hf m d a b) (dotRow m d a b fp16 16 2)
  | f8dot4E4 m d a b : FloatRow (.f8dot4E4 m d a b) (dotRow m d a b e4m3 8 4)
  | f8dot4E5 m d a b : FloatRow (.f8dot4E5 m d a b) (dotRow m d a b e5m2 8 4)
  | cvtFI m d a : FloatRow (.cvtFI m d a) (fp1Row m d a 1 (fun mode ftz u x => cvtFromInt mode ftz u (sxInt 32 x)))
  | cvtFN m d a : FloatRow (.cvtFN m d a) (fp1Row m d a 1 (fun mode ftz u x => cvtFromInt mode ftz u x))
  | cvtIF m d a : FloatRow (.cvtIF m d a) (fp1Row m d a 1 (cvtToInt (-2 ^ 31) (2 ^ 31 - 1)))
  | cvtNF m d a : FloatRow (.cvtNF m d a) (fp1Row m d a 1 (cvtToInt 0 (2 ^ 32 - 1)))
  | cvt2Bf m d a b : FloatRow (.cvt2Bf m d a b) ⟨m, d, (a, 1) :: srcRun b 1, 2, fun p t k mode ftz us =>
      let lo := cvtNarrow bf16 mode ftz (us 0) (p.reg32 t k a).toNat
      let hi := cvtNarrow bf16 mode ftz (us 1) (p.src32 t k b).toNat
      (BitVec.ofNat 32 (lo.1 + 2 ^ 16 * hi.1), lo.2 ||| hi.2)⟩
  | cvt2Hf m d a b : FloatRow (.cvt2Hf m d a b) ⟨m, d, (a, 1) :: srcRun b 1, 2, fun p t k mode ftz us =>
      let lo := cvtNarrow fp16 mode ftz (us 0) (p.reg32 t k a).toNat
      let hi := cvtNarrow fp16 mode ftz (us 1) (p.src32 t k b).toNat
      (BitVec.ofNat 32 (lo.1 + 2 ^ 16 * hi.1), lo.2 ||| hi.2)⟩
  | cvtFBfl m d a : FloatRow (.cvtFBfl m d a) (fp1Row m d a 0 (fun _ ftz _ x => cvtWiden bf16 ftz (part 16 0 x)))
  | cvtFBfh m d a : FloatRow (.cvtFBfh m d a) (fp1Row m d a 0 (fun _ ftz _ x => cvtWiden bf16 ftz (part 16 1 x)))
  | cvtFHfl m d a : FloatRow (.cvtFHfl m d a) (fp1Row m d a 0 (fun _ ftz _ x => cvtWiden fp16 ftz (part 16 0 x)))
  | cvtFHfh m d a : FloatRow (.cvtFHfh m d a) (fp1Row m d a 0 (fun _ ftz _ x => cvtWiden fp16 ftz (part 16 1 x)))
  | cvtE4 m d a : FloatRow (.cvtE4 m d a) (fp1Row m d a 1 (cvtNarrow e4m3))
  | cvtE5 m d a : FloatRow (.cvtE5 m d a) (fp1Row m d a 1 (cvtNarrow e5m2))
  | cvtFE4 m d a : FloatRow (.cvtFE4 m d a) (fp1Row m d a 0 (fun _ ftz _ x => cvtWiden e4m3 ftz (part 8 0 x)))
  | cvtFE5 m d a : FloatRow (.cvtFE5 m d a) (fp1Row m d a 0 (fun _ ftz _ x => cvtWiden e5m2 ftz (part 8 0 x)))

/-- The bit of a compare and whether it is invalid, from the two sources read under the flush bit: a NaN orders with nothing, zeros of both
signs are equal, `fcmp.lt` and `fcmp.le` are invalid for any NaN and the others for a signalling one (R121). -/
inductive FloatCompare : Instr → Mods → MaskReg → Reg → Src → (Val × Bool → Val × Bool → Bool × Bool) → Prop where
  | eq m d a b : FloatCompare (.fcmpEq m d a b) m d a b (fun x y =>
      (!x.1.isNan && !y.1.isNan && decide (cmpV x.1 y.1 = 0), x.2 || y.2))
  | lt m d a b : FloatCompare (.fcmpLt m d a b) m d a b (fun x y =>
      (!x.1.isNan && !y.1.isNan && decide (cmpV x.1 y.1 < 0), x.1.isNan || y.1.isNan))
  | le m d a b : FloatCompare (.fcmpLe m d a b) m d a b (fun x y =>
      (!x.1.isNan && !y.1.isNan && decide (cmpV x.1 y.1 ≤ 0), x.1.isNan || y.1.isNan))
  | un m d a b : FloatCompare (.fcmpUn m d a b) m d a b (fun x y => (x.1.isNan || y.1.isNan, x.2 || y.2))

/-- The rational that a finite value denotes. -/
def rat (neg : Bool) (n d : Nat) : ℚ := (if neg then -1 else 1) * (n / d)

/-! ### Special functions -/

/-- The special functions with their numbers (R126); those of one operand carry a zero as B. -/
inductive SfuOf : Instr → Mods → Nat → Reg → Reg → Src → Prop where
  | rcp m d a : SfuOf (.rcp m d a) m 0 d a (.lit 0)
  | rsq m d a : SfuOf (.rsq m d a) m 1 d a (.lit 0)
  | sqrt m d a : SfuOf (.sqrt m d a) m 2 d a (.lit 0)
  | ex2 m d a : SfuOf (.ex2 m d a) m 3 d a (.lit 0)
  | lg2 m d a : SfuOf (.lg2 m d a) m 4 d a (.lit 0)
  | sinT m d a : SfuOf (.sinT m d a) m 5 d a (.lit 0)
  | cosT m d a : SfuOf (.cosT m d a) m 6 d a (.lit 0)
  | tanh m d a : SfuOf (.tanh m d a) m 7 d a (.lit 0)
  | sigm m d a : SfuOf (.sigm m d a) m 8 d a (.lit 0)
  | fdiv m d a b : SfuOf (.fdiv m d a b) m 9 d a b

/-- The elements of a special-function operation: for each iteration the threads that execute in ascending order, with destination and
operands; a uniform form has one. -/
def sfuLanes (x : Party) (m : Mods) (d a : Reg) (b : Src) : List (Nat × Dest × Word × Word) :=
  match d with
  | .s n => [(0, .uni n.val, x.reg32 0 0 a, x.src32 0 0 b)]
  | .v n => (List.range (repsOf m)).flatMap (fun k =>
      (threadsOf x.width (x.selected m)).map (fun t => (t, .vec (x.base + n.val + k) 1, x.reg32 t k a, x.src32 t k b)))

/-! ### Class 2: threads of a party -/

/-- The selected threads, ascending. -/
def sel (x : Party) (m : Mods) : List Nat := threadsOf x.width (x.selected m)

/-- The functions of class 2 whose value for a thread is a word of its own: the permutations of R139 (every index modulo W), `expd` (the j-th
selected thread takes A of thread j, R142) and `m2v` (R141). -/
inductive CrossRow : Instr → WordRow → Prop where
  | swp m n a b : CrossRow (.swp m (.v n) a b) ⟨m, .v n, (a, 1) :: srcRun b 1,
      fun p t k => p.reg32 ((t ^^^ ((p.src32 t k b).toNat % p.width)) % p.width) k a⟩
  | shfl m n a b : CrossRow (.shfl m (.v n) a b) ⟨m, .v n, (a, 1) :: srcRun b 1,
      fun p t k => p.reg32 ((p.src32 t k b).toNat % p.width) k a⟩
  | rotw m n a b : CrossRow (.rotw m (.v n) a b) ⟨m, .v n, (a, 1) :: srcRun b 1,
      fun p t k => p.reg32 ((t + (p.src32 t k b).toNat) % p.width) k a⟩
  | bcast m n a b : CrossRow (.bcast m (.v n) a b) ⟨m, .v n, (a, 1) :: srcRun b 1,
      fun p t k => p.reg32 ((p.src32 t k b).toNat % p.width) k a⟩
  | expd m n a : CrossRow (.expd m (.v n) a) ⟨m, .v n, [(a, 1)],
      fun p t k => p.reg32 ((threadsOf t (p.selected m)).length) k a⟩
  | m2v m n a : CrossRow (.m2v m (.v n) a) ⟨m, .v n, [], fun p t _ => if bitOf (p.mask a) t then 1 else 0⟩

/-- The votes and mask functions with the bit of a thread (R141). -/
inductive MaskRow : Instr → BitRow → Prop where
  | voteAll m d a : MaskRow (.voteAll m d a) ⟨m, d, [], fun p _ => decide (∀ u ∈ sel p m, bitOf (p.mask a) u = true)⟩
  | voteAny m d a : MaskRow (.voteAny m d a) ⟨m, d, [], fun p _ => decide (∃ u ∈ sel p m, bitOf (p.mask a) u = true)⟩
  | mand m d a b : MaskRow (.mand m d a b) ⟨m, d, [], fun p t => bitOf (p.mask a) t && bitOf (p.mask b) t⟩
  | mor m d a b : MaskRow (.mor m d a b) ⟨m, d, [], fun p t => bitOf (p.mask a) t || bitOf (p.mask b) t⟩
  | mxor m d a b : MaskRow (.mxor m d a b) ⟨m, d, [], fun p t => bitOf (p.mask a) t != bitOf (p.mask b) t⟩
  | mnot m d a : MaskRow (.mnot m d a) ⟨m, d, [], fun p t => decide (t < 64) && !bitOf (p.mask a) t⟩
  | v2m m d a : MaskRow (.v2m m d a) ⟨m, d, [(a, 1)], fun p t => decide (p.reg32 t 0 a ≠ 0)⟩

/-- What a scan or reduction makes of the selected values in ascending thread order, under a mode, a flush bit and a generator: its result for
each, the flags, and the generator after it (R64, R143). -/
abbrev GatherFn := BitVec 3 → Bool → Word → List Word → List Word → FpFlags → Word → Prop

/-- An integer scan or reduction draws nothing and raises no flag. -/
def intGather (rel : List Word → List Word → Prop) : GatherFn := fun _ _ g vs rs fl g' => rel vs rs ∧ fl = 0 ∧ g' = g

/-- The running sums of R64: the first value is read as a floating-point source, every later addition rounds under the mode and draws once under
stochastic rounding. `pick` chooses the result of each position from the sums. -/
def sumGather (pick : List Word → Nat → Word) : GatherFn := fun mode ftz g vs rs fl g' =>
  ∃ acc : List Word, acc.length = vs.length ∧
    acc.getD 0 0 = BitVec.ofNat 32 (fp32.write RNE false 0 (fp32.source ftz (vs.getD 0 0).toNat).1).1 ∧
    (∀ i, i + 1 < vs.length → acc.getD (i + 1) 0 =
      BitVec.ofNat 32 (fp32.add mode ftz (draw g (if mode = SR then i else 0)) (acc.getD i 0).toNat (vs.getD (i + 1) 0).toNat).1) ∧
    rs = (List.range vs.length).map (pick acc) ∧
    (∀ j, fl.getLsbD j = ((j == 0 && (fp32.source ftz (vs.getD 0 0).toNat).2) ||
      (fp32.write RNE false 0 (fp32.source ftz (vs.getD 0 0).toNat).1).2.getLsbD j || (List.range (vs.length - 1)).any (fun i =>
      (fp32.add mode ftz (draw g (if mode = SR then i else 0)) (acc.getD i 0).toNat (vs.getD (i + 1) 0).toNat).2.getLsbD j))) ∧
    g' = if mode = SR then advance g (vs.length - 1) else g

/-- The minimum or maximum of R119 folded over the values, without rounding, with the flags of every step. -/
def pickGather (min : Bool) : GatherFn := fun _ ftz g vs rs fl g' =>
  let r := vs.foldl (fun (c : Word × FpFlags) v =>
    let q := fp32.minmax min false ftz c.1.toNat v.toNat
    (BitVec.ofNat 32 q.1, c.2 ||| q.2)) (vs.headD 0, 0)
  rs = vs.map (fun _ => r.1) ∧ fl = r.2 ∧ g' = g

/-- The scans and reductions (R143). -/
inductive GatherRow : Instr → Mods → Reg → Reg → GatherFn → Prop where
  | scanAdd m d a : GatherRow (.scanAdd m d a) m d a (intGather (fun vs rs => rs = (List.range vs.length).map (fun i => (vs.take (i + 1)).sum)))
  | redAdd m d a : GatherRow (.redAdd m d a) m d a (intGather (fun vs rs => rs = vs.map (fun _ => vs.sum)))
  | redMinI m d a : GatherRow (.redMinI m d a) m d a (intGather (fun vs rs =>
      ∃ r ∈ vs, (∀ v ∈ vs, r.toInt ≤ v.toInt) ∧ rs = vs.map (fun _ => r)))
  | redMaxI m d a : GatherRow (.redMaxI m d a) m d a (intGather (fun vs rs =>
      ∃ r ∈ vs, (∀ v ∈ vs, v.toInt ≤ r.toInt) ∧ rs = vs.map (fun _ => r)))
  | scanFadd m d a : GatherRow (.scanFadd m d a) m d a (sumGather (fun acc i => acc.getD i 0))
  | redFadd m d a : GatherRow (.redFadd m d a) m d a (sumGather (fun acc _ => acc.getLastD 0))
  | redFmax m d a : GatherRow (.redFmax m d a) m d a (pickGather false)
  | redFmin m d a : GatherRow (.redFmin m d a) m d a (pickGather true)

open Classical in
/-- `z` is `y` after one iteration of a scan or reduction into register `r`: with no thread selected nothing is written; otherwise the i-th
selected thread takes the i-th result, what the zero policy names takes 0, the flags are ORed into `fpsum` and the generator has moved on. -/
def GatherStep (x : Party) (m : Mods) (r k : Nat) (a : Reg) (f : GatherFn) (y z : Party) : Prop :=
  if sel x m = [] then z = y
  else ∃ rs fl g, f (x.mode m) x.ftz y.gen ((sel x m).map (fun t => y.reg32 t k a)) rs fl g ∧
    (∀ t r', r' < 1024 → z.vNow t r' =
      if r' = r ∧ Runs x m t then rs.getD ((threadsOf t (x.selected m)).length) 0 else if r' = r ∧ Clears x m t then 0 else y.vNow t r') ∧
    z = { y with regs := { y.regs with v := z.regs.v }, csr := { y.csr with fpsum := y.csr.fpsum ||| fl.setWidth 32 }, gen := g }

/-! ### Class 3: requests to the homes -/

/-- The threads a class-3 word serves: the lowest thread of the packet's active threads for a uniform form, else the selected ones. -/
def servedBy (x : Party) (m : Mods) (uniform : Bool) : List Nat :=
  if uniform then [(threadsOf x.width x.pos.m0).headD 0] else sel x m

/-- The threads that a request counts for, with their regions: its thread, or for a uniform form every thread that has not left (R295). -/
def ownersOf (x : Party) (uniform : Bool) (t : Nat) : List (Nat × Nat) :=
  if uniform then (threadsOf x.width x.alive).map (fun t => (t, x.regionOf t)) else [(t, x.regionOf t)]

/-- A memory word of class 3: whether it serves the party once, the registers it names with their lengths, its address, its access, its
request and destination, the flag its requests set, and its order. -/
structure MemRow where
  m : Mods
  uniform : Bool
  regs : List (Reg × Nat)
  acc : Acc
  addr : Party → Nat → DWord
  kind : Party → Nat → Bool → ReqKind
  dest : Party → Dest
  flag : Party → Option Nat
  rel : Bool := false
  acq : Bool := false
  pod : Bool := false

/-- Every served thread passes the lane's checks of R169, with physical pieces, whether the page is a window, and whether it is remote. -/
def MemRow.Passes (w : MemRow) (s : State) (x : Party) (ps : Nat → List (Nat × Nat)) (win remote : Nat → Bool) : Prop :=
  ∀ t ∈ servedBy x w.m w.uniform, s.check x w.acc (w.addr x t) = .ok (ps t) (win t) (remote t)

/-- The request a served thread sends. `x` is the party as its operands are read, `x'` as its threads' regions stand when it is sent. -/
def MemRow.request (w : MemRow) (s : State) (p : Nat) (x x' : Party) (ps : Nat → List (Nat × Nat)) (win remote : Nat → Bool) (t : Nat) : Req :=
  { fe := x.fe, party := p, lane := x.lane, thread := t, uniform := w.uniform, owners := ownersOf x' w.uniform t, va := w.addr x t,
    pieces := ps t, kind := w.kind x t (remote t), dest := w.dest x, flag := w.flag x, win := win t, rel := w.rel, acq := w.acq,
    pod := w.pod, held := true, phase := .sent, issued := s.now }

/-- `t` is `s` after the requests `rs` have left a party for their homes: they take the next numbers in order, the party waits for them all,
its flag counts them, and nothing else changes; with no request nothing changes at all. -/
def Sends (s : State) (p : Nat) (x : Party) (flag : Option Nat) (rs : List Req) (t : State) : Prop :=
  (rs = [] → t = s) ∧
  (rs ≠ [] →
    (∀ n, sfind t.reqs n = if s.nextId ≤ n ∧ n < s.nextId + rs.length then rs[n - s.nextId]? else sfind s.reqs n) ∧
    t = { s with nextId := s.nextId + rs.length, reqs := t.reqs, parties := sput s.parties p { x with
      ctl := .await
      waitReqs := x.waitReqs + rs.length
      flags := match flag with
        | some k => sset 0 x.flags k (sget 0 x.flags k + rs.length)
        | none => x.flags } })

/-- `x'` is `x` with what the zero policy clears: `n` registers from the destination for the active threads that are not selected. -/
def ZeroRun (x : Party) (m : Mods) (d : Reg) (n : Nat) (x' : Party) : Prop :=
  (∀ t r, r < 1024 → x'.vNow t r = match d with
    | .s _ => x.vNow t r
    | .v k => if bitOf (x.zeroed m) t = true ∧ t < x.width ∧ x.base + k.val ≤ r ∧ r < x.base + k.val + n then 0 else x.vNow t r) ∧
  x' = { x with regs := { x.regs with v := x'.regs.v } }

/-- A load of `size` bytes into `n` registers (R163 to R165, R167, R170). -/
def loadRow (m : Mods) (d a : Reg) (b : Off) (size : Nat) (aligned : Bool) (kind : Bool → ReqKind) : MemRow where
  m := m
  uniform := Reg.uniform d
  regs := [(d, max 1 (size / 4)), (a, 2)]
  acc := ⟨size, aligned, false, .plain⟩
  addr := fun x t => x.ea t a b size
  kind := fun _ _ r => kind r
  dest := fun x => match d with | .s k => .uni k.val | .v k => .vec (x.base + k.val) (max 1 (size / 4))
  flag := fun x => some x.flagA

/-- The loads. -/
inductive LoadRow : Instr → Reg → Nat → MemRow → Prop where
  | ld8 m d a b : LoadRow (.ld8 m d a b) d 1 (loadRow m d a b 1 true (fun _ => .load 1 false))
  | ld8s m d a b : LoadRow (.ld8s m d a b) d 1 (loadRow m d a b 1 true (fun _ => .load 1 true))
  | ld16 m d a b : LoadRow (.ld16 m d a b) d 2 (loadRow m d a b 2 true (fun _ => .load 2 false))
  | ld16s m d a b : LoadRow (.ld16s m d a b) d 2 (loadRow m d a b 2 true (fun _ => .load 2 true))
  | ld32 m d a b : LoadRow (.ld32 m d a b) d 4 (loadRow m d a b 4 true (fun _ => .load 4 false))
  | ld64 m d a b : LoadRow (.ld64 m d a b) d 8 (loadRow m d a b 8 true (fun _ => .load 8 false))
  | ld128 m d a b : LoadRow (.ld128 m d a b) d 16 (loadRow m d a b 16 true (fun _ => .load 16 false))
  | ldU m d a b : LoadRow (.ldU m d a b) d 4 (loadRow m d a b 4 false (fun _ => .load 4 false))
  | ldRc m d a b : LoadRow (.ldRc m d a b) d 4 (loadRow m d a b 4 true (fun remote => if remote then .rcLoad else .load 4 false))

/-- The low `size` bytes of a store's data operand, lowest register first (R166). -/
def storeBytes (x : Party) (t : Nat) (d : Reg) (size : Nat) : Nat :=
  (match d with
   | .s n => (x.uni n).toNat
   | .v _ => (List.range (max 1 (size / 4))).foldr (fun k v => (x.reg32 t k d).toNat + 2 ^ 32 * v) 0) % 2 ^ (8 * size)

/-- A store of `size` bytes (R163, R164, R166, R167). -/
def storeRow (m : Mods) (d a : Reg) (b : Off) (size : Nat) (aligned : Bool) : MemRow where
  m := m
  uniform := Reg.uniform d
  regs := [(d, max 1 (size / 4)), (a, 2)]
  acc := ⟨size, aligned, true, .plain⟩
  addr := fun x t => x.ea t a b size
  kind := fun x t _ => .store size (storeBytes x t d size)
  dest := fun _ => .none
  flag := fun _ => none

/-- The stores. -/
inductive StoreRow : Instr → MemRow → Prop where
  | st8 m d a b : StoreRow (.st8 m d a b) (storeRow m d a b 1 true)
  | st16 m d a b : StoreRow (.st16 m d a b) (storeRow m d a b 2 true)
  | st32 m d a b : StoreRow (.st32 m d a b) (storeRow m d a b 4 true)
  | st64 m d a b : StoreRow (.st64 m d a b) (storeRow m d a b 8 true)
  | st128 m d a b : StoreRow (.st128 m d a b) (storeRow m d a b 16 true)
  | stU m d a b : StoreRow (.stU m d a b) (storeRow m d a b 4 false)

/-- An atomic on a word with operands B and C (R172, R173). -/
def atomRow (m : Mods) (op : AtomOp) (d a : Reg) (b c : Src) : MemRow where
  m := m
  uniform := Reg.uniform d
  regs := [(d, 1), (a, 2)] ++ srcRun b 1 ++ srcRun c 1
  acc := ⟨4, true, true, .atomic⟩
  addr := fun x t => x.reg64 t a
  kind := fun x t _ => .atom op ((x.src32 t 0 b).setWidth 64) ((x.src32 t 0 c).setWidth 64)
  dest := fun x => match d with | .s k => .uni k.val | .v k => .vec (x.base + k.val) 1
  flag := fun x => some x.flagA
  rel := releases (orderOf m)
  acq := acquires (orderOf m)
  pod := podScope m

/-- A reduction: an atomic that returns nothing (R174). -/
def redmRow (m : Mods) (op : AtomOp) (a : Reg) (b : Src) : MemRow where
  m := m
  uniform := false
  regs := [(a, 2)] ++ srcRun b 1
  acc := ⟨4, true, true, .atomic⟩
  addr := fun x t => x.reg64 t a
  kind := fun x t _ => .atom op ((x.src32 t 0 b).setWidth 64) 0
  dest := fun _ => .none
  flag := fun _ => none
  rel := releases (orderOf m)
  acq := acquires (orderOf m)
  pod := podScope m

/-- The atomics and reductions. -/
inductive AtomRow : Instr → MemRow → Prop where
  | add m d a b : AtomRow (.atomAdd m d a b) (atomRow m .add d a b (.lit 0))
  | minI m d a b : AtomRow (.atomMinI m d a b) (atomRow m .minI d a b (.lit 0))
  | maxI m d a b : AtomRow (.atomMaxI m d a b) (atomRow m .maxI d a b (.lit 0))
  | minN m d a b : AtomRow (.atomMinN m d a b) (atomRow m .minN d a b (.lit 0))
  | maxN m d a b : AtomRow (.atomMaxN m d a b) (atomRow m .maxN d a b (.lit 0))
  | and m d a b : AtomRow (.atomAnd m d a b) (atomRow m .and d a b (.lit 0))
  | or m d a b : AtomRow (.atomOr m d a b) (atomRow m .or d a b (.lit 0))
  | xor m d a b : AtomRow (.atomXor m d a b) (atomRow m .xor d a b (.lit 0))
  | xch m d a b : AtomRow (.atomXch m d a b) (atomRow m .xch d a b (.lit 0))
  | cas m d a b c : AtomRow (.atomCas m d a b c) (atomRow m .cas d a b c)
  | fadd m d a b : AtomRow (.atomFadd m d a b) (atomRow m .fadd d a b (.lit 0))
  | add64 m d a b : AtomRow (.atomAdd64 m d a b) { atomRow m .add64 d a b (.lit 0) with
      regs := [(d, 2), (a, 2)] ++ srcRun b 2
      acc := ⟨8, true, true, .atomic⟩
      kind := fun x t _ => .atom .add64 (x.src64 t b) 0
      dest := fun x => match d with | .s k => .uni k.val | .v k => .vec (x.base + k.val) 2 }
  | redmAdd m a b : AtomRow (.redmAdd m a b) (redmRow m .add a b)
  | redmFadd m a b : AtomRow (.redmFadd m a b) (redmRow m .fadd a b)
  | redmMax m a b : AtomRow (.redmMax m a b) (redmRow m .maxI a b)

/-- A mailbox instruction (R178, R179). -/
def mbxRow (m : Mods) (d a : Reg) (b : Off) (n : Nat) (write acq : Bool) (flag : Bool) (kind : Party → Nat → ReqKind) : MemRow where
  m := m
  uniform := Reg.uniform d
  regs := [(d, n), (a, 2)]
  acc := ⟨8, true, write, .mailbox⟩
  addr := fun x t => x.ea t a b 8
  kind := fun x t _ => kind x t
  dest := fun x => if write then .none else match d with | .s k => .uni k.val | .v k => .vec (x.base + k.val) n
  flag := fun x => if flag then some x.flagA else none
  rel := write
  acq := acq
  pod := podScope m

/-- The mailbox instructions; `acts` says whether the scope has an effect. -/
inductive MbxRow : Instr → Bool → MemRow → Prop where
  | mbxLd m d a b : MbxRow (.mbxLd m d a b) true (mbxRow m d a b 2 false true true (fun _ _ => .mbxLd))
  | mbxSt m d a b : MbxRow (.mbxSt m d a b) true (mbxRow m d a b 2 true false false (fun x t => .mbxSt (x.reg64 t d)))
  | mbxTst m d a b : MbxRow (.mbxTst m d a b) false (mbxRow m d a b 1 false false true (fun _ _ => .mbxTst))

/-- `s'` is `s` after the regions of the threads `ts` of a party have ended, with the party then `x'`: each thread's next region begins, the
records of an ended region whose writes are acknowledged are released, no restart entry is left, and nothing else changes (R160, R293,
R294). -/
def RegionsEnd (s : State) (p : Nat) (x : Party) (ts : List Nat) (s' : State) (x' : Party) : Prop :=
  (∀ t, x'.regionOf t = x.regionOf t + if t ∈ ts then 1 else 0) ∧ x' = { x with region := x'.region, idempc := none } ∧
  s' = { s with parties := sput s.parties p x', tags := s'.tags } ∧
  (∀ g ∈ s'.tags, g.party = p → ∀ t ∈ ts, s.unacked p (t, x.regionOf t) = false → (t, x.regionOf t) ∉ g.owners) ∧
  (∀ g ∈ s.tags, g.party ≠ p → g.owners ≠ [] → g ∈ s'.tags)

/-- A synchronising word of the threads `ts` need not wait: no `mbx.st` of theirs is open, and when it releases no write of theirs is (R175,
R179, R181). -/
def Synced (s : State) (p : Nat) (ts : List Nat) (rel pod : Bool) : Prop :=
  s.mbxStOpen p ts = false ∧ (rel = true → s.writesOpen p ts pod = false)

/-- The word's scope is not narrowed: it is not pod, or the lodging is not limited (R314). -/
def NotNarrowed (s : State) (x : Party) (acts : Bool) (m : Mods) : Prop :=
  ¬ (acts = true ∧ scopeOf m = 4 ∧ (s.lod x.fe).scopepol.getLsbD 0 = true)

/-! ### Class 4: transfers, waits and barriers -/

/-- The word raises a precise cause at its group for the threads of which `bad` holds, with `tinfo` = `info` (R271, R274, R275). -/
def Raises (s : State) (p : Nat) (x : Party) (cause : BitVec 6) (bad : Nat → Prop) (info : DWord) (t : State) : Prop :=
  ∃ r : TrapReq, t = s.raise p r ∧ r.cause = cause ∧ r.deferred = false ∧ r.epc = x.here ∧ r.mprev = x.pos.m0 ∧
    (∀ u, bitOf r.mfault u = true ↔ bad u) ∧ r.addr = [] ∧ r.info = info ∧ r.rerun = none

/-- Thread `t` is active for the word (R12, R149). -/
def Active (x : Party) (t : Nat) : Prop := t < x.width ∧ bitOf x.m0 t = true

open Classical in
/-- `z` is `x` after the threads of which `goes` holds have transferred to their targets: they leave the packet, the group is the one that
named their target, and every other thread and everything else of the party stands (R149, R274). -/
def Transfers (x : Party) (goes : Nat → Prop) (target : Nat → DWord) (z : Party) : Prop :=
  (∀ t, z.pcOf t = if Active x t ∧ goes t then target t else x.pcOf t) ∧
  (∀ t, sget 0 z.xfer t = if Active x t ∧ goes t then x.here else sget 0 x.xfer t) ∧
  (∀ t < x.width, bitOf z.pos.moved t = decide (bitOf x.pos.moved t = true ∨ Active x t ∧ goes t)) ∧
  z = { x with tpc := z.tpc, xfer := z.xfer, pos := { x.pos with moved := z.pos.moved } }

/-- The branches: the active threads that go (R150). -/
inductive BranchRow : Instr → (Party → Nat → Prop) → Int → Prop where
  | br m off : BranchRow (.br m off) (fun _ _ => True) off.toInt
  | brC m k off : BranchRow (.brC m k off) (fun x t => bitOf (x.mask k) t = true) off.toInt
  | brAny m k off : BranchRow (.brAny m k off) (fun x _ => ∃ u, bitOf x.m0 u = true ∧ bitOf (x.mask k) u = true) off.toInt
  | brAll m k off : BranchRow (.brAll m k off) (fun x _ => ∀ u, bitOf x.m0 u = true → bitOf (x.mask k) u = true) off.toInt

/-- The calls: the registers they name and the target of a thread (R152). -/
inductive CallRow : Instr → Mods → List (Reg × Nat) → (Party → Nat → DWord) → Prop where
  | call m off : CallRow (.call m off) m [] (fun x _ => branchTarget x.pos.pkt off.toInt)
  | callX m a : CallRow (.callX m a) m [(a, 2)] (fun x t => x.reg64 t a)

/-- `a` has the form of a code address: bits [5:3] zero and a packet index of at most 4 (R66). -/
def CodeAddress (a : DWord) : Prop := a.extractLsb' 3 3 = 0 ∧ (a.extractLsb' 0 3).toNat ≤ 4

/-- An entry holds a thread: a member of it that has not arrived (R25). -/
def Holds (e : DivEntry) (t : Nat) : Prop := bitOf e.members t = true ∧ bitOf e.arrived t = false

/-- The entry at place `k` of the stack is the innermost that holds `t` (R153). -/
def Innermost (es : List DivEntry) (t k : Nat) (e : DivEntry) : Prop :=
  es[k]? = some e ∧ Holds e t ∧ ∀ j < k, ∀ e', es[j]? = some e' → ¬ Holds e' t

/-- The party may perform a barrier instruction of a scope and number, and stands at it as `b` says: R62 raises nothing, and none of the
cases of R158 holds. -/
def AtBarrier (s : State) (x : Party) (p : Nat) (scope : BitVec 3) (num : BitVec 4) (b : BarAt) : Prop :=
  s.sfuOpen p = false ∧ (x.csr.level ≠ 0 ∨ x.fpEnabled = 0) ∧ x.plan = false ∧ x.alive = x.m0 ∧ scope.toNat ≤ s.widest x ∧
  s.barAt x scope.toNat num.toNat = some b

/-- The barrier instructions, and whether they synchronise. -/
inductive BarrierRow : Instr → BitVec 3 → BitVec 4 → Prop where
  | arr m sc n : BarrierRow (.barArr m sc n) sc n
  | arrRlx m sc n : BarrierRow (.barArrRlx m sc n) sc n
  | wait m sc n : BarrierRow (.barWait m sc n) sc n
  | sync m sc n : BarrierRow (.barSync m sc n) sc n

/-- `z` is `x` with its state at a barrier: 0 not-arrived, n + 1 arrived in phase n (R156). -/
def BarState (key n : Nat) (x z : Party) : Prop :=
  (∀ k, sget 0 z.bars k = if k = key then n else sget 0 x.bars k) ∧ z = { x with bars := z.bars, idempc := none }

/-- `t` is `s` after an ordinary arrival of the party in phase `b.phase`: its state is arrived, its threads' regions end, and the arrival
awaits the writes that are not acknowledged (R157). -/
def Arrives (s : State) (p : Nat) (x : Party) (b : BarAt) (scope : Nat) (t : State) (z : Party) : Prop :=
  ∃ y s', BarState b.key (b.phase + 1) x y ∧ RegionsEnd s p y (threadsOf x.width x.m0) s' z ∧
    t = { s' with nextId := s.nextId + 1, arrivals := sput s.arrivals s.nextId ⟨p, b.inst, scope, s.openWrites p⟩ }

/-! ### Class 5: requests to the Stewards -/

/-- Where a result of `n` registers goes. -/
def resultRun (x : Party) (d : Reg) (n : Nat) : Dest := match d with | .s k => .uni k.val | .v k => .vec (x.base + k.val) n

/-- A class-5 word: the registers it names, whether its threads leave, which control word is refused at the lane, the handle and intention word
it names, its operation, and its destination (R181, R182). -/
structure AgentWord where
  m : Mods
  regs : List (Reg × Nat)
  leaves : Bool := false
  refuses : Party → Nat → Prop := fun _ _ => False
  names : Party → Nat → Word × Word
  op : Party → Nat → AgentOp
  dest : Party → Dest := fun _ => .none

/-- Named by a handle operand. -/
def byHandle (a : Reg) (x : Party) (t : Nat) : Word × Word := (x.reg32 t 0 a, 0)
/-- Named by an intention pair: handle low, intention word high. -/
def byPair (a : Reg) (x : Party) (t : Nat) : Word × Word := ((x.reg64 t a).extractLsb' 0 32, (x.reg64 t a).extractLsb' 32 32)
/-- A key operand: bits [15:0]. -/
def keyIn (w : Word) : Nat := w.toNat % 65536

/-- The first register of a control word, and the number of registers (R199). -/
def runFirst (c : Word) : Nat := c.toNat % 128
/-- The registers a control word saves. -/
def runCount (c : Word) : Nat := c.toNat / 128 % 16 + 1
/-- The registers that a control word names, with their values (R199). -/
def runSaved (x : Party) (t : Nat) (c : Word) : List (Nat × Word) :=
  (List.range (runCount c)).map (fun k => (x.base + runFirst c + k, x.vphys t (x.base + runFirst c + k)))
/-- A control word that R199 refuses: a run beyond v95 or Rt, a reserved bit set, or a kind above `kind`. -/
def RunRefused (x : Party) (c : Word) (kind : Nat) : Prop :=
  95 < runFirst c + runCount c - 1 ∨ min x.rt 1024 ≤ x.base + runFirst c + runCount c - 1 ∨ c.toNat / 2 ^ 13 % 8 ≠ 0 ∨
  c.toNat / 2 ^ 28 ≠ 0 ∨ kind < c.toNat / 2 ^ 11 % 4

/-- The class-5 words. -/
inductive AgentRow : Instr → AgentWord → Prop where
  | belPut m d a b : AgentRow (.belPut m d a b) {
      m := m, regs := (a, 1) :: (d, 1) :: srcRun b 2, names := byHandle a,
      op := fun x t => .belPut (keyIn (x.reg32 t 0 d)) (x.src64 t b) }
  | belRet m d a : AgentRow (.belRet m d a) {
      m := m, regs := [(a, 1), (d, 1)], names := byHandle a,
      op := fun x t => .belRet (keyIn (x.reg32 t 0 d)) }
  | belGet m d a b : AgentRow (.belGet m d a b) {
      m := m, regs := (a, 1) :: (d, 2) :: srcRun b 1, names := byHandle a,
      op := fun x t => .belGet (keyIn (x.src32 t 0 b)), dest := fun x => resultRun x d 2 }
  | belFacts m d a : AgentRow (.belFacts m d a) {
      m := m, regs := [(a, 1), (d, 2)], names := byHandle a, op := fun _ _ => .belFacts,
      dest := fun x => resultRun x d 2 }
  | belTst m d a b : AgentRow (.belTst m d a b) {
      m := m, regs := (a, 1) :: srcRun b 1, names := byHandle a,
      op := fun x t => .belTst (keyIn (x.src32 t 0 b)), dest := fun _ => .mask d.val }
  | goalAdd m a b : AgentRow (.goalAdd m a b) {
      m := m, regs := [(a, 1), (b, 2)], names := byHandle a, op := fun x t => .goalAdd (x.reg64 t b) }
  | goalDone m d a b : AgentRow (.goalDone m d a b) {
      m := m, regs := (a, 1) :: (d, 1) :: srcRun b 1, names := byHandle a,
      op := fun x t => .goalDone (keyIn (x.src32 t 0 b)), dest := fun x => resultRun x d 1 }
  | goalFail m a : AgentRow (.goalFail m a) {
      m := m, regs := [(a, 2)], names := byPair a, op := fun _ _ => .goalFail }
  | intAdopt m d a b : AgentRow (.intAdopt m d a b) {
      m := m, regs := [(a, 1), (d, 1), (b, 2)], names := byHandle a,
      op := fun x t => .intAdopt (x.reg64 t b), dest := fun x => resultRun x d 1 }
  | intDrop m a : AgentRow (.intDrop m a) {
      m := m, regs := [(a, 2)], names := byPair a, op := fun _ _ => .intDrop }
  | intSusp m d a b : AgentRow (.intSusp m d a b) {
      m := m, regs := [(a, 2), (d, 1), (b, 2)], leaves := true,
      refuses := fun x t => RunRefused x (x.reg32 t 0 d) 2, names := byPair a,
      op := fun x t => .intSusp (x.reg32 t 0 d) (x.reg64 t b) (runSaved x t (x.reg32 t 0 d)) }
  | intResm m d a b : AgentRow (.intResm m d a b) {
      m := m, regs := (a, 2) :: (d, 1) :: srcRun b 1, names := byPair a,
      op := fun x t => .intResm (x.src32 t 0 b), dest := fun x => resultRun x d 1 }
  | planSub m d a b : AgentRow (.planSub m d a b) {
      m := m, regs := [(a, 2), (d, 1), (b, 2)], leaves := true,
      refuses := fun x t => RunRefused x (x.reg32 t 0 d) 0, names := byPair a,
      op := fun x t => .planSub (x.reg32 t 0 d) (x.reg64 t b) (runSaved x t (x.reg32 t 0 d)) }
  | planRet m a b : AgentRow (.planRet m a b) {
      m := m, regs := (a, 2) :: srcRun b 1, leaves := true, names := byPair a,
      op := fun x t => .planRet (x.src32 t 0 b) }
  | step m a b : AgentRow (.step m a b) {
      m := m, regs := (a, 2) :: srcRun b 1, leaves := true, names := byPair a,
      op := fun x t => .step (x.src32 t 0 b) }
  | intInfo m d a : AgentRow (.intInfo m d a) {
      m := m, regs := [(a, 2), (d, 2)], names := byPair a, op := fun _ _ => .intInfo,
      dest := fun x => resultRun x d 2 }
  | agtNew m d b : AgentRow (.agtNew m d b) {
      m := m, regs := (d, 1) :: srcRun b 2, names := fun _ _ => (0, 0),
      op := fun x t => .agtNew (x.src64 t b), dest := fun x => resultRun x d 1 }
  | agtFree m a : AgentRow (.agtFree m a) {
      m := m, regs := [(a, 1)], names := byHandle a, op := fun _ _ => .agtFree }

/-- The request of thread `t`, the party's regions being those of `x'` when it is sent. -/
def AgentWord.request (w : AgentWord) (s : State) (p : Nat) (x x' : Party) (t : Nat) : Req :=
  { fe := x.fe, party := p, lane := x.lane, thread := t, uniform := false, owners := [(t, x'.regionOf t)], va := 0, pieces := [],
    kind := .agent (w.op x t) (w.names x t).1 (w.names x t).2, dest := w.dest x, flag := if w.leaves then none else some x.flagA,
    win := false, rel := true, acq := true, pod := false, held := true, phase := .sent, issued := s.now }

/-! ### The homes -/

/-- Request `n` is sent, and the first of its lane at its home (R23, R172). -/
def AtHome (s : State) (n : Nat) (r : Req) : Prop := sfind s.reqs n = some r ∧ r.phase = .sent ∧ s.firstAtHome n r = true

/-- The home finds nothing to refuse: the addresses are mapped, a recorded access meets no conflict and its records fit, no line is poisoned or
fails its tag or its cells, no injection is armed, and the counters of no line are exhausted (R272, R295, R297). -/
def HomeOk (s : State) (r : Req) : Prop :=
  (∀ q ∈ r.pieces, s.unmapped q.1 = false ∧ sget none s.mem.poison (q.1 / 64) = none ∧ sget false s.mem.badTag (q.1 / 64) = false ∧
    sget false s.mem.badCells (q.1 / 64) = false ∧ s.countersDone q.1 = false) ∧
  (r.recorded = true → s.conflict r = none ∧ s.tagFull r = false) ∧ s.pkg.injarm.getLsbD 0 = false

/-- No home has found a fault for the group of the request's party. -/
def Unfaulted (s : State) (r : Req) : Prop := ∀ x, s.party? r.party = some x → x.homeFaults = []

/-- Request `n` goes on in phase `ph`; every other request stands, but that a group that is answered whole holds none any more. -/
def Goes (s : State) (n : Nat) (r : Req) (ph : Phase) (t : State) : Prop :=
  (∃ h, sfind t.reqs n = some { r with phase := ph, held := h }) ∧
  ∀ k q, k ≠ n → sfind s.reqs k = some q → ∃ h, sfind t.reqs k = some { q with held := h }

/-- The addresses of the bytes of a list of pieces, lowest byte first. -/
def bytesIn (ps : List (Nat × Nat)) : List Nat := ps.flatMap (fun q => (List.range q.2).map (q.1 + ·))
/-- The little-endian number of a list of bytes. -/
def littleEndian (bs : List Byte) : Nat := bs.foldr (fun b v => b.toNat + 256 * v) 0

/-- Every byte of a list of addresses holds its byte of a number, and every other byte of memory stands. -/
def Stored (s : State) (as : List Nat) (v : Nat) (t : State) : Prop :=
  (∀ i a, as[i]? = some a → t.byteAt a = BitVec.ofNat 8 (v / 256 ^ i)) ∧ ∀ a, a ∉ as → t.byteAt a = s.byteAt a

/-- Every granule of a request's pieces has the record of its regions, as a read or as a write (R295, R297). -/
def Recorded (r : Req) (t : State) : Prop :=
  ∀ a ∈ bytesIn r.pieces, ∃ g ∈ t.tags, g.granule = a / 4 ∧ g.party = r.party ∧ g.owners = r.owners ∧ (if r.writes then g.w else g.r) = true

/-- `t` is `s` after a home has refused request `n`: no effect on memory, and, while other requests of the group are open, the fault stands
with the party for the threads the request serves (R169, R272). -/
def Refused (s : State) (n : Nat) (r : Req) (c : BitVec 6) (info : DWord) (t : State) : Prop :=
  t = (s.refuse n r c info).wake ∧ t.mem = s.mem ∧ sfind t.reqs n = none ∧
  ∀ x, s.party? r.party = some x → r.held = true → 1 < x.waitReqs → ∃ y, t.party? r.party = some y ∧ y.waitReqs = x.waitReqs - 1 ∧
    y.homeFaults = x.homeFaults ++
      (if r.uniform then threadsOf x.width x.pos.m0 else [r.thread]).map (fun u => ⟨u, c, r.va, info, false⟩)

/-- A granule in which an access of a request falls is covered by a record of another thread, and one of the two writes (R295). -/
def Conflicting (s : State) (r : Req) (g : Tag) : Prop :=
  g ∈ s.tags ∧ g.owners ≠ [] ∧ (∃ a ∈ bytesIn r.pieces, a / 4 = g.granule) ∧ (g.w = true ∨ r.writes = true) ∧
  ¬ (g.party = r.party ∧ ∃ o ∈ g.owners, ∃ q ∈ r.owners, q.1 = o.1)

/-- What a 32-bit atomic leaves in memory (R173). -/
def atomSays (op : AtomOp) (m b c : Word) : Word :=
  match op with
  | .add => m + b
  | .minI => if m.slt b then m else b
  | .maxI => if m.slt b then b else m
  | .minN => if m.ult b then m else b
  | .maxN => if m.ult b then b else m
  | .and => m &&& b
  | .or => m ||| b
  | .xor => m ^^^ b
  | .xch => b
  | .cas => if m = b then c else m
  | .fadd => BitVec.ofNat 32 (fp32.add RNE false 0 m.toNat b.toNat).1
  | .add64 => m

/-- The parties that nap on a line are awake, those of `p` apart (R177, R306). -/
def NapsWake (s : State) (line p : Nat) (t : State) : Prop :=
  ∀ q x ls left a m, q ≠ p → s.party? q = some x → x.park = .nap ls left a m → line ∈ ls → ∃ y, t.party? q = some y ∧ y.park = .none

/-- `t` is `s` after a mailbox word at `pa` has been filled: the oldest load that waits takes the value and the word is empty, otherwise the word
is full; its bytes hold the value, naps on its line wake, and every other byte stands (R179, R306). -/
def Fills (s : State) (p pa : Nat) (v : DWord) (t : State) : Prop :=
  (∀ k q, s.oldestLd pa = some (k, q) → sfind s.reqs k = some q →
    t.isFull pa = false ∧ ∃ h, sfind t.reqs k = some { q with phase := .reply v.toNat, held := h }) ∧
  (s.oldestLd pa = none → t.isFull pa = true) ∧
  Stored s (bytesIn [(pa, 8)]) v.toNat t ∧ NapsWake s (pa / 64) p t

open Classical in
/-- `y` is `x` after a result has reached its destination: words, lowest register first, a uniform register, or a mask bit; s0 takes nothing
(R13, R165, R189). -/
def Landed (x : Party) (u : Nat) (d : Dest) (v : Nat) (y : Party) : Prop :=
  (∀ w k, k < 1024 → y.vNow w k = match d with
    | .vec b n => if w = u ∧ b ≤ k ∧ k < b + n then BitVec.ofNat 32 (v / 2 ^ (32 * (k - b))) else x.vNow w k
    | _ => x.vNow w k) ∧
  (∀ k, y.uNow k = match d with | .uni n => if k = n ∧ n ≠ 0 then BitVec.ofNat 64 v else x.uNow k | _ => x.uNow k) ∧
  (∀ k w, w < 64 → bitOf (y.maskNow k) w = match d with
    | .mask n => if k = n ∧ w = u then decide (v % 2 = 1) else bitOf (x.maskNow k) w
    | _ => bitOf (x.maskNow k) w)

/-! ### Class 6: tiles, Porter, matrix contexts, timelines -/

/-- The machine as a class-6 word finds it: the party's crew is pinned to its core (R30, R207). -/
def Pins (s : State) (x : Party) : State := s.onCrew x.crew (fun c => { c with pinned := true })
/-- The number of a party's core. -/
def coreNo (x : Party) : Nat := x.lane / 64

/-- `t` is `s` with core `c` now `k`, and nothing else changed. -/
def CoreIs (s : State) (c : Nat) (k : Core) (t : State) : Prop :=
  t = { s with cores := t.cores } ∧ ∀ j, t.core j = if j = c then k else s.core j

/-- A slot that may be claimed: owned by no crew, and no command on it outstanding (R31, R211). -/
def Claimable (k : Core) (j : Nat) : Prop :=
  (k.tile j).owner = none ∧ ((k.tile j).st = .empty ∨ (k.tile j).st = .ready ∧ (k.tile j).readers = 0)
/-- A slot that a command of the crew may read at issue (R212). -/
def Readable (k : Core) (crew j : Nat) : Prop := j ≤ 63 ∧ (k.tile j).owner = some crew ∧ ((k.tile j).st = .ready ∨ (k.tile j).st = .draining)
/-- A slot that a command of the crew may write at issue (R212). -/
def Writable (k : Core) (crew j : Nat) : Prop := j ≤ 63 ∧ (k.tile j).owner = some crew ∧ ((k.tile j).st = .empty ∨ (k.tile j).st = .ready)
/-- A slot as a command that writes it leaves it at issue, with the layout of what it writes. -/
def filling (t : Tile) (layout : Nat) : Tile := { t with st := .filling, layout := layout }
/-- A slot as `n` uses by commands that read it leave it at issue. -/
def draining (t : Tile) (n : Nat) : Tile := { t with st := .draining, readers := t.readers + n }

/-- The fields of a Porter control word (R213). -/
structure CpFields (v : DWord) (slot fmt : Nat) (sp ac : Bool) (ctx stride : Nat) : Prop where
  slot : slot = v.toNat % 64
  fmt : fmt = v.toNat / 64 % 16
  sp : sp = decide (v.toNat / 2 ^ 10 % 2 = 1)
  ac : ac = decide (v.toNat / 2 ^ 11 % 2 = 1)
  ctx : ctx = v.toNat / 2 ^ 12 % 4
  stride : stride = 2 * (v.toNat / 2 ^ 14 % 2 ^ 18)
  high : v.toNat < 2 ^ 32

/-- `k` is the party's core after a Porter command has been queued on a context: its timeline's issued count is one more, which is the ticket,
and the command stands last in the queue with the party's writes it waits for (R209, R213, R218). -/
def CpQueued (s : State) (p : Nat) (x : Party) (ctx : Nat) (a : DWord) (op : CpOp) (ticket : Nat) (k : Core) : Prop :=
  let o := s.core (coreNo x)
  ticket = (o.issuedOf ctx + 1) % 2 ^ 64 ∧ k.issuedOf ctx = ticket ∧
  ∀ j, sget [] k.porter j = sget [] o.porter j ++ if j = ctx then [⟨ticket, x.crew, x.fe, x.user, p, a, op, 0, s.openWrites p⟩] else []

/-- `k` is the party's core after a matrix command has been queued on context `d`: a ticket of the context's timeline, the binding at issue, and
the `mx.sm` of the other context it waits for (R209, R219, R323). -/
def MxQueued (s : State) (x : Party) (d : Nat) (op : MxOp) (k : Core) : Prop :=
  let o := s.core (coreNo x)
  k.issuedOf (4 + d) = (o.issuedOf (4 + d) + 1) % 2 ^ 64 ∧
  ∀ j, k.ctx j = if j = d then { o.ctx d with
      queue := (o.ctx d).queue ++ [⟨(o.issuedOf (4 + d) + 1) % 2 ^ 64, x.crew, (o.ctx d).bind, op, (o.ctx (1 - d)).lastSm⟩] }
    else o.ctx j

/-- Every timeline but those listed keeps its issued count. -/
def IssuedElse (o k : Core) (js : List Nat) : Prop := ∀ j, j ∉ js → k.issuedOf j = o.issuedOf j

/-- No fault record of the crew is covered by a wait or read of a timeline up to `n` (R210). -/
def NoRecord (k : Core) (crew tl n : Nat) : Prop := ∀ f ∈ k.faults, ¬ (f.crew = crew ∧ f.tl = tl ∧ f.ticket ≤ n)
/-- The fault record that a wait or read of a timeline up to `n` delivers: of those covered, one with the smallest ticket (R210). -/
def FirstRecord (k : Core) (crew tl n : Nat) (f : EngFault) : Prop :=
  f ∈ k.faults ∧ f.crew = crew ∧ f.tl = tl ∧ f.ticket ≤ n ∧ ∀ g ∈ k.faults, g.crew = crew → g.tl = tl → f.ticket ≤ g.ticket

/-! ### The envelope unit, the matrix array, the Porter and the bank engines -/

/-- An envelope word: the registers it names, its slots, when its operands are accepted at issue, its operation, and whether it releases the
party's writes (R236 to R251). -/
structure EnvWord where
  m : Mods
  regs : List (Reg × Nat) := []
  slots : Party → List Nat
  ok : Party → Prop := fun _ => True
  op : Party → EnvOp
  releases : Bool := false

/-- The threads, with their destination, that a per-thread envelope word serves: the party once for a uniform one (R247 to R249). -/
def envServes (x : Party) (d : Reg) : List (Nat × Dest) :=
  match d with
  | .s _ => [(0, resultRun x d 1)]
  | .v _ => (threadsOf x.width x.m0).map (fun t => (t, resultRun x d 1))
/-- The low word of a register, and that of the next one: the ends of a domain (R236). -/
def domainIn (x : Party) (b : Reg) : Word × Word := ((x.reg64 0 b).extractLsb' 0 32, (x.uniNext b).extractLsb' 0 32)
/-- The finite FP32 words: the exponent is not all ones. -/
def FiniteWord (w : Word) : Prop := w.extractLsb' 23 8 ≠ 255

/-- The envelope words that queue an operation over slots of the crew. -/
inductive EnvRow : Instr → EnvWord → Prop where
  | clr m d b : EnvRow (.envClr m d b) {
      m := m, slots := fun x => [x.envOf d], op := fun x => .clr (x.envOf d) (domainIn x b).1 (domainIn x b).2 }
  | ins m d a b : EnvRow (.envIns m d a b) {
      m := m, regs := (a, 1) :: srcRun b 1, slots := fun x => [x.envOf d],
      ok := fun x => ∀ t, Active x t → FiniteWord (x.reg32 t 0 a) ∧ FiniteWord (x.src32 t 0 b),
      op := fun x => .ins (x.envOf d) ((threadsOf x.width x.m0).map (fun t => (x.reg32 t 0 a, x.src32 t 0 b))) }
  | sum m d a b : EnvRow (.envSum m d a b) {
      m := m, slots := fun x => [x.envOf d, x.envOf a, x.envOf b], op := fun x => .sum (x.envOf d) (x.envOf a) (x.envOf b) }
  | max m d a b : EnvRow (.envMax m d a b) {
      m := m, slots := fun x => [x.envOf d, x.envOf a, x.envOf b], op := fun x => .max (x.envOf d) (x.envOf a) (x.envOf b) }
  | icv m d a b : EnvRow (.envIcv m d a b) {
      m := m, slots := fun x => [x.envOf d, x.envOf a, x.envOf b], op := fun x => .icv (x.envOf d) (x.envOf a) (x.envOf b) }
  | conj m d a b : EnvRow (.envConj m d a b) {
      m := m, slots := fun x => [x.envOf d, x.envOf a],
      op := fun x => .conj (x.envOf d) (x.envOf a) (domainIn x b).1 (domainIn x b).2 }
  | simp m d a : EnvRow (.envSimp m d a) {
      m := m, slots := fun x => [x.envOf d, x.envOf a], op := fun x => .simp (x.envOf d) (x.envOf a) }
  | eval m d a b : EnvRow (.envEval m d a b) {
      m := m, regs := (d, 1) :: srcRun b 1, slots := fun x => [x.envOf a],
      op := fun x => .eval (x.envOf a) ((envServes x d).map (fun e => (e.1, e.2, x.src32 e.1 0 b))) }
  | slope m d a b : EnvRow (.envSlope m d a b) {
      m := m, regs := (d, 1) :: srcRun b 1, slots := fun x => [x.envOf a],
      op := fun x => .slope (x.envOf a) ((envServes x d).map (fun e => (e.1, e.2, x.src32 e.1 0 b))) }
  | rd m d a b : EnvRow (.envRd m d a b) {
      m := m, regs := [(d, 1)], slots := fun x => [x.envOf a],
      ok := fun x => (x.srcZ b).toNat / 2 ^ 9 % 2 ^ 7 = 0 ∧ (x.srcZ b).toNat < 2 ^ 18,
      op := fun x => .rd (x.envOf a) (envServes x d) ((x.srcZ b).toNat % 2 ^ 9) ((x.srcZ b).toNat / 2 ^ 16 % 4) }
  | cnt m d a : EnvRow (.envCnt m d a) {
      m := m, regs := [(d, 1)], slots := fun x => [x.envOf a], op := fun x => .cnt (x.envOf a) (envServes x d) }
  | ld m d a : EnvRow (.envLd m d a) {
      m := m, slots := fun x => [x.envOf d], ok := fun x => (x.reg64 0 a).toNat % 64 = 0,
      op := fun x => .ld (x.envOf d) (x.reg64 0 a), releases := true }
  | st m d a : EnvRow (.envSt m d a) {
      m := m, slots := fun x => [x.envOf d], ok := fun x => (x.reg64 0 a).toNat % 64 = 0, op := fun x => .st (x.envOf d) (x.reg64 0 a) }

/-- `k` is the core `o` after an envelope instruction has been queued, with a ticket of tl6 where `counted` (R209, R237). -/
def EnvQueued (p : Nat) (x : Party) (counted : Bool) (op : EnvOp) (dest : Dest) (after : List Nat) (o k : Core) : Prop :=
  let T := (o.issuedOf 6 + 1) % 2 ^ 64
  k.envQ = o.envQ ++ [⟨p, x.crew, x.fe, x.user, if counted then T else 0, x.flagA, op, dest, x.ctlRegs.envtol, x.ctlRegs.envctl.getLsbD 0, after⟩] ∧
  k.issuedOf 6 = (if counted then T else o.issuedOf 6) ∧ IssuedElse o k [6] ∧ k = { o with issued := k.issued, envQ := k.envQ, env := k.env }

/-- What an operation puts in its destination slot: `slot` reads the slots, `tol` is the tolerance (R239 to R246). -/
inductive EnvGives (slot : Nat → Option Env) (tol : Word) : EnvOp → Nat → Env → Prop where
  | clr d lo hi : goodDomain lo hi = true → EnvGives slot tol (.clr d lo hi) d ⟨lo, hi, []⟩
  | ins d ls e : slot d = some e → EnvGives slot tol (.ins d ls) d { e with pieces := canon (e.lines ++ ls) e.lo e.hi }
  | max d a b x y lo hi : slot a = some x → slot b = some y → (lo, hi) = commonDomain x y → goodDomain lo hi = true →
      EnvGives slot tol (.max d a b) d ⟨lo, hi, canon (x.lines ++ y.lines) lo hi⟩
  | sum d a b x y lo hi : slot a = some x → slot b = some y → (lo, hi) = commonDomain x y → goodDomain lo hi = true →
      x.pieces ≠ [] → y.pieces ≠ [] → (∀ p ∈ sumPieces x y lo hi, FiniteWord p.m ∧ FiniteWord p.b) →
      EnvGives slot tol (.sum d a b) d ⟨lo, hi, sumPieces x y lo hi⟩
  | sumEmpty d a b x y lo hi : slot a = some x → slot b = some y → (lo, hi) = commonDomain x y → goodDomain lo hi = true →
      x.pieces = [] ∨ y.pieces = [] → EnvGives slot tol (.sum d a b) d ⟨lo, hi, []⟩
  | icv d a b x y e : slot a = some x → slot b = some y → icvOf x y = .ok e → EnvGives slot tol (.icv d a b) d e
  | conj d a lo hi x e : slot a = some x → conjOf x lo hi = .ok e → EnvGives slot tol (.conj d a lo hi) d e
  | simp d a e : slot a = some e → goodTol tol = true →
      EnvGives slot tol (.simp d a) d { e with pieces := simpPieces tol e.hi e.pieces }

/-- The operations whose source slot is unset. -/
inductive EnvUnset (slot : Nat → Option Env) : EnvOp → Prop where
  | ins d ls : slot d = none → EnvUnset slot (.ins d ls)
  | max d a b : slot a = none ∨ slot b = none → EnvUnset slot (.max d a b)
  | sum d a b : slot a = none ∨ slot b = none → EnvUnset slot (.sum d a b)
  | icv d a b : slot a = none ∨ slot b = none → EnvUnset slot (.icv d a b)
  | conj d a lo hi : slot a = none → EnvUnset slot (.conj d a lo hi)
  | simp d a : slot a = none → EnvUnset slot (.simp d a)
  | eval a ls : slot a = none → EnvUnset slot (.eval a ls)
  | slope a ls : slot a = none → EnvUnset slot (.slope a ls)
  | rd a ls k f : slot a = none → EnvUnset slot (.rd a ls k f)

/-- A tile after `n` reads of it have completed (R212). -/
def readsDone (t : Tile) (n : Nat) : Tile :=
  { t with readers := t.readers - n, st := if 0 < n ∧ t.st = .draining ∧ t.readers ≤ n then .ready else t.st }

/-- Bytes `va` to `va + n` map to `pa` for an engine, and can be read without an error. -/
def EngMaps (s : State) (g : Eng) (va : DWord) (pa n : Nat) : Prop :=
  ∀ k < n, s.engPa g false (va + BitVec.ofNat 64 k) = .ok (pa + k) ∧ sget none s.mem.poison ((pa + k) / 64) = none ∧
    sget false s.mem.badTag ((pa + k) / 64) = false ∧ sget false s.mem.badCells ((pa + k) / 64) = false
/-- Bytes `va` to `va + n` map to `pa` for an engine's writes. -/
def EngMapsOut (s : State) (g : Eng) (va : DWord) (pa n : Nat) : Prop :=
  ∀ k < n, s.engPa g true (va + BitVec.ofNat 64 k) = .ok (pa + k) ∧ s.countersDone (pa + k) = false

/-- The engine `e` runs list `l`, and its next command is `op`, whose operand places are `ps` and can be read; no command in flight
touches what it touches (R225 to R227). -/
def BankAt (s : State) (e : Nat) (l : BankList) (op : BankOp) (ps : List (Nat × Nat)) : Prop :=
  let b := s.bank e
  let g : Eng := ⟨l.fe, quadOfCore l.core, l.user⟩
  b.run = some l ∧ b.next < 256 ∧
  (∃ bs, s.engRead g (segmentsOf (l.desc + BitVec.ofNat 64 (16 * b.next)) 16) = (s, .ok bs) ∧
    let ws := numbers 4 bs
    bankDecode (BitVec.ofNat 32 (ws.getD 0 0)) (BitVec.ofNat 32 (ws.getD 1 0)) (BitVec.ofNat 64 (ws.getD 2 0 + 2 ^ 32 * ws.getD 3 0)) = some op) ∧
  s.bankPlaces g e op = .ok ps ∧ s.readAll l.fe e (op.reads.zip ps) = (s, none) ∧
  ∀ t ∈ op.touches ps, ∀ u ∈ b.touched, t.conflict u = false

/-! ### Class 7 and the lanes -/

/-- The control registers of R257: the lowest level that may read, the lowest that may write, whether it is 64 bits wide, the bits a write
keeps, and the values a write may give it. -/
structure CsrRow where
  rd : Nat
  wr : Option Nat
  wide : Bool
  bits : DWord
  legal : DWord → Prop := fun _ => True

/-- The register map (R257, R261 to R265, R277). -/
def csrRow : Csr → CsrRow
  | .fpctl => {
      rd := 0, wr := some 0, wide := false, bits := 0xFFFF71FF, legal := fun v => 1 ≤ v.toNat % 8 ∧ v.toNat % 8 ≤ 6 ∧ v.toNat / 2 ^ 12 % 8 ≤ 2 }
  | .fpsum => { rd := 0, wr := some 0, wide := false, bits := 0x1F }
  | .envtol => { rd := 0, wr := some 0, wide := false, bits := 0xFFFFFFFF }
  | .envctl => { rd := 0, wr := some 0, wide := false, bits := 1 }
  | .mxctl => { rd := 0, wr := some 0, wide := false, bits := 0xFFF, legal := fun v => v.toNat % 4 ≠ 3 }
  | .scopepol => { rd := 0, wr := some 1, wide := false, bits := 0x103 }
  | .tvec => { rd := 1, wr := some 1, wide := true, bits := 0xFFFFFFFFFFFFFFFF, legal := CodeAddress }
  | .tcause => { rd := 1, wr := some 1, wide := false, bits := 0x13F }
  | .tepc => { rd := 1, wr := some 1, wide := true, bits := 0xFFFFFFFFFFFFFFFF }
  | .tmprev => { rd := 1, wr := some 1, wide := true, bits := 0xFFFFFFFFFFFFFFFF }
  | .tmfault => { rd := 1, wr := some 1, wide := true, bits := 0xFFFFFFFFFFFFFFFF }
  | .taddr => { rd := 1, wr := none, wide := true, bits := 0 }
  | .tinfo => { rd := 1, wr := some 1, wide := true, bits := 0xFFFFFFFFFFFFFFFF }
  | .cyc => { rd := 0, wr := none, wide := true, bits := 0 }
  | .pinfo => { rd := 0, wr := some 1, wide := true, bits := 0x10000 }
  | .injaddr => { rd := 1, wr := some 2, wide := true, bits := 0xFFFFFFFFFFFFFFC0 }
  | .injarm => { rd := 1, wr := some 2, wide := false, bits := 3 }

/-- The words that write a register: the register, the destination of its old value, and the new value from the old (R258). -/
inductive CsrChange : Instr → Csr → Option (Fin 31) → (Party → DWord → DWord) → Prop where
  | wr m a b : CsrChange (.csrWr m a b) a none (fun x _ => x.srcZ b)
  | set m n a b : CsrChange (.csrSet m (.s n) a b) a (some n) (fun x old => old ||| x.srcZ b)
  | clr m n a b : CsrChange (.csrClr m (.s n) a b) a (some n) (fun x old => old &&& ~~~ x.srcZ b)

/-- A level may write a register. -/
def MayWrite (a : Csr) (level : Nat) : Prop := ∃ l, (csrRow a).wr = some l ∧ l ≤ level

/-- `z` is `x` with a 64-bit value in a uniform register, or in the pair of the active threads (R13, R97, R259, R268). -/
def GivesWide (x : Party) (d : Reg) (v : Nat → DWord) (z : Party) : Prop :=
  match d with
  | .s n => UniStep n.val (v 0) x z
  | .v n => z = { x with regs := { x.regs with v := z.regs.v } } ∧
      ∀ t r, r < 1024 → z.vNow t r = if t ∈ threadsOf x.width x.m0 ∧ r = x.base + n.val then (v t).extractLsb' 0 32
        else if t ∈ threadsOf x.width x.m0 ∧ r = x.base + n.val + 1 then (v t).extractLsb' 32 32 else x.vNow t r
/-- `z` is `x` with a 32-bit value in a uniform register, or in a register of the active threads. -/
def GivesWord (x : Party) (d : Reg) (v : Nat → DWord) (z : Party) : Prop :=
  match d with
  | .s n => UniStep n.val (v 0) x z
  | .v n => z = { x with regs := { x.regs with v := z.regs.v } } ∧
      ∀ t r, r < 1024 → z.vNow t r = if t ∈ threadsOf x.width x.m0 ∧ r = x.base + n.val then (v t).extractLsb' 0 32 else x.vNow t r

/-- The party at its handler (R273): the shadow keeps what the trap interrupts, the trap registers hold the trap, the party is at supervisor
level with window base 0, no wait of its own stands, and every thread that has not left is at `tvec`. -/
def Entered (x : Party) (tvec : DWord) (r : TrapReq) (y : Party) : Prop :=
  (∃ e, y.shadow = e :: x.shadow ∧ e.tpc = x.tpc ∧ e.joinWait = x.joinWait ∧ e.syncWait = x.syncWait ∧ e.wb = x.wb ∧
    e.entries = x.divs.length ∧ e.level = x.csr.level ∧ e.rerun = r.rerun ∧
    ∀ t, sget 0 e.callDepth t = (sget [] x.calls t).length) ∧
  y.csr.tcause = r.cause.setWidth 32 ||| (if r.deferred then 0x100 else 0) ∧ y.csr.tepc = r.epc ∧ y.csr.tmprev = r.mprev ∧
  y.csr.tmfault = r.mfault ∧ y.csr.taddr = r.addr ∧ y.csr.tinfo = r.info ∧ y.csr.level = 1 ∧ y.csr.prior = x.csr.level ∧
  y.csr.fpctl = x.csr.fpctl ∧ y.csr.fpsum = x.csr.fpsum ∧ y.wb = 0 ∧ y.joinWait = 0 ∧ y.syncWait = 0 ∧ y.park = .none ∧ y.pend = none ∧
  y.regs = x.regs ∧ y.divs = x.divs ∧ y.calls = x.calls ∧ y.left = x.left ∧
  ∀ t < x.width, t < 64 → y.pcOf t = if bitOf x.left t then x.pcOf t else tvec

/-! ### Residency -/

/-- `t` is `s` with a crew resident on core `c`: its record says so, and its `i`-th living party is resident on the `i`-th lane of the fill order
with a new issue age and its lane-cycles counting; memory stands (R30, R264, R346, R347). -/
def Seated (s : State) (crew : Nat) (k : Crew) (c : Nat) (t : State) : Prop :=
  t.crew? crew = some { k with core := some c, life := .resident, since := s.now } ∧ t.mem = s.mem ∧
  (t.core c).fe = some k.fe ∧
  ∀ (i p : Nat) x l, (s.crewAlive k)[i]? = some p → s.party? p = some x → x.life ≠ .halted →
    (fillLanes (s.crewWords k) 8 (s.crewAlive k).length (s.rooms c))[i]? = some l →
    ∃ y, t.party? p = some y ∧ y.life = .resident ∧ y.lane = l ∧ y.age = s.now ∧ y.cycSince = some s.now ∧ y.regs = x.regs ∧ y.tpc = x.tpc

/-! ### Front ends, firmware and the package -/

/-- `t` is `s` with the lodging of front end `fe` now `l`: every held group may issue again, and nothing else changes. -/
def LodIs (s : State) (fe : Nat) (l : Lodging) (t : State) : Prop :=
  t = { s.wake with lods := t.lods } ∧ ∀ j, t.lod j = if j = fe then l else s.lod j
/-- `t` is `s` with the stream of front end `fe` now `st`. -/
def StreamIs (s : State) (fe : Nat) (st : Stream) (t : State) : Prop := LodIs s fe { s.lod fe with stream := st } t
/-- `t` is `s` with the package's registers now `k`. -/
def PkgIs (s : State) (k : Package) (t : State) : Prop := t = { s.wake with pkg := k }

/-- A function's MSI-X after a vector is raised: a message where it can be sent, its pending bit otherwise (R358). -/
def raised (m : Msix) (v : Nat) : Msix :=
  if m.enabled = true ∧ m.masked.getLsbD v = false then { m with sent := m.sent ++ [v] }
  else { m with pending := m.pending ||| BitVec.ofNat 32 (2 ^ v) }

/-- The Logbook after one more record: a ring of 4,096 (R394). -/
def logged (k : Package) (now code lodging unit : Nat) (detail : BitVec 128) : Package :=
  let l := k.log ++ [⟨now / 2, code, lodging, unit, k.logSeq % 2 ^ 32, detail⟩]
  { k with log := l.drop (l.length - 4096), logSeq := (k.logSeq + 1) % 2 ^ 32 }

/-- `t` is `s` after a record of the Logbook on registers `k`: the record, the PF's vector 5, and nothing else (R358, R394). -/
def LogIs (s : State) (k : Package) (code lodging unit : Nat) (detail : BitVec 128) (t : State) : Prop :=
  s.pkg.log.length ≤ 4096 → t = { s.wake with pkg := logged k s.now code lodging unit detail, lods := t.lods } ∧
    ∀ j, t.lod j = if j = 0 then { s.lod 0 with stream := { (s.lod 0).stream with msix := raised (s.lod 0).stream.msix 5 } } else s.lod j

/-- A stream after a failure (R393): its status, code and packet, the item bit, and vector 0. -/
def failed (st : Stream) (code skip : Nat) (packet : DWord) : Stream :=
  { st with
    failed := true, code := code, item := true, faultPacket := packet, skip := skip, blockedAt := none, noticed := false
    cur := none, msix := raised st.msix 0 }

/-! ### Packets (R386 to R391) -/

/-- The bytes of a front end's access lie outside every table that translates it: whatever those bytes come to hold, the addresses of the range,
and of a completion word, reach what they reach now. -/
def TablesStand (s : State) (fe : Nat) (va : DWord) (n : Nat) (word : Option DWord) : Prop :=
  ∀ u : State, (∀ j, (u.lod j).desc = (s.lod j).desc ∧ (u.lod j).root1 = (s.lod j).root1 ∧ (u.lod j).root2 = (s.lod j).root2) →
    u.quads = s.quads → u.pkg.number = s.pkg.number → u.pkg.service = s.pkg.service →
    u.pkg.podPackages = s.pkg.podPackages → u.pkg.absentRemote = s.pkg.absentRemote → u.mem.owner = s.mem.owner →
    u.mem.windows = s.mem.windows →
    (∀ a, (∀ i < n, s.fePa fe true .plain (va + BitVec.ofNat 64 i) ≠ some a) → u.byteAt a = s.byteAt a) →
    (∀ i < n, u.fePa fe true .plain (va + BitVec.ofNat 64 i) = s.fePa fe true .plain (va + BitVec.ofNat 64 i)) ∧
      ∀ w, word = some w → u.fePa fe true .mailbox w = s.fePa fe true .mailbox w

/-- A front end's bytes stand at a range of virtual addresses, each at a physical address of its own; every other byte stands. -/
def FeWritten (s : State) (fe : Nat) (va : DWord) (bs : List Byte) (t : State) : Prop :=
  (∀ i a, s.fePa fe true .plain (va + BitVec.ofNat 64 i) = some a → i < bs.length →
    (∀ j < bs.length, j ≠ i → s.fePa fe true .plain (va + BitVec.ofNat 64 j) ≠ some a) → t.byteAt a = bs.getD i 0) ∧
  ∀ a, (∀ i < bs.length, s.fePa fe true .plain (va + BitVec.ofNat 64 i) ≠ some a) → t.byteAt a = s.byteAt a

/-- The front end of a running lodging has started packet `n`, and its body comes next. -/
def AtBody (s : State) (fe n op : Nat) (k : Packet) : Prop :=
  (s.lod fe).st = .running ∧ (s.lod fe).stream.cur = some n ∧ sfind s.packets n = some k ∧ k.stage = .body ∧ k.opcode = op ∧ k.fe = fe

/-- The body of packet `n` has been performed: the packet is complete or its work runs on, and the front end is free to start the next one. -/
def BodyDone (fe n : Nat) (k : Packet) (done : Bool) (t : State) : Prop :=
  sfind t.packets n = some { k with stage := if done then .complete else .running } ∧ (t.lod fe).stream.cur = none

/-- The body of packet `n` fails with a code: the stream fails, and the packet is gone (R393). -/
def BodyFails (s : State) (fe n : Nat) (k : Packet) (code : Nat) (t : State) : Prop :=
  sfind t.packets n = none ∧ (t.lod fe).stream = failed (s.lod fe).stream code 0 k.addr ∧ ∀ a, t.byteAt a = s.byteAt a

/-! ### Lodgings as a whole (R279 to R281) -/

/-- Every item of the machine names one lodging: numbers are given once, and a crew's parties are its lodging's. -/
def Tidy (s : State) : Prop :=
  (s.parties.map (fun e => e.1)).Nodup ∧ (s.crews.map (fun e => e.1)).Nodup ∧ (s.launches.map (fun e => e.1)).Nodup ∧
  ∀ c k p x, s.crew? c = some k → p ∈ k.parties → s.party? p = some x → x.fe = k.fe

/-- Nothing of a lodging is in the machine: no party, crew, launch or region record. -/
def Absent (fe : Nat) (t : State) : Prop :=
  (∀ e ∈ t.parties, e.2.fe ≠ fe) ∧ (∀ e ∈ t.crews, e.2.fe ≠ fe) ∧ (∀ e ∈ t.launches, e.2.fe ≠ fe) ∧ ∀ g ∈ t.tags, g.fe ≠ fe

/-- The parties of every other lodging stand. -/
def OthersStand (s : State) (fe : Nat) (t : State) : Prop :=
  ∀ p x, s.party? p = some x → x.fe ≠ fe → t.party? p = some { x with hold := false }

/-- Each party of an image is back in the machine as the image holds it; its crew waits for room on a core (R280). -/
def Returned (i : Image) (t : State) : Prop :=
  ∀ p x, sfind i.parties p = some x → ∃ y, t.party? p = some y ∧ y.regs = x.regs ∧ y.tpc = x.tpc ∧ y.csr = x.csr ∧ y.divs = x.divs ∧
    y.shadow = x.shadow ∧ y.park = x.park ∧ y.fe = x.fe ∧ y.lane = x.lane ∧ (x.life = .halted → y.life = .halted)

/-- The limits of a lodging descriptor (R369). -/
def DescLimits (fe : Nat) (d : DWord) : Prop :=
  let qb := d.toNat % 2 ^ 7
  let nq := d.toNat / 2 ^ 7 % 2 ^ 8
  1 ≤ nq ∧ nq ≤ 128 ∧ qb + nq ≤ 128 ∧ d.toNat / 2 ^ 15 % 2 ^ 16 ≠ 0 ∧ d.toNat / 2 ^ 31 % 2 ^ 5 = fe ∧ d.toNat / 2 ^ 37 = 0

/-- The Steward of an agent may serve request `n` now, whose handle names the allocated agent `a` (R23, R181, R348). -/
def AtSteward (s : State) (n : Nat) (r : Req) (op : AgentOp) (h w : Word) (a : Ag) : Prop :=
  AtHome s n r ∧ r.isEnd = false ∧ r.kind = .agent op h w ∧ s.stewardFree (s.reqHome r) (h.toNat % 2 ^ 24) r.fe = true ∧
    s.agentOf r.fe h = .ok a ∧ s.allocated a = true

end Sys2Proof.Says

open Sys2Proof Sys2Proof.Machine Sys2Proof.Says

/-- Class 0, results of 32 bits: every function of `IntRow` completes with its value of R102 to R112 in its destination, and changes
nothing else. -/
def Obligations.IntegerWordResults : Prop := ∀ i w, IntRow i w → w.Completes i

/-- Class 0, results of 64 bits: every function of `WideOf` completes with its value of R108 or R109 in its pair or uniform register. -/
def Obligations.IntegerWideResults : Prop :=
  ∀ i w, WideOf i w → ∀ s p x, Issuing s p x → Within x w.m ((w.d, 2) :: w.regs) → repsOf w.m = 1 →
    ∃ z, w.Result x z ∧ exec i s = .next (s.setParty p z)

/-- The compares write one bit a thread. -/
def Sys2Proof.Says.IntegerCompareResults : Prop :=
  ∀ i w, CompareRow i w → ∀ s p x, Issuing s p x → Within x w.m w.regs → repsOf w.m = 1 →
    ∃ z, MaskStep w.m w.d.val (w.val x) x z ∧ exec i s = .next (s.setParty p z)

/-- Class 1 and the conversions complete with their results, flags and draws, while no hardware upset strikes the shadow check. -/
def Obligations.FloatResults : Prop :=
  ∀ i w, FloatRow i w → ∀ s p x, Issuing s p x → (∀ e, s.upset ≠ .shadow e) → Within x w.m ((w.d, 1) :: w.regs) →
    ∃ z, w.Result x z ∧ exec i s = .next (s.setParty p z)

/-- A floating-point compare writes the bits of its last iteration, and ORs the invalid flags of all of them. -/
def Sys2Proof.Says.FloatCompareResults : Prop :=
  ∀ i m d a b f, FloatCompare i m d a b f → ∀ s p x, Issuing s p x → Within x m ((a, 1) :: srcRun b 1) →
    ∃ y z, MaskStep m d.val (fun t => (f (fp32.source x.ftz (x.reg32 t (repsOf m - 1) a).toNat)
        (fp32.source x.ftz (x.src32 t (repsOf m - 1) b).toNat)).1) x y ∧
      z = { y with csr := { y.csr with fpsum := z.csr.fpsum } } ∧
      (∀ j, z.csr.fpsum.getLsbD j = (x.csr.fpsum.getLsbD j || (j == 0 && (List.range (repsOf m)).any (fun k =>
        (threadsOf x.width (x.selected m)).any (fun t => (f (fp32.source x.ftz (x.reg32 t k a).toNat)
          (fp32.source x.ftz (x.src32 t k b).toNat)).2))))) ∧
      exec i s = .next (s.setParty p z)

/-- Compares: integer compares (R106) and floating-point compares (R121) write a mask register. -/
def Obligations.CompareResults : Prop := Says.IntegerCompareResults ∧ Says.FloatCompareResults

/-- Sums, differences, products and fused products of finite sources are formed exactly and rounded once into the format. -/
def Sys2Proof.Says.FloatValues : Prop :=
  ∀ (f : Fmt) (mode : BitVec 3) (ftz : Bool) (u a b c : Nat) (sa sb sc : Bool) (na da nb db nc dc : Nat),
    (f.source ftz a).1 = .fin sa na da → (f.source ftz b).1 = .fin sb nb db → (f.source ftz c).1 = .fin sc nc dc →
    (∃ s n d, 0 < d ∧ rat s n d = rat sa na da + rat sb nb db ∧ (f.add mode ftz u a b).1 = (f.write mode ftz u (.fin s n d)).1) ∧
    (∃ s n d, 0 < d ∧ rat s n d = rat sa na da - rat sb nb db ∧ (f.sub mode ftz u a b).1 = (f.write mode ftz u (.fin s n d)).1) ∧
    (∃ s n d, 0 < d ∧ rat s n d = rat sa na da * rat sb nb db ∧ (f.mul mode ftz u a b).1 = (f.write mode ftz u (.fin s n d)).1) ∧
    (∃ s n d, 0 < d ∧ rat s n d = rat sa na da * rat sb nb db + rat sc nc dc ∧
      (f.fma mode ftz u c a b).1 = (f.write mode ftz u (.fin s n d)).1)

/-- The integer that a rounding mode makes of a magnitude n/d with a sign: never further than the next integer, exact when it can be, and
the nearest, the nearer to zero, the one on the side of +∞ or −∞, or the one the draw picks, by the codes of R57. -/
def Sys2Proof.Says.RoundingModes : Prop :=
  ∀ (mode : BitVec 3) (neg : Bool) (n d u : Nat), 0 < d → 1 ≤ mode.toNat → mode.toNat ≤ 6 →
    let k := roundInt mode neg n d u
    (k = n / d ∨ k = n / d + 1) ∧ (n % d = 0 → k = n / d) ∧
    (mode = 1 → 2 * k * d ≤ 2 * n + d ∧ 2 * n ≤ 2 * k * d + d ∧ (2 * (n % d) = d → k % 2 = 0)) ∧
    (mode = 2 → k * d ≤ n) ∧
    (mode = 3 → if neg then k * d ≤ n else n ≤ k * d) ∧
    (mode = 4 → if neg then n ≤ k * d else k * d ≤ n) ∧
    (mode = 5 → 2 * k * d ≤ 2 * n + d ∧ 2 * n ≤ 2 * k * d + d ∧ (2 * (n % d) = d → n ≤ k * d)) ∧
    (mode = 6 → (k = n / d + 1 ↔ u < n % d * 2 ^ 16 / d))

/-- Results are rounded once, by the mode in force (R57, R58, R118, R124). -/
def Obligations.FloatArithmeticRoundsOnce : Prop := Says.FloatValues ∧ Says.RoundingModes

/-- A special function reads its operands, mode and draws at issue, clears what the zero policy names, sets flag B and leaves its results to
come; a word that no thread executes leaves nothing to come. -/
def Sys2Proof.Says.SpecialFunctionIssue : Prop :=
  ∀ i m fn d a b, SfuOf i m fn d a b → ∀ s p x, Issuing s p x → Within x m ((d, 1) :: (a, 1) :: srcRun b 1) →
    ∃ y t op, exec i s = .next t ∧ t.party? p = some y ∧
      (∀ u r, r < 1024 → y.vNow u r = match d with
        | .s _ => x.vNow u r
        | .v n => if bitOf (x.zeroed m) u = true ∧ u < x.width ∧ x.base + n.val ≤ r ∧ r < x.base + n.val + repsOf m then 0 else x.vNow u r) ∧
      (sfuLanes x m d a b = [] → t = s.setParty p y ∧ y = { x with regs := { x.regs with v := y.regs.v } }) ∧
      (sfuLanes x m d a b ≠ [] → t = { s.setParty p y with nextId := s.nextId + 1, sfus := sput s.sfus s.nextId op } ∧
        y = { x with regs := { x.regs with v := y.regs.v }, flags := sset 0 x.flags x.flagB (sget 0 x.flags x.flagB + 1), gen := y.gen } ∧
        (x.mode m ≠ SR → y.gen = x.gen) ∧
        op.party = p ∧ op.fn = fn ∧ op.rm = x.mode m ∧ op.ftz = x.ftz ∧ op.flag = x.flagB ∧ op.lanes = sfuLanes x m d a b)

/-- The results of a special-function operation arrive: each element's value of R126 to R129 stands in its register, its flags are ORed into
`fpsum`, flag B falls by one and the operation is gone, while no upset strikes the unit and the party's group is not held. -/
def Sys2Proof.Says.SpecialFunctionArrival : Prop :=
  ∀ s n op x, sfind s.sfus n = some op → s.party? op.party = some x → (∀ b, s.upset ≠ .sfu b) → x.latch = none →
    op.stoch.length = op.lanes.length →
    ((∃ n a b, op.lanes = [(0, .uni n, a, b)]) ∨
      ((∀ e ∈ op.lanes, ∃ r, e.2.1 = .vec r 1 ∧ r < 1024) ∧ (op.lanes.map (fun e => (e.1, e.2.1))).Nodup)) →
    ∃ y, exec (.specialFunctionResult n) s =
        .next (({ s with sfus := sdrop s.sfus n } : State).setParty op.party y).wake ∧
      y = { x with regs := { x.regs with v := y.regs.v, u := y.regs.u },
                   flags := sset 0 x.flags op.flag (sget 0 x.flags op.flag - 1), csr := { x.csr with fpsum := y.csr.fpsum } } ∧
      (∀ j < op.lanes.length, ∀ t d a b, op.lanes.getD j (0, .none, 0, 0) = (t, d, a, b) →
        (∀ r, d = .vec r 1 → y.vNow t r = (sfuValue op.fn op.rm op.ftz (op.stoch.getD j 0) a b).1) ∧
        (∀ k, d = .uni k → k ≠ 0 → y.uNow k = (sfuValue op.fn op.rm op.ftz (op.stoch.getD j 0) a b).1.setWidth 64)) ∧
      (∀ j, y.csr.fpsum.getLsbD j = (x.csr.fpsum.getLsbD j || (List.range op.lanes.length).any (fun i =>
        (sfuValue op.fn op.rm op.ftz (op.stoch.getD i 0) (op.lanes.getD i (0, .none, 0, 0)).2.2.1
          (op.lanes.getD i (0, .none, 0, 0)).2.2.2).2.getLsbD j))) ∧
      (∀ t r, r < 1024 → (∀ e ∈ op.lanes, ¬ (e.1 = t ∧ e.2.1 = .vec r 1)) → y.vNow t r = x.vNow t r) ∧
      (∀ k, (∀ e ∈ op.lanes, e.2.1 ≠ .uni k) → y.uNow k = x.uNow k)

/-- Special functions leave the lane, and their results arrive later. -/
def Obligations.SpecialFunctions : Prop := Says.SpecialFunctionIssue ∧ Says.SpecialFunctionArrival

/-- Permutations, `expd` and `m2v`: every thread that executes takes its word, read before anything is written. -/
def Obligations.CrossThreadResults : Prop := ∀ i w, CrossRow i w → w.Completes i

/-- A uniform `bcast` takes A of one thread, and a uniform `ballot` the set of active threads whose mask bit is set; a vector `ballot` gives
every selected thread the set of selected threads whose bit is set. -/
def Sys2Proof.Says.BroadcastAndBallot : Prop :=
  (∀ s p x m n a b, Issuing s p x → Within x m ((a, 1) :: srcRun b 1) →
    ∃ z, UniStep (n : Fin 31).val ((x.reg32 ((x.src32 0 0 b).toNat % x.width) 0 a).setWidth 64) x z ∧
      exec (.bcast m (.s n) a b) s = .next (s.setParty p z)) ∧
  (∀ s p x m d a, Issuing s p x → Within x m [(d, 2)] → repsOf m = 1 →
    ∃ z, (WideRow.mk m d [] (fun p _ => p.selected m &&& lowMask p.width &&& p.mask a)).Result x z ∧
      exec (.ballot m d a) s = .next (s.setParty p z))

/-- Votes and mask functions write one bit a selected thread. -/
def Sys2Proof.Says.MaskFunctionResults : Prop :=
  ∀ i w, MaskRow i w → ∀ s p x, Issuing s p x → Within x w.m w.regs → repsOf w.m = 1 →
    ∃ z, MaskStep w.m w.d.val (w.val x) x z ∧ exec i s = .next (s.setParty p z)

/-- Broadcasts, ballots, and the functions of mask registers. -/
def Obligations.BallotsAndMaskFunctions : Prop := Says.BroadcastAndBallot ∧ Says.MaskFunctionResults

/-- Scans and reductions: a vector destination iteration by iteration; a uniform destination takes the last result over m0. -/
def Sys2Proof.Says.ScansAndReductions : Prop :=
  ∀ i m d a f, GatherRow i m d a f → ∀ s p x, Issuing s p x → Within x m [(d, 1), (a, 1)] →
    (∀ n, d = .s n → threadsOf x.width x.m0 ≠ []) →
    ∃ z, exec i s = .next (s.setParty p z) ∧
      match d with
      | .v n => ∃ y : Nat → Party, y 0 = x ∧ y (repsOf m) = z ∧
          ∀ k < repsOf m, GatherStep x m (x.base + n.val + k) k a f (y k) (y (k + 1))
      | .s n =>
        let ts := threadsOf x.width x.m0
        ∃ rs fl g y, f (x.mode m) x.ftz x.gen (ts.map (fun t => x.reg32 t 0 a)) rs fl g ∧
          UniStep n.val ((rs.getLastD 0).setWidth 64) x y ∧
          z = { y with csr := { y.csr with fpsum := y.csr.fpsum ||| fl.setWidth 32 }, gen := g }

/-- `cmpr`: in each iteration every thread that has not left the party, active or not, takes the value of the selected thread of its rank, or
above their number 0 or its old value by the policy. -/
def Sys2Proof.Says.CompressResults : Prop :=
  ∀ s p x m n a, Issuing s p x → x.m0 ≠ 0 → x.width ≤ 64 → Within x m [(.v n, 1), (a, 1)] →
    ∃ y : Nat → Party, y 0 = x ∧ exec (.cmpr m (.v n) a) s = .next (s.setParty p (y (repsOf m))) ∧
      ∀ k < repsOf m,
        (∀ j r, r < 1024 → (y (k + 1)).vNow j r =
          if r = x.base + n.val + k ∧ j < x.width ∧ bitOf x.left j = false then
            (if j < (sel x m).length then (y k).reg32 ((sel x m).getD j 0) k a
             else if (m.pre.map (fun q => q.zero)).getD false then 0 else (y k).vNow j r)
          else (y k).vNow j r) ∧
        y (k + 1) = { y k with regs := { (y k).regs with v := (y (k + 1)).regs.v } }

/-- Scans, reductions and compress. -/
def Obligations.ScansReductionsAndCompress : Prop := Says.ScansAndReductions ∧ Says.CompressResults

/-- Registers by index: `ixr` and `ixw` reach the physical register that each thread's A names, whatever the window base, when every index of a
selected thread lies below Rt; otherwise 0x07 is raised for the threads whose index does not, and nothing is written. -/
def Sys2Proof.Says.IndexedRegisters : Prop :=
  ∀ s p x m a b n, Issuing s p x →
    (Within x m [(.v n, 1), (a, 1)] → repsOf m = 1 → (∀ t ∈ sel x m, (x.reg32 t 0 a).toNat < min x.rt 1024) →
      ∃ z, VecStep x m (x.base + (n : Fin 96).val) (fun t => x.vphys t (x.reg32 t 0 a).toNat) x z ∧
        exec (.ixr m (.v n) a) s = .next (s.setParty p z)) ∧
    (Within x m ((a, 1) :: srcRun b 1) → (∀ t ∈ sel x m, (x.reg32 t 0 a).toNat < min x.rt 1024) →
      ∃ z, (∀ t r, r < 1024 → z.vNow t r = if t ∈ sel x m ∧ r = (x.reg32 t 0 a).toNat then x.src32 t 0 b else x.vNow t r) ∧
        z = { x with regs := { x.regs with v := z.regs.v } } ∧ exec (.ixw m a b) s = .next (s.setParty p z)) ∧
    (∀ t ts, (sel x m).filter (fun t => decide (min x.rt 1024 ≤ (x.reg32 t 0 a).toNat)) = t :: ts →
      ∃ off : Mask, (∀ u, bitOf off u = decide (u ∈ t :: ts)) ∧
        (Within x m [(.v n, 1), (a, 1)] →
          exec (.ixr m (.v n) a) s = .next (s.raiseHere p 0x07 off (BitVec.ofNat 64 ((x.reg32 t 0 a).toNat % 2048)))) ∧
        (Within x m ((a, 1) :: srcRun b 1) →
          exec (.ixw m a b) s = .next (s.raiseHere p 0x07 off (BitVec.ofNat 64 ((x.reg32 t 0 a).toNat % 2048)))))

/-- `win` sets the window base to a multiple of 16 not above Rt − 16 and changes nothing else; another value leaves it and raises 0x07 for m0,
`tinfo` holding the base with bit 63 set. -/
def Sys2Proof.Says.WindowBase : Prop :=
  ∀ s p x m b, Issuing s p x →
    let v := (x.src32 0 0 b).toNat
    (v % 16 = 0 → v + 16 ≤ min x.rt 1024 → exec (.win m b) s = .next (s.setParty p { x with wb := v })) ∧
    (¬ (v % 16 = 0 ∧ v + 16 ≤ min x.rt 1024) →
      exec (.win m b) s = .next (s.raiseHere p 0x07 x.m0 (BitVec.ofNat 64 (v + 2 ^ 63))))

/-- `tid` writes the position its selector names, once or for every selected thread, and selector 3 pins the crew; a uniform `movi` fills all
64 bits with its immediate sign-extended. -/
def Sys2Proof.Says.PositionsAndImmediates : Prop :=
  (∀ s p x m d (b : BitVec 7), Issuing s p x → Within x m [(d, 1)] → repsOf m = 1 → b.toNat ≤ 7 →
    let c := coreOfLane x.lane
    let v := fun t => match b.toNat with
      | 0 => t | 1 => x.width | 2 => x.posInCrew | 3 => c % 4 | 4 => c / 4 % 32 | 5 => c / 4 / 32 | 6 => s.pkg.number | _ => x.fe
    ∃ z, (WordRow.mk m d [] (fun _ t _ => BitVec.ofNat 32 (v t))).Result x z ∧
      exec (.tid m d b) s = .next ((if b.toNat = 3 then s.onCrew x.crew (fun c => { c with pinned := true }) else s).setParty p z)) ∧
  (∀ s p x m n imm, Issuing s p x →
    ∃ z, UniStep (n : Fin 31).val (imm.signExtend 64) x z ∧ exec (.movi m (.s n) imm) s = .next (s.setParty p z))

/-- Indexed registers, the window base, positions and immediates. -/
def Obligations.IndexedAndPositionForms : Prop := Says.IndexedRegisters ∧ Says.WindowBase ∧ Says.PositionsAndImmediates

/-- A load whose threads all pass the lane's checks clears what the zero policy names and sends one request a served thread. -/
def Sys2Proof.Says.LoadsLeaveTheLane : Prop :=
  ∀ i d size w, LoadRow i d size w → ∀ s p x (ps : Nat → List (Nat × Nat)) (win remote : Nat → Bool), Issuing s p x → Within x (Mods.once w.m) w.regs →
    w.Passes s x ps win remote →
    ∃ x' t, ZeroRun x w.m d (max 1 (size / 4)) x' ∧ exec i s = .next t ∧
      Sends (s.setParty p x') p x' (w.flag x) ((servedBy x w.m w.uniform).map (w.request s p x x' ps win remote)) t

/-- A store whose threads all pass the lane's checks sends one request a served thread with the low bytes of its data, and writes nothing
itself: every byte of memory stands until a home accepts. -/
def Sys2Proof.Says.StoresLeaveTheLane : Prop :=
  ∀ i w, StoreRow i w → ∀ s p x (ps : Nat → List (Nat × Nat)) (win remote : Nat → Bool), Issuing s p x → Within x (Mods.once w.m) w.regs → w.Passes s x ps win remote →
    ∃ t, exec i s = .next t ∧ Sends s p x none ((servedBy x w.m w.uniform).map (w.request s p x x ps win remote)) t ∧
      ∀ a, t.byteAt a = s.byteAt a

/-- Loads and stores leave the lane as requests. -/
def Obligations.LoadsAndStoresLeaveTheLane : Prop := Says.LoadsLeaveTheLane ∧ Says.StoresLeaveTheLane

/-- An atomic or reduction sends one request a served thread; with an order other than rlx the regions of its threads end first, and a release
leaves only when their earlier writes are acknowledged. -/
def Obligations.AtomicsLeaveTheLane : Prop :=
  ∀ i w, AtomRow i w → ∀ s p x (ps : Nat → List (Nat × Nat)) (win remote : Nat → Bool), Issuing s p x → Within x (Mods.once w.m) w.regs → w.Passes s x ps win remote →
    let o := orderOf w.m
    let ts := threadsOf x.width (if w.uniform then x.m0 else x.selected w.m)
    (o = 0 → ∃ t, exec i s = .next t ∧
      Sends s p x (w.flag x) ((servedBy x w.m w.uniform).map (w.request s p x x ps win remote)) t) ∧
    (o ≠ 0 → NotNarrowed s x true w.m → Synced s p ts (releases o) (podScope w.m) →
      ∃ s' x' t, RegionsEnd s p x ts s' x' ∧ exec i s = .next t ∧
        Sends s' p x' (w.flag x) ((servedBy x w.m w.uniform).map (w.request s p x x' ps win remote)) t) ∧
    (o ≠ 0 → NotNarrowed s x true w.m → s.mbxStOpen p ts = false → releases o = true → s.writesOpen p ts (podScope w.m) = true →
      exec i s = .next (s.setParty p { x with ctl := .stall }))

/-- The mailbox instructions end the regions of their threads and send their requests; `mbx.st` releases. -/
def Obligations.MailboxRequestsLeaveTheLane : Prop :=
  ∀ i acts w, MbxRow i acts w → ∀ s p x (ps : Nat → List (Nat × Nat)) (win remote : Nat → Bool), Issuing s p x → Within x (Mods.once w.m) w.regs →
    w.Passes s x ps win remote → NotNarrowed s x acts w.m →
    let ts := threadsOf x.width (if w.uniform then x.m0 else x.selected w.m)
    Synced s p ts w.rel w.pod →
      ∃ s' x' t, RegionsEnd s p x ts s' x' ∧ exec i s = .next t ∧
        Sends s' p x' (w.flag x) ((servedBy x w.m w.uniform).map (w.request s p x x' ps win remote)) t

/-- The lane's checks of R169 on a load or store: a misaligned address whose page translates gives 0x0E; a word of which some served thread
fails that check alone sends nothing and raises 0x0E with `tmfault` the failing threads and `taddr` their addresses. -/
def Obligations.MisalignedAccessesTrap : Prop :=
  (∀ (s : State) x (a : Acc) (va : DWord) ps ks, s.pieces x ⟨a.write, false, x.user⟩ [(va, a.size)] = .ok (ps, ks) → a.aligned = true →
    va.toNat % a.size ≠ 0 → s.check x a va = .bad 3 0x0E) ∧
  (∀ i w, ((∃ d n, LoadRow i d n w) ∨ StoreRow i w) → ∀ s p x, Issuing s p x → Within x (Mods.once w.m) w.regs → w.uniform = false →
    w.acc.aligned = true →
    (∀ t ∈ sel x w.m, if (w.addr x t).toNat % w.acc.size = 0 then ∃ ps win remote, s.check x w.acc (w.addr x t) = .ok ps win remote
      else s.check x w.acc (w.addr x t) = .bad 3 0x0E) →
    (∃ t ∈ sel x w.m, (w.addr x t).toNat % w.acc.size ≠ 0) →
    ∃ r, exec i s = .next (s.raise p r) ∧ r.cause = 0x0E ∧ r.epc = x.here ∧ r.mprev = x.pos.m0 ∧
      r.info = (if w.acc.write then 1 else 0) ∧
      (∀ t, bitOf r.mfault t = decide (t ∈ sel x w.m ∧ (w.addr x t).toNat % w.acc.size ≠ 0)) ∧
      (∀ t ∈ sel x w.m, (w.addr x t).toNat % w.acc.size ≠ 0 → sget 0 r.addr t = w.addr x t))

/-- `fence` ends the regions of the threads it serves once their earlier writes, where it releases, are acknowledged; an acquire at pod or
tenant scope drops the party's remote copies. An order of rlx acts as ar. -/
def Sys2Proof.Says.FencesEndRegions : Prop :=
  ∀ s p x m, Issuing s p x → s.sfuOpen p = false → (x.csr.level ≠ 0 ∨ x.fpEnabled = 0) → NotNarrowed s x true m →
    let o : BitVec 3 := if orderOf m = 0 then 3 else orderOf m
    Synced s p (sel x m) (releases o) (podScope m) →
      ∃ s' x', RegionsEnd s p { x with rcCopies := if acquires o && podScope m then [] else x.rcCopies } (sel x m) s' x' ∧
        exec (.fence m) s = .next s'

/-- `nap` parks the party on the lines its threads name, with the smallest nonzero timeout, after ending their regions; `pf` brings lines of the
package into the cellar and changes nothing else, whatever its addresses. -/
def Sys2Proof.Says.NapsAndPrefetches : Prop :=
  (∀ s p x m a b (ps : Nat → List (Nat × Nat)) (win remote : Nat → Bool), Issuing s p x → Within x (Mods.once m) ([(a, 2)] ++ srcRun b 1) →
    sel x m ≠ [] →
    (∀ t ∈ sel x m, s.check x ⟨1, true, false, .plain⟩ (x.reg64 t a) = .ok (ps t) (win t) (remote t) ∧ ps t ≠ []) →
    Synced s p (sel x m) true false →
    ∃ s' x' left, RegionsEnd s p x (sel x m) s' x' ∧
      (match left with
       | none => ∀ t ∈ sel x m, x.src32 t 0 b = 0
       | some v => 0 < v ∧ (∃ t ∈ sel x m, (x.src32 t 0 b).toNat = v) ∧ ∀ t ∈ sel x m, x.src32 t 0 b ≠ 0 → v ≤ (x.src32 t 0 b).toNat) ∧
      exec (.nap m a b) s = .next (s'.setParty p { x' with
        park := .nap ((sel x m).map (fun t => ((ps t).headD (0, 0)).1 / 64)) left x.here x.pos.m0, parkedAt := s.now })) ∧
  (∀ s p x m a b, Issuing s p x → Within x (Mods.once m) [(a, 2)] →
    ∃ t, exec (.pf m a b) s = .next t ∧ t = { s with mem := { s.mem with cellar := t.mem.cellar } } ∧
      (∀ l, sget none s.mem.cellar l ≠ none → sget none t.mem.cellar l = sget none s.mem.cellar l) ∧
      ∀ u ∈ sel x m, ∀ pa n ps win remote, s.check x ⟨64, false, false, .plain⟩ (x.ea u a b 64) = .ok ((pa, n) :: ps) win remote →
        pa / 2 ^ 44 = s.pkg.number → sget none t.mem.cellar (pa / 64) ≠ none)

/-- Fences, naps and prefetches. -/
def Obligations.FencesNapsAndPrefetches : Prop := Says.FencesEndRegions ∧ Says.NapsAndPrefetches

/-- Branches transfer the active threads that R150 names to the packet at their offset, and `loop` those of m0 while its counter, decremented
once, is not 0; a thread that does not go keeps its tpc. The target has the packet number of the packet plus the offset (R67, R149, R150,
R161). -/
def Sys2Proof.Says.Branches : Prop :=
  (∀ i goes n, BranchRow i goes n → ∀ s p x, Issuing s p x →
    ∃ z, Transfers x (goes x) (fun _ => branchTarget x.pos.pkt n) z ∧ exec i s = .next (s.setParty p z)) ∧
  (∀ s p x m (c : BitVec 3) off, Issuing s p x →
    let v := sget 0 x.src.u (24 + c.toNat) - 1
    ∃ y z, UniStep (24 + c.toNat) v x y ∧
      (if v = 0 then z = y else Transfers y (fun _ => True) (fun _ => branchTarget x.pos.pkt off.toInt) z) ∧
      exec (.loop m c off) s = .next (s.setParty p z)) ∧
  (∀ a n, CodeAddress a → 0 ≤ packetNo a + n → (packetNo a + n) / 5 < 2 ^ 58 →
    CodeAddress (branchTarget a n) ∧ packetNo (branchTarget a n) = packetNo a + n)

/-- `brx` sends each active thread to the packet as far from the base as its index says, or raises 0x0D for the threads whose index reaches the
bound and moves none (R151). -/
def Sys2Proof.Says.JumpTables : Prop :=
  ∀ s p x m (d : BitVec 7) a b, Issuing s p x → Within x m [(b, 1)] →
    let out := fun t => Active x t ∧ d.toNat ≤ (x.reg32 t 0 b).toNat
    ((∀ t, ¬ out t) → CodeAddress (x.reg64 0 a) →
      ∃ z, Transfers x (fun _ => True) (fun t => branchTarget (x.reg64 0 a) (x.reg32 t 0 b).toNat) z ∧
        exec (.brx m d a b) s = .next (s.setParty p z)) ∧
    ((∃ t, out t) → ∃ t, Raises s p x 0x0D out 0 t ∧ exec (.brx m d a b) s = .next t)

/-- Branches and jump tables. -/
def Obligations.BranchesTransfer : Prop := Says.Branches ∧ Says.JumpTables

/-- A call pushes the address of the packet after its own and transfers; a return pops and goes there; a full or an empty stack raises 0x36 for
its threads and changes no stack; both end the restart entry (R152, R160). -/
def Obligations.CallsAndReturns : Prop :=
  (∀ i m regs target, CallRow i m regs target → ∀ s p x, Issuing s p x → Within x m regs →
    let full := fun t => Active x t ∧ 8 ≤ (sget [] x.calls t).length
    ((∀ t, ¬ full t) → ∃ y z, Transfers x (fun _ => True) (target x) y ∧
      (∀ t, (Active x t → sget [] z.calls t = nextPacket x.pos.pkt :: sget [] x.calls t) ∧
        (¬ Active x t → sget [] z.calls t = sget [] x.calls t)) ∧
      z = { y with calls := z.calls, idempc := none } ∧ exec i s = .next (s.setParty p z)) ∧
    ((∃ t, full t) → ∃ t, Raises s p x 0x36 full 0 t ∧ exec i s = .next t)) ∧
  (∀ s p x m, Issuing s p x →
    let empty := fun t => Active x t ∧ sget [] x.calls t = []
    ((∀ t, ¬ empty t) → ∃ y z, Transfers x (fun _ => True) (fun t => (sget [] x.calls t).headD 0) y ∧
      (∀ t, (Active x t → sget [] z.calls t = (sget [] x.calls t).tail) ∧ (¬ Active x t → sget [] z.calls t = sget [] x.calls t)) ∧
      z = { y with calls := z.calls, idempc := none } ∧ exec (.ret m) s = .next (s.setParty p z)) ∧
    ((∃ t, empty t) → ∃ t, Raises s p x 0x36 empty 0 t ∧ exec (.ret m) s = .next t))

/-- `div` pushes an entry of the active threads at its join, 0x0C when 16 stand on the stack; `join` counts each active thread as arrived at
the innermost entry that holds it and makes it wait, or raises 0x1A for the threads whose entry joins elsewhere (R25, R153). -/
def Sys2Proof.Says.DivergenceAndJoins : Prop :=
  (∀ s p x m off, Issuing s p x →
    (x.divs.length < 16 → ∃ z : Party,
      (∀ t, sget 0 z.depth t = sget 0 x.depth t + if t ∈ threadsOf x.width x.m0 then 1 else 0) ∧
      z = { x with divs := ⟨branchTarget x.pos.pkt off.toInt, x.m0, 0⟩ :: x.divs, depth := z.depth, idempc := none } ∧
      exec (.div m off) s = .next (s.setParty p z)) ∧
    (16 ≤ x.divs.length → ∃ t, Raises s p x 0x0C (fun u => bitOf x.m0 u = true) 0 t ∧ exec (.div m off) s = .next t)) ∧
  (∀ s p x m, Issuing s p x →
    let good := fun t => ∃ k e, Innermost x.divs t k e ∧ e.join = x.pos.pkt
    ((∀ t, Active x t → good t) → ∃ z : Party, z.divs.length = x.divs.length ∧
      (∀ k e, x.divs[k]? = some e → ∃ e', z.divs[k]? = some e' ∧ e'.join = e.join ∧ e'.members = e.members ∧
        ∀ t, bitOf e'.arrived t = true ↔ bitOf e.arrived t = true ∨ (Active x t ∧ Innermost x.divs t k e)) ∧
      z = { x with divs := z.divs, joinWait := x.joinWait ||| x.m0, pos := { x.pos with moved := x.pos.moved ||| x.m0 } } ∧
      exec (.join m) s = .next (s.setParty p z)) ∧
    ((∃ t, Active x t ∧ ¬ good t) →
      ∃ t, Raises s p x 0x1A (fun u => Active x u ∧ ¬ good u) 0 t ∧ exec (.join m) s = .next t))

/-- `exit` removes the active threads and ends their regions; in a plan party each of them that runs an activation and is not detached sends
one end request with its handle and intention. Memory and every other party stand (R26, R154, R203). -/
def Obligations.ExitRemovesTheThreads : Prop :=
  ∀ s p x m, Issuing s p x → ∃ t z, exec (.exit m) s = .next t ∧ t.party? p = some z ∧
    z.left = x.left ||| x.m0 ∧ z.pos.moved = x.pos.moved ||| x.m0 ∧ z.idempc = none ∧
    (∀ u, Active x u → z.regionOf u = x.regionOf u + 1) ∧ z.regs = x.regs ∧ z.csr = x.csr ∧ z.tpc = x.tpc ∧
    (∀ q, q ≠ p → t.party? q = s.party? q) ∧ t.mem = s.mem ∧
    let ends := (threadsOf x.width x.m0).filter (fun u => (sfind x.runs u).isSome && !bitOf x.detached u)
    t.nextId = s.nextId + ends.length ∧
    (∀ n, n < s.nextId ∨ s.nextId + ends.length ≤ n → sfind t.reqs n = sfind s.reqs n) ∧
    (∀ k u, ends[k]? = some u → ∃ r w, sfind t.reqs (s.nextId + k) = some r ∧ sfind x.runs u = some w ∧ r.party = p ∧ r.thread = u ∧
      r.kind = .agent .exitEnd (BitVec.ofNat 32 w.1) (BitVec.ofNat 32 w.2) ∧ r.phase = .sent)

/-- The barrier instructions by the table of R156, from the three states of a party, and the cases of R158: an arrival where the party waits
in the open phase, and a wait where it has not arrived, raise 0x1A. -/
def Sys2Proof.Says.BarrierTable : Prop :=
  (∀ s p x m sc n b, Issuing s p x → AtBarrier s x p sc n b → b.waiting = false →
    (s.mbxStOpen p (threadsOf x.width x.m0) = false →
      (∃ t z, Arrives s p x b sc.toNat t z ∧ exec (.barArr m sc n) s = .next t) ∧
      (∃ t z, Arrives s p x b sc.toNat t z ∧
        exec (.barSync m sc n) s = .next (t.setParty p { z with park := .barrier b.inst b.phase, parkedAt := s.now }))) ∧
    (∃ z, BarState b.key (b.phase + 1) x z ∧ exec (.barArrRlx m sc n) s = .next ((s.setParty p z).arrive b.grid b.inst p)) ∧
    (∀ k, b.arrived = some k → s.mbxStOpen p (threadsOf x.width x.m0) = false →
      ∃ y z t, BarState b.key 0 { x with park := .none, rcCopies := if 64 ≤ b.key then [] else x.rcCopies } y ∧
        RegionsEnd s p y (threadsOf x.width x.m0) t z ∧ exec (.barWait m sc n) s = .next t)) ∧
  (∀ s p x m sc n b k, Issuing s p x → AtBarrier s x p sc n b → b.waiting = true → b.arrived = some k →
    s.mbxStOpen p (threadsOf x.width x.m0) = false →
    exec (.barWait m sc n) s = .next (s.setParty p { x with park := .barrier b.inst k, parkedAt := s.now, idempc := none }) ∧
    ∀ i, i = .barArr m sc n ∨ i = .barArrRlx m sc n ∨ i = .barSync m sc n →
      ∃ t, Raises s p x 0x1A (fun u => bitOf x.m0 u = true) 0 t ∧ exec i s = .next t) ∧
  (∀ s p x m sc n b, Issuing s p x → AtBarrier s x p sc n b → b.arrived = none → s.mbxStOpen p (threadsOf x.width x.m0) = false →
    ∃ t, Raises s p x 0x1A (fun u => bitOf x.m0 u = true) 0 t ∧ exec (.barWait m sc n) s = .next t) ∧
  (∀ i sc n, BarrierRow i sc n → ∀ s p x, Issuing s p x → s.sfuOpen p = false →
    (x.csr.level = 0 → x.fpEnabled ≠ 0 →
      ∃ t, Raises s p x 0x18 (fun u => bitOf x.m0 u = true) (x.csr.fpsum.setWidth 64) t ∧ exec i s = .next t) ∧
    (x.csr.level ≠ 0 ∨ x.fpEnabled = 0 → x.plan = true ∨ x.alive ≠ x.m0 ∨ s.widest x < sc.toNat →
      ∃ t, Raises s p x 0x1A (fun u => bitOf x.m0 u = true) 0 t ∧ exec i s = .next t))

/-- BARRIER_ARRIVAL_COUNT counts an arrival once the writes before it are acknowledged, and not before; a counted arrival completes the phase
when it reaches the member count with the retired members, and opens the next (R156, R157). -/
def Sys2Proof.Says.ArrivalsAreCounted : Prop :=
  (∀ (s : State) n (a : Arrival) x g, sfind s.arrivals n = some a → s.party? a.party = some x → x.grid = some g →
    ((∀ r ∈ a.after, r ∉ s.openWrites a.party) →
      exec (.barrierArrivalCount n) s = .next (({ s with arrivals := sdrop s.arrivals n }).arrive g a.inst a.party).wake) ∧
    ((∃ r ∈ a.after, r ∈ s.openWrites a.party) → exec (.barrierArrivalCount n) s = .next s.wake)) ∧
  (∀ (s : State) g l inst p, sfind s.launches g = some l →
    let b := s.bar g inst
    let c := (s.arrive g inst p).bar g inst
    b.members ≠ 0 → c.members = b.members ∧ c.retired = b.retired ∧
      (b.arrived.length + 1 + b.retired < b.members → c.phase = b.phase ∧ c.arrived = b.arrived ++ [p]) ∧
      (b.members ≤ b.arrived.length + 1 + b.retired → c.phase = b.phase + 1 ∧ c.arrived = []))

/-- Barriers: what a party does, and how arrivals are counted. -/
def Obligations.Barriers : Prop := Says.BarrierTable ∧ Says.ArrivalsAreCounted

/-- `sync.p`: the active threads wait with their tpc at the next packet, the first to execute fixing the mask; a thread whose mask is another,
leaves itself out or names a thread at or above W raises 0x1B for the threads concerned. `idem` records the next packet where every thread
that has not left is active; `nop` changes nothing (R159 to R161). -/
def Sys2Proof.Says.PartySynchronisation : Prop :=
  (∀ s p x m a, Issuing s p x → Within x m [(a, 2)] →
    let ts := threadsOf x.width x.m0
    let set := match x.syncMask with | some k => k | none => (ts.map (fun t => x.reg64 t a)).headD 0
    let bad := fun t => Active x t ∧ (x.reg64 t a ≠ set ∨ bitOf (x.reg64 t a) t = false ∨ ∃ u, x.width ≤ u ∧ bitOf (x.reg64 t a) u = true)
    x.width ≤ 64 →
    ((∀ t, ¬ bad t) → Synced s p ts true false → ∃ y z s',
      (∀ t, y.pcOf t = if t ∈ ts then nextPacket x.pos.pkt else x.pcOf t) ∧
      y = { x with
        tpc := y.tpc, xfer := y.xfer, syncMask := some set, syncWait := x.syncWait ||| x.m0, syncAt := x.here, syncLast := x.m0,
        idempc := none, pos := { x.pos with moved := x.pos.moved ||| x.m0 } } ∧
      RegionsEnd s p y ts s' z ∧ exec (.syncP m a) s = .next s') ∧
    ((∃ t, bad t) → ∃ t, Raises s p x 0x1B bad set t ∧ exec (.syncP m a) s = .next t)) ∧
  (∀ s p x m, Issuing s p x →
    exec (.idem m) s = .next (s.setParty p { x with
      idempc := if x.alive = x.m0 then some (nextPacket x.pos.pkt) else none, rc := 0 }) ∧
    exec (.nop m) s = .next s)

/-- Divergence entries, joins, `sync.p`, `idem` and `nop`. -/
def Obligations.JoinsAndSyncs : Prop := Says.DivergenceAndJoins ∧ Says.PartySynchronisation

/-- A class-5 word ends the regions of its threads and sends one request a thread to its Steward, once their earlier writes are acknowledged;
a leaving word makes its threads not eligible. A grid party, or a detached record, that leaves raises 0x2C at the lane, and a control word that
R199 refuses 0x2F, for every failing thread and with no request sent (R181, R182, R183, R198, R199). -/
def Obligations.AgentRequestsLeaveTheLane : Prop :=
  ∀ i w, AgentRow i w → ∀ s p x, Issuing s p x → Within x w.m w.regs →
    let ts := threadsOf x.width x.m0
    let stays := fun t => w.leaves = true ∧ (x.plan = false ∨ bitOf x.detached t = true)
    let bad := fun t => Active x t ∧ (stays t ∨ w.refuses x t)
    ((∀ t, ¬ bad t) → Synced s p ts true false → ∃ s' x' t,
      RegionsEnd s p { x with leaving := if w.leaves then x.leaving ||| x.m0 else x.leaving } ts s' x' ∧ exec i s = .next t ∧
      Sends s' p x' (if w.leaves then none else some x.flagA) (ts.map (w.request s p x x')) t) ∧
    ((∃ t, bad t) → ∃ c t, (c = 0x2C ∧ (∃ t, Active x t ∧ stays t) ∨ c = 0x2F ∧ ∀ t, Active x t → ¬ stays t) ∧
      Raises s p x c bad 0 t ∧ exec i s = .next t)

/-- A home that accepts a load answers with the bytes of memory, little-endian, sign-extended where the load says so, and leaves memory as it
is; `ld.rc` may answer from the line its party has copied; a store writes exactly its bytes; each access is recorded for its regions (R165 to
R167, R170, R272, R295). -/
def Obligations.HomesServeLoadsAndStores : Prop :=
  (∀ s n r size sx, AtHome s n r → HomeOk s r → Unfaulted s r → r.kind = .load size sx → r.win = false →
    let v := littleEndian ((bytesIn r.pieces).map s.byteAt)
    ∃ t, exec (.homeAcceptance n) s = .next t ∧ t.mem = s.mem ∧ Recorded r t ∧
      Goes s n r (.reply (if sx then ((BitVec.ofNat (8 * size) v).signExtend 64).toNat else v)) t) ∧
  (∀ s n r pa k, AtHome s n r → HomeOk s r → Unfaulted s r → r.kind = .rcLoad → r.pieces = [(pa, k)] → pa % 4 = 0 →
    ∃ t v, exec (.homeAcceptance n) s = .next t ∧ t.mem = s.mem ∧ Goes s n r (.reply v) t ∧
      (v = littleEndian ((bytesIn [(pa, 4)]).map s.byteAt) ∨
        ∃ x bs, s.party? r.party = some x ∧ sfind x.rcCopies (pa / 64) = some bs ∧ v = littleEndian ((bs.drop (pa % 64)).take 4))) ∧
  (∀ s n r size data, AtHome s n r → HomeOk s r → Unfaulted s r → r.kind = .store size data → r.win = false → (bytesIn r.pieces).Nodup →
    ∃ t, exec (.homeAcceptance n) s = .next t ∧ Stored s (bytesIn r.pieces) data t ∧ Recorded r t ∧ Goes s n r .unacked t)

/-- A home refuses an access to an absent package with 0x38, and a recorded access that conflicts with a live access of another thread with
0x16, before it has any effect (R272, R295, R296, R361). -/
def Obligations.ConflictsAreRefused : Prop :=
  (∀ s n r, AtHome s n r → (∀ op h w, r.kind ≠ .agent op h w) → (∀ a, r.kind ≠ .emit a) → r.kind ≠ .rcLoad →
    (∃ q ∈ r.pieces, s.unmapped q.1 = true) → (r.recorded = true → s.conflict r = none → s.tagFull r = false) →
    ∃ t, exec (.homeAcceptance n) s = .next t ∧ Refused s n r 0x38 (if r.writes then 1 else 0) t) ∧
  (∀ s n r, AtHome s n r → r.recorded = true → (∀ q ∈ r.pieces, s.unmapped q.1 = false ∧ 0 < q.2) → (∃ g, Conflicting s r g) →
    ∃ t i, exec (.homeAcceptance n) s = .next t ∧ Refused s n r 0x16 i t ∧
      ∃ g o, Conflicting s r g ∧ o ∈ g.owners ∧
        i = BitVec.ofNat 64 (g.lane % 2 ^ 16 + o.1 * 2 ^ 16 + if g.w then 2 ^ 22 else 0)) ∧
  (∀ (s : State) r, (∀ q ∈ r.pieces, 0 < q.2) → (¬ ∃ g, Conflicting s r g) → s.conflict r = none) ∧
  (∀ s n r, sfind s.reqs n = some r → r.phase = .sent → (∃ q ∈ r.pieces, q.1 / 2 ^ 44 ≠ s.pkg.number) → r.issued + 400000 ≤ s.now →
    ∃ t, exec (.fabricTimeout n) s = .next t ∧ Refused s n r 0x39 (if r.writes then 1 else 0) t)

/-- A home performs an atomic in one step: it reads the word, leaves the operation's result there and no other byte changed, and answers with the
old value, or, for a reduction, acknowledges later (R172 to R174). -/
def Obligations.AtomicsAreOneStep : Prop :=
  ∀ s n r op b c pa k, AtHome s n r → HomeOk s r → Unfaulted s r → r.kind = .atom op b c → r.pieces = [(pa, k)] →
    let size := if op = .add64 then 8 else 4
    let old := littleEndian ((bytesIn [(pa, size)]).map s.byteAt)
    let new := if op = .add64 then (BitVec.ofNat 64 old + b).toNat
      else (atomSays op (BitVec.ofNat 32 old) (b.setWidth 32) (c.setWidth 32)).toNat
    ∃ t, exec (.homeAcceptance n) s = .next t ∧ Stored s (bytesIn [(pa, size)]) new t ∧
      Goes s n r (if r.flag = none then .unacked else .reply old) t

/-- Mailbox words: a load takes a full word's value and empties it, or waits; a store fills an empty word that no earlier store awaits, or
waits, and performs once the word is empty; a test answers the full bit (R178, R179, R307). -/
def Obligations.MailboxWords : Prop :=
  (∀ s n r pa k, AtHome s n r → HomeOk s r → Unfaulted s r → r.kind = .mbxLd → r.pieces = [(pa, k)] →
    (s.isFull pa = true → ∃ t, exec (.homeAcceptance n) s = .next t ∧
      Goes s n r (.reply (littleEndian ((bytesIn [(pa, 8)]).map s.byteAt))) t ∧ t.isFull pa = false ∧ ∀ a, t.byteAt a = s.byteAt a) ∧
    (s.isFull pa = false → n < s.nextId → ∃ t h, exec (.homeAcceptance n) s = .next t ∧ t.mem = s.mem ∧ sfind t.reqs n = none ∧
      sfind t.reqs s.nextId = some { r with phase := .waiting, held := h })) ∧
  (∀ s n r pa k v, AtHome s n r → HomeOk s r → Unfaulted s r → r.kind = .mbxSt v → r.pieces = [(pa, k)] →
    (s.isFull pa = false → s.oldestSt pa = none → (∀ fe, ∀ w ∈ (s.lod fe).mbxWakes, w.1 ≠ pa) →
      ∃ t, exec (.homeAcceptance n) s = .next t ∧ Fills (s.dropReq n) r.party pa v t ∧ sfind t.reqs n = none) ∧
    (s.isFull pa = true ∨ s.oldestSt pa ≠ none → n < s.nextId → ∃ t h, exec (.homeAcceptance n) s = .next t ∧ t.mem = s.mem ∧
      sfind t.reqs n = none ∧ sfind t.reqs s.nextId = some { r with phase := .waiting, held := h })) ∧
  (∀ s n r pa k, AtHome s n r → HomeOk s r → Unfaulted s r → r.kind = .mbxTst → r.pieces = [(pa, k)] →
    ∃ t, exec (.homeAcceptance n) s = .next t ∧ t.mem = s.mem ∧ Goes s n r (.reply (if s.isFull pa then 1 else 0)) t) ∧
  (∀ s n r pa k v, sfind s.reqs n = some r → r.kind = .mbxSt v → r.pieces = [(pa, k)] → r.party ≠ 0 → s.isFull pa = false →
    s.oldestSt pa = some (n, r) → (∀ fe, ∀ w ∈ (s.lod fe).mbxWakes, w.1 ≠ pa) →
    ∃ t, exec (.mailboxStorePerform n) s = .next t ∧ Fills (s.dropReq n) 0 pa v t ∧ sfind t.reqs n = none)

/-- A reply reaches its destination, unless its thread has left, and its flag counts one operation less; the request is gone (R14, R154, R165,
R181). -/
def Sys2Proof.Says.RepliesReachTheirDestination : Prop :=
  ∀ s n r v x i, (i = .loadResultWrite n ∧ r.isAgent = false ∧ r.party ≠ 0) ∨ (i = .stewardReply n ∧ r.isAgent = true) →
    sfind s.reqs n = some r → r.phase = .reply v → s.party? r.party = some x → (∀ b k, r.dest = .vec b k → b + k ≤ 1024) → r.thread < 64 →
    ∃ t y, exec i s = .next t ∧ sfind t.reqs n = none ∧ t.mem = s.mem ∧ t.party? r.party = some y ∧
      (if r.uniform = false ∧ bitOf x.left r.thread = true then y.regs = x.regs else Landed x r.thread r.dest v y) ∧
      (∀ f, sget 0 y.flags f = sget 0 x.flags f - if r.flag = some f then 1 else 0) ∧
      y = { x with regs := y.regs, flags := y.flags, latch := y.latch, hold := false }

/-- A write that is acknowledged is open no more: a window's bytes take their place now, any other write changes no byte; naps on its lines wake,
and the records of its regions that have ended, with no other write open, are released (R166, R294, R306, R315). -/
def Sys2Proof.Says.WritesAreAcknowledged : Prop :=
  ∀ s n r, sfind s.reqs n = some r → r.phase = .unacked →
    (r.win = false ∨ (∃ size data, r.kind = .store size data) ∧ s.winBehind n r = false ∧ (bytesIn r.pieces).Nodup) →
    ∃ t, exec (.writeAcknowledged n) s = .next t ∧ sfind t.reqs n = none ∧
      (r.win = false → ∀ a, t.byteAt a = s.byteAt a) ∧
      (∀ size data, r.win = true → r.kind = .store size data → Stored s (bytesIn r.pieces) data t) ∧
      (∀ q ∈ r.pieces, NapsWake s (q.1 / 64) 0 t) ∧
      ∀ o ∈ r.owners, s.regionOver r.party o = true → (s.dropReq n).unacked r.party o = false →
        ∀ g ∈ t.tags, g.party = r.party → o ∉ g.owners

/-- Replies reach their destinations, and writes are acknowledged. -/
def Obligations.RepliesAndAcknowledgements : Prop := Says.RepliesReachTheirDestination ∧ Says.WritesAreAcknowledged

/-- `log.app` at its home: a record of eight words at the slot that the head counter names, the counter one more and the old one returned;
0x31 where the log is full (R232). -/
def Obligations.LogRecordsAreAppended : Prop :=
  ∀ s n r words pa k, AtHome s n r → HomeOk s r → Unfaulted s r → r.kind = .logApp words → r.pieces = [(pa, k)] →
    let cap := s.loadN (pa + 8) 4
    let next := s.loadN (pa + 16) 8
    let tail := s.loadN (pa + 24) 8
    (cap = 0 ∨ cap ≤ (next + 2 ^ 64 - tail) % 2 ^ 64 → ∃ t, exec (.homeAcceptance n) s = .next t ∧ Refused s n r 0x31 0 t) ∧
    (∀ x w, s.party? r.party = some x → 0 < cap → (next + 2 ^ 64 - tail) % 2 ^ 64 < cap → words.length = 8 →
      s.reach r.fe (s.reqHome r) ⟨true, false, x.user⟩ (BitVec.ofNat 64 (s.loadN pa 8) + BitVec.ofNat 64 (32 * (next % cap))) = .ok w →
      pageRefuses r.fe (s.pageKind r.fe w) ⟨32, true, true, .plain⟩ = none → (w.pa + 32 ≤ pa + 16 ∨ pa + 24 ≤ w.pa) →
      ∃ t, exec (.homeAcceptance n) s = .next t ∧ Goes s n r (.reply (next % 2 ^ 32)) t ∧
        Stored s (bytesIn [(w.pa, 32), (pa + 16, 8)])
          (words.foldr (fun w v => w.toNat + 2 ^ 32 * v) 0 + 2 ^ 256 * ((next + 1) % 2 ^ 64)) t)

/-- Tile slots: `tile.claim` takes the lowest run of claimable slots for the crew, 64 when there is none, and raises 0x1D for a count of 0 or
above 64; `tile.rel` gives up owned slots with no command outstanding, is held while one is filling or draining, and raises 0x1D for others;
`tile.st` reads a slot's state, owner and layout (R211). -/
def Sys2Proof.Says.TileSlots : Prop :=
  ∀ s p x m (n : Fin 31), Issuing s p x →
    let c := coreNo x
    let k := s.core c
    (∀ b, let w := (x.srcZ b).toNat
      let free := fun a => ∀ i < w, Claimable k (a + i)
      (1 ≤ w → w ≤ 64 →
        (∀ a, a + w ≤ 64 → free a → (∀ a' < a, ¬ free a') → ∃ z k' t, UniStep n.val (BitVec.ofNat 64 a) x z ∧
          exec (.tileClaim m (.s n) b) s = .next t ∧ CoreIs ((Pins s x).setParty p z) c k' t ∧ k' = { k with tiles := k'.tiles } ∧
          ∀ j, k'.tile j = if a ≤ j ∧ j < a + w then { Tile.reset with owner := some x.crew, poison := (k.tile j).poison } else k.tile j) ∧
        ((∀ a, a + w ≤ 64 → ¬ free a) → ∃ z, UniStep n.val 64 x z ∧
          exec (.tileClaim m (.s n) b) s = .next ((Pins s x).setParty p z))) ∧
      (w = 0 ∨ 64 < w → ∃ t, Raises (Pins s x) p x 0x1D (fun u => bitOf x.pos.m0 u = true) 0 t ∧
        exec (.tileClaim m (.s n) b) s = .next t)) ∧
    (∀ r b, let w := (x.srcZ b).toNat
      let a := x.slotOf r
      let owned := 1 ≤ w ∧ a + w ≤ 64 ∧ ∀ i < w, (k.tile (a + i)).owner = some x.crew
      let busy := ∃ i < w, (k.tile (a + i)).st = .filling ∨ (k.tile (a + i)).st = .draining
      (owned → ¬ busy → ∃ k' t, exec (.tileRel m r b) s = .next t ∧ CoreIs (Pins s x) c k' t ∧ k' = { k with tiles := k'.tiles } ∧
        ∀ j, k'.tile j = if a ≤ j ∧ j < a + w then { Tile.reset with poison := (k.tile j).poison } else k.tile j) ∧
      (owned → busy → exec (.tileRel m r b) s = .next ((Pins s x).setParty p { x with ctl := .stall })) ∧
      (¬ owned → ∃ t, Raises (Pins s x) p x 0x1D (fun u => bitOf x.pos.m0 u = true) 0 t ∧ exec (.tileRel m r b) s = .next t)) ∧
    (∀ r, let a := x.slotOf r
      (a ≤ 63 → ∃ z v, UniStep n.val v x z ∧ exec (.tileSt m (.s n) r) s = .next ((Pins s x).setParty p z) ∧
        v.toNat % 4 = (match (k.tile a).st with | .empty => 0 | .filling => 1 | .ready => 2 | .draining => 3) ∧
        (v.toNat / 4 % 2 = 1 ↔ (k.tile a).owner = some x.crew) ∧ (v.toNat / 8 % 2 = 1 ↔ (k.tile a).owner ≠ none) ∧
        v.toNat / 16 = (k.tile a).layout % 4) ∧
      (63 < a → ∃ t, Raises (Pins s x) p x 0x1D (fun u => bitOf x.pos.m0 u = true) 0 t ∧ exec (.tileSt m (.s n) r) s = .next t))

/-- A Porter word whose fields, alignment, format, slots and contexts are right queues its command on the context of its control word and writes
its ticket to D; a filled slot is filling with the format's layout, a drained one draining, and a `cp.out` from a context takes a place in the
context's queue (R209, R212 to R218). -/
def Sys2Proof.Says.PorterCommandsQueue : Prop :=
  ∀ s p x m (n : Fin 31) a, Issuing s p x →
    let c := coreNo x
    let o := s.core c
    let ad := x.reg64 0 a
    (∀ b slot fmt sp ac ctx stride, CpFields (x.srcZ b) slot fmt sp ac ctx stride → ad.toNat % cpAlign fmt = 0 → stride % cpAlign fmt = 0 →
      (ac = false → cpLayout fmt ≠ 0 → Writable o x.crew slot → ∃ z k t T, UniStep n.val (BitVec.ofNat 64 T) x z ∧
        exec (.cpIn m (.s n) a b) s = .next t ∧ CoreIs ((Pins s x).setParty p z) c k t ∧
        CpQueued s p x ctx ad (.fill slot fmt sp stride none) T k ∧ IssuedElse o k [ctx] ∧
        (∀ j, k.tile j = if j = slot then filling (o.tile j) (cpLayout fmt) else o.tile j) ∧
        k = { o with issued := k.issued, porter := k.porter, tiles := k.tiles }) ∧
      (ac = false → sp = false → Readable o x.crew slot → cpOutSlot fmt (o.tile slot).layout = true →
        ∃ z k t T, UniStep n.val (BitVec.ofNat 64 T) x z ∧ exec (.cpOut m (.s n) a b) s = .next t ∧
        CoreIs ((Pins s x).setParty p z) c k t ∧ CpQueued s p x ctx ad (.drain slot fmt sp stride) T k ∧ IssuedElse o k [ctx] ∧
        (∀ j, k.tile j = if j = slot then draining (o.tile j) 1 else o.tile j) ∧
        k = { o with issued := k.issued, porter := k.porter, tiles := k.tiles }) ∧
      (ac = true → sp = false → slot ≤ 1 → cpOutCtx fmt = true → (o.ctx slot).owner = some x.crew →
        ∃ z k t T, UniStep n.val (BitVec.ofNat 64 T) x z ∧ exec (.cpOut m (.s n) a b) s = .next t ∧
        CoreIs ((Pins s x).setParty p z) c k t ∧ CpQueued s p x ctx ad (.ctxOut slot fmt stride) T k ∧ IssuedElse o k [ctx] ∧
        (∀ j, k.ctx j = if j = slot then { o.ctx j with
          queue := (o.ctx j).queue ++ [⟨0, x.crew, (o.ctx j).bind, .drain ctx T, 0⟩] } else o.ctx j) ∧
        k = { o with issued := k.issued, porter := k.porter, mx := k.mx }) ∧
      (∀ cx other : Nat, let f := x.uniNext a
        ac = false → cpLayout fmt ≠ 0 → f.toNat < 256 → other = f.toNat % 64 → cx = f.toNat / 128 → (o.ctx cx).owner = some x.crew →
        Writable o x.crew slot →
        (other = slot ∨ Readable o x.crew other ∨ (o.tile other).owner = some x.crew ∧ (o.tile other).st = .filling) →
        cpLayout fmt = (o.ctx cx).bind.layout + 1 → (other ≠ slot → (o.tile other).layout = (o.ctx cx).bind.layout + 1) →
        ∃ z k t T, UniStep n.val (BitVec.ofNat 64 T) x z ∧ exec (.cpInMx m (.s n) a b) s = .next t ∧
        CoreIs ((Pins s x).setParty p z) c k t ∧ CpQueued s p x ctx ad (.fill slot fmt sp stride (some cx)) T k ∧
        MxQueued s x cx (.follow slot other (decide (f.toNat / 64 % 2 = 1)) false false) k ∧ IssuedElse o k [ctx, 4 + cx] ∧
        (∀ j, k.tile j = if j = slot then
            { filling (o.tile j) (cpLayout fmt) with readers := (o.tile j).readers + if other = slot then 1 else 0 }
          else if j = other then (if (o.tile j).st = .filling then { o.tile j with readers := (o.tile j).readers + 1 } else draining (o.tile j) 1)
          else o.tile j) ∧
        k = { o with issued := k.issued, porter := k.porter, tiles := k.tiles, mx := k.mx })) ∧
    (∀ b, let w := (x.srcZ b).toNat % 2 ^ 32
      let src := x.uniNext a
      w < 2 ^ 28 → ad.toNat % 4 = 0 → src.toNat % 4 = 0 → w % 2 ^ 26 % 4 = 0 →
      ∃ z k t T, UniStep n.val (BitVec.ofNat 64 T) x z ∧ exec (.cpMem m (.s n) a b) s = .next t ∧
        CoreIs ((Pins s x).setParty p z) c k t ∧ CpQueued s p x (w / 2 ^ 26) ad (.mem src (w % 2 ^ 26)) T k ∧
        IssuedElse o k [w / 2 ^ 26] ∧ k = { o with issued := k.issued, porter := k.porter })

/-- Tile slots and Porter commands. -/
def Obligations.TilesAndPorter : Prop := Says.TileSlots ∧ Says.PorterCommandsQueue

/-- A matrix word on a context of its crew queues its command with the next ticket of the context; a product reads its tiles, `mx.sm` fills two,
`mx.rd` sets flag B. `mx.ctl` claims a free context cleared and bound as `mxctl` says, binds it again, and releases it once its commands have
completed; a context of another crew raises 0x1F (R219 to R222, R263, R351). -/
def Obligations.MatrixCommandsQueue : Prop :=
  ∀ s p x m (d : Fin 2), Issuing s p x →
    let c := coreNo x
    let o := s.core c
    ((o.ctx d.val).owner = some x.crew →
      (∀ ra rb, let a := x.slotOf ra
        let b := x.slotOf rb
        Readable o x.crew a → Readable o x.crew b → (o.tile a).layout = (o.ctx d.val).bind.layout + 1 →
        (o.tile b).layout = (o.ctx d.val).bind.layout + 1 → ∃ k t, exec (.mxMma m d ra rb) s = .next t ∧ CoreIs (Pins s x) c k t ∧
          MxQueued s x d.val (.mma a b) k ∧ IssuedElse o k [4 + d.val] ∧
          (∀ j, k.tile j = if j = a ∨ j = b then draining (o.tile j) ((if j = a then 1 else 0) + if j = b then 1 else 0) else o.tile j) ∧
          k = { o with issued := k.issued, tiles := k.tiles, mx := k.mx }) ∧
      (∀ ra rb, let a := x.slotOf ra
        let w : Word := (x.srcZ rb).setWidth 32
        goodScale w = true → (o.ctx (1 - d.val)).owner = some x.crew → Writable o x.crew a → Writable o x.crew (a + 1) →
        ∃ k t, exec (.mxSm m d ra rb) s = .next t ∧ CoreIs (Pins s x) c k t ∧ MxQueued s x d.val (.sm a w) k ∧
          IssuedElse o k [4 + d.val] ∧ (∀ j, k.tile j = if j = a ∨ j = a + 1 then filling (o.tile j) 2 else o.tile j) ∧
          k = { o with issued := k.issued, tiles := k.tiles, mx := k.mx }) ∧
      (∀ r b, Within x m [(r, 1)] →
        let w := (x.srcZ b).toNat
        let row := w % 128
        let col := w / 256 % 128
        let src := w / 2 ^ 16 % 4
        let ts := match r with | .s _ => [0] | .v _ => threadsOf x.width x.m0
        let pos := fun t => (if src = 0 then col else row) + t
        w < 2 ^ 18 → w / 128 % 2 = 0 → w / 2 ^ 15 % 2 = 0 → (∀ t ∈ ts, pos t ≤ 127) →
        ∃ k t, exec (.mxRd m r d b) s = .next t ∧ CoreIs ((Pins s x).setParty p (x.addFlag x.flagB)) c k t ∧
          MxQueued s x d.val (.rd p (ts.map (fun t => (t, resultRun x r 1, pos t))) src row x.flagB) k ∧ IssuedElse o k [4 + d.val] ∧
          k = { o with issued := k.issued, mx := k.mx }) ∧
      (∃ k t, exec (.mxClr m d) s = .next t ∧ CoreIs (Pins s x) c k t ∧ MxQueued s x d.val .clr k ∧ IssuedElse o k [4 + d.val] ∧
        k = { o with issued := k.issued, mx := k.mx }) ∧
      (∀ bd, bindOf x.ctlRegs.mxctl = some bd → ∃ k t, exec (.mxCtlBind m d) s = .next t ∧ CoreIs (Pins s x) c k t ∧
        (∀ j, k.ctx j = if j = d.val then { o.ctx j with bind := bd } else o.ctx j) ∧ k = { o with mx := k.mx }) ∧
      ((o.ctx d.val).queue = [] → ∃ k t, exec (.mxCtlRelease m d) s = .next t ∧ CoreIs (Pins s x) c k t ∧
        (∀ j, k.ctx j = if j = d.val then { o.ctx j with owner := none } else o.ctx j) ∧ k = { o with mx := k.mx }) ∧
      ((o.ctx d.val).queue ≠ [] → exec (.mxCtlRelease m d) s = .next ((Pins s x).setParty p { x with ctl := .stall }))) ∧
    ((o.ctx d.val).owner = none → (o.ctx d.val).queue = [] → o.tokens = true → ∀ bd, bindOf x.ctlRegs.mxctl = some bd →
      ∃ k t, exec (.mxCtlClaim m d) s = .next t ∧ CoreIs (Pins s x) c k t ∧
        (∀ j, k.ctx j = if j = d.val then ⟨some x.crew, bd, [], [], [], [], []⟩ else o.ctx j) ∧ k = { o with mx := k.mx }) ∧
    ((o.ctx d.val).owner ≠ none → (o.ctx d.val).owner ≠ some x.crew →
      ∃ t, Raises (Pins s x) p x 0x1F (fun u => bitOf x.pos.m0 u = true) 0 t ∧ exec (.mxCtlClaim m d) s = .next t ∧ exec (.mxClr m d) s = .next t)

/-- `tl.wait` raises 0x25 past the issued count of an engine timeline, delivers a fault record that it covers, completes when the timeline has
come to its value, and parks until then; `tl.rd` reads the completed value or the issued count; `tl.inc` adds to the completed value once
the package's writes of its party are acknowledged. A wait that completes and an increment end the regions (R210, R223, R224). -/
def Obligations.Timelines : Prop :=
  ∀ s p x m (tl : Fin 16), Issuing s p x →
    let c := coreNo x
    let o := s.core c
    let ts := threadsOf x.width x.m0
    (∀ b, let n := (x.srcZ b).toNat
      (tl.val < 8 → o.issuedOf tl.val < n → ∃ t, Raises (Pins s x) p x 0x25 (fun u => bitOf x.pos.m0 u = true) 0 t ∧
        exec (.tlWait m tl b) s = .next t) ∧
      ((tl.val < 8 → n ≤ o.issuedOf tl.val) →
        (∀ f, FirstRecord o x.crew tl.val n f → (∀ g, FirstRecord o x.crew tl.val n g → g = f) → ∃ k s' r, CoreIs (Pins s x) c k s' ∧
          k = { o with faults := o.faults.erase f } ∧ exec (.tlWait m tl b) s = .next (s'.raise p r) ∧ r.cause = f.cause ∧
          r.deferred = true ∧ r.epc = x.here ∧ r.mfault = x.pos.m0 ∧ (∀ u, sget 0 r.addr u = if u ∈ threadsOf x.width x.pos.m0 then f.addr else 0) ∧
          r.info = BitVec.ofNat 64 (f.tl % 16 + f.ticket % 2 ^ 56 * 256)) ∧
        (NoRecord o x.crew tl.val n → s.mbxStOpen p ts = false →
          (n ≤ o.doneOf tl.val → ∃ t z, RegionsEnd (Pins s x) p x ts t z ∧ exec (.tlWait m tl b) s = .next t) ∧
          (o.doneOf tl.val < n → exec (.tlWait m tl b) s =
            .next ((Pins s x).setParty p { x with park := .timeline tl.val n, parkedAt := s.now }))))) ∧
    (∀ (j : Fin 2), let v := if j.val = 1 ∧ tl.val < 8 then o.issuedOf tl.val else o.doneOf tl.val
      NoRecord o x.crew tl.val v →
        (∀ n : Fin 31, ∃ z, UniStep n.val (BitVec.ofNat 64 v) x z ∧ exec (.tlRd m (.s n) tl j) s = .next ((Pins s x).setParty p z)) ∧
        (∀ n : Fin 96, m.pre = none → Within x m [(.v n, 1)] → ∃ z : Party,
          (∀ t r, r < 1024 → z.vNow t r = if r = x.base + n.val ∧ t ∈ ts then BitVec.ofNat 32 v else x.vNow t r) ∧
          z = { x with regs := { x.regs with v := z.regs.v } } ∧ exec (.tlRd m (.v n) tl j) s = .next ((Pins s x).setParty p z))) ∧
    (∀ (n : Fin 31) b, s.mbxStOpen p ts = false → s.writesOpen p (List.range x.width) false = false →
      let v := (o.doneOf tl.val + (x.srcZ b).toNat) % 2 ^ 64
      ∃ s' y z k t, RegionsEnd (Pins s x) p x ts s' y ∧ UniStep n.val (BitVec.ofNat 64 v) y z ∧
        exec (.tlInc m (.s n) tl b) s = .next t ∧ CoreIs (s'.setParty p z) c k t ∧
        (∀ j, k.doneOf j = if j = tl.val then v else o.doneOf j) ∧ k = { o with done := k.done })

/-- `bank.cmd` sends its list to the engine with the next ticket of the bank timeline, and raises 0x23 for an engine that does not exist or in
reduced service; `launch` puts its threads' descriptors on the launch queue in thread order, or, where that is full, on the crew's deferred
records within its reserve; `rec.emit` and `log.app` send one request a thread (R225, R228 to R232). -/
def Obligations.ListsLaunchesAndRecords : Prop :=
  (∀ s p x m (n : Fin 31) a b, Issuing s p x →
    let c := coreNo x
    let o := s.core c
    let e := (x.srcZ b).toNat % 2 ^ 32
    let ad := x.reg64 0 a
    let T := (o.issuedOf 7 + 1) % 2 ^ 64
    (e ≤ 767 → s.pkg.service ≠ .reduced → ad.toNat % 64 = 0 → ∃ z t, UniStep n.val (BitVec.ofNat 64 T) x z ∧
      exec (.bankCmd m (.s n) a b) s = .next t ∧ t = { (Pins s x).setParty p z with cores := t.cores, banks := t.banks } ∧
      (∀ j, t.core j = if j = c then { o with issued := (t.core j).issued } else s.core j) ∧
      (∀ j, (t.core c).issuedOf j = if j = 7 then T else o.issuedOf j) ∧
      ∀ j, t.bank j = if j = e then { s.bank j with queue := (s.bank j).queue ++ [⟨c, x.crew, x.fe, x.user, T, ad, s.openWrites p⟩] }
        else s.bank j) ∧
    (767 < e ∨ s.pkg.service = .reduced → ∃ t, Raises (Pins s x) p x 0x23 (fun u => bitOf x.pos.m0 u = true) 0 t ∧
      exec (.bankCmd m (.s n) a b) s = .next t)) ∧
  (∀ s p x m (d : MaskReg) a (ps : Nat → List (Nat × Nat)) (win remote : Nat → Bool) (ds : Nat → GridDesc), Issuing s p x → Within x m [(a, 2)] →
    let ts := threadsOf x.width x.m0
    let l := s.lod x.fe
    (∀ t ∈ ts, s.check x ⟨64, true, false, .plain⟩ (x.reg64 t a) = .ok (ps t) (win t) (remote t) ∧
      s.gridDesc x.fe (s.loadPieces (ps t)) = some (ds t) ∧
      ∀ q ∈ ps t, sget none s.mem.poison (q.1 / 64) = none ∧ sget false s.mem.badTag (q.1 / 64) = false ∧
        sget false s.mem.badCells (q.1 / 64) = false) →
    s.pkg.injarm.getLsbD 0 = false → Synced s p ts true false →
    let new := ts.map (fun t => (⟨ds t, none⟩ : GridRec))
    (l.launchQ.length + ts.length ≤ 4096 → l.deferred = [] → ∃ s' y z t, RegionsEnd (Pins s x) p x ts s' y ∧
      (∀ u, bitOf (z.maskNow d.val) u = if u ∈ ts then false else bitOf (y.maskNow d.val) u) ∧
      (∀ j, j ≠ d.val → z.maskNow j = y.maskNow j) ∧ z = { y with regs := { y.regs with m := z.regs.m } } ∧
      exec (.launch m d a) s = .next t ∧ t = { s' with lods := t.lods, parties := sput s'.parties p z } ∧
      ∀ j, t.lod j = if j = x.fe then { l with launchQ := l.launchQ ++ new } else s.lod j) ∧
    (4096 ≤ l.launchQ.length ∨ l.deferred ≠ [] → (∃ k, s.crew? x.crew = some k ∧ ts.length ≤ k.reserve) → ts ≠ [] →
      ∃ t z, exec (.launch m d a) s = .next t ∧ t.party? p = some z ∧ (∀ u ∈ ts, bitOf (z.maskNow d.val) u = true) ∧
      (∀ j, t.lod j = if j = x.fe then { l with deferred := l.deferred ++ new } else s.lod j) ∧
      ∀ k, s.crew? x.crew = some k → t.crew? x.crew = some { k with pinned := true, reserve := k.reserve - ts.length })) ∧
  (∀ s p x m d a b, Issuing s p x → Within x m ([(d, 1), (a, 4)] ++ srcRun b 1) →
    let ts := threadsOf x.width x.m0
    (∀ t ∈ ts, (x.src32 t 0 b).toNat < 4096) → ∃ t, exec (.recEmit m d a b) s = .next t ∧
      Sends (Pins s x) p x (some x.flagB) (ts.map (fun u =>
        { fe := x.fe, party := p, lane := x.lane, thread := u, uniform := false, owners := [(u, x.regionOf u)], va := 0, pieces := [],
          kind := .emit ⟨x.fe, (x.reg32 u 0 d).toNat, 0, 0, 0xFFFF, (x.src32 u 0 b).toNat, (List.range 4).map (fun k => x.reg32 u k a), [], 0,
            true, 0, 0, 0⟩,
          dest := .none, flag := some x.flagB, win := false, rel := false, acq := false, pod := false, held := true, phase := .sent,
          issued := s.now })) t) ∧
  (∀ s p x m d a b (ps : Nat → List (Nat × Nat)) (win remote : Nat → Bool), Issuing s p x → Within x m [(d, 1), (a, 2), (b, 8)] →
    let ts := threadsOf x.width x.m0
    (∀ t ∈ ts, s.check x ⟨64, true, true, .atomic⟩ (x.reg64 t a) = .ok (ps t) (win t) (remote t)) →
    ∃ t, exec (.logApp m d a b) s = .next t ∧
      Sends (Pins s x) p x (some x.flagB) (ts.map (fun u =>
        { fe := x.fe, party := p, lane := x.lane, thread := u, uniform := false, owners := [(u, x.regionOf u)], va := x.reg64 u a,
          pieces := ps u, kind := .logApp ((List.range 8).map (fun k => x.reg32 u k b)), dest := resultRun x d 1, flag := some x.flagB,
          win := win u, rel := false, acq := false, pod := false, held := true, phase := .sent, issued := s.now })) t)

/-- An envelope word over set slots of its crew queues its operation with the next ticket of tl6 and sets flag A; the issue is held while
sixteen are queued, and a slot of another crew raises 0x22. `env.claim` gives the crew the lowest run of unowned slots, 16 where there is
none, and `env.rel` gives them up (R236 to R251). -/
def Sys2Proof.Says.EnvelopeWordsQueue : Prop :=
  (∀ i w, EnvRow i w → ∀ s p x, Issuing s p x → Within x w.m w.regs →
    let c := coreNo x
    let o := s.core c
    let owned := ∀ j ∈ w.slots x, j < 16 ∧ (o.envSlot j).owner = some x.crew
    (owned → w.ok x → o.envFull = false → ∃ k t, exec i s = .next t ∧ CoreIs ((Pins s x).setParty p (x.addFlag x.flagA)) c k t ∧
      EnvQueued p x true (w.op x) .none (if w.releases then s.openWrites p else []) o k ∧ k.env = o.env) ∧
    (owned → w.ok x → o.envFull = true → exec i s = .next ((Pins s x).setParty p { x with ctl := .stall })) ∧
    (¬ owned → ∃ t, Raises (Pins s x) p x 0x22 (fun u => bitOf x.pos.m0 u = true) 0 t ∧ exec i s = .next t)) ∧
  (∀ s p x m (n : Fin 31) r b, Issuing s p x →
    let c := coreNo x
    let o := s.core c
    let w := (x.srcZ b).toNat
    let free := fun a => ∀ i < w, (o.envSlot (a + i)).owner = none
    let a := x.envOf r
    o.envFull = false → 1 ≤ w →
    (∀ a, a + w ≤ 16 → free a → (∀ a' < a, ¬ free a') → ∃ k t, exec (.envClaim m (.s n) b) s = .next t ∧
      CoreIs ((Pins s x).setParty p (x.addFlag x.flagA)) c k t ∧ EnvQueued p x false (.claim a w) (.uni n.val) [] o k ∧
      ∀ j, k.envSlot j = if a ≤ j ∧ j < a + w then { o.envSlot j with owner := some x.crew } else o.envSlot j) ∧
    (w ≤ 16 → (∀ a, a + w ≤ 16 → ¬ free a) → ∃ k t, exec (.envClaim m (.s n) b) s = .next t ∧
      CoreIs ((Pins s x).setParty p (x.addFlag x.flagA)) c k t ∧ EnvQueued p x false (.claim 16 w) (.uni n.val) [] o k ∧ k.env = o.env) ∧
    (a + w ≤ 16 → (∀ i < w, (o.envSlot (a + i)).owner = some x.crew) → ∃ k t, exec (.envRel m r b) s = .next t ∧
      CoreIs ((Pins s x).setParty p (x.addFlag x.flagA)) c k t ∧ EnvQueued p x false (.rel a w) .none [] o k ∧
      ∀ j, k.envSlot j = if a ≤ j ∧ j < a + w then { o.envSlot j with owner := none } else o.envSlot j))

/-- ENVELOPE_EXECUTE takes the oldest instruction of a core whose released writes are acknowledged: a result of at most 512 pieces goes to its
slot, and tl6 reaches its ticket; an unset source is recorded as 0x22 for the crew and changes no slot; `env.eval` reads, for each thread,
−∞ outside the domain, the default NaN for a NaN, and otherwise the rounded line of the last piece that starts at or before x (R237, R238,
R246, R247). -/
def Sys2Proof.Says.EnvelopeExecution : Prop :=
  (∀ (s : State) c q rest d e, (s.core c).envQ = q :: rest → s.released q.after = true → s.upset ≠ .envelope → q.ticket ≠ 0 →
    EnvGives (fun j => ((s.core c).envSlot j).env) q.tol q.op d e → e.pieces.length ≤ 512 →
    ∃ k t, exec (.envelopeExecute c) s = .next t ∧ k.envQ = rest ∧ k.doneOf 6 = q.ticket ∧
      (∀ j, k.envSlot j = if j = d then { (s.core c).envSlot d with env := some e } else (s.core c).envSlot j) ∧
      (∀ j, t.core j = if j = c then k else s.core j) ∧ t.mem = s.mem ∧
      ∀ x, q.flag < 12 → s.party? q.party = some x → t.party? q.party = some { x.doneFlag q.flag 1 with hold := false }) ∧
  (∀ (s : State) c q rest kc, (s.core c).envQ = q :: rest → s.released q.after = true → s.upset ≠ .envelope → q.ticket ≠ 0 →
    EnvUnset (fun j => ((s.core c).envSlot j).env) q.op → s.crew? q.crew = some kc → kc.life ≠ .retired →
    ∃ k t, exec (.envelopeExecute c) s = .next t ∧ k.envQ = rest ∧ k.doneOf 6 = q.ticket ∧ k.env = (s.core c).env ∧
      k.faults = (s.core c).faults ++ [⟨q.crew, q.party, 0x22, 0, 6, q.ticket, q.flag⟩] ∧ ∀ j, t.core j = if j = c then k else s.core j) ∧
  (∀ (s : State) c q rest a ls e x, (s.core c).envQ = q :: rest → s.released q.after = true → s.upset ≠ .envelope → q.ticket ≠ 0 →
    q.op = .eval a ls → ((s.core c).envSlot a).env = some e → s.party? q.party = some x → ∀ t d w, ls = [(t, d, w)] → t < 64 →
    bitOf x.left t = false → (∀ b k, d = .vec b k → b + k ≤ 1024) →
    ∃ u y, exec (.envelopeExecute c) s = .next u ∧ u.party? q.party = some y ∧ Landed x t d (e.evalAt w) y ∧ (u.core c).doneOf 6 = q.ticket) ∧
  (∀ (e : Env) (w : Word), ((val32 w).isNan = true → e.evalAt w = 0x7FC00000) ∧
    ((val32 w).isNan = false → lt32 w e.lo = true ∨ lt32 e.hi w = true → e.evalAt w = 0xFF800000) ∧
    ((val32 w).isNan = false → lt32 w e.lo = false → lt32 e.hi w = false → ∀ before p after, e.pieces = before ++ p :: after →
      (∀ q ∈ before, lt32 w q.x = false) → lt32 w p.x = false → (∀ q, after.head? = some q → lt32 w q.x = true) →
      e.evalAt w = (rn (plus (times (val32 p.m) (val32 w)) (val32 p.b))).toNat))

/-- The envelope unit: its queue, and what its instructions do. -/
def Obligations.EnvelopeUnit : Prop := Says.EnvelopeWordsQueue ∧ Says.EnvelopeExecution

/-- MATRIX_COMMAND_EXECUTE in ticket order: a product adds to every accumulator its four rounded group sums, with the pending factor applied
first, sets the pending factors to 1, and completes its reads; `mx.sm` steps the side registers of every row; `mx.rd` gives its values to its
threads; `mx.clr` clears the context. The group sum of integer elements is exact (R52, R63, R219 to R222, R323). -/
def Obligations.MatrixCommandsExecute : Prop :=
  (∀ (s : State) c x q rest, ((s.core c).ctx x).queue = q :: rest → q.needs ≤ (s.core c).doneOf (5 - x) → s.upset = .none → x ≤ 1 →
    let o := s.core c
    (∀ a b, q.op = .mma a b → (o.tile a).poison = false → (o.tile b).poison = false →
      ∃ k t, exec (.matrixCommandExecute c x) s = .next t ∧ (∀ j, t.core j = if j = c then k else s.core j) ∧ t.mem = s.mem ∧
        (∀ i < 128, ∀ j < 128, sget 0 (k.ctx x).acc (128 * i + j) =
          (let p := sget 0x3F800000 (o.ctx x).pend i
           let v := sget 0 (o.ctx x).acc (128 * i + j)
           (List.range 4).foldl (fun w g => addTo w (groupSum q.bind (o.tile a) (o.tile b) i j g)) (if p = 0x3F800000 then v else mul32 v p))) ∧
        k.ctx x = { o.ctx x with acc := (k.ctx x).acc, pend := [], queue := rest } ∧ k.doneOf (4 + x) = q.ticket ∧
        ∀ j, k.tile j = if j = a ∨ j = b then readsDone (o.tile j) ((if j = a then 1 else 0) + if j = b then 1 else 0) else o.tile j) ∧
    (∀ p w, q.op = .sm p w → p ≤ 62 → ∃ k t, exec (.matrixCommandExecute c x) s = .next t ∧ (∀ j, t.core j = if j = c then k else s.core j) ∧
      (∀ i < 128, let r := smRow (sget 0xFF800000 (o.ctx x).m i) (sget 0 (o.ctx x).l i) w ((List.range 128).map (fun j => sget 0 (o.ctx x).acc (128 * i + j)))
        sget 0xFF800000 (k.ctx x).m i = r.m ∧ sget 0 (k.ctx x).l i = r.l ∧
        sget 0x3F800000 (k.ctx (1 - x)).pend i = mul32 (sget 0x3F800000 (o.ctx (1 - x)).pend i) r.f) ∧
      (k.ctx x).acc = (o.ctx x).acc ∧ (k.ctx x).queue = rest ∧ k.doneOf (4 + x) = q.ticket) ∧
    (∀ p lanes src row flag y, q.op = .rd p lanes src row flag → s.party? p = some y → ∀ u d n, lanes = [(u, d, n)] → u < 64 →
      bitOf y.left u = false → (∀ b k, d = .vec b k → b + k ≤ 1024) → ∃ t z, exec (.matrixCommandExecute c x) s = .next t ∧
      t.party? p = some z ∧ (t.core c).doneOf (4 + x) = q.ticket ∧ ((t.core c).ctx x).queue = rest ∧
      Landed y u d (match src with
        | 0 => sget 0 (o.ctx x).acc (128 * row + n)
        | 1 => sget 0xFF800000 (o.ctx x).m n
        | 2 => sget 0 (o.ctx x).l n
        | _ => sget 0x3F800000 (o.ctx x).pend n).toNat z) ∧
    (q.op = .clr → ∃ k t, exec (.matrixCommandExecute c x) s = .next t ∧ (∀ j, t.core j = if j = c then k else s.core j) ∧
      k.ctx x = { o.ctx x with acc := [], m := [], l := [], pend := [], queue := rest } ∧ k.doneOf (4 + x) = q.ticket)) ∧
  (∀ (s : State) c x q rest f other roleB, ((s.core c).ctx x).queue = q :: rest → q.op = .follow f other roleB true false →
    ((s.core c).tile other).st = .ready ∨ ((s.core c).tile other).st = .draining → ∃ k t, exec (.followOnIssue c x) s = .next t ∧
      (∀ j, t.core j = if j = c then k else s.core j) ∧
      ∀ j, k.ctx j = if j = x then { (s.core c).ctx x with queue := { q with op := if roleB then .mma other f else .mma f other } :: rest }
        else (s.core c).ctx j) ∧
  (∀ (b : MxBind) ta tb i j g, b.layout = 0 → b.tyA = 0 → b.tyB = 0 → b.scA = false → b.scB = false → ∃ neg n,
    groupSum b ta tb i j g = .fin neg n 1 ∧ (if neg then -(n : ℤ) else n) = ((List.range 32).map (fun k =>
      let e := fun (uns : Bool) (w : Byte) => if uns then (w.toNat : ℤ) else w.toInt
      e b.unsA (sget 0 ta.data (128 * i + (32 * g + k))) * e b.unsB (sget 0 tb.data (128 * j + (32 * g + k))))).sum)

/-- PORTER_CHUNK moves at most 4 KiB of the oldest command of a context whose released writes are acknowledged: `cp.mem` copies bytes, and a
`cp.in` of plain 8-bit elements fills rows of its slot; the command goes on at its next chunk, or completes with its timeline at its
ticket (R209, R212 to R216). -/
def Obligations.PorterMovesChunks : Prop :=
  ∀ (s : State) c ctx q rest, sget [] (s.core c).porter ctx = q :: rest → (∀ r ∈ q.after, r ∉ s.openWrites q.party) →
    s.throttled .porter q.fe = false → s.pkg.injarm.getLsbD 0 = false →
    let g : Eng := ⟨q.fe, c / 4, q.user⟩
    (∀ src len pa pb, q.op = .mem src len → let n := min 4096 (len - q.pos)
      let off := BitVec.ofNat 64 q.pos
      EngMaps s g (src + off) pa n → EngMapsOut s g (q.addr + off) pb n → (pa + n ≤ pb ∨ pb + n ≤ pa) →
      ∃ t, exec (.porterChunk c ctx) s = .next t ∧ (∀ k < n, t.byteAt (pb + k) = s.byteAt (pa + k)) ∧
        (∀ a, a < pb ∨ pb + n ≤ a → t.byteAt a = s.byteAt a) ∧
        (if q.pos + n < len then sget [] (t.core c).porter ctx = { q with pos := q.pos + n } :: rest
         else sget [] (t.core c).porter ctx = rest ∧ (t.core c).doneOf ctx = q.ticket)) ∧
    (∀ slot fmt stride (pr : Nat → Nat), q.op = .fill slot fmt false stride none → fmt ≤ 2 → q.pos < 128 →
      let n := min (128 - q.pos) 32
      (∀ r, q.pos ≤ r → r < q.pos + n → EngMaps s g (q.addr + BitVec.ofNat 64 (stride * r)) (pr r) 128) →
      ∃ t, exec (.porterChunk c ctx) s = .next t ∧ (∀ a, t.byteAt a = s.byteAt a) ∧
        (∀ r k, q.pos ≤ r → r < q.pos + n → k < 128 → sget 0 ((t.core c).tile slot).data (128 * r + k) = s.byteAt (pr r + k)) ∧
        (∀ j, j < 128 * q.pos ∨ 128 * (q.pos + n) ≤ j → sget 0 ((t.core c).tile slot).data j = sget 0 ((s.core c).tile slot).data j) ∧
        (if q.pos + n < 128 then sget [] (t.core c).porter ctx = { q with pos := q.pos + n } :: rest
         else sget [] (t.core c).porter ctx = rest ∧ (t.core c).doneOf ctx = q.ticket ∧
          ((t.core c).tile slot).st = if ((s.core c).tile slot).readers = 0 then .ready else .draining))

/-- A bank engine starts its oldest list with its buffers cleared, and executes one command a step: BVEC loads the vector buffer, BMV adds each
weight row's group sums to its accumulator, BCLR clears, BOUT writes memory, BSYNC separates, and BEND completes the list. Codes and
operands are read as R95 and R226 lay them out (R225 to R228). -/
def Obligations.BankCommands : Prop :=
  (∀ (s : State) e l ls, (s.bank e).run = none → (s.bank e).queue = l :: ls → s.released l.after = true → ∃ t,
    exec (.bankListStart e) s = .next t ∧ ∀ j, t.bank j = if j = e then ⟨ls, some l, 0, [], [], []⟩ else s.bank j) ∧
  (∀ (s : State) e l op ps, BankAt s e l op ps →
    let b := s.bank e
    let on := fun (t : State) => (t.bank e).next = b.next + 1 ∧ (t.bank e).run = some l ∧ (t.bank e).queue = b.queue
    (∀ n src, op = .bvec n src → 1 ≤ n → n ≤ 2048 → ∃ t, exec (.bvec e) s = .next t ∧ on t ∧ (t.bank e).acc = b.acc ∧ t.mem = s.mem ∧
      ∀ k, sget 0 (t.bank e).vec k = BitVec.ofNat 32 (((numbers 2 (ps.flatMap (fun q => s.bytesAt q.1 q.2))).getD k 0))) ∧
    (∀ c8 k a n w, op = .bmv c8 k a n w → ∃ t, exec (.bmv e) s = .next t ∧ on t ∧ (t.bank e).vec = b.vec ∧ t.mem = s.mem ∧
      ∀ r, sget 0 (t.bank e).acc r = if a ≤ r ∧ r < a + n then
        bmvRow c8 k b.vec (sget 0 b.acc r) ((chunks (bmvPitch c8 k) n (ps.flatMap (fun q => s.bytesAt q.1 q.2))).getD (r - a) []) else sget 0 b.acc r) ∧
    (∀ a n, op = .bclr a n → ∃ t, exec (.bclr e) s = .next t ∧ on t ∧ (t.bank e).vec = b.vec ∧ t.mem = s.mem ∧
      ∀ r, sget 0 (t.bank e).acc r = if a ≤ r ∧ r < a + n then 0 else sget 0 b.acc r) ∧
    (∀ half a n dst pa, op = .bout half a n dst → bytesIn ps = (List.range (n * if half then 2 else 4)).map (pa + ·) →
      ∃ t, exec (.bout e) s = .next t ∧ on t ∧ (t.bank e).acc = b.acc ∧
        (∀ r < n, ∀ k, k < (if half then 2 else 4) → t.byteAt (pa + r * (if half then 2 else 4) + k) =
          BitVec.ofNat 8 ((if half then narrowTo bf16 (sget 0 b.acc (a + r)).toNat else (sget 0 b.acc (a + r)).toNat) / 256 ^ k)) ∧
        ∀ j, j ∉ bytesIn ps → t.byteAt j = s.byteAt j) ∧
    (op = .bsync → ∃ t, exec (.bsync e) s = .next t ∧ on t ∧ (t.bank e).touched = [] ∧ (t.bank e).acc = b.acc ∧ (t.bank e).vec = b.vec) ∧
    (op = .bend → l.ticket = ((s.core l.core).doneOf 7 + 1) % 2 ^ 64 → (s.core l.core).bankDone = [] →
      ∃ t, exec (.bend e) s = .next t ∧ (t.bank e).run = none ∧ (t.core l.core).doneOf 7 = l.ticket)) ∧
  (∀ (n a : Nat) (ad : DWord),
    (1 ≤ n → n ≤ 2048 → ad.toNat % 2 = 0 → bankDecode (BitVec.ofNat 32 (1 + 256 * n)) 0 ad = some (.bvec n ad)) ∧
    (1 ≤ n → a + n ≤ 2048 → bankDecode 3 (BitVec.ofNat 32 (a + 4096 * n)) 0 = some (.bclr a n)) ∧
    (1 ≤ n → a + n ≤ 2048 → ad.toNat % 4 = 0 → bankDecode 4 (BitVec.ofNat 32 (a + 4096 * n)) ad = some (.bout false a n ad)) ∧
    (1 ≤ n → a + n ≤ 2048 → ad.toNat % 2 = 0 → bankDecode 0x104 (BitVec.ofNat 32 (a + 4096 * n)) ad = some (.bout true a n ad)) ∧
    (∀ k c8, 1 ≤ k → k ≤ 16 → 1 ≤ n → a + n ≤ 2048 → ad.toNat % 64 = 0 →
      bankDecode (BitVec.ofNat 32 (2 + (if c8 then 256 else 0) + 4096 * (128 * k))) (BitVec.ofNat 32 (a + 4096 * n)) ad =
        some (.bmv c8 (128 * k) a n ad)) ∧
    bankDecode 0 0 0 = some .bend ∧ bankDecode 5 0 0 = some .bsync)

/-- Control registers: a read below the register's level raises 0x08, and otherwise D takes the value; a write below its level, or of a register
that nothing writes, raises 0x08; a value that the register's table forbids raises 0x02; any other write leaves the register with the bits it
keeps, D with the old value, every other register and the rest of the party as they were, and memory unchanged (R255 to R265, R277). -/
def Sys2Proof.Says.RegisterMap : Prop :=
  (∀ s p x m d a, Issuing s p x →
    (x.csr.level.toNat < (csrRow a).rd → ∃ t, Raises s p x 0x08 (fun u => bitOf x.m0 u = true) 0 t ∧ exec (.csrRd m d a) s = .next t) ∧
    ((csrRow a).rd ≤ x.csr.level.toNat → m.pre = none → Within x m [(d, if (csrRow a).wide then 2 else 1)] → ∃ z,
      (if (csrRow a).wide then GivesWide x d (fun t => s.csrRead x x.ctlRegs t a) z else GivesWord x d (fun t => s.csrRead x x.ctlRegs t a) z) ∧
      exec (.csrRd m d a) s = .next (s.setParty p z))) ∧
  (∀ i a d f, CsrChange i a d f → ∀ s p x, Issuing s p x →
    let old := s.csrRead x x.csr 0 a
    (¬ MayWrite a x.csr.level.toNat → ∃ t, Raises s p x 0x08 (fun u => bitOf x.m0 u = true) 0 t ∧ exec i s = .next t) ∧
    (MayWrite a x.csr.level.toNat → ¬ (csrRow a).legal (f x old &&& (csrRow a).bits) →
      ∃ t, Raises s p x 0x02 (fun u => bitOf x.m0 u = true) 0 t ∧ exec i s = .next t) ∧
    (MayWrite a x.csr.level.toNat → (csrRow a).legal (f x old &&& (csrRow a).bits) → ∃ t y, exec i s = .next t ∧ t.party? p = some y ∧
      t.csrRead y y.csr 0 a &&& (csrRow a).bits = f x old &&& (csrRow a).bits ∧
      (∀ b u, b ≠ a → t.csrRead y y.csr u b = s.csrRead x x.csr u b) ∧ t.mem = s.mem ∧
      (∀ k, y.uNow k = if d.map Fin.val = some k ∧ k ≠ 0 then old else x.uNow k) ∧ y.regs.v = x.regs.v ∧ y.regs.m = x.regs.m ∧
      y = { x with csr := y.csr, gen := y.gen, regs := y.regs } ∧ (a ≠ .fpctl → y.gen = x.gen))) ∧
  (∀ (x : Party) c, x.width = 16 ∨ x.width = 32 ∨ x.width = 64 → let v := (x.pinfo c).toNat
    16 * 2 ^ (v % 4) = x.width ∧ v / 4 % 128 = x.rt / 16 % 128 ∧ v / 2 ^ 9 % 8 = x.rslot % 8 ∧ v / 2 ^ 12 % 4 = c.level.toNat ∧
    v / 2 ^ 14 % 4 = c.prior.toNat ∧ (v / 2 ^ 16 % 2 = 1 ↔ c.single = true) ∧ (v / 2 ^ 17 % 2 = 1 ↔ x.plan = true) ∧
    v / 2 ^ 22 = x.fe % 32)

/-- `trap` and `brk` are raised for the whole party at the group after their own, with their immediate in `tinfo`; the packet
after a code address has the next number (R67, R266). -/
def Sys2Proof.Says.SoftwareTraps : Prop :=
  (∀ a, CodeAddress a → a.toNat + 64 < 2 ^ 64 → CodeAddress (nextPacket a) ∧ packetNo (nextPacket a) = packetNo a + 1) ∧
  ∀ s p x, Issuing s p x → ∀ i c v, (∃ m b, i = .trap m b ∧ c = 0x09 ∧ v = ((x.srcZ b).setWidth 32 : Word)) ∨
      (∃ m b, i = .brk m b ∧ c = 0x0A ∧ v = b.signExtend 32) →
    ∃ r : TrapReq, exec i s = .next (s.raise p r) ∧ r.cause = c ∧ r.deferred = false ∧ r.mprev = x.pos.m0 &&& ~~~ x.pos.moved ∧ r.mfault = x.m0 ∧
      r.addr = [] ∧ r.info = v.setWidth 64 ∧ r.rerun = none ∧
      r.epc = if x.pos.after < 3 then x.pos.pkt ||| BitVec.ofNat 64 (16 * x.pos.after) else nextPacket x.pos.pkt

/-- Taking a trap (R271 to R275): it waits while a completion flag is set or a home has not answered; a third level, or no handler, halts the
party and firmware receives 0x3B; otherwise the party enters the handler, and nothing else of the machine changes. TRAP_ENTRY enters a
pending trap once its party waits for nothing, and a word of a group of one takes its trap at once. -/
def Sys2Proof.Says.TrapEntry : Prop :=
  ∀ (s : State) p x r, s.party? p = some x →
    (x.busyFlags = true ∨ x.waitReqs ≠ 0 → s.takeTrap p r = s.setParty p { x with pend := some r, ctl := .await, latch := none }) ∧
    (x.busyFlags = false → x.waitReqs = 0 → (s.lod x.fe).tvec ≠ 0 → x.shadow.length < 2 →
      ∃ y, s.takeTrap p r = s.setParty p y ∧ Entered x (s.lod x.fe).tvec r y) ∧
    (x.busyFlags = false → x.waitReqs = 0 → (s.lod x.fe).tvec = 0 ∨ 2 ≤ x.shadow.length → ∃ y, (s.takeTrap p r).party? p = some y ∧
      y.life = .halted ∧ y.regs = x.regs ∧ (s.takeTrap p r).mem = s.mem ∧ (s.takeTrap p r).pkg.notices = s.pkg.notices ++ [0x3B]) ∧
    (x.latch = none → s.raise p r = s.takeTrap p r) ∧
    (x.pend = some r → x.latch = none → x.busyFlags = false → x.waitReqs = 0 → exec (.trapEntry p) s = .next (s.takeTrap p r).wake) ∧
    (x.pend = some r → x.busyFlags = true ∨ x.waitReqs ≠ 0 → exec (.trapEntry p) s = .next s.wake)

/-- `tret` pops the shadow: level, waits, window base, tpc and re-execution record are those of the entry, and the threads of `tmprev` that have
not left stand at the group of `tepc`; no register changes. At user level it raises 0x08, and where its checks fail their cause (R267, R273,
R284). -/
def Sys2Proof.Says.ReturnFromTrap : Prop :=
  ∀ s p x m, Issuing s p x →
    (x.csr.level = 0 → ∃ t, Raises s p x 0x08 (fun u => bitOf x.m0 u = true) 0 t ∧ exec (.tret m) s = .next t) ∧
    (∀ e es, x.csr.level ≠ 0 → x.shadow = e :: es →
      let good := x.csr.tepc.toNat / 8 % 2 = 0 ∧ x.csr.tepc.toNat / 16 % 4 ≠ 3 ∧ ¬ (x.csr.tcause.toNat % 64 = 0x3F ∧ x.csr.tinfo.toNat % 2 = 1)
      let m0 := x.csr.tmprev &&& x.alive
      (¬ good → ∃ t, Raises s p x 0x02 (fun u => bitOf x.m0 u = true) 0 t ∧ exec (.tret m) s = .next t) ∧
      (good → x.divs.length ≠ e.entries → ∃ t, Raises s p x 0x1A (fun u => bitOf x.m0 u = true) 0 t ∧ exec (.tret m) s = .next t) ∧
      (good → x.divs.length = e.entries → (∃ t ∈ threadsOf x.width x.alive, (sget [] x.calls t).length ≠ sget 0 e.callDepth t) →
        ∃ t, Raises s p x 0x36 (fun u => bitOf x.m0 u = true) 0 t ∧ exec (.tret m) s = .next t) ∧
      (good → x.divs.length = e.entries → (∀ t ∈ threadsOf x.width x.alive, (sget [] x.calls t).length = sget 0 e.callDepth t) →
        ∃ y, exec (.tret m) s = .next (s.setParty p y) ∧ y.shadow = es ∧ y.csr.level = e.level ∧ y.wb = e.wb ∧ y.rerun = e.rerun ∧
          y.joinWait = e.joinWait &&& ~~~ m0 ∧ y.syncWait = e.syncWait &&& ~~~ m0 ∧ y.regs = x.regs ∧ y.divs = x.divs ∧ y.calls = x.calls ∧
          (∀ t, y.pcOf t = if t ∈ threadsOf x.width m0 then x.csr.tepc &&& ~~~ (0x38 : DWord) else sget 0 e.tpc t) ∧
          (m0 ≠ 0 → y.pos.pkt = x.csr.tepc &&& ~~~ (0x38 : DWord) ∧ y.pos.slot = x.csr.tepc.toNat / 16 % 4 ∧ y.pos.m0 = m0)))

/-- Traps: software traps, entry and return. -/
def Obligations.Traps : Prop := Says.SoftwareTraps ∧ Says.TrapEntry ∧ Says.ReturnFromTrap

/-- `clk` reads the package time in nanoseconds; `fence.win` waits for the window writes of its threads, then ends their regions and raises
each window's bound timeline that they wrote by 1, forgetting what they wrote (R4, R62, R268, R269, R317). -/
def Sys2Proof.Says.ClockAndWindowFence : Prop :=
  (∀ s p x m d, Issuing s p x → m.pre = none → Within x m [(d, 2)] →
    ∃ z, GivesWide x d (fun _ => BitVec.ofNat 64 (s.now / 2)) z ∧ exec (.clk m d) s = .next (s.setParty p z)) ∧
  (∀ s p x m, Issuing s p x → s.sfuOpen p = false → (x.csr.level ≠ 0 ∨ x.fpEnabled = 0) →
    let ts := threadsOf x.width x.m0
    s.mbxStOpen p ts = false →
      (s.winOpen p ts = true → exec (.fenceWin m) s = .next (s.setParty p { x with ctl := .stall })) ∧
      (s.winOpen p ts = false → ∃ s' y t z, RegionsEnd s p x ts s' y ∧ exec (.fenceWin m) s = .next t ∧ t.party? p = some z ∧
        (∀ e, e ∈ z.winWrites ↔ e ∈ x.winWrites ∧ e.1 ∉ ts) ∧ t.mem = s.mem ∧
        (∀ w win c tl, (∀ e ∈ x.winWrites, e.1 ∈ ts → e.2 = w) → (∃ e ∈ x.winWrites, e.1 ∈ ts) → s.window? w = some win → win.tl = some (c, tl) →
          (t.core c).doneOf tl = ((s.core c).doneOf tl + 1) % 2 ^ 64)))

/-- Control registers, the clock and the window fence. -/
def Obligations.ControlRegisters : Prop := Says.RegisterMap ∧ Says.ClockAndWindowFence

/-- The steps of a lane: CLAUSE_ENTRY enters a clause once no flag of its wait mask is set; LANE_PICK lets the ready party with the smallest
issue age issue; NAP_TIMEOUT ends a nap whose lane-cycles are over; WATCHDOG_EXPIRY raises 0x35 for a wait longer than the lodging's
period; DEBUG_HALT halts a party between groups (R69, R177, R283, R343, R344, R398). -/
def Obligations.LaneSteps : Prop :=
  (∀ (s : State) p x q pa, s.party? p = some x → x.place = some q → x.free = true → x.atClause = true → s.fetchLine x q.pkt = (s, .ok pa) →
    ((∀ k < 12, (s.loadN pa 4) / 2 ^ k % 2 = 1 → x.flagSet k = false) → (∀ f ∈ (s.core (coreNo x)).faults, f.party ≠ p) →
      exec (.clauseEntry p) s = .next (s.setParty p { x with entered := true }).wake) ∧
    ((∃ k < 12, (s.loadN pa 4) / 2 ^ k % 2 = 1 ∧ x.flagSet k = true) → exec (.clauseEntry p) s = .next s.wake)) ∧
  (∀ (s : State) lane p x, s.cur = none → (s.parties.map (fun e => e.1)).Nodup → s.party? p = some x → x.lane = lane → x.ready = true → x.giveWay = false →
    (∀ e ∈ s.parties, e.2.lane = lane → e.2.life = .resident → e.2.park = .none) →
    (∀ e ∈ s.parties, e.2.lane = lane → e.2.ready = true → e.1 ≠ p → e.2.giveWay = false ∧ (x.age < e.2.age ∨ x.age = e.2.age ∧ x.rslot < e.2.rslot)) →
    ∃ t, exec (.lanePick lane) s = .next t ∧ t.cur = some p ∧ t.mem = s.mem ∧
      t.party? p = some { x with gap := x.gap - 1, hold := false }) ∧
  (∀ (s : State) p x ls n a m, s.party? p = some x → x.park = .nap ls (some n) a m → x.life = .resident → n ≤ (s.now - x.parkedAt) / s.cycle →
    exec (.napTimeout p) s = .next (s.setParty p { x with park := .none, age := s.now, parkedAt := s.now }).wake) ∧
  (∀ (s : State) p x inst ph, s.party? p = some x → x.park = .barrier inst ph → x.life = .resident →
    2 * (s.lod x.fe).watchdog + x.parkedAt < s.now → ∃ r : TrapReq, r.cause = 0x35 ∧ r.epc = x.here ∧ r.mprev = x.pos.m0 ∧ r.mfault = x.pos.m0 ∧
    r.info = 0 ∧ exec (.watchdogExpiry p) s = .next ((s.setParty p { x with park := .none }).takeTrap p r).wake) ∧
  (∀ (s : State) p x, s.party? p = some x → x.life = .resident → s.cur ≠ some p → x.waitReqs = 0 → ∃ t y, exec (.debugHalt p) s = .next t ∧
    t.party? p = some y ∧ y.life = .halted ∧ y.regs = x.regs ∧ t.mem = s.mem ∧ t.pkg.notices = s.pkg.notices ++ [0x3C])

/-- Grids from queue to end: GRID_PLACEMENT takes the next grid when no launch is being placed, and its ranges cover its parties once;
DEFERRED_LAUNCH_ENQUEUE moves the oldest deferred record once the queue has room; GRID_END_FLUSH completes a grid whose parties have all
retired and whose writes are acknowledged (R31, R230, R312, R345, R346). -/
def Obligations.GridsFromQueueToEnd : Prop :=
  (∀ (s : State) fe g l', (s.lod fe).st = .running → s.openLaunch fe = none → (s.lod fe).nextGrid = some (g, l') → ∃ t n,
    exec (.gridPlacement fe) s = .next t ∧ sfind t.launches s.nextId = some n ∧ t.lod fe = l' ∧ t.nextId = s.nextId + 1 ∧ t.mem = s.mem ∧
    n.fe = fe ∧ n.desc = g.desc ∧ n.packet = g.packet ∧ n.alive = g.desc.count ∧ n.gang = decide (g.desc.scope ≠ 0) ∧ n.bars = [] ∧
    (1 ≤ l'.nq → l'.qb + l'.nq ≤ 128 → ∀ j < g.desc.count, ∃! u, u ∈ n.unplaced ∧ u.2.1 ≤ j ∧ j < u.2.1 + u.2.2 ∧ u.1 ∈ l'.quads)) ∧
  (∀ (s : State) fe g gs, (s.lod fe).deferred = g :: gs → (s.lod fe).launchQ.length < 4096 → ∃ t, exec (.deferredLaunchEnqueue fe) s = .next t ∧
    ∀ j, t.lod j = if j = fe then { s.lod fe with deferred := gs, launchQ := (s.lod fe).launchQ ++ [g] } else s.lod j) ∧
  (∀ (s : State) g l, sfind s.launches g = some l → l.alive = 0 → l.unplaced = [] →
    (∀ e ∈ s.reqs, e.2.openWrite = true → ∀ k ∈ s.crews, k.2.grid = some g → e.2.party ∉ k.2.parties) → ∃ t, exec (.gridEndFlush g) s = .next t ∧
    sfind t.launches g = none ∧ (∀ k ∈ t.crews, k.2.grid ≠ some g) ∧ t.mem = s.mem ∧
    ∀ k q, l.packet = some k → sfind s.packets k = some q → sfind t.packets k = some { q with stage := .complete })

/-- Crews come to their cores: CREW_ADMISSION seats a pending crew, and RESTORATION one that was switched out or evicted, on the core the rules
choose, while their lodging runs; TOKEN_RETURN gives a core's tokens back after an idle period; PERIOD_BOUNDARY ends every nap, and where no
crew waits changes nothing else (R30, R177, R346, R347, R351, R353). -/
def Obligations.CrewsComeToTheirCores : Prop :=
  (∀ (s : State) crew k c, s.crew? crew = some k → (s.lod k.fe).st = .running → s.coreFor k = some c → k.parties.Nodup →
    (k.life = .pending → k.gang = false → ∃ t, exec (.crewAdmission crew) s = .next t ∧ Seated s crew k c t) ∧
    (k.life = .switchedOut ∨ k.life = .evicted → ∃ t, exec (.restoration crew) s = .next t ∧ Seated s crew k c t)) ∧
  (∀ (s : State) c since, (s.core c).tokens = true → (s.core c).idleSince = some since → since + 20000 ≤ s.now →
    (∀ e ∈ (s.core c).mx, e.2.owner = none) → (∀ e ∈ s.crews, e.2.core = some c → e.2.life ≠ .resident) → ∃ t,
    exec (.tokenReturn c) s = .next t ∧ (∀ j, t.core j = if j = c then { s.core c with tokens := false } else s.core j) ∧
    t.pkg = { s.pkg with tokensHeld := s.pkg.tokensHeld - 2 } ∧ t.mem = s.mem) ∧
  (∀ (s : State), (s.pkg.periods + 1) * 20000 ≤ s.now → s.betweenGroups = true → (∀ e ∈ s.crews, e.2.life = .resident ∨ e.2.life = .retired) →
    (∀ e ∈ s.crews, s.crew? e.1 = some e.2) → ∃ t, exec .periodBoundary s = .next t ∧ t.pkg = { s.pkg with periods := s.now / 20000 } ∧
    t.mem = s.mem ∧ t.crews = s.crews ∧ ∀ p x, s.party? p = some x → t.party? p = some { x with
      hold := false
      park := match x.park with | .nap _ _ _ _ => .none | k => k })

/-- What the host writes: a doorbell moves the tail to a multiple of 64 inside the ring; the registers of BAR0, the recovery mailbox, the MSI-X
table and its enable take what their limits admit, and anything else changes nothing; unmasking a vector sends its pending message; a status
write clears the item bit, and after a failure resumes past the failed packet; a power cap from 1,200 W to 3,200 W is taken, with its pool
(R356, R358, R382, R385, R393, R398; offsets above BAR0 are log entry 35). -/
def Sys2Proof.Says.HostWritesRegisters : Prop :=
  (∀ (s : State) fe tail, ∃ t, exec (.doorbell fe tail) s = .next t ∧
    (fe ≤ 31 → tail.toNat % 64 = 0 → tail.toNat < (s.lod fe).stream.ringSize →
      StreamIs s fe { (s.lod fe).stream with tail := tail.toNat } t) ∧
    (31 < fe ∨ tail.toNat % 64 ≠ 0 ∨ (s.lod fe).stream.ringSize ≤ tail.toNat → t = s.wake)) ∧
  (∀ (s : State) fe v, fe ≤ 31 → v.toNat % 4096 = 0 → ∃ t, exec (.barRegisterWrite fe 0x08 v) s = .next t ∧
    StreamIs s fe { (s.lod fe).stream with ringBase := v, prefetched := [] } t) ∧
  (∀ (s : State) fe v k, fe ≤ 31 → (s.lod fe).stream.status = 0 → v.toNat % 2 ^ 32 = 2 ^ k → 12 ≤ k → k ≤ 26 → ∃ t,
    exec (.barRegisterWrite fe 0x10 v) s = .next t ∧ StreamIs s fe { (s.lod fe).stream with ringSize := 2 ^ k, prefetched := [] } t) ∧
  (∀ (s : State) off v, off % 8 = 0 → 0x200 ≤ off → off < 0x2000 → ∃ t m, exec (.barRegisterWrite 0 off v) s = .next t ∧
    PkgIs s { s.pkg with mailbox := m } t ∧
    ∀ a, sget 0 m a = if off ≤ a ∧ a < off + 8 then v.extractLsb' (8 * (a - off)) 8 else sget 0 s.pkg.mailbox a) ∧
  (∀ (s : State) fe off v, fe ≤ 31 → off % 8 = 0 → 0x10000 ≤ off → off < 0x10200 → ∃ t m, exec (.barRegisterWrite fe off v) s = .next t ∧
    StreamIs s fe { (s.lod fe).stream with msix := m } t ∧
    (∀ j, sget 0 m.table j = if j = (off - 0x10000) / 8 then v else sget 0 (s.lod fe).stream.msix.table j) ∧
    (∀ j < 32, m.masked.getLsbD j = if off % 16 = 8 ∧ j = (off - 0x10000) / 16 then v.getLsbD 32
      else (s.lod fe).stream.msix.masked.getLsbD j)) ∧
  (∀ (s : State) fe v, fe ≤ 31 → ∃ t m, exec (.barRegisterWrite fe 0x20000 v) s = .next t ∧
    StreamIs s fe { (s.lod fe).stream with msix := m } t ∧ m.enabled = v.getLsbD 15 ∧ m.masked = (s.lod fe).stream.msix.masked ∧
    m.table = (s.lod fe).stream.msix.table ∧
    ∀ j < 32, m.pending.getLsbD j = ((s.lod fe).stream.msix.pending.getLsbD j && !(m.enabled && !m.masked.getLsbD j))) ∧
  (∀ (s : State) fe off v, 31 < fe ∨ off % 8 ≠ 0 ∨ 0x10200 ≤ off ∧ off ≠ 0x20000 ∨ (fe ≠ 0 ∧ 0x18 ≤ off ∧ off < 0x10000) →
    exec (.barRegisterWrite fe off v) s = .next s.wake) ∧
  (∀ (s : State) fe v, fe ≤ 31 → v ≤ 31 → ∃ t m, exec (.msixUnmask fe v) s = .next t ∧ StreamIs s fe { (s.lod fe).stream with msix := m } t ∧
    (∀ j < 32, m.masked.getLsbD j = ((s.lod fe).stream.msix.masked.getLsbD j && decide (j ≠ v))) ∧
    m.sent = (s.lod fe).stream.msix.sent ++
      (if m.enabled = true ∧ (s.lod fe).stream.msix.pending.getLsbD v = true then [v] else []) ∧
    ∀ j < 32, m.pending.getLsbD j = ((s.lod fe).stream.msix.pending.getLsbD j && !(decide (j = v) && m.enabled))) ∧
  (∀ (s : State) fe, fe ≤ 31 → ∃ t st, exec (.statusResume fe) s = .next t ∧ StreamIs s fe st t ∧ st.failed = false ∧ st.item = false ∧
    ((s.lod fe).stream.failed = false → st = { (s.lod fe).stream with item := false }) ∧
    ((s.lod fe).stream.failed = true → st.code = 0 ∧ st.skip = 0 ∧
      ((s.lod fe).stream.levels = [] → (s.lod fe).stream.looping = none → (s.lod fe).stream.skip ≠ 0 →
        st.head = ((s.lod fe).stream.head + (s.lod fe).stream.skip) % (s.lod fe).stream.ringSize))) ∧
  (∀ (s : State) w, (1200 ≤ w.toNat → w.toNat ≤ 3200 → ∃ t, exec (.powerCap w) s = .next t ∧ PkgIs s { s.pkg with
      cap := w.toNat
      pool := if s.pkg.lowering then min s.pkg.pool (1024 * w.toNat / 3200) else 1024 * w.toNat / 3200 } t) ∧
    (w.toNat < 1200 ∨ 3200 < w.toNat → exec (.powerCap w) s = .next s.wake))

/-- Power, budgets and ports: an average above the cap lowers the token pool by 32 a sample until it falls below the cap, then it rises by 32 to
its bound; a budget period begins with nothing spent; a failed port is routed around and recorded; a failed flit is repeated (R354, R364,
R398; the record's code 0x44 is the model's choice, log entry 75). -/
def Sys2Proof.Says.PowerBudgetsAndPorts : Prop :=
  (∀ (s : State) w a, ∃ t low, exec (.powerSample w a) s = .next t ∧ (low = true ↔ s.pkg.cap < a ∨ s.pkg.lowering = true ∧ a = s.pkg.cap) ∧
    PkgIs s { s.pkg with
      lowering := low
      pool := if low then s.pkg.pool - 32 else min (1024 * s.pkg.cap / 3200) (s.pkg.pool + 32) } t) ∧
  (∀ (s : State), (s.pkg.budgetPeriods + 1) * 20000 ≤ s.now → ∃ t, exec .budgetPeriod s = .next t ∧
    PkgIs s { s.pkg with spent := [], noticed := [], budgetPeriods := s.now / 20000 } t) ∧
  (∀ (s : State) p, p ≤ 127 → p ∉ s.pkg.portsDown → ∃ t, exec (.portFailure p) s = .next t ∧
    LogIs s { s.pkg with portsDown := s.pkg.portsDown ++ [p] } 0x44 0xFF p 0 t) ∧
  (∀ (s : State) p, p ≤ 127 → ∃ t, exec (.failedFlit p) s = .next t ∧ PkgIs s { s.pkg with flitRepeats := s.pkg.flitRepeats + 1 } t)

/-- What the host writes, and the package's power, budgets and ports. -/
def Obligations.HostWritesAndPackage : Prop := Says.HostWritesRegisters ∧ Says.PowerBudgetsAndPorts

/-- A front end starts the packet at its place: one that runs past the valid packets, or whose header or body breaks a limit, fails the stream
there; a packet with a wait stands at it; otherwise its predicate decides whether its body comes, and the place moves past it. A buffer or a pass
of a loop whose end is reached is left (R386, R387, R391, R393). -/
def Sys2Proof.Says.PacketsStart : Prop :=
  (∀ (s : State) fe h st, (s.lod fe).stream = st → (s.lod fe).st = .running → st.failed = false → st.cur = none → st.levels = [] →
    st.looping = none → st.avail ≠ 0 → s.unit fe (st.unitAt 0) = some h → ∃ t, exec (.packetStart fe) s = .next t ∧
    let n := unitsOf (numOf h)
    let k : List Byte → Packet := fun bs => ⟨fe, st.place, bs, .wait, none, none⟩
    (st.avail < 64 * n → StreamIs s fe (failed st 0x02 st.avail st.place) t) ∧
    (64 * n ≤ st.avail → ∀ bs, s.units fe ((List.range n).map (fun i => st.unitAt (64 * i))) = some bs →
      (∀ c, packetCode (numOf bs) = some c → StreamIs s fe (failed st c (64 * n) st.place) t) ∧
      (packetCode (numOf bs) = none → t.mem = s.mem ∧ t.parties = s.wake.parties ∧
        ((k bs).flag 10 = true → sfind t.packets s.nextId = some (k bs) ∧ (t.lod fe).stream.cur = some s.nextId ∧
          (t.lod fe).stream.head = st.head) ∧
        ((k bs).flag 10 = false → (k bs).flag 12 = false → sfind t.packets s.nextId = some { k bs with stage := .body } ∧
          (t.lod fe).stream.cur = some s.nextId ∧ (t.lod fe).stream.head = (st.head + bs.length) % st.ringSize) ∧
        (∀ pa, (k bs).flag 10 = false → (k bs).flag 12 = true → s.fePa fe false .plain ((k bs).dword 0x18) = some pa →
          let go := (k bs).test (littleEndian ((bytesIn [(pa, 8)]).map s.byteAt))
          sfind t.packets s.nextId = some { k bs with stage := if go then .body else .complete } ∧
          (t.lod fe).stream.cur = (if go then some s.nextId else none) ∧
          (t.lod fe).stream.head = (st.head + bs.length) % st.ringSize)))) ∧
  (∀ (s : State) fe l ls k, (s.lod fe).st = .running → (s.lod fe).stream.failed = false → (s.lod fe).stream.cur = none →
    (s.lod fe).stream.levels = l :: ls → (s.lod fe).stream.looping = none → l.next = l.limit → sfind s.packets l.packet = some k →
    ∃ t, exec (.packetStart fe) s = .next t ∧ (t.lod fe).stream = { (s.lod fe).stream with levels := ls } ∧ t.mem = s.mem ∧
      sfind t.packets l.packet = some { k with stage := if (∃ c ∈ t.packets, c.2.parent = some l.packet) then .closing else .complete }) ∧
  (∀ (s : State) fe l, (s.lod fe).st = .running → (s.lod fe).stream.failed = false → (s.lod fe).stream.cur = none →
    (s.lod fe).stream.levels = [] → (s.lod fe).stream.looping = some l → l.depth = 0 → l.left = 0 →
    ∃ t, exec (.packetStart fe) s = .next t ∧ t.mem = s.mem ∧
      (1 < l.passes → StreamIs s fe { (s.lod fe).stream with
        head := (l.first - (s.lod fe).stream.ringBase).toNat
        looping := some { l with left := l.bodyLen, passes := l.passes - 1 } } t) ∧
      (l.passes ≤ 1 → (t.lod fe).stream = { (s.lod fe).stream with looping := none }))

/-- The dependences of a packet: its wait empties a full word and the packet starts, or it stands in the word's FIFO while the stream is blocked;
a stream blocked for 1 ms raises vector 2 once; a complete packet fills its signal word and leaves, with vector 1 where its header asks for it
(R307, R358, R387, R390). -/
def Sys2Proof.Says.PacketDependences : Prop :=
  (∀ (s : State) fe n k pa, (s.lod fe).stream.cur = some n → sfind s.packets n = some k → k.stage = .wait → k.waitReq = none →
    (s.lod fe).st = .running → (s.lod fe).stream.failed = false → s.fePa fe true .mailbox (k.dword 0x08) = some pa →
    (s.isFull pa = true → k.flag 12 = false → ∃ t, exec (.packetWait fe) s = .next t ∧
      t.isFull pa = false ∧ (∀ a, t.byteAt a = s.byteAt a) ∧ sfind t.packets n = some { k with stage := .body } ∧
      (t.lod fe).stream.cur = some n ∧ ((s.lod fe).stream.levels = [] → (s.lod fe).stream.looping = none →
        (t.lod fe).stream.head = ((s.lod fe).stream.head + k.bytes.length) % (s.lod fe).stream.ringSize)) ∧
    (s.isFull pa = false → ∃ t r, exec (.packetWait fe) s = .next t ∧ t.mem = s.mem ∧ sfind t.reqs s.nextId = some r ∧
      r.phase = .waiting ∧ r.kind = .mbxLd ∧ r.pieces = [(pa, 8)] ∧ r.fe = fe ∧
      sfind t.packets n = some { k with waitReq := some s.nextId } ∧
      StreamIs { s with packets := t.packets, reqs := t.reqs, nextId := t.nextId } fe { (s.lod fe).stream with blockedAt := some s.now } t)) ∧
  (∀ (s : State) fe n k r q v, (s.lod fe).stream.cur = some n → sfind s.packets n = some k → k.stage = .wait → k.waitReq = some r →
    (s.lod fe).st = .running → (s.lod fe).stream.failed = false → sfind s.reqs r = some q → q.phase = .reply v → k.flag 12 = false →
    ∃ t, exec (.packetWait fe) s = .next t ∧ t.mem = s.mem ∧ sfind t.reqs r = none ∧
      sfind t.packets n = some { k with stage := .body, waitReq := none } ∧ (t.lod fe).stream.blockedAt = none) ∧
  (∀ (s : State) fe since, (s.lod fe).stream.blockedAt = some since → since + 2000000 ≤ s.now → (s.lod fe).stream.noticed = false →
    ∃ t, exec (.blockedOnDependence fe) s = .next t ∧
      StreamIs s fe { (s.lod fe).stream with noticed := true, msix := raised (s.lod fe).stream.msix 2 } t) ∧
  (∀ (s : State) n k, sfind s.packets n = some k → k.stage = .complete → k.flag 11 = false → ∃ t, exec (.packetSignal n) s = .next t ∧
    sfind t.packets n = none ∧ t.mem = s.mem ∧ t.pkg = { s.pkg with checkpoint := s.pkg.checkpoint + 1 } ∧
    (t.lod k.fe).stream.msix = if k.flag 15 then raised (s.lod k.fe).stream.msix 1 else (s.lod k.fe).stream.msix) ∧
  (∀ (s : State) n k pa, sfind s.packets n = some k → k.stage = .complete → k.flag 11 = true → k.waitReq = none →
    s.fePa k.fe true .mailbox (k.dword 0x10) = some pa → s.isFull pa = false → s.oldestSt pa = none →
    (∀ fe, ∀ w ∈ (s.lod fe).mbxWakes, w.1 ≠ pa) → ∃ t, exec (.packetSignal n) s = .next t ∧
    sfind t.packets n = none ∧ Fills s 0 pa (k.dword 0x28) t)

/-- How a front end starts packets, and their dependences. -/
def Obligations.PacketsStartAndDepend : Prop := Says.PacketsStart ∧ Says.PacketDependences

/-- What packets do (R388 to R392): NOP completes; GRID queues its grid, and completes with it; COPY moves bytes between host and device memory;
IB runs its buffer, and a third level fails; LOOP runs the packets after it, and a loop in a loop fails; FFENCE discards what was fetched ahead;
MSG hands its payload to the bridge; COLL and INVAL begin their work; AGENTS sets up the agent area, unless an agent is allocated. -/
def Sys2Proof.Says.PlainBodies : Prop :=
  (∀ s fe n k, AtBody s fe n 0x00 k → ∃ t, exec (.nopPacket fe) s = .next t ∧ BodyDone fe n k true t ∧ t.mem = s.mem ∧
    (t.lod fe).stream = { (s.lod fe).stream with cur := none }) ∧
  (∀ s fe n k, AtBody s fe n 0x01 k → ∃ t, exec (.grid fe) s = .next t ∧
    (∀ d, s.gridDesc fe (k.field 0x40 64) = some d → BodyDone fe n k false t ∧ t.mem = s.mem ∧
      (t.lod fe).queue = (s.lod fe).queue ++ [⟨d, some n⟩]) ∧
    (s.gridDesc fe (k.field 0x40 64) = none → BodyFails s fe n k 0x02 t)) ∧
  (∀ s fe n k, AtBody s fe n 0x02 k →
    (∀ bs, k.field 0x48 1 % 2 = 0 → s.feTake fe (k.dword 0x30) (k.field 0x40 8) = some (bs, s) → ∃ t, exec (.copy fe) s = .next t ∧
      BodyDone fe n k true t ∧ t.mem = { s.mem with host := t.mem.host } ∧
      ∀ a, sget 0 t.mem.host a = if (k.dword 0x38).toNat ≤ a ∧ a < (k.dword 0x38).toNat + bs.length then bs.getD (a - (k.dword 0x38).toNat) 0
        else sget 0 s.mem.host a) ∧
    (k.field 0x48 1 % 2 = 1 → s.feWritable fe (k.dword 0x38) (k.field 0x40 8) = true →
      TablesStand s fe (k.dword 0x38) (k.field 0x40 8) none → ∃ t, exec (.copy fe) s = .next t ∧ BodyDone fe n k true t ∧
      t.mem.host = s.mem.host ∧
      FeWritten s fe (k.dword 0x38) ((List.range (k.field 0x40 8)).map (fun i => sget 0 s.mem.host ((k.dword 0x30).toNat + i))) t) ∧
    (k.field 0x48 1 % 2 = 1 → s.feWritable fe (k.dword 0x38) (k.field 0x40 8) = false → ∃ t, exec (.copy fe) s = .next t ∧
      BodyFails s fe n k 0x03 t)) ∧
  (∀ s fe n k, AtBody s fe n 0x03 k → ∃ t, exec (.ib fe) s = .next t ∧
    ((s.lod fe).stream.levels.length < 2 → BodyDone fe n k false t ∧ t.mem = s.mem ∧ (t.lod fe).stream = { (s.lod fe).stream with
      cur := none, levels := ⟨n, k.dword 0x30, k.dword 0x30 + k.dword 0x38⟩ :: (s.lod fe).stream.levels }) ∧
    (2 ≤ (s.lod fe).stream.levels.length → BodyFails s fe n k 0x04 t)) ∧
  (∀ s fe n k, AtBody s fe n 0x04 k → ∃ t, exec (.loopPacket fe) s = .next t ∧
    ((s.lod fe).stream.looping = none → BodyDone fe n k false t ∧ t.mem = s.mem ∧ (t.lod fe).stream = { (s.lod fe).stream with
      cur := none
      looping := some ⟨n, (s.lod fe).stream.levels.length, (s.lod fe).stream.place, k.field 0x38 8, k.field 0x38 8, k.field 0x30 8⟩ }) ∧
    ((s.lod fe).stream.looping ≠ none → BodyFails s fe n k 0x04 t)) ∧
  (∀ s fe n k, AtBody s fe n 0x05 k → ∃ t, exec (.ffence fe) s = .next t ∧ BodyDone fe n k true t ∧ t.mem = s.mem ∧
    (t.lod fe).stream = { (s.lod fe).stream with cur := none, prefetched := [] }) ∧
  (∀ s fe n k pa, AtBody s fe n 0x06 k → k.field 0x30 1 = 1 ∧ k.field 0x31 1 = 0 ∨ k.field 0x30 1 = 2 ∧ fe = 0 ∧ k.field 0x31 1 ≤ 31 →
    s.fePa fe true .mailbox (k.dword 0x48) = some pa → ∃ t, exec (.inval fe) s = .next t ∧ BodyDone fe n k false t ∧ t.mem = s.mem ∧
    sfind t.invals s.nextId = some ⟨fe, if k.field 0x30 1 = 1 then fe else k.field 0x31 1, k.field 0x30 1, k.field 0x38 8, k.field 0x40 8,
      k.dword 0x48, n, [], []⟩) ∧
  (∀ s fe n k pa bs, AtBody s fe n 0x07 k →
    let ms := sget [] s.pkg.groups (k.field 0x30 4)
    let op := k.field 0x34 1
    let ty := k.field 0x35 1
    let len := k.field 0x48 8
    s.pkg.number ∈ ms → (op = 0 ∧ ty ≤ 2 ∨ op = 1 ∧ (ty = 0 ∨ ty = 2) ∨ (op = 2 ∨ op = 3) ∧ ty = 3) → k.field 0x36 2 < ms.length →
    len % collSize ty = 0 → k.field 0x50 8 % 8 = 0 → s.feTake fe (k.dword 0x38) len = some (bs, s) →
    s.fePa fe true .mailbox (k.dword 0x50) = some pa → s.feWritable fe (k.dword 0x40) (if op = 3 then len * ms.length else len) = true →
    ∃ t, exec (.coll fe) s = .next t ∧ BodyDone fe n k false t ∧ t.mem = s.mem ∧
      ∃ c, sfind t.colls s.nextId = some c ∧ c.fe = fe ∧ c.packet = n ∧ c.group = k.field 0x30 4 ∧ c.op = op ∧ c.ty = ty ∧
        c.root = k.field 0x36 2 ∧ c.dst = k.dword 0x40 ∧ c.len = len ∧ c.word = k.dword 0x50 ∧
        sget [] c.contrib (ms.idxOf s.pkg.number) = bs) ∧
  (∀ s fe n k bs, AtBody s fe n 0x08 k → s.feTake fe (k.dword 0x48) (k.field 0x50 8) = some (bs, s) → ∃ t, exec (.msg fe) s = .next t ∧
    BodyDone fe n k true t ∧ t.mem = s.mem ∧ t.msgsOut = s.msgsOut ++ [⟨k.field 0x30 8, k.field 0x38 8, k.dword 0x40, bs, fe⟩]) ∧
  (∀ s fe n k, AtBody s fe n 0x0A k → s.anyAgent fe = true ∨ (s.lod fe).poolUsed ≠ 0 → ∃ t, exec (.agents fe) s = .next t ∧
    BodyFails s fe n k 0x02 t) ∧
  (∀ s fe n k u v, AtBody s fe n 0x0A k → s.anyAgent fe = false → (s.lod fe).poolUsed = 0 →
    (k.dword 0x30).toNat % 4096 = 0 → 1 ≤ k.field 0x38 8 → k.field 0x38 8 ≤ 16777215 → (k.dword 0x40).toNat % 4096 = 0 →
    1 ≤ k.field 0x48 8 → k.field 0x48 8 < 2 ^ 32 →
    (s.onLod fe (fun l => { l with
      agentBase := k.dword 0x30, hmax := k.field 0x38 8, heads := [], poolBase := k.dword 0x40, poolCount := k.field 0x48 8
      poolHead := k.dword 0x40, poolUsed := 0 })).freeChains fe (k.field 0x38 8) (s.lod fe).quads = some u →
    u.freeBlocks fe (k.dword 0x40) (k.field 0x48 8) = some v → ∃ t, exec (.agents fe) s = .next t ∧ BodyDone fe n k true t ∧ t.mem = v.mem ∧
    (t.lod fe).agentBase = k.dword 0x30 ∧ (t.lod fe).hmax = k.field 0x38 8 ∧ (t.lod fe).poolBase = k.dword 0x40 ∧
    (t.lod fe).poolHead = k.dword 0x40 ∧ (t.lod fe).poolUsed = 0 ∧
    ∀ q ∈ (s.lod fe).quads, let hs := ((List.range (k.field 0x38 8)).map (· + 1)).filter (fun h => (s.lod fe).agentHome h == q)
      sget (0, 0) (t.lod fe).heads q = (hs.headD 0, hs.getLastD 0))

/-- Regions: an accepted layout gets a place in the lodging's own blocks that meets no other region, and its base goes to the result word; a
layout that firmware does not accept, or no place for it, fails with 0x05. A region is destroyed by the base in its result word (R334, R388,
R397; log entry 39). -/
def Sys2Proof.Says.RegionPackets : Prop :=
  (∀ s fe n k pa, AtBody s fe n 0x09 k → k.field 0x30 8 = 0 → layoutOk (k.dword 0x38) (k.field 0x40 8) = true →
    (s.pkg.service ≠ .reduced ∨ (k.dword 0x38).toNat % 4 = 0) → s.regionPlaces fe (k.field 0x40 8) ≠ [] →
    s.fePa fe true .plain (k.dword 0x48) = some pa → ∃ t base, exec (.regionCreate fe) s = .next t ∧ BodyDone fe n k true t ∧
    s.regionFree fe base (k.field 0x40 8) = true ∧ t.mem.regions = s.mem.regions ++ [⟨fe, base, k.field 0x40 8, k.dword 0x38⟩] ∧
    Stored s (bytesIn [(pa, 8)]) base t) ∧
  (∀ s fe n k, AtBody s fe n 0x09 k → k.field 0x30 8 = 0 →
    layoutOk (k.dword 0x38) (k.field 0x40 8) = false ∨ s.regionPlaces fe (k.field 0x40 8) = [] ∨
      s.pkg.service = .reduced ∧ (k.dword 0x38).toNat % 4 ≠ 0 → ∃ t, exec (.regionCreate fe) s = .next t ∧ BodyFails s fe n k 0x05 t) ∧
  (∀ s fe n k pa, AtBody s fe n 0x09 k → k.field 0x30 8 = 1 → s.fePa fe false .plain (k.dword 0x48) = some pa →
    let base := littleEndian ((bytesIn [(pa, 8)]).map s.byteAt)
    ∃ t, exec (.regionDestroy fe) s = .next t ∧
      ((∃ r ∈ s.mem.regions, r.fe = fe ∧ r.base = base) → BodyDone fe n k true t ∧ (∀ a, t.byteAt a = s.byteAt a) ∧
        ∀ r, r ∈ t.mem.regions ↔ r ∈ s.mem.regions ∧ ¬ (r.fe = fe ∧ r.base = base)) ∧
      ((∀ r ∈ s.mem.regions, r.fe = fe → r.base ≠ base) → BodyFails s fe n k 0x05 t))

/-- What packets do, region packets among them. -/
def Obligations.PacketBodies : Prop := Says.PlainBodies ∧ Says.RegionPackets

/-- Translations and work that completes later: a walk fills its quad's translation cache; an invalidation that reaches a quad leaves no covered
entry there, and once it has reached every quad, with no older access open, fills its completion word; a collective writes its result and fills
its word; a message stands after its ring's word and fills it (R362, R363, R365, R366; log entries 6, 38). -/
def Obligations.WalksInvalidationsAndCollectives : Prop :=
  (∀ (s : State) quad fe va w, quad ∈ (s.lod fe).quads → canonical va = true → s.walk fe va = .ok w → va.toNat % 2 ^ 16 ≤ w.walk.pa → ∃ t,
    exec (.pageWalk quad fe va) s = .next t ∧ t = { s.wake with quads := t.quads } ∧ (∀ q, q ≠ quad → t.quad q = s.quad q) ∧
    t.translate fe quad va = .ok w) ∧
  (∀ (s : State) n i quad, sfind s.invals n = some i → quad ∉ i.arrived → quad ∈ (s.lod i.target).quads → ∃ t,
    exec (.invalidationArrival n quad) s = .next t ∧ t.mem = s.mem ∧
    (∀ e ∈ (t.quad quad).tlb, e ∈ (s.quad quad).tlb ∧ ¬ (e.fe = i.target ∧ (i.stage = 2 ∨ i.count = 0 ∨ i.first ≤ e.page ∧ e.page < i.first + i.count))) ∧
    (∀ q, q ≠ quad → t.quad q = s.quad q) ∧ ∃ older, sfind t.invals n = some { i with arrived := i.arrived ++ [quad], older := i.older ++ older }) ∧
  (∀ (s : State) n i pa k, sfind s.invals n = some i → (∀ q ∈ (s.lod i.target).quads, q ∈ i.arrived) →
    (∀ m ∈ i.older, ∀ r, sfind s.reqs m = some r → r.phase ≠ .sent) → s.fePa i.fe true .mailbox i.word = some pa → s.isFull pa = false →
    s.oldestSt pa = none → (∀ fe, ∀ w ∈ (s.lod fe).mbxWakes, w.1 ≠ pa) → sfind s.packets i.packet = some k → ∃ t v,
    exec (.invalidationComplete n) s = .next t ∧ sfind t.invals n = none ∧ sfind t.packets i.packet = some { k with stage := .complete } ∧
    Fills s 0 pa v t) ∧
  (∀ (s : State) n c pa k, sfind s.colls n = some c → c.ready (sget [] s.pkg.groups c.group).length = true →
    s.throttled .collectives 0 = false → s.fePa c.fe true .mailbox c.word = some pa → s.isFull pa = false → s.oldestSt pa = none →
    (∀ fe, ∀ w ∈ (s.lod fe).mbxWakes, w.1 ≠ pa) → sfind s.packets c.packet = some k →
    let bs := c.result (sget [] s.pkg.groups c.group).length
    s.feWritable c.fe c.dst bs.length = true → TablesStand s c.fe c.dst bs.length (some c.word) → ∃ t u,
    exec (.collectiveComplete n) s = .next t ∧ sfind t.colls n = none ∧ sfind t.packets c.packet = some { k with stage := .complete } ∧
    FeWritten s c.fe c.dst bs u ∧ ∀ a, a ∉ bytesIn [(pa, 8)] → t.byteAt a = u.byteAt a) ∧
  (∀ (c : Collective) n, (c.op = 2 → c.result n = sget [] c.contrib c.root) ∧
    (c.op = 3 → c.result n = (List.range n).flatMap (sget [] c.contrib)) ∧
    (c.op = 0 → c.ty = 2 → n = 2 → ∀ i < c.len / 4, numOf (((c.result n).drop (4 * i)).take 4) =
      (numOf (((sget [] c.contrib 0).drop (4 * i)).take 4) + numOf (((sget [] c.contrib 1).drop (4 * i)).take 4)) % 2 ^ 32)) ∧
  (∀ (s : State) n m, sfind s.msgsIn n = some m →
    (s.fePa m.fe true .mailbox m.ringWord = none → ∃ t, exec (.messageReceive n) s = .next t ∧ sfind t.msgsIn n = none ∧ t.mem = s.mem) ∧
    (∀ pa, s.fePa m.fe true .mailbox m.ringWord = some pa → s.isFull pa = false → s.oldestSt pa = none →
      (∀ fe, ∀ w ∈ (s.lod fe).mbxWakes, w.1 ≠ pa) → TablesStand s m.fe (m.ringWord + 8) m.payload.length (some m.ringWord) → ∃ t u, exec (.messageReceive n) s = .next t ∧
      sfind t.msgsIn n = none ∧ FeWritten s m.fe (m.ringWord + 8) m.payload u ∧ ∀ a, a ∉ bytesIn [(pa, 8)] → t.byteAt a = u.byteAt a))

/-- Firmware's descriptors, blocks and libraries: a descriptor within its limits creates an inactive lodging with new keys, moves a saved one and
ends it; any other write changes nothing. An assigned block reads 0 and belongs to its new owner. A library whose header keeps R15 is installed
(R349, R369 to R372, R397). -/
def Sys2Proof.Says.DescriptorsBlocksAndLibraries : Prop :=
  (∀ (s : State) fe d, fe ≤ 31 → s.pkg.service ≠ .recovery → DescLimits fe d →
    (s.pkg.service = .reduced → d.toNat % 2 ^ 7 + d.toNat / 2 ^ 7 % 2 ^ 8 ≤ 32) → ∃ t, exec (.lodgingDescriptorWrite fe d) s = .next t ∧
    (d.getLsbD 36 = true → s.descApart fe d = true → (s.lod fe).desc.getLsbD 36 = false → t.mem = s.mem ∧ t.parties = s.wake.parties ∧
      t.pkg = { s.pkg with draws := s.pkg.draws + 2 } ∧ ∀ j, t.lod j = if j = fe then { Lodging.reset with
        desc := d, st := .running, root1 := (s.lod fe).root1, root2 := (s.lod fe).root2, watchdog := (s.lod fe).watchdog
        keyDraw := s.pkg.draws, kemDraw := s.pkg.draws + 1, stream := (s.lod fe).stream } else s.lod j) ∧
    (d.getLsbD 36 = true → s.descApart fe d = true → (s.lod fe).desc.getLsbD 36 = true → (s.lod fe).st = .saved →
      LodIs s fe { s.lod fe with desc := d } t) ∧
    (d.getLsbD 36 = false → (s.lod fe).desc.getLsbD 36 = true → (s.lod fe).st = .saved → s.windowsOf fe = [] →
      LodIs s fe { Lodging.reset with
        desc := d, root1 := (s.lod fe).root1, root2 := (s.lod fe).root2, watchdog := (s.lod fe).watchdog, stream := (s.lod fe).stream } t) ∧
    (d.getLsbD 36 = false → (s.lod fe).desc.getLsbD 36 = false → LodIs s fe { s.lod fe with desc := d } t) ∧
    ((s.lod fe).desc.getLsbD 36 = true → (s.lod fe).st ≠ .saved → t = s.wake) ∧
    (d.getLsbD 36 = true → s.descApart fe d = false → t = s.wake)) ∧
  (∀ (s : State) fe d, 31 < fe ∨ s.pkg.service = .recovery ∨ ¬ DescLimits fe d → exec (.lodgingDescriptorWrite fe d) s = .next s.wake) ∧
  (∀ (s : State) b o, (∀ w, sget Owner.free s.mem.owner b ≠ .window w) → (o = .free ∨ ∃ n, n < 32 ∧ o = .key n) →
    2 ^ 21 * b / 2 ^ 44 = s.pkg.number → s.backed (2 ^ 21 * b % 2 ^ 44) = true → ∃ t, exec (.blockAssign b o) s = .next t ∧
    t = { s.wake with mem := t.mem } ∧ ∀ a, t.ownerOf a = (if a / 2 ^ 21 = b then o else s.ownerOf a) ∧
      t.byteAt a = (if a / 2 ^ 21 = b then 0 else s.byteAt a) ∧ (a / 2 ^ 21 = b → t.isFull a = false) ∧
      (a / 2 ^ 21 ≠ b → t.isFull a = s.isFull a)) ∧
  (∀ (s : State) b o w, sget Owner.free s.mem.owner b = .window w → exec (.blockAssign b o) s = .next s.wake) ∧
  (∀ (s : State) fe base prio shape, (s.lod fe).desc.getLsbD 36 = true → s.libAt fe (s.lod fe).qb base 0x30 4 = some shape → shape % 4 ≠ 3 →
    1 ≤ shape / 2 ^ 8 % 128 → shape / 2 ^ 8 % 128 ≤ 64 → 16 * 2 ^ (shape % 4) * (16 * (shape / 2 ^ 8 % 128)) ≤ 8192 → ∃ t,
    exec (.libraryInstall fe base prio) s = .next t ∧ LodIs s fe { s.lod fe with lib := some base, planPrio := prio.toNat } t)

/-- Windows, pinned lines and reports: a window within its limits opens when no live region has a record in it, and its blocks are shared under a
new key; closing one gives the blocks back to their owner; pinned lines stand in the cellar until they are unpinned; a report carries the
nonce and the state it measures, under the device's signature (R317, R318, R330, R371, R372, R377, R378, R380). -/
def Sys2Proof.Says.WindowsPinsAndReports : Prop :=
  (∀ (s : State) q, ∃ t, exec (.winOpen q) s = .next t ∧
    (s.winWithin q = false → t = s.wake) ∧
    ((∃ g ∈ s.tags, q.base ≤ 4 * g.granule ∧ 4 * g.granule < q.base + q.len) → t = s.wake) ∧
    (s.winWithin q = true → (∀ g ∈ s.tags, 4 * g.granule < q.base ∨ q.base + q.len ≤ 4 * g.granule) →
      (∃ w < 64, s.window? w = none) → ∃ w < 64, s.window? w = none ∧ (∀ a, t.byteAt a = s.byteAt a) ∧ t.parties = s.wake.parties ∧
        t.pkg = { s.pkg with draws := s.pkg.draws + 1 } ∧
        (∀ j, t.window? j = if j = w then some ⟨q.owner, q.guest, q.base, q.len, q.write, q.tl, s.pkg.draws⟩ else s.window? j) ∧
        ∀ a, t.ownerOf a = if q.base ≤ a ∧ a < q.base + q.len then .window w else s.ownerOf a)) ∧
  (∀ (s : State) w, s.window? w = none → exec (.winClose w) s = .next s.wake) ∧
  (∀ (s : State) w x, s.window? w = some x → x.base % 2 ^ 21 = 0 → x.len % 2 ^ 21 = 0 → ∃ t, exec (.winClose w) s = .next t ∧
    t.window? w = none ∧ (∀ a, t.ownerOf a = if x.base ≤ a ∧ a < x.base + x.len then .key x.owner else s.ownerOf a) ∧
    ((∀ e ∈ s.reqs, e.2.win = true → e.2.phase ≠ .unacked) → ∀ a, t.byteAt a = s.byteAt a)) ∧
  (∀ (s : State) fe base len, base % 64 = 0 → len % 64 = 0 → base % 2 ^ 44 < 2 ^ 42 →
    (∀ a, base ≤ a → a < base + len → s.ownerOf a = .key fe) → s.pinsFit fe (linesIn base len) = true → ∃ t,
    exec (.cellarPin fe base len) s = .next t ∧ t = { s.wake with mem := { s.mem with cellar := t.mem.cellar } } ∧
    (∀ l, base ≤ 64 * l → 64 * l < base + len → ∃ c, sget none t.mem.cellar l = some c ∧ c.pinned = true) ∧
    ∀ l, 64 * l < base ∨ base + len ≤ 64 * l → sget none t.mem.cellar l = sget none s.mem.cellar l) ∧
  (∀ (s : State) fe base len, ∃ t, exec (.cellarUnpin fe base len) s = .next t ∧ (∀ a, t.byteAt a = s.byteAt a) ∧
    ∀ l c, l ∈ linesIn base len → s.ownerOf (64 * l) = .key fe → sget none t.mem.cellar l = some c → c.pinned = false) ∧
  (∀ (s : State) fe nonce, (s.lod fe).desc.getLsbD 36 = true → ∃ t r, exec (.attestationReport fe nonce) s = .next t ∧
    LodIs s fe { s.lod fe with report := some r } t ∧ r.nonce = nonce ∧ r.measurement = Config.shake256 s.runningImage ∧
    r.descriptor = (s.lod fe).desc ∧ r.windows = s.windowsOf fe ∧ r.kemKey = Config.kemKey (s.lod fe).kemDraw ∧
    r.identity = Config.identityKey ∧ r.signature = Config.falconSign (reportBody r))

/-- Firmware commands: descriptors, blocks, libraries, windows, pins and reports. -/
def Obligations.FirmwareCommands : Prop := Says.DescriptorsBlocksAndLibraries ∧ Says.WindowsPinsAndReports

/-- Lines between the cellar and memory: a dirty line that is written raises its counter and is stored under it, and a minor counter that
overflows starts the block again under the next major; a line that leaves its slice stands there no more; one that is read stands there, its
tag checked; the patrol scrubber poisons a line whose cells fail, and lets any other stand (R329, R342, R373 to R376). No byte changes. -/
def Obligations.LinesAndMemory : Prop :=
  (∀ (s : State) l c, sget none s.mem.cellar l = some c → c.dirty = true → s.pkg.service ≠ .reduced → l / 2 ^ 38 = s.pkg.number →
    s.countersDone (64 * l) = false → ∃ t, exec (.lineWriteMemory l) s = .next t ∧ (∀ a, t.byteAt a = s.byteAt a) ∧
    sget none t.mem.cellar l = some { c with dirty := false } ∧
    let old := sget Counters.reset s.mem.counters (l / 64)
    let new := sget Counters.reset t.mem.counters (l / 64)
    (sget 0 old.minor (l % 64) < 127 → new.major = old.major ∧
      (∀ i, sget 0 new.minor i = if i = l % 64 then sget 0 old.minor i + 1 else sget 0 old.minor i) ∧
      sget none t.mem.dram l = s.sealedLine l old.major (sget 0 old.minor (l % 64) + 1) ∧
      ∀ j, j ≠ l → sget none t.mem.dram j = sget none s.mem.dram j) ∧
    (127 ≤ sget 0 old.minor (l % 64) → new.major = old.major + 1 ∧ (∀ i, sget 0 new.minor i = 0) ∧
      ∀ j, j / 64 = l / 64 → sget none t.mem.dram j = s.sealedLine j (old.major + 1) 0)) ∧
  (∀ (s : State) l c, sget none s.mem.cellar l = some c → s.lineHeld l = false → ∃ t, exec (.lineWriteback l) s = .next t ∧
    sget none t.mem.cellar l = none ∧ ∀ a, t.byteAt a = s.byteAt a) ∧
  (∀ (s : State) l c, sget none s.mem.cellar l = some c → s.lineHeld l = true → exec (.lineWriteback l) s = .next s.wake) ∧
  (∀ (s : State) l, sget none s.mem.cellar l = none → s.upset = .none → ∃ t, exec (.lineReadMemory l) s = .next t ∧
    sget none t.mem.cellar l = some ⟨false, false⟩ ∧ (∀ a, t.byteAt a = s.byteAt a) ∧
    sget false t.mem.badTag l = (sget false s.mem.badTag l || !s.tagGood l)) ∧
  (∀ (s : State) l, s.throttled .scrub 0 = false → s.upset = .none → ∃ t, exec (.patrolScrub l) s = .next t ∧
    (sget false s.mem.badCells l = false ∨ sget none s.mem.poison l ≠ none → t.mem = s.mem ∧ t.pkg.log = s.pkg.log) ∧
    (sget false s.mem.badCells l = true → sget none s.mem.poison l = none → s.pkg.log.length ≤ 4096 →
      sget none t.mem.poison l = some 0 ∧ ∃ q, t.pkg.log.getLast? = some ⟨s.now / 2, 0x14, 0xFF, 0, q, BitVec.ofNat 128 (64 * l)⟩) ∧
    sget 0 t.pkg.spent 128 = sget 0 s.pkg.spent 128 + 1)

/-- Saving and restoring: a lodging whose engines stand at their boundaries is saved whole, and nothing of it is left in the machine; a save area
that fails loses it; a saved lodging returns, each party as it was, when its cores are free (R279, R280, R369). -/
def Sys2Proof.Says.LodgingsAreSavedAndRestored : Prop :=
  (∀ (s : State) fe, (s.lod fe).st ≠ .running ∨ s.quiet fe = false → exec (.preemption fe) s = .next s.wake) ∧
  (∀ (s : State) fe, Tidy s → (s.lod fe).st = .running → s.quiet fe = true → ∃ t, exec (.preemption fe) s = .next t ∧ Absent fe t ∧
    (s.upset = .saveArea → (t.lod fe).st = .lost ∧ (t.lod fe).image = none ∧ (t.lod fe).stream.failed = true ∧
      (t.lod fe).stream.code = 0x32) ∧
    (s.upset ≠ .saveArea → (t.lod fe).st = .saved ∧ (∀ a, t.byteAt a = s.byteAt a) ∧ OthersStand s fe t ∧
      ∃ i, (t.lod fe).image = some i ∧ i.qb = (s.lod fe).qb ∧ i.launches = s.launches.filter (fun e => e.2.fe == fe) ∧
        ∀ p x, s.party? p = some x → x.fe = fe → t.party? p = none ∧ ∃ y, sfind i.parties p = some y ∧ y.regs = x.regs ∧ y.tpc = x.tpc ∧
          y.csr = x.csr ∧ y.divs = x.divs ∧ y.calls = x.calls ∧ y.shadow = x.shadow ∧ y.left = x.left ∧ y.wb = x.wb ∧
          (y.life = if x.life = .halted then .halted else .saved))) ∧
  (∀ (s : State) fe i, (s.lod fe).st = .saved → (s.lod fe).desc.getLsbD 36 = true → (s.lod fe).image = some i →
    (i.parties.map (fun e => e.1)).Nodup → s.canReturn fe (i.move ⟨i.qb, (s.lod fe).qb, fe⟩) = true → ∃ t,
    exec (.lodgingRestore fe) s = .next t ∧ (t.lod fe) = { s.lod fe with st := .running, image := none } ∧
    Returned (i.move ⟨i.qb, (s.lod fe).qb, fe⟩) t ∧ (∀ a, t.byteAt a = s.byteAt a) ∧
    ∀ p x, s.party? p = some x → t.party? p = some { x with hold := false }) ∧
  (∀ (s : State) fe, (s.lod fe).st ≠ .saved → exec (.lodgingRestore fe) s = .next s.wake)

/-- Resets: a function-level reset leaves a lodging with its descriptor, its keys and its memory, and nothing else; a reset of the PF and a warm
reset do so to every lodging and restart the device, the Logbook standing; a cold reset leaves the state of power-on, but the firmware slots and
the anti-rollback counter (R268, R281, R357, R382, R385, R394; log entry 32). Windows that stand open are closed first (R379). -/
def Obligations.Resets : Prop :=
  (∀ (s : State) fe, 1 ≤ fe → fe ≤ 31 → s.windowsOf fe = [] → ∃ t, exec (.functionLevelReset fe) s = .next t ∧ Absent fe t ∧
    OthersStand s fe t ∧ t.mem = s.mem ∧ t.pkg = s.pkg ∧ (∀ e ∈ t.packets, e.2.fe ≠ fe) ∧ (∀ e ∈ t.reqs, e.2.fe ≠ fe) ∧
    t.lod fe = { Lodging.reset with
      desc := (s.lod fe).desc, st := if (s.lod fe).desc.getLsbD 36 then .running else .none, root1 := (s.lod fe).root1
      root2 := (s.lod fe).root2, watchdog := (s.lod fe).watchdog, keyDraw := (s.lod fe).keyDraw, kemDraw := (s.lod fe).kemDraw
      stream := { Stream.reset with msix := raised Msix.reset 3 } }) ∧
  (∀ (s : State) fe, fe = 0 ∨ 31 < fe → exec (.functionLevelReset fe) s = .next s.wake) ∧
  (∀ (s : State) i, i = .pfReset ∨ i = .warmReset → s.mem.windows = [] → ∃ t, exec i s = .next t ∧ t.mem = s.mem ∧ t.now = s.now ∧
    t.pkg = { s.pkg with
      service := .recovery, running := none, cap := 3200, pool := 1024, lowering := false, mismatchAt := none, mailbox := [] } ∧
    ∀ e ∈ s.lods, Absent e.1 t ∧ (t.lod e.1).queue = [] ∧ (t.lod e.1).image = none ∧ (t.lod e.1).desc = (s.lod e.1).desc) ∧
  (∀ (s : State), ∃ t, exec .coldReset s = .next t ∧ t.parties = [] ∧ t.crews = [] ∧ t.lods = [] ∧ t.cores = [] ∧ t.reqs = [] ∧
    (∀ a, t.byteAt a = 0 ∧ t.ownerOf a = .free) ∧ t.mem.host = s.mem.host ∧ t.now = 0 ∧ t.pkg.log = [] ∧ t.pkg.cap = 3200 ∧ t.pkg.pool = 1024 ∧
    t.pkg.service = .recovery ∧ t.pkg.injarm = 0 ∧ t.pkg.slots = s.pkg.slots ∧ t.pkg.antiRollback = s.pkg.antiRollback)

/-- Boot and service levels: the valid slot of the highest version boots into reduced service, and with none no lodging exists; a recovery image
that verifies replaces the older slot and restarts the device, another is discarded, and vector 7 is raised; training that succeeds brings full
service; a mismatch of the Innkeeper pair is recorded, and a second within 100 ms saves every lodging, fails every stream with 0x3F and restarts
the device (R358, R382, R384, R396, R397; log entry 33; the records' codes 0x41 and 0x42 are the model's choice, log entry
75). -/
def Obligations.BootAndService : Prop :=
  (∀ (s : State), s.pkg.running = none → (∃ k, k ≤ 1 ∧ s.slotValid k = true) → ∃ t k, exec .firmwareBoot s = .next t ∧ k ≤ 1 ∧
    s.slotValid k = true ∧ (∀ j, j ≤ 1 → s.slotValid j = true → s.slotVersion j ≤ s.slotVersion k) ∧
    PkgIs s { s.pkg with running := some k, service := .reduced } t) ∧
  (∀ (s : State), s.pkg.running = none → (∀ k, k ≤ 1 → s.slotValid k = false) → s.mem.windows = [] → ∃ t, exec .firmwareBoot s = .next t ∧
    t.pkg.service = .recovery ∧ t.pkg.running = none ∧ ∀ e ∈ s.lods, Absent e.1 t ∧ (t.lod e.1).st = .none ∧ (t.lod e.1).desc = 0) ∧
  (∀ (s : State) k, s.pkg.running = some k → exec .firmwareBoot s = .next s.wake) ∧
  (∀ (s : State) i, ∃ t, exec (.recoveryImage i) s = .next t ∧
    (Config.falconVerify i.body i.signature = false ∨ i.version < s.pkg.antiRollback → t.pkg = { s.pkg with mailboxDone := s.pkg.mailboxDone + 1 } ∧
      (t.lod 0).stream.msix = raised (s.lod 0).stream.msix 7 ∧ t.parties = s.wake.parties) ∧
    (Config.falconVerify i.body i.signature = true → s.pkg.antiRollback ≤ i.version → ∃ k, k ≤ 1 ∧ s.slotVersion k ≤ s.slotVersion (1 - k) ∧
      t.pkg.slots = s.pkg.slots.set k ⟨some i⟩ ∧ t.pkg.running = none ∧ t.pkg.service = .recovery)) ∧
  (∀ (s : State), s.pkg.service = .reduced → s.upset = .training → ∃ t, exec .fullServiceTransition s = .next t ∧
    LogIs { s with upset := .none } s.pkg 0x41 0xFF 0 0 t) ∧
  (∀ (s : State), s.pkg.service = .reduced → s.upset = .none → s.allQuiet = true → ∃ t, exec .fullServiceTransition s = .next t ∧
    t.pkg.service = .full ∧ ∀ a, t.byteAt a = s.byteAt a) ∧
  (∀ (s : State), s.pkg.service ≠ .reduced → exec .fullServiceTransition s = .next s.wake) ∧
  (∀ (s : State), (∀ u, s.pkg.mismatchAt = some u → 200000000 < s.now - u) → ∃ t, exec .innkeeperMismatch s = .next t ∧
    LogIs s { s.pkg with mismatchAt := some s.now } 0x42 0xFF 0 0 t) ∧
  (∀ (s : State) u, s.pkg.mismatchAt = some u → s.now - u ≤ 200000000 → s.allQuiet = true → s.upset = .none → ∃ t,
    exec .innkeeperMismatch s = .next t ∧ t.pkg.service = .recovery ∧ t.pkg.running = none ∧ ∀ e ∈ s.lods,
      ((s.lod e.1).st = .running → (t.lod e.1).st = .saved) ∧ (t.lod e.1).stream.failed = true ∧ (t.lod e.1).stream.code = 0x3F)

/-- Lodgings that lose a region record in both copies are lost, and the Logbook records it (R341). -/
def Sys2Proof.Says.RegionTagLossLosesLodgings : Prop :=
  ∀ (s : State) slice set, ∃ t, exec (.regionTagLoss slice set) s = .next t ∧ (∀ a, t.byteAt a = s.byteAt a) ∧
    (∀ g ∈ s.tags, s.tagSet g.fe g.granule = (slice, set) → Absent g.fe t ∧ (t.lod g.fe).st = .lost ∧ (t.lod g.fe).stream.failed = true ∧
      (t.lod g.fe).stream.code = 0x3F) ∧
    ∃ l, t.pkg.log.getLast? = some l ∧ l.code = 0x3F ∧ l.time = s.now / 2 ∧ l.unit = slice ∧ l.detail = BitVec.ofNat 128 set

/-- Lodgings saved, restored and lost. -/
def Obligations.LodgingsAreSavedRestoredAndLost : Prop := Says.LodgingsAreSavedAndRestored ∧ Says.RegionTagLossLosesLodgings

/-- Caravans: at its start a slice runs with the lodgings of its quads saved, or a member that is not ready moves it by 50 µs once and then
forfeits it; at its end the quads go back; the loss of a member's core restarts the member when its restart entry is valid, and otherwise every
member takes 0x33 (R282, R347, R367). Whether the other members are ready, and which one is lost, is free. -/
def Sys2Proof.Says.Caravans : Prop :=
  (∀ (s : State) c x, sfind s.caravans c = some x → x.running = false → x.start ≤ s.now / 2 → s.upset = .none → ∃ t,
    exec (.caravanSliceStart c) s = .next t ∧
    (((∀ fe ∈ x.lodgings, (s.lod fe).st = .running → s.quiet fe = true) ∧
        (∃ y, sfind t.caravans c = some y ∧ y.running = true ∧ y.start = x.start ∧ y.length = x.length ∧ y.member = x.member ∧
          y.saved = x.lodgings.filter (fun fe => (s.lod fe).st == .running && fe != x.member)) ∧
        ∀ fe ∈ x.lodgings, fe ≠ x.member → (s.lod fe).st = .running → (t.lod fe).st = .saved) ∨
      (x.moved = false ∧ sfind t.caravans c = some { x with moved := true, start := x.start + 50000 } ∧ t.lods = s.lods) ∨
      (x.moved = true ∧ sfind t.caravans c = none))) ∧
  (∀ (s : State) c x, sfind s.caravans c = some x → x.running = true → x.start + x.length ≤ s.now / 2 → s.upset = .none →
    (s.lod x.member).st ≠ .running ∨ s.quiet x.member = true → ∃ t, exec (.caravanSliceEnd c) s = .next t ∧
    sfind t.caravans c = some { x with running := false, saved := [] } ∧
    ((s.lod x.member).st = .running → x.member ∉ x.saved → (t.lod x.member).st = .saved)) ∧
  (∀ (s : State) c x, sfind s.caravans c = some x → x.running = true → s.betweenGroups = true → Tidy s → s.caravanParties x ≠ [] →
    ∃ t, exec (.caravanMemberLoss c) s = .next t ∧ t.mem = s.mem ∧
    ((∀ p ∈ s.caravanParties x, ∀ y, s.party? p = some y → ∃ a, y.idempc = some a ∧ y.rc < 2) → ∃ p ∈ s.caravanParties x, ∃ y z a,
      s.party? p = some y ∧ y.idempc = some a ∧ t.party? p = some z ∧ z.rc = y.rc + 1 ∧ ∀ u ∈ threadsOf y.width y.alive, z.pcOf u = a) ∧
    ((∀ p ∈ s.caravanParties x, ∀ y, s.party? p = some y → y.idempc = none ∧ y.busyFlags = false ∧ y.shadow.length < 2 ∧
        (s.lod y.fe).tvec ≠ 0) → ∀ p ∈ s.caravanParties x, ∀ y, s.party? p = some y → ∃ z r, t.party? p = some z ∧ r.cause = 0x33 ∧
      Entered { y with park := .none } (s.lod y.fe).tvec r z))

/-- Migration: a saved lodging whose destination's report verifies leaves as a stream with a Passport, and is scrubbed once its destination
acknowledges it; a lodging with an open window, or a report that does not verify, is refused. A destination restores the lodging that a Passport
of its own names, and refuses any other (R368, R379 to R381). -/
def Sys2Proof.Says.Migration : Prop :=
  (∀ (s : State) fe r, s.windowsOf fe ≠ [] ∨ Config.falconVerify (reportBody r) r.signature = false →
    exec (.migration fe r) s = .next s.wake) ∧
  (∀ (s : State) fe r, (s.lod fe).st = .saved → (s.lod fe).desc.getLsbD 36 = true → s.windowsOf fe = [] → s.throttled .migration 0 = false →
    Config.falconVerify (reportBody r) r.signature = true → ∃ t x, exec (.migration fe r) s = .next t ∧ t.mem = s.mem ∧
    sfind t.streamsOut s.nextId = some x ∧ x.fe = fe ∧ x.lod = s.lod fe ∧ x.passport.stream = s.nextId ∧
    x.passport.destination = Config.shake256 r.identity ∧ (∀ e, e ∈ x.bytes ↔ e ∈ s.mem.bytes ∧ s.ownerOf e.1 = .key fe) ∧
    (t.lod fe).scrubOnAck = true ∧ (t.lod fe).st = .saved) ∧
  (∀ (s : State) fe p, s.streamOf p = none → ∃ t, exec (.passportAccept fe p) s = .next t ∧
    StreamIs s fe { (s.lod fe).stream with msix := raised (s.lod fe).stream.msix 4 } t) ∧
  (∀ (s : State) fe p x i, s.streamOf p = some x → x.lod.image = some i → p.destination = Config.shake256 Config.identityKey → x.passport = p →
    (s.lod fe).desc.getLsbD 36 = true → (s.lod fe).nq = p.quads → (s.lod fe).colours.length = p.colours → (s.lod fe).st = .running →
    (∀ e ∈ s.parties, e.2.fe ≠ fe) → (∀ e ∈ s.crews, e.2.fe ≠ fe) → (∀ e ∈ x.bytes, s.ownerOf e.1 = .key fe) →
    (x.bytes.map (fun e => e.1)).Nodup → (i.parties.map (fun e => e.1)).Nodup →
    s.canReturn fe (i.move ⟨i.qb, (s.lod fe).qb, fe⟩) = true → ∃ t, exec (.passportAccept fe p) s = .next t ∧
    (t.lod fe).st = .running ∧ (t.lod fe).image = none ∧ (t.lod fe).desc = (s.lod fe).desc ∧ (t.lod fe).tvec = x.lod.tvec ∧
    Returned (i.move ⟨i.qb, (s.lod fe).qb, fe⟩) t ∧ (∀ e ∈ x.bytes, t.byteAt e.1 = e.2) ∧
    ∀ a, (∀ e ∈ x.bytes, e.1 ≠ a) → t.byteAt a = s.byteAt a) ∧
  (∀ (s : State) fe, (s.lod fe).scrubOnAck = true → (s.mem.owner.map (fun e => e.1)).Nodup → ∃ t, exec (.restoreAcknowledged fe) s = .next t ∧
    t.lod fe = { Lodging.reset with stream := (s.lod fe).stream } ∧ ∀ a,
      (s.ownerOf a = .key fe → t.byteAt a = 0 ∧ t.ownerOf a = .free) ∧
      (s.ownerOf a ≠ .key fe → t.byteAt a = s.byteAt a ∧ t.ownerOf a = s.ownerOf a)) ∧
  (∀ (s : State) fe, (s.lod fe).scrubOnAck = false → exec (.restoreAcknowledged fe) s = .next s.wake)

/-- Caravans and migration. -/
def Obligations.CaravansAndMigration : Prop := Says.Caravans ∧ Says.Migration

/-- What a Steward does with a request on an allocated agent: it answers from the fact word and the beliefs, queues a goal, and gives a free record
to a new agent; the end request of an exited thread drops the intention that thread runs, and the request of a thread that runs none ends without
an effect (R184 to R189, R197, R203, R204). -/
def Obligations.StewardsServe : Prop :=
  (∀ s n r h w a, AtSteward s n r .belFacts h w a → Unfaulted s r → s.goals a = [] → ∃ t, exec (.homeAcceptance n) s = .next t ∧ t.mem = s.mem ∧
    Goes s n r (.reply (littleEndian ((bytesIn [(a.pa + 8, 8)]).map s.byteAt))) t) ∧
  (∀ s n r key h w a, AtSteward s n r (.belTst key) h w a → Unfaulted s r → s.goals a = [] → key < 64 → ∃ t,
    exec (.homeAcceptance n) s = .next t ∧ t.mem = s.mem ∧ Goes s n r (.reply (s.recF a 8 8 / 2 ^ key % 2)) t) ∧
  (∀ s n r key h w a, AtSteward s n r (.belGet key) h w a → Unfaulted s r → s.goals a = [] → 64 ≤ key → ∃ t,
    exec (.homeAcceptance n) s = .next t ∧ t.mem = s.mem ∧
    ((∀ k < 192, s.recF a (0x300 + 16 * k) 2 ≠ key) → Goes s n r (.reply 0) t) ∧
    (∀ k < 192, s.recF a (0x300 + 16 * k) 2 = key → (∀ j < k, s.recF a (0x300 + 16 * j) 2 ≠ key) →
      Goes s n r (.reply (s.recF a (0x308 + 16 * k) 8)) t)) ∧
  (∀ s n r g h w a, AtSteward s n r (.goalAdd g) h w a → Unfaulted s r → ∃ t, exec (.homeAcceptance n) s = .next t ∧
    (g.toNat / 2 ^ 20 % 2 ^ 12 ≠ 0 ∨ 16 ≤ (s.goals a).length → Refused s n r 0x2A 0 t) ∧
    (g.toNat / 2 ^ 20 % 2 ^ 12 = 0 → (s.goals a).length < 16 → t.goals a = s.goals a ++ [g] ∧
      ∀ b, (b < a.pa + 0x40 ∨ a.pa + 0xC0 ≤ b) → b ≠ a.pa + 0x13 → t.byteAt b = s.byteAt b)) ∧
  (∀ s n r f w, AtHome s n r → r.isEnd = false → r.kind = .agent (.agtNew f) 0 w → Unfaulted s r → s.stewardFree (s.reqHome r) 0 r.fe = true →
    ∃ t, exec (.homeAcceptance n) s = .next t ∧
    let q := quadOfCore (coreOfLane r.lane)
    let hd := (sget (0, 0) (s.lod r.fe).heads q).1
    (hd = 0 → t.mem = s.mem ∧ Goes s n r (.reply 0) t) ∧
    (∀ a, hd ≠ 0 → hd < 2 ^ 24 → s.agent r.fe hd = .ok a → Goes s n r (.reply hd) t ∧ t.allocated a = true ∧ t.facts a = f ∧
      (sget (0, 0) (t.lod r.fe).heads q).1 = s.recF a 4 4 % 2 ^ 24 ∧
      ∀ b, (b < a.pa ∨ a.pa + 4096 ≤ b) → t.byteAt b = s.byteAt b)) ∧
  (∀ (s : State) n r h w, sfind s.reqs n = some r → r.kind = .agent .exitEnd h w → r.phase = .sent → s.threadAcked r.party r.thread = true →
    s.stewardFree (s.reqHome r) (h.toNat % 2 ^ 24) r.fe = true → ∃ t, exec (.exitEndRequest n) s = .next t ∧
    (∀ c, s.agentOf r.fe h = .error c → t.mem = s.mem ∧ sfind t.reqs n = none) ∧
    (∀ a, s.agentOf r.fe h = .ok a → s.allocated a = true → s.ranBy a (intentSlot w) r.party r.thread = true →
      ((s.status a (intentSlot w)).state = 1 ∨ (s.status a (intentSlot w)).state = 2) →
      (∀ k < 64, t.byteAt (a.pa + slotOff (intentSlot w) + k) = 0) ∧
      (sfind t.reqs n = none ∨ ∃ q, sfind t.reqs n = some q ∧ q.phase = .selecting)))

/-- The deliberation unit makes the selection at the head of its FIFO once the activation before it has reached the Coach: an event without a plan
that applies leaves memory as it is; one with a plan takes the lowest free slot and a frame block, and its activation leaves for the Coach (R190
to R192, R348). -/
def Obligations.SelectionsActivatePlans : Prop :=
  ∀ (s : State) q (i : SelItem) is a k key v, (s.quad q).fifo = i :: is → (s.quad q).emitted = [] → s.agent i.fe i.handle = .ok a →
    i.work = .event k key v → (i.req = none ∨ ∃ j ∈ is, j.req = i.req) → ∃ t, exec (.planSelection q) s = .next t ∧ (t.quad q).fifo = is ∧
    let kind := if k = .put then 2 else 3
    (s.select a kind key = .none → t.mem = s.mem ∧ t.lods = s.lods ∧ (t.quad q).emitted = []) ∧
    (∀ p, s.select a kind key = .plan p → s.freeSlots a = [] → ∀ b, (b < a.pa + 0x14 ∨ a.pa + 0x18 ≤ b) → t.byteAt b = s.byteAt b) ∧
    (∀ p j js b u, s.select a kind key = .plan p → s.freeSlots a = j :: js → s.takeBlock a = .ok b u → p.id < 2 ^ 16 →
      t.status a j = ⟨1, false, 0, false, 0, 0, p.id⟩ ∧ (t.lod a.fe).poolHead = (u.lod a.fe).poolHead ∧
      ∃ act, (t.quad a.quad).emitted = (s.quad a.quad).emitted ++ [act] ∧ act.fe = a.fe ∧ act.handle = a.h ∧ act.slot = j ∧ act.plan = p.id ∧
        act.depth = 0 ∧ act.args = [v.extractLsb' 0 32, v.extractLsb' 32 32, BitVec.ofNat 32 kind, BitVec.ofNat 32 key])

/-- The Coach: a record enters its bucket with its node's code address and timer, or is discarded and recorded when the node cannot be read; a
bucket that holds a whole party, or whose oldest record has waited its timer, departs one, thread by thread from the oldest record; a party that
found no room waits in its die's FIFO and is placed from its head (R18, R192, R349, R350). -/
def Obligations.CoachDepartsParties : Prop :=
  (∀ (s : State) q a as, (s.quad q).emitted = a :: as → ((s.quad q).buckets.map (fun e => e.2.length)).sum < 262144 → ∃ t,
    exec (.activationEntry q) s = .next t ∧
    (s.readNode a.fe q a.node = none → a.detached = true → (t.quad q).emitted = as ∧ (t.quad q).buckets = (s.quad q).buckets ∧
      LogIs { s with quads := t.quads } s.pkg 0x2D a.fe a.node 0 t) ∧
    (∀ c timer, s.readNode a.fe q a.node = some (c, timer) →
      let key := a.fe * 4096 + a.node
      let rs := sget [] (s.quad q).buckets key ++ [{ a with code := c, timer := timer, arrived := s.now }]
      let w := (s.library a.fe q).width
      (splitBucket w rs).1.length ≠ w ∨ (s.lod a.fe).st ≠ .running →
      t = { s.wake with quads := t.quads } ∧ (t.quad q).emitted = as ∧ (∀ j, j ≠ q → t.quad j = s.quad j) ∧
      ∀ j, sget [] (t.quad q).buckets j = if j = key then rs else sget [] (s.quad q).buckets j)) ∧
  (∀ (s : State) q key r rs, sget [] (s.quad q).buckets key = r :: rs → key = r.fe * 4096 + r.node → r.node < 4096 →
    (s.lod r.fe).st = .running → (splitBucket (s.library r.fe q).width (r :: rs)).1.length = (s.library r.fe q).width ∨
      r.arrived + 2 * r.timer ≤ s.now → ∃ t y k, exec (.coachTimerDeparture q key) s = .next t ∧
    let go := (splitBucket (s.library r.fe q).width (r :: rs)).1
    sget [] (t.quad q).buckets key = (splitBucket (s.library r.fe q).width (r :: rs)).2 ∧
    t.crew? s.nextId = some k ∧ k.fe = r.fe ∧ k.parties = [s.nextId + 1] ∧ t.party? (s.nextId + 1) = some y ∧
    y.width = (s.library r.fe q).width ∧ y.rt = (s.library r.fe q).rt ∧ y.left = y.all &&& ~~~ lowMask go.length ∧
    ((∀ a ∈ go, a.run = [] ∧ a.args.length ≤ 4) → ∀ i a, go[i]? = some a → i < 64 → y.vNow i 0 = BitVec.ofNat 32 a.handle ∧
      (i < y.width → y.pcOf i = r.code) ∧ ∀ j v, a.args[j]? = some v → y.vNow i (4 + j) = v)) ∧
  (∀ (s : State) die crew rest, sget [] s.dieFifo die = crew :: rest →
    (s.crew? crew = none → ∃ t, exec (.dieFifoPlacement die) s = .next t ∧ sget [] t.dieFifo die = rest ∧ t.mem = s.mem) ∧
    (∀ k q c, s.crew? crew = some k → (s.lod k.fe).st = .running → s.planCore k = some (q, c) → k.parties.Nodup → ∃ t,
      exec (.dieFifoPlacement die) s = .next t ∧ Seated (s.onCrew crew (fun k => { k with quad := q })) crew { k with quad := q } c t ∧
      ∀ d, crew ∉ sget [] t.dieFifo d))

/-- Decode and encode agree: the words of every well-formed instruction decode to it, whatever its operands. A word with C = 1 has room for the
word it chains to (R72 to R83). -/
def Obligations.DecodeReadsBackEncode : Prop :=
  ∀ i ws, WellFormed i → encode i = some ws → (i.chained = true → ws.length < 3) → decodeWords ws = some i

/-- Words written out from the encoding of the spec, one or more of each class, decode to the instructions they stand for (R72 to R81). -/
def Obligations.WordsDecode : Prop :=
  let m : Mods := ⟨false, false, none⟩
  decodeWords [0x00014200, 0x22200000, 0x22200000] = some (.add m (.v 5) (.v 4) (.reg (.v 0))) ∧
  decodeWords [0xBFE50000, 0x0001C2FF, 0x000003E8] = some (.add { m with pre := some ⟨false, 1, false, true, 0, 0⟩ } (.v 7) (.v 5) (.lit 1000)) ∧
  decodeWords [0x05004008, 0, 0] = some (.cmpiLtN m 1 (.v 0) 8) ∧
  decodeWords [0x0862048A, 0, 0] = some (.fma m (.v 8) (.v 9) (.reg (.v 10))) ∧
  decodeWords [0x15818280, 0, 0] = some (.redFadd m (.v 6) (.v 5)) ∧
  decodeWords [0x18813082, 0, 0] = some (.ld32 m (.v 4) (.s 1) (.units 2)) ∧
  decodeWords [0x21400000, 0, 0] = some (.exit m) ∧
  decodeWords [0x21000009, 0, 0] = some (.div m 9) ∧
  decodeWords [0x28A000E4, 0, 0] = some (.goalAdd m (.v 1) (.s 4)) ∧
  decodeWords [0x3419407F, 0x00000010, 0] = some (.envClaim m (.s 5) (.lit 16)) ∧
  decodeWords [0x381D0600, 0, 0] = some (.csrRd m (.s 20) .tmfault)

/-- One step runs the decoded instruction: with an empty schedule the issuing party's packet is read from the line at its place and decoded, and
where the group at its slot is the one instruction `i`, the step is `exec i` at that state, with the place recorded, and what follows a group: the
threads that neither transferred nor left go to the next group of the packet, or to the next packet. A scheduled event is executed in its turn
(R24, R66, R75, R77, R149; log entry 3). -/
def Obligations.StepRunsTheDecodedInstruction : Prop :=
  (∀ (s s' : State) p x pos pa h gs g i u, s.script = [] → s.cur = some p → s.party? p = some x → x.place = some pos → pos.words = none →
    s.fetchLine { x with pos := pos } pos.pkt = (s', .ok pa) →
    decodePacket ((s'.packetWords pa (pos.pkt.toNat % 8)).getD 0 0) ((s'.packetWords pa (pos.pkt.toNat % 8)).drop 1) = .ok (h, gs) →
    groupAt pos.slot gs = some g → g.instrs = [i] →
    let y : Party := { x with
      pos := { pos with words := some (s'.packetWords pa (pos.pkt.toNat % 8)), after := g.next }
      gap := h.gaps.getD (pos.pkt.toNat % 8) 0, giveWay := gs.any (fun g => g.give), ctl := .run, latch := none }
    exec i (s'.setParty p y) = .next u → step s = .next ((s'.setParty p y).retire u p)) ∧
  (∀ (s u : State) p y, u.party? p = some y → y.life = .resident → y.latch = none → y.pend = none → y.pos.words ≠ none → y.ctl = .run →
    y.park = .none → y.divs = [] → y.syncMask = none → y.csr.single = false → y.alive ≠ 0 → y.pos.m0 &&& ~~~ y.pos.moved ≠ 0 →
    ∃ z, (s.retire u p).party? p = some z ∧ z.regs = y.regs ∧ z.csr = y.csr ∧ (s.retire u p).mem = u.mem ∧
      (y.pos.after < 3 → z.pos.slot = y.pos.after ∧ z.pos.m0 = y.pos.m0 &&& ~~~ y.pos.moved ∧ z.tpc = y.tpc) ∧
      (3 ≤ y.pos.after → ∀ t, z.pcOf t = if t ∈ threadsOf y.width (y.pos.m0 &&& ~~~ y.pos.moved) then
          (if y.pos.pkt.toNat % 8 = 4 then (y.pos.pkt &&& ~~~ (0x3F : DWord)) + 64 else y.pos.pkt + 1) else y.pcOf t)) ∧
  (∀ (s : State) i rest, s.script = .act i :: rest → step s = exec i { s with script := rest }) ∧
  (∀ (s : State) n rest, s.script = .elapse n :: rest → step s = .next { s with script := rest, now := s.now + n })

/-- No instruction stops the machine: with a party at issue every one answers a next state; an event does so in every state; and a word without a
party to issue it is the one fault there is. -/
def Obligations.EveryInstructionAnswers : Prop :=
  (∀ i s p x, Issuing s p x → ∃ t, exec i s = .next t) ∧ (∀ i s, encode i = none → ∃ t, exec i s = .next t) ∧
  ∀ i s ws, encode i = some ws → (∀ p x, ¬ Issuing s p x) → exec i s = .fault .noIssuingParty

/-- A register at or past Rt that a word names for a thread it executes raises 0x07 for the threads it executes, and nothing is written (R11,
R15, R81, R82). -/
def Obligations.RegistersPastRtTrap : Prop :=
  ∀ i w, IntRow i w → ∀ s p x, Issuing s p x → ¬ Within x w.m ((w.d, 1) :: w.regs) → ∃ t r, min x.rt 1024 ≤ r ∧
    Raises s p x 0x07 (fun u => bitOf (x.selected w.m) u = true) (BitVec.ofNat 64 (r % 2048)) t ∧ exec i s = .next t

/-- What every step keeps: memory and host memory in canonical form, the Logbook a ring of 4,096 records, the power cap from 1,200 W to 3,200 W and
the token pool at most 1,024 (R351, R385, R394, R398). -/
def Obligations.StepKeepsTheInvariant : Prop := ∀ (s t : State), Sys2Proof.Inv s → step s = .next t → Sys2Proof.Inv t

/-- After reset the invariant holds; the clock stands at 0, the power cap is 3,200 W and the token pool 1,024, no error is armed, no party and
no request is there, the Logbook is empty, and no lodging exists: its descriptor is 0, its watchdog period 1 s, its `tvec` 0 and its stream has no
ring (R257, R268, R277, R283, R351, R369, R385). The model's choices among them: memory lists nothing (log entries 1 and 2), and every vector of a
function is masked (PCI Express's value, log entry 30). -/
def Obligations.ResetState : Prop :=
  Sys2Proof.Inv State.reset ∧ State.reset.clk = 0 ∧ State.reset.pkg.cap = 3200 ∧ State.reset.pkg.pool = 1024 ∧ State.reset.pkg.injarm = 0 ∧
  State.reset.parties = [] ∧ State.reset.reqs = [] ∧ State.reset.mem.bytes = [] ∧ State.reset.pkg.log = [] ∧
  ∀ fe, (State.reset.lod fe).st = .none ∧ (State.reset.lod fe).desc = 0 ∧ (State.reset.lod fe).watchdog = 1000000000 ∧
    (State.reset.lod fe).tvec = 0 ∧ (State.reset.lod fe).stream.ringSize = 0 ∧ (State.reset.lod fe).stream.msix.masked = 0xFFFFFFFF
end

