-- ==== Sys2Proof/Laws/Exec.lean ====
section
/-! SUPPORT. The dispatch of each instruction to its meaning, one equation a constructor. -/

set_option Elab.async false

namespace Sys2Proof.Machine

open Sys2Proof

@[simp] theorem exec_add (m : Mods) (d : Reg) (a : Reg) (b : Src) (s : State) : exec (.add m d a b) s = execAdd m d a b s := rfl
@[simp] theorem exec_sub (m : Mods) (d : Reg) (a : Reg) (b : Src) (s : State) : exec (.sub m d a b) s = execSub m d a b s := rfl
@[simp] theorem exec_addi (m : Mods) (d : Reg) (a : Reg) (b : BitVec 7) (s : State) : exec (.addi m d a b) s = execAddi m d a b s := rfl
@[simp] theorem exec_mul (m : Mods) (d : Reg) (a : Reg) (b : Src) (s : State) : exec (.mul m d a b) s = execMul m d a b s := rfl
@[simp] theorem exec_mulhI (m : Mods) (d : Reg) (a : Reg) (b : Src) (s : State) : exec (.mulhI m d a b) s = execMulhI m d a b s := rfl
@[simp] theorem exec_mulhN (m : Mods) (d : Reg) (a : Reg) (b : Src) (s : State) : exec (.mulhN m d a b) s = execMulhN m d a b s := rfl
@[simp] theorem exec_mad (m : Mods) (d : Reg) (a : Reg) (b : Src) (s : State) : exec (.mad m d a b) s = execMad m d a b s := rfl
@[simp] theorem exec_minI (m : Mods) (d : Reg) (a : Reg) (b : Src) (s : State) : exec (.minI m d a b) s = execMinI m d a b s := rfl
@[simp] theorem exec_maxI (m : Mods) (d : Reg) (a : Reg) (b : Src) (s : State) : exec (.maxI m d a b) s = execMaxI m d a b s := rfl
@[simp] theorem exec_minN (m : Mods) (d : Reg) (a : Reg) (b : Src) (s : State) : exec (.minN m d a b) s = execMinN m d a b s := rfl
@[simp] theorem exec_maxN (m : Mods) (d : Reg) (a : Reg) (b : Src) (s : State) : exec (.maxN m d a b) s = execMaxN m d a b s := rfl
@[simp] theorem exec_abs (m : Mods) (d : Reg) (a : Reg) (s : State) : exec (.abs m d a) s = execAbs m d a s := rfl
@[simp] theorem exec_neg (m : Mods) (d : Reg) (a : Reg) (s : State) : exec (.neg m d a) s = execNeg m d a s := rfl
@[simp] theorem exec_and (m : Mods) (d : Reg) (a : Reg) (b : Src) (s : State) : exec (.and m d a b) s = execAnd m d a b s := rfl
@[simp] theorem exec_or (m : Mods) (d : Reg) (a : Reg) (b : Src) (s : State) : exec (.or m d a b) s = execOr m d a b s := rfl
@[simp] theorem exec_xor (m : Mods) (d : Reg) (a : Reg) (b : Src) (s : State) : exec (.xor m d a b) s = execXor m d a b s := rfl
@[simp] theorem exec_andn (m : Mods) (d : Reg) (a : Reg) (b : Src) (s : State) : exec (.andn m d a b) s = execAndn m d a b s := rfl
@[simp] theorem exec_not (m : Mods) (d : Reg) (a : Reg) (s : State) : exec (.not m d a) s = execNot m d a s := rfl
@[simp] theorem exec_shl (m : Mods) (d : Reg) (a : Reg) (b : Src) (s : State) : exec (.shl m d a b) s = execShl m d a b s := rfl
@[simp] theorem exec_shr (m : Mods) (d : Reg) (a : Reg) (b : Src) (s : State) : exec (.shr m d a b) s = execShr m d a b s := rfl
@[simp] theorem exec_sar (m : Mods) (d : Reg) (a : Reg) (b : Src) (s : State) : exec (.sar m d a b) s = execSar m d a b s := rfl
@[simp] theorem exec_rot (m : Mods) (d : Reg) (a : Reg) (b : Src) (s : State) : exec (.rot m d a b) s = execRot m d a b s := rfl
@[simp] theorem exec_shli (m : Mods) (d : Reg) (a : Reg) (b : BitVec 7) (s : State) : exec (.shli m d a b) s = execShli m d a b s := rfl
@[simp] theorem exec_shri (m : Mods) (d : Reg) (a : Reg) (b : BitVec 7) (s : State) : exec (.shri m d a b) s = execShri m d a b s := rfl
@[simp] theorem exec_sari (m : Mods) (d : Reg) (a : Reg) (b : BitVec 7) (s : State) : exec (.sari m d a b) s = execSari m d a b s := rfl
@[simp] theorem exec_clz (m : Mods) (d : Reg) (a : Reg) (s : State) : exec (.clz m d a) s = execClz m d a s := rfl
@[simp] theorem exec_popc (m : Mods) (d : Reg) (a : Reg) (s : State) : exec (.popc m d a) s = execPopc m d a s := rfl
@[simp] theorem exec_brev (m : Mods) (d : Reg) (a : Reg) (s : State) : exec (.brev m d a) s = execBrev m d a s := rfl
@[simp] theorem exec_bfeI (m : Mods) (d : Reg) (a : Reg) (b : Src) (s : State) : exec (.bfeI m d a b) s = execBfeI m d a b s := rfl
@[simp] theorem exec_bfeN (m : Mods) (d : Reg) (a : Reg) (b : Src) (s : State) : exec (.bfeN m d a b) s = execBfeN m d a b s := rfl
@[simp] theorem exec_bfi (m : Mods) (d : Reg) (a : Reg) (b : Src) (s : State) : exec (.bfi m d a b) s = execBfi m d a b s := rfl
@[simp] theorem exec_sel (m : Mods) (d : Reg) (a : Reg) (b : Src) (k : MaskReg) (s : State) : exec (.sel m d a b k) s = execSel m d a b k s := rfl
@[simp] theorem exec_cmpEq (m : Mods) (d : MaskReg) (a : Reg) (b : Src) (s : State) : exec (.cmpEq m d a b) s = execCmpEq m d a b s := rfl
@[simp] theorem exec_cmpNe (m : Mods) (d : MaskReg) (a : Reg) (b : Src) (s : State) : exec (.cmpNe m d a b) s = execCmpNe m d a b s := rfl
@[simp] theorem exec_cmpLtI (m : Mods) (d : MaskReg) (a : Reg) (b : Src) (s : State) : exec (.cmpLtI m d a b) s = execCmpLtI m d a b s := rfl
@[simp] theorem exec_cmpLeI (m : Mods) (d : MaskReg) (a : Reg) (b : Src) (s : State) : exec (.cmpLeI m d a b) s = execCmpLeI m d a b s := rfl
@[simp] theorem exec_cmpLtN (m : Mods) (d : MaskReg) (a : Reg) (b : Src) (s : State) : exec (.cmpLtN m d a b) s = execCmpLtN m d a b s := rfl
@[simp] theorem exec_cmpLeN (m : Mods) (d : MaskReg) (a : Reg) (b : Src) (s : State) : exec (.cmpLeN m d a b) s = execCmpLeN m d a b s := rfl
@[simp] theorem exec_cmpiEq (m : Mods) (d : MaskReg) (a : Reg) (b : BitVec 7) (s : State) : exec (.cmpiEq m d a b) s = execCmpiEq m d a b s := rfl
@[simp] theorem exec_cmpiLtI (m : Mods) (d : MaskReg) (a : Reg) (b : BitVec 7) (s : State) : exec (.cmpiLtI m d a b) s = execCmpiLtI m d a b s := rfl
@[simp] theorem exec_cmpiLtN (m : Mods) (d : MaskReg) (a : Reg) (b : BitVec 7) (s : State) : exec (.cmpiLtN m d a b) s = execCmpiLtN m d a b s := rfl
@[simp] theorem exec_mov (m : Mods) (d : Reg) (a : Reg) (s : State) : exec (.mov m d a) s = execMov m d a s := rfl
@[simp] theorem exec_movi (m : Mods) (d : Reg) (imm : BitVec 14) (s : State) : exec (.movi m d imm) s = execMovi m d imm s := rfl
@[simp] theorem exec_leaB (m : Mods) (d : Reg) (a : Reg) (b : Src) (s : State) : exec (.leaB m d a b) s = execLeaB m d a b s := rfl
@[simp] theorem exec_leaH (m : Mods) (d : Reg) (a : Reg) (b : Src) (s : State) : exec (.leaH m d a b) s = execLeaH m d a b s := rfl
@[simp] theorem exec_leaW (m : Mods) (d : Reg) (a : Reg) (b : Src) (s : State) : exec (.leaW m d a b) s = execLeaW m d a b s := rfl
@[simp] theorem exec_leaD (m : Mods) (d : Reg) (a : Reg) (b : Src) (s : State) : exec (.leaD m d a b) s = execLeaD m d a b s := rfl
@[simp] theorem exec_add64 (m : Mods) (d : Reg) (a : Reg) (b : Src) (s : State) : exec (.add64 m d a b) s = execAdd64 m d a b s := rfl
@[simp] theorem exec_sub64 (m : Mods) (d : Reg) (a : Reg) (b : Src) (s : State) : exec (.sub64 m d a b) s = execSub64 m d a b s := rfl
@[simp] theorem exec_mulW (m : Mods) (d : Reg) (a : Reg) (b : Src) (s : State) : exec (.mulW m d a b) s = execMulW m d a b s := rfl
@[simp] theorem exec_mulWn (m : Mods) (d : Reg) (a : Reg) (b : Src) (s : State) : exec (.mulWn m d a b) s = execMulWn m d a b s := rfl
@[simp] theorem exec_divI (m : Mods) (d : Reg) (a : Reg) (b : Src) (s : State) : exec (.divI m d a b) s = execDivI m d a b s := rfl
@[simp] theorem exec_divN (m : Mods) (d : Reg) (a : Reg) (b : Src) (s : State) : exec (.divN m d a b) s = execDivN m d a b s := rfl
@[simp] theorem exec_remI (m : Mods) (d : Reg) (a : Reg) (b : Src) (s : State) : exec (.remI m d a b) s = execRemI m d a b s := rfl
@[simp] theorem exec_remN (m : Mods) (d : Reg) (a : Reg) (b : Src) (s : State) : exec (.remN m d a b) s = execRemN m d a b s := rfl
@[simp] theorem exec_adds (m : Mods) (d : Reg) (a : Reg) (b : Src) (s : State) : exec (.adds m d a b) s = execAdds m d a b s := rfl
@[simp] theorem exec_subs (m : Mods) (d : Reg) (a : Reg) (b : Src) (s : State) : exec (.subs m d a b) s = execSubs m d a b s := rfl
@[simp] theorem exec_dot4Ii (m : Mods) (d : Reg) (a : Reg) (b : Src) (s : State) : exec (.dot4Ii m d a b) s = execDot4Ii m d a b s := rfl
@[simp] theorem exec_dot4Ni (m : Mods) (d : Reg) (a : Reg) (b : Src) (s : State) : exec (.dot4Ni m d a b) s = execDot4Ni m d a b s := rfl
@[simp] theorem exec_sad (m : Mods) (d : Reg) (a : Reg) (b : Src) (s : State) : exec (.sad m d a b) s = execSad m d a b s := rfl
@[simp] theorem exec_fadd (m : Mods) (d : Reg) (a : Reg) (b : Src) (s : State) : exec (.fadd m d a b) s = execFadd m d a b s := rfl
@[simp] theorem exec_fsub (m : Mods) (d : Reg) (a : Reg) (b : Src) (s : State) : exec (.fsub m d a b) s = execFsub m d a b s := rfl
@[simp] theorem exec_fmul (m : Mods) (d : Reg) (a : Reg) (b : Src) (s : State) : exec (.fmul m d a b) s = execFmul m d a b s := rfl
@[simp] theorem exec_fma (m : Mods) (d : Reg) (a : Reg) (b : Src) (s : State) : exec (.fma m d a b) s = execFma m d a b s := rfl
@[simp] theorem exec_fmin (m : Mods) (d : Reg) (a : Reg) (b : Src) (s : State) : exec (.fmin m d a b) s = execFmin m d a b s := rfl
@[simp] theorem exec_fmax (m : Mods) (d : Reg) (a : Reg) (b : Src) (s : State) : exec (.fmax m d a b) s = execFmax m d a b s := rfl
@[simp] theorem exec_fabs (m : Mods) (d : Reg) (a : Reg) (s : State) : exec (.fabs m d a) s = execFabs m d a s := rfl
@[simp] theorem exec_fneg (m : Mods) (d : Reg) (a : Reg) (s : State) : exec (.fneg m d a) s = execFneg m d a s := rfl
@[simp] theorem exec_fcmpEq (m : Mods) (d : MaskReg) (a : Reg) (b : Src) (s : State) : exec (.fcmpEq m d a b) s = execFcmpEq m d a b s := rfl
@[simp] theorem exec_fcmpLt (m : Mods) (d : MaskReg) (a : Reg) (b : Src) (s : State) : exec (.fcmpLt m d a b) s = execFcmpLt m d a b s := rfl
@[simp] theorem exec_fcmpLe (m : Mods) (d : MaskReg) (a : Reg) (b : Src) (s : State) : exec (.fcmpLe m d a b) s = execFcmpLe m d a b s := rfl
@[simp] theorem exec_fcmpUn (m : Mods) (d : MaskReg) (a : Reg) (b : Src) (s : State) : exec (.fcmpUn m d a b) s = execFcmpUn m d a b s := rfl
@[simp] theorem exec_frnd (m : Mods) (d : Reg) (a : Reg) (s : State) : exec (.frnd m d a) s = execFrnd m d a s := rfl
@[simp] theorem exec_fclass (m : Mods) (d : Reg) (a : Reg) (s : State) : exec (.fclass m d a) s = execFclass m d a s := rfl
@[simp] theorem exec_fscale (m : Mods) (d : Reg) (a : Reg) (b : Src) (s : State) : exec (.fscale m d a b) s = execFscale m d a b s := rfl
@[simp] theorem exec_fcopysign (m : Mods) (d : Reg) (a : Reg) (b : Src) (s : State) : exec (.fcopysign m d a b) s = execFcopysign m d a b s := rfl
@[simp] theorem exec_hadd2Bf (m : Mods) (d : Reg) (a : Reg) (b : Src) (s : State) : exec (.hadd2Bf m d a b) s = execHadd2Bf m d a b s := rfl
@[simp] theorem exec_hadd2Hf (m : Mods) (d : Reg) (a : Reg) (b : Src) (s : State) : exec (.hadd2Hf m d a b) s = execHadd2Hf m d a b s := rfl
@[simp] theorem exec_hmul2Bf (m : Mods) (d : Reg) (a : Reg) (b : Src) (s : State) : exec (.hmul2Bf m d a b) s = execHmul2Bf m d a b s := rfl
@[simp] theorem exec_hmul2Hf (m : Mods) (d : Reg) (a : Reg) (b : Src) (s : State) : exec (.hmul2Hf m d a b) s = execHmul2Hf m d a b s := rfl
@[simp] theorem exec_hfma2Bf (m : Mods) (d : Reg) (a : Reg) (b : Src) (s : State) : exec (.hfma2Bf m d a b) s = execHfma2Bf m d a b s := rfl
@[simp] theorem exec_hfma2Hf (m : Mods) (d : Reg) (a : Reg) (b : Src) (s : State) : exec (.hfma2Hf m d a b) s = execHfma2Hf m d a b s := rfl
@[simp] theorem exec_hmin2Bf (m : Mods) (d : Reg) (a : Reg) (b : Src) (s : State) : exec (.hmin2Bf m d a b) s = execHmin2Bf m d a b s := rfl
@[simp] theorem exec_hmax2Bf (m : Mods) (d : Reg) (a : Reg) (b : Src) (s : State) : exec (.hmax2Bf m d a b) s = execHmax2Bf m d a b s := rfl
@[simp] theorem exec_hdot2Bf (m : Mods) (d : Reg) (a : Reg) (b : Src) (s : State) : exec (.hdot2Bf m d a b) s = execHdot2Bf m d a b s := rfl
@[simp] theorem exec_hdot2Hf (m : Mods) (d : Reg) (a : Reg) (b : Src) (s : State) : exec (.hdot2Hf m d a b) s = execHdot2Hf m d a b s := rfl
@[simp] theorem exec_f8dot4E4 (m : Mods) (d : Reg) (a : Reg) (b : Src) (s : State) : exec (.f8dot4E4 m d a b) s = execF8dot4E4 m d a b s := rfl
@[simp] theorem exec_f8dot4E5 (m : Mods) (d : Reg) (a : Reg) (b : Src) (s : State) : exec (.f8dot4E5 m d a b) s = execF8dot4E5 m d a b s := rfl
@[simp] theorem exec_fminP (m : Mods) (d : Reg) (a : Reg) (b : Src) (s : State) : exec (.fminP m d a b) s = execFminP m d a b s := rfl
@[simp] theorem exec_fmaxP (m : Mods) (d : Reg) (a : Reg) (b : Src) (s : State) : exec (.fmaxP m d a b) s = execFmaxP m d a b s := rfl
@[simp] theorem exec_rcp (m : Mods) (d : Reg) (a : Reg) (s : State) : exec (.rcp m d a) s = execRcp m d a s := rfl
@[simp] theorem exec_rsq (m : Mods) (d : Reg) (a : Reg) (s : State) : exec (.rsq m d a) s = execRsq m d a s := rfl
@[simp] theorem exec_sqrt (m : Mods) (d : Reg) (a : Reg) (s : State) : exec (.sqrt m d a) s = execSqrt m d a s := rfl
@[simp] theorem exec_ex2 (m : Mods) (d : Reg) (a : Reg) (s : State) : exec (.ex2 m d a) s = execEx2 m d a s := rfl
@[simp] theorem exec_lg2 (m : Mods) (d : Reg) (a : Reg) (s : State) : exec (.lg2 m d a) s = execLg2 m d a s := rfl
@[simp] theorem exec_sinT (m : Mods) (d : Reg) (a : Reg) (s : State) : exec (.sinT m d a) s = execSinT m d a s := rfl
@[simp] theorem exec_cosT (m : Mods) (d : Reg) (a : Reg) (s : State) : exec (.cosT m d a) s = execCosT m d a s := rfl
@[simp] theorem exec_tanh (m : Mods) (d : Reg) (a : Reg) (s : State) : exec (.tanh m d a) s = execTanh m d a s := rfl
@[simp] theorem exec_sigm (m : Mods) (d : Reg) (a : Reg) (s : State) : exec (.sigm m d a) s = execSigm m d a s := rfl
@[simp] theorem exec_fdiv (m : Mods) (d : Reg) (a : Reg) (b : Src) (s : State) : exec (.fdiv m d a b) s = execFdiv m d a b s := rfl
@[simp] theorem exec_cvtFI (m : Mods) (d : Reg) (a : Reg) (s : State) : exec (.cvtFI m d a) s = execCvtFI m d a s := rfl
@[simp] theorem exec_cvtFN (m : Mods) (d : Reg) (a : Reg) (s : State) : exec (.cvtFN m d a) s = execCvtFN m d a s := rfl
@[simp] theorem exec_cvtIF (m : Mods) (d : Reg) (a : Reg) (s : State) : exec (.cvtIF m d a) s = execCvtIF m d a s := rfl
@[simp] theorem exec_cvtNF (m : Mods) (d : Reg) (a : Reg) (s : State) : exec (.cvtNF m d a) s = execCvtNF m d a s := rfl
@[simp] theorem exec_cvt2Bf (m : Mods) (d : Reg) (a : Reg) (b : Src) (s : State) : exec (.cvt2Bf m d a b) s = execCvt2Bf m d a b s := rfl
@[simp] theorem exec_cvt2Hf (m : Mods) (d : Reg) (a : Reg) (b : Src) (s : State) : exec (.cvt2Hf m d a b) s = execCvt2Hf m d a b s := rfl
@[simp] theorem exec_cvtFBfl (m : Mods) (d : Reg) (a : Reg) (s : State) : exec (.cvtFBfl m d a) s = execCvtFBfl m d a s := rfl
@[simp] theorem exec_cvtFBfh (m : Mods) (d : Reg) (a : Reg) (s : State) : exec (.cvtFBfh m d a) s = execCvtFBfh m d a s := rfl
@[simp] theorem exec_cvtFHfl (m : Mods) (d : Reg) (a : Reg) (s : State) : exec (.cvtFHfl m d a) s = execCvtFHfl m d a s := rfl
@[simp] theorem exec_cvtFHfh (m : Mods) (d : Reg) (a : Reg) (s : State) : exec (.cvtFHfh m d a) s = execCvtFHfh m d a s := rfl
@[simp] theorem exec_cvtE4 (m : Mods) (d : Reg) (a : Reg) (s : State) : exec (.cvtE4 m d a) s = execCvtE4 m d a s := rfl
@[simp] theorem exec_cvtE5 (m : Mods) (d : Reg) (a : Reg) (s : State) : exec (.cvtE5 m d a) s = execCvtE5 m d a s := rfl
@[simp] theorem exec_cvtFE4 (m : Mods) (d : Reg) (a : Reg) (s : State) : exec (.cvtFE4 m d a) s = execCvtFE4 m d a s := rfl
@[simp] theorem exec_cvtFE5 (m : Mods) (d : Reg) (a : Reg) (s : State) : exec (.cvtFE5 m d a) s = execCvtFE5 m d a s := rfl
@[simp] theorem exec_swp (m : Mods) (d : Reg) (a : Reg) (b : Src) (s : State) : exec (.swp m d a b) s = execSwp m d a b s := rfl
@[simp] theorem exec_shfl (m : Mods) (d : Reg) (a : Reg) (b : Src) (s : State) : exec (.shfl m d a b) s = execShfl m d a b s := rfl
@[simp] theorem exec_rotw (m : Mods) (d : Reg) (a : Reg) (b : Src) (s : State) : exec (.rotw m d a b) s = execRotw m d a b s := rfl
@[simp] theorem exec_bcast (m : Mods) (d : Reg) (a : Reg) (b : Src) (s : State) : exec (.bcast m d a b) s = execBcast m d a b s := rfl
@[simp] theorem exec_voteAll (m : Mods) (d : MaskReg) (a : MaskReg) (s : State) : exec (.voteAll m d a) s = execVoteAll m d a s := rfl
@[simp] theorem exec_voteAny (m : Mods) (d : MaskReg) (a : MaskReg) (s : State) : exec (.voteAny m d a) s = execVoteAny m d a s := rfl
@[simp] theorem exec_ballot (m : Mods) (d : Reg) (a : MaskReg) (s : State) : exec (.ballot m d a) s = execBallot m d a s := rfl
@[simp] theorem exec_cmpr (m : Mods) (d : Reg) (a : Reg) (s : State) : exec (.cmpr m d a) s = execCmpr m d a s := rfl
@[simp] theorem exec_expd (m : Mods) (d : Reg) (a : Reg) (s : State) : exec (.expd m d a) s = execExpd m d a s := rfl
@[simp] theorem exec_scanAdd (m : Mods) (d : Reg) (a : Reg) (s : State) : exec (.scanAdd m d a) s = execScanAdd m d a s := rfl
@[simp] theorem exec_scanFadd (m : Mods) (d : Reg) (a : Reg) (s : State) : exec (.scanFadd m d a) s = execScanFadd m d a s := rfl
@[simp] theorem exec_redAdd (m : Mods) (d : Reg) (a : Reg) (s : State) : exec (.redAdd m d a) s = execRedAdd m d a s := rfl
@[simp] theorem exec_redFadd (m : Mods) (d : Reg) (a : Reg) (s : State) : exec (.redFadd m d a) s = execRedFadd m d a s := rfl
@[simp] theorem exec_redMinI (m : Mods) (d : Reg) (a : Reg) (s : State) : exec (.redMinI m d a) s = execRedMinI m d a s := rfl
@[simp] theorem exec_redMaxI (m : Mods) (d : Reg) (a : Reg) (s : State) : exec (.redMaxI m d a) s = execRedMaxI m d a s := rfl
@[simp] theorem exec_redFmax (m : Mods) (d : Reg) (a : Reg) (s : State) : exec (.redFmax m d a) s = execRedFmax m d a s := rfl
@[simp] theorem exec_redFmin (m : Mods) (d : Reg) (a : Reg) (s : State) : exec (.redFmin m d a) s = execRedFmin m d a s := rfl
@[simp] theorem exec_ixr (m : Mods) (d : Reg) (a : Reg) (s : State) : exec (.ixr m d a) s = execIxr m d a s := rfl
@[simp] theorem exec_ixw (m : Mods) (a : Reg) (b : Src) (s : State) : exec (.ixw m a b) s = execIxw m a b s := rfl
@[simp] theorem exec_win (m : Mods) (b : Src) (s : State) : exec (.win m b) s = execWin m b s := rfl
@[simp] theorem exec_tid (m : Mods) (d : Reg) (b : BitVec 7) (s : State) : exec (.tid m d b) s = execTid m d b s := rfl
@[simp] theorem exec_mand (m : Mods) (d : MaskReg) (a : MaskReg) (b : MaskReg) (s : State) : exec (.mand m d a b) s = execMand m d a b s := rfl
@[simp] theorem exec_mor (m : Mods) (d : MaskReg) (a : MaskReg) (b : MaskReg) (s : State) : exec (.mor m d a b) s = execMor m d a b s := rfl
@[simp] theorem exec_mxor (m : Mods) (d : MaskReg) (a : MaskReg) (b : MaskReg) (s : State) : exec (.mxor m d a b) s = execMxor m d a b s := rfl
@[simp] theorem exec_mnot (m : Mods) (d : MaskReg) (a : MaskReg) (s : State) : exec (.mnot m d a) s = execMnot m d a s := rfl
@[simp] theorem exec_m2v (m : Mods) (d : Reg) (a : MaskReg) (s : State) : exec (.m2v m d a) s = execM2v m d a s := rfl
@[simp] theorem exec_v2m (m : Mods) (d : MaskReg) (a : Reg) (s : State) : exec (.v2m m d a) s = execV2m m d a s := rfl
@[simp] theorem exec_ld8 (m : Mods) (d : Reg) (a : Reg) (b : Off) (s : State) : exec (.ld8 m d a b) s = execLd8 m d a b s := rfl
@[simp] theorem exec_ld8s (m : Mods) (d : Reg) (a : Reg) (b : Off) (s : State) : exec (.ld8s m d a b) s = execLd8s m d a b s := rfl
@[simp] theorem exec_ld16 (m : Mods) (d : Reg) (a : Reg) (b : Off) (s : State) : exec (.ld16 m d a b) s = execLd16 m d a b s := rfl
@[simp] theorem exec_ld16s (m : Mods) (d : Reg) (a : Reg) (b : Off) (s : State) : exec (.ld16s m d a b) s = execLd16s m d a b s := rfl
@[simp] theorem exec_ld32 (m : Mods) (d : Reg) (a : Reg) (b : Off) (s : State) : exec (.ld32 m d a b) s = execLd32 m d a b s := rfl
@[simp] theorem exec_ld64 (m : Mods) (d : Reg) (a : Reg) (b : Off) (s : State) : exec (.ld64 m d a b) s = execLd64 m d a b s := rfl
@[simp] theorem exec_ld128 (m : Mods) (d : Reg) (a : Reg) (b : Off) (s : State) : exec (.ld128 m d a b) s = execLd128 m d a b s := rfl
@[simp] theorem exec_st8 (m : Mods) (d : Reg) (a : Reg) (b : Off) (s : State) : exec (.st8 m d a b) s = execSt8 m d a b s := rfl
@[simp] theorem exec_st16 (m : Mods) (d : Reg) (a : Reg) (b : Off) (s : State) : exec (.st16 m d a b) s = execSt16 m d a b s := rfl
@[simp] theorem exec_st32 (m : Mods) (d : Reg) (a : Reg) (b : Off) (s : State) : exec (.st32 m d a b) s = execSt32 m d a b s := rfl
@[simp] theorem exec_st64 (m : Mods) (d : Reg) (a : Reg) (b : Off) (s : State) : exec (.st64 m d a b) s = execSt64 m d a b s := rfl
@[simp] theorem exec_st128 (m : Mods) (d : Reg) (a : Reg) (b : Off) (s : State) : exec (.st128 m d a b) s = execSt128 m d a b s := rfl
@[simp] theorem exec_ldU (m : Mods) (d : Reg) (a : Reg) (b : Off) (s : State) : exec (.ldU m d a b) s = execLdU m d a b s := rfl
@[simp] theorem exec_stU (m : Mods) (d : Reg) (a : Reg) (b : Off) (s : State) : exec (.stU m d a b) s = execStU m d a b s := rfl
@[simp] theorem exec_ldRc (m : Mods) (d : Reg) (a : Reg) (b : Off) (s : State) : exec (.ldRc m d a b) s = execLdRc m d a b s := rfl
@[simp] theorem exec_pf (m : Mods) (a : Reg) (b : Off) (s : State) : exec (.pf m a b) s = execPf m a b s := rfl
@[simp] theorem exec_atomAdd (m : Mods) (d : Reg) (a : Reg) (b : Src) (s : State) : exec (.atomAdd m d a b) s = execAtomAdd m d a b s := rfl
@[simp] theorem exec_atomMinI (m : Mods) (d : Reg) (a : Reg) (b : Src) (s : State) : exec (.atomMinI m d a b) s = execAtomMinI m d a b s := rfl
@[simp] theorem exec_atomMaxI (m : Mods) (d : Reg) (a : Reg) (b : Src) (s : State) : exec (.atomMaxI m d a b) s = execAtomMaxI m d a b s := rfl
@[simp] theorem exec_atomMinN (m : Mods) (d : Reg) (a : Reg) (b : Src) (s : State) : exec (.atomMinN m d a b) s = execAtomMinN m d a b s := rfl
@[simp] theorem exec_atomMaxN (m : Mods) (d : Reg) (a : Reg) (b : Src) (s : State) : exec (.atomMaxN m d a b) s = execAtomMaxN m d a b s := rfl
@[simp] theorem exec_atomAnd (m : Mods) (d : Reg) (a : Reg) (b : Src) (s : State) : exec (.atomAnd m d a b) s = execAtomAnd m d a b s := rfl
@[simp] theorem exec_atomOr (m : Mods) (d : Reg) (a : Reg) (b : Src) (s : State) : exec (.atomOr m d a b) s = execAtomOr m d a b s := rfl
@[simp] theorem exec_atomXor (m : Mods) (d : Reg) (a : Reg) (b : Src) (s : State) : exec (.atomXor m d a b) s = execAtomXor m d a b s := rfl
@[simp] theorem exec_atomXch (m : Mods) (d : Reg) (a : Reg) (b : Src) (s : State) : exec (.atomXch m d a b) s = execAtomXch m d a b s := rfl
@[simp] theorem exec_atomCas (m : Mods) (d : Reg) (a : Reg) (b : Src) (c : Src) (s : State) : exec (.atomCas m d a b c) s = execAtomCas m d a b c s := rfl
@[simp] theorem exec_atomFadd (m : Mods) (d : Reg) (a : Reg) (b : Src) (s : State) : exec (.atomFadd m d a b) s = execAtomFadd m d a b s := rfl
@[simp] theorem exec_atomAdd64 (m : Mods) (d : Reg) (a : Reg) (b : Src) (s : State) : exec (.atomAdd64 m d a b) s = execAtomAdd64 m d a b s := rfl
@[simp] theorem exec_redmAdd (m : Mods) (a : Reg) (b : Src) (s : State) : exec (.redmAdd m a b) s = execRedmAdd m a b s := rfl
@[simp] theorem exec_redmFadd (m : Mods) (a : Reg) (b : Src) (s : State) : exec (.redmFadd m a b) s = execRedmFadd m a b s := rfl
@[simp] theorem exec_redmMax (m : Mods) (a : Reg) (b : Src) (s : State) : exec (.redmMax m a b) s = execRedmMax m a b s := rfl
@[simp] theorem exec_fence (m : Mods) (s : State) : exec (.fence m) s = execFence m s := rfl
@[simp] theorem exec_nap (m : Mods) (a : Reg) (b : Src) (s : State) : exec (.nap m a b) s = execNap m a b s := rfl
@[simp] theorem exec_mbxLd (m : Mods) (d : Reg) (a : Reg) (b : Off) (s : State) : exec (.mbxLd m d a b) s = execMbxLd m d a b s := rfl
@[simp] theorem exec_mbxSt (m : Mods) (d : Reg) (a : Reg) (b : Off) (s : State) : exec (.mbxSt m d a b) s = execMbxSt m d a b s := rfl
@[simp] theorem exec_mbxTst (m : Mods) (d : Reg) (a : Reg) (b : Off) (s : State) : exec (.mbxTst m d a b) s = execMbxTst m d a b s := rfl
@[simp] theorem exec_br (m : Mods) (off : BitVec 21) (s : State) : exec (.br m off) s = execBr m off s := rfl
@[simp] theorem exec_brC (m : Mods) (k : MaskReg) (off : BitVec 18) (s : State) : exec (.brC m k off) s = execBrC m k off s := rfl
@[simp] theorem exec_brAny (m : Mods) (k : MaskReg) (off : BitVec 18) (s : State) : exec (.brAny m k off) s = execBrAny m k off s := rfl
@[simp] theorem exec_brAll (m : Mods) (k : MaskReg) (off : BitVec 18) (s : State) : exec (.brAll m k off) s = execBrAll m k off s := rfl
@[simp] theorem exec_brx (m : Mods) (d : BitVec 7) (a : Reg) (b : Reg) (s : State) : exec (.brx m d a b) s = execBrx m d a b s := rfl
@[simp] theorem exec_call (m : Mods) (off : BitVec 21) (s : State) : exec (.call m off) s = execCall m off s := rfl
@[simp] theorem exec_callX (m : Mods) (a : Reg) (s : State) : exec (.callX m a) s = execCallX m a s := rfl
@[simp] theorem exec_ret (m : Mods) (s : State) : exec (.ret m) s = execRet m s := rfl
@[simp] theorem exec_div (m : Mods) (off : BitVec 18) (s : State) : exec (.div m off) s = execDiv m off s := rfl
@[simp] theorem exec_join (m : Mods) (s : State) : exec (.join m) s = execJoin m s := rfl
@[simp] theorem exec_exit (m : Mods) (s : State) : exec (.exit m) s = execExit m s := rfl
@[simp] theorem exec_barArr (m : Mods) (scope : BitVec 3) (num : BitVec 4) (s : State) : exec (.barArr m scope num) s = execBarArr m scope num s := rfl
@[simp] theorem exec_barArrRlx (m : Mods) (scope : BitVec 3) (num : BitVec 4) (s : State) : exec (.barArrRlx m scope num) s = execBarArrRlx m scope num s := rfl
@[simp] theorem exec_barWait (m : Mods) (scope : BitVec 3) (num : BitVec 4) (s : State) : exec (.barWait m scope num) s = execBarWait m scope num s := rfl
@[simp] theorem exec_barSync (m : Mods) (scope : BitVec 3) (num : BitVec 4) (s : State) : exec (.barSync m scope num) s = execBarSync m scope num s := rfl
@[simp] theorem exec_syncP (m : Mods) (a : Reg) (s : State) : exec (.syncP m a) s = execSyncP m a s := rfl
@[simp] theorem exec_idem (m : Mods) (s : State) : exec (.idem m) s = execIdem m s := rfl
@[simp] theorem exec_nop (m : Mods) (s : State) : exec (.nop m) s = execNop m s := rfl
@[simp] theorem exec_loop (m : Mods) (c : BitVec 3) (off : BitVec 18) (s : State) : exec (.loop m c off) s = execLoop m c off s := rfl
@[simp] theorem exec_belPut (m : Mods) (d : Reg) (a : Reg) (b : Src) (s : State) : exec (.belPut m d a b) s = execBelPut m d a b s := rfl
@[simp] theorem exec_belRet (m : Mods) (d : Reg) (a : Reg) (s : State) : exec (.belRet m d a) s = execBelRet m d a s := rfl
@[simp] theorem exec_belGet (m : Mods) (d : Reg) (a : Reg) (b : Src) (s : State) : exec (.belGet m d a b) s = execBelGet m d a b s := rfl
@[simp] theorem exec_belFacts (m : Mods) (d : Reg) (a : Reg) (s : State) : exec (.belFacts m d a) s = execBelFacts m d a s := rfl
@[simp] theorem exec_belTst (m : Mods) (d : MaskReg) (a : Reg) (b : Src) (s : State) : exec (.belTst m d a b) s = execBelTst m d a b s := rfl
@[simp] theorem exec_goalAdd (m : Mods) (a : Reg) (b : Reg) (s : State) : exec (.goalAdd m a b) s = execGoalAdd m a b s := rfl
@[simp] theorem exec_goalDone (m : Mods) (d : Reg) (a : Reg) (b : Src) (s : State) : exec (.goalDone m d a b) s = execGoalDone m d a b s := rfl
@[simp] theorem exec_goalFail (m : Mods) (a : Reg) (s : State) : exec (.goalFail m a) s = execGoalFail m a s := rfl
@[simp] theorem exec_intAdopt (m : Mods) (d : Reg) (a : Reg) (b : Reg) (s : State) : exec (.intAdopt m d a b) s = execIntAdopt m d a b s := rfl
@[simp] theorem exec_intDrop (m : Mods) (a : Reg) (s : State) : exec (.intDrop m a) s = execIntDrop m a s := rfl
@[simp] theorem exec_intSusp (m : Mods) (d : Reg) (a : Reg) (b : Reg) (s : State) : exec (.intSusp m d a b) s = execIntSusp m d a b s := rfl
@[simp] theorem exec_intResm (m : Mods) (d : Reg) (a : Reg) (b : Src) (s : State) : exec (.intResm m d a b) s = execIntResm m d a b s := rfl
@[simp] theorem exec_planSub (m : Mods) (d : Reg) (a : Reg) (b : Reg) (s : State) : exec (.planSub m d a b) s = execPlanSub m d a b s := rfl
@[simp] theorem exec_planRet (m : Mods) (a : Reg) (b : Src) (s : State) : exec (.planRet m a b) s = execPlanRet m a b s := rfl
@[simp] theorem exec_step (m : Mods) (a : Reg) (b : Src) (s : State) : exec (.step m a b) s = execStep m a b s := rfl
@[simp] theorem exec_intInfo (m : Mods) (d : Reg) (a : Reg) (s : State) : exec (.intInfo m d a) s = execIntInfo m d a s := rfl
@[simp] theorem exec_agtNew (m : Mods) (d : Reg) (b : Src) (s : State) : exec (.agtNew m d b) s = execAgtNew m d b s := rfl
@[simp] theorem exec_agtFree (m : Mods) (a : Reg) (s : State) : exec (.agtFree m a) s = execAgtFree m a s := rfl
@[simp] theorem exec_tileClaim (m : Mods) (d : Reg) (b : Src) (s : State) : exec (.tileClaim m d b) s = execTileClaim m d b s := rfl
@[simp] theorem exec_tileRel (m : Mods) (a : SlotRef) (b : Src) (s : State) : exec (.tileRel m a b) s = execTileRel m a b s := rfl
@[simp] theorem exec_tileSt (m : Mods) (d : Reg) (a : SlotRef) (s : State) : exec (.tileSt m d a) s = execTileSt m d a s := rfl
@[simp] theorem exec_cpIn (m : Mods) (d : Reg) (a : Reg) (b : Src) (s : State) : exec (.cpIn m d a b) s = execCpIn m d a b s := rfl
@[simp] theorem exec_cpOut (m : Mods) (d : Reg) (a : Reg) (b : Src) (s : State) : exec (.cpOut m d a b) s = execCpOut m d a b s := rfl
@[simp] theorem exec_cpMem (m : Mods) (d : Reg) (a : Reg) (b : Src) (s : State) : exec (.cpMem m d a b) s = execCpMem m d a b s := rfl
@[simp] theorem exec_cpInMx (m : Mods) (d : Reg) (a : Reg) (b : Src) (s : State) : exec (.cpInMx m d a b) s = execCpInMx m d a b s := rfl
@[simp] theorem exec_mxMma (m : Mods) (d : Fin 2) (a : SlotRef) (b : SlotRef) (s : State) : exec (.mxMma m d a b) s = execMxMma m d a b s := rfl
@[simp] theorem exec_mxSm (m : Mods) (d : Fin 2) (a : SlotRef) (b : Src) (s : State) : exec (.mxSm m d a b) s = execMxSm m d a b s := rfl
@[simp] theorem exec_mxRd (m : Mods) (d : Reg) (a : Fin 2) (b : Src) (s : State) : exec (.mxRd m d a b) s = execMxRd m d a b s := rfl
@[simp] theorem exec_mxClr (m : Mods) (d : Fin 2) (s : State) : exec (.mxClr m d) s = execMxClr m d s := rfl
@[simp] theorem exec_mxCtlClaim (m : Mods) (d : Fin 2) (s : State) : exec (.mxCtlClaim m d) s = execMxCtlClaim m d s := rfl
@[simp] theorem exec_mxCtlBind (m : Mods) (d : Fin 2) (s : State) : exec (.mxCtlBind m d) s = execMxCtlBind m d s := rfl
@[simp] theorem exec_mxCtlRelease (m : Mods) (d : Fin 2) (s : State) : exec (.mxCtlRelease m d) s = execMxCtlRelease m d s := rfl
@[simp] theorem exec_tlWait (m : Mods) (a : Fin 16) (b : Src) (s : State) : exec (.tlWait m a b) s = execTlWait m a b s := rfl
@[simp] theorem exec_tlRd (m : Mods) (d : Reg) (a : Fin 16) (b : Fin 2) (s : State) : exec (.tlRd m d a b) s = execTlRd m d a b s := rfl
@[simp] theorem exec_tlInc (m : Mods) (d : Reg) (a : Fin 16) (b : Src) (s : State) : exec (.tlInc m d a b) s = execTlInc m d a b s := rfl
@[simp] theorem exec_bankCmd (m : Mods) (d : Reg) (a : Reg) (b : Src) (s : State) : exec (.bankCmd m d a b) s = execBankCmd m d a b s := rfl
@[simp] theorem exec_launch (m : Mods) (d : MaskReg) (a : Reg) (s : State) : exec (.launch m d a) s = execLaunch m d a s := rfl
@[simp] theorem exec_recEmit (m : Mods) (d : Reg) (a : Reg) (b : Src) (s : State) : exec (.recEmit m d a b) s = execRecEmit m d a b s := rfl
@[simp] theorem exec_logApp (m : Mods) (d : Reg) (a : Reg) (b : Reg) (s : State) : exec (.logApp m d a b) s = execLogApp m d a b s := rfl
@[simp] theorem exec_envClaim (m : Mods) (d : Reg) (b : Src) (s : State) : exec (.envClaim m d b) s = execEnvClaim m d b s := rfl
@[simp] theorem exec_envRel (m : Mods) (a : EnvRef) (b : Src) (s : State) : exec (.envRel m a b) s = execEnvRel m a b s := rfl
@[simp] theorem exec_envClr (m : Mods) (d : EnvRef) (b : Reg) (s : State) : exec (.envClr m d b) s = execEnvClr m d b s := rfl
@[simp] theorem exec_envIns (m : Mods) (d : EnvRef) (a : Reg) (b : Src) (s : State) : exec (.envIns m d a b) s = execEnvIns m d a b s := rfl
@[simp] theorem exec_envSum (m : Mods) (d : EnvRef) (a : EnvRef) (b : EnvRef) (s : State) : exec (.envSum m d a b) s = execEnvSum m d a b s := rfl
@[simp] theorem exec_envMax (m : Mods) (d : EnvRef) (a : EnvRef) (b : EnvRef) (s : State) : exec (.envMax m d a b) s = execEnvMax m d a b s := rfl
@[simp] theorem exec_envIcv (m : Mods) (d : EnvRef) (a : EnvRef) (b : EnvRef) (s : State) : exec (.envIcv m d a b) s = execEnvIcv m d a b s := rfl
@[simp] theorem exec_envConj (m : Mods) (d : EnvRef) (a : EnvRef) (b : Reg) (s : State) : exec (.envConj m d a b) s = execEnvConj m d a b s := rfl
@[simp] theorem exec_envSimp (m : Mods) (d : EnvRef) (a : EnvRef) (s : State) : exec (.envSimp m d a) s = execEnvSimp m d a s := rfl
@[simp] theorem exec_envEval (m : Mods) (d : Reg) (a : EnvRef) (b : Src) (s : State) : exec (.envEval m d a b) s = execEnvEval m d a b s := rfl
@[simp] theorem exec_envSlope (m : Mods) (d : Reg) (a : EnvRef) (b : Src) (s : State) : exec (.envSlope m d a b) s = execEnvSlope m d a b s := rfl
@[simp] theorem exec_envRd (m : Mods) (d : Reg) (a : EnvRef) (b : Src) (s : State) : exec (.envRd m d a b) s = execEnvRd m d a b s := rfl
@[simp] theorem exec_envCnt (m : Mods) (d : Reg) (a : EnvRef) (s : State) : exec (.envCnt m d a) s = execEnvCnt m d a s := rfl
@[simp] theorem exec_envLd (m : Mods) (d : EnvRef) (a : Reg) (s : State) : exec (.envLd m d a) s = execEnvLd m d a s := rfl
@[simp] theorem exec_envSt (m : Mods) (d : EnvRef) (a : Reg) (s : State) : exec (.envSt m d a) s = execEnvSt m d a s := rfl
@[simp] theorem exec_csrRd (m : Mods) (d : Reg) (a : Csr) (s : State) : exec (.csrRd m d a) s = execCsrRd m d a s := rfl
@[simp] theorem exec_csrWr (m : Mods) (a : Csr) (b : Src) (s : State) : exec (.csrWr m a b) s = execCsrWr m a b s := rfl
@[simp] theorem exec_csrSet (m : Mods) (d : Reg) (a : Csr) (b : Src) (s : State) : exec (.csrSet m d a b) s = execCsrSet m d a b s := rfl
@[simp] theorem exec_csrClr (m : Mods) (d : Reg) (a : Csr) (b : Src) (s : State) : exec (.csrClr m d a b) s = execCsrClr m d a b s := rfl
@[simp] theorem exec_trap (m : Mods) (b : Src) (s : State) : exec (.trap m b) s = execTrap m b s := rfl
@[simp] theorem exec_tret (m : Mods) (s : State) : exec (.tret m) s = execTret m s := rfl
@[simp] theorem exec_brk (m : Mods) (b : BitVec 7) (s : State) : exec (.brk m b) s = execBrk m b s := rfl
@[simp] theorem exec_clk (m : Mods) (d : Reg) (s : State) : exec (.clk m d) s = execClk m d s := rfl
@[simp] theorem exec_fenceWin (m : Mods) (s : State) : exec (.fenceWin m) s = execFenceWin m s := rfl
@[simp] theorem exec_specialFunctionResult (op : Nat) (s : State) : exec (.specialFunctionResult op) s = execSpecialFunctionResult op s := rfl
@[simp] theorem exec_mailboxStorePerform (req : Nat) (s : State) : exec (.mailboxStorePerform req) s = execMailboxStorePerform req s := rfl
@[simp] theorem exec_homeAcceptance (req : Nat) (s : State) : exec (.homeAcceptance req) s = execHomeAcceptance req s := rfl
@[simp] theorem exec_loadResultWrite (req : Nat) (s : State) : exec (.loadResultWrite req) s = execLoadResultWrite req s := rfl
@[simp] theorem exec_writeAcknowledged (req : Nat) (s : State) : exec (.writeAcknowledged req) s = execWriteAcknowledged req s := rfl
@[simp] theorem exec_gridEndFlush (grid : Nat) (s : State) : exec (.gridEndFlush grid) s = execGridEndFlush grid s := rfl
@[simp] theorem exec_barrierArrivalCount (arr : Nat) (s : State) : exec (.barrierArrivalCount arr) s = execBarrierArrivalCount arr s := rfl
@[simp] theorem exec_stewardReply (req : Nat) (s : State) : exec (.stewardReply req) s = execStewardReply req s := rfl
@[simp] theorem exec_exitEndRequest (req : Nat) (s : State) : exec (.exitEndRequest req) s = execExitEndRequest req s := rfl
@[simp] theorem exec_planSelection (quad : Nat) (s : State) : exec (.planSelection quad) s = execPlanSelection quad s := rfl
@[simp] theorem exec_activationEntry (quad : Nat) (s : State) : exec (.activationEntry quad) s = execActivationEntry quad s := rfl
@[simp] theorem exec_coachTimerDeparture (quad : Nat) (node : Nat) (s : State) : exec (.coachTimerDeparture quad node) s = execCoachTimerDeparture quad node s := rfl
@[simp] theorem exec_dieFifoPlacement (die : Nat) (s : State) : exec (.dieFifoPlacement die) s = execDieFifoPlacement die s := rfl
@[simp] theorem exec_porterChunk (core : Nat) (ctx : Nat) (s : State) : exec (.porterChunk core ctx) s = execPorterChunk core ctx s := rfl
@[simp] theorem exec_followOnIssue (core : Nat) (x : Nat) (s : State) : exec (.followOnIssue core x) s = execFollowOnIssue core x s := rfl
@[simp] theorem exec_matrixCommandExecute (core : Nat) (x : Nat) (s : State) : exec (.matrixCommandExecute core x) s = execMatrixCommandExecute core x s := rfl
@[simp] theorem exec_bankListStart (engine : Nat) (s : State) : exec (.bankListStart engine) s = execBankListStart engine s := rfl
@[simp] theorem exec_bend (engine : Nat) (s : State) : exec (.bend engine) s = execBend engine s := rfl
@[simp] theorem exec_bvec (engine : Nat) (s : State) : exec (.bvec engine) s = execBvec engine s := rfl
@[simp] theorem exec_bmv (engine : Nat) (s : State) : exec (.bmv engine) s = execBmv engine s := rfl
@[simp] theorem exec_bclr (engine : Nat) (s : State) : exec (.bclr engine) s = execBclr engine s := rfl
@[simp] theorem exec_bout (engine : Nat) (s : State) : exec (.bout engine) s = execBout engine s := rfl
@[simp] theorem exec_bsync (engine : Nat) (s : State) : exec (.bsync engine) s = execBsync engine s := rfl
@[simp] theorem exec_deferredLaunchEnqueue (fe : Nat) (s : State) : exec (.deferredLaunchEnqueue fe) s = execDeferredLaunchEnqueue fe s := rfl
@[simp] theorem exec_envelopeExecute (core : Nat) (s : State) : exec (.envelopeExecute core) s = execEnvelopeExecute core s := rfl
@[simp] theorem exec_clauseEntry (party : Nat) (s : State) : exec (.clauseEntry party) s = execClauseEntry party s := rfl
@[simp] theorem exec_lanePick (lane : Nat) (s : State) : exec (.lanePick lane) s = execLanePick lane s := rfl
@[simp] theorem exec_trapEntry (party : Nat) (s : State) : exec (.trapEntry party) s = execTrapEntry party s := rfl
@[simp] theorem exec_napTimeout (party : Nat) (s : State) : exec (.napTimeout party) s = execNapTimeout party s := rfl
@[simp] theorem exec_periodBoundary  (s : State) : exec .periodBoundary s = execPeriodBoundary s := rfl
@[simp] theorem exec_tokenReturn (core : Nat) (s : State) : exec (.tokenReturn core) s = execTokenReturn core s := rfl
@[simp] theorem exec_watchdogExpiry (party : Nat) (s : State) : exec (.watchdogExpiry party) s = execWatchdogExpiry party s := rfl
@[simp] theorem exec_gridPlacement (fe : Nat) (s : State) : exec (.gridPlacement fe) s = execGridPlacement fe s := rfl
@[simp] theorem exec_crewAdmission (crew : Nat) (s : State) : exec (.crewAdmission crew) s = execCrewAdmission crew s := rfl
@[simp] theorem exec_restoration (crew : Nat) (s : State) : exec (.restoration crew) s = execRestoration crew s := rfl
@[simp] theorem exec_preemption (fe : Nat) (s : State) : exec (.preemption fe) s = execPreemption fe s := rfl
@[simp] theorem exec_lodgingRestore (fe : Nat) (s : State) : exec (.lodgingRestore fe) s = execLodgingRestore fe s := rfl
@[simp] theorem exec_caravanMemberLoss (caravan : Nat) (s : State) : exec (.caravanMemberLoss caravan) s = execCaravanMemberLoss caravan s := rfl
@[simp] theorem exec_functionLevelReset (fe : Nat) (s : State) : exec (.functionLevelReset fe) s = execFunctionLevelReset fe s := rfl
@[simp] theorem exec_pfReset  (s : State) : exec .pfReset s = execPfReset s := rfl
@[simp] theorem exec_warmReset  (s : State) : exec .warmReset s = execWarmReset s := rfl
@[simp] theorem exec_coldReset  (s : State) : exec .coldReset s = execColdReset s := rfl
@[simp] theorem exec_firmwareBoot  (s : State) : exec .firmwareBoot s = execFirmwareBoot s := rfl
@[simp] theorem exec_recoveryImage (image : FwImage) (s : State) : exec (.recoveryImage image) s = execRecoveryImage image s := rfl
@[simp] theorem exec_fullServiceTransition  (s : State) : exec .fullServiceTransition s = execFullServiceTransition s := rfl
@[simp] theorem exec_innkeeperMismatch  (s : State) : exec .innkeeperMismatch s = execInnkeeperMismatch s := rfl
@[simp] theorem exec_doorbell (fe : Nat) (tail : DWord) (s : State) : exec (.doorbell fe tail) s = execDoorbell fe tail s := rfl
@[simp] theorem exec_statusResume (fe : Nat) (s : State) : exec (.statusResume fe) s = execStatusResume fe s := rfl
@[simp] theorem exec_powerCap (watts : BitVec 16) (s : State) : exec (.powerCap watts) s = execPowerCap watts s := rfl
@[simp] theorem exec_barRegisterWrite (fe : Nat) (off : Nat) (value : DWord) (s : State) : exec (.barRegisterWrite fe off value) s = execBarRegisterWrite fe off value s := rfl
@[simp] theorem exec_packetStart (fe : Nat) (s : State) : exec (.packetStart fe) s = execPacketStart fe s := rfl
@[simp] theorem exec_packetWait (fe : Nat) (s : State) : exec (.packetWait fe) s = execPacketWait fe s := rfl
@[simp] theorem exec_packetSignal (pkt : Nat) (s : State) : exec (.packetSignal pkt) s = execPacketSignal pkt s := rfl
@[simp] theorem exec_msixUnmask (fe : Nat) (vector : Nat) (s : State) : exec (.msixUnmask fe vector) s = execMsixUnmask fe vector s := rfl
@[simp] theorem exec_nopPacket (fe : Nat) (s : State) : exec (.nopPacket fe) s = execNopPacket fe s := rfl
@[simp] theorem exec_grid (fe : Nat) (s : State) : exec (.grid fe) s = execGrid fe s := rfl
@[simp] theorem exec_copy (fe : Nat) (s : State) : exec (.copy fe) s = execCopy fe s := rfl
@[simp] theorem exec_ib (fe : Nat) (s : State) : exec (.ib fe) s = execIb fe s := rfl
@[simp] theorem exec_loopPacket (fe : Nat) (s : State) : exec (.loopPacket fe) s = execLoopPacket fe s := rfl
@[simp] theorem exec_ffence (fe : Nat) (s : State) : exec (.ffence fe) s = execFfence fe s := rfl
@[simp] theorem exec_inval (fe : Nat) (s : State) : exec (.inval fe) s = execInval fe s := rfl
@[simp] theorem exec_invalidationArrival (inv : Nat) (quad : Nat) (s : State) : exec (.invalidationArrival inv quad) s = execInvalidationArrival inv quad s := rfl
@[simp] theorem exec_invalidationComplete (inv : Nat) (s : State) : exec (.invalidationComplete inv) s = execInvalidationComplete inv s := rfl
@[simp] theorem exec_pageWalk (quad : Nat) (fe : Nat) (va : DWord) (s : State) : exec (.pageWalk quad fe va) s = execPageWalk quad fe va s := rfl
@[simp] theorem exec_coll (fe : Nat) (s : State) : exec (.coll fe) s = execColl fe s := rfl
@[simp] theorem exec_collectiveComplete (coll : Nat) (s : State) : exec (.collectiveComplete coll) s = execCollectiveComplete coll s := rfl
@[simp] theorem exec_msg (fe : Nat) (s : State) : exec (.msg fe) s = execMsg fe s := rfl
@[simp] theorem exec_messageReceive (message : Nat) (s : State) : exec (.messageReceive message) s = execMessageReceive message s := rfl
@[simp] theorem exec_regionCreate (fe : Nat) (s : State) : exec (.regionCreate fe) s = execRegionCreate fe s := rfl
@[simp] theorem exec_regionDestroy (fe : Nat) (s : State) : exec (.regionDestroy fe) s = execRegionDestroy fe s := rfl
@[simp] theorem exec_agents (fe : Nat) (s : State) : exec (.agents fe) s = execAgents fe s := rfl
@[simp] theorem exec_libraryInstall (fe : Nat) (base : DWord) (prio : BitVec 4) (s : State) : exec (.libraryInstall fe base prio) s = execLibraryInstall fe base prio s := rfl
@[simp] theorem exec_lodgingDescriptorWrite (fe : Nat) (desc : DWord) (s : State) : exec (.lodgingDescriptorWrite fe desc) s = execLodgingDescriptorWrite fe desc s := rfl
@[simp] theorem exec_blockAssign (block : Nat) (owner : Owner) (s : State) : exec (.blockAssign block owner) s = execBlockAssign block owner s := rfl
@[simp] theorem exec_winOpen (req : WinRequest) (s : State) : exec (.winOpen req) s = execWinOpen req s := rfl
@[simp] theorem exec_winClose (window : Nat) (s : State) : exec (.winClose window) s = execWinClose window s := rfl
@[simp] theorem exec_cellarPin (fe : Nat) (base : Nat) (len : Nat) (s : State) : exec (.cellarPin fe base len) s = execCellarPin fe base len s := rfl
@[simp] theorem exec_cellarUnpin (fe : Nat) (base : Nat) (len : Nat) (s : State) : exec (.cellarUnpin fe base len) s = execCellarUnpin fe base len s := rfl
@[simp] theorem exec_attestationReport (fe : Nat) (nonce : BitVec 256) (s : State) : exec (.attestationReport fe nonce) s = execAttestationReport fe nonce s := rfl
@[simp] theorem exec_migration (fe : Nat) (report : Report) (s : State) : exec (.migration fe report) s = execMigration fe report s := rfl
@[simp] theorem exec_passportAccept (fe : Nat) (passport : Passport) (s : State) : exec (.passportAccept fe passport) s = execPassportAccept fe passport s := rfl
@[simp] theorem exec_caravanSliceStart (caravan : Nat) (s : State) : exec (.caravanSliceStart caravan) s = execCaravanSliceStart caravan s := rfl
@[simp] theorem exec_lineWriteMemory (line : Nat) (s : State) : exec (.lineWriteMemory line) s = execLineWriteMemory line s := rfl
@[simp] theorem exec_lineReadMemory (line : Nat) (s : State) : exec (.lineReadMemory line) s = execLineReadMemory line s := rfl
@[simp] theorem exec_lineWriteback (line : Nat) (s : State) : exec (.lineWriteback line) s = execLineWriteback line s := rfl
@[simp] theorem exec_patrolScrub (line : Nat) (s : State) : exec (.patrolScrub line) s = execPatrolScrub line s := rfl
@[simp] theorem exec_regionTagLoss (slice : Nat) (set : Nat) (s : State) : exec (.regionTagLoss slice set) s = execRegionTagLoss slice set s := rfl
@[simp] theorem exec_fabricTimeout (req : Nat) (s : State) : exec (.fabricTimeout req) s = execFabricTimeout req s := rfl
@[simp] theorem exec_portFailure (port : Nat) (s : State) : exec (.portFailure port) s = execPortFailure port s := rfl
@[simp] theorem exec_budgetPeriod  (s : State) : exec .budgetPeriod s = execBudgetPeriod s := rfl
@[simp] theorem exec_powerSample (watts : Nat) (average : Nat) (s : State) : exec (.powerSample watts average) s = execPowerSample watts average s := rfl
@[simp] theorem exec_blockedOnDependence (fe : Nat) (s : State) : exec (.blockedOnDependence fe) s = execBlockedOnDependence fe s := rfl
@[simp] theorem exec_caravanSliceEnd (caravan : Nat) (s : State) : exec (.caravanSliceEnd caravan) s = execCaravanSliceEnd caravan s := rfl
@[simp] theorem exec_debugHalt (party : Nat) (s : State) : exec (.debugHalt party) s = execDebugHalt party s := rfl
@[simp] theorem exec_restoreAcknowledged (fe : Nat) (s : State) : exec (.restoreAcknowledged fe) s = execRestoreAcknowledged fe s := rfl
@[simp] theorem exec_failedFlit (port : Nat) (s : State) : exec (.failedFlit port) s = execFailedFlit port s := rfl

end Sys2Proof.Machine
end

