-- ==== Sys2Proof/Laws/Integer.lean ====
section
/-! SUPPORT. The integer functions said again in other words: products through 64 bits, shifts and fields by the operators of bit vectors,
counts of bits, quotients. -/

namespace Sys2Proof.Machine

open Sys2Proof

theorem absW_eq (a : Word) : absW a = if a.msb then -a else a := by
  simp [absW, BitVec.msb_eq_toInt]

theorem mulhI_eq (a b : Word) : mulhI a b = (a.signExtend 64 * b.signExtend 64).extractLsb' 32 32 := by
  apply BitVec.eq_of_toNat_eq
  have ha := BitVec.toInt_signExtend_of_le (x := a) (v := 64) (by omega)
  have hb := BitVec.toInt_signExtend_of_le (x := b) (v := 64) (by omega)
  have h1 := BitVec.toInt_lt (x := a)
  have h2 := BitVec.le_toInt (x := a)
  have h3 := BitVec.toInt_lt (x := b)
  have h4 := BitVec.le_toInt (x := b)
  have hp : (a.signExtend 64 * b.signExtend 64).toNat = (a.toInt * b.toInt % 2 ^ 64).toNat := by
    have := BitVec.toInt_mul (a.signExtend 64) (b.signExtend 64)
    rw [ha, hb] at this
    have e : a.signExtend 64 * b.signExtend 64 = BitVec.ofInt 64 (a.toInt * b.toInt) := by
      apply BitVec.eq_of_toInt_eq
      rw [this, BitVec.toInt_ofInt]
    rw [e, BitVec.toNat_ofInt]
    norm_num
  simp only [mulhI, BitVec.extractLsb'_toNat, BitVec.toNat_ofInt, hp, Nat.shiftRight_eq_div_pow]
  omega

theorem mulhN_eq (a b : Word) : mulhN a b = (a.setWidth 64 * b.setWidth 64).extractLsb' 32 32 := by
  apply BitVec.eq_of_toNat_eq
  have h1 := a.isLt
  have h2 := b.isLt
  have hp : a.toNat * b.toNat < 2 ^ 64 := by nlinarith
  simp only [mulhN, BitVec.extractLsb'_toNat, BitVec.toNat_ofNat, BitVec.toNat_mul, BitVec.toNat_setWidth, Nat.shiftRight_eq_div_pow]
  rw [Nat.mod_eq_of_lt (a := a.toNat) (by omega), Nat.mod_eq_of_lt (a := b.toNat) (by omega), Nat.mod_eq_of_lt hp]

theorem shlW_eq (a : Word) (c : Nat) : shlW a c = a <<< c := by
  unfold shlW
  split
  · rename_i h
    simp [BitVec.shiftLeft_eq_zero h]
  · rfl

theorem shrW_eq (a : Word) (c : Nat) : shrW a c = a >>> c := by
  unfold shrW
  split
  · rename_i h
    simp [BitVec.ushiftRight_eq_zero h]
  · rfl

theorem sarW_eq (a : Word) (c : Nat) : sarW a c = a.sshiftRight c := by
  have h1 := BitVec.toInt_lt (x := a)
  have h2 := BitVec.le_toInt (x := a)
  apply BitVec.eq_of_toInt_eq
  rw [BitVec.toInt_sshiftRight, Int.shiftRight_eq_div_pow]
  unfold sarW
  split
  · rename_i h
    have hc : (2 : Int) ^ 32 ≤ 2 ^ c := pow_le_pow_right₀ (by norm_num) h
    push_cast
    split
    · rename_i hn
      have : a.toInt / 2 ^ c = -1 := by
        apply Int.ediv_eq_neg_one_of_neg_of_le <;> omega
      rw [this]; decide
    · rename_i hn
      rw [Int.ediv_eq_zero_of_lt (by omega) (by omega)]; decide
  · rw [BitVec.toInt_ofInt]
    push_cast
    have hp : (1 : Int) ≤ 2 ^ c := one_le_pow₀ (by norm_num)
    norm_num at h1 h2
    apply Int.bmod_eq_of_le
    · have := Int.le_ediv_of_mul_le (a := -2147483648) (b := a.toInt) (c := 2 ^ c) (by omega) (by nlinarith)
      omega
    · have : a.toInt / 2 ^ c < 2147483648 := by
        apply Int.ediv_lt_of_lt_mul (by omega); nlinarith
      omega

theorem rotW_eq (a : Word) (c : Nat) : rotW a c = a.rotateLeft (c % 32) := by
  unfold rotW BitVec.rotateLeft
  simp only [Nat.mod_mod]
  unfold BitVec.rotateLeftAux
  by_cases h : c % 32 = 0
  · simp only [h, Nat.sub_zero, Nat.mod_self, BitVec.shiftLeft_zero, BitVec.ushiftRight_zero, BitVec.or_self]
    rw [BitVec.ushiftRight_eq_zero (by omega)]; simp
  · rw [Nat.mod_eq_of_lt (a := 32 - c % 32) (by omega)]

theorem clzFrom_le (a : Word) (n : Nat) : clzFrom a n ≤ n := by
  induction n with
  | zero => simp [clzFrom]
  | succ n ih => simp only [clzFrom]; split <;> omega

theorem clzW_eq (a : Word) : clzW a = a.clz := by
  have h : ∀ n, n < 32 → BitVec.clzAuxRec a n = BitVec.ofNat 32 (clzFrom a (n + 1) + (31 - n)) := by
    intro n
    induction n with
    | zero => intro _; simp only [BitVec.clzAuxRec, clzFrom]; split <;> rfl
    | succ n ih =>
      intro hn
      rw [BitVec.clzAuxRec]
      rw [clzFrom]
      split
      · congr 1; omega
      · rw [ih (by omega)]; congr 1; omega
  exact (h 31 (by omega)).symm

theorem popcW_eq (a : Word) : popcW a = a.cpop := by
  have h : ∀ n acc, BitVec.cpopNatRec a n acc = acc + ((List.range n).filter (fun k => a.getLsbD k)).length := by
    intro n
    induction n with
    | zero => intro acc; simp [BitVec.cpopNatRec]
    | succ n ih =>
      intro acc
      rw [BitVec.cpopNatRec, ih, List.range_succ, List.filter_append, List.length_append]
      cases hb : a.getLsbD n
      · simp [hb]
      · simp [hb]; omega
  unfold popcW BitVec.cpop
  rw [h]
  simp

/-- The bits of a number, summed. -/
theorem bits_sum {w : Nat} (x : BitVec w) (n : Nat) :
    ((List.range n).map (fun k => if x.getLsbD k then 2 ^ k else 0)).sum = x.toNat % 2 ^ n := by
  induction n with
  | zero => simp [Nat.mod_one]
  | succ n ih =>
    rw [List.range_succ, List.map_append, List.sum_append, ih]
    simp only [List.map_cons, List.map_nil, List.sum_cons, List.sum_nil, Nat.add_zero, BitVec.getLsbD, Nat.testBit_eq_decide_div_mod_eq]
    rw [Nat.pow_succ, Nat.mod_mul]
    have := Nat.mod_two_eq_zero_or_one (x.toNat / 2 ^ n)
    rcases this with h | h <;> simp [h]

theorem brevW_eq (a : Word) : brevW a = a.reverse := by
  unfold brevW
  have h := bits_sum a.reverse 32
  rw [Nat.mod_eq_of_lt a.reverse.isLt] at h
  have e : ((List.range 32).map (fun k => if a.getLsbD (31 - k) then 2 ^ k else 0)) =
      ((List.range 32).map (fun k => if a.reverse.getLsbD k then 2 ^ k else 0)) := by
    apply List.map_congr_left
    intro k hk
    have hk : k < 32 := List.mem_range.1 hk
    rw [BitVec.getLsbD_reverse, BitVec.getMsbD_eq_getLsbD]
    simp [hk]
  rw [e, h]
  simp

theorem divI_q (a b : Word) : (divI a b).1 = if b = 0 then 0xFFFFFFFF else a.sdiv b := by
  unfold divI
  split
  · rfl
  · apply BitVec.eq_of_toInt_eq
    rw [BitVec.toInt_sdiv, BitVec.toInt_ofInt]

theorem divI_r (a b : Word) : (divI a b).2 = if b = 0 then a else a.srem b := by
  unfold divI
  split
  · rfl
  · apply BitVec.eq_of_toInt_eq
    rw [BitVec.toInt_srem, BitVec.toInt_ofInt, ← BitVec.toInt_srem]
    exact BitVec.toInt_bmod_cancel _

theorem divN_q (a b : Word) : (divN a b).1 = if b = 0 then 0xFFFFFFFF else a.udiv b := by
  unfold divN
  split
  · rfl
  · apply BitVec.eq_of_toNat_eq
    have := Nat.div_le_self a.toNat b.toNat
    have := a.isLt
    simp [BitVec.udiv, Nat.mod_eq_of_lt (show a.toNat / b.toNat < 4294967296 by omega)]

theorem divN_r (a b : Word) : (divN a b).2 = if b = 0 then a else a.umod b := by
  unfold divN
  split
  · rfl
  · apply BitVec.eq_of_toNat_eq
    have := Nat.mod_le a.toNat b.toNat
    have := a.isLt
    simp [BitVec.umod, Nat.mod_eq_of_lt (show a.toNat % b.toNat < 4294967296 by omega)]

theorem fieldOf_eq (b : Word) : fieldOf b = (b.toNat % 32, min (b.toNat / 256 % 64) (32 - b.toNat % 32)) := by
  simp [fieldOf, BitVec.extractLsb'_toNat, Nat.shiftRight_eq_div_pow]

theorem bfeN_eq (a b : Word) : bfeN a b = ((a >>> (fieldOf b).1).setWidth (fieldOf b).2).setWidth 32 := by
  apply BitVec.eq_of_toNat_eq
  simp [bfeN, Nat.shiftRight_eq_div_pow]

theorem bfeI_eq (a b : Word) : bfeI a b = if (fieldOf b).2 = 0 then 0 else ((a >>> (fieldOf b).1).setWidth (fieldOf b).2).signExtend 32 := by
  have hl : (fieldOf b).2 ≤ 32 := by rw [fieldOf_eq]; simp only; omega
  unfold bfeI
  simp only
  split
  · rfl
  · rename_i h
    apply BitVec.eq_of_toInt_eq
    rw [BitVec.toInt_signExtend_of_le hl]
    generalize hn : (fieldOf b).2 = n at *
    generalize (fieldOf b).1 = p
    have e : (BitVec.setWidth n (a >>> p)).toInt = sxInt n (a.toNat / 2 ^ p) := by
      rw [BitVec.toInt_eq_toNat_cond]
      unfold sxInt
      simp only [BitVec.toNat_setWidth, BitVec.toNat_ushiftRight, Nat.shiftRight_eq_div_pow]
      have : 2 ^ n = 2 * 2 ^ (n - 1) := by rw [← Nat.pow_succ']; congr 1; omega
      by_cases hc : a.toNat / 2 ^ p % 2 ^ n < 2 ^ (n - 1)
      · rw [if_pos (by omega), if_pos hc]
      · rw [if_neg (by omega), if_neg hc]
    rw [← e, BitVec.toInt_ofInt]
    have h1 := BitVec.toInt_lt (x := BitVec.setWidth n (a >>> p))
    have h2 := BitVec.le_toInt (x := BitVec.setWidth n (a >>> p))
    have h3 : (2 : Int) ^ (n - 1) ≤ 2 ^ 31 := pow_le_pow_right₀ (by norm_num) (by omega)
    apply Int.bmod_eq_of_le <;> norm_num at * <;> omega

theorem clampI_eq (e : Int) :
    clampI e = if e > 2 ^ 31 - 1 then 0x7FFFFFFF else if e < -2 ^ 31 then 0x80000000 else BitVec.ofInt 32 e := rfl

theorem bfi_eq (d a b : Word) : bfi d a b =
    (d &&& ~~~((BitVec.allOnes (fieldOf b).2).setWidth 32 <<< (fieldOf b).1)) |||
      ((a &&& (BitVec.allOnes (fieldOf b).2).setWidth 32) <<< (fieldOf b).1) := by
  have e : BitVec.ofNat 32 ((2 ^ (fieldOf b).2 - 1) * 2 ^ (fieldOf b).1) =
      (BitVec.allOnes (fieldOf b).2).setWidth 32 <<< (fieldOf b).1 := by
    apply BitVec.eq_of_toNat_eq
    simp [Nat.shiftLeft_eq]
  simp only [bfi, e, BitVec.shiftLeft_and_distrib]

theorem bfeN_of {a b : Word} {p l : Nat} (h : fieldOf b = (p, l)) : bfeN a b = ((a >>> p).setWidth l).setWidth 32 := by
  rw [bfeN_eq, h]

theorem bfeI_of {a b : Word} {p l : Nat} (h : fieldOf b = (p, l)) :
    bfeI a b = if l = 0 then 0 else ((a >>> p).setWidth l).signExtend 32 := by
  rw [bfeI_eq, h]

theorem bfi_of {d a b : Word} {p l : Nat} (h : fieldOf b = (p, l)) : bfi d a b =
    (d &&& ~~~((BitVec.allOnes l).setWidth 32 <<< p)) ||| ((a &&& (BitVec.allOnes l).setWidth 32) <<< p) := by
  rw [bfi_eq, h]

theorem dot4_eq (signed : Bool) (d a b : Word) : dot4 signed d a b =
    let f := fun k => (if signed then (byteOf a k).toInt else ((byteOf a k).toNat : Int)) * (byteOf b k).toInt
    d + BitVec.ofInt 32 (f 0 + f 1 + f 2 + f 3) := by
  simp [dot4, List.range_succ, add_assoc]

theorem sad_eq (d a b : Word) : sad d a b =
    let f := fun k => |((byteOf a k).toNat : Int) - ((byteOf b k).toNat : Int)|
    d + BitVec.ofInt 32 (f 0 + f 1 + f 2 + f 3) := by
  simp only [sad, List.range_succ, List.range_zero, List.nil_append, List.map_append, List.map_cons, List.map_nil, List.sum_append,
    List.sum_cons, List.sum_nil, Nat.add_zero, ← Int.natCast_natAbs, ← BitVec.ofInt_natCast, Int.natCast_add]

end Sys2Proof.Machine
end

