-- ==== Sys2Proof/Laws/Sparse.lean ====
section
/-! SUPPORT. Laws of sparse stores: a read after a write, and the canonical form. -/

namespace Sys2Proof

variable {α : Type}

@[simp] theorem sget_nil (d : α) (k : Nat) : sget d [] k = d := rfl
@[simp] theorem sfind_nil (k : Nat) : sfind ([] : Sparse α) k = none := rfl

theorem sget_sput (d v : α) (k j : Nat) (m : Sparse α) : sget d (sput m k v) j = if j = k then v else sget d m j := by
  induction m with
  | nil => simp [sput, sget, eq_comm]
  | cons e m ih =>
    obtain ⟨i, w⟩ := e
    by_cases hi : i = k
    · subst hi
      by_cases hj : j = i
      · simp [sput, sget, hj]
      · simp [sput, sget, hj, Ne.symm hj]
    · by_cases hk : k < i
      · by_cases hj : j = k
        · subst hj; simp [sput, sget, hi, hk]
        · simp [sput, sget, hi, hk, hj, Ne.symm hj]
      · simp only [sput, hi, hk, if_false, sget, ih]
        by_cases hj : j = k
        · subst hj; simp [hi]
        · simp [hj]

theorem sget_sdrop (d : α) (k j : Nat) (m : Sparse α) : sget d (sdrop m k) j = if j = k then d else sget d m j := by
  induction m with
  | nil => simp [sdrop, sget]
  | cons e m ih =>
    obtain ⟨i, w⟩ := e
    by_cases hi : i = k
    · subst hi
      simp only [sdrop, if_true, ih, sget]
      by_cases hj : j = i
      · simp [hj]
      · simp [hj, Ne.symm hj]
    · simp only [sdrop, hi, if_false, sget, ih]
      by_cases hj : j = k
      · subst hj; simp [hi]
      · simp [hj]

theorem sget_sset [DecidableEq α] (d v : α) (k j : Nat) (m : Sparse α) :
    sget d (sset d m k v) j = if j = k then v else sget d m j := by
  unfold sset
  split
  · rw [sget_sdrop]; split <;> simp_all
  · rw [sget_sput]

@[simp] theorem sget_sset_same [DecidableEq α] (d v : α) (k : Nat) (m : Sparse α) : sget d (sset d m k v) k = v := by
  simp [sget_sset]

theorem sget_sset_ne [DecidableEq α] (d v : α) {k j : Nat} (m : Sparse α) (h : j ≠ k) :
    sget d (sset d m k v) j = sget d m j := by simp [sget_sset, h]

theorem sfind_sput (v : α) (k j : Nat) (m : Sparse α) : sfind (sput m k v) j = if j = k then some v else sfind m j := by
  induction m with
  | nil => simp [sput, sfind, eq_comm]
  | cons e m ih =>
    obtain ⟨i, w⟩ := e
    by_cases hi : i = k
    · subst hi
      by_cases hj : j = i
      · simp [sput, sfind, hj]
      · simp [sput, sfind, hj, Ne.symm hj]
    · by_cases hk : k < i
      · by_cases hj : j = k
        · subst hj; simp [sput, sfind, hi, hk]
        · simp [sput, sfind, hi, hk, hj, Ne.symm hj]
      · simp only [sput, hi, hk, if_false, sfind, ih]
        by_cases hj : j = k
        · subst hj; simp [hi]
        · simp [hj]

@[simp] theorem sfind_sput_same (v : α) (k : Nat) (m : Sparse α) : sfind (sput m k v) k = some v := by simp [sfind_sput]

theorem sfind_sput_ne (v : α) {k j : Nat} (m : Sparse α) (h : j ≠ k) : sfind (sput m k v) j = sfind m j := by
  simp [sfind_sput, h]

theorem sfind_sdrop (k j : Nat) (m : Sparse α) : sfind (sdrop m k) j = if j = k then none else sfind m j := by
  induction m with
  | nil => simp [sdrop, sfind]
  | cons e m ih =>
    obtain ⟨i, w⟩ := e
    by_cases hi : i = k
    · subst hi
      simp only [sdrop, if_true, ih, sfind]
      by_cases hj : j = i
      · simp [hj]
      · simp [hj, Ne.symm hj]
    · simp only [sdrop, hi, if_false, sfind, ih]
      by_cases hj : j = k
      · subst hj; simp [hi]
      · simp [hj]

@[simp] theorem sfind_sdrop_same (k : Nat) (m : Sparse α) : sfind (sdrop m k) k = none := by simp [sfind_sdrop]

theorem sput_sput_same (v w : α) (k : Nat) (m : Sparse α) : sput (sput m k v) k w = sput m k w := by
  induction m with
  | nil => simp [sput]
  | cons e m ih =>
    obtain ⟨i, x⟩ := e
    by_cases hi : i = k
    · subst hi; simp [sput]
    · by_cases hk : k < i
      · simp [sput, hi, hk]
      · simp [sput, hi, hk, ih]

/-! ### Canonical form -/

theorem srising_mono {lo lo' : Nat} {m : Sparse α} (hle : lo ≤ lo') (h : srising lo' m = true) : srising lo m = true := by
  cases m with
  | nil => rfl
  | cons e m =>
    obtain ⟨i, w⟩ := e
    simp only [srising, Bool.and_eq_true, decide_eq_true_eq] at h ⊢
    exact ⟨le_trans hle h.1, h.2⟩

theorem srising_sput {lo k : Nat} {v : α} {m : Sparse α} (hk : lo ≤ k) (h : srising lo m = true) :
    srising lo (sput m k v) = true := by
  induction m generalizing lo with
  | nil => simp [sput, srising, hk]
  | cons e m ih =>
    obtain ⟨i, w⟩ := e
    simp only [srising, Bool.and_eq_true, decide_eq_true_eq] at h
    by_cases hi : i = k
    · subst hi; simp [sput, srising, hk, h.2]
    · by_cases hlt : k < i
      · simp only [sput, hi, hlt, if_false, if_true, srising, Bool.and_eq_true, decide_eq_true_eq]
        exact ⟨hk, hlt, h.2⟩
      · simp only [sput, hi, hlt, if_false, srising, Bool.and_eq_true, decide_eq_true_eq]
        exact ⟨h.1, ih (by omega) h.2⟩

theorem srising_filter {lo : Nat} {m : Sparse α} (f : Nat × α → Bool) (h : srising lo m = true) :
    srising lo (m.filter f) = true := by
  induction m generalizing lo with
  | nil => rfl
  | cons e m ih =>
    obtain ⟨i, w⟩ := e
    simp only [srising, Bool.and_eq_true, decide_eq_true_eq] at h
    by_cases hf : f (i, w) = true
    · simp only [List.filter_cons, hf, if_true, srising, Bool.and_eq_true, decide_eq_true_eq]
      exact ⟨h.1, ih h.2⟩
    · simp only [List.filter_cons, hf]
      exact srising_mono (by omega) (ih h.2)

theorem sdrop_eq_filter (k : Nat) (m : Sparse α) : sdrop m k = m.filter (fun e => decide (e.1 ≠ k)) := by
  induction m with
  | nil => rfl
  | cons e m ih =>
    obtain ⟨i, w⟩ := e
    by_cases hi : i = k
    · simp [sdrop, hi, ih]
    · simp [sdrop, hi, ih]

theorem mem_sput {v : α} {k : Nat} {m : Sparse α} {e : Nat × α} (h : e ∈ sput m k v) : e = (k, v) ∨ e ∈ m := by
  induction m with
  | nil => simpa [sput] using h
  | cons x m ih =>
    obtain ⟨i, w⟩ := x
    by_cases hi : i = k
    · simp only [sput, hi, if_true, List.mem_cons] at h ⊢
      tauto
    · by_cases hlt : k < i
      · simp only [sput, hi, hlt, if_true, if_false, List.mem_cons] at h ⊢
        tauto
      · simp only [sput, hi, hlt, if_false, List.mem_cons] at h ⊢
        rcases h with h | h
        · exact .inr (.inl h)
        · rcases ih h with h | h
          · exact .inl h
          · exact .inr (.inr h)

variable [DecidableEq α]

@[simp] theorem swf_nil (d : α) : swf d ([] : Sparse α) = true := rfl

theorem swf_filter {d : α} {m : Sparse α} (f : Nat × α → Bool) (h : swf d m = true) : swf d (m.filter f) = true := by
  simp only [swf, Bool.and_eq_true, List.all_eq_true] at h ⊢
  exact ⟨srising_filter f h.1, fun e he => h.2 e (List.mem_of_mem_filter he)⟩

theorem swf_sput {d v : α} {k : Nat} {m : Sparse α} (hv : v ≠ d) (h : swf d m = true) : swf d (sput m k v) = true := by
  simp only [swf, Bool.and_eq_true, List.all_eq_true] at h ⊢
  refine ⟨srising_sput (Nat.zero_le k) h.1, fun e he => ?_⟩
  rcases mem_sput he with rfl | he
  · simpa using hv
  · exact h.2 e he

/-- Writing keeps the canonical form. -/
theorem swf_sset {d v : α} {k : Nat} {m : Sparse α} (h : swf d m = true) : swf d (sset d m k v) = true := by
  unfold sset
  split
  · rw [sdrop_eq_filter]; exact swf_filter _ h
  · exact swf_sput ‹_› h

end Sys2Proof
end

