-- ==== Sys2Proof/Laws/State.lean ====
section
/-! SUPPORT. What each update of the state leaves as it is, field by field, and what it writes. -/

namespace Sys2Proof.Machine

open Sys2Proof

variable (s : State)

/-! `setParty` -/

@[simp] theorem setParty_script (p : Nat) (x : Party) : (s.setParty p x).script = s.script := rfl
@[simp] theorem setParty_cur (p : Nat) (x : Party) : (s.setParty p x).cur = s.cur := rfl
@[simp] theorem setParty_now (p : Nat) (x : Party) : (s.setParty p x).now = s.now := rfl
@[simp] theorem setParty_freeCtr (p : Nat) (x : Party) : (s.setParty p x).freeCtr = s.freeCtr := rfl
@[simp] theorem setParty_nextId (p : Nat) (x : Party) : (s.setParty p x).nextId = s.nextId := rfl
@[simp] theorem setParty_upset (p : Nat) (x : Party) : (s.setParty p x).upset = s.upset := rfl
@[simp] theorem setParty_crews (p : Nat) (x : Party) : (s.setParty p x).crews = s.crews := rfl
@[simp] theorem setParty_launches (p : Nat) (x : Party) : (s.setParty p x).launches = s.launches := rfl
@[simp] theorem setParty_cores (p : Nat) (x : Party) : (s.setParty p x).cores = s.cores := rfl
@[simp] theorem setParty_quads (p : Nat) (x : Party) : (s.setParty p x).quads = s.quads := rfl
@[simp] theorem setParty_dieFifo (p : Nat) (x : Party) : (s.setParty p x).dieFifo = s.dieFifo := rfl
@[simp] theorem setParty_banks (p : Nat) (x : Party) : (s.setParty p x).banks = s.banks := rfl
@[simp] theorem setParty_lods (p : Nat) (x : Party) : (s.setParty p x).lods = s.lods := rfl
@[simp] theorem setParty_packets (p : Nat) (x : Party) : (s.setParty p x).packets = s.packets := rfl
@[simp] theorem setParty_reqs (p : Nat) (x : Party) : (s.setParty p x).reqs = s.reqs := rfl
@[simp] theorem setParty_sfus (p : Nat) (x : Party) : (s.setParty p x).sfus = s.sfus := rfl
@[simp] theorem setParty_arrivals (p : Nat) (x : Party) : (s.setParty p x).arrivals = s.arrivals := rfl
@[simp] theorem setParty_tags (p : Nat) (x : Party) : (s.setParty p x).tags = s.tags := rfl
@[simp] theorem setParty_mem (p : Nat) (x : Party) : (s.setParty p x).mem = s.mem := rfl
@[simp] theorem setParty_pkg (p : Nat) (x : Party) : (s.setParty p x).pkg = s.pkg := rfl
@[simp] theorem setParty_invals (p : Nat) (x : Party) : (s.setParty p x).invals = s.invals := rfl
@[simp] theorem setParty_colls (p : Nat) (x : Party) : (s.setParty p x).colls = s.colls := rfl
@[simp] theorem setParty_caravans (p : Nat) (x : Party) : (s.setParty p x).caravans = s.caravans := rfl
@[simp] theorem setParty_msgsOut (p : Nat) (x : Party) : (s.setParty p x).msgsOut = s.msgsOut := rfl
@[simp] theorem setParty_msgsIn (p : Nat) (x : Party) : (s.setParty p x).msgsIn = s.msgsIn := rfl
@[simp] theorem setParty_streamsOut (p : Nat) (x : Party) : (s.setParty p x).streamsOut = s.streamsOut := rfl
@[simp] theorem setParty_streamsIn (p : Nat) (x : Party) : (s.setParty p x).streamsIn = s.streamsIn := rfl

/-! `mapParties` -/

@[simp] theorem mapParties_script (f : Nat → Party → Party) : (s.mapParties f).script = s.script := rfl
@[simp] theorem mapParties_cur (f : Nat → Party → Party) : (s.mapParties f).cur = s.cur := rfl
@[simp] theorem mapParties_now (f : Nat → Party → Party) : (s.mapParties f).now = s.now := rfl
@[simp] theorem mapParties_freeCtr (f : Nat → Party → Party) : (s.mapParties f).freeCtr = s.freeCtr := rfl
@[simp] theorem mapParties_nextId (f : Nat → Party → Party) : (s.mapParties f).nextId = s.nextId := rfl
@[simp] theorem mapParties_upset (f : Nat → Party → Party) : (s.mapParties f).upset = s.upset := rfl
@[simp] theorem mapParties_crews (f : Nat → Party → Party) : (s.mapParties f).crews = s.crews := rfl
@[simp] theorem mapParties_launches (f : Nat → Party → Party) : (s.mapParties f).launches = s.launches := rfl
@[simp] theorem mapParties_cores (f : Nat → Party → Party) : (s.mapParties f).cores = s.cores := rfl
@[simp] theorem mapParties_quads (f : Nat → Party → Party) : (s.mapParties f).quads = s.quads := rfl
@[simp] theorem mapParties_dieFifo (f : Nat → Party → Party) : (s.mapParties f).dieFifo = s.dieFifo := rfl
@[simp] theorem mapParties_banks (f : Nat → Party → Party) : (s.mapParties f).banks = s.banks := rfl
@[simp] theorem mapParties_lods (f : Nat → Party → Party) : (s.mapParties f).lods = s.lods := rfl
@[simp] theorem mapParties_packets (f : Nat → Party → Party) : (s.mapParties f).packets = s.packets := rfl
@[simp] theorem mapParties_reqs (f : Nat → Party → Party) : (s.mapParties f).reqs = s.reqs := rfl
@[simp] theorem mapParties_sfus (f : Nat → Party → Party) : (s.mapParties f).sfus = s.sfus := rfl
@[simp] theorem mapParties_arrivals (f : Nat → Party → Party) : (s.mapParties f).arrivals = s.arrivals := rfl
@[simp] theorem mapParties_tags (f : Nat → Party → Party) : (s.mapParties f).tags = s.tags := rfl
@[simp] theorem mapParties_mem (f : Nat → Party → Party) : (s.mapParties f).mem = s.mem := rfl
@[simp] theorem mapParties_pkg (f : Nat → Party → Party) : (s.mapParties f).pkg = s.pkg := rfl
@[simp] theorem mapParties_invals (f : Nat → Party → Party) : (s.mapParties f).invals = s.invals := rfl
@[simp] theorem mapParties_colls (f : Nat → Party → Party) : (s.mapParties f).colls = s.colls := rfl
@[simp] theorem mapParties_caravans (f : Nat → Party → Party) : (s.mapParties f).caravans = s.caravans := rfl
@[simp] theorem mapParties_msgsOut (f : Nat → Party → Party) : (s.mapParties f).msgsOut = s.msgsOut := rfl
@[simp] theorem mapParties_msgsIn (f : Nat → Party → Party) : (s.mapParties f).msgsIn = s.msgsIn := rfl
@[simp] theorem mapParties_streamsOut (f : Nat → Party → Party) : (s.mapParties f).streamsOut = s.streamsOut := rfl
@[simp] theorem mapParties_streamsIn (f : Nat → Party → Party) : (s.mapParties f).streamsIn = s.streamsIn := rfl

/-! `wake` -/

@[simp] theorem wake_script  : (s.wake).script = s.script := rfl
@[simp] theorem wake_cur  : (s.wake).cur = s.cur := rfl
@[simp] theorem wake_now  : (s.wake).now = s.now := rfl
@[simp] theorem wake_freeCtr  : (s.wake).freeCtr = s.freeCtr := rfl
@[simp] theorem wake_nextId  : (s.wake).nextId = s.nextId := rfl
@[simp] theorem wake_upset  : (s.wake).upset = s.upset := rfl
@[simp] theorem wake_crews  : (s.wake).crews = s.crews := rfl
@[simp] theorem wake_launches  : (s.wake).launches = s.launches := rfl
@[simp] theorem wake_cores  : (s.wake).cores = s.cores := rfl
@[simp] theorem wake_quads  : (s.wake).quads = s.quads := rfl
@[simp] theorem wake_dieFifo  : (s.wake).dieFifo = s.dieFifo := rfl
@[simp] theorem wake_banks  : (s.wake).banks = s.banks := rfl
@[simp] theorem wake_lods  : (s.wake).lods = s.lods := rfl
@[simp] theorem wake_packets  : (s.wake).packets = s.packets := rfl
@[simp] theorem wake_reqs  : (s.wake).reqs = s.reqs := rfl
@[simp] theorem wake_sfus  : (s.wake).sfus = s.sfus := rfl
@[simp] theorem wake_arrivals  : (s.wake).arrivals = s.arrivals := rfl
@[simp] theorem wake_tags  : (s.wake).tags = s.tags := rfl
@[simp] theorem wake_mem  : (s.wake).mem = s.mem := rfl
@[simp] theorem wake_pkg  : (s.wake).pkg = s.pkg := rfl
@[simp] theorem wake_invals  : (s.wake).invals = s.invals := rfl
@[simp] theorem wake_colls  : (s.wake).colls = s.colls := rfl
@[simp] theorem wake_caravans  : (s.wake).caravans = s.caravans := rfl
@[simp] theorem wake_msgsOut  : (s.wake).msgsOut = s.msgsOut := rfl
@[simp] theorem wake_msgsIn  : (s.wake).msgsIn = s.msgsIn := rfl
@[simp] theorem wake_streamsOut  : (s.wake).streamsOut = s.streamsOut := rfl
@[simp] theorem wake_streamsIn  : (s.wake).streamsIn = s.streamsIn := rfl

/-! `setCore` -/

@[simp] theorem setCore_script (c : Nat) (x : Core) : (s.setCore c x).script = s.script := rfl
@[simp] theorem setCore_cur (c : Nat) (x : Core) : (s.setCore c x).cur = s.cur := rfl
@[simp] theorem setCore_now (c : Nat) (x : Core) : (s.setCore c x).now = s.now := rfl
@[simp] theorem setCore_freeCtr (c : Nat) (x : Core) : (s.setCore c x).freeCtr = s.freeCtr := rfl
@[simp] theorem setCore_nextId (c : Nat) (x : Core) : (s.setCore c x).nextId = s.nextId := rfl
@[simp] theorem setCore_upset (c : Nat) (x : Core) : (s.setCore c x).upset = s.upset := rfl
@[simp] theorem setCore_parties (c : Nat) (x : Core) : (s.setCore c x).parties = s.parties := rfl
@[simp] theorem setCore_crews (c : Nat) (x : Core) : (s.setCore c x).crews = s.crews := rfl
@[simp] theorem setCore_launches (c : Nat) (x : Core) : (s.setCore c x).launches = s.launches := rfl
@[simp] theorem setCore_quads (c : Nat) (x : Core) : (s.setCore c x).quads = s.quads := rfl
@[simp] theorem setCore_dieFifo (c : Nat) (x : Core) : (s.setCore c x).dieFifo = s.dieFifo := rfl
@[simp] theorem setCore_banks (c : Nat) (x : Core) : (s.setCore c x).banks = s.banks := rfl
@[simp] theorem setCore_lods (c : Nat) (x : Core) : (s.setCore c x).lods = s.lods := rfl
@[simp] theorem setCore_packets (c : Nat) (x : Core) : (s.setCore c x).packets = s.packets := rfl
@[simp] theorem setCore_reqs (c : Nat) (x : Core) : (s.setCore c x).reqs = s.reqs := rfl
@[simp] theorem setCore_sfus (c : Nat) (x : Core) : (s.setCore c x).sfus = s.sfus := rfl
@[simp] theorem setCore_arrivals (c : Nat) (x : Core) : (s.setCore c x).arrivals = s.arrivals := rfl
@[simp] theorem setCore_tags (c : Nat) (x : Core) : (s.setCore c x).tags = s.tags := rfl
@[simp] theorem setCore_mem (c : Nat) (x : Core) : (s.setCore c x).mem = s.mem := rfl
@[simp] theorem setCore_pkg (c : Nat) (x : Core) : (s.setCore c x).pkg = s.pkg := rfl
@[simp] theorem setCore_invals (c : Nat) (x : Core) : (s.setCore c x).invals = s.invals := rfl
@[simp] theorem setCore_colls (c : Nat) (x : Core) : (s.setCore c x).colls = s.colls := rfl
@[simp] theorem setCore_caravans (c : Nat) (x : Core) : (s.setCore c x).caravans = s.caravans := rfl
@[simp] theorem setCore_msgsOut (c : Nat) (x : Core) : (s.setCore c x).msgsOut = s.msgsOut := rfl
@[simp] theorem setCore_msgsIn (c : Nat) (x : Core) : (s.setCore c x).msgsIn = s.msgsIn := rfl
@[simp] theorem setCore_streamsOut (c : Nat) (x : Core) : (s.setCore c x).streamsOut = s.streamsOut := rfl
@[simp] theorem setCore_streamsIn (c : Nat) (x : Core) : (s.setCore c x).streamsIn = s.streamsIn := rfl

/-! `onCore` -/

@[simp] theorem onCore_script (c : Nat) (f : Core → Core) : (s.onCore c f).script = s.script := rfl
@[simp] theorem onCore_cur (c : Nat) (f : Core → Core) : (s.onCore c f).cur = s.cur := rfl
@[simp] theorem onCore_now (c : Nat) (f : Core → Core) : (s.onCore c f).now = s.now := rfl
@[simp] theorem onCore_freeCtr (c : Nat) (f : Core → Core) : (s.onCore c f).freeCtr = s.freeCtr := rfl
@[simp] theorem onCore_nextId (c : Nat) (f : Core → Core) : (s.onCore c f).nextId = s.nextId := rfl
@[simp] theorem onCore_upset (c : Nat) (f : Core → Core) : (s.onCore c f).upset = s.upset := rfl
@[simp] theorem onCore_parties (c : Nat) (f : Core → Core) : (s.onCore c f).parties = s.parties := rfl
@[simp] theorem onCore_crews (c : Nat) (f : Core → Core) : (s.onCore c f).crews = s.crews := rfl
@[simp] theorem onCore_launches (c : Nat) (f : Core → Core) : (s.onCore c f).launches = s.launches := rfl
@[simp] theorem onCore_quads (c : Nat) (f : Core → Core) : (s.onCore c f).quads = s.quads := rfl
@[simp] theorem onCore_dieFifo (c : Nat) (f : Core → Core) : (s.onCore c f).dieFifo = s.dieFifo := rfl
@[simp] theorem onCore_banks (c : Nat) (f : Core → Core) : (s.onCore c f).banks = s.banks := rfl
@[simp] theorem onCore_lods (c : Nat) (f : Core → Core) : (s.onCore c f).lods = s.lods := rfl
@[simp] theorem onCore_packets (c : Nat) (f : Core → Core) : (s.onCore c f).packets = s.packets := rfl
@[simp] theorem onCore_reqs (c : Nat) (f : Core → Core) : (s.onCore c f).reqs = s.reqs := rfl
@[simp] theorem onCore_sfus (c : Nat) (f : Core → Core) : (s.onCore c f).sfus = s.sfus := rfl
@[simp] theorem onCore_arrivals (c : Nat) (f : Core → Core) : (s.onCore c f).arrivals = s.arrivals := rfl
@[simp] theorem onCore_tags (c : Nat) (f : Core → Core) : (s.onCore c f).tags = s.tags := rfl
@[simp] theorem onCore_mem (c : Nat) (f : Core → Core) : (s.onCore c f).mem = s.mem := rfl
@[simp] theorem onCore_pkg (c : Nat) (f : Core → Core) : (s.onCore c f).pkg = s.pkg := rfl
@[simp] theorem onCore_invals (c : Nat) (f : Core → Core) : (s.onCore c f).invals = s.invals := rfl
@[simp] theorem onCore_colls (c : Nat) (f : Core → Core) : (s.onCore c f).colls = s.colls := rfl
@[simp] theorem onCore_caravans (c : Nat) (f : Core → Core) : (s.onCore c f).caravans = s.caravans := rfl
@[simp] theorem onCore_msgsOut (c : Nat) (f : Core → Core) : (s.onCore c f).msgsOut = s.msgsOut := rfl
@[simp] theorem onCore_msgsIn (c : Nat) (f : Core → Core) : (s.onCore c f).msgsIn = s.msgsIn := rfl
@[simp] theorem onCore_streamsOut (c : Nat) (f : Core → Core) : (s.onCore c f).streamsOut = s.streamsOut := rfl
@[simp] theorem onCore_streamsIn (c : Nat) (f : Core → Core) : (s.onCore c f).streamsIn = s.streamsIn := rfl

/-! `onQuad` -/

@[simp] theorem onQuad_script (q : Nat) (f : Quad → Quad) : (s.onQuad q f).script = s.script := rfl
@[simp] theorem onQuad_cur (q : Nat) (f : Quad → Quad) : (s.onQuad q f).cur = s.cur := rfl
@[simp] theorem onQuad_now (q : Nat) (f : Quad → Quad) : (s.onQuad q f).now = s.now := rfl
@[simp] theorem onQuad_freeCtr (q : Nat) (f : Quad → Quad) : (s.onQuad q f).freeCtr = s.freeCtr := rfl
@[simp] theorem onQuad_nextId (q : Nat) (f : Quad → Quad) : (s.onQuad q f).nextId = s.nextId := rfl
@[simp] theorem onQuad_upset (q : Nat) (f : Quad → Quad) : (s.onQuad q f).upset = s.upset := rfl
@[simp] theorem onQuad_parties (q : Nat) (f : Quad → Quad) : (s.onQuad q f).parties = s.parties := rfl
@[simp] theorem onQuad_crews (q : Nat) (f : Quad → Quad) : (s.onQuad q f).crews = s.crews := rfl
@[simp] theorem onQuad_launches (q : Nat) (f : Quad → Quad) : (s.onQuad q f).launches = s.launches := rfl
@[simp] theorem onQuad_cores (q : Nat) (f : Quad → Quad) : (s.onQuad q f).cores = s.cores := rfl
@[simp] theorem onQuad_dieFifo (q : Nat) (f : Quad → Quad) : (s.onQuad q f).dieFifo = s.dieFifo := rfl
@[simp] theorem onQuad_banks (q : Nat) (f : Quad → Quad) : (s.onQuad q f).banks = s.banks := rfl
@[simp] theorem onQuad_lods (q : Nat) (f : Quad → Quad) : (s.onQuad q f).lods = s.lods := rfl
@[simp] theorem onQuad_packets (q : Nat) (f : Quad → Quad) : (s.onQuad q f).packets = s.packets := rfl
@[simp] theorem onQuad_reqs (q : Nat) (f : Quad → Quad) : (s.onQuad q f).reqs = s.reqs := rfl
@[simp] theorem onQuad_sfus (q : Nat) (f : Quad → Quad) : (s.onQuad q f).sfus = s.sfus := rfl
@[simp] theorem onQuad_arrivals (q : Nat) (f : Quad → Quad) : (s.onQuad q f).arrivals = s.arrivals := rfl
@[simp] theorem onQuad_tags (q : Nat) (f : Quad → Quad) : (s.onQuad q f).tags = s.tags := rfl
@[simp] theorem onQuad_mem (q : Nat) (f : Quad → Quad) : (s.onQuad q f).mem = s.mem := rfl
@[simp] theorem onQuad_pkg (q : Nat) (f : Quad → Quad) : (s.onQuad q f).pkg = s.pkg := rfl
@[simp] theorem onQuad_invals (q : Nat) (f : Quad → Quad) : (s.onQuad q f).invals = s.invals := rfl
@[simp] theorem onQuad_colls (q : Nat) (f : Quad → Quad) : (s.onQuad q f).colls = s.colls := rfl
@[simp] theorem onQuad_caravans (q : Nat) (f : Quad → Quad) : (s.onQuad q f).caravans = s.caravans := rfl
@[simp] theorem onQuad_msgsOut (q : Nat) (f : Quad → Quad) : (s.onQuad q f).msgsOut = s.msgsOut := rfl
@[simp] theorem onQuad_msgsIn (q : Nat) (f : Quad → Quad) : (s.onQuad q f).msgsIn = s.msgsIn := rfl
@[simp] theorem onQuad_streamsOut (q : Nat) (f : Quad → Quad) : (s.onQuad q f).streamsOut = s.streamsOut := rfl
@[simp] theorem onQuad_streamsIn (q : Nat) (f : Quad → Quad) : (s.onQuad q f).streamsIn = s.streamsIn := rfl

/-! `onLod` -/

@[simp] theorem onLod_script (n : Nat) (f : Lodging → Lodging) : (s.onLod n f).script = s.script := rfl
@[simp] theorem onLod_cur (n : Nat) (f : Lodging → Lodging) : (s.onLod n f).cur = s.cur := rfl
@[simp] theorem onLod_now (n : Nat) (f : Lodging → Lodging) : (s.onLod n f).now = s.now := rfl
@[simp] theorem onLod_freeCtr (n : Nat) (f : Lodging → Lodging) : (s.onLod n f).freeCtr = s.freeCtr := rfl
@[simp] theorem onLod_nextId (n : Nat) (f : Lodging → Lodging) : (s.onLod n f).nextId = s.nextId := rfl
@[simp] theorem onLod_upset (n : Nat) (f : Lodging → Lodging) : (s.onLod n f).upset = s.upset := rfl
@[simp] theorem onLod_parties (n : Nat) (f : Lodging → Lodging) : (s.onLod n f).parties = s.parties := rfl
@[simp] theorem onLod_crews (n : Nat) (f : Lodging → Lodging) : (s.onLod n f).crews = s.crews := rfl
@[simp] theorem onLod_launches (n : Nat) (f : Lodging → Lodging) : (s.onLod n f).launches = s.launches := rfl
@[simp] theorem onLod_cores (n : Nat) (f : Lodging → Lodging) : (s.onLod n f).cores = s.cores := rfl
@[simp] theorem onLod_quads (n : Nat) (f : Lodging → Lodging) : (s.onLod n f).quads = s.quads := rfl
@[simp] theorem onLod_dieFifo (n : Nat) (f : Lodging → Lodging) : (s.onLod n f).dieFifo = s.dieFifo := rfl
@[simp] theorem onLod_banks (n : Nat) (f : Lodging → Lodging) : (s.onLod n f).banks = s.banks := rfl
@[simp] theorem onLod_packets (n : Nat) (f : Lodging → Lodging) : (s.onLod n f).packets = s.packets := rfl
@[simp] theorem onLod_reqs (n : Nat) (f : Lodging → Lodging) : (s.onLod n f).reqs = s.reqs := rfl
@[simp] theorem onLod_sfus (n : Nat) (f : Lodging → Lodging) : (s.onLod n f).sfus = s.sfus := rfl
@[simp] theorem onLod_arrivals (n : Nat) (f : Lodging → Lodging) : (s.onLod n f).arrivals = s.arrivals := rfl
@[simp] theorem onLod_tags (n : Nat) (f : Lodging → Lodging) : (s.onLod n f).tags = s.tags := rfl
@[simp] theorem onLod_mem (n : Nat) (f : Lodging → Lodging) : (s.onLod n f).mem = s.mem := rfl
@[simp] theorem onLod_pkg (n : Nat) (f : Lodging → Lodging) : (s.onLod n f).pkg = s.pkg := rfl
@[simp] theorem onLod_invals (n : Nat) (f : Lodging → Lodging) : (s.onLod n f).invals = s.invals := rfl
@[simp] theorem onLod_colls (n : Nat) (f : Lodging → Lodging) : (s.onLod n f).colls = s.colls := rfl
@[simp] theorem onLod_caravans (n : Nat) (f : Lodging → Lodging) : (s.onLod n f).caravans = s.caravans := rfl
@[simp] theorem onLod_msgsOut (n : Nat) (f : Lodging → Lodging) : (s.onLod n f).msgsOut = s.msgsOut := rfl
@[simp] theorem onLod_msgsIn (n : Nat) (f : Lodging → Lodging) : (s.onLod n f).msgsIn = s.msgsIn := rfl
@[simp] theorem onLod_streamsOut (n : Nat) (f : Lodging → Lodging) : (s.onLod n f).streamsOut = s.streamsOut := rfl
@[simp] theorem onLod_streamsIn (n : Nat) (f : Lodging → Lodging) : (s.onLod n f).streamsIn = s.streamsIn := rfl

/-! `onStream` -/

@[simp] theorem onStream_script (n : Nat) (f : Stream → Stream) : (s.onStream n f).script = s.script := rfl
@[simp] theorem onStream_cur (n : Nat) (f : Stream → Stream) : (s.onStream n f).cur = s.cur := rfl
@[simp] theorem onStream_now (n : Nat) (f : Stream → Stream) : (s.onStream n f).now = s.now := rfl
@[simp] theorem onStream_freeCtr (n : Nat) (f : Stream → Stream) : (s.onStream n f).freeCtr = s.freeCtr := rfl
@[simp] theorem onStream_nextId (n : Nat) (f : Stream → Stream) : (s.onStream n f).nextId = s.nextId := rfl
@[simp] theorem onStream_upset (n : Nat) (f : Stream → Stream) : (s.onStream n f).upset = s.upset := rfl
@[simp] theorem onStream_parties (n : Nat) (f : Stream → Stream) : (s.onStream n f).parties = s.parties := rfl
@[simp] theorem onStream_crews (n : Nat) (f : Stream → Stream) : (s.onStream n f).crews = s.crews := rfl
@[simp] theorem onStream_launches (n : Nat) (f : Stream → Stream) : (s.onStream n f).launches = s.launches := rfl
@[simp] theorem onStream_cores (n : Nat) (f : Stream → Stream) : (s.onStream n f).cores = s.cores := rfl
@[simp] theorem onStream_quads (n : Nat) (f : Stream → Stream) : (s.onStream n f).quads = s.quads := rfl
@[simp] theorem onStream_dieFifo (n : Nat) (f : Stream → Stream) : (s.onStream n f).dieFifo = s.dieFifo := rfl
@[simp] theorem onStream_banks (n : Nat) (f : Stream → Stream) : (s.onStream n f).banks = s.banks := rfl
@[simp] theorem onStream_packets (n : Nat) (f : Stream → Stream) : (s.onStream n f).packets = s.packets := rfl
@[simp] theorem onStream_reqs (n : Nat) (f : Stream → Stream) : (s.onStream n f).reqs = s.reqs := rfl
@[simp] theorem onStream_sfus (n : Nat) (f : Stream → Stream) : (s.onStream n f).sfus = s.sfus := rfl
@[simp] theorem onStream_arrivals (n : Nat) (f : Stream → Stream) : (s.onStream n f).arrivals = s.arrivals := rfl
@[simp] theorem onStream_tags (n : Nat) (f : Stream → Stream) : (s.onStream n f).tags = s.tags := rfl
@[simp] theorem onStream_mem (n : Nat) (f : Stream → Stream) : (s.onStream n f).mem = s.mem := rfl
@[simp] theorem onStream_pkg (n : Nat) (f : Stream → Stream) : (s.onStream n f).pkg = s.pkg := rfl
@[simp] theorem onStream_invals (n : Nat) (f : Stream → Stream) : (s.onStream n f).invals = s.invals := rfl
@[simp] theorem onStream_colls (n : Nat) (f : Stream → Stream) : (s.onStream n f).colls = s.colls := rfl
@[simp] theorem onStream_caravans (n : Nat) (f : Stream → Stream) : (s.onStream n f).caravans = s.caravans := rfl
@[simp] theorem onStream_msgsOut (n : Nat) (f : Stream → Stream) : (s.onStream n f).msgsOut = s.msgsOut := rfl
@[simp] theorem onStream_msgsIn (n : Nat) (f : Stream → Stream) : (s.onStream n f).msgsIn = s.msgsIn := rfl
@[simp] theorem onStream_streamsOut (n : Nat) (f : Stream → Stream) : (s.onStream n f).streamsOut = s.streamsOut := rfl
@[simp] theorem onStream_streamsIn (n : Nat) (f : Stream → Stream) : (s.onStream n f).streamsIn = s.streamsIn := rfl

/-! `msix` -/

@[simp] theorem msix_script (n v : Nat) : (s.msix n v).script = s.script := rfl
@[simp] theorem msix_cur (n v : Nat) : (s.msix n v).cur = s.cur := rfl
@[simp] theorem msix_now (n v : Nat) : (s.msix n v).now = s.now := rfl
@[simp] theorem msix_freeCtr (n v : Nat) : (s.msix n v).freeCtr = s.freeCtr := rfl
@[simp] theorem msix_nextId (n v : Nat) : (s.msix n v).nextId = s.nextId := rfl
@[simp] theorem msix_upset (n v : Nat) : (s.msix n v).upset = s.upset := rfl
@[simp] theorem msix_parties (n v : Nat) : (s.msix n v).parties = s.parties := rfl
@[simp] theorem msix_crews (n v : Nat) : (s.msix n v).crews = s.crews := rfl
@[simp] theorem msix_launches (n v : Nat) : (s.msix n v).launches = s.launches := rfl
@[simp] theorem msix_cores (n v : Nat) : (s.msix n v).cores = s.cores := rfl
@[simp] theorem msix_quads (n v : Nat) : (s.msix n v).quads = s.quads := rfl
@[simp] theorem msix_dieFifo (n v : Nat) : (s.msix n v).dieFifo = s.dieFifo := rfl
@[simp] theorem msix_banks (n v : Nat) : (s.msix n v).banks = s.banks := rfl
@[simp] theorem msix_packets (n v : Nat) : (s.msix n v).packets = s.packets := rfl
@[simp] theorem msix_reqs (n v : Nat) : (s.msix n v).reqs = s.reqs := rfl
@[simp] theorem msix_sfus (n v : Nat) : (s.msix n v).sfus = s.sfus := rfl
@[simp] theorem msix_arrivals (n v : Nat) : (s.msix n v).arrivals = s.arrivals := rfl
@[simp] theorem msix_tags (n v : Nat) : (s.msix n v).tags = s.tags := rfl
@[simp] theorem msix_mem (n v : Nat) : (s.msix n v).mem = s.mem := rfl
@[simp] theorem msix_pkg (n v : Nat) : (s.msix n v).pkg = s.pkg := rfl
@[simp] theorem msix_invals (n v : Nat) : (s.msix n v).invals = s.invals := rfl
@[simp] theorem msix_colls (n v : Nat) : (s.msix n v).colls = s.colls := rfl
@[simp] theorem msix_caravans (n v : Nat) : (s.msix n v).caravans = s.caravans := rfl
@[simp] theorem msix_msgsOut (n v : Nat) : (s.msix n v).msgsOut = s.msgsOut := rfl
@[simp] theorem msix_msgsIn (n v : Nat) : (s.msix n v).msgsIn = s.msgsIn := rfl
@[simp] theorem msix_streamsOut (n v : Nat) : (s.msix n v).streamsOut = s.streamsOut := rfl
@[simp] theorem msix_streamsIn (n v : Nat) : (s.msix n v).streamsIn = s.streamsIn := rfl

/-! `onBank` -/

@[simp] theorem onBank_script (e : Nat) (f : Bank → Bank) : (s.onBank e f).script = s.script := rfl
@[simp] theorem onBank_cur (e : Nat) (f : Bank → Bank) : (s.onBank e f).cur = s.cur := rfl
@[simp] theorem onBank_now (e : Nat) (f : Bank → Bank) : (s.onBank e f).now = s.now := rfl
@[simp] theorem onBank_freeCtr (e : Nat) (f : Bank → Bank) : (s.onBank e f).freeCtr = s.freeCtr := rfl
@[simp] theorem onBank_nextId (e : Nat) (f : Bank → Bank) : (s.onBank e f).nextId = s.nextId := rfl
@[simp] theorem onBank_upset (e : Nat) (f : Bank → Bank) : (s.onBank e f).upset = s.upset := rfl
@[simp] theorem onBank_parties (e : Nat) (f : Bank → Bank) : (s.onBank e f).parties = s.parties := rfl
@[simp] theorem onBank_crews (e : Nat) (f : Bank → Bank) : (s.onBank e f).crews = s.crews := rfl
@[simp] theorem onBank_launches (e : Nat) (f : Bank → Bank) : (s.onBank e f).launches = s.launches := rfl
@[simp] theorem onBank_cores (e : Nat) (f : Bank → Bank) : (s.onBank e f).cores = s.cores := rfl
@[simp] theorem onBank_quads (e : Nat) (f : Bank → Bank) : (s.onBank e f).quads = s.quads := rfl
@[simp] theorem onBank_dieFifo (e : Nat) (f : Bank → Bank) : (s.onBank e f).dieFifo = s.dieFifo := rfl
@[simp] theorem onBank_lods (e : Nat) (f : Bank → Bank) : (s.onBank e f).lods = s.lods := rfl
@[simp] theorem onBank_packets (e : Nat) (f : Bank → Bank) : (s.onBank e f).packets = s.packets := rfl
@[simp] theorem onBank_reqs (e : Nat) (f : Bank → Bank) : (s.onBank e f).reqs = s.reqs := rfl
@[simp] theorem onBank_sfus (e : Nat) (f : Bank → Bank) : (s.onBank e f).sfus = s.sfus := rfl
@[simp] theorem onBank_arrivals (e : Nat) (f : Bank → Bank) : (s.onBank e f).arrivals = s.arrivals := rfl
@[simp] theorem onBank_tags (e : Nat) (f : Bank → Bank) : (s.onBank e f).tags = s.tags := rfl
@[simp] theorem onBank_mem (e : Nat) (f : Bank → Bank) : (s.onBank e f).mem = s.mem := rfl
@[simp] theorem onBank_pkg (e : Nat) (f : Bank → Bank) : (s.onBank e f).pkg = s.pkg := rfl
@[simp] theorem onBank_invals (e : Nat) (f : Bank → Bank) : (s.onBank e f).invals = s.invals := rfl
@[simp] theorem onBank_colls (e : Nat) (f : Bank → Bank) : (s.onBank e f).colls = s.colls := rfl
@[simp] theorem onBank_caravans (e : Nat) (f : Bank → Bank) : (s.onBank e f).caravans = s.caravans := rfl
@[simp] theorem onBank_msgsOut (e : Nat) (f : Bank → Bank) : (s.onBank e f).msgsOut = s.msgsOut := rfl
@[simp] theorem onBank_msgsIn (e : Nat) (f : Bank → Bank) : (s.onBank e f).msgsIn = s.msgsIn := rfl
@[simp] theorem onBank_streamsOut (e : Nat) (f : Bank → Bank) : (s.onBank e f).streamsOut = s.streamsOut := rfl
@[simp] theorem onBank_streamsIn (e : Nat) (f : Bank → Bank) : (s.onBank e f).streamsIn = s.streamsIn := rfl

/-! `dropReq` -/

@[simp] theorem dropReq_script (n : Nat) : (s.dropReq n).script = s.script := rfl
@[simp] theorem dropReq_cur (n : Nat) : (s.dropReq n).cur = s.cur := rfl
@[simp] theorem dropReq_now (n : Nat) : (s.dropReq n).now = s.now := rfl
@[simp] theorem dropReq_freeCtr (n : Nat) : (s.dropReq n).freeCtr = s.freeCtr := rfl
@[simp] theorem dropReq_nextId (n : Nat) : (s.dropReq n).nextId = s.nextId := rfl
@[simp] theorem dropReq_upset (n : Nat) : (s.dropReq n).upset = s.upset := rfl
@[simp] theorem dropReq_parties (n : Nat) : (s.dropReq n).parties = s.parties := rfl
@[simp] theorem dropReq_crews (n : Nat) : (s.dropReq n).crews = s.crews := rfl
@[simp] theorem dropReq_launches (n : Nat) : (s.dropReq n).launches = s.launches := rfl
@[simp] theorem dropReq_cores (n : Nat) : (s.dropReq n).cores = s.cores := rfl
@[simp] theorem dropReq_quads (n : Nat) : (s.dropReq n).quads = s.quads := rfl
@[simp] theorem dropReq_dieFifo (n : Nat) : (s.dropReq n).dieFifo = s.dieFifo := rfl
@[simp] theorem dropReq_banks (n : Nat) : (s.dropReq n).banks = s.banks := rfl
@[simp] theorem dropReq_lods (n : Nat) : (s.dropReq n).lods = s.lods := rfl
@[simp] theorem dropReq_packets (n : Nat) : (s.dropReq n).packets = s.packets := rfl
@[simp] theorem dropReq_sfus (n : Nat) : (s.dropReq n).sfus = s.sfus := rfl
@[simp] theorem dropReq_arrivals (n : Nat) : (s.dropReq n).arrivals = s.arrivals := rfl
@[simp] theorem dropReq_tags (n : Nat) : (s.dropReq n).tags = s.tags := rfl
@[simp] theorem dropReq_mem (n : Nat) : (s.dropReq n).mem = s.mem := rfl
@[simp] theorem dropReq_pkg (n : Nat) : (s.dropReq n).pkg = s.pkg := rfl
@[simp] theorem dropReq_invals (n : Nat) : (s.dropReq n).invals = s.invals := rfl
@[simp] theorem dropReq_colls (n : Nat) : (s.dropReq n).colls = s.colls := rfl
@[simp] theorem dropReq_caravans (n : Nat) : (s.dropReq n).caravans = s.caravans := rfl
@[simp] theorem dropReq_msgsOut (n : Nat) : (s.dropReq n).msgsOut = s.msgsOut := rfl
@[simp] theorem dropReq_msgsIn (n : Nat) : (s.dropReq n).msgsIn = s.msgsIn := rfl
@[simp] theorem dropReq_streamsOut (n : Nat) : (s.dropReq n).streamsOut = s.streamsOut := rfl
@[simp] theorem dropReq_streamsIn (n : Nat) : (s.dropReq n).streamsIn = s.streamsIn := rfl

/-! `onPkg` -/

@[simp] theorem onPkg_script (f : Package → Package) : (s.onPkg f).script = s.script := rfl
@[simp] theorem onPkg_cur (f : Package → Package) : (s.onPkg f).cur = s.cur := rfl
@[simp] theorem onPkg_now (f : Package → Package) : (s.onPkg f).now = s.now := rfl
@[simp] theorem onPkg_freeCtr (f : Package → Package) : (s.onPkg f).freeCtr = s.freeCtr := rfl
@[simp] theorem onPkg_nextId (f : Package → Package) : (s.onPkg f).nextId = s.nextId := rfl
@[simp] theorem onPkg_upset (f : Package → Package) : (s.onPkg f).upset = s.upset := rfl
@[simp] theorem onPkg_parties (f : Package → Package) : (s.onPkg f).parties = s.parties := rfl
@[simp] theorem onPkg_crews (f : Package → Package) : (s.onPkg f).crews = s.crews := rfl
@[simp] theorem onPkg_launches (f : Package → Package) : (s.onPkg f).launches = s.launches := rfl
@[simp] theorem onPkg_cores (f : Package → Package) : (s.onPkg f).cores = s.cores := rfl
@[simp] theorem onPkg_quads (f : Package → Package) : (s.onPkg f).quads = s.quads := rfl
@[simp] theorem onPkg_dieFifo (f : Package → Package) : (s.onPkg f).dieFifo = s.dieFifo := rfl
@[simp] theorem onPkg_banks (f : Package → Package) : (s.onPkg f).banks = s.banks := rfl
@[simp] theorem onPkg_lods (f : Package → Package) : (s.onPkg f).lods = s.lods := rfl
@[simp] theorem onPkg_packets (f : Package → Package) : (s.onPkg f).packets = s.packets := rfl
@[simp] theorem onPkg_reqs (f : Package → Package) : (s.onPkg f).reqs = s.reqs := rfl
@[simp] theorem onPkg_sfus (f : Package → Package) : (s.onPkg f).sfus = s.sfus := rfl
@[simp] theorem onPkg_arrivals (f : Package → Package) : (s.onPkg f).arrivals = s.arrivals := rfl
@[simp] theorem onPkg_tags (f : Package → Package) : (s.onPkg f).tags = s.tags := rfl
@[simp] theorem onPkg_mem (f : Package → Package) : (s.onPkg f).mem = s.mem := rfl
@[simp] theorem onPkg_invals (f : Package → Package) : (s.onPkg f).invals = s.invals := rfl
@[simp] theorem onPkg_colls (f : Package → Package) : (s.onPkg f).colls = s.colls := rfl
@[simp] theorem onPkg_caravans (f : Package → Package) : (s.onPkg f).caravans = s.caravans := rfl
@[simp] theorem onPkg_msgsOut (f : Package → Package) : (s.onPkg f).msgsOut = s.msgsOut := rfl
@[simp] theorem onPkg_msgsIn (f : Package → Package) : (s.onPkg f).msgsIn = s.msgsIn := rfl
@[simp] theorem onPkg_streamsOut (f : Package → Package) : (s.onPkg f).streamsOut = s.streamsOut := rfl
@[simp] theorem onPkg_streamsIn (f : Package → Package) : (s.onPkg f).streamsIn = s.streamsIn := rfl

/-! `log` -/

@[simp] theorem log_script (a b c : Nat) (d : BitVec 128) : (s.log a b c d).script = s.script := rfl
@[simp] theorem log_cur (a b c : Nat) (d : BitVec 128) : (s.log a b c d).cur = s.cur := rfl
@[simp] theorem log_now (a b c : Nat) (d : BitVec 128) : (s.log a b c d).now = s.now := rfl
@[simp] theorem log_freeCtr (a b c : Nat) (d : BitVec 128) : (s.log a b c d).freeCtr = s.freeCtr := rfl
@[simp] theorem log_nextId (a b c : Nat) (d : BitVec 128) : (s.log a b c d).nextId = s.nextId := rfl
@[simp] theorem log_upset (a b c : Nat) (d : BitVec 128) : (s.log a b c d).upset = s.upset := rfl
@[simp] theorem log_parties (a b c : Nat) (d : BitVec 128) : (s.log a b c d).parties = s.parties := rfl
@[simp] theorem log_crews (a b c : Nat) (d : BitVec 128) : (s.log a b c d).crews = s.crews := rfl
@[simp] theorem log_launches (a b c : Nat) (d : BitVec 128) : (s.log a b c d).launches = s.launches := rfl
@[simp] theorem log_cores (a b c : Nat) (d : BitVec 128) : (s.log a b c d).cores = s.cores := rfl
@[simp] theorem log_quads (a b c : Nat) (d : BitVec 128) : (s.log a b c d).quads = s.quads := rfl
@[simp] theorem log_dieFifo (a b c : Nat) (d : BitVec 128) : (s.log a b c d).dieFifo = s.dieFifo := rfl
@[simp] theorem log_banks (a b c : Nat) (d : BitVec 128) : (s.log a b c d).banks = s.banks := rfl
@[simp] theorem log_packets (a b c : Nat) (d : BitVec 128) : (s.log a b c d).packets = s.packets := rfl
@[simp] theorem log_reqs (a b c : Nat) (d : BitVec 128) : (s.log a b c d).reqs = s.reqs := rfl
@[simp] theorem log_sfus (a b c : Nat) (d : BitVec 128) : (s.log a b c d).sfus = s.sfus := rfl
@[simp] theorem log_arrivals (a b c : Nat) (d : BitVec 128) : (s.log a b c d).arrivals = s.arrivals := rfl
@[simp] theorem log_tags (a b c : Nat) (d : BitVec 128) : (s.log a b c d).tags = s.tags := rfl
@[simp] theorem log_mem (a b c : Nat) (d : BitVec 128) : (s.log a b c d).mem = s.mem := rfl
@[simp] theorem log_invals (a b c : Nat) (d : BitVec 128) : (s.log a b c d).invals = s.invals := rfl
@[simp] theorem log_colls (a b c : Nat) (d : BitVec 128) : (s.log a b c d).colls = s.colls := rfl
@[simp] theorem log_caravans (a b c : Nat) (d : BitVec 128) : (s.log a b c d).caravans = s.caravans := rfl
@[simp] theorem log_msgsOut (a b c : Nat) (d : BitVec 128) : (s.log a b c d).msgsOut = s.msgsOut := rfl
@[simp] theorem log_msgsIn (a b c : Nat) (d : BitVec 128) : (s.log a b c d).msgsIn = s.msgsIn := rfl
@[simp] theorem log_streamsOut (a b c : Nat) (d : BitVec 128) : (s.log a b c d).streamsOut = s.streamsOut := rfl
@[simp] theorem log_streamsIn (a b c : Nat) (d : BitVec 128) : (s.log a b c d).streamsIn = s.streamsIn := rfl

/-! `setFull` -/

@[simp] theorem setFull_script (a : Nat) (b : Bool) : (s.setFull a b).script = s.script := rfl
@[simp] theorem setFull_cur (a : Nat) (b : Bool) : (s.setFull a b).cur = s.cur := rfl
@[simp] theorem setFull_now (a : Nat) (b : Bool) : (s.setFull a b).now = s.now := rfl
@[simp] theorem setFull_freeCtr (a : Nat) (b : Bool) : (s.setFull a b).freeCtr = s.freeCtr := rfl
@[simp] theorem setFull_nextId (a : Nat) (b : Bool) : (s.setFull a b).nextId = s.nextId := rfl
@[simp] theorem setFull_upset (a : Nat) (b : Bool) : (s.setFull a b).upset = s.upset := rfl
@[simp] theorem setFull_parties (a : Nat) (b : Bool) : (s.setFull a b).parties = s.parties := rfl
@[simp] theorem setFull_crews (a : Nat) (b : Bool) : (s.setFull a b).crews = s.crews := rfl
@[simp] theorem setFull_launches (a : Nat) (b : Bool) : (s.setFull a b).launches = s.launches := rfl
@[simp] theorem setFull_cores (a : Nat) (b : Bool) : (s.setFull a b).cores = s.cores := rfl
@[simp] theorem setFull_quads (a : Nat) (b : Bool) : (s.setFull a b).quads = s.quads := rfl
@[simp] theorem setFull_dieFifo (a : Nat) (b : Bool) : (s.setFull a b).dieFifo = s.dieFifo := rfl
@[simp] theorem setFull_banks (a : Nat) (b : Bool) : (s.setFull a b).banks = s.banks := rfl
@[simp] theorem setFull_lods (a : Nat) (b : Bool) : (s.setFull a b).lods = s.lods := rfl
@[simp] theorem setFull_packets (a : Nat) (b : Bool) : (s.setFull a b).packets = s.packets := rfl
@[simp] theorem setFull_reqs (a : Nat) (b : Bool) : (s.setFull a b).reqs = s.reqs := rfl
@[simp] theorem setFull_sfus (a : Nat) (b : Bool) : (s.setFull a b).sfus = s.sfus := rfl
@[simp] theorem setFull_arrivals (a : Nat) (b : Bool) : (s.setFull a b).arrivals = s.arrivals := rfl
@[simp] theorem setFull_tags (a : Nat) (b : Bool) : (s.setFull a b).tags = s.tags := rfl
@[simp] theorem setFull_pkg (a : Nat) (b : Bool) : (s.setFull a b).pkg = s.pkg := rfl
@[simp] theorem setFull_invals (a : Nat) (b : Bool) : (s.setFull a b).invals = s.invals := rfl
@[simp] theorem setFull_colls (a : Nat) (b : Bool) : (s.setFull a b).colls = s.colls := rfl
@[simp] theorem setFull_caravans (a : Nat) (b : Bool) : (s.setFull a b).caravans = s.caravans := rfl
@[simp] theorem setFull_msgsOut (a : Nat) (b : Bool) : (s.setFull a b).msgsOut = s.msgsOut := rfl
@[simp] theorem setFull_msgsIn (a : Nat) (b : Bool) : (s.setFull a b).msgsIn = s.msgsIn := rfl
@[simp] theorem setFull_streamsOut (a : Nat) (b : Bool) : (s.setFull a b).streamsOut = s.streamsOut := rfl
@[simp] theorem setFull_streamsIn (a : Nat) (b : Bool) : (s.setFull a b).streamsIn = s.streamsIn := rfl

/-! `storeN` -/

@[simp] theorem storeN_script (a v n : Nat) : (s.storeN a v n).script = s.script := rfl
@[simp] theorem storeN_cur (a v n : Nat) : (s.storeN a v n).cur = s.cur := rfl
@[simp] theorem storeN_now (a v n : Nat) : (s.storeN a v n).now = s.now := rfl
@[simp] theorem storeN_freeCtr (a v n : Nat) : (s.storeN a v n).freeCtr = s.freeCtr := rfl
@[simp] theorem storeN_nextId (a v n : Nat) : (s.storeN a v n).nextId = s.nextId := rfl
@[simp] theorem storeN_upset (a v n : Nat) : (s.storeN a v n).upset = s.upset := rfl
@[simp] theorem storeN_parties (a v n : Nat) : (s.storeN a v n).parties = s.parties := rfl
@[simp] theorem storeN_crews (a v n : Nat) : (s.storeN a v n).crews = s.crews := rfl
@[simp] theorem storeN_launches (a v n : Nat) : (s.storeN a v n).launches = s.launches := rfl
@[simp] theorem storeN_cores (a v n : Nat) : (s.storeN a v n).cores = s.cores := rfl
@[simp] theorem storeN_quads (a v n : Nat) : (s.storeN a v n).quads = s.quads := rfl
@[simp] theorem storeN_dieFifo (a v n : Nat) : (s.storeN a v n).dieFifo = s.dieFifo := rfl
@[simp] theorem storeN_banks (a v n : Nat) : (s.storeN a v n).banks = s.banks := rfl
@[simp] theorem storeN_lods (a v n : Nat) : (s.storeN a v n).lods = s.lods := rfl
@[simp] theorem storeN_packets (a v n : Nat) : (s.storeN a v n).packets = s.packets := rfl
@[simp] theorem storeN_reqs (a v n : Nat) : (s.storeN a v n).reqs = s.reqs := rfl
@[simp] theorem storeN_sfus (a v n : Nat) : (s.storeN a v n).sfus = s.sfus := rfl
@[simp] theorem storeN_arrivals (a v n : Nat) : (s.storeN a v n).arrivals = s.arrivals := rfl
@[simp] theorem storeN_tags (a v n : Nat) : (s.storeN a v n).tags = s.tags := rfl
@[simp] theorem storeN_pkg (a v n : Nat) : (s.storeN a v n).pkg = s.pkg := rfl
@[simp] theorem storeN_invals (a v n : Nat) : (s.storeN a v n).invals = s.invals := rfl
@[simp] theorem storeN_colls (a v n : Nat) : (s.storeN a v n).colls = s.colls := rfl
@[simp] theorem storeN_caravans (a v n : Nat) : (s.storeN a v n).caravans = s.caravans := rfl
@[simp] theorem storeN_msgsOut (a v n : Nat) : (s.storeN a v n).msgsOut = s.msgsOut := rfl
@[simp] theorem storeN_msgsIn (a v n : Nat) : (s.storeN a v n).msgsIn = s.msgsIn := rfl
@[simp] theorem storeN_streamsOut (a v n : Nat) : (s.storeN a v n).streamsOut = s.streamsOut := rfl
@[simp] theorem storeN_streamsIn (a v n : Nat) : (s.storeN a v n).streamsIn = s.streamsIn := rfl

/-! `onParty` -/

@[simp] theorem onParty_script (p : Nat) (f : Party → Party) : (s.onParty p f).script = s.script := by unfold State.onParty; split <;> rfl
@[simp] theorem onParty_cur (p : Nat) (f : Party → Party) : (s.onParty p f).cur = s.cur := by unfold State.onParty; split <;> rfl
@[simp] theorem onParty_now (p : Nat) (f : Party → Party) : (s.onParty p f).now = s.now := by unfold State.onParty; split <;> rfl
@[simp] theorem onParty_freeCtr (p : Nat) (f : Party → Party) : (s.onParty p f).freeCtr = s.freeCtr := by unfold State.onParty; split <;> rfl
@[simp] theorem onParty_nextId (p : Nat) (f : Party → Party) : (s.onParty p f).nextId = s.nextId := by unfold State.onParty; split <;> rfl
@[simp] theorem onParty_upset (p : Nat) (f : Party → Party) : (s.onParty p f).upset = s.upset := by unfold State.onParty; split <;> rfl
@[simp] theorem onParty_crews (p : Nat) (f : Party → Party) : (s.onParty p f).crews = s.crews := by unfold State.onParty; split <;> rfl
@[simp] theorem onParty_launches (p : Nat) (f : Party → Party) : (s.onParty p f).launches = s.launches := by unfold State.onParty; split <;> rfl
@[simp] theorem onParty_cores (p : Nat) (f : Party → Party) : (s.onParty p f).cores = s.cores := by unfold State.onParty; split <;> rfl
@[simp] theorem onParty_quads (p : Nat) (f : Party → Party) : (s.onParty p f).quads = s.quads := by unfold State.onParty; split <;> rfl
@[simp] theorem onParty_dieFifo (p : Nat) (f : Party → Party) : (s.onParty p f).dieFifo = s.dieFifo := by unfold State.onParty; split <;> rfl
@[simp] theorem onParty_banks (p : Nat) (f : Party → Party) : (s.onParty p f).banks = s.banks := by unfold State.onParty; split <;> rfl
@[simp] theorem onParty_lods (p : Nat) (f : Party → Party) : (s.onParty p f).lods = s.lods := by unfold State.onParty; split <;> rfl
@[simp] theorem onParty_packets (p : Nat) (f : Party → Party) : (s.onParty p f).packets = s.packets := by unfold State.onParty; split <;> rfl
@[simp] theorem onParty_reqs (p : Nat) (f : Party → Party) : (s.onParty p f).reqs = s.reqs := by unfold State.onParty; split <;> rfl
@[simp] theorem onParty_sfus (p : Nat) (f : Party → Party) : (s.onParty p f).sfus = s.sfus := by unfold State.onParty; split <;> rfl
@[simp] theorem onParty_arrivals (p : Nat) (f : Party → Party) : (s.onParty p f).arrivals = s.arrivals := by unfold State.onParty; split <;> rfl
@[simp] theorem onParty_tags (p : Nat) (f : Party → Party) : (s.onParty p f).tags = s.tags := by unfold State.onParty; split <;> rfl
@[simp] theorem onParty_mem (p : Nat) (f : Party → Party) : (s.onParty p f).mem = s.mem := by unfold State.onParty; split <;> rfl
@[simp] theorem onParty_pkg (p : Nat) (f : Party → Party) : (s.onParty p f).pkg = s.pkg := by unfold State.onParty; split <;> rfl
@[simp] theorem onParty_invals (p : Nat) (f : Party → Party) : (s.onParty p f).invals = s.invals := by unfold State.onParty; split <;> rfl
@[simp] theorem onParty_colls (p : Nat) (f : Party → Party) : (s.onParty p f).colls = s.colls := by unfold State.onParty; split <;> rfl
@[simp] theorem onParty_caravans (p : Nat) (f : Party → Party) : (s.onParty p f).caravans = s.caravans := by unfold State.onParty; split <;> rfl
@[simp] theorem onParty_msgsOut (p : Nat) (f : Party → Party) : (s.onParty p f).msgsOut = s.msgsOut := by unfold State.onParty; split <;> rfl
@[simp] theorem onParty_msgsIn (p : Nat) (f : Party → Party) : (s.onParty p f).msgsIn = s.msgsIn := by unfold State.onParty; split <;> rfl
@[simp] theorem onParty_streamsOut (p : Nat) (f : Party → Party) : (s.onParty p f).streamsOut = s.streamsOut := by unfold State.onParty; split <;> rfl
@[simp] theorem onParty_streamsIn (p : Nat) (f : Party → Party) : (s.onParty p f).streamsIn = s.streamsIn := by unfold State.onParty; split <;> rfl

/-! `onCrew` -/

@[simp] theorem onCrew_script (c : Nat) (f : Crew → Crew) : (s.onCrew c f).script = s.script := by unfold State.onCrew; split <;> rfl
@[simp] theorem onCrew_cur (c : Nat) (f : Crew → Crew) : (s.onCrew c f).cur = s.cur := by unfold State.onCrew; split <;> rfl
@[simp] theorem onCrew_now (c : Nat) (f : Crew → Crew) : (s.onCrew c f).now = s.now := by unfold State.onCrew; split <;> rfl
@[simp] theorem onCrew_freeCtr (c : Nat) (f : Crew → Crew) : (s.onCrew c f).freeCtr = s.freeCtr := by unfold State.onCrew; split <;> rfl
@[simp] theorem onCrew_nextId (c : Nat) (f : Crew → Crew) : (s.onCrew c f).nextId = s.nextId := by unfold State.onCrew; split <;> rfl
@[simp] theorem onCrew_upset (c : Nat) (f : Crew → Crew) : (s.onCrew c f).upset = s.upset := by unfold State.onCrew; split <;> rfl
@[simp] theorem onCrew_parties (c : Nat) (f : Crew → Crew) : (s.onCrew c f).parties = s.parties := by unfold State.onCrew; split <;> rfl
@[simp] theorem onCrew_launches (c : Nat) (f : Crew → Crew) : (s.onCrew c f).launches = s.launches := by unfold State.onCrew; split <;> rfl
@[simp] theorem onCrew_cores (c : Nat) (f : Crew → Crew) : (s.onCrew c f).cores = s.cores := by unfold State.onCrew; split <;> rfl
@[simp] theorem onCrew_quads (c : Nat) (f : Crew → Crew) : (s.onCrew c f).quads = s.quads := by unfold State.onCrew; split <;> rfl
@[simp] theorem onCrew_dieFifo (c : Nat) (f : Crew → Crew) : (s.onCrew c f).dieFifo = s.dieFifo := by unfold State.onCrew; split <;> rfl
@[simp] theorem onCrew_banks (c : Nat) (f : Crew → Crew) : (s.onCrew c f).banks = s.banks := by unfold State.onCrew; split <;> rfl
@[simp] theorem onCrew_lods (c : Nat) (f : Crew → Crew) : (s.onCrew c f).lods = s.lods := by unfold State.onCrew; split <;> rfl
@[simp] theorem onCrew_packets (c : Nat) (f : Crew → Crew) : (s.onCrew c f).packets = s.packets := by unfold State.onCrew; split <;> rfl
@[simp] theorem onCrew_reqs (c : Nat) (f : Crew → Crew) : (s.onCrew c f).reqs = s.reqs := by unfold State.onCrew; split <;> rfl
@[simp] theorem onCrew_sfus (c : Nat) (f : Crew → Crew) : (s.onCrew c f).sfus = s.sfus := by unfold State.onCrew; split <;> rfl
@[simp] theorem onCrew_arrivals (c : Nat) (f : Crew → Crew) : (s.onCrew c f).arrivals = s.arrivals := by unfold State.onCrew; split <;> rfl
@[simp] theorem onCrew_tags (c : Nat) (f : Crew → Crew) : (s.onCrew c f).tags = s.tags := by unfold State.onCrew; split <;> rfl
@[simp] theorem onCrew_mem (c : Nat) (f : Crew → Crew) : (s.onCrew c f).mem = s.mem := by unfold State.onCrew; split <;> rfl
@[simp] theorem onCrew_pkg (c : Nat) (f : Crew → Crew) : (s.onCrew c f).pkg = s.pkg := by unfold State.onCrew; split <;> rfl
@[simp] theorem onCrew_invals (c : Nat) (f : Crew → Crew) : (s.onCrew c f).invals = s.invals := by unfold State.onCrew; split <;> rfl
@[simp] theorem onCrew_colls (c : Nat) (f : Crew → Crew) : (s.onCrew c f).colls = s.colls := by unfold State.onCrew; split <;> rfl
@[simp] theorem onCrew_caravans (c : Nat) (f : Crew → Crew) : (s.onCrew c f).caravans = s.caravans := by unfold State.onCrew; split <;> rfl
@[simp] theorem onCrew_msgsOut (c : Nat) (f : Crew → Crew) : (s.onCrew c f).msgsOut = s.msgsOut := by unfold State.onCrew; split <;> rfl
@[simp] theorem onCrew_msgsIn (c : Nat) (f : Crew → Crew) : (s.onCrew c f).msgsIn = s.msgsIn := by unfold State.onCrew; split <;> rfl
@[simp] theorem onCrew_streamsOut (c : Nat) (f : Crew → Crew) : (s.onCrew c f).streamsOut = s.streamsOut := by unfold State.onCrew; split <;> rfl
@[simp] theorem onCrew_streamsIn (c : Nat) (f : Crew → Crew) : (s.onCrew c f).streamsIn = s.streamsIn := by unfold State.onCrew; split <;> rfl

/-! `onLaunch` -/

@[simp] theorem onLaunch_script (g : Nat) (f : Launch → Launch) : (s.onLaunch g f).script = s.script := by unfold State.onLaunch; split <;> rfl
@[simp] theorem onLaunch_cur (g : Nat) (f : Launch → Launch) : (s.onLaunch g f).cur = s.cur := by unfold State.onLaunch; split <;> rfl
@[simp] theorem onLaunch_now (g : Nat) (f : Launch → Launch) : (s.onLaunch g f).now = s.now := by unfold State.onLaunch; split <;> rfl
@[simp] theorem onLaunch_freeCtr (g : Nat) (f : Launch → Launch) : (s.onLaunch g f).freeCtr = s.freeCtr := by unfold State.onLaunch; split <;> rfl
@[simp] theorem onLaunch_nextId (g : Nat) (f : Launch → Launch) : (s.onLaunch g f).nextId = s.nextId := by unfold State.onLaunch; split <;> rfl
@[simp] theorem onLaunch_upset (g : Nat) (f : Launch → Launch) : (s.onLaunch g f).upset = s.upset := by unfold State.onLaunch; split <;> rfl
@[simp] theorem onLaunch_parties (g : Nat) (f : Launch → Launch) : (s.onLaunch g f).parties = s.parties := by unfold State.onLaunch; split <;> rfl
@[simp] theorem onLaunch_crews (g : Nat) (f : Launch → Launch) : (s.onLaunch g f).crews = s.crews := by unfold State.onLaunch; split <;> rfl
@[simp] theorem onLaunch_cores (g : Nat) (f : Launch → Launch) : (s.onLaunch g f).cores = s.cores := by unfold State.onLaunch; split <;> rfl
@[simp] theorem onLaunch_quads (g : Nat) (f : Launch → Launch) : (s.onLaunch g f).quads = s.quads := by unfold State.onLaunch; split <;> rfl
@[simp] theorem onLaunch_dieFifo (g : Nat) (f : Launch → Launch) : (s.onLaunch g f).dieFifo = s.dieFifo := by unfold State.onLaunch; split <;> rfl
@[simp] theorem onLaunch_banks (g : Nat) (f : Launch → Launch) : (s.onLaunch g f).banks = s.banks := by unfold State.onLaunch; split <;> rfl
@[simp] theorem onLaunch_lods (g : Nat) (f : Launch → Launch) : (s.onLaunch g f).lods = s.lods := by unfold State.onLaunch; split <;> rfl
@[simp] theorem onLaunch_packets (g : Nat) (f : Launch → Launch) : (s.onLaunch g f).packets = s.packets := by unfold State.onLaunch; split <;> rfl
@[simp] theorem onLaunch_reqs (g : Nat) (f : Launch → Launch) : (s.onLaunch g f).reqs = s.reqs := by unfold State.onLaunch; split <;> rfl
@[simp] theorem onLaunch_sfus (g : Nat) (f : Launch → Launch) : (s.onLaunch g f).sfus = s.sfus := by unfold State.onLaunch; split <;> rfl
@[simp] theorem onLaunch_arrivals (g : Nat) (f : Launch → Launch) : (s.onLaunch g f).arrivals = s.arrivals := by unfold State.onLaunch; split <;> rfl
@[simp] theorem onLaunch_tags (g : Nat) (f : Launch → Launch) : (s.onLaunch g f).tags = s.tags := by unfold State.onLaunch; split <;> rfl
@[simp] theorem onLaunch_mem (g : Nat) (f : Launch → Launch) : (s.onLaunch g f).mem = s.mem := by unfold State.onLaunch; split <;> rfl
@[simp] theorem onLaunch_pkg (g : Nat) (f : Launch → Launch) : (s.onLaunch g f).pkg = s.pkg := by unfold State.onLaunch; split <;> rfl
@[simp] theorem onLaunch_invals (g : Nat) (f : Launch → Launch) : (s.onLaunch g f).invals = s.invals := by unfold State.onLaunch; split <;> rfl
@[simp] theorem onLaunch_colls (g : Nat) (f : Launch → Launch) : (s.onLaunch g f).colls = s.colls := by unfold State.onLaunch; split <;> rfl
@[simp] theorem onLaunch_caravans (g : Nat) (f : Launch → Launch) : (s.onLaunch g f).caravans = s.caravans := by unfold State.onLaunch; split <;> rfl
@[simp] theorem onLaunch_msgsOut (g : Nat) (f : Launch → Launch) : (s.onLaunch g f).msgsOut = s.msgsOut := by unfold State.onLaunch; split <;> rfl
@[simp] theorem onLaunch_msgsIn (g : Nat) (f : Launch → Launch) : (s.onLaunch g f).msgsIn = s.msgsIn := by unfold State.onLaunch; split <;> rfl
@[simp] theorem onLaunch_streamsOut (g : Nat) (f : Launch → Launch) : (s.onLaunch g f).streamsOut = s.streamsOut := by unfold State.onLaunch; split <;> rfl
@[simp] theorem onLaunch_streamsIn (g : Nat) (f : Launch → Launch) : (s.onLaunch g f).streamsIn = s.streamsIn := by unfold State.onLaunch; split <;> rfl

/-! `onReq` -/

@[simp] theorem onReq_script (n : Nat) (f : Req → Req) : (s.onReq n f).script = s.script := by unfold State.onReq; split <;> rfl
@[simp] theorem onReq_cur (n : Nat) (f : Req → Req) : (s.onReq n f).cur = s.cur := by unfold State.onReq; split <;> rfl
@[simp] theorem onReq_now (n : Nat) (f : Req → Req) : (s.onReq n f).now = s.now := by unfold State.onReq; split <;> rfl
@[simp] theorem onReq_freeCtr (n : Nat) (f : Req → Req) : (s.onReq n f).freeCtr = s.freeCtr := by unfold State.onReq; split <;> rfl
@[simp] theorem onReq_nextId (n : Nat) (f : Req → Req) : (s.onReq n f).nextId = s.nextId := by unfold State.onReq; split <;> rfl
@[simp] theorem onReq_upset (n : Nat) (f : Req → Req) : (s.onReq n f).upset = s.upset := by unfold State.onReq; split <;> rfl
@[simp] theorem onReq_parties (n : Nat) (f : Req → Req) : (s.onReq n f).parties = s.parties := by unfold State.onReq; split <;> rfl
@[simp] theorem onReq_crews (n : Nat) (f : Req → Req) : (s.onReq n f).crews = s.crews := by unfold State.onReq; split <;> rfl
@[simp] theorem onReq_launches (n : Nat) (f : Req → Req) : (s.onReq n f).launches = s.launches := by unfold State.onReq; split <;> rfl
@[simp] theorem onReq_cores (n : Nat) (f : Req → Req) : (s.onReq n f).cores = s.cores := by unfold State.onReq; split <;> rfl
@[simp] theorem onReq_quads (n : Nat) (f : Req → Req) : (s.onReq n f).quads = s.quads := by unfold State.onReq; split <;> rfl
@[simp] theorem onReq_dieFifo (n : Nat) (f : Req → Req) : (s.onReq n f).dieFifo = s.dieFifo := by unfold State.onReq; split <;> rfl
@[simp] theorem onReq_banks (n : Nat) (f : Req → Req) : (s.onReq n f).banks = s.banks := by unfold State.onReq; split <;> rfl
@[simp] theorem onReq_lods (n : Nat) (f : Req → Req) : (s.onReq n f).lods = s.lods := by unfold State.onReq; split <;> rfl
@[simp] theorem onReq_packets (n : Nat) (f : Req → Req) : (s.onReq n f).packets = s.packets := by unfold State.onReq; split <;> rfl
@[simp] theorem onReq_sfus (n : Nat) (f : Req → Req) : (s.onReq n f).sfus = s.sfus := by unfold State.onReq; split <;> rfl
@[simp] theorem onReq_arrivals (n : Nat) (f : Req → Req) : (s.onReq n f).arrivals = s.arrivals := by unfold State.onReq; split <;> rfl
@[simp] theorem onReq_tags (n : Nat) (f : Req → Req) : (s.onReq n f).tags = s.tags := by unfold State.onReq; split <;> rfl
@[simp] theorem onReq_mem (n : Nat) (f : Req → Req) : (s.onReq n f).mem = s.mem := by unfold State.onReq; split <;> rfl
@[simp] theorem onReq_pkg (n : Nat) (f : Req → Req) : (s.onReq n f).pkg = s.pkg := by unfold State.onReq; split <;> rfl
@[simp] theorem onReq_invals (n : Nat) (f : Req → Req) : (s.onReq n f).invals = s.invals := by unfold State.onReq; split <;> rfl
@[simp] theorem onReq_colls (n : Nat) (f : Req → Req) : (s.onReq n f).colls = s.colls := by unfold State.onReq; split <;> rfl
@[simp] theorem onReq_caravans (n : Nat) (f : Req → Req) : (s.onReq n f).caravans = s.caravans := by unfold State.onReq; split <;> rfl
@[simp] theorem onReq_msgsOut (n : Nat) (f : Req → Req) : (s.onReq n f).msgsOut = s.msgsOut := by unfold State.onReq; split <;> rfl
@[simp] theorem onReq_msgsIn (n : Nat) (f : Req → Req) : (s.onReq n f).msgsIn = s.msgsIn := by unfold State.onReq; split <;> rfl
@[simp] theorem onReq_streamsOut (n : Nat) (f : Req → Req) : (s.onReq n f).streamsOut = s.streamsOut := by unfold State.onReq; split <;> rfl
@[simp] theorem onReq_streamsIn (n : Nat) (f : Req → Req) : (s.onReq n f).streamsIn = s.streamsIn := by unfold State.onReq; split <;> rfl

/-! `onPacket` -/

@[simp] theorem onPacket_script (n : Nat) (f : Packet → Packet) : (s.onPacket n f).script = s.script := by unfold State.onPacket; split <;> rfl
@[simp] theorem onPacket_cur (n : Nat) (f : Packet → Packet) : (s.onPacket n f).cur = s.cur := by unfold State.onPacket; split <;> rfl
@[simp] theorem onPacket_now (n : Nat) (f : Packet → Packet) : (s.onPacket n f).now = s.now := by unfold State.onPacket; split <;> rfl
@[simp] theorem onPacket_freeCtr (n : Nat) (f : Packet → Packet) : (s.onPacket n f).freeCtr = s.freeCtr := by unfold State.onPacket; split <;> rfl
@[simp] theorem onPacket_nextId (n : Nat) (f : Packet → Packet) : (s.onPacket n f).nextId = s.nextId := by unfold State.onPacket; split <;> rfl
@[simp] theorem onPacket_upset (n : Nat) (f : Packet → Packet) : (s.onPacket n f).upset = s.upset := by unfold State.onPacket; split <;> rfl
@[simp] theorem onPacket_parties (n : Nat) (f : Packet → Packet) : (s.onPacket n f).parties = s.parties := by unfold State.onPacket; split <;> rfl
@[simp] theorem onPacket_crews (n : Nat) (f : Packet → Packet) : (s.onPacket n f).crews = s.crews := by unfold State.onPacket; split <;> rfl
@[simp] theorem onPacket_launches (n : Nat) (f : Packet → Packet) : (s.onPacket n f).launches = s.launches := by unfold State.onPacket; split <;> rfl
@[simp] theorem onPacket_cores (n : Nat) (f : Packet → Packet) : (s.onPacket n f).cores = s.cores := by unfold State.onPacket; split <;> rfl
@[simp] theorem onPacket_quads (n : Nat) (f : Packet → Packet) : (s.onPacket n f).quads = s.quads := by unfold State.onPacket; split <;> rfl
@[simp] theorem onPacket_dieFifo (n : Nat) (f : Packet → Packet) : (s.onPacket n f).dieFifo = s.dieFifo := by unfold State.onPacket; split <;> rfl
@[simp] theorem onPacket_banks (n : Nat) (f : Packet → Packet) : (s.onPacket n f).banks = s.banks := by unfold State.onPacket; split <;> rfl
@[simp] theorem onPacket_lods (n : Nat) (f : Packet → Packet) : (s.onPacket n f).lods = s.lods := by unfold State.onPacket; split <;> rfl
@[simp] theorem onPacket_reqs (n : Nat) (f : Packet → Packet) : (s.onPacket n f).reqs = s.reqs := by unfold State.onPacket; split <;> rfl
@[simp] theorem onPacket_sfus (n : Nat) (f : Packet → Packet) : (s.onPacket n f).sfus = s.sfus := by unfold State.onPacket; split <;> rfl
@[simp] theorem onPacket_arrivals (n : Nat) (f : Packet → Packet) : (s.onPacket n f).arrivals = s.arrivals := by unfold State.onPacket; split <;> rfl
@[simp] theorem onPacket_tags (n : Nat) (f : Packet → Packet) : (s.onPacket n f).tags = s.tags := by unfold State.onPacket; split <;> rfl
@[simp] theorem onPacket_mem (n : Nat) (f : Packet → Packet) : (s.onPacket n f).mem = s.mem := by unfold State.onPacket; split <;> rfl
@[simp] theorem onPacket_pkg (n : Nat) (f : Packet → Packet) : (s.onPacket n f).pkg = s.pkg := by unfold State.onPacket; split <;> rfl
@[simp] theorem onPacket_invals (n : Nat) (f : Packet → Packet) : (s.onPacket n f).invals = s.invals := by unfold State.onPacket; split <;> rfl
@[simp] theorem onPacket_colls (n : Nat) (f : Packet → Packet) : (s.onPacket n f).colls = s.colls := by unfold State.onPacket; split <;> rfl
@[simp] theorem onPacket_caravans (n : Nat) (f : Packet → Packet) : (s.onPacket n f).caravans = s.caravans := by unfold State.onPacket; split <;> rfl
@[simp] theorem onPacket_msgsOut (n : Nat) (f : Packet → Packet) : (s.onPacket n f).msgsOut = s.msgsOut := by unfold State.onPacket; split <;> rfl
@[simp] theorem onPacket_msgsIn (n : Nat) (f : Packet → Packet) : (s.onPacket n f).msgsIn = s.msgsIn := by unfold State.onPacket; split <;> rfl
@[simp] theorem onPacket_streamsOut (n : Nat) (f : Packet → Packet) : (s.onPacket n f).streamsOut = s.streamsOut := by unfold State.onPacket; split <;> rfl
@[simp] theorem onPacket_streamsIn (n : Nat) (f : Packet → Packet) : (s.onPacket n f).streamsIn = s.streamsIn := by unfold State.onPacket; split <;> rfl

/-! `fresh` -/

@[simp] theorem fresh_script : s.fresh.2.script = s.script := rfl
@[simp] theorem fresh_cur : s.fresh.2.cur = s.cur := rfl
@[simp] theorem fresh_now : s.fresh.2.now = s.now := rfl
@[simp] theorem fresh_freeCtr : s.fresh.2.freeCtr = s.freeCtr := rfl
@[simp] theorem fresh_upset : s.fresh.2.upset = s.upset := rfl
@[simp] theorem fresh_parties : s.fresh.2.parties = s.parties := rfl
@[simp] theorem fresh_crews : s.fresh.2.crews = s.crews := rfl
@[simp] theorem fresh_launches : s.fresh.2.launches = s.launches := rfl
@[simp] theorem fresh_cores : s.fresh.2.cores = s.cores := rfl
@[simp] theorem fresh_quads : s.fresh.2.quads = s.quads := rfl
@[simp] theorem fresh_dieFifo : s.fresh.2.dieFifo = s.dieFifo := rfl
@[simp] theorem fresh_banks : s.fresh.2.banks = s.banks := rfl
@[simp] theorem fresh_lods : s.fresh.2.lods = s.lods := rfl
@[simp] theorem fresh_packets : s.fresh.2.packets = s.packets := rfl
@[simp] theorem fresh_reqs : s.fresh.2.reqs = s.reqs := rfl
@[simp] theorem fresh_sfus : s.fresh.2.sfus = s.sfus := rfl
@[simp] theorem fresh_arrivals : s.fresh.2.arrivals = s.arrivals := rfl
@[simp] theorem fresh_tags : s.fresh.2.tags = s.tags := rfl
@[simp] theorem fresh_mem : s.fresh.2.mem = s.mem := rfl
@[simp] theorem fresh_pkg : s.fresh.2.pkg = s.pkg := rfl
@[simp] theorem fresh_invals : s.fresh.2.invals = s.invals := rfl
@[simp] theorem fresh_colls : s.fresh.2.colls = s.colls := rfl
@[simp] theorem fresh_caravans : s.fresh.2.caravans = s.caravans := rfl
@[simp] theorem fresh_msgsOut : s.fresh.2.msgsOut = s.msgsOut := rfl
@[simp] theorem fresh_msgsIn : s.fresh.2.msgsIn = s.msgsIn := rfl
@[simp] theorem fresh_streamsOut : s.fresh.2.streamsOut = s.streamsOut := rfl
@[simp] theorem fresh_streamsIn : s.fresh.2.streamsIn = s.streamsIn := rfl

/-! `freeWord` -/

@[simp] theorem freeWord_script : s.freeWord.2.script = s.script := rfl
@[simp] theorem freeWord_cur : s.freeWord.2.cur = s.cur := rfl
@[simp] theorem freeWord_now : s.freeWord.2.now = s.now := rfl
@[simp] theorem freeWord_nextId : s.freeWord.2.nextId = s.nextId := rfl
@[simp] theorem freeWord_upset : s.freeWord.2.upset = s.upset := rfl
@[simp] theorem freeWord_parties : s.freeWord.2.parties = s.parties := rfl
@[simp] theorem freeWord_crews : s.freeWord.2.crews = s.crews := rfl
@[simp] theorem freeWord_launches : s.freeWord.2.launches = s.launches := rfl
@[simp] theorem freeWord_cores : s.freeWord.2.cores = s.cores := rfl
@[simp] theorem freeWord_quads : s.freeWord.2.quads = s.quads := rfl
@[simp] theorem freeWord_dieFifo : s.freeWord.2.dieFifo = s.dieFifo := rfl
@[simp] theorem freeWord_banks : s.freeWord.2.banks = s.banks := rfl
@[simp] theorem freeWord_lods : s.freeWord.2.lods = s.lods := rfl
@[simp] theorem freeWord_packets : s.freeWord.2.packets = s.packets := rfl
@[simp] theorem freeWord_reqs : s.freeWord.2.reqs = s.reqs := rfl
@[simp] theorem freeWord_sfus : s.freeWord.2.sfus = s.sfus := rfl
@[simp] theorem freeWord_arrivals : s.freeWord.2.arrivals = s.arrivals := rfl
@[simp] theorem freeWord_tags : s.freeWord.2.tags = s.tags := rfl
@[simp] theorem freeWord_mem : s.freeWord.2.mem = s.mem := rfl
@[simp] theorem freeWord_pkg : s.freeWord.2.pkg = s.pkg := rfl
@[simp] theorem freeWord_invals : s.freeWord.2.invals = s.invals := rfl
@[simp] theorem freeWord_colls : s.freeWord.2.colls = s.colls := rfl
@[simp] theorem freeWord_caravans : s.freeWord.2.caravans = s.caravans := rfl
@[simp] theorem freeWord_msgsOut : s.freeWord.2.msgsOut = s.msgsOut := rfl
@[simp] theorem freeWord_msgsIn : s.freeWord.2.msgsIn = s.msgsIn := rfl
@[simp] theorem freeWord_streamsOut : s.freeWord.2.streamsOut = s.streamsOut := rfl
@[simp] theorem freeWord_streamsIn : s.freeWord.2.streamsIn = s.streamsIn := rfl

/-! What is read back -/

@[simp] theorem fresh_nextId : s.fresh.2.nextId = s.nextId + 1 := rfl
@[simp] theorem fresh_fst : s.fresh.1 = s.nextId := rfl
@[simp] theorem freeWord_freeCtr : s.freeWord.2.freeCtr = s.freeCtr + 1 := rfl
@[simp] theorem freeWord_fst : s.freeWord.1 = Config.freeWord s.freeCtr := rfl
@[simp] theorem party?_setParty_same (p : Nat) (x : Party) : (s.setParty p x).party? p = some x := sfind_sput_same x p s.parties
theorem party?_setParty (p q : Nat) (x : Party) : (s.setParty p x).party? q = if q = p then some x else s.party? q :=
  sfind_sput x p q s.parties
@[simp] theorem setParty_setParty (p : Nat) (x y : Party) : (s.setParty p x).setParty p y = s.setParty p y := by
  simp [State.setParty, sput_sput_same]
@[simp] theorem core_setCore_same (c : Nat) (x : Core) : (s.setCore c x).core c = x := sget_sset_same _ _ _ _
@[simp] theorem core_onCore_same (c : Nat) (f : Core → Core) : (s.onCore c f).core c = f (s.core c) := sget_sset_same _ _ _ _
@[simp] theorem quad_onQuad_same (q : Nat) (f : Quad → Quad) : (s.onQuad q f).quad q = f (s.quad q) := sget_sset_same _ _ _ _
@[simp] theorem lod_onLod_same (n : Nat) (f : Lodging → Lodging) : (s.onLod n f).lod n = f (s.lod n) := sget_sset_same _ _ _ _
@[simp] theorem bank_onBank_same (e : Nat) (f : Bank → Bank) : (s.onBank e f).bank e = f (s.bank e) := sget_sset_same _ _ _ _
@[simp] theorem onPkg_pkg (f : Package → Package) : (s.onPkg f).pkg = f s.pkg := rfl
@[simp] theorem wake_party? (p : Nat) : s.wake.party? p = (s.party? p).map (fun x => { x with hold := false }) := by
  simp only [State.party?, State.wake, State.mapParties]
  induction s.parties with
  | nil => rfl
  | cons e m ih =>
    obtain ⟨j, v⟩ := e
    by_cases h : j = p
    · simp [sfind, h]
    · simp [sfind, h, ih]

/-- A party found is found after an update of it. -/
theorem onParty_of_some {s : State} {p : Nat} {x : Party} (h : s.party? p = some x) (f : Party → Party) :
    s.onParty p f = s.setParty p (f x) := by simp [State.onParty, h]

end Sys2Proof.Machine
end

