-- ==== Sys2Proof/Laws/Memory.lean ====
section
/-! SUPPORT. Laws of memory: a read after a write gives the bytes written and leaves every other byte, and every operation keeps the
canonical form. -/

namespace Sys2Proof.Machine

open Sys2Proof

/-! ### Bytes -/

theorem storeN_bytes_succ (m : Mem) (a v n : Nat) :
    m.storeN a v (n + 1) = (m.setByte a (BitVec.ofNat 8 v)).storeN (a + 1) (v / 256) n := rfl

theorem mem_storeN_get (m : Mem) (a v n b : Nat) :
    sget 0 (m.storeN a v n).bytes b = if a ≤ b ∧ b < a + n then BitVec.ofNat 8 (v / 256 ^ (b - a)) else sget 0 m.bytes b := by
  induction n generalizing m a v with
  | zero =>
    have : ¬ (a ≤ b ∧ b < a + 0) := by omega
    rw [if_neg this]
    rfl
  | succ n ih =>
    rw [storeN_bytes_succ, ih]
    by_cases h1 : a + 1 ≤ b ∧ b < a + 1 + n
    · have h2 : a ≤ b ∧ b < a + (n + 1) := by omega
      rw [if_pos h1, if_pos h2]
      obtain ⟨k, rfl⟩ : ∃ k, b = a + 1 + k := ⟨b - (a + 1), by omega⟩
      have e1 : a + 1 + k - (a + 1) = k := by omega
      have e2 : a + 1 + k - a = k + 1 := by omega
      rw [e1, e2, Nat.div_div_eq_div_mul, pow_succ, Nat.mul_comm (256 ^ k)]
    · rw [if_neg h1]
      show sget 0 (sset 0 m.bytes a (BitVec.ofNat 8 v)) b = _
      rw [sget_sset]
      by_cases hb : b = a
      · subst hb
        simp
      · have h2 : ¬ (a ≤ b ∧ b < a + (n + 1)) := by omega
        rw [if_neg hb, if_neg h2]

@[simp] theorem cover_bytes (m : Mem) (a n : Nat) : (m.cover a n).bytes = m.bytes := by
  unfold Mem.cover
  dsimp only
  split
  · rfl
  · split <;> rfl

/-- A store writes its bytes little-endian and leaves every other byte. -/
theorem storeN_byteAt (s : State) (a v n b : Nat) :
    (s.storeN a v n).byteAt b = if a ≤ b ∧ b < a + n then BitVec.ofNat 8 (v / 256 ^ (b - a)) else s.byteAt b := by
  show sget 0 ((s.mem.storeN a v n).cover a n).bytes b = _
  rw [cover_bytes, mem_storeN_get]
  rfl

/-- A byte outside a store reads as before. -/
theorem storeN_byteAt_ne (s : State) {a v n b : Nat} (h : b < a ∨ a + n ≤ b) : (s.storeN a v n).byteAt b = s.byteAt b := by
  rw [storeN_byteAt, if_neg (by omega)]

theorem loadN_congr {s t : State} {a n : Nat} (h : ∀ b, a ≤ b → b < a + n → s.byteAt b = t.byteAt b) : s.loadN a n = t.loadN a n := by
  induction n generalizing a with
  | zero => rfl
  | succ n ih =>
    simp only [State.loadN]
    rw [h a (le_refl a) (by omega), ih (fun b h1 h2 => h b (by omega) (by omega))]

theorem loadN_storeN_aux (s : State) (a v k n m : Nat) (h : k + n ≤ m) :
    (s.storeN a v m).loadN (a + k) n = v / 256 ^ k % 256 ^ n := by
  induction n generalizing k with
  | zero => simp [State.loadN, Nat.mod_one]
  | succ n ih =>
    have hb : (s.storeN a v m).byteAt (a + k) = BitVec.ofNat 8 (v / 256 ^ k) := by
      rw [storeN_byteAt, if_pos (by omega)]
      congr 2
      congr 1
      omega
    simp only [State.loadN]
    rw [hb, show a + k + 1 = a + (k + 1) by omega, ih (k + 1) (by omega), pow_succ 256 k, ← Nat.div_div_eq_div_mul, pow_succ 256 n,
      Nat.mul_comm (256 ^ n) 256, Nat.mod_mul, BitVec.toNat_ofNat]

/-- A read after a write gives the value written, modulo its size. -/
theorem loadN_storeN (s : State) (a v n : Nat) : (s.storeN a v n).loadN a n = v % 256 ^ n := by
  simpa using loadN_storeN_aux s a v 0 n n (by omega)

/-- A read away from a write gives what it gave. -/
theorem loadN_storeN_ne (s : State) {a v n b k : Nat} (h : b + k ≤ a ∨ a + n ≤ b) : (s.storeN a v n).loadN b k = s.loadN b k :=
  loadN_congr (fun c h1 h2 => storeN_byteAt_ne s (by omega))

/-! ### Canonical form -/

/-- Memory of a state is canonical. -/
abbrev State.canon (s : State) : Prop := Memory.wf s.mem.bytes = true

theorem setByte_wf {m : Mem} (a : Nat) (b : Byte) (h : Memory.wf m.bytes = true) : Memory.wf (m.setByte a b).bytes = true :=
  swf_sset h

theorem mem_storeN_wf {m : Mem} (a v n : Nat) (h : Memory.wf m.bytes = true) : Memory.wf (m.storeN a v n).bytes = true := by
  induction n generalizing m a v with
  | zero => exact h
  | succ n ih => exact ih _ _ (setByte_wf a _ h)

theorem storeN_wf {s : State} (a v n : Nat) (h : s.canon) : (s.storeN a v n).canon := by
  show Memory.wf ((s.mem.storeN a v n).cover a n).bytes = true
  rw [cover_bytes]
  exact mem_storeN_wf a v n h

theorem storePieces_wf {s : State} (v : Nat) (ps : List (Nat × Nat)) (h : s.canon) : (s.storePieces v ps).canon := by
  induction ps generalizing s v with
  | nil => exact h
  | cons q ps ih => exact ih _ (storeN_wf _ _ _ h)

theorem zeroRange_wf {s : State} (lo n : Nat) (h : s.canon) : (s.zeroRange lo n).canon := swf_filter _ h

theorem zeroBlock_wf {m : Mem} (b : Nat) (h : Memory.wf m.bytes = true) : Memory.wf (m.zeroBlock b).bytes = true := swf_filter _ h

theorem setRec_wf {s : State} (a : Ag) (off n v : Nat) (h : s.canon) : (s.setRec a off n v).canon := storeN_wf _ _ _ h

theorem setFrame_wf {s : State} (a : Ag) (b : DWord) (off n v : Nat) (h : s.canon) : (s.setFrame a b off n v).canon := storeN_wf _ _ _ h

theorem feWrite_wf {s : State} (fe : Nat) (va : DWord) (bs : List Byte) (h : s.canon) : (s.feWrite fe va bs).canon := by
  induction bs generalizing s va with
  | nil => exact h
  | cons b bs ih =>
    simp only [State.feWrite]
    split
    · exact ih _ (storeN_wf _ _ _ h)
    · exact ih _ h

theorem setBytes_wf {m : Sparse Byte} (a : Nat) (bs : List Byte) (h : swf 0 m = true) : swf 0 (setBytes m a bs) = true := by
  induction bs generalizing m a with
  | nil => exact h
  | cons b bs ih => exact ih _ (swf_sset h)

/-- Memory at reset is canonical. -/
theorem reset_wf : Memory.wf State.reset.mem.bytes = true := rfl

end Sys2Proof.Machine
end

