-- ==== Sys2Proof/Laws/Operands.lean ====
section
/-! SUPPORT. What the operand executors do: one law for each, which proofs cite in place of their definitions. -/

namespace Sys2Proof.Machine

open Sys2Proof

/-! ### The issuing party -/

/-- A word runs for the party that is issuing. -/
theorem issue_next {s : State} {p : Nat} {x : Party} (hc : s.cur = some p) (hp : s.party? p = some x) (f : Nat → Party → State) :
    s.issue f = .next (f p x) := by simp [State.issue, hc, hp]

/-- Without an issuing party an encoded word stops. -/
theorem issue_none {s : State} (hc : s.cur = none) (f : Nat → Party → State) : s.issue f = .fault .noIssuingParty := by
  simp [State.issue, hc]

/-- A word whose registers lie within Rt, or that touches no thread, runs. -/
theorem alloc_ok {s : State} {p : Nat} {x : Party} {m : Mods} {regs : List (Reg × Nat)}
    (h : x.selected m ||| x.zeroed m = 0 ∨ x.beyond (repsOf m) regs = none) (go : State) : s.alloc p x m regs go = go := by
  unfold State.alloc
  rcases h with h | h
  · simp [h]
  · simp [h]

/-! ### Registers -/

@[simp] theorem vNow_setV (p : Party) (t r t' r' : Nat) (w : Word) :
    (p.setV t r w).vNow t' r' = if 1024 * t' + r' = 1024 * t + r then w else p.vNow t' r' := by
  simp [Party.vNow, Party.setV, sget_sset]

/-- Writing one value a thread leaves registers of other numbers. -/
theorem vNow_setVs_reg (p : Party) (r : Nat) (vs : List (Nat × Word)) (t' r' : Nat) (hr : r < 1024) (hr' : r' < 1024) (h : r' ≠ r) :
    (p.setVs r vs).vNow t' r' = p.vNow t' r' := by
  induction vs generalizing p with
  | nil => rfl
  | cons e vs ih =>
    obtain ⟨t, w⟩ := e
    simp only [Party.setVs]
    rw [ih, vNow_setV, if_neg (by omega)]

/-- Writing one value a thread leaves the threads that are not named. -/
theorem vNow_setVs_thread (p : Party) (r : Nat) (vs : List (Nat × Word)) (t' r' : Nat) (hr : r < 1024) (hr' : r' < 1024)
    (h : ∀ e ∈ vs, e.1 ≠ t') : (p.setVs r vs).vNow t' r' = p.vNow t' r' := by
  induction vs generalizing p with
  | nil => rfl
  | cons e vs ih =>
    obtain ⟨t, w⟩ := e
    simp only [Party.setVs]
    rw [ih _ (fun e he => h e (by simp [he])), vNow_setV]
    have := h (t, w) (by simp)
    rw [if_neg (by simp at this; omega)]

/-- A thread that is named takes its value. -/
theorem vNow_setVs_mem (p : Party) (r : Nat) (vs : List (Nat × Word)) (t : Nat) (w : Word) (hr : r < 1024) (hm : (t, w) ∈ vs)
    (hu : ∀ e ∈ vs, e.1 = t → e.2 = w) : (p.setVs r vs).vNow t r = w := by
  induction vs generalizing p with
  | nil => simp at hm
  | cons e vs ih =>
    obtain ⟨i, v⟩ := e
    simp only [Party.setVs]
    by_cases hx : (t, w) ∈ vs
    · exact ih _ hx (fun e he => hu e (by simp [he]))
    · rcases List.mem_cons.1 hm with h | h
      · cases h
        rw [vNow_setVs_thread _ _ _ _ _ hr hr, vNow_setV, if_pos rfl]
        intro e he heq
        have := hu e (by simp [he]) heq
        exact hx (by rw [← this, ← heq]; exact he)
      · exact absurd h hx

theorem setVs_eq (p : Party) (r : Nat) (vs : List (Nat × Word)) :
    p.setVs r vs = { p with regs := { p.regs with v := (p.setVs r vs).regs.v } } := by
  induction vs generalizing p with
  | nil => rfl
  | cons e vs ih => rw [Party.setVs, ih]; rfl

theorem vecStep_eq (p : Party) (m : Mods) (n k : Nat) (f : Party → Nat → Nat → Word) :
    p.vecStep m n k f = { p with regs := { p.regs with v := (p.vecStep m n k f).regs.v } } := setVs_eq _ _ _

/-- A vector function changes vector registers alone. -/
theorem vecIter_eq (p : Party) (m : Mods) (n : Nat) (f : Party → Nat → Nat → Word) (k r : Nat) :
    p.vecIter m n f k r = { p with regs := { p.regs with v := (p.vecIter m n f k r).regs.v } } := by
  induction r generalizing p k with
  | zero => rfl
  | succ r ih => rw [Party.vecIter, ih, vecStep_eq]

/-- A thread of a mask below the width. -/
theorem mem_threadsOf {w t : Nat} {m : Mask} : t ∈ threadsOf w m ↔ t < w ∧ bitOf m t = true := by
  simp [threadsOf]

/-- One step: a selected thread takes the function's value. -/
theorem vecStep_selected (p : Party) (m : Mods) (n k : Nat) (f : Party → Nat → Nat → Word) {t : Nat} (hr : p.base + n + k < 1024)
    (ht : t ∈ threadsOf p.width (p.selected m)) : (p.vecStep m n k f).vNow t (p.base + n + k) = f p t k := by
  refine vNow_setVs_mem _ _ _ _ _ hr (List.mem_append_left _ (List.mem_map.2 ⟨t, ht, rfl⟩)) ?_
  intro e he heq
  rcases List.mem_append.1 he with h | h
  · obtain ⟨u, _, rfl⟩ := List.mem_map.1 h
    simp only at heq; subst heq; rfl
  · obtain ⟨u, hu, rfl⟩ := List.mem_map.1 h
    simp only at heq; subst heq
    exfalso
    rw [mem_threadsOf] at hu ht
    have h1 := hu.2
    have h2 := ht.2
    unfold Party.zeroed at h1
    cases hm : m.pre with
    | none => simp [hm, bitOf] at h1
    | some q =>
      simp only [hm] at h1
      split at h1
      · simp [bitOf] at h1 h2
        simp [h2] at h1
      · simp [bitOf] at h1

/-- One step: a thread that the zero policy names takes 0. -/
theorem vecStep_zeroed (p : Party) (m : Mods) (n k : Nat) (f : Party → Nat → Nat → Word) {t : Nat} (hr : p.base + n + k < 1024)
    (ht : t ∈ threadsOf p.width (p.zeroed m)) (hn : t ∉ threadsOf p.width (p.selected m)) :
    (p.vecStep m n k f).vNow t (p.base + n + k) = 0 := by
  refine vNow_setVs_mem _ _ _ _ _ hr (List.mem_append_right _ (List.mem_map.2 ⟨t, ht, rfl⟩)) ?_
  intro e he heq
  rcases List.mem_append.1 he with h | h
  · obtain ⟨u, hu, rfl⟩ := List.mem_map.1 h
    simp only at heq; subst heq
    exact absurd hu hn
  · obtain ⟨u, _, rfl⟩ := List.mem_map.1 h
    rfl

/-- One step leaves every other register and thread. -/
theorem vecStep_other (p : Party) (m : Mods) (n k : Nat) (f : Party → Nat → Nat → Word) {t r : Nat} (hr : p.base + n + k < 1024)
    (hr' : r < 1024) (h : r ≠ p.base + n + k ∨ (t ∉ threadsOf p.width (p.selected m) ∧ t ∉ threadsOf p.width (p.zeroed m))) :
    (p.vecStep m n k f).vNow t r = p.vNow t r := by
  rcases h with h | h
  · exact vNow_setVs_reg _ _ _ _ _ hr hr' h
  · refine vNow_setVs_thread _ _ _ _ _ hr hr' ?_
    intro e he heq
    rcases List.mem_append.1 he with h' | h'
    · obtain ⟨u, hu, rfl⟩ := List.mem_map.1 h'
      exact h.1 (by simpa [← heq] using hu)
    · obtain ⟨u, hu, rfl⟩ := List.mem_map.1 h'
      exact h.2 (by simpa [← heq] using hu)

/-- Everything a function with a 32-bit destination does. -/
theorem vecOp_next {s : State} {p : Nat} {x : Party} (hc : s.cur = some p) (hp : s.party? p = some x) (m : Mods) (d : Reg)
    (regs : List (Reg × Nat)) (f : Party → Nat → Nat → Word)
    (ha : x.selected m ||| x.zeroed m = 0 ∨ x.beyond (repsOf m) ((d, 1) :: regs) = none) :
    s.vecOp m d regs f = .next (s.setParty p (match (generalizing := false) d with
      | .s n => x.setU n.val ((f x 0 0).setWidth 64)
      | .v n => x.vecIter m n.val f 0 (repsOf m))) := by
  unfold State.vecOp
  rw [issue_next hc hp]
  cases d with
  | s n => rfl
  | v n => simp only [alloc_ok ha]

/-- Everything a function with a 64-bit destination does. -/
theorem vecOp64_next {s : State} {p : Nat} {x : Party} (hc : s.cur = some p) (hp : s.party? p = some x) (m : Mods) (d : Reg)
    (regs : List (Reg × Nat)) (f : Party → Nat → DWord)
    (ha : x.selected m ||| x.zeroed m = 0 ∨ x.beyond (repsOf m) ((d, 2) :: regs) = none) :
    s.vecOp64 m d regs f = .next (s.setParty p (match (generalizing := false) d with
      | .s n => x.setU n.val (f x 0)
      | .v n => ((x.vecStep m n.val 0 (fun _ t _ => (f x t).setWidth 32))).vecStep m n.val 1
          (fun _ t _ => (f x t).extractLsb' 32 32))) := by
  unfold State.vecOp64
  rw [issue_next hc hp]
  cases d with
  | s n => rfl
  | v n => simp only [alloc_ok ha]

/-- Everything a function with a mask destination does. -/
theorem maskOp_next {s : State} {p : Nat} {x : Party} (hc : s.cur = some p) (hp : s.party? p = some x) (m : Mods) (d : MaskReg)
    (regs : List (Reg × Nat)) (f : Party → Nat → Nat → Bool)
    (ha : x.selected m ||| x.zeroed m = 0 ∨ x.beyond (repsOf m) regs = none) :
    s.maskOp m d regs f = .next (s.setParty p (x.maskIter m d.val f 0 (repsOf m))) := by
  unfold State.maskOp
  rw [issue_next hc hp, alloc_ok ha]

/-- A register that names a run past Rt raises 0x07 for the selected threads. -/
theorem alloc_bad {s : State} {p : Nat} {x : Party} {m : Mods} {regs : List (Reg × Nat)} {r : Nat}
    (hs : x.selected m ||| x.zeroed m ≠ 0) (hb : x.beyond (repsOf m) regs = some r) (go : State) :
    s.alloc p x m regs go = s.raiseHere p 0x07 (x.selected m) (BitVec.ofNat 64 (r % 2048)) := by
  unfold State.alloc
  rw [if_neg hs, hb]

end Sys2Proof.Machine
end

