-- ==== Sys2Proof/Tests/Slice0.lean ====
section
/-! SUPPORT. Tests: ill-formed words, words of the spec decoded, single steps with results worked out from the spec, and, for every claim with
hypotheses, states and operands that meet them. Words and results come from the spec's encodings, examples and tables (the rule is named). -/

namespace Sys2Proof.Tests

open Sys2Proof Sys2Proof.Machine Sys2Proof.Says

set_option maxRecDepth 20000
set_option exponentiation.threshold 1000

/-! ### Helpers -/

/-- A word without chain, give-way or prefix. -/
def plain : Mods := ⟨false, false, none⟩
/-- A word with a prefix: its mask, inversion, zero policy, rounding or order, and repeat or scope. -/
def pre (mask : MaskReg) (inv zero : Bool) (rnd rep : BitVec 3) : Mods := ⟨false, false, some ⟨false, mask, inv, zero, rnd, rep⟩⟩

/-- A grid party of 16 threads with 64 registers, at slot 0 of packet 0 of the line 0x4000, every thread active. -/
def party16 : Party :=
  { Party.blank 1 2 (some 3) 16 64 0x4000 with life := .resident, entered := true, pos := ⟨0x4000, some [], 0, 1, 0xFFFF, 0, true⟩ }
/-- The party with vector registers (thread, register, value) and uniform registers. -/
def withRegs (vs : List (Nat × Nat × Word)) (us : List (Nat × DWord)) : Party :=
  { party16 with regs := { party16.regs with
      v := vs.foldl (fun m e => sput m (1024 * e.1 + e.2.1) e.2.2) [], u := us.foldl (fun m e => sput m e.1 e.2) [] } }
/-- The machine with one party, number 1, whose word issues; its lodging's handler stands at 0x8000. -/
def demo (x : Party) : State :=
  { State.reset with cur := some 1, nextId := 10, parties := [(1, x)], lods := [(1, { Lodging.reset with tvec := 0x8000 })] }
/-- The same, with its lodging running, block 0 the lodging's, and page 0 mapped to itself. -/
def land (x : Party) : State :=
  let s := { demo x with mem := { Mem.reset with owner := [(0, .key 1)] } }
  (s.onLod 1 (fun l => { l with desc := probeDesc, st := .running })).onQuad 0
    (fun q => { q with tlb := [⟨1, 0, 0, 0, true, true, true, true, true⟩] })
/-- The party after one word. -/
noncomputable def after (i : Instr) (x : Party) : Option Party := match exec i (demo x) with | .next t => t.party? 1 | _ => none
/-- A register of thread 0 after one word. -/
noncomputable def word0 (i : Instr) (x : Party) (r : Nat) : Option Word := (after i x).map (fun y => y.vNow 0 r)
/-- A uniform register after one word. -/
noncomputable def uni0 (i : Instr) (x : Party) (r : Nat) : Option DWord := (after i x).map (fun y => y.uNow r)
/-- The cause of the trap that a word takes, if it takes one: the handler runs at supervisor level (R273). -/
noncomputable def causeOf (i : Instr) (x : Party) : Option Word := (after i x).bind (fun y => if y.csr.level = 1 then some y.csr.tcause else none)
/-- The state after a step that goes on, or the old one. -/
def next (o : Host.Outcome State Fault Refusal) (s : State) : State := match o with | .next t => t | _ => s

/-! ### Ill-formed terms: one for each check of the decoder on a word (R83) -/

theorem test_pair_odd_refused : ¬ WellFormed (.add64 plain (.v 5) (.v 4) (.reg (.s 6))) := by decide
theorem test_uniform_with_vector_source_refused : ¬ WellFormed (.add plain (.s 5) (.v 4) (.reg (.s 6))) := by decide
theorem test_mask_m0_destination_refused : ¬ WellFormed (.cmpEq plain 0 (.v 4) (.reg (.v 5))) := by decide
theorem test_shift_immediate_32_refused : ¬ WellFormed (.shli plain (.v 5) (.v 4) 32) := by decide
theorem test_sel_without_prefix_refused : ¬ WellFormed (.sel plain (.v 4) (.v 5) (.reg (.v 6)) 2) := by decide
theorem test_prefix_on_branch_refused : ¬ WellFormed (.br (pre 1 false false 0 0) 1) := by decide
theorem test_prefix_m0_inverted_refused : ¬ WellFormed (.add (pre 0 true false 0 0) (.v 5) (.v 4) (.reg (.v 3))) := by decide
theorem test_rounding_in_class_0_refused : ¬ WellFormed (.add (pre 1 false false 1 0) (.v 5) (.v 4) (.reg (.v 3))) := by decide
theorem test_rounding_7_refused : ¬ WellFormed (.fadd (pre 1 false false 7 0) (.v 5) (.v 4) (.reg (.v 3))) := by decide
theorem test_zero_policy_on_atomic_refused : ¬ WellFormed (.atomAdd (pre 1 false true 0 0) (.v 5) (.v 4) (.reg (.v 3))) := by decide
theorem test_repeat_on_lea_refused : ¬ WellFormed (.leaW (pre 1 false false 0 1) (.v 4) (.v 6) (.reg (.v 3))) := by decide
theorem test_order_on_load_refused : ¬ WellFormed (.ld32 (pre 1 false false 1 0) (.v 4) (.v 6) (.units 0)) := by decide
theorem test_repeat_past_v95_refused : ¬ WellFormed (.add (pre 1 false false 0 2) (.v 95) (.v 4) (.reg (.v 3))) := by decide
theorem test_loop_counter_7_refused : ¬ WellFormed (.loop plain 7 1) := by decide
theorem test_pair_overlap_refused : ¬ WellFormed (.mulW plain (.v 4) (.v 5) (.reg (.v 2))) := by decide
theorem test_tid_0_uniform_refused : ¬ WellFormed (.tid plain (.s 3) 0) := by decide
theorem test_tid_8_refused : ¬ WellFormed (.tid plain (.v 3) 8) := by decide
theorem test_barrier_number_refused : ¬ WellFormed (.barSync plain 3 4) := by decide
theorem test_barrier_scope_5_refused : ¬ WellFormed (.barSync plain 5 0) := by decide
theorem test_csr_wide_to_odd_register_refused : ¬ WellFormed (.csrRd plain (.v 5) .cyc) := by decide
theorem test_brx_bound_0_refused : ¬ WellFormed (.brx plain 0 (.s 4) (.v 1)) := by decide
theorem test_tl_inc_of_an_engine_timeline_refused : ¬ WellFormed (.tlInc plain (.s 1) 4 (.lit 1)) := by decide
theorem test_mask_function_m0_destination_refused : ¬ WellFormed (.mand plain 0 1 2) := by decide

/-! ### Words of the spec, bit by bit: C, Y, class, function, D, A, B (R72), and a literal after its word (R73) -/

/-- The one instruction that a word, with the literal after it, stands for. -/
noncomputable def read1 (w lit : Word) : Option Instr := decodeWords [w, lit, 0x22200000]

/-- The words that the examples of the int chapters give. -/
theorem test_words_int_decode :
    read1 0b0_0_000_000110_0001000_0000010_0000011 0x0 = some (.mad plain (.v 8) (.v 2) (.reg (.v 3))) ∧
    read1 0b0_0_000_010110_0000101_0000100_0000011 0x0 = some (.shli plain (.v 5) (.v 4) 3) ∧
    read1 0b0_0_000_011101_0000110_0000100_1111111 0x504 = some (.bfeN plain (.v 6) (.v 4) (.lit 0x504)) ∧
    read1 0b0_0_000_100010_0000010_0000100_1100111 0x0 = some (.cmpLtI plain 2 (.v 4) (.reg (.s 7))) ∧
    read1 0b0_0_000_101010_0000011_1111101_1010100 0x0 = some (.movi plain (.v 3) (-300)) ∧
    read1 0b0_0_000_101101_0000110_1100001_0000000 0x0 = some (.leaW plain (.v 6) (.s 1) (.reg (.v 0))) ∧
    read1 0b0_0_000_101111_0000100_0000100_1100110 0x0 = some (.add64 plain (.v 4) (.v 4) (.reg (.s 6))) ∧
    read1 0b0_0_000_110011_0001010_0001000_0001001 0x0 = some (.divI plain (.v 10) (.v 8) (.reg (.v 9))) ∧
    read1 0b0_0_000_110111_0001100_0001000_0001000 0x0 = some (.adds plain (.v 12) (.v 8) (.reg (.v 8))) ∧
    read1 0b0_0_000_111010_0001001_0000010_0000011 0x0 = some (.dot4Ni plain (.v 9) (.v 2) (.reg (.v 3))) := by
  refine ⟨rfl, rfl, rfl, rfl, rfl, rfl, rfl, rfl, rfl, rfl⟩

/-- The words that the examples of the float chapters give. -/
theorem test_words_float_decode :
    read1 0b0_0_001_000000_0000100_0000010_0000011 0x0 = some (.fadd plain (.v 4) (.v 2) (.reg (.v 3))) ∧
    read1 0b0_0_001_001001_0000010_0000100_0000101 0x0 = some (.fcmpLt plain 2 (.v 4) (.reg (.v 5))) ∧
    read1 0b0_0_001_010100_0000110_0000010_0000011 0x0 = some (.hfma2Bf plain (.v 6) (.v 2) (.reg (.v 3))) ∧
    read1 0b0_0_001_011010_0001001_0000010_0000011 0x0 = some (.f8dot4E4 plain (.v 9) (.v 2) (.reg (.v 3))) := by
  refine ⟨rfl, rfl, rfl, rfl⟩

/-- The words that the examples of the special chapters give. -/
theorem test_words_special_decode :
    read1 0b0_0_010_000101_0000101_0000100_0000000 0x0 = some (.sinT plain (.v 5) (.v 4)) ∧
    read1 0b0_0_010_001001_0000111_0000010_0000011 0x0 = some (.fdiv plain (.v 7) (.v 2) (.reg (.v 3))) ∧
    read1 0b0_0_010_010100_0001000_0000100_0000101 0x0 = some (.cvt2Bf plain (.v 8) (.v 4) (.reg (.v 5))) ∧
    read1 0b0_0_010_100001_0000110_0000101_0000111 0x0 = some (.shfl plain (.v 6) (.v 5) (.reg (.v 7))) ∧
    read1 0b0_0_010_100000_0000110_0000101_1111111 0x1 = some (.swp plain (.v 6) (.v 5) (.lit 1)) ∧
    read1 0b0_0_010_101100_1101001_0000100_0000000 0x0 = some (.redFadd plain (.s 9) (.v 4)) ∧
    read1 0b0_0_010_100101_0000011_0000010_0000000 0x0 = some (.voteAny plain 3 2) := by
  refine ⟨rfl, rfl, rfl, rfl, rfl, rfl, rfl⟩

/-- The words that the examples of the memory chapters give. -/
theorem test_words_memory_decode :
    read1 0b0_0_011_000101_0001000_0000110_0000010 0x0 = some (.ld64 plain (.v 8) (.v 6) (.units 2)) ∧
    read1 0b0_0_011_000111_0000011_1100001_0000101 0x0 = some (.st8 plain (.v 3) (.s 1) (.units 5)) ∧
    read1 0b0_0_011_100000_0000000_0000110_1111111 0x7d0 = some (.nap plain (.v 6) (.lit 0x7D0)) ∧
    read1 0b0_0_011_100001_0001000_1100001_0000001 0x0 = some (.mbxLd plain (.v 8) (.s 1) (.units 1)) := by
  refine ⟨rfl, rfl, rfl, rfl⟩

/-- The words that the examples of the control chapters give. -/
theorem test_words_control_decode :
    read1 0b0_0_100_000100_0000101_1101000_0000011 0x0 = some (.brx plain 5 (.s 8) (.v 3)) ∧
    read1 0b0_0_100_001110_0010010_0000000_0000000 0x0 = some (.barSync plain 1 2) ∧
    read1 0b0_0_100_001111_0000000_1100101_0000000 0x0 = some (.syncP plain (.s 5)) ∧
    read1 0b0_0_100_010010_0011111_1111111_1111101 0x0 = some (.loop plain 1 (-3)) := by
  refine ⟨rfl, rfl, rfl, rfl⟩

/-- The words that the examples of the agent chapters give. -/
theorem test_words_agent_decode :
    read1 0b0_0_101_000000_0000110_0000000_0001000 0x0 = some (.belPut plain (.v 6) (.v 0) (.reg (.v 8))) ∧
    read1 0b0_0_101_001110_0000000_0000000_1111111 0x3 = some (.step plain (.v 0) (.lit 3)) ∧
    read1 0b0_0_101_000101_0000000_0000000_0001000 0x0 = some (.goalAdd plain (.v 0) (.v 8)) ∧
    read1 0b0_0_101_001010_1101010_0000000_0000110 0x0 = some (.intSusp plain (.s 10) (.v 0) (.v 6)) ∧
    read1 0b0_0_101_001100_1101011_0000000_0001000 0x0 = some (.planSub plain (.s 11) (.v 0) (.v 8)) ∧
    read1 0b0_0_101_000001_0000110_0000000_0000000 0x0 = some (.belRet plain (.v 6) (.v 0)) ∧
    read1 0b0_0_101_000011_0001010_0000000_0000000 0x0 = some (.belFacts plain (.v 10) (.v 0)) := by
  refine ⟨rfl, rfl, rfl, rfl, rfl, rfl, rfl⟩

/-- The words that the examples of the engine chapters give. -/
theorem test_words_engine_decode :
    read1 0b0_0_110_000000_1100101_0000000_1111111 0x4 = some (.tileClaim plain (.s 5) (.lit 4)) ∧
    read1 0b0_0_110_000001_0000000_0000100_1111111 0x2 = some (.tileRel plain (.num 4) (.lit 2)) ∧
    read1 0b0_0_110_000011_1101001_1100100_1100101 0x0 = some (.cpIn plain (.s 9) (.s 4) (.reg (.s 5))) ∧
    read1 0b0_0_110_000101_1101001_1100100_1100111 0x0 = some (.cpMem plain (.s 9) (.s 4) (.reg (.s 7))) ∧
    read1 0b0_0_110_000110_1101001_1100100_1100111 0x0 = some (.cpInMx plain (.s 9) (.s 4) (.reg (.s 7))) ∧
    read1 0b0_0_110_000111_0000000_0000100_0000101 0x0 = some (.mxMma plain 0 (.num 4) (.num 5)) ∧
    read1 0b0_0_110_001011_0000001_0000000_0000000 0x0 = some (.mxCtlClaim plain 1) ∧
    read1 0b0_0_110_001001_0001000_0000000_1111111 0x0 = some (.mxRd plain (.v 8) 0 (.lit 0)) ∧
    read1 0b0_0_110_001100_0000000_0000100_1101001 0x0 = some (.tlWait plain 4 (.reg (.s 9))) ∧
    read1 0b0_0_110_001110_1100000_0001001_1111111 0x1 = some (.tlInc plain (.s 0) 9 (.lit 1)) ∧
    read1 0b0_0_110_001111_1101010_1100100_1100110 0x0 = some (.bankCmd plain (.s 10) (.s 4) (.reg (.s 6))) ∧
    read1 0b0_0_110_010000_0000010_1100100_0000000 0x0 = some (.launch plain 2 (.s 4)) ∧
    read1 0b0_0_110_010001_0000000_0000100_1111111 0xc = some (.recEmit plain (.v 0) (.v 4) (.lit 12)) ∧
    read1 0b0_0_110_010010_0001001_1100100_0010000 0x0 = some (.logApp plain (.v 9) (.s 4) (.v 16)) := by
  refine ⟨rfl, rfl, rfl, rfl, rfl, rfl, rfl, rfl, rfl, rfl, rfl, rfl, rfl, rfl⟩

/-- The words that the examples of the envelope chapters give. -/
theorem test_words_envelope_decode :
    read1 0b0_0_110_100010_0000010_0000000_1100100 0x0 = some (.envClr plain (.num 2) (.s 4)) ∧
    read1 0b0_0_110_100011_0000010_0000100_0000101 0x0 = some (.envIns plain (.num 2) (.v 4) (.reg (.v 5))) ∧
    read1 0b0_0_110_100100_0000011_0000001_0000010 0x0 = some (.envSum plain (.num 3) (.num 1) (.num 2)) ∧
    read1 0b0_0_110_101001_0001000_0000010_0000110 0x0 = some (.envEval plain (.v 8) (.num 2) (.reg (.v 6))) := by
  refine ⟨rfl, rfl, rfl, rfl⟩

/-- The words that the examples of the system chapters give. -/
theorem test_words_system_decode :
    read1 0b0_0_111_000000_1100101_0000001_0000000 0x0 = some (.csrRd plain (.s 5) .fpsum) ∧
    read1 0b0_0_111_000011_1100000_0000001_1111111 0x1f = some (.csrClr plain (.s 0) .fpsum (.lit 0x1F)) ∧
    read1 0b0_0_111_000100_0000000_0000000_1111111 0x5 = some (.trap plain (.lit 5)) ∧
    read1 0b0_0_111_000110_0000000_0000000_0000011 0x0 = some (.brk plain 3) ∧
    read1 0b0_0_111_000111_1101000_0000000_0000000 0x0 = some (.clk plain (.s 8)) := by
  refine ⟨rfl, rfl, rfl, rfl, rfl⟩
/-- A prefix stands before its base (R78): mask m1, zero policy. -/
theorem test_prefixed_word_decodes : decodeWords [0b1_0_111_111111_0010100_0000000_0000000, 0b0_0_000_000000_0000111_0000101_1111111, 1000] =
    some (.add (pre 1 false true 0 0) (.v 7) (.v 5) (.lit 1000)) := by rfl
/-- `tret` and `exit` have no operands. -/
theorem test_tret_and_exit_decode : read1 0b0_0_111_000101_0000000_0000000_0000000 0 = some (.tret plain) ∧
    read1 0b0_0_100_001010_0000000_0000000_0000000 0 = some (.exit plain) := ⟨rfl, rfl⟩
/-- The cause of a packet's first failure. -/
noncomputable def refusal (w : Word) : Option (BitVec 6) :=
  match decodePacket 0 [w, 0x22200000, 0x22200000] with | .error d => some d.cause | .ok _ => none
/-- A reserved function, a reserved bit, a mask register above m7, and a prefix whose C is 0 are refused with their causes (R83, R93, R94). -/
theorem test_words_refused : refusal 0x0F000000 = some 0x01 ∧ refusal 0x22208000 = some 0x02 ∧ refusal 0x15818283 = some 0x02 ∧
    refusal 0x3FE00000 = some 0x04 := by refine ⟨rfl, rfl, rfl, rfl⟩

/-! ### Single steps: results of the spec's tables and examples -/

/-- R102: `abs` and `neg` of 0x80000000 give 0x80000000; a sum wraps. -/
theorem test_arithmetic_corners :
    word0 (.abs plain (.v 2) (.v 0)) (withRegs [(0, 0, 0x80000000)] []) 2 = some 0x80000000 ∧
    word0 (.neg plain (.v 2) (.v 0)) (withRegs [(0, 0, 0x80000000)] []) 2 = some 0x80000000 ∧
    word0 (.add plain (.v 0) (.v 0) (.reg (.v 1))) (withRegs [(0, 0, 0xFFFFFFFF), (0, 1, 3)] []) 0 = some 2 ∧
    word0 (.mad plain (.v 2) (.v 0) (.reg (.v 1))) (withRegs [(0, 0, 5), (0, 1, 7), (0, 2, 100)] []) 2 = some 135 := by
  refine ⟨rfl, rfl, rfl, rfl⟩
/-- R102: the high half of a signed and of an unsigned product differ. -/
theorem test_high_products :
    word0 (.mulhI plain (.v 2) (.v 0) (.reg (.v 1))) (withRegs [(0, 0, 0xFFFFFFFF), (0, 1, 2)] []) 2 = some 0xFFFFFFFF ∧
    word0 (.mulhN plain (.v 2) (.v 0) (.reg (.v 1))) (withRegs [(0, 0, 0xFFFFFFFF), (0, 1, 2)] []) 2 = some 1 := by refine ⟨rfl, rfl⟩
/-- R103: a count of 32 or more shifts everything out; `sar` keeps the sign; `rot` takes the count modulo 32. -/
theorem test_shift_counts :
    word0 (.shl plain (.v 2) (.v 0) (.reg (.v 1))) (withRegs [(0, 0, 1), (0, 1, 32)] []) 2 = some 0 ∧
    word0 (.sar plain (.v 2) (.v 0) (.reg (.v 1))) (withRegs [(0, 0, 0x80000000), (0, 1, 40)] []) 2 = some 0xFFFFFFFF ∧
    word0 (.rot plain (.v 2) (.v 0) (.reg (.v 1))) (withRegs [(0, 0, 0x80000001), (0, 1, 33)] []) 2 = some 3 := by refine ⟨rfl, rfl, rfl⟩
/-- R103: leading zeros, ones, and reversed bits. -/
theorem test_bit_counts :
    word0 (.clz plain (.v 2) (.v 0)) (withRegs [] []) 2 = some 32 ∧ word0 (.popc plain (.v 2) (.v 0)) (withRegs [(0, 0, 0x0000F00F)] []) 2 = some 8 ∧
    word0 (.brev plain (.v 2) (.v 0)) (withRegs [(0, 0, 1)] []) 2 = some 0x80000000 := by refine ⟨rfl, rfl, rfl⟩
/-- R104: `bfe.n` with p = 28 and l = 8 returns the four bits [31:28]; a length of 0 gives 0, and leaves D in `bfi`. -/
theorem test_field_cut_at_bit_31 :
    word0 (.bfeN plain (.v 2) (.v 0) (.lit 0x81C)) (withRegs [(0, 0, 0xA1234567)] []) 2 = some 0xA ∧
    word0 (.bfeI plain (.v 2) (.v 0) (.lit 0x81C)) (withRegs [(0, 0, 0xA1234567)] []) 2 = some 0xFFFFFFFA ∧
    word0 (.bfi plain (.v 2) (.v 0) (.lit 0x004)) (withRegs [(0, 0, 0xFF), (0, 2, 0x1234)] []) 2 = some 0x1234 ∧
    word0 (.bfi plain (.v 2) (.v 0) (.lit 0x404)) (withRegs [(0, 0, 0xFF), (0, 2, 0x1234)] []) 2 = some 0x12F4 := by refine ⟨rfl, rfl, rfl, rfl⟩
/-- R105: `sel` takes A where the selector bit is set. -/
theorem test_sel_by_mask :
    word0 (.sel (pre 0 false false 0 0) (.v 4) (.v 5) (.reg (.v 6)) 0) (withRegs [(0, 5, 1), (0, 6, 2)] []) 4 = some 1 ∧
    word0 (.sel (pre 0 false false 0 0) (.v 4) (.v 5) (.reg (.v 6)) 2) (withRegs [(0, 5, 1), (0, 6, 2)] []) 4 = some 2 := by refine ⟨rfl, rfl⟩
/-- R106: signed and unsigned compares of −1 and 1. -/
theorem test_compare_signedness :
    (after (.cmpLtI plain 2 (.v 0) (.reg (.v 1))) (withRegs [(0, 0, 0xFFFFFFFF), (0, 1, 1)] [])).map (fun y => bitOf (y.maskNow 2) 0) = some true ∧
    (after (.cmpLtN plain 2 (.v 0) (.reg (.v 1))) (withRegs [(0, 0, 0xFFFFFFFF), (0, 1, 1)] [])).map (fun y => bitOf (y.maskNow 2) 0) = some false := by
  refine ⟨rfl, rfl⟩
/-- R107: `movi v3, -300`, and a uniform `movi` fills 64 bits. -/
theorem test_movi_sign_extends :
    word0 (.movi plain (.v 3) (-300)) party16 3 = some (-300) ∧ uni0 (.movi plain (.s 3) (-1)) party16 3 = some (-1) := by refine ⟨rfl, rfl⟩
/-- R108: index 3 at scale 4 gives the base plus 12, and a negative index goes down. -/
theorem test_lea_scales_its_index :
    uni0 (.leaW plain (.s 6) (.s 1) (.reg (.s 2))) (withRegs [] [(1, 0x1_0000_0000), (2, 3)]) 6 = some 0x1_0000_000C ∧
    uni0 (.leaD plain (.s 6) (.s 1) (.lit 0xFFFFFFFF)) (withRegs [] [(1, 0x1_0000_0000)]) 6 = some 0xFFFF_FFF8 := by refine ⟨rfl, rfl⟩
/-- R109: `add64 v4:v5, v4:v5, -1` decrements the pair; a wide product fills a pair. -/
theorem test_wide_forms :
    word0 (.add64 plain (.v 4) (.v 4) (.lit 0xFFFFFFFF)) (withRegs [(0, 5, 1)] []) 4 = some 0xFFFFFFFF ∧
    word0 (.add64 plain (.v 4) (.v 4) (.lit 0xFFFFFFFF)) (withRegs [(0, 5, 1)] []) 5 = some 0 ∧
    word0 (.mulWn plain (.v 4) (.v 0) (.reg (.v 1))) (withRegs [(0, 0, 0xFFFFFFFF), (0, 1, 0xFFFFFFFF)] []) 5 = some 0xFFFFFFFE := by refine ⟨rfl, rfl, rfl⟩
/-- R110: division by 0, the most negative by −1, and truncation toward zero. -/
theorem test_division_corners :
    word0 (.divI plain (.v 2) (.v 0) (.reg (.v 1))) (withRegs [(0, 0, 0x80000000), (0, 1, 0xFFFFFFFF)] []) 2 = some 0x80000000 ∧
    word0 (.remI plain (.v 2) (.v 0) (.reg (.v 1))) (withRegs [(0, 0, 0x80000000), (0, 1, 0xFFFFFFFF)] []) 2 = some 0 ∧
    word0 (.divN plain (.v 2) (.v 0) (.reg (.v 1))) (withRegs [(0, 0, 7)] []) 2 = some 0xFFFFFFFF ∧
    word0 (.remN plain (.v 2) (.v 0) (.reg (.v 1))) (withRegs [(0, 0, 7)] []) 2 = some 7 ∧
    word0 (.divI plain (.v 2) (.v 0) (.reg (.v 1))) (withRegs [(0, 0, -7), (0, 1, 2)] []) 2 = some (-3) ∧
    word0 (.remI plain (.v 2) (.v 0) (.reg (.v 1))) (withRegs [(0, 0, -7), (0, 1, 2)] []) 2 = some (-1) := by refine ⟨rfl, rfl, rfl, rfl, rfl, rfl⟩
/-- R111: saturation at both ends. -/
theorem test_saturation :
    word0 (.adds plain (.v 2) (.v 0) (.lit 1)) (withRegs [(0, 0, 0x7FFFFFFF)] []) 2 = some 0x7FFFFFFF ∧
    word0 (.subs plain (.v 2) (.v 0) (.lit 1)) (withRegs [(0, 0, 0x80000000)] []) 2 = some 0x80000000 := by refine ⟨rfl, rfl⟩
/-- R112: the bounds 129,540 of `dot4.ni` and 1,020 of `sad`. -/
theorem test_byte_products :
    word0 (.dot4Ni plain (.v 2) (.v 0) (.lit 0x7F7F7F7F)) (withRegs [(0, 0, 0xFFFFFFFF)] []) 2 = some 129540 ∧
    word0 (.dot4Ii plain (.v 2) (.v 0) (.lit 0x80808080)) (withRegs [(0, 0, 0x80808080)] []) 2 = some 65536 ∧
    word0 (.sad plain (.v 2) (.v 0) (.lit 0)) (withRegs [(0, 0, 0xFFFFFFFF)] []) 2 = some 1020 := by refine ⟨rfl, rfl, rfl⟩
/-- R13: a write to s0 is dropped. -/
theorem test_s0_takes_nothing : uni0 (.movi plain (.s 0) 5) party16 0 = some 0 := by rfl
/-- R15: v64 lies at Rt and raises 0x07. -/
theorem test_register_at_rt_traps :
    causeOf (.add plain (.v 64) (.v 0) (.reg (.v 1))) party16 = some 0x07 ∧ causeOf (.add plain (.v 63) (.v 0) (.reg (.v 1))) party16 = none := by
  refine ⟨rfl, rfl⟩
/-- R81: under a mask of no thread the zero policy clears D, the merge policy keeps it. -/
theorem test_policies :
    word0 (.add (pre 1 false true 0 0) (.v 2) (.v 0) (.reg (.v 1))) (withRegs [(0, 2, 9)] []) 2 = some 0 ∧
    word0 (.add (pre 1 false false 0 0) (.v 2) (.v 0) (.reg (.v 1))) (withRegs [(0, 2, 9)] []) 2 = some 9 := by refine ⟨rfl, rfl⟩
/-- R82: a repeat of 2 advances D, A and B. -/
theorem test_repeat_advances :
    word0 (.add (pre 0 false false 0 1) (.v 8) (.v 0) (.reg (.v 4))) (withRegs [(0, 1, 10), (0, 5, 20)] []) 9 = some 30 := by rfl

/-- IEEE 754 values: 1.5 + 2.25, 3 − 5, 2·3 + 1 (R118). -/
theorem test_float_values :
    word0 (.fadd plain (.v 2) (.v 0) (.reg (.v 1))) (withRegs [(0, 0, 0x3FC00000), (0, 1, 0x40100000)] []) 2 = some 0x40700000 ∧
    word0 (.fsub plain (.v 2) (.v 0) (.reg (.v 1))) (withRegs [(0, 0, 0x40400000), (0, 1, 0x40A00000)] []) 2 = some 0xC0000000 ∧
    word0 (.fma plain (.v 2) (.v 0) (.reg (.v 1))) (withRegs [(0, 0, 0x40000000), (0, 1, 0x40400000), (0, 2, 0x3F800000)] []) 2 = some 0x40E00000 := by
  refine ⟨rfl, rfl, rfl⟩
/-- R118: 0·∞ + NaN is the default NaN and invalid. -/
theorem test_fma_invalid :
    (after (.fma plain (.v 2) (.v 0) (.reg (.v 1))) (withRegs [(0, 1, 0x7F800000), (0, 2, 0x7FC00001)] [])).map (fun y => (y.vNow 0 2, y.csr.fpsum)) =
      some (0x7FC00000, 1) := by rfl
/-- R119: one NaN source, and −0 against +0. -/
theorem test_minimum_and_maximum :
    word0 (.fmin plain (.v 2) (.v 0) (.reg (.v 1))) (withRegs [(0, 0, 0x7FC00000), (0, 1, 0x3F800000)] []) 2 = some 0x3F800000 ∧
    word0 (.fminP plain (.v 2) (.v 0) (.reg (.v 1))) (withRegs [(0, 0, 0x7FC00000), (0, 1, 0x3F800000)] []) 2 = some 0x7FC00000 ∧
    word0 (.fmin plain (.v 2) (.v 0) (.reg (.v 1))) (withRegs [(0, 1, 0x80000000)] []) 2 = some 0x80000000 ∧
    word0 (.fmax plain (.v 2) (.v 0) (.reg (.v 1))) (withRegs [(0, 1, 0x80000000)] []) 2 = some 0 := by refine ⟨rfl, rfl, rfl, rfl⟩
/-- R120: the sign functions give the default NaN for a NaN in A. -/
theorem test_sign_functions :
    word0 (.fneg plain (.v 2) (.v 0)) (withRegs [(0, 0, 0x3F800000)] []) 2 = some 0xBF800000 ∧
    word0 (.fabs plain (.v 2) (.v 0)) (withRegs [(0, 0, 0xFFC00000)] []) 2 = some 0x7FC00000 ∧
    word0 (.fcopysign plain (.v 2) (.v 0) (.lit 0x80000000)) (withRegs [(0, 0, 0x3F800000)] []) 2 = some 0xBF800000 := by refine ⟨rfl, rfl, rfl⟩
/-- R121: equal zeros of both signs; a compare with a NaN is false, and `fcmp.lt` is invalid for it. -/
theorem test_float_compares :
    (after (.fcmpEq plain 2 (.v 0) (.lit 0x80000000)) party16).map (fun y => (y.maskNow 2, y.csr.fpsum)) = some (0xFFFF, 0) ∧
    (after (.fcmpLt plain 2 (.v 0) (.lit 0x7FC00000)) party16).map (fun y => (y.maskNow 2, y.csr.fpsum)) = some (0, 1) := by refine ⟨rfl, rfl⟩
/-- R122: 2.5 rounds to 2 under RNE. -/
theorem test_round_to_even : word0 (.frnd plain (.v 2) (.v 0)) (withRegs [(0, 0, 0x40200000)] []) 2 = some 0x40000000 := by rfl
/-- R123: the class bits of −∞, −0 and a signalling NaN. -/
theorem test_class_bits :
    word0 (.fclass plain (.v 2) (.v 0)) (withRegs [(0, 0, 0xFF800000)] []) 2 = some 0x001 ∧
    word0 (.fclass plain (.v 2) (.v 0)) (withRegs [(0, 0, 0x80000000)] []) 2 = some 0x008 ∧
    word0 (.fclass plain (.v 2) (.v 0)) (withRegs [(0, 0, 0x7F800001)] []) 2 = some 0x100 := by refine ⟨rfl, rfl, rfl⟩
/-- R118: `fscale` by 3 multiplies by 8. -/
theorem test_fscale : word0 (.fscale plain (.v 2) (.v 0) (.lit 3)) (withRegs [(0, 0, 0x3F800000)] []) 2 = some 0x41000000 := by rfl
/-- R124: 1 + 1 and 2 + 2 in BF16 halves, and 1·2 in FP16. -/
theorem test_packed_halves :
    word0 (.hadd2Bf plain (.v 2) (.v 0) (.reg (.v 0))) (withRegs [(0, 0, 0x40003F80)] []) 2 = some 0x40804000 ∧
    word0 (.hmul2Hf plain (.v 2) (.v 0) (.lit 0x40004000)) (withRegs [(0, 0, 0x3C003C00)] []) 2 = some 0x40004000 := by refine ⟨rfl, rfl⟩
/-- R125: four products 1·1 in E4M3 and an addend of 1 give 5. -/
theorem test_fp8_dot : word0 (.f8dot4E4 plain (.v 2) (.v 0) (.lit 0x38383838)) (withRegs [(0, 0, 0x38383838), (0, 2, 0x3F800000)] []) 2 = some 0x40A00000 := by rfl
/-- R133: under the default RNE, −0.4 gives 0 and inexact, −0.6 gives 0 and invalid; −1 saturates below. -/
theorem test_conversion_corners :
    (after (.cvtNF plain (.v 2) (.v 0)) (withRegs [(0, 0, 0xBECCCCCD)] [])).map (fun y => (y.vNow 0 2, y.csr.fpsum.getLsbD 0, y.csr.fpsum.getLsbD 4)) =
      some (0, false, true) ∧
    (after (.cvtNF plain (.v 2) (.v 0)) (withRegs [(0, 0, 0xBF19999A)] [])).map (fun y => (y.vNow 0 2, y.csr.fpsum.getLsbD 0, y.csr.fpsum.getLsbD 4)) =
      some (0, true, false) ∧
    word0 (.cvtIF plain (.v 2) (.v 0)) (withRegs [(0, 0, 0x4F000000)] []) 2 = some 0x7FFFFFFF := by refine ⟨rfl, rfl, rfl⟩
/-- R132: integers and narrow formats to FP32 and back. -/
theorem test_conversions :
    word0 (.cvtFI plain (.v 2) (.v 0)) (withRegs [(0, 0, 0xFFFFFFFF)] []) 2 = some 0xBF800000 ∧
    word0 (.cvtFBfh plain (.v 2) (.v 0)) (withRegs [(0, 0, 0x40000000)] []) 2 = some 0x40000000 ∧
    word0 (.cvt2Bf plain (.v 2) (.v 0) (.lit 0x40000000)) (withRegs [(0, 0, 0x3F800000)] []) 2 = some 0x40003F80 ∧
    word0 (.cvtE4 plain (.v 2) (.v 0)) (withRegs [(0, 0, 0x3F800000)] []) 2 = some 0x38 := by refine ⟨rfl, rfl, rfl, rfl⟩
/-- R59: an infinite input converted to E4M3 gives 448 (0x7E). -/
theorem test_e4m3_saturates : word0 (.cvtE4 plain (.v 2) (.v 0)) (withRegs [(0, 0, 0x7F800000)] []) 2 = some 0x7E := by rfl

/-- A special-function operation of one element in flight. -/
def sfu (fn : Nat) (a b : Word) : State := { demo party16 with sfus := [(4, ⟨1, 0x4000, 0xFFFF, fn, 1, false, [(0, .vec 5 1, a, b)], 0, [0]⟩)] }
/-- The result that arrives. -/
noncomputable def sfuResult (fn : Nat) (a b : Word) : Option Word := ((next (exec (.specialFunctionResult 4) (sfu fn a b)) State.reset).party? 1).map (fun y => y.vNow 0 5)
/-- R129 and R128: `sin.t` of −0.25 is −1, `cos.t` of 0.25 is +0, −1/+0 is −∞, and the square root of 4 is 2. -/
theorem test_special_results :
    sfuResult 5 0xBE800000 0 = some 0xBF800000 ∧ sfuResult 6 0x3E800000 0 = some 0 ∧ sfuResult 9 0xBF800000 0 = some 0xFF800000 ∧
    sfuResult 2 0x40800000 0 = some 0x40000000 := by refine ⟨rfl, rfl, rfl, rfl⟩
/-- R126, R130: at issue nothing is written and the flag is set. -/
theorem test_special_function_issue :
    (after (.sqrt plain (.v 2) (.v 0)) (withRegs [(0, 2, 7)] [])).map (fun y => (y.vNow 0 2, y.flagSet y.flagB)) = some (7, true) := by rfl

/-- R139: thread 0 reads thread 1 under `swp` by 1, thread 15 under `rotw` by −1, thread 3 under `bcast`. -/
theorem test_permutations :
    word0 (.swp plain (.v 2) (.v 0) (.lit 1)) (withRegs [(1, 0, 77)] []) 2 = some 77 ∧
    word0 (.rotw plain (.v 2) (.v 0) (.lit 0xFFFFFFFF)) (withRegs [(15, 0, 77)] []) 2 = some 77 ∧
    uni0 (.bcast plain (.s 2) (.v 0) (.lit 3)) (withRegs [(3, 0, 0xFFFFFFFF)] []) 2 = some 0xFFFFFFFF := by refine ⟨rfl, rfl, rfl⟩
/-- The chapter's example: threads 1, 4, 5, 7, 11 and 14 hold values, and `ballot` gives 0x48B2. -/
theorem test_ballot_example :
    uni0 (.ballot plain (.s 6) 1) { party16 with regs := { party16.regs with m := [(1, 0x48B2)] } } 6 = some 0x48B2 := by rfl
/-- R141: a vote over threads of which one differs. -/
theorem test_votes :
    (after (.voteAll plain 2 1) { party16 with regs := { party16.regs with m := [(1, 0x7FFF)] } }).map (fun y => y.maskNow 2) = some 0 ∧
    (after (.voteAny plain 2 1) { party16 with regs := { party16.regs with m := [(1, 0x0001)] } }).map (fun y => y.maskNow 2) = some 0xFFFF ∧
    (after (.mnot plain 2 1) { party16 with regs := { party16.regs with m := [(1, 0x0001)] } }).map (fun y => y.maskNow 2) = some 0xFFFE := by refine ⟨rfl, rfl, rfl⟩
/-- R142: the values of the selected threads 2 and 5 come to threads 0 and 1. -/
theorem test_compress :
    (after (.cmpr (pre 1 false true 0 0) (.v 2) (.v 0)) { withRegs [(2, 0, 22), (5, 0, 55)] [] with regs := { (withRegs [(2, 0, 22), (5, 0, 55)] []).regs with m := [(1, 0x24)] } }).map
      (fun y => (y.vNow 0 2, y.vNow 1 2, y.vNow 2 2)) = some (22, 55, 0) := by rfl
/-- R143: a sum over the threads, a running sum, and a signed minimum. -/
theorem test_scan_and_reductions :
    uni0 (.redAdd plain (.s 3) (.v 0)) (withRegs [(0, 0, 5), (9, 0, 0xFFFFFFFF)] []) 3 = some 4 ∧
    (after (.scanAdd plain (.v 2) (.v 0)) (withRegs [(0, 0, 5), (1, 0, 6)] [])).map (fun y => (y.vNow 0 2, y.vNow 15 2)) = some (5, 11) ∧
    word0 (.redMinI plain (.v 2) (.v 0)) (withRegs [(7, 0, 0xFFFFFFFE)] []) 2 = some 0xFFFFFFFE ∧
    uni0 (.redFadd plain (.s 3) (.v 0)) (withRegs [(0, 0, 0x3F800000), (9, 0, 0x40000000)] []) 3 = some 0x40400000 := by refine ⟨rfl, rfl, rfl, rfl⟩
/-- R144: an index reaches its register whatever the window; an index at Rt raises 0x07. -/
theorem test_index_registers :
    word0 (.ixr plain (.v 2) (.v 0)) (withRegs [(0, 0, 63), (0, 63, 9)] []) 2 = some 9 ∧
    causeOf (.ixr plain (.v 2) (.v 0)) (withRegs [(0, 0, 64)] []) = some 0x07 ∧
    word0 (.ixw plain (.v 0) (.lit 8)) (withRegs [(0, 0, 63)] []) 63 = some 8 := by refine ⟨rfl, rfl, rfl⟩
/-- R145: the window base is a multiple of 16 that leaves 16 registers. -/
theorem test_window_base :
    (after (.win plain (.lit 48)) party16).map (fun y => y.wb) = some 48 ∧ causeOf (.win plain (.lit 64)) party16 = some 0x07 ∧
    causeOf (.win plain (.lit 8)) party16 = some 0x07 := by refine ⟨rfl, rfl, rfl⟩
/-- R146: selector 0 is the thread, 1 the width. -/
theorem test_tid :
    (after (.tid plain (.v 2) 0) party16).map (fun y => y.vNow 9 2) = some 9 ∧ uni0 (.tid plain (.s 2) 1) party16 2 = some 16 := by refine ⟨rfl, rfl⟩

/-! ### Control, system and memory -/

/-- The tpc of thread 0 after one word. -/
noncomputable def pc0 (i : Instr) (x : Party) : Option DWord := (after i x).map (fun y => y.pcOf 0)
/-- R67: offset 3 is packet 3 of the line, offset 5 the next line, offset −1 the last packet of the line before. -/
theorem test_branch_targets :
    pc0 (.br plain 3) party16 = some 0x4003 ∧ pc0 (.br plain 5) party16 = some 0x4040 ∧ pc0 (.br plain (-1)) party16 = some 0x3FC4 := by refine ⟨rfl, rfl, rfl⟩
/-- R150: `br.c` takes the threads whose bit is set; `br.any` all of them, `br.all` none. -/
theorem test_conditional_branches :
    let x := { party16 with regs := { party16.regs with m := [(1, 0x2)] } }
    (after (.brC plain 1 3) x).map (fun y => (y.pcOf 0, y.pcOf 1)) = some (0x4000, 0x4003) ∧ pc0 (.brAny plain 1 3) x = some 0x4003 ∧
    pc0 (.brAll plain 1 3) x = some 0x4000 := by refine ⟨rfl, rfl, rfl⟩
/-- R161: a counter of 1 falls to 0 and the loop ends; a counter of 0 becomes 2^64 − 1 and branches. -/
theorem test_loop_counter :
    (after (.loop plain 1 (-3)) (withRegs [] [(25, 1)])).map (fun y => (y.uNow 25, y.pcOf 0)) = some (0, 0x4000) ∧
    (after (.loop plain 1 3) (withRegs [] [])).map (fun y => (y.uNow 25, y.pcOf 0)) = some (0xFFFFFFFFFFFFFFFF, 0x4003) := by refine ⟨rfl, rfl⟩
/-- R151: an index at the bound raises 0x0D; one below it goes to its packet of the table. -/
theorem test_jump_table :
    causeOf (.brx plain 5 (.s 8) (.v 3)) (withRegs [(7, 3, 5)] [(8, 0x5000)]) = some 0x0D ∧
    pc0 (.brx plain 5 (.s 8) (.v 3)) (withRegs [(0, 3, 4)] [(8, 0x5001)]) = some 0x5040 := by refine ⟨rfl, rfl⟩
/-- R152: a call pushes the packet after its own; a return with an empty stack raises 0x36. -/
theorem test_call_and_return :
    (after (.call plain 2) party16).map (fun y => (y.pcOf 0, sget [] y.calls 0)) = some (0x4002, [0x4001]) ∧
    pc0 (.ret plain) { party16 with calls := [(0, [0x4440])], pos := { party16.pos with m0 := 1 } } = some 0x4440 ∧
    causeOf (.ret plain) { party16 with calls := [(0, [0x4440])] } = some 0x36 := by refine ⟨rfl, rfl, rfl⟩
/-- R153: `div` puts one entry of the active threads; a `join` at its address makes them wait, and one elsewhere raises 0x1A. -/
theorem test_divergence :
    (after (.div plain 9) party16).map (fun y => y.divs) = some [⟨0x4044, 0xFFFF, 0⟩] ∧
    (after (.join plain) { party16 with divs := [⟨0x4000, 0xFFFF, 0⟩] }).map (fun y => (y.joinWait, y.divs)) = some (0xFFFF, [⟨0x4000, 0xFFFF, 0xFFFF⟩]) ∧
    causeOf (.join plain) { party16 with divs := [⟨0x4001, 0xFFFF, 0⟩] } = some 0x1A := by refine ⟨rfl, rfl, rfl⟩
/-- R154, R160, R161: the active threads leave; the packet after `idem` is the restart; `nop` changes nothing. -/
theorem test_exit_idem_nop :
    (after (.exit plain) { party16 with pos := { party16.pos with m0 := 0xFF } }).map (fun y => y.left) = some 0xFF ∧
    (after (.idem plain) party16).map (fun y => y.idempc) = some (some 0x4001) ∧ after (.nop plain) party16 = some party16 := by refine ⟨rfl, rfl, rfl⟩
/-- R159: every named thread waits; a mask without the thread itself raises 0x1B. -/
theorem test_sync_p :
    (after (.syncP plain (.s 5)) (withRegs [] [(5, 0xFFFF)])).map (fun y => (y.syncWait, y.pcOf 0)) = some (0xFFFF, 0x4001) ∧
    causeOf (.syncP plain (.s 5)) (withRegs [] [(5, 0xFFFE)]) = some 0x1B := by refine ⟨rfl, rfl⟩
/-- R258, R262: `fpsum` reads zero-extended, and `csr.clr` returns the old value and clears bits. -/
theorem test_csr_access :
    let x := { party16 with csr := { party16.csr with fpsum := 0x1B } }
    uni0 (.csrRd plain (.s 5) .fpsum) x 5 = some 0x1B ∧
    (after (.csrClr plain (.s 5) .fpsum (.lit 0x0A)) x).map (fun y => (y.uNow 5, y.csr.fpsum)) = some (0x1B, 0x11) ∧
    (after (.csrSet plain (.s 5) .envctl (.lit 0xFF)) x).map (fun y => y.csr.envctl) = some 1 := by refine ⟨rfl, rfl, rfl⟩
/-- R261: rounding code 7 is refused with 0x02; a write loads the generator from its seed. -/
theorem test_fpctl_write :
    causeOf (.csrWr plain .fpctl (.lit 7)) party16 = some 0x02 ∧
    (after (.csrWr plain .fpctl (.lit 0x12340001)) party16).map (fun y => y.gen) = some 0x12341234 := by refine ⟨rfl, rfl⟩
/-- R257, R267: a user-level party may not read `tepc` nor return from a trap. -/
theorem test_privilege :
    causeOf (.csrRd plain (.s 5) .tepc) party16 = some 0x08 ∧ causeOf (.tret plain) party16 = some 0x08 := by refine ⟨rfl, rfl⟩
/-- R266: `trap 5` and `brk −1` for the whole party, `tinfo` holding the operand, resuming at the next group. -/
theorem test_software_traps :
    (after (.trap plain (.lit 5)) party16).map (fun y => (y.csr.tcause, y.csr.tinfo, y.csr.tmfault, y.csr.tepc)) = some (0x09, 5, 0xFFFF, 0x4010) ∧
    (after (.brk plain 0x7F) party16).map (fun y => (y.csr.tcause, y.csr.tinfo)) = some (0x0A, 0xFFFFFFFF) := by refine ⟨rfl, rfl⟩
/-- R4, R268: 10 ns are 20 ticks. -/
theorem test_clk : ((next (exec (.clk plain (.s 8)) { demo party16 with now := 20 }) State.reset).party? 1).map (fun y => y.uNow 8) = some 10 := by rfl
/-- R273: the handler at 0x8000, level 1, window base 0, and what the shadow keeps. -/
theorem test_trap_entry :
    ((next (exec (.add plain (.v 64) (.v 0) (.reg (.v 1))) (demo { party16 with wb := 16 })) State.reset).party? 1).map
      (fun y => (y.pcOf 3, y.csr.level, y.wb, y.csr.tcause, y.shadow.map (fun e => (e.wb, e.level)))) = some (0x8000, 1, 0, 0x07, [(16, 0)]) := by rfl

/-- The first request of a state. -/
def request (s : State) : Option Req := sfind s.reqs 10
/-- R163, R165: a load of 4 bytes at s1 + 2 units sends its request and writes nothing yet. -/
theorem test_load_request :
    (request (next (exec (.ld32 plain (.s 4) (.s 1) (.units 2)) (land (withRegs [] [(1, 0x100)]))) State.reset)).map
      (fun r => (r.va, r.pieces, r.kind, r.phase)) = some (0x108, [(0x108, 4)], .load 4 false, .sent) := by rfl
/-- R164: an odd address of a 16-bit load raises 0x0E; `ld.u` takes it. -/
theorem test_alignment :
    ((next (exec (.ld16 plain (.s 4) (.s 1) (.units 0)) (land (withRegs [] [(1, 0x101)]))) State.reset).party? 1).map (fun y => y.csr.tcause) = some 0x0E ∧
    ((next (exec (.ldU plain (.s 4) (.s 1) (.units 0)) (land (withRegs [] [(1, 0x101)]))) State.reset).party? 1).map (fun y => y.csr.tcause) = some 0 := by
  refine ⟨rfl, rfl⟩
/-- R28: an address that is not canonical raises 0x0F. -/
theorem test_canonical :
    ((next (exec (.ld32 plain (.s 4) (.s 1) (.units 0)) (land (withRegs [] [(1, 0x100000000000000)]))) State.reset).party? 1).map (fun y => y.csr.tcause) =
      some 0x0F := by rfl

/-- A request of thread 0 of party 1 for the bytes at 0x100. -/
def req (kind : ReqKind) (n : Nat) : Req :=
  ⟨1, 1, 0, 0, false, [(0, 0)], 0x100, [(0x100, n)], kind, .vec 5 1, none, false, false, false, false, true, .sent, 0⟩
/-- The machine with that request sent, number 4, and bytes at 0x100. -/
def sent (kind : ReqKind) (n : Nat) (bytes : List (Nat × Byte)) : State :=
  let s := land { party16 with ctl := .await, waitReqs := 1 }
  { s with cur := none, reqs := [(4, req kind n)], mem := { s.mem with bytes := bytes } }
/-- The phase of the request after its home has accepted it, and the bytes of memory. -/
noncomputable def accepted (kind : ReqKind) (n : Nat) (bytes : List (Nat × Byte)) : Option Phase × List (Nat × Byte) :=
  let t := next (exec (.homeAcceptance 4) (sent kind n bytes)) State.reset
  ((sfind t.reqs 4).map (fun r => r.phase), t.mem.bytes)
/-- R2, R165: bytes are little-endian, and `ld.8s` extends the sign. -/
theorem test_loads_at_the_home :
    accepted (.load 4 false) 4 [(0x100, 0x78), (0x101, 0x56), (0x103, 0x12)] = (some (.reply 0x12005678), [(0x100, 0x78), (0x101, 0x56), (0x103, 0x12)]) ∧
    (accepted (.load 1 true) 1 [(0x100, 0x80)]).1 = some (.reply 0xFFFFFFFFFFFFFF80) := by refine ⟨rfl, rfl⟩
/-- R166: a store writes its bytes and no other, and a byte of 0 is not listed. -/
theorem test_store_at_the_home :
    accepted (.store 2 0x00AB) 2 [(0x101, 7), (0x102, 9)] = (some .unacked, [(0x100, 0xAB), (0x102, 9)]) := by rfl
/-- R173: old value returned; signed maximum; compare and swap; a floating-point sum. -/
theorem test_atomics_at_the_home :
    ((sfind (next (exec (.homeAcceptance 4) { sent (.atom .add 2 0) 4 [(0x100, 0xFF)] with
        reqs := [(4, { req (.atom .add 2 0) 4 with flag := some 0 })] }) State.reset).reqs 4).map (fun r => r.phase)) = some (.reply 0xFF) ∧
    (accepted (.atom .add 2 0) 4 [(0x100, 0xFF)]).2 = [(0x100, 1), (0x101, 1)] ∧
    (accepted (.atom .maxI 0xFFFFFFFF 0) 4 [(0x100, 1)]).2 = [(0x100, 1)] ∧ (accepted (.atom .cas 1 0x22 ) 4 [(0x100, 1)]).2 = [(0x100, 0x22)] ∧
    (accepted (.atom .fadd 0x40000000 0) 4 [(0x102, 0x80), (0x103, 0x3F)]).2 = [(0x102, 0x40), (0x103, 0x40)] := by refine ⟨rfl, rfl, rfl, rfl, rfl⟩
/-- R178: a test of an empty mailbox word answers 0; a store fills it. -/
theorem test_mailbox_at_the_home :
    (accepted .mbxTst 8 []).1 = some (.reply 0) ∧
    (next (exec (.homeAcceptance 4) (sent (.mbxSt 7) 8 [])) State.reset).isFull 0x100 = true := by refine ⟨rfl, rfl⟩
/-- R295: a store to a granule that another thread has read is refused with 0x16. -/
theorem test_conflict :
    ((next (exec (.homeAcceptance 4) { sent (.store 4 1) 4 [] with tags := [⟨1, 0x40, 3, 1, [(5, 0)], true, false⟩] }) State.reset).party? 1).map
      (fun y => (y.csr.tcause, y.csr.tinfo)) = some (0x16, 0x50003) := by rfl
/-- R165: a reply reaches its register. -/
theorem test_reply : ((next (exec (.loadResultWrite 4) { sent (.load 4 false) 4 [] with
    reqs := [(4, { req (.load 4 false) 4 with phase := .reply 0x1234 })] }) State.reset).party? 1).map (fun y => y.vNow 0 5) = some 0x1234 := by rfl

/-! ### States and operands that meet the hypotheses of the claims: classes 0 to 2 -/

/-- Every register of a list lies below Rt in every iteration. -/
def withinB (x : Party) (m : Mods) (regs : List (Reg × Nat)) : Bool :=
  regs.all (fun e => match e.1 with
    | .s _ => true
    | .v n => (List.range e.2).all (fun j => (List.range (repsOf m)).all (fun k => decide (x.base + n.val + j + k < min x.rt 1024))))
theorem within_of {x : Party} {m : Mods} {regs : List (Reg × Nat)} (h : withinB x m regs = true) : Within x m regs := by
  refine Or.inr fun n l hm j hj k hk => ?_
  have h := List.all_eq_true.1 h _ hm
  simp only [List.all_eq_true, List.mem_range, decide_eq_true_eq] at h
  exact h j hj k hk
theorem issuing_demo (x : Party) : Issuing (demo x) 1 x := ⟨rfl, rfl⟩
theorem issuing_land (x : Party) : Issuing (land x) 1 x := ⟨rfl, rfl⟩

theorem witness_IntegerWordResults : ∃ i w s p x, IntRow i w ∧ Issuing s p x ∧ Within x w.m ((w.d, 1) :: w.regs) :=
  ⟨_, _, _, _, party16, .add plain (.v 5) (.v 4) (.reg (.v 63)), issuing_demo _, within_of rfl⟩
theorem witness_IntegerWideResults : ∃ i w s p x, WideOf i w ∧ Issuing s p x ∧ Within x w.m ((w.d, 2) :: w.regs) ∧ repsOf w.m = 1 :=
  ⟨_, _, _, _, party16, .leaW plain (.v 62) (.s 1) (.reg (.v 0)), issuing_demo _, within_of rfl, rfl⟩
theorem witness_FloatResults : ∃ i w s p x, FloatRow i w ∧ Issuing s p x ∧ (∀ e, s.upset ≠ .shadow e) ∧ Within x w.m ((w.d, 1) :: w.regs) :=
  ⟨_, _, _, _, party16, .fma plain (.v 5) (.v 4) (.reg (.v 63)), issuing_demo _, nofun, within_of rfl⟩
theorem witness_IntegerCompareResults : ∃ i w s p x, CompareRow i w ∧ Issuing s p x ∧ Within x w.m w.regs ∧ repsOf w.m = 1 :=
  ⟨_, _, _, _, party16, .cmpLtI plain 2 (.v 4) (.reg (.v 63)), issuing_demo _, within_of rfl, rfl⟩
theorem witness_FloatCompareResults : ∃ i m d a b f s p x, FloatCompare i m d a b f ∧ Issuing s p x ∧ Within x m ((a, 1) :: srcRun b 1) :=
  ⟨_, _, _, _, _, _, _, _, party16, .lt (pre 1 false false 0 1) 2 (.v 4) (.reg (.v 62)), issuing_demo _, within_of rfl⟩
/-- 1.5, −2 and 0.25 are finite sources of FP32. -/
theorem witness_FloatValues : ∃ sa na da sb nb db sc nc dc, (fp32.source false 0x3FC00000).1 = .fin sa na da ∧ (fp32.source false 0xC0000000).1 = .fin sb nb db ∧
    (fp32.source true 0x3E800000).1 = .fin sc nc dc := ⟨_, _, _, _, _, _, _, _, _, rfl, rfl, rfl⟩
/-- Every mode of R57, a magnitude that is no integer, an exact one, and a tie. -/
theorem witness_RoundingModes : (∀ mode : BitVec 3, mode ≠ 0 → mode ≠ 7 → 1 ≤ mode.toNat ∧ mode.toNat ≤ 6) ∧ (0 < 2 ∧ 6 % 2 = 0) ∧ 2 * (3 % 2) = 2 := by decide
theorem witness_SpecialFunctionIssue : ∃ i m fn d a b s p x, SfuOf i m fn d a b ∧ Issuing s p x ∧ Within x m ((d, 1) :: (a, 1) :: srcRun b 1) ∧
    sfuLanes x m d a b ≠ [] :=
  ⟨_, _, _, _, _, _, _, _, party16, .fdiv plain (.v 7) (.v 2) (.reg (.v 63)), issuing_demo _, within_of rfl, by decide⟩
theorem witness_SpecialFunctionIssue_no_thread : ∃ i m fn d a b s p x, SfuOf i m fn d a b ∧ Issuing s p x ∧ Within x m ((d, 1) :: (a, 1) :: srcRun b 1) ∧
    sfuLanes x m d a b = [] :=
  ⟨_, _, _, _, _, _, _, _, party16, .rcp (pre 1 false true 0 0) (.v 7) (.v 2), issuing_demo _, within_of rfl, rfl⟩
theorem witness_SpecialFunctionArrival : ∃ (s : State) (n : Nat) (op : SfuOp) (x : Party), sfind s.sfus n = some op ∧ s.party? op.party = some x ∧ (∀ b, s.upset ≠ .sfu b) ∧ x.latch = none ∧
    op.stoch.length = op.lanes.length ∧ (∀ e ∈ op.lanes, ∃ r, e.2.1 = .vec r 1 ∧ r < 1024) ∧ (op.lanes.map (fun e => (e.1, e.2.1))).Nodup :=
  ⟨sfu 2 0x40800000 0, 4, _, party16, rfl, rfl, nofun, rfl, rfl, by
    intro e h; rcases List.mem_singleton.1 h with rfl; exact ⟨5, rfl, by decide⟩, by decide⟩
theorem witness_SpecialFunctionArrival_uniform : ∃ (s : State) (n : Nat) (op : SfuOp) (x : Party), sfind s.sfus n = some op ∧ s.party? op.party = some x ∧ (∀ b, s.upset ≠ .sfu b) ∧ x.latch = none ∧
    op.stoch.length = op.lanes.length ∧ ∃ n a b, op.lanes = [(0, .uni n, a, b)] :=
  ⟨{ demo party16 with sfus := [(4, ⟨1, 0x4000, 0xFFFF, 2, 1, false, [(0, .uni 5, 0, 0)], 0, [0]⟩)] }, 4, _, party16, rfl, rfl, nofun, rfl, rfl, 5, 0, 0, rfl⟩
theorem witness_CrossThreadResults : ∃ i w s p x, CrossRow i w ∧ Issuing s p x ∧ Within x w.m ((w.d, 1) :: w.regs) :=
  ⟨_, _, _, _, party16, .shfl plain 6 (.v 5) (.reg (.v 63)), issuing_demo _, within_of rfl⟩
theorem witness_BroadcastAndBallot : ∃ s p x m d a b, Issuing s p x ∧ Within x m ((a, 1) :: srcRun b 1) ∧ Within x m [(d, 2)] ∧ repsOf m = 1 :=
  ⟨_, _, party16, plain, .v 62, .v 4, .lit 3, issuing_demo _, within_of rfl, within_of rfl, rfl⟩
theorem witness_MaskFunctionResults : ∃ i w s p x, MaskRow i w ∧ Issuing s p x ∧ Within x w.m w.regs ∧ repsOf w.m = 1 :=
  ⟨_, _, _, _, party16, .v2m plain 2 (.v 63), issuing_demo _, within_of rfl, rfl⟩
theorem witness_ScansAndReductions : ∃ i m d a f s p x, GatherRow i m d a f ∧ Issuing s p x ∧ Within x m [(d, 1), (a, 1)] ∧
    (∀ n, d = .s n → threadsOf x.width x.m0 ≠ []) ∧ sel x m ≠ [] :=
  ⟨_, _, _, _, _, _, _, party16, .scanFadd plain (.v 6) (.v 63), issuing_demo _, within_of rfl, nofun, by decide⟩
theorem witness_ScansAndReductions_uniform : ∃ i m d a f s p x, GatherRow i m d a f ∧ Issuing s p x ∧ Within x m [(d, 1), (a, 1)] ∧
    (∃ n, d = .s n) ∧ threadsOf x.width x.m0 ≠ [] :=
  ⟨_, _, _, _, _, _, _, party16, .redFmin plain (.s 6) (.v 63), issuing_demo _, within_of rfl, ⟨_, rfl⟩, by decide⟩
theorem witness_CompressResults : ∃ s p x m n a, Issuing s p x ∧ x.m0 ≠ 0 ∧ x.width ≤ 64 ∧ Within x m [(.v n, 1), (a, 1)] :=
  ⟨_, _, party16, plain, 63, .v 0, issuing_demo _, by decide, by decide, within_of rfl⟩
/-- Index 63 is the last register below Rt = 64, and 64 the first that is refused. -/
theorem witness_IndexedRegisters : ∃ s p x m a b n, Issuing s p x ∧ Within x m [(.v n, 1), (a, 1)] ∧ repsOf m = 1 ∧ Within x m ((a, 1) :: srcRun b 1) ∧
    (∀ t ∈ sel x m, (x.reg32 t 0 a).toNat < min x.rt 1024) ∧ (x.reg32 0 0 a).toNat = 63 :=
  ⟨_, _, withRegs [(0, 4, 63)] [], plain, .v 4, .lit 1, 5, issuing_demo _, within_of rfl, rfl, within_of rfl, by decide, rfl⟩
theorem witness_IndexedRegisters_past_rt : ∃ s p x m a b n, Issuing s p x ∧ Within x m [(.v n, 1), (a, 1)] ∧ Within x m ((a, 1) :: srcRun b 1) ∧
    ∃ t ts, (sel x m).filter (fun t => decide (min x.rt 1024 ≤ (x.reg32 t 0 a).toNat)) = t :: ts :=
  ⟨_, _, withRegs [(3, 4, 64)] [], plain, .v 4, .lit 1, 5, issuing_demo _, within_of rfl, within_of rfl, 3, [], by decide⟩
/-- 48 is the last window base below Rt = 64, and 64 and 8 are refused. -/
theorem witness_WindowBase : ∃ s p x, Issuing s p x ∧ (48 % 16 = 0 ∧ 48 + 16 ≤ min x.rt 1024) ∧ ¬ (64 % 16 = 0 ∧ 64 + 16 ≤ min x.rt 1024) ∧
    ¬ (8 % 16 = 0 ∧ 8 + 16 ≤ min x.rt 1024) := ⟨_, _, party16, issuing_demo _, by decide, by decide, by decide⟩
theorem witness_PositionsAndImmediates : ∃ s p x m d, Issuing s p x ∧ Within x m [(d, 1)] ∧ repsOf m = 1 ∧ (0 : BitVec 7).toNat ≤ 7 ∧ (7 : BitVec 7).toNat ≤ 7 :=
  ⟨_, _, party16, plain, .v 63, issuing_demo _, within_of rfl, rfl, by decide, by decide⟩
/-- v64 of a party with 64 registers is past Rt. -/
theorem witness_RegistersPastRtTrap : ∃ i w s p x, IntRow i w ∧ Issuing s p x ∧ ¬ Within x w.m ((w.d, 1) :: w.regs) := by
  refine ⟨_, _, _, _, party16, .add plain (.v 64) (.v 4) (.reg (.v 5)), issuing_demo _, ?_⟩
  rintro (h | h)
  · exact absurd h (by decide)
  · exact absurd (h 64 1 (.head _) 0 (by decide) 0 (by decide)) (by decide)

/-! ### Classes 3 to 5 -/

/-- The word's one served thread passes the checks at s1 = `a`. -/
theorem witness_LoadsLeaveTheLane : ∃ i d size w s p x ps win remote, LoadRow i d size w ∧ Issuing s p x ∧ Within x (Mods.once w.m) w.regs ∧
    w.Passes s x ps win remote ∧ servedBy x w.m w.uniform = [0] :=
  ⟨_, _, _, _, _, _, withRegs [] [(1, 0x100)], fun _ => [(0x108, 4)], fun _ => false, fun _ => false, .ld32 plain (.s 4) (.s 1) (.units 2), issuing_land _,
    within_of rfl, by unfold MemRow.Passes; decide, by decide⟩
theorem witness_StoresLeaveTheLane : ∃ i w s p x ps win remote, StoreRow i w ∧ Issuing s p x ∧ Within x (Mods.once w.m) w.regs ∧
    w.Passes s x ps win remote ∧ (sel x w.m).length = 16 :=
  ⟨_, _, _, _, withRegs [] [(1, 0x100)], fun _ => [(0x105, 1)], fun _ => false, fun _ => false, .st8 plain (.v 3) (.s 1) (.units 5), issuing_land _,
    within_of rfl, by unfold MemRow.Passes; decide, by decide⟩
/-- An atomic with every order: relaxed, released at once, and held behind a write that is open. -/
theorem witness_AtomicsLeaveTheLane : ∃ i w s p x ps win remote, AtomRow i w ∧ Issuing s p x ∧ Within x (Mods.once w.m) w.regs ∧
    w.Passes s x ps win remote ∧ orderOf w.m = 0 :=
  ⟨_, _, _, _, withRegs [] [(1, 0x100)], fun _ => [(0x100, 4)], fun _ => false, fun _ => false, .add plain (.s 3) (.s 1) (.lit 1), issuing_land _,
    within_of rfl, by unfold MemRow.Passes; decide, rfl⟩
theorem witness_AtomicsLeaveTheLane_ordered : ∃ i w s p x ps win remote, AtomRow i w ∧ Issuing s p x ∧ Within x (Mods.once w.m) w.regs ∧
    w.Passes s x ps win remote ∧ orderOf w.m ≠ 0 ∧ NotNarrowed s x true w.m ∧
    Synced s p (threadsOf x.width (if w.uniform then x.m0 else x.selected w.m)) (releases (orderOf w.m)) (podScope w.m) :=
  ⟨_, _, _, _, withRegs [] [(1, 0x100)], fun _ => [(0x100, 4)], fun _ => false, fun _ => false, .redmAdd (pre 0 false false 3 1) (.s 1) (.lit 1), issuing_land _,
    within_of rfl, by unfold MemRow.Passes; decide, by decide, by rintro ⟨-, h, -⟩; exact absurd h (by decide), rfl, fun _ => rfl⟩
/-- A write of thread 0 that is not acknowledged. -/
def unacked (x : Party) : State := { land x with reqs := [(4, { req (.store 4 1) 4 with phase := .unacked, held := false })] }
theorem witness_AtomicsLeaveTheLane_held : ∃ i w s p x ps win remote, AtomRow i w ∧ Issuing s p x ∧ Within x (Mods.once w.m) w.regs ∧
    w.Passes s x ps win remote ∧ orderOf w.m ≠ 0 ∧ NotNarrowed s x true w.m ∧
    s.mbxStOpen p (threadsOf x.width (if w.uniform then x.m0 else x.selected w.m)) = false ∧ releases (orderOf w.m) = true ∧
    s.writesOpen p (threadsOf x.width (if w.uniform then x.m0 else x.selected w.m)) (podScope w.m) = true :=
  ⟨_, _, unacked (withRegs [] [(1, 0x100)]), 1, withRegs [] [(1, 0x100)], fun _ => [(0x100, 4)], fun _ => false, fun _ => false,
    .redmAdd (pre 0 false false 2 1) (.s 1) (.lit 1), ⟨rfl, rfl⟩, within_of rfl, by unfold MemRow.Passes; decide, by decide,
    by rintro ⟨-, h, -⟩; exact absurd h (by decide), rfl, rfl, rfl⟩
theorem witness_MailboxRequestsLeaveTheLane : ∃ i acts w s p x ps win remote, MbxRow i acts w ∧ Issuing s p x ∧ Within x (Mods.once w.m) w.regs ∧
    w.Passes s x ps win remote ∧ NotNarrowed s x acts w.m ∧ Synced s p (threadsOf x.width (if w.uniform then x.m0 else x.selected w.m)) w.rel w.pod :=
  ⟨_, _, _, _, _, withRegs [] [(1, 0x100)], fun _ => [(0x108, 8)], fun _ => false, fun _ => false, .mbxSt plain (.v 8) (.s 1) (.units 1), issuing_land _,
    within_of rfl, by unfold MemRow.Passes; decide, by rintro ⟨-, h, -⟩; exact absurd h (by decide), rfl, fun _ => rfl⟩
/-- The address 0x101 of a 2-byte access translates and is misaligned. -/
theorem witness_misaligned_address : ∃ (s : State) (x : Party) (a : Acc) (va : DWord), ∃ ps ks, s.pieces x ⟨a.write, false, x.user⟩ [(va, a.size)] = .ok (ps, ks) ∧
    a.aligned = true ∧ va.toNat % a.size ≠ 0 := ⟨land party16, party16, ⟨2, true, false, .plain⟩, 0x101, _, _, rfl, rfl, by decide⟩
/-- Thread 0 reads 0x100, thread 3 the misaligned 0x101. -/
def apart : Party := { withRegs [(0, 6, 0x100), (3, 6, 0x101)] [] with pos := { party16.pos with m0 := 9 } }
theorem witness_MisalignedAccessesTrap : ∃ i w s p x, ((∃ d n, LoadRow i d n w) ∨ StoreRow i w) ∧ Issuing s p x ∧ Within x (Mods.once w.m) w.regs ∧ w.uniform = false ∧
    w.acc.aligned = true ∧ (∀ t ∈ sel x w.m, if (w.addr x t).toNat % w.acc.size = 0 then ∃ ps win remote, s.check x w.acc (w.addr x t) = .ok ps win remote
      else s.check x w.acc (w.addr x t) = .bad 3 0x0E) ∧ ∃ t ∈ sel x w.m, (w.addr x t).toNat % w.acc.size ≠ 0 := by
  refine ⟨_, _, _, _, apart, .inl ⟨_, _, .ld16 plain (.v 4) (.v 6) (.units 0)⟩, issuing_land _, within_of rfl, rfl, rfl, ?_, 3, by decide, by decide⟩
  intro t ht
  have h : t = 0 ∨ t = 3 := by have : t ∈ [0, 3] := ht; simpa using this
  rcases h with rfl | rfl
  · exact ⟨[(0x100, 2)], false, false, rfl⟩
  · rfl
theorem witness_FencesEndRegions : ∃ s p x m, Issuing s p x ∧ s.sfuOpen p = false ∧ (x.csr.level ≠ 0 ∨ x.fpEnabled = 0) ∧ NotNarrowed s x true m ∧
    Synced s p (sel x m) (releases (if orderOf m = 0 then 3 else orderOf m)) (podScope m) :=
  ⟨_, _, party16, pre 0 false false 3 4, issuing_land _, rfl, .inr (by decide), by rintro ⟨-, -, h⟩; exact absurd h (by decide), rfl, fun _ => rfl⟩
theorem witness_NapsAndPrefetches : ∃ (s : State) (p : Nat) (x : Party) (m : Mods) (a : Reg) (b : Src) (ps : Nat → List (Nat × Nat)) (win remote : Nat → Bool), Issuing s p x ∧ Within x (Mods.once m) ([(a, 2)] ++ srcRun b 1) ∧ sel x m ≠ [] ∧
    (∀ t ∈ sel x m, s.check x ⟨1, true, false, .plain⟩ (x.reg64 t a) = .ok (ps t) (win t) (remote t) ∧ ps t ≠ []) ∧ Synced s p (sel x m) true false :=
  ⟨_, _, withRegs [] [(1, 0x100)], plain, .s 1, .lit 2000, fun _ => [(0x100, 1)], fun _ => false, fun _ => false, issuing_land _, within_of rfl, by decide, by decide,
    rfl, fun _ => rfl⟩
theorem witness_prefetch : ∃ s : State, ∃ x m a b, Issuing s 1 x ∧ Within x (Mods.once m) [(a, 2)] ∧ 0 ∈ sel x m ∧
    (∃ ps, s.check x ⟨64, false, false, .plain⟩ (x.ea 0 a b 64) = .ok ((0x100, 64) :: ps) false false) ∧ 0x100 / 2 ^ 44 = s.pkg.number :=
  ⟨_, withRegs [] [(1, 0x100)], plain, .s 1, .units 0, issuing_land _, within_of rfl, by decide, ⟨[], rfl⟩, rfl⟩

theorem witness_Branches : ∃ i goes n s p x, BranchRow i goes n ∧ Issuing s p x := ⟨_, _, _, _, _, party16, .brC plain 1 3, issuing_demo _⟩
/-- Offset −1 from packet 0 of the line 0x4000, and packet 0 of the first line, the lowest target. -/
theorem witness_branch_target : CodeAddress 0x4000 ∧ 0 ≤ packetNo 0x4000 + (-1) ∧ (packetNo 0x4000 + (-1)) / 5 < 2 ^ 58 ∧ 0 ≤ packetNo 0x4000 + (-1280) := by
  refine ⟨⟨by decide, by decide⟩, by decide, by decide, by decide⟩
/-- Index 4 is below the bound 5. -/
theorem witness_JumpTables : ∃ s p x m a b, Issuing s p x ∧ Within x m [(b, 1)] ∧ (∀ t, ¬ (Active x t ∧ (5 : BitVec 7).toNat ≤ (x.reg32 t 0 b).toNat)) ∧
    CodeAddress (x.reg64 0 a) := by
  refine ⟨_, _, withRegs [(0, 3, 4)] [(8, 0x5004)], plain, .s 8, .v 3, issuing_demo _, within_of rfl, ?_, by decide, by decide⟩
  rintro t ⟨⟨ht, -⟩, h⟩
  exact absurd h ((by decide : ∀ t < 16, ¬ (5 : BitVec 7).toNat ≤ ((withRegs [(0, 3, 4)] [(8, 0x5004)]).reg32 t 0 (.v 3)).toNat) t ht)
/-- Index 5 reaches it. -/
theorem witness_JumpTables_bound : ∃ s p x m b, Issuing s p x ∧ Within x m [(b, 1)] ∧ ∃ t, Active x t ∧ (5 : BitVec 7).toNat ≤ (x.reg32 t 0 b).toNat :=
  ⟨_, _, withRegs [(0, 3, 5)] [], plain, .v 3, issuing_demo _, within_of rfl, 0, ⟨by decide, by decide⟩, by decide⟩
/-- Seven entries leave room for one more, eight do not. -/
theorem witness_CallsAndReturns : ∃ i m regs target s p x, CallRow i m regs target ∧ Issuing s p x ∧ Within x m regs ∧
    (∀ t, ¬ (Active x t ∧ 8 ≤ (sget [] x.calls t).length)) ∧ (sget [] x.calls 0).length = 7 := by
  refine ⟨_, _, _, _, _, _, { party16 with calls := [(0, List.replicate 7 0x4040)] }, .call plain 2, issuing_demo _, within_of rfl, ?_, rfl⟩
  rintro t ⟨⟨ht, -⟩, h⟩
  exact absurd h ((by decide : ∀ t < 16, ¬ 8 ≤ (sget [] [(0, List.replicate 7 (0x4040 : DWord))] t).length) t ht)
theorem witness_CallsAndReturns_full : ∃ i m regs target s p x, CallRow i m regs target ∧ Issuing s p x ∧ Within x m regs ∧
    ∃ t, Active x t ∧ 8 ≤ (sget [] x.calls t).length :=
  ⟨_, _, _, _, _, _, { party16 with calls := [(0, List.replicate 8 0x4040)] }, .callX plain (.s 4), issuing_demo _, within_of rfl, 0, ⟨by decide, by decide⟩, by decide⟩
theorem witness_returns : ∃ s p x, Issuing s p x ∧ ∀ t, ¬ (Active x t ∧ sget [] x.calls t = []) := by
  refine ⟨_, _, { party16 with calls := [(0, [0x4040])], pos := { party16.pos with m0 := 1 } }, issuing_demo _, ?_⟩
  rintro t ⟨⟨ht, hb⟩, h⟩
  exact (by decide : ∀ t < 16, bitOf 1 t = true → sget [] [(0, [(0x4040 : DWord)])] t ≠ []) t ht hb h
theorem witness_returns_empty : ∃ s p x, Issuing s p x ∧ ∃ t, Active x t ∧ sget [] x.calls t = [] := ⟨_, _, party16, issuing_demo _, 0, ⟨by decide, by decide⟩, rfl⟩
/-- Fifteen entries leave room for `div`, sixteen do not. -/
theorem witness_divergence_entries : ∃ s p x y, Issuing s p x ∧ x.divs.length = 15 ∧ x.divs.length < 16 ∧ Issuing (demo y) 1 y ∧ y.divs.length = 16 ∧ 16 ≤ y.divs.length :=
  ⟨_, _, { party16 with divs := List.replicate 15 ⟨0x4040, 1, 0⟩ }, { party16 with divs := List.replicate 16 ⟨0x4040, 1, 0⟩ }, issuing_demo _, rfl, by decide,
    issuing_demo _, rfl, by decide⟩
theorem witness_joins : ∃ s p x, Issuing s p x ∧ (∀ t, Active x t → ∃ k e, Innermost x.divs t k e ∧ e.join = x.pos.pkt) := by
  refine ⟨_, _, { party16 with divs := [⟨0x4000, 0xFFFF, 0⟩] }, issuing_demo _, ?_⟩
  rintro t ⟨ht, -⟩
  refine ⟨0, _, ⟨rfl, ⟨?_, ?_⟩, by intro j hj; omega⟩, rfl⟩
  · exact (by decide : ∀ t < 16, bitOf 0xFFFF t = true) t ht
  · simp [bitOf]
theorem witness_joins_elsewhere : ∃ s p x, Issuing s p x ∧ ∃ t, Active x t ∧ ¬ ∃ k e, Innermost x.divs t k e ∧ e.join = x.pos.pkt := by
  refine ⟨_, _, party16, issuing_demo _, 0, ⟨by decide, by decide⟩, ?_⟩
  rintro ⟨k, e, ⟨h, -⟩, -⟩
  exact absurd h (by cases k <;> exact nofun)
theorem witness_ExitRemovesTheThreads : ∃ s p x, Issuing s p x ∧ (threadsOf x.width x.m0).filter (fun u => (sfind x.runs u).isSome && !bitOf x.detached u) = [2] :=
  ⟨_, _, { party16 with grid := none, plan := true, runs := [(2, (7, 0))] }, issuing_demo _, by decide⟩

/-- A party of a launch at quad scope, with its crew and its launch. -/
def crewed (x : Party) : State :=
  { land x with
    crews := [(2, ⟨1, some 3, 0, some 0, [1], .resident, false, 0, false, 0, 0⟩)]
    launches := [(3, ⟨1, ⟨0x4000, 0, 1, 16, 64, 1, false, 0, 0⟩, none, [], 1, true, [], false⟩)] }
theorem issuing_crewed (x : Party) : Issuing (crewed x) 1 x := ⟨rfl, rfl⟩
/-- Not arrived; arrived in the phase that is open; arrived in a phase that is complete. -/
theorem witness_BarrierTable_not_arrived : ∃ s p x sc n b, Issuing s p x ∧ AtBarrier s x p sc n b ∧ b.waiting = false ∧ b.arrived = none ∧
    s.mbxStOpen p (threadsOf x.width x.m0) = false :=
  ⟨_, _, party16, 1, 7, _, issuing_crewed _, ⟨rfl, .inr (by decide), rfl, by decide, by decide, rfl⟩, rfl, rfl, rfl⟩
theorem witness_BarrierTable_waiting : ∃ s p x sc n b k, Issuing s p x ∧ AtBarrier s x p sc n b ∧ b.waiting = true ∧ b.arrived = some k ∧
    s.mbxStOpen p (threadsOf x.width x.m0) = false :=
  ⟨_, _, { party16 with bars := [(23, 1)] }, 1, 7, _, 0, issuing_crewed _, ⟨rfl, .inr (by decide), rfl, by decide, by decide, rfl⟩, rfl, rfl, rfl⟩
theorem witness_BarrierTable_complete : ∃ s p x sc n b k, Issuing s p x ∧ AtBarrier s x p sc n b ∧ b.waiting = false ∧ b.arrived = some k ∧
    s.mbxStOpen p (threadsOf x.width x.m0) = false :=
  ⟨{ crewed { party16 with bars := [(23, 1)] } with
      launches := [(3, ⟨1, ⟨0x4000, 0, 1, 16, 64, 1, false, 0, 0⟩, none, [], 1, true, [(barInstance (Crew.extent ⟨1, some 3, 0, some 0, [1], .resident, false, 0, false, 0, 0⟩ 2 1) 1 7,
        ⟨1, [], 1, 0⟩)], false⟩)] }, 1, { party16 with bars := [(23, 1)] }, 1, 7, _, 0, ⟨rfl, rfl⟩, ⟨rfl, .inr (by decide), rfl, by decide, by decide, rfl⟩, rfl, rfl, rfl⟩
/-- An enabled flag that is set; a thread outside m0; a scope of 2 in a launch at quad scope. -/
theorem witness_BarrierTable_traps : ∃ i sc n s p x, BarrierRow i sc n ∧ Issuing s p x ∧ s.sfuOpen p = false ∧ x.csr.level = 0 ∧ x.fpEnabled ≠ 0 :=
  ⟨_, _, _, _, _, { party16 with csr := { party16.csr with fpctl := 9, fpsum := 1 } }, .sync plain 1 7, issuing_crewed _, rfl, rfl, by decide⟩
theorem witness_BarrierTable_refusals : ∃ i sc n s p x y, BarrierRow i sc n ∧ Issuing s p x ∧ s.sfuOpen p = false ∧ (x.csr.level ≠ 0 ∨ x.fpEnabled = 0) ∧
    s.widest x < sc.toNat ∧ y.alive ≠ y.m0 ∧ Issuing (crewed y) 1 y :=
  ⟨_, _, _, _, _, party16, { party16 with pos := { party16.pos with m0 := 1 } }, .arr plain 2 7, issuing_crewed _, rfl, .inr (by decide), by decide, by decide, issuing_crewed _⟩
/-- An arrival whose write is open, and one with none. -/
def arrival (after : List Nat) : State := { crewed party16 with cur := none, arrivals := [(5, ⟨1, 9, 1, after⟩)], reqs := (unacked party16).reqs }
theorem witness_ArrivalsAreCounted : ∃ s : State, ∃ n a x g, sfind s.arrivals n = some a ∧ s.party? a.party = some x ∧ x.grid = some g ∧ ∃ r ∈ a.after, r ∈ s.openWrites a.party :=
  ⟨arrival [4], 5, _, party16, 3, rfl, rfl, rfl, 4, by decide, by decide⟩
theorem witness_ArrivalsAreCounted_acknowledged : ∃ s : State, ∃ n a x g, sfind s.arrivals n = some a ∧ s.party? a.party = some x ∧ x.grid = some g ∧
    ∀ r ∈ a.after, r ∉ s.openWrites a.party := ⟨arrival [3], 5, _, party16, 3, rfl, rfl, rfl, by decide⟩
/-- The last arrival of two members, and one that leaves a third to come. -/
theorem witness_arrival_completes : ∃ s t : State, ∃ g inst, (s.bar g inst).members ≠ 0 ∧ (s.bar g inst).members ≤ (s.bar g inst).arrived.length + 1 + (s.bar g inst).retired ∧
    (∃ l, sfind s.launches g = some l) ∧ (∃ l, sfind t.launches g = some l) ∧ (t.bar g inst).members ≠ 0 ∧
    (t.bar g inst).arrived.length + 1 + (t.bar g inst).retired < (t.bar g inst).members :=
  ⟨{ crewed party16 with launches := [(3, ⟨1, ⟨0x4000, 0, 2, 16, 64, 1, false, 0, 0⟩, none, [], 2, true, [(9, ⟨0, [6], 2, 0⟩)], false⟩)] },
    { crewed party16 with launches := [(3, ⟨1, ⟨0x4000, 0, 3, 16, 64, 1, false, 0, 0⟩, none, [], 3, true, [(9, ⟨0, [6], 3, 0⟩)], false⟩)] }, 3, 9,
    by decide, by decide, ⟨_, rfl⟩, ⟨_, rfl⟩, by decide, by decide⟩
theorem witness_PartySynchronisation : ∃ s p x m a, Issuing s p x ∧ Within x m [(a, 2)] ∧ x.width ≤ 64 ∧
    (∀ t, ¬ (Active x t ∧ (x.reg64 t a ≠ 0xFFFF ∨ bitOf (x.reg64 t a) t = false ∨ ∃ u, x.width ≤ u ∧ bitOf (x.reg64 t a) u = true))) ∧
    Synced s p (threadsOf x.width x.m0) true false ∧ ((threadsOf x.width x.m0).map (fun t => x.reg64 t a)).headD 0 = 0xFFFF := by
  refine ⟨_, _, withRegs [] [(5, 0xFFFF)], plain, .s 5, issuing_demo _, within_of rfl, by decide, ?_, ⟨rfl, fun _ => rfl⟩, by decide⟩
  rintro t ⟨⟨ht, -⟩, h | h | ⟨u, hu, h⟩⟩
  · exact h rfl
  · exact absurd h ((by decide : ∀ t < 16, ¬ bitOf 0xFFFF t = false) t ht)
  · have h : bitOf 0xFFFF u = true := h
    have h2 : bitOf 0xFFFF u = false := by
      unfold bitOf
      by_cases h64 : u < 64
      · exact (by decide : ∀ u < 64, 16 ≤ u → (0xFFFF : Mask).getLsbD u = false) u h64 hu
      · exact BitVec.getLsbD_of_ge _ _ (by omega)
    rw [h2] at h; exact absurd h nofun
theorem witness_PartySynchronisation_refused : ∃ s p x m a, Issuing s p x ∧ Within x m [(a, 2)] ∧ x.width ≤ 64 ∧ ∃ t, Active x t ∧ bitOf (x.reg64 t a) t = false :=
  ⟨_, _, withRegs [] [(5, 0xFFFE)], plain, .s 5, issuing_demo _, within_of rfl, by decide, 0, ⟨by decide, by decide⟩, by decide⟩
theorem witness_AgentRequestsLeaveTheLane : ∃ i w s p x, AgentRow i w ∧ Issuing s p x ∧ Within x w.m w.regs ∧
    (∀ t, ¬ (Active x t ∧ ((w.leaves = true ∧ (x.plan = false ∨ bitOf x.detached t = true)) ∨ w.refuses x t))) ∧ Synced s p (threadsOf x.width x.m0) true false :=
  ⟨_, _, _, _, party16, .belPut plain (.v 6) (.v 0) (.reg (.v 8)), issuing_demo _, within_of rfl, by rintro t ⟨-, ⟨h, -⟩ | h⟩; exacts [absurd h (by decide), h], rfl, fun _ => rfl⟩
theorem witness_AgentRequestsLeaveTheLane_grid_party : ∃ i w s p x, AgentRow i w ∧ Issuing s p x ∧ Within x w.m w.regs ∧ ∃ t, Active x t ∧ w.leaves = true ∧ x.plan = false :=
  ⟨_, _, _, _, party16, .step plain (.v 0) (.lit 3), issuing_demo _, within_of rfl, 0, ⟨by decide, by decide⟩, rfl, rfl⟩

/-! ### The homes -/

theorem unfaulted_of {s : State} {r : Req} {x : Party} (h : s.party? r.party = some x) (h0 : x.homeFaults = []) : Unfaulted s r := by
  intro y hy; rw [h] at hy; cases hy; exact h0
/-- The hypotheses that every accepted request shares hold of request 4 at 0x100. -/
theorem sent_ok (kind : ReqKind) (h : (sent kind 4 []).conflict (req kind 4) = none ∧ (sent kind 4 []).tagFull (req kind 4) = false)
    (hf : (sent kind 4 []).firstAtHome 4 (req kind 4) = true) :
    AtHome (sent kind 4 []) 4 (req kind 4) ∧ HomeOk (sent kind 4 []) (req kind 4) ∧ Unfaulted (sent kind 4 []) (req kind 4) :=
  ⟨⟨rfl, rfl, hf⟩, ⟨by intro q hq; rcases List.mem_singleton.1 hq with rfl; exact ⟨rfl, rfl, rfl, rfl, rfl⟩, fun _ => h, (by decide : BitVec.getLsbD (0 : Word) 0 = false)⟩, unfaulted_of rfl rfl⟩
theorem witness_HomesServeLoads : ∃ s n r size sx, AtHome s n r ∧ HomeOk s r ∧ Unfaulted s r ∧ r.kind = .load size sx ∧ r.win = false :=
  have h := sent_ok (.load 4 false) ⟨rfl, rfl⟩ rfl
  ⟨_, _, _, _, _, h.1, h.2.1, h.2.2, rfl, rfl⟩
theorem witness_HomesServeRemoteLoads : ∃ s n r pa k, AtHome s n r ∧ HomeOk s r ∧ Unfaulted s r ∧ r.kind = .rcLoad ∧ r.pieces = [(pa, k)] ∧ pa % 4 = 0 :=
  have h := sent_ok .rcLoad ⟨rfl, rfl⟩ rfl
  ⟨_, _, _, _, _, h.1, h.2.1, h.2.2, rfl, rfl, rfl⟩
theorem witness_HomesServeStores : ∃ s n r size data, AtHome s n r ∧ HomeOk s r ∧ Unfaulted s r ∧ r.kind = .store size data ∧ r.win = false ∧ (bytesIn r.pieces).Nodup :=
  have h := sent_ok (.store 4 1) ⟨rfl, rfl⟩ rfl
  ⟨_, _, _, _, _, h.1, h.2.1, h.2.2, rfl, rfl, by decide⟩
theorem witness_AtomicsAreOneStep : ∃ s n r op b c pa k, AtHome s n r ∧ HomeOk s r ∧ Unfaulted s r ∧ r.kind = .atom op b c ∧ r.pieces = [(pa, k)] :=
  have h := sent_ok (.atom .cas 1 2) ⟨rfl, rfl⟩ rfl
  ⟨_, _, _, _, _, _, _, _, h.1, h.2.1, h.2.2, rfl, rfl⟩
/-- A load from package 1, which is not there. -/
def faraway : Req := { req (.load 4 false) 4 with pieces := [(2 ^ 44, 4)] }
theorem witness_unmapped : ∃ (s : State) (n : Nat) (r : Req), AtHome s n r ∧ (∀ op h w, r.kind ≠ .agent op h w) ∧ (∀ a, r.kind ≠ .emit a) ∧ r.kind ≠ .rcLoad ∧
    (∃ q ∈ r.pieces, s.unmapped q.1 = true) ∧ (r.recorded = true → s.conflict r = none → s.tagFull r = false) :=
  ⟨{ sent (.load 4 false) 4 [] with reqs := [(4, faraway)] }, 4, faraway, ⟨rfl, rfl, rfl⟩, nofun, nofun, nofun, ⟨_, .head _, rfl⟩, fun _ _ => rfl⟩
theorem witness_FabricTimeout : ∃ (s : State) (n : Nat) (r : Req), sfind s.reqs n = some r ∧ r.phase = .sent ∧ (∃ q ∈ r.pieces, q.1 / 2 ^ 44 ≠ s.pkg.number) ∧
    r.issued + 400000 ≤ s.now := ⟨{ sent (.load 4 false) 4 [] with reqs := [(4, faraway)], now := 400000 }, 4, faraway, rfl, rfl, ⟨_, .head _, by decide⟩, by decide⟩
theorem witness_ConflictsAreRefused : ∃ (s : State) (n : Nat) (r : Req), AtHome s n r ∧ r.recorded = true ∧ (∀ q ∈ r.pieces, s.unmapped q.1 = false ∧ 0 < q.2) ∧
    ∃ g, Conflicting s r g := by
  refine ⟨{ sent (.store 4 1) 4 [] with tags := [⟨1, 0x40, 3, 1, [(5, 0)], true, false⟩] }, 4, req (.store 4 1) 4, ⟨rfl, rfl, rfl⟩, rfl,
    by intro q hq; rcases List.mem_singleton.1 hq with rfl; exact ⟨rfl, by decide⟩, ⟨1, 0x40, 3, 1, [(5, 0)], true, false⟩, .head _, nofun, ⟨0x100, by decide, rfl⟩,
    .inr rfl, ?_⟩
  rintro ⟨-, o, ho, q, hq, h⟩
  rcases List.mem_singleton.1 ho with rfl
  rcases List.mem_singleton.1 hq with rfl
  exact absurd h (by decide)
theorem witness_no_conflict : ∃ (s : State) (r : Req), (∀ q ∈ r.pieces, 0 < q.2) ∧ ¬ ∃ g, Conflicting s r g :=
  ⟨sent (.store 4 1) 4 [], req (.store 4 1) 4, by decide, by rintro ⟨g, h, -⟩; exact absurd h nofun⟩
/-- A mailbox request at a word that is full, or empty. -/
def mbx (kind : ReqKind) (full : Bool) : State :=
  let s := sent kind 8 []
  { s with mem := { s.mem with full := if full then [(0x100 / 8, true)] else [] } }
theorem mbx_ok (kind : ReqKind) (full : Bool) (h : (mbx kind full).conflict (req kind 8) = none ∧ (mbx kind full).tagFull (req kind 8) = false)
    (hf : (mbx kind full).firstAtHome 4 (req kind 8) = true) :
    AtHome (mbx kind full) 4 (req kind 8) ∧ HomeOk (mbx kind full) (req kind 8) ∧ Unfaulted (mbx kind full) (req kind 8) :=
  ⟨⟨rfl, rfl, hf⟩, ⟨by intro q hq; rcases List.mem_singleton.1 hq with rfl; exact ⟨rfl, rfl, rfl, rfl, rfl⟩, fun _ => h, (by decide : BitVec.getLsbD (0 : Word) 0 = false)⟩, unfaulted_of rfl rfl⟩
theorem witness_MailboxWords_load : ∃ (s t : State) (n : Nat) (r : Req), AtHome s n r ∧ HomeOk s r ∧ Unfaulted s r ∧ r.kind = .mbxLd ∧ r.pieces = [(0x100, 8)] ∧
    s.isFull 0x100 = true ∧ AtHome t n r ∧ HomeOk t r ∧ Unfaulted t r ∧ t.isFull 0x100 = false ∧ n < t.nextId :=
  have h := mbx_ok .mbxLd true ⟨rfl, rfl⟩ rfl
  have g := mbx_ok .mbxLd false ⟨rfl, rfl⟩ rfl
  ⟨_, _, _, _, h.1, h.2.1, h.2.2, rfl, rfl, rfl, g.1, g.2.1, g.2.2, rfl, by decide⟩
theorem no_wakes (s : State) (h : s.lods = (land party16).lods) (pa : Nat) : ∀ fe, ∀ w ∈ (s.lod fe).mbxWakes, w.1 ≠ pa := by
  intro fe
  have e : (s.lod fe).mbxWakes = [] := by
    unfold State.lod; rw [h]
    show (sget Lodging.reset [(1, _)] fe).mbxWakes = []
    unfold sget; split <;> rfl
  rw [e]; exact nofun
theorem witness_MailboxWords_store : ∃ (s t : State) (n : Nat) (r : Req) (v : DWord), AtHome s n r ∧ HomeOk s r ∧ Unfaulted s r ∧ r.kind = .mbxSt v ∧ r.pieces = [(0x100, 8)] ∧
    s.isFull 0x100 = false ∧ s.oldestSt 0x100 = none ∧ (∀ fe, ∀ w ∈ (s.lod fe).mbxWakes, w.1 ≠ 0x100) ∧ AtHome t n r ∧ HomeOk t r ∧ Unfaulted t r ∧
    t.isFull 0x100 = true ∧ n < t.nextId :=
  have h := mbx_ok (.mbxSt 7) false ⟨rfl, rfl⟩ rfl
  have g := mbx_ok (.mbxSt 7) true ⟨rfl, rfl⟩ rfl
  ⟨_, _, _, _, 7, h.1, h.2.1, h.2.2, rfl, rfl, rfl, rfl, no_wakes _ rfl _, g.1, g.2.1, g.2.2, rfl, by decide⟩
theorem witness_MailboxWords_test : ∃ (s : State) (n : Nat) (r : Req), AtHome s n r ∧ HomeOk s r ∧ Unfaulted s r ∧ r.kind = .mbxTst ∧ r.pieces = [(0x100, 8)] :=
  have h := mbx_ok .mbxTst false ⟨rfl, rfl⟩ rfl
  ⟨_, _, _, h.1, h.2.1, h.2.2, rfl, rfl⟩
/-- A store that waits for its word, which is empty now. -/
def waiting : Req := { req (.mbxSt 7) 8 with phase := .waiting, held := false }
theorem witness_MailboxWords_perform : ∃ (s : State) (n : Nat) (r : Req) (v : DWord), sfind s.reqs n = some r ∧ r.kind = .mbxSt v ∧ r.pieces = [(0x100, 8)] ∧ r.party ≠ 0 ∧
    s.isFull 0x100 = false ∧ s.oldestSt 0x100 = some (n, r) ∧ ∀ fe, ∀ w ∈ (s.lod fe).mbxWakes, w.1 ≠ 0x100 :=
  ⟨{ mbx (.mbxSt 7) false with reqs := [(4, waiting)] }, 4, waiting, 7, rfl, rfl, rfl, by decide, rfl, rfl, no_wakes _ rfl _⟩
/-- A reply to a load, and one to a class-5 request. -/
theorem witness_RepliesReachTheirDestination : ∃ (s t : State) (n : Nat) (r q : Req) (v : Nat) (x : Party), r.isAgent = false ∧ r.party ≠ 0 ∧ sfind s.reqs n = some r ∧
    r.phase = .reply v ∧ s.party? r.party = some x ∧ (∀ b k, r.dest = .vec b k → b + k ≤ 1024) ∧ r.thread < 64 ∧ q.isAgent = true ∧ sfind t.reqs n = some q ∧
    q.phase = .reply v ∧ t.party? q.party = some x ∧ (∀ b k, q.dest = .vec b k → b + k ≤ 1024) ∧ q.thread < 64 :=
  ⟨{ sent (.load 4 false) 4 [] with reqs := [(4, { req (.load 4 false) 4 with phase := .reply 7 })] },
    { sent (.load 4 false) 4 [] with reqs := [(4, { req (.agent .belFacts 5 0) 4 with phase := .reply 7 })] }, 4, _, _, 7, _, rfl, by decide, rfl, rfl, rfl,
    by rintro b k h; cases h; decide, by decide, rfl, rfl, rfl, rfl, by rintro b k h; cases h; decide, by decide⟩
theorem witness_WritesAreAcknowledged : ∃ (s : State) (n : Nat) (r : Req), sfind s.reqs n = some r ∧ r.phase = .unacked ∧ r.win = false :=
  ⟨unacked party16, 4, _, rfl, rfl, rfl⟩
/-- A store to a window page, the oldest of its window. -/
def windowStore : Req := { req (.store 4 1) 4 with phase := .unacked, held := false, win := true }
theorem witness_WritesAreAcknowledged_window : ∃ (s : State) (n : Nat) (r : Req) (size data : Nat), sfind s.reqs n = some r ∧ r.phase = .unacked ∧ r.win = true ∧
    r.kind = .store size data ∧ s.winBehind n r = false ∧ (bytesIn r.pieces).Nodup :=
  ⟨{ unacked party16 with reqs := [(4, windowStore)] }, 4, windowStore, 4, 1, rfl, rfl, rfl, rfl, rfl, by decide⟩
/-- An ended region whose last open write the acknowledgement closes. -/
theorem witness_region_over : ∃ (s : State) (n : Nat) (r : Req), sfind s.reqs n = some r ∧ ∃ o ∈ r.owners, s.regionOver r.party o = true ∧
    (s.dropReq n).unacked r.party o = false :=
  ⟨unacked { party16 with region := [(0, 1)] }, 4, _, rfl, (0, 0), .head _, rfl, rfl⟩
/-- A log of four records at 0x200, two of them taken: its header at 0x100. -/
def logState (cap : Byte) : State :=
  let s := sent (.logApp (List.replicate 8 7)) 64 [(0x101, 0x02), (0x108, cap), (0x110, 6), (0x118, 4)]
  s.onQuad (s.reqHome (req (.logApp (List.replicate 8 7)) 64)) (fun q => { q with tlb := [⟨1, 0, 0, 0, true, true, true, true, true⟩] })
theorem witness_LogRecordsAreAppended : ∃ (s : State) (n : Nat) (r : Req) (words : List Word) (x : Party), AtHome s n r ∧ HomeOk s r ∧ Unfaulted s r ∧ r.kind = .logApp words ∧
    r.pieces = [(0x100, 64)] ∧ s.party? r.party = some x ∧ 0 < s.loadN 0x108 4 ∧
    (s.loadN 0x110 8 + 2 ^ 64 - s.loadN 0x118 8) % 2 ^ 64 < s.loadN 0x108 4 ∧ words.length = 8 ∧ ∃ w,
    s.reach r.fe (s.reqHome r) ⟨true, false, x.user⟩ (BitVec.ofNat 64 (s.loadN 0x100 8) + BitVec.ofNat 64 (32 * (s.loadN 0x110 8 % s.loadN 0x108 4))) = .ok w ∧
    pageRefuses r.fe (s.pageKind r.fe w) ⟨32, true, true, .plain⟩ = none ∧ (w.pa + 32 ≤ 0x110 ∨ 0x118 ≤ w.pa) :=
  ⟨logState 4, 4, _, _, _, ⟨rfl, rfl, rfl⟩,
    ⟨by intro q hq; rcases List.mem_singleton.1 hq with rfl; exact ⟨rfl, rfl, rfl, rfl, rfl⟩, fun _ => ⟨rfl, rfl⟩, rfl⟩, unfaulted_of rfl rfl, rfl, rfl, rfl, by decide, by decide, rfl, ⟨0x240, 0, true, true, true⟩, rfl, rfl,
    by decide⟩
theorem witness_LogRecordsAreAppended_full : ∃ s : State, s.loadN 0x108 4 ≤ (s.loadN 0x110 8 + 2 ^ 64 - s.loadN 0x118 8) % 2 ^ 64 ∧ s.loadN 0x108 4 = 2 :=
  ⟨logState 2, by decide, rfl⟩

/-! ### Engines and the envelope unit -/

/-- The machine whose core 0 is `k`. -/
def cored (k : Core) (x : Party) : State := { crewed x with cores := [(0, k)] }
theorem issuing_cored (k : Core) (x : Party) : Issuing (cored k x) 1 x := ⟨rfl, rfl⟩
/-- A tile slot of crew 2 in layout c8. -/
def tile (st : TileSt) (readers : Nat) : Tile := ⟨some 2, st, 1, readers, false, [], []⟩
/-- A core whose slots 0 to 3 are the crew's, in the four states, and whose contexts are both the crew's. -/
def core4 : Core := { Core.reset with
  tiles := [(0, tile .ready 0), (1, tile .empty 0), (2, tile .filling 0), (3, tile .draining 1)]
  mx := [(0, { MxCtx.reset with owner := some 2 }), (1, { MxCtx.reset with owner := some 2 })] }

/-- A count of 64 fits only where every slot is free; 0 and 65 are refused. -/
theorem witness_TileSlots_claim : ∃ (s t : State) (p : Nat) (x : Party), Issuing s p x ∧ Issuing t p x ∧ (∀ i < 64, Claimable (s.core (coreNo x)) (0 + i)) ∧
    (∀ a, a + 64 ≤ 64 → ¬ ∀ i < 64, Claimable (t.core (coreNo x)) (a + i)) ∧ (∀ i < 4, Claimable (t.core (coreNo x)) (4 + i)) ∧
    ∀ a' < 4, ¬ ∀ i < 4, Claimable (t.core (coreNo x)) (a' + i) := by
  refine ⟨cored Core.reset party16, cored core4 party16, 1, party16, issuing_cored _ _, issuing_cored _ _, by unfold Claimable; decide, ?_, by unfold Claimable; decide,
    by unfold Claimable; decide⟩
  intro a ha h
  obtain rfl : a = 0 := by omega
  exact absurd (h 0 (by decide)).1 (by decide)
theorem witness_TileSlots_release : ∃ (s : State) (p : Nat) (x : Party), Issuing s p x ∧ (∀ i < 2, ((s.core (coreNo x)).tile (0 + i)).owner = some x.crew) ∧
    ¬ (∃ i < 2, ((s.core (coreNo x)).tile (0 + i)).st = .filling ∨ ((s.core (coreNo x)).tile (0 + i)).st = .draining) ∧
    (∀ i < 4, ((s.core (coreNo x)).tile (0 + i)).owner = some x.crew) ∧ ((s.core (coreNo x)).tile (0 + 2)).st = .filling ∧
    ((s.core (coreNo x)).tile 4).owner ≠ some x.crew :=
  ⟨cored core4 party16, 1, party16, issuing_cored _ _, by decide, by decide, by decide, rfl, by decide⟩
theorem witness_TileSlots_state : ∃ (s : State) (p : Nat) (x : Party), Issuing s p x ∧ x.slotOf (.num 63) ≤ 63 ∧ 63 < x.slotOf (.s 4) :=
  ⟨cored core4 (withRegs [] [(4, 64)]), 1, _, issuing_cored _ _, by decide, by decide⟩
/-- `cp.in` of c8 rows into slot 1; `cp.out` from slot 0. -/
theorem witness_PorterCommandsQueue : ∃ (s : State) (p : Nat) (x : Party) (a b : Reg) (c : Reg), Issuing s p x ∧
    (∃ slot fmt sp ctx stride, CpFields (x.srcZ (.reg b)) slot fmt sp false ctx stride ∧ (x.reg64 0 a).toNat % cpAlign fmt = 0 ∧ stride % cpAlign fmt = 0 ∧
      cpLayout fmt ≠ 0 ∧ Writable (s.core (coreNo x)) x.crew slot) ∧
    ∃ slot fmt ctx stride, CpFields (x.srcZ (.reg c)) slot fmt false false ctx stride ∧ (x.reg64 0 a).toNat % cpAlign fmt = 0 ∧ stride % cpAlign fmt = 0 ∧
      Readable (s.core (coreNo x)) x.crew slot ∧ cpOutSlot fmt ((s.core (coreNo x)).tile slot).layout = true :=
  ⟨cored core4 (withRegs [] [(4, 0x1000), (5, 1), (6, 0)]), 1, _, .s 4, .s 5, .s 6, issuing_cored _ _,
    ⟨1, 0, false, 0, 0, ⟨rfl, rfl, rfl, rfl, rfl, rfl, by decide⟩, by decide, by decide, by decide, by unfold Writable; decide⟩,
    0, 0, 0, 0, ⟨rfl, rfl, rfl, rfl, rfl, rfl, by decide⟩, by decide, by decide, by unfold Readable; decide, rfl⟩
/-- A control word for `cp.out` from context 0 in an FP32 format, and the follow-on word of `cp.in.mx`. -/
theorem witness_PorterCommandsQueue_contexts : ∃ (s : State) (p : Nat) (x : Party), Issuing s p x ∧
    (∃ fmt ctx stride, CpFields (x.srcZ (.reg (.s 6))) 0 fmt false true ctx stride ∧ cpOutCtx fmt = true ∧ (x.reg64 0 (.s 4)).toNat % cpAlign fmt = 0 ∧
      stride % cpAlign fmt = 0 ∧ ((s.core (coreNo x)).ctx 0).owner = some x.crew) ∧
    ∃ fmt sp ctx stride, CpFields (x.srcZ (.reg (.s 7))) 1 fmt sp false ctx stride ∧ cpLayout fmt ≠ 0 ∧ (x.uniNext (.s 4)).toNat < 256 ∧
      (x.uniNext (.s 4)).toNat % 64 = 0 ∧ (x.uniNext (.s 4)).toNat / 128 = 1 ∧ ((s.core (coreNo x)).ctx 1).owner = some x.crew ∧ Writable (s.core (coreNo x)) x.crew 1 ∧
      Readable (s.core (coreNo x)) x.crew 0 ∧ cpLayout fmt = ((s.core (coreNo x)).ctx 1).bind.layout + 1 ∧
      ((s.core (coreNo x)).tile 0).layout = ((s.core (coreNo x)).ctx 1).bind.layout + 1 :=
  ⟨cored core4 (withRegs [] [(4, 0x1000), (5, 128), (6, 0x9C0), (7, 1)]), 1, _, issuing_cored _ _,
    ⟨7, 0, 0, ⟨rfl, rfl, rfl, rfl, rfl, rfl, by decide⟩, by decide, by decide, by decide, rfl⟩,
    0, false, 0, 0, ⟨rfl, rfl, rfl, rfl, rfl, rfl, by decide⟩, by decide, by decide, rfl, rfl, rfl, by unfold Writable; decide, by unfold Readable; decide, rfl, rfl⟩
/-- 4,096 bytes from 0x2000 to 0x1000 on context 0. -/
theorem witness_cp_mem : ∃ (s : State) (p : Nat) (x : Party), Issuing s p x ∧ (x.srcZ (.reg (.s 7))).toNat % 2 ^ 32 < 2 ^ 28 ∧ (x.reg64 0 (.s 4)).toNat % 4 = 0 ∧
    (x.uniNext (.s 4)).toNat % 4 = 0 ∧ (x.srcZ (.reg (.s 7))).toNat % 2 ^ 32 % 2 ^ 26 % 4 = 0 ∧ (x.srcZ (.reg (.s 7))).toNat = 4096 :=
  ⟨cored core4 (withRegs [] [(4, 0x1000), (5, 0x2000), (7, 4096)]), 1, _, issuing_cored _ _, by decide, by decide, by decide, by decide, by decide⟩
theorem witness_MatrixCommandsQueue : ∃ (s : State) (p : Nat) (x : Party), Issuing s p x ∧ ((s.core (coreNo x)).ctx 0).owner = some x.crew ∧
    Readable (s.core (coreNo x)) x.crew (x.slotOf (.num 0)) ∧ Readable (s.core (coreNo x)) x.crew (x.slotOf (.num 3)) ∧
    ((s.core (coreNo x)).tile 0).layout = ((s.core (coreNo x)).ctx 0).bind.layout + 1 ∧ ((s.core (coreNo x)).tile 3).layout = ((s.core (coreNo x)).ctx 0).bind.layout + 1 ∧
    goodScale 0x3F800000 = true ∧ Writable (s.core (coreNo x)) x.crew (x.slotOf (.num 0)) ∧ Writable (s.core (coreNo x)) x.crew (x.slotOf (.num 0) + 1) ∧
    Within x plain [(.v 8, 1)] ∧ (∀ t ∈ threadsOf x.width x.m0, 112 + t ≤ 127) ∧ (∃ bd, bindOf x.ctlRegs.mxctl = some bd) ∧ ((s.core (coreNo x)).ctx 0).queue = [] :=
  ⟨cored core4 party16, 1, party16, issuing_cored _ _, rfl, by unfold Readable; decide, by unfold Readable; decide, rfl, rfl, by decide, by unfold Writable; decide,
    by unfold Writable; decide, within_of rfl, by decide, ⟨_, rfl⟩, rfl⟩
/-- A free context of a core that holds its tokens, a context of another crew, and one with a command queued. -/
theorem witness_MatrixCommandsQueue_claim : ∃ (s t u : State) (p : Nat) (x : Party), Issuing s p x ∧ ((s.core (coreNo x)).ctx 0).owner = none ∧ ((s.core (coreNo x)).ctx 0).queue = [] ∧
    (s.core (coreNo x)).tokens = true ∧ (∃ bd, bindOf x.ctlRegs.mxctl = some bd) ∧ Issuing t p x ∧ ((t.core (coreNo x)).ctx 0).owner ≠ none ∧
    ((t.core (coreNo x)).ctx 0).owner ≠ some x.crew ∧ Issuing u p x ∧ ((u.core (coreNo x)).ctx 0).queue ≠ [] ∧ ((u.core (coreNo x)).ctx 0).owner = some x.crew :=
  ⟨cored { Core.reset with tokens := true } party16, cored { Core.reset with mx := [(0, { MxCtx.reset with owner := some 9 })] } party16,
    cored { Core.reset with mx := [(0, { MxCtx.reset with owner := some 2, queue := [⟨1, 2, MxBind.reset, .clr, 0⟩] })] } party16, 1, party16, issuing_cored _ _, rfl, rfl, rfl,
    ⟨_, rfl⟩, issuing_cored _ _, nofun, by decide, issuing_cored _ _, nofun, rfl⟩
/-- A core with 5 tickets of tl4 issued and 3 completed, and a fault record of ticket 2. -/
def timed (fs : List EngFault) : State := cored { Core.reset with issued := [(4, 5)], done := [(4, 3)], faults := fs } party16
theorem witness_Timelines : ∃ (s : State) (p : Nat) (x : Party), Issuing s p x ∧ (s.core (coreNo x)).issuedOf 4 < 6 ∧ 5 ≤ (s.core (coreNo x)).issuedOf 4 ∧
    NoRecord (s.core (coreNo x)) x.crew 4 5 ∧ s.mbxStOpen p (threadsOf x.width x.m0) = false ∧ 3 ≤ (s.core (coreNo x)).doneOf 4 ∧ (s.core (coreNo x)).doneOf 4 < 4 ∧
    s.writesOpen p (List.range x.width) false = false ∧ Within x plain [(.v 63, 1)] :=
  ⟨timed [], 1, party16, issuing_cored _ _, by decide, by decide, nofun, rfl, by decide, by decide, rfl, within_of rfl⟩
theorem witness_Timelines_record : ∃ (s : State) (p : Nat) (x : Party) (f : EngFault), Issuing s p x ∧ 2 ≤ (s.core (coreNo x)).issuedOf 4 ∧
    FirstRecord (s.core (coreNo x)) x.crew 4 2 f ∧ ∀ g, FirstRecord (s.core (coreNo x)) x.crew 4 2 g → g = f := by
  refine ⟨timed [⟨2, 1, 0x1E, 0x1000, 4, 2, 12⟩], 1, party16, ⟨2, 1, 0x1E, 0x1000, 4, 2, 12⟩, issuing_cored _ _, by decide, ⟨.head _, rfl, rfl, by decide, ?_⟩, ?_⟩
  · intro g hg _ _
    rcases List.mem_singleton.1 hg with rfl; decide
  · rintro g ⟨hg, -⟩
    exact List.mem_singleton.1 hg
/-- Engine 767 is the last. -/
theorem witness_bank_cmd : ∃ (s t : State) (p : Nat) (x : Party), Issuing s p x ∧ s.pkg.service ≠ .reduced ∧ (x.srcZ (.lit 767)).toNat % 2 ^ 32 ≤ 767 ∧
    (x.reg64 0 (.s 4)).toNat % 64 = 0 ∧ 767 < (x.srcZ (.lit 768)).toNat % 2 ^ 32 ∧ Issuing t p x ∧ t.pkg.service = .reduced :=
  ⟨cored Core.reset (withRegs [] [(4, 0x1040)]), { cored Core.reset (withRegs [] [(4, 0x1040)]) with pkg := { Package.reset with service := .reduced } }, 1, _, issuing_cored _ _,
    nofun, by decide, by decide, by decide, ⟨rfl, rfl⟩, rfl⟩
/-- A grid descriptor at 0x1000: entry 0x4000, one party of 16 threads and 16 registers; one active thread launches it. -/
def launching (full : Bool) : State :=
  let x := { withRegs [] [(4, 0x1000)] with pos := { party16.pos with m0 := 1 } }
  let s := cored Core.reset x
  let s := { s with mem := { s.mem with bytes := [(0x1001, 0x40), (0x1010, 1), (0x1015, 1)] } }
  let s := s.onCrew 2 (fun k => { k with reserve := 1 })
  if full then s.onLod 1 (fun l => { l with deferred := [⟨⟨0, 0, 0, 0, 0, 0, false, 0, 0⟩, none⟩] }) else s

/-- The descriptor as read. -/
def oneParty : GridDesc := ⟨0x4000, 0, 1, 16, 16, 0, false, 0, 0⟩
theorem witness_launch : ∃ (s : State) (p : Nat) (x : Party) (ps : Nat → List (Nat × Nat)) (win remote : Nat → Bool) (ds : Nat → GridDesc), Issuing s p x ∧
    Within x plain [(.s 4, 2)] ∧ (∀ t ∈ threadsOf x.width x.m0, s.check x ⟨64, true, false, .plain⟩ (x.reg64 t (.s 4)) = .ok (ps t) (win t) (remote t) ∧
      s.gridDesc x.fe (s.loadPieces (ps t)) = some (ds t) ∧ ∀ q ∈ ps t, sget none s.mem.poison (q.1 / 64) = none ∧ sget false s.mem.badTag (q.1 / 64) = false ∧
        sget false s.mem.badCells (q.1 / 64) = false) ∧ s.pkg.injarm.getLsbD 0 = false ∧ Synced s p (threadsOf x.width x.m0) true false ∧
    (s.lod x.fe).launchQ.length + (threadsOf x.width x.m0).length ≤ 4096 ∧ (s.lod x.fe).deferred = [] :=
  ⟨launching false, 1, _, fun _ => [(0x1000, 64)], fun _ => false, fun _ => false, fun _ => oneParty, ⟨rfl, rfl⟩, within_of rfl, by decide, rfl, ⟨rfl, fun _ => rfl⟩, by decide, rfl⟩
theorem witness_launch_deferred : ∃ (s : State) (x : Party), Issuing s 1 x ∧ (s.lod x.fe).deferred ≠ [] ∧ (∃ k, s.crew? x.crew = some k ∧
    (threadsOf x.width x.m0).length ≤ k.reserve) ∧ threadsOf x.width x.m0 ≠ [] ∧ s.gridDesc x.fe (s.loadPieces [(0x1000, 64)]) = some oneParty :=
  ⟨launching true, _, ⟨rfl, rfl⟩, nofun, ⟨_, rfl, by decide⟩, by decide, rfl⟩
theorem witness_rec_emit : ∃ s p x m d a b, Issuing s p x ∧ Within x m ([(d, 1), (a, 4)] ++ srcRun b 1) ∧ ∀ t ∈ threadsOf x.width x.m0, (x.src32 t 0 b).toNat < 4096 :=
  ⟨_, _, party16, plain, .v 0, .v 4, .lit 4095, issuing_land _, within_of rfl, by decide⟩
theorem witness_log_app : ∃ (s : State) (p : Nat) (x : Party) (ps : Nat → List (Nat × Nat)) (win remote : Nat → Bool), Issuing s p x ∧
    Within x plain [(.v 9, 1), (.s 4, 2), (.v 16, 8)] ∧
    ∀ t ∈ threadsOf x.width x.m0, s.check x ⟨64, true, true, .atomic⟩ (x.reg64 t (.s 4)) = .ok (ps t) (win t) (remote t) :=
  ⟨land (withRegs [] [(4, 0x100)]), 1, _, fun _ => [(0x100, 64)], fun _ => false, fun _ => false, issuing_land _, within_of rfl, by decide⟩

/-- A core whose envelope slots 0 to 2 are the crew's, slot 1 set to the line 2x + 1 on [0, 4]. -/
def envCore (q : List EnvCmd) : Core := { Core.reset with
  env := [(0, ⟨some 2, none⟩), (1, ⟨some 2, some ⟨0, 0x40800000, [⟨0x40000000, 0x3F800000, 0⟩]⟩⟩), (2, ⟨some 2, none⟩)], envQ := q }
theorem witness_EnvelopeWordsQueue : ∃ (i : Instr) (w : EnvWord) (s : State) (p : Nat) (x : Party), EnvRow i w ∧ Issuing s p x ∧ Within x w.m w.regs ∧
    (∀ j ∈ w.slots x, j < 16 ∧ ((s.core (coreNo x)).envSlot j).owner = some x.crew) ∧ w.ok x ∧ (s.core (coreNo x)).envFull = false :=
  ⟨_, _, cored (envCore []) party16, 1, party16, .max plain (.num 2) (.num 1) (.num 0), issuing_cored _ _, within_of rfl, by decide, trivial, rfl⟩
theorem witness_EnvelopeWordsQueue_full : ∃ (i : Instr) (w : EnvWord) (s : State) (p : Nat) (x : Party), EnvRow i w ∧ Issuing s p x ∧ Within x w.m w.regs ∧
    (∀ j ∈ w.slots x, j < 16 ∧ ((s.core (coreNo x)).envSlot j).owner = some x.crew) ∧ w.ok x ∧ (s.core (coreNo x)).envFull = true :=
  ⟨_, _, cored (envCore (List.replicate 16 ⟨1, 2, 1, true, 1, 0, .cnt 1 [], .none, 0, false, []⟩)) party16, 1, party16, .cnt plain (.v 8) (.num 1), issuing_cored _ _,
    within_of rfl, by decide, trivial, rfl⟩
/-- Slot 3 belongs to no crew; the lowest free run of 13 slots starts there, and there is none of 14. -/
theorem witness_EnvelopeWordsQueue_claims : ∃ (s : State) (p : Nat) (x : Party), Issuing s p x ∧ (s.core (coreNo x)).envFull = false ∧
    ((s.core (coreNo x)).envSlot 3).owner ≠ some x.crew ∧ (∀ i < 13, ((s.core (coreNo x)).envSlot (3 + i)).owner = none) ∧
    (∀ a' < 3, ¬ ∀ i < 13, ((s.core (coreNo x)).envSlot (a' + i)).owner = none) ∧ (∀ a, a + 14 ≤ 16 → ¬ ∀ i < 14, ((s.core (coreNo x)).envSlot (a + i)).owner = none) ∧
    ∀ i < 3, ((s.core (coreNo x)).envSlot (0 + i)).owner = some x.crew := by
  refine ⟨cored (envCore []) party16, 1, party16, issuing_cored _ _, rfl, by decide, by decide, by decide, ?_, by decide⟩
  intro a ha h
  have h2 : a = 0 ∨ a = 1 ∨ a = 2 := by omega
  rcases h2 with rfl | rfl | rfl <;> exact absurd (h 0 (by decide)) (by decide)
/-- The machine with one envelope instruction queued. -/
def envState (op : EnvOp) : State := cored (envCore [⟨1, 2, 1, true, 1, 0, op, .none, 0, false, []⟩]) party16
theorem witness_EnvelopeExecution : ∃ s : State, ∃ c q rest d e, (s.core c).envQ = q :: rest ∧ s.released q.after = true ∧ s.upset ≠ .envelope ∧ q.ticket ≠ 0 ∧
    EnvGives (fun j => ((s.core c).envSlot j).env) q.tol q.op d e ∧ e.pieces.length ≤ 512 :=
  ⟨envState (.clr 0 0 0x40800000), 0, _, _, _, _, rfl, rfl, nofun, by decide, .clr 0 0 0x40800000 rfl, by decide⟩
theorem witness_EnvelopeExecution_unset : ∃ s : State, ∃ c q rest kc, (s.core c).envQ = q :: rest ∧ s.released q.after = true ∧ s.upset ≠ .envelope ∧ q.ticket ≠ 0 ∧
    EnvUnset (fun j => ((s.core c).envSlot j).env) q.op ∧ s.crew? q.crew = some kc ∧ kc.life ≠ .retired :=
  ⟨envState (.max 2 1 0), 0, _, _, _, rfl, rfl, nofun, by decide, .max 2 1 0 (.inr rfl), rfl, nofun⟩
theorem witness_EnvelopeExecution_eval : ∃ s : State, ∃ c q rest a ls e x t d w, (s.core c).envQ = q :: rest ∧ s.released q.after = true ∧ s.upset ≠ .envelope ∧ q.ticket ≠ 0 ∧
    q.op = .eval a ls ∧ ((s.core c).envSlot a).env = some e ∧ s.party? q.party = some x ∧ ls = [(t, d, w)] ∧ t < 64 ∧ bitOf x.left t = false ∧
    ∀ b k, d = .vec b k → b + k ≤ 1024 :=
  ⟨envState (.eval 1 [(0, .vec 8 1, 0x3F800000)]), 0, _, _, 1, _, _, party16, _, _, _, rfl, rfl, nofun, by decide, rfl, rfl, rfl, rfl, by decide, rfl, by rintro b k h; cases h; decide⟩
/-- The cases of R247: a NaN; 5 and −1 outside [0, 4]; 4, the last point inside, on the last piece. -/
theorem witness_evalAt : (val32 0x7FC00000).isNan = true ∧ (val32 0x40A00000).isNan = false ∧ lt32 0x40800000 0x40A00000 = true ∧ lt32 0xBF800000 0 = true ∧
    lt32 0x40800000 0 = false ∧ lt32 0x40800000 0x40800000 = false := by decide
/-- R247: at x = 1 the line 2x + 1 gives 3; at the last point 4 it gives 9; outside −∞; for a NaN the default NaN. -/
theorem test_eval_of_a_line :
    let e : Env := ⟨0, 0x40800000, [⟨0x40000000, 0x3F800000, 0⟩]⟩
    e.evalAt 0x3F800000 = 0x40400000 ∧ e.evalAt 0x40800000 = 0x41100000 ∧ e.evalAt 0x40A00000 = 0xFF800000 ∧ e.evalAt 0x7F800001 = 0x7FC00000 := by
  refine ⟨rfl, rfl, rfl, rfl⟩
/-- R239, R240: the envelope of the lines x and 4 − x on [0, 4] has two pieces, which meet at 2. -/
theorem test_hull_of_two_lines :
    canon [(0x3F800000, 0), (0xBF800000, 0x40800000)] 0 0x40800000 = [⟨0xBF800000, 0x40800000, 0⟩, ⟨0x3F800000, 0, 0x40000000⟩] := by rfl

/-- The machine with one command at the head of context 0. -/
def mxState (op : MxOp) : State := cored { core4 with mx := [(0, { MxCtx.reset with owner := some 2, queue := [⟨1, 2, MxBind.reset, op, 0⟩] }), (1, { MxCtx.reset with owner := some 2 })] } party16
theorem witness_MatrixCommandsExecute : ∃ s : State, ∃ c x q rest, ((s.core c).ctx x).queue = q :: rest ∧ q.needs ≤ (s.core c).doneOf (5 - x) ∧ s.upset = .none ∧ x ≤ 1 ∧
    ∃ a b, q.op = .mma a b ∧ ((s.core c).tile a).poison = false ∧ ((s.core c).tile b).poison = false := ⟨mxState (.mma 0 3), 0, 0, _, _, rfl, by decide, rfl, by decide, 0, 3, rfl, rfl, rfl⟩
theorem witness_MatrixCommandsExecute_others : (∃ s : State, ∃ q rest p w, ((s.core 0).ctx 0).queue = q :: rest ∧ q.op = .sm p w ∧ p ≤ 62) ∧
    (∃ s : State, ∃ q rest p lanes src row flag y, ((s.core 0).ctx 0).queue = q :: rest ∧ q.op = .rd p lanes src row flag ∧ s.party? p = some y ∧ lanes = [(0, .vec 8 1, 127)]) ∧
    ∃ s : State, ∃ q rest, ((s.core 0).ctx 0).queue = q :: rest ∧ q.op = .clr :=
  ⟨⟨mxState (.sm 62 0x3F800000), _, _, _, _, rfl, rfl, by decide⟩, ⟨mxState (.rd 1 [(0, .vec 8 1, 127)] 0 5 1), _, _, _, _, _, _, _, party16, rfl, rfl, rfl, rfl⟩,
    mxState .clr, _, _, rfl, rfl⟩
theorem witness_FollowOnIssue : ∃ s : State, ∃ c x q rest f other roleB, ((s.core c).ctx x).queue = q :: rest ∧ q.op = .follow f other roleB true false ∧
    ((s.core c).tile other).st = .ready := ⟨mxState (.follow 1 0 true true false), 0, 0, _, _, _, _, _, rfl, rfl, rfl⟩
theorem witness_integer_group : ∃ b : MxBind, b.layout = 0 ∧ b.tyA = 0 ∧ b.tyB = 0 ∧ b.scA = false ∧ b.scB = false ∧ b.unsA ≠ b.unsB :=
  ⟨⟨0, 0, 0, true, false, false, false⟩, rfl, rfl, rfl, rfl, rfl, nofun⟩
/-- R63: two elements 3·4 and 5·(−1) of one group sum to 7. -/
theorem test_group_sum :
    let ta : Tile := { Tile.reset with data := [(0, 3), (1, 5)] }
    let tb : Tile := { Tile.reset with data := [(0, 4), (1, 0xFF)] }
    groupSum MxBind.reset ta tb 0 0 0 = .fin false 7 1 := by rfl

/-- The machine with one Porter command on context 0, and bytes at 0x2000. -/
def cpState (op : CpOp) (pos : Nat) : State :=
  let s := cored { core4 with porter := [(0, [⟨1, 2, 1, true, 1, 0x1000, op, pos, []⟩])] } party16
  { s with mem := { s.mem with bytes := [(0x2000, 7)] } }
theorem witness_PorterMovesChunks : ∃ s : State, ∃ c ctx q rest src len, sget [] (s.core c).porter ctx = q :: rest ∧ (∀ r ∈ q.after, r ∉ s.openWrites q.party) ∧
    s.throttled .porter q.fe = false ∧ s.pkg.injarm.getLsbD 0 = false ∧ q.op = .mem src len ∧
    EngMaps s ⟨q.fe, c / 4, q.user⟩ (src + 0) 0x2000 8 ∧ EngMapsOut s ⟨q.fe, c / 4, q.user⟩ (q.addr + 0) 0x1000 8 ∧ (0x2000 + 8 ≤ 0x1000 ∨ 0x1000 + 8 ≤ 0x2000) ∧ len = 8 ∧ q.pos = 0 := by
  refine ⟨cpState (.mem 0x2000 8) 0, 0, 0, _, _, _, _, rfl, nofun, rfl, rfl, rfl, ?_, ?_, by decide, rfl, rfl⟩
  · intro k hk; interval_cases k <;> exact ⟨rfl, rfl, rfl, rfl⟩
  · intro k hk; interval_cases k <;> exact ⟨rfl, rfl⟩
/-- The last row of a fill, 127, at stride 0. -/
theorem witness_PorterMovesChunks_fill : ∃ s : State, ∃ c ctx q rest slot fmt stride, ∃ pr : Nat → Nat, sget [] (s.core c).porter ctx = q :: rest ∧
    (∀ r ∈ q.after, r ∉ s.openWrites q.party) ∧ s.throttled .porter q.fe = false ∧ s.pkg.injarm.getLsbD 0 = false ∧ q.op = .fill slot fmt false stride none ∧ fmt ≤ 2 ∧ q.pos < 128 ∧
    ∀ r, q.pos ≤ r → r < q.pos + min (128 - q.pos) 32 → EngMaps s ⟨q.fe, c / 4, q.user⟩ (q.addr + BitVec.ofNat 64 (stride * r)) (pr r) 128 := by
  refine ⟨cpState (.fill 2 0 false 0 none) 127, 0, 0, _, _, 2, 0, 0, fun _ => 0x1000, rfl, nofun, rfl, rfl, rfl, by decide, by decide, ?_⟩
  intro r h1 h2
  obtain rfl : r = 127 := by have h1 : 127 ≤ r := h1; have h2 : r < 127 + min (128 - 127) 32 := h2; omega
  intro k hk; interval_cases k <;> exact ⟨rfl, rfl, rfl, rfl⟩
/-- A bank engine with a list at 0x1000 that starts with BCLR of accumulators 2040 to 2047. -/
def bankState (run : Bool) (bytes : List (Nat × Byte)) : State :=
  let s := cored Core.reset party16
  let l : BankList := ⟨0, 2, 1, true, 1, 0x1000, []⟩
  { s with banks := [(0, if run then ⟨[], some l, 0, [], [], []⟩ else ⟨[l], none, 0, [], [], []⟩)], mem := { s.mem with bytes := bytes } }
theorem witness_BankListStart : ∃ s : State, ∃ e l ls, (s.bank e).run = none ∧ (s.bank e).queue = l :: ls ∧ s.released l.after = true :=
  ⟨bankState false [], 0, _, _, rfl, rfl, rfl⟩
theorem witness_BankCommands : ∃ s : State, ∃ e l op ps, BankAt s e l op ps ∧ op = .bclr 2040 8 := by
  refine ⟨bankState true [(0x1000, 3), (0x1004, 0xF8), (0x1005, 0x87)], 0, _, .bclr 2040 8, [], ⟨rfl, by decide, ⟨_, rfl, rfl⟩, rfl, rfl, ?_⟩, rfl⟩
  intro t _ u hu; exact absurd hu nofun
/-- Each other command of R226 in its words, with operands at the ends of their ranges. -/
theorem witness_bank_words : bankDecode (BitVec.ofNat 32 (1 + 256 * 2048)) 0 2 = some (.bvec 2048 2) ∧ bankDecode 4 (BitVec.ofNat 32 (2047 + 4096)) 4 = some (.bout false 2047 1 4) ∧
    bankDecode (BitVec.ofNat 32 (2 + 256 + 4096 * (128 * 16))) (BitVec.ofNat 32 (4096 * 2048)) 64 = some (.bmv true 2048 0 2048 64) ∧ bankDecode 0 0 0 = some .bend ∧
    bankDecode 5 0 0 = some .bsync ∧ bankDecode 3 (BitVec.ofNat 32 (2041 + 4096 * 8)) 0 = none := by refine ⟨rfl, rfl, rfl, rfl, rfl, rfl⟩

/-! ### Traps, control registers and lanes -/

/-- The last code address of the space whose next packet has a number: slot 4 of a line, and slot 3. -/
theorem witness_SoftwareTraps_code_address : CodeAddress 0x4004 ∧ CodeAddress 0x4003 ∧ (0x4004 : DWord).toNat + 64 < 2 ^ 64 ∧ nextPacket 0x4004 = 0x4040 :=
  ⟨⟨rfl, by decide⟩, ⟨rfl, by decide⟩, by decide, rfl⟩
theorem witness_SoftwareTraps : ∃ s p x, Issuing s p x ∧ ∃ i, ∃ c : Nat, ∃ v : Word, (∃ m b, i = Instr.trap m b ∧ c = 0x09 ∧ v = ((x.srcZ b).setWidth 32 : Word)) ∨
    (∃ m b, i = Instr.brk m b ∧ c = 0x0A ∧ v = b.signExtend 32) :=
  ⟨_, _, party16, issuing_demo _, _, _, _, .inr ⟨plain, 0x800, rfl, rfl, rfl⟩⟩
/-- A trap request at 0x4000. -/
def asked : TrapReq := ⟨0x09, false, 0x4000, 0xFFFF, 0xFFFF, [], 0, none⟩
/-- A shadow of one level whose threads all stand at 0x4000. -/
def shade (depth entries : Nat) : Shadow := ⟨(List.range 16).map (fun t => (t, 0x4000)), 0, 0, if depth = 0 then [] else [(15, depth)], 0, entries, 0, none⟩
/-- The machine without a handler. -/
def bare (x : Party) : State := { demo x with lods := [(1, Lodging.reset)] }
theorem witness_TrapEntry : ∃ s : State, ∃ p x, s.party? p = some x ∧ x.busyFlags = false ∧ x.waitReqs = 0 ∧ (s.lod x.fe).tvec ≠ 0 ∧ x.shadow.length < 2 ∧ x.shadow ≠ [] :=
  ⟨demo { party16 with shadow := [shade 0 0] }, 1, _, rfl, rfl, rfl, by decide, by decide, nofun⟩
theorem witness_TrapEntry_waits : (∃ s : State, ∃ p x, s.party? p = some x ∧ x.busyFlags = true) ∧ ∃ s : State, ∃ p x, s.party? p = some x ∧ x.busyFlags = false ∧ x.waitReqs ≠ 0 :=
  ⟨⟨demo { party16 with flags := [(11, 1)] }, 1, _, rfl, rfl⟩, demo { party16 with waitReqs := 1 }, 1, _, rfl, rfl, nofun⟩
theorem witness_TrapEntry_halts : (∃ s : State, ∃ p x, s.party? p = some x ∧ x.busyFlags = false ∧ x.waitReqs = 0 ∧ (s.lod x.fe).tvec = 0) ∧
    ∃ s : State, ∃ p x, s.party? p = some x ∧ x.busyFlags = false ∧ x.waitReqs = 0 ∧ (s.lod x.fe).tvec ≠ 0 ∧ 2 ≤ x.shadow.length :=
  ⟨⟨bare party16, 1, party16, rfl, rfl, rfl, rfl⟩, demo { party16 with shadow := [shade 0 0, shade 0 0] }, 1, _, rfl, rfl, rfl, by decide, by decide⟩
theorem witness_TrapEntry_pending : (∃ s : State, ∃ p x r, s.party? p = some x ∧ x.pend = some r ∧ x.latch = none ∧ x.busyFlags = false ∧ x.waitReqs = 0) ∧
    ∃ s : State, ∃ p x r, s.party? p = some x ∧ x.pend = some r ∧ x.busyFlags = true :=
  ⟨⟨demo { party16 with pend := some asked }, 1, _, asked, rfl, rfl, rfl, rfl, rfl⟩, demo { party16 with pend := some asked, flags := [(0, 1)] }, 1, _, asked, rfl, rfl, rfl⟩
/-- A party in a handler that returns to 0x4010. -/
def handling (depth entries : Nat) (tepc : DWord) : Party :=
  { party16 with csr := { party16.csr with level := 1, tepc := tepc, tmprev := 0xFFFF }, shadow := [shade depth entries] }
theorem witness_ReturnFromTrap : ∃ s p x e es, Issuing s p x ∧ x.csr.level ≠ 0 ∧ x.shadow = e :: es ∧
    (x.csr.tepc.toNat / 8 % 2 = 0 ∧ x.csr.tepc.toNat / 16 % 4 ≠ 3 ∧ ¬ (x.csr.tcause.toNat % 64 = 0x3F ∧ x.csr.tinfo.toNat % 2 = 1)) ∧ x.divs.length = e.entries ∧
    (∀ t ∈ threadsOf x.width x.alive, (sget [] x.calls t).length = sget 0 e.callDepth t) ∧ x.csr.tmprev &&& x.alive ≠ 0 :=
  ⟨_, _, handling 0 0 0x4024, _, _, issuing_demo _, by decide, rfl, by decide, rfl, by decide, by decide⟩
theorem witness_ReturnFromTrap_refused : (∃ s p x, Issuing s p x ∧ x.csr.level = 0) ∧
    (∃ s p x e es, Issuing s p x ∧ x.csr.level ≠ 0 ∧ x.shadow = e :: es ∧ x.csr.tepc.toNat / 16 % 4 = 3) ∧
    (∃ s p x e es, Issuing s p x ∧ x.csr.level ≠ 0 ∧ x.shadow = e :: es ∧ (x.csr.tepc.toNat / 8 % 2 = 0 ∧ x.csr.tepc.toNat / 16 % 4 ≠ 3 ∧
      x.csr.tcause.toNat % 64 ≠ 0x3F) ∧ x.divs.length ≠ e.entries) ∧
    ∃ s p x e es, Issuing s p x ∧ x.csr.level ≠ 0 ∧ x.shadow = e :: es ∧ (x.csr.tepc.toNat / 8 % 2 = 0 ∧ x.csr.tepc.toNat / 16 % 4 ≠ 3 ∧
      x.csr.tcause.toNat % 64 ≠ 0x3F) ∧ x.divs.length = e.entries ∧ ∃ t ∈ threadsOf x.width x.alive, (sget [] x.calls t).length ≠ sget 0 e.callDepth t :=
  ⟨⟨_, _, party16, issuing_demo _, rfl⟩, ⟨_, _, handling 0 0 0x4030, _, _, issuing_demo _, by decide, rfl, by decide⟩,
    ⟨_, _, handling 0 1 0x4000, _, _, issuing_demo _, by decide, rfl, by decide, by decide⟩,
    _, _, handling 1 0 0x4000, _, _, issuing_demo _, by decide, rfl, by decide, rfl, 15, by decide, by decide⟩

/-- Reads: at the register's level, below it, narrow and wide. -/
theorem witness_RegisterMap : ∃ s p x m d a, Issuing s p x ∧ (csrRow a).rd ≤ x.csr.level.toNat ∧ m.pre = none ∧ Within x m [(d, if (csrRow a).wide then 2 else 1)] ∧ a = .cyc :=
  ⟨_, _, party16, plain, .v 62, _, issuing_demo _, by decide, rfl, within_of rfl, rfl⟩
theorem witness_RegisterMap_read_below : ∃ s p x a, Issuing s p x ∧ x.csr.level.toNat < (csrRow a).rd := ⟨_, _, party16, .tvec, issuing_demo _, by decide⟩
/-- Writes: below the level; of a register that nothing writes; of a value the register's table forbids; of one it admits. -/
theorem witness_RegisterMap_writes : (∃ i a d f s p x, CsrChange i a d f ∧ Issuing s p x ∧ ¬ MayWrite a x.csr.level.toNat ∧ a = .scopepol) ∧
    (∃ i a d f s p x, CsrChange i a d f ∧ Issuing s p x ∧ ¬ MayWrite a x.csr.level.toNat ∧ a = .cyc) ∧
    (∃ i a d f s p x, CsrChange i a d f ∧ Issuing s p x ∧ MayWrite a x.csr.level.toNat ∧ ¬ (csrRow a).legal (f x (s.csrRead x x.csr 0 a) &&& (csrRow a).bits)) ∧
    ∃ i a d f s p x, CsrChange i a d f ∧ Issuing s p x ∧ MayWrite a x.csr.level.toNat ∧ (csrRow a).legal (f x (s.csrRead x x.csr 0 a) &&& (csrRow a).bits) ∧ d = some 4 := by
  refine ⟨⟨_, _, _, _, demo party16, 1, party16, .wr plain .scopepol (.lit 1), issuing_demo _, ?_, rfl⟩, ⟨_, _, _, _, demo party16, 1, party16, .wr plain .cyc (.lit 1), issuing_demo _, ?_, rfl⟩,
    ⟨_, _, _, _, demo party16, 1, party16, .wr plain .fpctl (.lit 7), issuing_demo _, ⟨0, rfl, by decide⟩, fun h : _ ∧ _ => absurd h.2.1 (by decide)⟩,
    _, _, _, _, demo party16, 1, party16, .set plain 4 .fpctl (.lit 2), issuing_demo _, ⟨0, rfl, by decide⟩, ⟨by decide, by decide, by decide⟩, rfl⟩
  · rintro ⟨l, h, k⟩; cases h; exact absurd k (by decide)
  · rintro ⟨l, h, -⟩; cases h
theorem witness_RegisterMap_widths : ∀ w, w = 16 ∨ w = 32 ∨ w = 64 → ∃ x : Party, x.width = w ∧ (x.width = 16 ∨ x.width = 32 ∨ x.width = 64) :=
  fun w h => ⟨{ party16 with width := w }, rfl, h⟩
/-- A window write of thread 0 that has been acknowledged, and one that is open. -/
def windowed (openNow : Bool) : State :=
  let x := { party16 with winWrites := [(0, 1)] }
  let s := { land x with mem := { (land x).mem with windows := [(1, some ⟨1, 2, 0, 4096, true, some (0, 0), 0⟩)] } }
  if openNow then { s with reqs := [(4, { req (.store 4 1) 4 with phase := .unacked, held := false, win := true })] } else s
theorem witness_ClockAndWindowFence : ∃ s p x w win c tl, Issuing s p x ∧ s.sfuOpen p = false ∧ (x.csr.level ≠ 0 ∨ x.fpEnabled = 0) ∧
    s.mbxStOpen p (threadsOf x.width x.m0) = false ∧ s.winOpen p (threadsOf x.width x.m0) = false ∧ (∀ e ∈ x.winWrites, e.1 ∈ threadsOf x.width x.m0 → e.2 = w) ∧
    (∃ e ∈ x.winWrites, e.1 ∈ threadsOf x.width x.m0) ∧ s.window? w = some win ∧ win.tl = some (c, tl) :=
  ⟨windowed false, 1, _, 1, _, 0, 0, ⟨rfl, rfl⟩, rfl, .inr (by decide), rfl, rfl, by decide, by decide, rfl, rfl⟩
theorem witness_ClockAndWindowFence_open : ∃ s p x, Issuing s p x ∧ s.sfuOpen p = false ∧ (x.csr.level ≠ 0 ∨ x.fpEnabled = 0) ∧
    s.mbxStOpen p (threadsOf x.width x.m0) = false ∧ s.winOpen p (threadsOf x.width x.m0) = true := ⟨windowed true, 1, _, ⟨rfl, rfl⟩, rfl, .inr (by decide), rfl, rfl⟩
theorem witness_ClockAndWindowFence_clk : ∃ s p x m d, Issuing s p x ∧ m.pre = none ∧ Within x m [(d, 2)] := ⟨_, _, party16, plain, .v 62, issuing_demo _, rfl, within_of rfl⟩

/-- A party before its clause at slot 0 of the line 0x4000, whose header names wait mask bit 0. -/
def entering (flags : Sparse Nat) : State :=
  let x := { party16 with entered := false, tpc := (List.range 16).map (fun t => (t, (0x4000 : DWord))), pos := { party16.pos with words := none, m0 := 0 }, flags := flags }
  let s := { land x with cur := none }
  { s with mem := { s.mem with bytes := [(0x4000, 1)] } }
theorem witness_LaneSteps_clause : ∃ s : State, ∃ p x q pa, s.party? p = some x ∧ x.place = some q ∧ x.free = true ∧ x.atClause = true ∧ s.fetchLine x q.pkt = (s, .ok pa) ∧
    (∀ k < 12, (s.loadN pa 4) / 2 ^ k % 2 = 1 → x.flagSet k = false) ∧ (∀ f ∈ (s.core (coreNo x)).faults, f.party ≠ p) :=
  ⟨entering [(1, 1)], 1, _, _, 0x4000, rfl, rfl, rfl, rfl, rfl, by decide, nofun⟩
theorem witness_LaneSteps_clause_waits : ∃ s : State, ∃ p x q pa, s.party? p = some x ∧ x.place = some q ∧ x.free = true ∧ x.atClause = true ∧ s.fetchLine x q.pkt = (s, .ok pa) ∧
    ∃ k < 12, (s.loadN pa 4) / 2 ^ k % 2 = 1 ∧ x.flagSet k = true :=
  ⟨entering [(0, 1)], 1, _, _, 0x4000, rfl, rfl, rfl, rfl, rfl, 0, by decide, rfl, rfl⟩
/-- Two ready parties of a lane, the second the older. -/
def two : State :=
  let x := { party16 with tpc := (List.range 16).map (fun t => (t, (0x4000 : DWord))) }
  { demo { x with age := 7 } with cur := none, parties := [(1, { x with age := 7 }), (4, { x with age := 5, rslot := 1 })] }
theorem witness_LaneSteps_pick : ∃ s : State, ∃ lane p x, s.cur = none ∧ (s.parties.map (fun e => e.1)).Nodup ∧ s.party? p = some x ∧ x.lane = lane ∧ x.ready = true ∧ x.giveWay = false ∧
    (∀ e ∈ s.parties, e.2.lane = lane → e.2.life = .resident → e.2.park = .none) ∧
    (∀ e ∈ s.parties, e.2.lane = lane → e.2.ready = true → e.1 ≠ p → e.2.giveWay = false ∧ (x.age < e.2.age ∨ x.age = e.2.age ∧ x.rslot < e.2.rslot)) :=
  ⟨two, 0, 4, _, rfl, by decide, rfl, rfl, rfl, rfl, by decide, by decide⟩
theorem witness_LaneSteps_nap : ∃ s : State, ∃ p x ls n a m, s.party? p = some x ∧ x.park = .nap ls (some n) a m ∧ x.life = .resident ∧ n ≤ (s.now - x.parkedAt) / s.cycle :=
  ⟨{ demo { party16 with park := .nap [] (some 5) 0x4000 1 } with now := 5 }, 1, _, _, _, _, _, rfl, rfl, rfl, by decide⟩
theorem witness_LaneSteps_watchdog : ∃ s : State, ∃ p x inst ph, s.party? p = some x ∧ x.park = .barrier inst ph ∧ x.life = .resident ∧
    2 * (s.lod x.fe).watchdog + x.parkedAt < s.now :=
  ⟨{ demo { party16 with park := .barrier 23 0 } with now := 2000000001 }, 1, _, _, _, rfl, rfl, rfl, by decide⟩
theorem witness_LaneSteps_halt : ∃ s : State, ∃ p x, s.party? p = some x ∧ x.life = .resident ∧ s.cur ≠ some p ∧ x.waitReqs = 0 :=
  ⟨{ demo party16 with cur := none }, 1, party16, rfl, rfl, nofun, rfl⟩

/-! ### Grids and crews -/

/-- Lodging 1 with a grid from its stream and one from a launch. -/
def gridded (deferred : List GridRec) : State :=
  (land party16).onLod 1 (fun l => { l with queue := [⟨⟨0x4000, 0, 300, 16, 64, 2, false, 5, 0⟩, none⟩], launchQ := [⟨⟨0x4000, 0, 1, 16, 64, 0, false, 5, 0⟩, none⟩], deferred := deferred })
theorem witness_GridsFromQueueToEnd : ∃ s : State, ∃ fe g l', (s.lod fe).st = .running ∧ s.openLaunch fe = none ∧ (s.lod fe).nextGrid = some (g, l') ∧ 1 ≤ l'.nq ∧ l'.qb + l'.nq ≤ 128 ∧
    g.desc.count = 300 := ⟨gridded [], 1, ⟨⟨0x4000, 0, 300, 16, 64, 2, false, 5, 0⟩, none⟩, { (gridded []).lod 1 with queue := [], lastSrc := [(5, 1)] }, rfl, rfl, rfl, Nat.le_of_ble_eq_true rfl, Nat.le_of_ble_eq_true rfl, rfl⟩
theorem witness_GridsFromQueueToEnd_deferred : ∃ s : State, ∃ fe g gs, (s.lod fe).deferred = g :: gs ∧ (s.lod fe).launchQ.length < 4096 :=
  ⟨gridded [⟨⟨0x4000, 0, 1, 16, 64, 0, false, 5, 0⟩, none⟩], 1, _, _, rfl, by decide⟩
/-- A launch whose parties have retired, and its packet. -/
def ended : State := { demo party16 with
  launches := [(3, ⟨1, ⟨0x4000, 0, 1, 16, 64, 1, false, 0, 0⟩, some 5, [], 0, false, [], false⟩)], packets := [(5, ⟨1, 0, [], .running, none, none⟩)] }
theorem witness_GridsFromQueueToEnd_end : ∃ s : State, ∃ g l k q, sfind s.launches g = some l ∧ l.alive = 0 ∧ l.unplaced = [] ∧
    (∀ e ∈ s.reqs, e.2.openWrite = true → ∀ k ∈ s.crews, k.2.grid = some g → e.2.party ∉ k.2.parties) ∧ l.packet = some k ∧ sfind s.packets k = some q :=
  ⟨ended, 3, _, 5, ⟨1, 0, [], .running, none, none⟩, rfl, rfl, rfl, fun _ h => absurd h List.not_mem_nil, rfl, rfl⟩
/-- A crew of one party that waits for a core. -/
def waitingCrew (life : Life) : State :=
  let s := land { party16 with life := .pending }
  { s with cur := none, crews := [(2, ⟨1, some 3, 0, none, [1], life, false, 0, false, 0, 0⟩)] }
theorem witness_CrewsComeToTheirCores : ∃ s : State, ∃ crew k c, s.crew? crew = some k ∧ (s.lod k.fe).st = .running ∧ s.coreFor k = some c ∧ k.parties.Nodup ∧
    k.life = .pending ∧ k.gang = false ∧ (fillLanes (s.crewWords k) 8 (s.crewAlive k).length (s.rooms c))[0]? = some 0 :=
  ⟨waitingCrew .pending, 2, _, 0, rfl, rfl, by decide, by decide, rfl, rfl, by decide⟩
theorem witness_CrewsComeToTheirCores_restored : ∃ s : State, ∃ crew k c, s.crew? crew = some k ∧ (s.lod k.fe).st = .running ∧ s.coreFor k = some c ∧ k.parties.Nodup ∧
    k.life = .evicted := ⟨waitingCrew .evicted, 2, _, 0, rfl, rfl, by decide, by decide, rfl⟩
theorem witness_CrewsComeToTheirCores_tokens : ∃ s : State, ∃ c since, (s.core c).tokens = true ∧ (s.core c).idleSince = some since ∧ since + 20000 ≤ s.now ∧
    (∀ e ∈ (s.core c).mx, e.2.owner = none) ∧ (∀ e ∈ s.crews, e.2.core = some c → e.2.life ≠ .resident) :=
  ⟨{ demo party16 with cores := [(511, { Core.reset with tokens := true, idleSince := some 1 })], now := 20001 }, 511, 1, rfl, rfl, by decide, nofun, nofun⟩
theorem witness_CrewsComeToTheirCores_boundary : ∃ s : State, (s.pkg.periods + 1) * 20000 ≤ s.now ∧ s.betweenGroups = true ∧ (∀ e ∈ s.crews, e.2.life = .resident ∨ e.2.life = .retired) ∧
    (∀ e ∈ s.crews, s.crew? e.1 = some e.2) ∧ ∃ p x ls n a m, s.party? p = some x ∧ x.park = .nap ls n a m :=
  ⟨{ crewed { party16 with park := .nap [] none 0x4000 1 } with cur := none, now := 20000 }, by decide, rfl, by decide, by decide, 1, _, _, _, _, _, rfl, rfl⟩
/-! ### The host and the streams -/

/-- Doorbells: the last unit of the ring, its end, and a place between units; ring sizes of 4 KiB and 64 MiB; caps of 1,200 W, 3,200 W and either side. -/
theorem witness_HostWrites : (∃ s : State, ∃ fe, ∃ tail : DWord, fe ≤ 31 ∧ tail.toNat % 64 = 0 ∧ tail.toNat < (s.lod fe).stream.ringSize ∧ tail.toNat = 4032) ∧
    (∃ s : State, ∃ fe, ∃ tail : DWord, (s.lod fe).stream.ringSize ≤ tail.toNat ∧ tail.toNat % 64 = 0 ∧ tail.toNat = 4096) ∧ (65 : DWord).toNat % 64 ≠ 0 ∧
    (∃ v : DWord, ∃ k, v.toNat % 2 ^ 32 = 2 ^ k ∧ k = 12) ∧ (∃ v : DWord, ∃ k, v.toNat % 2 ^ 32 = 2 ^ k ∧ k = 26) ∧ (0xFFFFF000 : DWord).toNat % 4096 = 0 ∧
    (0x1FF8 % 8 = 0 ∧ 0x1FF8 < 0x2000) ∧ (0x101F8 % 8 = 0 ∧ 0x101F8 < 0x10200) ∧ (1200 ≤ (1200 : Word).toNat ∧ (3200 : Word).toNat ≤ 3200) ∧
    ((1199 : Word).toNat < 1200 ∧ 3200 < (3201 : Word).toNat) :=
  ⟨⟨(land party16).onLod 31 (fun l => { l with stream := { Stream.reset with ringSize := 4096 } }), 31, 4032, by decide, rfl, by decide, rfl⟩,
    ⟨(land party16).onLod 31 (fun l => { l with stream := { Stream.reset with ringSize := 4096 } }), 31, 4096, by decide, rfl, rfl⟩, by decide,
    ⟨0x1000, 12, rfl, rfl⟩, ⟨0x4000000, 26, rfl, rfl⟩, rfl, by decide, by decide, by decide, by decide⟩
theorem witness_HostWrites_idle : ∃ s : State, ∃ fe, fe ≤ 31 ∧ (s.lod fe).stream.status = 0 := ⟨State.reset, 31, by decide, rfl⟩
theorem witness_StatusResume : ∃ s : State, ∃ fe, fe ≤ 31 ∧ (s.lod fe).stream.failed = true ∧ (s.lod fe).stream.levels = [] ∧ (s.lod fe).stream.looping = none ∧
    (s.lod fe).stream.skip ≠ 0 :=
  ⟨(land party16).onLod 1 (fun l => { l with stream := { Stream.reset with failed := true, skip := 64, ringSize := 4096 } }), 1, by decide, rfl, rfl, rfl, by decide⟩
theorem witness_PowerBudgetsAndPorts : (∃ s : State, (s.pkg.budgetPeriods + 1) * 20000 ≤ s.now) ∧ (∃ s : State, 127 ∉ s.pkg.portsDown) ∧ (127 : Nat) ≤ 127 ∧
    (∃ s : State, s.pkg.lowering = true ∧ s.pkg.cap = 3200) :=
  ⟨⟨{ State.reset with now := 20000 }, by decide⟩, ⟨State.reset, nofun⟩, by decide, { State.reset with pkg := { Package.reset with lowering := true } }, rfl, rfl⟩

/-- Lodging 1 at its stream, with bytes in memory, packets and nothing at issue. -/
def streaming (st : Stream) (bytes : List (Nat × Byte)) (ps : Sparse Packet) : State :=
  let s := (land party16).onLod 1 (fun l => { l with stream := st })
  { s with cur := none, packets := ps, mem := { s.mem with bytes := bytes } }
/-- A ring of 4 KiB at 0x3000. -/
def ring (head tail : Nat) : Stream := { Stream.reset with ringBase := 0x3000, ringSize := 4096, head := head, tail := tail }
/-- The bytes of a packet from those that are not 0. -/
def packetBytes (n : Nat) (bs : List (Nat × Byte)) : List Byte := (List.range n).map (fun k => sget 0 bs k)
/-- A packet whose header and body are good starts: without wait and predicate; with a wait; with a predicate. Its unit is the last of the ring. -/
theorem witness_PacketsStart : ∃ s : State, ∃ fe h bs, ∃ st : Stream, (s.lod fe).stream = st ∧ (s.lod fe).st = .running ∧ st.failed = false ∧ st.cur = none ∧ st.levels = [] ∧
    st.looping = none ∧ st.avail ≠ 0 ∧ s.unit fe (st.unitAt 0) = some h ∧ 64 * unitsOf (numOf h) ≤ st.avail ∧
    s.units fe ((List.range (unitsOf (numOf h))).map (fun i => st.unitAt (64 * i))) = some bs ∧ packetCode (numOf bs) = none ∧
    (Packet.flag ⟨fe, st.place, bs, .wait, none, none⟩ 10 = false ∧ Packet.flag ⟨fe, st.place, bs, .wait, none, none⟩ 12 = false) :=
  ⟨streaming (ring 4032 0) [] [], 1, packetBytes 64 [], packetBytes 64 [], ring 4032 0, rfl, rfl, rfl, rfl, rfl, rfl, by decide, by decide, by decide, by decide, by decide, rfl, rfl⟩
theorem witness_PacketsStart_wait : ∃ s : State, ∃ fe h bs, ∃ st : Stream, (s.lod fe).stream = st ∧ s.unit fe (st.unitAt 0) = some h ∧ 64 * unitsOf (numOf h) ≤ st.avail ∧
    s.units fe ((List.range (unitsOf (numOf h))).map (fun i => st.unitAt (64 * i))) = some bs ∧ packetCode (numOf bs) = none ∧
    Packet.flag ⟨fe, st.place, bs, .wait, none, none⟩ 10 = true :=
  ⟨streaming (ring 0 64) [(0x3001, 4)] [], 1, packetBytes 64 [(1, 4)], packetBytes 64 [(1, 4)], ring 0 64, rfl, by decide, by decide, by decide, by decide, rfl⟩
theorem witness_PacketsStart_pred : ∃ s : State, ∃ fe h bs, ∃ st : Stream, (s.lod fe).stream = st ∧ s.unit fe (st.unitAt 0) = some h ∧ 64 * unitsOf (numOf h) ≤ st.avail ∧
    s.units fe ((List.range (unitsOf (numOf h))).map (fun i => st.unitAt (64 * i))) = some bs ∧ packetCode (numOf bs) = none ∧
    Packet.flag ⟨fe, st.place, bs, .wait, none, none⟩ 10 = false ∧ Packet.flag ⟨fe, st.place, bs, .wait, none, none⟩ 12 = true ∧
    s.fePa fe false .plain (Packet.dword ⟨fe, st.place, bs, .wait, none, none⟩ 0x18) = some 0x2000 :=
  ⟨streaming (ring 0 64) [(0x3001, 0x10), (0x3019, 0x20)] [], 1, packetBytes 64 [(1, 0x10), (0x19, 0x20)], packetBytes 64 [(1, 0x10), (0x19, 0x20)], ring 0 64, rfl, by decide, by decide,
    by decide, by decide, rfl, rfl, by decide⟩
/-- A packet of 128 bytes with one unit of room, and one with an opcode that the table does not hold. -/
theorem witness_PacketsStart_fails : (∃ s : State, ∃ fe h, ∃ st : Stream, (s.lod fe).stream = st ∧ st.avail ≠ 0 ∧ s.unit fe (st.unitAt 0) = some h ∧ st.avail < 64 * unitsOf (numOf h)) ∧
    ∃ s : State, ∃ fe h c, ∃ st : Stream, (s.lod fe).stream = st ∧ s.unit fe (st.unitAt 0) = some h ∧ unitsOf (numOf h) = 1 ∧ packetCode (numOf h) = some c ∧ st.avail = 64 :=
  ⟨⟨streaming (ring 0 64) [(0x3001, 1)] [], 1, packetBytes 64 [(1, 1)], ring 0 64, rfl, by decide, by decide, by decide⟩,
    streaming (ring 0 64) [(0x3000, 0x0B)] [], 1, packetBytes 64 [(0, 0x0B)], 0x01, ring 0 64, rfl, by decide, by decide, by decide, rfl⟩
theorem witness_PacketsStart_buffer_ends : ∃ s : State, ∃ fe l ls k, (s.lod fe).st = .running ∧ (s.lod fe).stream.failed = false ∧ (s.lod fe).stream.cur = none ∧
    (s.lod fe).stream.levels = l :: ls ∧ (s.lod fe).stream.looping = none ∧ l.next = l.limit ∧ sfind s.packets l.packet = some k ∧ (∃ c ∈ s.packets, c.2.parent = some l.packet) :=
  ⟨streaming { ring 0 64 with levels := [⟨5, 0x1040, 0x1040⟩] } [] [(5, ⟨1, 0, [], .running, none, none⟩), (6, ⟨1, 0, [], .running, some 5, none⟩)], 1, _, _, ⟨1, 0, [], .running, none, none⟩,
    rfl, rfl, rfl, rfl, rfl, rfl, rfl, _, List.mem_cons_of_mem _ List.mem_cons_self, rfl⟩
theorem witness_PacketsStart_pass_ends : ∀ passes ∈ [1, 2], ∃ s : State, ∃ fe, ∃ l : StreamLoop, (s.lod fe).st = .running ∧ (s.lod fe).stream.failed = false ∧ (s.lod fe).stream.cur = none ∧
    (s.lod fe).stream.levels = [] ∧ (s.lod fe).stream.looping = some l ∧ l.depth = 0 ∧ l.left = 0 ∧ l.passes = passes :=
  fun n _ => ⟨streaming { ring 0 64 with looping := some ⟨5, 0, 0x3000, 1, 0, n⟩ } [] [], 1, _, rfl, rfl, rfl, rfl, rfl, rfl, rfl, rfl⟩

theorem no_wakes_of {s : State} {l : Lodging} {pa : Nat} (h : s.lods = [(1, l)]) (hl : l.mbxWakes = []) : ∀ fe, ∀ w ∈ (s.lod fe).mbxWakes, w.1 ≠ pa := by
  intro fe w hw
  have : (s.lod fe).mbxWakes = [] := by
    simp only [State.lod, h, sget]
    split
    · exact hl
    · rfl
  rw [this] at hw; exact absurd hw List.not_mem_nil
/-- A packet at its wait word 0x2000, or at its signal. -/
def waiter (stage : PktStage) (hi : Byte) (req : Option Nat) : Packet := ⟨1, 0x3000, packetBytes 64 [(1, hi), (9, 0x20), (0x11, 0x20)], stage, none, req⟩
theorem witness_PacketDependences : ∀ full, ∃ s : State, ∃ fe n k pa, (s.lod fe).stream.cur = some n ∧ sfind s.packets n = some k ∧ k.stage = .wait ∧ k.waitReq = none ∧
    (s.lod fe).st = .running ∧ (s.lod fe).stream.failed = false ∧ s.fePa fe true .mailbox (k.dword 0x08) = some pa ∧ s.isFull pa = full ∧ k.flag 12 = false := by
  intro full
  refine ⟨let s := streaming { ring 0 64 with cur := some 5 } [] [(5, waiter .wait 4 none)]; { s with mem := { s.mem with full := if full then [(0x400, true)] else [] } },
    1, 5, waiter .wait 4 none, 0x2000, rfl, rfl, rfl, rfl, rfl, rfl, by cases full <;> decide, by cases full <;> rfl, rfl⟩
theorem witness_PacketDependences_filled : ∃ s : State, ∃ fe n k r q v, (s.lod fe).stream.cur = some n ∧ sfind s.packets n = some k ∧ k.stage = .wait ∧ k.waitReq = some r ∧
    (s.lod fe).st = .running ∧ (s.lod fe).stream.failed = false ∧ sfind s.reqs r = some q ∧ q.phase = .reply v ∧ k.flag 12 = false :=
  ⟨{ streaming { ring 0 64 with cur := some 5 } [] [(5, waiter .wait 4 (some 6))] with reqs := [(6, { req .mbxLd 6 with phase := .reply 9 })] }, 1, 5, waiter .wait 4 (some 6), 6,
    { req .mbxLd 6 with phase := .reply 9 }, 9, rfl, rfl, rfl, rfl, rfl, rfl, rfl, rfl, rfl⟩
theorem witness_PacketDependences_blocked : ∃ s : State, ∃ fe since, (s.lod fe).stream.blockedAt = some since ∧ since + 2000000 ≤ s.now ∧ (s.lod fe).stream.noticed = false :=
  ⟨{ streaming { ring 0 64 with blockedAt := some 1 } [] [] with now := 2000001 }, 1, 1, rfl, by decide, rfl⟩
theorem witness_PacketDependences_signals : (∃ s : State, ∃ n k, sfind s.packets n = some k ∧ k.stage = .complete ∧ k.flag 11 = false ∧ k.flag 15 = true) ∧
    ∃ s : State, ∃ n k pa, sfind s.packets n = some k ∧ k.stage = .complete ∧ k.flag 11 = true ∧ k.waitReq = none ∧
    s.fePa k.fe true .mailbox (k.dword 0x10) = some pa ∧ s.isFull pa = false ∧ s.oldestSt pa = none ∧ (∀ fe, ∀ w ∈ (s.lod fe).mbxWakes, w.1 ≠ pa) := by
  refine ⟨⟨streaming (ring 0 64) [] [(5, waiter .complete 0x80 none)], 5, waiter .complete 0x80 none, rfl, rfl, rfl, rfl⟩,
    streaming (ring 0 64) [] [(5, waiter .complete 8 none)], 5, waiter .complete 8 none, 0x2000, rfl, rfl, rfl, rfl, by decide, rfl, rfl, ?_⟩
  exact no_wakes_of rfl rfl

/-- Packet 5 of lodging 1 is at its body: its opcode, its bytes from 0x30 on, and the bytes of device memory. -/
def bodied (op : Byte) (bs mem : List (Nat × Byte)) : State := streaming { ring 0 64 with cur := some 5 } mem [(5, ⟨1, 0x3000, packetBytes 128 ((0, op) :: bs), .body, none, none⟩)]
def body (op : Byte) (bs : List (Nat × Byte)) : Packet := ⟨1, 0x3000, packetBytes 128 ((0, op) :: bs), .body, none, none⟩
theorem at_body (op : Byte) (bs mem) (h : (body op bs).opcode = op.toNat) : AtBody (bodied op bs mem) 1 5 op.toNat (body op bs) := ⟨rfl, rfl, rfl, rfl, h, rfl⟩
/-- Where the cache of the lodging's first quad holds the page, no table is read, so the tables stand whatever is written. -/
theorem tables_stand {s : State} {fe : Nat} {va : DWord} {n : Nat} {word : Option DWord}
    (h : ∀ a : DWord, (∃ i < n, a = va + BitVec.ofNat 64 i) ∨ word = some a →
      ∃ e, (s.quad (s.lod fe).qb).tlb.find? (fun e => e.fe == fe && e.page == a.toNat % 2 ^ 57 / 2 ^ 16) = some e) : TablesStand s fe va n word := by
  intro u hd hq hn hs hp ha ho hw _
  have key : ∀ a cls, (∃ e, (s.quad (s.lod fe).qb).tlb.find? (fun e => e.fe == fe && e.page == a.toNat % 2 ^ 57 / 2 ^ 16) = some e) →
      u.fePa fe true cls a = s.fePa fe true cls a := by
    rintro a cls ⟨e, he⟩
    have hb : (u.lod fe).qb = (s.lod fe).qb := by simp only [Lodging.qb, (hd fe).1]
    have ht : u.translate fe (u.lod fe).qb a = s.translate fe (s.lod fe).qb a := by
      have : (u.quad (u.lod fe).qb) = s.quad (s.lod fe).qb := by simp only [State.quad, hq, hb]
      simp only [State.translate, this, he]
    have hown : ∀ t, u.owned fe t = s.owned fe t := by
      intro t; simp only [State.owned, State.windowAt, State.ownerOf, State.window?, ho, hw, hn]
    have hk : ∀ t, u.pageKind fe t = s.pageKind fe t := by
      intro t; simp only [State.pageKind, State.windowAt, State.ownerOf, State.window?, ho, hw, hn]
    have hu : ∀ t, u.unmapped t = s.unmapped t := by intro t; simp only [State.unmapped, hn, hs, hp, ha]
    simp only [State.fePa, State.reach, ht, hown, hk, hu]
  exact ⟨fun i hi => key _ _ (h _ (.inl ⟨i, hi, rfl⟩)), fun w hww => key _ _ (h _ (.inr hww))⟩

theorem witness_PlainBodies_at_body : ∀ op ∈ [0x00, 0x05], ∃ s fe n k, AtBody s fe n op k := by
  intro op h
  have h : op = 0x00 ∨ op = 0x05 := by simpa using h
  rcases h with rfl | rfl
  · exact ⟨_, _, _, _, at_body 0x00 [] [] (by decide)⟩
  · exact ⟨_, _, _, _, at_body 0x05 [] [] (by decide)⟩
theorem witness_PlainBodies_grid : (∃ s fe n k d, AtBody s fe n 0x01 k ∧ s.gridDesc fe (k.field 0x40 64) = some d) ∧ ∃ s fe n k, AtBody s fe n 0x01 k ∧ s.gridDesc fe (k.field 0x40 64) = none :=
  ⟨⟨_, _, _, _, ⟨0x4000, 0, 1, 16, 16, 0, false, 0, 0⟩, at_body 0x01 [(0x41, 0x40), (0x50, 1), (0x55, 1)] [] (by decide), by decide⟩,
    _, _, _, _, at_body 0x01 [] [] (by decide), by decide⟩
/-- Four bytes to host memory and from it, and a destination that no page maps. -/
theorem witness_PlainBodies_copy : (∃ s fe n k bs, AtBody s fe n 0x02 k ∧ k.field 0x48 1 % 2 = 0 ∧ s.feTake fe (k.dword 0x30) (k.field 0x40 8) = some (bs, s) ∧ bs = [9, 0, 0, 0]) ∧
    (∃ s fe n k, AtBody s fe n 0x02 k ∧ k.field 0x48 1 % 2 = 1 ∧ s.feWritable fe (k.dword 0x38) (k.field 0x40 8) = true ∧ TablesStand s fe (k.dword 0x38) (k.field 0x40 8) none ∧
      k.field 0x40 8 = 4) ∧
    ∃ s fe n k, AtBody s fe n 0x02 k ∧ k.field 0x48 1 % 2 = 1 ∧ s.feWritable fe (k.dword 0x38) (k.field 0x40 8) = false := by
  refine ⟨⟨_, _, _, _, [9, 0, 0, 0], at_body 0x02 [(0x31, 0x20), (0x40, 4)] [(0x2000, 9)] (by decide), rfl, rfl, rfl⟩,
    ⟨_, _, _, _, at_body 0x02 [(0x39, 0x20), (0x40, 4), (0x48, 1)] [] (by decide), rfl, rfl, tables_stand ?_, rfl⟩,
    _, _, _, _, at_body 0x02 [(0x3A, 0x02), (0x40, 4), (0x48, 1)] [] (by decide), rfl, rfl⟩
  rintro a (⟨i, hi, rfl⟩ | h)
  · have hi : i < 4 := hi
    interval_cases i <;> exact ⟨_, rfl⟩
  · cases h
/-- A buffer at the first and at the second level, and at a third. -/
theorem witness_PlainBodies_levels : ∀ ls ∈ [[], [(⟨4, 0x1040, 0x1080⟩ : StreamLevel)], [⟨4, 0x1040, 0x1080⟩, ⟨3, 0x1140, 0x1180⟩]], ∃ s fe n k, AtBody s fe n 0x03 k ∧
    (s.lod fe).stream.levels = ls :=
  fun ls _ => ⟨streaming { ring 0 64 with cur := some 5, levels := ls } [] [(5, body 3 [])], 1, 5, body 3 [], ⟨rfl, rfl, rfl, rfl, by decide, rfl⟩, rfl⟩
theorem witness_PlainBodies_loop : ∀ l ∈ [none, some (⟨4, 0, 0x3000, 1, 1, 1⟩ : StreamLoop)], ∃ s fe n k, AtBody s fe n 0x04 k ∧ (s.lod fe).stream.looping = l :=
  fun l _ => ⟨streaming { ring 0 64 with cur := some 5, looping := l } [] [(5, body 4 [])], 1, 5, body 4 [], ⟨rfl, rfl, rfl, rfl, by decide, rfl⟩, rfl⟩
/-- Front end 0 with a page of its own. -/
def zeroth (k : Packet) : State :=
  { State.reset with
    lods := [(0, { Lodging.reset with desc := 1 <<< 36 ||| 0xFFFF <<< 15 ||| 128 <<< 7, st := .running, stream := { ring 0 64 with cur := some 5 } })]
    quads := [(0, { Quad.reset with tlb := [⟨0, 0, 0, 0, true, true, true, true, true⟩] })], packets := [(5, k)], mem := { Mem.reset with owner := [(0, .key 0)] } }
theorem witness_PlainBodies_inval : (∃ s fe n k pa, AtBody s fe n 0x06 k ∧ (k.field 0x30 1 = 1 ∧ k.field 0x31 1 = 0) ∧ s.fePa fe true .mailbox (k.dword 0x48) = some pa) ∧
    ∃ s fe n k pa, AtBody s fe n 0x06 k ∧ (k.field 0x30 1 = 2 ∧ fe = 0 ∧ k.field 0x31 1 = 31) ∧ s.fePa fe true .mailbox (k.dword 0x48) = some pa :=
  ⟨⟨_, _, _, _, 0x2000, at_body 0x06 [(0x30, 1), (0x49, 0x20)] [] (by decide), by decide, by decide⟩,
    zeroth { body 6 [(0x30, 2), (0x31, 31), (0x49, 0x20)] with fe := 0 }, 0, 5, { body 6 [(0x30, 2), (0x31, 31), (0x49, 0x20)] with fe := 0 }, 0x2000,
    ⟨rfl, rfl, rfl, rfl, by decide, rfl⟩, by decide, by decide⟩
/-- A sum of one integer over a group of two packages. -/
def collBody : Packet := body 7 [(0x35, 2), (0x39, 0x20), (0x41, 0x21), (0x48, 4), (0x51, 0x22)]
def grouped : State := { streaming { ring 0 64 with cur := some 5 } [] [(5, collBody)] with pkg := { Package.reset with groups := [(0, [0, 1])] } }
theorem witness_PlainBodies_coll : ∃ s fe n k pa bs, AtBody s fe n 0x07 k ∧ s.pkg.number ∈ sget [] s.pkg.groups (k.field 0x30 4) ∧ (k.field 0x34 1 = 0 ∧ k.field 0x35 1 ≤ 2) ∧
    k.field 0x36 2 < (sget [] s.pkg.groups (k.field 0x30 4)).length ∧ k.field 0x48 8 % collSize (k.field 0x35 1) = 0 ∧ k.field 0x50 8 % 8 = 0 ∧
    s.feTake fe (k.dword 0x38) (k.field 0x48 8) = some (bs, s) ∧ s.fePa fe true .mailbox (k.dword 0x50) = some pa ∧ s.feWritable fe (k.dword 0x40) (k.field 0x48 8) = true := by
  exact ⟨grouped, 1, 5, collBody, 0x2200, [0, 0, 0, 0], ⟨rfl, rfl, rfl, rfl, by decide, rfl⟩, by decide, by decide, by decide, by decide, by decide, rfl,
    by decide, by decide⟩
theorem witness_PlainBodies_msg : ∃ s fe n k bs, AtBody s fe n 0x08 k ∧ s.feTake fe (k.dword 0x48) (k.field 0x50 8) = some (bs, s) ∧ bs = [7, 0, 0] :=
  ⟨_, _, _, _, [7, 0, 0], at_body 0x08 [(0x49, 0x20), (0x50, 3)] [(0x2000, 7)] (by decide), rfl, rfl⟩
/-- A lodging of one quad whose agent area lies in page 1, of kind 1, and whose frame pool lies at 0x8000. -/
def settled (used : Nat) : State :=
  let k := body 0x0A [(0x32, 1), (0x38, 1), (0x41, 0x80), (0x48, 1)]
  let s := streaming { ring 0 64 with cur := some 5 } [] [(5, k)]
  let s := s.onLod 1 (fun l => { l with desc := 1 <<< 36 ||| 1 <<< 31 ||| 0xFFFF <<< 15 ||| 1 <<< 7, poolUsed := used })
  s.onQuad 0 (fun q => { q with tlb := [⟨1, 0, 0, 0, true, true, true, true, true⟩, ⟨1, 1, 0x10000, 1, true, false, false, true, false⟩] })
theorem witness_PlainBodies_agents : ∃ s fe n k u v, AtBody s fe n 0x0A k ∧ s.anyAgent fe = false ∧ (s.lod fe).poolUsed = 0 ∧ (k.dword 0x30).toNat % 4096 = 0 ∧ 1 ≤ k.field 0x38 8 ∧
    k.field 0x38 8 ≤ 16777215 ∧ (k.dword 0x40).toNat % 4096 = 0 ∧ 1 ≤ k.field 0x48 8 ∧ k.field 0x48 8 < 2 ^ 32 ∧
    (s.onLod fe (fun l => { l with
      agentBase := k.dword 0x30, hmax := k.field 0x38 8, heads := [], poolBase := k.dword 0x40, poolCount := k.field 0x48 8
      poolHead := k.dword 0x40, poolUsed := 0 })).freeChains fe (k.field 0x38 8) (s.lod fe).quads = some u ∧ State.freeBlocks u fe (k.dword 0x40) (k.field 0x48 8) = some v :=
  ⟨settled 0, 1, 5, body 0x0A [(0x32, 1), (0x38, 1), (0x41, 0x80), (0x48, 1)], _, _, ⟨rfl, rfl, rfl, rfl, by decide, rfl⟩, rfl, rfl, by decide, by decide, by decide, by decide, by decide,
    by decide, rfl, rfl⟩
theorem witness_PlainBodies_agents_refused : ∃ s fe n k, AtBody s fe n 0x0A k ∧ (s.anyAgent fe = true ∨ (s.lod fe).poolUsed ≠ 0) :=
  ⟨settled 1, 1, 5, _, ⟨rfl, rfl, rfl, rfl, by decide, rfl⟩, .inr (by decide)⟩
/-- A linear region of 3 MiB in blocks 8 and 9 of the lodging. -/
def regioned (k : Packet) (rs : List Region) (mem : List (Nat × Byte)) : State :=
  let s := streaming { ring 0 64 with cur := some 5 } mem [(5, k)]
  { s with mem := { s.mem with owner := [(0, .key 1), (8, .key 1), (9, .key 1)], regions := rs } }
theorem witness_RegionPackets : ∃ s fe n k pa, AtBody s fe n 0x09 k ∧ k.field 0x30 8 = 0 ∧ layoutOk (k.dword 0x38) (k.field 0x40 8) = true ∧
    (s.pkg.service ≠ .reduced ∨ (k.dword 0x38).toNat % 4 = 0) ∧ s.regionPlaces fe (k.field 0x40 8) ≠ [] ∧ s.fePa fe true .plain (k.dword 0x48) = some pa ∧ k.field 0x40 8 = 3 * 2 ^ 20 :=
  ⟨regioned (body 9 [(0x42, 0x30), (0x49, 0x20)]) [] [], 1, 5, body 9 [(0x42, 0x30), (0x49, 0x20)], 0x2000, ⟨rfl, rfl, rfl, rfl, by decide, rfl⟩, by decide, by decide, .inl nofun, by decide,
    by decide, by decide⟩
theorem witness_RegionPackets_refused : (∃ s fe n k, AtBody s fe n 0x09 k ∧ k.field 0x30 8 = 0 ∧ layoutOk (k.dword 0x38) (k.field 0x40 8) = false) ∧
    (∃ s fe n k, AtBody s fe n 0x09 k ∧ k.field 0x30 8 = 0 ∧ layoutOk (k.dword 0x38) (k.field 0x40 8) = true ∧ s.regionPlaces fe (k.field 0x40 8) = []) ∧
    ∃ s fe n k, AtBody s fe n 0x09 k ∧ k.field 0x30 8 = 0 ∧ s.pkg.service = .reduced ∧ (k.dword 0x38).toNat % 4 ≠ 0 := by
  refine ⟨⟨_, _, _, _, at_body 9 [] [] (by decide), by decide, by decide⟩, ⟨_, _, _, _, at_body 9 [(0x42, 0x30)] [] (by decide), by decide, by decide, by decide⟩,
    let s := bodied 9 [(0x38, 1), (0x42, 0x10)] []; { s with pkg := { s.pkg with service := .reduced } }, 1, 5, body 9 [(0x38, 1), (0x42, 0x10)],
    ⟨rfl, rfl, rfl, rfl, by decide, rfl⟩, by decide, rfl, by decide⟩
theorem witness_RegionPackets_destroy : (∃ s fe n k pa, AtBody s fe n 0x09 k ∧ k.field 0x30 8 = 1 ∧ s.fePa fe false .plain (k.dword 0x48) = some pa ∧
      ∃ r ∈ s.mem.regions, r.fe = fe ∧ r.base = littleEndian ((bytesIn [(pa, 8)]).map s.byteAt)) ∧
    ∃ s fe n k pa, AtBody s fe n 0x09 k ∧ k.field 0x30 8 = 1 ∧ s.fePa fe false .plain (k.dword 0x48) = some pa ∧
      ∀ r ∈ s.mem.regions, r.fe = fe → r.base ≠ littleEndian ((bytesIn [(pa, 8)]).map s.byteAt) :=
  ⟨⟨regioned (body 9 [(0x30, 1), (0x49, 0x20)]) [⟨1, 0x1000000, 0x300000, 0⟩] [(0x2003, 1)], 1, 5, body 9 [(0x30, 1), (0x49, 0x20)], 0x2000, ⟨rfl, rfl, rfl, rfl, by decide, rfl⟩,
      by decide, by decide, _, List.mem_cons_self, rfl, by decide⟩,
    regioned (body 9 [(0x30, 1), (0x49, 0x20)]) [⟨1, 0x1000000, 0x300000, 0⟩] [], 1, 5, body 9 [(0x30, 1), (0x49, 0x20)], 0x2000, ⟨rfl, rfl, rfl, rfl, by decide, rfl⟩,
      by decide, by decide, by decide⟩
/-! ### Walks, work that completes later, firmware, memory and lodgings -/

/-- A lodging whose tables map the first GiB by itself: stage 1 from 0x1000, stage 2 from 0x6000, both with a page of level 2 (R359, R360). -/
def tabled : State :=
  let s := (land party16).onLod 1 (fun l => { l with root1 := 0x1000, root2 := 0x6000 })
  let s := s.onQuad 0 (fun q => { q with tlb := [] })
  { s with mem := { s.mem with bytes := [(0x1000, 0x1F), (0x1001, 0x20), (0x2000, 0x1F), (0x2001, 0x30), (0x3000, 0x1D), (0x6000, 0x17), (0x6001, 0x70), (0x7000, 0x17), (0x7001, 0x80),
    (0x8000, 0x15)] } }
theorem witness_PageWalk : ∃ s : State, ∃ quad fe, ∃ va : DWord, ∃ w, quad ∈ (s.lod fe).quads ∧ canonical va = true ∧ s.walk fe va = .ok w ∧ va.toNat % 2 ^ 16 ≤ w.walk.pa ∧
    w.walk.pa = 0x3FFFFFFF := ⟨tabled, 0, 1, 0x3FFFFFFF, ⟨⟨0x3FFFFFFF, 0, true, true, true⟩, true, true⟩, by decide, by decide, by decide, by decide, rfl⟩
/-- An invalidation of page 0 by lodging 1 whose packet runs. -/
def invalidating (arrived : List Nat) : State :=
  { streaming (ring 0 64) [] [(5, ⟨1, 0x3000, [], .running, none, none⟩)] with invals := [(6, ⟨1, 1, 1, 0, 1, 0x2000, 5, arrived, [4]⟩)], nextId := 10 }
theorem witness_InvalidationArrival : ∃ s : State, ∃ n i quad, sfind s.invals n = some i ∧ quad ∉ i.arrived ∧ quad ∈ (s.lod i.target).quads ∧ (s.quad quad).tlb ≠ [] :=
  ⟨invalidating [], 6, _, 0, rfl, nofun, by decide, by decide⟩
theorem witness_InvalidationComplete : ∃ s : State, ∃ n i pa k, sfind s.invals n = some i ∧ (∀ q ∈ (s.lod i.target).quads, q ∈ i.arrived) ∧
    (∀ m ∈ i.older, ∀ r, sfind s.reqs m = some r → r.phase ≠ .sent) ∧ s.fePa i.fe true .mailbox i.word = some pa ∧ s.isFull pa = false ∧
    s.oldestSt pa = none ∧ (∀ fe, ∀ w ∈ (s.lod fe).mbxWakes, w.1 ≠ pa) ∧ sfind s.packets i.packet = some k :=
  ⟨invalidating (List.range 128), 6, ⟨1, 1, 1, 0, 1, 0x2000, 5, List.range 128, [4]⟩, 0x2000, _, rfl, by decide, (fun _ _ _ h => nomatch (h : none = some _)), by decide, rfl, rfl, no_wakes_of rfl rfl, rfl⟩
/-- A sum of one integer whose two contributions are there. -/
def collecting : State :=
  { grouped with packets := [(5, ⟨1, 0x3000, [], .running, none, none⟩)]
                 colls := [(6, ⟨1, 5, 0, 0, 2, 0, 0x2000, 0x2100, 4, 0x2200, [(0, [1, 0, 0, 0]), (1, [0xFF, 0, 0, 0])]⟩)] }
theorem witness_CollectiveComplete : ∃ s : State, ∃ n c pa k, sfind s.colls n = some c ∧ c.ready (sget [] s.pkg.groups c.group).length = true ∧ s.throttled .collectives 0 = false ∧
    s.fePa c.fe true .mailbox c.word = some pa ∧ s.isFull pa = false ∧ s.oldestSt pa = none ∧ (∀ fe, ∀ w ∈ (s.lod fe).mbxWakes, w.1 ≠ pa) ∧ sfind s.packets c.packet = some k ∧
    s.feWritable c.fe c.dst (c.result (sget [] s.pkg.groups c.group).length).length = true ∧
    TablesStand s c.fe c.dst (c.result (sget [] s.pkg.groups c.group).length).length (some c.word) := by
  refine ⟨collecting, 6, _, 0x2200, _, rfl, rfl, rfl, by decide, rfl, rfl, no_wakes_of rfl rfl, rfl, ?_, tables_stand ?_⟩
  · rfl
  · rintro a (⟨i, hi, rfl⟩ | h)
    · have hi : i < 4 := hi
      interval_cases i <;> exact ⟨_, rfl⟩
    · cases h; exact ⟨_, rfl⟩
theorem witness_CollectiveResult : ∃ c : Collective, ∃ n, c.op = 0 ∧ c.ty = 2 ∧ n = 2 ∧ 0 < c.len / 4 := ⟨⟨1, 5, 0, 0, 2, 0, 0, 0, 4, 0, []⟩, 2, rfl, rfl, rfl, by decide⟩
theorem witness_MessageReceive : (∃ s : State, ∃ n m, sfind s.msgsIn n = some m ∧ s.fePa m.fe true .mailbox m.ringWord = none) ∧
    ∃ s : State, ∃ n m pa, sfind s.msgsIn n = some m ∧ s.fePa m.fe true .mailbox m.ringWord = some pa ∧ s.isFull pa = false ∧ s.oldestSt pa = none ∧
    (∀ fe, ∀ w ∈ (s.lod fe).mbxWakes, w.1 ≠ pa) ∧ TablesStand s m.fe (m.ringWord + 8) m.payload.length (some m.ringWord) ∧ m.payload = [5] := by
  refine ⟨⟨{ streaming (ring 0 64) [] [] with msgsIn := [(6, ⟨0, 0, 0x20000, [5], 1⟩)] }, 6, _, rfl, by decide⟩,
    { streaming (ring 0 64) [] [] with msgsIn := [(6, ⟨0, 0, 0x2000, [5], 1⟩)] }, 6, _, 0x2000, rfl, by decide, rfl, rfl, no_wakes_of rfl rfl, tables_stand ?_, rfl⟩
  rintro a (⟨i, hi, rfl⟩ | h)
  · have hi : i < 1 := hi
    interval_cases i; exact ⟨_, rfl⟩
  · cases h; exact ⟨_, rfl⟩

/-- A descriptor of front end 31 that is active, with quads 64 to 127 and colour 15. -/
def desc31 : DWord := 1 <<< 36 ||| 31 <<< 31 ||| 0x8000 <<< 15 ||| 64 <<< 7 ||| 64
/-- The device in full service, and lodging 31 in a state. -/
def served (st : LodgingSt) (d : DWord) : State :=
  { State.reset with pkg := { Package.reset with service := .full }, lods := [(31, { Lodging.reset with desc := d, st := st })] }
theorem witness_Descriptors : DescLimits 31 desc31 ∧ (∃ s : State, s.pkg.service ≠ .recovery ∧ s.pkg.service ≠ .reduced ∧ desc31.getLsbD 36 = true ∧ s.descApart 31 desc31 = true ∧
      (s.lod 31).desc.getLsbD 36 = false) ∧
    (∃ s : State, s.pkg.service ≠ .recovery ∧ s.descApart 31 desc31 = true ∧ (s.lod 31).desc.getLsbD 36 = true ∧ (s.lod 31).st = .saved ∧ s.windowsOf 31 = []) ∧
    (∃ s : State, s.pkg.service ≠ .recovery ∧ (s.lod 31).desc.getLsbD 36 = true ∧ (s.lod 31).st ≠ .saved) ∧
    (DescLimits 31 (desc31 &&& ~~~ (1 <<< 36 : DWord)) ∧ (desc31 &&& ~~~ (1 <<< 36 : DWord)).getLsbD 36 = false) ∧
    (¬ DescLimits 31 (desc31 + 1) ∧ ¬ DescLimits 30 desc31) ∧ DescLimits 31 (1 <<< 36 ||| 31 <<< 31 ||| 1 <<< 15 ||| 32 <<< 7) :=
  ⟨by unfold DescLimits; decide, ⟨served .none 0, nofun, nofun, rfl, rfl, rfl⟩, ⟨served .saved desc31, nofun, rfl, rfl, rfl, rfl⟩, ⟨served .running desc31, nofun, rfl, nofun⟩, by unfold DescLimits; decide, by unfold DescLimits; decide, by unfold DescLimits; decide⟩
theorem witness_Descriptors_overlap : ∃ s : State, s.pkg.service ≠ .recovery ∧ s.descApart 31 desc31 = false :=
  ⟨{ served .none 0 with lods := [(1, { Lodging.reset with desc := 1 <<< 36 ||| 1 <<< 31 ||| 0x8000 <<< 15 ||| 1 <<< 7 ||| 127 })] }, nofun, rfl⟩
theorem witness_BlockAssign : (∃ s : State, ∃ b o, (∀ w, sget Owner.free s.mem.owner b ≠ .window w) ∧ (∃ n, n < 32 ∧ o = Owner.key n) ∧ 2 ^ 21 * b / 2 ^ 44 = s.pkg.number ∧
      s.backed (2 ^ 21 * b % 2 ^ 44) = true ∧ b = 314712) ∧ ∃ s : State, ∃ b w, sget Owner.free s.mem.owner b = .window w :=
  ⟨⟨State.reset, 314712, .key 31, nofun, ⟨31, by decide, rfl⟩, rfl, by decide, rfl⟩, { State.reset with mem := { Mem.reset with owner := [(9, .window 63)] } }, 9, 63, rfl⟩
/-- A library at 0x1000 whose header's word at 0x30 asks for 16 threads and 64 times 16 registers. -/
theorem witness_LibraryInstall : ∃ s : State, ∃ fe base shape, (s.lod fe).desc.getLsbD 36 = true ∧ s.libAt fe (s.lod fe).qb base 0x30 4 = some shape ∧ shape % 4 ≠ 3 ∧
    1 ≤ shape / 2 ^ 8 % 128 ∧ shape / 2 ^ 8 % 128 ≤ 64 ∧ 16 * 2 ^ (shape % 4) * (16 * (shape / 2 ^ 8 % 128)) ≤ 8192 :=
  ⟨{ land party16 with mem := { (land party16).mem with bytes := [(0x1031, 32)] } }, 1, 0x1000, 0x2000, rfl, by decide, by decide, by decide, by decide, by decide⟩

/-- Lodgings 1 and 2, and a window between them over block 8. -/
def windows (opened : Bool) (tags : List Tag) : State :=
  let s := land party16
  { s with
    lods := s.lods ++ [(2, { Lodging.reset with desc := 1 <<< 36 ||| 2 <<< 31 ||| 1 <<< 15 ||| 1 <<< 7, st := .running })]
    mem := { s.mem with
      owner := [(0, .key 1), (8, if opened then .window 63 else .key 1)]
      windows := if opened then [(63, some ⟨1, 2, 8 * 2 ^ 21, 2 ^ 21, true, none, 0⟩)] else [] }
    tags := tags }
/-- A window of one block, with timeline 15 of core 3, in the guest's first quad. -/
def asking : WinRequest := ⟨1, 2, 8 * 2 ^ 21, 2 ^ 21, true, some (3, 15)⟩
theorem witness_WinOpen : (∃ s : State, s.winWithin asking = true ∧ (∀ g ∈ s.tags, 4 * g.granule < asking.base ∨ asking.base + asking.len ≤ 4 * g.granule) ∧ (∃ w < 64, s.window? w = none)) ∧
    (∃ s : State, s.winWithin { asking with len := 2 ^ 21 + 1 } = false) ∧
    ∃ s : State, ∃ g ∈ s.tags, asking.base ≤ 4 * g.granule ∧ 4 * g.granule < asking.base + asking.len :=
  ⟨⟨windows false [⟨1, 9 * 2 ^ 19, 0, 1, [(0, 0)], true, false⟩], by decide, by decide, 0, by decide, rfl⟩, ⟨windows false [], by decide⟩,
    windows false [⟨1, 9 * 2 ^ 19 - 1, 0, 1, [(0, 0)], true, false⟩], _, List.mem_cons_self, by decide, by decide⟩
theorem witness_WinClose : (∃ s : State, ∃ w x, s.window? w = some x ∧ x.base % 2 ^ 21 = 0 ∧ x.len % 2 ^ 21 = 0 ∧ ∀ e ∈ s.reqs, e.2.win = true → e.2.phase ≠ .unacked) ∧
    ∃ s : State, s.window? 63 = none := ⟨⟨windows true [], 63, ⟨1, 2, 8 * 2 ^ 21, 2 ^ 21, true, none, 0⟩, rfl, by decide, by decide, fun _ h => absurd h List.not_mem_nil⟩, windows false [], rfl⟩
theorem witness_CellarPin : ∃ s : State, ∃ fe base len, base % 64 = 0 ∧ len % 64 = 0 ∧ base % 2 ^ 44 < 2 ^ 42 ∧ (∀ a, base ≤ a → a < base + len → s.ownerOf a = .key fe) ∧
    s.pinsFit fe (linesIn base len) = true ∧ len = 64 := by
  refine ⟨land party16, 1, 2 ^ 21 - 64, 64, by decide, by decide, by decide, ?_, by decide, rfl⟩
  intro a h1 h2
  have : a / 2 ^ 21 = 0 := by omega
  simp only [State.ownerOf, this]; rfl
theorem witness_CellarUnpin : ∃ s : State, ∃ fe base len l c, l ∈ linesIn base len ∧ s.ownerOf (64 * l) = .key fe ∧ sget none s.mem.cellar l = some c ∧ c.pinned = true :=
  ⟨{ land party16 with mem := { (land party16).mem with cellar := [(3, some ⟨false, true⟩)] } }, 1, 192, 64, 3, _, by decide, by decide, rfl, rfl⟩
theorem witness_AttestationReport : ∃ s : State, ∃ fe, (s.lod fe).desc.getLsbD 36 = true := ⟨served .running desc31, 31, rfl⟩

/-- A dirty line 64 of block 1 under minor counter `n`. -/
def dirty (n : Nat) : State :=
  { State.reset with mem := { Mem.reset with cellar := [(64, some ⟨true, false⟩)], counters := [(1, ⟨0, [(0, n)]⟩)] } }
theorem witness_LineWriteMemory : ∀ n ∈ [126, 127], ∃ s : State, ∃ l c, sget none s.mem.cellar l = some c ∧ c.dirty = true ∧ s.pkg.service ≠ .reduced ∧ l / 2 ^ 38 = s.pkg.number ∧
    s.countersDone (64 * l) = false ∧ sget 0 (sget Counters.reset s.mem.counters (l / 64)).minor (l % 64) = n :=
  fun n _ => ⟨dirty n, 64, _, rfl, rfl, nofun, rfl, rfl, rfl⟩
theorem witness_LineWriteback : (∃ s : State, ∃ l c, sget none s.mem.cellar l = some c ∧ s.lineHeld l = false) ∧ ∃ s : State, ∃ l c, sget none s.mem.cellar l = some c ∧ s.lineHeld l = true :=
  ⟨⟨dirty 0, 64, _, rfl, rfl⟩, { State.reset with mem := { Mem.reset with cellar := [(3, some ⟨false, true⟩)] } }, 3, _, rfl, rfl⟩
theorem witness_LineReadMemory : ∃ s : State, ∃ l, sget none s.mem.cellar l = none ∧ s.upset = .none := ⟨State.reset, 0, rfl, rfl⟩
theorem witness_PatrolScrub : ∀ bad, ∃ s : State, ∃ l, s.throttled .scrub 0 = false ∧ s.upset = .none ∧ sget false s.mem.badCells l = bad ∧ sget none s.mem.poison l = none ∧
    s.pkg.log.length ≤ 4096 := fun bad => ⟨{ State.reset with mem := { Mem.reset with badCells := [(3, bad)] } }, 3, by cases bad <;> decide, rfl, rfl, rfl, Nat.zero_le _⟩

/-- Lodging 1 between groups, with its crew on core 0. -/
def atRest (u : Upset) : State := { crewed party16 with cur := none, upset := u }
theorem tidy_rest (u : Upset) : Tidy (atRest u) := by
  refine ⟨List.nodup_singleton _, List.nodup_singleton _, List.nodup_singleton _, ?_⟩
  intro c k p x hc hp hx
  have e : c = 2 ∧ k = ⟨1, some 3, 0, some 0, [1], .resident, false, 0, false, 0, 0⟩ := by
    simp only [State.crew?, atRest, crewed, sfind] at hc
    split at hc
    · next h => exact ⟨h.symm, (Option.some.inj hc).symm⟩
    · cases hc
  obtain ⟨-, rfl⟩ := e
  obtain rfl : p = 1 := by simpa using hp
  cases hx; rfl
theorem witness_Preemption : ∀ u ∈ [Upset.none, Upset.saveArea], ∃ s : State, ∃ fe, Tidy s ∧ (s.lod fe).st = .running ∧ s.quiet fe = true ∧ s.upset = u :=
  fun u _ => ⟨atRest u, 1, tidy_rest u, rfl, rfl, rfl⟩
theorem witness_Preemption_not : (∃ s : State, ∃ fe, (s.lod fe).st ≠ .running) ∧ ∃ s : State, ∃ fe, (s.lod fe).st = .running ∧ s.quiet fe = false :=
  ⟨⟨State.reset, 31, nofun⟩, crewed party16, 1, rfl, rfl⟩
/-- A saved lodging with one party in its image. -/
def kept : State :=
  let s := land party16
  let i : Image := ⟨0, [(7, { party16 with life := .saved, crew := 8 })], [(8, ⟨1, some 3, 0, some 0, [7], .saved, false, 0, false, 0, 0⟩)], [], [], [], [], [], [], [], [], []⟩
  { s.onLod 1 (fun l => { l with st := .saved, image := some i }) with cur := none, parties := [] }
theorem witness_LodgingRestore : (∃ s : State, ∃ fe i, (s.lod fe).st = .saved ∧ (s.lod fe).desc.getLsbD 36 = true ∧ (s.lod fe).image = some i ∧
    (i.parties.map (fun e => e.1)).Nodup ∧ s.canReturn fe (i.move ⟨i.qb, (s.lod fe).qb, fe⟩) = true ∧ i.parties ≠ []) ∧ ∃ s : State, ∃ fe, (s.lod fe).st ≠ .saved :=
  ⟨⟨kept, 1, _, rfl, rfl, rfl, by decide, by decide, nofun⟩, State.reset, 0, nofun⟩
theorem witness_Resets : (∃ s : State, ∃ fe, 1 ≤ fe ∧ fe ≤ 31 ∧ s.windowsOf fe = [] ∧ (s.lod fe).desc.getLsbD 36 = true) ∧ (∃ s : State, s.mem.windows = [] ∧ s.lods ≠ []) ∧
    (∃ fe, fe = 0 ∨ 31 < fe) := ⟨⟨served .running desc31, 31, by decide, by decide, rfl, rfl⟩, ⟨served .running desc31, rfl, nofun⟩, 32, .inr (by decide)⟩
/-! ### Boot, Caravans, migration, agents and the whole machine -/

/-- Two empty slots, and no firmware running. -/
theorem witness_Boot_recovery : ∃ s : State, s.pkg.running = none ∧ (∀ k, k ≤ 1 → s.slotValid k = false) ∧ s.mem.windows = [] ∧ s.lods ≠ [] :=
  ⟨served .running desc31, rfl, by intro k hk; interval_cases k <;> rfl, rfl, nofun⟩
/-- Whether an image verifies is free (log entry 8): for one that does, a slot that holds it is valid. -/
theorem witness_Boot : ∀ i : FwImage, Config.falconVerify i.body i.signature = true → ∃ s : State, s.pkg.running = none ∧ ∃ k, k ≤ 1 ∧ s.slotValid k = true :=
  fun i h => ⟨{ State.reset with pkg := { Package.reset with slots := [⟨none⟩, ⟨some i⟩] } }, rfl, 1, by decide, by
    show (Config.falconVerify i.body i.signature && decide (0 ≤ i.version)) = true; rw [h]; rfl⟩
theorem witness_Boot_running : ∃ s : State, ∃ k, s.pkg.running = some k := ⟨{ State.reset with pkg := { Package.reset with running := some 1 } }, 1, rfl⟩
/-- An image older than the anti-rollback counter; and, for one that verifies, one at the counter's version. -/
theorem witness_RecoveryImage : (∃ s : State, ∃ i : FwImage, i.version < s.pkg.antiRollback) ∧
    ∀ i : FwImage, Config.falconVerify i.body i.signature = true → ∃ s : State, s.pkg.antiRollback ≤ i.version :=
  ⟨⟨{ State.reset with pkg := { Package.reset with antiRollback := 1 } }, ⟨[], [], 0⟩, by decide⟩, fun i _ => ⟨State.reset, Nat.zero_le _⟩⟩
/-- Reduced service, lodging 1 at rest. -/
def lessened (u : Upset) : State := { atRest u with pkg := { Package.reset with service := .reduced, mismatchAt := some 0 }, now := 200000000 }
theorem witness_FullService : (∃ s : State, s.pkg.service = .reduced ∧ s.upset = .training) ∧ (∃ s : State, s.pkg.service = .reduced ∧ s.upset = .none ∧ s.allQuiet = true) ∧
    ∃ s : State, s.pkg.service ≠ .reduced := ⟨⟨lessened .training, rfl, rfl⟩, ⟨lessened .none, rfl, rfl, by decide⟩, State.reset, nofun⟩
/-- A first mismatch, one 100 ms after another, and one more than that. -/
theorem witness_InnkeeperMismatch : (∃ s : State, ∃ u, s.pkg.mismatchAt = some u ∧ s.now - u ≤ 200000000 ∧ s.allQuiet = true ∧ s.upset = .none ∧ (s.lod 1).st = .running) ∧
    (∃ s : State, s.pkg.mismatchAt = some 0 ∧ ∀ u, s.pkg.mismatchAt = some u → 200000000 < s.now - u) :=
  ⟨⟨lessened .none, 0, rfl, by decide, by decide, rfl, rfl⟩, { lessened .none with now := 200000001 }, rfl, by intro u h; cases h; decide⟩
theorem witness_RegionTagLoss : ∃ s : State, ∃ slice set, ∃ g ∈ s.tags, s.tagSet g.fe g.granule = (slice, set) :=
  ⟨{ atRest .none with tags := [⟨1, 64, 0, 1, [(0, 0)], true, false⟩] }, _, _, _, List.mem_cons_self, rfl⟩

/-- A Caravan of lodging 1's quads, before its slice or in it. -/
def caravan (running moved : Bool) : Caravan := ⟨0, 1000, [1], 1, moved, running, []⟩
/-- The gang of one party of lodging 1 that the Caravan runs. -/
def riding (running moved : Bool) (x : Party) : State :=
  { crewed x with cur := none, caravans := [(6, caravan running moved)], now := 2000, launches := [(3, ⟨1, ⟨0x4000, 0, 1, 16, 64, 4, false, 0, 0⟩, none, [], 1, true, [], false⟩)] }
theorem tidy_riding (r m : Bool) (x : Party) (h : x.fe = 1) : Tidy (riding r m x) := by
  refine ⟨List.nodup_singleton _, List.nodup_singleton _, List.nodup_singleton _, ?_⟩
  intro c k p y hc hp hy
  have e : k = ⟨1, some 3, 0, some 0, [1], .resident, false, 0, false, 0, 0⟩ := by
    simp only [State.crew?, riding, crewed, sfind] at hc
    split at hc
    · exact (Option.some.inj hc).symm
    · cases hc
  subst e
  obtain rfl : p = 1 := by simpa using hp
  cases hy; exact h
theorem witness_CaravanStart : ∀ moved, ∃ s : State, ∃ c x, sfind s.caravans c = some x ∧ x.running = false ∧ x.start ≤ s.now / 2 ∧ s.upset = .none ∧ x.moved = moved ∧
    ∀ fe ∈ x.lodgings, (s.lod fe).st = .running → s.quiet fe = true :=
  fun moved => ⟨riding false moved party16, 6, _, rfl, rfl, Nat.zero_le _, rfl, rfl, by
    intro fe h _
    obtain rfl : fe = 1 := by simpa [caravan] using h
    rfl⟩
theorem witness_CaravanEnd : ∃ s : State, ∃ c x, sfind s.caravans c = some x ∧ x.running = true ∧ x.start + x.length ≤ s.now / 2 ∧ s.upset = .none ∧
    ((s.lod x.member).st ≠ .running ∨ s.quiet x.member = true) ∧ (s.lod x.member).st = .running ∧ x.member ∉ x.saved :=
  ⟨riding true false party16, 6, _, rfl, rfl, by decide, rfl, .inr rfl, rfl, nofun⟩
theorem witness_CaravanMemberLoss : (∃ s : State, ∃ c x, sfind s.caravans c = some x ∧ x.running = true ∧ s.betweenGroups = true ∧ Tidy s ∧ s.caravanParties x ≠ [] ∧
      ∀ p ∈ s.caravanParties x, ∀ y, s.party? p = some y → ∃ a, y.idempc = some a ∧ y.rc < 2) ∧
    ∃ s : State, ∃ c x, sfind s.caravans c = some x ∧ x.running = true ∧ s.betweenGroups = true ∧ Tidy s ∧ s.caravanParties x ≠ [] ∧
      ∀ p ∈ s.caravanParties x, ∀ y, s.party? p = some y → y.idempc = none ∧ y.busyFlags = false ∧ y.shadow.length < 2 ∧ (s.lod y.fe).tvec ≠ 0 := by
  refine ⟨⟨riding true false { party16 with idempc := some 0x4000, rc := 1 }, 6, _, rfl, rfl, rfl, tidy_riding _ _ _ rfl, by decide, ?_⟩,
    riding true false party16, 6, _, rfl, rfl, rfl, tidy_riding _ _ _ rfl, by decide, ?_⟩
  · intro p hp y hy
    have hp : p ∈ [1] := hp
    obtain rfl : p = 1 := by simpa using hp
    cases hy; exact ⟨0x4000, rfl, by decide⟩
  · intro p hp y hy
    have hp : p ∈ [1] := hp
    obtain rfl : p = 1 := by simpa using hp
    cases hy; exact ⟨rfl, rfl, by decide, by decide⟩
/-- A lodging that is saved, and, for a report that verifies, a migration of it; a lodging with a window. -/
theorem witness_Migration : (∃ s : State, s.windowsOf 1 ≠ []) ∧ ∀ r : Report, Config.falconVerify (reportBody r) r.signature = true → ∃ s : State, ∃ fe, (s.lod fe).st = .saved ∧
    (s.lod fe).desc.getLsbD 36 = true ∧ s.windowsOf fe = [] ∧ s.throttled .migration 0 = false := ⟨⟨windows true [], by decide⟩, fun _ _ => ⟨kept, 1, rfl, rfl, rfl, by decide⟩⟩
/-- A Passport of this device, and a stream that carries it with a saved party and one byte of block 0. -/
noncomputable def passport : Passport := ⟨9, Config.shake256 Config.identityKey, 128, 16, 0, 0⟩
def travelling : Image := ⟨0, [(7, { party16 with life := .saved, crew := 8 })], [(8, ⟨1, some 3, 0, some 0, [7], .saved, false, 0, false, 0, 0⟩)], [], [], [], [], [], [], [], [], []⟩
noncomputable def arriving : State :=
  { land party16 with
    cur := none, parties := []
    streamsIn := [(9, ⟨2, passport, [], [], { Lodging.reset with tvec := 0x9000, image := some travelling }, [(0x100, 5)], [], []⟩)] }
theorem witness_PassportAccept : ∃ s : State, ∃ fe p x i, s.streamOf p = some x ∧ x.lod.image = some i ∧ p.destination = Config.shake256 Config.identityKey ∧ x.passport = p ∧
    (s.lod fe).desc.getLsbD 36 = true ∧ (s.lod fe).nq = p.quads ∧ (s.lod fe).colours.length = p.colours ∧ (s.lod fe).st = .running ∧
    (∀ e ∈ s.parties, e.2.fe ≠ fe) ∧ (∀ e ∈ s.crews, e.2.fe ≠ fe) ∧ (∀ e ∈ x.bytes, s.ownerOf e.1 = .key fe) ∧
    (x.bytes.map (fun e => e.1)).Nodup ∧ (i.parties.map (fun e => e.1)).Nodup ∧ s.canReturn fe (i.move ⟨i.qb, (s.lod fe).qb, fe⟩) = true := by
  refine ⟨arriving, 1, passport, _, travelling, rfl, rfl, rfl, rfl, rfl, rfl, rfl, rfl, fun _ h => absurd h List.not_mem_nil, fun _ h => absurd h List.not_mem_nil, ?_, List.nodup_singleton _,
    List.nodup_singleton _, rfl⟩
  intro e he
  obtain rfl : e = (0x100, 5) := by simpa using he
  rfl
theorem witness_PassportAccept_unknown : ∃ s : State, ∃ p, s.streamOf p = none := ⟨State.reset, ⟨9, 0, 1, 1, 0, 0⟩, rfl⟩
theorem witness_RestoreAcknowledged : (∃ s : State, ∃ fe, (s.lod fe).scrubOnAck = true ∧ (s.mem.owner.map (fun e => e.1)).Nodup ∧ s.ownerOf 0 = .key fe) ∧
    ∃ s : State, ∃ fe, (s.lod fe).scrubOnAck = false :=
  ⟨⟨(land party16).onLod 1 (fun l => { l with scrubOnAck := true }), 1, rfl, by decide, rfl⟩, State.reset, 0, rfl⟩

/-- A lodging of one quad with two agents, of which the first is allocated, holds `n` goals and has a mapping of key 70 at the last place; a
request of party 1 to it. -/
def minded (op : AgentOp) (h : Word) (bytes : List (Nat × Byte)) : State :=
  let s := land party16
  let s := s.onLod 1 (fun l => { l with desc := 1 <<< 36 ||| 1 <<< 31 ||| 0xFFFF <<< 15 ||| 1 <<< 7, agentBase := 0x10000, hmax := 2, heads := [(0, (2, 2))] })
  let s := s.onQuad 0 (fun q => { q with tlb := ⟨1, 1, 0x10000, 1, true, false, false, true, false⟩ :: q.tlb })
  { s with cur := none, mem := { s.mem with bytes := bytes }, reqs := [(4, { req (.agent op h 0) 8 with flag := some 0, dest := .vec 5 2 })] }
/-- The record of agent 1. -/
def mind : Ag := ⟨1, 0, 1, 0x11000⟩
def mindReq (op : AgentOp) (h : Word) : Req := { req (.agent op h 0) 8 with flag := some 0, dest := .vec 5 2 }
theorem at_steward (op : AgentOp) (bytes : List (Nat × Byte)) (he : op ≠ .exitEnd)
    (hg : (minded op 1 bytes).agentOf 1 1 = .ok mind) (hq : (minded op 1 bytes).stewardFree ((minded op 1 bytes).reqHome (mindReq op 1)) 1 1 = true) (ha : (minded op 1 bytes).allocated mind = true) :
    AtSteward (minded op 1 bytes) 4 (mindReq op 1) op 1 0 mind := by
  refine ⟨⟨rfl, rfl, rfl⟩, ?_, rfl, hq, hg, ha⟩
  cases op <;> first | rfl | exact absurd rfl he
theorem unfaulted (op : AgentOp) (h : Word) (bytes : List (Nat × Byte)) : Unfaulted (minded op h bytes) (mindReq op h) := by
  intro x hx; cases hx; rfl
def living : List (Nat × Byte) := [(0x11003, 1)]
theorem witness_StewardsServe : ∃ s n r h w a, AtSteward s n r .belFacts h w a ∧ Unfaulted s r ∧ s.goals a = [] :=
  ⟨_, _, _, _, _, _, at_steward .belFacts living nofun rfl rfl rfl, unfaulted _ _ _, rfl⟩
theorem witness_StewardsServe_tst : ∃ s n r key h w a, AtSteward s n r (.belTst key) h w a ∧ Unfaulted s r ∧ s.goals a = [] ∧ key < 64 :=
  ⟨_, _, _, 63, _, _, _, at_steward (.belTst 63) living nofun rfl rfl rfl, unfaulted _ _ _, rfl, by decide⟩
/-- The key stands at place 191 of the map, with none before it; and at no place. -/
theorem witness_StewardsServe_get : (∃ s n r key h w a, AtSteward s n r (.belGet key) h w a ∧ Unfaulted s r ∧ s.goals a = [] ∧ 64 ≤ key ∧
      s.recF a (0x300 + 16 * 191) 2 = key ∧ ∀ j < 191, s.recF a (0x300 + 16 * j) 2 ≠ key) ∧
    ∃ s n r key h w a, AtSteward s n r (.belGet key) h w a ∧ Unfaulted s r ∧ s.goals a = [] ∧ 64 ≤ key ∧ ∀ k < 192, s.recF a (0x300 + 16 * k) 2 ≠ key :=
  ⟨⟨_, _, _, 64, _, _, _, at_steward (.belGet 64) [(0x11003, 1), (0x11EF0, 64)] nofun rfl rfl rfl, unfaulted _ _ _, rfl, by decide, by decide, by decide⟩,
    _, _, _, 65535, _, _, _, at_steward (.belGet 65535) living nofun rfl rfl rfl, unfaulted _ _ _, rfl, by decide, by decide⟩
/-- A queue with room, a full one of 16, and a goal with bits [31:20] not 0. -/
theorem witness_StewardsServe_goal : (∃ s n r, ∃ g : DWord, ∃ h w a, AtSteward s n r (.goalAdd g) h w a ∧ Unfaulted s r ∧ g.toNat / 2 ^ 20 % 2 ^ 12 = 0 ∧ (s.goals a).length = 15) ∧
    (∃ s n r, ∃ g : DWord, ∃ h w a, AtSteward s n r (.goalAdd g) h w a ∧ Unfaulted s r ∧ 16 ≤ (s.goals a).length) ∧ ((0x100000 : DWord).toNat / 2 ^ 20 % 2 ^ 12 ≠ 0) :=
  ⟨⟨_, _, _, 0xFFFFF, _, _, _, at_steward (.goalAdd 0xFFFFF) [(0x11003, 1), (0x11013, 15)] nofun rfl rfl rfl, unfaulted _ _ _, by decide, by decide⟩,
    ⟨_, _, _, 1, _, _, _, at_steward (.goalAdd 1) [(0x11003, 1), (0x11013, 16)] nofun rfl rfl rfl, unfaulted _ _ _, by decide⟩, by decide⟩
theorem witness_StewardsServe_new : (∃ s n r f w a, AtHome s n r ∧ r.isEnd = false ∧ r.kind = .agent (.agtNew f) 0 w ∧ Unfaulted s r ∧ s.stewardFree (s.reqHome r) 0 r.fe = true ∧
      (sget (0, 0) (s.lod r.fe).heads (quadOfCore (coreOfLane r.lane))).1 = 2 ∧ s.agent r.fe 2 = .ok a) ∧
    ∃ s n r f w, AtHome s n r ∧ r.isEnd = false ∧ r.kind = .agent (.agtNew f) 0 w ∧ Unfaulted s r ∧ s.stewardFree (s.reqHome r) 0 r.fe = true ∧
      (sget (0, 0) (s.lod r.fe).heads (quadOfCore (coreOfLane r.lane))).1 = 0 :=
  ⟨⟨minded (.agtNew 7) 0 living, 4, mindReq (.agtNew 7) 0, 7, 0, ⟨1, 0, 2, 0x12000⟩, ⟨rfl, rfl, rfl⟩, rfl, rfl, unfaulted _ _ _, rfl, rfl, rfl⟩,
    (minded (.agtNew 7) 0 living).onLod 1 (fun l => { l with heads := [] }), 4, mindReq (.agtNew 7) 0, 7, 0, ⟨rfl, rfl, rfl⟩, rfl, rfl, by intro x hx; cases hx; rfl, rfl, rfl⟩
/-- The end of thread 0 of party 1, which runs slot 0 of agent 1; and one whose handle is 0. -/
theorem witness_StewardsServe_end : (∃ s : State, ∃ n r h w a, sfind s.reqs n = some r ∧ r.kind = .agent .exitEnd h w ∧ r.phase = .sent ∧ s.threadAcked r.party r.thread = true ∧
      s.stewardFree (s.reqHome r) (h.toNat % 2 ^ 24) r.fe = true ∧ s.agentOf r.fe h = .ok a ∧ s.allocated a = true ∧ s.ranBy a (intentSlot w) r.party r.thread = true ∧
      (s.status a (intentSlot w)).state = 1) ∧
    ∃ s : State, ∃ n r h w c, sfind s.reqs n = some r ∧ r.kind = .agent .exitEnd h w ∧ r.phase = .sent ∧ s.threadAcked r.party r.thread = true ∧
      s.stewardFree (s.reqHome r) (h.toNat % 2 ^ 24) r.fe = true ∧ s.agentOf r.fe h = .error c :=
  ⟨⟨minded .exitEnd 1 [(0x110C0, 1), (0x110F3, 1), (0x11003, 1)], 4, mindReq .exitEnd 1, 1, 0, mind, rfl, rfl, rfl, rfl, rfl, rfl, rfl, rfl, rfl⟩,
    minded .exitEnd 0 living, 4, mindReq .exitEnd 0, 0, 0, _, rfl, rfl, rfl, rfl, rfl, rfl⟩

/-- The library at 0x1000: one node at 0x4000 with a timer of 500 ns, one plan, which names it, and the trigger of belief key 5. -/
def pages (trigger : Byte) : List (Nat × Byte) :=
  [(0x1000, 1), (0x1004, 1), (0x1008, 1), (0x100C, 1), (0x1010, 0x40), (0x1018, 0x60), (0x1020, 0x80), (0x1028, 0x88), (0x1031, 1), (0x1038, 0xC0),
   (0x1041, 0x40), (0x1048, 0xF4), (0x1049, 1), (0x1060, 3), (0x1080, 2), (0x1082, trigger), (0x1086, 1), (0x1088, 3)]
/-- The deliberation unit with one belief event of key 5, and a pool of one frame block at 0x2000 or none. -/
def deliberating (trigger : Byte) (busy : List (Nat × Byte)) : State :=
  let s := minded .belFacts 1 (pages trigger ++ living ++ busy)
  let s := s.onLod 1 (fun l => { l with lib := some 0x1000, poolHead := 0x2000 })
  (s.onQuad 0 (fun q => { q with fifo := [⟨1, 1, none, .event .put 5 0x900000008⟩] })).onReq 4 (fun r => { r with phase := .reply 0 })
theorem witness_SelectionsActivatePlans : ∃ s : State, ∃ q i is a k key v p j js b u, (s.quad q).fifo = i :: is ∧ (s.quad q).emitted = [] ∧ s.agent i.fe i.handle = .ok a ∧
    i.work = .event k key v ∧ i.req = none ∧ s.select a (if k = .put then 2 else 3) key = .plan p ∧ s.freeSlots a = j :: js ∧ s.takeBlock a = .ok b u ∧ p.id < 2 ^ 16 :=
  ⟨deliberating 5 [], 0, ⟨1, 1, none, .event .put 5 0x900000008⟩, [], mind, .put, 5, 0x900000008, ⟨3, 0, 0, 0⟩, 0, [1, 2, 3, 4, 5, 6, 7], 0x2000, _, rfl, rfl, rfl, rfl, rfl, by decide, by decide, rfl,
    by decide⟩
theorem witness_SelectionsActivatePlans_none : ∃ s : State, ∃ q i is a k key v, (s.quad q).fifo = i :: is ∧ (s.quad q).emitted = [] ∧ s.agent i.fe i.handle = .ok a ∧
    i.work = .event k key v ∧ i.req = none ∧ s.select a (if k = .put then 2 else 3) key = .none :=
  ⟨deliberating 6 [], 0, ⟨1, 1, none, .event .put 5 0x900000008⟩, [], mind, .put, 5, 0x900000008, rfl, rfl, rfl, rfl, rfl, by decide⟩
theorem witness_SelectionsActivatePlans_no_slot : ∃ s : State, ∃ q i is a k key v p, (s.quad q).fifo = i :: is ∧ (s.quad q).emitted = [] ∧ s.agent i.fe i.handle = .ok a ∧
    i.work = .event k key v ∧ i.req = none ∧ s.select a (if k = .put then 2 else 3) key = .plan p ∧ s.freeSlots a = [] :=
  ⟨deliberating 5 ((List.range 8).map (fun i => (0x110C0 + 64 * i, 1))), 0, ⟨1, 1, none, .event .put 5 0x900000008⟩, [], mind, .put, 5, 0x900000008, ⟨3, 0, 0, 0⟩, rfl, rfl, rfl, rfl, rfl, by decide,
    by decide⟩

/-- A record of agent 1 for node `n`, detached or not. -/
def record (n : Nat) (detached : Bool) : Activation := ⟨1, 1, 0, 0, 3, n, [7], [], 0, detached, 0x4000, 500, 0⟩
theorem witness_ActivationEntry : (∃ s : State, ∃ q a as c timer, (s.quad q).emitted = a :: as ∧ ((s.quad q).buckets.map (fun e => e.2.length)).sum < 262144 ∧
      s.readNode a.fe q a.node = some (c, timer) ∧
      ((splitBucket (s.library a.fe q).width (sget [] (s.quad q).buckets (a.fe * 4096 + a.node) ++ [{ a with code := c, timer := timer, arrived := s.now }])).1.length ≠ (s.library a.fe q).width)) ∧
    ∃ s : State, ∃ q a as, (s.quad q).emitted = a :: as ∧ ((s.quad q).buckets.map (fun e => e.2.length)).sum < 262144 ∧ s.readNode a.fe q a.node = none ∧ a.detached = true :=
  ⟨⟨(deliberating 5 []).onQuad 0 (fun q => { q with emitted := [record 0 false] }), 0, record 0 false, [], 0x4000, 500, rfl, by decide, by decide, by decide⟩,
    (deliberating 5 []).onQuad 0 (fun q => { q with emitted := [record 1 true] }), 0, record 1 true, [], rfl, by decide, by decide, rfl⟩
/-- A whole party's records, and one that has waited its timer. -/
theorem witness_CoachTimerDeparture : (∃ s : State, ∃ q key r rs, sget [] (s.quad q).buckets key = r :: rs ∧ key = r.fe * 4096 + r.node ∧ r.node < 4096 ∧ (s.lod r.fe).st = .running ∧
      (splitBucket (s.library r.fe q).width (r :: rs)).1.length = (s.library r.fe q).width) ∧
    ∃ s : State, ∃ q key r rs, sget [] (s.quad q).buckets key = r :: rs ∧ key = r.fe * 4096 + r.node ∧ r.node < 4096 ∧ (s.lod r.fe).st = .running ∧ r.arrived + 2 * r.timer ≤ s.now ∧
      (∀ a ∈ (splitBucket (s.library r.fe q).width (r :: rs)).1, a.run = [] ∧ a.args.length ≤ 4) :=
  ⟨⟨(deliberating 5 []).onQuad 0 (fun q => { q with buckets := [(4096, List.replicate 16 (record 0 false))] }), 0, 4096, record 0 false, List.replicate 15 (record 0 false), rfl, rfl, by decide, rfl,
      by decide⟩,
    { (deliberating 5 []).onQuad 0 (fun q => { q with buckets := [(4096, [record 0 false])] }) with now := 1000 }, 0, 4096, record 0 false, [], rfl, rfl, by decide, rfl, by decide, by decide⟩
theorem witness_DieFifoPlacement : (∃ s : State, ∃ die crew rest k q c, sget [] s.dieFifo die = crew :: rest ∧ s.crew? crew = some k ∧ (s.lod k.fe).st = .running ∧
      s.planCore k = some (q, c) ∧ k.parties.Nodup) ∧ ∃ s : State, ∃ die crew rest, sget [] s.dieFifo die = crew :: rest ∧ s.crew? crew = none :=
  ⟨⟨{ waitingCrew .pending with dieFifo := [(0, [2, 9])] }, 0, 2, [9], ⟨1, some 3, 0, none, [1], .pending, false, 0, false, 0, 0⟩, 0, 0, rfl, rfl, rfl, by decide, by decide⟩,
    { State.reset with dieFifo := [(0, [2])] }, 0, 2, [], rfl, rfl⟩

/-! ### Encoding and steps -/

theorem witness_DecodeReadsBackEncode : ∃ i ws, WellFormed i ∧ encode i = some ws ∧ (i.chained = true → ws.length < 3) ∧ ws.length = 3 :=
  ⟨.add (pre 1 false true 0 0) (.v 7) (.v 5) (.lit 1000), _, by decide, rfl, nofun, rfl⟩
/-- A party at slot 0 of the line 0x4000, whose first packet holds `add v5, v4, v0` and two `nop`. -/
def steppingParty : Party := { party16 with pos := { party16.pos with words := none } }
def stepping (script : List Turn) : State :=
  { land steppingParty with
    script := script
    mem := { (land steppingParty).mem with bytes := [(0x4005, 0x42), (0x4006, 1), (0x400A, 0x20), (0x400B, 0x22), (0x400E, 0x20), (0x400F, 0x22)] } }
theorem witness_StepRunsTheDecodedInstruction : ∃ (s s' : State), ∃ p x pos pa h gs g i, s.script = [] ∧ s.cur = some p ∧ s.party? p = some x ∧ x.place = some pos ∧ pos.words = none ∧
    s.fetchLine { x with pos := pos } pos.pkt = (s', .ok pa) ∧
    decodePacket ((s'.packetWords pa (pos.pkt.toNat % 8)).getD 0 0) ((s'.packetWords pa (pos.pkt.toNat % 8)).drop 1) = .ok (h, gs) ∧
    groupAt pos.slot gs = some g ∧ g.instrs = [i] ∧ i = .add plain (.v 5) (.v 4) (.reg (.v 0)) ∧ ∃ u, exec i (s'.setParty p { x with
      pos := { pos with words := some (s'.packetWords pa (pos.pkt.toNat % 8)), after := g.next }
      gap := h.gaps.getD (pos.pkt.toNat % 8) 0, giveWay := gs.any (fun g => g.give), ctl := .run, latch := none }) = .next u :=
  ⟨stepping [], stepping [], 1, steppingParty, _, 0x4000, _, _, _, _, rfl, rfl, rfl, rfl, rfl, rfl, rfl, rfl, rfl, rfl, _, rfl⟩
/-- After a group at a slot with another behind it, and after the last of a packet, the last of its line. -/
theorem witness_StepRunsTheDecodedInstruction_retires : ∀ after ∈ [1, 3], ∃ u : State, ∃ p y, u.party? p = some y ∧ y.life = .resident ∧ y.latch = none ∧ y.pend = none ∧ y.pos.words ≠ none ∧
    y.ctl = .run ∧ y.park = .none ∧ y.divs = [] ∧ y.syncMask = none ∧ y.csr.single = false ∧ y.alive ≠ 0 ∧ y.pos.m0 &&& ~~~ y.pos.moved ≠ 0 ∧ y.pos.after = after :=
  fun n _ => ⟨demo { party16 with pos := ⟨0x4004, some [], 0, n, 0xFFFF, 0, true⟩ }, 1, _, rfl, rfl, rfl, rfl, nofun, rfl, rfl, rfl, rfl, rfl,
    (by decide : (party16.all &&& ~~~ (0 : Mask)) ≠ 0), (by decide : (0xFFFF : Mask) &&& ~~~ (0 : Mask) ≠ 0), rfl⟩
theorem witness_StepRunsTheDecodedInstruction_script : (∃ s : State, ∃ i rest, s.script = .act i :: rest) ∧ ∃ s : State, ∃ n rest, s.script = .elapse n :: rest :=
  ⟨⟨stepping [.act .periodBoundary], _, _, rfl⟩, stepping [.elapse 20000], _, _, rfl⟩
theorem witness_EveryInstructionAnswers : (∃ s p x, Issuing s p x) ∧ encode .periodBoundary = none ∧
    ∃ i ws, ∃ s : State, encode i = some ws ∧ ∀ p x, ¬ Issuing s p x :=
  ⟨⟨_, _, _, issuing_demo party16⟩, rfl, .add plain (.v 5) (.v 4) (.reg (.v 0)), _, State.reset, rfl, fun _ _ h => nomatch (h.1 : none = some _)⟩
/-- The invariant holds at reset and in a state at issue, and each has a next state. -/
theorem witness_StepKeepsTheInvariant : (Sys2Proof.Inv State.reset ∧ ∃ t, step State.reset = .next t) ∧ ∃ s t, Sys2Proof.Inv s ∧ step s = .next t ∧ s.cur = some 1 :=
  ⟨⟨⟨rfl, rfl, by decide, by decide, by decide, by decide⟩, _, rfl⟩, stepping [], _, ⟨rfl, rfl, by decide, by decide, by decide, by decide⟩, rfl, rfl⟩

end Sys2Proof.Tests
end

section
/-! PROOFS. Laws shared by the words that run over the threads of a party: the allocation check, the iterations of a word, the writes of one
iteration, and what those writes leave as it was. -/

namespace Sys2Proof.Proofs

open Sys2Proof Sys2Proof.Machine Sys2Proof.Says

/-! ### The allocation check (R11, R82) -/

theorem repsOf_pos (m : Mods) : 0 < repsOf m := by
  unfold repsOf
  split
  · exact Nat.succ_pos _
  · exact Nat.one_pos

/-- A word whose named runs all lie below Rt passes the check; a run of no register reaches nothing. -/
theorem beyond_eq_none {x : Party} {reps : Nat} {regs : List (Reg × Nat)} (hreps : 0 < reps) (hlen : ∀ e ∈ regs, 0 < e.2)
    (h : ∀ n l, (Reg.v n, l) ∈ regs → ∀ j < l, ∀ k < reps, x.base + n.val + j + k < min x.rt 1024) : x.beyond reps regs = none := by
  induction regs with
  | nil => rfl
  | cons e regs ih =>
    have ih := ih (fun e he => hlen e (List.mem_cons_of_mem _ he)) (fun n l hm => h n l (List.mem_cons_of_mem _ hm))
    obtain ⟨d, l⟩ := e
    cases d with
    | s n => exact ih
    | v n =>
      have hl : 0 < l := hlen (.v n, l) List.mem_cons_self
      have hlast : x.base + n.val + (l - 1) + (reps - 1) < x.limit := h n l List.mem_cons_self (l - 1) (by omega) (reps - 1) (by omega)
      simp only [Party.beyond]
      rw [if_neg (by omega)]
      exact ih

/-- A word within Rt runs. -/
theorem alloc_within {s : State} {p : Nat} {x : Party} {m : Mods} {regs : List (Reg × Nat)} (h : Within x m regs)
    (hlen : ∀ e ∈ regs, 0 < e.2) (go : State) : s.alloc p x m regs go = go :=
  alloc_ok (h.imp id (beyond_eq_none (repsOf_pos m) hlen)) go

/-- The register that an iteration of a word within Rt writes, when the word touches a thread. -/
theorem dest_lt_of_within {x : Party} {m : Mods} {n : Fin 96} {regs : List (Reg × Nat)} (h : Within x m ((.v n, 1) :: regs))
    (ht : x.selected m ||| x.zeroed m ≠ 0) {k : Nat} (hk : k < repsOf m) : x.base + n.val + k < 1024 := by
  have := (h.resolve_left ht) n 1 List.mem_cons_self 0 Nat.one_pos k hk
  omega

/-! ### The iterations of a word (R82) -/

/-- A party before iteration `k` of a word whose iteration `k` is `step k`. -/
def iterates (step : Nat → Party → Party) (x : Party) : Nat → Party
  | 0 => x
  | k + 1 => step k (iterates step x k)

/-- An executor that runs its iterations from `k` on ends where the iterates end. -/
theorem eq_iterates {step : Nat → Party → Party} {run : Party → Nat → Nat → Party} (hzero : ∀ p k, run p k 0 = p)
    (hsucc : ∀ p k r, run p k (r + 1) = run (step k p) (k + 1) r) (x : Party) (r : Nat) : run x 0 r = iterates step x r := by
  have h : ∀ r j, run (iterates step x j) j r = iterates step x (j + r) := by
    intro r
    induction r with
    | zero => intro j; exact hzero _ _
    | succ r ih => intro j; rw [hsucc, ← Nat.add_assoc, Nat.add_right_comm]; exact ih (j + 1)
  simpa [iterates] using h r 0

/-! ### What an iteration leaves as it was -/

/-- `y` is `x` but for vector registers, the sticky flags and the generator: all that the iterations of a word with a vector destination
change. -/
def SameButResults (x y : Party) : Prop :=
  ∃ v fpsum gen, y = { x with regs := { x.regs with v := v }, csr := { x.csr with fpsum := fpsum }, gen := gen }

namespace SameButResults

theorem refl (x : Party) : SameButResults x x := ⟨_, _, _, rfl⟩

theorem trans {x y z : Party} (hxy : SameButResults x y) (hyz : SameButResults y z) : SameButResults x z := by
  obtain ⟨_, _, _, rfl⟩ := hxy
  obtain ⟨_, _, _, rfl⟩ := hyz
  exact ⟨_, _, _, rfl⟩

variable {x y : Party} (h : SameButResults x y)
include h

theorem width : y.width = x.width := by obtain ⟨_, _, _, rfl⟩ := h; rfl

theorem left : y.left = x.left := by obtain ⟨_, _, _, rfl⟩ := h; rfl

theorem base : y.base = x.base := by obtain ⟨_, _, _, rfl⟩ := h; rfl

theorem m0 : y.m0 = x.m0 := by obtain ⟨_, _, _, rfl⟩ := h; rfl

theorem mask (k : MaskReg) : y.mask k = x.mask k := by
  obtain ⟨_, _, _, rfl⟩ := h
  cases hl : x.latch <;> simp [Party.mask, Party.src, Party.m0, hl]

theorem selected (m : Mods) : y.selected m = x.selected m := by simp only [Party.selected, h.m0, h.mask]

theorem zeroed (m : Mods) : y.zeroed m = x.zeroed m := by simp only [Party.zeroed, h.m0, h.selected]

theorem sel (m : Mods) : Says.sel y m = Says.sel x m := by simp only [Says.sel, h.width, h.selected]

theorem runs (m : Mods) (t : Nat) : Runs y m t ↔ Runs x m t := by simp only [Runs, h.width, h.selected]

theorem clears (m : Mods) (t : Nat) : Clears y m t ↔ Clears x m t := by simp only [Clears, h.width, h.zeroed]

theorem fpctl : y.ctlRegs.fpctl = x.ctlRegs.fpctl := by
  obtain ⟨_, _, _, rfl⟩ := h
  cases hl : x.latch <;> simp [Party.ctlRegs, hl]

theorem mode (m : Mods) : y.mode m = x.mode m := by simp only [Party.mode, h.fpctl]

theorem ftz : y.ftz = x.ftz := by simp only [Party.ftz, h.fpctl]

end SameButResults

/-- A word each of whose iterations changes results alone changes results alone. -/
theorem sameButResults_iterates {step : Nat → Party → Party} (hstep : ∀ k p, SameButResults p (step k p)) (x : Party) (k : Nat) :
    SameButResults x (iterates step x k) := by
  induction k with
  | zero => exact .refl x
  | succ k ih => exact ih.trans (hstep k _)

/-! ### The writes of one iteration -/

/-- Writing one value to every thread of a list. -/
theorem vNow_setVs_map (p : Party) {r r' : Nat} (ts : List Nat) (val : Nat → Word) (t : Nat) (hr : r < 1024) (hr' : r' < 1024) :
    (p.setVs r (ts.map (fun t => (t, val t)))).vNow t r' = if r' = r ∧ t ∈ ts then val t else p.vNow t r' := by
  by_cases hreg : r' = r
  · subst hreg
    by_cases ht : t ∈ ts
    · rw [if_pos ⟨rfl, ht⟩]
      refine vNow_setVs_mem _ _ _ _ _ hr (List.mem_map.2 ⟨t, ht, rfl⟩) ?_
      rintro _ he rfl
      obtain ⟨u, _, rfl⟩ := List.mem_map.1 he
      rfl
    · rw [if_neg (fun h => ht h.2)]
      refine vNow_setVs_thread _ _ _ _ _ hr hr ?_
      rintro _ he rfl
      obtain ⟨u, hu, rfl⟩ := List.mem_map.1 he
      exact ht hu
  · rw [if_neg (fun h => hreg h.1)]
    exact vNow_setVs_reg _ _ _ _ _ hr hr' hreg

open Classical in
/-- One iteration of a vector function: the threads that execute take their values, those that the zero policy names take 0. -/
theorem vNow_vecStep (p : Party) (m : Mods) {n k r' : Nat} (f : Party → Nat → Nat → Word) (t : Nat) (hr : p.base + n + k < 1024)
    (hr' : r' < 1024) : (p.vecStep m n k f).vNow t r' =
      if r' = p.base + n + k ∧ Runs p m t then f p t k else if r' = p.base + n + k ∧ Clears p m t then 0 else p.vNow t r' := by
  have hruns : Runs p m t ↔ t ∈ threadsOf p.width (p.selected m) := mem_threadsOf.symm
  have hclears : Clears p m t ↔ t ∈ threadsOf p.width (p.zeroed m) := mem_threadsOf.symm
  rw [hruns, hclears]
  by_cases hreg : r' = p.base + n + k
  · subst hreg
    by_cases hs : t ∈ threadsOf p.width (p.selected m)
    · rw [if_pos ⟨rfl, hs⟩, vecStep_selected p m n k f hr hs]
    · rw [if_neg (fun h => hs h.2)]
      by_cases hz : t ∈ threadsOf p.width (p.zeroed m)
      · rw [if_pos ⟨rfl, hz⟩, vecStep_zeroed p m n k f hr hz hs]
      · rw [if_neg (fun h => hz h.2), vecStep_other p m n k f hr hr' (.inr ⟨hs, hz⟩)]
  · rw [if_neg (fun h => hreg h.1), if_neg (fun h => hreg h.1), vecStep_other p m n k f hr hr' (.inl hreg)]

/-- A write of a uniform register (R13). -/
theorem uniStep_setU (x : Party) (n : Nat) (v : DWord) : UniStep n v x (x.setU n v) := by
  by_cases hn : n = 0
  · simp [UniStep, Party.setU, hn]
  · refine ⟨fun k => ?_, by simp [Party.setU, hn]⟩
    by_cases hk : k = 0
    · simp [Party.uNow, hk, Ne.symm hn]
    · simp [Party.uNow, Party.setU, sget_sset, hn, hk]

/-! ### The threads of a mask in ascending order (R6) -/

theorem threadsOf_succ (w : Nat) (m : Mask) : threadsOf (w + 1) m = threadsOf w m ++ if bitOf m w then [w] else [] := by
  simp only [threadsOf, List.range_succ, List.filter_append, List.filter_cons, List.filter_nil]

/-- As many threads of a mask stand before its i-th as below it. -/
theorem length_threadsOf_getElem (w : Nat) (m : Mask) (i : Nat) (hi : i < (threadsOf w m).length) :
    (threadsOf (threadsOf w m)[i] m).length = i := by
  induction w with
  | zero => simp [threadsOf] at hi
  | succ w ih =>
    simp only [threadsOf_succ]
    by_cases hlt : i < (threadsOf w m).length
    · rw [List.getElem_append_left hlt, ih hlt]
    · by_cases hb : bitOf m w = true
      · simp only [threadsOf_succ, if_pos hb, List.length_append, List.length_singleton] at hi ⊢
        rw [List.getElem_append_right (by omega), List.getElem_singleton]
        omega
      · simp only [threadsOf_succ, if_neg hb, List.append_nil] at hi
        exact absurd hi hlt

/-- Results in thread order, paired with their threads: each thread takes the result of its rank. -/
theorem zip_threadsOf (w : Nat) (m : Mask) (rs : List Word) (hlen : rs.length = (threadsOf w m).length) :
    (threadsOf w m).zip rs = (threadsOf w m).map (fun t => (t, rs.getD (threadsOf t m).length 0)) := by
  refine List.ext_getElem (by simp [hlen]) fun i hi _ => ?_
  have hi : i < rs.length := by simp only [List.length_zip] at hi; omega
  simp only [List.getElem_zip, List.getElem_map, length_threadsOf_getElem, List.getD_eq_getElem _ _ hi]

/-- A party with a thread below its width in the mask of the word touches that thread. -/
theorem touches_of_sel {x : Party} {m : Mods} (h : sel x m ≠ []) : x.selected m ||| x.zeroed m ≠ 0 := by
  intro h0
  have hs : x.selected m = 0 := (BitVec.or_eq_zero_iff.1 h0).1
  exact h (by simp [sel, threadsOf, hs, bitOf])

end Sys2Proof.Proofs
end

section
/-! PROOFS. What the scans and reductions compute (R64, R143): the results, flags and generator of each for a list of values. -/

namespace Sys2Proof.Proofs

open Sys2Proof Sys2Proof.Machine Sys2Proof.Says

/-! ### Running results -/

theorem length_running (f : Word → Word → Word) (v : Word) (vs : List Word) : (running f v vs).length = vs.length := by
  induction vs generalizing v with
  | nil => rfl
  | cons w ws ih => simp [running, ih]

/-- The last running result is the fold. -/
theorem getLastD_running (f : Word → Word → Word) (v : Word) (vs : List Word) : (running f v vs).getLastD v = vs.foldl f v := by
  induction vs generalizing v with
  | nil => rfl
  | cons w ws ih => simp only [running, List.getLastD_cons, ih, List.foldl_cons]

/-- The running sums: each is the sum of the values up to its place. -/
theorem running_add (v : Word) (vs : List Word) :
    v :: running (fun x y => x + y) v vs = (List.range (v :: vs).length).map (fun i => ((v :: vs).take (i + 1)).sum) := by
  induction vs generalizing v with
  | nil => simp [running]
  | cons w ws ih =>
    rw [running, ih (v + w), List.length_cons, List.length_cons, List.length_cons, List.range_succ_eq_map (n := ws.length + 1), List.map_cons,
      List.map_map]
    congr 1
    · simp
    · exact List.map_congr_left fun i _ => by simp [add_assoc]

/-- The fold from the first value on is the sum of all. -/
theorem foldl_add_eq_sum (v : Word) (vs : List Word) : vs.foldl (fun x y => x + y) v = (v :: vs).sum := by
  rw [List.sum_eq_foldl, List.foldl_cons, zero_add]

/-- Choosing between two values by a total order, folded over a list, gives a value of the list that comes before them all. -/
theorem foldl_choose (le : Word → Word → Prop) [DecidableRel le] (hrefl : ∀ x, le x x) (htrans : ∀ {x y z}, le x y → le y z → le x z)
    (htotal : ∀ {x y}, ¬ le x y → le y x) (v : Word) (vs : List Word) :
    vs.foldl (fun x y => if le x y then x else y) v ∈ v :: vs ∧ ∀ u ∈ v :: vs, le (vs.foldl (fun x y => if le x y then x else y) v) u := by
  induction vs generalizing v with
  | nil => simp [hrefl]
  | cons w ws ih =>
    rw [List.foldl_cons]
    by_cases hvw : le v w
    · rw [if_pos hvw]
      obtain ⟨hmem, hle⟩ := ih v
      have hv := hle v List.mem_cons_self
      refine ⟨List.mem_cons.2 ((List.mem_cons.1 hmem).imp id (List.mem_cons_of_mem w)), fun u hu => ?_⟩
      rcases List.mem_cons.1 hu with rfl | hu
      · exact hv
      · rcases List.mem_cons.1 hu with rfl | hu
        · exact htrans hv hvw
        · exact hle u (List.mem_cons_of_mem v hu)
    · rw [if_neg hvw]
      obtain ⟨hmem, hle⟩ := ih w
      refine ⟨List.mem_cons_of_mem v hmem, fun u hu => ?_⟩
      rcases List.mem_cons.1 hu with rfl | hu
      · exact htrans (hle w List.mem_cons_self) (htotal hvw)
      · exact hle u hu

/-! ### Running sums of R64 -/

/-- The i-th addition of R64 after the first value: sum `i` plus value `i`, with the draw of its place under stochastic rounding. -/
def addition (mode : BitVec 3) (ftz : Bool) (g : Word) (sums vs : List Word) (i : Nat) : Nat × FpFlags :=
  fp32.add mode ftz (draw g (if mode = SR then i else 0)) (sums.getD i 0).toNat (vs.getD i 0).toNat

/-- The generator that one addition leaves. -/
def drawn (mode : BitVec 3) (g : Word) : Word := if mode == SR then xorshift g else g

/-- The additions behind the first draw from the generator that the first one leaves. -/
theorem addition_succ (mode : BitVec 3) (ftz : Bool) (g acc v : Word) (sums vs : List Word) (i : Nat) :
    addition mode ftz g (acc :: sums) (v :: vs) (i + 1) = addition mode ftz (drawn mode g) sums vs i := by
  by_cases hm : mode = SR <;> simp [addition, drawn, hm, draw, advance]

/-- The sum that the first addition gives. -/
def firstSum (mode : BitVec 3) (ftz : Bool) (acc v g : Word) : Word :=
  BitVec.ofNat 32 (fp32.add mode ftz (draw g 0) acc.toNat v.toNat).1

/-- The first addition's sum and the sums behind it. -/
theorem sumRun_cons (mode : BitVec 3) (ftz : Bool) (acc v : Word) (vs : List Word) (g : Word) :
    sumRun mode ftz acc (v :: vs) g =
      (firstSum mode ftz acc v g :: (sumRun mode ftz (firstSum mode ftz acc v g) vs (drawn mode g)).1,
        (fp32.add mode ftz (draw g 0) acc.toNat v.toNat).2 ||| (sumRun mode ftz (firstSum mode ftz acc v g) vs (drawn mode g)).2.1,
        (sumRun mode ftz (firstSum mode ftz acc v g) vs (drawn mode g)).2.2) := rfl

theorem length_sumRun (mode : BitVec 3) (ftz : Bool) (acc : Word) (vs : List Word) (g : Word) :
    (sumRun mode ftz acc vs g).1.length = vs.length := by
  induction vs generalizing acc g with
  | nil => rfl
  | cons v vs ih => rw [sumRun_cons, List.length_cons, List.length_cons, ih]

theorem sumRun_gen (mode : BitVec 3) (ftz : Bool) (acc : Word) (vs : List Word) (g : Word) :
    (sumRun mode ftz acc vs g).2.2 = if mode = SR then advance g vs.length else g := by
  induction vs generalizing acc g with
  | nil => simp [sumRun, advance]
  | cons v vs ih =>
    rw [sumRun_cons, ih]
    by_cases hm : mode = SR <;> simp [drawn, hm, advance]

/-- Every sum is the rounded addition of its place. -/
theorem getD_sumRun (mode : BitVec 3) (ftz : Bool) (acc : Word) (vs : List Word) (g : Word) {i : Nat} (hi : i < vs.length) :
    (acc :: (sumRun mode ftz acc vs g).1).getD (i + 1) 0 =
      BitVec.ofNat 32 (addition mode ftz g (acc :: (sumRun mode ftz acc vs g).1) vs i).1 := by
  induction vs generalizing acc g i with
  | nil => exact absurd hi (Nat.not_lt_zero i)
  | cons v vs ih =>
    rw [sumRun_cons]
    cases i with
    | zero => by_cases hm : mode = SR <;> simp [addition, firstSum]
    | succ i =>
      rw [addition_succ, ← ih _ _ (Nat.lt_of_succ_lt_succ hi)]
      rfl

/-- The flags of a run of sums are those of its additions. -/
theorem sumRun_flags (mode : BitVec 3) (ftz : Bool) (acc : Word) (vs : List Word) (g : Word) (j : Nat) :
    (sumRun mode ftz acc vs g).2.1.getLsbD j =
      (List.range vs.length).any (fun i => (addition mode ftz g (acc :: (sumRun mode ftz acc vs g).1) vs i).2.getLsbD j) := by
  induction vs generalizing acc g with
  | nil => simp [sumRun]
  | cons v vs ih =>
    rw [sumRun_cons, List.length_cons, List.range_succ_eq_map, List.any_cons, List.any_map, BitVec.getLsbD_or, ih]
    congr 1
    · simp [addition]
    · simp only [Function.comp_def, addition_succ, Nat.succ_eq_add_one]

/-! ### The functions of the words -/

/-- `f` computes what `rel` says of the values of a non-empty list of threads, a result for each. -/
structure Gathers (m : Mods) (a : Reg) (f : Party → Nat → List Nat → List Word × FpFlags × Word) (rel : GatherFn) : Prop where
  length : ∀ p k ts, (f p k ts).1.length = ts.length
  computes : ∀ p k ts, ts ≠ [] →
    rel (p.mode m) p.ftz p.gen (ts.map (fun t => p.reg32 t k a)) (f p k ts).1 (f p k ts).2.1 (f p k ts).2.2

theorem length_allLast (rs : List Word) : (allLast rs).length = rs.length := by simp [allLast]

/-- The last running result, to every thread. -/
theorem allLast_running (f : Word → Word → Word) (v : Word) (vs : List Word) :
    allLast (v :: running f v vs) = (v :: vs).map (fun _ => vs.foldl f v) := by
  simp only [allLast, List.getLastD_cons, getLastD_running, List.map_const', List.length_cons, length_running]

theorem length_intScan (a : Reg) (f : Word → Word → Word) (last : Bool) (p : Party) (k : Nat) (ts : List Nat) :
    (intScan a f last p k ts).1.length = ts.length := by
  cases ts with
  | nil => rfl
  | cons t ts => cases last <;> simp [intScan, length_allLast, length_running]

/-- An integer scan gives the running results of the values. -/
theorem gathers_intScan (m : Mods) (a : Reg) (f : Word → Word → Word) {rel : List Word → List Word → Prop}
    (h : ∀ v vs, rel (v :: vs) (v :: running f v vs)) : Gathers m a (intScan a f false) (intGather rel) where
  length := length_intScan a f false
  computes p k ts hts := by
    cases ts with
    | nil => exact absurd rfl hts
    | cons t ts => exact ⟨h _ _, rfl, rfl⟩

/-- An integer reduction gives the fold of the values to every thread. -/
theorem gathers_intReduction (m : Mods) (a : Reg) (f : Word → Word → Word) {rel : List Word → List Word → Prop}
    (h : ∀ v vs, rel (v :: vs) ((v :: vs).map (fun _ => vs.foldl f v))) : Gathers m a (intScan a f true) (intGather rel) where
  length := length_intScan a f true
  computes p k ts hts := by
    cases ts with
    | nil => exact absurd rfl hts
    | cons t ts =>
      refine ⟨?_, rfl, rfl⟩
      show rel _ (allLast (_ :: running f _ _))
      rw [allLast_running]
      exact h _ _

/-- The sums of R64 over a first value and those behind it. -/
def sums (mode : BitVec 3) (ftz : Bool) (v : Word) (vs : List Word) (g : Word) : List Word :=
  (asSource ftz v).1 :: (sumRun mode ftz (asSource ftz v).1 vs g).1

theorem length_sums (mode : BitVec 3) (ftz : Bool) (v : Word) (vs : List Word) (g : Word) :
    (sums mode ftz v vs g).length = (v :: vs).length := congrArg (· + 1) (length_sumRun _ _ _ _ _)

/-- The flags of a value that is read as a source: those of its writing, and invalid for a signalling NaN. -/
theorem asSource_flags (ftz : Bool) (v : Word) (j : Nat) : (asSource ftz v).2.getLsbD j =
    ((j == 0 && (fp32.source ftz v.toNat).2) || (fp32.write RNE false 0 (fp32.source ftz v.toNat).1).2.getLsbD j) := by
  have hinvalid : fInvalid.getLsbD j = (j == 0) := by
    cases j with
    | zero => rfl
    | succ j => simp [fInvalid]
  cases hs : (fp32.source ftz v.toNat).2 <;> simp [asSource, asWord, Fmt.out, snanFlags, fWhen, hs, hinvalid, Bool.or_comm]

/-- `scan.fadd` and `red.fadd`: the sums, and what is picked of them. -/
theorem floatScan_cons (m : Mods) (a : Reg) (last : Bool) (p : Party) (k t : Nat) (ts : List Nat) :
    floatScan m a last p k (t :: ts) =
      let v := p.reg32 t k a
      let vs := ts.map (fun t => p.reg32 t k a)
      let run := sumRun (p.mode m) p.ftz (asSource p.ftz v).1 vs p.gen
      (if last then allLast (sums (p.mode m) p.ftz v vs p.gen) else sums (p.mode m) p.ftz v vs p.gen,
        (asSource p.ftz v).2 ||| run.2.1, run.2.2) := rfl

/-- The sums of R64 with what is picked of them, and their flags and generator. -/
theorem sumGather_sums {pick : List Word → Nat → Word} (mode : BitVec 3) (ftz : Bool) (v : Word) (vs : List Word) (g : Word)
    {rs : List Word} (hrs : rs = (List.range (v :: vs).length).map (pick (sums mode ftz v vs g))) :
    sumGather pick mode ftz g (v :: vs) rs ((asSource ftz v).2 ||| (sumRun mode ftz (asSource ftz v).1 vs g).2.1)
      (sumRun mode ftz (asSource ftz v).1 vs g).2.2 := by
  refine ⟨sums mode ftz v vs g, length_sums _ _ _ _ _, rfl, fun i hi => ?_, hrs, fun j => ?_, sumRun_gen _ _ _ _ _⟩
  · exact getD_sumRun _ _ _ _ _ (Nat.lt_of_succ_lt_succ hi)
  · rw [BitVec.getLsbD_or, asSource_flags, sumRun_flags]
    rfl

theorem length_floatScan (m : Mods) (a : Reg) (last : Bool) (p : Party) (k : Nat) (ts : List Nat) :
    (floatScan m a last p k ts).1.length = ts.length := by
  cases ts with
  | nil => rfl
  | cons t ts => cases last <;> simp [floatScan_cons, length_allLast, length_sums]

/-- A list is the list of its values by place. -/
theorem eq_map_getD (l : List Word) : l = (List.range l.length).map (fun i => l.getD i 0) :=
  List.ext_getElem (by simp) fun i hi _ => by simp [List.getElem?_eq_getElem hi]

theorem gathers_floatScan (m : Mods) (a : Reg) :
    Gathers m a (floatScan m a false) (sumGather (fun acc i => acc.getD i 0)) where
  length := length_floatScan m a false
  computes p k ts hts := by
    cases ts with
    | nil => exact absurd rfl hts
    | cons t ts =>
      refine sumGather_sums _ _ _ _ _ ?_
      rw [← length_sums (p.mode m) p.ftz _ _ p.gen]
      exact eq_map_getD _

theorem gathers_floatSum (m : Mods) (a : Reg) :
    Gathers m a (floatScan m a true) (sumGather (fun acc _ => acc.getLastD 0)) where
  length := length_floatScan m a true
  computes p k ts hts := by
    cases ts with
    | nil => exact absurd rfl hts
    | cons t ts =>
      refine sumGather_sums _ _ _ _ _ ?_
      simp only [floatScan_cons, if_true, allLast, List.map_const', List.length_range, length_sums]

theorem gathers_floatPick (m : Mods) (a : Reg) (min : Bool) : Gathers m a (floatPick min a) (pickGather min) where
  length p k ts := List.length_map _
  computes p k ts _ := ⟨by simp only [floatPick, List.map_map, Function.comp_def], rfl, rfl⟩

/-- Every scan and reduction computes its function (R143). -/
theorem gatherRow_exec {i : Instr} {m : Mods} {d a : Reg} {rel : GatherFn} (h : GatherRow i m d a rel) :
    ∃ f, Gathers m a f rel ∧ ∀ s, exec i s = s.gather m d a f := by
  cases h with
  | scanAdd => exact ⟨_, gathers_intScan m a _ running_add, fun s => exec_scanAdd m d a s⟩
  | redAdd => exact ⟨_, gathers_intReduction m a _ fun v vs => by rw [foldl_add_eq_sum], fun s => exec_redAdd m d a s⟩
  | redMinI =>
    refine ⟨_, gathers_intReduction m a _ fun v vs => ?_, fun s => exec_redMinI m d a s⟩
    obtain ⟨hmem, hle⟩ := foldl_choose (fun x y => x.toInt ≤ y.toInt) (fun _ => le_refl _) le_trans (fun h => le_of_not_ge h) v vs
    exact ⟨_, hmem, hle, rfl⟩
  | redMaxI =>
    refine ⟨_, gathers_intReduction m a _ fun v vs => ?_, fun s => exec_redMaxI m d a s⟩
    obtain ⟨hmem, hle⟩ := foldl_choose (fun x y => y.toInt ≤ x.toInt) (fun _ => le_refl _) (fun h h' => le_trans h' h)
      (fun h => le_of_not_ge h) v vs
    exact ⟨_, hmem, hle, rfl⟩
  | scanFadd => exact ⟨_, gathers_floatScan m a, fun s => exec_scanFadd m d a s⟩
  | redFadd => exact ⟨_, gathers_floatSum m a, fun s => exec_redFadd m d a s⟩
  | redFmax => exact ⟨_, gathers_floatPick m a false, fun s => exec_redFmax m d a s⟩
  | redFmin => exact ⟨_, gathers_floatPick m a true, fun s => exec_redFmin m d a s⟩

end Sys2Proof.Proofs
end

section
/-! PROOFS. Scans, reductions and compress over the selected threads (R64, R142, R143): O9. -/

namespace Sys2Proof.Proofs

open Sys2Proof Sys2Proof.Machine Sys2Proof.Says

/-! ### Scans and reductions (R143) -/

/-- With no thread selected an iteration does nothing. -/
theorem gatherStep_empty {p : Party} {m : Mods} (n k : Nat) (f : Party → Nat → List Nat → List Word × FpFlags × Word)
    (hs : sel p m = []) : p.gatherStep m n k f = p := by
  have hs : threadsOf p.width (p.selected m) = [] := hs
  simp [Party.gatherStep, hs]

/-- Otherwise it is an iteration of the vector function that gives each thread the result of its rank, with the flags and the generator. -/
theorem gatherStep_eq {p : Party} {m : Mods} (n k : Nat) (f : Party → Nat → List Nat → List Word × FpFlags × Word) (hs : sel p m ≠ [])
    (hlen : (f p k (sel p m)).1.length = (sel p m).length) : p.gatherStep m n k f =
      { (p.vecStep m n k (fun _ t _ => (f p k (sel p m)).1.getD (threadsOf t (p.selected m)).length 0)).orFlags (f p k (sel p m)).2.1 with
        gen := (f p k (sel p m)).2.2 } := by
  unfold sel at hs hlen ⊢
  unfold Party.gatherStep
  dsimp only
  rw [if_neg (by simpa using hs), zip_threadsOf _ _ _ hlen]
  rfl

theorem sameButResults_gatherStep (p : Party) (m : Mods) (n k : Nat) (f : Party → Nat → List Nat → List Word × FpFlags × Word) :
    SameButResults p (p.gatherStep m n k f) := by
  unfold Party.gatherStep
  dsimp only
  split
  · exact .refl p
  · rw [setVs_eq]
    exact ⟨_, _, _, rfl⟩

open Classical in
/-- An iteration of a scan or reduction, on a party that differs in results alone from the one that issues. -/
theorem gatherStep_spec {x y : Party} {m : Mods} {a : Reg} {f : Party → Nat → List Nat → List Word × FpFlags × Word} {rel : GatherFn}
    (hf : Gathers m a f rel) (hxy : SameButResults x y) {n k : Nat} (hr : sel x m ≠ [] → x.base + n + k < 1024) :
    GatherStep x m (x.base + n + k) k a rel y (y.gatherStep m n k f) := by
  unfold GatherStep
  by_cases hs : sel x m = []
  · rw [if_pos hs]
    exact gatherStep_empty n k f (by rw [hxy.sel, hs])
  · rw [if_neg hs]
    have hys : sel y m ≠ [] := by rwa [hxy.sel]
    have hr := hr hs
    rw [← hxy.base] at hr ⊢
    refine ⟨(f y k (sel y m)).1, (f y k (sel y m)).2.1, (f y k (sel y m)).2.2, ?_, fun t r' hr' => ?_, ?_⟩
    · rw [← hxy.mode, ← hxy.ftz, ← hxy.sel]
      exact hf.computes y k _ hys
    · have hstep := vNow_vecStep y m (fun _ t _ => (f y k (sel y m)).1.getD (threadsOf t (y.selected m)).length 0) t hr hr'
      simp only [hxy.runs, hxy.clears, hxy.selected] at hstep
      rw [gatherStep_eq n k f hys (hf.length _ _ _), hxy.selected]
      exact hstep
    · rw [gatherStep_eq n k f hys (hf.length _ _ _), vecStep_eq]
      rfl

/-- A scan or reduction with a vector destination runs its iterations. -/
theorem gather_vector {s : State} {p : Nat} {x : Party} (hi : Issuing s p x) {m : Mods} {n : Fin 96} {a : Reg}
    (hw : Within x m [(.v n, 1), (a, 1)]) (f : Party → Nat → List Nat → List Word × FpFlags × Word) :
    s.gather m (.v n) a f = .next (s.setParty p (iterates (fun k q => q.gatherStep m n.val k f) x (repsOf m))) := by
  rw [State.gather, issue_next hi.1 hi.2, alloc_within hw (by simp)]
  dsimp only
  rw [eq_iterates (run := fun q k r => q.gatherIter m n.val f k r) (fun _ _ => rfl) (fun _ _ _ => rfl)]

/-- A scan or reduction with a uniform destination takes the last result over the threads of m0. -/
theorem gather_uniform {s : State} {p : Nat} {x : Party} (hi : Issuing s p x) {m : Mods} {n : Fin 31} {a : Reg}
    (hw : Within x m [(.s n, 1), (a, 1)]) (f : Party → Nat → List Nat → List Word × FpFlags × Word) (hne : threadsOf x.width x.m0 ≠ []) :
    s.gather m (.s n) a f = .next (s.setParty p
      { (x.setU n.val (((f x 0 (threadsOf x.width x.m0)).1.getLastD 0).setWidth 64)).orFlags (f x 0 (threadsOf x.width x.m0)).2.1 with
        gen := (f x 0 (threadsOf x.width x.m0)).2.2 }) := by
  have hempty : (threadsOf x.width x.m0).isEmpty = false := by simpa using hne
  rw [State.gather, issue_next hi.1 hi.2, alloc_within hw (by simp)]
  simp only [hempty, Bool.false_eq_true, if_false]

theorem scansAndReductions : Says.ScansAndReductions := by
  intro i m d a rel hrow s p x hi hw hne
  obtain ⟨f, hf, hexec⟩ := gatherRow_exec hrow
  cases d with
  | v n =>
    refine ⟨_, (hexec s).trans (gather_vector hi hw f), iterates (fun k q => q.gatherStep m n.val k f) x, rfl, rfl, fun k hk => ?_⟩
    have hsame := sameButResults_iterates (fun k q => sameButResults_gatherStep q m n.val k f) x k
    exact gatherStep_spec hf hsame fun hs => dest_lt_of_within hw (touches_of_sel hs) hk
  | s n =>
    have hne := hne n rfl
    exact ⟨_, (hexec s).trans (gather_uniform hi hw f hne), _, _, _, _, hf.computes x 0 _ hne, uniStep_setU x n.val _, rfl⟩

/-! ### Compress (R142) -/

/-- The threads that have not left (R26). -/
theorem mem_threadsOf_alive {x : Party} (hx : x.width ≤ 64) {j : Nat} :
    j ∈ threadsOf x.width x.alive ↔ j < x.width ∧ bitOf x.left j = false := by
  rw [mem_threadsOf]
  refine and_congr_right fun hj => ?_
  have hlow : (lowMask x.width).getLsbD j = true := by
    simp [lowMask, BitVec.getLsbD_ofNat, Nat.testBit_two_pow_sub_one, hj, Nat.lt_of_lt_of_le hj hx]
  simp [Party.alive, Party.all, bitOf, hlow, Nat.lt_of_lt_of_le hj hx]

/-- The word asks for the zero policy (R81). -/
def zeroPolicy (m : Mods) : Bool := (m.pre.map (fun q => q.zero)).getD false

/-- The threads that one iteration of `cmpr` writes: those that have not left, above the number of the selected ones under the zero policy
alone. -/
def packed (p : Party) (m : Mods) : List Nat :=
  (threadsOf p.width p.alive).filter (fun j => decide (j < (sel p m).length) || zeroPolicy m)

/-- The value that a thread takes: that of the selected thread of its rank, or 0. -/
def packedValue (p : Party) (m : Mods) (k : Nat) (a : Reg) (j : Nat) : Word :=
  if j < (sel p m).length then p.reg32 ((sel p m).getD j 0) k a else 0

theorem packedValue_eq (p : Party) (m : Mods) (k : Nat) (a : Reg) (j : Nat) :
    packedValue p m k a j = ((sel p m).map (fun t => p.reg32 t k a)).getD j 0 := by
  by_cases hj : j < (sel p m).length <;> simp [packedValue, hj]

theorem cmprStep_eq (p : Party) (m : Mods) (n k : Nat) (a : Reg) :
    p.cmprStep m n k a = p.setVs (p.base + n + k) ((packed p m).map (fun j => (j, packedValue p m k a j))) := by
  simp only [packedValue_eq, packed, zeroPolicy, sel, Party.cmprStep, List.length_map]
  cases m.pre <;> rfl

theorem sameButResults_cmprStep (p : Party) (m : Mods) (n k : Nat) (a : Reg) : SameButResults p (p.cmprStep m n k a) := by
  rw [cmprStep_eq, setVs_eq]
  exact ⟨_, _, _, rfl⟩

/-- A word that touches no active thread selects none, and asks for no zero. -/
theorem packed_eq_nil {x : Party} {m : Mods} (hm0 : x.m0 ≠ 0) (ht : x.selected m ||| x.zeroed m = 0) : packed x m = [] := by
  obtain ⟨hs, hz⟩ := BitVec.or_eq_zero_iff.1 ht
  have hsel : sel x m = [] := by simp [sel, threadsOf, hs, bitOf]
  have hzero : zeroPolicy m = false := by
    unfold Party.zeroed at hz
    cases hp : m.pre with
    | none => simp [zeroPolicy, hp]
    | some q =>
      cases hq : q.zero with
      | false => simp [zeroPolicy, hp, hq]
      | true =>
        simp only [hp, hq, if_true, hs, BitVec.not_zero, BitVec.and_allOnes] at hz
        exact absurd hz hm0
  simp [packed, hsel, hzero]

theorem SameButResults.packed {x y : Party} (h : SameButResults x y) (m : Mods) : packed y m = Proofs.packed x m := by
  simp only [Proofs.packed, Party.alive, Party.all, h.width, h.left, h.sel]

/-- One iteration of `cmpr`, thread by thread. -/
theorem vNow_cmprStep {x y : Party} {m : Mods} {n k : Nat} {a : Reg} (hxy : SameButResults x y) (hm0 : x.m0 ≠ 0) (hx : x.width ≤ 64)
    (hr : x.selected m ||| x.zeroed m ≠ 0 → x.base + n + k < 1024) {j r : Nat} (hr' : r < 1024) : (y.cmprStep m n k a).vNow j r =
      if r = x.base + n + k ∧ j < x.width ∧ bitOf x.left j = false then
        (if j < (sel x m).length then y.reg32 ((sel x m).getD j 0) k a else if zeroPolicy m then 0 else y.vNow j r)
      else y.vNow j r := by
  have hmem : j ∈ packed y m ↔ (j < x.width ∧ bitOf x.left j = false) ∧ (j < (sel x m).length ∨ zeroPolicy m = true) := by
    rw [hxy.packed, packed, List.mem_filter, mem_threadsOf_alive hx, Bool.or_eq_true, decide_eq_true_eq]
  have hwrite : (y.cmprStep m n k a).vNow j r =
      if r = x.base + n + k ∧ j ∈ packed y m then packedValue y m k a j else y.vNow j r := by
    rw [cmprStep_eq, hxy.base]
    by_cases ht : x.selected m ||| x.zeroed m = 0
    · simp [hxy.packed, packed_eq_nil hm0 ht, Party.setVs]
    · exact vNow_setVs_map _ _ _ _ (hr ht) hr'
  rw [hwrite]
  simp only [hmem, packedValue, hxy.sel]
  by_cases hdest : r = x.base + n + k ∧ j < x.width ∧ bitOf x.left j = false
  · by_cases hj : j < (sel x m).length
    · rw [if_pos ⟨hdest.1, hdest.2, .inl hj⟩, if_pos hdest]
      simp only [if_pos hj]
    · rw [if_pos hdest]
      simp only [hdest, hj, and_self, true_and, false_or, if_false]
  · rw [if_neg hdest, if_neg fun h => hdest ⟨h.1, h.2.1⟩]

theorem compressResults : Says.CompressResults := by
  intro s p x m n a hi hm0 hx hw
  have hexec : exec (.cmpr m (.v n) a) s =
      .next (s.setParty p (iterates (fun k q => q.cmprStep m n.val k a) x (repsOf m))) := by
    rw [exec_cmpr, execCmpr, issue_next hi.1 hi.2, alloc_within hw (by simp)]
    rw [eq_iterates (run := fun q k r => q.cmprIter m n.val a k r) (fun _ _ => rfl) (fun _ _ _ => rfl)]
  refine ⟨iterates (fun k q => q.cmprStep m n.val k a) x, rfl, hexec, fun k hk => ⟨fun j r hr' => ?_, ?_⟩⟩
  · have hsame := sameButResults_iterates (fun k q => sameButResults_cmprStep q m n.val k a) x k
    exact vNow_cmprStep hsame hm0 hx (fun ht => dest_lt_of_within hw ht hk) hr'
  · rw [iterates, cmprStep_eq]
    exact setVs_eq _ _ _

/-- Settles O9: each scan and reduction computes its function of the selected values, iteration by iteration, and `cmpr` packs them. -/
theorem scansReductionsAndCompress : Obligations.ScansReductionsAndCompress := ⟨scansAndReductions, compressResults⟩

end Sys2Proof.Proofs
end

section
/-! PROOFS. Class 0 with a result: what a word of a row computes, the words of 32 bits (O1) and the words of 64 bits (O2). -/

namespace Sys2Proof.Proofs

open Sys2Proof Sys2Proof.Machine Sys2Proof.Says

/-! ### Executors of one value a thread (R81, R82, R97, R98) -/

/-- A word within Rt passes the allocation check of its executor. -/
theorem passes_of_within {x : Party} {m : Mods} {regs : List (Reg × Nat)} (h : Within x m regs) (hlen : ∀ e ∈ regs, 0 < e.2) :
    x.selected m ||| x.zeroed m = 0 ∨ x.beyond (repsOf m) regs = none :=
  h.imp id (beyond_eq_none (repsOf_pos m) hlen)

theorem length_pos_srcRun {b : Src} {n : Nat} (hn : 0 < n) : ∀ e ∈ srcRun b n, 0 < e.2 := by
  cases b with
  | reg r => simpa [srcRun] using hn
  | lit w => simp [srcRun]

/-- The registers that a word of A and B names. -/
theorem length_pos_operands {a : Reg} {b : Src} {n l : Nat} (hn : 0 < n) (hl : 0 < l) : ∀ e ∈ (a, n) :: srcRun b l, 0 < e.2 :=
  List.forall_mem_cons.2 ⟨hn, length_pos_srcRun hl⟩

theorem sameButResults_vecStep (p : Party) (m : Mods) (n k : Nat) (f : Party → Nat → Nat → Word) :
    SameButResults p (p.vecStep m n k f) := by
  rw [vecStep_eq]
  exact ⟨_, _, _, rfl⟩

/-- A word that touches no thread writes nothing. -/
theorem vecStep_untouched {p : Party} {m : Mods} (h : p.selected m ||| p.zeroed m = 0) (n k : Nat) (f : Party → Nat → Nat → Word) :
    p.vecStep m n k f = p := by
  obtain ⟨hs, hz⟩ := BitVec.or_eq_zero_iff.1 h
  simp [Party.vecStep, threadsOf, hs, hz, bitOf, Party.setVs]

open Classical in
/-- One iteration, on a party that differs in results alone from the one that issues: the row's step for that one. -/
theorem vecStep_spec {x y : Party} {m : Mods} {n k : Nat} (hxy : SameButResults x y) (f : Party → Nat → Nat → Word)
    (hr : x.selected m ||| x.zeroed m ≠ 0 → x.base + n + k < 1024) :
    VecStep x m (x.base + n + k) (fun t => f y t k) y (y.vecStep m n k f) := by
  refine ⟨fun t r' hr' => ?_, vecStep_eq y m n k f⟩
  by_cases ht : x.selected m ||| x.zeroed m = 0
  · obtain ⟨hs, hz⟩ := BitVec.or_eq_zero_iff.1 ht
    have hy : y.selected m ||| y.zeroed m = 0 := by rwa [hxy.selected, hxy.zeroed]
    simp [vecStep_untouched hy, Runs, Clears, hs, hz, bitOf]
  · have hstep := vNow_vecStep y m f t (hxy.base ▸ hr ht) hr'
    simpa only [hxy.base, hxy.runs, hxy.clears] using hstep

/-- A function with a 32-bit destination leaves the row's result. -/
theorem vecOp_completes (w : WordRow) (hlen : ∀ e ∈ w.regs, 0 < e.2) {s : State} {p : Nat} {x : Party} (hi : Issuing s p x)
    (hw : Within x w.m ((w.d, 1) :: w.regs)) :
    ∃ z, w.Result x z ∧ s.vecOp w.m w.d w.regs w.val = .next (s.setParty p z) := by
  obtain ⟨m, d, regs, f⟩ := w
  have hrun := vecOp_next hi.1 hi.2 m d regs f (passes_of_within hw (List.forall_mem_cons.2 ⟨Nat.one_pos, hlen⟩))
  cases d with
  | s n => exact ⟨_, uniStep_setU x n.val _, hrun⟩
  | v n =>
    refine ⟨_, ⟨iterates (fun k q => q.vecStep m n.val k f) x, rfl, ?_, fun k hk => ?_⟩, hrun⟩
    · exact (eq_iterates (run := fun q k r => q.vecIter m n.val f k r) (fun _ _ => rfl) (fun _ _ _ => rfl) x _).symm
    · exact vecStep_spec (sameButResults_iterates (fun k q => sameButResults_vecStep q m n.val k f) x k) f
        fun ht => dest_lt_of_within hw ht hk

/-- A function with a 64-bit destination leaves the row's result; the second half is of the operands that the first one found. -/
theorem vecOp64_completes (w : WideRow) (hlen : ∀ e ∈ w.regs, 0 < e.2) {s : State} {p : Nat} {x : Party} (hi : Issuing s p x)
    (hw : Within x w.m ((w.d, 2) :: w.regs)) :
    ∃ z, w.Result x z ∧ s.vecOp64 w.m w.d w.regs w.val = .next (s.setParty p z) := by
  obtain ⟨m, d, regs, f⟩ := w
  have hrun := vecOp64_next hi.1 hi.2 m d regs f (passes_of_within hw (List.forall_mem_cons.2 ⟨Nat.two_pos, hlen⟩))
  cases d with
  | s n => exact ⟨_, uniStep_setU x n.val _, hrun⟩
  | v n =>
    have hreg : x.selected m ||| x.zeroed m ≠ 0 → ∀ j < 2, x.base + n.val + j < 1024 := fun ht j hj => by
      have := hw.resolve_left ht n 2 List.mem_cons_self j hj 0 (repsOf_pos m)
      omega
    refine ⟨_, ⟨x.vecStep m n.val 0 (fun _ t _ => (f x t).setWidth 32), ?_, ?_⟩, hrun⟩
    · exact vecStep_spec (.refl x) (fun _ t _ => (f x t).setWidth 32) fun ht => hreg ht 0 Nat.two_pos
    · exact vecStep_spec (sameButResults_vecStep x m _ _ _) (fun _ t _ => (f x t).extractLsb' 32 32) fun ht => hreg ht 1 Nat.one_lt_two

/-! ### The values of class 0 as the rows write them -/

theorem ite_toInt_lt_eq_ite_slt (a b u v : Word) : (if a.toInt < b.toInt then u else v) = if a.slt b then u else v := by
  simp only [BitVec.slt_iff_toInt_lt]

theorem ite_toNat_lt_eq_ite_ult (a b u v : Word) : (if a.toNat < b.toNat then u else v) = if a.ult b then u else v := by
  simp only [BitVec.ult_iff_toNat_lt]

/-- The model's field operand is the rows' position and cut length (R104). -/
theorem fieldOf_eq_field (b : Word) : fieldOf b = (fieldPos b, fieldLen b) := fieldOf_eq b

/-- A signed product of 64 bits (R109). -/
theorem signExtend_mul_signExtend (a b : Word) : a.signExtend 64 * b.signExtend 64 = BitVec.ofInt 64 (a.toInt * b.toInt) := by
  rw [BitVec.ofInt_mul]
  rfl

/-- An unsigned product of 64 bits (R109). -/
theorem setWidth_mul_setWidth (a b : Word) : a.setWidth 64 * b.setWidth 64 = BitVec.ofNat 64 (a.toNat * b.toNat) := by
  rw [BitVec.ofNat_mul, BitVec.ofNat_toNat, BitVec.ofNat_toNat]

/-! ### Words of 32 bits -/

/-- The outcome of a word of a row: its value run over the threads and iterations. -/
def runRow (w : WordRow) (s : State) : Host.Outcome State Fault Refusal := s.vecOp w.m w.d w.regs w.val

theorem alu1_eq_runRow {f g : Word → Word} (h : ∀ a, f a = g a) (m : Mods) (d a : Reg) (s : State) :
    s.alu1 m d a f = runRow (row1 m d a g) s := by
  rw [funext h]
  rfl

theorem alu2_eq_runRow {f g : Word → Word → Word} (h : ∀ a b, f a b = g a b) (m : Mods) (d a : Reg) (b : Src) (s : State) :
    s.alu2 m d a b f = runRow (row2 m d a b g) s := by
  rw [funext₂ h]
  rfl

theorem alu3_eq_runRow {f g : Word → Word → Word → Word} (h : ∀ d a b, f d a b = g d a b) (m : Mods) (d a : Reg) (b : Src) (s : State) :
    s.alu3 m d a b f = runRow (row3 m d a b g) s := by
  rw [funext₃ h]
  rfl

/-- Every function of class 0 with a 32-bit result computes the value of its row (R102 to R105, R107, R110 to R112). -/
theorem intRow_exec {i : Instr} {w : WordRow} (h : IntRow i w) (s : State) : exec i s = runRow w s := by
  cases h with
  | add m d a b => exact exec_add m d a b s
  | sub m d a b => exact exec_sub m d a b s
  | addi m d a b => exact exec_addi m d a b s
  | mul m d a b => exact exec_mul m d a b s
  | mulhI m d a b => exact (exec_mulhI m d a b s).trans (alu2_eq_runRow mulhI_eq m d a b s)
  | mulhN m d a b => exact (exec_mulhN m d a b s).trans (alu2_eq_runRow mulhN_eq m d a b s)
  | mad m d a b => exact exec_mad m d a b s
  | minI m d a b =>
    exact (exec_minI m d a b s).trans (alu2_eq_runRow (fun a b => ite_toInt_lt_eq_ite_slt a b a b) m d a b s)
  | maxI m d a b =>
    exact (exec_maxI m d a b s).trans (alu2_eq_runRow (fun a b => ite_toInt_lt_eq_ite_slt b a a b) m d a b s)
  | minN m d a b =>
    exact (exec_minN m d a b s).trans (alu2_eq_runRow (fun a b => ite_toNat_lt_eq_ite_ult a b a b) m d a b s)
  | maxN m d a b =>
    exact (exec_maxN m d a b s).trans (alu2_eq_runRow (fun a b => ite_toNat_lt_eq_ite_ult b a a b) m d a b s)
  | abs m d a => exact (exec_abs m d a s).trans (alu1_eq_runRow absW_eq m d a s)
  | neg m d a => exact exec_neg m d a s
  | and m d a b => exact exec_and m d a b s
  | or m d a b => exact exec_or m d a b s
  | xor m d a b => exact exec_xor m d a b s
  | andn m d a b => exact exec_andn m d a b s
  | not m d a => exact exec_not m d a s
  | shl m d a b => exact (exec_shl m d a b s).trans (alu2_eq_runRow (fun a b => shlW_eq a b.toNat) m d a b s)
  | shr m d a b => exact (exec_shr m d a b s).trans (alu2_eq_runRow (fun a b => shrW_eq a b.toNat) m d a b s)
  | sar m d a b => exact (exec_sar m d a b s).trans (alu2_eq_runRow (fun a b => sarW_eq a b.toNat) m d a b s)
  | rot m d a b => exact (exec_rot m d a b s).trans (alu2_eq_runRow (fun a b => rotW_eq a b.toNat) m d a b s)
  | shli m d a b => exact (exec_shli m d a b s).trans (alu1_eq_runRow (fun a => shlW_eq a b.toNat) m d a s)
  | shri m d a b => exact (exec_shri m d a b s).trans (alu1_eq_runRow (fun a => shrW_eq a b.toNat) m d a s)
  | sari m d a b => exact (exec_sari m d a b s).trans (alu1_eq_runRow (fun a => sarW_eq a b.toNat) m d a s)
  | clz m d a => exact (exec_clz m d a s).trans (alu1_eq_runRow clzW_eq m d a s)
  | popc m d a => exact (exec_popc m d a s).trans (alu1_eq_runRow popcW_eq m d a s)
  | brev m d a => exact (exec_brev m d a s).trans (alu1_eq_runRow brevW_eq m d a s)
  | bfeI m d a b => exact (exec_bfeI m d a b s).trans (alu2_eq_runRow (fun _ b => bfeI_of (fieldOf_eq_field b)) m d a b s)
  | bfeN m d a b => exact (exec_bfeN m d a b s).trans (alu2_eq_runRow (fun _ b => bfeN_of (fieldOf_eq_field b)) m d a b s)
  | bfi m d a b => exact (exec_bfi m d a b s).trans (alu3_eq_runRow (fun _ _ b => bfi_of (fieldOf_eq_field b)) m d a b s)
  | sel m d a b k => exact exec_sel m d a b k s
  | mov m d a => exact exec_mov m d a s
  | movi m n imm => exact exec_movi m (.v n) imm s
  | divI m d a b => exact (exec_divI m d a b s).trans (alu2_eq_runRow divI_q m d a b s)
  | divN m d a b => exact (exec_divN m d a b s).trans (alu2_eq_runRow divN_q m d a b s)
  | remI m d a b => exact (exec_remI m d a b s).trans (alu2_eq_runRow divI_r m d a b s)
  | remN m d a b => exact (exec_remN m d a b s).trans (alu2_eq_runRow divN_r m d a b s)
  | adds m d a b => exact (exec_adds m d a b s).trans (alu2_eq_runRow (fun a b => clampI_eq (a.toInt + b.toInt)) m d a b s)
  | subs m d a b => exact (exec_subs m d a b s).trans (alu2_eq_runRow (fun a b => clampI_eq (a.toInt - b.toInt)) m d a b s)
  | dot4Ii m d a b => exact (exec_dot4Ii m d a b s).trans (alu3_eq_runRow (dot4_eq true) m d a b s)
  | dot4Ni m d a b => exact (exec_dot4Ni m d a b s).trans (alu3_eq_runRow (dot4_eq false) m d a b s)
  | sad m d a b => exact (exec_sad m d a b s).trans (alu3_eq_runRow sad_eq m d a b s)

/-- Every register that a row names is a run of at least one. -/
theorem intRow_length_pos {i : Instr} {w : WordRow} (h : IntRow i w) : ∀ e ∈ w.regs, 0 < e.2 := by
  cases h
  case movi => exact List.forall_mem_nil _
  case abs | neg | not | clz | popc | brev | mov | addi | shli | shri | sari => exact List.forall_mem_singleton.2 Nat.one_pos
  all_goals exact length_pos_operands Nat.one_pos Nat.one_pos

/-- Settles O1: every function runs its row's value over the threads and iterations. -/
theorem integerWordResults : Obligations.IntegerWordResults := by
  intro i w hrow s p x hi hw
  rw [intRow_exec hrow]
  exact vecOp_completes w (intRow_length_pos hrow) hi hw

/-! ### Words of 64 bits (R108, R109) -/

/-- The outcome of a word of a wide row. -/
def runWide (w : WideRow) (s : State) : Host.Outcome State Fault Refusal := s.vecOp64 w.m w.d w.regs w.val

/-- `lea` and the wide functions compute the values of their rows. -/
theorem wideOf_exec {i : Instr} {w : WideRow} (h : WideOf i w) (s : State) : exec i s = runWide w s := by
  cases h with
  | leaB m d a b => exact exec_leaB m d a b s
  | leaH m d a b => exact exec_leaH m d a b s
  | leaW m d a b => exact exec_leaW m d a b s
  | leaD m d a b => exact exec_leaD m d a b s
  | add64 m d a b => exact exec_add64 m d a b s
  | sub64 m d a b => exact exec_sub64 m d a b s
  | mulW m d a b => simp only [exec_mulW, execMulW, runWide, signExtend_mul_signExtend]
  | mulWn m d a b => simp only [exec_mulWn, execMulWn, runWide, setWidth_mul_setWidth]

theorem wideOf_length_pos {i : Instr} {w : WideRow} (h : WideOf i w) : ∀ e ∈ w.regs, 0 < e.2 := by
  cases h
  case add64 | sub64 => exact length_pos_operands Nat.two_pos Nat.two_pos
  case mulW | mulWn => exact length_pos_operands Nat.one_pos Nat.one_pos
  all_goals exact length_pos_operands Nat.two_pos Nat.one_pos

/-- Settles O2: every function writes its row's value whole to a uniform register, or half by half to a pair. -/
theorem integerWideResults : Obligations.IntegerWideResults := by
  intro i w hrow s p x hi hw _
  rw [wideOf_exec hrow]
  exact vecOp64_completes w (wideOf_length_pos hrow) hi hw

end Sys2Proof.Proofs
end

section
/-! PROOFS. Masks as sets of threads, words that raise a cause (R271, R274, R275), and the end of regions (R293, R294). -/

namespace Sys2Proof.Proofs

open Sys2Proof Sys2Proof.Machine Sys2Proof.Says

/-! ### Masks as sets of threads -/

theorem bitOf_lt {m : Mask} {t : Nat} (h : bitOf m t = true) : t < 64 := BitVec.lt_of_getLsbD h

theorem bitOf_and (a b : Mask) (t : Nat) : bitOf (a &&& b) t = (bitOf a t && bitOf b t) := BitVec.getLsbD_and

theorem bitOf_or (a b : Mask) (t : Nat) : bitOf (a ||| b) t = (bitOf a t || bitOf b t) := BitVec.getLsbD_or

theorem bitOf_bitMask {t : Nat} (ht : t < 64) (u : Nat) : bitOf (bitMask t) u = decide (u = t) := by
  simp only [bitOf, bitMask, BitVec.getLsbD_ofNat, Nat.testBit_two_pow]
  by_cases hu : u = t
  · simp [hu, ht]
  · simp [hu, Ne.symm hu]

/-- A mask without a thread is 0. -/
theorem eq_zero_iff_bitOf (m : Mask) : m = 0 ↔ ∀ t, bitOf m t = false := by
  constructor
  · rintro rfl t
    exact BitVec.getLsbD_zero
  · intro h
    exact BitVec.eq_of_getLsbD_eq fun t _ => (h t).trans BitVec.getLsbD_zero.symm

theorem bitOf_foldl_setBit {ts : List Nat} (hts : ∀ t ∈ ts, t < 64) (m : Mask) (u : Nat) :
    bitOf (ts.foldl (fun w t => setBit w t true) m) u = (bitOf m u || decide (u ∈ ts)) := by
  induction ts generalizing m with
  | nil => simp
  | cons t ts ih =>
    obtain ⟨ht, hts⟩ := List.forall_mem_cons.1 hts
    rw [List.foldl_cons, ih hts, setBit, if_pos rfl, bitOf_or, bitOf_bitMask ht]
    simp [Bool.or_assoc]

/-- The mask of a list of threads holds those threads. -/
theorem bitOf_maskOfList {ts : List Nat} (hts : ∀ t ∈ ts, t < 64) (u : Nat) : bitOf (maskOfList ts) u = decide (u ∈ ts) := by
  rw [maskOfList, bitOf_foldl_setBit hts, (eq_zero_iff_bitOf 0).1 rfl, Bool.false_or]

theorem lt_of_mem_threadsOf {w t : Nat} {m : Mask} (h : t ∈ threadsOf w m) : t < 64 := bitOf_lt (mem_threadsOf.1 h).2

theorem nodup_threadsOf (w : Nat) (m : Mask) : (threadsOf w m).Nodup := List.nodup_range.filter _

/-- The active threads, listed (R12, R149). -/
theorem mem_threadsOf_m0 {x : Party} {t : Nat} : t ∈ threadsOf x.width x.m0 ↔ Active x t := mem_threadsOf

/-! ### Words that raise a cause -/

theorem raiseHere_of_issuing {s : State} {p : Nat} {x : Party} (hi : Issuing s p x) (cause : BitVec 6) (mfault : Mask) (info : DWord) :
    s.raiseHere p cause mfault info = s.raise p (x.trapHere x.pos.m0 cause mfault [] info) := by
  rw [State.raiseHere, hi.2]

/-- A cause raised at the group for the threads of a mask. -/
theorem raises_raiseHere {s : State} {p : Nat} {x : Party} (hi : Issuing s p x) (cause : BitVec 6) {mfault : Mask} {bad : Nat → Prop}
    (hbad : ∀ u, bitOf mfault u = true ↔ bad u) (info : DWord) : Raises s p x cause bad info (s.raiseHere p cause mfault info) :=
  ⟨_, raiseHere_of_issuing hi cause mfault info, rfl, rfl, rfl, rfl, hbad, rfl, rfl, rfl⟩

/-! ### The end of regions -/

/-- A record that stays after a region was taken off: what is left of one that stood, without that region. -/
theorem exists_of_mem_dropOwner {tags : List Tag} {p : Nat} {o : Nat × Nat} {g : Tag} (hg : g ∈ dropOwner tags p o) :
    ∃ g₀ ∈ tags, g₀.party = g.party ∧ g.owners ⊆ g₀.owners ∧ (g.party = p → o ∉ g.owners) := by
  obtain ⟨g₀, hg₀, rfl⟩ := List.mem_map.1 (List.mem_of_mem_filter hg)
  refine ⟨g₀, hg₀, ?_⟩
  by_cases hp : g₀.party = p
  · rw [if_pos (beq_iff_eq.2 hp)]
    exact ⟨rfl, List.filter_subset_self _, fun _ ho => by simpa using (List.mem_filter.1 ho).2⟩
  · rw [if_neg (by simpa using hp)]
    exact ⟨rfl, List.Subset.refl _, fun h => absurd h hp⟩

/-- Records of other parties stay. -/
theorem mem_dropOwner_of_ne {tags : List Tag} {p : Nat} {g : Tag} (hg : g ∈ tags) (hp : g.party ≠ p) (ho : g.owners ≠ []) (o : Nat × Nat) :
    g ∈ dropOwner tags p o :=
  List.mem_filter.2 ⟨List.mem_map.2 ⟨g, hg, by simp [hp]⟩, by simpa using ho⟩

/-- No region has ended yet. -/
theorem regionsEnd_nil (s : State) (p : Nat) {x : Party} (hx : x.idempc = none) : RegionsEnd s p x [] (s.setParty p x) x :=
  ⟨fun t => by simp, by rw [← hx], rfl, fun g _ _ t ht => absurd ht List.not_mem_nil, fun g hg _ _ => hg⟩

theorem party?_of_regionsEnd {s s' : State} {p : Nat} {x x' : Party} {ts : List Nat} (h : RegionsEnd s p x ts s' x') :
    s'.party? p = some x' := by
  obtain ⟨-, -, hs, -, -⟩ := h
  rw [hs]
  exact sfind_sput_same x' p s.parties

/-- The party of a thread whose region ends. -/
def nextRegion (x : Party) (t : Nat) : Party := { x with region := sset 0 x.region t (x.regionOf t + 1) }

theorem regionOf_nextRegion (x : Party) (t u : Nat) : (nextRegion x t).regionOf u = x.regionOf u + if u = t then 1 else 0 := by
  by_cases hu : u = t
  · simp [nextRegion, Party.regionOf, hu]
  · simp [nextRegion, Party.regionOf, sget_sset_ne, hu]

/-- The records after a region has ended: it is taken off them once its writes are acknowledged (R294). -/
def tagsAfter (s : State) (p : Nat) (o : Nat × Nat) : List Tag := if s.unacked p o then s.tags else dropOwner s.tags p o

theorem exists_of_mem_tagsAfter {s : State} {p : Nat} {o : Nat × Nat} {g : Tag} (hg : g ∈ tagsAfter s p o) :
    ∃ g₀ ∈ s.tags, g₀.party = g.party ∧ g.owners ⊆ g₀.owners ∧ (g.party = p → s.unacked p o = false → o ∉ g.owners) := by
  by_cases hopen : s.unacked p o = true
  · rw [tagsAfter, if_pos hopen] at hg
    exact ⟨g, hg, rfl, List.Subset.refl _, fun _ h => absurd (hopen.symm.trans h) Bool.noConfusion⟩
  · rw [tagsAfter, if_neg hopen] at hg
    obtain ⟨g₀, hg₀, hparty, hsub, hdrop⟩ := exists_of_mem_dropOwner hg
    exact ⟨g₀, hg₀, hparty, hsub, fun hp _ => hdrop hp⟩

theorem mem_tagsAfter_of_ne {s : State} {p : Nat} {g : Tag} (hg : g ∈ s.tags) (hp : g.party ≠ p) (ho : g.owners ≠ []) (o : Nat × Nat) :
    g ∈ tagsAfter s p o := by
  unfold tagsAfter
  split
  · exact hg
  · exact mem_dropOwner_of_ne hg hp ho o

theorem endRegion_of_party {s : State} {p : Nat} {x : Party} (hp : s.party? p = some x) (t : Nat) :
    s.endRegion p t = { s.setParty p (nextRegion x t) with tags := tagsAfter s p (t, x.regionOf t) } := by
  rw [State.endRegion, hp, tagsAfter]
  dsimp only
  split <;> rfl

/-- One more thread's region ends. -/
theorem regionsEnd_concat {s s' : State} {p : Nat} {x x' : Party} {ts : List Nat} (h : RegionsEnd s p x ts s' x') {t : Nat} (ht : t ∉ ts) :
    RegionsEnd s p x (ts ++ [t]) (s'.endRegion p t) (nextRegion x' t) := by
  have hp := party?_of_regionsEnd h
  obtain ⟨hregion, hx, hs, hended, hothers⟩ := h
  have ht' : x'.regionOf t = x.regionOf t := by rw [hregion, if_neg ht, Nat.add_zero]
  have hacked : s'.unacked p = s.unacked p := by rw [hs]; rfl
  rw [endRegion_of_party hp, ht']
  refine ⟨fun u => ?_, ?_, ?_, fun g hg hgp u hu hua => ?_, fun g hg hgp hgo => ?_⟩
  · rw [regionOf_nextRegion, hregion, Nat.add_assoc]
    by_cases hut : u = t
    · simp [hut, ht]
    · simp [hut]
  · rw [nextRegion, hx]
  · rw [hs]
    simp only [State.setParty, sput_sput_same]
  · obtain ⟨g₀, hg₀, hparty, hsub, hdrop⟩ := exists_of_mem_tagsAfter hg
    rcases List.mem_append.1 hu with hu | hu
    · exact fun ho => hended g₀ hg₀ (hparty.trans hgp) u hu hua (hsub ho)
    · rw [List.mem_singleton.1 hu] at hua ⊢
      exact hdrop hgp (hacked ▸ hua)
  · exact mem_tagsAfter_of_ne (hothers g hg hgp hgo) hgp hgo _

/-- The regions of distinct threads end. -/
theorem exists_regionsEnd (s : State) (p : Nat) {x : Party} (hx : x.idempc = none) {ts : List Nat} (hts : ts.Nodup) :
    ∃ z, RegionsEnd s p x ts ((s.setParty p x).endRegions p ts) z := by
  induction ts using List.reverseRecOn with
  | nil => exact ⟨x, regionsEnd_nil s p hx⟩
  | append_singleton ts t ih =>
    obtain ⟨hts, -, hdisjoint⟩ := List.nodup_append.1 hts
    obtain ⟨z, hz⟩ := ih hts
    have ht : t ∉ ts := fun h => hdisjoint t h t (List.mem_singleton_self t) rfl
    exact ⟨_, by rw [State.endRegions, List.foldl_concat]; exact regionsEnd_concat hz ht⟩

end Sys2Proof.Proofs
end

section
/-! PROOFS. Registers by index, the window base, positions and uniform immediates (R144 to R146, R107): O10. -/

namespace Sys2Proof.Proofs

open Sys2Proof Sys2Proof.Machine Sys2Proof.Says

/-! ### Registers by index (R144) -/

/-- An indexed access whose indices all lie below Rt runs. -/
theorem indexed_ok {x : Party} {m : Mods} {a : Reg} (h : ∀ t ∈ sel x m, (x.reg32 t 0 a).toNat < min x.rt 1024) (s : State) (p : Nat)
    (go : State) : s.indexed p x m a go = go := by
  have hbad : x.badIndex m a = [] := List.filter_eq_nil_iff.2 fun t ht => by simpa [Party.limit] using h t ht
  rw [State.indexed, hbad]

/-- An indexed access raises 0x07 for the threads whose index does not. -/
theorem indexed_bad {x : Party} {m : Mods} {a : Reg} {t : Nat} {ts : List Nat} (hbad : x.badIndex m a = t :: ts) (s : State) (p : Nat)
    (go : State) :
    s.indexed p x m a go = s.raiseHere p 0x07 (maskOfList (t :: ts)) (BitVec.ofNat 64 ((x.reg32 t 0 a).toNat % 2048)) := by
  rw [State.indexed, hbad]

theorem exec_ixr_vector {s : State} {p : Nat} {x : Party} (hi : Issuing s p x) {m : Mods} {n : Fin 96} {a : Reg}
    (hw : Within x m [(.v n, 1), (a, 1)]) : exec (.ixr m (.v n) a) s =
      .next (s.indexed p x m a (s.setParty p (x.vecStep m n.val 0 fun q t _ => q.vphys t (q.reg32 t 0 a).toNat))) := by
  rw [exec_ixr, execIxr, issue_next hi.1 hi.2, alloc_within hw (by simp)]

/-- The writes of `ixw`: each thread of a list writes the register of its own thread that its index names. -/
def writeIndexed (x : Party) (ts : List Nat) (index : Nat → Nat) (val : Nat → Word) : Party :=
  (ts.map fun t => (t, index t, val t)).foldl (fun q w => q.setV w.1 w.2.1 w.2.2) x

theorem exec_ixw_writes {s : State} {p : Nat} {x : Party} (hi : Issuing s p x) {m : Mods} {a : Reg} {b : Src}
    (hw : Within x m ((a, 1) :: srcRun b 1)) : exec (.ixw m a b) s =
      .next (s.indexed p x m a (s.setParty p
        (writeIndexed x (sel x m) (fun t => (x.reg32 t 0 a).toNat) fun t => x.src32 t 0 b))) := by
  rw [exec_ixw, execIxw, issue_next hi.1 hi.2, alloc_within hw (length_pos_operands Nat.one_pos Nat.one_pos)]
  rfl

theorem writeIndexed_cons (x : Party) (t : Nat) (ts : List Nat) (index : Nat → Nat) (val : Nat → Word) :
    writeIndexed x (t :: ts) index val = writeIndexed (x.setV t (index t) (val t)) ts index val := rfl

theorem vNow_writeIndexed {ts : List Nat} {index : Nat → Nat} (hindex : ∀ t ∈ ts, index t < 1024) (x : Party) (val : Nat → Word) (t : Nat)
    {r : Nat} (hr : r < 1024) : (writeIndexed x ts index val).vNow t r = if t ∈ ts ∧ r = index t then val t else x.vNow t r := by
  induction ts generalizing x with
  | nil => simp [writeIndexed]
  | cons u ts ih =>
    obtain ⟨hu, hindex⟩ := List.forall_mem_cons.1 hindex
    rw [writeIndexed_cons, ih hindex, vNow_setV]
    have hcell : 1024 * t + r = 1024 * u + index u ↔ t = u ∧ r = index t := by
      constructor
      · intro h
        have htu : t = u := by omega
        exact ⟨htu, by subst htu; omega⟩
      · rintro ⟨rfl, h⟩
        rw [h]
    simp only [hcell, List.mem_cons]
    by_cases htu : t = u
    · subst htu
      by_cases hrt : r = index t <;> simp [hrt]
    · simp [htu]

/-- Only vector registers change. -/
theorem writeIndexed_eq (x : Party) (ts : List Nat) (index : Nat → Nat) (val : Nat → Word) :
    writeIndexed x ts index val = { x with regs := { x.regs with v := (writeIndexed x ts index val).regs.v } } := by
  induction ts generalizing x with
  | nil => rfl
  | cons u ts ih =>
    rw [writeIndexed_cons, ih]
    rfl

theorem indexedRegisters : Says.IndexedRegisters := by
  intro s p x m a b n hi
  refine ⟨fun hw hreps hin => ?_, fun hw hin => ?_, fun t ts hbad =>
    ⟨maskOfList (t :: ts), bitOf_maskOfList fun u hu => ?_, fun hw => ?_, fun hw => ?_⟩⟩
  · have hreg : x.selected m ||| x.zeroed m ≠ 0 → x.base + n.val + 0 < 1024 := fun ht => dest_lt_of_within hw ht (repsOf_pos m)
    refine ⟨_, vecStep_spec (.refl x) (fun q t _ => q.vphys t (q.reg32 t 0 a).toNat) hreg, ?_⟩
    rw [exec_ixr_vector hi hw, indexed_ok hin]
  · have hlt : ∀ t ∈ sel x m, (x.reg32 t 0 a).toNat < 1024 := fun t ht => Nat.lt_of_lt_of_le (hin t ht) (Nat.min_le_right _ _)
    refine ⟨_, fun t r hr => vNow_writeIndexed hlt x (fun t => x.src32 t 0 b) t hr, writeIndexed_eq x _ _ _, ?_⟩
    rw [exec_ixw_writes hi hw, indexed_ok hin]
  · rw [← hbad] at hu
    exact lt_of_mem_threadsOf (List.mem_of_mem_filter hu)
  · rw [exec_ixr_vector hi hw, indexed_bad hbad]
  · rw [exec_ixw_writes hi hw, indexed_bad hbad]

/-! ### The window base (R145) -/

/-- A refused base with bit 63 set (R275). -/
theorem setWidth_or_bit63 (v : Word) : v.setWidth 64 ||| (1 <<< 63 : DWord) = BitVec.ofNat 64 (v.toNat + 2 ^ 63) := by
  have hbit : (1 <<< 63 : DWord) = BitVec.twoPow 64 63 := by decide
  have hdisjoint : v.setWidth 64 &&& BitVec.twoPow 64 63 = 0#64 := by
    ext i hi
    simp only [BitVec.getElem_and, BitVec.getElem_setWidth, BitVec.getElem_twoPow, BitVec.getElem_zero]
    by_cases h : i = 63 <;> simp [h]
  rw [hbit, ← BitVec.add_eq_or_of_and_eq_zero _ _ hdisjoint, BitVec.ofNat_add, BitVec.ofNat_toNat]
  rfl

/-- `win` sets the base, or raises 0x07 and reports it. -/
theorem exec_win_result {s : State} {p : Nat} {x : Party} (hi : Issuing s p x) (m : Mods) (b : Src) : exec (.win m b) s = .next
    (if (x.src32 0 0 b).toNat % 16 = 0 ∧ (x.src32 0 0 b).toNat + 16 ≤ min x.rt 1024
      then s.setParty p { x with wb := (x.src32 0 0 b).toNat }
      else s.raiseHere p 0x07 x.m0 (BitVec.ofNat 64 ((x.src32 0 0 b).toNat + 2 ^ 63))) := by
  rw [exec_win, execWin, issue_next hi.1 hi.2, ← setWidth_or_bit63, ← ite_not, Party.limit]
  simp only [Bool.or_eq_true, bne_iff_ne, ne_eq, decide_eq_true_eq, not_or, not_not, Nat.not_lt]

theorem windowBase : Says.WindowBase := by
  intro s p x m b hi
  refine ⟨fun halign hle => ?_, fun hbad => ?_⟩
  · rw [exec_win_result hi, if_pos ⟨halign, hle⟩]
  · rw [exec_win_result hi, if_neg hbad]

/-! ### Positions (R27, R146) and uniform immediates (R107) -/

/-- The machine after `tid`: selector 3 pins the crew (R30). -/
def afterTid (s : State) (x : Party) (b : BitVec 7) : State :=
  if b.toNat = 3 then s.onCrew x.crew (fun c => { c with pinned := true }) else s

/-- What `tid` reads for a thread. -/
def tidValue (s : State) (x : Party) (b : BitVec 7) (t : Nat) : Nat := if b.toNat = 0 then t else (afterTid s x b).position x b.toNat

/-- The iterations of a vector function within Rt leave the row's result. -/
theorem result_iterates {x : Party} {m : Mods} {n : Fin 96} {regs : List (Reg × Nat)} (hw : Within x m ((.v n, 1) :: regs))
    (f : Party → Nat → Nat → Word) :
    (WordRow.mk m (.v n) regs f).Result x (iterates (fun k q => q.vecStep m n.val k f) x (repsOf m)) :=
  ⟨iterates (fun k q => q.vecStep m n.val k f) x, rfl, rfl, fun k hk =>
    vecStep_spec (sameButResults_iterates (fun k q => sameButResults_vecStep q m n.val k f) x k) f fun ht => dest_lt_of_within hw ht hk⟩

/-- `tid` writes the position for its thread. -/
theorem exec_tid_result {s : State} {p : Nat} {x : Party} (hi : Issuing s p x) {m : Mods} {d : Reg} (hw : Within x m [(d, 1)])
    (hreps : repsOf m = 1) (b : BitVec 7) :
    ∃ z, (WordRow.mk m d [] fun _ t _ => BitVec.ofNat 32 (tidValue s x b t)).Result x z ∧
      exec (.tid m d b) s = .next ((afterTid s x b).setParty p z) := by
  rw [exec_tid, execTid, issue_next hi.1 hi.2, alloc_within hw (by simp)]
  cases d with
  | s n => exact ⟨_, uniStep_setU x n.val _, rfl⟩
  | v n =>
    refine ⟨_, result_iterates hw _, ?_⟩
    rw [hreps]
    rfl

theorem positionsAndImmediates : Says.PositionsAndImmediates := by
  refine ⟨fun s p x m d b hi hw hreps hb => ?_, fun s p x m n imm hi => ⟨_, uniStep_setU x n.val _, ?_⟩⟩
  · obtain ⟨z, hz, hexec⟩ := exec_tid_result hi hw hreps b
    refine ⟨z, ?_, hexec⟩
    convert hz using 6 with _ t _
    unfold tidValue afterTid
    generalize b.toNat = k at hb ⊢
    interval_cases k <;> rfl
  · rw [exec_movi, execMovi, issue_next hi.1 hi.2]

/-- Settles O10: `ixr`, `ixw`, `win`, `tid` and a uniform `movi` do what R144 to R146 and R107 say. -/
theorem indexedAndPositionForms : Obligations.IndexedAndPositionForms := ⟨indexedRegisters, windowBase, positionsAndImmediates⟩

end Sys2Proof.Proofs
end

section
/-! PROOFS. Transfers (R149): branches, `loop` and jump tables (R67, R150, R151, R161): O16. -/

namespace Sys2Proof.Proofs

open Sys2Proof Sys2Proof.Machine Sys2Proof.Says

/-! ### Transfers (R149, R274) -/

/-- One value for every key of a list. -/
theorem sget_foldl_sset {α : Type} [DecidableEq α] (d v : α) (ts : List Nat) (m : Sparse α) (j : Nat) :
    sget d (ts.foldl (fun st t => sset d st t v) m) j = if j ∈ ts then v else sget d m j := by
  induction ts generalizing m with
  | nil => simp
  | cons t ts ih =>
    rw [List.foldl_cons, ih, sget_sset]
    by_cases hj : j = t <;> simp [hj]

section
variable {x y z : Party} {goes goes' : Nat → Prop} {target target' : Nat → DWord}

theorem transfers_active (h : Transfers x goes target y) (t : Nat) : Active y t ↔ Active x t := by
  obtain ⟨-, -, -, heq⟩ := h
  rw [heq]
  exact Iff.rfl

theorem transfers_here (h : Transfers x goes target y) : y.here = x.here := by
  obtain ⟨-, -, -, heq⟩ := h
  rw [heq]
  rfl

theorem transfers_width (h : Transfers x goes target y) : y.width = x.width := by
  obtain ⟨-, -, -, heq⟩ := h
  rw [heq]

open Classical in
/-- Only the active threads that go, and their targets, matter. -/
theorem transfers_congr (h : Transfers x goes target z) (hgoes : ∀ t, Active x t → (goes t ↔ goes' t))
    (htarget : ∀ t, Active x t → goes t → target t = target' t) : Transfers x goes' target' z := by
  have hmoves : ∀ t, Active x t ∧ goes' t ↔ Active x t ∧ goes t := fun t => and_congr_right fun ht => (hgoes t ht).symm
  obtain ⟨hpc, hxfer, hmoved, heq⟩ := h
  refine ⟨fun t => ?_, fun t => ?_, fun t ht => ?_, heq⟩
  · rw [hpc]
    by_cases ht : Active x t ∧ goes t
    · rw [if_pos ht, if_pos ((hmoves t).2 ht), htarget t ht.1 ht.2]
    · rw [if_neg ht, if_neg fun h => ht ((hmoves t).1 h)]
  · simp only [hxfer, hmoves]
  · simp only [hmoved t ht, hmoves]

open Classical in
/-- No thread goes. -/
theorem transfers_none (hgoes : ∀ t, Active x t → ¬ goes t) : Transfers x goes target x := by
  have hmoves : ∀ t, ¬ (Active x t ∧ goes t) := fun t h => hgoes t h.1 h.2
  exact ⟨fun t => by rw [if_neg (hmoves t)], fun t => by rw [if_neg (hmoves t)], fun t _ => by simp [hmoves], rfl⟩

open Classical in
/-- One transfer after another. -/
theorem transfers_trans (hxy : Transfers x goes target y) (hyz : Transfers y goes' target z) :
    Transfers x (fun t => goes t ∨ goes' t) target z := by
  have hactive := transfers_active hxy
  have hhere := transfers_here hxy
  have hwidth := transfers_width hxy
  obtain ⟨hpc, hxfer, hmoved, heq⟩ := hxy
  obtain ⟨hpc', hxfer', hmoved', heq'⟩ := hyz
  simp only [hactive, hhere, hwidth] at hpc' hxfer' hmoved'
  refine ⟨fun t => ?_, fun t => ?_, fun t ht => ?_, ?_⟩
  · rw [hpc', hpc]
    by_cases ht : Active x t ∧ goes t
    · simp [ht]
    · simp [and_or_left, ht]
  · rw [hxfer', hxfer]
    by_cases ht : Active x t ∧ goes t
    · simp [ht]
    · simp [and_or_left, ht]
  · rw [hmoved' t ht, hmoved t ht]
    simp only [decide_eq_true_eq, or_assoc, and_or_left]
  · rw [heq', heq]

end

open Classical in
/-- The threads of a part of m0 go to one target. -/
theorem transfers_goto {x : Party} {m : Mask} {goes : Nat → Prop} (hm : ∀ t, bitOf m t = true → bitOf x.m0 t = true)
    (hgoes : ∀ t, Active x t → (bitOf m t = true ↔ goes t)) (a : DWord) : Transfers x goes (fun _ => a) (x.goto m a) := by
  have hmem : ∀ t, t ∈ threadsOf x.width m ↔ Active x t ∧ goes t := fun t => by
    rw [mem_threadsOf, ← and_congr_right (hgoes t), Active, and_assoc, and_iff_right_of_imp (hm t)]
  refine ⟨fun t => ?_, fun t => ?_, fun t ht => ?_, rfl⟩
  · simp only [Party.pcOf, Party.goto, Party.setPc, sget_foldl_sset, hmem]
  · by_cases ht : Active x t ∧ goes t <;> simp [Party.goto, Party.setPc, setAll, sget_foldl_sset, hmem, ht]
  · rw [Bool.eq_iff_iff, decide_eq_true_eq, ← hmem, mem_threadsOf, and_iff_right ht, Party.goto, bitOf_or, Bool.or_eq_true]

open Classical in
/-- Active threads go each to a target of its own. -/
theorem transfers_gotoEach {ts : List Nat} (target : Nat → DWord) {x : Party} (hts : ∀ t ∈ ts, Active x t) :
    Transfers x (fun t => t ∈ ts) target (x.gotoEach (ts.map fun t => (t, target t))) := by
  induction ts generalizing x with
  | nil => exact transfers_none fun t _ => List.not_mem_nil
  | cons u ts ih =>
    obtain ⟨hu, hts⟩ := List.forall_mem_cons.1 hts
    have hbit : ∀ t, bitOf (bitMask u) t = true ↔ t = u := fun t => by rw [bitOf_bitMask (bitOf_lt hu.2), decide_eq_true_eq]
    have hfirst : Transfers x (fun t => t = u) target (x.goto (bitMask u) (target u)) :=
      transfers_congr (transfers_goto (fun t ht => (hbit t).1 ht ▸ hu.2) (fun t _ => hbit t) (target u)) (fun _ _ => Iff.rfl)
        fun t _ ht => by rw [ht]
    have hrest := ih (x := x.goto (bitMask u) (target u)) fun t ht => (transfers_active hfirst t).2 (hts t ht)
    exact transfers_congr (transfers_trans hfirst hrest) (fun t _ => List.mem_cons.symm) fun _ _ _ => rfl

/-! ### Packet numbers (R66, R67) -/

theorem codeAddress_iff (a : DWord) : CodeAddress a ↔ a.toNat / 8 % 8 = 0 ∧ a.toNat % 8 ≤ 4 := by
  rw [CodeAddress, BitVec.toNat_eq, BitVec.extractLsb'_toNat, BitVec.extractLsb'_toNat, Nat.shiftRight_eq_div_pow]
  simp

/-- The address of the packet `n` from a packet, while its line lies below 2^64. -/
theorem toNat_branchTarget {a : DWord} {n : Int} {k : Nat} (hk : packetNo a + n = k) (hlt : k / 5 < 2 ^ 58) :
    (branchTarget a n).toNat = k / 5 * 64 + k % 5 := by
  have hmod := Nat.mod_lt k (show 0 < 5 by decide)
  rw [branchTarget, hk]
  exact_mod_cast Nat.mod_eq_of_lt (show k / 5 * 64 + k % 5 < 2 ^ 64 by omega)

theorem packetNo_branchTarget {a : DWord} {n : Int} (h0 : 0 ≤ packetNo a + n) (hlt : (packetNo a + n) / 5 < 2 ^ 58) :
    CodeAddress (branchTarget a n) ∧ packetNo (branchTarget a n) = packetNo a + n := by
  obtain ⟨k, hk⟩ := Int.eq_ofNat_of_zero_le h0
  rw [hk] at hlt ⊢
  have haddr := toNat_branchTarget hk (by omega)
  rw [codeAddress_iff, packetNo, haddr]
  omega

/-! ### Branches (R150) -/

/-- A branch transfers the threads of the mask that its function picks from m0. -/
theorem branch_transfers {s : State} {p : Nat} {x : Party} (hi : Issuing s p x) {w : Nat} (off : BitVec w) {f : Party → Mask} {mask : Mask}
    (hmask : f x = mask) {goes : Nat → Prop} (hgoes : ∀ t, bitOf x.m0 t = true → (bitOf mask t = true ↔ goes t))
    (hm : ∀ t, bitOf mask t = true → bitOf x.m0 t = true) :
    ∃ z, Transfers x goes (fun _ => branchTarget x.pos.pkt off.toInt) z ∧ s.branch off f = .next (s.setParty p z) := by
  refine ⟨x.goto mask (x.target off), transfers_goto hm (fun t ht => hgoes t ht.2) _, ?_⟩
  rw [State.branch, issue_next hi.1 hi.2, hmask]

theorem bitOf_ite_zero (c : Prop) [Decidable c] (m : Mask) (t : Nat) : bitOf (if c then m else 0) t = true ↔ c ∧ bitOf m t = true := by
  by_cases hc : c
  · simp [hc]
  · simp only [hc, if_false, (eq_zero_iff_bitOf 0).1 rfl, Bool.false_eq_true, false_and]

/-- Some thread is in both masks. -/
theorem and_ne_zero_iff (a b : Mask) : a &&& b ≠ 0 ↔ ∃ u, bitOf a u = true ∧ bitOf b u = true := by
  rw [Ne, eq_zero_iff_bitOf, not_forall]
  simp only [bitOf_and, Bool.not_eq_false, Bool.and_eq_true]

/-- Every thread of the first mask is in the second. -/
theorem and_not_eq_zero_iff (a b : Mask) : a &&& ~~~ b = 0 ↔ ∀ u, bitOf a u = true → bitOf b u = true := by
  rw [eq_zero_iff_bitOf]
  refine forall_congr' fun u => ?_
  by_cases hu : u < 64
  · simp [bitOf, hu]
  · simp [bitOf, BitVec.getLsbD_of_ge _ u (Nat.not_lt.1 hu)]

theorem branchRow_transfers {i : Instr} {goes : Party → Nat → Prop} {n : Int} (h : BranchRow i goes n) {s : State} {p : Nat} {x : Party}
    (hi : Issuing s p x) : ∃ z, Transfers x (goes x) (fun _ => branchTarget x.pos.pkt n) z ∧ exec i s = .next (s.setParty p z) := by
  cases h with
  | br m off => exact branch_transfers hi off rfl (fun t ht => iff_of_true ht trivial) fun t ht => ht
  | brC m k off =>
    refine branch_transfers hi off (mask := x.m0 &&& x.mask k) rfl (fun t ht => ?_) fun t ht => ?_
    · rw [bitOf_and, ht, Bool.true_and]
    · rw [bitOf_and, Bool.and_eq_true] at ht
      exact ht.1
  | brAny m k off =>
    refine branch_transfers hi off (mask := if x.m0 &&& x.mask k = 0 then 0 else x.m0) rfl (fun t ht => ?_) fun t ht => ?_
    · rw [← ite_not, bitOf_ite_zero, and_iff_left ht]
      exact and_ne_zero_iff _ _
    · rw [← ite_not, bitOf_ite_zero] at ht
      exact ht.2
  | brAll m k off =>
    refine branch_transfers hi off (mask := if x.m0 &&& ~~~ x.mask k = 0 then x.m0 else 0) rfl (fun t ht => ?_) fun t ht => ?_
    · rw [bitOf_ite_zero, and_iff_left ht]
      exact and_not_eq_zero_iff _ _
    · rw [bitOf_ite_zero] at ht
      exact ht.2

/-! ### Loops (R161) -/

theorem m0_setU (x : Party) (n : Nat) (v : DWord) : (x.setU n v).m0 = x.m0 := by
  unfold Party.setU
  split <;> rfl

/-- The threads of m0 go on from a party that differs in a uniform register alone. -/
theorem transfers_loop (x : Party) (n : Nat) (v a : DWord) :
    Transfers (x.setU n v) (fun _ => True) (fun _ => a) ((x.setU n v).goto x.m0 a) :=
  transfers_goto (fun t ht => by rwa [m0_setU]) (fun t ht => iff_of_true (m0_setU x n v ▸ ht.2) trivial) a

theorem branches : Says.Branches := by
  refine ⟨fun i goes n hrow s p x hi => branchRow_transfers hrow hi, fun s p x m c off hi => ?_,
    fun a n _ h0 hlt => packetNo_branchTarget h0 hlt⟩
  intro v
  refine ⟨x.setU (24 + c.toNat) v, if v = 0 then x.setU (24 + c.toNat) v else (x.setU (24 + c.toNat) v).goto x.m0 (x.target off),
    uniStep_setU x _ v, ?_, ?_⟩
  · by_cases hv : v = 0
    · rw [if_pos hv, if_pos hv]
    · rw [if_neg hv, if_neg hv]
      exact transfers_loop x _ v _
  · rw [exec_loop, execLoop, issue_next hi.1 hi.2]

/-! ### Jump tables (R151) -/

/-- The active threads whose index reaches the bound of `brx`. -/
def pastBound (x : Party) (d : BitVec 7) (b : Reg) : List Nat :=
  (threadsOf x.width x.m0).filter fun t => decide (d.toNat ≤ (x.reg32 t 0 b).toNat)

theorem mem_pastBound {x : Party} {d : BitVec 7} {b : Reg} {t : Nat} :
    t ∈ pastBound x d b ↔ Active x t ∧ d.toNat ≤ (x.reg32 t 0 b).toNat := by
  rw [pastBound, List.mem_filter, mem_threadsOf_m0, decide_eq_true_eq]

theorem exec_brx_cases {s : State} {p : Nat} {x : Party} (hi : Issuing s p x) {m : Mods} (d : BitVec 7) (a : Reg) {b : Reg}
    (hw : Within x m [(b, 1)]) : exec (.brx m d a b) s = .next (if pastBound x d b = [] then s.setParty p (x.gotoEach
      ((threadsOf x.width x.m0).map fun t => (t, tableEntry (x.reg64 0 a) (x.reg32 t 0 b).toNat)))
      else s.raiseHere p 0x0D (maskOfList (pastBound x d b)) 0) := by
  have hbad : ((((threadsOf x.width x.m0).map fun t => (t, (x.reg32 t 0 b).toNat)).filter fun e => decide (d.toNat ≤ e.2)).map fun e => e.1) =
      pastBound x d b := by
    rw [List.filter_map, List.map_map]
    exact List.map_id _
  rw [exec_brx, execBrx, issue_next hi.1 hi.2, alloc_within hw (by simp)]
  dsimp only
  rw [hbad, List.map_map]
  simp only [List.isEmpty_iff]
  rfl

/-- A base of code address form names its packets by their distance. -/
theorem tableEntry_of_codeAddress {a : DWord} (ha : CodeAddress a) (n : Nat) : tableEntry a n = branchTarget a n := by
  obtain ⟨hzero, hindex⟩ := ha
  rw [tableEntry, hzero, if_neg (by simpa using hindex)]

theorem jumpTables : Says.JumpTables := by
  intro s p x m d a b hi hw out
  refine ⟨fun hin hbase => ?_, fun ⟨t, ht⟩ => ?_⟩
  · have hnone : pastBound x d b = [] := List.eq_nil_iff_forall_not_mem.2 fun t ht => hin t (mem_pastBound.1 ht)
    rw [exec_brx_cases hi d a hw, if_pos hnone]
    simp only [tableEntry_of_codeAddress hbase]
    refine ⟨_, transfers_congr (transfers_gotoEach (fun t => branchTarget (x.reg64 0 a) (x.reg32 t 0 b).toNat)
      fun t => mem_threadsOf_m0.1) (fun t ht => iff_of_true (mem_threadsOf_m0.2 ht) trivial) fun _ _ _ => rfl, rfl⟩
  · have hsome : pastBound x d b ≠ [] := List.ne_nil_of_mem (mem_pastBound.2 ht)
    rw [exec_brx_cases hi d a hw, if_neg hsome]
    refine ⟨_, raises_raiseHere hi 0x0D (fun u => ?_) 0, rfl⟩
    rw [bitOf_maskOfList fun t ht => bitOf_lt (mem_pastBound.1 ht).1.2, decide_eq_true_eq, mem_pastBound]

/-- Settles O16: branches, `loop` and `brx` transfer the threads they name to the packet they name. -/
theorem branchesTransfer : Obligations.BranchesTransfer := ⟨branches, jumpTables⟩

end Sys2Proof.Proofs
end

section
/-! PROOFS. Barriers (R62, R155 to R158): what a party does at one, and how arrivals are counted: O19. -/

namespace Sys2Proof.Proofs

open Sys2Proof Sys2Proof.Machine Sys2Proof.Says

/-! ### What stands before every barrier instruction (R62, R158) -/

theorem deliverFp_ok {s : State} {p : Nat} {x : Party} (hsfu : s.sfuOpen p = false) (hfp : x.csr.level ≠ 0 ∨ x.fpEnabled = 0) (go : State) :
    s.deliverFp p x go = go := by
  have hnone : ¬ (x.csr.level == 0 && x.fpEnabled != 0) = true := by
    rw [Bool.and_eq_true, beq_iff_eq, bne_iff_ne]
    exact fun ⟨hlevel, henabled⟩ => hfp.elim (fun h => h hlevel) henabled
  rw [State.deliverFp, hsfu, if_neg Bool.false_ne_true, if_neg hnone]

theorem deliverFp_raises {s : State} {p : Nat} {x : Party} (hsfu : s.sfuOpen p = false) (hlevel : x.csr.level = 0) (hfp : x.fpEnabled ≠ 0)
    (go : State) : s.deliverFp p x go = s.raiseHere p 0x18 x.m0 (x.csr.fpsum.setWidth 64) := by
  rw [State.deliverFp, hsfu, if_neg Bool.false_ne_true, if_pos (by rw [Bool.and_eq_true, beq_iff_eq, bne_iff_ne]; exact ⟨hlevel, hfp⟩)]

section
variable {s : State} {p : Nat} {x : Party} (hi : Issuing s p x) {sc : BitVec 3} {n : BitVec 4}
include hi

/-- A barrier instruction that no case of R158 refuses acts on the party's place at the barrier; one that synchronises needs no open
`mbx.st`. -/
theorem barrier_acts {b : BarAt} (hb : AtBarrier s x p sc n b) {sync : Bool}
    (hmbx : sync = true → s.mbxStOpen p (threadsOf x.width x.m0) = false) (go : Nat → Party → BarAt → State) :
    s.barrier sc n sync go = .next (go p x b) := by
  obtain ⟨hsfu, hfp, hplan, halive, hscope, hat⟩ := hb
  have hok : ¬ (x.plan || x.alive != x.m0 || decide (s.widest x < sc.toNat)) = true := by simp [hplan, halive, hscope]
  have hsynced : ¬ (sync && s.mbxStOpen p (threadsOf x.width x.m0)) = true := by
    rw [Bool.and_eq_true]
    exact fun h => by simp [hmbx h.1] at h
  rw [State.barrier, issue_next hi.1 hi.2, deliverFp_ok hsfu hfp, hat]
  dsimp only
  rw [if_neg hok, if_neg hsynced]

theorem barrier_delivers (hsfu : s.sfuOpen p = false) (hlevel : x.csr.level = 0) (hfp : x.fpEnabled ≠ 0) (sync : Bool)
    (go : Nat → Party → BarAt → State) :
    s.barrier sc n sync go = .next (s.raiseHere p 0x18 x.m0 (x.csr.fpsum.setWidth 64)) := by
  rw [State.barrier, issue_next hi.1 hi.2, deliverFp_raises hsfu hlevel hfp]

/-- A plan party, a party of which a thread is missing, and a scope wider than the launch's are refused (R158). -/
theorem barrier_refused (hsfu : s.sfuOpen p = false) (hfp : x.csr.level ≠ 0 ∨ x.fpEnabled = 0)
    (hbad : x.plan = true ∨ x.alive ≠ x.m0 ∨ s.widest x < sc.toNat) (sync : Bool) (go : Nat → Party → BarAt → State) :
    s.barrier sc n sync go = .next (s.raiseHere p 0x1A x.m0 0) := by
  have hbad : (x.plan || x.alive != x.m0 || decide (s.widest x < sc.toNat)) = true := by
    simpa only [Bool.or_eq_true, bne_iff_ne, decide_eq_true_eq, or_assoc] using hbad
  rw [State.barrier, issue_next hi.1 hi.2, deliverFp_ok hsfu hfp]
  cases s.barAt x sc.toNat n.toNat with
  | none => rfl
  | some b =>
    dsimp only
    rw [if_pos hbad]

/-- A cause raised for the threads of m0. -/
theorem raises_m0 (cause : BitVec 6) (info : DWord) {i : Instr} (hexec : exec i s = .next (s.raiseHere p cause x.m0 info)) :
    ∃ t, Raises s p x cause (fun u => bitOf x.m0 u = true) info t ∧ exec i s = .next t :=
  ⟨_, raises_raiseHere hi cause (fun _ => Iff.rfl) info, hexec⟩

end

/-- Every barrier instruction is checked first. -/
theorem barrierRow_exec {i : Instr} {sc : BitVec 3} {n : BitVec 4} (h : BarrierRow i sc n) (s : State) :
    ∃ sync go, exec i s = s.barrier sc n sync go := by
  cases h with
  | arr m => exact ⟨_, _, exec_barArr m sc n s⟩
  | arrRlx m => exact ⟨_, _, exec_barArrRlx m sc n s⟩
  | wait m => exact ⟨_, _, exec_barWait m sc n s⟩
  | sync m => exact ⟨_, _, exec_barSync m sc n s⟩

/-! ### What a party does (R156, R157) -/

/-- The party with a state at a barrier; its restart entry is no longer valid (R156, R160). -/
def atBar (x : Party) (key n : Nat) : Party := { x with bars := sset 0 x.bars key n, idempc := none }

theorem barState_atBar (x : Party) (key n : Nat) : BarState key n x (atBar x key n) := ⟨fun _ => sget_sset _ _ _ _ _, rfl⟩

/-- The machine with an arrival that awaits the party's writes (R157). -/
def withArrival (s : State) (p inst scope : Nat) : State :=
  { s with nextId := s.nextId + 1, arrivals := sput s.arrivals s.nextId ⟨p, inst, scope, s.openWrites p⟩ }

theorem arriveOrdinary_eq (s : State) (p : Nat) (x : Party) (b : BarAt) (scope : Nat) : s.arriveOrdinary p x b scope =
    withArrival ((s.setParty p (atBar x b.key (b.phase + 1))).endRegions p (threadsOf x.width x.m0)) p b.inst scope := rfl

/-- An ordinary arrival in the open phase. -/
theorem arrives_arriveOrdinary (s : State) (p : Nat) (x : Party) (b : BarAt) (scope : Nat) :
    ∃ z, Arrives s p x b scope (s.arriveOrdinary p x b scope) z ∧ z.idempc = none ∧ (s.arriveOrdinary p x b scope).party? p = some z := by
  obtain ⟨z, hz⟩ := exists_regionsEnd s p (x := atBar x b.key (b.phase + 1)) rfl (nodup_threadsOf x.width x.m0)
  rw [arriveOrdinary_eq]
  generalize (s.setParty p (atBar x b.key (b.phase + 1))).endRegions p (threadsOf x.width x.m0) = s' at hz
  have hparty : s'.party? p = some z := party?_of_regionsEnd hz
  have ⟨_, hidem, hs, _, _⟩ := hz
  have hid : s'.nextId = s.nextId := by rw [hs]
  have harrivals : s'.arrivals = s.arrivals := by rw [hs]
  have hwrites : s'.openWrites p = s.openWrites p := by rw [hs]; rfl
  refine ⟨z, ⟨_, s', barState_atBar x b.key (b.phase + 1), hz, ?_⟩, by rw [hidem], hparty⟩
  rw [withArrival, hid, harrivals, hwrites]

theorem arriveOrdinary_now (s : State) (p : Nat) (x : Party) (b : BarAt) (scope : Nat) : (s.arriveOrdinary p x b scope).now = s.now := by
  obtain ⟨z, ⟨_, s', _, hz, ht⟩, -, -⟩ := arrives_arriveOrdinary s p x b scope
  obtain ⟨-, -, hs, -, -⟩ := hz
  rw [ht, hs]

/-- A wait for a phase that is complete. -/
theorem regionsEnd_barrierDone {s : State} {p : Nat} {x : Party} (hp : s.party? p = some x) (halive : x.alive = x.m0) (key : Nat) :
    ∃ y z, BarState key 0 { x with park := .none, rcCopies := if 64 ≤ key then [] else x.rcCopies } y ∧
      RegionsEnd s p y (threadsOf x.width x.m0) (s.barrierDone p key) z := by
  let x' : Party := { x with park := .none, rcCopies := if 64 ≤ key then [] else x.rcCopies }
  obtain ⟨z, hz⟩ := exists_regionsEnd s p (x := atBar x' key 0) rfl (nodup_threadsOf x.width x.m0)
  have hdone : s.barrierDone p key = (s.setParty p (atBar x' key 0)).endRegions p (threadsOf x.width x.m0) := by
    rw [State.barrierDone, hp, ← halive]
    by_cases hkey : 64 ≤ key
    · simp only [x', if_pos hkey]
      rfl
    · simp only [x', if_neg hkey]
      rfl
  exact ⟨_, z, barState_atBar x' key 0, hdone ▸ hz⟩

theorem parkAt_of_party {s : State} {p : Nat} {x : Party} (hp : s.party? p = some x) (b : BarAt) (phase : Nat) :
    s.parkAt p b phase = s.setParty p { x with park := .barrier b.inst phase, parkedAt := s.now, idempc := none } := by
  rw [State.parkAt, onParty_of_some hp]

/-- An arrival of a party that does not wait in the open phase (R156). -/
theorem arrivals_not_waiting {s : State} {p : Nat} {x : Party} (hi : Issuing s p x) (m : Mods) {sc : BitVec 3} {n : BitVec 4} {b : BarAt}
    (hb : AtBarrier s x p sc n b) (hwait : b.waiting = false) (hmbx : s.mbxStOpen p (threadsOf x.width x.m0) = false) :
    (∃ t z, Arrives s p x b sc.toNat t z ∧ exec (.barArr m sc n) s = .next t) ∧
    (∃ t z, Arrives s p x b sc.toNat t z ∧
      exec (.barSync m sc n) s = .next (t.setParty p { z with park := .barrier b.inst b.phase, parkedAt := s.now })) := by
  obtain ⟨z, harr, hidem, hparty⟩ := arrives_arriveOrdinary s p x b sc.toNat
  refine ⟨⟨_, z, harr, ?_⟩, ⟨_, z, harr, ?_⟩⟩
  · rw [exec_barArr, execBarArr, barrier_acts hi hb fun _ => hmbx, hwait, if_neg Bool.false_ne_true]
  · rw [exec_barSync, execBarSync, barrier_acts hi hb fun _ => hmbx, hwait, if_neg Bool.false_ne_true, parkAt_of_party hparty,
      arriveOrdinary_now, ← hidem]

/-- The party waits in the open phase: a wait parks it, an arrival is refused (R156, R158). -/
theorem barriers_waiting {s : State} {p : Nat} {x : Party} (hi : Issuing s p x) (m : Mods) {sc : BitVec 3} {n : BitVec 4} {b : BarAt}
    (hb : AtBarrier s x p sc n b) (hwait : b.waiting = true) {k : Nat} (hk : b.arrived = some k)
    (hmbx : s.mbxStOpen p (threadsOf x.width x.m0) = false) :
    exec (.barWait m sc n) s = .next (s.setParty p { x with park := .barrier b.inst k, parkedAt := s.now, idempc := none }) ∧
    ∀ i, i = .barArr m sc n ∨ i = .barArrRlx m sc n ∨ i = .barSync m sc n →
      ∃ t, Raises s p x 0x1A (fun u => bitOf x.m0 u = true) 0 t ∧ exec i s = .next t := by
  constructor
  · rw [exec_barWait, execBarWait, barrier_acts hi hb fun _ => hmbx, hk]
    dsimp only
    rw [if_pos hwait, parkAt_of_party hi.2]
  · rintro i (rfl | rfl | rfl)
    · exact raises_m0 hi 0x1A 0 (by rw [exec_barArr, execBarArr, barrier_acts hi hb fun _ => hmbx, if_pos hwait])
    · exact raises_m0 hi 0x1A 0 (by rw [exec_barArrRlx, execBarArrRlx, barrier_acts hi hb Bool.noConfusion, if_pos hwait])
    · exact raises_m0 hi 0x1A 0 (by rw [exec_barSync, execBarSync, barrier_acts hi hb fun _ => hmbx, if_pos hwait])

/-- The words of a party that does not wait in the open phase (R156). -/
theorem barriers_not_waiting {s : State} {p : Nat} {x : Party} (hi : Issuing s p x) (m : Mods) {sc : BitVec 3} {n : BitVec 4} {b : BarAt}
    (hb : AtBarrier s x p sc n b) (hwait : b.waiting = false) :
    (∃ z, BarState b.key (b.phase + 1) x z ∧ exec (.barArrRlx m sc n) s = .next ((s.setParty p z).arrive b.grid b.inst p)) ∧
    (∀ k, b.arrived = some k → s.mbxStOpen p (threadsOf x.width x.m0) = false →
      ∃ y z t, BarState b.key 0 { x with park := .none, rcCopies := if 64 ≤ b.key then [] else x.rcCopies } y ∧
        RegionsEnd s p y (threadsOf x.width x.m0) t z ∧ exec (.barWait m sc n) s = .next t) := by
  refine ⟨⟨_, barState_atBar x b.key (b.phase + 1), ?_⟩, fun k hk hmbx => ?_⟩
  · rw [exec_barArrRlx, execBarArrRlx, barrier_acts hi hb Bool.noConfusion, hwait, if_neg Bool.false_ne_true]
    rfl
  · have ⟨_, _, _, halive, _, _⟩ := hb
    obtain ⟨y, z, hy, hz⟩ := regionsEnd_barrierDone hi.2 halive b.key
    refine ⟨y, z, _, hy, hz, ?_⟩
    rw [exec_barWait, execBarWait, barrier_acts hi hb fun _ => hmbx, hk]
    dsimp only
    rw [hwait, if_neg Bool.false_ne_true]

theorem barrierTable : Says.BarrierTable := by
  refine ⟨fun s p x m sc n b hi hb hwait => ⟨arrivals_not_waiting hi m hb hwait, barriers_not_waiting hi m hb hwait⟩,
    fun s p x m sc n b k hi hb hwait hk hmbx => barriers_waiting hi m hb hwait hk hmbx, fun s p x m sc n b hi hb hnone hmbx => ?_,
    fun i sc n hrow s p x hi hsfu => ?_⟩
  · exact raises_m0 hi 0x1A 0 (by rw [exec_barWait, execBarWait, barrier_acts hi hb fun _ => hmbx, hnone])
  · obtain ⟨sync, go, hexec⟩ := barrierRow_exec hrow s
    exact ⟨fun hlevel hfp => raises_m0 hi 0x18 _ (hexec.trans (barrier_delivers hi hsfu hlevel hfp sync go)),
      fun hfp hbad => raises_m0 hi 0x1A 0 (hexec.trans (barrier_refused hi hsfu hfp hbad sync go))⟩

/-! ### How arrivals are counted (R156, R157) -/

/-- A counted arrival stands among those of its barrier, which opens its next phase when it is complete. -/
theorem bar_arrive {s : State} {g : Nat} {l : Launch} (hl : sfind s.launches g = some l) (inst p : Nat) :
    (s.arrive g inst p).bar g inst = BarInst.close { s.bar g inst with arrived := (s.bar g inst).arrived ++ [p] } := by
  rw [State.arrive]
  dsimp only
  generalize BarInst.close { s.bar g inst with arrived := (s.bar g inst).arrived ++ [p] } = b
  simp [State.onLaunch, hl, State.bar]

theorem close_open {b : BarInst} (h : b.arrived.length + b.retired < b.members) : b.close = b := by
  rw [BarInst.close, if_pos (by simp [h])]

theorem close_complete {b : BarInst} (h0 : b.members ≠ 0) (h : b.members ≤ b.arrived.length + b.retired) :
    b.close = { b with phase := b.phase + 1, arrived := [] } := by
  rw [BarInst.close, if_neg (by simp [h0, h])]

theorem arrivalsAreCounted : Says.ArrivalsAreCounted := by
  refine ⟨fun s n a x g ha hx hg => ⟨fun hacked => ?_, fun ⟨r, hr, hopen⟩ => ?_⟩, fun s g l inst p hl => ?_⟩
  · have hnone : ¬ (a.after.any fun r => (s.openWrites a.party).contains r) = true := by simpa using hacked
    rw [exec_barrierArrivalCount, execBarrierArrivalCount, State.event, ha]
    dsimp only
    rw [hx]
    dsimp only
    rw [if_neg hnone, hg]
  · have hsome : (a.after.any fun r => (s.openWrites a.party).contains r) = true := by simpa using ⟨r, hr, hopen⟩
    rw [exec_barrierArrivalCount, execBarrierArrivalCount, State.event, ha]
    dsimp only
    rw [hx]
    dsimp only
    rw [if_pos hsome]
  · intro b c hmembers
    have hc : c = BarInst.close { b with arrived := b.arrived ++ [p] } := bar_arrive hl inst p
    by_cases hlt : b.arrived.length + 1 + b.retired < b.members
    · have hopen : (b.arrived ++ [p]).length + b.retired < b.members := by simpa using hlt
      rw [hc, close_open hopen]
      exact ⟨rfl, rfl, fun _ => ⟨rfl, rfl⟩, fun h => absurd h (Nat.not_le.2 hlt)⟩
    · have hcomplete : b.members ≤ (b.arrived ++ [p]).length + b.retired := by simpa using hlt
      rw [hc, close_complete (b := { b with arrived := b.arrived ++ [p] }) hmembers hcomplete]
      exact ⟨rfl, rfl, fun h => absurd h hlt, fun _ => ⟨rfl, rfl⟩⟩

/-- Settles O19: a party acts at a barrier by the table of R156, and an arrival is counted once the writes before it are acknowledged. -/
theorem barriers : Obligations.Barriers := ⟨barrierTable, arrivalsAreCounted⟩

end Sys2Proof.Proofs
end

section
/-! PROOFS. Words of class 6 at issue: the core they act on, the causes they raise, its tiles, contexts and
tickets, the uses of a slot, and matrix commands queued on a context (R207 to R212, R219). -/

namespace Sys2Proof.Proofs

open Sys2Proof Sys2Proof.Machine Sys2Proof.Says

/-! ### The machine as a word of class 6 finds it (R30, R207) -/

@[simp] theorem core_pins (s : State) (x : Party) (c : Nat) : (Pins s x).core c = s.core c :=
  congrArg (sget Core.reset · c) (onCrew_cores s x.crew _)

@[simp] theorem openWrites_pins (s : State) (x : Party) (p : Nat) : (Pins s x).openWrites p = s.openWrites p := by
  rw [State.openWrites, Pins, onCrew_reqs, State.openWrites]

theorem issuing_pins {s : State} {p : Nat} {x : Party} (hi : Issuing s p x) : Issuing (Pins s x) p x :=
  ⟨(onCrew_cur s x.crew _).trans hi.1, (congrArg (sfind · p) (onCrew_parties s x.crew _)).trans hi.2⟩

/-- A word of class 6 acts on the party's core once its crew is pinned. -/
theorem engine_next {s : State} {p : Nat} {x : Party} (hi : Issuing s p x) (go : State → Nat → Party → Nat → State) :
    s.engine go = .next (go (Pins s x) p x (coreNo x)) :=
  issue_next hi.1 hi.2 _

theorem coreIs_setCore (s : State) (c : Nat) (k : Core) : CoreIs s c k (s.setCore c k) := ⟨rfl, fun _ => sget_sset _ _ _ _ _⟩

theorem giveU_uniform {s : State} {p : Nat} {x : Party} (hp : s.party? p = some x) (n : Fin 31) (v : DWord) :
    s.giveU p (.s n) v = s.setParty p (x.setU n.val v) :=
  onParty_of_some hp _

/-- A word that changes its core and then its uniform destination. -/
theorem setCore_giveU {s : State} {p : Nat} {x : Party} (hp : s.party? p = some x) (c : Nat) (k : Core) (n : Fin 31) (v : DWord) :
    (s.setCore c k).giveU p (.s n) v = (s.setParty p (x.setU n.val v)).setCore c k :=
  giveU_uniform (s := s.setCore c k) hp n v

theorem raises_refuseCmd {s : State} {p : Nat} {x : Party} (hi : Issuing s p x) (cause : BitVec 6) :
    Raises s p x cause (fun u => bitOf x.pos.m0 u = true) 0 (s.refuseCmd p x cause) :=
  raises_raiseHere hi cause (fun _ => Iff.rfl) 0

/-! ### Tiles, contexts and tickets of a core (R209, R211, R219) -/

section
variable (k : Core) (i j : Nat)

@[simp] theorem tile_setTile (t : Tile) : (k.setTile i t).tile j = if j = i then t else k.tile j := sget_sset _ _ _ _ _

@[simp] theorem ctx_setCtx (m : MxCtx) : (k.setCtx i m).ctx j = if j = i then m else k.ctx j := sget_sset _ _ _ _ _

theorem ticket_fst : (k.ticket i).1 = (k.issuedOf i + 1) % 2 ^ 64 := rfl

end

/-- Every tile of the run takes the function's value, and every other stands. -/
theorem tile_mapTiles (k : Core) (a : Nat) (f : Tile → Tile) (n j : Nat) :
    (k.mapTiles a f n).tile j = if a ≤ j ∧ j < a + n then f (k.tile j) else k.tile j := by
  induction n generalizing k a with
  | zero => rw [if_neg (by omega)]; rfl
  | succ n ih =>
    rw [Core.mapTiles, ih, tile_setTile]
    by_cases hj : j = a
    · subst hj
      rw [if_neg (by omega), if_pos rfl, if_pos (by omega)]
    · rw [if_neg hj]
      by_cases hin : a ≤ j ∧ j < a + (n + 1)
      · rw [if_pos hin, if_pos (by omega)]
      · rw [if_neg hin, if_neg (by omega)]

theorem mapTiles_eq (k : Core) (a : Nat) (f : Tile → Tile) (n : Nat) :
    k.mapTiles a f n = { k with tiles := (k.mapTiles a f n).tiles } := by
  induction n generalizing k a with
  | zero => rfl
  | succ n ih => rw [Core.mapTiles, ih]; rfl

/-! ### The uses of a slot at issue (R212) -/

theorem use_write {k : Core} {crew j : Nat} (h : Writable k crew j) :
    k.use crew j .write = .ok (k.setTile j { k.tile j with st := .filling }) := by
  obtain ⟨hj, howner, hst⟩ := h
  rcases hst with hst | hst <;> simp [Core.use, Nat.not_lt.2 hj, howner, hst]

theorem use_read {k : Core} {crew j : Nat} (h : Readable k crew j) : k.use crew j .read = .ok (k.setTile j (draining (k.tile j) 1)) := by
  obtain ⟨hj, howner, hst⟩ := h
  rcases hst with hst | hst <;> simp [Core.use, Nat.not_lt.2 hj, howner, hst, draining]

/-- The other operand of a follow-on product once it has been taken: a slot that still fills stays filling (R217). -/
def followed (t : Tile) : Tile := if t.st = .filling then { t with readers := t.readers + 1 } else draining t 1

theorem use_follow {k : Core} {crew j : Nat} (hj : j ≤ 63) (howner : (k.tile j).owner = some crew) (hst : (k.tile j).st ≠ .empty) :
    k.use crew j .follow = .ok (k.setTile j (followed (k.tile j))) := by
  cases h : (k.tile j).st with
  | empty => exact absurd h hst
  | filling => simp [Core.use, Nat.not_lt.2 hj, howner, h, followed]
  | ready => simp [Core.use, Nat.not_lt.2 hj, howner, h, followed, draining]
  | draining => simp [Core.use, Nat.not_lt.2 hj, howner, h, followed, draining]

/-! ### Matrix commands queued on a context (R209, R219, R323) -/

section
variable (k : Core) (crew d j : Nat) (op : MxOp)

@[simp] theorem issuedOf_queueMx :
    (k.queueMx crew d op).issuedOf j = if j = 4 + d then (k.issuedOf (4 + d) + 1) % 2 ^ 64 else k.issuedOf j :=
  sget_sset _ _ _ _ _

theorem ctx_queueMx : (k.queueMx crew d op).ctx j = if j = d then { k.ctx d with
    queue := (k.ctx d).queue ++ [⟨(k.issuedOf (4 + d) + 1) % 2 ^ 64, crew, (k.ctx d).bind, op, (k.ctx (1 - d)).lastSm⟩] } else k.ctx j :=
  sget_sset _ _ _ _ _

end

end Sys2Proof.Proofs
end

section
/-! PROOFS. Tile slots are claimed, given up and read (R211), and Porter words queue their commands (R212 to R218): O28. -/

namespace Sys2Proof.Proofs

open Sys2Proof Sys2Proof.Machine Sys2Proof.Says

/-! ### `tile.claim` (R211) -/

/-- A count that `tile.claim` does not refuse. -/
theorem count_allowed {w : Nat} (hpos : 1 ≤ w) (hle : w ≤ 64) : ¬ (decide (w = 0) || decide (64 < w)) = true := by
  simp only [Bool.or_eq_true, decide_eq_true_eq]
  omega

theorem claimable_iff (k : Core) (j : Nat) : (k.tile j).claimable = true ↔ Claimable k j := by simp [Tile.claimable, Claimable]

/-- A run of slots as `tile.claim` tests it. -/
theorem all_claimable_iff (k : Core) (w a : Nat) :
    (upto w).all (fun i => (k.tile (a + i)).claimable) = true ↔ ∀ i < w, Claimable k (a + i) := by simp [upto, claimable_iff]

theorem find_claimable_some {k : Core} {w a : Nat} (ha : a + w ≤ 64) (hfree : ∀ i < w, Claimable k (a + i))
    (hlow : ∀ a' < a, ¬ ∀ i < w, Claimable k (a' + i)) :
    (upto (65 - w)).find? (fun a => (upto w).all (fun i => (k.tile (a + i)).claimable)) = some a := by
  refine List.find?_range_eq_some.2 ⟨(all_claimable_iff k w a).2 hfree, List.mem_range.2 (by omega), fun a' ha' => ?_⟩
  rw [Bool.not_eq_true', ← Bool.not_eq_true, all_claimable_iff]
  exact hlow a' ha'

theorem find_claimable_none {k : Core} {w : Nat} (hnone : ∀ a, a + w ≤ 64 → ¬ ∀ i < w, Claimable k (a + i)) :
    (upto (65 - w)).find? (fun a => (upto w).all (fun i => (k.tile (a + i)).claimable)) = none := by
  refine List.find?_range_eq_none.2 fun a ha => ?_
  rw [Bool.not_eq_true', ← Bool.not_eq_true, all_claimable_iff]
  exact hnone a (by omega)

section
variable {s : State} {p : Nat} {x : Party} (hi : Issuing s p x) (m : Mods) (n : Fin 31) (b : Src)
include hi

theorem tileClaim_claims (hpos : 1 ≤ (x.srcZ b).toNat) {a : Nat} (ha : a + (x.srcZ b).toNat ≤ 64)
    (hfree : ∀ i < (x.srcZ b).toNat, Claimable (s.core (coreNo x)) (a + i))
    (hlow : ∀ a' < a, ¬ ∀ i < (x.srcZ b).toNat, Claimable (s.core (coreNo x)) (a' + i)) :
    exec (.tileClaim m (.s n) b) s = .next (((Pins s x).setParty p (x.setU n.val (BitVec.ofNat 64 a))).setCore (coreNo x)
      ((s.core (coreNo x)).mapTiles a (fun t => { Tile.reset with owner := some x.crew, poison := t.poison }) (x.srcZ b).toNat)) := by
  rw [exec_tileClaim, execTileClaim, engine_next hi]
  dsimp only
  rw [if_neg (count_allowed hpos (by omega)), core_pins, find_claimable_some ha hfree hlow]
  dsimp only
  rw [State.onCore, core_pins, setCore_giveU (issuing_pins hi).2]

theorem tileClaim_finds_none (hpos : 1 ≤ (x.srcZ b).toNat) (hle : (x.srcZ b).toNat ≤ 64)
    (hnone : ∀ a, a + (x.srcZ b).toNat ≤ 64 → ¬ ∀ i < (x.srcZ b).toNat, Claimable (s.core (coreNo x)) (a + i)) :
    exec (.tileClaim m (.s n) b) s = .next ((Pins s x).setParty p (x.setU n.val 64)) := by
  rw [exec_tileClaim, execTileClaim, engine_next hi]
  dsimp only
  rw [if_neg (count_allowed hpos hle), core_pins, find_claimable_none hnone]
  exact congrArg _ (giveU_uniform (issuing_pins hi).2 n 64)

theorem tileClaim_refused (hbad : (x.srcZ b).toNat = 0 ∨ 64 < (x.srcZ b).toNat) (d : Reg) :
    exec (.tileClaim m d b) s = .next ((Pins s x).refuseCmd p x 0x1D) := by
  rw [exec_tileClaim, execTileClaim, engine_next hi]
  exact congrArg _ (if_pos (by simpa using hbad))

end

/-! ### `tile.rel` (R211) -/

/-- The slots from `a` on, `w` of them, are a run of the tile table that the crew owns. -/
def OwnsRun (k : Core) (crew a w : Nat) : Prop := 1 ≤ w ∧ a + w ≤ 64 ∧ ∀ i < w, (k.tile (a + i)).owner = some crew
/-- A command fills or drains a slot of the run. -/
def BusyRun (k : Core) (a w : Nat) : Prop := ∃ i < w, (k.tile (a + i)).st = .filling ∨ (k.tile (a + i)).st = .draining

theorem not_ownsRun_iff (k : Core) (crew a w : Nat) : ¬ OwnsRun k crew a w ↔
    (decide (w = 0) || decide (64 < a + w) || !(upto w).all (fun i => (k.tile (a + i)).owner == some crew)) = true := by
  simp [OwnsRun, upto, Nat.one_le_iff_ne_zero, not_and_or, or_assoc, -not_and]

theorem busyRun_iff (k : Core) (a w : Nat) : BusyRun k a w ↔
    ((upto w).any fun i => (k.tile (a + i)).st == .filling || (k.tile (a + i)).st == .draining) = true := by
  simp [BusyRun, upto]

section
variable {s : State} {p : Nat} {x : Party} (hi : Issuing s p x) (m : Mods) (r : SlotRef) (b : Src)
include hi

theorem tileRel_refused (howned : ¬ OwnsRun (s.core (coreNo x)) x.crew (x.slotOf r) (x.srcZ b).toNat) :
    exec (.tileRel m r b) s = .next ((Pins s x).refuseCmd p x 0x1D) := by
  rw [exec_tileRel, execTileRel, engine_next hi]
  dsimp only
  rw [core_pins, if_pos ((not_ownsRun_iff _ _ _ _).1 howned)]

theorem tileRel_holds (howned : OwnsRun (s.core (coreNo x)) x.crew (x.slotOf r) (x.srcZ b).toNat)
    (hbusy : BusyRun (s.core (coreNo x)) (x.slotOf r) (x.srcZ b).toNat) :
    exec (.tileRel m r b) s = .next ((Pins s x).setParty p { x with ctl := .stall }) := by
  rw [exec_tileRel, execTileRel, engine_next hi]
  dsimp only
  rw [core_pins, if_neg (fun h => (not_ownsRun_iff _ _ _ _).2 h howned), if_pos ((busyRun_iff _ _ _).1 hbusy)]
  exact congrArg _ (onParty_of_some (issuing_pins hi).2 _)

theorem tileRel_releases (howned : OwnsRun (s.core (coreNo x)) x.crew (x.slotOf r) (x.srcZ b).toNat)
    (hidle : ¬ BusyRun (s.core (coreNo x)) (x.slotOf r) (x.srcZ b).toNat) :
    exec (.tileRel m r b) s = .next ((Pins s x).setCore (coreNo x)
      ((s.core (coreNo x)).mapTiles (x.slotOf r) (fun t => { Tile.reset with poison := t.poison }) (x.srcZ b).toNat)) := by
  rw [exec_tileRel, execTileRel, engine_next hi]
  dsimp only
  rw [core_pins, if_neg (fun h => (not_ownsRun_iff _ _ _ _).2 h howned), if_neg (fun h => hidle ((busyRun_iff _ _ _).2 h)),
    State.onCore, core_pins]

end

/-! ### `tile.st` (R211) -/

/-- What `tile.st` reads of a slot (R211): its state, whether the crew owns it, whether any crew does, its layout. -/
def slotWord (crew : Nat) (t : Tile) : Nat :=
  t.st.code + (if t.owner == some crew then 4 else 0) + (if t.owner.isSome then 8 else 0) + t.layout % 4 * 16

theorem code_lt (t : TileSt) : t.code < 4 := by cases t <;> decide

/-- The fields of the word stand apart. -/
theorem slotWord_fields (crew : Nat) (t : Tile) : slotWord crew t < 64 ∧ slotWord crew t % 4 = t.st.code ∧
    (slotWord crew t / 4 % 2 = 1 ↔ t.owner = some crew) ∧ (slotWord crew t / 8 % 2 = 1 ↔ t.owner ≠ none) ∧
    slotWord crew t / 16 = t.layout % 4 := by
  have hcode := code_lt t.st
  unfold slotWord
  cases howner : t.owner with
  | none => simp; omega
  | some c =>
    by_cases hc : c = crew
    · simp [hc]; omega
    · simp [hc]; omega

section
variable {s : State} {p : Nat} {x : Party} (hi : Issuing s p x) (m : Mods) (r : SlotRef)
include hi

theorem tileSt_reads (hr : x.slotOf r ≤ 63) (n : Fin 31) : exec (.tileSt m (.s n) r) s = .next ((Pins s x).setParty p
    (x.setU n.val (BitVec.ofNat 64 (slotWord x.crew ((s.core (coreNo x)).tile (x.slotOf r)))))) := by
  rw [exec_tileSt, execTileSt, engine_next hi]
  dsimp only
  rw [if_neg (Nat.not_lt.2 hr), core_pins]
  exact congrArg _ (giveU_uniform (issuing_pins hi).2 n _)

theorem tileSt_refused (hr : 63 < x.slotOf r) (d : Reg) : exec (.tileSt m d r) s = .next ((Pins s x).refuseCmd p x 0x1D) := by
  rw [exec_tileSt, execTileSt, engine_next hi]
  exact congrArg _ (if_pos hr)

end

theorem tileSlots : Says.TileSlots := by
  intro s p x m n hi c k
  have hrefuse := raises_refuseCmd (issuing_pins hi) 0x1D
  refine ⟨?_, ?_, ?_⟩
  · intro b w free
    refine ⟨fun hpos hle => ⟨fun a ha hfree hlow => ?_, fun hnone => ?_⟩, fun hbad => ?_⟩
    · exact ⟨_, _, _, uniStep_setU x n.val _, tileClaim_claims hi m n b hpos ha hfree hlow, coreIs_setCore _ _ _, mapTiles_eq _ _ _ _,
        tile_mapTiles _ _ _ _⟩
    · exact ⟨_, uniStep_setU x n.val _, tileClaim_finds_none hi m n b hpos hle hnone⟩
    · exact ⟨_, hrefuse, tileClaim_refused hi m b hbad _⟩
  · intro r b w a owned busy
    refine ⟨fun howned hidle => ?_, fun howned hbusy => ?_, fun howned => ?_⟩
    · exact ⟨_, _, tileRel_releases hi m r b howned hidle, coreIs_setCore _ _ _, mapTiles_eq _ _ _ _, tile_mapTiles _ _ _ _⟩
    · exact tileRel_holds hi m r b howned hbusy
    · exact ⟨_, hrefuse, tileRel_refused hi m r b howned⟩
  · intro r a
    refine ⟨fun hr => ?_, fun hr => ?_⟩
    · obtain ⟨hlt, hst, hcrew, howned, hlayout⟩ := slotWord_fields x.crew (k.tile a)
      refine ⟨_, _, uniStep_setU x n.val _, tileSt_reads hi m r hr n, ?_⟩
      rw [BitVec.toNat_ofNat, Nat.mod_eq_of_lt (lt_trans hlt (by norm_num))]
      exact ⟨hst.trans (by cases (k.tile a).st <;> rfl), hcrew, howned, hlayout⟩
    · exact ⟨_, hrefuse, tileSt_refused hi m r hr _⟩

/-! ### The fields of a control word (R213) -/

theorem cpWord_of_fields {v : DWord} {slot fmt ctx stride : Nat} {sp ac : Bool} (h : CpFields v slot fmt sp ac ctx stride) :
    cpWord v = ⟨slot, fmt, sp, ac, ctx, stride⟩ := by
  obtain ⟨rfl, rfl, rfl, rfl, rfl, rfl, -⟩ := h
  simp [cpWord, BitVec.extractLsb'_toNat, Nat.shiftRight_eq_div_pow, BitVec.getLsbD, Nat.testBit_eq_decide_div_mod_eq]

/-- A field above a word's highest bit is 0. -/
theorem extractLsb'_eq_zero {w : Nat} {v : BitVec w} {lo : Nat} (h : v.toNat < 2 ^ lo) (len : Nat) : v.extractLsb' lo len = 0 := by
  apply BitVec.eq_of_toNat_eq
  rw [BitVec.extractLsb'_toNat, Nat.shiftRight_eq_div_pow, Nat.div_eq_of_lt h]
  simp

/-- The fields of the follow-on word of `cp.in.mx` (R217). -/
theorem follow_fields {f : DWord} (h : f.toNat < 256) : f.extractLsb' 8 56 = 0 ∧ (f.extractLsb' 0 6).toNat = f.toNat % 64 ∧
    (f.extractLsb' 7 1).toNat = f.toNat / 128 ∧ f.getLsbD 6 = decide (f.toNat / 64 % 2 = 1) := by
  refine ⟨?_, ?_, ?_, ?_⟩
  · exact extractLsb'_eq_zero (lo := 8) h _
  · rw [BitVec.extractLsb'_toNat, Nat.shiftRight_zero]
  · rw [BitVec.extractLsb'_toNat, Nat.shiftRight_eq_div_pow]
    omega
  · rw [BitVec.getLsbD, Nat.testBit_eq_decide_div_mod_eq]

/-- The fields of the word of `cp.mem` (R216). -/
theorem memWord_fields {w : Word} (h : w.toNat < 2 ^ 28) : w.extractLsb' 28 4 = 0 ∧ (w.extractLsb' 0 26).toNat = w.toNat % 2 ^ 26 ∧
    (w.extractLsb' 26 2).toNat = w.toNat / 2 ^ 26 := by
  refine ⟨?_, ?_, ?_⟩
  · exact extractLsb'_eq_zero (lo := 28) h _
  · rw [BitVec.extractLsb'_toNat, Nat.shiftRight_zero]
  · rw [BitVec.extractLsb'_toNat, Nat.shiftRight_eq_div_pow]
    omega

theorem not_cpMisaligned {a : DWord} {fmt stride : Nat} (ha : a.toNat % cpAlign fmt = 0) (hstride : stride % cpAlign fmt = 0)
    (slot : Nat) (sp ac : Bool) (ctx : Nat) : cpMisaligned ⟨slot, fmt, sp, ac, ctx, stride⟩ a = false := by simp [cpMisaligned, ha, hstride]

/-! ### A Porter command queued on a context (R209, R213, R218) -/

/-- The core once the command of a Porter word stands last in the queue of its context. -/
def withCp (s : State) (p : Nat) (x : Party) (k : Core) (ctx : Nat) (a : DWord) (op : CpOp) : Core :=
  { (k.ticket ctx).2 with
    porter := sset [] k.porter ctx (sget [] k.porter ctx ++ [⟨(k.ticket ctx).1, x.crew, x.fe, x.user, p, a, op, 0, s.openWrites p⟩]) }

section
variable (s : State) (p : Nat) (x : Party) (k : Core) (ctx : Nat) (a : DWord) (op : CpOp) (j : Nat)

@[simp] theorem tile_withCp : (withCp s p x k ctx a op).tile j = k.tile j := rfl

@[simp] theorem ctx_withCp : (withCp s p x k ctx a op).ctx j = k.ctx j := rfl

@[simp] theorem issuedOf_withCp :
    (withCp s p x k ctx a op).issuedOf j = if j = ctx then (k.issuedOf ctx + 1) % 2 ^ 64 else k.issuedOf j :=
  sget_sset _ _ _ _ _

end

theorem issuedElse_withCp {s : State} {p : Nat} {x : Party} {o k : Core} {ctx : Nat} {a : DWord} {op : CpOp} {js : List Nat}
    (h : ∀ j, j ∉ ctx :: js → k.issuedOf j = o.issuedOf j) : IssuedElse o (withCp s p x k ctx a op) (ctx :: js) := fun j hj => by
  rw [issuedOf_withCp, if_neg (List.ne_of_not_mem_cons hj), h j hj]

/-- What every Porter word that queues a command does, whatever else it has done to its core, in `k`, without touching the queues and the
context's timeline. -/
theorem cp_queues {s : State} {p : Nat} {x : Party} (hi : Issuing s p x) {i : Instr} {n : Fin 31} {ctx : Nat} {a : DWord} {op : CpOp} {k : Core}
    (hexec : exec i s = .next ((Pins s x).queueCp p x (coreNo x) k (.s n) ctx a op))
    (hissued : k.issuedOf ctx = (s.core (coreNo x)).issuedOf ctx) (hporter : k.porter = (s.core (coreNo x)).porter) :
    ∃ z t T, UniStep n.val (BitVec.ofNat 64 T) x z ∧ exec i s = .next t ∧
      CoreIs ((Pins s x).setParty p z) (coreNo x) (withCp s p x k ctx a op) t ∧ CpQueued s p x ctx a op T (withCp s p x k ctx a op) := by
  refine ⟨_, _, (k.ticket ctx).1, uniStep_setU x n.val _, ?_, coreIs_setCore _ _ _, by rw [ticket_fst, hissued], ?_, fun j => ?_⟩
  · rw [hexec, State.queueCp, openWrites_pins]
    exact congrArg _ (setCore_giveU (issuing_pins hi).2 _ _ n _)
  · rw [issuedOf_withCp, if_pos rfl, ticket_fst]
  · rw [withCp, hporter, sget_sset]
    by_cases hj : j = ctx
    · simp [hj]
    · simp [hj]

/-! ### The core of a fill, of a drain, and of a follow-on product (R215, R217) -/

/-- A format that some layout's slot may be drained in passes the first check of `cp.out` (R214). -/
theorem any_cpOutSlot {fmt layout : Nat} (h : cpOutSlot fmt layout = true) : [1, 2, 3].any (cpOutSlot fmt) = true := by
  refine List.any_eq_true.2 ⟨layout, ?_, h⟩
  unfold cpOutSlot at h
  split at h
  · decide
  · decide
  · decide
  · exact absurd h Bool.false_ne_true

/-- The core with a slot that a command now writes. -/
def withFill (k : Core) (slot layout : Nat) : Core :=
  let k := k.setTile slot { k.tile slot with st := .filling }
  k.setTile slot { k.tile slot with layout := layout }

theorem tile_withFill (k : Core) (slot layout j : Nat) :
    (withFill k slot layout).tile j = if j = slot then filling (k.tile j) layout else k.tile j := by
  by_cases hj : j = slot
  · simp [withFill, filling, hj]
  · simp [withFill, hj]

/-- The core once a command has taken `slot` to write and `other` for a follow-on product. -/
def withFollow (k : Core) (slot other : Nat) : Core :=
  let k := k.setTile slot { k.tile slot with st := .filling }
  k.setTile other (followed (k.tile other))

theorem useAll_follow {k : Core} {crew slot other : Nat} (hw : Writable k crew slot) (hother : other ≤ 63)
    (hr : other = slot ∨ Readable k crew other ∨ (k.tile other).owner = some crew ∧ (k.tile other).st = .filling) :
    k.useAll crew [(slot, .write), (other, .follow)] = .ok (withFollow k slot other) := by
  have htaken : ((k.setTile slot { k.tile slot with st := .filling }).tile other).owner = some crew ∧
      ((k.setTile slot { k.tile slot with st := .filling }).tile other).st ≠ .empty := by
    by_cases hs : other = slot
    · simp [hs, hw.2.1]
    · rcases hr.resolve_left hs with ⟨-, howner, hst | hst⟩ | ⟨howner, hst⟩ <;> simp [hs, howner, hst]
  rw [Core.useAll, use_write hw]
  dsimp only
  rw [Core.useAll, use_follow hother htaken.1 htaken.2]
  rfl

/-- The core of `cp.in.mx`: the two slots taken, and the layout of the fill given to the slot. -/
def withFillFollow (k : Core) (slot other layout : Nat) : Core :=
  let k := withFollow k slot other
  k.setTile slot { k.tile slot with layout := layout }

@[simp] theorem ctx_withFillFollow (k : Core) (slot other layout j : Nat) : (withFillFollow k slot other layout).ctx j = k.ctx j := rfl

@[simp] theorem issuedOf_withFillFollow (k : Core) (slot other layout j : Nat) :
    (withFillFollow k slot other layout).issuedOf j = k.issuedOf j := rfl

theorem tile_withFillFollow (k : Core) (slot other layout j : Nat) : (withFillFollow k slot other layout).tile j =
    if j = slot then { filling (k.tile j) layout with readers := (k.tile j).readers + if other = slot then 1 else 0 }
    else if j = other then (if (k.tile j).st = .filling then { k.tile j with readers := (k.tile j).readers + 1 } else draining (k.tile j) 1)
    else k.tile j := by
  by_cases hs : other = slot
  · by_cases hj : j = slot
    · simp [withFillFollow, withFollow, followed, filling, hs, hj]
    · simp [withFillFollow, withFollow, hs, hj]
  · by_cases hj : j = slot
    · simp [withFillFollow, withFollow, filling, hs, hj, Ne.symm hs]
    · by_cases hjo : j = other
      · simp [withFillFollow, withFollow, followed, hs, hjo]
      · simp [withFillFollow, withFollow, hj, hjo]

theorem layout_withFillFollow {k : Core} {slot other layout : Nat} (h : other ≠ slot → (k.tile other).layout = layout) :
    ((withFillFollow k slot other layout).tile other).layout = layout := by
  rw [tile_withFillFollow]
  by_cases hs : other = slot
  · rw [if_pos hs]
    rfl
  · rw [if_neg hs, if_pos rfl, apply_ite Tile.layout]
    exact (ite_self _).trans (h hs)

/-! ### The Porter words at issue (R213 to R217) -/

section
variable {s : State} {p : Nat} {x : Party} (hi : Issuing s p x) (m : Mods) (n : Fin 31) (a : Reg) {b : Src} {slot fmt ctx stride : Nat}
  {sp : Bool} (haddr : (x.reg64 0 a).toNat % cpAlign fmt = 0) (hstride : stride % cpAlign fmt = 0)
include hi haddr hstride

theorem exec_cpIn_writable (hb : CpFields (x.srcZ b) slot fmt sp false ctx stride) (hlayout : cpLayout fmt ≠ 0)
    (hw : Writable (s.core (coreNo x)) x.crew slot) : exec (.cpIn m (.s n) a b) s = .next ((Pins s x).queueCp p x (coreNo x)
      (withFill (s.core (coreNo x)) slot (cpLayout fmt)) (.s n) ctx (x.reg64 0 a) (.fill slot fmt sp stride none)) := by
  rw [exec_cpIn, execCpIn, engine_next hi]
  simp [cpWord_of_fields hb, extractLsb'_eq_zero hb.high, not_cpMisaligned haddr hstride, hlayout, State.withSlots, Core.useAll, use_write hw,
    withFill]

theorem exec_cpOut_readable (hb : CpFields (x.srcZ b) slot fmt false false ctx stride) (hr : Readable (s.core (coreNo x)) x.crew slot)
    (hfmt : cpOutSlot fmt ((s.core (coreNo x)).tile slot).layout = true) :
    exec (.cpOut m (.s n) a b) s = .next ((Pins s x).queueCp p x (coreNo x)
      ((s.core (coreNo x)).setTile slot (draining ((s.core (coreNo x)).tile slot) 1)) (.s n) ctx (x.reg64 0 a)
      (.drain slot fmt false stride)) := by
  rw [exec_cpOut, execCpOut, engine_next hi]
  simp [cpWord_of_fields hb, extractLsb'_eq_zero hb.high, not_cpMisaligned haddr hstride, State.withSlots, Core.useAll, use_read hr,
    draining, hfmt, any_cpOutSlot hfmt]

theorem exec_cpOut_context (hb : CpFields (x.srcZ b) slot fmt false true ctx stride) (hslot : slot ≤ 1) (hfmt : cpOutCtx fmt = true)
    (howner : ((s.core (coreNo x)).ctx slot).owner = some x.crew) :
    exec (.cpOut m (.s n) a b) s = .next ((Pins s x).queueCp p x (coreNo x)
      ((s.core (coreNo x)).setCtx slot { (s.core (coreNo x)).ctx slot with
        queue := ((s.core (coreNo x)).ctx slot).queue ++
          [⟨0, x.crew, ((s.core (coreNo x)).ctx slot).bind, .drain ctx ((s.core (coreNo x)).ticket ctx).1, 0⟩] })
      (.s n) ctx (x.reg64 0 a) (.ctxOut slot fmt stride)) := by
  rw [exec_cpOut, execCpOut, engine_next hi]
  simp [cpWord_of_fields hb, extractLsb'_eq_zero hb.high, not_cpMisaligned haddr hstride, hfmt, howner, Nat.not_lt.2 hslot]

theorem exec_cpInMx_writable (hb : CpFields (x.srcZ b) slot fmt sp false ctx stride) (hlayout : cpLayout fmt ≠ 0) {cx other : Nat}
    (hlow : (x.uniNext a).toNat < 256) (hother : other = (x.uniNext a).toNat % 64) (hcx : cx = (x.uniNext a).toNat / 128)
    (howner : ((s.core (coreNo x)).ctx cx).owner = some x.crew) (hw : Writable (s.core (coreNo x)) x.crew slot)
    (hr : other = slot ∨ Readable (s.core (coreNo x)) x.crew other ∨
      ((s.core (coreNo x)).tile other).owner = some x.crew ∧ ((s.core (coreNo x)).tile other).st = .filling)
    (hfill : cpLayout fmt = ((s.core (coreNo x)).ctx cx).bind.layout + 1)
    (hread : other ≠ slot → ((s.core (coreNo x)).tile other).layout = ((s.core (coreNo x)).ctx cx).bind.layout + 1) :
    exec (.cpInMx m (.s n) a b) s = .next ((Pins s x).queueCp p x (coreNo x)
      ((withFillFollow (s.core (coreNo x)) slot other (cpLayout fmt)).queueMx x.crew cx
        (.follow slot other (decide ((x.uniNext a).toNat / 64 % 2 = 1)) false false))
      (.s n) ctx (x.reg64 0 a) (.fill slot fmt sp stride (some cx))) := by
  obtain ⟨hhigh, hslot, hctx, hrole⟩ := follow_fields hlow
  have hbits : ¬ ((x.srcZ b).extractLsb' 32 32 != 0 || false || (x.uniNext a).extractLsb' 8 56 != 0) = true := by
    simp [extractLsb'_eq_zero hb.high, hhigh]
  have hmis : ¬ cpMisaligned ⟨slot, fmt, sp, false, ctx, stride⟩ (x.reg64 0 a) = true := by simp [not_cpMisaligned haddr hstride]
  have howned : ¬ (((s.core (coreNo x)).ctx cx).owner != some x.crew) = true := by simp [howner]
  have hfits : ¬ (cpLayout fmt != ((s.core (coreNo x)).ctx cx).bind.tileLayout ||
      ((withFillFollow (s.core (coreNo x)) slot other (cpLayout fmt)).tile other).layout !=
        ((s.core (coreNo x)).ctx cx).bind.tileLayout) = true := by
    simpa [MxBind.tileLayout, hfill] using layout_withFillFollow hread
  rw [exec_cpInMx, execCpInMx, engine_next hi]
  dsimp only
  rw [cpWord_of_fields hb, hslot, hctx, hrole, ← hother, ← hcx]
  dsimp only
  rw [if_neg hbits, if_neg hmis, if_neg hlayout, State.onCtx, core_pins, if_neg howned, State.withSlots, core_pins,
    useAll_follow hw (by omega) hr]
  exact congrArg _ (if_neg hfits)

end

theorem exec_cpMem_aligned {s : State} {p : Nat} {x : Party} (hi : Issuing s p x) (m : Mods) (n : Fin 31) (a : Reg) (b : Src)
    (hlow : (x.srcZ b).toNat % 2 ^ 32 < 2 ^ 28) (hdst : (x.reg64 0 a).toNat % 4 = 0) (hsrc : (x.uniNext a).toNat % 4 = 0)
    (hlen : (x.srcZ b).toNat % 2 ^ 32 % 2 ^ 26 % 4 = 0) :
    exec (.cpMem m (.s n) a b) s = .next ((Pins s x).queueCp p x (coreNo x) (s.core (coreNo x)) (.s n)
      ((x.srcZ b).toNat % 2 ^ 32 / 2 ^ 26) (x.reg64 0 a) (.mem (x.uniNext a) ((x.srcZ b).toNat % 2 ^ 32 % 2 ^ 26))) := by
  have hw : ((x.srcZ b).setWidth 32 : Word).toNat = (x.srcZ b).toNat % 2 ^ 32 := BitVec.toNat_setWidth 32 _
  obtain ⟨hhigh, hlenField, hctx⟩ := memWord_fields (hw ▸ hlow)
  rw [hw] at hlenField hctx
  rw [exec_cpMem, execCpMem, engine_next hi]
  dsimp only
  rw [hhigh, hlenField, hctx, core_pins, if_neg (by simp), if_neg (by simp [hdst]), if_neg (by rw [hsrc, hlen]; decide)]

theorem porterCommandsQueue : Says.PorterCommandsQueue := by
  intro s p x m n a hi c o ad
  refine ⟨fun b slot fmt sp ac ctx stride hb haddr hstride => ⟨?_, ?_, ?_, ?_⟩, ?_⟩
  · rintro rfl hlayout hw
    obtain ⟨z, t, T, hz, ht, hcore, hqueued⟩ := cp_queues hi (exec_cpIn_writable hi m n a haddr hstride hb hlayout hw) rfl rfl
    exact ⟨z, _, t, T, hz, ht, hcore, hqueued, issuedElse_withCp (fun _ _ => rfl), tile_withFill _ _ _, rfl⟩
  · rintro rfl rfl hr hfmt
    obtain ⟨z, t, T, hz, ht, hcore, hqueued⟩ := cp_queues hi (exec_cpOut_readable hi m n a haddr hstride hb hr hfmt) rfl rfl
    refine ⟨z, _, t, T, hz, ht, hcore, hqueued, issuedElse_withCp (fun _ _ => rfl), fun j => ?_, rfl⟩
    rw [tile_withCp, tile_setTile]
    by_cases hj : j = slot
    · simp [hj, o, c]
    · simp [hj, o, c]
  · rintro rfl rfl hslot hfmt howner
    obtain ⟨z, t, T, hz, ht, hcore, hqueued⟩ := cp_queues hi (exec_cpOut_context hi m n a haddr hstride hb hslot hfmt howner) rfl rfl
    have ⟨hT, _⟩ := hqueued
    refine ⟨z, _, t, T, hz, ht, hcore, hqueued, issuedElse_withCp (fun _ _ => rfl), fun j => ?_, rfl⟩
    rw [ctx_withCp, ctx_setCtx, ticket_fst, hT]
    by_cases hj : j = slot
    · simp [hj, o, c]
    · simp [hj, o, c]
  · intro cx other f hac hlayout hlow hother hcx howner hw hr hfill hread
    subst hac
    have hctx : ctx < 4 := hb.ctx ▸ Nat.mod_lt _ (by decide)
    have hne : ctx ≠ 4 + cx := by omega
    obtain ⟨z, t, T, hz, ht, hcore, hqueued⟩ := cp_queues hi
      (exec_cpInMx_writable hi m n a haddr hstride hb hlayout hlow hother hcx howner hw hr hfill hread)
      ((issuedOf_queueMx _ _ _ _ _).trans (if_neg hne)) rfl
    refine ⟨z, _, t, T, hz, ht, hcore, hqueued, ⟨?_, fun j => ?_⟩, ?_, tile_withFillFollow _ _ _ _, rfl⟩
    · rw [issuedOf_withCp, if_neg (Ne.symm hne), issuedOf_queueMx, if_pos rfl, issuedOf_withFillFollow]
    · rw [ctx_withCp, ctx_queueMx]
      simp only [ctx_withFillFollow, issuedOf_withFillFollow, f]
    · exact issuedElse_withCp fun j hj => (issuedOf_queueMx _ _ _ _ _).trans (if_neg (List.ne_of_not_mem_cons (List.not_mem_of_not_mem_cons hj)))
  · intro b w src hlow hdst hsrc hlen
    obtain ⟨z, t, T, hz, ht, hcore, hqueued⟩ := cp_queues hi (exec_cpMem_aligned hi m n a b hlow hdst hsrc hlen) rfl rfl
    exact ⟨z, _, t, T, hz, ht, hcore, hqueued, issuedElse_withCp (fun _ _ => rfl), rfl⟩

/-- Settles O28: tile slots are claimed, given up and read, and Porter words queue their commands. -/
theorem tilesAndPorter : Obligations.TilesAndPorter := ⟨tileSlots, porterCommandsQueue⟩

end Sys2Proof.Proofs
end

section
/-! PROOFS. The words of a well-formed instruction are read back as its own fields, and these build it again (R72 to R83): O54. -/

namespace Sys2Proof.Proofs

open Sys2Proof

/-! ### The fields of a word (R72, R78) -/

theorem word_chain (x : Raw) : x.word.getLsbD 31 = x.chain := by
  simp (disch := omega) only [Raw.word, BitVec.getLsbD_append, if_neg]
  simp

theorem word_give (x : Raw) : x.word.getLsbD 30 = x.give := by
  simp (disch := omega) only [Raw.word, BitVec.getLsbD_append, if_neg, if_pos]
  simp

theorem word_cls (x : Raw) : x.word.extractLsb' 27 3 = x.cls := by
  rw [Raw.word, BitVec.extractLsb'_append_eq_of_le (by omega), BitVec.extractLsb'_append_eq_of_le (by omega),
    BitVec.extractLsb'_append_eq_of_add_le (by omega), BitVec.extractLsb'_eq_self]

theorem word_fn (x : Raw) : x.word.extractLsb' 21 6 = x.fn := by
  rw [Raw.word, BitVec.extractLsb'_append_eq_of_le (by omega), BitVec.extractLsb'_append_eq_of_add_le (by omega), BitVec.extractLsb'_eq_self]

theorem word_low (x : Raw) : x.word.extractLsb' 0 21 = x.low := by
  rw [Raw.word, BitVec.extractLsb'_append_eq_of_add_le (by omega), BitVec.extractLsb'_eq_self]

/-- R78: the word of class 7 and function 0x3F that extends the word behind it. -/
theorem isPrefixWord_iff (w : Word) : isPrefixWord w = true ↔ w.extractLsb' 27 3 = 7 ∧ w.extractLsb' 21 6 = 0x3F := by
  have hopcode : w.extractLsb' 21 9 = w.extractLsb' 27 3 ++ w.extractLsb' 21 6 :=
    (BitVec.extractLsb'_append_extractLsb'_eq_extractLsb' (start₁ := 21) (len₁ := 6) (len₂ := 3) rfl).symm
  have hones : ∀ (c : BitVec 3) (f : BitVec 6), c ++ f = 0x1FF#9 ↔ c = 7 ∧ f = 0x3F := by decide
  rw [isPrefixWord, beq_iff_eq, hopcode]
  exact hones _ _

theorem prefixWord_first (p : Prefix) (c : BitVec 7) : (p.word c).getLsbD 31 = true := by
  simp (disch := omega) only [Prefix.word, BitVec.getLsbD_append, if_neg]
  simp

theorem prefixWord_give (p : Prefix) (c : BitVec 7) : (p.word c).getLsbD 30 = p.give := by
  simp (disch := omega) only [Prefix.word, BitVec.getLsbD_append, if_neg, if_pos]
  simp

theorem prefixWord_inv (p : Prefix) (c : BitVec 7) : (p.word c).getLsbD 17 = p.inv := by
  simp (disch := omega) only [Prefix.word, BitVec.getLsbD_append, if_neg, if_pos]
  simp

theorem prefixWord_zero (p : Prefix) (c : BitVec 7) : (p.word c).getLsbD 16 = p.zero := by
  simp (disch := omega) only [Prefix.word, BitVec.getLsbD_append, if_neg, if_pos]
  simp

theorem prefixWord_cls (p : Prefix) (c : BitVec 7) : (p.word c).extractLsb' 27 3 = 7 := by
  rw [Prefix.word]
  iterate 8 rw [BitVec.extractLsb'_append_eq_of_le (by omega)]
  rw [BitVec.extractLsb'_append_eq_of_add_le (by omega), BitVec.extractLsb'_eq_self]

theorem prefixWord_fn (p : Prefix) (c : BitVec 7) : (p.word c).extractLsb' 21 6 = 0x3F := by
  rw [Prefix.word]
  iterate 7 rw [BitVec.extractLsb'_append_eq_of_le (by omega)]
  rw [BitVec.extractLsb'_append_eq_of_add_le (by omega), BitVec.extractLsb'_eq_self]

theorem prefixWord_mask (p : Prefix) (c : BitVec 7) : (p.word c).extractLsb' 18 3 = BitVec.ofNat 3 p.mask.val := by
  rw [Prefix.word]
  iterate 6 rw [BitVec.extractLsb'_append_eq_of_le (by omega)]
  rw [BitVec.extractLsb'_append_eq_of_add_le (by omega), BitVec.extractLsb'_eq_self]

theorem prefixWord_rnd (p : Prefix) (c : BitVec 7) : (p.word c).extractLsb' 13 3 = p.rnd := by
  rw [Prefix.word]
  iterate 3 rw [BitVec.extractLsb'_append_eq_of_le (by omega)]
  rw [BitVec.extractLsb'_append_eq_of_add_le (by omega), BitVec.extractLsb'_eq_self]

theorem prefixWord_rep (p : Prefix) (c : BitVec 7) : (p.word c).extractLsb' 10 3 = p.rep := by
  rw [Prefix.word]
  iterate 2 rw [BitVec.extractLsb'_append_eq_of_le (by omega)]
  rw [BitVec.extractLsb'_append_eq_of_add_le (by omega), BitVec.extractLsb'_eq_self]

theorem prefixWord_unused (p : Prefix) (c : BitVec 7) : (p.word c).extractLsb' 7 3 = 0 := by
  rw [Prefix.word]
  iterate 1 rw [BitVec.extractLsb'_append_eq_of_le (by omega)]
  rw [BitVec.extractLsb'_append_eq_of_add_le (by omega), BitVec.extractLsb'_eq_self]

theorem prefixWord_fourth (p : Prefix) (c : BitVec 7) : (p.word c).extractLsb' 0 7 = c := by
  rw [Prefix.word]
  rw [BitVec.extractLsb'_append_eq_of_add_le (by omega), BitVec.extractLsb'_eq_self]

theorem isPrefixWord_prefixWord (p : Prefix) (c : BitVec 7) : isPrefixWord (p.word c) = true :=
  (isPrefixWord_iff _).2 ⟨prefixWord_cls p c, prefixWord_fn p c⟩

theorem prefixOf_prefixWord (p : Prefix) (c : BitVec 7) : prefixOf (p.word c) = p := by
  simp only [prefixOf, prefixWord_give, prefixWord_mask, prefixWord_inv, prefixWord_zero, prefixWord_rnd, prefixWord_rep, mask_top3]

/-! ### Reading a base word (R73, R76, R83) -/

/-- The word at a slot is taken apart into the fields it was made of; its literal is read apart. -/
theorem rawAt_word {ws : List Word} {j : Nat} {x : Raw} (h : ws.getD j 0 = x.word) :
    rawAt ws j x.pre x.pc = { x with lit := none } := by
  simp only [rawAt, h, word_chain, word_give, word_cls, word_fn, word_low]

/-- A word that some row stands for extends no other (R72). -/
theorem isPrefixWord_word {x : Raw} {r : Row} (hr : rowOf x.cls x.fn = some r) : isPrefixWord x.word = false := by
  have hnone : rowOf 7 0x3F = none := by decide
  rw [Bool.eq_false_iff]
  intro h
  obtain ⟨hcls, hfn⟩ := (isPrefixWord_iff _).1 h
  rw [← word_cls, ← word_fn, hcls, hfn, hnone] at hr
  cases hr

/-- A base word whose fields pass their checks and build an instruction is read as it, where its literal stands behind it (R76, R83). -/
theorem readBase_word {i : Instr} {x : Raw} {r : Row} {ws : List Word} {j : Nat} (hword : ws.getD j 0 = x.word)
    (hr : rowOf x.cls x.fn = some r) (hlit : takesLit r x = x.lit.isSome) (hnext : x.lit.isSome = true → ws[j + 1]? = x.lit)
    (hprefix : prefixCause r x = none) (hbase : baseCause r x = none) (hbuild : build x = some i)
    (hroom : x.chain = true → (if x.lit.isSome then j + 2 else j + 1) < 3) :
    ∃ y, readBase ⟨0, 0, 0, [0, 0, 0, 0, 0]⟩ ws j x.pre x.pc ⟨[], []⟩ = .ok y ∧ y.instr = i := by
  have hraw : rawAt ws j x.pre x.pc = { x with lit := none } := rawAt_word hword
  have htakes : takesLit r { x with lit := none } = x.lit.isSome := hlit
  have hread : (if x.lit.isSome then { ({ x with lit := none } : Raw) with lit := ws[j + 1]? } else { x with lit := none }) = x := by
    cases hl : x.lit with
    | none => simp [← hl]
    | some w => simp [hnext (by simp [hl])]
  have hchain : (x.chain && decide (3 ≤ if x.lit.isSome then j + 2 else j + 1)) = false := by
    cases hc : x.chain with
    | false => rfl
    | true => simpa using hroom hc
  unfold readBase
  simp only [hraw, hr, htakes, hread, hprefix, hchain, hbase, hbuild]
  exact ⟨_, by simp; rfl, rfl⟩

/-! ### Every constructor -/

/-- Every well-formed instruction is built from its own fields. -/
theorem fields_build (i : Instr) : Laws.RoundTrip.Statement i := by
  cases i with
  | add m d a b => exact Laws.RoundTrip.add m d a b
  | sub m d a b => exact Laws.RoundTrip.sub m d a b
  | addi m d a b => exact Laws.RoundTrip.addi m d a b
  | mul m d a b => exact Laws.RoundTrip.mul m d a b
  | mulhI m d a b => exact Laws.RoundTrip.mulhI m d a b
  | mulhN m d a b => exact Laws.RoundTrip.mulhN m d a b
  | mad m d a b => exact Laws.RoundTrip.mad m d a b
  | minI m d a b => exact Laws.RoundTrip.minI m d a b
  | maxI m d a b => exact Laws.RoundTrip.maxI m d a b
  | minN m d a b => exact Laws.RoundTrip.minN m d a b
  | maxN m d a b => exact Laws.RoundTrip.maxN m d a b
  | abs m d a => exact Laws.RoundTrip.abs m d a
  | neg m d a => exact Laws.RoundTrip.neg m d a
  | and m d a b => exact Laws.RoundTrip.and m d a b
  | or m d a b => exact Laws.RoundTrip.or m d a b
  | xor m d a b => exact Laws.RoundTrip.xor m d a b
  | andn m d a b => exact Laws.RoundTrip.andn m d a b
  | not m d a => exact Laws.RoundTrip.not m d a
  | shl m d a b => exact Laws.RoundTrip.shl m d a b
  | shr m d a b => exact Laws.RoundTrip.shr m d a b
  | sar m d a b => exact Laws.RoundTrip.sar m d a b
  | rot m d a b => exact Laws.RoundTrip.rot m d a b
  | shli m d a b => exact Laws.RoundTrip.shli m d a b
  | shri m d a b => exact Laws.RoundTrip.shri m d a b
  | sari m d a b => exact Laws.RoundTrip.sari m d a b
  | clz m d a => exact Laws.RoundTrip.clz m d a
  | popc m d a => exact Laws.RoundTrip.popc m d a
  | brev m d a => exact Laws.RoundTrip.brev m d a
  | bfeI m d a b => exact Laws.RoundTrip.bfeI m d a b
  | bfeN m d a b => exact Laws.RoundTrip.bfeN m d a b
  | bfi m d a b => exact Laws.RoundTrip.bfi m d a b
  | sel m d a b k => exact Laws.RoundTrip.sel m d a b k
  | cmpEq m d a b => exact Laws.RoundTrip.cmpEq m d a b
  | cmpNe m d a b => exact Laws.RoundTrip.cmpNe m d a b
  | cmpLtI m d a b => exact Laws.RoundTrip.cmpLtI m d a b
  | cmpLeI m d a b => exact Laws.RoundTrip.cmpLeI m d a b
  | cmpLtN m d a b => exact Laws.RoundTrip.cmpLtN m d a b
  | cmpLeN m d a b => exact Laws.RoundTrip.cmpLeN m d a b
  | cmpiEq m d a b => exact Laws.RoundTrip.cmpiEq m d a b
  | cmpiLtI m d a b => exact Laws.RoundTrip.cmpiLtI m d a b
  | cmpiLtN m d a b => exact Laws.RoundTrip.cmpiLtN m d a b
  | mov m d a => exact Laws.RoundTrip.mov m d a
  | movi m d imm => exact Laws.RoundTrip.movi m d imm
  | leaB m d a b => exact Laws.RoundTrip.leaB m d a b
  | leaH m d a b => exact Laws.RoundTrip.leaH m d a b
  | leaW m d a b => exact Laws.RoundTrip.leaW m d a b
  | leaD m d a b => exact Laws.RoundTrip.leaD m d a b
  | add64 m d a b => exact Laws.RoundTrip.add64 m d a b
  | sub64 m d a b => exact Laws.RoundTrip.sub64 m d a b
  | mulW m d a b => exact Laws.RoundTrip.mulW m d a b
  | mulWn m d a b => exact Laws.RoundTrip.mulWn m d a b
  | divI m d a b => exact Laws.RoundTrip.divI m d a b
  | divN m d a b => exact Laws.RoundTrip.divN m d a b
  | remI m d a b => exact Laws.RoundTrip.remI m d a b
  | remN m d a b => exact Laws.RoundTrip.remN m d a b
  | adds m d a b => exact Laws.RoundTrip.adds m d a b
  | subs m d a b => exact Laws.RoundTrip.subs m d a b
  | dot4Ii m d a b => exact Laws.RoundTrip.dot4Ii m d a b
  | dot4Ni m d a b => exact Laws.RoundTrip.dot4Ni m d a b
  | sad m d a b => exact Laws.RoundTrip.sad m d a b
  | fadd m d a b => exact Laws.RoundTrip.fadd m d a b
  | fsub m d a b => exact Laws.RoundTrip.fsub m d a b
  | fmul m d a b => exact Laws.RoundTrip.fmul m d a b
  | fma m d a b => exact Laws.RoundTrip.fma m d a b
  | fmin m d a b => exact Laws.RoundTrip.fmin m d a b
  | fmax m d a b => exact Laws.RoundTrip.fmax m d a b
  | fabs m d a => exact Laws.RoundTrip.fabs m d a
  | fneg m d a => exact Laws.RoundTrip.fneg m d a
  | fcmpEq m d a b => exact Laws.RoundTrip.fcmpEq m d a b
  | fcmpLt m d a b => exact Laws.RoundTrip.fcmpLt m d a b
  | fcmpLe m d a b => exact Laws.RoundTrip.fcmpLe m d a b
  | fcmpUn m d a b => exact Laws.RoundTrip.fcmpUn m d a b
  | frnd m d a => exact Laws.RoundTrip.frnd m d a
  | fclass m d a => exact Laws.RoundTrip.fclass m d a
  | fscale m d a b => exact Laws.RoundTrip.fscale m d a b
  | fcopysign m d a b => exact Laws.RoundTrip.fcopysign m d a b
  | hadd2Bf m d a b => exact Laws.RoundTrip.hadd2Bf m d a b
  | hadd2Hf m d a b => exact Laws.RoundTrip.hadd2Hf m d a b
  | hmul2Bf m d a b => exact Laws.RoundTrip.hmul2Bf m d a b
  | hmul2Hf m d a b => exact Laws.RoundTrip.hmul2Hf m d a b
  | hfma2Bf m d a b => exact Laws.RoundTrip.hfma2Bf m d a b
  | hfma2Hf m d a b => exact Laws.RoundTrip.hfma2Hf m d a b
  | hmin2Bf m d a b => exact Laws.RoundTrip.hmin2Bf m d a b
  | hmax2Bf m d a b => exact Laws.RoundTrip.hmax2Bf m d a b
  | hdot2Bf m d a b => exact Laws.RoundTrip.hdot2Bf m d a b
  | hdot2Hf m d a b => exact Laws.RoundTrip.hdot2Hf m d a b
  | f8dot4E4 m d a b => exact Laws.RoundTrip.f8dot4E4 m d a b
  | f8dot4E5 m d a b => exact Laws.RoundTrip.f8dot4E5 m d a b
  | fminP m d a b => exact Laws.RoundTrip.fminP m d a b
  | fmaxP m d a b => exact Laws.RoundTrip.fmaxP m d a b
  | rcp m d a => exact Laws.RoundTrip.rcp m d a
  | rsq m d a => exact Laws.RoundTrip.rsq m d a
  | sqrt m d a => exact Laws.RoundTrip.sqrt m d a
  | ex2 m d a => exact Laws.RoundTrip.ex2 m d a
  | lg2 m d a => exact Laws.RoundTrip.lg2 m d a
  | sinT m d a => exact Laws.RoundTrip.sinT m d a
  | cosT m d a => exact Laws.RoundTrip.cosT m d a
  | tanh m d a => exact Laws.RoundTrip.tanh m d a
  | sigm m d a => exact Laws.RoundTrip.sigm m d a
  | fdiv m d a b => exact Laws.RoundTrip.fdiv m d a b
  | cvtFI m d a => exact Laws.RoundTrip.cvtFI m d a
  | cvtFN m d a => exact Laws.RoundTrip.cvtFN m d a
  | cvtIF m d a => exact Laws.RoundTrip.cvtIF m d a
  | cvtNF m d a => exact Laws.RoundTrip.cvtNF m d a
  | cvt2Bf m d a b => exact Laws.RoundTrip.cvt2Bf m d a b
  | cvt2Hf m d a b => exact Laws.RoundTrip.cvt2Hf m d a b
  | cvtFBfl m d a => exact Laws.RoundTrip.cvtFBfl m d a
  | cvtFBfh m d a => exact Laws.RoundTrip.cvtFBfh m d a
  | cvtFHfl m d a => exact Laws.RoundTrip.cvtFHfl m d a
  | cvtFHfh m d a => exact Laws.RoundTrip.cvtFHfh m d a
  | cvtE4 m d a => exact Laws.RoundTrip.cvtE4 m d a
  | cvtE5 m d a => exact Laws.RoundTrip.cvtE5 m d a
  | cvtFE4 m d a => exact Laws.RoundTrip.cvtFE4 m d a
  | cvtFE5 m d a => exact Laws.RoundTrip.cvtFE5 m d a
  | swp m d a b => exact Laws.RoundTrip.swp m d a b
  | shfl m d a b => exact Laws.RoundTrip.shfl m d a b
  | rotw m d a b => exact Laws.RoundTrip.rotw m d a b
  | bcast m d a b => exact Laws.RoundTrip.bcast m d a b
  | voteAll m d a => exact Laws.RoundTrip.voteAll m d a
  | voteAny m d a => exact Laws.RoundTrip.voteAny m d a
  | ballot m d a => exact Laws.RoundTrip.ballot m d a
  | cmpr m d a => exact Laws.RoundTrip.cmpr m d a
  | expd m d a => exact Laws.RoundTrip.expd m d a
  | scanAdd m d a => exact Laws.RoundTrip.scanAdd m d a
  | scanFadd m d a => exact Laws.RoundTrip.scanFadd m d a
  | redAdd m d a => exact Laws.RoundTrip.redAdd m d a
  | redFadd m d a => exact Laws.RoundTrip.redFadd m d a
  | redMinI m d a => exact Laws.RoundTrip.redMinI m d a
  | redMaxI m d a => exact Laws.RoundTrip.redMaxI m d a
  | redFmax m d a => exact Laws.RoundTrip.redFmax m d a
  | redFmin m d a => exact Laws.RoundTrip.redFmin m d a
  | ixr m d a => exact Laws.RoundTrip.ixr m d a
  | ixw m a b => exact Laws.RoundTrip.ixw m a b
  | win m b => exact Laws.RoundTrip.win m b
  | tid m d b => exact Laws.RoundTrip.tid m d b
  | mand m d a b => exact Laws.RoundTrip.mand m d a b
  | mor m d a b => exact Laws.RoundTrip.mor m d a b
  | mxor m d a b => exact Laws.RoundTrip.mxor m d a b
  | mnot m d a => exact Laws.RoundTrip.mnot m d a
  | m2v m d a => exact Laws.RoundTrip.m2v m d a
  | v2m m d a => exact Laws.RoundTrip.v2m m d a
  | ld8 m d a b => exact Laws.RoundTrip.ld8 m d a b
  | ld8s m d a b => exact Laws.RoundTrip.ld8s m d a b
  | ld16 m d a b => exact Laws.RoundTrip.ld16 m d a b
  | ld16s m d a b => exact Laws.RoundTrip.ld16s m d a b
  | ld32 m d a b => exact Laws.RoundTrip.ld32 m d a b
  | ld64 m d a b => exact Laws.RoundTrip.ld64 m d a b
  | ld128 m d a b => exact Laws.RoundTrip.ld128 m d a b
  | st8 m d a b => exact Laws.RoundTrip.st8 m d a b
  | st16 m d a b => exact Laws.RoundTrip.st16 m d a b
  | st32 m d a b => exact Laws.RoundTrip.st32 m d a b
  | st64 m d a b => exact Laws.RoundTrip.st64 m d a b
  | st128 m d a b => exact Laws.RoundTrip.st128 m d a b
  | ldU m d a b => exact Laws.RoundTrip.ldU m d a b
  | stU m d a b => exact Laws.RoundTrip.stU m d a b
  | ldRc m d a b => exact Laws.RoundTrip.ldRc m d a b
  | pf m a b => exact Laws.RoundTrip.pf m a b
  | atomAdd m d a b => exact Laws.RoundTrip.atomAdd m d a b
  | atomMinI m d a b => exact Laws.RoundTrip.atomMinI m d a b
  | atomMaxI m d a b => exact Laws.RoundTrip.atomMaxI m d a b
  | atomMinN m d a b => exact Laws.RoundTrip.atomMinN m d a b
  | atomMaxN m d a b => exact Laws.RoundTrip.atomMaxN m d a b
  | atomAnd m d a b => exact Laws.RoundTrip.atomAnd m d a b
  | atomOr m d a b => exact Laws.RoundTrip.atomOr m d a b
  | atomXor m d a b => exact Laws.RoundTrip.atomXor m d a b
  | atomXch m d a b => exact Laws.RoundTrip.atomXch m d a b
  | atomCas m d a b c => exact Laws.RoundTrip.atomCas m d a b c
  | atomFadd m d a b => exact Laws.RoundTrip.atomFadd m d a b
  | atomAdd64 m d a b => exact Laws.RoundTrip.atomAdd64 m d a b
  | redmAdd m a b => exact Laws.RoundTrip.redmAdd m a b
  | redmFadd m a b => exact Laws.RoundTrip.redmFadd m a b
  | redmMax m a b => exact Laws.RoundTrip.redmMax m a b
  | fence m => exact Laws.RoundTrip.fence m
  | nap m a b => exact Laws.RoundTrip.nap m a b
  | mbxLd m d a b => exact Laws.RoundTrip.mbxLd m d a b
  | mbxSt m d a b => exact Laws.RoundTrip.mbxSt m d a b
  | mbxTst m d a b => exact Laws.RoundTrip.mbxTst m d a b
  | br m off => exact Laws.RoundTrip.br m off
  | brC m k off => exact Laws.RoundTrip.brC m k off
  | brAny m k off => exact Laws.RoundTrip.brAny m k off
  | brAll m k off => exact Laws.RoundTrip.brAll m k off
  | brx m d a b => exact Laws.RoundTrip.brx m d a b
  | call m off => exact Laws.RoundTrip.call m off
  | callX m a => exact Laws.RoundTrip.callX m a
  | ret m => exact Laws.RoundTrip.ret m
  | div m off => exact Laws.RoundTrip.div m off
  | join m => exact Laws.RoundTrip.join m
  | exit m => exact Laws.RoundTrip.exit m
  | barArr m scope num => exact Laws.RoundTrip.barArr m scope num
  | barArrRlx m scope num => exact Laws.RoundTrip.barArrRlx m scope num
  | barWait m scope num => exact Laws.RoundTrip.barWait m scope num
  | barSync m scope num => exact Laws.RoundTrip.barSync m scope num
  | syncP m a => exact Laws.RoundTrip.syncP m a
  | idem m => exact Laws.RoundTrip.idem m
  | nop m => exact Laws.RoundTrip.nop m
  | loop m c off => exact Laws.RoundTrip.loop m c off
  | belPut m d a b => exact Laws.RoundTrip.belPut m d a b
  | belRet m d a => exact Laws.RoundTrip.belRet m d a
  | belGet m d a b => exact Laws.RoundTrip.belGet m d a b
  | belFacts m d a => exact Laws.RoundTrip.belFacts m d a
  | belTst m d a b => exact Laws.RoundTrip.belTst m d a b
  | goalAdd m a b => exact Laws.RoundTrip.goalAdd m a b
  | goalDone m d a b => exact Laws.RoundTrip.goalDone m d a b
  | goalFail m a => exact Laws.RoundTrip.goalFail m a
  | intAdopt m d a b => exact Laws.RoundTrip.intAdopt m d a b
  | intDrop m a => exact Laws.RoundTrip.intDrop m a
  | intSusp m d a b => exact Laws.RoundTrip.intSusp m d a b
  | intResm m d a b => exact Laws.RoundTrip.intResm m d a b
  | planSub m d a b => exact Laws.RoundTrip.planSub m d a b
  | planRet m a b => exact Laws.RoundTrip.planRet m a b
  | step m a b => exact Laws.RoundTrip.step m a b
  | intInfo m d a => exact Laws.RoundTrip.intInfo m d a
  | agtNew m d b => exact Laws.RoundTrip.agtNew m d b
  | agtFree m a => exact Laws.RoundTrip.agtFree m a
  | tileClaim m d b => exact Laws.RoundTrip.tileClaim m d b
  | tileRel m a b => exact Laws.RoundTrip.tileRel m a b
  | tileSt m d a => exact Laws.RoundTrip.tileSt m d a
  | cpIn m d a b => exact Laws.RoundTrip.cpIn m d a b
  | cpOut m d a b => exact Laws.RoundTrip.cpOut m d a b
  | cpMem m d a b => exact Laws.RoundTrip.cpMem m d a b
  | cpInMx m d a b => exact Laws.RoundTrip.cpInMx m d a b
  | mxMma m d a b => exact Laws.RoundTrip.mxMma m d a b
  | mxSm m d a b => exact Laws.RoundTrip.mxSm m d a b
  | mxRd m d a b => exact Laws.RoundTrip.mxRd m d a b
  | mxClr m d => exact Laws.RoundTrip.mxClr m d
  | mxCtlClaim m d => exact Laws.RoundTrip.mxCtlClaim m d
  | mxCtlBind m d => exact Laws.RoundTrip.mxCtlBind m d
  | mxCtlRelease m d => exact Laws.RoundTrip.mxCtlRelease m d
  | tlWait m a b => exact Laws.RoundTrip.tlWait m a b
  | tlRd m d a b => exact Laws.RoundTrip.tlRd m d a b
  | tlInc m d a b => exact Laws.RoundTrip.tlInc m d a b
  | bankCmd m d a b => exact Laws.RoundTrip.bankCmd m d a b
  | launch m d a => exact Laws.RoundTrip.launch m d a
  | recEmit m d a b => exact Laws.RoundTrip.recEmit m d a b
  | logApp m d a b => exact Laws.RoundTrip.logApp m d a b
  | envClaim m d b => exact Laws.RoundTrip.envClaim m d b
  | envRel m a b => exact Laws.RoundTrip.envRel m a b
  | envClr m d b => exact Laws.RoundTrip.envClr m d b
  | envIns m d a b => exact Laws.RoundTrip.envIns m d a b
  | envSum m d a b => exact Laws.RoundTrip.envSum m d a b
  | envMax m d a b => exact Laws.RoundTrip.envMax m d a b
  | envIcv m d a b => exact Laws.RoundTrip.envIcv m d a b
  | envConj m d a b => exact Laws.RoundTrip.envConj m d a b
  | envSimp m d a => exact Laws.RoundTrip.envSimp m d a
  | envEval m d a b => exact Laws.RoundTrip.envEval m d a b
  | envSlope m d a b => exact Laws.RoundTrip.envSlope m d a b
  | envRd m d a b => exact Laws.RoundTrip.envRd m d a b
  | envCnt m d a => exact Laws.RoundTrip.envCnt m d a
  | envLd m d a => exact Laws.RoundTrip.envLd m d a
  | envSt m d a => exact Laws.RoundTrip.envSt m d a
  | csrRd m d a => exact Laws.RoundTrip.csrRd m d a
  | csrWr m a b => exact Laws.RoundTrip.csrWr m a b
  | csrSet m d a b => exact Laws.RoundTrip.csrSet m d a b
  | csrClr m d a b => exact Laws.RoundTrip.csrClr m d a b
  | trap m b => exact Laws.RoundTrip.trap m b
  | tret m => exact Laws.RoundTrip.tret m
  | brk m b => exact Laws.RoundTrip.brk m b
  | clk m d => exact Laws.RoundTrip.clk m d
  | fenceWin m => exact Laws.RoundTrip.fenceWin m
  | _ => exact fun _ h => by cases h

/-! ### Reading an instruction's words (R78) -/

theorem chained_of_raw {i : Instr} {x : Raw} (hx : i.raw = some x) : i.chained = x.chain := by
  rw [Instr.chained, hx]

/-- A well-formed instruction has a row, and its fields pass the row's checks. -/
theorem exists_row {i : Instr} {x : Raw} (hw : WellFormed i) (hx : i.raw = some x) :
    ∃ r, rowOf x.cls x.fn = some r ∧ prefixCause r x = none ∧ baseCause r x = none := by
  cases hr : rowOf x.cls x.fn with
  | none => simp [WellFormed, Instr.cause, hx, hr] at hw
  | some r => exact ⟨r, rfl, wf_checks hw hx hr⟩

/-- A word behind an extending word is read with that word's fields (R78). -/
theorem readAt_prefixed {h : Header} {ws : List Word} {p : Prefix} {c : BitVec 7} {use : ChainUse} (hfirst : ws.getD 0 0 = p.word c)
    (hplain : isPrefixWord (ws.getD 1 0) = false) : readAt h ws 0 use = readBase h ws 1 (some p) c use := by
  simp only [readAt, hfirst, isPrefixWord_prefixWord, prefixWord_first, hplain, prefixWord_unused, prefixOf_prefixWord, prefixWord_fourth]
  rfl

theorem decodeWords_of_readAt {ws : List Word} {i : Instr}
    (h : ∃ y, readAt ⟨0, 0, 0, [0, 0, 0, 0, 0]⟩ ws 0 ⟨[], []⟩ = .ok y ∧ y.instr = i) : decodeWords ws = some i := by
  obtain ⟨y, hy, rfl⟩ := h
  rw [decodeWords, hy]

/-- Settles O54: each field is read back from its words, every check passes again, and the fields build the instruction. -/
theorem decodeReadsBackEncode : Obligations.DecodeReadsBackEncode := by
  intro i ws hw hws hroom
  obtain ⟨x, hx, rfl⟩ := Option.map_eq_some_iff.1 hws
  obtain ⟨r, hr, hprefix, hbase⟩ := exists_row hw hx
  obtain ⟨hbuild, hfourth, hlit⟩ := fields_build i x hx hw
  rw [chained_of_raw hx] at hroom
  refine decodeWords_of_readAt ?_
  cases hpre : x.pre with
  | none =>
    have hwords : x.words = x.word :: x.lit.toList := by cases hl : x.lit <;> simp [Raw.words, hpre, hl]
    have hread := readBase_word (ws := x.words) (j := 0) (by simp [hwords]) hr (hlit r hr) (by cases hl : x.lit <;> simp [hwords, hl]) hprefix
      hbase hbuild (fun hc => by have := hroom hc; cases hl : x.lit <;> simp_all)
    rw [hpre, hfourth hpre] at hread
    have hplain : isPrefixWord (x.words.getD 0 0) = false := by rw [hwords]; exact isPrefixWord_word hr
    simpa only [readAt, hplain, Bool.false_eq_true, if_false] using hread
  | some p =>
    have hwords : x.words = p.word x.pc :: x.word :: x.lit.toList := by cases hl : x.lit <;> simp [Raw.words, hpre, hl]
    have hread := readBase_word (ws := x.words) (j := 1) (by simp [hwords]) hr (hlit r hr) (by cases hl : x.lit <;> simp [hwords, hl]) hprefix
      hbase hbuild (fun hc => by have := hroom hc; cases hl : x.lit <;> simp_all)
    rw [hpre] at hread
    have hplain : isPrefixWord (x.words.getD 1 0) = false := by rw [hwords]; exact isPrefixWord_word hr
    rw [readAt_prefixed (by rw [hwords]; rfl) hplain]
    exact hread

end Sys2Proof.Proofs
end

section
/-! PROOFS. The state after reset (O60), the worked encodings (O55), and the answer of every instruction (O57). -/

namespace Sys2Proof.Proofs

open Sys2Proof Sys2Proof.Machine Sys2Proof.Says

/-- Settles O60: the reset values, and the invariant that they meet. -/
theorem resetState : Obligations.ResetState :=
  ⟨⟨rfl, rfl, by decide, by decide, by decide, by decide⟩, rfl, rfl, rfl, rfl, rfl, rfl, rfl, rfl, fun _ => ⟨rfl, rfl, rfl, rfl, rfl, rfl⟩⟩

/-- Settles O55: each word is taken apart by the decoder's own evaluation. -/
theorem wordsDecode : Obligations.WordsDecode := by
  refine ⟨?_, ?_, ?_, ?_, ?_, ?_, ?_, ?_, ?_, ?_, ?_⟩ <;> rfl

/-! ### Every instruction answers -/

/-- An encoded word runs for the issuing party; a step without a word gives a next state. -/
def Answers (i : Instr) (s : State) : Prop :=
  match i.raw with
  | some _ => ∃ f, exec i s = s.issue f
  | none => ∃ t, exec i s = .next t

/-- A choice between two outcomes that go on goes on. -/
theorem exists_next_ite {c : Prop} [Decidable c] {a b : Host.Outcome State Fault Refusal} (ha : ∃ t, a = .next t) (hb : ∃ t, b = .next t) :
    ∃ t, (if c then a else b) = .next t := by
  split
  · exact ha
  · exact hb

theorem answers (i : Instr) (s : State) : Answers i s := by
  cases i with
  | movi m d imm => cases d <;> exact Exists.intro _ rfl
  | bcast m d a b => cases d <;> exact Exists.intro _ rfl
  | cmpr m d a => cases d <;> exact Exists.intro _ rfl
  | ixr m d a => cases d <;> exact Exists.intro _ rfl
  | regionCreate fe => exact exists_next_ite ⟨_, rfl⟩ ⟨_, rfl⟩
  | regionDestroy fe => exact exists_next_ite ⟨_, rfl⟩ ⟨_, rfl⟩
  | _ => exact Exists.intro _ rfl

/-- Without a party at issue a word stops. -/
theorem issue_of_not_issuing {s : State} (h : ∀ p x, ¬ Issuing s p x) (f : Nat → Party → State) : s.issue f = .fault .noIssuingParty := by
  unfold State.issue
  split
  · rfl
  · next p hp =>
    split
    · rfl
    · next x hx => exact absurd ⟨hp, hx⟩ (h p x)

/-- Settles O57: a word runs its meaning for the issuing party, and every other step gives a next state. -/
theorem everyInstructionAnswers : Obligations.EveryInstructionAnswers := by
  refine ⟨fun i s p x hi => ?_, fun i s hraw => ?_, fun i s ws hws hno => ?_⟩
  · have h := answers i s
    unfold Answers at h
    split at h
    · obtain ⟨f, hf⟩ := h
      exact ⟨f p x, hf.trans (issue_next hi.1 hi.2 f)⟩
    · exact h
  · have h := answers i s
    unfold Answers at h
    rw [Option.map_eq_none_iff.1 hraw] at h
    exact h
  · obtain ⟨x, hx, -⟩ := Option.map_eq_some_iff.1 hws
    have h := answers i s
    unfold Answers at h
    rw [hx] at h
    obtain ⟨f, hf⟩ := h
    rw [hf, issue_of_not_issuing hno]

end Sys2Proof.Proofs
end

section
/-! PROOFS. One step of the machine (R24, R66, R75, R77, R149): O56. -/

namespace Sys2Proof.Proofs

open Sys2Proof Sys2Proof.Machine Sys2Proof.Says

/-- With an empty schedule the issuing party's packet is fetched and decoded, and the one instruction at its slot is executed (R24, R66). -/
theorem step_executes {s s' : State} {p : Nat} {x : Party} {pos : IssuePos} {pa : Nat} {h : Header} {gs : List Group} {g : Group} {i : Instr}
    {u : State} (hscript : s.script = []) (hcur : s.cur = some p) (hp : s.party? p = some x) (hplace : x.place = some pos)
    (hwords : pos.words = none) (hfetch : s.fetchLine { x with pos := pos } pos.pkt = (s', .ok pa))
    (hdecode : decodePacket ((s'.packetWords pa (pos.pkt.toNat % 8)).getD 0 0) ((s'.packetWords pa (pos.pkt.toNat % 8)).drop 1) = .ok (h, gs))
    (hgroup : groupAt pos.slot gs = some g) (hinstrs : g.instrs = [i])
    (hexec : exec i (s'.setParty p { x with
      pos := { pos with words := some (s'.packetWords pa (pos.pkt.toNat % 8)), after := g.next }
      gap := h.gaps.getD (pos.pkt.toNat % 8) 0, giveWay := gs.any (fun g => g.give), ctl := .run, latch := none }) = .next u) :
    step s = .next ((s'.setParty p { x with
      pos := { pos with words := some (s'.packetWords pa (pos.pkt.toNat % 8)), after := g.next }
      gap := h.gaps.getD (pos.pkt.toNat % 8) 0, giveWay := gs.any (fun g => g.give), ctl := .run, latch := none }).retire u p) := by
  have hstart : s.startGroup p = .group (s'.setParty p { x with
      pos := { pos with words := some (s'.packetWords pa (pos.pkt.toNat % 8)), after := g.next }
      gap := h.gaps.getD (pos.pkt.toNat % 8) 0, giveWay := gs.any (fun g => g.give), ctl := .run, latch := none }) g := by
    simp only [State.startGroup, hp, hplace, hwords, hfetch, hdecode, hgroup, hinstrs, List.length_singleton, lt_irrefl, if_false]
  simp only [step, hscript, hcur, hstart, hinstrs, execAll, hexec]

theorem pcOf_setPc (x : Party) (m : Mask) (a : DWord) (t : Nat) :
    (x.setPc m a).pcOf t = if t ∈ threadsOf x.width m then a else x.pcOf t := sget_foldl_sset _ _ _ _ _

/-- A party with threads, no divergence entry and no `sync.p` has nothing to settle. -/
theorem settle_of_nothing {s : State} {p : Nat} {x : Party} (hp : s.party? p = some x) (hdivs : x.divs = []) (hsync : x.syncMask = none)
    (halive : x.alive ≠ 0) : s.settle p = s.setParty p x := by
  have hsettled : x.settleDivs = x := by simp only [Party.settleDivs, hdivs, Party.popDivs]; rw [← hdivs]
  have hready : x.syncReady = false := by rw [Party.syncReady, hsync]
  simp only [State.settle, hp, beq_iff_eq, halive, if_false, hsettled, Party.settleSync, hready, Bool.false_eq_true]

/-- The party as its group leaves it: the issue of a packet's first group is its new issue age (R344). -/
def aged (u : State) (y : Party) : Party := if y.pos.begun then y else { y with age := u.now }

/-- The party after its group (R149): at the next group of the packet with the threads that neither transferred nor left, or behind the packet. -/
def advanced (now : Nat) (x : Party) : Party :=
  let m := x.pos.m0 &&& ~~~ x.pos.moved
  let x' := { x with rerun := none, ctl := .run, waitReqs := 0, latch := none, homeFaults := [] }
  if x.pos.after < 3 && m != 0 then { x' with pos := { x.pos with slot := x.pos.after, m0 := m, moved := 0, begun := true } }
  else { x'.setPc m (nextPacket x.pos.pkt) with pos := IssuePos.fresh, entered := false, parkedAt := now }

/-- With a group left in the packet, the threads go on to it. -/
theorem advanced_group {x : Party} (hafter : x.pos.after < 3) (hm : x.pos.m0 &&& ~~~ x.pos.moved ≠ 0) (now : Nat) : advanced now x =
    { x with rerun := none, ctl := .run, waitReqs := 0, latch := none, homeFaults := [],
             pos := { x.pos with slot := x.pos.after, m0 := x.pos.m0 &&& ~~~ x.pos.moved, moved := 0, begun := true } } :=
  if_pos (by rw [Bool.and_eq_true, decide_eq_true_eq, bne_iff_ne]; exact ⟨hafter, hm⟩)

/-- At the end of the packet, they go to the next one. -/
theorem pcOf_advanced_packet {x : Party} (hafter : 3 ≤ x.pos.after) (now : Nat) (t : Nat) : (advanced now x).pcOf t =
    if t ∈ threadsOf x.width (x.pos.m0 &&& ~~~ x.pos.moved) then nextPacket x.pos.pkt else x.pcOf t := by
  have hlast : ¬ (decide (x.pos.after < 3) && x.pos.m0 &&& ~~~ x.pos.moved != 0) = true := by
    rw [Bool.and_eq_true, decide_eq_true_eq]
    omega
  exact (congrArg (fun y => Party.pcOf y t) (if_neg hlast)).trans (pcOf_setPc _ _ _ _)

/-- The packet after a code address (R67). -/
theorem nextPacket_eq (a : DWord) : nextPacket a = if a.toNat % 8 = 4 then (a &&& ~~~ (0x3F : DWord)) + 64 else a + 1 := by
  have hlow : (a.extractLsb' 0 3 == 4) = decide (a.toNat % 8 = 4) := by
    rw [Bool.eq_iff_iff, beq_iff_eq, decide_eq_true_eq, BitVec.toNat_eq, BitVec.extractLsb'_toNat]
    rfl
  simp only [nextPacket, hlow, decide_eq_true_eq]

theorem advanced_frame (now : Nat) (x : Party) : (advanced now x).regs = x.regs ∧ (advanced now x).csr = x.csr ∧ (advanced now x).divs = x.divs ∧
    (advanced now x).syncMask = x.syncMask ∧ (advanced now x).alive = x.alive := by
  unfold advanced
  dsimp only
  split <;> exact ⟨rfl, rfl, rfl, rfl, rfl⟩

theorem aged_frame (u : State) (y : Party) : aged u y = { y with age := (aged u y).age } := by
  unfold aged
  split <;> rfl

theorem retire_run {s u : State} {p : Nat} {y : Party} (hp : u.party? p = some y) (hlife : y.life = .resident) (hlatch : y.latch = none)
    (hpend : y.pend = none) (hwords : y.pos.words ≠ none) (hctl : y.ctl = .run) (hpark : y.park = .none) :
    s.retire u p = (u.setParty p (aged u y)).finishGroup p := by
  have haged : u.onParty p (fun x => if x.ctl == .stall || x.pos.begun then x else { x with age := u.now }) = u.setParty p (aged u y) := by
    rw [onParty_of_some hp]
    simp only [hctl, aged, reduceCtorEq, beq_iff_eq, Bool.or_eq_true, false_or]
  rw [aged_frame] at haged ⊢
  have hsome : y.pos.words.isNone = false := Option.isNone_eq_false_iff.2 (Option.isSome_iff_ne_none.2 hwords)
  simp only [State.retire, haged, party?_setParty_same, hlife, hlatch, hpend, hctl, hpark, hsome]
  rfl

theorem finishGroup_run {s : State} {p : Nat} {x : Party} (hp : s.party? p = some x) (hdivs : x.divs = []) (hsync : x.syncMask = none)
    (hsingle : x.csr.single = false) (halive : x.alive ≠ 0) :
    (s.finishGroup p).party? p = some { advanced s.now x with hold := false } ∧ (s.finishGroup p).mem = s.mem := by
  obtain ⟨-, -, hdivs', hsync', halive'⟩ := advanced_frame s.now x
  have hstep : s.finishGroup p = (let t := (s.setParty p (advanced s.now x)).wake
      if (advanced s.now x).pos.words.isNone && t.cur == some p then { t with cur := none } else t) := by
    have hsettle := settle_of_nothing (s := s.setParty p (advanced s.now x)) (party?_setParty_same _ _ _)
      (hdivs'.trans hdivs) (hsync'.trans hsync) (halive'.trans_ne halive)
    rw [setParty_setParty] at hsettle
    simp only [State.finishGroup, State.finishGroupWith, hp]
    simp only [hsingle, Bool.false_and, Bool.false_eq_true, if_false]
    rw [← hsettle]
    rfl
  rw [hstep]
  dsimp only
  split
  · exact ⟨(wake_party? _ _).trans (by simp), rfl⟩
  · exact ⟨(wake_party? _ _).trans (by simp), rfl⟩

/-- Settles O56: fetch, decode and execution of the group at the party's slot; what follows a group; and the schedule's turn. -/
theorem stepRunsTheDecodedInstruction : Obligations.StepRunsTheDecodedInstruction := by
  refine ⟨?_, ?_, ?_, ?_⟩
  · intro s s' p x pos pa h gs g i u hscript hcur hp hplace hwords hfetch hdecode hgroup hinstrs y hexec
    exact step_executes hscript hcur hp hplace hwords hfetch hdecode hgroup hinstrs hexec
  · intro s u p y hp hlife hlatch hpend hwords hctl hpark hdivs hsync hsingle halive hm
    have haged := aged_frame u y
    obtain ⟨hz, hmem⟩ := finishGroup_run (s := u.setParty p (aged u y)) (x := aged u y) (party?_setParty_same _ _ _) (by rwa [haged])
      (by rwa [haged]) (by rwa [haged]) (by rwa [haged])
    obtain ⟨hregs, hcsr, -⟩ := advanced_frame u.now (aged u y)
    have hpos : (aged u y).pos = y.pos := by rw [haged]
    rw [retire_run hp hlife hlatch hpend hwords hctl hpark]
    refine ⟨_, hz, ?_, ?_, hmem, fun hafter => ?_, fun hafter t => ?_⟩
    · exact hregs.trans (by rw [haged])
    · exact hcsr.trans (by rw [haged])
    · rw [advanced_group (by rwa [hpos]) (by rwa [hpos]), hpos]
      exact ⟨rfl, rfl, show (aged u y).tpc = y.tpc by rw [haged]⟩
    · have hpc := pcOf_advanced_packet (x := aged u y) (by rwa [hpos]) u.now t
      rw [nextPacket_eq, hpos, show (aged u y).width = y.width by rw [haged], show (aged u y).pcOf t = y.pcOf t by rw [haged]; rfl] at hpc
      exact hpc
  · intro s i rest hscript
    simp only [step, hscript]
  · intro s n rest hscript
    simp only [step, hscript]

end Sys2Proof.Proofs
end

section
/-! PROOFS. A register past Rt that an ill-formed word names beside a uniform destination raises nothing (R11, R98): O58. -/

namespace Sys2Proof.Proofs

open Sys2Proof Sys2Proof.Machine Sys2Proof.Says

/-- A party of one active thread whose launch gave it no vector register. -/
def unallocated : Party := { Party.blank 0 0 none 1 0 0 with pos := { IssuePos.fresh with m0 := 1 } }

/-- The machine after reset with that party at issue. -/
def unallocatedState : State := { State.reset with cur := some 1, parties := [(1, unallocated)] }

/-- A bare `mov s1, v0`: the decoder refuses a vector source beside a uniform destination (R98). -/
def uniformFromVector : Instr := .mov ⟨false, false, none⟩ (.s 1) (.v 0)

theorem unallocated_not_within : ¬ Within unallocated ⟨false, false, none⟩ [(.s 1, 1), (.v 0, 1)] := by
  rintro (h | h)
  · exact absurd h (by decide)
  · exact absurd (h 0 1 (by simp) 0 Nat.one_pos 0 Nat.one_pos) (by decide)

/-- The word writes its uniform register, and its party goes on. -/
theorem exec_uniformFromVector : exec uniformFromVector unallocatedState = .next (unallocatedState.setParty 1 (unallocated.setU 1 0)) := rfl

/-- Any trap would halt the party, whose lodging has no handler. -/
theorem raise_unallocated_halts (r : TrapReq) : ((unallocatedState.raise 1 r).party? 1).map (fun x => x.life) = some .halted := rfl

/-- Refutes O58: a row's destination may be a uniform register, and then the meaning checks no allocation; with `mov s1, v0` in a party without
vector registers nothing is raised. -/
theorem not_registersPastRtTrap : ¬ Obligations.RegistersPastRtTrap := by
  intro h
  obtain ⟨t, r, -, ⟨q, rfl, -⟩, hexec⟩ := h uniformFromVector _ (.mov _ _ _) unallocatedState 1 unallocated ⟨rfl, rfl⟩ unallocated_not_within
  have hsame : unallocatedState.setParty 1 (unallocated.setU 1 0) = unallocatedState.raise 1 q :=
    Host.Outcome.next.inj (exec_uniformFromVector.symm.trans hexec)
  have hlife := congrArg (fun t => (t.party? 1).map (fun x => x.life)) hsame
  have hhalted : some Life.pending = some Life.halted := hlife.trans (raise_unallocated_halts q)
  cases hhalted

end Sys2Proof.Proofs
end

section
/-! PROOFS. Class 1 and the conversions (R58, R61, R116, R118 to R125, R132, R133): O3. -/

namespace Sys2Proof.Proofs

open Sys2Proof Sys2Proof.Machine Sys2Proof.Says

/-! ### The draws of one iteration (R58) -/

theorem advance_add (g : Word) (a b : Nat) : advance g (a + b) = advance (advance g a) b := by
  induction a generalizing g with
  | zero => rw [Nat.zero_add]; rfl
  | succ a ih => rw [Nat.succ_add]; exact ih (xorshift g)

/-- The generator that the `i`-th thread of an iteration finds. -/
def threadGen (mode : BitVec 3) (draws : Nat) (g : Word) (i : Nat) : Word := if mode = SR then advance g (draws * i) else g

/-- The threads of an iteration one after another: each draws from the generator that its place gives. -/
theorem fpThreads_eq (mode : BitVec 3) (ftz : Bool) (draws : Nat) (f : Nat → FpFn) (ts : List Nat) (g : Word) (k : Nat) :
    fpThreads mode ftz draws f ts (threadGen mode draws g k) =
      ((ts.zipIdx k).map (fun e => (e.1, (f e.1 mode ftz (draw (threadGen mode draws g e.2))).1)),
        ((ts.zipIdx k).map (fun e => (f e.1 mode ftz (draw (threadGen mode draws g e.2))).2)).foldr (fun a b => a ||| b) 0,
        threadGen mode draws g (k + ts.length)) := by
  induction ts generalizing k with
  | nil => rfl
  | cons t ts ih =>
    have hnext : (if mode == SR then advance (threadGen mode draws g k) draws else threadGen mode draws g k) = threadGen mode draws g (k + 1) := by
      by_cases hm : mode = SR
      · simp [threadGen, hm, Nat.mul_succ, advance_add]
      · simp [threadGen, hm]
    rw [fpThreads, hnext, ih, List.zipIdx_cons, List.length_cons, Nat.add_right_comm k 1, Nat.add_assoc k]
    rfl

theorem filter_lt_threadsOf {w t : Nat} (h : t ≤ w) (m : Mask) : (threadsOf w m).filter (fun u => decide (u < t)) = threadsOf t m := by
  obtain ⟨r, rfl⟩ := Nat.exists_eq_add_of_le h
  have hlow : (threadsOf t m).filter (fun u => decide (u < t)) = threadsOf t m :=
    List.filter_eq_self.2 fun u hu => decide_eq_true (mem_threadsOf.1 hu).1
  have hhigh : (((List.range r).map (t + ·)).filter (fun u => bitOf m u)).filter (fun u => decide (u < t)) = [] := by
    refine List.filter_eq_nil_iff.2 fun u hu => ?_
    obtain ⟨j, -, rfl⟩ := List.mem_map.1 (List.mem_of_mem_filter hu)
    simp
  rw [threadsOf, List.range_add, List.filter_append, List.filter_append, hhigh, List.append_nil]
  exact hlow

/-- A thread of a mask stands at its rank. -/
theorem snd_of_mem_zipIdx_threadsOf {w : Nat} {m : Mask} {e : Nat × Nat} (he : e ∈ (threadsOf w m).zipIdx) :
    e.2 = ((threadsOf w m).filter (fun u => decide (u < e.1))).length := by
  obtain ⟨t, i⟩ := e
  obtain ⟨hi, hget⟩ := List.mem_zipIdx' he
  have hlt : t < w := (mem_threadsOf.1 (hget ▸ List.getElem_mem hi)).1
  dsimp only
  rw [filter_lt_threadsOf hlt.le, hget, length_threadsOf_getElem w m i hi]

/-- What places say of the threads of a mask, ranks say of them. -/
theorem map_zipIdx_threadsOf {β : Type} (w : Nat) (m : Mask) (f : Nat → Nat → β) : ((threadsOf w m).zipIdx).map (fun e => f e.1 e.2) =
    (threadsOf w m).map (fun t => f t ((threadsOf w m).filter (fun u => decide (u < t))).length) := by
  rw [List.map_congr_left (g := fun e => f e.1 ((threadsOf w m).filter (fun u => decide (u < e.1))).length)
    fun e he => by rw [snd_of_mem_zipIdx_threadsOf he]]
  conv_rhs => rw [← List.zipIdx_map_fst 0 (threadsOf w m)]
  rw [List.map_map, List.zipIdx_map_fst]
  rfl

theorem getLsbD_foldr_or {n : Nat} (l : List (BitVec n)) (j : Nat) :
    (l.foldr (fun a b => a ||| b) 0).getLsbD j = l.any (fun a => a.getLsbD j) := by
  induction l with
  | nil => simp
  | cons a l ih => rw [List.foldr_cons, BitVec.getLsbD_or, ih, List.any_cons]

/-! ### One iteration -/

/-- What a thread computes in an iteration, with its draws. -/
def drawnValue (p : Party) (m : Mods) (draws : Nat) (f : Nat → FpFn) (t : Nat) : Word × FpFlags :=
  f t (p.mode m) p.ftz (draw (genAt p p m draws t))

/-- The flags that the threads of an iteration raise. -/
def drawnFlags (p : Party) (m : Mods) (draws : Nat) (f : Nat → FpFn) : FpFlags :=
  ((sel p m).map (fun t => (drawnValue p m draws f t).2)).foldr (fun a b => a ||| b) 0

/-- An iteration is one of the vector function that gives each thread its value, with the flags and the generator. -/
theorem fpStep_eq (p : Party) (m : Mods) (n k draws : Nat) (f : Party → Nat → Nat → FpFn) : p.fpStep m n k draws f =
    { (p.vecStep m n k (fun _ t _ => (drawnValue p m draws (fun t => f p t k) t).1)).orFlags (drawnFlags p m draws (fun t => f p t k)) with
      gen := threadGen (p.mode m) draws p.gen (sel p m).length } := by
  have hgen : ∀ t, threadGen (p.mode m) draws p.gen ((threadsOf p.width (p.selected m)).filter (fun u => decide (u < t))).length =
      genAt p p m draws t := fun _ => rfl
  have hthreads := fpThreads_eq (p.mode m) p.ftz draws (fun t => f p t k) (threadsOf p.width (p.selected m)) p.gen 0
  rw [map_zipIdx_threadsOf _ _ (fun t i => (t, (f p t k (p.mode m) p.ftz (draw (threadGen (p.mode m) draws p.gen i))).1)),
    map_zipIdx_threadsOf _ _ (fun t i => (f p t k (p.mode m) p.ftz (draw (threadGen (p.mode m) draws p.gen i))).2), Nat.zero_add] at hthreads
  have hzero : threadGen (p.mode m) draws p.gen 0 = p.gen := by simp [threadGen, advance]
  simp only [hgen, hzero] at hthreads
  simp only [Party.fpStep, hthreads]
  rfl

theorem sameButResults_fpStep (p : Party) (m : Mods) (n k draws : Nat) (f : Party → Nat → Nat → FpFn) :
    SameButResults p (p.fpStep m n k draws f) := by
  rw [fpStep_eq, vecStep_eq]
  exact ⟨_, _, _, rfl⟩

theorem getLsbD_orFlags (x : Party) (fl : FpFlags) (j : Nat) :
    (x.orFlags fl).csr.fpsum.getLsbD j = (x.csr.fpsum.getLsbD j || fl.getLsbD j) := by
  have hwide : (fl.setWidth 32).getLsbD j = fl.getLsbD j := by
    rw [BitVec.getLsbD_setWidth]
    by_cases hj : j < 32
    · simp [hj]
    · simp [BitVec.getLsbD_of_ge fl j (by omega)]
  rw [← hwide]
  exact BitVec.getLsbD_or

theorem any_sel_iff {x : Party} {m : Mods} (q : Nat → Bool) : (sel x m).any q = true ↔ ∃ t, Runs x m t ∧ q t = true := by
  simp only [List.any_eq_true, sel, mem_threadsOf]
  rfl

theorem SameButResults.genAt {x y : Party} (h : SameButResults x y) (m : Mods) (draws t : Nat) : genAt y y m draws t = Says.genAt x y m draws t := by
  simp only [Says.genAt, rank, h.mode, h.width, h.selected]

open Classical in
/-- One iteration of a floating-point word, on a party that differs in results alone from the one that issues. -/
theorem fpStep_spec {x y : Party} {m : Mods} {n k draws : Nat} (hxy : SameButResults x y) (f : Party → Nat → Nat → FpFn)
    (hr : x.selected m ||| x.zeroed m ≠ 0 → x.base + n + k < 1024) :
    FpStep x m (x.base + n + k) draws (fun t us => f y t k (x.mode m) x.ftz us) y (y.fpStep m n k draws f) := by
  have hval : ∀ t, drawnValue y m draws (fun t => f y t k) t = f y t k (x.mode m) x.ftz (draw (genAt x y m draws t)) := fun t => by
    rw [drawnValue, hxy.genAt, hxy.mode, hxy.ftz]
  obtain ⟨hv, heq⟩ := vecStep_spec hxy (fun _ t _ => (drawnValue y m draws (fun t => f y t k) t).1) hr
  rw [fpStep_eq]
  refine ⟨fun t r' hr' => ?_, fun j => ?_, ?_, ?_⟩
  · refine (hv t r' hr').trans ?_
    simp only [hval]
  · have hany : (drawnFlags y m draws (fun t => f y t k)).getLsbD j =
        decide (∃ t, Runs x m t ∧ (f y t k (x.mode m) x.ftz (draw (genAt x y m draws t))).2.getLsbD j = true) := by
      rw [Bool.eq_iff_iff, decide_eq_true_eq, drawnFlags, getLsbD_foldr_or, List.any_map, hxy.sel, any_sel_iff]
      simp only [Function.comp_apply, hval]
    rw [← hany]
    refine (getLsbD_orFlags _ _ _).trans ?_
    rw [heq]
  · simp only [threadGen, hxy.mode, hxy.sel]
    rfl
  · rw [heq]
    rfl

/-! ### A word of class 1 -/

/-- A floating-point word whose shadow check finds nothing leaves the row's result. -/
theorem fpOp_completes (w : FpRow) (checked : Bool) (hlen : ∀ e ∈ w.regs, 0 < e.2) {s : State} {p : Nat} {x : Party} (hi : Issuing s p x)
    (hup : ∀ e, s.upset ≠ .shadow e) (hw : Within x w.m ((w.d, 1) :: w.regs)) :
    ∃ z, w.Result x z ∧ s.fpOp w.m w.d w.regs w.draws checked w.val = .next (s.setParty p z) := by
  obtain ⟨m, d, regs, draws, f⟩ := w
  have hquiet : s.shadowUpset = none := by
    unfold State.shadowUpset
    split
    · next e he => exact absurd he (hup e)
    · rfl
  unfold State.fpOp
  rw [issue_next hi.1 hi.2]
  cases d with
  | s n =>
    simp only [hquiet, ite_self, beq_iff_eq]
    exact ⟨_, ⟨_, uniStep_setU x n.val _, by simp only [Party.orFlags, Party.setU]; split <;> rfl⟩, rfl⟩
  | v n =>
    simp only [hquiet, ite_self]
    rw [alloc_within hw (List.forall_mem_cons.2 ⟨Nat.one_pos, hlen⟩),
      eq_iterates (run := fun q k r => q.fpIter m n.val draws f k r) (fun _ _ => rfl) (fun _ _ _ => rfl)]
    exact ⟨_, ⟨iterates (fun k q => q.fpStep m n.val k draws f) x, rfl, rfl, fun k hk =>
      fpStep_spec (sameButResults_iterates (fun k q => sameButResults_fpStep q m n.val k draws f) x k) f
        fun ht => dest_lt_of_within hw ht hk⟩, rfl⟩

/-- The signed value of a word. -/
theorem toInt_ofNat_toNat (v : Word) : (BitVec.ofNat 32 v.toNat).toInt = sxInt 32 v.toNat := by
  rw [BitVec.ofNat_toNat, BitVec.setWidth_eq, BitVec.toInt_eq_toNat_cond, sxInt]
  have := v.isLt
  simp only [Nat.mod_eq_of_lt this]
  split <;> split <;> omega

/-- The upper half of a word. -/
theorem part_one_toNat (v : Word) : part 16 1 v.toNat = v.toNat / 2 ^ 16 := by
  have := v.isLt
  rw [part, Nat.mod_eq_of_lt (by omega)]

/-- Every function of class 1 and every conversion computes its row. -/
theorem floatRow_exec {i : Instr} {w : FpRow} (h : FloatRow i w) (s : State) :
    ∃ checked, exec i s = s.fpOp w.m w.d w.regs w.draws checked w.val := by
  cases h with
  | fscale m d a b =>
    refine ⟨true, ?_⟩
    simp only [fp2Row, BitVec.ofNat_toNat, BitVec.setWidth_eq]
    rfl
  | cvtFI m d a =>
    refine ⟨true, ?_⟩
    simp only [fp1Row, ← toInt_ofNat_toNat]
    rfl
  | cvtFBfh m d a =>
    refine ⟨true, ?_⟩
    simp only [fp1Row, part_one_toNat]
    rfl
  | cvtFHfh m d a =>
    refine ⟨true, ?_⟩
    simp only [fp1Row, part_one_toNat]
    rfl
  | cvtFBfl | cvtFHfl | cvtFE4 | cvtFE5 =>
    refine ⟨true, ?_⟩
    simp only [fp1Row, part, Nat.mul_zero, pow_zero, Nat.div_one]
    rfl
  | fclass | cvtIF | cvtNF => exact ⟨false, rfl⟩
  | _ => exact ⟨true, rfl⟩

/-- Every register that a row names is a run of at least one. -/
theorem floatRow_length_pos {i : Instr} {w : FpRow} (h : FloatRow i w) : ∀ e ∈ w.regs, 0 < e.2 := by
  cases h
  case fabs | fneg | frnd | fclass | cvtFI | cvtFN | cvtIF | cvtNF | cvtFBfl | cvtFBfh | cvtFHfl | cvtFHfh | cvtE4 | cvtE5 | cvtFE4 | cvtFE5 =>
    exact List.forall_mem_singleton.2 Nat.one_pos
  all_goals exact length_pos_operands Nat.one_pos Nat.one_pos

/-- Settles O3: every function runs its row's operation over the threads and iterations, with flags and draws. -/
theorem floatResults : Obligations.FloatResults := by
  intro i w hrow s p x hi hup hw
  obtain ⟨checked, hexec⟩ := floatRow_exec hrow s
  rw [hexec]
  exact fpOp_completes w checked (floatRow_length_pos hrow) hi hup hw

end Sys2Proof.Proofs
end

section
/-! PROOFS. Words with a mask destination (R81, R106, R121, R141), permutations, broadcasts and ballots (R139 to R142): O4, O7, O8. -/

namespace Sys2Proof.Proofs

open Sys2Proof Sys2Proof.Machine Sys2Proof.Says

/-! ### Bits of a mask destination -/

theorem bitOf_not {t : Nat} (ht : t < 64) (m : Mask) : bitOf (~~~ m) t = !bitOf m t := by
  simp [bitOf, ht]

/-- Bits cleared by a mask. -/
theorem bitOf_and_not (a b : Mask) (t : Nat) : bitOf (a &&& ~~~ b) t = (bitOf a t && !bitOf b t) := by
  by_cases ht : t < 64
  · rw [bitOf_and, bitOf_not ht]
  · simp [bitOf, BitVec.getLsbD_of_ge _ t (Nat.le_of_not_lt ht)]

theorem bitOf_setBit {t : Nat} (ht : t < 64) (m : Mask) (b : Bool) (u : Nat) : bitOf (setBit m t b) u = if u = t then b else bitOf m u := by
  cases b
  · rw [setBit, if_neg Bool.false_ne_true, bitOf_and_not, bitOf_bitMask ht]
    by_cases hu : u = t <;> simp [hu]
  · rw [setBit, if_pos rfl, bitOf_or, bitOf_bitMask ht]
    by_cases hu : u = t <;> simp [hu]

/-- The threads of a list take their bits; every other bit stands. -/
theorem bitOf_foldl_setBit_val {ts : List Nat} (hts : ∀ t ∈ ts, t < 64) (q : Nat → Bool) (m : Mask) (u : Nat) :
    bitOf (ts.foldl (fun b t => setBit b t (q t)) m) u = if u ∈ ts then q u else bitOf m u := by
  induction ts generalizing m with
  | nil => simp
  | cons t ts ih =>
    obtain ⟨ht, hts⟩ := List.forall_mem_cons.1 hts
    rw [List.foldl_cons, ih hts, bitOf_setBit ht]
    by_cases hu : u = t
    · subst hu; simp
    · simp [hu]

@[simp] theorem maskNow_setM (p : Party) (k j : Nat) (m : Mask) : (p.setM k m).maskNow j = if j = k then m else p.maskNow j := sget_sset _ _ _ _ _

/-- A thread that executes a word is not one whose destination it clears. -/
theorem zeroed_of_runs {x : Party} {m : Mods} {t : Nat} (h : Runs x m t) : bitOf (x.zeroed m) t = false := by
  obtain ⟨-, ht⟩ := h
  unfold Party.zeroed
  split
  · exact BitVec.getLsbD_zero
  · split
    · rw [bitOf_and_not, ht, Bool.not_true, Bool.and_false]
    · exact BitVec.getLsbD_zero

open Classical in
/-- The threads that execute take their bits, and the zero policy clears the bits of others. -/
theorem bitOf_maskBits (x : Party) (m : Mods) (q : Nat → Bool) (old : Mask) (t : Nat) :
    bitOf ((threadsOf x.width (x.selected m)).foldl (fun b t => setBit b t (q t)) old &&& ~~~ x.zeroed m) t =
      if Runs x m t then q t else if bitOf (x.zeroed m) t then false else bitOf old t := by
  rw [bitOf_and_not, bitOf_foldl_setBit_val (fun _ => lt_of_mem_threadsOf)]
  by_cases hr : Runs x m t
  · rw [if_pos (mem_threadsOf.2 hr), if_pos hr, zeroed_of_runs hr, Bool.not_false, Bool.and_true]
  · rw [if_neg (fun h => hr (mem_threadsOf.1 h)), if_neg hr]
    cases bitOf (x.zeroed m) t <;> simp

theorem maskStep_spec (x : Party) (m : Mods) (d : Nat) (f : Party → Nat → Nat → Bool) :
    MaskStep m d (fun t => f x t 0) x (x.maskStep m d 0 f) :=
  ⟨fun t => by rw [Party.maskStep, maskNow_setM, if_pos rfl, bitOf_maskBits],
    fun k hk => by rw [Party.maskStep, maskNow_setM, if_neg hk], rfl⟩

/-- A word with a mask destination that does not repeat writes one bit a thread. -/
theorem maskOp_completes {s : State} {p : Nat} {x : Party} (hi : Issuing s p x) {m : Mods} (d : MaskReg) {regs : List (Reg × Nat)}
    (hlen : ∀ e ∈ regs, 0 < e.2) (hw : Within x m regs) (hreps : repsOf m = 1) (f : Party → Nat → Nat → Bool) :
    ∃ z, MaskStep m d.val (fun t => f x t 0) x z ∧ s.maskOp m d regs f = .next (s.setParty p z) :=
  ⟨_, maskStep_spec x m d.val f, by rw [maskOp_next hi.1 hi.2 m d regs f (passes_of_within hw hlen), hreps]; rfl⟩

/-! ### Compares (R106) -/

/-- The outcome of a word of a row: one bit a thread. -/
def runBits (w : BitRow) (s : State) : Host.Outcome State Fault Refusal := s.maskOp w.m w.d w.regs (fun p t _ => w.val p t)

/-- A compare that does not repeat computes its row: it reads its operands in iteration 0 alone. -/
theorem cmp2_completes {s : State} {p : Nat} {x : Party} (hi : Issuing s p x) {m : Mods} (d : MaskReg) (a : Reg) (b : Src)
    (hw : Within x m ((a, 1) :: srcRun b 1)) (hreps : repsOf m = 1) {f g : Word → Word → Bool} (hfg : ∀ a b, f a b = g a b) :
    ∃ z, MaskStep m d.val ((cmpRow m d a b g).val x) x z ∧ s.cmp2 m d a b f = .next (s.setParty p z) := by
  rw [← show f = g from funext₂ hfg]
  exact maskOp_completes hi d (length_pos_operands Nat.one_pos Nat.one_pos) hw hreps (fun p t k => f (p.reg32 t k a) (p.src32 t k b))

theorem integerCompareResults : Says.IntegerCompareResults := by
  intro i w hrow s p x hi hw hreps
  cases hrow with
  | cmpEq m d a b => exact cmp2_completes hi d a b hw hreps fun a b => rfl
  | cmpNe m d a b => exact cmp2_completes hi d a b hw hreps fun a b => by rw [bne, decide_not]; rfl
  | cmpLtI m d a b => exact cmp2_completes hi d a b hw hreps fun a b => rfl
  | cmpLeI m d a b => exact cmp2_completes hi d a b hw hreps fun a b => rfl
  | cmpLtN m d a b => exact cmp2_completes hi d a b hw hreps fun a b => rfl
  | cmpLeN m d a b => exact cmp2_completes hi d a b hw hreps fun a b => rfl
  | cmpiEq m d a b => exact cmp2_completes hi d a (.lit (imm7 b)) hw hreps fun a b => rfl
  | cmpiLtI m d a b => exact cmp2_completes hi d a (.lit (imm7 b)) hw hreps fun a b => rfl
  | cmpiLtN m d a b => exact cmp2_completes hi d a (.lit (imm7 b)) hw hreps fun a b => rfl

/-! ### Floating-point compares (R121) -/

/-- `y` is `x` but for mask registers and the sticky flags: all that the iterations of a compare change. -/
def SameButMasks (x y : Party) : Prop :=
  ∃ m fpsum, y = { x with regs := { x.regs with m := m }, csr := { x.csr with fpsum := fpsum } }

theorem sameButMasks_fcmpStep (p : Party) (sel zer : Mask) (d k : Nat) (f : Party → Nat → Nat → Bool → Bool × FpFlags) :
    SameButMasks p (p.fcmpStep sel zer d k f) := ⟨_, _, rfl⟩

section
variable {x y : Party} (h : SameButMasks x y)
include h

theorem SameButMasks.width : y.width = x.width := by obtain ⟨_, _, rfl⟩ := h; rfl

theorem SameButMasks.ftz : y.ftz = x.ftz := by
  obtain ⟨_, _, rfl⟩ := h
  cases hl : x.latch <;> simp [Party.ftz, Party.ctlRegs, hl]

theorem SameButMasks.reg32 (t k : Nat) (r : Reg) : y.reg32 t k r = x.reg32 t k r := by
  obtain ⟨_, _, rfl⟩ := h
  cases r <;> cases hl : x.latch <;> simp [Party.reg32, Party.vphys, Party.uni, Party.src, Party.base, hl]

theorem SameButMasks.src32 (t k : Nat) (b : Src) : y.src32 t k b = x.src32 t k b := by
  cases b with
  | reg r => exact h.reg32 t k r
  | lit w => rfl

end

theorem SameButMasks.trans {x y z : Party} (hxy : SameButMasks x y) (hyz : SameButMasks y z) : SameButMasks x z := by
  obtain ⟨_, _, rfl⟩ := hxy
  obtain ⟨_, _, rfl⟩ := hyz
  exact ⟨_, _, rfl⟩

/-- A signalling NaN is a NaN (R50). -/
theorem isNan_of_signalling {f : Fmt} {ftz : Bool} {bits : Nat} (h : (f.source ftz bits).2 = true) : (f.source ftz bits).1.isNan = true := by
  unfold Fmt.source at h ⊢
  split
  · next hs => simp [hs] at h
  · next hs =>
    simp only [hs] at h
    unfold Fmt.read at h ⊢
    dsimp only at h ⊢
    split_ifs at h ⊢ <;> simp_all [Val.isNan]

/-- What a compare says of two words, and whether it is invalid. -/
def compared (f : Val × Bool → Val × Bool → Bool × Bool) (ftz : Bool) (a b : Word) : Bool × Bool :=
  f (fp32.source ftz a.toNat) (fp32.source ftz b.toNat)

/-- A model compare gives the bit and raises the invalid flag alone. -/
def Compares (g : Bool → Nat → Nat → Bool × FpFlags) (f : Val × Bool → Val × Bool → Bool × Bool) : Prop :=
  ∀ ftz (a b : Word), (g ftz a.toNat b.toNat).1 = (compared f ftz a b).1 ∧
    ∀ j, (g ftz a.toNat b.toNat).2.getLsbD j = (j == 0 && (compared f ftz a b).2)

theorem getLsbD_invalid (j : Nat) : fInvalid.getLsbD j = (j == 0) := by
  cases j with
  | zero => rfl
  | succ j => simp [fInvalid]

/-- The flags of a compare: invalid for a signalling NaN, and for any NaN where the function says so. -/
theorem getLsbD_fcmpF (un any : Bool) (rel : Int → Bool) (ftz : Bool) (a b j : Nat) : (fcmpF un any rel ftz a b).2.getLsbD j =
    (j == 0 && ((any && ((fp32.source ftz a).1.isNan || (fp32.source ftz b).1.isNan)) || ((fp32.source ftz a).2 || (fp32.source ftz b).2))) := by
  have hwhen : ∀ c : Bool, (fWhen c fInvalid).getLsbD j = (j == 0 && c) := fun c => by
    cases c
    · simp [fWhen]
    · simp [fWhen, getLsbD_invalid]
  simp only [fcmpF, snanFlags, BitVec.getLsbD_or, hwhen, List.any_cons, List.any_nil, Bool.or_false, Bool.and_or_distrib_left]

/-- With any NaN invalid, a signalling one adds nothing. -/
theorem any_nan_or_signalling (ftz : Bool) (a b : Nat) :
    ((fp32.source ftz a).1.isNan || (fp32.source ftz b).1.isNan || ((fp32.source ftz a).2 || (fp32.source ftz b).2)) =
      ((fp32.source ftz a).1.isNan || (fp32.source ftz b).1.isNan) := by
  have ha := isNan_of_signalling (f := fp32) (ftz := ftz) (bits := a)
  have hb := isNan_of_signalling (f := fp32) (ftz := ftz) (bits := b)
  cases hsa : (fp32.source ftz a).2 <;> cases hsb : (fp32.source ftz b).2 <;> simp_all

/-- An ordered compare of two values that are not NaN. -/
theorem fcmpF_ordered (any : Bool) (rel : Int → Bool) (ftz : Bool) (a b : Nat) : (fcmpF false any rel ftz a b).1 =
    (!(fp32.source ftz a).1.isNan && !(fp32.source ftz b).1.isNan && rel (cmpV (fp32.source ftz a).1 (fp32.source ftz b).1)) := by
  cases hna : (fp32.source ftz a).1.isNan <;> cases hnb : (fp32.source ftz b).1.isNan <;> simp [fcmpF, hna, hnb]

/-- Every floating-point compare runs its function over the threads and iterations. -/
theorem floatCompare_exec {i : Instr} {m : Mods} {d : MaskReg} {a : Reg} {b : Src} {f : Val × Bool → Val × Bool → Bool × Bool}
    (h : FloatCompare i m d a b f) (s : State) : ∃ g, Compares g f ∧
      exec i s = s.fcmpOp m d ((a, 1) :: srcRun b 1) (fun p t k ftz => g ftz (p.reg32 t k a).toNat (p.src32 t k b).toNat) := by
  cases h with
  | eq m d a b =>
    exact ⟨fcmpF false false (fun c => c == 0), fun ftz a b => ⟨fcmpF_ordered _ _ _ _ _, fun j => by rw [getLsbD_fcmpF]; rfl⟩, rfl⟩
  | lt m d a b =>
    exact ⟨fcmpF false true (fun c => decide (c < 0)), fun ftz a b => ⟨fcmpF_ordered _ _ _ _ _, fun j => by
      rw [getLsbD_fcmpF, Bool.true_and, any_nan_or_signalling]; rfl⟩, rfl⟩
  | le m d a b =>
    exact ⟨fcmpF false true (fun c => decide (c ≤ 0)), fun ftz a b => ⟨fcmpF_ordered _ _ _ _ _, fun j => by
      rw [getLsbD_fcmpF, Bool.true_and, any_nan_or_signalling]; rfl⟩, rfl⟩
  | un m d a b =>
    refine ⟨fcmpF true false (fun _ => true), fun ftz a b => ⟨?_, fun j => by rw [getLsbD_fcmpF]; rfl⟩, rfl⟩
    cases hnan : (fp32.source ftz a.toNat).1.isNan || (fp32.source ftz b.toNat).1.isNan <;> simp [fcmpF, compared, hnan]

theorem getLsbD_foldl_or {ι : Type} (q : ι → FpFlags) (ts : List ι) (fl : FpFlags) (j : Nat) :
    (ts.foldl (fun a t => a ||| q t) fl).getLsbD j = (fl.getLsbD j || ts.any (fun t => (q t).getLsbD j)) := by
  induction ts generalizing fl with
  | nil => simp
  | cons t ts ih => rw [List.foldl_cons, ih, BitVec.getLsbD_or, List.any_cons, Bool.or_assoc]

open Classical in
/-- A compare after `r` iterations: the bits of the last one, the invalid flags of all (R121). -/
def ComparedTo (m : Mods) (d : Nat) (bit invalid : Nat → Nat → Bool) (x : Party) (r : Nat) (z : Party) : Prop :=
  SameButMasks x z ∧ (∀ k, k ≠ d → z.maskNow k = x.maskNow k) ∧
  (∀ t, bitOf (z.maskNow d) t = if r = 0 then bitOf (x.maskNow d) t
    else if Runs x m t then bit t (r - 1) else if bitOf (x.zeroed m) t then false else bitOf (x.maskNow d) t) ∧
  ∀ j, z.csr.fpsum.getLsbD j = (x.csr.fpsum.getLsbD j || (j == 0 && (List.range r).any (fun k => (sel x m).any (fun t => invalid t k))))

/-- One more iteration. -/
theorem comparedTo_succ {m : Mods} {d r : Nat} {x z : Party} {bit invalid : Nat → Nat → Bool} (h : ComparedTo m d bit invalid x r z)
    {f : Party → Nat → Nat → Bool → Bool × FpFlags} (hbit : ∀ t k, (f z t k z.ftz).1 = bit t k)
    (hinvalid : ∀ t k j, (f z t k z.ftz).2.getLsbD j = (j == 0 && invalid t k)) :
    ComparedTo m d bit invalid x (r + 1) (z.fcmpStep (x.selected m) (x.zeroed m) d r f) := by
  obtain ⟨hsame, hothers, hbits, hflags⟩ := h
  refine ⟨hsame.trans (sameButMasks_fcmpStep z _ _ d r f), fun k hk => ?_, fun t => ?_, fun j => ?_⟩
  · rw [← hothers k hk]
    exact (maskNow_setM _ _ _ _).trans (if_neg hk)
  · refine (congrArg (fun w => bitOf w t) ((maskNow_setM _ _ _ _).trans (if_pos rfl))).trans ?_
    rw [hsame.width, bitOf_maskBits, hbit, if_neg (Nat.succ_ne_zero r), hbits]
    by_cases hr : Runs x m t
    · simp [hr]
    · cases hz : bitOf (x.zeroed m) t <;> simp [hr, hz]
  · refine (getLsbD_orFlags _ _ _).trans ?_
    rw [getLsbD_foldl_or, hsame.width]
    simp only [hinvalid]
    refine (congrArg₂ (· || ·) (hflags j) rfl).trans ?_
    have hzero : (0 : FpFlags).getLsbD j = false := BitVec.getLsbD_zero
    rw [List.range_succ, List.any_append, List.any_cons, List.any_nil, Bool.or_false, hzero, Bool.false_or, sel]
    cases hj : j == 0 <;> simp [Bool.or_assoc]

/-- A model compare of the operands of a word, for a thread in an iteration. -/
def cmpOperands (g : Bool → Nat → Nat → Bool × FpFlags) (a : Reg) (b : Src) (p : Party) (t k : Nat) (ftz : Bool) : Bool × FpFlags :=
  g ftz (p.reg32 t k a).toNat (p.src32 t k b).toNat

/-- The bit and the invalid flag of a thread in an iteration. -/
def cmpAt (f : Val × Bool → Val × Bool → Bool × Bool) (x : Party) (a : Reg) (b : Src) (t k : Nat) : Bool × Bool :=
  compared f x.ftz (x.reg32 t k a) (x.src32 t k b)

/-- The iterations of a compare write masks and flags, which none of them reads. -/
theorem comparedTo_iterates {g : Bool → Nat → Nat → Bool × FpFlags} {f : Val × Bool → Val × Bool → Bool × Bool} (hg : Compares g f)
    (m : Mods) (d : Nat) (a : Reg) (b : Src) (x : Party) (r : Nat) :
    ComparedTo m d (fun t k => (cmpAt f x a b t k).1) (fun t k => (cmpAt f x a b t k).2) x r
      (iterates (fun k q => q.fcmpStep (x.selected m) (x.zeroed m) d k (cmpOperands g a b)) x r) := by
  induction r with
  | zero => exact ⟨⟨_, _, rfl⟩, fun _ _ => rfl, fun _ => rfl, fun _ => by simp [iterates]⟩
  | succ r ih =>
    have hsame := ih.1
    refine comparedTo_succ (f := cmpOperands g a b) ih (fun t k => ?_) (fun t k j => ?_)
    · rw [cmpOperands, hsame.ftz, hsame.reg32, hsame.src32]
      exact (hg _ _ _).1
    · rw [cmpOperands, hsame.ftz, hsame.reg32, hsame.src32]
      exact (hg _ _ _).2 j

theorem floatCompareResults : Says.FloatCompareResults := by
  intro i m d a b f hrow s p x hi hw
  obtain ⟨g, hg, hexec⟩ := floatCompare_exec hrow s
  have hrun : exec i s = .next (s.setParty p
      (iterates (fun k q => q.fcmpStep (x.selected m) (x.zeroed m) d.val k (cmpOperands g a b)) x (repsOf m))) := by
    rw [hexec, State.fcmpOp, issue_next hi.1 hi.2, alloc_within hw (length_pos_operands Nat.one_pos Nat.one_pos),
      ← eq_iterates (run := fun q k r => q.fcmpIter (x.selected m) (x.zeroed m) d.val (cmpOperands g a b) k r) (fun _ _ => rfl)
        (fun _ _ _ => rfl)]
    rfl
  obtain ⟨⟨masks, fpsum, hz⟩, hothers, hbits, hflags⟩ := comparedTo_iterates hg m d.val a b x (repsOf m)
  rw [hz] at hrun hothers hbits hflags
  refine ⟨{ x with regs := { x.regs with m := masks } }, _, ⟨fun t => ?_, hothers, rfl⟩, rfl, hflags, hrun⟩
  exact (hbits t).trans (if_neg (repsOf_pos m).ne')

/-- Settles O4: an integer compare writes its row's bits, and a floating-point compare those of its last iteration, with the flags of all. -/
theorem compareResults : Obligations.CompareResults := ⟨integerCompareResults, floatCompareResults⟩

/-! ### Permutations, `expd` and `m2v` (R139, R141, R142) -/

/-- Every row of class 2 runs its value over the threads and iterations. -/
theorem crossRow_exec {i : Instr} {w : WordRow} (h : CrossRow i w) (s : State) : exec i s = runRow w s := by
  cases h <;> rfl

theorem crossRow_length_pos {i : Instr} {w : WordRow} (h : CrossRow i w) : ∀ e ∈ w.regs, 0 < e.2 := by
  cases h
  case m2v => exact List.forall_mem_nil _
  case expd => exact List.forall_mem_singleton.2 Nat.one_pos
  all_goals exact length_pos_operands Nat.one_pos Nat.one_pos

/-- Settles O7: every row of class 2 runs its value over the threads and iterations, as the integer rows do. -/
theorem crossThreadResults : Obligations.CrossThreadResults := by
  intro i w hrow s p x hi hw
  rw [crossRow_exec hrow]
  exact vecOp_completes w (crossRow_length_pos hrow) hi hw

/-! ### Broadcasts, ballots, votes and mask functions (R140, R141) -/

theorem bitOf_lowMask {w t : Nat} (ht : t < 64) : bitOf (lowMask w) t = decide (t < w) := by
  rw [bitOf, lowMask, BitVec.getLsbD_ofNat, Nat.testBit_two_pow_sub_one, decide_eq_true ht, Bool.true_and]

/-- The set of selected threads whose bit is set. -/
theorem maskOf_threadsOf (b : Mask) (w : Nat) (m : Mask) : Machine.maskOf b (threadsOf w m) = m &&& lowMask w &&& b := by
  have hfold : ∀ (ts : List Nat), (∀ t ∈ ts, t < 64) → ∀ (acc : Mask) u, bitOf (ts.foldl (fun w t => if bitOf b t then setBit w t true else w) acc) u =
      (bitOf acc u || (decide (u ∈ ts) && bitOf b u)) := by
    intro ts hts
    induction ts with
    | nil => simp
    | cons t ts ih =>
      obtain ⟨ht, hts⟩ := List.forall_mem_cons.1 hts
      intro acc u
      rw [List.foldl_cons, ih hts]
      by_cases hu : u = t
      · subst hu
        cases hb : bitOf b u <;> simp [hb, bitOf_setBit ht]
      · cases hb : bitOf b t <;> simp [hb, bitOf_setBit ht, hu]
  refine BitVec.eq_of_getLsbD_eq fun u hu => ?_
  refine (hfold _ (fun _ => lt_of_mem_threadsOf) 0 u).trans ?_
  change _ = bitOf (m &&& lowMask w &&& b) u
  rw [bitOf_and, bitOf_and, bitOf_lowMask hu, (eq_zero_iff_bitOf 0).1 rfl, Bool.false_or, Bool.eq_iff_iff]
  simp only [Bool.and_eq_true, decide_eq_true_eq, mem_threadsOf]
  tauto

theorem broadcastAndBallot : Says.BroadcastAndBallot := by
  refine ⟨fun s p x m n a b hi hw => ⟨_, uniStep_setU x n.val _, ?_⟩, fun s p x m d a hi hw _ => ?_⟩
  · rw [exec_bcast, execBcast, issue_next hi.1 hi.2, alloc_within hw (length_pos_operands Nat.one_pos Nat.one_pos)]
  · rw [exec_ballot, execBallot]
    simp only [maskOf_threadsOf]
    exact vecOp64_completes ⟨m, d, [], fun p _ => p.selected m &&& lowMask p.width &&& p.mask a⟩ (List.forall_mem_nil _) hi hw

/-- Every vote and mask function writes the bits of its row; only a repeat could tell an iteration from another. -/
theorem maskRow_exec {i : Instr} {w : BitRow} (h : MaskRow i w) (s : State) :
    ∃ f : Party → Nat → Nat → Bool, (∀ x t, f x t 0 = w.val x t) ∧ exec i s = s.maskOp w.m w.d w.regs f := by
  cases h with
  | voteAll m d a => exact ⟨_, fun x t => by rw [Bool.eq_iff_iff, List.all_eq_true, decide_eq_true_eq]; rfl, rfl⟩
  | voteAny m d a => exact ⟨_, fun x t => by rw [Bool.eq_iff_iff, List.any_eq_true, decide_eq_true_eq]; rfl, rfl⟩
  | mand m d a b => exact ⟨_, fun x t => bitOf_and _ _ _, rfl⟩
  | mor m d a b => exact ⟨_, fun x t => bitOf_or _ _ _, rfl⟩
  | mxor m d a b => exact ⟨_, fun x t => BitVec.getLsbD_xor, rfl⟩
  | mnot m d a => exact ⟨_, fun x t => BitVec.getLsbD_not, rfl⟩
  | v2m m d a => exact ⟨_, fun x t => (decide_not (p := x.reg32 t 0 a = 0)).symm, rfl⟩

theorem maskRow_length_pos {i : Instr} {w : BitRow} (h : MaskRow i w) : ∀ e ∈ w.regs, 0 < e.2 := by
  cases h
  case v2m => exact List.forall_mem_singleton.2 Nat.one_pos
  all_goals exact List.forall_mem_nil _

theorem maskFunctionResults : Says.MaskFunctionResults := by
  intro i w hrow s p x hi hw hreps
  obtain ⟨f, hf, hexec⟩ := maskRow_exec hrow s
  rw [hexec, ← funext (hf x)]
  exact maskOp_completes hi w.d (maskRow_length_pos hrow) hw hreps f

/-- Settles O8: `bcast` and `ballot` take their sets and values, and every vote and mask function the bits of its row. -/
theorem ballotsAndMaskFunctions : Obligations.BallotsAndMaskFunctions := ⟨broadcastAndBallot, maskFunctionResults⟩

end Sys2Proof.Proofs
end

section
/-! PROOFS. Exact arithmetic on finite values, rounded once (R57, R58, R118, R124): O5. -/

namespace Sys2Proof.Proofs

open Sys2Proof Sys2Proof.Machine Sys2Proof.Says

/-! ### Exact values -/

/-- A finite source has a denominator above 0 (R59, R60). -/
theorem source_den_pos {f : Fmt} {ftz : Bool} {bits : Nat} {s : Bool} {n d : Nat} (h : (f.source ftz bits).1 = .fin s n d) : 0 < d := by
  unfold Fmt.source at h
  split at h
  · cases h
    exact Nat.one_pos
  · unfold Fmt.read at h
    dsimp only at h
    split_ifs at h <;> cases h <;> exact Nat.two_pow_pos _

theorem commonDen_pos {d e : Nat} (hd : 0 < d) (he : 0 < e) : 0 < commonDen d e := by
  unfold commonDen
  split_ifs
  · exact he
  · exact hd
  · exact Nat.mul_pos hd he

theorem dvd_commonDen_left (d e : Nat) : d ∣ commonDen d e := by
  unfold commonDen
  split_ifs with h
  · exact Nat.dvd_of_mod_eq_zero h
  · exact Nat.dvd_refl d
  · exact Nat.dvd_mul_right d e

theorem dvd_commonDen_right (d e : Nat) : e ∣ commonDen d e := by
  unfold commonDen
  split_ifs with h h'
  · exact Nat.dvd_refl e
  · exact Nat.dvd_of_mod_eq_zero h'
  · exact Nat.dvd_mul_left e d

/-- A signed fraction over a multiple of its denominator. -/
theorem signedNum_div {d c : Nat} (hc : 0 < c) (hdvd : d ∣ c) (neg : Bool) (n : Nat) : (signedNum neg n d c : ℚ) / c = rat neg n d := by
  obtain ⟨m, rfl⟩ := hdvd
  have hd : 0 < d := Nat.pos_of_mul_pos_right hc
  have hm : 0 < m := Nat.pos_of_mul_pos_left hc
  have hmag : ((n * m : Nat) : ℚ) / (d * m : Nat) = n / d := by
    push_cast
    exact mul_div_mul_right _ _ (by exact_mod_cast hm.ne')
  rw [signedNum, Nat.mul_div_cancel_left m hd, rat]
  cases neg
  · simpa using hmag
  · simpa [neg_div] using hmag

/-- An integer over a denominator, by its sign and magnitude. -/
theorem rat_natAbs (s : Int) (c : Nat) : rat (decide (s < 0)) s.natAbs c = (s : ℚ) / c := by
  rw [rat]
  by_cases hs : s < 0
  · have habs : ((s.natAbs : Nat) : ℚ) = -s := by
      rw [Nat.cast_natAbs, abs_of_neg hs]
      push_cast
      rfl
    simp [hs, habs]
    ring
  · have habs : ((s.natAbs : Nat) : ℚ) = s := by
      rw [Nat.cast_natAbs, abs_of_nonneg (not_lt.1 hs)]
    simp [hs, habs]

/-- The sum of finite values is exact. -/
theorem addV_fin (mode : BitVec 3) (a b : Bool) (n k : Nat) {d e : Nat} (hd : 0 < d) (he : 0 < e) :
    ∃ s m c, 0 < c ∧ rat s m c = rat a n d + rat b k e ∧ (addV mode (.fin a n d) (.fin b k e)).1 = .fin s m c := by
  have hc := commonDen_pos hd he
  have hsum : ((signedNum a n d (commonDen d e) + signedNum b k e (commonDen d e) : Int) : ℚ) / commonDen d e = rat a n d + rat b k e := by
    rw [← signedNum_div hc (dvd_commonDen_left d e), ← signedNum_div hc (dvd_commonDen_right d e), Int.cast_add, add_div]
  by_cases hs : signedNum a n d (commonDen d e) + signedNum b k e (commonDen d e) = 0
  · refine ⟨if a == b then a else mode == 4, 0, 1, Nat.one_pos, ?_, by simp only [addV, hs, if_true]⟩
    rw [← hsum, hs]
    simp [rat]
  · exact ⟨_, _, _, hc, (rat_natAbs _ _).trans hsum, by simp only [addV, hs, if_false]⟩

theorem rat_not (a : Bool) (n d : Nat) : rat (!a) n d = -rat a n d := by cases a <;> simp [rat]

theorem rat_mul (a b : Bool) (n k d e : Nat) : rat (a != b) (n * k) (d * e) = rat a n d * rat b k e := by
  cases a <;> cases b <;> simp [rat, div_mul_div_comm]

theorem floatValues : Says.FloatValues := by
  intro f mode ftz u a b c sa sb sc na da nb db nc dc ha hb hc
  have hda := source_den_pos ha
  have hdb := source_den_pos hb
  refine ⟨?_, ?_, ?_, ?_⟩
  · obtain ⟨s, n, d, hd, hrat, hval⟩ := addV_fin mode sa sb na nb hda hdb
    exact ⟨s, n, d, hd, hrat, by rw [← hval, ← ha, ← hb]; rfl⟩
  · obtain ⟨s, n, d, hd, hrat, hval⟩ := addV_fin mode sa (!sb) na nb hda hdb
    exact ⟨s, n, d, hd, by rw [hrat, rat_not, sub_eq_add_neg], by rw [← hval, ← ha, ← show negV (.fin sb nb db) = .fin (!sb) nb db from rfl, ← hb]; rfl⟩
  · exact ⟨sa != sb, na * nb, da * db, Nat.mul_pos hda hdb, rat_mul _ _ _ _ _ _, by simp only [Fmt.mul, Fmt.out, ha, hb, mulV]⟩
  · obtain ⟨s, n, d, hd, hrat, hval⟩ := addV_fin mode (sa != sb) sc (na * nb) nc (Nat.mul_pos hda hdb) (source_den_pos hc)
    exact ⟨s, n, d, hd, by rw [hrat, rat_mul], by simp only [Fmt.fma, Fmt.out, ha, hb, hc, mulV, hval]⟩

/-! ### The rounding modes (R57, R58) -/

theorem roundInt_one (neg : Bool) (n d u : Nat) : roundInt 1 neg n d u =
    if d < 2 * (n % d) ∨ 2 * (n % d) = d ∧ n / d % 2 = 1 then n / d + 1 else n / d := by simp [roundInt]

theorem roundInt_two (neg : Bool) (n d u : Nat) : roundInt 2 neg n d u = n / d := rfl

theorem roundInt_three (neg : Bool) (n d u : Nat) : roundInt 3 neg n d u = if neg = false ∧ n % d ≠ 0 then n / d + 1 else n / d := by
  simp [roundInt]

theorem roundInt_four (neg : Bool) (n d u : Nat) : roundInt 4 neg n d u = if neg = true ∧ n % d ≠ 0 then n / d + 1 else n / d := by
  simp [roundInt]

theorem roundInt_five (neg : Bool) (n d u : Nat) : roundInt 5 neg n d u = if d ≤ 2 * (n % d) then n / d + 1 else n / d := by simp [roundInt]

theorem roundInt_six (neg : Bool) (n d u : Nat) : roundInt 6 neg n d u = if u < n % d * 2 ^ 16 / d then n / d + 1 else n / d := by
  simp [roundInt]

/-- The six modes by their codes (R57). -/
theorem mode_cases {mode : BitVec 3} (hlow : 1 ≤ mode.toNat) (hhigh : mode.toNat ≤ 6) :
    mode = 1 ∨ mode = 2 ∨ mode = 3 ∨ mode = 4 ∨ mode = 5 ∨ mode = 6 := by
  revert mode
  decide

theorem roundInt_next (mode : BitVec 3) (neg : Bool) (n d u : Nat) :
    roundInt mode neg n d u = n / d ∨ roundInt mode neg n d u = n / d + 1 :=
  (ite_eq_or_eq _ _ _).symm

/-- A magnitude that is an integer rounds to itself. -/
theorem roundInt_exact {mode : BitVec 3} (neg : Bool) {n d : Nat} (u : Nat) (hd : 0 < d) (hlow : 1 ≤ mode.toNat) (hhigh : mode.toNat ≤ 6)
    (hexact : n % d = 0) : roundInt mode neg n d u = n / d := by
  rcases mode_cases hlow hhigh with rfl | rfl | rfl | rfl | rfl | rfl
  · rw [roundInt_one, if_neg (by omega)]
  · exact roundInt_two _ _ _ _
  · rw [roundInt_three, if_neg (by omega)]
  · rw [roundInt_four, if_neg (by omega)]
  · rw [roundInt_five, if_neg (by omega)]
  · rw [roundInt_six, if_neg (by simp [hexact])]

theorem roundingModes : Says.RoundingModes := by
  intro mode neg n d u hd hlow hhigh
  have hn : n = n / d * d + n % d := (Nat.div_add_mod' n d).symm
  have hr := Nat.mod_lt n hd
  have hsucc : (n / d + 1) * d = n / d * d + d := Nat.succ_mul _ _
  refine ⟨roundInt_next _ _ _ _ _, roundInt_exact neg u hd hlow hhigh, ?_, ?_, ?_, ?_, ?_, ?_⟩
  · rintro rfl
    rw [roundInt_one, Nat.mul_assoc]
    split
    · rw [hsucc]
      omega
    · omega
  · rintro rfl
    rw [roundInt_two]
    omega
  · rintro rfl
    rw [roundInt_three]
    cases neg with
    | true =>
      rw [if_pos rfl, if_neg (by simp)]
      omega
    | false =>
      rw [if_neg Bool.false_ne_true]
      split
      · omega
      · next h =>
        have hzero : n % d = 0 := by simpa using h
        omega
  · rintro rfl
    rw [roundInt_four]
    cases neg with
    | true =>
      rw [if_pos rfl]
      split
      · omega
      · next h =>
        have hzero : n % d = 0 := by simpa using h
        omega
    | false =>
      rw [if_neg Bool.false_ne_true, if_neg (by simp)]
      omega
  · rintro rfl
    rw [roundInt_five, Nat.mul_assoc]
    split
    · rw [hsucc]
      omega
    · omega
  · rintro rfl
    rw [roundInt_six]
    split
    · next h => exact ⟨fun _ => h, fun _ => rfl⟩
    · next h => exact ⟨fun he => absurd he (Nat.succ_ne_self _).symm, fun hu => absurd hu h⟩

/-- Settles O5: the value that is written is the exact one, and each mode takes the integer that its code names. -/
theorem floatArithmeticRoundsOnce : Obligations.FloatArithmeticRoundsOnce := ⟨floatValues, roundingModes⟩

end Sys2Proof.Proofs
end

section
/-! PROOFS. Special functions: their issue and the arrival of their results (R116, R126, R130): O6. -/

namespace Sys2Proof.Proofs

open Sys2Proof Sys2Proof.Machine Sys2Proof.Says

/-! ### Issue -/

theorem sfuDraws_off (n : Nat) (g : Word) : (sfuDraws false n g).2 = g := by
  induction n with
  | zero => rfl
  | succ n ih => exact ih

/-- Clearing a list of registers of threads. -/
def zeroRegs (x : Party) (l : List (Nat × Nat)) : Party := l.foldl (fun x e => x.setV e.1 e.2 0) x

theorem zeroRegs_eq (l : List (Nat × Nat)) (x : Party) : zeroRegs x l = { x with regs := { x.regs with v := (zeroRegs x l).regs.v } } := by
  induction l generalizing x with
  | nil => rfl
  | cons e l ih => exact (ih (x.setV e.1 e.2 0)).trans rfl

theorem sameButResults_zeroRegs (x : Party) (l : List (Nat × Nat)) : SameButResults x (zeroRegs x l) :=
  ⟨_, _, _, zeroRegs_eq l x⟩

theorem vNow_zeroRegs {l : List (Nat × Nat)} (hl : ∀ e ∈ l, e.2 < 1024) (x : Party) {u r : Nat} (hr : r < 1024) :
    (zeroRegs x l).vNow u r = if (u, r) ∈ l then 0 else x.vNow u r := by
  induction l generalizing x with
  | nil => simp [zeroRegs]
  | cons e l ih =>
    obtain ⟨he, hl⟩ := List.forall_mem_cons.1 hl
    refine (ih hl (x.setV e.1 e.2 0)).trans ?_
    have hkey : 1024 * u + r = 1024 * e.1 + e.2 ↔ (u, r) = e := by
      rw [Prod.ext_iff]
      omega
    rw [vNow_setV]
    by_cases hin : (u, r) ∈ l
    · simp [hin]
    · simp [hin, hkey, List.mem_cons]

/-- The registers that the zero policy clears at issue, iteration by iteration. -/
def sfuZeroed (x : Party) (m : Mods) (n : Nat) : List (Nat × Nat) :=
  (List.range (repsOf m)).flatMap (fun k => (threadsOf x.width (x.zeroed m)).map (fun t => (t, x.base + n + k)))

theorem mem_sfuZeroed {x : Party} {m : Mods} {n u r : Nat} : (u, r) ∈ sfuZeroed x m n ↔
    bitOf (x.zeroed m) u = true ∧ u < x.width ∧ x.base + n ≤ r ∧ r < x.base + n + repsOf m := by
  simp only [sfuZeroed, List.mem_flatMap, List.mem_range, List.mem_map, mem_threadsOf, Prod.mk.injEq]
  constructor
  · rintro ⟨k, hk, t, ⟨hw, hb⟩, rfl, rfl⟩
    exact ⟨hb, hw, by omega, by omega⟩
  · rintro ⟨hb, hw, hlo, hhi⟩
    exact ⟨r - (x.base + n), by omega, u, ⟨hw, hb⟩, rfl, by omega⟩

/-- The registers that the zero policy clears lie within the party's allocation. -/
theorem sfuZeroed_lt {x : Party} {m : Mods} {n : Fin 96} {regs : List (Reg × Nat)} (hw : Within x m ((.v n, 1) :: regs)) :
    ∀ e ∈ sfuZeroed x m n.val, e.2 < 1024 := by
  rintro ⟨u, r⟩ he
  obtain ⟨hb, -, hlo, hhi⟩ := mem_sfuZeroed.1 he
  have htouch : x.selected m ||| x.zeroed m ≠ 0 := fun h0 => by
    rw [(BitVec.or_eq_zero_iff.1 h0).2] at hb
    simp [bitOf] at hb
  have := dest_lt_of_within hw htouch (k := r - (x.base + n.val)) (by omega)
  dsimp only
  omega

/-- The operation that a special function leaves. -/
def sfuOpOf (p : Nat) (m : Mods) (fn : Nat) (x : Party) (lanes : List (Nat × Dest × Word × Word)) : SfuOp :=
  ⟨p, x.here, x.pos.m0, fn, x.mode m, x.ftz, lanes, x.flagB,
    (sfuDraws ((fn == 2 || fn == 9) && x.mode m == SR) lanes.length x.gen).1⟩

/-- The party of a special function once it has left the lane. -/
def sfuIssuer (m : Mods) (fn : Nat) (x : Party) (lanes : List (Nat × Dest × Word × Word)) : Party :=
  { x.addFlag x.flagB with gen := (sfuDraws ((fn == 2 || fn == 9) && x.mode m == SR) lanes.length x.gen).2 }

/-- A special function leaves the lane: its operation is in flight and its party has set flag B. -/
def sfuLaunch (s : State) (p : Nat) (m : Mods) (fn : Nat) (x : Party) (lanes : List (Nat × Dest × Word × Word)) : State :=
  { s.setParty p (sfuIssuer m fn x lanes) with nextId := s.nextId + 1, sfus := sput s.sfus s.nextId (sfuOpOf p m fn x lanes) }

theorem sfuIssuer_gen {m : Mods} {x : Party} (h : x.mode m ≠ SR) (fn : Nat) (lanes : List (Nat × Dest × Word × Word)) :
    (sfuIssuer m fn x lanes).gen = x.gen := by
  simp only [sfuIssuer, beq_eq_false_iff_ne.2 h, Bool.and_false, sfuDraws_off]

theorem sfu_uniform {s : State} {p : Nat} {x : Party} (hi : Issuing s p x) (m : Mods) (fn : Nat) (n : Fin 31) (a : Reg) (b : Src) :
    s.sfu m fn (.s n) a b = .next (sfuLaunch s p m fn x (sfuLanes x m (.s n) a b)) := by
  unfold State.sfu
  rw [issue_next hi.1 hi.2]
  rfl

theorem sfu_vector {s : State} {p : Nat} {x : Party} (hi : Issuing s p x) {m : Mods} (fn : Nat) {n : Fin 96} {a : Reg} {b : Src}
    (hw : Within x m ((.v n, 1) :: (a, 1) :: srcRun b 1)) :
    s.sfu m fn (.v n) a b = .next (if (sfuLanes x m (.v n) a b).isEmpty then s.setParty p (zeroRegs x (sfuZeroed x m n.val))
      else sfuLaunch s p m fn (zeroRegs x (sfuZeroed x m n.val)) (sfuLanes x m (.v n) a b)) := by
  unfold State.sfu
  rw [issue_next hi.1 hi.2]
  dsimp only
  rw [alloc_within hw (List.forall_mem_cons.2 ⟨Nat.one_pos, length_pos_operands Nat.one_pos Nat.one_pos⟩)]
  rfl

theorem sfuOf_exec {i : Instr} {m : Mods} {fn : Nat} {d a : Reg} {b : Src} (h : SfuOf i m fn d a b) (s : State) :
    exec i s = s.sfu m fn d a b := by cases h <;> rfl

theorem specialFunctionIssue : Says.SpecialFunctionIssue := by
  intro i m fn d a b hrow s p x hi hw
  rw [sfuOf_exec hrow]
  cases d with
  | s n =>
    rw [sfu_uniform hi]
    refine ⟨sfuIssuer m fn x (sfuLanes x m (.s n) a b), _, sfuOpOf p m fn x (sfuLanes x m (.s n) a b), rfl, party?_setParty_same .., fun _ _ _ => rfl,
      fun h => by simp [sfuLanes] at h, fun _ => ⟨rfl, rfl, fun h => sfuIssuer_gen h .., rfl, rfl, rfl, rfl, rfl, rfl⟩⟩
  | v n =>
    have hz := fun u r (hr : r < 1024) => vNow_zeroRegs (sfuZeroed_lt hw) x (u := u) hr
    simp only [mem_sfuZeroed] at hz
    have heq := zeroRegs_eq (sfuZeroed x m n.val) x
    have hsame := sameButResults_zeroRegs x (sfuZeroed x m n.val)
    rw [sfu_vector hi fn hw]
    generalize zeroRegs x (sfuZeroed x m n.val) = z at *
    by_cases hl : sfuLanes x m (.v n) a b = []
    · simp only [hl, List.isEmpty_nil, if_true]
      exact ⟨z, _, sfuOpOf p m fn x [], rfl, party?_setParty_same .., hz, fun _ => ⟨rfl, heq⟩, fun h => absurd rfl h⟩
    · rw [if_neg (by simpa using hl)]
      have hflag : z.flagB = x.flagB := by rw [heq]; rfl
      refine ⟨sfuIssuer m fn z (sfuLanes x m (.v n) a b), _, sfuOpOf p m fn z (sfuLanes x m (.v n) a b), rfl, party?_setParty_same .., hz,
        fun h => absurd h hl, fun _ => ⟨rfl, by rw [heq]; rfl, fun h => ?_, rfl, rfl, hsame.mode m, hsame.ftz, hflag, rfl⟩⟩
      rw [sfuIssuer_gen (by rwa [hsame.mode]), heq]

/-! ### Arrival -/

/-- Result and flags of the `j`-th element of an operation. -/
def arrived (op : SfuOp) (ls : List (Nat × Dest × Word × Word)) (us : List Nat) (j : Nat) : Word × FpFlags :=
  sfuValue op.fn op.rm op.ftz (us.getD j 0) (ls.getD j (0, .none, 0, 0)).2.2.1 (ls.getD j (0, .none, 0, 0)).2.2.2

theorem arrived_succ (op : SfuOp) (l : Nat × Dest × Word × Word) (ls : List (Nat × Dest × Word × Word)) (us : List Nat) (j : Nat) :
    arrived op (l :: ls) us (j + 1) = arrived op ls us.tail j := by
  cases us <;> rfl

theorem sfuWrite_cons (p : Party) (op : SfuOp) (l : Nat × Dest × Word × Word) (ls : List (Nat × Dest × Word × Word)) (us : List Nat) :
    p.sfuWrite op (l :: ls) us =
      ((p.setDest l.1 l.2.1 (arrived op (l :: ls) us 0).1.toNat).orFlags (arrived op (l :: ls) us 0).2).sfuWrite op ls us.tail := by
  cases us <;> rfl

theorem setDest_vec_one (p : Party) (t r : Nat) (w : Word) : p.setDest t (.vec r 1) w.toNat = p.setV t r w := by
  simp [Party.setDest, Party.setRun]

theorem setDest_uni (p : Party) (t k : Nat) (w : Word) : p.setDest t (.uni k) w.toNat = p.setU k (w.setWidth 64) := by
  simp [Party.setDest, BitVec.ofNat_toNat]

theorem setDest_csr (p : Party) (t : Nat) (d : Dest) (v : Nat) : (p.setDest t d v).csr = p.csr := by
  cases d with
  | none => rfl
  | vec r n =>
    show (p.setRun t r v n).csr = p.csr
    induction n generalizing p r v with
    | zero => rfl
    | succ n ih => exact (ih ..).trans rfl
  | uni n => simp only [Party.setDest, Party.setU]; split <;> rfl
  | mask k => rfl

/-- The flags of the elements are ORed into `fpsum`, whatever their destinations. -/
theorem fpsum_sfuWrite (op : SfuOp) (ls : List (Nat × Dest × Word × Word)) (us : List Nat) (p : Party) (j : Nat) :
    (p.sfuWrite op ls us).csr.fpsum.getLsbD j =
      (p.csr.fpsum.getLsbD j || (List.range ls.length).any (fun i => (arrived op ls us i).2.getLsbD j)) := by
  induction ls generalizing us p with
  | nil => simp [Party.sfuWrite]
  | cons l ls ih =>
    rw [sfuWrite_cons, ih, getLsbD_orFlags, setDest_csr, List.length_cons, List.range_succ_eq_map, List.any_cons, List.any_map, Bool.or_assoc]
    simp only [Function.comp_def, arrived_succ]

/-- Results that go to single vector registers change vector registers and flags alone. -/
theorem sfuWrite_vec_eq (op : SfuOp) {ls : List (Nat × Dest × Word × Word)} (hls : ∀ e ∈ ls, ∃ r, e.2.1 = .vec r 1 ∧ r < 1024)
    (us : List Nat) (p : Party) : p.sfuWrite op ls us = { p with
      regs := { p.regs with v := (p.sfuWrite op ls us).regs.v }, csr := { p.csr with fpsum := (p.sfuWrite op ls us).csr.fpsum } } := by
  induction ls generalizing us p with
  | nil => rfl
  | cons l ls ih =>
    obtain ⟨⟨r, hr, -⟩, hls⟩ := List.forall_mem_cons.1 hls
    rw [sfuWrite_cons, hr, setDest_vec_one]
    exact (ih hls _ _).trans rfl

/-- A register that no element names stands. -/
theorem vNow_sfuWrite_other (op : SfuOp) {ls : List (Nat × Dest × Word × Word)} (hls : ∀ e ∈ ls, ∃ r, e.2.1 = .vec r 1 ∧ r < 1024)
    (us : List Nat) (p : Party) {t r : Nat} (hr : r < 1024) (hno : ∀ e ∈ ls, ¬ (e.1 = t ∧ e.2.1 = .vec r 1)) :
    (p.sfuWrite op ls us).vNow t r = p.vNow t r := by
  induction ls generalizing us p with
  | nil => rfl
  | cons l ls ih =>
    obtain ⟨⟨q, hq, hlt⟩, hls⟩ := List.forall_mem_cons.1 hls
    obtain ⟨hl, hno⟩ := List.forall_mem_cons.1 hno
    rw [sfuWrite_cons, ih hls _ _ hno, hq, setDest_vec_one]
    refine (vNow_setV ..).trans (if_neg fun h => hl ⟨by omega, ?_⟩)
    rw [hq, show q = r by omega]

/-- Every element's result stands in its register. -/
theorem vNow_sfuWrite (op : SfuOp) {ls : List (Nat × Dest × Word × Word)} (hls : ∀ e ∈ ls, ∃ r, e.2.1 = .vec r 1 ∧ r < 1024)
    (hnd : (ls.map (fun e => (e.1, e.2.1))).Nodup) (us : List Nat) (p : Party) {j t r : Nat} {a b : Word} (hj : j < ls.length)
    (he : ls.getD j (0, .none, 0, 0) = (t, .vec r 1, a, b)) : (p.sfuWrite op ls us).vNow t r = (arrived op ls us j).1 := by
  induction ls generalizing us p j with
  | nil => simp at hj
  | cons l ls ih =>
    obtain ⟨⟨q, hq, hlt⟩, hrest⟩ := List.forall_mem_cons.1 hls
    rw [List.map_cons, List.nodup_cons] at hnd
    obtain ⟨hnew, hnd⟩ := hnd
    rw [sfuWrite_cons]
    cases j with
    | zero =>
      obtain rfl : l = (t, .vec r 1, a, b) := he
      obtain rfl : r = q := by simpa using hq
      rw [vNow_sfuWrite_other op hrest _ _ hlt fun e hm h => hnew (List.mem_map.2 ⟨e, hm, Prod.ext h.1 h.2⟩)]
      dsimp only
      rw [setDest_vec_one]
      exact (vNow_setV ..).trans (if_pos rfl)
    | succ j =>
      rw [arrived_succ]
      exact ih hrest hnd _ _ (Nat.lt_of_succ_lt_succ hj) he

/-- The result of a uniform form arrives. -/
theorem sfuWrite_uni (op : SfuOp) (k : Nat) (a b : Word) (us : List Nat) (p : Party) : p.sfuWrite op [(0, .uni k, a, b)] us =
    (p.setU k ((arrived op [(0, .uni k, a, b)] us 0).1.setWidth 64)).orFlags (arrived op [(0, .uni k, a, b)] us 0).2 := by
  rw [sfuWrite_cons, setDest_uni]
  rfl

theorem specialFunctionArrival : Says.SpecialFunctionArrival := by
  intro s n op x hop hparty hquiet hlatch _ hdest
  have hexec : exec (.specialFunctionResult n) s = .next (({ s with sfus := sdrop s.sfus n } : State).setParty op.party
      ((x.sfuWrite op op.lanes op.stoch).doneFlag op.flag 1)).wake := by
    have hdep : x.deposit (fun x => x.sfuWrite op op.lanes op.stoch) = x.sfuWrite op op.lanes op.stoch := by
      simp only [Party.deposit, hlatch]
    show execSpecialFunctionResult n s = _
    cases hup : s.upset with
    | sfu b => exact absurd hup (hquiet b)
    | _ =>
      simp only [execSpecialFunctionResult, hop, hparty, hdep, hup]
      rfl
  refine ⟨_, hexec, ?_⟩
  have hflags := fpsum_sfuWrite op op.lanes op.stoch x
  rcases hdest with ⟨k, a, b, hl⟩ | ⟨hvec, hnd⟩
  · have hw := sfuWrite_uni op k a b op.stoch x
    obtain ⟨hu, heq⟩ := uniStep_setU x k ((arrived op [(0, .uni k, a, b)] op.stoch 0).1.setWidth 64)
    simp only [hl] at hflags ⊢
    refine ⟨?_, ?_, hflags, ?_, ?_⟩
    · rw [hw, heq]; rfl
    · rintro j hj t d a' b' he
      obtain rfl : j = 0 := by simpa using hj
      obtain ⟨rfl, rfl, rfl, rfl⟩ : 0 = t ∧ .uni k = d ∧ a = a' ∧ b = b' := by simpa using he
      refine ⟨by simp, fun i hi hne => ?_⟩
      obtain rfl : k = i := by simpa using hi
      rw [hw]
      exact (hu k).trans (if_pos ⟨rfl, hne⟩)
    · intro t r _ _
      rw [hw, heq]
      rfl
    · intro i hi
      rw [hw]
      exact (hu i).trans (if_neg fun h => hi _ (List.mem_singleton_self _) (by rw [h.1]))
  · have heq := sfuWrite_vec_eq op hvec op.stoch x
    refine ⟨?_, fun j hj t d a b he => ⟨?_, ?_⟩, hflags, fun t r hr hno => vNow_sfuWrite_other op hvec op.stoch x hr hno, fun k _ => ?_⟩
    · rw [heq]; rfl
    · rintro r rfl
      refine (vNow_sfuWrite op hvec hnd op.stoch x hj he).trans ?_
      rw [arrived, he]
    · rintro k rfl
      obtain ⟨r, hr, -⟩ := hvec _ (List.getD_eq_getElem op.lanes _ hj ▸ List.getElem_mem hj)
      rw [he] at hr
      simp at hr
    · rw [heq]
      rfl

/-- Settles O6: the issue reads and clears, and each result goes to its own register when it arrives. -/
theorem specialFunctions : Obligations.SpecialFunctions := ⟨specialFunctionIssue, specialFunctionArrival⟩

end Sys2Proof.Proofs
end

section
/-! PROOFS. Class 3 at the lane (R163 to R179): loads and stores O11, atomics O12, mailboxes O13, misaligned accesses O14. -/

namespace Sys2Proof.Proofs

open Sys2Proof Sys2Proof.Machine Sys2Proof.Says

/-! ### Requests leave (R272) -/

/-- A party once `n` requests have left for their homes. -/
def sentParty (x : Party) (flag : Option Nat) (n : Nat) : Party :=
  { x with
    ctl := .await
    waitReqs := x.waitReqs + n
    flags := match flag with
      | some k => sset 0 x.flags k (sget 0 x.flags k + n)
      | none => x.flags }

/-- A request that leaves. -/
def sentState (s : State) (p : Nat) (x : Party) (flag : Option Nat) (r : Req) : State :=
  { s with nextId := s.nextId + 1, reqs := sput s.reqs s.nextId r, parties := sput s.parties p (sentParty x flag 1) }

theorem sset_sset_pos (m : Sparse Nat) (k : Nat) {a b : Nat} (ha : a ≠ 0) (hb : b ≠ 0) : sset 0 (sset 0 m k a) k b = sset 0 m k b := by
  simp only [sset, if_neg ha, if_neg hb, sput_sput_same]

theorem sentParty_sentParty (x : Party) (flag : Option Nat) {n k : Nat} (hn : n ≠ 0) (hk : k ≠ 0) :
    sentParty (sentParty x flag n) flag k = sentParty x flag (n + k) := by
  cases flag with
  | none => simp only [sentParty, Nat.add_assoc]
  | some f =>
    simp only [sentParty, Nat.add_assoc, sget_sset_same]
    rw [sset_sset_pos _ _ (by omega) (by omega)]

theorem party?_sentState (s : State) (p : Nat) (x : Party) (flag : Option Nat) (r : Req) :
    (sentState s p x flag r).party? p = some (sentParty x flag 1) := sfind_sput_same _ p s.parties

theorem sends_nil (s : State) (p : Nat) (x : Party) (flag : Option Nat) : Sends s p x flag [] s :=
  ⟨fun _ => rfl, fun h => absurd rfl h⟩

/-- One more request before the others. -/
theorem sends_cons {s t : State} {p : Nat} {x : Party} {flag : Option Nat} {r : Req} {rs : List Req}
    (h : Sends (sentState s p x flag r) p (sentParty x flag 1) flag rs t) : Sends s p x flag (r :: rs) t := by
  obtain ⟨hnil, hcons⟩ := h
  refine ⟨fun h => absurd h (List.cons_ne_nil _ _), fun _ => ?_⟩
  by_cases hrs : rs = []
  · obtain rfl := hrs
    rw [hnil rfl]
    refine ⟨fun n => ?_, rfl⟩
    refine (sfind_sput r s.nextId n s.reqs).trans ?_
    by_cases hn : n = s.nextId
    · simp [hn]
    · rw [if_neg hn, if_neg (by simp; omega)]
  · obtain ⟨hreqs, heq⟩ := hcons hrs
    refine ⟨fun n => (hreqs n).trans ?_, heq.trans ?_⟩
    · rw [show (sentState s p x flag r).nextId = s.nextId + 1 from rfl, List.length_cons,
        show sfind (sentState s p x flag r).reqs n = if n = s.nextId then some r else sfind s.reqs n from sfind_sput r s.nextId n s.reqs]
      by_cases hn : n = s.nextId
      · simp [hn]
      · by_cases hlo : s.nextId + 1 ≤ n
        · obtain ⟨i, rfl⟩ := Nat.exists_eq_add_of_le hlo
          simp [show s.nextId + 1 + i - s.nextId = i + 1 by omega, show s.nextId + 1 + i - (s.nextId + 1) = i by omega,
            show s.nextId ≤ s.nextId + 1 + i by omega, show (s.nextId + 1 + i < s.nextId + 1 + rs.length) = (s.nextId + 1 + i < s.nextId + (rs.length + 1)) by
              rw [Nat.add_right_comm s.nextId 1 rs.length]; rfl, hn]
        · rw [if_neg (by omega), if_neg hn, if_neg (by omega)]
    · have hparty := sentParty_sentParty x flag Nat.one_ne_zero (List.length_pos_iff.2 hrs).ne'
      rw [Nat.add_comm 1] at hparty
      simp only [sentState, sput_sput_same, List.length_cons, Nat.add_assoc, Nat.add_comm 1]
      refine congrArg (fun y => { s with nextId := s.nextId + (rs.length + 1), reqs := t.reqs, parties := sput s.parties p y }) ?_
      exact hparty

theorem send_eq {s : State} {p : Nat} {x : Party} (hp : s.party? p = some x) (f : Send) (t : Nat) (uniform : Bool) (va : DWord)
    (pieces : List (Nat × Nat)) (win : Bool) (kind : ReqKind) (dest : Dest) :
    s.send p f t uniform va pieces win kind dest = sentState s p x f.flag {
      fe := x.fe, party := p, lane := x.lane, thread := t, uniform := uniform, owners := ownersOf x uniform t, va := va, pieces := pieces,
      kind := kind, dest := dest, flag := f.flag, win := win, rel := f.rel, acq := f.acq, pod := f.pod, held := true, phase := .sent,
      issued := s.now } := by
  rw [State.send, hp]
  cases hf : f.flag <;> rfl

/-- Threads with their addresses, each past the checks of R169. -/
def checkedList (w : MemRow) (x : Party) (ps : Nat → List (Nat × Nat)) (win remote : Nat → Bool) (ts : List Nat) : List (Nat × DWord × Checked) :=
  ts.map (fun t => (t, w.addr x t, .ok (ps t) (win t) (remote t)))

/-- The checked threads send their requests, from a state whose party issues in the same lane. -/
theorem sends_sendAll (w : MemRow) {s₀ : State} {p : Nat} {x : Party} (ps : Nat → List (Nat × Nat)) (win remote : Nat → Bool)
    (ts : List Nat) : ∀ {s : State} {y : Party}, s.party? p = some y → s.now = s₀.now → y.fe = x.fe → y.lane = x.lane →
    Sends s p y (w.flag x) (ts.map (w.request s₀ p x y ps win remote))
      (s.sendAll p ⟨w.flag x, w.rel, w.acq, w.pod⟩ w.uniform (w.kind x) (w.dest x) (checkedList w x ps win remote ts)) := by
  induction ts with
  | nil => exact fun _ _ _ _ => sends_nil ..
  | cons t ts ih =>
    intro s y hp hnow hfe hlane
    have hrest := ih (party?_sentState s p y (w.flag x) (w.request s₀ p x y ps win remote t)) hnow hfe hlane
    refine sends_cons ?_
    have hsend : s.send p ⟨w.flag x, w.rel, w.acq, w.pod⟩ t w.uniform (w.addr x t) (ps t) (win t) (w.kind x t (remote t)) (w.dest x) =
        sentState s p y (w.flag x) (w.request s₀ p x y ps win remote t) := by
      rw [send_eq hp, hfe, hlane, hnow]
      rfl
    rw [checkedList, List.map_cons, State.sendAll, hsend]
    exact hrest

/-! ### A word whose threads pass the checks -/

theorem served_eq (x : Party) (m : Mods) (uniform : Bool) : x.served m uniform = servedBy x m uniform := by
  unfold Party.served servedBy
  cases uniform with
  | false => rfl
  | true => cases threadsOf x.width x.pos.m0 <;> rfl

theorem failures_checkedList (w : MemRow) (x : Party) (ps : Nat → List (Nat × Nat)) (win remote : Nat → Bool) (ts : List Nat) :
    failures (checkedList w x ps win remote ts) = [] := by
  induction ts with
  | nil => rfl
  | cons t ts ih => exact ih

/-- A class-3 word within Rt whose threads pass the checks goes on with their pieces. -/
theorem access_passes (w : MemRow) {s : State} {p : Nat} {x : Party} {ps : Nat → List (Nat × Nat)} {win remote : Nat → Bool}
    (hi : Issuing s p x) (hlen : ∀ e ∈ w.regs, 0 < e.2) (hw : Within x (Mods.once w.m) w.regs) (hpass : w.Passes s x ps win remote)
    (go : Nat → Party → List (Nat × DWord × Checked) → State) :
    s.access w.m w.uniform w.regs w.acc w.addr go = .next (go p x (checkedList w x ps win remote (servedBy x w.m w.uniform))) := by
  have hcs : (servedBy x w.m w.uniform).map (fun t => (t, w.addr x t, s.check x w.acc (w.addr x t))) =
      checkedList w x ps win remote (servedBy x w.m w.uniform) := List.map_congr_left fun t ht => by rw [hpass t ht]
  rw [State.access, issue_next hi.1 hi.2, alloc_within hw hlen, served_eq, hcs]
  simp only [failures_checkedList, List.isEmpty_nil, if_true]

/-! ### Loads and stores (R165 to R167) -/

theorem setRun_zero_eq (x : Party) (t r n : Nat) : x.setRun t r 0 n = zeroRegs x ((List.range n).map (fun i => (t, r + i))) := by
  induction n generalizing x r with
  | zero => rfl
  | succ n ih =>
    rw [Party.setRun, Nat.zero_div, ih, List.range_succ_eq_map, List.map_cons, List.map_map]
    simp only [zeroRegs, Function.comp_def, List.foldl_cons, Nat.succ_eq_add_one, Nat.add_zero, Nat.add_assoc, Nat.add_comm 1]
    rfl

/-- The registers that the zero policy of a load clears. -/
def loadZeroed (x : Party) (m : Mods) (k n : Nat) : List (Nat × Nat) :=
  (threadsOf x.width (x.zeroed m)).flatMap (fun t => (List.range n).map (fun i => (t, x.base + k + i)))

theorem zeroRun_v (x : Party) (m : Mods) (k : Fin 96) (n : Nat) : x.zeroRun m (.v k) n = zeroRegs x (loadZeroed x m k.val n) := by
  simp only [Party.zeroRun, zeroRegs, loadZeroed, List.foldl_flatMap, setRun_zero_eq]

theorem mem_loadZeroed {x : Party} {m : Mods} {k n t r : Nat} : (t, r) ∈ loadZeroed x m k n ↔
    bitOf (x.zeroed m) t = true ∧ t < x.width ∧ x.base + k ≤ r ∧ r < x.base + k + n := by
  simp only [loadZeroed, List.mem_flatMap, List.mem_range, List.mem_map, mem_threadsOf, Prod.mk.injEq]
  constructor
  · rintro ⟨t, ⟨hw, hb⟩, i, hi, rfl, rfl⟩
    exact ⟨hb, hw, by omega, by omega⟩
  · rintro ⟨hb, hw, hlo, hhi⟩
    exact ⟨t, ⟨hw, hb⟩, r - (x.base + k), by omega, rfl, by omega⟩

theorem selected_once (x : Party) (m : Mods) : x.selected (Mods.once m) = x.selected m := by
  unfold Party.selected Mods.once
  cases m.pre <;> rfl

theorem zeroed_once (x : Party) (m : Mods) : x.zeroed (Mods.once m) = x.zeroed m := by
  unfold Party.zeroed
  simp only [selected_once]
  unfold Mods.once
  cases m.pre <;> rfl

/-- What the zero policy of a load leaves. -/
theorem zeroRun_spec {x : Party} {m : Mods} {d : Reg} {n : Nat} {regs : List (Reg × Nat)} (hw : Within x (Mods.once m) ((d, n) :: regs)) :
    ZeroRun x m d n (x.zeroRun m d n) := by
  cases d with
  | s k => exact ⟨fun _ _ _ => rfl, rfl⟩
  | v k =>
    have hlt : ∀ e ∈ loadZeroed x m k.val n, e.2 < 1024 := by
      rintro ⟨t, r⟩ he
      obtain ⟨hb, -, hlo, hhi⟩ := mem_loadZeroed.1 he
      have htouch : x.selected (Mods.once m) ||| x.zeroed (Mods.once m) ≠ 0 := fun h0 => by
        rw [← zeroed_once, (BitVec.or_eq_zero_iff.1 h0).2] at hb
        simp [bitOf] at hb
      have := hw.resolve_left htouch k n List.mem_cons_self (r - (x.base + k.val)) (by omega) 0 (repsOf_pos _)
      dsimp only
      omega
    rw [zeroRun_v]
    refine ⟨fun t r hr => ?_, zeroRegs_eq _ x⟩
    rw [vNow_zeroRegs hlt x hr]
    simp only [mem_loadZeroed]

/-- A load sends its row's requests, once the zero policy has cleared. -/
theorem load_leaves (m : Mods) (d a : Reg) (b : Off) (size : Nat) (aligned : Bool) (kind : Bool → ReqKind)
    (hsize : regsOf size = max 1 (size / 4)) {s : State} {p : Nat} {x : Party} {ps : Nat → List (Nat × Nat)} {win remote : Nat → Bool}
    (hi : Issuing s p x) (hw : Within x (Mods.once m) (loadRow m d a b size aligned kind).regs)
    (hpass : (loadRow m d a b size aligned kind).Passes s x ps win remote) :
    ∃ x' t, ZeroRun x m d (max 1 (size / 4)) x' ∧ s.load m d a b size size aligned kind = .next t ∧
      Sends (s.setParty p x') p x' ((loadRow m d a b size aligned kind).flag x)
        ((servedBy x m (Reg.uniform d)).map ((loadRow m d a b size aligned kind).request s p x x' ps win remote)) t := by
  have hzero := zeroRun_spec hw
  have hexec := access_passes (loadRow m d a b size aligned kind) hi
    (List.forall_mem_cons.2 ⟨Nat.lt_of_lt_of_le Nat.one_pos (Nat.le_max_left ..), List.forall_mem_singleton.2 Nat.two_pos⟩) hw hpass
    (fun p x cs => (s.setParty p (x.zeroRun m d (regsOf size))).sendAll p ⟨some x.flagA, false, false, false⟩
      (Reg.uniform d) (fun _ remote => kind remote) (x.destOf d (regsOf size)) cs)
  rw [hsize] at hexec
  refine ⟨_, _, hzero, ?_, sends_sendAll (loadRow m d a b size aligned kind) ps win remote _ (party?_setParty_same ..) rfl
    (by rw [hzero.2]) (by rw [hzero.2])⟩
  unfold State.load
  rw [hsize]
  exact hexec

theorem loadsLeaveTheLane : Says.LoadsLeaveTheLane := by
  intro i d size w hrow s p x ps win remote hi hw hpass
  cases hrow <;> exact load_leaves _ _ _ _ _ _ _ rfl hi hw hpass

theorem wordsNat_map (f : Nat → Word) (l : List Nat) : wordsNat (l.map f) = l.foldr (fun k v => (f k).toNat + 2 ^ 32 * v) 0 := by
  induction l with
  | nil => rfl
  | cons a l ih => rw [List.map_cons, wordsNat, ih, List.foldr_cons]

theorem storeData_eq {size : Nat} (hsize : regsOf size = max 1 (size / 4)) (x : Party) (t : Nat) (d : Reg) :
    x.storeData t d size = storeBytes x t d size := by
  cases d with
  | s n => rfl
  | v n => simp only [Party.storeData, storeBytes, wordsNat_map, hsize]

/-- A store sends its row's requests. -/
theorem store_leaves (m : Mods) (d a : Reg) (b : Off) (size : Nat) (aligned : Bool)
    (hsize : regsOf size = max 1 (size / 4)) {s : State} {p : Nat} {x : Party} {ps : Nat → List (Nat × Nat)} {win remote : Nat → Bool}
    (hi : Issuing s p x) (hw : Within x (Mods.once m) (storeRow m d a b size aligned).regs)
    (hpass : (storeRow m d a b size aligned).Passes s x ps win remote) :
    ∃ t, s.store m d a b size aligned = .next t ∧
      Sends s p x none ((servedBy x m (Reg.uniform d)).map ((storeRow m d a b size aligned).request s p x x ps win remote)) t := by
  have hexec := access_passes (storeRow m d a b size aligned) hi
    (List.forall_mem_cons.2 ⟨Nat.lt_of_lt_of_le Nat.one_pos (Nat.le_max_left ..), List.forall_mem_singleton.2 Nat.two_pos⟩) hw hpass
    (fun p x cs => s.sendAll p ⟨none, false, false, false⟩ (Reg.uniform d) (fun t _ => .store size (storeBytes x t d size)) .none cs)
  refine ⟨_, ?_, sends_sendAll (storeRow m d a b size aligned) ps win remote _ hi.2 rfl rfl rfl⟩
  unfold State.store
  simp only [storeData_eq hsize]
  rw [hsize]
  exact hexec

theorem mem_of_sends {s t : State} {p : Nat} {x : Party} {flag : Option Nat} {rs : List Req} (h : Sends s p x flag rs t) : t.mem = s.mem := by
  by_cases hrs : rs = []
  · rw [h.1 hrs]
  · rw [(h.2 hrs).2]

theorem storesLeaveTheLane : Says.StoresLeaveTheLane := by
  intro i w hrow s p x ps win remote hi hw hpass
  have hleaves : ∃ t, exec i s = .next t ∧ Sends s p x none ((servedBy x w.m w.uniform).map (w.request s p x x ps win remote)) t := by
    cases hrow <;> exact store_leaves _ _ _ _ _ _ rfl hi hw hpass
  obtain ⟨t, hexec, hsends⟩ := hleaves
  exact ⟨t, hexec, hsends, fun a => by rw [State.byteAt, State.byteAt, mem_of_sends hsends]⟩

/-- Settles O11: a word past the checks sends one request a served thread. -/
theorem loadsAndStoresLeaveTheLane : Obligations.LoadsAndStoresLeaveTheLane := ⟨loadsLeaveTheLane, storesLeaveTheLane⟩

/-! ### Synchronising words (R160, R175, R293) -/

theorem narrow_of_notNarrowed {s : State} {x : Party} {acts : Bool} {m : Mods} (h : NotNarrowed s x acts m) (p : Nat) (go : State → State) :
    s.narrow p x acts m go = go s := by
  refine if_neg fun hn => h ?_
  simpa [and_assoc] using hn

theorem whenSynced_of_synced {s : State} {p : Nat} {ts : List Nat} {rel pod : Bool} (h : Synced s p ts rel pod) (x : Party) (go : State) :
    s.whenSynced p x ts rel pod go = go := by
  obtain ⟨hmbx, hrel⟩ := h
  rw [State.whenSynced, hmbx, if_neg Bool.false_ne_true]
  refine if_neg fun hw => ?_
  obtain ⟨hr, hopen⟩ := Bool.and_eq_true_iff.1 hw
  exact Bool.false_ne_true ((hrel hr).symm.trans hopen)

/-- A release with earlier writes open holds its group. -/
theorem whenSynced_of_writesOpen {s : State} {p : Nat} {x : Party} (hp : s.party? p = some x) {ts : List Nat} {rel pod : Bool}
    (hmbx : s.mbxStOpen p ts = false) (hrel : rel = true) (hopen : s.writesOpen p ts pod = true) (go : State) :
    s.whenSynced p x ts rel pod go = s.setParty p { x with ctl := .stall } := by
  rw [State.whenSynced, hmbx, if_neg Bool.false_ne_true, hrel, hopen]
  exact onParty_of_some hp _

/-- A synchronising word ends the regions of its threads, and drops the party's remote copies where it says so. -/
theorem exists_regionsEnd_endSync {s : State} {p : Nat} {x : Party} (hp : s.party? p = some x) {ts : List Nat} (hts : ts.Nodup) (drop : Bool) :
    ∃ z, RegionsEnd s p { x with rcCopies := if drop then [] else x.rcCopies } ts (s.endSync p ts drop) z := by
  obtain ⟨z, hregion, hz, hs, hrest⟩ :=
    exists_regionsEnd s p (x := { x with idempc := none, rcCopies := if drop then [] else x.rcCopies }) rfl hts
  have heq : s.endSync p ts drop = (s.setParty p { x with idempc := none, rcCopies := if drop then [] else x.rcCopies }).endRegions p ts := by
    rw [State.endSync, onParty_of_some hp]
  exact ⟨z, hregion, hz, heq ▸ hs, heq ▸ hrest⟩

theorem nodup_syncThreads (x : Party) (m : Mods) (uniform : Bool) : (x.syncThreads m uniform).Nodup := nodup_threadsOf ..

/-! ### Atomics and mailboxes -/

/-- A synchronising word's requests leave once the regions of its threads have ended. -/
theorem sends_endSync (w : MemRow) {s : State} {p : Nat} {x : Party} (ps : Nat → List (Nat × Nat)) (win remote : Nat → Bool)
    (hp : s.party? p = some x) {ts : List Nat} (hts : ts.Nodup) (us : List Nat) :
    ∃ s' x', RegionsEnd s p x ts s' x' ∧ Sends s' p x' (w.flag x) (us.map (w.request s p x x' ps win remote))
      ((s.endSync p ts false).sendAll p ⟨w.flag x, w.rel, w.acq, w.pod⟩ w.uniform (w.kind x) (w.dest x) (checkedList w x ps win remote us)) := by
  obtain ⟨x', hends⟩ := exists_regionsEnd_endSync hp hts false
  have ⟨_, hx', hs', _, _⟩ := hends
  exact ⟨_, x', hends, sends_sendAll w ps win remote us (party?_of_regionsEnd hends) (by rw [hs']) (by rw [hx']) (by rw [hx'])⟩

/-- What an atomic or reduction of a row does. -/
def AtomicLeaves (w : MemRow) (out : State → Host.Outcome State Fault Refusal) : Prop :=
  ∀ s p x (ps : Nat → List (Nat × Nat)) (win remote : Nat → Bool), Issuing s p x → Within x (Mods.once w.m) w.regs → w.Passes s x ps win remote →
    let o := orderOf w.m
    let ts := threadsOf x.width (if w.uniform then x.m0 else x.selected w.m)
    (o = 0 → ∃ t, out s = .next t ∧ Sends s p x (w.flag x) ((servedBy x w.m w.uniform).map (w.request s p x x ps win remote)) t) ∧
    (o ≠ 0 → NotNarrowed s x true w.m → Synced s p ts (releases o) (podScope w.m) →
      ∃ s' x' t, RegionsEnd s p x ts s' x' ∧ out s = .next t ∧
        Sends s' p x' (w.flag x) ((servedBy x w.m w.uniform).map (w.request s p x x' ps win remote)) t) ∧
    (o ≠ 0 → NotNarrowed s x true w.m → s.mbxStOpen p ts = false → releases o = true → s.writesOpen p ts (podScope w.m) = true →
      out s = .next (s.setParty p { x with ctl := .stall }))

/-- The row of an atomic or reduction. -/
def syncRow (m : Mods) (uniform : Bool) (regs : List (Reg × Nat)) (a : Reg) (size : Nat) (flag : Party → Option Nat)
    (kind : Party → Nat → ReqKind) (dest : Party → Dest) : MemRow where
  m := m
  uniform := uniform
  regs := regs
  acc := ⟨size, true, true, .atomic⟩
  addr := fun x t => x.reg64 t a
  kind := fun x t _ => kind x t
  dest := dest
  flag := flag
  rel := releases (orderOf m)
  acq := acquires (orderOf m)
  pod := podScope m

/-- What an atomic does once its addresses are checked. -/
def syncGo (s : State) (m : Mods) (uniform : Bool) (flag : Party → Option Nat) (kind : Party → Nat → ReqKind) (dest : Party → Dest) (p : Nat)
    (x : Party) (cs : List (Nat × DWord × Checked)) : State :=
  s.narrow p x (orderOf m != 0) m fun s =>
    let go := fun (s : State) =>
      s.sendAll p ⟨flag x, releases (orderOf m), acquires (orderOf m), podScope m⟩ uniform (fun t _ => kind x t) (dest x) cs
    if orderOf m = 0 then go s
    else s.whenSynced p x (x.syncThreads m uniform) (releases (orderOf m)) (podScope m) (go (s.endSync p (x.syncThreads m uniform) false))

theorem atomic_leaves (m : Mods) (uniform : Bool) {regs : List (Reg × Nat)} (hlen : ∀ e ∈ regs, 0 < e.2) (a : Reg) (size : Nat)
    (flag : Party → Option Nat) (kind : Party → Nat → ReqKind) (dest : Party → Dest) :
    AtomicLeaves (syncRow m uniform regs a size flag kind dest) (fun s => s.atomic m uniform regs a size flag kind dest) := by
  intro s p x ps win remote hi hw hpass
  have hexec : s.atomic m uniform regs a size flag kind dest =
      .next (syncGo s m uniform flag kind dest p x
        (checkedList (syncRow m uniform regs a size flag kind dest) x ps win remote (servedBy x m uniform))) :=
    access_passes (syncRow m uniform regs a size flag kind dest) hi hlen hw hpass (syncGo s m uniform flag kind dest)
  simp only [hexec, syncGo]
  have hacts : orderOf m ≠ 0 → (orderOf m != 0) = true := fun ho => bne_iff_ne.2 ho
  refine ⟨fun ho => ?_, fun ho hn hsync => ?_, fun ho hn hmbx hrel hopen => ?_⟩
  · have ho : orderOf m = 0 := ho
    have hn : NotNarrowed s x (orderOf m != 0) m := fun h => absurd ho (bne_iff_ne.1 h.1)
    rw [narrow_of_notNarrowed hn, if_pos ho]
    exact ⟨_, rfl, sends_sendAll _ ps win remote _ hi.2 rfl rfl rfl⟩
  · have ho : orderOf m ≠ 0 := ho
    have hn : NotNarrowed s x true m := hn
    have hsync : Synced s p (x.syncThreads m uniform) (releases (orderOf m)) (podScope m) := hsync
    rw [hacts ho, narrow_of_notNarrowed hn, if_neg ho, whenSynced_of_synced hsync]
    obtain ⟨s', x', hends, hsends⟩ := sends_endSync (syncRow m uniform regs a size flag kind dest) ps win remote hi.2
      (nodup_syncThreads x m uniform) (servedBy x m uniform)
    exact ⟨s', x', _, hends, rfl, hsends⟩
  · have ho : orderOf m ≠ 0 := ho
    have hn : NotNarrowed s x true m := hn
    rw [hacts ho, narrow_of_notNarrowed hn, if_neg ho]
    exact congrArg _ (whenSynced_of_writesOpen hi.2 hmbx hrel hopen _)

theorem length_pos_append {l r : List (Reg × Nat)} (hl : ∀ e ∈ l, 0 < e.2) (hr : ∀ e ∈ r, 0 < e.2) : ∀ e ∈ l ++ r, 0 < e.2 :=
  List.forall_mem_append.2 ⟨hl, hr⟩

/-- Every atomic and reduction is a synchronising word of its row. -/
theorem atomRow_exec {i : Instr} {w : MemRow} (h : AtomRow i w) : ∃ m uniform regs a size flag kind dest,
    w = syncRow m uniform regs a size flag kind dest ∧ (∀ s, exec i s = s.atomic m uniform regs a size flag kind dest) ∧
      ∀ e ∈ regs, 0 < e.2 := by
  cases h with
  | redmAdd | redmFadd | redmMax =>
    exact ⟨_, _, _, _, _, _, _, _, rfl, fun _ => rfl, length_pos_operands Nat.two_pos Nat.one_pos⟩
  | add64 =>
    exact ⟨_, _, _, _, _, _, _, _, rfl, fun _ => rfl,
      List.forall_mem_cons.2 ⟨Nat.two_pos, length_pos_operands Nat.two_pos Nat.two_pos⟩⟩
  | _ =>
    exact ⟨_, _, _, _, _, _, _, _, rfl, fun _ => rfl, length_pos_append
      (List.forall_mem_cons.2 ⟨Nat.one_pos, length_pos_operands Nat.two_pos Nat.one_pos⟩) (length_pos_srcRun Nat.one_pos)⟩

/-- Settles O12: an order other than rlx ends the regions first, and a release waits for the writes before it. -/
theorem atomicsLeaveTheLane : Obligations.AtomicsLeaveTheLane := by
  intro i w hrow
  obtain ⟨m, uniform, regs, a, size, flag, kind, dest, rfl, hexec, hlen⟩ := atomRow_exec hrow
  simp only [hexec]
  exact atomic_leaves m uniform hlen a size flag kind dest

/-- A mailbox instruction ends the regions of its threads and sends its row's requests. -/
theorem mailbox_leaves (m : Mods) (d a : Reg) (b : Off) {n : Nat} (hn : 0 < n) (write acts : Bool) (flag : Party → Option Nat)
    (kind : Party → Nat → ReqKind) (dest : Party → Dest) (w : MemRow)
    (hrow : w = { m := m, uniform := Reg.uniform d, regs := [(d, n), (a, 2)], acc := ⟨8, true, write, .mailbox⟩,
                  addr := fun x t => x.ea t a b 8, kind := fun x t _ => kind x t, dest := dest, flag := flag, rel := write,
                  acq := !write && acts, pod := podScope m })
    {s : State} {p : Nat} {x : Party} {ps : Nat → List (Nat × Nat)} {win remote : Nat → Bool} (hi : Issuing s p x)
    (hw : Within x (Mods.once w.m) w.regs) (hpass : w.Passes s x ps win remote) (hnarrow : NotNarrowed s x acts w.m)
    (hsync : Synced s p (threadsOf x.width (if w.uniform then x.m0 else x.selected w.m)) w.rel w.pod) :
    ∃ s' x' t, RegionsEnd s p x (threadsOf x.width (if w.uniform then x.m0 else x.selected w.m)) s' x' ∧
      s.mailbox m d a b n write acts flag kind dest = .next t ∧
      Sends s' p x' (w.flag x) ((servedBy x w.m w.uniform).map (w.request s p x x' ps win remote)) t := by
  have hlen : ∀ e ∈ w.regs, 0 < e.2 := by
    rw [hrow]
    exact List.forall_mem_cons.2 ⟨hn, List.forall_mem_singleton.2 Nat.two_pos⟩
  obtain ⟨s', x', hends, hsends⟩ := sends_endSync w ps win remote hi.2 (nodup_syncThreads x w.m w.uniform) (servedBy x w.m w.uniform)
  refine ⟨s', x', _, hends, ?_, hsends⟩
  have hexec := access_passes w hi hlen hw hpass (fun p x cs => s.narrow p x acts m fun s =>
    s.whenSynced p x (x.syncThreads m w.uniform) write (podScope m) ((s.endSync p (x.syncThreads m w.uniform) false).sendAll p
      ⟨flag x, write, !write && acts, podScope m⟩ w.uniform (fun t _ => kind x t) (dest x) cs))
  subst hrow
  refine hexec.trans ?_
  have hnarrow : NotNarrowed s x acts m := hnarrow
  rw [narrow_of_notNarrowed hnarrow]
  exact congrArg _ (whenSynced_of_synced hsync x _)

/-- Settles O13: the regions end, then one request a served thread leaves. -/
theorem mailboxRequestsLeaveTheLane : Obligations.MailboxRequestsLeaveTheLane := by
  intro i acts w hrow s p x ps win remote hi hw hpass hn
  cases hrow with
  | mbxTst => exact mailbox_leaves _ _ _ _ Nat.one_pos _ _ _ _ _ _ rfl hi hw hpass hn
  | _ => exact mailbox_leaves _ _ _ _ Nat.two_pos _ _ _ _ _ _ rfl hi hw hpass hn

/-! ### Misaligned accesses (R169, R275) -/

theorem check_misaligned {s : State} {x : Party} {a : Acc} {va : DWord} {ps : List (Nat × Nat)} {ks : List PageKind}
    (hpieces : s.pieces x ⟨a.write, false, x.user⟩ [(va, a.size)] = .ok (ps, ks)) (ha : a.aligned = true) (hva : va.toNat % a.size ≠ 0) :
    s.check x a va = .bad 3 0x0E := by
  have hparts : a.parts va = [(va, a.size)] := by simp [Acc.parts, ha]
  simp [State.check, hparts, hpieces, ha, hva]

theorem firstCause_const (c : Nat × BitVec 6) (l : List (Nat × BitVec 6)) (hl : ∀ e ∈ l, e = c) (hne : l ≠ []) : firstCause l = some c := by
  induction l with
  | nil => exact absurd rfl hne
  | cons e l ih =>
    obtain ⟨rfl, hl⟩ := List.forall_mem_cons.1 hl
    by_cases hnil : l = []
    · subst hnil
      rfl
    · simp [firstCause, ih hl hnil]

/-- The threads of a list that fail the alignment check alone, with their addresses. -/
def misaligned (w : MemRow) (x : Party) (ts : List Nat) : List Nat := ts.filter (fun t => decide ((w.addr x t).toNat % w.acc.size ≠ 0))

theorem failures_misaligned (w : MemRow) (s : State) (x : Party) (ts : List Nat)
    (h : ∀ t ∈ ts, if (w.addr x t).toNat % w.acc.size = 0 then ∃ ps win remote, s.check x w.acc (w.addr x t) = .ok ps win remote
      else s.check x w.acc (w.addr x t) = .bad 3 0x0E) :
    failures (ts.map (fun t => (t, w.addr x t, s.check x w.acc (w.addr x t)))) =
      (misaligned w x ts).map (fun t => (t, w.addr x t, 3, 0x0E)) := by
  induction ts with
  | nil => rfl
  | cons t ts ih =>
    obtain ⟨ht, hrest⟩ := List.forall_mem_cons.1 h
    by_cases hz : (w.addr x t).toNat % w.acc.size = 0
    · rw [if_pos hz] at ht
      obtain ⟨ps, win, remote, hok⟩ := ht
      rw [List.map_cons, hok, failures, ih hrest, misaligned, misaligned, List.filter_cons_of_neg (by simpa using hz)]
    · rw [if_neg hz] at ht
      rw [List.map_cons, ht, failures, ih hrest, misaligned, misaligned, List.filter_cons_of_pos (by simpa using hz), List.map_cons]

theorem find?_map_key {β : Type} (ts : List Nat) (f : Nat → β) {t : Nat} (ht : t ∈ ts) :
    (ts.map (fun u => (u, f u))).find? (fun e => e.1 == t || false) = some (t, f t) := by
  induction ts with
  | nil => exact absurd ht List.not_mem_nil
  | cons u ts ih =>
    by_cases hu : u = t
    · subst hu
      simp
    · have hmem : t ∈ ts := (List.mem_cons.1 ht).resolve_left (Ne.symm hu)
      rw [List.map_cons, List.find?_cons_of_neg (by simpa using hu), ih hmem]

theorem sget_foldl_sset_val {α : Type} [DecidableEq α] {d : α} (f : Nat → α) (ts : List Nat) (m : Sparse α) (j : Nat) :
    sget d (ts.foldl (fun st t => sset d st t (f t)) m) j = if j ∈ ts then f j else sget d m j := by
  induction ts generalizing m with
  | nil => simp
  | cons t ts ih =>
    rw [List.foldl_cons, ih, sget_sset]
    by_cases hj : j = t
    · simp [hj]
    · simp [hj]

/-- The trap of a vector access whose threads `ts` are misaligned. -/
def misalignedTrap (w : MemRow) (x : Party) (ts : List Nat) : TrapReq :=
  x.trapHere x.pos.m0 0x0E (ts.foldl (fun m t => setBit m t true) 0) (ts.foldl (fun st t => sset 0 st t (w.addr x t)) [])
    (if w.acc.write then 1 else 0)

theorem foldl_congr_mem {α β : Type} {f g : β → α → β} (l : List α) (b : β) (h : ∀ b, ∀ a ∈ l, f b a = g b a) :
    l.foldl f b = l.foldl g b := by
  induction l generalizing b with
  | nil => rfl
  | cons a l ih =>
    obtain ⟨ha, hl⟩ : (∀ b, f b a = g b a) ∧ ∀ b, ∀ a ∈ l, f b a = g b a :=
      ⟨fun b => h b a List.mem_cons_self, fun b a' ha' => h b a' (List.mem_cons_of_mem _ ha')⟩
    rw [List.foldl_cons, List.foldl_cons, ha, ih _ hl]

theorem raiseLane_misaligned (s : State) (p : Nat) (x : Party) (w : MemRow) {ts : List Nat} (hne : ts ≠ []) :
    s.raiseLane p x false w.acc.write (ts.map (fun t => (t, w.addr x t, 3, 0x0E))) = s.raise p (misalignedTrap w x ts) := by
  have hcause : firstCause ((ts.map (fun t => (t, w.addr x t, 3, (0x0E : BitVec 6)))).map (fun e => e.2.2)) = some (3, 0x0E) := by
    refine firstCause_const _ _ (fun e he => ?_) (by simpa using hne)
    rw [List.map_map] at he
    obtain ⟨t, -, rfl⟩ := List.mem_map.1 he
    rfl
  have hts : (ts.map (fun t => (t, w.addr x t, 3, (0x0E : BitVec 6)))).map (fun e => e.1) = ts := by simp [Function.comp_def]
  rw [State.raiseLane, hcause]
  simp only [hts, Bool.false_eq_true, if_false]
  refine congrArg (s.raise p) ?_
  rw [misalignedTrap]
  congr 1
  refine foldl_congr_mem ts [] fun st t ht => ?_
  rw [find?_map_key ts (fun t => (w.addr x t, 3, 0x0E)) ht]

/-- A vector access whose threads fail the alignment check alone raises 0x0E for them. -/
theorem access_misaligned (w : MemRow) {s : State} {p : Nat} {x : Party} (hi : Issuing s p x) (hlen : ∀ e ∈ w.regs, 0 < e.2)
    (hw : Within x (Mods.once w.m) w.regs) (huni : w.uniform = false)
    (hcheck : ∀ t ∈ sel x w.m, if (w.addr x t).toNat % w.acc.size = 0 then ∃ ps win remote, s.check x w.acc (w.addr x t) = .ok ps win remote
      else s.check x w.acc (w.addr x t) = .bad 3 0x0E)
    (hbad : ∃ t ∈ sel x w.m, (w.addr x t).toNat % w.acc.size ≠ 0) (go : Nat → Party → List (Nat × DWord × Checked) → State) :
    s.access w.m w.uniform w.regs w.acc w.addr go = .next (s.raise p (misalignedTrap w x (misaligned w x (sel x w.m)))) := by
  have hne : misaligned w x (sel x w.m) ≠ [] := by
    obtain ⟨t, ht, hz⟩ := hbad
    exact List.ne_nil_of_mem (List.mem_filter.2 ⟨ht, decide_eq_true hz⟩)
  rw [State.access, issue_next hi.1 hi.2, alloc_within hw hlen, huni]
  have hfail := failures_misaligned w s x (sel x w.m) hcheck
  have hserved : x.served w.m false = sel x w.m := rfl
  simp only [hserved, hfail]
  rw [if_neg (by simpa using hne), raiseLane_misaligned s p x w hne]

theorem bitOf_of_mem_sel {x : Party} {m : Mods} {t : Nat} (h : t ∈ sel x m) : t < 64 := by
  obtain ⟨-, hb⟩ := mem_threadsOf.1 h
  exact BitVec.lt_of_getLsbD hb

/-- What the trap of a misaligned access reports. -/
theorem misalignedTrap_spec (w : MemRow) (x : Party) :
    let r := misalignedTrap w x (misaligned w x (sel x w.m))
    (∀ t, bitOf r.mfault t = decide (t ∈ sel x w.m ∧ (w.addr x t).toNat % w.acc.size ≠ 0)) ∧
      (∀ t ∈ sel x w.m, (w.addr x t).toNat % w.acc.size ≠ 0 → sget 0 r.addr t = w.addr x t) := by
  have hmem : ∀ t, t ∈ misaligned w x (sel x w.m) ↔ t ∈ sel x w.m ∧ (w.addr x t).toNat % w.acc.size ≠ 0 := fun t => by
    simp [misaligned]
  refine ⟨fun t => ?_, fun t ht hz => ?_⟩
  · refine (bitOf_foldl_setBit (fun t ht => bitOf_of_mem_sel ((hmem t).1 ht).1) 0 t).trans ?_
    simp [hmem, bitOf]
  · refine (sget_foldl_sset_val (fun t => w.addr x t) _ [] t).trans ?_
    rw [if_pos ((hmem t).2 ⟨ht, hz⟩)]

/-- Loads and stores are accesses of their rows. -/
theorem accessRow_exec {i : Instr} {w : MemRow} (h : (∃ d n, LoadRow i d n w) ∨ StoreRow i w) :
    (∀ e ∈ w.regs, 0 < e.2) ∧ ∀ s, ∃ go, exec i s = s.access w.m w.uniform w.regs w.acc w.addr go := by
  rcases h with ⟨d, n, h⟩ | h
  all_goals
    cases h <;> exact ⟨List.forall_mem_cons.2 ⟨Nat.lt_of_lt_of_le Nat.one_pos (Nat.le_max_left ..), List.forall_mem_singleton.2 Nat.two_pos⟩, fun s => ⟨_, rfl⟩⟩

/-- Settles O14: the failing threads alone are reported, with their addresses. -/
theorem misalignedAccessesTrap : Obligations.MisalignedAccessesTrap := by
  refine ⟨fun s x a va ps ks hpieces ha hva => check_misaligned hpieces ha hva, ?_⟩
  intro i w hrow s p x hi hw huni ha hcheck hbad
  obtain ⟨hlen, hexec⟩ := accessRow_exec hrow
  obtain ⟨go, hgo⟩ := hexec s
  obtain ⟨hmask, haddr⟩ := misalignedTrap_spec w x
  exact ⟨_, hgo.trans (access_misaligned w hi hlen hw huni hcheck hbad go), rfl, rfl, rfl, rfl, hmask, haddr⟩

end Sys2Proof.Proofs
end

section
/-! PROOFS. Fences, naps and prefetches (R171, R175 to R177): O15. -/

namespace Sys2Proof.Proofs

open Sys2Proof Sys2Proof.Machine Sys2Proof.Says

theorem fencesEndRegions : Says.FencesEndRegions := by
  intro s p x m hi hsfu hfp hn o hsync
  obtain ⟨x', hends⟩ := exists_regionsEnd_endSync hi.2 (ts := sel x m) (nodup_threadsOf ..) (acquires o && podScope m)
  refine ⟨_, x', hends, ?_⟩
  show execFence m s = _
  unfold execFence
  rw [issue_next hi.1 hi.2]
  dsimp only
  rw [deliverFp_ok hsfu hfp, narrow_of_notNarrowed hn]
  exact congrArg _ (whenSynced_of_synced hsync x _)

/-! ### Naps (R177) -/

/-- The smallest nonzero timeout so far. -/
def NapBound (ws : List Nat) (left : Option Nat) : Prop :=
  match left with
  | none => ∀ w ∈ ws, w = 0
  | some v => 0 < v ∧ v ∈ ws ∧ ∀ w ∈ ws, w ≠ 0 → v ≤ w

/-- One more timeout. -/
def napStep (left : Option Nat) (w : Nat) : Option Nat :=
  if w = 0 then left else match left with | none => some w | some v => some (min v w)

theorem napBound_append {ws : List Nat} {left : Option Nat} (h : NapBound ws left) (w : Nat) :
    NapBound (ws ++ [w]) (napStep left w) := by
  unfold napStep
  by_cases hw : w = 0
  · rw [if_pos hw]
    cases left with
    | none =>
      intro u hu
      rcases List.mem_append.1 hu with hu | hu
      · exact h u hu
      · exact (List.mem_singleton.1 hu).trans hw
    | some v =>
      obtain ⟨hpos, hmem, hle⟩ := h
      refine ⟨hpos, List.mem_append_left _ hmem, fun u hu hne => ?_⟩
      rcases List.mem_append.1 hu with hu | hu
      · exact hle u hu hne
      · exact absurd ((List.mem_singleton.1 hu).trans hw) hne
  · rw [if_neg hw]
    cases left with
    | none =>
      refine ⟨Nat.pos_of_ne_zero hw, List.mem_append_right _ (List.mem_singleton_self w), fun u hu hne => ?_⟩
      rcases List.mem_append.1 hu with hu | hu
      · exact absurd (h u hu) hne
      · exact (List.mem_singleton.1 hu).ge
    | some v =>
      obtain ⟨hpos, hmem, hle⟩ := h
      refine ⟨Nat.lt_min.2 ⟨hpos, Nat.pos_of_ne_zero hw⟩, ?_, fun u hu hne => ?_⟩
      · rcases Nat.le_total v w with hvw | hvw
        · rw [Nat.min_eq_left hvw]
          exact List.mem_append_left _ hmem
        · rw [Nat.min_eq_right hvw]
          exact List.mem_append_right _ (List.mem_singleton_self w)
      · rcases List.mem_append.1 hu with hu | hu
        · exact (Nat.min_le_left ..).trans (hle u hu hne)
        · exact (Nat.min_le_right ..).trans (List.mem_singleton.1 hu).ge

theorem napBound_napTimeout (ws : List Nat) : NapBound ws (napTimeout ws) := by
  induction ws using List.reverseRecOn with
  | nil => exact fun _ h => absurd h List.not_mem_nil
  | append_singleton ws w ih =>
    have hstep : napTimeout (ws ++ [w]) = napStep (napTimeout ws) w := List.foldl_concat ..
    exact hstep ▸ napBound_append ih w

/-- The access of a nap. -/
def napRow (m : Mods) (a : Reg) (b : Src) : MemRow where
  m := m
  uniform := false
  regs := [(a, 2)] ++ srcRun b 1
  acc := ⟨1, true, false, .plain⟩
  addr := fun x t => x.reg64 t a
  kind := fun _ _ _ => .load 1 false
  dest := fun _ => .none
  flag := fun _ => none

theorem filterMap_checkedList (w : MemRow) (x : Party) {ps : Nat → List (Nat × Nat)} {win remote : Nat → Bool} {ts : List Nat}
    {f : Nat × DWord × Checked → Option Nat} {g : Nat → Nat}
    (h : ∀ t ∈ ts, f (t, w.addr x t, .ok (ps t) (win t) (remote t)) = some (g t)) :
    (checkedList w x ps win remote ts).filterMap f = ts.map g := by
  rw [checkedList, List.filterMap_map, ← List.filterMap_eq_map]
  exact List.filterMap_congr h

theorem napsPark (s : State) (p : Nat) (x : Party) (m : Mods) (a : Reg) (b : Src) (ps : Nat → List (Nat × Nat)) (win remote : Nat → Bool)
    (hi : Issuing s p x) (hw : Within x (Mods.once m) ([(a, 2)] ++ srcRun b 1)) (hsel : sel x m ≠ [])
    (hok : ∀ t ∈ sel x m, s.check x ⟨1, true, false, .plain⟩ (x.reg64 t a) = .ok (ps t) (win t) (remote t) ∧ ps t ≠ [])
    (hsync : Synced s p (sel x m) true false) : ∃ s' x' left, RegionsEnd s p x (sel x m) s' x' ∧
      (match left with
       | none => ∀ t ∈ sel x m, x.src32 t 0 b = 0
       | some v => 0 < v ∧ (∃ t ∈ sel x m, (x.src32 t 0 b).toNat = v) ∧ ∀ t ∈ sel x m, x.src32 t 0 b ≠ 0 → v ≤ (x.src32 t 0 b).toNat) ∧
      exec (.nap m a b) s = .next (s'.setParty p { x' with
        park := .nap ((sel x m).map (fun t => ((ps t).headD (0, 0)).1 / 64)) left x.here x.pos.m0, parkedAt := s.now }) := by
  obtain ⟨x', hends⟩ := exists_regionsEnd_endSync hi.2 (ts := sel x m) (nodup_threadsOf ..) false
  have ⟨_, hx', _, _, _⟩ := hends
  have hbound := napBound_napTimeout ((sel x m).map (fun t => (x.src32 t 0 b).toNat))
  refine ⟨_, x', napTimeout ((sel x m).map (fun t => (x.src32 t 0 b).toNat)), hends, ?_, ?_⟩
  · cases hleft : napTimeout ((sel x m).map (fun t => (x.src32 t 0 b).toNat)) with
    | none =>
      rw [hleft] at hbound
      exact fun t ht => BitVec.eq_of_toNat_eq (hbound _ (List.mem_map.2 ⟨t, ht, rfl⟩))
    | some v =>
      rw [hleft] at hbound
      obtain ⟨hpos, hmem, hle⟩ := hbound
      exact ⟨hpos, List.mem_map.1 hmem, fun t ht hne => hle _ (List.mem_map.2 ⟨t, ht, rfl⟩) fun h0 => hne (BitVec.eq_of_toNat_eq h0)⟩
  · have hpass : (napRow m a b).Passes s x ps win remote := fun t ht => (hok t ht).1
    show execNap m a b s = _
    refine (access_passes (napRow m a b) hi (length_pos_operands Nat.two_pos Nat.one_pos) hw hpass _).trans (congrArg _ ?_)
    dsimp only
    have hempty : (threadsOf x.width (x.selected m)).isEmpty = false := List.isEmpty_eq_false_iff.2 hsel
    simp only [hempty, Bool.false_eq_true, if_false]
    refine (whenSynced_of_synced hsync x _).trans ?_
    refine (onParty_of_some (party?_of_regionsEnd hends) _).trans ?_
    have hhere : x'.here = x.here := by rw [hx']; rfl
    have hpos : x'.pos = x.pos := by rw [hx']
    rw [hhere, hpos, filterMap_checkedList (napRow m a b) x (g := fun t => ((ps t).headD (0, 0)).1 / 64)]
    · rfl
    · intro t ht
      obtain ⟨q, qs, hq⟩ := List.exists_cons_of_ne_nil (hok t ht).2
      simp [hq]

/-! ### Prefetches (R171) -/

/-- The same machine with other lines in its cellar. -/
def withCellar (s : State) (c : Sparse (Option CellarLine)) : State := { s with mem := { s.mem with cellar := c } }

theorem check_withCellar (s : State) (c : Sparse (Option CellarLine)) (x : Party) (a : Acc) (va : DWord) :
    (withCellar s c).check x a va = s.check x a va := by
  have hpieces : ∀ w ps, (withCellar s c).pieces x w ps = s.pieces x w ps := by
    intro w ps
    induction ps with
    | nil => rfl
    | cons q ps ih =>
      obtain ⟨va, n⟩ := q
      simp only [State.pieces, ih]
      rfl
  simp only [State.check, hpieces]

/-- The cellar holds at least the lines it held. -/
def Keeps (c c' : Sparse (Option CellarLine)) : Prop := ∀ l, sget none c l ≠ none → sget none c' l = sget none c l

theorem Keeps.trans {c₁ c₂ c₃ : Sparse (Option CellarLine)} (h : Keeps c₁ c₂) (h' : Keeps c₂ c₃) : Keeps c₁ c₃ := fun l hl => by
  rw [h' l (by rwa [h l hl]), h l hl]

/-- A line that is brought in stands in the cellar, with those that stood there. -/
theorem prefetch_spec (s : State) (pa : Nat) : ∃ c, s.prefetch pa = withCellar s c ∧ Keeps s.mem.cellar c ∧
    (pa / 2 ^ 44 = s.pkg.number → sget none c (pa / 64) ≠ none) := by
  unfold State.prefetch
  by_cases hpkg : pa / 2 ^ 44 = s.pkg.number
  · rw [if_neg (by simpa using hpkg)]
    cases hline : sget none s.mem.cellar (pa / 64) with
    | some q => exact ⟨s.mem.cellar, rfl, fun _ _ => rfl, fun _ => by simp [hline]⟩
    | none =>
      refine ⟨_, rfl, fun l hl => sget_sset_ne _ _ _ fun h => hl (h ▸ hline), fun _ => ?_⟩
      rw [sget_sset_same]
      exact Option.some_ne_none _
  · rw [if_pos (by simpa using hpkg)]
    exact ⟨s.mem.cellar, rfl, fun _ _ => rfl, fun h => absurd h hpkg⟩

/-- What a prefetch does for one of its threads. -/
def pfThread (x : Party) (a : Reg) (b : Off) (s : State) (t : Nat) : State :=
  match s.check x ⟨64, false, false, .plain⟩ (x.ea t a b 64) with
  | .ok ((pa, _) :: _) _ _ => s.prefetch pa
  | _ => s

theorem pfThread_spec (x : Party) (a : Reg) (b : Off) (s : State) (t : Nat) : ∃ c, pfThread x a b s t = withCellar s c ∧ Keeps s.mem.cellar c ∧
    ∀ pa n ps win remote, s.check x ⟨64, false, false, .plain⟩ (x.ea t a b 64) = .ok ((pa, n) :: ps) win remote →
      pa / 2 ^ 44 = s.pkg.number → sget none c (pa / 64) ≠ none := by
  unfold pfThread
  split
  · next pa n ps win remote hok =>
    obtain ⟨c, hc, hkeeps, hline⟩ := prefetch_spec s pa
    refine ⟨c, hc, hkeeps, fun pa' _ _ _ _ hok' hpkg => ?_⟩
    obtain rfl : pa = pa' := by
      rw [hok] at hok'
      simp only [Checked.ok.injEq, List.cons.injEq, Prod.mk.injEq] at hok'
      exact hok'.1.1.1
    exact hline hpkg
  · next hnone =>
    exact ⟨s.mem.cellar, rfl, fun _ _ => rfl, fun pa n ps win remote hok _ => absurd hok (hnone pa n ps win remote)⟩

/-- The threads of a prefetch, one after another. -/
theorem foldl_pfThread (x : Party) (a : Reg) (b : Off) (ts : List Nat) (s : State) : ∃ c, ts.foldl (pfThread x a b) s = withCellar s c ∧
    Keeps s.mem.cellar c ∧ ∀ t ∈ ts, ∀ pa n ps win remote, s.check x ⟨64, false, false, .plain⟩ (x.ea t a b 64) = .ok ((pa, n) :: ps) win remote →
      pa / 2 ^ 44 = s.pkg.number → sget none c (pa / 64) ≠ none := by
  induction ts generalizing s with
  | nil => exact ⟨s.mem.cellar, rfl, fun _ _ => rfl, fun _ h => absurd h List.not_mem_nil⟩
  | cons t ts ih =>
    obtain ⟨c₁, hc₁, hkeeps₁, hline₁⟩ := pfThread_spec x a b s t
    obtain ⟨c, hc, hkeeps, hline⟩ := ih (withCellar s c₁)
    refine ⟨c, by rw [List.foldl_cons, hc₁, hc]; rfl, hkeeps₁.trans hkeeps, fun u hu pa n ps win remote hok hpkg => ?_⟩
    rcases List.mem_cons.1 hu with rfl | hu
    · have := hline₁ pa n ps win remote hok hpkg
      rwa [hkeeps _ this]
    · exact hline u hu pa n ps win remote (by rwa [check_withCellar]) hpkg

theorem prefetchesFill (s : State) (p : Nat) (x : Party) (m : Mods) (a : Reg) (b : Off) (hi : Issuing s p x)
    (hw : Within x (Mods.once m) [(a, 2)]) : ∃ t, exec (.pf m a b) s = .next t ∧ t = { s with mem := { s.mem with cellar := t.mem.cellar } } ∧
      (∀ l, sget none s.mem.cellar l ≠ none → sget none t.mem.cellar l = sget none s.mem.cellar l) ∧
      ∀ u ∈ sel x m, ∀ pa n ps win remote, s.check x ⟨64, false, false, .plain⟩ (x.ea u a b 64) = .ok ((pa, n) :: ps) win remote →
        pa / 2 ^ 44 = s.pkg.number → sget none t.mem.cellar (pa / 64) ≠ none := by
  obtain ⟨c, hc, hkeeps, hline⟩ := foldl_pfThread x a b (sel x m) s
  refine ⟨withCellar s c, ?_, rfl, hkeeps, hline⟩
  show execPf m a b s = _
  unfold execPf
  rw [issue_next hi.1 hi.2, alloc_within hw (List.forall_mem_singleton.2 Nat.two_pos)]
  exact congrArg _ hc

/-- Settles O15: what each of the three does once its waits are over. -/
theorem fencesNapsAndPrefetches : Obligations.FencesNapsAndPrefetches :=
  ⟨fencesEndRegions, napsPark, prefetchesFill⟩

end Sys2Proof.Proofs
end

section
/-! PROOFS. Class 4: calls and returns O17, leaving O18, divergence, joins and `sync.p` O20 (R25, R26, R149, R152 to R154, R159 to R161). -/

namespace Sys2Proof.Proofs

open Sys2Proof Sys2Proof.Machine Sys2Proof.Says

/-- Each thread of a list updates its own entry once. -/
theorem sget_foldl_update {α : Type} [DecidableEq α] {d : α} (f : α → α) {ts : List Nat} (hts : ts.Nodup) (m : Sparse α) (j : Nat) :
    sget d (ts.foldl (fun st t => sset d st t (f (sget d st t))) m) j = if j ∈ ts then f (sget d m j) else sget d m j := by
  induction ts generalizing m with
  | nil => simp
  | cons t ts ih =>
    obtain ⟨ht, hts⟩ := List.nodup_cons.1 hts
    rw [List.foldl_cons, ih hts, sget_sset]
    by_cases hj : j = t
    · subst hj
      simp [ht]
    · simp [hj]

/-- The active threads of which a test holds. -/
def failing (x : Party) (q : Nat → Bool) : List Nat := (threadsOf x.width x.m0).filter q

theorem mem_failing {x : Party} {q : Nat → Bool} {t : Nat} : t ∈ failing x q ↔ Active x t ∧ q t = true := by
  rw [failing, List.mem_filter, mem_threadsOf_m0]

/-- A word that raises a cause for the active threads of which a test holds. -/
theorem raises_failing {s : State} {p : Nat} {x : Party} (hi : Issuing s p x) (cause : BitVec 6) (q : Nat → Bool) {bad : Nat → Prop}
    (hbad : ∀ t, bad t ↔ Active x t ∧ q t = true) (info : DWord) :
    Raises s p x cause bad info (s.raiseHere p cause (maskOfList (failing x q)) info) := by
  refine raises_raiseHere hi cause (fun u => ?_) info
  rw [bitOf_maskOfList fun t ht => bitOf_lt (mem_failing.1 ht).1.2, decide_eq_true_eq, mem_failing, hbad]

theorem failing_eq_nil {x : Party} {q : Nat → Bool} {bad : Nat → Prop} (hbad : ∀ t, bad t ↔ Active x t ∧ q t = true) :
    failing x q = [] ↔ ∀ t, ¬ bad t := by
  simp only [List.eq_nil_iff_forall_not_mem, mem_failing, hbad]

/-! ### Calls and returns (R152) -/

theorem transfers_all {x : Party} (target : Nat → DWord) :
    Transfers x (fun _ => True) target (x.gotoEach ((threadsOf x.width x.m0).map fun t => (t, target t))) :=
  transfers_congr (transfers_gotoEach target fun _ => mem_threadsOf_m0.1) (fun _ ht => iff_of_true (mem_threadsOf_m0.2 ht) trivial)
    fun _ _ _ => rfl

/-- The call stacks after every active thread has changed its own. -/
theorem calls_update (x : Party) (f : List DWord → List DWord) (t : Nat) :
    let calls := (threadsOf x.width x.m0).foldl (fun st t => sset [] st t (f (sget [] st t))) x.calls
    (Active x t → sget [] calls t = f (sget [] x.calls t)) ∧ (¬ Active x t → sget [] calls t = sget [] x.calls t) := by
  have h := sget_foldl_update (d := []) f (nodup_threadsOf x.width x.m0) x.calls t
  exact ⟨fun ht => h.trans (if_pos (mem_threadsOf_m0.2 ht)), fun ht => h.trans (if_neg fun hm => ht (mem_threadsOf_m0.1 hm))⟩

/-- The party of a call or return once its threads have transferred: the stacks are new and no restart entry is left. -/
def withCalls (y : Party) (calls : Sparse (List DWord)) : Party := { y with calls := calls, idempc := none }

/-- The test of a full call stack. -/
def callFull (x : Party) (t : Nat) : Bool := decide (8 ≤ (sget [] x.calls t).length)

theorem callTo_eq (s : State) (p : Nat) (x : Party) (target : Nat → DWord) :
    s.callTo p x ((threadsOf x.width x.m0).map (fun t => (t, target t))) =
      if failing x (callFull x) = [] then s.setParty p (withCalls (x.gotoEach ((threadsOf x.width x.m0).map fun t => (t, target t)))
        ((threadsOf x.width x.m0).foldl (fun st t => sset [] st t (nextPacket x.pos.pkt :: sget [] st t)) x.calls))
      else s.raiseHere p 0x36 (maskOfList (failing x (callFull x))) 0 := by
  have hfull : (((threadsOf x.width x.m0).map (fun t => (t, target t))).filter
      (fun e => decide (8 ≤ (sget [] x.calls e.1).length))).map (fun e => e.1) = failing x (callFull x) := by
    rw [List.filter_map, List.map_map]
    exact List.map_id _
  rw [State.callTo, hfull]
  simp only [List.isEmpty_iff, List.foldl_map]
  rfl

theorem callTo_spec {s : State} {p : Nat} {x : Party} (hi : Issuing s p x) (target : Nat → DWord) :
    let full := fun t => Active x t ∧ 8 ≤ (sget [] x.calls t).length
    let out := s.callTo p x ((threadsOf x.width x.m0).map (fun t => (t, target t)))
    ((∀ t, ¬ full t) → ∃ y z, Transfers x (fun _ => True) target y ∧
      (∀ t, (Active x t → sget [] z.calls t = nextPacket x.pos.pkt :: sget [] x.calls t) ∧
        (¬ Active x t → sget [] z.calls t = sget [] x.calls t)) ∧
      z = { y with calls := z.calls, idempc := none } ∧ out = s.setParty p z) ∧
    ((∃ t, full t) → Raises s p x 0x36 full 0 out) := by
  intro full out
  have hfull : ∀ t, full t ↔ Active x t ∧ callFull x t = true := fun t => by simp [full, callFull]
  refine ⟨fun hnone => ⟨_, withCalls _ _, transfers_all target, calls_update x _, rfl, ?_⟩, fun ⟨t, ht⟩ => ?_⟩
  · exact (callTo_eq s p x target).trans (if_pos ((failing_eq_nil hfull).2 hnone))
  · rw [show out = _ from callTo_eq s p x target, if_neg fun h => (failing_eq_nil hfull).1 h t ht]
    exact raises_failing hi 0x36 _ hfull 0

/-- A call is a transfer of every active thread with a push. -/
theorem callRow_exec {i : Instr} {m : Mods} {regs : List (Reg × Nat)} {target : Party → Nat → DWord} (h : CallRow i m regs target)
    {s : State} {p : Nat} {x : Party} (hi : Issuing s p x) (hw : Within x m regs) :
    exec i s = .next (s.callTo p x ((threadsOf x.width x.m0).map (fun t => (t, target x t)))) := by
  cases h with
  | call m off => rw [exec_call, execCall, issue_next hi.1 hi.2]; rfl
  | callX m a => rw [exec_callX, execCallX, issue_next hi.1 hi.2, alloc_within hw (List.forall_mem_singleton.2 Nat.two_pos)]

/-- The test of an empty call stack. -/
def callEmpty (x : Party) (t : Nat) : Bool := (sget [] x.calls t).isEmpty

theorem ret_eq {s : State} {p : Nat} {x : Party} (hi : Issuing s p x) (m : Mods) : exec (.ret m) s = .next (
    if failing x (callEmpty x) = [] then s.setParty p (
      withCalls (x.gotoEach ((threadsOf x.width x.m0).map fun t => (t, (sget [] x.calls t).headD 0)))
        ((threadsOf x.width x.m0).foldl (fun st t => sset [] st t (sget [] st t).tail) x.calls))
    else s.raiseHere p 0x36 (maskOfList (failing x (callEmpty x))) 0) := by
  rw [exec_ret, execRet, issue_next hi.1 hi.2]
  simp only [List.isEmpty_iff]
  rfl

/-- Settles O17: each active thread pushes or pops its own stack and transfers, or the failing threads are reported. -/
theorem callsAndReturns : Obligations.CallsAndReturns := by
  constructor
  · intro i m regs target hrow s p x hi hw full
    obtain ⟨hgoes, hraises⟩ := callTo_spec hi (target x)
    rw [callRow_exec hrow hi hw]
    refine ⟨fun hnone => ?_, fun hsome => ⟨_, hraises hsome, rfl⟩⟩
    obtain ⟨y, z, hy, hcalls, hz, hout⟩ := hgoes hnone
    exact ⟨y, z, hy, hcalls, hz, congrArg _ hout⟩
  · intro s p x m hi empty
    have hempty : ∀ t, empty t ↔ Active x t ∧ callEmpty x t = true := fun t => by simp [empty, callEmpty]
    rw [ret_eq hi m]
    refine ⟨fun hnone => ⟨_, withCalls _ _, transfers_all _, calls_update x _, rfl, by rw [if_pos ((failing_eq_nil hempty).2 hnone)]⟩,
      fun ⟨t, ht⟩ => ?_⟩
    rw [if_neg fun h => (failing_eq_nil hempty).1 h t ht]
    exact ⟨_, raises_failing hi 0x36 _ hempty 0, rfl⟩

/-! ### Leaving (R26, R154, R203) -/

/-- The end request of a thread that runs an activation. -/
def endReq (s : State) (p : Nat) (x : Party) (t : Nat) (w : Nat × Nat) : Req :=
  { fe := x.fe, party := p, lane := x.lane, thread := t, uniform := false, owners := [], va := 0, pieces := [],
    kind := .agent .exitEnd (BitVec.ofNat 32 w.1) (BitVec.ofNat 32 w.2), dest := .none, flag := none, win := false,
    rel := false, acq := false, pod := false, held := false, phase := .sent, issued := s.now }

/-- A thread sends an end request: it runs an activation and is not detached. -/
def sendsEnd (x : Party) (u : Nat) : Bool := (sfind x.runs u).isSome && !bitOf x.detached u

theorem endRequest_of_not {x : Party} {t : Nat} (h : sendsEnd x t = false) (s : State) (p : Nat) : s.endRequest p x t = s := by
  unfold State.endRequest
  cases hr : sfind x.runs t with
  | none => rfl
  | some w =>
    have hd : bitOf x.detached t = true := by simpa [sendsEnd, hr] using h
    exact if_pos hd

theorem endRequest_of_sends {x : Party} {t : Nat} (h : sendsEnd x t = true) (s : State) (p : Nat) : ∃ w, sfind x.runs t = some w ∧
    s.endRequest p x t = { s with nextId := s.nextId + 1, reqs := sput s.reqs s.nextId (endReq s p x t w) } := by
  obtain ⟨hruns, hd⟩ := Bool.and_eq_true_iff.1 h
  obtain ⟨w, hw⟩ := Option.isSome_iff_exists.1 hruns
  refine ⟨w, hw, ?_⟩
  rw [State.endRequest, hw]
  exact if_neg (by simpa using hd)

/-- The end requests that have left since `s`: each thread of the list has its own, in order. -/
def EndsSent (s : State) (p : Nat) (x : Party) (ends : List Nat) (t : State) : Prop :=
  t = { s with nextId := s.nextId + ends.length, reqs := t.reqs } ∧
  (∀ n, n < s.nextId ∨ s.nextId + ends.length ≤ n → sfind t.reqs n = sfind s.reqs n) ∧
  ∀ k u, ends[k]? = some u → ∃ w, sfind t.reqs (s.nextId + k) = some (endReq s p x u w) ∧ sfind x.runs u = some w

theorem endsSent_foldl (s : State) (p : Nat) (x : Party) (ts : List Nat) :
    EndsSent s p x (ts.filter (sendsEnd x)) (ts.foldl (fun s t => s.endRequest p x t) s) := by
  induction ts using List.reverseRecOn with
  | nil => exact ⟨rfl, fun _ _ => rfl, fun k u h => by simp at h⟩
  | append_singleton ts t ih =>
    rw [List.foldl_concat, List.filter_append]
    by_cases ht : sendsEnd x t = true
    · obtain ⟨heq, hold, hnew⟩ := ih
      generalize ts.foldl (fun s t => s.endRequest p x t) s = s₁ at *
      obtain ⟨w, hw, hreq⟩ := endRequest_of_sends ht s₁ p
      have hid : s₁.nextId = s.nextId + (ts.filter (sendsEnd x)).length := by rw [heq]
      have hnow : endReq s₁ p x t w = endReq s p x t w := by rw [heq]; rfl
      rw [hreq, hnow, hid, List.filter_singleton, ht, cond_true]
      refine ⟨by rw [heq]; simp [Nat.add_assoc], fun n hn => ?_, fun k u hk => ?_⟩
      · rw [List.length_append, List.length_singleton] at hn
        refine (sfind_sput_ne _ _ (by omega)).trans (hold n (by omega))
      · by_cases hlt : k < (ts.filter (sendsEnd x)).length
        · rw [List.getElem?_append_left hlt] at hk
          obtain ⟨w', hfind, hruns⟩ := hnew k u hk
          exact ⟨w', (sfind_sput_ne _ _ (by omega)).trans hfind, hruns⟩
        · rw [List.getElem?_append_right (by omega)] at hk
          obtain ⟨hzero, rfl⟩ : k - (ts.filter (sendsEnd x)).length = 0 ∧ t = u := by
            cases hsub : k - (ts.filter (sendsEnd x)).length with
            | zero => rw [hsub] at hk; exact ⟨rfl, by simpa using hk⟩
            | succ j => rw [hsub] at hk; simp at hk
          obtain rfl : k = (ts.filter (sendsEnd x)).length := by omega
          exact ⟨w, sfind_sput_same .., hw⟩
    · rw [endRequest_of_not (by simpa using ht), List.filter_singleton, Bool.eq_false_iff.2 ht, cond_false, List.append_nil]
      exact ih

/-- Settles O18: the end requests leave, then the threads, then their regions end. -/
theorem exitRemovesTheThreads : Obligations.ExitRemovesTheThreads := by
  intro s p x m hi
  obtain ⟨heq, hold, hnew⟩ := endsSent_foldl s p x (threadsOf x.width x.m0)
  have hexec : exec (.exit m) s = .next ((((threadsOf x.width x.m0).foldl (fun s t => s.endRequest p x t) s).setParty p
      { x.leave x.m0 with idempc := none }).endRegions p (threadsOf x.width x.m0)) := by
    rw [exec_exit, execExit, issue_next hi.1 hi.2]
  generalize (threadsOf x.width x.m0).foldl (fun s t => s.endRequest p x t) s = s₁ at *
  obtain ⟨z, hends⟩ := exists_regionsEnd s₁ p (x := { x.leave x.m0 with idempc := none }) rfl (nodup_threadsOf x.width x.m0)
  have hparty := party?_of_regionsEnd hends
  obtain ⟨hregion, hz, ht, -, -⟩ := hends
  generalize (s₁.setParty p { x.leave x.m0 with idempc := none }).endRegions p (threadsOf x.width x.m0) = t at *
  refine ⟨t, z, hexec, hparty, by rw [hz]; rfl, by rw [hz]; rfl, by rw [hz], fun u hu => ?_, by rw [hz]; rfl, by rw [hz]; rfl, by rw [hz]; rfl,
    fun q hq => ?_, by rw [ht, heq], by rw [ht, heq]; rfl, fun n hn => ?_, fun k u hk => ?_⟩
  · rw [hregion, if_pos (mem_threadsOf_m0.2 hu)]
    rfl
  · rw [ht]
    exact (sfind_sput_ne _ _ hq).trans (by rw [heq]; rfl)
  · rw [ht]
    exact hold n hn
  · obtain ⟨w, hfind, hruns⟩ := hnew k u hk
    exact ⟨_, w, by rw [ht]; exact hfind, hruns, rfl, rfl, rfl, rfl⟩

end Sys2Proof.Proofs
end

section
/-! PROOFS. Divergence, joins, `sync.p`, `idem` and `nop` (R25, R153, R159 to R161): O20. -/

namespace Sys2Proof.Proofs

open Sys2Proof Sys2Proof.Machine Sys2Proof.Says

/-! ### The entries of the divergence stack (R25, R153) -/

theorem holds_iff (e : DivEntry) (t : Nat) : Holds e t ↔ (bitOf e.members t && !bitOf e.arrived t) = true := by
  simp [Holds]

theorem innermost_zero {e e' : DivEntry} {es : List DivEntry} {t : Nat} : Innermost (e :: es) t 0 e' ↔ e = e' ∧ Holds e t := by
  constructor
  · rintro ⟨he, hholds, -⟩
    obtain rfl : e = e' := by simpa using he
    exact ⟨rfl, hholds⟩
  · rintro ⟨rfl, hholds⟩
    exact ⟨rfl, hholds, fun j hj => absurd hj (Nat.not_lt_zero j)⟩

theorem innermost_succ {e e' : DivEntry} {es : List DivEntry} {t k : Nat} :
    Innermost (e :: es) t (k + 1) e' ↔ ¬ Holds e t ∧ Innermost es t k e' := by
  constructor
  · rintro ⟨he, hholds, hfirst⟩
    exact ⟨hfirst 0 (Nat.succ_pos k) e rfl, he, hholds, fun j hj f hf => hfirst (j + 1) (Nat.succ_lt_succ hj) f hf⟩
  · rintro ⟨hnot, he, hholds, hfirst⟩
    refine ⟨he, hholds, fun j hj f hf => ?_⟩
    cases j with
    | zero =>
      obtain rfl : e = f := by simpa using hf
      exact hnot
    | succ j => exact hfirst j (Nat.lt_of_succ_lt_succ hj) f hf

/-- The entry that `heldBy` finds is the innermost that holds the thread. -/
theorem heldBy_eq_some {es : List DivEntry} {t : Nat} {e : DivEntry} : heldBy t es = some e ↔ ∃ k, Innermost es t k e := by
  induction es with
  | nil => exact iff_of_false (by simp [heldBy]) fun ⟨k, he, _⟩ => by simp at he
  | cons f es ih =>
    by_cases hf : Holds f t
    · rw [heldBy, if_pos ((holds_iff f t).1 hf), Option.some.injEq]
      constructor
      · rintro rfl
        exact ⟨0, innermost_zero.2 ⟨rfl, hf⟩⟩
      · rintro ⟨k, hk⟩
        cases k with
        | zero => exact (innermost_zero.1 hk).1
        | succ k => exact absurd hf (innermost_succ.1 hk).1
    · rw [heldBy, if_neg fun h => hf ((holds_iff f t).2 h), ih]
      constructor
      · rintro ⟨k, hk⟩
        exact ⟨k + 1, innermost_succ.2 ⟨hf, hk⟩⟩
      · rintro ⟨k, hk⟩
        cases k with
        | zero => exact absurd (innermost_zero.1 hk).2 hf
        | succ k => exact ⟨k, (innermost_succ.1 hk).2⟩

/-- `fs` is `es` after the threads of which `arrives` holds have arrived, each at its innermost entry. -/
def Arrived (es fs : List DivEntry) (arrives : Nat → Prop) : Prop :=
  fs.length = es.length ∧ ∀ k e, es[k]? = some e → ∃ e', fs[k]? = some e' ∧ e'.join = e.join ∧ e'.members = e.members ∧
    ∀ t, bitOf e'.arrived t = true ↔ bitOf e.arrived t = true ∨ (arrives t ∧ Innermost es t k e)

theorem arrived_arriveAt {u : Nat} (hu : u < 64) (es : List DivEntry) : Arrived es (arriveAt u es) (fun t => t = u) := by
  induction es with
  | nil => exact ⟨rfl, fun k e he => by simp at he⟩
  | cons f es ih =>
    by_cases hf : Holds f u
    · rw [arriveAt, if_pos ((holds_iff f u).1 hf)]
      refine ⟨rfl, fun k e he => ?_⟩
      cases k with
      | zero =>
        obtain rfl : f = e := by simpa using he
        refine ⟨_, rfl, rfl, rfl, fun t => ?_⟩
        rw [bitOf_setBit hu]
        by_cases ht : t = u
        · subst ht
          simp [innermost_zero, hf]
        · simp [ht]
      | succ k =>
        refine ⟨e, he, rfl, rfl, fun t => ⟨.inl, fun h => h.elim id ?_⟩⟩
        rintro ⟨rfl, hk⟩
        exact absurd hf (innermost_succ.1 hk).1
    · rw [arriveAt, if_neg fun h => hf ((holds_iff f u).2 h)]
      obtain ⟨hlen, hentries⟩ := ih
      refine ⟨by rw [List.length_cons, hlen, List.length_cons], fun k e he => ?_⟩
      cases k with
      | zero =>
        obtain rfl : f = e := by simpa using he
        refine ⟨f, rfl, rfl, rfl, fun t => ⟨.inl, fun h => h.elim id ?_⟩⟩
        rintro ⟨rfl, hk⟩
        exact absurd (innermost_zero.1 hk).2 hf
      | succ k =>
        obtain ⟨e', he', hjoin, hmembers, harr⟩ := hentries k e he
        refine ⟨e', he', hjoin, hmembers, fun t => (harr t).trans ?_⟩
        rw [innermost_succ]
        refine or_congr_right (and_congr_right ?_)
        rintro rfl
        exact (and_iff_right hf).symm

/-- Whether an entry holds a thread does not change while the thread does not arrive. -/
theorem holds_of_arrived {es fs : List DivEntry} {arrives : Nat → Prop} (h : Arrived es fs arrives) {t k : Nat} (ht : ¬ arrives t)
    {e e' : DivEntry} (he : es[k]? = some e) (he' : fs[k]? = some e') : Holds e' t ↔ Holds e t := by
  obtain ⟨e'', hget, -, hmembers, harr⟩ := h.2 k e he
  obtain rfl : e'' = e' := by simpa [hget] using he'
  have harr : bitOf e''.arrived t = bitOf e.arrived t := by
    rw [Bool.eq_iff_iff, harr]
    exact or_iff_left fun h => ht h.1
  rw [holds_iff, holds_iff, hmembers, harr]

theorem exists_of_arrived {es fs : List DivEntry} {arrives : Nat → Prop} (h : Arrived es fs arrives) {k : Nat} {e' : DivEntry}
    (he' : fs[k]? = some e') : ∃ e, es[k]? = some e := by
  obtain ⟨hk, -⟩ := List.getElem?_eq_some_iff.1 he'
  exact ⟨_, List.getElem?_eq_getElem (h.1 ▸ hk)⟩

/-- Nor does its innermost entry. -/
theorem innermost_of_arrived {es fs : List DivEntry} {arrives : Nat → Prop} (h : Arrived es fs arrives) {t k : Nat} (ht : ¬ arrives t)
    {e e' : DivEntry} (he : es[k]? = some e) (he' : fs[k]? = some e') : Innermost fs t k e' ↔ Innermost es t k e := by
  rw [Innermost, Innermost, holds_of_arrived h ht he he', and_iff_right he', and_iff_right he]
  refine and_congr_right fun _ => forall_congr' fun j => imp_congr_right fun _ => ⟨fun hall f hf => ?_, fun hall f' hf' => ?_⟩
  · obtain ⟨f', hf', -⟩ := h.2 j f hf
    exact fun hholds => hall f' hf' ((holds_of_arrived h ht hf hf').2 hholds)
  · obtain ⟨f, hf⟩ := exists_of_arrived h hf'
    exact fun hholds => hall f hf ((holds_of_arrived h ht hf hf').1 hholds)

theorem arrived_foldl {ts : List Nat} (hts : ts.Nodup) (hlt : ∀ t ∈ ts, t < 64) (es : List DivEntry) :
    Arrived es (ts.foldl (fun es t => arriveAt t es) es) (fun t => t ∈ ts) := by
  induction ts using List.reverseRecOn with
  | nil => exact ⟨rfl, fun k e he => ⟨e, he, rfl, rfl, fun t => by simp⟩⟩
  | append_singleton ts u ih =>
    obtain ⟨hts, -, hdisjoint⟩ := List.nodup_append.1 hts
    have hu : u ∉ ts := fun h => hdisjoint u h u (List.mem_singleton_self u) rfl
    have hfirst := ih hts fun t ht => hlt t (List.mem_append_left _ ht)
    have hlast := arrived_arriveAt (hlt u (List.mem_append_right _ (List.mem_singleton_self u))) (ts.foldl (fun es t => arriveAt t es) es)
    rw [List.foldl_concat]
    refine ⟨hlast.1.trans hfirst.1, fun k e he => ?_⟩
    obtain ⟨e', he', hjoin, hmembers, harr⟩ := hfirst.2 k e he
    obtain ⟨e'', he'', hjoin', hmembers', harr'⟩ := hlast.2 k e' he'
    refine ⟨e'', he'', hjoin'.trans hjoin, hmembers'.trans hmembers, fun t => (harr' t).trans ?_⟩
    rw [harr, or_assoc]
    dsimp only
    rw [List.mem_append, List.mem_singleton, or_and_right]
    refine or_congr_right (or_congr_right (and_congr_right ?_))
    rintro rfl
    exact innermost_of_arrived hfirst hu he he'

/-! ### `div` and `join` -/

theorem divPushes {s : State} {p : Nat} {x : Party} (hi : Issuing s p x) (m : Mods) (off : BitVec 18) :
    (x.divs.length < 16 → ∃ z : Party,
      (∀ t, sget 0 z.depth t = sget 0 x.depth t + if t ∈ threadsOf x.width x.m0 then 1 else 0) ∧
      z = { x with divs := ⟨branchTarget x.pos.pkt off.toInt, x.m0, 0⟩ :: x.divs, depth := z.depth, idempc := none } ∧
      exec (.div m off) s = .next (s.setParty p z)) ∧
    (16 ≤ x.divs.length → ∃ t, Raises s p x 0x0C (fun u => bitOf x.m0 u = true) 0 t ∧ exec (.div m off) s = .next t) := by
  rw [exec_div, execDiv, issue_next hi.1 hi.2]
  refine ⟨fun hlt => ⟨{ x with
    divs := ⟨branchTarget x.pos.pkt off.toInt, x.m0, 0⟩ :: x.divs
    depth := (threadsOf x.width x.m0).foldl (fun st t => sset 0 st t (sget 0 st t + 1)) x.depth
    idempc := none }, fun t => ?_, rfl, ?_⟩, fun hge => ?_⟩
  · refine (sget_foldl_update (d := 0) (· + 1) (nodup_threadsOf x.width x.m0) x.depth t).trans ?_
    split <;> rfl
  · rw [if_neg (by omega)]
    rfl
  · rw [if_pos hge]
    exact ⟨_, raises_raiseHere hi 0x0C (fun _ => Iff.rfl) 0, rfl⟩

/-- The test that a thread's entry does not join at this packet. -/
def joinsElsewhere (x : Party) (t : Nat) : Bool := match heldBy t x.divs with | some e => e.join != x.pos.pkt | none => true

theorem joinsElsewhere_iff (x : Party) (t : Nat) : joinsElsewhere x t = true ↔ ¬ ∃ k e, Innermost x.divs t k e ∧ e.join = x.pos.pkt := by
  unfold joinsElsewhere
  cases hheld : heldBy t x.divs with
  | none =>
    refine iff_of_true rfl ?_
    rintro ⟨k, e, hk, -⟩
    rw [heldBy_eq_some.2 ⟨k, hk⟩] at hheld
    exact Option.some_ne_none _ hheld
  | some e =>
    obtain ⟨k, hk⟩ := heldBy_eq_some.1 hheld
    rw [bne_iff_ne]
    refine not_congr ⟨fun hjoin => ⟨k, e, hk, hjoin⟩, ?_⟩
    rintro ⟨k', e', hk', hjoin⟩
    rw [heldBy_eq_some.2 ⟨k', hk'⟩, Option.some.injEq] at hheld
    exact hheld ▸ hjoin

theorem divergenceAndJoins : Says.DivergenceAndJoins := by
  constructor
  · intro s p x m off hi
    exact divPushes hi m off
  · intro s p x m hi good
    have hbad : ∀ t, (Active x t ∧ ¬ good t) ↔ Active x t ∧ joinsElsewhere x t = true := fun t =>
      and_congr_right fun _ => (joinsElsewhere_iff x t).symm
    have hexec : exec (.join m) s = .next (if failing x (joinsElsewhere x) = [] then s.setParty p { x with
        divs := (threadsOf x.width x.m0).foldl (fun es t => arriveAt t es) x.divs
        joinWait := x.joinWait ||| x.m0
        pos := { x.pos with moved := x.pos.moved ||| x.m0 } }
        else s.raiseHere p 0x1A (maskOfList (failing x (joinsElsewhere x))) 0) := by
      rw [exec_join, execJoin, issue_next hi.1 hi.2]
      simp only [List.isEmpty_iff]
      rfl
    rw [hexec]
    refine ⟨fun hall => ⟨{ x with
        divs := (threadsOf x.width x.m0).foldl (fun es t => arriveAt t es) x.divs
        joinWait := x.joinWait ||| x.m0
        pos := { x.pos with moved := x.pos.moved ||| x.m0 } }, ?_, ?_, rfl, ?_⟩, fun ⟨t, ht⟩ => ?_⟩
    · exact (arrived_foldl (nodup_threadsOf x.width x.m0) (fun t ht => lt_of_mem_threadsOf ht) x.divs).1
    · intro k e he
      obtain ⟨e', he', hjoin, hmembers, harr⟩ :=
        (arrived_foldl (nodup_threadsOf x.width x.m0) (fun t ht => lt_of_mem_threadsOf ht) x.divs).2 k e he
      refine ⟨e', he', hjoin, hmembers, fun t => ?_⟩
      rw [harr]
      exact or_congr_right (and_congr_left fun _ => mem_threadsOf_m0)
    · rw [if_pos ((failing_eq_nil hbad).2 fun t ht => ht.2 (hall t ht.1))]
    · rw [if_neg fun h => (failing_eq_nil hbad).1 h t ht]
      exact ⟨_, raises_failing hi 0x1A _ hbad 0, rfl⟩

/-! ### `sync.p` (R159) -/

theorem syncTarget_eq (x : Party) (a : Reg) : x.syncTarget a =
    match x.syncMask with | some k => k | none => ((threadsOf x.width x.m0).map (fun t => x.reg64 t a)).headD 0 := by
  unfold Party.syncTarget
  cases x.syncMask with
  | some k => rfl
  | none => cases threadsOf x.width x.m0 <;> rfl

/-- A mask names a thread at or above W. -/
theorem outside_iff {x : Party} (hw : x.width ≤ 64) (m : Mask) : m &&& ~~~ x.all ≠ 0 ↔ ∃ u, x.width ≤ u ∧ bitOf m u = true := by
  rw [Ne, eq_zero_iff_bitOf, not_forall]
  refine exists_congr fun u => ?_
  rw [bitOf_and_not, Bool.not_eq_false, Bool.and_eq_true, Bool.not_eq_true', and_comm]
  refine and_congr_left fun hu => ?_
  rw [Party.all, bitOf_lowMask (bitOf_lt hu), decide_eq_false_iff_not, Nat.not_lt]

/-- The test of R159 that a thread's mask fails. -/
def syncFails (x : Party) (a : Reg) (t : Nat) : Bool :=
  x.reg64 t a != x.syncTarget a || !bitOf (x.reg64 t a) t || (x.reg64 t a &&& ~~~ x.all) != 0

theorem syncFails_iff {x : Party} (hw : x.width ≤ 64) (a : Reg) (t : Nat) : syncFails x a t = true ↔
    x.reg64 t a ≠ x.syncTarget a ∨ bitOf (x.reg64 t a) t = false ∨ ∃ u, x.width ≤ u ∧ bitOf (x.reg64 t a) u = true := by
  rw [syncFails, Bool.or_eq_true, Bool.or_eq_true, bne_iff_ne, Bool.not_eq_true', bne_iff_ne, outside_iff hw, or_assoc]

/-- A party that waits in `sync.p`. -/
def syncParty (x : Party) (a : Reg) : Party :=
  { x.setPc x.m0 (nextPacket x.pos.pkt) with
    syncMask := some (x.syncTarget a), syncWait := x.syncWait ||| x.m0, syncAt := x.here, syncLast := x.m0, idempc := none,
    pos := { x.pos with moved := x.pos.moved ||| x.m0 } }

theorem exec_syncP_eq {s : State} {p : Nat} {x : Party} (hi : Issuing s p x) {m : Mods} {a : Reg} (hw : Within x m [(a, 2)]) :
    exec (.syncP m a) s = .next (if failing x (syncFails x a) = [] then s.whenSynced p x (threadsOf x.width x.m0) true false
        ((s.setParty p (syncParty x a)).endRegions p (threadsOf x.width x.m0))
      else s.raiseHere p 0x1B (maskOfList (failing x (syncFails x a))) (x.syncTarget a)) := by
  have hbad : x.syncBad a = failing x (syncFails x a) := rfl
  rw [exec_syncP, execSyncP, issue_next hi.1 hi.2, alloc_within hw (List.forall_mem_singleton.2 Nat.two_pos)]
  simp only [List.isEmpty_iff, hbad]
  rfl

theorem pcOf_setPc_m0 (x : Party) (a : DWord) (t : Nat) : (x.setPc x.m0 a).pcOf t = if t ∈ threadsOf x.width x.m0 then a else x.pcOf t :=
  sget_foldl_sset 0 a _ _ t

theorem partySynchronisation : Says.PartySynchronisation := by
  constructor
  · intro s p x m a hi hw ts set bad hwidth
    have hset : x.syncTarget a = set := syncTarget_eq x a
    have hbad : ∀ t, bad t ↔ Active x t ∧ syncFails x a t = true := fun t => by rw [syncFails_iff hwidth, hset]
    rw [exec_syncP_eq hi hw]
    refine ⟨fun hnone hsync => ?_, fun ⟨t, ht⟩ => ?_⟩
    · obtain ⟨z, hends⟩ := exists_regionsEnd s p (x := syncParty x a) rfl (nodup_threadsOf x.width x.m0)
      rw [if_pos ((failing_eq_nil hbad).2 hnone)]
      refine ⟨syncParty x a, z, _, pcOf_setPc_m0 x _, ?_, hends, congrArg _ (whenSynced_of_synced hsync x _)⟩
      rw [← hset]
      rfl
    · rw [if_neg fun h => (failing_eq_nil hbad).1 h t ht, hset]
      exact ⟨_, raises_failing hi 0x1B _ hbad set, rfl⟩
  · intro s p x m hi
    constructor
    · rw [exec_idem, execIdem, issue_next hi.1 hi.2]
      simp only [beq_iff_eq]
    · rw [exec_nop, execNop, issue_next hi.1 hi.2]

/-- Settles O20: each of the words by what it does to the stack of entries and to the waiting threads. -/
theorem joinsAndSyncs : Obligations.JoinsAndSyncs := ⟨divergenceAndJoins, partySynchronisation⟩

end Sys2Proof.Proofs
end

section
/-! PROOFS. Class 5 at the lane (R181, R182, R198, R199): O21. -/

namespace Sys2Proof.Proofs

open Sys2Proof Sys2Proof.Machine Sys2Proof.Says

/-! ### The operands -/

theorem extractLsb'_toNat_mod {n : Nat} (w : BitVec n) (a l : Nat) : (w.extractLsb' a l).toNat = w.toNat / 2 ^ a % 2 ^ l := by
  rw [BitVec.extractLsb'_toNat, Nat.shiftRight_eq_div_pow]

theorem keyOf_eq (w : Word) : keyOf w = keyIn w := by simp [keyOf, keyIn]

theorem runOf_eq (c : Word) : runOf c = (runFirst c, runCount c) := by
  simp [runOf, runFirst, runCount, Nat.shiftRight_eq_div_pow]

theorem saveRun_eq (x : Party) (t : Nat) (c : Word) : x.saveRun t c = runSaved x t c := by
  simp only [Party.saveRun, runSaved, runOf_eq]
  rfl

/-- The lane's test of a control word is that of R199. -/
theorem badRun_iff (x : Party) (c : Word) (kind : Nat) : x.badRun c kind = true ↔ RunRefused x c kind := by
  have hreserved : c.extractLsb' 13 3 ≠ 0 ↔ c.toNat / 2 ^ 13 % 8 ≠ 0 := by
    rw [Ne, ← BitVec.toNat_inj, extractLsb'_toNat_mod]
    rfl
  have hhigh : c.extractLsb' 28 4 ≠ 0 ↔ c.toNat / 2 ^ 28 ≠ 0 := by
    rw [Ne, ← BitVec.toNat_inj, extractLsb'_toNat_mod, Nat.mod_eq_of_lt (by have := c.isLt; omega)]
    rfl
  have hkind : (c.extractLsb' 11 2).toNat = c.toNat / 2 ^ 11 % 4 := extractLsb'_toNat_mod ..
  have hcount : 0 < runCount c := Nat.succ_pos _
  simp only [Party.badRun, runOf_eq, RunRefused, Bool.or_eq_true, decide_eq_true_eq, bne_iff_ne, hreserved, hhigh, hkind, or_assoc]
  refine ⟨fun h => h.elim (fun h => .inl (by omega)) id, .inr⟩

theorem byPair_eq (a : Reg) (x : Party) (t : Nat) : byPair a x t = ((x.reg64 t a).setWidth 32, x.intentOf t a) := by
  refine Prod.ext ?_ rfl
  exact (BitVec.setWidth_eq_extractLsb' (by decide)).symm

/-! ### The lane's checks -/

/-- A thread that may not leave (R198). -/
def Stays (w : AgentWord) (x : Party) (t : Nat) : Prop := w.leaves = true ∧ (x.plan = false ∨ bitOf x.detached t = true)

open Classical in
/-- The cause that the lane finds for a thread. -/
noncomputable def laneCause (w : AgentWord) (x : Party) (t : Nat) : Option (BitVec 6) :=
  if Stays w x t then some 0x2C else if w.refuses x t then some 0x2F else none

/-- The threads that fail, with their causes as the lane collects them. -/
def laneFailures (lane : Nat → Option (BitVec 6)) (ts : List Nat) : List (Nat × DWord × Nat × BitVec 6) :=
  ts.filterMap (fun t => match lane t with | some c => some (t, (0 : DWord), c.toNat, c) | none => none)

theorem mem_laneFailures {lane : Nat → Option (BitVec 6)} {ts : List Nat} {e : Nat × DWord × Nat × BitVec 6} :
    e ∈ laneFailures lane ts ↔ ∃ t ∈ ts, ∃ c, lane t = some c ∧ e = (t, 0, c.toNat, c) := by
  rw [laneFailures, List.mem_filterMap]
  refine exists_congr fun t => and_congr_right fun _ => ?_
  cases hc : lane t with
  | none => simp
  | some c => simp [eq_comm]

/-- Of the causes found, the one of the lowest rank is raised. -/
theorem firstCause_spec (l : List (Nat × BitVec 6)) : match firstCause l with
    | none => l = []
    | some e => e ∈ l ∧ ∀ e' ∈ l, e.1 ≤ e'.1 := by
  induction l with
  | nil => rfl
  | cons e l ih =>
    obtain ⟨r, c⟩ := e
    rw [firstCause]
    cases hl : firstCause l with
    | none =>
      rw [hl] at ih
      obtain rfl : l = [] := ih
      exact ⟨List.mem_singleton_self _, fun e' he' => (List.mem_singleton.1 he').symm ▸ Nat.le_refl _⟩
    | some f =>
      rw [hl] at ih
      obtain ⟨hmem, hle⟩ := ih
      dsimp only
      by_cases hr : r ≤ f.1
      · rw [if_pos hr]
        refine ⟨List.mem_cons_self, fun e' he' => ?_⟩
        rcases List.mem_cons.1 he' with rfl | he'
        · exact Nat.le_refl _
        · exact hr.trans (hle e' he')
      · rw [if_neg hr]
        refine ⟨List.mem_cons_of_mem _ hmem, fun e' he' => ?_⟩
        rcases List.mem_cons.1 he' with rfl | he'
        · exact Nat.le_of_not_le hr
        · exact hle e' he'

theorem foldl_sset_zero (ts : List Nat) (f : Nat → DWord) (hf : ∀ t ∈ ts, f t = 0) : ts.foldl (fun st t => sset 0 st t (f t)) [] = [] := by
  induction ts with
  | nil => rfl
  | cons t ts ih =>
    obtain ⟨ht, hf⟩ := List.forall_mem_cons.1 hf
    rw [List.foldl_cons, ht]
    exact ih hf

/-- The lane raises its first cause for every failing thread, with no address. -/
theorem raises_laneFailures {s : State} {p : Nat} {x : Party} {lane : Nat → Option (BitVec 6)} {ts : List Nat} (hts : ∀ t ∈ ts, t < 64)
    (hne : laneFailures lane ts ≠ []) : ∃ c t, t ∈ ts ∧ lane t = some c ∧ (∀ u ∈ ts, ∀ c', lane u = some c' → c.toNat ≤ c'.toNat) ∧
      Raises s p x c (fun u => u ∈ ts ∧ (lane u).isSome = true) 0 (s.raiseLane p x false false (laneFailures lane ts)) := by
  have hcause := firstCause_spec ((laneFailures lane ts).map (fun e => e.2.2))
  rw [State.raiseLane]
  cases hfirst : firstCause ((laneFailures lane ts).map (fun e => e.2.2)) with
  | none =>
    rw [hfirst] at hcause
    exact absurd (List.map_eq_nil_iff.1 hcause) hne
  | some e =>
    rw [hfirst] at hcause
    obtain ⟨hmem, hle⟩ := hcause
    obtain ⟨_, hf, rfl⟩ := List.mem_map.1 hmem
    obtain ⟨t, ht, c, hc, rfl⟩ := mem_laneFailures.1 hf
    have hfailing : ∀ u, u ∈ (laneFailures lane ts).map (fun e => e.1) ↔ u ∈ ts ∧ (lane u).isSome = true := fun u => by
      rw [List.mem_map, Option.isSome_iff_exists]
      constructor
      · rintro ⟨_, hg, rfl⟩
        obtain ⟨v, hv, c', hc', rfl⟩ := mem_laneFailures.1 hg
        exact ⟨hv, c', hc'⟩
      · rintro ⟨hu, c', hc'⟩
        exact ⟨_, mem_laneFailures.2 ⟨u, hu, c', hc', rfl⟩, rfl⟩
    have hzero : ∀ u, (match (laneFailures lane ts).find? (fun e => e.1 == u || false) with | some e => e.2.1 | none => 0) = 0 := fun u => by
      cases hfind : (laneFailures lane ts).find? (fun e => e.1 == u || false) with
      | none => rfl
      | some g =>
        obtain ⟨_, _, _, _, rfl⟩ := mem_laneFailures.1 (List.mem_of_find?_eq_some hfind)
        rfl
    refine ⟨c, t, ht, hc, fun u hu c' hc' => hle _ (List.mem_map.2 ⟨_, mem_laneFailures.2 ⟨u, hu, c', hc', rfl⟩, rfl⟩), _, rfl, rfl, rfl, rfl, rfl,
      fun u => ?_, ?_, rfl, rfl⟩
    · refine (Bool.eq_iff_iff.1 (bitOf_maskOfList (fun v hv => hts v ((hfailing v).1 hv).1) u)).trans ?_
      rw [decide_eq_true_eq, hfailing]
    · refine foldl_sset_zero _ _ fun u _ => ?_
      exact hzero u

/-! ### The word -/

theorem laneCause_of_staying {w : AgentWord} (hleaves : w.leaves = false) (hrefuses : ∀ x t, ¬ w.refuses x t) (x : Party) (t : Nat) :
    none = laneCause w x t := by
  rw [laneCause, if_neg fun h : Stays w x t => Bool.false_ne_true (hleaves.symm.trans h.1), if_neg (hrefuses x t)]

theorem laneCause_of_leaving {w : AgentWord} (hleaves : w.leaves = true) {run : Party → Nat → Bool}
    (hrefuses : ∀ x t, w.refuses x t ↔ run x t = true) (x : Party) (t : Nat) :
    (if x.mayNotLeave t then some 0x2C else if run x t then some 0x2F else none) = laneCause w x t := by
  have hstays : Stays w x t ↔ x.mayNotLeave t = true := by simp [Stays, hleaves, Party.mayNotLeave]
  simp only [laneCause, hstays, hrefuses]

/-- Every class-5 word checks, then sends its row's request a thread. -/
theorem agentRow_exec {i : Instr} {w : AgentWord} (h : AgentRow i w) (s : State) : ∃ lane : Party → Nat → Option (BitVec 6),
    (∀ x t, lane x t = laneCause w x t) ∧
    exec i s = s.agentOps w.m w.regs w.leaves (!w.leaves) lane (fun x t => ((w.names x t).1, (w.names x t).2, w.op x t)) w.dest := by
  cases h with
  | intSusp m d a b =>
    refine ⟨_, laneCause_of_leaving rfl (run := fun x t => x.badRun (x.reg32 t 0 d) 2) fun x t => (badRun_iff ..).symm, ?_⟩
    simp only [byPair_eq, ← saveRun_eq]
    rfl
  | planSub m d a b =>
    refine ⟨_, laneCause_of_leaving rfl (run := fun x t => x.badRun (x.reg32 t 0 d) 0) fun x t => (badRun_iff ..).symm, ?_⟩
    simp only [byPair_eq, ← saveRun_eq]
    rfl
  | planRet | step =>
    refine ⟨_, laneCause_of_leaving rfl (run := fun _ _ => false) fun x t => iff_of_false id Bool.false_ne_true, ?_⟩
    simp only [byPair_eq]
    rfl
  | goalFail | intDrop | intResm | intInfo =>
    refine ⟨_, laneCause_of_staying rfl fun _ _ => id, ?_⟩
    simp only [byPair_eq]
    rfl
  | belPut | belRet | belGet | belTst | goalDone =>
    refine ⟨_, laneCause_of_staying rfl fun _ _ => id, ?_⟩
    simp only [← keyOf_eq]
    rfl
  | belFacts | goalAdd | intAdopt | agtNew | agtFree => exact ⟨_, laneCause_of_staying rfl fun _ _ => id, rfl⟩

/-- Every register that a row names is a run of at least one. -/
theorem agentRow_length_pos {i : Instr} {w : AgentWord} (h : AgentRow i w) : ∀ e ∈ w.regs, 0 < e.2 := by
  have hcons : ∀ (r : Reg) (n : Nat) (l : List (Reg × Nat)), 0 < n → (∀ e ∈ l, 0 < e.2) → ∀ e ∈ (r, n) :: l, 0 < e.2 :=
    fun _ _ _ hn hl => List.forall_mem_cons.2 ⟨hn, hl⟩
  have hnil : ∀ e ∈ ([] : List (Reg × Nat)), 0 < e.2 := fun _ h => absurd h List.not_mem_nil
  cases h with
  | belPut => exact hcons _ _ _ Nat.one_pos (length_pos_operands Nat.one_pos Nat.two_pos)
  | belGet => exact hcons _ _ _ Nat.one_pos (length_pos_operands Nat.two_pos Nat.one_pos)
  | belTst => exact length_pos_operands Nat.one_pos Nat.one_pos
  | goalDone => exact hcons _ _ _ Nat.one_pos (length_pos_operands Nat.one_pos Nat.one_pos)
  | intResm => exact hcons _ _ _ Nat.two_pos (length_pos_operands Nat.one_pos Nat.one_pos)
  | planRet | step => exact length_pos_operands Nat.two_pos Nat.one_pos
  | agtNew => exact length_pos_operands Nat.one_pos Nat.two_pos
  | goalFail | intDrop => exact hcons _ _ _ Nat.two_pos hnil
  | agtFree => exact hcons _ _ _ Nat.one_pos hnil
  | belRet => exact hcons _ _ _ Nat.one_pos (hcons _ _ _ Nat.one_pos hnil)
  | belFacts | goalAdd => exact hcons _ _ _ Nat.one_pos (hcons _ _ _ Nat.two_pos hnil)
  | intInfo => exact hcons _ _ _ Nat.two_pos (hcons _ _ _ Nat.two_pos hnil)
  | intAdopt => exact hcons _ _ _ Nat.one_pos (hcons _ _ _ Nat.one_pos (hcons _ _ _ Nat.two_pos hnil))
  | intSusp | planSub => exact hcons _ _ _ Nat.two_pos (hcons _ _ _ Nat.one_pos (hcons _ _ _ Nat.two_pos hnil))

theorem regionsEnd_leaving {s s' : State} {p : Nat} {x x' : Party} {ts : List Nat} (h : RegionsEnd s p x ts s' x') (l : Mask) :
    RegionsEnd s p { x with leaving := l } ts (s'.setParty p { x' with leaving := l }) { x' with leaving := l } := by
  obtain ⟨hregion, hx, hs, htags, hothers⟩ := h
  refine ⟨hregion, by rw [hx], ?_, htags, hothers⟩
  rw [hs]
  simp only [State.setParty, sput_sput_same]

theorem sends_agent (w : AgentWord) {s₀ : State} {p : Nat} {x : Party} (ts : List Nat) : ∀ {s : State} {y : Party}, s.party? p = some y →
    s.now = s₀.now → y.fe = x.fe → y.lane = x.lane →
    Sends s p y (if w.leaves then none else some x.flagA) (ts.map (w.request s₀ p x y))
      (ts.foldl (fun s t => s.send p ⟨if !w.leaves then some x.flagA else none, true, true, false⟩ t false 0 [] false
        (.agent (w.op x t) (w.names x t).1 (w.names x t).2) (w.dest x)) s) := by
  induction ts with
  | nil => exact fun _ _ _ _ => sends_nil ..
  | cons t ts ih =>
    intro s y hp hnow hfe hlane
    have hflag : (if !w.leaves then some x.flagA else none) = if w.leaves then none else some x.flagA := by cases w.leaves <;> rfl
    have hrest := ih (party?_sentState s p y (if w.leaves then none else some x.flagA) (w.request s₀ p x y t)) hnow hfe hlane
    refine sends_cons ?_
    rw [List.foldl_cons, send_eq hp, hfe, hlane, hnow, hflag]
    rw [hflag] at hrest
    exact hrest

/-- Settles O21: the failing threads are reported, or the regions end and one request a thread leaves. -/
theorem agentRequestsLeaveTheLane : Obligations.AgentRequestsLeaveTheLane := by
  intro i w hrow s p x hi hw ts stays bad
  obtain ⟨lane, hlane, hexec⟩ := agentRow_exec hrow s
  have hsome : ∀ t, (lane x t).isSome = true ↔ stays t ∨ w.refuses x t := fun t => by
    classical
    rw [hlane, laneCause]
    by_cases hs : Stays w x t
    · simp [hs, show stays t from hs]
    · by_cases hr : w.refuses x t
      · simp [hs, hr]
      · simp [hs, hr, show ¬ stays t from hs]
  have hexec : exec i s = .next (if laneFailures (lane x) ts = [] then s.whenSynced p x ts true false
      (ts.foldl (fun s t => s.send p ⟨if !w.leaves then some x.flagA else none, true, true, false⟩ t false 0 [] false
        (.agent (w.op x t) (w.names x t).1 (w.names x t).2) (w.dest x))
        (if w.leaves then (s.endSync p ts false).onParty p (fun y => { y with leaving := y.leaving ||| x.m0 }) else s.endSync p ts false))
      else s.raiseLane p x false false (laneFailures (lane x) ts)) := by
    rw [hexec, State.agentOps, issue_next hi.1 hi.2, alloc_within hw (agentRow_length_pos hrow)]
    simp only [List.isEmpty_iff]
    rfl
  have hnil : laneFailures (lane x) ts = [] ↔ ∀ t, ¬ bad t := by
    rw [List.eq_nil_iff_forall_not_mem]
    constructor
    · rintro hno t ⟨ht, hbad⟩
      obtain ⟨c, hc⟩ := Option.isSome_iff_exists.1 ((hsome t).2 hbad)
      exact hno _ (mem_laneFailures.2 ⟨t, mem_threadsOf_m0.2 ht, c, hc, rfl⟩)
    · rintro hno _ he
      obtain ⟨t, ht, c, hc, -⟩ := mem_laneFailures.1 he
      exact hno t ⟨mem_threadsOf_m0.1 ht, (hsome t).1 (by rw [hc]; rfl)⟩
  rw [hexec]
  refine ⟨fun hnone hsync => ?_, fun hex => ?_⟩
  · rw [if_pos (hnil.2 hnone), whenSynced_of_synced hsync]
    obtain ⟨x', hends⟩ := exists_regionsEnd_endSync hi.2 (nodup_threadsOf x.width x.m0) false
    have hparty := party?_of_regionsEnd hends
    by_cases hleaves : w.leaves = true
    · have hends' := regionsEnd_leaving hends (x.leaving ||| x.m0)
      have hleaving : x'.leaving = x.leaving := by rw [hends.2.1]
      have ⟨_, hx', hs', _, _⟩ := hends'
      simp only [if_pos hleaves]
      rw [onParty_of_some hparty, hleaving]
      refine ⟨_, _, _, hends', rfl, ?_⟩
      have hsends := sends_agent w ts (s₀ := s) (x := x) (party?_setParty_same (s := s.endSync p ts false) p { x' with leaving := x.leaving ||| x.m0 })
        (by rw [hs']) (by rw [hx']) (by rw [hx'])
      rw [if_pos hleaves] at hsends
      exact hsends
    · have ⟨_, hx', hs', _, _⟩ := hends
      simp only [if_neg hleaves]
      refine ⟨_, x', _, hends, rfl, ?_⟩
      have hsends := sends_agent w ts (s₀ := s) (x := x) hparty (by rw [hs']) (by rw [hx']) (by rw [hx'])
      rw [if_neg hleaves] at hsends
      exact hsends
  · have hne : laneFailures (lane x) ts ≠ [] := fun h => let ⟨t, ht⟩ := hex; hnil.1 h t ht
    obtain ⟨c, t, ht, hc, hle, hraises⟩ := raises_laneFailures (s := s) (p := p) (x := x) (fun t ht => lt_of_mem_threadsOf ht) hne
    rw [if_neg hne]
    have hbad : (fun u => u ∈ ts ∧ (lane x u).isSome = true) = bad := funext fun u => propext (and_congr mem_threadsOf_m0 (hsome u))
    rw [hbad] at hraises
    refine ⟨c, _, ?_, hraises, rfl⟩
    classical
    have hstay : ∀ u, stays u → lane x u = some 0x2C := fun u hu => (hlane x u).trans (if_pos hu)
    by_cases ht' : stays t
    · rw [hstay t ht', Option.some.injEq] at hc
      exact .inl ⟨hc.symm, t, mem_threadsOf_m0.1 ht, ht'⟩
    · rw [hlane, laneCause, if_neg (show ¬ Stays w x t from ht')] at hc
      have hc2 : c = 0x2F := by
        by_cases hr : w.refuses x t
        · rw [if_pos hr, Option.some.injEq] at hc
          exact hc.symm
        · simp [hr] at hc
      refine .inr ⟨hc2, fun u hu hs => ?_⟩
      have := hle u (mem_threadsOf_m0.2 hu) _ (hstay u hs)
      rw [hc2] at this
      exact absurd this (by decide)

end Sys2Proof.Proofs
end

section
/-! PROOFS. What the answers of the homes leave as it is (R169, R272): memory, the records of regions, every other party. -/

namespace Sys2Proof.Proofs

open Sys2Proof Sys2Proof.Machine Sys2Proof.Says

/-- `t` is `s` but for party `p` and what follows its trap, its end or its group: memory, records, requests and the parks of the other parties
stand. -/
structure Beside (p : Nat) (s t : State) : Prop where
  mem : t.mem = s.mem
  tags : t.tags = s.tags
  reqs : t.reqs = s.reqs
  others : ∀ q x, q ≠ p → s.party? q = some x → ∃ y, t.party? q = some y ∧ y.park = x.park

namespace Beside

theorem refl (p : Nat) (s : State) : Beside p s s := ⟨rfl, rfl, rfl, fun _ x _ h => ⟨x, h, rfl⟩⟩

theorem trans {p : Nat} {s t u : State} (h : Beside p s t) (h' : Beside p t u) : Beside p s u :=
  ⟨h'.mem.trans h.mem, h'.tags.trans h.tags, h'.reqs.trans h.reqs, fun q x hq hx => by
    obtain ⟨y, hy, hpark⟩ := h.others q x hq hx
    obtain ⟨z, hz, hpark'⟩ := h'.others q y hq hy
    exact ⟨z, hz, hpark'.trans hpark⟩⟩

/-- Changes of the state that touch no party. -/
theorem of_parties (p : Nat) {s t : State} (hmem : t.mem = s.mem) (htags : t.tags = s.tags) (hreqs : t.reqs = s.reqs)
    (hparties : t.parties = s.parties) : Beside p s t :=
  ⟨hmem, htags, hreqs, fun _ x _ h => ⟨x, by rw [State.party?, hparties]; exact h, rfl⟩⟩

theorem setParty (p : Nat) (s : State) (x : Party) : Beside p s (s.setParty p x) :=
  ⟨rfl, rfl, rfl, fun _ y hq h => ⟨y, (sfind_sput_ne x s.parties hq).trans h, rfl⟩⟩

theorem onParty (p : Nat) (s : State) (f : Party → Party) : Beside p s (s.onParty p f) := by
  unfold State.onParty
  split
  · exact setParty p s _
  · exact refl p s

theorem wake (p : Nat) (s : State) : Beside p s s.wake :=
  ⟨rfl, rfl, rfl, fun q x _ h => ⟨{ x with hold := false }, by rw [wake_party?, h]; rfl, rfl⟩⟩

theorem log (p : Nat) (s : State) (a b c : Nat) (d : BitVec 128) : Beside p s (s.log a b c d) := of_parties p rfl rfl rfl rfl

theorem notify (p : Nat) (s : State) (c : Nat) : Beside p s (s.notify c) := by
  unfold State.notify
  split <;> exact of_parties p rfl rfl rfl rfl

theorem onLaunch (p : Nat) (s : State) (g : Nat) (f : Launch → Launch) : Beside p s (s.onLaunch g f) :=
  of_parties p (by simp) (by simp) (by simp) (by simp)

theorem onCrew (p : Nat) (s : State) (c : Nat) (f : Crew → Crew) : Beside p s (s.onCrew c f) :=
  of_parties p (by simp) (by simp) (by simp) (by simp)

theorem withCur (p : Nat) (s : State) (c : Option Nat) : Beside p s { s with cur := c } := of_parties p rfl rfl rfl rfl

/-- A run of changes. -/
theorem foldl {α : Type} (p : Nat) {f : State → α → State} (hf : ∀ s a, Beside p s (f s a)) (l : List α) (s : State) :
    Beside p s (l.foldl f s) := by
  induction l generalizing s with
  | nil => exact refl p s
  | cons a l ih => exact (hf s a).trans (ih _)

/-- A change after a condition. -/
theorem ite {p : Nat} {s t u : State} {c : Prop} [Decidable c] (ht : c → Beside p s t) (hu : ¬ c → Beside p s u) :
    Beside p s (if c then t else u) := by
  by_cases hc : c
  · rw [if_pos hc]; exact ht hc
  · rw [if_neg hc]; exact hu hc

theorem takeTrap (p : Nat) (s : State) (r : TrapReq) : Beside p s (s.takeTrap p r) := by
  unfold State.takeTrap
  split
  · exact refl p s
  · next x hx =>
    refine ite (fun _ => setParty p s _) fun _ => ite (fun _ => ?_) fun _ => setParty p s _
    have hhalt := (setParty p s (s.stopCyc x.halt)).trans (notify p _ 0x3B)
    exact ite (fun _ => hhalt.trans (withCur p _ none)) fun _ => hhalt

theorem retireCrew (p : Nat) (s : State) (c : Nat) : Beside p s (s.retireCrew c) := by
  unfold State.retireCrew
  split
  · exact refl p s
  · next crew _ =>
    cases hcore : crew.core with
    | none => exact ite (fun _ => of_parties p rfl rfl rfl rfl) fun _ => onCrew p s _ _
    | some k =>
      have hlost := (of_parties p (onCore_mem s k _) (onCore_tags s k _) (onCore_reqs s k _) (onCore_parties s k _)).trans
        (foldl p (fun s (f : EngFault) => log p s f.cause.toNat crew.fe k (f.addr.setWidth 128))
          ((s.core k).faults.filter (fun (f : EngFault) => f.crew == c)) (s.onCore k (fun x => { (x.release c).tidy with
            faults := x.faults.filter (fun f => f.crew != c), idleSince := some s.now })))
      exact ite (fun _ => hlost.trans (of_parties p rfl rfl rfl rfl)) fun _ => hlost.trans (onCrew p _ _ _)

theorem barsAfterRetire (p : Nat) (s : State) (g q : Nat) : Beside p s (s.barsAfterRetire g q) := by
  unfold State.barsAfterRetire
  split
  · exact refl p s
  · exact onLaunch p s _ _

theorem retireParty (p : Nat) (s : State) : Beside p s (s.retireParty p) := by
  unfold State.retireParty
  split
  · exact refl p s
  · next x _ =>
    dsimp only
    have hdrop : Beside p s { s with
        parties := sdrop s.parties p
        sfus := s.sfus.filter (fun (e : Nat × SfuOp) => e.2.party != p)
        cur := if s.cur == some p then none else s.cur } :=
      ⟨rfl, rfl, rfl, fun q y hq h => ⟨y, (sfind_sdrop p q s.parties).trans ((if_neg hq).trans h), rfl⟩⟩
    have hgrid : ∀ t, Beside p s t → Beside p s (match x.grid with
        | none => t
        | some g => (t.onLaunch g (fun l => { l with alive := l.alive - 1 })).barsAfterRetire g p) := fun t ht => by
      split
      · exact ht
      · exact ht.trans ((onLaunch p _ _ _).trans (barsAfterRetire p _ _ _))
    have hlast := hgrid _ hdrop
    split
    · exact hlast
    · exact ite (fun _ => hlast.trans (retireCrew p _ _)) fun _ => hlast

theorem settle (p : Nat) (s : State) : Beside p s (s.settle p) := by
  unfold State.settle
  split
  · exact refl p s
  · exact ite (fun _ => retireParty p s) fun _ => setParty p s _

theorem finishGroupWith (p : Nat) (s : State) (kept : Option TrapReq) : Beside p s (s.finishGroupWith p kept) := by
  unfold State.finishGroupWith
  split
  · exact refl p s
  · next x _ =>
    have hcur : ∀ (t : State) (c : Prop) [Decidable c], Beside p s t → Beside p s (if c then { t with cur := none } else t) :=
      fun t c _ ht => ite (fun _ => ht.trans (withCur p t none)) fun _ => ht
    extract_lets m past stepTrap x' place next y s₁ s₂ single
    have hs₂ : Beside p s s₂ := hcur s₁ _ (((setParty p s y).trans (settle p _)).trans (wake p _))
    split
    · exact ite (fun _ => (hcur s₂ _ hs₂).trans (takeTrap p _ _)) fun _ => hs₂
    · exact hs₂

theorem groupDone (p : Nat) (s : State) : Beside p s (s.groupDone p) := by
  unfold State.groupDone
  split
  · exact refl p s
  · split
    · exact takeTrap p s _
    · exact setParty p s _
    · exact finishGroupWith p s none

end Beside

/-! ### Answers -/

/-- The requests of `t` are those of `s`, but for which groups hold them. -/
def SameReqs (s t : State) : Prop :=
  ∀ k, (sfind s.reqs k = none → sfind t.reqs k = none) ∧ ∀ q, sfind s.reqs k = some q → ∃ h, sfind t.reqs k = some { q with held := h }

theorem sfind_map {α : Type} (f : Nat → α → α) (m : Sparse α) (k : Nat) :
    sfind (m.map (fun e => (e.1, f e.1 e.2))) k = (sfind m k).map (f k) := by
  induction m with
  | nil => rfl
  | cons e m ih =>
    obtain ⟨j, v⟩ := e
    by_cases hj : j = k
    · subst hj
      simp [sfind]
    · simp [sfind, hj, ih]

theorem SameReqs.of_eq {s t : State} (h : t.reqs = s.reqs) : SameReqs s t := fun k => by
  rw [h]
  exact ⟨id, fun q hq => ⟨q.held, hq⟩⟩

theorem SameReqs.trans {s t u : State} (h : SameReqs s t) (h' : SameReqs t u) : SameReqs s u := fun k =>
  ⟨fun hn => (h' k).1 ((h k).1 hn), fun q hq => by
    obtain ⟨b, hb⟩ := (h k).2 q hq
    obtain ⟨b', hb'⟩ := (h' k).2 _ hb
    exact ⟨b', hb'⟩⟩

/-- A request that no group of a party holds any more. -/
def letGo (p : Nat) (q : Req) : Req := if q.party == p then { q with held := false } else q

theorem sfind_unhold (s : State) (p k : Nat) : sfind (s.unhold p).reqs k = (sfind s.reqs k).map (letGo p) := by
  have hmap : (s.unhold p).reqs = s.reqs.map (fun e => (e.1, letGo p e.2)) := by
    refine List.map_congr_left fun e _ => ?_
    unfold letGo
    split <;> rfl
  rw [hmap]
  exact sfind_map (fun _ => letGo p) s.reqs k

theorem sameReqs_unhold (s : State) (p : Nat) : SameReqs s (s.unhold p) := by
  intro k
  rw [sfind_unhold]
  refine ⟨fun h => by rw [h]; rfl, fun q hq => ?_⟩
  rw [hq, Option.map_some, letGo]
  split
  · exact ⟨false, rfl⟩
  · exact ⟨q.held, rfl⟩

/-- What an answer of a home leaves: memory, the records of regions, the requests but for who holds them, the parks of the other parties. -/
structure Answered (p : Nat) (s t : State) : Prop where
  mem : t.mem = s.mem
  tags : t.tags = s.tags
  reqs : SameReqs s t
  others : ∀ q x, q ≠ p → s.party? q = some x → ∃ y, t.party? q = some y ∧ y.park = x.park

theorem Beside.answered {p : Nat} {s t : State} (h : Beside p s t) : Answered p s t := ⟨h.mem, h.tags, .of_eq h.reqs, h.others⟩

theorem answered_unhold (p : Nat) (s : State) : Answered p s (s.unhold p) :=
  ⟨rfl, rfl, sameReqs_unhold s p, fun _ x _ h => ⟨x, h, rfl⟩⟩

theorem Answered.beside {p : Nat} {s t u : State} (h : Answered p s t) (h' : Beside p t u) : Answered p s u :=
  ⟨h'.mem.trans h.mem, h'.tags.trans h.tags, h.reqs.trans (.of_eq h'.reqs), fun q x hq hx => by
    obtain ⟨y, hy, hpark⟩ := h.others q x hq hx
    obtain ⟨z, hz, hpark'⟩ := h'.others q y hq hy
    exact ⟨z, hz, hpark'.trans hpark⟩⟩

/-- A group whose homes have found no fault is finished, parks, or waits on. -/
theorem answered_conclude {s : State} {p : Nat} (h : ∀ x, s.party? p = some x → x.homeFaults = []) : Answered p s (s.conclude p) := by
  unfold State.conclude
  split
  · exact (Beside.refl p s).answered
  · next x hx =>
    have hnone := h x hx
    split
    · exact (Beside.refl p s).answered
    · simp only [hnone, List.filter_nil, List.isEmpty_nil, Bool.not_true, Bool.false_eq_true, if_false]
      split
      · exact (Beside.setParty p s _).answered
      · exact (answered_unhold p s).beside (Beside.groupDone p _)

/-- A home answers a request whose group has no fault. -/
theorem answered_answer {s : State} {r : Req} (h : Unfaulted s r) : Answered r.party s (s.answer r []) := by
  unfold State.answer
  split
  · split
    · exact (Beside.refl _ s).answered
    · next x hx =>
      have hset := Beside.setParty r.party s { x with waitReqs := x.waitReqs - 1, homeFaults := x.homeFaults ++ [] }
      refine ⟨?_, ?_, ?_, ?_⟩
      all_goals
        have hconc := answered_conclude (s := s.setParty r.party { x with waitReqs := x.waitReqs - 1, homeFaults := x.homeFaults ++ [] })
          (p := r.party) (fun y hy => by
            rw [party?_setParty_same, Option.some.injEq] at hy
            rw [← hy, h x hx]; rfl)
      · exact hconc.mem
      · exact hconc.tags
      · exact (SameReqs.of_eq hset.reqs).trans hconc.reqs
      · intro q y hq hy
        obtain ⟨z, hz, hpark⟩ := hset.others q y hq hy
        obtain ⟨w, hw, hpark'⟩ := hconc.others q z hq hz
        exact ⟨w, hw, hpark'.trans hpark⟩
  · exact (Beside.refl _ s).answered

end Sys2Proof.Proofs
end

section
/-! PROOFS. The homes serve and refuse (R165 to R167, R170, R272, R295 to R297): O22 and O23. -/

namespace Sys2Proof.Proofs

open Sys2Proof Sys2Proof.Machine Sys2Proof.Says

/-! ### Bytes and numbers -/

/-- The bytes of one piece. -/
theorem bytesIn_cons (q : Nat × Nat) (ps : List (Nat × Nat)) : bytesIn (q :: ps) = (List.range q.2).map (q.1 + ·) ++ bytesIn ps := rfl

theorem mem_bytesIn {ps : List (Nat × Nat)} {a : Nat} : a ∈ bytesIn ps ↔ ∃ q ∈ ps, q.1 ≤ a ∧ a < q.1 + q.2 := by
  rw [bytesIn, List.mem_flatMap]
  refine exists_congr fun q => and_congr_right fun _ => ?_
  rw [List.mem_map]
  constructor
  · rintro ⟨k, hk, rfl⟩
    have := List.mem_range.1 hk
    omega
  · rintro ⟨hlo, hhi⟩
    exact ⟨a - q.1, List.mem_range.2 (by omega), by omega⟩

theorem littleEndian_append (as bs : List Byte) : littleEndian (as ++ bs) = littleEndian as + 256 ^ as.length * littleEndian bs := by
  induction as with
  | nil => simp [littleEndian]
  | cons a as ih =>
    have hcons : ∀ (b : Byte) l, littleEndian (b :: l) = b.toNat + 256 * littleEndian l := fun _ _ => rfl
    rw [List.cons_append, hcons, hcons, ih, List.length_cons, pow_succ]
    ring

/-- A read of `n` bytes is the little-endian number of them. -/
theorem loadN_eq_littleEndian (s : State) (a n : Nat) : s.loadN a n = littleEndian (((List.range n).map (a + ·)).map s.byteAt) := by
  induction n generalizing a with
  | zero => rfl
  | succ n ih =>
    rw [State.loadN, ih, List.range_succ_eq_map, List.map_cons, List.map_cons, List.map_map, List.map_map, List.map_map]
    have hshift : (s.byteAt ∘ (a + ·)) ∘ Nat.succ = s.byteAt ∘ (a + 1 + ·) := by
      funext k
      simp only [Function.comp_apply]
      rw [show a + k.succ = a + 1 + k by omega]
    rw [hshift]
    rfl

theorem loadPieces_eq_littleEndian (s : State) (ps : List (Nat × Nat)) : s.loadPieces ps = littleEndian ((bytesIn ps).map s.byteAt) := by
  induction ps with
  | nil => rfl
  | cons q ps ih =>
    obtain ⟨a, n⟩ := q
    rw [State.loadPieces, bytesIn_cons, List.map_append, littleEndian_append, ← loadN_eq_littleEndian, ih, List.length_map, List.length_map,
      List.length_range, show (2 : Nat) ^ (8 * n) = 256 ^ n by rw [pow_mul]; rfl]

/-- The bytes of pieces that do not meet hold the number, and no other byte changes. -/
theorem stored_storePieces (s : State) (v : Nat) (ps : List (Nat × Nat)) (hnd : (bytesIn ps).Nodup) :
    Stored s (bytesIn ps) v (s.storePieces v ps) := by
  induction ps generalizing s v with
  | nil => exact ⟨fun i a h => by simp [bytesIn] at h, fun _ _ => rfl⟩
  | cons q ps ih =>
    obtain ⟨a, n⟩ := q
    rw [bytesIn_cons] at hnd ⊢
    obtain ⟨-, hrest, hdisjoint⟩ := List.nodup_append.1 hnd
    obtain ⟨hin, hout⟩ := ih (s.storeN a (v % 2 ^ (8 * n)) n) (v / 2 ^ (8 * n)) hrest
    have hpow : (2 : Nat) ^ (8 * n) = 256 ^ n := by rw [pow_mul]; rfl
    have hfirst : ∀ b, b ∈ (List.range n).map (a + ·) ↔ a ≤ b ∧ b < a + n := fun b => by
      have := @mem_bytesIn [(a, n)] b
      simpa [bytesIn] using this
    refine ⟨fun i b hb => ?_, fun b hb => ?_⟩
    · by_cases hi : i < n
      · rw [List.getElem?_append_left (by simpa using hi)] at hb
        obtain rfl : a + i = b := by simpa [hi] using hb
        have hnot : a + i ∉ bytesIn ps := fun hm => hdisjoint _ ((hfirst _).2 ⟨by omega, by omega⟩) _ hm rfl
        rw [State.storePieces, hout _ hnot, storeN_byteAt, if_pos ⟨by omega, by omega⟩, Nat.add_sub_cancel_left, hpow]
        refine BitVec.eq_of_toNat_eq ?_
        rw [BitVec.toNat_ofNat, BitVec.toNat_ofNat]
        obtain ⟨k, rfl⟩ := Nat.exists_eq_add_of_lt hi
        rw [show i + k + 1 = i + (k + 1) by omega, pow_add, Nat.mod_mul_right_div_self, pow_succ, Nat.mod_mod_of_dvd]
        exact Dvd.intro_left _ rfl
      · rw [List.getElem?_append_right (by simpa using Nat.le_of_not_lt hi)] at hb
        rw [State.storePieces, hin _ _ hb, hpow, Nat.div_div_eq_div_mul, ← pow_add]
        simp only [List.length_map, List.length_range]
        rw [show n + (i - n) = i by omega]
    · rw [List.mem_append, not_or, hfirst] at hb
      rw [State.storePieces, hout b hb.2, storeN_byteAt, if_neg hb.1]

theorem storePieces_frame (s : State) (v : Nat) (ps : List (Nat × Nat)) :
    (s.storePieces v ps).reqs = s.reqs ∧ (s.storePieces v ps).tags = s.tags ∧ (s.storePieces v ps).parties = s.parties := by
  induction ps generalizing s v with
  | nil => exact ⟨rfl, rfl, rfl⟩
  | cons q ps ih => exact ih ..

/-! ### Acceptance (R272) -/

theorem unfaulted_of_parties {s t : State} {r : Req} (h : Unfaulted s r) (hp : t.parties = s.parties) : Unfaulted t r := fun x hx =>
  h x (by rw [State.party?, ← hp]; exact hx)

/-- A request that is accepted goes on in its phase; memory and the records stand. -/
theorem accept_spec {s : State} {n : Nat} {r : Req} (hn : sfind s.reqs n = some r) (hu : Unfaulted s r) (ph : Phase) :
    (s.accept n r ph).mem = s.mem ∧ (s.accept n r ph).tags = s.tags ∧ Goes s n r ph (s.accept n r ph) := by
  have hput : s.onReq n (fun q => { q with phase := ph }) = { s with reqs := sput s.reqs n { r with phase := ph } } := by
    rw [State.onReq, hn]
  have hanswer := answered_answer (s := { s with reqs := sput s.reqs n { r with phase := ph } }) (r := r) (unfaulted_of_parties hu rfl)
  rw [State.accept, hput]
  refine ⟨hanswer.mem, hanswer.tags, (hanswer.reqs n).2 _ (sfind_sput_same ..), fun k q hk hq => ?_⟩
  exact (hanswer.reqs k).2 q ((sfind_sput_ne _ _ hk).trans hq)

theorem goes_congr {s s' : State} {n : Nat} {r : Req} {ph : Phase} {t : State} (h : Goes s' n r ph t) (hreqs : s'.reqs = s.reqs) :
    Goes s n r ph t := ⟨h.1, fun k q hk hq => h.2 k q hk (by rw [hreqs]; exact hq)⟩

theorem goes_wake {s : State} {n : Nat} {r : Req} {ph : Phase} {t : State} (h : Goes s n r ph t) : Goes s n r ph t.wake := h

/-- Reading lines that hold no error. -/
theorem readLines_ok {s : State} (hinj : s.pkg.injarm.getLsbD 0 = false) (fe unit : Nat) {ls : List Nat}
    (hls : ∀ l ∈ ls, sget none s.mem.poison l = none ∧ sget false s.mem.badTag l = false ∧ sget false s.mem.badCells l = false) :
    s.readLines fe unit ls = (s, none) := by
  induction ls with
  | nil => rfl
  | cons l ls ih =>
    obtain ⟨⟨hpoison, htag, hcells⟩, hls⟩ := List.forall_mem_cons.1 hls
    have hline : s.readLine fe unit l = (s, none) := by
      simp only [State.readLine, hinj, Bool.false_and, Bool.false_eq_true, if_false, hpoison, htag, hcells, Option.isSome_none, ite_self]
    rw [State.readLines, hline]
    exact ih hls

/-- A request whose home finds nothing to refuse passes its checks. -/
theorem homeCheck_ok {s : State} {r : Req} (h : HomeOk s r) : s.homeCheck r = (s, none) := by
  obtain ⟨hpieces, hconflict, hinj⟩ := h
  have hmapped : r.pieces.any (fun q => s.unmapped q.1) = false := List.any_eq_false.2 fun q hq => by simp [(hpieces q hq).1]
  have hcounters : r.pieces.any (fun q => s.countersDone q.1) = false := List.any_eq_false.2 fun q hq => by simp [(hpieces q hq).2.2.2.2]
  have hlive : (if r.recorded then s.conflict r else none) = none := by
    split
    · next hr => exact (hconflict hr).1
    · rfl
  have hread : s.readLines r.fe r.lane (linesOf r.pieces) = (s, none) := readLines_ok hinj _ _ fun l hl => by
    obtain ⟨q, hq, rfl⟩ := List.mem_map.1 hl
    obtain ⟨-, hpoison, htag, hcells, -⟩ := hpieces q hq
    exact ⟨hpoison, htag, hcells⟩
  simp only [State.homeCheck, hmapped, hlive, hread, hcounters, ite_self, Bool.and_false, Bool.false_eq_true, if_false]

/-- The kinds that a home itself serves: no Steward's, no Coach's, and no copy of a line. -/
def Served (r : Req) : Prop := (∀ op h w, r.kind ≠ .agent op h w) ∧ (∀ a, r.kind ≠ .emit a) ∧ r.kind ≠ .rcLoad

theorem isEnd_of_served {r : Req} (h : Served r) : r.isEnd = false := by
  unfold Req.isEnd
  split
  · next hk => exact absurd hk (h.1 _ _ _)
  · rfl

/-- The step of a home for a request that is its to serve. -/
theorem homeAcceptance_served {s : State} {n : Nat} {r : Req} (hat : AtHome s n r) (hk : Served r)
    (hfits : r.recorded = true → s.conflict r = none → s.tagFull r = false) :
    exec (.homeAcceptance n) s = .next (match s.homeCheck r with
      | (s, some (c, i)) => s.refuse n r c i
      | (s, none) => s.perform n r ((r.pieces.headD (0, 0)).1)).wake := by
  obtain ⟨hn, hphase, hfirst⟩ := hat
  have hready : (r.phase != .sent || r.isEnd || !s.firstAtHome n r) = false := by
    rw [hphase, isEnd_of_served hk, hfirst]
    rfl
  have hroom : (r.recorded && (s.conflict r).isNone && s.tagFull r) = false := by
    by_cases hr : r.recorded = true
    · by_cases hc : s.conflict r = none
      · simp [hfits hr hc]
      · obtain ⟨i, hi⟩ := Option.ne_none_iff_exists'.1 hc
        simp [hi]
    · simp [hr]
  rw [exec_homeAcceptance, execHomeAcceptance, hn]
  refine congrArg State.event ?_
  dsimp only
  rw [hready, if_neg Bool.false_ne_true]
  split
  · next hkind => exact absurd hkind (hk.1 _ _ _)
  · next hkind => exact absurd hkind (hk.2.1 _)
  · next hkind => exact absurd hkind hk.2.2
  · exact (if_neg (ne_true_of_eq_false hroom)).trans rfl

/-- Nothing to refuse: the request is performed. -/
theorem homeAcceptance_ok {s : State} {n : Nat} {r : Req} (hat : AtHome s n r) (hok : HomeOk s r) (hk : Served r) :
    exec (.homeAcceptance n) s = .next (s.perform n r ((r.pieces.headD (0, 0)).1)).wake := by
  rw [homeAcceptance_served hat hk fun hr _ => (hok.2.1 hr).2, homeCheck_ok hok]

/-! ### The records of regions (R295) -/

/-- A record covers a granule for the regions of a request. -/
def Covers (r : Req) (g : Nat) (t : Tag) : Prop :=
  t.granule = g ∧ t.party = r.party ∧ t.owners = r.owners ∧ (if r.writes then t.w else t.r) = true

theorem same_iff (t : Tag) (r : Req) (g : Nat) : t.same r g = true ↔ t.granule = g ∧ t.party = r.party ∧ t.owners = r.owners := by
  simp [Tag.same, and_assoc]

/-- After an access is recorded its granule is covered, and what was covered stays so. -/
theorem recordTag_covers (r : Req) (g : Nat) (ts : List Tag) :
    (∃ t ∈ recordTag r g ts, Covers r g t) ∧ ∀ h, (∃ t ∈ ts, Covers r h t) → ∃ t ∈ recordTag r g ts, Covers r h t := by
  induction ts with
  | nil =>
    refine ⟨⟨_, List.mem_singleton_self _, rfl, rfl, rfl, ?_⟩, fun h ⟨t, ht, _⟩ => absurd ht List.not_mem_nil⟩
    cases r.writes <;> rfl
  | cons t ts ih =>
    by_cases hsame : t.same r g = true
    · rw [recordTag, if_pos hsame]
      obtain ⟨hg, hp, ho⟩ := (same_iff t r g).1 hsame
      refine ⟨⟨_, List.mem_cons_self, hg, hp, ho, ?_⟩, fun h ⟨u, hu, hcov⟩ => ?_⟩
      · cases r.writes <;> simp
      · rcases List.mem_cons.1 hu with rfl | hu
        · obtain ⟨hg', hp', ho', hrw⟩ := hcov
          refine ⟨_, List.mem_cons_self, hg', hp', ho', ?_⟩
          cases hw : r.writes <;> simp [hw] at hrw ⊢
        · exact ⟨u, List.mem_cons_of_mem _ hu, hcov⟩
    · rw [recordTag, if_neg hsame]
      obtain ⟨⟨u, hu, hcov⟩, hold⟩ := ih
      refine ⟨⟨u, List.mem_cons_of_mem _ hu, hcov⟩, fun h ⟨v, hv, hcov'⟩ => ?_⟩
      rcases List.mem_cons.1 hv with rfl | hv
      · exact ⟨v, List.mem_cons_self, hcov'⟩
      · obtain ⟨w, hw, hcov''⟩ := hold h ⟨v, hv, hcov'⟩
        exact ⟨w, List.mem_cons_of_mem _ hw, hcov''⟩

theorem foldl_recordTag_covers (r : Req) (gs : List Nat) (ts : List Tag) :
    ∀ g, (g ∈ gs ∨ ∃ t ∈ ts, Covers r g t) → ∃ t ∈ gs.foldl (fun ts g => recordTag r g ts) ts, Covers r g t := by
  induction gs generalizing ts with
  | nil => exact fun g h => h.resolve_left List.not_mem_nil
  | cons g₀ gs ih =>
    obtain ⟨hnew, hold⟩ := recordTag_covers r g₀ ts
    intro g h
    refine ih _ g ?_
    rcases h with h | h
    · rcases List.mem_cons.1 h with rfl | h
      · exact .inr hnew
      · exact .inl h
    · exact .inr (hold g h)

/-- Every byte of a piece lies in one of its granules. -/
theorem granule_mem_granulesOf {ps : List (Nat × Nat)} {a : Nat} (ha : a ∈ bytesIn ps) : a / 4 ∈ granulesOf ps := by
  obtain ⟨q, hq, hlo, hhi⟩ := mem_bytesIn.1 ha
  refine List.mem_flatMap.2 ⟨q, hq, List.mem_map.2 ⟨a / 4 - q.1 / 4, List.mem_range.2 ?_, ?_⟩⟩ <;> omega

/-- A granule of pieces that are not empty holds one of their bytes. -/
theorem exists_byte_of_granule {ps : List (Nat × Nat)} (hps : ∀ q ∈ ps, 0 < q.2) {g : Nat} (hg : g ∈ granulesOf ps) :
    ∃ a ∈ bytesIn ps, a / 4 = g := by
  obtain ⟨q, hq, hg⟩ := List.mem_flatMap.1 hg
  obtain ⟨k, hk, rfl⟩ := List.mem_map.1 hg
  have hk := List.mem_range.1 hk
  have hpos := hps q hq
  exact ⟨max q.1 (4 * (q.1 / 4 + k)), mem_bytesIn.2 ⟨q, hq, by omega, by omega⟩, by omega⟩

theorem recorded_record {s : State} {r : Req} (hr : r.recorded = true) {t : State} (ht : t.tags = (s.record r).tags) : Recorded r t := by
  intro a ha
  rw [ht, State.record, if_pos hr]
  exact foldl_recordTag_covers r _ _ _ (.inl (granule_mem_granulesOf ha))

theorem record_frame (s : State) (r : Req) : (s.record r).mem = s.mem ∧ (s.record r).reqs = s.reqs ∧ (s.record r).parties = s.parties := by
  unfold State.record
  split <;> exact ⟨rfl, rfl, rfl⟩

/-! ### Loads and stores (R165 to R167, R170) -/

theorem sxInt_eq (w v : Nat) : sxInt w v = (BitVec.ofNat w v).toInt := by
  rw [BitVec.toInt_eq_toNat_cond, BitVec.toNat_ofNat, sxInt]
  by_cases hw : w = 0
  · subst hw
    simp [Nat.mod_one]
  · obtain ⟨k, rfl⟩ := Nat.exists_eq_succ_of_ne_zero hw
    have hpow : 2 ^ (k + 1) = 2 * 2 ^ k := by rw [pow_succ, Nat.mul_comm]
    rw [Nat.succ_eq_add_one, Nat.add_sub_cancel]
    by_cases hlt : v % 2 ^ (k + 1) < 2 ^ k
    · rw [if_pos hlt, if_pos (by omega)]
    · rw [if_neg hlt, if_neg (by omega)]

theorem extendLoad_eq (size : Nat) (sx : Bool) (v : Nat) :
    extendLoad size sx v = if sx then ((BitVec.ofNat (8 * size) v).signExtend 64).toNat else v := by
  rw [extendLoad, sxInt_eq]
  rfl

theorem served_of_recorded {r : Req} (h : r.recorded = true) : Served r := by
  rw [Req.recorded, Bool.and_eq_true] at h
  refine ⟨fun op hd w hk => ?_, fun a hk => ?_, fun hk => ?_⟩ <;> simp [hk] at h

theorem homeServesLoad {s : State} {n : Nat} {r : Req} {size : Nat} {sx : Bool} (hat : AtHome s n r) (hok : HomeOk s r) (hu : Unfaulted s r)
    (hkind : r.kind = .load size sx) (hwin : r.win = false) :
    let v := littleEndian ((bytesIn r.pieces).map s.byteAt)
    ∃ t, exec (.homeAcceptance n) s = .next t ∧ t.mem = s.mem ∧ Recorded r t ∧
      Goes s n r (.reply (if sx then ((BitVec.ofNat (8 * size) v).signExtend 64).toNat else v)) t := by
  intro v
  have hr : r.recorded = true := by simp [Req.recorded, hwin, hkind]
  obtain ⟨hmem, hreqs, hparties⟩ := record_frame s r
  have hperform : s.perform n r ((r.pieces.headD (0, 0)).1) = (s.record r).accept n r (.reply (extendLoad size sx v)) := by
    have hread : s.readFor r = v := by
      rw [State.readFor, hwin, if_neg Bool.false_ne_true, loadPieces_eq_littleEndian]
    rw [State.perform, hkind, ← hread]
  obtain ⟨hmem', htags', hgoes⟩ := accept_spec (s := s.record r) (n := n) (r := r) (by rw [hreqs]; exact hat.1)
    (unfaulted_of_parties hu hparties) (.reply (extendLoad size sx v))
  refine ⟨_, homeAcceptance_ok hat hok (served_of_recorded hr), ?_, ?_, ?_⟩
  · rw [hperform, wake_mem, hmem', hmem]
  · rw [hperform]
    exact recorded_record hr htags'
  · rw [hperform, ← extendLoad_eq]
    exact goes_wake (goes_congr hgoes hreqs)

theorem homeServesStore {s : State} {n : Nat} {r : Req} {size data : Nat} (hat : AtHome s n r) (hok : HomeOk s r) (hu : Unfaulted s r)
    (hkind : r.kind = .store size data) (hwin : r.win = false) (hnd : (bytesIn r.pieces).Nodup) :
    ∃ t, exec (.homeAcceptance n) s = .next t ∧ Stored s (bytesIn r.pieces) data t ∧ Recorded r t ∧ Goes s n r .unacked t := by
  have hr : r.recorded = true := by simp [Req.recorded, hwin, hkind]
  obtain ⟨hmem, hreqs, hparties⟩ := record_frame s r
  obtain ⟨hreqs', htags', hparties'⟩ := storePieces_frame (s.record r) data r.pieces
  have hperform : s.perform n r ((r.pieces.headD (0, 0)).1) = ((s.record r).storePieces data r.pieces).accept n r .unacked := by
    simp only [State.perform, hkind, hwin, Bool.false_eq_true, if_false]
  obtain ⟨hmem'', htags'', hgoes⟩ := accept_spec (s := (s.record r).storePieces data r.pieces) (n := n) (r := r)
    (by rw [hreqs', hreqs]; exact hat.1) (unfaulted_of_parties hu (hparties'.trans hparties)) .unacked
  obtain ⟨hin, hout⟩ := stored_storePieces (s.record r) data r.pieces hnd
  have hbyte : ∀ a, (((s.record r).storePieces data r.pieces).accept n r .unacked).wake.byteAt a =
      ((s.record r).storePieces data r.pieces).byteAt a := fun a => by rw [State.byteAt, wake_mem, hmem'']; rfl
  refine ⟨_, homeAcceptance_ok hat hok (served_of_recorded hr), ?_, ?_, ?_⟩
  · rw [hperform]
    refine ⟨fun i a ha => (hbyte a).trans (hin i a ha), fun a ha => (hbyte a).trans ((hout a ha).trans ?_)⟩
    rw [State.byteAt, hmem]
    rfl
  · rw [hperform]
    exact recorded_record hr (htags''.trans htags')
  · rw [hperform]
    exact goes_wake (goes_congr hgoes (hreqs'.trans hreqs))

/-- The number that a copied line gives for the word at an address. -/
def lineWord (pa : Nat) (bs : List Byte) : Nat := littleEndian ((bs.drop (pa % 64)).take 4)

/-- A party that keeps a copy of a line (R170). -/
def keepLine (line : Nat) (bs : List Byte) (x : Party) : Party := { x with rcCopies := sput x.rcCopies line bs }

/-- The bytes of a line. -/
def lineBytes (s : State) (line : Nat) : List Byte := (List.range 64).map (fun k => s.byteAt (64 * line + k))

theorem lineWord_of_memory (s : State) {pa : Nat} (hpa : pa % 4 = 0) :
    lineWord pa (lineBytes s (pa / 64)) = littleEndian ((bytesIn [(pa, 4)]).map s.byteAt) := by
  have hbytes : (((List.range 64).map (fun k => s.byteAt (64 * (pa / 64) + k))).drop (pa % 64)).take 4 =
      ((List.range 4).map (pa + ·)).map s.byteAt := by
    refine List.ext_getElem (by simp; omega) fun i hi _ => ?_
    simp only [List.getElem_take, List.getElem_drop, List.getElem_map, List.getElem_range]
    rw [show 64 * (pa / 64) + (pa % 64 + i) = pa + i by omega]
  rw [lineWord, lineBytes, hbytes]
  simp [bytesIn]

theorem homeCheck_freeWord {s : State} {r : Req} (h : HomeOk s r) : s.freeWord.2.homeCheck r = (s.freeWord.2, none) := homeCheck_ok h

/-- `ld.rc` answers from the party's copy, or fetches the line and keeps it. -/
theorem acceptRc_cases {s : State} {r : Req} (h : HomeOk s r) (n pa : Nat) :
    (∃ bs, s.copyOf r (pa / 64) = some bs ∧ s.acceptRc n r pa = s.freeWord.2.accept n r (.reply (lineWord pa bs))) ∨
    s.acceptRc n r pa = (s.freeWord.2.onParty r.party (keepLine (pa / 64) (lineBytes s (pa / 64)))).accept n r
      (.reply (lineWord pa (lineBytes s (pa / 64)))) := by
  cases hcopy : s.copyOf r (pa / 64) with
  | none =>
    refine .inr ?_
    simp only [State.acceptRc, hcopy, homeCheck_freeWord h]
    rfl
  | some bs =>
    cases hbit : s.freeWord.1.getLsbD 0 with
    | false =>
      refine .inr ?_
      simp only [State.acceptRc, hcopy, hbit, homeCheck_freeWord h]
      rfl
    | true =>
      refine .inl ⟨bs, rfl, ?_⟩
      simp only [State.acceptRc, hcopy, hbit]
      rfl

theorem exists_of_copyOf {s : State} {r : Req} {line : Nat} {bs : List Byte} (h : s.copyOf r line = some bs) :
    ∃ x, s.party? r.party = some x ∧ sfind x.rcCopies line = some bs := by
  unfold State.copyOf at h
  split at h
  · next x hx => exact ⟨x, hx, h⟩
  · cases h

theorem unfaulted_onParty {s : State} {r : Req} (h : Unfaulted s r) {f : Party → Party} (hf : ∀ x, (f x).homeFaults = x.homeFaults) :
    Unfaulted (s.onParty r.party f) r := by
  intro y hy
  cases hx : s.party? r.party with
  | none =>
    have : s.onParty r.party f = s := by rw [State.onParty, hx]
    rw [this, hx] at hy
    cases hy
  | some x =>
    rw [onParty_of_some hx, party?_setParty_same, Option.some.injEq] at hy
    rw [← hy, hf, h x hx]

theorem homeAcceptance_rcLoad {s : State} {n : Nat} {r : Req} (hat : AtHome s n r) (hkind : r.kind = .rcLoad) :
    exec (.homeAcceptance n) s = .next (s.acceptRc n r ((r.pieces.headD (0, 0)).1)).wake := by
  obtain ⟨hn, hphase, hfirst⟩ := hat
  have hready : (r.phase != .sent || r.isEnd || !s.firstAtHome n r) = false := by
    rw [hphase, hfirst, Req.isEnd, hkind]
    rfl
  rw [exec_homeAcceptance, execHomeAcceptance, hn]
  refine congrArg State.event ?_
  simp only [hready, Bool.false_eq_true, if_false, hkind]

theorem homeServesRc {s : State} {n : Nat} {r : Req} {pa k : Nat} (hat : AtHome s n r) (hok : HomeOk s r) (hu : Unfaulted s r)
    (hkind : r.kind = .rcLoad) (hpieces : r.pieces = [(pa, k)]) (hpa : pa % 4 = 0) :
    ∃ t v, exec (.homeAcceptance n) s = .next t ∧ t.mem = s.mem ∧ Goes s n r (.reply v) t ∧
      (v = littleEndian ((bytesIn [(pa, 4)]).map s.byteAt) ∨
        ∃ x bs, s.party? r.party = some x ∧ sfind x.rcCopies (pa / 64) = some bs ∧ v = littleEndian ((bs.drop (pa % 64)).take 4)) := by
  have hexec := homeAcceptance_rcLoad hat hkind
  rw [hpieces] at hexec
  rcases acceptRc_cases hok n pa with ⟨bs, hcopy, hacc⟩ | hacc
  · obtain ⟨hmem, -, hgoes⟩ := accept_spec (s := s.freeWord.2) hat.1 hu (.reply (lineWord pa bs))
    obtain ⟨x, hx, hbs⟩ := exists_of_copyOf hcopy
    exact ⟨_, _, hexec.trans (congrArg (fun t => Host.Outcome.next (State.wake t)) hacc), hmem, hgoes, .inr ⟨x, bs, hx, hbs, rfl⟩⟩
  · obtain ⟨hmem, -, hgoes⟩ := accept_spec (s := s.freeWord.2.onParty r.party (keepLine (pa / 64) (lineBytes s (pa / 64)))) (n := n)
      (r := r) (by rw [onParty_reqs]; exact hat.1) (unfaulted_onParty (s := s.freeWord.2) hu fun _ => rfl)
      (.reply (lineWord pa (lineBytes s (pa / 64))))
    refine ⟨_, _, hexec.trans (congrArg (fun t => Host.Outcome.next (State.wake t)) hacc), ?_, goes_congr hgoes (onParty_reqs ..),
      .inl (lineWord_of_memory s hpa)⟩
    rw [wake_mem, hmem, onParty_mem]
    rfl

/-- Settles O22: a home reads or writes exactly the request's bytes, and records the access. -/
theorem homesServeLoadsAndStores : Obligations.HomesServeLoadsAndStores :=
  ⟨fun _ _ _ _ _ hat hok hu hkind hwin => homeServesLoad hat hok hu hkind hwin,
    fun _ _ _ _ _ hat hok hu hkind hpieces hpa => homeServesRc hat hok hu hkind hpieces hpa,
    fun _ _ _ _ _ hat hok hu hkind hwin hnd => homeServesStore hat hok hu hkind hwin hnd⟩

end Sys2Proof.Proofs
end

section
/-! PROOFS. What a home refuses, before any effect (R272, R295, R296, R361, R364): O23. -/

namespace Sys2Proof.Proofs

open Sys2Proof Sys2Proof.Machine Sys2Proof.Says

/-! ### A group that ends with a fault -/

/-- Memory stands, and no request comes up that was not there. -/
structure Drops (s t : State) : Prop where
  mem : t.mem = s.mem
  reqs : ∀ k, sfind s.reqs k = none → sfind t.reqs k = none

theorem Drops.trans {s t u : State} (h : Drops s t) (h' : Drops t u) : Drops s u := ⟨h'.mem.trans h.mem, fun k hk => h'.reqs k (h.reqs k hk)⟩

theorem Drops.refl (s : State) : Drops s s := ⟨rfl, fun _ h => h⟩

theorem Beside.drops {p : Nat} {s t : State} (h : Beside p s t) : Drops s t := ⟨h.mem, fun k hk => by rw [h.reqs]; exact hk⟩

theorem drops_unhold (s : State) (p : Nat) : Drops s (s.unhold p) := ⟨rfl, fun k hk => (sameReqs_unhold s p k).1 hk⟩

theorem sfind_filter_none {α : Type} (q : Nat × α → Bool) {m : Sparse α} {k : Nat} (h : sfind m k = none) : sfind (m.filter q) k = none := by
  induction m with
  | nil => rfl
  | cons e m ih =>
    obtain ⟨j, v⟩ := e
    have hj : j ≠ k := fun hj => by simp [sfind, hj] at h
    have hrest : sfind m k = none := by simpa [sfind, hj] using h
    by_cases hq : q (j, v) = true
    · rw [List.filter_cons_of_pos hq]
      simpa [sfind, hj] using ih hrest
    · rw [List.filter_cons_of_neg hq]
      exact ih hrest

theorem sfind_mapEntries_none {α : Type} {f : Nat × α → Nat × α} (hf : ∀ e, (f e).1 = e.1) {m : Sparse α} {k : Nat} (h : sfind m k = none) :
    sfind (m.map f) k = none := by
  induction m with
  | nil => rfl
  | cons e m ih =>
    obtain ⟨j, v⟩ := e
    have hj : j ≠ k := fun hj => by simp [sfind, hj] at h
    have hrest : sfind m k = none := by simpa [sfind, hj] using h
    have hkey := hf (j, v)
    rw [List.map_cons]
    generalize f (j, v) = e' at hkey
    obtain ⟨j', v'⟩ := e'
    obtain rfl : j' = j := hkey
    simpa [sfind, hj] using ih hrest

theorem drops_discardResults (s : State) (p : Nat) : Drops s (s.discardResults p) := by
  have hreqs : ∀ k, sfind s.reqs k = none → sfind (s.discardResults p).reqs k = none := fun k hk => by
    unfold State.discardResults
    dsimp only
    have hkept := sfind_mapEntries_none (f := fun (e : Nat × Req) =>
      if e.2.party == p then (e.1, { e.2 with dest := .none, flag := none, held := false }) else e)
      (fun e => by split <;> rfl) (sfind_filter_none (fun (e : Nat × Req) =>
        !(e.2.party == p && (match e.2.phase with | .reply _ => true | _ => false))) hk)
    split
    · exact hkept
    · exact hkept
  refine ⟨?_, hreqs⟩
  unfold State.discardResults
  dsimp only
  split <;> rfl

theorem drops_consumeError (s : State) (p : Nat) (c : BitVec 6) (r : TrapReq) : Drops s (s.consumeError p c r) := by
  unfold State.consumeError
  split
  · exact .refl s
  · next x _ =>
    split
    · exact (Beside.takeTrap p s r).drops
    · split
      · exact (Beside.setParty p s _).drops.trans (Beside.takeTrap p _ _).drops
      · exact (drops_discardResults s p).trans (Beside.onParty p _ _).drops

theorem drops_conclude (s : State) (p : Nat) : Drops s (s.conclude p) := by
  unfold State.conclude
  split
  · exact .refl s
  · next x _ =>
    split
    · exact .refl s
    · dsimp only
      split
      · split
        · exact (drops_unhold s p).trans (Beside.finishGroupWith p _ _).drops
        · split
          · exact (Beside.setParty p s _).drops
          · exact (drops_unhold s p).trans (Beside.groupDone p _).drops
      · split
        · exact (drops_unhold s p).trans ((Beside.setParty p _ _).drops.trans (drops_consumeError _ _ _ _))
        · exact (drops_unhold s p).trans ((Beside.setParty p _ _).drops.trans (Beside.takeTrap p _ _).drops)

theorem drops_answer (s : State) (r : Req) (fs : List HomeFault) : Drops s (s.answer r fs) := by
  unfold State.answer
  split
  · split
    · exact .refl s
    · exact (Beside.setParty _ s _).drops.trans (drops_conclude _ _)
  · exact .refl s

/-- The faults of the threads that a refused request serves. -/
def refusals (x : Party) (r : Req) (c : BitVec 6) (info : DWord) : List HomeFault :=
  (if r.uniform then threadsOf x.width x.pos.m0 else [r.thread]).map (fun u => ⟨u, c, r.va, info, false⟩)

/-- The party of a refused request: its flag counts one operation less. -/
def refusedParty (r : Req) (x : Party) : Party := match r.flag with | some k => x.doneFlag k 1 | none => x

theorem refuse_of_party {s : State} {r : Req} {x : Party} (hx : s.party? r.party = some x) (n : Nat) (c : BitVec 6) (info : DWord) :
    s.refuse n r c info = ((s.dropReq n).setParty r.party (refusedParty r x)).answer r (refusals x r c info) := by
  have hx' : (s.dropReq n).party? r.party = some x := hx
  have hfaults : (if r.uniform then threadsOf (refusedParty r x).width (refusedParty r x).pos.m0 else [r.thread]).map
      (fun t => { r.fault c info false with thread := t }) = refusals x r c info := by
    unfold refusedParty refusals
    cases r.flag <;> rfl
  rw [State.refuse, hx', ← hfaults]
  rfl

theorem refuse_drops (s : State) (n : Nat) (r : Req) (c : BitVec 6) (info : DWord) : Drops (s.dropReq n) (s.refuse n r c info) := by
  cases hx : s.party? r.party with
  | none =>
    have hx' : (s.dropReq n).party? r.party = none := hx
    rw [State.refuse, hx']
    exact .refl _
  | some x =>
    rw [refuse_of_party hx]
    exact (Beside.setParty r.party _ _).drops.trans (drops_answer _ _ _)

/-- While other requests of the group are open, the faults stand with the party. -/
theorem refuse_waits {s : State} {r : Req} {x : Party} (hx : s.party? r.party = some x) (hheld : r.held = true) (hwait : 1 < x.waitReqs)
    (n : Nat) (c : BitVec 6) (info : DWord) : ∃ y, (s.refuse n r c info).party? r.party = some y ∧ y.waitReqs = x.waitReqs - 1 ∧
      y.homeFaults = x.homeFaults ++ refusals x r c info := by
  have hwaits : (refusedParty r x).waitReqs = x.waitReqs := by unfold refusedParty; cases r.flag <;> rfl
  have hfaults : (refusedParty r x).homeFaults = x.homeFaults := by unfold refusedParty; cases r.flag <;> rfl
  rw [refuse_of_party hx, State.answer, if_pos hheld, party?_setParty_same]
  dsimp only
  rw [State.conclude, party?_setParty_same]
  dsimp only
  rw [if_pos (by rw [hwaits, bne_iff_ne]; omega)]
  exact ⟨_, party?_setParty_same .., by rw [← hwaits], by rw [← hfaults]⟩

theorem refused_refuse (s : State) (n : Nat) (r : Req) (c : BitVec 6) (info : DWord) : Refused s n r c info (s.refuse n r c info).wake := by
  have hdrops := refuse_drops s n r c info
  refine ⟨rfl, hdrops.mem, hdrops.reqs n (sfind_sdrop_same n s.reqs), fun x hx hheld hwait => ?_⟩
  obtain ⟨y, hy, hwaits, hfaults⟩ := refuse_waits hx hheld hwait n c info
  exact ⟨{ y with hold := false }, by rw [wake_party?, hy]; rfl, hwaits, hfaults⟩

/-- A home's check that fails refuses the request. -/
theorem homeAcceptance_refused {s : State} {n : Nat} {r : Req} (hat : AtHome s n r) (hk : Served r)
    (hfits : r.recorded = true → s.conflict r = none → s.tagFull r = false) {c : BitVec 6} {info : DWord}
    (hcheck : s.homeCheck r = (s, some (c, info))) : ∃ t, exec (.homeAcceptance n) s = .next t ∧ Refused s n r c info t := by
  refine ⟨_, homeAcceptance_served hat hk hfits, ?_⟩
  rw [hcheck]
  exact refused_refuse s n r c info

/-! ### Conflicts (R295, R296) -/

theorem sameThread_iff (g : Tag) (r : Req) :
    (g.party == r.party && g.owners.any (fun o => r.owners.any (fun q => q.1 == o.1))) = true ↔
      g.party = r.party ∧ ∃ o ∈ g.owners, ∃ q ∈ r.owners, q.1 = o.1 := by
  simp [List.any_eq_true]

/-- A record conflicts, in its owners, when the model's test says so. -/
theorem conflicting_iff {s : State} {r : Req} (hpos : ∀ q ∈ r.pieces, 0 < q.2) (g : Tag) : Conflicting s r g ↔
    g ∈ s.tags ∧ g.conflicts r (granulesOf r.pieces) = true ∧ g.owners ≠ [] := by
  have hgranule : (∃ a ∈ bytesIn r.pieces, a / 4 = g.granule) ↔ g.granule ∈ granulesOf r.pieces := by
    constructor
    · rintro ⟨a, ha, hg⟩
      exact hg ▸ granule_mem_granulesOf ha
    · exact exists_byte_of_granule hpos
  rw [Conflicting, hgranule, Tag.conflicts, Bool.and_eq_true, Bool.and_eq_true, Bool.not_eq_true', ← Bool.not_eq_true, sameThread_iff,
    Bool.or_eq_true, List.contains_iff_mem]
  tauto

/-- The live accesses that conflict with a request, as they are named. -/
def liveAccesses (s : State) (r : Req) : List (Nat × Nat × Bool) :=
  (s.tags.filter (fun g => g.conflicts r (granulesOf r.pieces))).flatMap (fun g => g.owners.map (fun o => (g.lane, o.1, g.w)))

theorem mem_liveAccesses {s : State} {r : Req} {e : Nat × Nat × Bool} : e ∈ liveAccesses s r ↔
    ∃ g, g ∈ s.tags ∧ g.conflicts r (granulesOf r.pieces) = true ∧ ∃ o ∈ g.owners, e = (g.lane, o.1, g.w) := by
  simp only [liveAccesses, List.mem_flatMap, List.mem_filter, List.mem_map, and_assoc, eq_comm]

theorem conflict_eq (s : State) (r : Req) : s.conflict r = match liveAccesses s r with
    | [] => none
    | a :: as => some (BitVec.ofNat 64 ((as.foldl lowerAccess a).1 % 2 ^ 16 + (as.foldl lowerAccess a).2.1 * 2 ^ 16 +
        (if (as.foldl lowerAccess a).2.2 then 2 ^ 22 else 0))) := rfl

theorem foldl_lowerAccess_mem (as : List (Nat × Nat × Bool)) (a : Nat × Nat × Bool) : as.foldl lowerAccess a ∈ a :: as := by
  induction as generalizing a with
  | nil => exact List.mem_singleton_self a
  | cons b as ih =>
    rw [List.foldl_cons]
    have hlow : lowerAccess a b = a ∨ lowerAccess a b = b := by
      unfold lowerAccess
      split
      · exact .inl rfl
      · exact .inr rfl
    rcases List.mem_cons.1 (ih (lowerAccess a b)) with h | h
    · rw [h]
      rcases hlow with hlow | hlow <;> simp [hlow]
    · exact List.mem_cons_of_mem _ (List.mem_cons_of_mem _ h)

/-- Without a conflicting record no conflict is found. -/
theorem conflict_none {s : State} {r : Req} (hpos : ∀ q ∈ r.pieces, 0 < q.2) (h : ¬ ∃ g, Conflicting s r g) : s.conflict r = none := by
  have hnil : liveAccesses s r = [] := List.eq_nil_iff_forall_not_mem.2 fun e he => by
    obtain ⟨g, hg, hconf, o, ho, -⟩ := mem_liveAccesses.1 he
    exact h ⟨g, (conflicting_iff hpos g).2 ⟨hg, hconf, List.ne_nil_of_mem ho⟩⟩
  rw [conflict_eq, hnil]

/-- With one, the access that is named is that of a conflicting record. -/
theorem conflict_some {s : State} {r : Req} (hpos : ∀ q ∈ r.pieces, 0 < q.2) (h : ∃ g, Conflicting s r g) :
    ∃ i, s.conflict r = some i ∧ ∃ g o, Conflicting s r g ∧ o ∈ g.owners ∧
      i = BitVec.ofNat 64 (g.lane % 2 ^ 16 + o.1 * 2 ^ 16 + if g.w then 2 ^ 22 else 0) := by
  obtain ⟨g, hg⟩ := h
  obtain ⟨hmem, hconf, hne⟩ := (conflicting_iff hpos g).1 hg
  obtain ⟨o, ho⟩ := List.exists_mem_of_ne_nil _ hne
  have hlive : (g.lane, o.1, g.w) ∈ liveAccesses s r := mem_liveAccesses.2 ⟨g, hmem, hconf, o, ho, rfl⟩
  obtain ⟨a, as, has⟩ := List.exists_cons_of_ne_nil (List.ne_nil_of_mem hlive)
  obtain ⟨g', hg', hconf', o', ho', heq⟩ := mem_liveAccesses.1 (has ▸ foldl_lowerAccess_mem as a)
  rw [conflict_eq, has]
  refine ⟨_, rfl, g', o', (conflicting_iff hpos g').2 ⟨hg', hconf', List.ne_nil_of_mem ho'⟩, ho', ?_⟩
  rw [heq]

/-- Settles O23: each of the checks that fails refuses the request before it is performed. -/
theorem conflictsAreRefused : Obligations.ConflictsAreRefused := by
  refine ⟨fun s n r hat hagent hemit hrc hmissing hfits => ?_, fun s n r hat hr hpieces hconf => ?_, fun s r hpos hnone => conflict_none hpos hnone,
    fun s n r hn hphase hremote hlate => ?_⟩
  · have hany : r.pieces.any (fun q => s.unmapped q.1) = true := List.any_eq_true.2 hmissing
    exact homeAcceptance_refused hat ⟨hagent, hemit, hrc⟩ hfits (by simp only [State.homeCheck, hany, if_true])
  · obtain ⟨i, hi, hg⟩ := conflict_some (fun q hq => (hpieces q hq).2) hconf
    have hany : r.pieces.any (fun q => s.unmapped q.1) = false := List.any_eq_false.2 fun q hq => by simp [(hpieces q hq).1]
    obtain ⟨t, hexec, hrefused⟩ := homeAcceptance_refused hat (served_of_recorded hr) (fun _ hno => by simp [hi] at hno)
      (c := 0x16) (info := i) (by simp only [State.homeCheck, hany, Bool.false_eq_true, if_false, hr, if_true, hi])
    exact ⟨t, i, hexec, hrefused, hg⟩
  · have hgate : (r.phase == .sent && r.pieces.any (fun q => q.1 / 2 ^ 44 != s.pkg.number) && decide (400000 ≤ s.now - r.issued)) = true := by
      rw [hphase, decide_eq_true (by omega), Bool.and_true, List.any_eq_true.2 (hremote.imp fun q hq => ⟨hq.1, bne_iff_ne.2 hq.2⟩)]
      rfl
    refine ⟨_, ?_, refused_refuse s n r 0x39 (if r.writes then 1 else 0)⟩
    rw [exec_fabricTimeout, execFabricTimeout, hn]
    refine congrArg State.event ?_
    dsimp only
    rw [if_pos hgate]

end Sys2Proof.Proofs
end

section
/-! PROOFS. Atomics, mailbox words and logs at their homes (R172 to R174, R178, R179, R232, R307): O24, O25, O27. -/

namespace Sys2Proof.Proofs

open Sys2Proof Sys2Proof.Machine Sys2Proof.Says

/-! ### Lines that reach memory (R374) -/

/-- Only counters, stored forms, cellar lines and the package's accounts differ: every byte and full bit, the requests, records, parties and the
mailbox waits of the lodgings stand. -/
structure LineWritten (s t : State) : Prop where
  bytes : t.mem.bytes = s.mem.bytes
  full : t.mem.full = s.mem.full
  reqs : t.reqs = s.reqs
  tags : t.tags = s.tags
  parties : t.parties = s.parties

namespace LineWritten

theorem refl (s : State) : LineWritten s s := ⟨rfl, rfl, rfl, rfl, rfl⟩

theorem trans {s t u : State} (h : LineWritten s t) (h' : LineWritten t u) : LineWritten s u :=
  ⟨h'.bytes.trans h.bytes, h'.full.trans h.full, h'.reqs.trans h.reqs, h'.tags.trans h.tags, h'.parties.trans h.parties⟩

theorem foldl {α : Type} {f : State → α → State} (hf : ∀ s a, LineWritten s (f s a)) (l : List α) (s : State) : LineWritten s (l.foldl f s) := by
  induction l generalizing s with
  | nil => exact refl s
  | cons a l ih => exact (hf s a).trans (ih _)

theorem notify (s : State) (c : Nat) : LineWritten s (s.notify c) := by
  unfold State.notify
  split <;> exact ⟨rfl, rfl, rfl, rfl, rfl⟩

theorem onPkg (s : State) (f : Package → Package) : LineWritten s (s.onPkg f) := ⟨rfl, rfl, rfl, rfl, rfl⟩

theorem ite {s t u : State} {c : Prop} [Decidable c] (ht : LineWritten s t) (hu : LineWritten s u) : LineWritten s (if c then t else u) := by
  split
  · exact ht
  · exact hu

theorem spend (s : State) (a : Activity) (fe n : Nat) : LineWritten s (s.spend a fe n) := by
  unfold State.spend
  exact ite (((onPkg _ _).trans (onPkg _ _)).trans (notify _ _)) (onPkg _ _)

theorem putDram (s : State) (line major minor : Nat) : LineWritten s (s.putDram line major minor) := ⟨rfl, rfl, rfl, rfl, rfl⟩

theorem markClean (s : State) (line : Nat) :
    LineWritten s (match sget none s.mem.cellar line with
      | some c => { s with mem := { s.mem with cellar := sset none s.mem.cellar line (some { c with dirty := false }) } }
      | none => s) := by
  cases sget none s.mem.cellar line with
  | none => exact refl s
  | some c => exact ⟨rfl, rfl, rfl, rfl, rfl⟩

theorem charge (s : State) (a : Nat) :
    LineWritten s (match s.ownerOf a with
      | .key n => (s.spend .tenant n 64).spend .counters 0 1
      | _ => s.spend .counters 0 1) := by
  cases s.ownerOf a with
  | key n => exact (spend _ _ _ _).trans (spend _ _ _ _)
  | _ => exact spend _ _ _ _

theorem reseal (s : State) (block line : Nat) (b : Counters × Bool) :
    LineWritten s (if b.2 then (List.range 64).foldl (fun (s : State) i => s.putDram (64 * block + i) b.1.major 0) s
      else s.putDram line b.1.major (sget 0 b.1.minor (line % 64))) :=
  ite (foldl (fun s i => putDram s _ _ _) _ _) (putDram _ _ _ _)

theorem lineWrite (s : State) (line : Nat) : LineWritten s (s.lineWrite line) := by
  unfold State.lineWrite
  refine ite (refl s) ?_
  extract_lets block b nodes m₁ s₁ s₂ m₂ s₃
  have h₁ : LineWritten s s₁ := ⟨rfl, rfl, rfl, rfl, rfl⟩
  have h₂ : LineWritten s₁ s₂ := reseal s₁ block line b
  have h₃ : LineWritten s₂ s₃ := markClean s₂ line
  exact (h₁.trans (h₂.trans h₃)).trans (charge s₃ _)

theorem linesWrite (s : State) (ls : List Nat) : LineWritten s (s.linesWrite ls) := foldl (fun s l => lineWrite s l) ls s

variable {s t : State} (h : LineWritten s t)
include h

theorem byteAt (a : Nat) : t.byteAt a = s.byteAt a := by rw [State.byteAt, h.bytes]; rfl

theorem isFull (pa : Nat) : t.isFull pa = s.isFull pa := by rw [State.isFull, h.full]; rfl

end LineWritten

/-! ### Naps (R306) -/

theorem napWake_frame (s : State) (ls : List Nat) :
    (s.napWake ls).mem = s.mem ∧ (s.napWake ls).reqs = s.reqs ∧ (s.napWake ls).tags = s.tags := ⟨rfl, rfl, rfl⟩

/-- A party after a write to lines. -/
def wakeNap (ls : List Nat) (x : Party) : Party :=
  match x.park with
  | .nap ms _ _ _ => if ls.any (fun l => ms.contains l) then { x with park := .none } else x
  | _ => x

theorem napWake_party? (s : State) (ls : List Nat) (p : Nat) : (s.napWake ls).party? p = (s.party? p).map (wakeNap ls) := by
  exact sfind_map (fun _ => wakeNap ls) s.parties p

theorem wakeNap_homeFaults (ls : List Nat) (x : Party) : (wakeNap ls x).homeFaults = x.homeFaults := by
  unfold wakeNap
  split
  · split <;> rfl
  · rfl

theorem wakeNap_park {ls ms : List Nat} {x : Party} {left : Option Nat} {a : DWord} {m : Mask} (hx : x.park = .nap ms left a m) {l : Nat}
    (hl : l ∈ ls) (hm : l ∈ ms) : (wakeNap ls x).park = .none := by
  have hany : ls.any (fun l => ms.contains l) = true := List.any_eq_true.2 ⟨l, hl, List.contains_iff_mem.2 hm⟩
  simp only [wakeNap, hx, hany, if_true]

theorem unfaulted_napWake {s : State} {r : Req} (h : Unfaulted s r) (ls : List Nat) : Unfaulted (s.napWake ls) r := fun y hy => by
  rw [napWake_party?] at hy
  obtain ⟨x, hx, rfl⟩ := Option.map_eq_some_iff.1 hy
  rw [wakeNap_homeFaults, h x hx]

/-! ### Atomics (R172 to R174) -/

theorem acquire_frame (s : State) (r : Req) : (s.acquire r).mem = s.mem ∧ (s.acquire r).reqs = s.reqs ∧ (s.acquire r).tags = s.tags := by
  unfold State.acquire
  split
  · exact ⟨onParty_mem .., onParty_reqs .., onParty_tags ..⟩
  · exact ⟨rfl, rfl, rfl⟩

/-- An update of any party that keeps the faults found for it. -/
theorem unfaulted_onAnyParty {s : State} {r : Req} (h : Unfaulted s r) (p : Nat) {f : Party → Party}
    (hf : ∀ x, (f x).homeFaults = x.homeFaults) : Unfaulted (s.onParty p f) r := by
  unfold State.onParty
  split
  · next x hx =>
    intro y hy
    rw [party?_setParty] at hy
    split at hy
    · next hp =>
      cases hy
      exact (hf x).trans (h x (by rw [hp]; exact hx))
    · exact h y hy
  · exact h

theorem unfaulted_acquire {s : State} {r : Req} (h : Unfaulted s r) (q : Req) : Unfaulted (s.acquire q) r := by
  unfold State.acquire
  split
  · exact unfaulted_onAnyParty h _ fun _ => rfl
  · exact h

theorem min_toNat (m b : Word) : (if m.ult b then m else b).toNat = min m.toNat b.toNat := by
  simp only [BitVec.ult, decide_eq_true_eq]
  split <;> omega

theorem max_toNat (m b : Word) : (if m.ult b then b else m).toNat = max m.toNat b.toNat := by
  simp only [BitVec.ult, decide_eq_true_eq]
  split <;> omega

theorem sxInt_toNat (w : Word) : sxInt 32 w.toNat = w.toInt := by
  rw [sxInt_eq, BitVec.ofNat_toNat, BitVec.setWidth_eq]

/-- Of equal words either may be named. -/
theorem ite_slt_le (m b : Word) (f : Word → Word → Word) (hf : m = b → f m b = f b m) :
    (if m.slt b then f m b else f b m) = if m.toInt ≤ b.toInt then f m b else f b m := by
  simp only [BitVec.slt, decide_eq_true_eq]
  by_cases hlt : m.toInt < b.toInt
  · rw [if_pos hlt, if_pos (le_of_lt hlt)]
  · rw [if_neg hlt]
    by_cases hle : m.toInt ≤ b.toInt
    · rw [if_pos hle, hf (BitVec.eq_of_toInt_eq (le_antisymm hle (not_lt.1 hlt)))]
    · rw [if_neg hle]

/-- The model's new value of a 32-bit atomic is that of R173. -/
theorem atomNew_eq {op : AtomOp} (hop : op ≠ .add64) (m : Word) (b c : DWord) :
    BitVec.ofNat 32 (atomNew op m.toNat b.toNat c.toNat) = atomSays op m (b.setWidth 32) (c.setWidth 32) := by
  have hlo : b.toNat % 2 ^ 32 = (b.setWidth 32).toNat := (BitVec.toNat_setWidth ..).symm
  have hc : c.toNat % 2 ^ 32 = (c.setWidth 32).toNat := (BitVec.toNat_setWidth ..).symm
  have hofNat : ∀ w : Word, BitVec.ofNat 32 w.toNat = w := fun w => by rw [BitVec.ofNat_toNat, BitVec.setWidth_eq]
  unfold atomNew
  rw [hlo, hc]
  generalize b.setWidth 32 = lo
  generalize c.setWidth 32 = cw
  cases op with
  | add64 => exact absurd rfl hop
  | add =>
    refine BitVec.eq_of_toNat_eq ?_
    simp [atomSays, BitVec.toNat_add]
  | minI =>
    show BitVec.ofNat 32 (if sxInt 32 m.toNat ≤ sxInt 32 lo.toNat then m.toNat else lo.toNat) = _
    rw [atomSays, sxInt_toNat, sxInt_toNat, ite_slt_le m lo (fun a _ => a) id, apply_ite (BitVec.ofNat 32), hofNat, hofNat]
  | maxI =>
    show BitVec.ofNat 32 (if sxInt 32 m.toNat ≤ sxInt 32 lo.toNat then lo.toNat else m.toNat) = _
    rw [atomSays, sxInt_toNat, sxInt_toNat, ite_slt_le m lo (fun _ b => b) Eq.symm, apply_ite (BitVec.ofNat 32), hofNat, hofNat]
  | minN =>
    show BitVec.ofNat 32 (min m.toNat lo.toNat) = _
    rw [← min_toNat, hofNat]
    rfl
  | maxN =>
    show BitVec.ofNat 32 (max m.toNat lo.toNat) = _
    rw [← max_toNat, hofNat]
    rfl
  | and => show BitVec.ofNat 32 (m.toNat &&& lo.toNat) = _; rw [← BitVec.toNat_and, hofNat]; rfl
  | or => show BitVec.ofNat 32 (m.toNat ||| lo.toNat) = _; rw [← BitVec.toNat_or, hofNat]; rfl
  | xor => show BitVec.ofNat 32 (m.toNat ^^^ lo.toNat) = _; rw [← BitVec.toNat_xor, hofNat]; rfl
  | xch => exact hofNat lo
  | cas =>
    show BitVec.ofNat 32 (if m.toNat = lo.toNat then cw.toNat else m.toNat) = if m = lo then cw else m
    rw [apply_ite (BitVec.ofNat 32), hofNat, hofNat]
    simp only [BitVec.toNat_inj]
  | fadd => rfl

theorem getElem?_bytesIn_single {a n i b : Nat} (hb : (bytesIn [(a, n)])[i]? = some b) : i < n ∧ a + i = b := by
  simp only [bytesIn, List.flatMap_cons, List.flatMap_nil, List.append_nil, List.getElem?_map, Option.map_eq_some_iff] at hb
  obtain ⟨k, hk, rfl⟩ := hb
  obtain ⟨hi, rfl⟩ := List.getElem?_eq_some_iff.1 hk
  rw [List.length_range] at hi
  exact ⟨hi, by rw [List.getElem_range]⟩

/-- One piece of memory, written. -/
theorem stored_storeN (s : State) (a v n : Nat) : Stored s (bytesIn [(a, n)]) v (s.storeN a v n) := by
  refine ⟨fun i b hb => ?_, fun b hb => ?_⟩
  · obtain ⟨hi, rfl⟩ : i < n ∧ a + i = b := getElem?_bytesIn_single hb
    rw [storeN_byteAt, if_pos ⟨by omega, by omega⟩, Nat.add_sub_cancel_left]
  · rw [storeN_byteAt, if_neg fun h => hb (mem_bytesIn.2 ⟨(a, n), List.mem_singleton_self _, h⟩)]

/-- Numbers of the same low bytes store the same. -/
theorem stored_congr {s t : State} {a n v w : Nat} (h : Stored s (bytesIn [(a, n)]) v t) (hvw : v % 256 ^ n = w % 256 ^ n) :
    Stored s (bytesIn [(a, n)]) w t := by
  refine ⟨fun i b hb => ?_, h.2⟩
  rw [h.1 i b hb]
  obtain ⟨hi, -⟩ : i < n ∧ a + i = b := getElem?_bytesIn_single hb
  obtain ⟨k, rfl⟩ := Nat.exists_eq_add_of_lt hi
  have hbyte : ∀ v : Nat, v / 256 ^ i % 256 = v % 256 ^ (i + k + 1) / 256 ^ i % 256 := fun v => by
    rw [show i + k + 1 = i + (k + 1) by omega, pow_add, Nat.mod_mul_right_div_self, pow_succ, Nat.mod_mod_of_dvd]
    exact Dvd.intro_left _ rfl
  refine BitVec.eq_of_toNat_eq ?_
  rw [BitVec.toNat_ofNat, BitVec.toNat_ofNat, show (2 : Nat) ^ 8 = 256 from rfl, hbyte v, hbyte w, hvw]

theorem stored_of_byteAt {s t u : State} {as : List Nat} {v : Nat} (h : Stored s as v t) (htu : ∀ a, u.byteAt a = t.byteAt a) : Stored s as v u :=
  ⟨fun i a ha => (htu a).trans (h.1 i a ha), fun a ha => (htu a).trans (h.2 a ha)⟩

theorem stored_of_frame {s t u : State} {as : List Nat} {v : Nat} (h : Stored t as v u) (hst : ∀ a, t.byteAt a = s.byteAt a) : Stored s as v u :=
  ⟨h.1, fun a ha => (h.2 a ha).trans (hst a)⟩

theorem byteAt_of_mem {s t : State} (h : t.mem = s.mem) (a : Nat) : t.byteAt a = s.byteAt a := by
  rw [State.byteAt, h]
  rfl

theorem littleEndian_lt (bs : List Byte) : littleEndian bs < 256 ^ bs.length := by
  induction bs with
  | nil => simp [littleEndian]
  | cons b bs ih =>
    have hb : b.toNat < 256 := b.isLt
    have hcons : littleEndian (b :: bs) = b.toNat + 256 * littleEndian bs := rfl
    rw [hcons, List.length_cons, pow_succ]
    omega

/-- The value an atomic leaves, as the spec counts it. -/
def atomLeaves (op : AtomOp) (old : Nat) (b c : DWord) : Nat :=
  if op = .add64 then (BitVec.ofNat 64 old + b).toNat else (atomSays op (BitVec.ofNat 32 old) (b.setWidth 32) (c.setWidth 32)).toNat

theorem atomNew_mod {op : AtomOp} {old : Nat} (b c : DWord) (hold : old < 256 ^ (if op = .add64 then 8 else 4)) :
    atomNew op old b.toNat c.toNat % 256 ^ (if op = .add64 then 8 else 4) =
      atomLeaves op old b c % 256 ^ (if op = .add64 then 8 else 4) := by
  by_cases hop : op = .add64
  · subst hop
    rw [if_pos rfl, atomLeaves, if_pos rfl, BitVec.toNat_add, BitVec.toNat_ofNat]
    show (old + b.toNat) % 2 ^ 64 % 256 ^ 8 = _
    rw [Nat.mod_add_mod]
  · rw [if_neg hop] at hold ⊢
    rw [atomLeaves, if_neg hop, ← atomNew_eq hop, BitVec.toNat_ofNat, BitVec.toNat_ofNat,
      Nat.mod_eq_of_lt (show old < 2 ^ 32 by omega), show (256 : Nat) ^ 4 = 2 ^ 32 from rfl, Nat.mod_mod]

theorem served_of_kind {r : Req} {k : ReqKind} (hkind : r.kind = k) (h : (∀ op h w, k ≠ .agent op h w) ∧ (∀ a, k ≠ .emit a) ∧ k ≠ .rcLoad) :
    Served r := by
  rw [← hkind] at h
  exact h

/-- Settles O24: the word is read and written in the home's one step. -/
theorem atomicsAreOneStep : Obligations.AtomicsAreOneStep := by
  intro s n r op b c pa k hat hok hu hkind hpieces size old new
  have hold : s.loadN pa size = old := by
    rw [loadN_eq_littleEndian]
    simp only [old, bytesIn, List.flatMap_cons, List.flatMap_nil, List.append_nil]
  have hlt : old < 256 ^ size := by
    have hlen : ((bytesIn [(pa, size)]).map s.byteAt).length = size := by simp [bytesIn]
    exact lt_of_lt_of_eq (littleEndian_lt _) (by rw [hlen])
  let u := ((s.storeN pa (atomNew op old b.toNat c.toNat) size).lineWrite (pa / 64)).acquire r
  have hline := LineWritten.lineWrite (s.storeN pa (atomNew op old b.toNat c.toNat) size) (pa / 64)
  obtain ⟨hmem, hreqs, -⟩ := acquire_frame ((s.storeN pa (atomNew op old b.toNat c.toNat) size).lineWrite (pa / 64)) r
  have hu' : Unfaulted u r := unfaulted_acquire (unfaulted_of_parties hu hline.parties) r
  have hreqs' : u.reqs = s.reqs := hreqs.trans hline.reqs
  have hstored : Stored s (bytesIn [(pa, size)]) new u :=
    stored_of_byteAt (stored_congr (stored_storeN s pa _ size) (atomNew_mod b c hlt)) fun a => (byteAt_of_mem hmem a).trans (hline.byteAt a)
  have hperform : s.perform n r pa =
      if r.flag.isNone then u.accept n r .unacked else (u.napWake [pa / 64]).accept n r (.reply old) := by
    simp only [State.perform, hkind]
    rw [show s.loadN pa (if op = .add64 then 8 else 4) = old from hold]
  have hexec := homeAcceptance_ok hat hok (served_of_kind hkind ⟨nofun, nofun, nofun⟩)
  rw [hpieces] at hexec
  rw [List.headD_cons, hperform] at hexec
  cases hflag : r.flag with
  | none =>
    rw [hflag] at hexec
    obtain ⟨hmem', -, hgoes⟩ := accept_spec (s := u) (by rw [hreqs']; exact hat.1) hu' .unacked
    exact ⟨_, hexec, stored_of_byteAt hstored fun a => byteAt_of_mem hmem' a, goes_congr hgoes hreqs'⟩
  | some f =>
    rw [hflag] at hexec
    obtain ⟨hmem', -, hgoes⟩ := accept_spec (s := u.napWake [pa / 64]) (n := n) (by rw [(napWake_frame u _).2.1, hreqs']; exact hat.1)
      (unfaulted_napWake hu' _) (.reply old)
    exact ⟨_, hexec, stored_of_byteAt hstored fun a => byteAt_of_mem hmem' a, goes_congr hgoes hreqs'⟩

/-! ### Mailbox words (R178, R179, R307) -/

theorem sfind_onReq (s : State) (k : Nat) (f : Req → Req) (j : Nat) :
    sfind (s.onReq k f).reqs j = if j = k then (sfind s.reqs k).map f else sfind s.reqs j := by
  unfold State.onReq
  cases hk : sfind s.reqs k with
  | none =>
    by_cases hjk : j = k
    · rw [if_pos hjk, hjk]; exact hk
    · rw [if_neg hjk]
  | some q => exact sfind_sput ..

theorem onReq_frame (s : State) (k : Nat) (f : Req → Req) : (s.onReq k f).mem = s.mem ∧ (s.onReq k f).parties = s.parties := by
  unfold State.onReq
  split <;> exact ⟨rfl, rfl⟩

theorem setFull_byteAt (s : State) (pa : Nat) (b : Bool) (a : Nat) : (s.setFull pa b).byteAt a = s.byteAt a := rfl

theorem setFull_isFull (s : State) (pa : Nat) (b : Bool) : (s.setFull pa b).isFull pa = b := sget_sset_same ..

theorem isFull_of_mem {s t : State} (h : t.mem = s.mem) (pa : Nat) : t.isFull pa = s.isFull pa := by
  rw [State.isFull, h]
  rfl

/-- No kind-1 wait is registered for a word. -/
def Unwatched (s : State) (pa : Nat) : Prop := ∀ fe, ∀ w ∈ (s.lod fe).mbxWakes, w.1 ≠ pa

theorem wakeMailbox_unwatched {s : State} {pa : Nat} (h : Unwatched s pa) : s.wakeMailbox pa = s := by
  have hnone : ∀ fe, (s.lod fe).mbxWakes.filter (fun w => w.1 == pa) = [] := fun fe =>
    List.filter_eq_nil_iff.2 fun w hw => by simpa using h fe w hw
  have hfold : ∀ fes : List Nat, fes.foldl (fun (s : State) fe =>
      s.wakeWaiters fe ((s.lod fe).mbxWakes.filter (fun w => w.1 == pa))) s = s := fun fes => by
    induction fes with
    | nil => rfl
    | cons fe fes ih => rw [List.foldl_cons, hnone]; exact ih
  exact hfold _

/-- What a fill leaves before the naps wake. -/
def filled (s : State) (pa v : Nat) : State :=
  match s.oldestLd pa with
  | some (n, r) => (((s.storeN pa v 8).setFull pa false).acquire r).onReq n (fun q => { q with phase := .reply v })
  | none => ((s.storeN pa v 8).setFull pa true).wakeMailbox pa

theorem fill_eq (s : State) (pa v : Nat) : s.fill pa v = (filled s pa v).napWake [pa / 64] := rfl

/-- Who parks, and on what, stands. -/
def SameParks (s t : State) : Prop := ∀ p x, s.party? p = some x → ∃ y, t.party? p = some y ∧ y.park = x.park

theorem sameParks_acquire (s : State) (r : Req) : SameParks s (s.acquire r) := by
  intro p x hx
  unfold State.acquire
  split
  · by_cases hp : p = r.party
    · subst hp
      rw [onParty_of_some hx]
      exact ⟨_, party?_setParty_same .., rfl⟩
    · exact (Beside.onParty r.party s _).others p x hp hx
  · exact ⟨x, hx, rfl⟩

theorem sameParks_of_parties {s t : State} (h : t.parties = s.parties) : SameParks s t := fun p x hx =>
  ⟨x, by rw [State.party?, h]; exact hx, rfl⟩

theorem SameParks.trans {s t u : State} (h : SameParks s t) (h' : SameParks t u) : SameParks s u := fun p x hx => by
  obtain ⟨y, hy, hpark⟩ := h p x hx
  obtain ⟨z, hz, hpark'⟩ := h' p y hy
  exact ⟨z, hz, hpark'.trans hpark⟩

/-- Naps on a line that memory's write names wake. -/
theorem napsWake_napWake {s t : State} (h : SameParks s t) {ls : List Nat} {l : Nat} (hl : l ∈ ls) (p : Nat) : NapsWake s l p (t.napWake ls) := by
  intro q x ms left a m _ hx hpark hm
  obtain ⟨y, hy, hpark'⟩ := h q x hx
  exact ⟨wakeNap ls y, by rw [napWake_party?, hy]; rfl, wakeNap_park (hpark'.trans hpark) hl hm⟩

theorem napsWake_answered {s t u : State} {l p : Nat} (h : NapsWake s l p t) (h' : Answered p t u) : NapsWake s l p u := by
  intro q x ms left a m hq hx hpark hm
  obtain ⟨y, hy, hawake⟩ := h q x ms left a m hq hx hpark hm
  obtain ⟨z, hz, hsame⟩ := h'.others q y hq hy
  exact ⟨z, hz, hsame.trans hawake⟩

/-- What the fill of a word does before the naps wake. -/
structure FilledAs (s : State) (pa v : Nat) (t : State) : Prop where
  taken : ∀ k q, s.oldestLd pa = some (k, q) → sfind s.reqs k = some q →
    t.isFull pa = false ∧ sfind t.reqs k = some { q with phase := .reply v }
  kept : s.oldestLd pa = none → t.isFull pa = true
  bytes : ∀ a, t.byteAt a = (s.storeN pa v 8).byteAt a
  gone : ∀ k, sfind s.reqs k = none → sfind t.reqs k = none
  parks : SameParks s t

theorem filledAs_filled {s : State} {pa : Nat} (h : Unwatched s pa) (v : Nat) : FilledAs s pa v (filled s pa v) := by
  unfold filled
  cases hold : s.oldestLd pa with
  | none =>
    have hwake : ((s.storeN pa v 8).setFull pa true).wakeMailbox pa = (s.storeN pa v 8).setFull pa true := wakeMailbox_unwatched h
    dsimp only
    rw [hwake]
    exact ⟨fun _ _ he => (by rw [hold] at he; cases he), fun _ => setFull_isFull .., fun a => rfl, fun _ hk => hk, sameParks_of_parties rfl⟩
  | some e =>
    obtain ⟨k, q⟩ := e
    obtain ⟨hmem, hreqs, -⟩ := acquire_frame ((s.storeN pa v 8).setFull pa false) q
    obtain ⟨hmem', hparties⟩ := onReq_frame (((s.storeN pa v 8).setFull pa false).acquire q) k (fun r => { r with phase := .reply v })
    have hreqs' : (((s.storeN pa v 8).setFull pa false).acquire q).reqs = s.reqs := hreqs
    refine ⟨fun j r he hr => ?_, fun he => ?_, fun a => ?_, fun j hj => ?_, ?_⟩
    · rw [hold] at he
      cases he
      refine ⟨(isFull_of_mem (hmem'.trans hmem) pa).trans (setFull_isFull ..), ?_⟩
      rw [sfind_onReq, if_pos rfl, hreqs', hr]
      rfl
    · rw [hold] at he; cases he
    · exact byteAt_of_mem (hmem'.trans hmem) a
    · rw [sfind_onReq, hreqs']
      split
      · next hjk => rw [← hjk, hj]; rfl
      · exact hj
    · exact (sameParks_of_parties (s := s) (t := (s.storeN pa v 8).setFull pa false) rfl).trans
        ((sameParks_acquire _ q).trans (sameParks_of_parties hparties))

/-- A fill, and the answer to the request that brought it. -/
theorem fills_fill {s t : State} {p pa : Nat} {v : DWord} (hw : Unwatched s pa) (h : Answered p (s.fill pa v.toNat) t) : Fills s p pa v t := by
  have hf := filledAs_filled hw v.toNat
  rw [fill_eq] at h
  have hfull : t.isFull pa = (filled s pa v.toNat).isFull pa := isFull_of_mem h.mem pa
  refine ⟨fun k q hold hq => ?_, fun hold => hfull.trans (hf.kept hold), ?_, 
    napsWake_answered (napsWake_napWake hf.parks (List.mem_singleton_self _) p) h⟩
  · obtain ⟨hempty, hreply⟩ := hf.taken k q hold hq
    exact ⟨hfull.trans hempty, (h.reqs k).2 _ hreply⟩
  · exact stored_of_byteAt (stored_storeN s pa v.toNat 8) fun a => (byteAt_of_mem h.mem a).trans (hf.bytes a)

theorem fill_gone {s t : State} {p pa v k : Nat} (hw : Unwatched s pa) (h : Answered p (s.fill pa v) t) (hk : sfind s.reqs k = none) :
    sfind t.reqs k = none := (h.reqs k).1 ((filledAs_filled hw v).gone k hk)

theorem unfaulted_fill {s : State} {r : Req} {pa v : Nat} (hw : Unwatched s pa) (hu : Unfaulted s r) : Unfaulted (s.fill pa v) r := by
  rw [fill_eq]
  refine unfaulted_napWake ?_ _
  unfold filled
  cases s.oldestLd pa with
  | none =>
    have hwake : ((s.storeN pa v 8).setFull pa true).wakeMailbox pa = (s.storeN pa v 8).setFull pa true := wakeMailbox_unwatched hw
    dsimp only
    rw [hwake]
    exact unfaulted_of_parties hu rfl
  | some e =>
    obtain ⟨k, q⟩ := e
    exact unfaulted_of_parties (s := ((s.storeN pa v 8).setFull pa false).acquire q) 
      (unfaulted_acquire (s := (s.storeN pa v 8).setFull pa false) (unfaulted_of_parties hu rfl) q) (onReq_frame ..).2

/-- A request that waits at its word: a new number, the tail of the word's FIFO. -/
theorem enqueue_spec {s : State} {n : Nat} {r : Req} (hu : Unfaulted s r) (hn : n < s.nextId) :
    ∃ h, (s.enqueue n r).mem = s.mem ∧ sfind (s.enqueue n r).reqs n = none ∧
      sfind (s.enqueue n r).reqs s.nextId = some { r with phase := .waiting, held := h } := by
  let u : State := { s.fresh.2 with reqs := sput (sdrop s.reqs n) s.nextId { r with phase := .waiting } }
  have hans : Answered r.party u (s.enqueue n r) := answered_answer (s := u) (unfaulted_of_parties hu rfl)
  obtain ⟨h, hh⟩ := (hans.reqs s.nextId).2 _ (sfind_sput_same ..)
  refine ⟨h, hans.mem, (hans.reqs n).1 ?_, hh⟩
  exact (sfind_sput_ne _ _ (by omega)).trans (sfind_sdrop_same ..)

theorem mailboxLoad {s : State} {n : Nat} {r : Req} {pa k : Nat} (hat : AtHome s n r) (hok : HomeOk s r) (hu : Unfaulted s r)
    (hkind : r.kind = .mbxLd) (hpieces : r.pieces = [(pa, k)]) :
    (s.isFull pa = true → ∃ t, exec (.homeAcceptance n) s = .next t ∧
      Goes s n r (.reply (littleEndian ((bytesIn [(pa, 8)]).map s.byteAt))) t ∧ t.isFull pa = false ∧ ∀ a, t.byteAt a = s.byteAt a) ∧
    (s.isFull pa = false → n < s.nextId → ∃ t h, exec (.homeAcceptance n) s = .next t ∧ t.mem = s.mem ∧ sfind t.reqs n = none ∧
      sfind t.reqs s.nextId = some { r with phase := .waiting, held := h }) := by
  have hexec := homeAcceptance_ok hat hok (served_of_kind hkind ⟨nofun, nofun, nofun⟩)
  rw [hpieces, List.headD_cons] at hexec
  refine ⟨fun hfull => ?_, fun hempty hn => ?_⟩
  · have hperform : s.perform n r pa = ((s.setFull pa false).acquire r).accept n r (.reply (s.loadN pa 8)) := by
      simp only [State.perform, hkind, hfull, if_true]
      rfl
    rw [hperform] at hexec
    obtain ⟨hmem, hreqs, -⟩ := acquire_frame (s.setFull pa false) r
    obtain ⟨hmem', -, hgoes⟩ := accept_spec (s := (s.setFull pa false).acquire r) (n := n) (by rw [hreqs]; exact hat.1)
      (unfaulted_acquire (s := s.setFull pa false) (unfaulted_of_parties hu rfl) r) (.reply (s.loadN pa 8))
    have hvalue : s.loadN pa 8 = littleEndian ((bytesIn [(pa, 8)]).map s.byteAt) := by
      rw [loadN_eq_littleEndian]
      simp only [bytesIn, List.flatMap_cons, List.flatMap_nil, List.append_nil]
    rw [hvalue] at hexec hmem' hgoes
    exact ⟨_, hexec, goes_congr hgoes hreqs, (isFull_of_mem (hmem'.trans hmem) pa).trans (setFull_isFull ..),
      fun a => byteAt_of_mem (hmem'.trans hmem) a⟩
  · have hperform : s.perform n r pa = s.enqueue n r := by
      simp only [State.perform, hkind, hempty, Bool.false_eq_true, if_false]
    rw [hperform] at hexec
    obtain ⟨h, hmem, hgone, hwaits⟩ := enqueue_spec hu hn
    exact ⟨_, h, hexec, hmem, hgone, hwaits⟩

theorem mailboxStore {s : State} {n : Nat} {r : Req} {pa k : Nat} {v : DWord} (hat : AtHome s n r) (hok : HomeOk s r) (hu : Unfaulted s r)
    (hkind : r.kind = .mbxSt v) (hpieces : r.pieces = [(pa, k)]) :
    (s.isFull pa = false → s.oldestSt pa = none → Unwatched s pa →
      ∃ t, exec (.homeAcceptance n) s = .next t ∧ Fills (s.dropReq n) r.party pa v t ∧ sfind t.reqs n = none) ∧
    (s.isFull pa = true ∨ s.oldestSt pa ≠ none → n < s.nextId → ∃ t h, exec (.homeAcceptance n) s = .next t ∧ t.mem = s.mem ∧
      sfind t.reqs n = none ∧ sfind t.reqs s.nextId = some { r with phase := .waiting, held := h }) := by
  have hexec := homeAcceptance_ok hat hok (served_of_kind hkind ⟨nofun, nofun, nofun⟩)
  rw [hpieces, List.headD_cons] at hexec
  refine ⟨fun hempty hfirst hw => ?_, fun hwait hn => ?_⟩
  · have hperform : s.perform n r pa = ((s.dropReq n).fill pa v.toNat).answer r [] := by
      simp [State.perform, hkind, hempty, hfirst]
    rw [hperform] at hexec
    have hw' : Unwatched (s.dropReq n) pa := hw
    have hans := (answered_answer (unfaulted_fill (v := v.toNat) hw' (unfaulted_of_parties hu rfl))).beside (Beside.wake r.party _)
    exact ⟨_, hexec, fills_fill hw' hans, fill_gone hw' hans (sfind_sdrop_same ..)⟩
  · have hperform : s.perform n r pa = s.enqueue n r := by
      have hbusy : (s.isFull pa || (s.oldestSt pa).isSome) = true := by
        rcases hwait with h | h
        · rw [h, Bool.true_or]
        · rw [Option.isSome_iff_ne_none.2 h, Bool.or_true]
      simp only [State.perform, hkind, hbusy, if_true]
    rw [hperform] at hexec
    obtain ⟨h, hmem, hgone, hwaits⟩ := enqueue_spec hu hn
    exact ⟨_, h, hexec, hmem, hgone, hwaits⟩

theorem mailboxTest {s : State} {n : Nat} {r : Req} {pa k : Nat} (hat : AtHome s n r) (hok : HomeOk s r) (hu : Unfaulted s r)
    (hkind : r.kind = .mbxTst) (hpieces : r.pieces = [(pa, k)]) :
    ∃ t, exec (.homeAcceptance n) s = .next t ∧ t.mem = s.mem ∧ Goes s n r (.reply (if s.isFull pa then 1 else 0)) t := by
  have hexec := homeAcceptance_ok hat hok (served_of_kind hkind ⟨nofun, nofun, nofun⟩)
  have hperform : s.perform n r pa = s.accept n r (.reply (if s.isFull pa then 1 else 0)) := by
    simp only [State.perform, hkind]
  rw [hpieces, List.headD_cons, hperform] at hexec
  obtain ⟨hmem, -, hgoes⟩ := accept_spec hat.1 hu (.reply (if s.isFull pa then 1 else 0))
  exact ⟨_, hexec, hmem, hgoes⟩

theorem mailboxStoreLater {s : State} {n : Nat} {r : Req} {pa k : Nat} {v : DWord} (hn : sfind s.reqs n = some r) (hkind : r.kind = .mbxSt v)
    (hpieces : r.pieces = [(pa, k)]) (hparty : r.party ≠ 0) (hempty : s.isFull pa = false) (hfirst : s.oldestSt pa = some (n, r))
    (hw : Unwatched s pa) :
    ∃ t, exec (.mailboxStorePerform n) s = .next t ∧ Fills (s.dropReq n) 0 pa v t ∧ sfind t.reqs n = none := by
  have hexec : exec (.mailboxStorePerform n) s = .next ((s.dropReq n).fill pa v.toNat).wake := by
    rw [exec_mailboxStorePerform, execMailboxStorePerform]
    refine congrArg State.event ?_
    simp [hn, hkind, hpieces, hfirst, hparty, hempty]
  have hans : Answered 0 ((s.dropReq n).fill pa v.toNat) ((s.dropReq n).fill pa v.toNat).wake := (Beside.wake 0 _).answered
  have hw' : Unwatched (s.dropReq n) pa := hw
  exact ⟨_, hexec, fills_fill hw' hans, fill_gone hw' hans (sfind_sdrop_same ..)⟩

/-- Settles O25: a word's full bit says whether a load takes it and whether a store fills it. -/
theorem mailboxWords : Obligations.MailboxWords :=
  ⟨fun _ _ _ _ _ hat hok hu hkind hpieces => mailboxLoad hat hok hu hkind hpieces,
    fun _ _ _ _ _ _ hat hok hu hkind hpieces => mailboxStore hat hok hu hkind hpieces,
    fun _ _ _ _ _ hat hok hu hkind hpieces => mailboxTest hat hok hu hkind hpieces,
    fun _ _ _ _ _ _ hn hkind hpieces hparty hempty hfirst hw => mailboxStoreLater hn hkind hpieces hparty hempty hfirst hw⟩

/-! ### Logs (R232) -/

theorem wordsNat_eq_foldr (ws : List Word) : wordsNat ws = ws.foldr (fun w v => w.toNat + 2 ^ 32 * v) 0 := by
  induction ws with
  | nil => rfl
  | cons w ws ih => rw [wordsNat, ih]; rfl

theorem wordsNat_lt (ws : List Word) : wordsNat ws < 256 ^ (4 * ws.length) := by
  induction ws with
  | nil => simp [wordsNat]
  | cons w ws ih =>
    have hw : w.toNat < 2 ^ 32 := w.isLt
    rw [wordsNat, List.length_cons, Nat.mul_succ, pow_add]
    omega

theorem getElem?_bytesIn_cons {q : Nat × Nat} {ps : List (Nat × Nat)} {i b : Nat} (hb : (bytesIn (q :: ps))[i]? = some b) :
    (i < q.2 ∧ b = q.1 + i) ∨ (q.2 ≤ i ∧ (bytesIn ps)[i - q.2]? = some b) := by
  rw [bytesIn_cons] at hb
  by_cases hi : i < q.2
  · rw [List.getElem?_append_left (by simpa using hi), List.getElem?_map, List.getElem?_range hi] at hb
    exact .inl ⟨hi, (Option.some.inj hb).symm⟩
  · rw [List.getElem?_append_right (by simpa using not_lt.1 hi)] at hb
    exact .inr ⟨not_lt.1 hi, by simpa using hb⟩

/-- Two pieces that do not meet, one stored after the other. -/
theorem stored_two {s : State} {a n v b m w : Nat} (hv : v < 256 ^ n) (hapart : a + n ≤ b ∨ b + m ≤ a) :
    Stored s (bytesIn [(a, n), (b, m)]) (v + 256 ^ n * w) ((s.storeN a v n).storeN b w m) := by
  refine ⟨fun i c hc => ?_, fun c hc => ?_⟩
  · rcases getElem?_bytesIn_cons hc with ⟨hi, rfl⟩ | ⟨hi, hc⟩
    · dsimp only at hi ⊢
      rw [storeN_byteAt, if_neg (by omega), storeN_byteAt, if_pos ⟨by omega, by omega⟩, Nat.add_sub_cancel_left]
      obtain ⟨k, rfl⟩ := Nat.exists_eq_add_of_lt hi
      refine BitVec.eq_of_toNat_eq ?_
      rw [BitVec.toNat_ofNat, BitVec.toNat_ofNat, show i + k + 1 = i + (k + 1) by omega, pow_add, mul_assoc,
        Nat.add_mul_div_left _ _ (by positivity), pow_succ 256 k, mul_comm (256 ^ k) 256, mul_assoc]
      exact (Nat.add_mul_mod_self_left ..).symm
    · obtain ⟨hi', rfl⟩ := getElem?_bytesIn_single hc
      dsimp only at hi
      rw [storeN_byteAt, if_pos ⟨by omega, by omega⟩, Nat.add_sub_cancel_left]
      obtain ⟨k, rfl⟩ := Nat.exists_eq_add_of_le hi
      rw [Nat.add_sub_cancel_left, pow_add, ← Nat.div_div_eq_div_mul, Nat.add_mul_div_left _ _ (by positivity), Nat.div_eq_of_lt hv, zero_add]
  · have hout : ∀ q ∈ [(a, n), (b, m)], ¬ (q.1 ≤ c ∧ c < q.1 + q.2) := fun q hq h => hc (mem_bytesIn.2 ⟨q, hq, h⟩)
    rw [storeN_byteAt, if_neg (hout (b, m) (by simp)), storeN_byteAt, if_neg (hout (a, n) (by simp))]

/-- Settles O27: the record takes the slot of the head counter, which then counts one more. -/
theorem logRecordsAreAppended : Obligations.LogRecordsAreAppended := by
  intro s n r words pa k hat hok hu hkind hpieces cap next tail
  have hexec := homeAcceptance_ok hat hok (served_of_kind hkind ⟨nofun, nofun, nofun⟩)
  have hperform : s.perform n r pa = s.logAppend n r pa words := by simp only [State.perform, hkind]
  rw [hpieces, List.headD_cons, hperform] at hexec
  refine ⟨fun hfull => ?_, fun x w hx hcap hroom hlen hreach hpage hapart => ?_⟩
  · have hfull' : (cap = 0 || cap ≤ (next + 2 ^ 64 - tail) % 2 ^ 64 : Bool) = true := by simpa using hfull
    have happend : s.logAppend n r pa words = s.refuse n r 0x31 0 := if_pos hfull'
    rw [happend] at hexec
    exact ⟨_, hexec, refused_refuse s n r 0x31 0⟩
  · have hroom' : ¬ ((cap = 0 || cap ≤ (next + 2 ^ 64 - tail) % 2 ^ 64 : Bool) = true) := by simp; omega
    let u := (s.storeN w.pa (wordsNat words) 32).storeN (pa + 16) ((next + 1) % 2 ^ 64) 8
    have happend : s.logAppend n r pa words = (u.napWake [w.pa / 64, pa / 64]).accept n r (.reply (next % 2 ^ 32)) := by
      unfold State.logAppend
      refine (if_neg hroom').trans ?_
      simp only [hx]
      rw [hreach]
      simp only [hpage]
      rfl
    rw [happend] at hexec
    obtain ⟨hmem, -, hgoes⟩ := accept_spec (s := u.napWake [w.pa / 64, pa / 64]) (n := n) (r := r) hat.1
      (unfaulted_napWake (s := u) (unfaulted_of_parties hu rfl) _) (.reply (next % 2 ^ 32))
    refine ⟨_, hexec, goes_congr hgoes rfl, stored_of_byteAt (t := u) ?_ fun a => byteAt_of_mem hmem a⟩
    rw [← wordsNat_eq_foldr]
    exact stored_two (lt_of_lt_of_eq (wordsNat_lt words) (by rw [hlen])) hapart

end Sys2Proof.Proofs
end

section
/-! PROOFS. Replies at their destination and the acknowledgement of writes (R14, R165, R166, R294, R306): O26. -/

namespace Sys2Proof.Proofs

open Sys2Proof Sys2Proof.Machine Sys2Proof.Says

/-! ### Destinations (R165, R189) -/

theorem vNow_setRun {t r k n : Nat} (hk : k < 1024) (hr : r + n ≤ 1024) (x : Party) (v u : Nat) :
    (x.setRun t r v n).vNow u k = if u = t ∧ r ≤ k ∧ k < r + n then BitVec.ofNat 32 (v / 2 ^ (32 * (k - r))) else x.vNow u k := by
  induction n generalizing r v x with
  | zero => rw [if_neg (by omega)]; rfl
  | succ n ih =>
    refine (ih (by omega) _ _).trans ?_
    by_cases hin : u = t ∧ r + 1 ≤ k ∧ k < r + 1 + n
    · rw [if_pos hin, if_pos (by omega), Nat.div_div_eq_div_mul, ← pow_add, show 32 + 32 * (k - (r + 1)) = 32 * (k - r) by omega]
    · rw [if_neg hin, vNow_setV]
      by_cases hhere : u = t ∧ k = r
      · rw [if_pos (by omega), if_pos (by omega), hhere.2, Nat.sub_self, Nat.mul_zero, pow_zero, Nat.div_one]
      · rw [if_neg (by omega), if_neg (by omega)]

theorem setRun_eq (x : Party) (t r v n : Nat) : x.setRun t r v n = { x with regs := { x.regs with v := (x.setRun t r v n).regs.v } } := by
  induction n generalizing r v x with
  | zero => rfl
  | succ n ih => exact (ih _ _ _).trans rfl

/-- A result changes registers alone. -/
theorem setDest_eq (x : Party) (t : Nat) (d : Dest) (v : Nat) : x.setDest t d v = { x with regs := (x.setDest t d v).regs } := by
  cases d with
  | none => rfl
  | vec r n => exact (setRun_eq x t r v n).trans (by simp only [Party.setDest]; rw [setRun_eq])
  | uni n =>
    simp only [Party.setDest, Party.setU]
    split <;> rfl
  | mask k => rfl

theorem uNow_setU (x : Party) (n k : Nat) (v : DWord) : (x.setU n v).uNow k = if k = n ∧ n ≠ 0 then v else x.uNow k := by
  unfold Party.setU Party.uNow
  by_cases hn : n = 0
  · simp [hn]
  · by_cases hk : k = n
    · simp [hk, hn]
    · simp [hk, hn, sget_sset_ne]

theorem landed_setDest {x : Party} {t : Nat} {d : Dest} (hd : ∀ b k, d = .vec b k → b + k ≤ 1024) (ht : t < 64) (v : Nat) :
    Landed x t d v (x.setDest t d v) := by
  cases d with
  | none => exact ⟨fun _ _ _ => rfl, fun _ => rfl, fun _ _ _ => rfl⟩
  | vec b n =>
    refine ⟨fun w k hk => vNow_setRun hk (hd b n rfl) x v w, fun k => ?_, fun k w _ => ?_⟩
    · simp only [Party.setDest]
      rw [setRun_eq]
      rfl
    · simp only [Party.setDest]
      rw [setRun_eq]
      rfl
  | uni n =>
    refine ⟨fun w k _ => ?_, fun k => uNow_setU x n k _, fun k w _ => ?_⟩
    · simp only [Party.setDest, Party.setU]
      split <;> rfl
    · simp only [Party.setDest, Party.setU]
      split <;> rfl
  | mask n =>
    refine ⟨fun _ _ _ => rfl, fun _ => rfl, fun k w hw => ?_⟩
    simp only [Party.setDest, maskNow_setM]
    by_cases hk : k = n
    · subst hk
      rw [if_pos rfl, bitOf_setBit ht]
      by_cases hwt : w = t
      · simp [hwt, beq_eq_decide]
      · simp [hwt]
    · simp [hk]

theorem landed_congr {x : Party} {t : Nat} {d : Dest} {v : Nat} {y z : Party} (h : Landed x t d v y) (hz : z.regs = y.regs) : Landed x t d v z := by
  unfold Landed Party.vNow Party.uNow Party.maskNow at *
  rw [hz]
  exact h

/-! ### Replies (R14, R154, R165) -/

/-- A party that a reply reaches: the registers, unless the thread has left. -/
def received (x : Party) (r : Req) (v : Nat) : Party :=
  if !r.uniform && bitOf x.left r.thread then x else x.deposit (fun x => x.setDest r.thread r.dest v)

/-- The flag of a request counts one operation less. -/
def counted (x : Party) (r : Req) : Party := match r.flag with | some k => x.doneFlag k 1 | none => x

theorem deliver_of_party {s : State} {r : Req} {x : Party} (hx : s.party? r.party = some x) (n v : Nat) :
    s.deliver n r v = (s.dropReq n).setParty r.party (counted (received x r v) r) := by
  have hx' : (s.dropReq n).party? r.party = some x := hx
  simp only [State.deliver, hx']
  rfl

theorem deposit_regs (x : Party) (f : Party → Party) : (x.deposit f).regs = (f x).regs := by
  unfold Party.deposit
  split <;> rfl

theorem deposit_eq (x : Party) {f : Party → Party} (hf : ∀ x, f x = { x with regs := (f x).regs }) :
    x.deposit f = { x with regs := (f x).regs, latch := (x.deposit f).latch } := by
  unfold Party.deposit
  split
  · next hl => exact (hf x).trans (by rw [hf x])
  · dsimp only
    rw [hf x]

theorem received_regs (x : Party) {r : Req} (hd : ∀ b k, r.dest = .vec b k → b + k ≤ 1024) (ht : r.thread < 64) (v : Nat) :
    if r.uniform = false ∧ bitOf x.left r.thread = true then (received x r v).regs = x.regs else Landed x r.thread r.dest v (received x r v) := by
  by_cases hgone : r.uniform = false ∧ bitOf x.left r.thread = true
  · rw [if_pos hgone, received, if_pos (by simp [hgone])]
  · rw [if_neg hgone, received, if_neg (by simpa using hgone)]
    exact landed_congr (landed_setDest hd ht v) (deposit_regs ..)

theorem received_eq (x : Party) (r : Req) (v : Nat) :
    received x r v = { x with regs := (received x r v).regs, latch := (received x r v).latch } := by
  unfold received
  split
  · rfl
  · rw [deposit_regs]
    exact deposit_eq x fun x => setDest_eq x r.thread r.dest v

theorem counted_flags (x : Party) (r : Req) (f : Nat) : sget 0 (counted x r).flags f = sget 0 x.flags f - if r.flag = some f then 1 else 0 := by
  unfold counted
  cases hflag : r.flag with
  | none => simp
  | some k =>
    dsimp only
    rw [Party.doneFlag]
    by_cases hf : f = k
    · simp [hf]
    · simp [sget_sset_ne _ _ _ hf, Ne.symm hf]

theorem counted_eq (x : Party) (r : Req) : counted x r = { x with flags := (counted x r).flags } := by
  unfold counted
  split <;> rfl

theorem counted_received_eq (x : Party) (r : Req) (v : Nat) : counted (received x r v) r =
    { x with regs := (received x r v).regs, flags := (counted (received x r v) r).flags, latch := (received x r v).latch } := by
  rw [counted_eq, received_eq]

theorem exec_reply {s : State} {n : Nat} {r : Req} {v : Nat} {i : Instr}
    (hi : (i = .loadResultWrite n ∧ r.isAgent = false ∧ r.party ≠ 0) ∨ (i = .stewardReply n ∧ r.isAgent = true))
    (hn : sfind s.reqs n = some r) (hphase : r.phase = .reply v) : exec i s = .next (s.deliver n r v).wake := by
  rcases hi with ⟨rfl, hagent, hparty⟩ | ⟨rfl, hagent⟩
  · rw [exec_loadResultWrite, execLoadResultWrite]
    refine congrArg State.event ?_
    simp [hn, hphase, hagent, hparty]
  · rw [exec_stewardReply, execStewardReply]
    refine congrArg State.event ?_
    simp [hn, hphase, hagent]

theorem repliesReachTheirDestination : Says.RepliesReachTheirDestination := by
  intro s n r v x i hi hn hphase hx hd ht
  have hflags := received_eq x r v
  refine ⟨_, { counted (received x r v) r with hold := false }, exec_reply hi hn hphase, ?_, ?_, ?_, ?_, fun f => ?_, ?_⟩
  · rw [wake_reqs, deliver_of_party hx]
    exact sfind_sdrop_same ..
  · rw [wake_mem, deliver_of_party hx]
    rfl
  · rw [wake_party?, deliver_of_party hx, party?_setParty_same]
    rfl
  · have hregs : (counted (received x r v) r).regs = (received x r v).regs := by rw [counted_eq]
    have h := received_regs x hd ht v
    split
    · next hgone => rw [if_pos hgone] at h; exact hregs.trans h
    · next hhere => rw [if_neg hhere] at h; exact landed_congr h hregs
  · show sget 0 (counted (received x r v) r).flags f = _
    rw [counted_flags, received_eq]
  · show { counted (received x r v) r with hold := false } = _
    rw [counted_received_eq]

/-! ### Acknowledgements (R166, R294, R306, R315) -/

/-- The records once the regions of a list that have ended, with no write open, are taken off them. -/
def released (s : State) (p : Nat) (os : List (Nat × Nat)) (ts : List Tag) : List Tag :=
  os.foldl (fun ts o => if s.regionOver p o && !s.unacked p o then dropOwner ts p o else ts) ts

theorem releaseRegions_eq (s : State) (p : Nat) (os : List (Nat × Nat)) :
    s.releaseRegions p os = { s with tags := released s p os s.tags } := by
  have hfold : ∀ ts, os.foldl (fun (s : State) o => if s.regionOver p o && !s.unacked p o then { s with tags := dropOwner s.tags p o } else s)
      { s with tags := ts } = { s with tags := released s p os ts } := by
    induction os with
    | nil => exact fun _ => rfl
    | cons o os ih =>
      intro ts
      rw [released, List.foldl_cons, List.foldl_cons, ← released, ← ih]
      refine congrArg (fun t => List.foldl _ t os) ?_
      by_cases hover : (s.regionOver p o && !s.unacked p o) = true
      · exact (if_pos hover).trans (by rw [if_pos hover])
      · exact (if_neg hover).trans (by rw [if_neg hover])
  exact hfold s.tags

theorem mem_released {s : State} {p : Nat} {os : List (Nat × Nat)} {ts : List Tag} {g : Tag} (hg : g ∈ released s p os ts) (hp : g.party = p) :
    (∃ g₀ ∈ ts, g₀.party = p ∧ g.owners ⊆ g₀.owners) ∧ ∀ o ∈ os, s.regionOver p o = true → s.unacked p o = false → o ∉ g.owners := by
  induction os generalizing ts with
  | nil => exact ⟨⟨g, hg, hp, List.Subset.refl _⟩, fun o ho => absurd ho List.not_mem_nil⟩
  | cons o os ih =>
    obtain ⟨⟨g₁, hg₁, hp₁, hsub₁⟩, hrest⟩ := ih hg
    by_cases hover : (s.regionOver p o && !s.unacked p o) = true
    · replace hg₁ : g₁ ∈ dropOwner ts p o := by simpa only [hover, if_true] using hg₁
      obtain ⟨g₀, hg₀, hparty, hsub, hdrop⟩ := exists_of_mem_dropOwner hg₁
      refine ⟨⟨g₀, hg₀, hparty.trans hp₁, List.Subset.trans hsub₁ hsub⟩, fun o' ho' hov hack => ?_⟩
      rcases List.mem_cons.1 ho' with rfl | ho'
      · exact fun h => hdrop hp₁ (hsub₁ h)
      · exact hrest o' ho' hov hack
    · replace hg₁ : g₁ ∈ ts := by simpa only [hover, Bool.false_eq_true, if_false] using hg₁
      refine ⟨⟨g₁, hg₁, hp₁, hsub₁⟩, fun o' ho' hov hack => ?_⟩
      rcases List.mem_cons.1 ho' with rfl | ho'
      · exact absurd (by rw [hov, hack]; rfl) hover
      · exact hrest o' ho' hov hack

/-- The bytes of a window write take their place as it is acknowledged; those of any other write stand already. -/
def windowBytes (s : State) (r : Req) : State := match r.win, r.kind with | true, .store _ data => s.storePieces data r.pieces | _, _ => s

theorem windowBytes_frame (s : State) (r : Req) : (windowBytes s r).reqs = s.reqs ∧ (windowBytes s r).parties = s.parties := by
  unfold windowBytes
  split
  · exact ⟨(storePieces_frame ..).1, (storePieces_frame ..).2.2⟩
  · exact ⟨rfl, rfl⟩

theorem windowBytes_of_not_win {s : State} {r : Req} (h : r.win = false) : windowBytes s r = s := by
  simp only [windowBytes, h]

theorem windowBytes_of_win {s : State} {r : Req} {size data : Nat} (hwin : r.win = true) (hkind : r.kind = .store size data) :
    windowBytes s r = s.storePieces data r.pieces := by
  simp only [windowBytes, hwin, hkind]

theorem wakeNap_left (ls : List Nat) (x : Party) : (wakeNap ls x).left = x.left ∧ (wakeNap ls x).region = x.region := by
  unfold wakeNap
  split
  · split <;> exact ⟨rfl, rfl⟩
  · exact ⟨rfl, rfl⟩

theorem regionOver_napWake (s : State) (ls : List Nat) (p : Nat) (o : Nat × Nat) : (s.napWake ls).regionOver p o = s.regionOver p o := by
  rw [State.regionOver, State.regionOver, napWake_party?]
  cases s.party? p with
  | none => rfl
  | some x =>
    simp only [Option.map_some, Party.regionOf]
    rw [(wakeNap_left ls x).1, (wakeNap_left ls x).2]

theorem regionOver_of_parties {s t : State} (h : t.parties = s.parties) (p : Nat) (o : Nat × Nat) : t.regionOver p o = s.regionOver p o := by
  rw [State.regionOver, State.regionOver, State.party?, State.party?, h]

theorem unacked_of_reqs {s t : State} (h : t.reqs = s.reqs) (p : Nat) (o : Nat × Nat) : t.unacked p o = s.unacked p o := by
  rw [State.unacked, h]
  rfl

theorem exec_acknowledge {s : State} {n : Nat} {r : Req} (hn : sfind s.reqs n = some r) (hphase : r.phase = .unacked)
    (hfirst : (r.win && s.winBehind n r) = false) :
    exec (.writeAcknowledged n) s = .next (((((windowBytes s r).dropReq n).linesWrite (linesOf r.pieces)).napWake
      (linesOf r.pieces)).releaseRegions r.party r.owners).wake := by
  have hready : (r.phase != .unacked || (r.win && s.winBehind n r)) = false := by rw [hphase, hfirst]; rfl
  rw [exec_writeAcknowledged, execWriteAcknowledged, hn]
  refine congrArg State.event ?_
  exact (if_neg (ne_true_of_eq_false hready)).trans rfl

theorem writesAreAcknowledged : Says.WritesAreAcknowledged := by
  intro s n r hn hphase hkinds
  have hfirst : (r.win && s.winBehind n r) = false := by
    rcases hkinds with h | ⟨-, h, -⟩ <;> simp [h]
  let a := (windowBytes s r).dropReq n
  let b := a.linesWrite (linesOf r.pieces)
  have hline : LineWritten a b := LineWritten.linesWrite a (linesOf r.pieces)
  obtain ⟨hreqs, hparties⟩ := windowBytes_frame s r
  have hbyte : ∀ c, ((b.napWake (linesOf r.pieces)).releaseRegions r.party r.owners).wake.byteAt c = (windowBytes s r).byteAt c := fun c => by
    rw [releaseRegions_eq]
    exact hline.byteAt c
  have hreqs' : b.reqs = sdrop s.reqs n := hline.reqs.trans (congrArg (sdrop · n) hreqs)
  refine ⟨_, exec_acknowledge hn hphase hfirst, ?_, fun hwin c => ?_, fun size data hwin hkind => ?_, fun q hq => ?_, fun o ho hover hack g hg hp => ?_⟩
  · rw [wake_reqs, releaseRegions_eq]
    show sfind b.reqs n = none
    rw [hreqs']
    exact sfind_sdrop_same ..
  · exact (hbyte c).trans (by rw [windowBytes_of_not_win hwin])
  · rcases hkinds with h | ⟨-, -, hnd⟩
    · rw [hwin] at h; cases h
    · have hst := stored_storePieces s data r.pieces hnd
      rw [← windowBytes_of_win hwin hkind] at hst
      exact stored_of_byteAt hst hbyte
  · have hl : q.1 / 64 ∈ linesOf r.pieces := List.mem_map.2 ⟨q, hq, rfl⟩
    intro p x ls left f m hp hx hpark hm
    obtain ⟨y, hy, hawake⟩ := napsWake_napWake (t := b) (sameParks_of_parties (hline.parties.trans hparties)) hl 0 p x ls left f m hp hx hpark hm
    refine ⟨{ y with hold := false }, ?_, hawake⟩
    rw [wake_party?, releaseRegions_eq]
    exact (congrArg (Option.map _) hy).trans rfl
  · rw [wake_tags, releaseRegions_eq] at hg
    refine (mem_released hg hp).2 o ho ?_ ?_
    · rw [regionOver_napWake, regionOver_of_parties (hline.parties.trans hparties)]
      exact hover
    · exact (unacked_of_reqs (s := s.dropReq n) (t := b.napWake (linesOf r.pieces)) hreqs' _ _).trans hack

/-- Settles O26: a reply lands where its request says, and an acknowledged write is open no more. -/
theorem repliesAndAcknowledgements : Obligations.RepliesAndAcknowledgements := ⟨repliesReachTheirDestination, writesAreAcknowledged⟩

end Sys2Proof.Proofs
end

section
/-! PROOFS. Matrix words at issue (R219 to R222, R263, R351): O29. -/

namespace Sys2Proof.Proofs

open Sys2Proof Sys2Proof.Machine Sys2Proof.Says

/-! ### Two slots taken by one word (R212) -/

theorem useAll_two {k k' k'' : Core} {crew a b : Nat} {u v : SlotUse} (ha : k.use crew a u = .ok k') (hb : k'.use crew b v = .ok k'') :
    k.useAll crew [(a, u), (b, v)] = .ok k'' := by
  rw [Core.useAll, ha]
  dsimp only
  rw [Core.useAll, hb]
  rfl

/-- The core once a product reads two slots, which may be one. -/
def withReads (k : Core) (a b : Nat) : Core :=
  let k := k.setTile a (draining (k.tile a) 1)
  k.setTile b (draining (k.tile b) 1)

theorem useAll_read {k : Core} {crew a b : Nat} (ha : Readable k crew a) (hb : Readable k crew b) :
    k.useAll crew [(a, .read), (b, .read)] = .ok (withReads k a b) := by
  refine useAll_two (use_read ha) (use_read ?_)
  obtain ⟨hb63, howner, hst⟩ := hb
  by_cases h : b = a
  · subst h
    exact ⟨hb63, by simp [draining, howner], by simp [draining]⟩
  · exact ⟨hb63, by simp [h, howner], by simpa [h] using hst⟩

theorem tile_withReads (k : Core) (a b j : Nat) : (withReads k a b).tile j =
    if j = a ∨ j = b then draining (k.tile j) ((if j = a then 1 else 0) + if j = b then 1 else 0) else k.tile j := by
  by_cases ha : j = a
  · by_cases hb : j = b
    · subst ha
      subst hb
      simp [withReads, draining]
    · have hba : b ≠ a := fun h => hb (ha.trans h.symm)
      simp [withReads, ha, hba, Ne.symm hba]
  · by_cases hb : j = b
    · subst hb
      simp [withReads, ha]
    · simp [withReads, ha, hb]

/-- The core once a command writes two slots in a row. -/
def withWrites (k : Core) (a : Nat) : Core :=
  let k := k.setTile a { k.tile a with st := .filling }
  k.setTile (a + 1) { k.tile (a + 1) with st := .filling }

theorem useAll_write {k : Core} {crew a : Nat} (ha : Writable k crew a) (hb : Writable k crew (a + 1)) :
    k.useAll crew [(a, .write), (a + 1, .write)] = .ok (withWrites k a) := by
  refine useAll_two (use_write ha) (use_write ?_)
  obtain ⟨hb63, howner, hst⟩ := hb
  exact ⟨hb63, by simp [howner], by simpa using hst⟩

theorem tile_withWrites (k : Core) (a j : Nat) :
    (withWrites k a).tile j = if j = a ∨ j = a + 1 then { k.tile j with st := .filling } else k.tile j := by
  by_cases ha : j = a
  · simp [withWrites, ha]
  · by_cases hb : j = a + 1
    · simp [withWrites, hb]
    · simp [withWrites, ha, hb]

/-- The threads that `mx.rd` writes for. -/
def rdThreads (x : Party) (r : Reg) : List Nat := match r with | .s _ => [0] | .v _ => threadsOf x.width x.m0

/-! ### A command queued on a context (R219) -/

/-- A core that differs in tiles alone, and then queues a matrix command. -/
theorem mxQueued_queueMx {s : State} {x : Party} {k : Core} {d : Nat} (hissued : k.issued = (s.core (coreNo x)).issued)
    (hmx : k.mx = (s.core (coreNo x)).mx) (op : MxOp) :
    MxQueued s x d op (k.queueMx x.crew d op) ∧ IssuedElse (s.core (coreNo x)) (k.queueMx x.crew d op) [4 + d] := by
  have hi : ∀ j, k.issuedOf j = (s.core (coreNo x)).issuedOf j := fun j => by rw [Core.issuedOf, hissued]; rfl
  have hc : ∀ j, k.ctx j = (s.core (coreNo x)).ctx j := fun j => by rw [Core.ctx, hmx]; rfl
  refine ⟨⟨?_, fun j => ?_⟩, fun j hj => ?_⟩
  · rw [issuedOf_queueMx, if_pos rfl, hi]
  · rw [ctx_queueMx, hi, hc, hc, hc]
  · rw [issuedOf_queueMx, if_neg (by simpa using hj), hi]

/-- A context that is updated from what it was. -/
theorem ctx_setCtx_here (k : Core) (d : Nat) (f : MxCtx → MxCtx) (j : Nat) :
    (k.setCtx d (f (k.ctx d))).ctx j = if j = d then f (k.ctx j) else k.ctx j := by
  rw [ctx_setCtx]
  split
  · next h => rw [h]
  · rfl

section
variable {s : State} {p : Nat} {x : Party} (hi : Issuing s p x) (m : Mods) (d : Fin 2)
include hi

section
variable (hown : ((s.core (coreNo x)).ctx d.val).owner = some x.crew)
include hown

/-- Issue on a context of the party's crew. -/
theorem onCtx_owned (go : Core → MxCtx → State) :
    (Pins s x).onCtx p x (coreNo x) d.val go = go (s.core (coreNo x)) ((s.core (coreNo x)).ctx d.val) := by
  rw [State.onCtx, core_pins]
  exact if_neg (by simp [hown])

theorem mxMma_queues {ra rb : SlotRef} (ha : Readable (s.core (coreNo x)) x.crew (x.slotOf ra))
    (hb : Readable (s.core (coreNo x)) x.crew (x.slotOf rb))
    (hla : ((s.core (coreNo x)).tile (x.slotOf ra)).layout = ((s.core (coreNo x)).ctx d.val).bind.layout + 1)
    (hlb : ((s.core (coreNo x)).tile (x.slotOf rb)).layout = ((s.core (coreNo x)).ctx d.val).bind.layout + 1) :
    exec (.mxMma m d ra rb) s = .next ((Pins s x).setCore (coreNo x)
      ((withReads (s.core (coreNo x)) (x.slotOf ra) (x.slotOf rb)).queueMx x.crew d.val (.mma (x.slotOf ra) (x.slotOf rb)))) := by
  have hlayout : ∀ j, ((withReads (s.core (coreNo x)) (x.slotOf ra) (x.slotOf rb)).tile j).layout = ((s.core (coreNo x)).tile j).layout :=
    fun j => by rw [tile_withReads]; split <;> rfl
  rw [exec_mxMma, execMxMma, engine_next hi, onCtx_owned hi d hown]
  dsimp only
  rw [State.withSlots, core_pins, useAll_read ha hb]
  dsimp only
  rw [hlayout, hlayout, hla, hlb, MxBind.tileLayout]
  exact congrArg _ (if_neg (by simp))

theorem mxSm_queues {ra : SlotRef} {rb : Src} (hgood : goodScale ((x.srcZ rb).setWidth 32) = true)
    (hother : ((s.core (coreNo x)).ctx (1 - d.val)).owner = some x.crew) (ha : Writable (s.core (coreNo x)) x.crew (x.slotOf ra))
    (hb : Writable (s.core (coreNo x)) x.crew (x.slotOf ra + 1)) :
    exec (.mxSm m d ra rb) s = .next ((Pins s x).setCore (coreNo x)
      (((withWrites (s.core (coreNo x)) (x.slotOf ra)).mapTiles (x.slotOf ra) (fun t => { t with layout := 2 }) 2).queueMx x.crew d.val
        (.sm (x.slotOf ra) ((x.srcZ rb).setWidth 32)))) := by
  have hroom : ¬ 62 < x.slotOf ra := by have := hb.1; omega
  rw [exec_mxSm, execMxSm, engine_next hi, onCtx_owned hi d hown]
  dsimp only
  rw [hgood, hother, if_neg (by simp), if_neg hroom, State.withSlots, core_pins, useAll_write ha hb]

theorem mxRd_queues {r : Reg} {b : Src} (hwithin : Within x m [(r, 1)]) (hlow : (x.srcZ b).toNat < 2 ^ 18)
    (h7 : (x.srcZ b).toNat / 128 % 2 = 0) (h15 : (x.srcZ b).toNat / 2 ^ 15 % 2 = 0) {ts : List Nat}
    (hts : ts = rdThreads x r)
    (hpos : ∀ t ∈ ts, (if (x.srcZ b).toNat / 2 ^ 16 % 4 = 0 then (x.srcZ b).toNat / 256 % 128 else (x.srcZ b).toNat % 128) + t ≤ 127) :
    exec (.mxRd m r d b) s = .next (((Pins s x).setParty p (x.addFlag x.flagB)).setCore (coreNo x)
      ((s.core (coreNo x)).queueMx x.crew d.val (.rd p (ts.map (fun t => (t, resultRun x r 1,
        (if (x.srcZ b).toNat / 2 ^ 16 % 4 = 0 then (x.srcZ b).toNat / 256 % 128 else (x.srcZ b).toNat % 128) + t)))
        ((x.srcZ b).toNat / 2 ^ 16 % 4) ((x.srcZ b).toNat % 128) x.flagB))) := by
  have hrow : ((x.srcZ b).extractLsb' 0 7).toNat = (x.srcZ b).toNat % 128 := by rw [BitVec.extractLsb'_toNat, Nat.shiftRight_zero]
  have hcol : ((x.srcZ b).extractLsb' 8 7).toNat = (x.srcZ b).toNat / 256 % 128 := by
    rw [BitVec.extractLsb'_toNat, Nat.shiftRight_eq_div_pow]
  have hsrc : ((x.srcZ b).extractLsb' 16 2).toNat = (x.srcZ b).toNat / 2 ^ 16 % 4 := by
    rw [BitVec.extractLsb'_toNat, Nat.shiftRight_eq_div_pow]
  have hclear : ((x.srcZ b).getLsbD 7 || (x.srcZ b).getLsbD 15 || (x.srcZ b).extractLsb' 18 46 != 0) = false := by
    have h7' : (x.srcZ b).getLsbD 7 = false := by
      rw [BitVec.getLsbD, Nat.testBit_eq_decide_div_mod_eq, show (x.srcZ b).toNat / 2 ^ 7 % 2 = 0 from h7]
      rfl
    have h15' : (x.srcZ b).getLsbD 15 = false := by rw [BitVec.getLsbD, Nat.testBit_eq_decide_div_mod_eq, h15]; rfl
    rw [h7', h15', extractLsb'_eq_zero (lo := 18) hlow]
    rfl
  have hfits : (ts.any fun t => decide (127 <
      (if (x.srcZ b).toNat / 2 ^ 16 % 4 = 0 then (x.srcZ b).toNat / 256 % 128 else (x.srcZ b).toNat % 128) + t)) = false := by
    rw [List.any_eq_false]
    intro t ht
    simpa using hpos t ht
  have hparty : ∀ k, ((Pins s x).setCore (coreNo x) k).onParty p (fun x => x.addFlag x.flagB) =
      ((Pins s x).setParty p (x.addFlag x.flagB)).setCore (coreNo x) k := fun k =>
    onParty_of_some (s := (Pins s x).setCore (coreNo x) k) (issuing_pins hi).2 _
  have hlane : ∀ t, (if (x.srcZ b).toNat / 2 ^ 16 % 4 = 0 then (x.srcZ b).toNat / 256 % 128 + t else (x.srcZ b).toNat % 128 + t) =
      (if (x.srcZ b).toNat / 2 ^ 16 % 4 = 0 then (x.srcZ b).toNat / 256 % 128 else (x.srcZ b).toNat % 128) + t := fun t => by split <;> rfl
  rw [exec_mxRd, execMxRd, engine_next hi, onCtx_owned hi d hown]
  dsimp only
  rw [alloc_within hwithin (by simp), hclear, hrow, hcol, hsrc]
  refine congrArg _ ((if_neg Bool.false_ne_true).trans ?_)
  simp only [hlane, hparty]
  cases r with
  | s n =>
    subst hts
    exact if_neg (ne_true_of_eq_false hfits)
  | v n =>
    subst hts
    exact if_neg (ne_true_of_eq_false hfits)

theorem mxClr_queues : exec (.mxClr m d) s = .next ((Pins s x).setCore (coreNo x) ((s.core (coreNo x)).queueMx x.crew d.val .clr)) := by
  rw [exec_mxClr, execMxClr, engine_next hi, onCtx_owned hi d hown]

theorem mxCtlBind_binds {bd : MxBind} (hbd : bindOf x.ctlRegs.mxctl = some bd) : exec (.mxCtlBind m d) s = .next ((Pins s x).setCore (coreNo x)
    ((s.core (coreNo x)).setCtx d.val { (s.core (coreNo x)).ctx d.val with bind := bd })) := by
  rw [exec_mxCtlBind, execMxCtlBind, engine_next hi, onCtx_owned hi d hown, hbd]

theorem mxCtlRelease_releases (hidle : ((s.core (coreNo x)).ctx d.val).queue = []) : exec (.mxCtlRelease m d) s = .next
    ((Pins s x).setCore (coreNo x) ((s.core (coreNo x)).setCtx d.val { (s.core (coreNo x)).ctx d.val with owner := none })) := by
  rw [exec_mxCtlRelease, execMxCtlRelease, engine_next hi, onCtx_owned hi d hown]
  exact congrArg _ (if_pos (by rw [hidle]; rfl))

theorem mxCtlRelease_waits (hbusy : ((s.core (coreNo x)).ctx d.val).queue ≠ []) :
    exec (.mxCtlRelease m d) s = .next ((Pins s x).setParty p { x with ctl := .stall }) := by
  rw [exec_mxCtlRelease, execMxCtlRelease, engine_next hi, onCtx_owned hi d hown]
  refine congrArg _ ((if_neg (by simpa using hbusy)).trans ?_)
  exact onParty_of_some (issuing_pins hi).2 _

end

theorem mxCtlClaim_claims (hfree : ((s.core (coreNo x)).ctx d.val).owner = none) (hidle : ((s.core (coreNo x)).ctx d.val).queue = [])
    (htokens : (s.core (coreNo x)).tokens = true) {bd : MxBind} (hbd : bindOf x.ctlRegs.mxctl = some bd) :
    exec (.mxCtlClaim m d) s = .next ((Pins s x).setCore (coreNo x)
      ((s.core (coreNo x)).setCtx d.val ⟨some x.crew, bd, [], [], [], [], []⟩)) := by
  have htake : (Pins s x).takeTokens (coreNo x) = Pins s x := if_pos (by rw [core_pins, htokens]; rfl)
  rw [exec_mxCtlClaim, execMxCtlClaim, engine_next hi]
  dsimp only
  rw [core_pins, hfree, hbd]
  dsimp only
  rw [htake, core_pins, hidle, htokens]
  simp only [Option.isSome_none, Option.isNone_none, List.isEmpty_nil, Bool.not_true, Bool.and_false, Bool.false_and, Bool.or_false,
    Bool.false_eq_true, if_false, State.onCore, core_pins, hfree, if_true, MxCtx.clear, hidle]

theorem mx_refused (hother : ((s.core (coreNo x)).ctx d.val).owner ≠ none) (hcrew : ((s.core (coreNo x)).ctx d.val).owner ≠ some x.crew) :
    exec (.mxCtlClaim m d) s = .next ((Pins s x).refuseCmd p x 0x1F) ∧ exec (.mxClr m d) s = .next ((Pins s x).refuseCmd p x 0x1F) := by
  refine ⟨?_, ?_⟩
  · rw [exec_mxCtlClaim, execMxCtlClaim, engine_next hi]
    refine congrArg _ (if_pos ?_)
    rw [core_pins]
    simp [Option.isSome_iff_ne_none.2 hother, hcrew]
  · rw [exec_mxClr, execMxClr, engine_next hi, State.onCtx]
    refine congrArg _ (if_pos ?_)
    rw [core_pins]
    simpa using hcrew

end

/-- Settles O29: a matrix word queues its command on its context, and `mx.ctl` claims, binds and releases it. -/
theorem matrixCommandsQueue : Obligations.MatrixCommandsQueue := by
  intro s p x m d hi c o
  refine ⟨fun hown => ⟨?_, ?_, ?_, ?_, ?_, ?_, ?_⟩, ?_, ?_⟩
  · intro ra rb a b ha hb hla hlb
    obtain ⟨hq, he⟩ := mxQueued_queueMx (s := s) (x := x) (k := withReads o a b) (d := d.val) rfl rfl (.mma a b)
    exact ⟨_, _, mxMma_queues hi m d hown ha hb hla hlb, coreIs_setCore _ _ _, hq, he, tile_withReads _ _ _, rfl⟩
  · intro ra rb a w hgood hother ha hb
    obtain ⟨hq, he⟩ := mxQueued_queueMx (s := s) (x := x) (k := (withWrites o a).mapTiles a (fun t => { t with layout := 2 }) 2) (d := d.val) rfl rfl (.sm a w)
    refine ⟨_, _, mxSm_queues hi m d hown hgood hother ha hb, coreIs_setCore _ _ _, hq, he, fun j => ?_, rfl⟩
    show ((withWrites o a).mapTiles a (fun t => { t with layout := 2 }) 2).tile j = _
    rw [tile_mapTiles, tile_withWrites]
    by_cases hj : j = a ∨ j = a + 1
    · rw [if_pos hj, if_pos hj, if_pos (by omega)]
      rfl
    · rw [if_neg hj, if_neg hj, if_neg (by omega)]
  · intro r b hwithin w row col src ts pos hlow h7 h15 hpos
    obtain ⟨hq, he⟩ := mxQueued_queueMx (s := s) (x := x) (k := o) (d := d.val) rfl rfl
      (.rd p (ts.map (fun t => (t, resultRun x r 1, pos t))) src row x.flagB)
    exact ⟨_, _, mxRd_queues hi m d hown hwithin hlow h7 h15 (by cases r <;> rfl) hpos, coreIs_setCore _ _ _, hq, he, rfl⟩
  · obtain ⟨hq, he⟩ := mxQueued_queueMx (s := s) (x := x) (k := o) (d := d.val) rfl rfl .clr
    exact ⟨_, _, mxClr_queues hi m d hown, coreIs_setCore _ _ _, hq, he, rfl⟩
  · exact fun bd hbd => ⟨_, _, mxCtlBind_binds hi m d hown hbd, coreIs_setCore _ _ _, ctx_setCtx_here o d.val fun c => { c with bind := bd }, rfl⟩
  · exact fun hidle =>
      ⟨_, _, mxCtlRelease_releases hi m d hown hidle, coreIs_setCore _ _ _, ctx_setCtx_here o d.val fun c => { c with owner := none }, rfl⟩
  · exact fun hbusy => mxCtlRelease_waits hi m d hown hbusy
  · exact fun hfree hidle htokens bd hbd =>
      ⟨_, _, mxCtlClaim_claims hi m d hfree hidle htokens hbd, coreIs_setCore _ _ _, fun j => ctx_setCtx _ _ _ _, rfl⟩
  · intro hother hcrew
    obtain ⟨hclaim, hclr⟩ := mx_refused hi m d hother hcrew
    exact ⟨_, raises_refuseCmd (issuing_pins hi) 0x1F, hclaim, hclr⟩

end Sys2Proof.Proofs
end

section
/-! PROOFS. Timelines: waits, reads and increments (R210, R223, R224): O30. -/

namespace Sys2Proof.Proofs

open Sys2Proof Sys2Proof.Machine Sys2Proof.Says

/-! ### The fault record that a wait or read delivers (R210) -/

/-- The records that a wait or read of a timeline up to `n` covers. -/
def covered (k : Core) (crew tl n : Nat) : List EngFault := k.faults.filter (fun f => f.crew == crew && f.tl == tl && decide (f.ticket ≤ n))

theorem mem_covered {k : Core} {crew tl n : Nat} {f : EngFault} :
    f ∈ covered k crew tl n ↔ f ∈ k.faults ∧ f.crew = crew ∧ f.tl = tl ∧ f.ticket ≤ n := by
  simp [covered, and_assoc]

/-- The earlier of the record kept so far and the next. -/
def earlier (m : Option EngFault) (f : EngFault) : Option EngFault :=
  match m with | none => some f | some g => some (if f.ticket < g.ticket then f else g)

theorem faultFor_eq (k : Core) (crew tl n : Nat) : k.faultFor crew tl n = (covered k crew tl n).foldl earlier none := rfl

/-- The fold keeps one of its records with the smallest ticket. -/
theorem foldl_earlier (fs : List EngFault) (g : EngFault) :
    ∃ f ∈ g :: fs, fs.foldl earlier (some g) = some f ∧ ∀ h ∈ g :: fs, f.ticket ≤ h.ticket := by
  induction fs generalizing g with
  | nil => exact ⟨g, List.mem_singleton_self g, rfl, fun h hh => by rw [List.mem_singleton.1 hh]⟩
  | cons e fs ih =>
    obtain ⟨f, hf, heq, hmin⟩ := ih (if e.ticket < g.ticket then e else g)
    have hfirst := hmin _ List.mem_cons_self
    refine ⟨f, ?_, heq, fun h hh => ?_⟩
    · rcases List.mem_cons.1 hf with rfl | hf
      · split
        · exact List.mem_cons_of_mem _ List.mem_cons_self
        · exact List.mem_cons_self
      · exact List.mem_cons_of_mem _ (List.mem_cons_of_mem _ hf)
    · rcases List.mem_cons.1 hh with rfl | hh
      · split at hfirst <;> omega
      · rcases List.mem_cons.1 hh with rfl | hh
        · split at hfirst <;> omega
        · exact hmin h (List.mem_cons_of_mem _ hh)

theorem faultFor_none {k : Core} {crew tl n : Nat} (h : NoRecord k crew tl n) : k.faultFor crew tl n = none := by
  have hnone : covered k crew tl n = [] := List.eq_nil_iff_forall_not_mem.2 fun f hf => by
    obtain ⟨hmem, hcov⟩ := mem_covered.1 hf
    exact h f hmem hcov
  rw [faultFor_eq, hnone]
  rfl

theorem faultFor_first {k : Core} {crew tl n : Nat} {f : EngFault} (h : FirstRecord k crew tl n f) (huniq : ∀ g, FirstRecord k crew tl n g → g = f) :
    k.faultFor crew tl n = some f := by
  obtain ⟨hf, hcrew, htl, hn, hleast⟩ := h
  have hcov : f ∈ covered k crew tl n := mem_covered.2 ⟨hf, hcrew, htl, hn⟩
  cases hc : covered k crew tl n with
  | nil => rw [hc] at hcov; cases hcov
  | cons g gs =>
    obtain ⟨e, he, heq, hmin⟩ := foldl_earlier gs g
    rw [← hc] at he hmin
    obtain ⟨hmem, hecrew, hetl, hen⟩ := mem_covered.1 he
    have hfirst : FirstRecord k crew tl n e := ⟨hmem, hecrew, hetl, hen, fun d hd hdcrew hdtl =>
      le_trans (hmin f hcov) (hleast d hd hdcrew hdtl)⟩
    rw [faultFor_eq, hc, List.foldl_cons]
    exact heq.trans (congrArg some (huniq e hfirst))

theorem sget_addrFor (w : Nat) (m : Mask) (a : DWord) (u : Nat) : sget 0 (addrFor w m a) u = if u ∈ threadsOf w m then a else 0 := by
  rw [addrFor, sget_foldl_sset]
  rfl

/-! ### The words of a timeline at issue -/

section
variable {s : State} {p : Nat} {x : Party} (hi : Issuing s p x) (m : Mods) (tl : Fin 16)
include hi

section
variable {b : Src} (hpast : tl.val < 8 → (x.srcZ b).toNat ≤ (s.core (coreNo x)).issuedOf tl.val)
include hpast

theorem tlWait_delivers {f : EngFault} (hf : (s.core (coreNo x)).faultFor x.crew tl.val (x.srcZ b).toNat = some f) :
    exec (.tlWait m tl b) s = .next ((Pins s x).deliverEngine p x (coreNo x) f) := by
  rw [exec_tlWait, execTlWait, engine_next hi]
  dsimp only
  rw [core_pins, if_neg (by simpa using hpast), hf]

theorem tlWait_syncs (hf : (s.core (coreNo x)).faultFor x.crew tl.val (x.srcZ b).toNat = none)
    (hmbx : s.mbxStOpen p (threadsOf x.width x.m0) = false) : exec (.tlWait m tl b) s = .next
      (if (x.srcZ b).toNat ≤ (s.core (coreNo x)).doneOf tl.val then (Pins s x).endSync p (threadsOf x.width x.m0) false
        else (Pins s x).setParty p { x with park := .timeline tl.val (x.srcZ b).toNat, parkedAt := s.now }) := by
  have hsync : Synced (Pins s x) p (threadsOf x.width x.m0) false false :=
    ⟨by rw [State.mbxStOpen, Pins, onCrew_reqs]; exact hmbx, nofun⟩
  rw [exec_tlWait, execTlWait, engine_next hi]
  dsimp only
  rw [core_pins, if_neg (by simpa using hpast), hf]
  dsimp only
  rw [whenSynced_of_synced hsync]
  simp only [Pins, onCrew_now]

end

theorem tlWait_refused {b : Src} (hlow : tl.val < 8) (hpast : (s.core (coreNo x)).issuedOf tl.val < (x.srcZ b).toNat) :
    exec (.tlWait m tl b) s = .next ((Pins s x).refuseCmd p x 0x25) := by
  rw [exec_tlWait, execTlWait, engine_next hi]
  refine congrArg _ (if_pos ?_)
  rw [core_pins]
  simp [hlow, hpast]

/-- What `tl.rd` reads: the completed value, or the issued count of an engine timeline. -/
def timelineValue (k : Core) (tl j : Nat) : Nat := if j = 1 ∧ tl < 8 then k.issuedOf tl else k.doneOf tl

theorem tlRd_reads {d : Reg} {j : Fin 2} (hwithin : Within x m [(d, 1)])
    (hf : (s.core (coreNo x)).faultFor x.crew tl.val (timelineValue (s.core (coreNo x)) tl.val j.val) = none) :
    exec (.tlRd m d tl j) s = .next (match d with
      | .s _ => (Pins s x).giveU p d (BitVec.ofNat 64 (timelineValue (s.core (coreNo x)) tl.val j.val))
      | .v n => (Pins s x).onParty p (fun y => y.setVs (x.base + n.val)
          ((threadsOf x.width x.m0).map (fun t => (t, BitVec.ofNat 32 (timelineValue (s.core (coreNo x)) tl.val j.val)))))) := by
  have hvalue : (if (j.val = 1 && tl.val < 8 : Bool) then (s.core (coreNo x)).issuedOf tl.val else (s.core (coreNo x)).doneOf tl.val) =
      timelineValue (s.core (coreNo x)) tl.val j.val := by
    simp [timelineValue]
  rw [exec_tlRd, execTlRd, engine_next hi]
  dsimp only
  rw [alloc_within hwithin (by simp), core_pins, hvalue, hf]
  cases d <;> rfl

theorem tlInc_adds (n : Fin 31) {b : Src} (hmbx : s.mbxStOpen p (threadsOf x.width x.m0) = false)
    (hacked : s.writesOpen p (List.range x.width) false = false) : exec (.tlInc m (.s n) tl b) s = .next
      ((((Pins s x).endSync p (threadsOf x.width x.m0) false).onCore (coreNo x) (fun k =>
        { k with done := sset 0 k.done tl.val (((s.core (coreNo x)).doneOf tl.val + (x.srcZ b).toNat) % 2 ^ 64) })).giveU p (.s n)
        (BitVec.ofNat 64 (((s.core (coreNo x)).doneOf tl.val + (x.srcZ b).toNat) % 2 ^ 64))) := by
  have hsync : Synced (Pins s x) p (threadsOf x.width x.m0) false false :=
    ⟨by rw [State.mbxStOpen, Pins, onCrew_reqs]; exact hmbx, nofun⟩
  have hacked' : (Pins s x).writesOpen p (List.range x.width) false = false := by
    rw [State.writesOpen, Pins, onCrew_reqs, onCrew_pkg]
    exact hacked
  rw [exec_tlInc, execTlInc, engine_next hi]
  dsimp only
  rw [whenSynced_of_synced hsync, core_pins]
  exact congrArg _ (if_neg (ne_true_of_eq_false hacked'))

end

/-- A register of a word with a uniform destination is never past Rt. -/
theorem within_uniform (x : Party) (m : Mods) (n : Fin 31) : Within x m [(.s n, 1)] := .inr fun _ _ h => by simp at h

theorem core_of_regionsEnd {s s' : State} {p : Nat} {x x' : Party} {ts : List Nat} (h : RegionsEnd s p x ts s' x') (c : Nat) :
    s'.core c = s.core c := by
  rw [h.2.2.1]
  rfl

/-- Settles O30: waits, reads and increments of a timeline, and the fault records they deliver. -/
theorem timelines : Obligations.Timelines := by
  intro s p x m tl hi c o ts
  have hp := (issuing_pins hi).2
  have hnodup : ts.Nodup := nodup_threadsOf _ _
  refine ⟨?_, ?_, ?_⟩
  · intro b n
    refine ⟨fun hlow hpast => ?_, fun hpast => ⟨fun f hfirst huniq => ?_, fun hnone hmbx => ⟨fun hdone => ?_, fun hdone => ?_⟩⟩⟩
    · exact ⟨_, raises_refuseCmd (issuing_pins hi) 0x25, tlWait_refused hi m tl hlow hpast⟩
    · refine ⟨{ o with faults := o.faults.erase f }, _, _, ?_, rfl, tlWait_delivers hi m tl hpast (faultFor_first hfirst huniq),
        rfl, rfl, rfl, rfl, sget_addrFor _ _ _, rfl⟩
      rw [State.onCore, core_pins]
      exact coreIs_setCore _ _ _
    · obtain ⟨z, hz⟩ := exists_regionsEnd_endSync hp hnodup false
      refine ⟨_, z, hz, ?_⟩
      rw [tlWait_syncs hi m tl hpast (faultFor_none hnone) hmbx, if_pos hdone]
    · rw [tlWait_syncs hi m tl hpast (faultFor_none hnone) hmbx, if_neg (Nat.not_le.2 hdone)]
  · intro j v hnone
    refine ⟨fun n => ?_, fun n hpre hwithin => ?_⟩
    · refine ⟨_, uniStep_setU x n.val _, ?_⟩
      rw [tlRd_reads hi m tl (within_uniform x m n) (faultFor_none hnone)]
      exact congrArg _ (giveU_uniform hp n _)
    · refine ⟨x.setVs (x.base + n.val) (ts.map (fun t => (t, BitVec.ofNat 32 v))), fun t r hr => ?_, setVs_eq _ _ _, ?_⟩
      · have hreps : repsOf m = 1 := by simp [repsOf, hpre]
        by_cases htouch : x.selected m ||| x.zeroed m = 0
        · have hm0 : x.m0 = 0 := by simpa [Party.selected, Party.zeroed, hpre] using htouch
          have hts : ts = [] := List.eq_nil_iff_forall_not_mem.2 fun u hu => by
            have := (mem_threadsOf.1 hu).2
            rw [hm0] at this
            simp [bitOf] at this
          simp [hts, Party.setVs]
        · exact vNow_setVs_map x ts (fun _ => BitVec.ofNat 32 v) t (dest_lt_of_within hwithin htouch (k := 0) (by omega)) hr
      · rw [tlRd_reads hi m tl hwithin (faultFor_none hnone)]
        exact congrArg _ (onParty_of_some hp _)
  · intro n b hmbx hacked v
    obtain ⟨y, hy⟩ := exists_regionsEnd_endSync hp hnodup false
    have hcore : ((Pins s x).endSync p ts false).core c = o := (core_of_regionsEnd hy c).trans (core_pins s x c)
    refine ⟨_, y, _, { o with done := sset 0 o.done tl.val v }, _, hy, uniStep_setU y n.val _, tlInc_adds hi m tl n hmbx hacked, ?_,
      fun j => sget_sset .., rfl⟩
    rw [State.onCore, hcore, setCore_giveU (party?_of_regionsEnd hy)]
    exact coreIs_setCore _ _ _

end Sys2Proof.Proofs
end

section
/-! PROOFS. What a translation and the checks of R169 read (R28, R359 to R362, R371): machines that agree on it answer alike. -/

namespace Sys2Proof.Proofs

open Sys2Proof Sys2Proof.Machine Sys2Proof.Says

/-- Two machines that agree on all that a translation for a lodging reads: bytes, owners and windows, the package's number and service, the
lodging's tables and the caches of the quads. -/
structure SameTables (fe : Nat) (s t : State) : Prop where
  bytes : ∀ a, t.byteAt a = s.byteAt a
  owner : t.mem.owner = s.mem.owner
  windows : t.mem.windows = s.mem.windows
  number : t.pkg.number = s.pkg.number
  service : t.pkg.service = s.pkg.service
  root1 : (t.lod fe).root1 = (s.lod fe).root1
  root2 : (t.lod fe).root2 = (s.lod fe).root2
  quads : t.quads = s.quads

namespace SameTables

theorem refl (fe : Nat) (s : State) : SameTables fe s s := ⟨fun _ => rfl, rfl, rfl, rfl, rfl, rfl, rfl, rfl⟩

theorem trans {fe : Nat} {s t u : State} (h : SameTables fe s t) (h' : SameTables fe t u) : SameTables fe s u :=
  ⟨fun a => (h'.bytes a).trans (h.bytes a), h'.owner.trans h.owner, h'.windows.trans h.windows, h'.number.trans h.number,
    h'.service.trans h.service, h'.root1.trans h.root1, h'.root2.trans h.root2, h'.quads.trans h.quads⟩

/-- An update of the lodging that keeps its tables. -/
theorem onLod (fe : Nat) (s : State) (fe' : Nat) {f : Lodging → Lodging} (h1 : ∀ l, (f l).root1 = l.root1) (h2 : ∀ l, (f l).root2 = l.root2) :
    SameTables fe s (s.onLod fe' f) := by
  have hlod : (s.onLod fe' f).lod fe = if fe = fe' then f (s.lod fe) else s.lod fe := by
    refine (sget_sset ..).trans ?_
    split
    · next h => rw [h]
    · rfl
  refine ⟨fun _ => rfl, rfl, rfl, rfl, rfl, ?_, ?_, rfl⟩
  · rw [hlod]
    split
    · exact h1 _
    · rfl
  · rw [hlod]
    split
    · exact h2 _
    · rfl

theorem setParty (fe : Nat) (s : State) (p : Nat) (x : Party) : SameTables fe s (s.setParty p x) := ⟨fun _ => rfl, rfl, rfl, rfl, rfl, rfl, rfl, rfl⟩

theorem onCrew (fe : Nat) (s : State) (c : Nat) (f : Crew → Crew) : SameTables fe s (s.onCrew c f) := by
  unfold State.onCrew
  split
  · exact ⟨fun _ => rfl, rfl, rfl, rfl, rfl, rfl, rfl, rfl⟩
  · exact refl fe s

theorem pins (fe : Nat) (s : State) (x : Party) : SameTables fe s (Pins s x) := onCrew ..

variable {fe : Nat} {s t : State} (h : SameTables fe s t)
include h

theorem loadN (a n : Nat) : t.loadN a n = s.loadN a n := loadN_congr fun b _ _ => h.bytes b

theorem backed (a : Nat) : t.backed a = s.backed a := by
  rw [State.backed, h.service]
  rfl

theorem walk2 (table ia : Nat) (w x : Bool) (level : Nat) : t.walk2 table ia w x level = s.walk2 table ia w x level := by
  induction level generalizing table w x with
  | zero => simp only [State.walk2, h.loadN]
  | succ level ih => simp only [State.walk2, h.loadN, ih]

theorem stage2 (ia : Nat) : t.stage2 (t.lod fe) ia = s.stage2 (s.lod fe) ia := by
  simp only [State.stage2, h.root2, h.walk2, h.number, h.backed]

theorem walk1 (table va : Nat) (w u x : Bool) (level : Nat) :
    t.walk1 (t.lod fe) table va w u x level = s.walk1 (s.lod fe) table va w u x level := by
  induction level generalizing table w u x with
  | zero => simp only [State.walk1, h.stage2, h.loadN]
  | succ level ih => simp only [State.walk1, h.stage2, h.loadN, ih]

theorem walk (va : DWord) : t.walk fe va = s.walk fe va := by
  simp only [State.walk, h.walk1, h.stage2, h.root1]

theorem translate (quad : Nat) (va : DWord) : t.translate fe quad va = s.translate fe quad va := by
  simp only [State.translate, State.quad, h.quads, h.walk]

theorem ownerOf (pa : Nat) : t.ownerOf pa = s.ownerOf pa := by
  rw [State.ownerOf, h.owner]
  rfl

theorem windowAt (fe' pa : Nat) : t.windowAt fe' pa = s.windowAt fe' pa := by
  simp only [State.windowAt, h.ownerOf, State.window?, h.windows]

theorem owned (fe' : Nat) (w : Walk) : t.owned fe' w = s.owned fe' w := by
  simp only [State.owned, h.ownerOf, h.windowAt, h.number]

theorem pageKind (fe' : Nat) (w : Walk) : t.pageKind fe' w = s.pageKind fe' w := by
  simp only [State.pageKind, h.windowAt, h.number]

theorem reach (quad : Nat) (w : Want) (va : DWord) : t.reach fe quad w va = s.reach fe quad w va := by
  simp only [State.reach, h.translate, h.owned]

theorem pieces {x : Party} (hx : x.fe = fe) (w : Want) (ps : List (DWord × Nat)) : t.pieces x w ps = s.pieces x w ps := by
  subst hx
  induction ps with
  | nil => rfl
  | cons q ps ih =>
    obtain ⟨va, n⟩ := q
    simp only [State.pieces, ih, h.reach, h.pageKind]

/-- The lane's checks of R169 answer alike. -/
theorem check {x : Party} (hx : x.fe = fe) (a : Acc) (va : DWord) : t.check x a va = s.check x a va := by
  simp only [State.check, h.pieces hx]

end SameTables

/-- The end of regions touches no table. -/
theorem sameTables_of_regionsEnd {s s' : State} {p : Nat} {x x' : Party} {ts : List Nat} (h : RegionsEnd s p x ts s' x') (fe : Nat) :
    SameTables fe s s' := by
  rw [h.2.2.1]
  exact ⟨fun _ => rfl, rfl, rfl, rfl, rfl, rfl, rfl, rfl⟩

end Sys2Proof.Proofs
end

section
/-! PROOFS. Bank lists, launches, detached records and log records at issue (R225, R228 to R232): O31. -/

namespace Sys2Proof.Proofs

open Sys2Proof Sys2Proof.Machine Sys2Proof.Says

/-! ### `bank.cmd` (R225, R228) -/

section
variable {s : State} {p : Nat} {x : Party} (hi : Issuing s p x) (m : Mods)
include hi

theorem bankCmd_sends (n : Fin 31) (a : Reg) (b : Src) (he : (x.srcZ b).toNat % 2 ^ 32 ≤ 767) (hservice : s.pkg.service ≠ .reduced)
    (haddr : (x.reg64 0 a).toNat % 64 = 0) : exec (.bankCmd m (.s n) a b) s = .next
      ((((Pins s x).setCore (coreNo x) ((s.core (coreNo x)).ticket 7).2).onBank ((x.srcZ b).toNat % 2 ^ 32) (fun k => { k with queue := k.queue ++
        [⟨coreNo x, x.crew, x.fe, x.user, ((s.core (coreNo x)).ticket 7).1, x.reg64 0 a, s.openWrites p⟩] })).giveU p (.s n)
        (BitVec.ofNat 64 ((s.core (coreNo x)).ticket 7).1)) := by
  have hnum : ((x.srcZ b).setWidth 32).toNat = (x.srcZ b).toNat % 2 ^ 32 := BitVec.toNat_setWidth 32 _
  have hok : (((x.srcZ b).setWidth 32).extractLsb' 10 22 != 0 || decide (767 < ((x.srcZ b).setWidth 32).toNat) ||
      (Pins s x).pkg.service == .reduced) = false := by
    rw [extractLsb'_eq_zero (lo := 10) (by rw [hnum]; omega), hnum, Pins, onCrew_pkg, beq_eq_false_iff_ne.2 hservice,
      decide_eq_false (by omega)]
    rfl
  rw [exec_bankCmd, execBankCmd, engine_next hi]
  dsimp only
  rw [hok, if_neg Bool.false_ne_true, haddr, hnum, core_pins, openWrites_pins]
  exact congrArg _ (if_neg (by decide))

theorem bankCmd_refused (d a : Reg) (b : Src) (hbad : 767 < (x.srcZ b).toNat % 2 ^ 32 ∨ s.pkg.service = .reduced) :
    exec (.bankCmd m d a b) s = .next ((Pins s x).refuseCmd p x 0x23) := by
  have hnum : ((x.srcZ b).setWidth 32).toNat = (x.srcZ b).toNat % 2 ^ 32 := BitVec.toNat_setWidth 32 _
  rw [exec_bankCmd, execBankCmd, engine_next hi]
  refine congrArg _ (if_pos ?_)
  rcases hbad with h | h
  · refine Bool.or_eq_true_iff.2 (.inl (Bool.or_eq_true_iff.2 (.inr ?_)))
    rw [hnum]
    exact decide_eq_true h
  · simp [Pins, h]

end

theorem bankLists : ∀ s p x m (n : Fin 31) a b, Issuing s p x →
    let c := coreNo x
    let o := s.core c
    let e := (x.srcZ b).toNat % 2 ^ 32
    let ad := x.reg64 0 a
    let T := (o.issuedOf 7 + 1) % 2 ^ 64
    (e ≤ 767 → s.pkg.service ≠ .reduced → ad.toNat % 64 = 0 → ∃ z t, UniStep n.val (BitVec.ofNat 64 T) x z ∧
      exec (.bankCmd m (.s n) a b) s = .next t ∧ t = { (Pins s x).setParty p z with cores := t.cores, banks := t.banks } ∧
      (∀ j, t.core j = if j = c then { o with issued := (t.core j).issued } else s.core j) ∧
      (∀ j, (t.core c).issuedOf j = if j = 7 then T else o.issuedOf j) ∧
      ∀ j, t.bank j = if j = e then { s.bank j with queue := (s.bank j).queue ++ [⟨c, x.crew, x.fe, x.user, T, ad, s.openWrites p⟩] }
        else s.bank j) ∧
    (767 < e ∨ s.pkg.service = .reduced → ∃ t, Raises (Pins s x) p x 0x23 (fun u => bitOf x.pos.m0 u = true) 0 t ∧
      exec (.bankCmd m (.s n) a b) s = .next t) := by
  intro s p x m n a b hi c o e ad T
  refine ⟨fun he hservice haddr => ?_, fun hbad => ⟨_, raises_refuseCmd (issuing_pins hi) 0x23, bankCmd_refused hi m _ a b hbad⟩⟩
  have hgive := giveU_uniform (s := ((Pins s x).setCore c (o.ticket 7).2).onBank e (fun k => { k with queue := k.queue ++
    [⟨c, x.crew, x.fe, x.user, (o.ticket 7).1, ad, s.openWrites p⟩] })) (x := x) (issuing_pins hi).2 n (BitVec.ofNat 64 (o.ticket 7).1)
  have hcore : ∀ j, ((Pins s x).setCore c (o.ticket 7).2).core j = if j = c then (o.ticket 7).2 else s.core j := fun j => by
    rw [(coreIs_setCore (Pins s x) c (o.ticket 7).2).2, core_pins]
  have hbank : ∀ j, (Pins s x).bank j = s.bank j := fun j => congrArg (sget Bank.reset · j) (onCrew_banks s x.crew _)
  have hcore' : ∀ j, ((((Pins s x).setCore c (o.ticket 7).2).onBank e (fun k => { k with queue := k.queue ++
      [⟨c, x.crew, x.fe, x.user, (o.ticket 7).1, ad, s.openWrites p⟩] })).setParty p (x.setU n.val (BitVec.ofNat 64 (o.ticket 7).1))).core j =
      if j = c then (o.ticket 7).2 else s.core j := hcore
  refine ⟨_, _, uniStep_setU x n.val _, (bankCmd_sends hi m n a b he hservice haddr).trans (congrArg _ hgive), rfl, fun j => ?_, fun j => ?_,
    fun j => ?_⟩
  · refine (hcore' j).trans ?_
    split
    · next hj => rw [hcore' j, if_pos hj]; rfl
    · rfl
  · rw [hcore' c, if_pos rfl]
    exact sget_sset ..
  · refine (sget_sset ..).trans ?_
    by_cases hj : j = e
    · rw [if_pos hj, if_pos hj, hj, ← hbank e]
      rfl
    · rw [if_neg hj, if_neg hj, ← hbank j]
      rfl

/-! ### `launch` (R229, R230) -/

/-- A record on the launch queue of a lodging. -/
def queueGrid (fe : Nat) (d : GridDesc) (s : State) : State := s.onLod fe (fun l => { l with launchQ := l.launchQ ++ [⟨d, none⟩] })

/-- A deferred record, which takes one of the crew's reserve. -/
def deferGrid (fe crew : Nat) (d : GridDesc) (s : State) : State :=
  (s.onLod fe (fun l => { l with deferred := l.deferred ++ [⟨d, none⟩] })).onCrew crew (fun k => { k with reserve := k.reserve - 1 })

theorem lod_onLod (s : State) (fe : Nat) (f : Lodging → Lodging) (j : Nat) : (s.onLod fe f).lod j = if j = fe then f (s.lod fe) else s.lod j :=
  sget_sset ..

theorem lod_onCrew (s : State) (c : Nat) (f : Crew → Crew) (j : Nat) : (s.onCrew c f).lod j = s.lod j := by
  rw [State.lod, onCrew_lods]
  rfl

theorem crew?_onCrew (s : State) (c : Nat) (f : Crew → Crew) (j : Nat) :
    (s.onCrew c f).crew? j = if j = c then (s.crew? c).map f else s.crew? j := by
  unfold State.onCrew
  cases hc : s.crew? c with
  | none =>
    by_cases hj : j = c
    · rw [if_pos hj, hj]; exact hc
    · rw [if_neg hj]
  | some k => exact sfind_sput ..

section
variable {s : State} {x : Party} {va : Nat → DWord} {ps : Nat → List (Nat × Nat)} {win remote : Nat → Bool} {ds : Nat → GridDesc} {ts : List Nat}
  (hpass : ∀ t ∈ ts, s.check x ⟨64, true, false, .plain⟩ (va t) = .ok (ps t) (win t) (remote t) ∧
    s.gridDesc x.fe (s.loadPieces (ps t)) = some (ds t) ∧
    ∀ q ∈ ps t, sget none s.mem.poison (q.1 / 64) = none ∧ sget false s.mem.badTag (q.1 / 64) = false ∧
      sget false s.mem.badCells (q.1 / 64) = false)
  (hinj : s.pkg.injarm.getLsbD 0 = false)

/-- A machine as `launch` finds it for its next thread: it answers the checks as `s` does, and its lodging takes the same descriptors. -/
structure LaunchLike (s : State) (fe : Nat) (u : State) : Prop where
  tables : SameTables fe s u
  mem : u.mem = s.mem
  pkg : u.pkg = s.pkg
  desc : (u.lod fe).desc = (s.lod fe).desc

theorem gridDesc_like {fe : Nat} {u : State} (h : LaunchLike s fe u) (v : Nat) : u.gridDesc fe v = s.gridDesc fe v := by
  have hfits : ∀ d, (u.lod fe).neverFits d = (s.lod fe).neverFits d := fun d => by
    simp only [Lodging.neverFits, Lodging.shares, Lodging.onDie, Lodging.quads, Lodging.qb, Lodging.nq, h.desc]
  simp only [State.gridDesc, hfits]

theorem loadPieces_of_mem {s u : State} (h : u.mem = s.mem) (ps : List (Nat × Nat)) : u.loadPieces ps = s.loadPieces ps := by
  have hbyte : u.byteAt = s.byteAt := funext fun a => byteAt_of_mem h a
  rw [loadPieces_eq_littleEndian, loadPieces_eq_littleEndian, hbyte]

include hpass hinj

/-- A thread that passes its checks goes on to the queue, or to the deferred records. -/
theorem launchOne_passes {u : State} (hu : LaunchLike s x.fe u) {t : Nat} (ht : t ∈ ts) : u.launchOne x (va t) =
    if (u.lod x.fe).launchQ.length < 4096 && (u.lod x.fe).deferred.isEmpty then .ok (queueGrid x.fe (ds t) u) false
    else match u.crew? x.crew with
      | none => .bad 101 0x26
      | some k => if k.reserve = 0 then .bad 101 0x26 else .ok (deferGrid x.fe x.crew (ds t) u) true := by
  obtain ⟨hcheck, hdesc, hlines⟩ := hpass t ht
  have hread : u.readLines x.fe x.lane (linesOf (ps t)) = (u, none) := readLines_ok (by rw [hu.pkg]; exact hinj) _ _ fun l hl => by
    obtain ⟨q, hq, rfl⟩ := List.mem_map.1 hl
    rw [hu.mem]
    exact hlines q hq
  rw [State.launchOne, hu.tables.check rfl, hcheck]
  dsimp only
  rw [hread]
  dsimp only
  rw [gridDesc_like hu, loadPieces_of_mem hu.mem, hdesc]
  rfl

theorem launchAll_queues {ts' : List Nat} (hsub : ∀ t ∈ ts', t ∈ ts) {u : State} (hu : LaunchLike s x.fe u)
    (hroom : (u.lod x.fe).launchQ.length + ts'.length ≤ 4096) (hdef : (u.lod x.fe).deferred = []) :
    u.launchAll x va ts' = (ts'.foldl (fun u t => queueGrid x.fe (ds t) u) u, ts'.map (fun t => (t, false)), []) := by
  induction ts' generalizing u with
  | nil => rfl
  | cons t ts' ih =>
    rw [List.length_cons] at hroom
    have hone := launchOne_passes hpass hinj hu (hsub t List.mem_cons_self)
    rw [if_pos (by rw [hdef, decide_eq_true (by omega)]; rfl)] at hone
    have hlod : (queueGrid x.fe (ds t) u).lod x.fe = { u.lod x.fe with launchQ := (u.lod x.fe).launchQ ++ [⟨ds t, none⟩] } :=
      (lod_onLod ..).trans (if_pos rfl)
    have hnext : LaunchLike s x.fe (queueGrid x.fe (ds t) u) :=
      ⟨hu.tables.trans (SameTables.onLod _ _ _ (fun _ => rfl) fun _ => rfl), hu.mem, hu.pkg, by rw [hlod]; exact hu.desc⟩
    have hrest := ih (fun t ht => hsub t (List.mem_cons_of_mem _ ht)) hnext (by rw [hlod, List.length_append, List.length_singleton]; omega)
      (by rw [hlod]; exact hdef)
    rw [State.launchAll, hone]
    dsimp only
    rw [hrest]
    rfl

theorem launchAll_defers {ts' : List Nat} (hsub : ∀ t ∈ ts', t ∈ ts) {u : State} (hu : LaunchLike s x.fe u)
    (hfull : 4096 ≤ (u.lod x.fe).launchQ.length ∨ (u.lod x.fe).deferred ≠ []) {k : Crew} (hk : u.crew? x.crew = some k)
    (hreserve : ts'.length ≤ k.reserve) :
    u.launchAll x va ts' = (ts'.foldl (fun u t => deferGrid x.fe x.crew (ds t) u) u, ts'.map (fun t => (t, true)), []) := by
  induction ts' generalizing u k with
  | nil => rfl
  | cons t ts' ih =>
    rw [List.length_cons] at hreserve
    have hone := launchOne_passes hpass hinj hu (hsub t List.mem_cons_self)
    have hfull' : ((u.lod x.fe).launchQ.length < 4096 && (u.lod x.fe).deferred.isEmpty : Bool) = false := by
      rcases hfull with h | h
      · rw [decide_eq_false (by omega), Bool.false_and]
      · rw [List.isEmpty_eq_false_iff.2 h, Bool.and_false]
    rw [hfull', if_neg Bool.false_ne_true, hk] at hone
    dsimp only at hone
    rw [if_neg (by omega)] at hone
    have hlod : (deferGrid x.fe x.crew (ds t) u).lod x.fe = { u.lod x.fe with deferred := (u.lod x.fe).deferred ++ [⟨ds t, none⟩] } :=
      (lod_onCrew ..).trans ((lod_onLod ..).trans (if_pos rfl))
    have hcrew : (deferGrid x.fe x.crew (ds t) u).crew? x.crew = some { k with reserve := k.reserve - 1 } := by
      refine (crew?_onCrew ..).trans ((if_pos rfl).trans ?_)
      exact congrArg (Option.map _) hk
    have hnext : LaunchLike s x.fe (deferGrid x.fe x.crew (ds t) u) :=
      ⟨(hu.tables.trans (SameTables.onLod _ _ x.fe (f := fun l => { l with deferred := l.deferred ++ [⟨ds t, none⟩] }) (fun _ => rfl) fun _ => rfl)).trans
          (SameTables.onCrew ..),
        (onCrew_mem ..).trans hu.mem, (onCrew_pkg ..).trans hu.pkg, by rw [hlod]; exact hu.desc⟩
    have hrest := ih (fun t ht => hsub t (List.mem_cons_of_mem _ ht)) hnext (.inr (by rw [hlod]; simp)) hcrew
      (by show ts'.length ≤ k.reserve - 1; omega)
    rw [State.launchAll, hone]
    dsimp only
    rw [hrest]
    rfl

end

/-! ### What the records of several threads leave -/

theorem foldl_queueGrid (fe : Nat) (ds : Nat → GridDesc) (ts : List Nat) (u : State) :
    (ts.foldl (fun u t => queueGrid fe (ds t) u) u = { u with lods := (ts.foldl (fun u t => queueGrid fe (ds t) u) u).lods }) ∧
    ∀ j, (ts.foldl (fun u t => queueGrid fe (ds t) u) u).lod j = if j = fe then
      { u.lod fe with launchQ := (u.lod fe).launchQ ++ ts.map (fun t => ⟨ds t, none⟩) } else u.lod j := by
  induction ts generalizing u with
  | nil =>
    refine ⟨rfl, fun j => ?_⟩
    rw [List.map_nil, List.append_nil]
    split
    · next h => rw [h]; rfl
    · rfl
  | cons t ts ih =>
    obtain ⟨hstate, hlod⟩ := ih (queueGrid fe (ds t) u)
    refine ⟨hstate.trans rfl, fun j => (hlod j).trans ?_⟩
    have hone := lod_onLod u fe (fun l => { l with launchQ := l.launchQ ++ [⟨ds t, none⟩] })
    rw [queueGrid, hone, hone]
    by_cases hj : j = fe
    · simp [hj]
    · simp [hj]

theorem foldl_deferGrid (fe crew : Nat) (ds : Nat → GridDesc) (ts : List Nat) (u : State) :
    (ts.foldl (fun u t => deferGrid fe crew (ds t) u) u).parties = u.parties ∧
    (∀ j, (ts.foldl (fun u t => deferGrid fe crew (ds t) u) u).lod j = if j = fe then
      { u.lod fe with deferred := (u.lod fe).deferred ++ ts.map (fun t => ⟨ds t, none⟩) } else u.lod j) ∧
    ∀ k, u.crew? crew = some k → (ts.foldl (fun u t => deferGrid fe crew (ds t) u) u).crew? crew =
      some { k with reserve := k.reserve - ts.length } := by
  induction ts generalizing u with
  | nil =>
    refine ⟨rfl, fun j => ?_, fun k hk => hk⟩
    rw [List.map_nil, List.append_nil]
    split
    · next h => rw [h]; rfl
    · rfl
  | cons t ts ih =>
    obtain ⟨hparties, hlod, hcrew⟩ := ih (deferGrid fe crew (ds t) u)
    refine ⟨hparties.trans (onCrew_parties ..), fun j => (hlod j).trans ?_, fun k hk => ?_⟩
    · have hone : ∀ j, (deferGrid fe crew (ds t) u).lod j = if j = fe then
          { u.lod fe with deferred := (u.lod fe).deferred ++ [⟨ds t, none⟩] } else u.lod j := fun j => (lod_onCrew ..).trans (lod_onLod ..)
      rw [hone, hone]
      by_cases hj : j = fe
      · simp [hj]
      · simp [hj]
    · have hone : (deferGrid fe crew (ds t) u).crew? crew = some { k with reserve := k.reserve - 1 } :=
        (crew?_onCrew ..).trans ((if_pos rfl).trans (congrArg (Option.map _) hk))
      refine (hcrew _ hone).trans (congrArg some ?_)
      rw [List.length_cons, Nat.sub_sub, Nat.add_comm]

/-- D's bits once each thread of a list has its own. -/
theorem bitOf_foldl_setBits {ts : List Nat} (hts : ∀ t ∈ ts, t < 64) (b : Bool) (m : Mask) (u : Nat) :
    bitOf ((ts.map (fun t => (t, b))).foldl (fun w e => setBit w e.1 e.2) m) u = if u ∈ ts then b else bitOf m u := by
  induction ts generalizing m with
  | nil => simp
  | cons t ts ih =>
    obtain ⟨ht, hts⟩ := List.forall_mem_cons.1 hts
    rw [List.map_cons, List.foldl_cons, ih hts, bitOf_setBit ht]
    by_cases hu : u = t
    · simp [hu]
    · simp [hu]

/-- A party with the bits of its threads in D. -/
def withBits (d : Nat) (ts : List Nat) (b : Bool) (y : Party) : Party :=
  y.setM d ((ts.map (fun t => (t, b))).foldl (fun w e => setBit w e.1 e.2) (y.maskNow d))

theorem exec_launch_ok {s : State} {p : Nat} {x : Party} (hi : Issuing s p x) (m : Mods) (d : MaskReg) (a : Reg) (hw : Within x m [(a, 2)])
    (hsync : Synced s p (threadsOf x.width x.m0) true false) {u : State} {b : Bool}
    (hall : ((Pins s x).endSync p (threadsOf x.width x.m0) false).launchAll x (fun t => x.reg64 t a) (threadsOf x.width x.m0) =
      (u, (threadsOf x.width x.m0).map (fun t => (t, b)), [])) :
    exec (.launch m d a) s = .next (u.onParty p (withBits d.val (threadsOf x.width x.m0) b)) := by
  have hsync' : Synced (Pins s x) p (threadsOf x.width x.m0) true false := by
    obtain ⟨hmbx, hw⟩ := hsync
    refine ⟨by rw [State.mbxStOpen, Pins, onCrew_reqs]; exact hmbx, fun h => ?_⟩
    rw [State.writesOpen, Pins, onCrew_reqs, onCrew_pkg]
    exact hw h
  rw [exec_launch, execLaunch, engine_next hi]
  dsimp only
  rw [alloc_within hw (by simp), whenSynced_of_synced hsync', hall]
  rfl

theorem launches : ∀ s p x m (d : MaskReg) a (ps : Nat → List (Nat × Nat)) (win remote : Nat → Bool) (ds : Nat → GridDesc), Issuing s p x →
    Within x m [(a, 2)] →
    let ts := threadsOf x.width x.m0
    let l := s.lod x.fe
    (∀ t ∈ ts, s.check x ⟨64, true, false, .plain⟩ (x.reg64 t a) = .ok (ps t) (win t) (remote t) ∧
      s.gridDesc x.fe (s.loadPieces (ps t)) = some (ds t) ∧
      ∀ q ∈ ps t, sget none s.mem.poison (q.1 / 64) = none ∧ sget false s.mem.badTag (q.1 / 64) = false ∧
        sget false s.mem.badCells (q.1 / 64) = false) →
    s.pkg.injarm.getLsbD 0 = false → Synced s p ts true false →
    let new := ts.map (fun t => (⟨ds t, none⟩ : GridRec))
    (l.launchQ.length + ts.length ≤ 4096 → l.deferred = [] → ∃ s' y z t, RegionsEnd (Pins s x) p x ts s' y ∧
      (∀ u, bitOf (z.maskNow d.val) u = if u ∈ ts then false else bitOf (y.maskNow d.val) u) ∧
      (∀ j, j ≠ d.val → z.maskNow j = y.maskNow j) ∧ z = { y with regs := { y.regs with m := z.regs.m } } ∧
      exec (.launch m d a) s = .next t ∧ t = { s' with lods := t.lods, parties := sput s'.parties p z } ∧
      ∀ j, t.lod j = if j = x.fe then { l with launchQ := l.launchQ ++ new } else s.lod j) ∧
    (4096 ≤ l.launchQ.length ∨ l.deferred ≠ [] → (∃ k, s.crew? x.crew = some k ∧ ts.length ≤ k.reserve) → ts ≠ [] →
      ∃ t z, exec (.launch m d a) s = .next t ∧ t.party? p = some z ∧ (∀ u ∈ ts, bitOf (z.maskNow d.val) u = true) ∧
      (∀ j, t.lod j = if j = x.fe then { l with deferred := l.deferred ++ new } else s.lod j) ∧
      ∀ k, s.crew? x.crew = some k → t.crew? x.crew = some { k with pinned := true, reserve := k.reserve - ts.length }) := by
  intro s p x m d a ps win remote ds hi hw ts l hpass hinj hsync new
  obtain ⟨y, hy⟩ := exists_regionsEnd_endSync (issuing_pins hi).2 (nodup_threadsOf x.width x.m0) false
  have hbits : ∀ t ∈ ts, t < 64 := fun t ht => bitOf_lt (mem_threadsOf.1 ht).2
  have hpinlod : ∀ j, (Pins s x).lod j = s.lod j := fun j => lod_onCrew ..
  have hlod : ∀ j, ((Pins s x).endSync p ts false).lod j = s.lod j := fun j => by
    rw [← hpinlod j, hy.2.2.1]
    rfl
  have hlike : LaunchLike s x.fe ((Pins s x).endSync p ts false) := by
    refine ⟨(SameTables.pins ..).trans (sameTables_of_regionsEnd hy _), ?_, ?_, by rw [hlod]⟩
    · rw [hy.2.2.1]; exact onCrew_mem ..
    · rw [hy.2.2.1]; exact onCrew_pkg ..
  refine ⟨fun hroom hdef => ?_, fun hfull hcrew hne => ?_⟩
  · have hall := launchAll_queues (va := fun t => x.reg64 t a) hpass hinj (ts' := ts) (fun _ h => h) hlike (by rw [hlod]; exact hroom) (by rw [hlod]; exact hdef)
    obtain ⟨hstate, hlods⟩ := foldl_queueGrid x.fe ds ts ((Pins s x).endSync p ts false)
    have hparty : (ts.foldl (fun u t => queueGrid x.fe (ds t) u) ((Pins s x).endSync p ts false)).party? p = some y := by
      rw [hstate]
      show ((Pins s x).endSync p ts false).party? p = some y
      exact party?_of_regionsEnd hy
    have hexec := exec_launch_ok hi m d a hw hsync hall
    rw [onParty_of_some hparty] at hexec
    refine ⟨_, y, withBits d.val ts false y, _, hy, fun u => ?_, fun j hj => ?_, rfl, hexec, ?_, fun j => ?_⟩
    · rw [withBits, maskNow_setM, if_pos rfl, bitOf_foldl_setBits hbits]
    · rw [withBits, maskNow_setM, if_neg hj]
    · rw [hstate]
      rfl
    · refine (hlods j).trans ?_
      rw [hlod, hlod]
  · obtain ⟨k, hk, hreserve⟩ := hcrew
    have hpinned : ∀ k, s.crew? x.crew = some k → ((Pins s x).endSync p ts false).crew? x.crew = some { k with pinned := true } := fun k hk => by
      rw [hy.2.2.1]
      exact (crew?_onCrew ..).trans ((if_pos rfl).trans (congrArg (Option.map _) hk))
    have hall := launchAll_defers (va := fun t => x.reg64 t a) hpass hinj (ts' := ts) (fun _ h => h) hlike (by rw [hlod]; exact hfull) (hpinned k hk) hreserve
    obtain ⟨hparties, hlods, hcrews⟩ := foldl_deferGrid x.fe x.crew ds ts ((Pins s x).endSync p ts false)
    have hparty : (ts.foldl (fun u t => deferGrid x.fe x.crew (ds t) u) ((Pins s x).endSync p ts false)).party? p = some y := by
      rw [State.party?, hparties]
      exact party?_of_regionsEnd hy
    have hexec := exec_launch_ok hi m d a hw hsync hall
    rw [onParty_of_some hparty] at hexec
    refine ⟨_, _, hexec, party?_setParty_same .., fun u hu => ?_, fun j => ?_, fun k hk => ?_⟩
    · rw [withBits, maskNow_setM, if_pos rfl, bitOf_foldl_setBits hbits, if_pos hu]
    · refine (hlods j).trans ?_
      rw [hlod, hlod]
    · exact hcrews _ (hpinned k hk)

/-! ### `rec.emit` and `log.app` (R231, R232) -/

/-- The request of a thread for a detached record. -/
def emitRequest (s : State) (p : Nat) (x : Party) (d a : Reg) (b : Src) (u : Nat) : Req :=
  { fe := x.fe, party := p, lane := x.lane, thread := u, uniform := false, owners := [(u, x.regionOf u)], va := 0, pieces := [],
    kind := .emit ⟨x.fe, (x.reg32 u 0 d).toNat, 0, 0, 0xFFFF, (x.src32 u 0 b).toNat, (List.range 4).map (fun k => x.reg32 u k a), [], 0,
      true, 0, 0, 0⟩,
    dest := .none, flag := some x.flagB, win := false, rel := false, acq := false, pod := false, held := true, phase := .sent,
    issued := s.now }

theorem sends_emit {s₀ : State} {p : Nat} {x : Party} (d a : Reg) (b : Src) (ts : List Nat) : ∀ {s : State} {y : Party}, s.party? p = some y →
    s.now = s₀.now → y.fe = x.fe → y.lane = x.lane → (∀ u, y.regionOf u = x.regionOf u) →
    Sends s p y (some x.flagB) (ts.map (emitRequest s₀ p x d a b)) (ts.foldl (fun s t =>
      s.send p ⟨some x.flagB, false, false, false⟩ t false 0 [] false (.emit ⟨x.fe, (x.reg32 t 0 d).toNat, 0, 0, 0xFFFF, (x.src32 t 0 b).toNat,
        (List.range 4).map (fun k => x.reg32 t k a), [], 0, true, 0, 0, 0⟩) .none) s) := by
  induction ts with
  | nil => exact fun _ _ _ _ _ => sends_nil ..
  | cons t ts ih =>
    intro s y hp hnow hfe hlane hregion
    have hrest := ih (party?_sentState s p y (some x.flagB) (emitRequest s₀ p x d a b t)) hnow hfe hlane hregion
    refine sends_cons ?_
    rw [List.foldl_cons, send_eq hp, hfe, hlane, hnow, ownersOf, if_neg Bool.false_ne_true, hregion]
    exact hrest

theorem recEmit_sends {s : State} {p : Nat} {x : Party} (hi : Issuing s p x) (m : Mods) (d a : Reg) (b : Src)
    (hw : Within x m ([(d, 1), (a, 4)] ++ srcRun b 1)) (hnode : ∀ t ∈ threadsOf x.width x.m0, (x.src32 t 0 b).toNat < 4096) :
    ∃ t, exec (.recEmit m d a b) s = .next t ∧
      Sends (Pins s x) p x (some x.flagB) ((threadsOf x.width x.m0).map (emitRequest s p x d a b)) t := by
  have hbad : ((threadsOf x.width x.m0).filterMap (fun t => if (x.src32 t 0 b).extractLsb' 12 20 != 0 then
      some (t, (0 : DWord), 0, (0x2D : BitVec 6)) else none)) = [] := List.filterMap_eq_nil_iff.2 fun t ht => by
    rw [extractLsb'_eq_zero (lo := 12) (hnode t ht)]
    rfl
  refine ⟨_, ?_, sends_emit d a b _ (issuing_pins hi).2 (onCrew_now ..) rfl rfl fun _ => rfl⟩
  rw [exec_recEmit, execRecEmit, engine_next hi]
  dsimp only
  rw [alloc_within hw (length_pos_append (by simp) (length_pos_srcRun Nat.one_pos)), hbad]
  rfl

/-- `log.app` as a word that sends a request a thread. -/
def logRow (m : Mods) (d a b : Reg) : MemRow :=
  { m := m, uniform := false, regs := [(d, 1), (a, 2), (b, 8)], acc := ⟨64, true, true, .atomic⟩, addr := fun x t => x.reg64 t a
    kind := fun x t _ => .logApp ((List.range 8).map (fun k => x.reg32 t k b)), dest := fun x => x.destOf d 1, flag := fun x => some x.flagB }

theorem logApp_sends {s : State} {p : Nat} {x : Party} (hi : Issuing s p x) (m : Mods) (d a b : Reg) (ps : Nat → List (Nat × Nat))
    (win remote : Nat → Bool) (hw : Within x m [(d, 1), (a, 2), (b, 8)])
    (hpass : ∀ t ∈ threadsOf x.width x.m0, s.check x ⟨64, true, true, .atomic⟩ (x.reg64 t a) = .ok (ps t) (win t) (remote t)) :
    ∃ t, exec (.logApp m d a b) s = .next t ∧ Sends (Pins s x) p x (some x.flagB)
      ((threadsOf x.width x.m0).map ((logRow m d a b).request s p x x ps win remote)) t := by
  have hcs : ((threadsOf x.width x.m0).map (fun t => (t, x.reg64 t a, (Pins s x).check x ⟨64, true, true, .atomic⟩ (x.reg64 t a)))) =
      checkedList (logRow m d a b) x ps win remote (threadsOf x.width x.m0) := List.map_congr_left fun t ht => by
    rw [(SameTables.pins x.fe s x).check rfl, hpass t ht]
    rfl
  refine ⟨_, ?_, sends_sendAll (logRow m d a b) ps win remote _ (issuing_pins hi).2 (onCrew_now ..) rfl rfl⟩
  rw [exec_logApp, execLogApp, engine_next hi]
  dsimp only
  rw [alloc_within hw (by simp), hcs, failures_checkedList]
  rfl

/-- Settles O31: lists, launches, detached records and log records leave for where they name. -/
theorem listsLaunchesAndRecords : Obligations.ListsLaunchesAndRecords := by
  refine ⟨bankLists, launches, fun s p x m d a b hi hw hnode => recEmit_sends hi m d a b hw hnode, ?_⟩
  intro s p x m d a b ps win remote hi hw ts hpass
  obtain ⟨t, ht, hsends⟩ := logApp_sends hi m d a b ps win remote hw hpass
  refine ⟨t, ht, ?_⟩
  have hdest : resultRun x d 1 = x.destOf d 1 := by cases d <;> rfl
  rw [hdest]
  exact hsends

end Sys2Proof.Proofs
end

section
/-! PROOFS. An envelope word sets flag B of its clause, as functions of kind B do (R70, 12_isa_envelope.md): O32. -/

namespace Sys2Proof.Proofs

open Sys2Proof Sys2Proof.Machine Sys2Proof.Says

/-- A party whose clause header names flag 1 as its flag A and flag 2 as its flag B. -/
def twoFlags : Party := { Party.blank 1 2 (some 3) 16 64 0x4000 with life := .resident, pos := ⟨0x4000, some [0x21000], 0, 1, 0xFFFF, 0, true⟩ }

/-- The machine after reset with that party at issue. -/
def twoFlagsState : State := { State.reset with cur := some 1, parties := [(1, twoFlags)] }

/-- `env.claim s5, 1`. -/
def claimOne : Instr := .envClaim ⟨false, false, none⟩ (.s 5) (.lit 1)

/-- The claim sets flag 2, and flag 1 stays clear. -/
theorem exec_claimOne_flags : ∃ t y, exec claimOne twoFlagsState = .next t ∧ t.party? 1 = some y ∧ sget 0 y.flags 1 = 0 ∧ sget 0 y.flags 2 = 1 :=
  ⟨_, _, rfl, rfl, rfl, rfl⟩

/-- Refutes O32: the statement has envelope words set flag A, and their kind is B; `env.claim s5, 1` in a party whose clause names flags 1 and 2
sets flag 2 alone. -/
theorem not_envelopeUnit : ¬ Obligations.EnvelopeUnit := by
  intro h
  have hclaims := (h.1.2 twoFlagsState 1 twoFlags ⟨false, false, none⟩ 5 (.num 0) (.lit 1) ⟨rfl, rfl⟩ rfl (by decide)).1
  obtain ⟨k, t, hexec, ⟨hstate, -⟩, -⟩ := hclaims 0 (by decide) (fun _ _ => rfl) nofun
  obtain ⟨t', y, hexec', hparty, hclear, -⟩ := exec_claimOne_flags
  obtain rfl : t' = t := Host.Outcome.next.inj (hexec'.symm.trans hexec)
  rw [hstate] at hparty
  obtain rfl : twoFlags.addFlag 1 = y := Option.some.inj ((sfind_sput_same ..).symm.trans hparty)
  exact absurd hclear (by decide)

end Sys2Proof.Proofs
end

section
/-! PROOFS. Matrix commands in ticket order (R52, R63, R219 to R222, R323): O33. -/

namespace Sys2Proof.Proofs

open Sys2Proof Sys2Proof.Machine Sys2Proof.Says

/-! ### One core of the machine -/

theorem core_onCore (s : State) (c : Nat) (f : Core → Core) (j : Nat) : (s.onCore c f).core j = if j = c then f (s.core c) else s.core j := sget_sset ..

theorem core_setCore (s : State) (c : Nat) (k : Core) (j : Nat) : (s.setCore c k).core j = if j = c then k else s.core j := sget_sset ..

/-- A core after the command at the head of a context has completed. -/
def headDone (k : Core) (x : Nat) (q : MxCmd) : Core :=
  { (k.setCtx x { k.ctx x with queue := (k.ctx x).queue.tail }) with done := sset 0 k.done (4 + x) q.ticket }

theorem ctx_headDone (k : Core) (x : Nat) (q : MxCmd) (j : Nat) :
    (headDone k x q).ctx j = if j = x then { k.ctx x with queue := (k.ctx x).queue.tail } else k.ctx j := ctx_setCtx ..

theorem doneOf_headDone (k : Core) (x : Nat) (q : MxCmd) : (headDone k x q).doneOf (4 + x) = q.ticket := sget_sset_same ..

theorem tile_headDone (k : Core) (x : Nat) (q : MxCmd) (j : Nat) : (headDone k x q).tile j = k.tile j := rfl

theorem core_mxDone (s : State) (c x : Nat) (q : MxCmd) (j : Nat) :
    (s.mxDone c x q).core j = if j = c then headDone (s.core c) x q else s.core j := core_onCore ..

/-- What the command at the head of a context does. -/
def headEffect (s : State) (c x : Nat) (q : MxCmd) : State :=
  match q.op with
  | .drain _ _ => s
  | .follow _ _ _ _ dead => if dead then s.mxDone c x q else s
  | .mma a b => (s.product c x a b q).mxDone c x q
  | .sm p w => (s.setCore c ((s.core c).softmax x p w)).mxDone c x q
  | .rd p lanes src row flag => (s.engResult p flag (lanes.any (fun e => e.2.1.isUni))
      (lanes.map (fun e => (e.1, e.2.1, (((s.core c).ctx x).readAt src row e.2.2).toNat)))).mxDone c x q
  | .clr => (s.setCore c ((s.core c).setCtx x ((s.core c).ctx x).clear)).mxDone c x q

theorem exec_head {s : State} {c x : Nat} {q : MxCmd} {rest : List MxCmd} (hq : ((s.core c).ctx x).queue = q :: rest)
    (hneeds : q.needs ≤ (s.core c).doneOf (5 - x)) : exec (.matrixCommandExecute c x) s = .next (headEffect s c x q).wake := by
  rw [exec_matrixCommandExecute, execMatrixCommandExecute]
  refine congrArg State.event ?_
  dsimp only
  rw [hq]
  dsimp only
  rw [if_neg (Nat.not_lt.2 hneeds)]
  unfold headEffect
  cases q.op with
  | _ => rfl

/-! ### Products (R63, R220) -/

/-- One row of a table written by column. -/
theorem sget_foldl_row (f : Nat → Word) (i n : Nat) (hn : n ≤ 128) (st : Sparse Word) (k : Nat) :
    sget 0 ((List.range n).foldl (fun st j => sset 0 st (128 * i + j) (f j)) st) k = if k / 128 = i ∧ k % 128 < n then f (k % 128) else sget 0 st k := by
  induction n with
  | zero => simp
  | succ n ih =>
    rw [List.range_succ, List.foldl_append, List.foldl_cons, List.foldl_nil, sget_sset, ih (by omega)]
    by_cases hk : k = 128 * i + n
    · rw [if_pos hk, if_pos (by omega), show k % 128 = n by omega]
    · rw [if_neg hk]
      by_cases hin : k / 128 = i ∧ k % 128 < n
      · rw [if_pos hin, if_pos (by omega)]
      · rw [if_neg hin, if_neg (by omega)]

/-- A table written row by row. -/
theorem sget_foldl_table (f : Nat → Nat → Word) (m : Nat) (st : Sparse Word) (k : Nat) :
    sget 0 ((List.range m).foldl (fun st i => (List.range 128).foldl (fun st j => sset 0 st (128 * i + j) (f i j)) st) st) k =
      if k / 128 < m then f (k / 128) (k % 128) else sget 0 st k := by
  induction m with
  | zero => simp
  | succ m ih =>
    rw [List.range_succ (n := m), List.foldl_append, List.foldl_cons, List.foldl_nil, sget_foldl_row (f m) m 128 le_rfl, ih]
    by_cases hk : k / 128 = m
    · rw [if_pos ⟨hk, by omega⟩, if_pos (by omega), hk]
    · rw [if_neg (fun h => hk h.1)]
      by_cases hlt : k / 128 < m
      · rw [if_pos hlt, if_pos (by omega)]
      · rw [if_neg hlt, if_neg (by omega)]

theorem acc_mma (m : MxCtx) (b : MxBind) (ta tb : Tile) {i j : Nat} (hi : i < 128) (hj : j < 128) :
    sget 0 (m.mma b ta tb).acc (128 * i + j) = mmaElt b ta tb (sget 0 m.acc (128 * i + j)) (sget one32 m.pend i) i j := by
  have h := sget_foldl_table (fun i j => mmaElt b ta tb (sget 0 m.acc (128 * i + j)) (sget one32 m.pend i) i j) 128 m.acc (128 * i + j)
  rw [show (128 * i + j) / 128 = i by omega, show (128 * i + j) % 128 = j by omega, if_pos hi] at h
  simpa only [MxCtx.mma] using h

/-- What a product leaves in its context: the accumulators of R220, and no pending factor. -/
theorem exists_mma (m : MxCtx) (b : MxBind) (ta tb : Tile) : ∃ n, m.mma b ta tb = n ∧ n = { m with acc := n.acc, pend := [] } ∧
    ∀ i < 128, ∀ j < 128, sget 0 n.acc (128 * i + j) = mmaElt b ta tb (sget 0 m.acc (128 * i + j)) (sget one32 m.pend i) i j :=
  ⟨_, rfl, by rw [MxCtx.mma], fun _ hi _ hj => acc_mma m b ta tb hi hj⟩

theorem release_eq (t : Tile) : t.release = readsDone t 1 := by
  have hready : (t.readers - 1 = 0 && t.st == .draining : Bool) = true ↔ 0 < 1 ∧ t.st = .draining ∧ t.readers ≤ 1 := by
    rw [Bool.and_eq_true, decide_eq_true_eq, beq_iff_eq, Nat.sub_eq_zero_iff_le]
    exact ⟨fun h => ⟨Nat.one_pos, h.2, h.1⟩, fun h => ⟨h.2.2, h.2.1⟩⟩
  simp only [Tile.release, readsDone, hready]

theorem release_release (t : Tile) : t.release.release = readsDone t 2 := by
  rw [release_eq, release_eq]
  unfold readsDone
  by_cases hst : t.st = .draining
  · by_cases h1 : t.readers ≤ 1
    · simp [hst, h1]
      omega
    · simp [hst, h1]
      omega
  · simp [hst, Nat.sub_sub]

theorem tile_readDone (k : Core) (a j : Nat) : (k.readDone a).tile j = if j = a then (k.tile a).release else k.tile j := tile_setTile ..

/-- Both reads of a product complete, of one slot or of two. -/
theorem tile_readDone_two (k : Core) (a b j : Nat) : ((k.readDone a).readDone b).tile j =
    if j = a ∨ j = b then readsDone (k.tile j) ((if j = a then 1 else 0) + if j = b then 1 else 0) else k.tile j := by
  rw [tile_readDone, tile_readDone, tile_readDone]
  by_cases hb : j = b
  · by_cases ha : j = a
    · subst ha
      subst hb
      simp [release_release]
    · have hba : b ≠ a := fun h => ha (hb.trans h)
      simp [hb, hba, release_eq]
  · by_cases ha : j = a
    · simp [ha, show a ≠ b from fun h => hb (ha.trans h), release_eq]
    · simp [ha, hb]

theorem doneOf_of_mxDone (s : State) (c x : Nat) (q : MxCmd) : ((s.mxDone c x q).core c).doneOf (4 + x) = q.ticket := by
  rw [core_mxDone, if_pos rfl]
  exact doneOf_headDone ..

/-- The core after the operands of a product have been read and their reads have completed. -/
def productCore (k : Core) (x a b : Nat) (m : MxCtx) : Core := ((k.setCtx x m).readDone a).readDone b

theorem ctx_productCore (k : Core) (x a b : Nat) (m : MxCtx) : (productCore k x a b m).ctx x = m := (ctx_setCtx ..).trans (if_pos rfl)

theorem product_ok {s : State} {c a b : Nat} (hupset : s.upset = .none) (ha : ((s.core c).tile a).poison = false)
    (hb : ((s.core c).tile b).poison = false) (x : Nat) (q : MxCmd) :
    s.product c x a b q = (s.setCore c ((s.core c).setCtx x (((s.core c).ctx x).mma q.bind ((s.core c).tile a) ((s.core c).tile b)))).onCore c
      (fun k => (k.readDone a).readDone b) := by
  have herror : ∀ j, s.tileError c j = (s, ((s.core c).tile j).poison) := fun j => by
    unfold State.tileError
    rw [hupset]
  simp only [State.product, herror, ha, hb, hupset, Bool.or_self, Bool.false_eq_true, if_false]

theorem mmaExecutes {s : State} {c x : Nat} {q : MxCmd} {rest : List MxCmd} (hq : ((s.core c).ctx x).queue = q :: rest)
    (hneeds : q.needs ≤ (s.core c).doneOf (5 - x)) (hupset : s.upset = .none) {a b : Nat} (hop : q.op = .mma a b)
    (ha : ((s.core c).tile a).poison = false) (hb : ((s.core c).tile b).poison = false) :
    ∃ k t, exec (.matrixCommandExecute c x) s = .next t ∧ (∀ j, t.core j = if j = c then k else s.core j) ∧ t.mem = s.mem ∧
      (∀ i < 128, ∀ j < 128, sget 0 (k.ctx x).acc (128 * i + j) =
        mmaElt q.bind ((s.core c).tile a) ((s.core c).tile b) (sget 0 ((s.core c).ctx x).acc (128 * i + j)) (sget one32 ((s.core c).ctx x).pend i) i j) ∧
      k.ctx x = { (s.core c).ctx x with acc := (k.ctx x).acc, pend := [], queue := rest } ∧ k.doneOf (4 + x) = q.ticket ∧
      ∀ j, k.tile j = if j = a ∨ j = b then readsDone ((s.core c).tile j) ((if j = a then 1 else 0) + if j = b then 1 else 0)
        else (s.core c).tile j := by
  have heffect : headEffect s c x q = (s.product c x a b q).mxDone c x q := by rw [headEffect, hop]
  have hexec := exec_head hq hneeds
  rw [heffect, product_ok hupset ha hb] at hexec
  obtain ⟨m, hm, hrest, hacc⟩ := exists_mma ((s.core c).ctx x) q.bind ((s.core c).tile a) ((s.core c).tile b)
  rw [hm] at hexec
  have hhead : (headDone (productCore (s.core c) x a b m) x q).ctx x = { m with queue := rest } := by
    rw [ctx_headDone, if_pos rfl, ctx_productCore, hrest]
    exact congrArg (fun l => { (s.core c).ctx x with acc := m.acc, pend := [], queue := l }) (congrArg List.tail hq)
  refine ⟨headDone (productCore (s.core c) x a b m) x q, _, hexec, fun j => ?_, rfl, fun i hi j hj => ?_, ?_, doneOf_headDone .., fun j => ?_⟩
  · refine (core_mxDone ..).trans ?_
    rw [core_onCore, core_onCore, core_setCore, core_setCore, if_pos rfl, if_pos rfl]
    by_cases hj : j = c
    · rw [if_pos hj, if_pos hj]; rfl
    · rw [if_neg hj, if_neg hj, if_neg hj, if_neg hj]
  · rw [hhead]
    exact hacc i hi j hj
  · rw [hhead, hrest]
  · rw [tile_headDone]
    exact tile_readDone_two ((s.core c).setCtx x m) a b j

/-! ### The softmax step (R221) -/

/-- What the step computes for a row of a context. -/
def rowOf (m : MxCtx) (w : Word) (i : Nat) : SmRow := smRow (sget negInf32 m.m i) (sget 0 m.l i) w (m.row i)

theorem ctx_smStep (k : Core) {x : Nat} (hx : x ≤ 1) (p : Nat) (w : Word) (i j : Nat) : (k.smStep x p w i).ctx j =
    if j = 1 - x then { k.ctx j with pend := sset one32 (k.ctx j).pend i (mul32 (sget one32 (k.ctx j).pend i) (rowOf (k.ctx x) w i).f) }
    else if j = x then { k.ctx x with m := sset negInf32 (k.ctx x).m i (rowOf (k.ctx x) w i).m, l := sset 0 (k.ctx x).l i (rowOf (k.ctx x) w i).l }
    else k.ctx j := by
  have hne : 1 - x ≠ x := by omega
  refine (ctx_setCtx ..).trans ?_
  rw [ctx_setCtx, ctx_setCtx, if_neg hne]
  by_cases hj : j = 1 - x
  · rw [if_pos hj, if_pos hj, hj]
    rfl
  · rw [if_neg hj, if_neg hj]
    rfl

/-- The contexts after the rows below `n`. -/
structure Stepped (o k : Core) (x : Nat) (w : Word) (n : Nat) : Prop where
  acc : (k.ctx x).acc = (o.ctx x).acc
  queue : (k.ctx x).queue = (o.ctx x).queue
  m : ∀ i, sget negInf32 (k.ctx x).m i = if i < n then (rowOf (o.ctx x) w i).m else sget negInf32 (o.ctx x).m i
  l : ∀ i, sget 0 (k.ctx x).l i = if i < n then (rowOf (o.ctx x) w i).l else sget 0 (o.ctx x).l i
  pend : ∀ i, sget one32 (k.ctx (1 - x)).pend i =
    if i < n then mul32 (sget one32 (o.ctx (1 - x)).pend i) (rowOf (o.ctx x) w i).f else sget one32 (o.ctx (1 - x)).pend i

/-- A table that takes its next row. -/
theorem sget_sset_next {d : Word} {st : Sparse Word} {n i : Nat} {f g : Nat → Word} (h : ∀ i, sget d st i = if i < n then f i else g i) :
    sget d (sset d st n (f n)) i = if i < n + 1 then f i else g i := by
  rw [sget_sset, h]
  by_cases hi : i = n
  · rw [if_pos hi, if_pos (by omega), hi]
  · rw [if_neg hi]
    by_cases hlt : i < n
    · rw [if_pos hlt, if_pos (by omega)]
    · rw [if_neg hlt, if_neg (by omega)]

theorem stepped_succ {o k : Core} {x : Nat} (hx : x ≤ 1) {w : Word} {n : Nat} (h : Stepped o k x w n) (p : Nat) :
    Stepped o (k.smStep x p w n) x w (n + 1) := by
  have hne : x ≠ 1 - x := by omega
  have hrow : rowOf (k.ctx x) w n = rowOf (o.ctx x) w n := by
    rw [rowOf, rowOf, h.m, h.l, if_neg (lt_irrefl n), if_neg (lt_irrefl n), MxCtx.row, MxCtx.row, h.acc]
  have hctx : (k.smStep x p w n).ctx x = { k.ctx x with
      m := sset negInf32 (k.ctx x).m n (rowOf (o.ctx x) w n).m, l := sset 0 (k.ctx x).l n (rowOf (o.ctx x) w n).l } := by
    rw [ctx_smStep k hx, if_neg hne, if_pos rfl, hrow]
  have hother : (k.smStep x p w n).ctx (1 - x) = { k.ctx (1 - x) with
      pend := sset one32 (k.ctx (1 - x)).pend n (mul32 (sget one32 (o.ctx (1 - x)).pend n) (rowOf (o.ctx x) w n).f) } := by
    rw [ctx_smStep k hx, if_pos rfl, hrow, h.pend, if_neg (lt_irrefl n)]
  refine ⟨?_, ?_, fun i => ?_, fun i => ?_, fun i => ?_⟩
  · rw [hctx]; exact h.acc
  · rw [hctx]; exact h.queue
  · rw [hctx]
    dsimp only
    exact sget_sset_next (f := fun i => (rowOf (o.ctx x) w i).m) h.m
  · rw [hctx]; exact sget_sset_next (f := fun i => (rowOf (o.ctx x) w i).l) h.l
  · rw [hother]
    exact sget_sset_next (f := fun i => mul32 (sget one32 (o.ctx (1 - x)).pend i) (rowOf (o.ctx x) w i).f) h.pend

theorem stepped_foldl {o k : Core} {x : Nat} (hx : x ≤ 1) (w : Word) (hctx : ∀ j, k.ctx j = o.ctx j) (p n : Nat) :
    Stepped o ((List.range n).foldl (fun k i => k.smStep x p w i) k) x w n := by
  induction n with
  | zero => exact ⟨by rw [← hctx]; rfl, by rw [← hctx]; rfl, fun i => by rw [← hctx]; rfl, fun i => by rw [← hctx]; rfl, fun i => by rw [← hctx]; rfl⟩
  | succ n ih =>
    rw [List.range_succ, List.foldl_append, List.foldl_cons, List.foldl_nil]
    exact stepped_succ hx ih p

theorem stepped_congr {o k k' : Core} {x : Nat} {w : Word} {n : Nat} (h : Stepped o k x w n) (hctx : ∀ j, k'.ctx j = k.ctx j) :
    Stepped o k' x w n := by
  obtain ⟨hacc, hqueue, hm, hl, hpend⟩ := h
  rw [← hctx] at hacc hqueue
  simp only [← hctx] at hm hl hpend
  exact ⟨hacc, hqueue, hm, hl, hpend⟩

theorem ctx_fillDone (k : Core) (a : Nat) (j : Nat) : (k.fillDone a none).ctx j = k.ctx j := rfl

theorem stepped_softmax (o : Core) {x : Nat} (hx : x ≤ 1) (p : Nat) (w : Word) : Stepped o (o.softmax x p w) x w 128 := by
  have h : ∀ n, Stepped o ((List.range n).foldl (fun k i => k.smStep x p w i) (o.mapTiles p (fun t => { t with data := [], side := [] }) 2)) x w n :=
    fun n => stepped_foldl hx w (fun j => by rw [mapTiles_eq]; rfl) p n
  have hrows := h 128
  simp only [Core.softmax]
  generalize (List.range 128).foldl _ _ = k at hrows ⊢
  exact stepped_congr hrows fun j => by rw [ctx_fillDone, ctx_fillDone]

theorem smExecutes {s : State} {c x : Nat} {q : MxCmd} {rest : List MxCmd} (hq : ((s.core c).ctx x).queue = q :: rest)
    (hneeds : q.needs ≤ (s.core c).doneOf (5 - x)) (hx : x ≤ 1) {p : Nat} {w : Word} (hop : q.op = .sm p w) :
    ∃ k t, exec (.matrixCommandExecute c x) s = .next t ∧ (∀ j, t.core j = if j = c then k else s.core j) ∧
      (∀ i < 128, sget negInf32 (k.ctx x).m i = (rowOf ((s.core c).ctx x) w i).m ∧ sget 0 (k.ctx x).l i = (rowOf ((s.core c).ctx x) w i).l ∧
        sget one32 (k.ctx (1 - x)).pend i = mul32 (sget one32 ((s.core c).ctx (1 - x)).pend i) (rowOf ((s.core c).ctx x) w i).f) ∧
      (k.ctx x).acc = ((s.core c).ctx x).acc ∧ (k.ctx x).queue = rest ∧ k.doneOf (4 + x) = q.ticket := by
  have heffect : headEffect s c x q = (s.setCore c ((s.core c).softmax x p w)).mxDone c x q := by rw [headEffect, hop]
  have hexec := exec_head hq hneeds
  rw [heffect] at hexec
  have h := stepped_softmax (s.core c) hx p w
  generalize (s.core c).softmax x p w = k at hexec h
  have hhere : (headDone k x q).ctx x =
      { k.ctx x with queue := (k.ctx x).queue.tail } := by
    rw [ctx_headDone, if_pos rfl]
  have hother : (headDone k x q).ctx (1 - x) = k.ctx (1 - x) := by
    rw [ctx_headDone, if_neg (by omega)]
  refine ⟨headDone k x q, _, hexec, fun j => ?_, fun i hi => ⟨?_, ?_, ?_⟩, ?_, ?_, doneOf_headDone ..⟩
  · refine (core_mxDone ..).trans ?_
    rw [core_setCore, core_setCore, if_pos rfl]
    by_cases hj : j = c
    · rw [if_pos hj, if_pos hj]
    · rw [if_neg hj, if_neg hj, if_neg hj]
  · rw [hhere]; exact (h.m i).trans (if_pos hi)
  · rw [hhere]; exact (h.l i).trans (if_pos hi)
  · rw [hother]; exact (h.pend i).trans (if_pos hi)
  · rw [hhere]; exact h.acc
  · rw [hhere]
    exact congrArg List.tail (h.queue.trans hq)

/-! ### Reads and clears (R222) -/

/-- A party after a result of an engine has come to a thread of it. -/
def engParty (y : Party) (flag : Nat) (uniform : Bool) (u : Nat) (d : Dest) (v : Nat) : Party :=
  let deposited := y.deposit fun x => if !uniform && bitOf x.left u then x else x.setDest u d v
  if flag < 12 then deposited.doneFlag flag 1 else deposited

theorem party?_engResult {s : State} {p : Nat} {y : Party} (hp : s.party? p = some y) (flag : Nat) (uniform : Bool) (u : Nat) (d : Dest) (v : Nat)
    (hleft : bitOf y.left u = false) : ∃ z, (s.engResult p flag uniform [(u, d, v)]).party? p = some z ∧ z.regs = (y.setDest u d v).regs := by
  have hserved : (!uniform && bitOf y.left u) = false := by rw [hleft, Bool.and_false]
  refine ⟨engParty y flag uniform u d v, ?_, ?_⟩
  · rw [State.engResult, onParty_of_some hp]
    exact party?_setParty_same ..
  · have hregs := deposit_regs y fun x => if !uniform && bitOf x.left u then x else x.setDest u d v
    rw [hserved, if_neg Bool.false_ne_true] at hregs
    unfold engParty
    dsimp only
    split
    · exact hregs
    · exact hregs

theorem core_engResult (s : State) (p flag : Nat) (uniform : Bool) (vs : List (Nat × Dest × Nat)) (j : Nat) :
    (s.engResult p flag uniform vs).core j = s.core j := by
  rw [State.core, State.engResult, onParty_cores]
  rfl

theorem rdExecutes {s : State} {c x : Nat} {q : MxCmd} {rest : List MxCmd} (hq : ((s.core c).ctx x).queue = q :: rest)
    (hneeds : q.needs ≤ (s.core c).doneOf (5 - x)) {p src row flag u n : Nat} {d : Dest} (hop : q.op = .rd p [(u, d, n)] src row flag) {y : Party}
    (hp : s.party? p = some y) (hu : u < 64) (hleft : bitOf y.left u = false) (hd : ∀ b k, d = .vec b k → b + k ≤ 1024) :
    ∃ t z, exec (.matrixCommandExecute c x) s = .next t ∧ t.party? p = some z ∧ (t.core c).doneOf (4 + x) = q.ticket ∧
      ((t.core c).ctx x).queue = rest ∧ Landed y u d (((s.core c).ctx x).readAt src row n).toNat z := by
  have heffect : headEffect s c x q = (s.engResult p flag ([(u, d, n)].any (fun e => e.2.1.isUni))
      [(u, d, (((s.core c).ctx x).readAt src row n).toNat)]).mxDone c x q := by rw [headEffect, hop]; rfl
  have hexec := exec_head hq hneeds
  rw [heffect] at hexec
  obtain ⟨z, hz, hregs⟩ := party?_engResult hp flag ([(u, d, n)].any (fun e => e.2.1.isUni)) u d (((s.core c).ctx x).readAt src row n).toNat hleft
  refine ⟨_, { z with hold := false }, hexec, ?_, doneOf_of_mxDone .., ?_, landed_congr (landed_setDest hd hu _) hregs⟩
  · rw [wake_party?]
    exact congrArg (Option.map _) hz
  · show (((State.mxDone _ c x q).core c).ctx x).queue = rest
    rw [core_mxDone, if_pos rfl, core_engResult, ctx_headDone, if_pos rfl, hq]
    rfl

theorem clrExecutes {s : State} {c x : Nat} {q : MxCmd} {rest : List MxCmd} (hq : ((s.core c).ctx x).queue = q :: rest)
    (hneeds : q.needs ≤ (s.core c).doneOf (5 - x)) (hop : q.op = .clr) :
    ∃ k t, exec (.matrixCommandExecute c x) s = .next t ∧ (∀ j, t.core j = if j = c then k else s.core j) ∧
      k.ctx x = { (s.core c).ctx x with acc := [], m := [], l := [], pend := [], queue := rest } ∧ k.doneOf (4 + x) = q.ticket := by
  have heffect : headEffect s c x q = (s.setCore c ((s.core c).setCtx x ((s.core c).ctx x).clear)).mxDone c x q := by rw [headEffect, hop]
  have hexec := exec_head hq hneeds
  rw [heffect] at hexec
  refine ⟨headDone ((s.core c).setCtx x ((s.core c).ctx x).clear) x q, _, hexec, fun j => ?_, ?_, doneOf_headDone ..⟩
  · refine (core_mxDone ..).trans ?_
    rw [core_setCore, core_setCore, if_pos rfl]
    by_cases hj : j = c
    · rw [if_pos hj, if_pos hj]
    · rw [if_neg hj, if_neg hj, if_neg hj]
  · rw [ctx_headDone, if_pos rfl, ctx_setCtx, if_pos rfl]
    show { (s.core c).ctx x with acc := [], m := [], l := [], pend := [], queue := ((s.core c).ctx x).queue.tail } = _
    rw [hq]
    rfl

/-! ### Integer group sums are exact (R52, R63) -/

/-- A value that is an integer over 1. -/
def IsInt (v : Val) (i : ℤ) : Prop := ∃ neg n, v = .fin neg n 1 ∧ (if neg then -(n : ℤ) else n) = i

theorem isInt_ofInt (i : ℤ) : IsInt (.fin (decide (i < 0)) i.natAbs 1) i := by
  refine ⟨_, _, rfl, ?_⟩
  by_cases h : i < 0
  · rw [if_pos (decide_eq_true h)]; omega
  · rw [if_neg (by simpa using h)]; omega

theorem isInt_add {v w : Val} {i j : ℤ} (hv : IsInt v i) (hw : IsInt w j) : IsInt (addV RNE v w).1 (i + j) := by
  obtain ⟨a, n, rfl, rfl⟩ := hv
  obtain ⟨b, k, rfl, rfl⟩ := hw
  have hsum : signedNum a n 1 1 + signedNum b k 1 1 = (if a then -(n : ℤ) else n) + if b then -(k : ℤ) else k := by
    simp [signedNum]
  have hden : commonDen 1 1 = 1 := rfl
  simp only [addV, hden, hsum]
  generalize ((if a then -(n : ℤ) else n) + if b then -(k : ℤ) else k) = z
  by_cases hzero : z = 0
  · rw [if_pos hzero]
    exact ⟨_, _, rfl, by rw [hzero]; simp⟩
  · rw [if_neg hzero]
    exact isInt_ofInt z

theorem isInt_sumVals (vs : List ℤ) : IsInt (sumVals (vs.map (fun i => .fin (decide (i < 0)) i.natAbs 1))) vs.sum := by
  have hfold : ∀ (vs : List ℤ) v i, IsInt v i →
      IsInt ((vs.map (fun i => Val.fin (decide (i < 0)) i.natAbs 1)).foldl (fun a b => (addV RNE a b).1) v) (i + vs.sum) := by
    intro vs
    induction vs with
    | nil => intro v i hv; simpa using hv
    | cons j vs ih =>
      intro v i hv
      have := ih _ _ (isInt_add hv (isInt_ofInt j))
      rwa [add_assoc] at this
  cases vs with
  | nil => exact ⟨false, 0, rfl, rfl⟩
  | cons i vs => exact hfold vs _ _ (isInt_ofInt i)

/-- An 8-bit element as an integer, by its signedness. -/
def eltInt (uns : Bool) (w : Byte) : ℤ := if uns then (w.toNat : ℤ) else w.toInt

theorem eltOf_byte (uns : Bool) (w : Byte) : eltOf 0 0 uns w.toNat = .int (eltInt uns w) := by
  cases uns with
  | true => rfl
  | false =>
    show Elt.int (sxInt 8 w.toNat) = Elt.int w.toInt
    rw [sxInt_eq, BitVec.ofNat_toNat, BitVec.setWidth_eq]

theorem groupSum_integer {b : MxBind} (hl : b.layout = 0) (hA : b.tyA = 0) (hB : b.tyB = 0) (hsA : b.scA = false) (hsB : b.scB = false)
    (ta tb : Tile) (i j g : Nat) : IsInt (groupSum b ta tb i j g) ((List.range 32).map (fun k =>
      eltInt b.unsA (sget 0 ta.data (128 * i + (32 * g + k))) * eltInt b.unsB (sget 0 tb.data (128 * j + (32 * g + k))))).sum := by
  have hscale : ∀ v : Val, scaleVal 0 v = v := fun v => by cases v <;> simp [scaleVal]
  have hterm : ∀ k, (eltOf b.layout b.tyA b.unsA (ta.bits b.layout i (groupSize b.layout * g + k))).mul
      (eltOf b.layout b.tyB b.unsB (tb.bits b.layout j (groupSize b.layout * g + k))) =
      (fun i : ℤ => Val.fin (decide (i < 0)) i.natAbs 1) (eltInt b.unsA (sget 0 ta.data (128 * i + (32 * g + k))) *
        eltInt b.unsB (sget 0 tb.data (128 * j + (32 * g + k)))) := fun k => by
    rw [hl, hA, hB, Tile.bits, Tile.bits, eltOf_byte, eltOf_byte]
    rfl
  have hsum := isInt_sumVals ((List.range 32).map (fun k =>
    eltInt b.unsA (sget 0 ta.data (128 * i + (32 * g + k))) * eltInt b.unsB (sget 0 tb.data (128 * j + (32 * g + k)))))
  rw [List.map_map] at hsum
  simp only [groupSum, hterm, hsA, hsB, Bool.false_and, Tile.scaleExp, Bool.false_eq_true, if_false, add_zero, hscale]
  rw [hl]
  exact hsum

theorem followOn {s : State} {c x f other : Nat} {roleB : Bool} {q : MxCmd} {rest : List MxCmd} (hq : ((s.core c).ctx x).queue = q :: rest)
    (hop : q.op = .follow f other roleB true false)
    (hready : ((s.core c).tile other).st = .ready ∨ ((s.core c).tile other).st = .draining) :
    exec (.followOnIssue c x) s = .next (s.setCore c ((s.core c).setCtx x { (s.core c).ctx x with
      queue := { q with op := if roleB then .mma other f else .mma f other } :: rest })).wake := by
  rw [exec_followOnIssue, execFollowOnIssue]
  refine congrArg State.event ?_
  dsimp only
  rw [hq]
  dsimp only
  rw [hop]
  exact if_pos (by simpa using hready)

/-- Settles O33: products, softmax steps, reads and clears in ticket order, follow-on products, and exact integer sums. -/
theorem matrixCommandsExecute : Obligations.MatrixCommandsExecute := by
  refine ⟨fun s c x q rest hq hneeds hupset hx => ⟨fun a b hop ha hb => ?_, fun p w hop _ => ?_, ?_, fun hop => ?_⟩, ?_, ?_⟩
  · exact mmaExecutes hq hneeds hupset hop ha hb
  · exact smExecutes hq hneeds hx hop
  · rintro p lanes src row flag y hop hp u d n rfl hu hleft hd
    obtain ⟨t, z, hexec, hz, hdone, hqueue, hlanded⟩ := rdExecutes hq hneeds hop hp hu hleft hd
    refine ⟨t, z, hexec, hz, hdone, hqueue, ?_⟩
    match src with
    | 0 => exact hlanded
    | 1 => exact hlanded
    | 2 => exact hlanded
    | src + 3 => exact hlanded
  · exact clrExecutes hq hneeds hop
  · intro s c x q rest f other roleB hq hop hready
    exact ⟨_, _, followOn hq hop hready, fun j => core_setCore _ _ _ _, fun j => ctx_setCtx _ _ _ _⟩
  · exact fun b ta tb i j g hl hA hB hsA hsB => groupSum_integer hl hA hB hsA hsB ta tb i j g

end Sys2Proof.Proofs
end

section
/-! PROOFS. What an engine reads and writes at places that map for it (R29, R210, R329): the accesses of the Porter, the bank engines and the
front ends. -/

namespace Sys2Proof.Proofs

open Sys2Proof Sys2Proof.Machine Sys2Proof.Says

/-! ### States that engines see alike -/

/-- `t` gives the translations, the bytes and the errors of `s`. -/
structure SameView (s t : State) : Prop where
  mem : t.mem = s.mem
  quads : t.quads = s.quads
  number : t.pkg.number = s.pkg.number
  service : t.pkg.service = s.pkg.service
  pod : t.pkg.podPackages = s.pkg.podPackages
  absent : t.pkg.absentRemote = s.pkg.absentRemote
  injarm : t.pkg.injarm = s.pkg.injarm
  root1 : ∀ fe, (t.lod fe).root1 = (s.lod fe).root1
  root2 : ∀ fe, (t.lod fe).root2 = (s.lod fe).root2

namespace SameView

theorem refl (s : State) : SameView s s := ⟨rfl, rfl, rfl, rfl, rfl, rfl, rfl, fun _ => rfl, fun _ => rfl⟩

theorem trans {s t u : State} (h : SameView s t) (h' : SameView t u) : SameView s u :=
  ⟨h'.mem.trans h.mem, h'.quads.trans h.quads, h'.number.trans h.number, h'.service.trans h.service, h'.pod.trans h.pod,
    h'.absent.trans h.absent, h'.injarm.trans h.injarm, fun fe => (h'.root1 fe).trans (h.root1 fe), fun fe => (h'.root2 fe).trans (h.root2 fe)⟩

theorem onCore (s : State) (c : Nat) (f : Core → Core) : SameView s (s.onCore c f) :=
  ⟨rfl, rfl, rfl, rfl, rfl, rfl, rfl, fun _ => rfl, fun _ => rfl⟩

theorem msix (s : State) (fe v : Nat) : SameView s (s.msix fe v) := by
  have hlod : ∀ fe', ((s.msix fe v).lod fe').root1 = (s.lod fe').root1 ∧ ((s.msix fe v).lod fe').root2 = (s.lod fe').root2 := fun fe' => by
    unfold State.msix State.onStream
    rw [lod_onLod]
    split
    · next h => rw [h]; exact ⟨rfl, rfl⟩
    · exact ⟨rfl, rfl⟩
  exact ⟨rfl, rfl, rfl, rfl, rfl, rfl, rfl, fun fe' => (hlod fe').1, fun fe' => (hlod fe').2⟩

theorem notify (s : State) (c : Nat) : SameView s (s.notify c) := by
  have hnote : SameView s (s.onPkg fun k => { k with notices := k.notices ++ [c] }) := ⟨rfl, rfl, rfl, rfl, rfl, rfl, rfl, fun _ => rfl, fun _ => rfl⟩
  unfold State.notify
  split
  · exact hnote.trans (msix ..)
  · exact hnote

theorem spend (s : State) (a : Activity) (fe n : Nat) : SameView s (s.spend a fe n) := by
  have hpkg : ∀ (u : State) (g : Package → Package), (g u.pkg).number = u.pkg.number → (g u.pkg).service = u.pkg.service →
      (g u.pkg).podPackages = u.pkg.podPackages → (g u.pkg).absentRemote = u.pkg.absentRemote → (g u.pkg).injarm = u.pkg.injarm →
      SameView u (u.onPkg g) := fun _ _ h1 h2 h3 h4 h5 => ⟨rfl, rfl, h1, h2, h3, h4, h5, fun _ => rfl, fun _ => rfl⟩
  unfold State.spend
  dsimp only
  split
  · exact ((hpkg _ _ rfl rfl rfl rfl rfl).trans (hpkg _ _ rfl rfl rfl rfl rfl)).trans (notify ..)
  · exact hpkg _ _ rfl rfl rfl rfl rfl

variable {s t : State}

theorem tables (h : SameView s t) (fe : Nat) : SameTables fe s t :=
  ⟨fun a => by rw [State.byteAt, h.mem]; rfl, by rw [h.mem], by rw [h.mem], h.number, h.service, h.root1 fe, h.root2 fe, h.quads⟩

theorem byteAt (h : SameView s t) (a : Nat) : t.byteAt a = s.byteAt a := (h.tables 0).bytes a

theorem engPa (h : SameView s t) (g : Eng) (w : Bool) (va : DWord) : t.engPa g w va = s.engPa g w va := by
  have hunmapped : ∀ a, t.unmapped a = s.unmapped a := fun a => by simp only [State.unmapped, h.number, h.service, h.pod, h.absent]
  simp only [State.engPa, (h.tables g.fe).reach, (h.tables g.fe).pageKind, hunmapped]

theorem engMaps (h : SameView s t) {g : Eng} {va : DWord} {pa n : Nat} (hs : EngMaps s g va pa n) : EngMaps t g va pa n := by
  intro k hk
  rw [h.engPa, h.mem]
  exact hs k hk

theorem engMapsOut (h : SameView s t) {g : Eng} {va : DWord} {pa n : Nat} (hs : EngMapsOut s g va pa n) : EngMapsOut t g va pa n := by
  intro k hk
  rw [h.engPa, State.countersDone, h.mem]
  exact hs k hk

end SameView

theorem notify_cores (s : State) (c : Nat) : (s.notify c).cores = s.cores := by
  unfold State.notify
  dsimp only
  split
  · exact msix_cores ..
  · rfl

theorem spend_core (s : State) (a : Activity) (fe n c : Nat) : (s.spend a fe n).core c = s.core c := by
  have hcores : (s.spend a fe n).cores = s.cores := by
    unfold State.spend
    dsimp only
    split
    · exact notify_cores ..
    · rfl
  rw [State.core, hcores]
  rfl

/-! ### Segments -/

theorem toNat_add_mod (va : DWord) (k : Nat) : (va + BitVec.ofNat 64 k).toNat % 64 = (va.toNat + k) % 64 := by
  rw [BitVec.toNat_add, BitVec.toNat_ofNat, Nat.add_mod_mod, Nat.mod_mod_of_dvd _ (by decide : 64 ∣ 2 ^ 64)]

theorem add_ofNat_add (va : DWord) (j k : Nat) : va + BitVec.ofNat 64 j + BitVec.ofNat 64 k = va + BitVec.ofNat 64 (j + k) := by
  rw [BitVec.add_assoc, ← BitVec.ofNat_add]

theorem engMaps_drop {s : State} {g : Eng} {va : DWord} {pa n j : Nat} (h : EngMaps s g va pa n) :
    EngMaps s g (va + BitVec.ofNat 64 j) (pa + j) (n - j) := by
  intro k hk
  rw [add_ofNat_add, Nat.add_assoc]
  exact h (j + k) (by omega)

theorem engMapsOut_drop {s : State} {g : Eng} {va : DWord} {pa n j : Nat} (h : EngMapsOut s g va pa n) :
    EngMapsOut s g (va + BitVec.ofNat 64 j) (pa + j) (n - j) := by
  intro k hk
  rw [add_ofNat_add, Nat.add_assoc]
  exact h (j + k) (by omega)

/-- The first segment of a range, and what the rest needs. -/
theorem segments_succ (va : DWord) {n f : Nat} (hn : n ≠ 0) (hf : va.toNat % 64 + n ≤ 64 * (f + 1)) :
    ∃ k, 0 < k ∧ k ≤ n ∧ segments va n (f + 1) = (va, k) :: segments (va + BitVec.ofNat 64 k) (n - k) f ∧
      (n - k ≠ 0 → (va + BitVec.ofNat 64 k).toNat % 64 + (n - k) ≤ 64 * f) := by
  refine ⟨min n (64 - va.toNat % 64), by omega, by omega, by rw [segments, if_neg hn], fun hrest => ?_⟩
  rw [toNat_add_mod]
  omega

theorem segments_zero (va : DWord) (f : Nat) : segments va 0 f = [] := by
  cases f with
  | zero => rfl
  | succ f => rw [segments, if_pos rfl]

theorem bytesAt_append (s : State) (pa k n : Nat) (hk : k ≤ n) : s.bytesAt pa k ++ s.bytesAt (pa + k) (n - k) = s.bytesAt pa n := by
  obtain ⟨j, rfl⟩ := Nat.exists_eq_add_of_le hk
  simp only [State.bytesAt, Nat.add_sub_cancel_left, List.range_add, List.map_append, List.map_map]
  congr 1
  exact List.map_congr_left fun i _ => by rw [Function.comp, Nat.add_assoc]

theorem length_bytesAt (s : State) (pa n : Nat) : (s.bytesAt pa n).length = n := by simp [State.bytesAt]

theorem getElem_bytesAt (s : State) (pa n k : Nat) (hk : k < (s.bytesAt pa n).length) : (s.bytesAt pa n)[k] = s.byteAt (pa + k) := by
  simp [State.bytesAt]

/-! ### Reads -/

theorem readLine_ok {s : State} {line : Nat} (hinj : s.pkg.injarm.getLsbD 0 = false) (hpoison : sget none s.mem.poison line = none)
    (htag : sget false s.mem.badTag line = false) (hcells : sget false s.mem.badCells line = false) (fe unit : Nat) :
    s.readLine fe unit line = (s, none) := by
  simp only [State.readLine, hinj, Bool.false_and, Bool.false_eq_true, if_false, hpoison, htag, hcells, Option.isSome_none, ite_self]

theorem engRead_segments {s : State} (hinj : s.pkg.injarm.getLsbD 0 = false) (g : Eng) (f : Nat) {va : DWord} {pa n : Nat}
    (hf : n ≠ 0 → va.toNat % 64 + n ≤ 64 * f) (hmaps : EngMaps s g va pa n) :
    s.engRead g (segments va n f) = (s, .ok (s.bytesAt pa n)) := by
  induction f generalizing va pa n with
  | zero =>
    obtain rfl : n = 0 := by
      by_contra hn
      have hlt := hf hn
      omega
    rfl
  | succ f ih =>
    by_cases hn : n = 0
    · subst hn
      rw [segments_zero]
      rfl
    · obtain ⟨k, hpos, hle, hseg, hrest⟩ := segments_succ va hn (hf hn)
      obtain ⟨hpa, hpoison, htag, hcells⟩ := hmaps 0 (by omega)
      rw [Nat.add_zero] at hpa hpoison htag hcells
      rw [show va + BitVec.ofNat 64 0 = va from BitVec.add_zero va] at hpa
      have hline := readLine_ok hinj hpoison htag hcells g.fe g.quad
      rw [hseg, State.engRead, hpa]
      dsimp only
      rw [hline]
      dsimp only
      rw [ih hrest (engMaps_drop hmaps), ← bytesAt_append s pa k n hle]

/-- An engine reads the bytes of a range that maps for it. -/
theorem engRead_ok {s : State} (hinj : s.pkg.injarm.getLsbD 0 = false) {g : Eng} {va : DWord} {pa n : Nat} (hmaps : EngMaps s g va pa n) :
    s.engRead g (segmentsOf va n) = (s, .ok (s.bytesAt pa n)) :=
  engRead_segments hinj g (n / 64 + 2) (fun _ => by omega) hmaps

/-! ### Writes -/

/-- Consecutive places of `n` bytes from `b`. -/
def Consecutive : Nat → List (Nat × Nat) → Nat → Prop
  | _, [], n => n = 0
  | b, (pa, k) :: ps, n => (k ≠ 0 → pa = b) ∧ k ≤ n ∧ Consecutive (b + k) ps (n - k)

theorem engPlaces_segments {s : State} (g : Eng) (f : Nat) {va : DWord} {pa n : Nat} (hf : n ≠ 0 → va.toNat % 64 + n ≤ 64 * f)
    (hmaps : EngMapsOut s g va pa n) : ∃ ps, s.engPlaces g (segments va n f) = .ok ps ∧ Consecutive pa ps n := by
  induction f generalizing va pa n with
  | zero =>
    refine ⟨[], rfl, ?_⟩
    show n = 0
    by_contra hn
    have hlt := hf hn
    omega
  | succ f ih =>
    by_cases hn : n = 0
    · subst hn
      rw [segments_zero]
      exact ⟨[], rfl, rfl⟩
    · obtain ⟨k, hpos, hle, hseg, hrest⟩ := segments_succ va hn (hf hn)
      obtain ⟨hpa, hdone⟩ := hmaps 0 (by omega)
      rw [Nat.add_zero] at hpa hdone
      rw [show va + BitVec.ofNat 64 0 = va from BitVec.add_zero va] at hpa
      obtain ⟨ps, hps, hrun⟩ := ih hrest (engMapsOut_drop hmaps)
      refine ⟨(pa, k) :: ps, ?_, fun _ => rfl, hle, hrun⟩
      rw [hseg, State.engPlaces, hpa]
      dsimp only
      rw [hdone, if_neg Bool.false_ne_true, hps]

theorem byte_bytesNat (bs : List Byte) {k : Nat} (hk : k < bs.length) : BitVec.ofNat 8 (bytesNat bs / 256 ^ k) = bs[k] := by
  induction bs generalizing k with
  | nil => exact absurd hk (Nat.not_lt_zero k)
  | cons b bs ih =>
    have hb : b.toNat < 256 := b.isLt
    have hcons : bytesNat (b :: bs) = b.toNat + 256 * bytesNat bs := rfl
    cases k with
    | zero =>
      rw [hcons, pow_zero, Nat.div_one]
      apply BitVec.eq_of_toNat_eq
      rw [BitVec.toNat_ofNat, Nat.add_mul_mod_self_left, Nat.mod_eq_of_lt hb]
      rfl
    | succ k =>
      have hdiv : (b.toNat + 256 * bytesNat bs) / 256 = bytesNat bs := by omega
      rw [hcons, pow_succ', ← Nat.div_div_eq_div_mul, hdiv]
      exact ih (Nat.lt_of_succ_lt_succ hk)

theorem engWrite_byteAt {ps : List (Nat × Nat)} {b : Nat} {bs : List Byte} (h : Consecutive b ps bs.length) (s : State) (a : Nat) :
    (s.engWrite bs ps).byteAt a = if h : b ≤ a ∧ a - b < bs.length then bs[a - b]'h.2 else s.byteAt a := by
  induction ps generalizing b bs s with
  | nil =>
    have hlen : bs.length = 0 := h
    rw [dif_neg (by omega)]
    rfl
  | cons p ps ih =>
    obtain ⟨pa, k⟩ := p
    obtain ⟨hpa, hk, hrest⟩ := h
    rw [← List.length_drop] at hrest
    have htake : (bs.take k).length = k := by rw [List.length_take]; omega
    rw [State.engWrite, ih hrest]
    by_cases hin : b + k ≤ a ∧ a - (b + k) < (bs.drop k).length
    · rw [dif_pos hin, dif_pos (by rw [List.length_drop] at hin; omega), List.getElem_drop]
      exact getElem_congr_idx (by omega)
    · rw [dif_neg hin, storeN_byteAt]
      rw [List.length_drop] at hin
      by_cases hfirst : pa ≤ a ∧ a < pa + k
      · obtain rfl : pa = b := hpa (by omega)
        rw [if_pos hfirst, dif_pos (by omega), byte_bytesNat _ (by omega), List.getElem_take]
      · rw [if_neg hfirst, dif_neg fun h => ?_]
        have := hpa (by omega)
        omega

theorem consecutive_of_bytesIn {ps : List (Nat × Nat)} {b n : Nat} (h : bytesIn ps = (List.range n).map (b + ·)) : Consecutive b ps n := by
  induction ps generalizing b n with
  | nil =>
    show n = 0
    simpa [bytesIn, eq_comm] using congrArg List.length h
  | cons p ps ih =>
    obtain ⟨pa, k⟩ := p
    have hcons : (List.range k).map (pa + ·) ++ bytesIn ps = (List.range n).map (b + ·) := h
    have hk : k ≤ n := by
      have := congrArg List.length hcons
      rw [List.length_append, List.length_map, List.length_map, List.length_range, List.length_range] at this
      omega
    obtain ⟨m, rfl⟩ := Nat.exists_eq_add_of_le hk
    rw [List.range_add, List.map_append] at hcons
    obtain ⟨hfirst, hrest⟩ := List.append_inj hcons (by simp)
    refine ⟨fun hpos => ?_, hk, ih ?_⟩
    · have hhead := congrArg (fun l => l[0]?) hfirst
      simpa [List.getElem?_map, List.getElem?_range (Nat.pos_of_ne_zero hpos)] using hhead
    · rw [hrest, Nat.add_sub_cancel_left, List.map_map]
      exact List.map_congr_left fun i _ => by rw [Function.comp, Nat.add_assoc]

/-- What writing consecutive bytes does. -/
theorem engWrite_bytes {ps : List (Nat × Nat)} {b : Nat} {bs : List Byte} (h : Consecutive b ps bs.length) (s : State) :
    (∀ k (hk : k < bs.length), (s.engWrite bs ps).byteAt (b + k) = bs[k]) ∧
      ∀ a, a < b ∨ b + bs.length ≤ a → (s.engWrite bs ps).byteAt a = s.byteAt a := by
  refine ⟨fun k hk => ?_, fun a ha => ?_⟩
  · rw [engWrite_byteAt h, dif_pos (by omega)]
    exact getElem_congr_idx (by omega)
  · rw [engWrite_byteAt h, dif_neg (by omega)]

theorem engWrite_banks (s : State) (bs : List Byte) (ps : List (Nat × Nat)) : (s.engWrite bs ps).banks = s.banks := by
  induction ps generalizing s bs with
  | nil => rfl
  | cons p ps ih => exact ih _ _

theorem engWrite_core (s : State) (bs : List Byte) (ps : List (Nat × Nat)) (c : Nat) : (s.engWrite bs ps).core c = s.core c := by
  induction ps generalizing s bs with
  | nil => rfl
  | cons p ps ih => exact ih _ _

/-- An engine writes a range that maps for it, and nothing else. -/
theorem engStore_ok {s : State} {g : Eng} {va : DWord} {pa : Nat} {bs : List Byte} (hmaps : EngMapsOut s g va pa bs.length) :
    ∃ t, s.engStore g [(va, bs)] = .ok t ∧ (∀ k (hk : k < bs.length), t.byteAt (pa + k) = bs[k]) ∧
      (∀ a, a < pa ∨ pa + bs.length ≤ a → t.byteAt a = s.byteAt a) ∧ ∀ c, t.core c = s.core c := by
  obtain ⟨ps, hps, hrun⟩ := engPlaces_segments g (bs.length / 64 + 2) (fun _ => by omega) hmaps
  obtain ⟨hin, hout⟩ := engWrite_bytes hrun s
  refine ⟨s.engWrite bs ps, ?_, hin, hout, engWrite_core s bs ps⟩
  unfold State.engStore
  simp only [List.flatMap_cons, List.flatMap_nil, List.append_nil]
  rw [segmentsOf, hps]

theorem putFrom_get {α : Type} [DecidableEq α] (d : α) (k : Nat) (l : List α) (st : Sparse α) (j : Nat) :
    sget d (putFrom d k l st) j = if h : k ≤ j ∧ j - k < l.length then l[j - k]'h.2 else sget d st j := by
  induction l generalizing k st with
  | nil => rw [dif_neg (by simp)]; rfl
  | cons v l ih =>
    rw [putFrom, ih]
    by_cases hin : k + 1 ≤ j ∧ j - (k + 1) < l.length
    · obtain ⟨i, rfl⟩ : ∃ i, j = k + 1 + i := ⟨j - (k + 1), by omega⟩
      rw [dif_pos hin, dif_pos (by rw [List.length_cons]; omega)]
      simp only [show k + 1 + i - k = i + 1 by omega, show k + 1 + i - (k + 1) = i by omega, List.getElem_cons_succ]
    · rw [dif_neg hin, sget_sset]
      by_cases hj : j = k
      · subst hj
        rw [if_pos rfl, dif_pos (by rw [List.length_cons]; omega)]
        simp
      · rw [if_neg hj, dif_neg (by rw [List.length_cons]; omega)]

end Sys2Proof.Proofs
end

section
/-! PROOFS. A chunk of a Porter command (R209, R212 to R216): O34. -/

namespace Sys2Proof.Proofs

open Sys2Proof Sys2Proof.Machine Sys2Proof.Says

/-! ### The queue of a context after a chunk -/

theorem core_cpNext (s : State) (c ctx : Nat) (q : CpCmd) (pos : Nat) : (s.cpNext c ctx q pos).core c =
    { s.core c with porter := sset [] (s.core c).porter ctx ({ q with pos := pos } :: (sget [] (s.core c).porter ctx).tail) } :=
  sget_sset_same ..

theorem core_cpDone (s : State) (c ctx : Nat) (q : CpCmd) : (s.cpDone c ctx q).core c =
    { s.core c with porter := sset [] (s.core c).porter ctx (sget [] (s.core c).porter ctx).tail, done := sset 0 (s.core c).done ctx q.ticket } :=
  sget_sset_same ..

/-- The state after a chunk has moved up to `pos` of `len`. -/
def wentOn (s : State) (c ctx : Nat) (q : CpCmd) (pos len : Nat) : State :=
  if pos < len then s.cpNext c ctx q pos else s.cpDone c ctx q

theorem wentOn_byteAt (s : State) (c ctx : Nat) (q : CpCmd) (pos len a : Nat) : (wentOn s c ctx q pos len).byteAt a = s.byteAt a := by
  unfold wentOn
  split
  · rfl
  · rfl

theorem wentOn_tile (s : State) (c ctx : Nat) (q : CpCmd) (pos len j : Nat) :
    ((wentOn s c ctx q pos len).core c).tile j = (s.core c).tile j := by
  unfold wentOn
  split
  · rw [core_cpNext]; rfl
  · rw [core_cpDone]; rfl

theorem wentOn_next {s : State} {c ctx : Nat} {q : CpCmd} {rest : List CpCmd} {pos len : Nat} (hpos : pos < len)
    (hq : sget [] (s.core c).porter ctx = q :: rest) :
    sget [] ((wentOn s c ctx q pos len).core c).porter ctx = { q with pos := pos } :: rest := by
  rw [wentOn, if_pos hpos, core_cpNext, hq]
  exact sget_sset_same [] ({ q with pos := pos } :: rest) ctx (s.core c).porter

theorem wentOn_done {s : State} {c ctx : Nat} {q : CpCmd} {rest : List CpCmd} {pos len : Nat} (hpos : ¬ pos < len)
    (hq : sget [] (s.core c).porter ctx = q :: rest) :
    sget [] ((wentOn s c ctx q pos len).core c).porter ctx = rest ∧ ((wentOn s c ctx q pos len).core c).doneOf ctx = q.ticket := by
  rw [wentOn, if_neg hpos, core_cpDone, hq]
  refine ⟨sget_sset_same [] rest ctx (s.core c).porter, ?_⟩
  rw [Core.doneOf]
  exact sget_sset_same ..

theorem released_of_after {s : State} {q : CpCmd} (hafter : ∀ r ∈ q.after, r ∉ s.openWrites q.party)
    (hbudget : s.throttled .porter q.fe = false) :
    ¬ (q.after.any (fun r => (s.openWrites q.party).contains r) || s.throttled .porter q.fe) = true := by
  simpa [hbudget] using hafter

/-! ### Copies (R216) -/

theorem exec_copyChunk {s : State} {c ctx : Nat} {q : CpCmd} {rest : List CpCmd} (hq : sget [] (s.core c).porter ctx = q :: rest)
    (hgo : ¬ (q.after.any (fun r => (s.openWrites q.party).contains r) || s.throttled .porter q.fe) = true)
    {src : DWord} {len : Nat} (hop : q.op = .mem src len) {bs : List Byte} {u t : State}
    (hread : (s.spend .porter q.fe (min 4096 (len - q.pos))).engRead ⟨q.fe, quadOfCore c, q.user⟩
      (segmentsOf (src + BitVec.ofNat 64 q.pos) (min 4096 (len - q.pos))) = (u, .ok bs))
    (hstore : u.engStore ⟨q.fe, quadOfCore c, q.user⟩ [(q.addr + BitVec.ofNat 64 q.pos, bs)] = .ok t) :
    exec (.porterChunk c ctx) s = .next (wentOn t c ctx q (q.pos + min 4096 (len - q.pos)) len).wake := by
  rw [exec_porterChunk, execPorterChunk]
  refine congrArg State.event ?_
  rw [hq]
  dsimp only
  rw [if_neg hgo, hop]
  dsimp only
  rw [hread]
  dsimp only
  rw [hstore]
  rfl

/-! ### Fills (R212 to R214) -/

/-- `t` is `s` after the rows of a fill have come to tile `slot` of core `c`: it holds the bytes `f`. -/
structure RowsFilled (s t : State) (c slot : Nat) (f : Nat → Byte) : Prop where
  view : SameView s t
  porter : (t.core c).porter = (s.core c).porter
  readers : ((t.core c).tile slot).readers = ((s.core c).tile slot).readers
  data : ∀ j, sget 0 ((t.core c).tile slot).data j = f j

theorem rowsFilled_row {s : State} {c slot r : Nat} (bs : List Byte) (side : List Byte) :
    RowsFilled s (s.onCore c fun k => k.setTile slot { k.tile slot with
      data := putFrom 0 (128 * r) bs (k.tile slot).data, side := putFrom 0x7F (4 * r) side (k.tile slot).side }) c slot
      (fun j => if h : 128 * r ≤ j ∧ j - 128 * r < bs.length then bs[j - 128 * r]'h.2 else sget 0 ((s.core c).tile slot).data j) := by
  have htile : ∀ t : Tile, ((s.onCore c fun k => k.setTile slot t).core c).tile slot = t := fun t => by
    rw [core_onCore, if_pos rfl, tile_setTile, if_pos rfl]
  refine ⟨SameView.onCore .., ?_, ?_, fun j => ?_⟩
  · rw [core_onCore, if_pos rfl]
    rfl
  · rw [core_onCore, if_pos rfl, tile_setTile, if_pos rfl]
  · rw [core_onCore, if_pos rfl, tile_setTile, if_pos rfl]
    exact putFrom_get ..

theorem decodeRow_plain {fmt : Nat} (hfmt : fmt ≤ 2) {bs : List Byte} (hbs : bs.length = 128) :
    decodeRow fmt false bs = .ok (bs.map (·.toNat), [0x7F, 0x7F, 0x7F, 0x7F]) := by
  have htake : bs.take 128 = bs := List.take_of_length_le hbs.le
  interval_cases fmt
  all_goals exact congrArg (fun l : List Byte => Except.ok (l.map (·.toNat), [0x7F, 0x7F, 0x7F, 0x7F])) htake

theorem packRow_plain {fmt : Nat} (hfmt : fmt ≤ 2) (bs : List Byte) : packRow (cpLayout fmt) (bs.map (·.toNat)) = bs := by
  have hlayout : cpLayout fmt = 1 := if_pos (by omega)
  rw [hlayout]
  show (bs.map (·.toNat)).map (BitVec.ofNat 8) = bs
  rw [List.map_map, List.map_congr_left (g := id) fun b _ => BitVec.ofNat_toNat .., List.map_id]

theorem rowSizes_plain {fmt : Nat} (hfmt : fmt ≤ 2) : rowSizes fmt false = (128, 0) := by
  simp [rowSizes, hfmt]

/-- The bytes of a tile whose rows `pos` to `pos + n` have been filled. -/
def filledBytes (s : State) (c slot : Nat) (pr : Nat → Nat) (pos n j : Nat) : Byte :=
  if 128 * pos ≤ j ∧ j < 128 * (pos + n) then s.byteAt (pr (j / 128) + j % 128) else sget 0 ((s.core c).tile slot).data j

theorem fillRows_plain {s : State} (hinj : s.pkg.injarm.getLsbD 0 = false) {c slot fmt stride : Nat} {q : CpCmd} {g : Eng} (hfmt : fmt ≤ 2) {pr : Nat → Nat}
    (n : Nat) {pos : Nat} (hmaps : ∀ r, pos ≤ r → r < pos + n → EngMaps s g (q.addr + BitVec.ofNat 64 (stride * r)) (pr r) 128) :
    ∃ t, s.fillRows g c q slot fmt false stride ((List.range n).map (pos + ·)) = (t, none) ∧ RowsFilled s t c slot (filledBytes s c slot pr pos n) := by
  induction n generalizing s pos with
  | zero => exact ⟨s, rfl, SameView.refl s, rfl, rfl, fun j => by rw [filledBytes, if_neg (by omega)]⟩
  | succ n ih =>
    have hlen := length_bytesAt s (pr pos) 128
    have hread := engRead_ok hinj (hmaps pos le_rfl (by omega))
    obtain ⟨hview, hporter, hreaders, hdata⟩ := rowsFilled_row (s := s) (c := c) (slot := slot) (r := pos) (s.bytesAt (pr pos) 128)
      ([0x7F, 0x7F, 0x7F, 0x7F].map (BitVec.ofNat 8))
    generalize hu : (s.onCore c fun k => k.setTile slot { k.tile slot with
      data := putFrom 0 (128 * pos) (s.bytesAt (pr pos) 128) (k.tile slot).data,
      side := putFrom 0x7F (4 * pos) ([0x7F, 0x7F, 0x7F, 0x7F].map (BitVec.ofNat 8)) (k.tile slot).side }) = u at hview hporter hreaders hdata
    obtain ⟨t, ht, hview', hporter', hreaders', hdata'⟩ := ih (s := u) (pos := pos + 1) (by rw [hview.injarm]; exact hinj)
      fun r hr hr' => hview.engMaps (hmaps r (by omega) (by omega))
    refine ⟨t, ?_, hview.trans hview', hporter'.trans hporter, hreaders'.trans hreaders, fun j => ?_⟩
    · rw [List.range_succ_eq_map, List.map_cons, List.map_map, State.fillRows, rowSizes_plain hfmt]
      dsimp only
      rw [Nat.add_zero, Nat.add_zero, CpCmd.row, hread]
      dsimp only
      rw [decodeRow_plain hfmt hlen]
      dsimp only
      rw [packRow_plain hfmt, hu, ← ht]
      congr 1
      exact List.map_congr_left fun i _ => by simp only [Function.comp]; omega
    · rw [hdata', filledBytes, filledBytes]
      by_cases hrest : 128 * (pos + 1) ≤ j ∧ j < 128 * (pos + 1 + n)
      · rw [if_pos hrest, if_pos (by omega), hview.byteAt]
      · rw [if_neg hrest, hdata]
        by_cases hrow : 128 * pos ≤ j ∧ j - 128 * pos < 128
        · rw [dif_pos (by rw [hlen]; exact hrow), if_pos (by omega), getElem_bytesAt]
          rw [show j / 128 = pos by omega, show j % 128 = j - 128 * pos by omega]
        · rw [dif_neg (by rw [hlen]; exact hrow), if_neg (by omega)]

theorem exec_fillChunk {s : State} {c ctx : Nat} {q : CpCmd} {rest : List CpCmd} (hq : sget [] (s.core c).porter ctx = q :: rest)
    (hgo : ¬ (q.after.any (fun r => (s.openWrites q.party).contains r) || s.throttled .porter q.fe) = true)
    {slot fmt stride : Nat} (hop : q.op = .fill slot fmt false stride none) (hfmt : fmt ≤ 2) {n : Nat} (hn : n = min (128 - q.pos) 32) {t : State}
    (hrows : (s.spend .porter q.fe (n * 128)).fillRows ⟨q.fe, quadOfCore c, q.user⟩ c q slot fmt false stride ((List.range n).map (q.pos + ·)) = (t, none)) :
    exec (.porterChunk c ctx) s = .next (wentOn (if q.pos + n < 128 then t else t.onCore c (fun k => k.fillDone slot none)) c ctx q (q.pos + n) 128).wake := by
  have hchunk : chunkRows q.pos (128 + 0) = (List.range n).map (q.pos + ·) := by rw [hn]; rfl
  rw [exec_porterChunk, execPorterChunk]
  refine congrArg State.event ?_
  rw [hq]
  dsimp only
  rw [if_neg hgo, hop]
  dsimp only
  rw [rowSizes_plain hfmt]
  dsimp only
  rw [hchunk, List.length_map, List.length_range, Nat.add_zero, hrows]
  dsimp only
  unfold wentOn
  by_cases hpos : q.pos + n < 128
  · rw [if_pos hpos, if_pos hpos, if_pos hpos]
  · rw [if_neg hpos, if_neg hpos, if_neg hpos]

theorem tile_fillDone (k : Core) (slot : Nat) : (k.fillDone slot none).tile slot =
    { k.tile slot with st := if (k.tile slot).readers = 0 then .ready else .draining, poison := false } := by
  exact (tile_setTile ..).trans (if_pos rfl)

/-- Settles O34: a chunk copies its bytes, or fills its rows, and the command goes on or completes. -/
theorem porterMovesChunks : Obligations.PorterMovesChunks := by
  intro s c ctx q rest hq hafter hbudget hinj
  have hgo := released_of_after hafter hbudget
  refine ⟨fun src len pa pb hop => ?_, fun slot fmt stride pr hop hfmt hlt => ?_⟩
  · intro n off hin hout hapart
    have hview := SameView.spend s .porter q.fe n
    have hread := engRead_ok (by rw [hview.injarm]; exact hinj) (hview.engMaps hin)
    have hlen := length_bytesAt (s.spend .porter q.fe n) pa n
    obtain ⟨t, ht, hbytes, hothers, hcore⟩ := engStore_ok (bs := (s.spend .porter q.fe n).bytesAt pa n)
      (by rw [hlen]; exact hview.engMapsOut hout)
    have hporter : sget [] (t.core c).porter ctx = q :: rest := by rw [hcore, spend_core]; exact hq
    rw [hlen] at hothers
    refine ⟨_, exec_copyChunk hq hgo hop hread ht, fun k hk => ?_, fun a ha => ?_, ?_⟩
    · refine (wentOn_byteAt ..).trans ?_
      rw [hbytes k (by rw [hlen]; exact hk), getElem_bytesAt, hview.byteAt]
    · refine (wentOn_byteAt ..).trans ?_
      rw [hothers a ha, hview.byteAt]
    · by_cases hpos : q.pos + n < len
      · rw [if_pos hpos]
        exact wentOn_next hpos hporter
      · rw [if_neg hpos]
        exact wentOn_done hpos hporter
  · intro n hmaps
    have hview := SameView.spend s .porter q.fe (n * 128)
    obtain ⟨t, ht, hfilled, hporter, hreaders, hdata⟩ := fillRows_plain (s := s.spend .porter q.fe (n * 128)) (c := c) (slot := slot)
      (by rw [hview.injarm]; exact hinj) hfmt n fun r hr hr' => hview.engMaps (hmaps r hr hr')
    have hqueue : ∀ u : State, (u.core c).porter = (t.core c).porter → sget [] (u.core c).porter ctx = q :: rest := fun u hu => by
      rw [hu, hporter, spend_core]
      exact hq
    have hexec := exec_fillChunk hq hgo hop hfmt rfl ht
    have htile := spend_core s .porter q.fe (n * 128) c
    have hpast : ∀ j, j < 128 * q.pos ∨ 128 * (q.pos + n) ≤ j → sget 0 ((t.core c).tile slot).data j = sget 0 ((s.core c).tile slot).data j :=
      fun j hj => by rw [hdata, filledBytes, if_neg (by omega), htile]
    have hrow : ∀ r k, q.pos ≤ r → r < q.pos + n → k < 128 → sget 0 ((t.core c).tile slot).data (128 * r + k) = s.byteAt (pr r + k) :=
      fun r k hr hr' hk => by
        rw [hdata, filledBytes, if_pos (by omega), hview.byteAt, show (128 * r + k) / 128 = r by omega, show (128 * r + k) % 128 = k by omega]
    have hbytes : ∀ a, t.byteAt a = s.byteAt a := fun a => (hfilled.byteAt a).trans (hview.byteAt a)
    by_cases hpos : q.pos + n < 128
    · rw [if_pos hpos] at hexec
      refine ⟨_, hexec, fun a => (wentOn_byteAt ..).trans (hbytes a), fun r k hr hr' hk => ?_, fun j hj => ?_, ?_⟩
      · refine (congrArg (fun x : Tile => sget 0 x.data _) (wentOn_tile ..)).trans (hrow r k hr hr' hk)
      · exact (congrArg (fun x : Tile => sget 0 x.data _) (wentOn_tile ..)).trans (hpast j hj)
      · rw [if_pos hpos]
        exact wentOn_next hpos (hqueue t rfl)
    · rw [if_neg hpos] at hexec
      have hcore : (t.onCore c fun k => k.fillDone slot none).core c = (t.core c).fillDone slot none := (core_onCore ..).trans (if_pos rfl)
      have hdone : ∀ pos len, ((wentOn (t.onCore c fun k => k.fillDone slot none) c ctx q pos len).core c).tile slot =
          { (t.core c).tile slot with st := if ((t.core c).tile slot).readers = 0 then .ready else .draining, poison := false } := fun pos len => by
        rw [wentOn_tile, hcore, tile_fillDone]
      have hporters : ((t.onCore c fun k => k.fillDone slot none).core c).porter = (t.core c).porter := by rw [hcore]; rfl
      have hlast := wentOn_done hpos (hqueue _ hporters)
      refine ⟨_, hexec, fun a => (wentOn_byteAt ..).trans (hbytes a), fun r k hr hr' hk => ?_, fun j hj => ?_, ?_⟩
      · exact (congrArg (fun x : Tile => sget 0 x.data _) (hdone ..)).trans (hrow r k hr hr' hk)
      · exact (congrArg (fun x : Tile => sget 0 x.data _) (hdone ..)).trans (hpast j hj)
      · rw [if_neg hpos]
        refine ⟨hlast.1, hlast.2, (congrArg Tile.st (hdone ..)).trans ?_⟩
        rw [hreaders, htile]

end Sys2Proof.Proofs
end

section
/-! PROOFS. The bank engines (R95, R225 to R228): O35. -/

namespace Sys2Proof.Proofs

open Sys2Proof Sys2Proof.Machine Sys2Proof.Says

theorem bank_onBank (s : State) (e : Nat) (f : Bank → Bank) (j : Nat) : (s.onBank e f).bank j = if j = e then f (s.bank e) else s.bank j := sget_sset ..

/-! ### One command of a running list -/

/-- An engine after a command that is not BEND: it goes on at the next. -/
def ranOn (e code : Nat) (touched : List BankTouch) (s : State) : State :=
  s.onBank e fun b => { b with next := b.next + 1, touched := if code = 5 then [] else touched }

/-- The effect of the command that BANKAT names. -/
def bankEffect (s : State) (e : Nat) (l : BankList) (op : BankOp) (ps : List (Nat × Nat)) : State :=
  let t := s.bankDo e (ps.flatMap fun q => s.bytesAt q.1 q.2) ps op
  if op.code = 0 then t.listDone e l else ranOn e op.code ((s.bank e).touched ++ op.touches ps) t

theorem bankStep_at {s : State} {e : Nat} {l : BankList} {op : BankOp} {ps : List (Nat × Nat)} (h : BankAt s e l op ps) :
    s.bankStep e op.code = bankEffect s e l op ps := by
  obtain ⟨hrun, hnext, ⟨bs, hread, hdecode⟩, hplaces, hall, hfree⟩ := h
  have hclash : ((op.touches ps).any fun t => (s.bank e).touched.any t.conflict) = false := by
    rw [List.any_eq_false]
    intro t ht
    rw [List.any_eq_true]
    rintro ⟨u, hu, hconflict⟩
    rw [hfree t ht u hu] at hconflict
    exact Bool.false_ne_true hconflict
  unfold State.bankStep
  rw [hrun]
  dsimp only
  rw [if_neg (Nat.not_le.2 hnext), hread]
  dsimp only
  rw [hdecode]
  dsimp only
  rw [if_pos rfl]
  unfold State.bankExec
  rw [hplaces]
  dsimp only
  rw [hall]
  dsimp only
  rw [hclash, if_neg Bool.false_ne_true, if_neg Bool.false_ne_true]
  cases op with
  | _ => rfl

/-- What a command that is not BEND leaves: its effect, and the engine at the next command. -/
theorem event_bankStep {s : State} {e : Nat} {l : BankList} {op : BankOp} {ps : List (Nat × Nat)} (h : BankAt s e l op ps) (hcode : op.code ≠ 0)
    {u : State} (hdo : s.bankDo e (ps.flatMap fun q => s.bytesAt q.1 q.2) ps op = u) : ∃ t, State.event (s.bankStep e op.code) = .next t ∧
      t.bank e = { u.bank e with next := (u.bank e).next + 1, touched := if op.code = 5 then [] else (s.bank e).touched ++ op.touches ps } ∧
      t.mem = u.mem := by
  have heffect : bankEffect s e l op ps = ranOn e op.code ((s.bank e).touched ++ op.touches ps) u := by
    unfold bankEffect
    rw [hdo]
    exact if_neg hcode
  refine ⟨_, congrArg State.event ((bankStep_at h).trans heffect), ?_, rfl⟩
  have hwake : ∀ v : State, v.wake.bank e = v.bank e := fun _ => rfl
  rw [ranOn, hwake, bank_onBank_same]

/-- A command that changes only its engine. -/
theorem event_bankStep_onBank {s : State} {e : Nat} {l : BankList} {op : BankOp} {ps : List (Nat × Nat)} (h : BankAt s e l op ps) (hcode : op.code ≠ 0)
    {f : Bank → Bank} (hdo : s.bankDo e (ps.flatMap fun q => s.bytesAt q.1 q.2) ps op = s.onBank e f) : ∃ t, State.event (s.bankStep e op.code) = .next t ∧
      t.bank e = { f (s.bank e) with
        next := (f (s.bank e)).next + 1, touched := if op.code = 5 then [] else (s.bank e).touched ++ op.touches ps } ∧
      t.mem = s.mem := by
  obtain ⟨t, ht, hbank, hmem⟩ := event_bankStep h hcode hdo
  rw [bank_onBank_same] at hbank
  exact ⟨t, ht, hbank, hmem⟩

/-! ### The commands -/

theorem getD_numbers (ns : List Nat) (k : Nat) :
    sget 0 (putFrom 0 0 (ns.map (BitVec.ofNat 32)) ([] : Sparse Word)) k = BitVec.ofNat 32 (ns.getD k 0) := by
  rw [putFrom_get]
  by_cases hk : k < ns.length
  · rw [dif_pos ⟨Nat.zero_le k, by simpa using hk⟩, List.getElem_map, List.getD_eq_getElem _ _ hk]
    rfl
  · rw [dif_neg fun h => hk (by simpa using h.2), List.getD_eq_default _ _ (by omega)]
    rfl

/-- Consecutive keys that are each updated once. -/
theorem sget_foldl_upd {f : Nat → Word → Word} (a n : Nat) (st : Sparse Word) (r : Nat) :
    sget 0 ((List.range n).foldl (fun acc i => sset 0 acc (a + i) (f i (sget 0 acc (a + i)))) st) r =
      if a ≤ r ∧ r < a + n then f (r - a) (sget 0 st r) else sget 0 st r := by
  induction n with
  | zero => rw [if_neg (by omega)]; rfl
  | succ n ih =>
    rw [List.range_succ, List.foldl_append, List.foldl_cons, List.foldl_nil, sget_sset]
    by_cases hr : r = a + n
    · subst hr
      rw [if_pos rfl, ih, if_neg (by omega), if_pos (by omega), Nat.add_sub_cancel_left]
    · rw [if_neg hr, ih]
      by_cases hin : a ≤ r ∧ r < a + n
      · rw [if_pos hin, if_pos (by omega)]
      · rw [if_neg hin, if_neg (by omega)]

theorem sget_foldl_sdrop (a n : Nat) (st : Sparse Word) (r : Nat) :
    sget 0 ((List.range n).foldl (fun acc i => sdrop acc (a + i)) st) r = if a ≤ r ∧ r < a + n then 0 else sget 0 st r := by
  induction n with
  | zero => rw [if_neg (by omega)]; rfl
  | succ n ih =>
    rw [List.range_succ, List.foldl_append, List.foldl_cons, List.foldl_nil, sget_sdrop, ih]
    by_cases hr : r = a + n
    · rw [if_pos hr, if_pos (by omega)]
    · rw [if_neg hr]
      by_cases hin : a ≤ r ∧ r < a + n
      · rw [if_pos hin, if_pos (by omega)]
      · rw [if_neg hin, if_neg (by omega)]

theorem length_outBytes (half : Bool) (w : Word) : (outBytes half w).length = if half then 2 else 4 := by simp [outBytes]

/-- Rows of one length laid one after another. -/
theorem getElem?_flatMap_rows {f : Nat → List Byte} {w : Nat} (hf : ∀ i, (f i).length = w) {n r k : Nat} (hr : r < n) (hk : k < w) :
    ((List.range n).flatMap f)[r * w + k]? = (f r)[k]? := by
  induction n generalizing r f with
  | zero => exact absurd hr (Nat.not_lt_zero r)
  | succ n ih =>
    rw [List.range_succ_eq_map, List.flatMap_cons, List.flatMap_map]
    cases r with
    | zero => rw [Nat.zero_mul, Nat.zero_add, List.getElem?_append_left (by rw [hf]; exact hk)]
    | succ r =>
      have hpast : (r + 1) * w + k = w + (r * w + k) := by ring
      rw [List.getElem?_append_right (by rw [hf, hpast]; omega), hf, hpast, Nat.add_sub_cancel_left]
      exact ih (f := fun i => f i.succ) (fun i => hf _) (Nat.lt_of_succ_lt_succ hr)

theorem length_flatMap_rows {f : Nat → List Byte} {w : Nat} (hf : ∀ i, (f i).length = w) (n : Nat) : ((List.range n).flatMap f).length = n * w := by
  rw [List.length_flatMap, List.map_congr_left (g := fun _ => w) fun i _ => hf i]
  simp

theorem bankList_starts {s : State} {e : Nat} {l : BankList} {ls : List BankList} (hrun : (s.bank e).run = none) (hqueue : (s.bank e).queue = l :: ls)
    (hafter : s.released l.after = true) : exec (.bankListStart e) s = .next (s.onBank e fun _ => ⟨ls, some l, 0, [], [], []⟩).wake := by
  rw [exec_bankListStart, execBankListStart]
  refine congrArg State.event ?_
  dsimp only
  rw [hrun, hqueue]
  exact if_pos hafter

/-- Accumulators are written in memory form, and nothing else. -/
theorem bout_bytes {s : State} {e a n pa : Nat} {half : Bool} {ps : List (Nat × Nat)}
    (hps : bytesIn ps = (List.range (n * if half then 2 else 4)).map (pa + ·)) :
    let u := s.engWrite ((List.range n).flatMap fun r => outBytes half (sget 0 (s.bank e).acc (a + r))) ps
    (∀ r < n, ∀ k, k < (if half then 2 else 4) → u.byteAt (pa + r * (if half then 2 else 4) + k) =
      BitVec.ofNat 8 ((if half then narrowTo bf16 (sget 0 (s.bank e).acc (a + r)).toNat else (sget 0 (s.bank e).acc (a + r)).toNat) / 256 ^ k)) ∧
    ∀ j, j ∉ bytesIn ps → u.byteAt j = s.byteAt j := by
  intro u
  have hrow : ∀ r, (outBytes half (sget 0 (s.bank e).acc (a + r))).length = if half then 2 else 4 := fun r => length_outBytes ..
  have hlen := length_flatMap_rows hrow n
  have hrun := consecutive_of_bytesIn hps
  rw [← hlen] at hrun
  obtain ⟨hin, hout⟩ := engWrite_bytes hrun s
  refine ⟨fun r hr k hk => ?_, fun j hj => hout j ?_⟩
  · have hplace : r * (if half then 2 else 4) + k < n * if half then 2 else 4 := by
      calc r * (if half then 2 else 4) + k < (r + 1) * if half then 2 else 4 := by rw [Nat.add_one_mul]; omega
        _ ≤ n * if half then 2 else 4 := Nat.mul_le_mul_right _ hr
    have hget := getElem?_flatMap_rows hrow hr hk
    rw [List.getElem?_eq_getElem (by rw [hlen]; exact hplace), List.getElem?_eq_getElem (by rw [hrow]; exact hk)] at hget
    rw [Nat.add_assoc, hin _ (by rw [hlen]; exact hplace), Option.some.inj hget]
    simp [outBytes]
  · rw [hlen]
    by_contra hbetween
    refine hj ?_
    rw [hps, List.mem_map]
    exact ⟨j - pa, List.mem_range.2 (by omega), by omega⟩

/-- The ticket that follows the completed value retires at once. -/
theorem retireLists_one {k : Core} {t : Nat} (ht : (k.doneOf 7 + 1) % 2 ^ 64 = t) (hin : k.bankDone.contains t = true) : (k.retireLists 1).doneOf 7 = t := by
  rw [Core.retireLists, ht, if_pos hin]
  exact sget_sset_same ..

theorem listDone_done {s : State} {e : Nat} {l : BankList} (hticket : l.ticket = ((s.core l.core).doneOf 7 + 1) % 2 ^ 64)
    (hnone : (s.core l.core).bankDone = []) : ((s.listDone e l).core l.core).doneOf 7 = l.ticket := by
  have hcore : (s.listDone e l).core l.core = Core.retireLists { s.core l.core with bankDone := (s.core l.core).bankDone ++ [l.ticket] }
      ((s.core l.core).bankDone ++ [l.ticket]).length := (core_onCore ..).trans (if_pos rfl)
  rw [hcore, hnone]
  refine retireLists_one (k := { s.core l.core with bankDone := [] ++ [l.ticket] }) hticket.symm ?_
  simp

theorem listDone_run (s : State) (e : Nat) (l : BankList) : ((s.listDone e l).bank e).run = none := by
  have hbank : (s.listDone e l).bank e = (s.onBank e fun b => { b with run := none, next := 0, touched := [] }).bank e := rfl
  rw [hbank, bank_onBank_same]

/-! ### The codes (R95, R226) -/

section Codes

variable {n a : Nat}

theorem operand_fields (ha : a < 4096) (hn : n < 4096) :
    ((BitVec.ofNat 32 (a + 4096 * n)).extractLsb' 0 12).toNat = a ∧ ((BitVec.ofNat 32 (a + 4096 * n)).extractLsb' 12 12).toNat = n ∧
      (BitVec.ofNat 32 (a + 4096 * n)).extractLsb' 24 8 = 0 := by
  have h : (BitVec.ofNat 32 (a + 4096 * n)).toNat = a + 4096 * n := by rw [BitVec.toNat_ofNat]; omega
  refine ⟨?_, ?_, BitVec.eq_of_toNat_eq ?_⟩
  · rw [BitVec.extractLsb'_toNat, h]
    omega
  · rw [BitVec.extractLsb'_toNat, h]
    omega
  · rw [BitVec.extractLsb'_toNat, h]
    show _ = 0
    omega

theorem decode_bvec {ad : DWord} (hn : 1 ≤ n) (hn' : n ≤ 2048) (had : ad.toNat % 2 = 0) :
    bankDecode (BitVec.ofNat 32 (1 + 256 * n)) 0 ad = some (.bvec n ad) := by
  have h : (BitVec.ofNat 32 (1 + 256 * n)).toNat = 1 + 256 * n := by rw [BitVec.toNat_ofNat]; omega
  have hcode : ((BitVec.ofNat 32 (1 + 256 * n)).extractLsb' 0 8).toNat = 1 := by rw [BitVec.extractLsb'_toNat, h]; omega
  have hcount : ((BitVec.ofNat 32 (1 + 256 * n)).extractLsb' 8 12).toNat = n := by rw [BitVec.extractLsb'_toNat, h]; omega
  have hrest : (BitVec.ofNat 32 (1 + 256 * n)).extractLsb' 20 12 = 0 := BitVec.eq_of_toNat_eq (by rw [BitVec.extractLsb'_toNat, h]; show _ = 0; omega)
  unfold bankDecode
  rw [hcode]
  simp [hcount, hrest, hn, hn', had]

theorem decode_bclr (hn : 1 ≤ n) (ha : a + n ≤ 2048) : bankDecode 3 (BitVec.ofNat 32 (a + 4096 * n)) 0 = some (.bclr a n) := by
  obtain ⟨hA, hN, hrest⟩ := operand_fields (a := a) (n := n) (by omega) (by omega)
  have hcode : ((3 : Word).extractLsb' 0 8).toNat = 3 := rfl
  unfold bankDecode
  rw [hcode]
  simp [hA, hN, hrest, hn, ha]

theorem decode_bout {ad : DWord} {half : Bool} (hn : 1 ≤ n) (ha : a + n ≤ 2048) (had : ad.toNat % (if half then 2 else 4) = 0) :
    bankDecode (if half then 0x104 else 4) (BitVec.ofNat 32 (a + 4096 * n)) ad = some (.bout half a n ad) := by
  obtain ⟨hA, hN, hrest⟩ := operand_fields (a := a) (n := n) (by omega) (by omega)
  unfold bankDecode
  cases half with
  | _ =>
    simp only [Bool.false_eq_true, if_false, if_true] at had ⊢
    simp [hA, hN, hrest, hn, ha, had]

theorem decode_bmv {ad : DWord} {k : Nat} (c8 : Bool) (hk : 1 ≤ k) (hk' : k ≤ 16) (hn : 1 ≤ n) (ha : a + n ≤ 2048) (had : ad.toNat % 64 = 0) :
    bankDecode (BitVec.ofNat 32 (2 + (if c8 then 256 else 0) + 4096 * (128 * k))) (BitVec.ofNat 32 (a + 4096 * n)) ad =
      some (.bmv c8 (128 * k) a n ad) := by
  obtain ⟨hA, hN, hrest⟩ := operand_fields (a := a) (n := n) (by omega) (by omega)
  obtain ⟨f, hf, hflag⟩ : ∃ f, (if c8 then 256 else 0) = f ∧ (f = 256 ∧ c8 = true ∨ f = 0 ∧ c8 = false) := by cases c8 <;> simp
  rw [hf]
  generalize hw : BitVec.ofNat 32 (2 + f + 4096 * (128 * k)) = w
  have h : w.toNat = 2 + f + 4096 * (128 * k) := by rw [← hw, BitVec.toNat_ofNat]; omega
  have hcode : (w.extractLsb' 0 8).toNat = 2 := by rw [BitVec.extractLsb'_toNat, h]; omega
  have hK : (w.extractLsb' 12 12).toNat = 128 * k := by rw [BitVec.extractLsb'_toNat, h]; omega
  have hlow : w.extractLsb' 9 3 = 0 := BitVec.eq_of_toNat_eq (by rw [BitVec.extractLsb'_toNat, h]; show _ = 0; omega)
  have hhigh : w.extractLsb' 24 8 = 0 := BitVec.eq_of_toNat_eq (by rw [BitVec.extractLsb'_toNat, h]; show _ = 0; omega)
  have hbit : w.getLsbD 8 = c8 := by
    rw [BitVec.getLsbD, h, Nat.testBit_eq_decide_div_mod_eq]
    obtain ⟨rfl, rfl⟩ | ⟨rfl, rfl⟩ := hflag
    · simp; omega
    · simp; omega
  unfold bankDecode
  rw [hcode]
  simp [hA, hN, hrest, hn, ha, had, hK, hlow, hhigh]
  exact ⟨⟨hk, by omega⟩, hbit⟩

end Codes

/-- Settles O35: lists start on an idle engine, every command does what it names, and the codes decode to the commands. -/
theorem bankCommands : Obligations.BankCommands := by
  refine ⟨fun s e l ls hrun hqueue hafter => ⟨_, bankList_starts hrun hqueue hafter, fun j => bank_onBank s e (fun _ => ⟨ls, some l, 0, [], [], []⟩) j⟩, fun s e l op ps h => ?_,
    fun n a ad => ⟨decode_bvec, decode_bclr, fun hn ha had => decode_bout (half := false) hn ha had,
      fun hn ha had => decode_bout (half := true) hn ha had, fun k c8 => decode_bmv c8, rfl, rfl⟩⟩
  obtain ⟨hrun, -⟩ := id h
  refine ⟨?_, ?_, ?_, ?_, ?_, ?_⟩
  · rintro n src rfl - -
    obtain ⟨t, ht, hbank, hmem⟩ := event_bankStep_onBank h (by simp [BankOp.code]) (by rw [State.bankDo])
    refine ⟨t, ht, ?_, ?_, hmem, ?_⟩
    · dsimp only
      rw [hbank]
      exact ⟨rfl, hrun, rfl⟩
    · rw [hbank]
    · rw [hbank]; exact getD_numbers _
  · rintro c8 k a n w rfl
    obtain ⟨t, ht, hbank, hmem⟩ := event_bankStep_onBank h (by simp [BankOp.code]) (by rw [State.bankDo])
    refine ⟨t, ht, ?_, ?_, hmem, ?_⟩
    · dsimp only
      rw [hbank]
      exact ⟨rfl, hrun, rfl⟩
    · rw [hbank]
    · rw [hbank]
      dsimp only
      generalize chunks (bmvPitch c8 k) n _ = rows
      intro r
      have hupd := sget_foldl_upd (f := fun i x => bmvRow c8 k (s.bank e).vec x (rows.getD i [])) a n (s.bank e).acc r
      exact hupd
  · rintro a n rfl
    obtain ⟨t, ht, hbank, hmem⟩ := event_bankStep_onBank h (by simp [BankOp.code]) (by rw [State.bankDo])
    refine ⟨t, ht, ?_, ?_, hmem, ?_⟩
    · dsimp only
      rw [hbank]
      exact ⟨rfl, hrun, rfl⟩
    · rw [hbank]
    · rw [hbank]; exact sget_foldl_sdrop a n _
  · rintro half a n dst pa rfl hps
    obtain ⟨t, ht, hbank, hmem⟩ := event_bankStep h (by simp [BankOp.code]) rfl
    obtain ⟨hrows, hothers⟩ := bout_bytes (s := s) (e := e) (a := a) hps
    have hbyte : ∀ j, t.byteAt j = (s.engWrite ((List.range n).flatMap fun r => outBytes half (sget 0 (s.bank e).acc (a + r))) ps).byteAt j := fun j => by
      rw [State.byteAt, hmem]
      rfl
    have hsame : ∀ bs : List Byte, (s.engWrite bs ps).bank e = s.bank e := fun bs => by rw [State.bank, engWrite_banks]; rfl
    simp only [State.bankDo, hsame] at hbank
    refine ⟨t, ht, ?_, ?_, fun r hr k hk => ?_, fun j hj => ?_⟩
    · dsimp only
      rw [hbank]
      exact ⟨rfl, hrun, rfl⟩
    · rw [hbank]
    · rw [hbyte]; exact hrows r hr k hk
    · rw [hbyte]; exact hothers j hj
  · rintro rfl
    obtain ⟨t, ht, hbank, -⟩ := event_bankStep h (by simp [BankOp.code]) rfl
    refine ⟨t, ht, ?_, ?_, ?_, ?_⟩
    · dsimp only
      rw [hbank]
      exact ⟨rfl, hrun, rfl⟩
    · rw [hbank]; rfl
    · rw [hbank]; rfl
    · rw [hbank]; rfl
  · rintro rfl hticket hnone
    exact ⟨_, congrArg State.event (bankStep_at h), listDone_run s e l, listDone_done hticket hnone⟩

end Sys2Proof.Proofs
end

section
/-! PROOFS. Software traps, trap entry and the return from a trap (R67, R266, R267, R271 to R275, R284): O36. -/

namespace Sys2Proof.Proofs

open Sys2Proof Sys2Proof.Machine Sys2Proof.Says

/-! ### Software traps (R67, R266) -/

/-- A code address without its place in the line. -/
theorem toNat_line (a : DWord) : (a &&& ~~~ (0x3F : DWord)).toNat = a.toNat / 64 * 64 := by
  have hlow : ∀ i, (0x3F : DWord).getLsbD i = decide (i < 6) := fun i => Nat.testBit_two_pow_sub_one 6 i
  have hshift : a &&& ~~~ (0x3F : DWord) = (a >>> 6) <<< 6 := by
    refine BitVec.eq_of_getLsbD_eq fun i hi => ?_
    rw [BitVec.getLsbD_and, BitVec.getLsbD_not, hlow, BitVec.getLsbD_shiftLeft, BitVec.getLsbD_ushiftRight]
    by_cases h6 : i < 6
    · simp [h6]
    · simp [h6, hi, show 6 + (i - 6) = i by omega]
  rw [hshift, BitVec.toNat_shiftLeft, BitVec.toNat_ushiftRight, Nat.shiftRight_eq_div_pow, Nat.shiftLeft_eq]
  omega

theorem toNat_nextPacket {a : DWord} (hlt : a.toNat + 64 < 2 ^ 64) :
    (nextPacket a).toNat = if a.toNat % 8 = 4 then a.toNat / 64 * 64 + 64 else a.toNat + 1 := by
  have hline := toNat_line a
  rw [nextPacket_eq]
  by_cases hlast : a.toNat % 8 = 4
  · rw [if_pos hlast, if_pos hlast, BitVec.toNat_add, hline]
    show (a.toNat / 64 * 64 + 64) % 2 ^ 64 = _
    omega
  · rw [if_neg hlast, if_neg hlast, BitVec.toNat_add]
    show (a.toNat + 1) % 2 ^ 64 = _
    omega

theorem packetNo_nextPacket {a : DWord} (ha : CodeAddress a) (hlt : a.toNat + 64 < 2 ^ 64) :
    CodeAddress (nextPacket a) ∧ packetNo (nextPacket a) = packetNo a + 1 := by
  have haddr := toNat_nextPacket hlt
  obtain ⟨hslot, hindex⟩ := (codeAddress_iff a).1 ha
  rw [codeAddress_iff, packetNo, packetNo, haddr]
  by_cases hlast : a.toNat % 8 = 4
  · rw [if_pos hlast]
    omega
  · rw [if_neg hlast]
    omega

/-- The request of a software trap. -/
def softRequest (x : Party) (cause : BitVec 6) (v : Word) : TrapReq :=
  ⟨cause, false, x.nextHere (nextPacket x.pos.pkt), x.pos.m0 &&& ~~~ x.pos.moved, x.m0, [], v.setWidth 64, none⟩

theorem epc_softRequest (x : Party) (cause : BitVec 6) (v : Word) : (softRequest x cause v).epc =
    if x.pos.after < 3 then x.pos.pkt ||| BitVec.ofNat 64 (16 * x.pos.after) else nextPacket x.pos.pkt := by
  show x.nextHere (nextPacket x.pos.pkt) = _
  unfold Party.nextHere
  by_cases hlast : x.pos.after < 3
  · rw [if_neg (by omega), if_pos hlast, Nat.mod_eq_of_lt (by omega), Nat.mul_comm]
  · rw [if_pos (by omega), if_neg hlast]

theorem softTraps {s : State} {p : Nat} {x : Party} (hi : Issuing s p x) {i : Instr} {c : BitVec 6} {v : Word}
    (h : (∃ m b, i = .trap m b ∧ c = 0x09 ∧ v = ((x.srcZ b).setWidth 32 : Word)) ∨ (∃ m b, i = .brk m b ∧ c = 0x0A ∧ v = b.signExtend 32)) :
    exec i s = .next (s.raise p (softRequest x c v)) := by
  obtain ⟨m, b, rfl, rfl, rfl⟩ | ⟨m, b, rfl, rfl, rfl⟩ := h
  · rw [exec_trap]
    exact issue_next hi.1 hi.2 _
  · rw [exec_brk]
    exact issue_next hi.1 hi.2 _

/-! ### Entry (R271 to R275) -/

theorem takeTrap_waits {s : State} {p : Nat} {x : Party} (hp : s.party? p = some x) (hbusy : x.busyFlags = true ∨ x.waitReqs ≠ 0) (r : TrapReq) :
    s.takeTrap p r = s.setParty p { x with pend := some r, ctl := .await, latch := none } := by
  rw [State.takeTrap, hp]
  exact if_pos (by simpa using hbusy)

theorem takeTrap_enters {s : State} {p : Nat} {x : Party} (hp : s.party? p = some x) (hbusy : x.busyFlags = false) (hreqs : x.waitReqs = 0)
    (htvec : (s.lod x.fe).tvec ≠ 0) (hlevel : x.shadow.length < 2) (r : TrapReq) :
    s.takeTrap p r = s.setParty p { x.enter (s.lod x.fe).tvec r with parkedAt := s.now } := by
  rw [State.takeTrap, hp]
  dsimp only
  rw [if_neg (by simp [hbusy, hreqs]), if_neg]
  simpa [hlevel] using htvec

/-- The state in which a party has halted with no handler to enter. -/
def haltedAt (s : State) (p : Nat) (x : Party) : State :=
  let s := (s.setParty p (s.stopCyc x.halt)).notify 0x3B
  if s.cur == some p then { s with cur := none } else s

theorem takeTrap_halts {s : State} {p : Nat} {x : Party} (hp : s.party? p = some x) (hbusy : x.busyFlags = false) (hreqs : x.waitReqs = 0)
    (hnone : (s.lod x.fe).tvec = 0 ∨ 2 ≤ x.shadow.length) (r : TrapReq) : s.takeTrap p r = haltedAt s p x := by
  rw [State.takeTrap, hp]
  dsimp only
  rw [if_neg (by simp [hbusy, hreqs]), if_pos]
  · rfl
  · simpa using hnone

theorem haltedAt_spec (s : State) (p : Nat) (x : Party) : (haltedAt s p x).party? p = some (s.stopCyc x.halt) ∧ (haltedAt s p x).mem = s.mem ∧
    (haltedAt s p x).pkg.notices = s.pkg.notices ++ [0x3B] := by
  have hnotify : ((s.setParty p (s.stopCyc x.halt)).notify 0x3B).party? p = some (s.stopCyc x.halt) ∧
      ((s.setParty p (s.stopCyc x.halt)).notify 0x3B).mem = s.mem ∧
      ((s.setParty p (s.stopCyc x.halt)).notify 0x3B).pkg.notices = s.pkg.notices ++ [0x3B] :=
    ⟨party?_setParty_same .., (SameView.notify ..).mem, rfl⟩
  unfold haltedAt
  dsimp only
  split
  · exact hnotify
  · exact hnotify

theorem sget_map {α β : Type} (f : α → β) (d : α) (m : Sparse α) (k : Nat) : sget (f d) (m.map fun e => (e.1, f e.2)) k = f (sget d m k) := by
  induction m with
  | nil => rfl
  | cons e m ih =>
    simp only [List.map_cons, sget]
    split
    · rfl
    · exact ih

theorem bitOf_alive {x : Party} {t : Nat} (ht : t < 64) : bitOf x.alive t = (decide (t < x.width) && !bitOf x.left t) := by
  rw [Party.alive, bitOf_and_not, Party.all, bitOf_lowMask ht]

theorem entered_enter (x : Party) (tvec : DWord) (r : TrapReq) (now : Nat) : Entered x tvec r { x.enter tvec r with parkedAt := now } := by
  refine ⟨⟨x.shadowEntry r.rerun, rfl, rfl, rfl, rfl, rfl, rfl, rfl, rfl, fun t => sget_map List.length [] x.calls t⟩, rfl, rfl, rfl, rfl, rfl, rfl,
    rfl, rfl, rfl, rfl, rfl, rfl, rfl, rfl, rfl, rfl, rfl, rfl, rfl, fun t ht ht' => ?_⟩
  have hpc : Party.pcOf { x.enter tvec r with parkedAt := now } t = if t ∈ threadsOf x.width x.alive then tvec else x.pcOf t := pcOf_setPc ..
  rw [hpc]
  by_cases hleft : bitOf x.left t = true
  · rw [if_pos hleft, if_neg]
    rw [mem_threadsOf, bitOf_alive ht', hleft]
    simp
  · rw [if_neg hleft, if_pos]
    rw [mem_threadsOf, bitOf_alive ht']
    simp [ht, hleft]

theorem raise_takes {s : State} {p : Nat} {x : Party} (hp : s.party? p = some x) (hlatch : x.latch = none) (r : TrapReq) :
    s.raise p r = s.takeTrap p r := by
  rw [State.raise, hp]
  exact if_neg (by simp [hlatch])

theorem trapEntry_takes {s : State} {p : Nat} {x : Party} (hp : s.party? p = some x) {r : TrapReq} (hpend : x.pend = some r) (hlatch : x.latch = none)
    (hbusy : x.busyFlags = false) (hreqs : x.waitReqs = 0) : exec (.trapEntry p) s = .next (s.takeTrap p r).wake := by
  rw [exec_trapEntry, execTrapEntry]
  refine congrArg State.event ?_
  rw [hp]
  dsimp only
  rw [hpend]
  exact if_neg (by simp [hlatch, hbusy, hreqs])

theorem trapEntry_waits {s : State} {p : Nat} {x : Party} (hp : s.party? p = some x) {r : TrapReq} (hpend : x.pend = some r)
    (hbusy : x.busyFlags = true ∨ x.waitReqs ≠ 0) : exec (.trapEntry p) s = .next s.wake := by
  rw [exec_trapEntry, execTrapEntry]
  refine congrArg State.event ?_
  rw [hp]
  dsimp only
  rw [hpend]
  refine if_pos ?_
  obtain hbusy | hreqs := hbusy
  · simp [hbusy]
  · simp [hreqs]

/-! ### The return (R267, R273, R284) -/

/-- What `tret` asks of the trap registers. -/
def GoodReturn (x : Party) : Prop :=
  x.csr.tepc.toNat / 8 % 2 = 0 ∧ x.csr.tepc.toNat / 16 % 4 ≠ 3 ∧ ¬ (x.csr.tcause.toNat % 64 = 0x3F ∧ x.csr.tinfo.toNat % 2 = 1)

theorem getLsbD_eq_decide {w : Nat} (v : BitVec w) (k : Nat) : v.getLsbD k = decide (v.toNat / 2 ^ k % 2 = 1) := by
  rw [BitVec.getLsbD, Nat.testBit_eq_decide_div_mod_eq]

theorem beq_extractLsb' {w : Nat} (v : BitVec w) (i n k : Nat) (hk : k < 2 ^ n) :
    (v.extractLsb' i n == BitVec.ofNat n k) = decide (v.toNat / 2 ^ i % 2 ^ n = k) := by
  rw [Bool.eq_iff_iff, beq_iff_eq, decide_eq_true_eq, ← BitVec.toNat_inj, BitVec.extractLsb'_toNat, BitVec.toNat_ofNat, Nat.mod_eq_of_lt hk,
    Nat.shiftRight_eq_div_pow]

/-- The checks of the return, in the order of the rules. -/
theorem tretCause_eq (x : Party) (e : Shadow) [Decidable (GoodReturn x)] : x.tretCause e =
    if GoodReturn x then
      (if x.divs.length ≠ e.entries then some 0x1A
        else if (threadsOf x.width x.alive).any (fun t => (sget [] x.calls t).length != sget 0 e.callDepth t) then some 0x36 else none)
    else some 0x02 := by
  have hslot : (x.csr.tepc.extractLsb' 4 2 == 3) = decide (x.csr.tepc.toNat / 16 % 4 = 3) := beq_extractLsb' _ 4 2 3 (by decide)
  have hcause : (x.csr.tcause.extractLsb' 0 6 == 0x3F) = decide (x.csr.tcause.toNat % 64 = 0x3F) :=
    (beq_extractLsb' _ 0 6 0x3F (by decide)).trans (by rw [pow_zero, Nat.div_one]; rfl)
  have hbit : x.csr.tepc.getLsbD 3 = decide (x.csr.tepc.toNat / 8 % 2 = 1) := getLsbD_eq_decide ..
  have hinfo : x.csr.tinfo.getLsbD 0 = decide (x.csr.tinfo.toNat % 2 = 1) := (getLsbD_eq_decide ..).trans (by rw [pow_zero, Nat.div_one])
  unfold Party.tretCause
  rw [hslot, hcause, hbit, hinfo]
  by_cases hgood : GoodReturn x
  · rw [if_pos hgood, if_neg, if_neg]
    · simp only [bne_iff_ne]
    · simpa using hgood.2.2
    · have h0 : ¬ x.csr.tepc.toNat / 8 % 2 = 1 := by have := hgood.1; omega
      simpa [h0] using hgood.2.1
  · rw [if_neg hgood]
    by_cases hfirst : x.csr.tepc.toNat / 8 % 2 = 1 ∨ x.csr.tepc.toNat / 16 % 4 = 3
    · exact if_pos (by simpa using hfirst)
    · rw [if_neg (by simpa using hfirst)]
      refine if_pos ?_
      rw [not_or] at hfirst
      by_contra hlast
      exact hgood ⟨by omega, hfirst.2, by simpa using hlast⟩

theorem exec_tret_entry {s : State} {p : Nat} {x : Party} (hi : Issuing s p x) (m : Mods) (hlevel : x.csr.level ≠ 0) {e : Shadow} {es : List Shadow}
    (hshadow : x.shadow = e :: es) : exec (.tret m) s = .next (match x.tretCause e with
      | some c => s.raiseHere p c x.m0 0
      | none => s.setParty p { x.leaveTrap e es with latch := none, parkedAt := s.now }) := by
  rw [exec_tret, execTret, issue_next hi.1 hi.2]
  rw [if_neg (by simpa using hlevel), hshadow] <;> rfl

theorem tret_raises {s : State} {p : Nat} {x : Party} (hi : Issuing s p x) {m : Mods} (hlevel : x.csr.level ≠ 0) {e : Shadow} {es : List Shadow}
    (hshadow : x.shadow = e :: es) {c : BitVec 6} (hcause : x.tretCause e = some c) :
    ∃ t, Raises s p x c (fun u => bitOf x.m0 u = true) 0 t ∧ exec (.tret m) s = .next t := by
  refine ⟨_, raises_raiseHere hi c (fun _ => Iff.rfl) 0, ?_⟩
  rw [exec_tret_entry hi m hlevel hshadow, hcause]

theorem tret_user {s : State} {p : Nat} {x : Party} (hi : Issuing s p x) (m : Mods) (hlevel : x.csr.level = 0) :
    ∃ t, Raises s p x 0x08 (fun u => bitOf x.m0 u = true) 0 t ∧ exec (.tret m) s = .next t := by
  refine ⟨_, raises_raiseHere hi 0x08 (fun _ => Iff.rfl) 0, ?_⟩
  rw [exec_tret, execTret, issue_next hi.1 hi.2]
  rw [if_pos (by simpa using hlevel)]

theorem pos_leaveTrap (x : Party) (e : Shadow) (es : List Shadow) (hm : x.csr.tmprev &&& x.alive ≠ 0) : (x.leaveTrap e es).pos =
    ⟨x.csr.tepc &&& ~~~ (0x38 : DWord), none, (x.csr.tepc.extractLsb' 4 2).toNat, (x.csr.tepc.extractLsb' 4 2).toNat, x.csr.tmprev &&& x.alive, 0, false⟩ :=
  if_neg (by simpa using hm)

/-- Settles O36: software traps, the entry of a trap, and the return from it. -/
theorem traps : Obligations.Traps := by
  refine ⟨⟨fun a ha hlt => packetNo_nextPacket ha hlt, fun s p x hi i c v h => ?_⟩, fun s p x r hp => ?_, fun s p x m hi => ⟨tret_user hi m, ?_⟩⟩
  · exact ⟨softRequest x c v, softTraps hi h, rfl, rfl, rfl, rfl, rfl, rfl, rfl, epc_softRequest ..⟩
  · refine ⟨fun hbusy => takeTrap_waits hp hbusy r, fun hbusy hreqs htvec hlevel => ?_, fun hbusy hreqs hnone => ?_, fun hlatch => raise_takes hp hlatch r,
      fun hpend hlatch hbusy hreqs => trapEntry_takes hp hpend hlatch hbusy hreqs, fun hpend hbusy => trapEntry_waits hp hpend hbusy⟩
    · exact ⟨_, takeTrap_enters hp hbusy hreqs htvec hlevel r, entered_enter ..⟩
    · rw [takeTrap_halts hp hbusy hreqs hnone r]
      obtain ⟨hparty, hmem, hnotices⟩ := haltedAt_spec s p x
      exact ⟨_, hparty, rfl, rfl, hmem, hnotices⟩
  · intro e es hlevel hshadow
    classical
    have hcause := tretCause_eq x e
    have hdepth : (∀ t ∈ threadsOf x.width x.alive, (sget [] x.calls t).length = sget 0 e.callDepth t) ↔
        (threadsOf x.width x.alive).any (fun t => (sget [] x.calls t).length != sget 0 e.callDepth t) = false := by
      simp [List.any_eq_false]
    intro good m0
    have hgoodIff : good ↔ GoodReturn x := Iff.rfl
    refine ⟨fun hbad => ?_, fun hgood hdivs => ?_, fun hgood hdivs hcalls => ?_, fun hgood hdivs hcalls => ?_⟩
    · exact tret_raises hi hlevel hshadow (hcause.trans (if_neg hbad))
    · exact tret_raises hi hlevel hshadow (hcause.trans ((if_pos hgood).trans (if_pos hdivs)))
    · refine tret_raises hi hlevel hshadow (hcause.trans ((if_pos hgood).trans ((if_neg (not_not.2 hdivs)).trans (if_pos ?_))))
      obtain ⟨t, ht, hne⟩ := hcalls
      exact List.any_eq_true.2 ⟨t, ht, by simpa using hne⟩
    · have hnone := hcause.trans ((if_pos hgood).trans ((if_neg (not_not.2 hdivs)).trans (if_neg (by rw [hdepth.1 hcalls]; exact Bool.false_ne_true))))
      refine ⟨{ x.leaveTrap e es with latch := none, parkedAt := s.now }, ?_, rfl, rfl, rfl, rfl, rfl, rfl, rfl, rfl, rfl, fun t => pcOf_setPc .., fun hm => ?_⟩
      · rw [exec_tret_entry hi m hlevel hshadow, hnone]
      · have hpos := pos_leaveTrap x e es hm
        refine ⟨(congrArg IssuePos.pkt hpos).trans rfl, (congrArg IssuePos.slot hpos).trans ?_, (congrArg IssuePos.m0 hpos).trans rfl⟩
        show (x.csr.tepc.extractLsb' 4 2).toNat = _
        rw [BitVec.extractLsb'_toNat, Nat.shiftRight_eq_div_pow]

end Sys2Proof.Proofs
end

section
/-! PROOFS. Control registers, the clock and the window fence (R255 to R265, R268, R269, R277): O37. -/

namespace Sys2Proof.Proofs

open Sys2Proof Sys2Proof.Machine Sys2Proof.Says

/-! ### The rows of the register map (R257) -/

theorem readLevel_eq (a : Csr) : Csr.readLevel a = (csrRow a).rd := by cases a <;> rfl

theorem writeLevel_eq (a : Csr) : Csr.writeLevel a = (csrRow a).wr := by cases a <;> rfl

theorem wide_eq (a : Csr) : Csr.wide a = (csrRow a).wide := by cases a <;> rfl

/-! ### Values into the registers of threads -/

theorem selected_none {x : Party} {m : Mods} (hm : m.pre = none) : x.selected m = x.m0 := by rw [Party.selected, hm]

theorem threads_of_m0_zero {x : Party} (h : x.m0 = 0) : threadsOf x.width x.m0 = [] := by
  rw [List.eq_nil_iff_forall_not_mem]
  intro t ht
  rw [mem_threadsOf, h, (eq_zero_iff_bitOf 0).1 rfl] at ht
  exact Bool.false_ne_true ht.2

/-- A register within Rt, or no thread to write it for. -/
theorem within_cases {x : Party} {m : Mods} (hm : m.pre = none) {n : Fin 96} {l : Nat} (h : Within x m [(.v n, l)]) :
    threadsOf x.width x.m0 = [] ∨ ∀ j < l, x.base + n.val + j < 1024 := by
  obtain h0 | hin := h
  · left
    refine threads_of_m0_zero ((eq_zero_iff_bitOf _).2 fun t => ?_)
    have ht := (eq_zero_iff_bitOf _).1 h0 t
    rw [bitOf_or, selected_none hm, Bool.or_eq_false_iff] at ht
    exact ht.1
  · right
    intro j hj
    have := hin n l (List.mem_singleton_self _) j hj 0 (repsOf_pos m)
    omega

theorem low_extract (v : DWord) : (v.extractLsb' 0 32 : Word) = v.setWidth 32 := by
  apply BitVec.eq_of_toNat_eq
  rw [BitVec.extractLsb'_toNat, BitVec.toNat_setWidth, Nat.shiftRight_zero]

theorem givesWord_setVs (x : Party) {n : Fin 96} (v : Nat → DWord) (h : threadsOf x.width x.m0 = [] ∨ ∀ j < 1, x.base + n.val + j < 1024) :
    GivesWord x (.v n) v (x.setVs (x.base + n.val) ((threadsOf x.width x.m0).map fun t => (t, (v t).setWidth 32))) := by
  refine ⟨setVs_eq .., fun t r hr => ?_⟩
  obtain hnone | hlt := h
  · rw [hnone, List.map_nil, if_neg fun h => List.not_mem_nil h.1]
    rfl
  · rw [vNow_setVs_map _ _ _ _ (show x.base + n.val < 1024 from hlt 0 Nat.one_pos) hr]
    simp only [and_comm, low_extract]

theorem givesWide_setVs (x : Party) {n : Fin 96} (v : Nat → DWord) (h : threadsOf x.width x.m0 = [] ∨ ∀ j < 2, x.base + n.val + j < 1024) :
    GivesWide x (.v n) v ((x.setVs (x.base + n.val) ((threadsOf x.width x.m0).map fun t => (t, (v t).setWidth 32))).setVs (x.base + n.val + 1)
      ((threadsOf x.width x.m0).map fun t => (t, (v t).extractLsb' 32 32))) := by
  refine ⟨?_, fun t r hr => ?_⟩
  · rw [setVs_eq, setVs_eq]
  · obtain hnone | hlt := h
    · rw [hnone, List.map_nil, if_neg fun h => List.not_mem_nil h.1, if_neg fun h => List.not_mem_nil h.1]
      rfl
    · rw [vNow_setVs_map _ _ _ _ (hlt 1 (by decide)) hr, vNow_setVs_map _ _ _ _ (show x.base + n.val < 1024 from hlt 0 (by decide)) hr]
      by_cases ht : t ∈ threadsOf x.width x.m0
      · simp only [ht, true_and, and_true, low_extract]
        by_cases h0 : r = x.base + n.val
        · rw [if_neg (by omega), if_pos h0, if_pos h0]
        · rw [if_neg h0, if_neg h0]
      · simp only [ht, and_false, false_and, if_false]

/-! ### Reads (R258, R259) -/

theorem csrRd_low {s : State} {p : Nat} {x : Party} (hi : Issuing s p x) (m : Mods) (d : Reg) {a : Csr} (hlow : x.csr.level.toNat < (csrRow a).rd) :
    ∃ t, Raises s p x 0x08 (fun u => bitOf x.m0 u = true) 0 t ∧ exec (.csrRd m d a) s = .next t := by
  refine ⟨_, raises_raiseHere hi 0x08 (fun _ => Iff.rfl) 0, ?_⟩
  rw [exec_csrRd, execCsrRd, issue_next hi.1 hi.2]
  rw [if_pos (by rw [readLevel_eq]; exact hlow)]

theorem csrRd_gives {s : State} {p : Nat} {x : Party} (hi : Issuing s p x) {m : Mods} {d : Reg} {a : Csr} (hread : (csrRow a).rd ≤ x.csr.level.toNat)
    (hm : m.pre = none) (hin : Within x m [(d, if (csrRow a).wide then 2 else 1)]) : ∃ z,
      (if (csrRow a).wide then GivesWide x d (fun t => s.csrRead x x.ctlRegs t a) z else GivesWord x d (fun t => s.csrRead x x.ctlRegs t a) z) ∧
      exec (.csrRd m d a) s = .next (s.setParty p z) := by
  rw [exec_csrRd, execCsrRd, issue_next hi.1 hi.2]
  rw [if_neg (by rw [readLevel_eq]; omega)]
  cases d with
  | s n =>
    refine ⟨x.setU n.val (s.csrRead x x.ctlRegs 0 a), ?_, rfl⟩
    split
    · exact uniStep_setU ..
    · exact uniStep_setU ..
  | v n =>
    dsimp only
    rw [wide_eq, alloc_within hin (by simp; split <;> decide)]
    by_cases hw : (csrRow a).wide = true
    · rw [if_pos hw] at hin
      rw [if_pos hw]
      refine ⟨_, ?_, rfl⟩
      rw [if_pos hw]
      exact givesWide_setVs x _ (within_cases hm hin)
    · rw [if_neg hw] at hin
      rw [if_neg hw]
      refine ⟨_, ?_, rfl⟩
      rw [if_neg hw]
      exact givesWord_setVs x _ (within_cases hm hin)

/-! ### Writes (R258 to R265, R277) -/

/-- `u` is `s` after register `a` has taken `v`, the party then being `y`: every other register of the map stands. -/
structure CsrWritten (s : State) (p : Nat) (x : Party) (v : DWord) (a : Csr) (u : State) (y : Party) : Prop where
  party : u.party? p = some y
  frame : y = { x with csr := y.csr, gen := y.gen }
  gen : a ≠ .fpctl → y.gen = x.gen
  value : u.csrRead y y.csr 0 a &&& (csrRow a).bits = v &&& (csrRow a).bits
  others : ∀ b t, b ≠ a → u.csrRead y y.csr t b = s.csrRead x x.csr t b
  mem : u.mem = s.mem

/-- A word kept under a mask is the value under the mask. -/
theorem kept_word (v : DWord) (k : Word) : ((v.setWidth 32 &&& k).setWidth 64 : DWord) = v &&& k.setWidth 64 := by
  refine BitVec.eq_of_getLsbD_eq fun i hi => ?_
  simp only [BitVec.getLsbD_setWidth, BitVec.getLsbD_and, hi, decide_true, Bool.true_and]
  by_cases h32 : i < 32
  · rw [decide_eq_true h32, Bool.true_and]
  · rw [BitVec.getLsbD_of_ge k i (by omega), Bool.and_false, Bool.and_false]

theorem kept_twice (v : DWord) (k : DWord) : v &&& k &&& k = v &&& k := by rw [BitVec.and_assoc, BitVec.and_self]

/-- The registers that a party keeps as they stand. -/
theorem csrWritten_party {s : State} {p : Nat} {x : Party} {v : DWord} {a : Csr} (c : PartyCsr) (g : Word)
    (hgen : a ≠ .fpctl → g = x.gen) (hvalue : s.csrRead x c 0 a &&& (csrRow a).bits = v &&& (csrRow a).bits)
    (hothers : ∀ b t, b ≠ a → s.csrRead x c t b = s.csrRead x x.csr t b) :
    CsrWritten s p x v a (s.setParty p { x with csr := c, gen := g }) { x with csr := c, gen := g } := by
  have hread : ∀ b t, (s.setParty p { x with csr := c, gen := g }).csrRead { x with csr := c, gen := g } c t b = s.csrRead x c t b :=
    fun b t => by cases b <;> rfl
  exact ⟨party?_setParty_same .., rfl, hgen, (congrArg (· &&& (csrRow a).bits) (hread a 0)).trans hvalue,
    fun b t hb => (hread b t).trans (hothers b t hb), rfl⟩

/-- The two registers of the lodging (R265, R314). -/
theorem csrWritten_lod {s : State} {p : Nat} {x : Party} (hp : s.party? p = some x) {v : DWord} {a : Csr} (f : Lodging → Lodging)
    (hvalue : ((s.onLod x.fe f).csrRead x x.csr 0 a) &&& (csrRow a).bits = v &&& (csrRow a).bits)
    (hothers : ∀ b t, b ≠ a → (s.onLod x.fe f).csrRead x x.csr t b = s.csrRead x x.csr t b) :
    CsrWritten s p x v a (s.onLod x.fe f) x :=
  ⟨hp, rfl, fun _ => rfl, hvalue, hothers, rfl⟩

/-- The fields of `pinfo`, each within its bits (R264). -/
theorem pinfo_parts (x : Party) (c : PartyCsr) : ∃ w k l q, (x.pinfo c).toNat =
      w + x.rt / 16 % 128 * 2 ^ 2 + x.rslot % 8 * 2 ^ 9 + c.level.toNat * 2 ^ 12 + c.prior.toNat * 2 ^ 14 + k * 2 ^ 16 + l * 2 ^ 17 + q * 2 ^ 18 +
        x.fe % 32 * 2 ^ 22 ∧
    w = (if x.width = 16 then 0 else if x.width = 32 then 1 else 2) ∧ w ≤ 2 ∧ (k = 1 ∧ c.single = true ∨ k = 0 ∧ c.single = false) ∧
    (l = 1 ∧ x.plan = true ∨ l = 0 ∧ x.plan = false) ∧ q < 16 := by
  have hlevel := c.level.isLt
  have hprior := c.prior.isLt
  have hw : (if x.width = 16 then 0 else if x.width = 32 then 1 else 2) ≤ 2 := by split_ifs <;> decide
  have hk : (if c.single then 1 else 0) = 1 ∧ c.single = true ∨ (if c.single then 1 else 0) = 0 ∧ c.single = false := by cases c.single <;> simp
  have hl : (if x.plan then 1 else 0) = 1 ∧ x.plan = true ∨ (if x.plan then 1 else 0) = 0 ∧ x.plan = false := by cases x.plan <;> simp
  have hq : (if x.plan then 0 else x.prio % 16) < 16 := by split_ifs <;> omega
  have hsingle : (if c.single then 2 ^ 16 else 0) = (if c.single then 1 else 0) * 2 ^ 16 := by cases c.single <;> rfl
  have hplan : (if x.plan then 2 ^ 17 else 0) = (if x.plan then 1 else 0) * 2 ^ 17 := by cases x.plan <;> rfl
  refine ⟨_, _, _, _, ?_, rfl, hw, hk, hl, hq⟩
  rw [Party.pinfo, BitVec.toNat_ofNat, hsingle, hplan]
  generalize (if x.width = 16 then 0 else if x.width = 32 then 1 else 2) = w at hw
  generalize (if c.single then 1 else 0) = k at hk
  generalize (if x.plan then 1 else 0) = l at hl
  generalize (if x.plan then 0 else x.prio % 16) = q at hq
  exact Nat.mod_eq_of_lt (by omega)

theorem pinfo_fields {x : Party} (c : PartyCsr) (hw : x.width = 16 ∨ x.width = 32 ∨ x.width = 64) : let v := (x.pinfo c).toNat
    16 * 2 ^ (v % 4) = x.width ∧ v / 4 % 128 = x.rt / 16 % 128 ∧ v / 2 ^ 9 % 8 = x.rslot % 8 ∧ v / 2 ^ 12 % 4 = c.level.toNat ∧
    v / 2 ^ 14 % 4 = c.prior.toNat ∧ (v / 2 ^ 16 % 2 = 1 ↔ c.single = true) ∧ (v / 2 ^ 17 % 2 = 1 ↔ x.plan = true) ∧
    v / 2 ^ 22 = x.fe % 32 := by
  obtain ⟨w, k, l, q, hv, hcode, hwle, hk, hl, hq⟩ := pinfo_parts x c
  have hlevel := c.level.isLt
  have hprior := c.prior.isLt
  intro v
  have hv' : v = _ := hv
  clear_value v
  clear hv
  have hlow : v % 4 = w := by omega
  refine ⟨?_, by omega, by omega, by omega, by omega, ?_, ?_, by omega⟩
  · rw [hlow, hcode]
    obtain h | h | h := hw <;> simp [h]
  · have hbit : v / 2 ^ 16 % 2 = k := by omega
    rw [hbit]
    obtain ⟨rfl, h⟩ | ⟨rfl, h⟩ := hk <;> simp [h]
  · have hbit : v / 2 ^ 17 % 2 = l := by omega
    rw [hbit]
    obtain ⟨rfl, h⟩ | ⟨rfl, h⟩ := hl <;> simp [h]

theorem getLsbD_single (i : Nat) : (0x10000 : DWord).getLsbD i = decide (i = 16) := by
  show (2 ^ 16).testBit i = _
  rw [Nat.testBit_two_pow]
  simp [eq_comm]

/-- The single-step bit of `pinfo`. -/
theorem pinfo_single (x : Party) (c : PartyCsr) : x.pinfo c &&& 0x10000 = if c.single then 0x10000 else 0 := by
  have hbit : (x.pinfo c).getLsbD 16 = c.single := by
    obtain ⟨w, k, l, q, hv, -, hwle, hk, hl, hq⟩ := pinfo_parts x c
    have hlevel := c.level.isLt
    have hprior := c.prior.isLt
    have hbit : (x.pinfo c).toNat / 2 ^ 16 % 2 = k := by omega
    rw [getLsbD_eq_decide, hbit]
    obtain ⟨rfl, h⟩ | ⟨rfl, h⟩ := hk <;> rw [h] <;> rfl
  refine BitVec.eq_of_getLsbD_eq fun i hi => ?_
  rw [BitVec.getLsbD_and, getLsbD_single]
  by_cases h16 : i = 16
  · subst h16
    rw [hbit]
    cases c.single <;> rfl
  · rw [decide_eq_false h16, Bool.and_false]
    cases c.single
    · exact (BitVec.getLsbD_zero ..).symm
    · exact ((getLsbD_single i).trans (decide_eq_false h16)).symm

theorem toNat_kept (v : DWord) (k : Word) : (v &&& k.setWidth 64).toNat = (v.setWidth 32 &&& k).toNat := by
  rw [← kept_word, BitVec.toNat_setWidth, Nat.mod_eq_of_lt]
  exact lt_trans (v.setWidth 32 &&& k).isLt (by decide)

/-- The rounding mode and generator fields of `fpctl` that a write may give it (R261). -/
theorem fpctl_refuses (v : DWord) : (let w : Word := v.setWidth 32 &&& 0xFFFF71FF
    (w.extractLsb' 0 3 == 0 || w.extractLsb' 0 3 == 7 || decide (2 < (w.extractLsb' 12 3).toNat)) = true) ↔
      ¬ (csrRow .fpctl).legal (v &&& (csrRow .fpctl).bits) := by
  have hkept : (v &&& (csrRow .fpctl).bits).toNat = _ := toNat_kept v 0xFFFF71FF
  show _ ↔ ¬ (1 ≤ (v &&& (csrRow .fpctl).bits).toNat % 8 ∧ (v &&& (csrRow .fpctl).bits).toNat % 8 ≤ 6 ∧
    (v &&& (csrRow .fpctl).bits).toNat / 2 ^ 12 % 8 ≤ 2)
  rw [hkept]
  generalize (v.setWidth 32 &&& 0xFFFF71FF : Word) = w
  have h0 : (w.extractLsb' 0 3 == 0) = decide (w.toNat % 8 = 0) := (beq_extractLsb' w 0 3 0 (by decide)).trans (by rw [pow_zero, Nat.div_one]; rfl)
  have h7 : (w.extractLsb' 0 3 == 7) = decide (w.toNat % 8 = 7) := (beq_extractLsb' w 0 3 7 (by decide)).trans (by rw [pow_zero, Nat.div_one]; rfl)
  dsimp only
  rw [h0, h7, BitVec.extractLsb'_toNat, Nat.shiftRight_eq_div_pow]
  simp only [Bool.or_eq_true, decide_eq_true_eq]
  omega

theorem mxctl_refuses (v : DWord) : (v.extractLsb' 0 2 == 3) = true ↔ ¬ (csrRow .mxctl).legal (v &&& (csrRow .mxctl).bits) := by
  have h3 : (v.extractLsb' 0 2 == 3) = decide (v.toNat % 4 = 3) := (beq_extractLsb' v 0 2 3 (by decide)).trans (by rw [pow_zero, Nat.div_one]; rfl)
  have hkept : (v &&& (csrRow .mxctl).bits).toNat = v.toNat % 4096 := by
    rw [BitVec.toNat_and]
    exact Nat.and_two_pow_sub_one_eq_mod v.toNat 12
  show _ ↔ ¬ (v &&& (csrRow .mxctl).bits).toNat % 4 ≠ 3
  rw [h3, hkept, decide_eq_true_eq]
  omega

theorem tvec_bits (v : DWord) : v &&& (csrRow .tvec).bits = v := BitVec.and_allOnes

theorem tvec_refuses (v : DWord) : (v.extractLsb' 3 3 != 0 || decide (4 < (v.extractLsb' 0 3).toNat)) = true ↔
    ¬ (csrRow .tvec).legal (v &&& (csrRow .tvec).bits) := by
  rw [tvec_bits]
  show _ ↔ ¬ CodeAddress v
  rw [CodeAddress, Bool.or_eq_true, bne_iff_ne, decide_eq_true_eq, Classical.not_and_iff_not_or_not, Nat.not_le]

/-- A value that the register's table forbids is refused. -/
theorem csrWrite_none {a : Csr} (s : State) (p : Nat) (x : Party) {v : DWord} (hw : (csrRow a).wr ≠ none) (hbad : ¬ (csrRow a).legal (v &&& (csrRow a).bits)) :
    s.csrWrite p x v a = none := by
  cases a with
  | fpctl => exact if_pos ((fpctl_refuses v).2 hbad)
  | mxctl => exact if_pos ((mxctl_refuses v).2 hbad)
  | tvec => exact if_pos ((tvec_refuses v).2 hbad)
  | taddr => exact absurd rfl hw
  | cyc => exact absurd rfl hw
  | _ => exact absurd trivial hbad

theorem kept_same (v : DWord) (k : Word) : ((v.setWidth 32 &&& k).setWidth 64 : DWord) &&& k.setWidth 64 = v &&& k.setWidth 64 := by
  rw [kept_word, kept_twice]

theorem kept_all (v : DWord) : ((v.setWidth 32 : Word).setWidth 64 : DWord) &&& 0xFFFFFFFF = v &&& 0xFFFFFFFF := by
  have h := kept_same v 0xFFFFFFFF
  rwa [show (v.setWidth 32 : Word) &&& 0xFFFFFFFF = v.setWidth 32 from BitVec.and_allOnes] at h

theorem single_of_bit (v : DWord) : (if v.getLsbD 16 then 0x10000 else 0) = v &&& (0x10000 : DWord) := by
  refine BitVec.eq_of_getLsbD_eq fun i hi => ?_
  rw [BitVec.getLsbD_and, getLsbD_single]
  by_cases h16 : i = 16
  · subst h16
    cases v.getLsbD 16 <;> rfl
  · rw [decide_eq_false h16, Bool.and_false]
    cases v.getLsbD 16
    · exact BitVec.getLsbD_zero ..
    · exact (getLsbD_single i).trans (decide_eq_false h16)

/-- A write of a register that takes its value. -/
theorem csrWrite_some {a : Csr} {s : State} {p : Nat} {x : Party} (hp : s.party? p = some x) {v : DWord} (hw : (csrRow a).wr ≠ none)
    (hlegal : (csrRow a).legal (v &&& (csrRow a).bits)) : ∃ u y, s.csrWrite p x v a = some u ∧ CsrWritten s p x v a u y := by
  cases a with
  | fpctl =>
    refine ⟨_, _, if_neg fun h => (fpctl_refuses v).1 h hlegal, csrWritten_party _ _ (fun h => absurd rfl h) (kept_same v 0xFFFF71FF) fun b t hb => ?_⟩
    cases b <;> simp_all [State.csrRead, Party.pinfo]
  | fpsum =>
    refine ⟨_, _, rfl, csrWritten_party _ _ (fun _ => rfl) (kept_same v 0x1F) fun b t hb => ?_⟩
    cases b <;> simp_all [State.csrRead, Party.pinfo]
  | envtol =>
    refine ⟨_, _, rfl, csrWritten_party _ _ (fun _ => rfl) (kept_all v) fun b t hb => ?_⟩
    cases b <;> simp_all [State.csrRead, Party.pinfo]
  | envctl =>
    refine ⟨_, _, rfl, csrWritten_party _ _ (fun _ => rfl) (kept_same v 1) fun b t hb => ?_⟩
    cases b <;> simp_all [State.csrRead, Party.pinfo]
  | mxctl =>
    refine ⟨_, _, if_neg fun h => (mxctl_refuses v).1 h hlegal, csrWritten_party _ _ (fun _ => rfl) (kept_same v 0xFFF) fun b t hb => ?_⟩
    cases b <;> simp_all [State.csrRead, Party.pinfo]
  | scopepol =>
    refine ⟨_, _, rfl, csrWritten_lod hp _ ?_ fun b t hb => ?_⟩
    · show ((s.onLod x.fe _).lod x.fe).scopepol.setWidth 64 &&& _ = _
      rw [lod_onLod, if_pos rfl]
      exact kept_same v 0x103
    · cases b <;> simp_all [State.csrRead, State.cyc, State.cycle]
  | tvec =>
    refine ⟨_, _, if_neg fun h => (tvec_refuses v).1 h hlegal, csrWritten_lod hp _ ?_ fun b t hb => ?_⟩
    · show ((s.onLod x.fe _).lod x.fe).tvec &&& _ = _
      rw [lod_onLod, if_pos rfl]
    · cases b <;> simp_all [State.csrRead, State.cyc, State.cycle]
  | tcause =>
    refine ⟨_, _, rfl, csrWritten_party _ _ (fun _ => rfl) (kept_same v 0x13F) fun b t hb => ?_⟩
    cases b <;> simp_all [State.csrRead, Party.pinfo]
  | tepc =>
    refine ⟨_, _, rfl, csrWritten_party _ _ (fun _ => rfl) rfl fun b t hb => ?_⟩
    cases b <;> simp_all [State.csrRead, Party.pinfo]
  | tmprev =>
    refine ⟨_, _, rfl, csrWritten_party _ _ (fun _ => rfl) rfl fun b t hb => ?_⟩
    cases b <;> simp_all [State.csrRead, Party.pinfo]
  | tmfault =>
    refine ⟨_, _, rfl, csrWritten_party _ _ (fun _ => rfl) rfl fun b t hb => ?_⟩
    cases b <;> simp_all [State.csrRead, Party.pinfo]
  | tinfo =>
    refine ⟨_, _, rfl, csrWritten_party _ _ (fun _ => rfl) rfl fun b t hb => ?_⟩
    cases b <;> simp_all [State.csrRead, Party.pinfo]
  | pinfo =>
    refine ⟨_, _, rfl, csrWritten_party { x.csr with single := v.getLsbD 16 } x.gen (fun _ => rfl) ?_ fun b t hb => ?_⟩
    · exact (pinfo_single x _).trans (single_of_bit v)
    · cases b <;> simp_all [State.csrRead]
  | injaddr =>
    refine ⟨_, x, rfl, hp, rfl, fun _ => rfl, kept_twice v _, fun b t hb => ?_, rfl⟩
    cases b <;> simp_all [State.csrRead, State.cyc, State.cycle, State.lod]
  | injarm =>
    refine ⟨_, x, rfl, hp, rfl, fun _ => rfl, kept_same v 3, fun b t hb => ?_, rfl⟩
    cases b <;> simp_all [State.csrRead, State.cyc, State.cycle, State.lod]
  | taddr => exact absurd rfl hw
  | cyc => exact absurd rfl hw

theorem mayWrite_iff (a : Csr) (level : BitVec 2) : (match Csr.writeLevel a with | some l => decide (l ≤ level.toNat) | none => false) = true ↔
    MayWrite a level.toNat := by
  rw [MayWrite, ← writeLevel_eq]
  cases Csr.writeLevel a with
  | none => simp
  | some l => simp

theorem csrRead_setU (s : State) (x : Party) (n : Nat) (v : DWord) (c : PartyCsr) (t : Nat) (b : Csr) :
    s.csrRead (x.setU n v) c t b = s.csrRead x c t b := by
  have hx := (uniStep_setU x n v).2
  rw [hx]
  cases b <;> rfl

/-- The words that write a register, as the change they make. -/
theorem exec_csrChange {i : Instr} {a : Csr} {d : Option (Fin 31)} {f : Party → DWord → DWord} (h : CsrChange i a d f) (s : State) :
    exec i s = s.csrChange a (d.map Reg.s) f := by
  cases h with
  | _ => rfl

section Change

variable {s : State} {p : Nat} {x : Party} (hi : Issuing s p x) (a : Csr) (d : Option (Fin 31)) (f : Party → DWord → DWord)
include hi

theorem csrChange_level (hlow : ¬ MayWrite a x.csr.level.toNat) : s.csrChange a (d.map Reg.s) f = .next (s.raiseHere p 0x08 x.m0 0) := by
  have hno := Bool.eq_false_iff.2 fun h => hlow ((mayWrite_iff a _).1 h)
  rw [State.csrChange, issue_next hi.1 hi.2]
  exact congrArg Host.Outcome.next (if_pos (Bool.not_eq_true' _ ▸ hno))

/-- What a word at a level that may write the register does. -/
theorem csrChange_allowed (hmay : MayWrite a x.csr.level.toNat) : s.csrChange a (d.map Reg.s) f =
    .next (match s.csrWrite p x (f x (s.csrRead x x.csr 0 a)) a with
      | none => s.raiseHere p 0x02 x.m0 0
      | some u => match d with
        | some n => u.onParty p fun y => y.setU n.val (s.csrRead x x.csr 0 a)
        | none => u) := by
  have hyes := (mayWrite_iff a _).2 hmay
  rw [State.csrChange, issue_next hi.1 hi.2]
  refine congrArg Host.Outcome.next ((if_neg fun h => Bool.false_ne_true ((Bool.not_eq_true' _ ▸ h : _ = false).symm.trans hyes)).trans ?_)
  dsimp only
  cases s.csrWrite p x (f x (s.csrRead x x.csr 0 a)) a with
  | none => cases d <;> rfl
  | some u => cases d <;> rfl

theorem csrChange_forbidden (hmay : MayWrite a x.csr.level.toNat)
    (hbad : ¬ (csrRow a).legal (f x (s.csrRead x x.csr 0 a) &&& (csrRow a).bits)) :
    s.csrChange a (d.map Reg.s) f = .next (s.raiseHere p 0x02 x.m0 0) := by
  obtain ⟨l, hl, -⟩ := id hmay
  rw [csrChange_allowed hi a d f hmay, csrWrite_none s p x (by rw [hl]; exact Option.some_ne_none l) hbad]

theorem csrChange_writes (hmay : MayWrite a x.csr.level.toNat) (hlegal : (csrRow a).legal (f x (s.csrRead x x.csr 0 a) &&& (csrRow a).bits)) :
    ∃ t y, s.csrChange a (d.map Reg.s) f = .next t ∧ t.party? p = some y ∧
      t.csrRead y y.csr 0 a &&& (csrRow a).bits = f x (s.csrRead x x.csr 0 a) &&& (csrRow a).bits ∧
      (∀ b u, b ≠ a → t.csrRead y y.csr u b = s.csrRead x x.csr u b) ∧ t.mem = s.mem ∧
      (∀ k, y.uNow k = if d.map Fin.val = some k ∧ k ≠ 0 then s.csrRead x x.csr 0 a else x.uNow k) ∧ y.regs.v = x.regs.v ∧ y.regs.m = x.regs.m ∧
      y = { x with csr := y.csr, gen := y.gen, regs := y.regs } ∧ (a ≠ .fpctl → y.gen = x.gen) := by
  obtain ⟨l, hl, -⟩ := id hmay
  obtain ⟨u, y, hu, hwritten⟩ := csrWrite_some hi.2 (by rw [hl]; exact Option.some_ne_none l) hlegal
  obtain ⟨hparty, hframe, hgen, hvalue, hothers, hmem⟩ := hwritten
  have hregs : y.regs = x.regs := by rw [hframe]
  have huni : ∀ k, y.uNow k = x.uNow k := fun k => by rw [hframe]; rfl
  have hallow := csrChange_allowed hi a d f hmay
  rw [hu] at hallow
  cases d with
  | none =>
    refine ⟨u, y, hallow, hparty, hvalue, hothers, hmem, fun k => ?_, by rw [hregs], by rw [hregs], ?_, hgen⟩
    · rw [huni, if_neg (by simp)]
    · rw [hframe]
  | some n =>
    generalize s.csrRead x x.csr 0 a = old at *
    obtain ⟨hset, hrest⟩ := uniStep_setU y n.val old
    have hread : ∀ b t, (u.setParty p (y.setU n.val old)).csrRead (y.setU n.val old) (y.setU n.val old).csr t b = u.csrRead y y.csr t b := fun b t => by
      have hcsr : (y.setU n.val old).csr = y.csr := by rw [hrest]
      rw [hcsr]
      refine Eq.trans ?_ (csrRead_setU u y n.val old y.csr t b)
      cases b <;> rfl
    refine ⟨u.setParty p (y.setU n.val old), y.setU n.val old, hallow.trans (congrArg Host.Outcome.next (onParty_of_some hparty _)), party?_setParty_same .., ?_, ?_, hmem, fun k => ?_, ?_, ?_, ?_, ?_⟩
    · rw [hread]; exact hvalue
    · exact fun b t hb => (hread b t).trans (hothers b t hb)
    · rw [hset, huni]
      by_cases hk : k = n.val ∧ n.val ≠ 0
      · rw [if_pos hk, if_pos ⟨congrArg some hk.1.symm, hk.1 ▸ hk.2⟩]
      · rw [if_neg hk, if_neg fun h => hk ⟨(Option.some.inj h.1).symm, fun h0 => h.2 ((Option.some.inj h.1).symm.trans h0)⟩]
    · rw [hrest, hregs]
    · rw [hrest, hregs]
    · rw [hrest, hframe]
    · rw [hrest]; exact hgen

end Change

/-! ### The clock (R268) -/

theorem clk_gives {s : State} {p : Nat} {x : Party} (hi : Issuing s p x) {m : Mods} {d : Reg} (hm : m.pre = none) (hin : Within x m [(d, 2)]) :
    ∃ z, GivesWide x d (fun _ => BitVec.ofNat 64 (s.now / 2)) z ∧ exec (.clk m d) s = .next (s.setParty p z) := by
  rw [exec_clk, execClk, issue_next hi.1 hi.2]
  cases d with
  | s n => exact ⟨_, uniStep_setU x n.val _, rfl⟩
  | v n =>
    dsimp only
    rw [alloc_within hin (by simp)]
    exact ⟨_, givesWide_setVs x _ (within_cases hm hin), rfl⟩

/-! ### The window fence (R269, R317) -/

theorem winTick_party (s : State) (w p : Nat) : (s.winTick w).party? p = s.party? p := by
  unfold State.winTick
  split
  · rfl
  · split
    · rfl
    · rfl

theorem winTick_mem (s : State) (w : Nat) : (s.winTick w).mem = s.mem := by
  unfold State.winTick
  split
  · rfl
  · split
    · rfl
    · rfl

theorem winTicks_frame (ws : List Nat) (s : State) (p : Nat) :
    (ws.foldl (fun s w => s.winTick w) s).party? p = s.party? p ∧ (ws.foldl (fun s w => s.winTick w) s).mem = s.mem := by
  induction ws generalizing s with
  | nil => exact ⟨rfl, rfl⟩
  | cons w ws ih =>
    obtain ⟨hparty, hmem⟩ := ih (s.winTick w)
    exact ⟨hparty.trans (winTick_party ..), hmem.trans (winTick_mem ..)⟩

theorem winTick_done {s : State} {w c tl : Nat} {win : Window} (hw : s.window? w = some win) (htl : win.tl = some (c, tl)) :
    ((s.winTick w).core c).doneOf tl = ((s.core c).doneOf tl + 1) % 2 ^ 64 := by
  rw [State.winTick, hw]
  dsimp only
  rw [htl]
  dsimp only
  rw [core_onCore, if_pos rfl]
  exact sget_sset_same ..

/-- What is one number, again and again, is it once. -/
theorem dedup_of_all {l : List Nat} {w : Nat} (hne : l ≠ []) (hall : ∀ a ∈ l, a = w) : l.dedup = [w] := by
  rw [List.eq_replicate_of_mem hall]
  exact List.replicate_dedup (fun h => hne (List.length_eq_zero_iff.1 h))

section Fence

variable {s : State} {p : Nat} {x : Party} (hi : Issuing s p x) (hsfu : s.sfuOpen p = false) (hfp : x.csr.level ≠ 0 ∨ x.fpEnabled = 0)
  (hmbx : s.mbxStOpen p (threadsOf x.width x.m0) = false) (m : Mods)
include hi hsfu hfp hmbx

theorem fenceWin_waits (hopen : s.winOpen p (threadsOf x.width x.m0) = true) :
    exec (.fenceWin m) s = .next (s.setParty p { x with ctl := .stall }) := by
  rw [exec_fenceWin, execFenceWin, issue_next hi.1 hi.2]
  dsimp only
  rw [deliverFp_ok hsfu hfp, whenSynced_of_synced ⟨hmbx, fun h => absurd h Bool.false_ne_true⟩, if_pos hopen, State.stall, onParty_of_some hi.2]

/-- The windows that the fenced threads wrote. -/
def fencedWindows (x : Party) : List Nat := ((x.winWrites.filter fun e => (threadsOf x.width x.m0).contains e.1).map (·.2)).dedup

theorem fenceWin_fences (hopen : s.winOpen p (threadsOf x.width x.m0) = false) : exec (.fenceWin m) s =
    .next ((fencedWindows x).foldl (fun s w => s.winTick w) ((s.endSync p (threadsOf x.width x.m0) false).onParty p fun x' =>
      { x' with winWrites := x'.winWrites.filter fun e => !(threadsOf x.width x.m0).contains e.1 })) := by
  rw [exec_fenceWin, execFenceWin, issue_next hi.1 hi.2]
  dsimp only
  rw [deliverFp_ok hsfu hfp, whenSynced_of_synced ⟨hmbx, fun h => absurd h Bool.false_ne_true⟩, if_neg (by rw [hopen]; exact Bool.false_ne_true)]
  rfl

theorem fenceWin_done (hopen : s.winOpen p (threadsOf x.width x.m0) = false) : let ts := threadsOf x.width x.m0
    ∃ s' y t z, RegionsEnd s p x ts s' y ∧ exec (.fenceWin m) s = .next t ∧ t.party? p = some z ∧
      (∀ e, e ∈ z.winWrites ↔ e ∈ x.winWrites ∧ e.1 ∉ ts) ∧ t.mem = s.mem ∧
      (∀ w win c tl, (∀ e ∈ x.winWrites, e.1 ∈ ts → e.2 = w) → (∃ e ∈ x.winWrites, e.1 ∈ ts) → s.window? w = some win → win.tl = some (c, tl) →
        (t.core c).doneOf tl = ((s.core c).doneOf tl + 1) % 2 ^ 64) := by
  intro ts
  obtain ⟨y, hend⟩ := exists_regionsEnd_endSync hi.2 (nodup_threadsOf x.width x.m0) false
  have hy : (s.endSync p ts false).party? p = some y := party?_of_regionsEnd hend
  have hwrites : y.winWrites = x.winWrites := by rw [hend.2.1]
  have hmem : (s.endSync p ts false).mem = s.mem := by rw [hend.2.2.1]
  have hcore : ∀ c, (s.endSync p ts false).core c = s.core c := core_of_regionsEnd hend
  have hexec := fenceWin_fences hi hsfu hfp hmbx m hopen
  rw [onParty_of_some hy] at hexec
  have hframe := winTicks_frame (fencedWindows x) ((s.endSync p ts false).setParty p
    { y with winWrites := y.winWrites.filter fun e => !ts.contains e.1 }) p
  refine ⟨_, y, _, _, hend, hexec, hframe.1.trans (party?_setParty_same ..), fun e => ?_, hframe.2.trans hmem, fun w win c tl hall hex hw htl => ?_⟩
  · show e ∈ y.winWrites.filter (fun e => !ts.contains e.1) ↔ _
    rw [List.mem_filter, hwrites]
    simp
  · have honly : fencedWindows x = [w] := by
      refine dedup_of_all ?_ ?_
      · obtain ⟨e, he, hts⟩ := hex
        exact List.ne_nil_of_mem (List.mem_map_of_mem (List.mem_filter.2 ⟨he, by simpa using hts⟩))
      · intro a ha
        obtain ⟨e, he, rfl⟩ := List.mem_map.1 ha
        obtain ⟨hmem, hts⟩ := List.mem_filter.1 he
        exact hall e hmem (by simpa using hts)
    rw [honly, List.foldl_cons, List.foldl_nil, winTick_done (win := win) (by rw [← hw, State.window?, State.window?]; exact congrArg (fun m : Mem => sget none m.windows w) hmem) htl]
    exact congrArg (fun k : Core => (k.doneOf tl + 1) % 2 ^ 64) (hcore c)

end Fence

/-- Settles O37: the register map, the clock, and the fence of window writes. -/
theorem controlRegisters : Obligations.ControlRegisters := by
  refine ⟨⟨fun s p x m d a hi => ⟨csrRd_low hi m d, csrRd_gives hi⟩, fun i a d f hchange s p x hi => ?_, fun x c hw => pinfo_fields c hw⟩,
    fun s p x m d hi => clk_gives hi, fun s p x m hi hsfu hfp hmbx => ⟨fenceWin_waits hi hsfu hfp hmbx m, fenceWin_done hi hsfu hfp hmbx m⟩⟩
  have hexec := exec_csrChange hchange s
  refine ⟨fun hlow => ⟨_, raises_raiseHere hi 0x08 (fun _ => Iff.rfl) 0, hexec.trans (csrChange_level hi a d f hlow)⟩,
    fun hmay hbad => ⟨_, raises_raiseHere hi 0x02 (fun _ => Iff.rfl) 0, hexec.trans (csrChange_forbidden hi a d f hmay hbad)⟩, fun hmay hlegal => ?_⟩
  obtain ⟨t, y, ht, hrest⟩ := csrChange_writes hi a d f hmay hlegal
  exact ⟨t, y, hexec.trans ht, hrest⟩

end Sys2Proof.Proofs
end

section
/-! PROOFS. The steps of a lane and of its waits (R69, R177, R271, R283, R343, R344): O38. -/

namespace Sys2Proof.Proofs

open Sys2Proof Sys2Proof.Machine Sys2Proof.Says

/-! ### CLAUSE_ENTRY (R69) -/

theorem waitsOn_iff (x : Party) (v : Nat) : x.waitsOn ((BitVec.ofNat 32 v).extractLsb' 0 12) = true ↔
    ∃ k < 12, v / 2 ^ k % 2 = 1 ∧ x.flagSet k = true := by
  have hbit : ∀ k < 12, ((BitVec.ofNat 32 v).extractLsb' 0 12).getLsbD k = decide (v / 2 ^ k % 2 = 1) := fun k hk => by
    rw [BitVec.getLsbD_extractLsb', Nat.zero_add, BitVec.getLsbD_ofNat, decide_eq_true hk, decide_eq_true (by omega : k < 32),
      Nat.testBit_eq_decide_div_mod_eq]
    rfl
  unfold Party.waitsOn
  rw [List.any_eq_true]
  refine exists_congr fun k => ?_
  rw [Bool.and_eq_true, upto, List.mem_range]
  constructor
  · rintro ⟨hk, hset, hflag⟩
    rw [hbit k hk, decide_eq_true_eq] at hset
    exact ⟨hk, hset, hflag⟩
  · rintro ⟨hk, hset, hflag⟩
    refine ⟨hk, ?_, hflag⟩
    rw [hbit k hk, decide_eq_true_eq]
    exact hset

theorem clauseFault_none {k : Core} {p : Nat} (h : ∀ f ∈ k.faults, f.party ≠ p) (mask : BitVec 12) : k.clauseFault p mask = none := by
  have hnil : (k.faults.filter fun f => f.party == p && f.tl == 6 && f.flag < 12 && mask.getLsbD f.flag) = [] := by
    rw [List.filter_eq_nil_iff]
    intro f hf
    simp [h f hf]
  rw [Core.clauseFault, hnil]
  rfl

section Clause

variable {s : State} {p : Nat} {x : Party} (hp : s.party? p = some x) {q : IssuePos} {pa : Nat} (hplace : x.place = some q) (hfree : x.free = true)
  (hat : x.atClause = true) (hfetch : s.fetchLine x q.pkt = (s, .ok pa))
include hp hplace hfree hat hfetch

/-- What CLAUSE_ENTRY does once the clause's line has been fetched, no envelope record being due. -/
theorem exec_clauseEntry_at (hfaults : (s.core (coreOfLane x.lane)).clauseFault p ((BitVec.ofNat 32 (s.loadN pa 4)).extractLsb' 0 12) = none ∨
      x.waitsOn ((BitVec.ofNat 32 (s.loadN pa 4)).extractLsb' 0 12) = true) :
    exec (.clauseEntry p) s = .next (if x.waitsOn ((BitVec.ofNat 32 (s.loadN pa 4)).extractLsb' 0 12) = true then s
      else s.setParty p { x with entered := true }).wake := by
  rw [exec_clauseEntry, execClauseEntry]
  refine congrArg State.event ?_
  rw [hp]
  dsimp only
  rw [hplace]
  dsimp only
  rw [if_neg (by rw [hfree, hat]; decide), hfetch]
  dsimp only
  by_cases hwaits : x.waitsOn ((BitVec.ofNat 32 (s.loadN pa 4)).extractLsb' 0 12) = true
  · rw [if_pos hwaits, if_pos hwaits]
  · rw [if_neg hwaits, if_neg hwaits, hfaults.resolve_right hwaits]

theorem clauseEntry_enters (hflags : ∀ k < 12, s.loadN pa 4 / 2 ^ k % 2 = 1 → x.flagSet k = false)
    (hfaults : ∀ f ∈ (s.core (coreNo x)).faults, f.party ≠ p) :
    exec (.clauseEntry p) s = .next (s.setParty p { x with entered := true }).wake := by
  rw [exec_clauseEntry_at hp hplace hfree hat hfetch (Or.inl (clauseFault_none hfaults _)), if_neg fun h => ?_]
  obtain ⟨k, hk, hset, hflag⟩ := (waitsOn_iff x _).1 h
  exact Bool.false_ne_true ((hflags k hk hset).symm.trans hflag)

theorem clauseEntry_waits (hflag : ∃ k < 12, s.loadN pa 4 / 2 ^ k % 2 = 1 ∧ x.flagSet k = true) : exec (.clauseEntry p) s = .next s.wake := by
  have hwaits := (waitsOn_iff x _).2 hflag
  rw [exec_clauseEntry_at hp hplace hfree hat hfetch (Or.inr hwaits), if_pos hwaits]

end Clause

/-! ### LANE_PICK (R343, R344) -/

/-- A candidate that comes before another: the smaller issue age, then the lower slot. -/
def Before (c d : Cand) : Prop := c.age < d.age ∨ c.age = d.age ∧ c.slot < d.slot

theorem insertCand_first {c : Cand} {l : List Cand} (h : ∀ d ∈ l, d = c ∨ Before c d) : (insertCand c l).head? = some c := by
  cases l with
  | nil => rfl
  | cons d ds =>
    unfold insertCand
    split
    · rfl
    · next hnot =>
      obtain rfl | hbefore := h d List.mem_cons_self
      · rfl
      · exact absurd (by simpa [Before] using hbefore) hnot

theorem insertCand_behind {c d : Cand} {l : List Cand} (h : d = c ∨ Before c d) (hl : l.head? = some c) : (insertCand d l).head? = some c := by
  obtain ⟨cs, rfl⟩ : ∃ cs, l = c :: cs := by
    cases l with
    | nil => cases hl
    | cons e es => exact ⟨es, by rw [Option.some.inj hl]⟩
  unfold insertCand
  split
  · next hlt =>
    simp only [Bool.or_eq_true, decide_eq_true_eq, Bool.and_eq_true, beq_iff_eq] at hlt
    unfold Before at h
    obtain rfl | h := h
    · omega
    · omega
  · rfl

theorem mem_insertCand {c d : Cand} {l : List Cand} : d ∈ insertCand c l ↔ d = c ∨ d ∈ l := by
  induction l with
  | nil => simp [insertCand]
  | cons e es ih =>
    unfold insertCand
    split
    · simp
    · rw [List.mem_cons, ih, List.mem_cons]
      tauto

/-- The candidate before every other one is chosen first. -/
theorem foldl_insertCand_head {α : Type} {f : α → Cand} {c : Cand} (l : List α) (hl : ∀ e ∈ l, f e = c ∨ Before c (f e)) (acc : List Cand)
    (hacc : ∀ d ∈ acc, d = c ∨ Before c d) (hc : (∃ e ∈ l, f e = c) ∨ acc.head? = some c) :
    (l.foldl (fun cs e => insertCand (f e) cs) acc).head? = some c := by
  induction l generalizing acc with
  | nil =>
    obtain ⟨e, he, -⟩ | hc := hc
    · cases he
    · exact hc
  | cons e l ih =>
    obtain ⟨he, hl⟩ := List.forall_mem_cons.1 hl
    refine ih hl _ (fun d hd => ?_) ?_
    · obtain rfl | hd := mem_insertCand.1 hd
      · exact he
      · exact hacc d hd
    · obtain ⟨e', he', hfe⟩ | hc := hc
      · obtain rfl | he' := List.mem_cons.1 he'
        · right
          dsimp only
          rw [hfe]
          exact insertCand_first hacc
        · exact Or.inl ⟨e', he', hfe⟩
      · exact Or.inr (insertCand_behind he hc)

theorem chooseCand_head {l : List Cand} {c : Cand} (hl : l.head? = some c) (hgive : c.give = false) : chooseCand l = ([], some c.p) := by
  match l with
  | [] => cases hl
  | [d] => rw [← Option.some.inj hl]; rfl
  | d :: e :: es =>
    obtain rfl : d = c := Option.some.inj hl
    exact if_neg (by rw [hgive]; exact Bool.false_ne_true)

theorem rouse_resting {s : State} {p : Nat} {x : Party} (hp : s.party? p = some x) (hpark : x.park = .none) : s.rouse p = s := by
  rw [State.rouse, hp]
  dsimp only
  rw [hpark]
  exact ite_self s

theorem onParty_party?_ne (s : State) {p q : Nat} (hne : p ≠ q) (f : Party → Party) : (s.onParty q f).party? p = s.party? p := by
  unfold State.onParty
  split
  · exact (party?_setParty ..).trans (if_neg hne)
  · rfl

/-- Every pick is a turn of each resident party of the lane. -/
def countGaps (s : State) (ps : List Nat) : State := ps.foldl (fun s p => s.onParty p fun x => { x with gap := x.gap - 1 }) s

theorem countGaps_other {ps : List Nat} {p : Nat} (hp : p ∉ ps) (s : State) : (countGaps s ps).party? p = s.party? p := by
  induction ps generalizing s with
  | nil => rfl
  | cons q ps ih =>
    obtain ⟨hne, hps⟩ := not_or.1 (mt List.mem_cons.2 hp)
    exact (ih hps _).trans (onParty_party?_ne _ hne _)

theorem countGaps_mem (ps : List Nat) (s : State) : (countGaps s ps).mem = s.mem := by
  induction ps generalizing s with
  | nil => rfl
  | cons q ps ih => exact (ih _).trans (onParty_mem ..)

theorem countGaps_once {ps : List Nat} (hnodup : ps.Nodup) {p : Nat} (hmem : p ∈ ps) {s : State} {x : Party} (hp : s.party? p = some x) :
    (countGaps s ps).party? p = some { x with gap := x.gap - 1 } := by
  induction ps generalizing s with
  | nil => cases hmem
  | cons q ps ih =>
    obtain ⟨hq, hnodup⟩ := List.nodup_cons.1 hnodup
    by_cases heq : p = q
    · subst heq
      refine (countGaps_other hq _).trans ?_
      exact (congrArg (fun u : State => u.party? p) (onParty_of_some hp _)).trans (party?_setParty_same ..)
    · exact ih hnodup (List.mem_of_ne_of_mem heq hmem) ((onParty_party?_ne _ heq _).trans hp)

section Pick

variable {s : State} {lane p : Nat} {x : Party} (hcur : s.cur = none) (hkeys : (s.parties.map fun e => e.1).Nodup) (hp : s.party? p = some x)
  (hlane : x.lane = lane) (hready : x.ready = true) (hgive : x.giveWay = false)
  (hrest : ∀ e ∈ s.parties, e.2.lane = lane → e.2.life = .resident → e.2.park = .none)
  (hfirst : ∀ e ∈ s.parties, e.2.lane = lane → e.2.ready = true → e.1 ≠ p →
    e.2.giveWay = false ∧ (x.age < e.2.age ∨ x.age = e.2.age ∧ x.rslot < e.2.rslot))

/-- With keys listed once, what a store lists is what it gives. -/
theorem sfind_of_mem_nodup {α : Type} {m : Sparse α} (hm : (m.map fun e => e.1).Nodup) {e : Nat × α} (he : e ∈ m) : sfind m e.1 = some e.2 := by
  induction m with
  | nil => cases he
  | cons d m ih =>
    obtain ⟨hd, hm⟩ := List.nodup_cons.1 hm
    obtain rfl | he := List.mem_cons.1 he
    · exact if_pos rfl
    · refine (if_neg fun h => hd ?_).trans (ih hm he)
      dsimp only
      rw [h]
      exact List.mem_map_of_mem he

theorem mem_of_sfind {α : Type} {m : Sparse α} {k : Nat} {v : α} (h : sfind m k = some v) : (k, v) ∈ m := by
  induction m with
  | nil => cases h
  | cons e m ih =>
    obtain ⟨j, w⟩ := e
    unfold sfind at h
    split at h
    · next hj => rw [hj, Option.some.inj h]; exact List.mem_cons_self
    · exact List.mem_cons_of_mem _ (ih h)

include hkeys hrest in
/-- No party of the lane has a wait to test. -/
theorem rouse_lane : (s.onLane lane).foldl (fun s p => s.rouse p) s = s := by
  have hall : ∀ q ∈ s.onLane lane, s.rouse q = s := fun q hq => by
    obtain ⟨e, he, rfl⟩ := List.mem_map.1 hq
    obtain ⟨hmem, hon⟩ := List.mem_filter.1 he
    simp only [Bool.and_eq_true, beq_iff_eq] at hon
    exact rouse_resting (sfind_of_mem_nodup hkeys hmem) (hrest e hmem hon.2 hon.1)
  generalize s.onLane lane = ps at hall
  induction ps with
  | nil => rfl
  | cons q ps ih =>
    obtain ⟨hq, hall⟩ := List.forall_mem_cons.1 hall
    rw [List.foldl_cons, hq]
    exact ih hall

include hkeys hp hlane hready hgive hfirst in
theorem pickOrder_head : chooseCand (s.pickOrder lane) = ([], some p) := by
  have hcand : (⟨p, x.age, x.rslot, x.giveWay && x.pos.words.isNone⟩ : Cand) = ⟨p, x.age, x.rslot, false⟩ := by rw [hgive, Bool.false_and]
  refine chooseCand_head (c := ⟨p, x.age, x.rslot, false⟩) (foldl_insertCand_head _ (fun e he => ?_) [] (fun d hd => absurd hd List.not_mem_nil) (Or.inl ?_)) rfl
  · obtain ⟨hmem, hon⟩ := List.mem_filter.1 he
    simp only [Bool.and_eq_true, beq_iff_eq] at hon
    by_cases hep : e.1 = p
    · left
      have hx : e.2 = x := Option.some.inj ((sfind_of_mem_nodup hkeys hmem).symm.trans (hep ▸ hp))
      rw [hep, hx]
      exact hcand
    · exact Or.inr (hfirst e hmem hon.1 hon.2 hep).2
  · exact ⟨(p, x), List.mem_filter.2 ⟨mem_of_sfind hp, by simp [hlane, hready]⟩, hcand⟩

include hkeys hp hlane hready in
theorem countGaps_lane : (countGaps s (s.onLane lane)).party? p = some { x with gap := x.gap - 1 } := by
  have hlife : x.life = .resident := by
    rw [Party.ready, Bool.and_assoc, Bool.and_eq_true] at hready
    have hfree := hready.1
    simp only [Party.free, Bool.and_assoc, Bool.and_eq_true, beq_iff_eq] at hfree
    exact hfree.1
  refine countGaps_once ?_ (List.mem_map.2 ⟨(p, x), List.mem_filter.2 ⟨mem_of_sfind hp, by simp [hlane, hlife]⟩, rfl⟩) hp
  exact hkeys.sublist (List.filter_sublist.map _)

include hcur hkeys hp hlane hready hgive hrest hfirst in
theorem exec_lanePick_first : exec (.lanePick lane) s = .next { countGaps s (s.onLane lane) with cur := some p }.wake := by
  rw [exec_lanePick, execLanePick]
  refine congrArg State.event ((if_neg (by rw [hcur]; exact Bool.false_ne_true)).trans ?_)
  dsimp only
  rw [rouse_lane hkeys hrest, pickOrder_head hkeys hp hlane hready hgive hfirst]
  rfl

end Pick

/-! ### Waits that end (R177, R271, R283) -/

theorem napTimeout_ends {s : State} {p : Nat} {x : Party} (hp : s.party? p = some x) {ls : List Nat} {n : Nat} {a : DWord} {m : Mask}
    (hpark : x.park = .nap ls (some n) a m) (hlife : x.life = .resident) (hn : n ≤ (s.now - x.parkedAt) / s.cycle) :
    exec (.napTimeout p) s = .next (s.setParty p { x with park := .none, age := s.now, parkedAt := s.now }).wake := by
  rw [exec_napTimeout, execNapTimeout]
  refine congrArg State.event ?_
  rw [hp]
  dsimp only
  rw [hpark]
  exact if_pos (by rw [hlife, decide_eq_true hn]; rfl)

theorem watchdog_barrier {s : State} {p : Nat} {x : Party} (hp : s.party? p = some x) {inst ph : Nat} (hpark : x.park = .barrier inst ph)
    (hlife : x.life = .resident) (hlate : 2 * (s.lod x.fe).watchdog + x.parkedAt < s.now) :
    exec (.watchdogExpiry p) s = .next ((s.setParty p { x with park := .none }).takeTrap p (watchdogTrap x.here x.pos.m0)).wake := by
  have hdue : s.watchdogAt p x = some (s, watchdogTrap x.here x.pos.m0) := by simp only [State.watchdogAt, hpark]
  have hearly : ¬ s.now - x.parkedAt ≤ 2 * (s.lod x.fe).watchdog := by omega
  rw [exec_watchdogExpiry, execWatchdogExpiry]
  refine congrArg State.event ?_
  rw [hp]
  dsimp only
  rw [if_neg (by rw [hlife, decide_eq_false hearly]; decide), hdue]
  dsimp only
  rw [onParty_of_some hp]

theorem debugHalt_halts {s : State} {p : Nat} {x : Party} (hp : s.party? p = some x) (hlife : x.life = .resident) (hcur : s.cur ≠ some p)
    (hreqs : x.waitReqs = 0) : exec (.debugHalt p) s = .next ((s.setParty p (s.stopCyc x.halt)).notify 0x3C).wake := by
  rw [exec_debugHalt, execDebugHalt]
  refine congrArg State.event ?_
  rw [hp]
  exact if_neg (by simp [hlife, hcur, hreqs])

/-- Settles O38: clause entry, the pick of a lane, and the ends of a nap, of a wait past the watchdog's period, and of a party by the debug port. -/
theorem laneSteps : Obligations.LaneSteps := by
  refine ⟨fun s p x q pa hp hplace hfree hat hfetch => ⟨clauseEntry_enters hp hplace hfree hat hfetch, clauseEntry_waits hp hplace hfree hat hfetch⟩,
    fun s lane p x hcur hkeys hp hlane hready hgive hrest hfirst => ?_, fun s p x ls n a m hp hpark hlife hn => napTimeout_ends hp hpark hlife hn,
    fun s p x inst ph hp hpark hlife hlate => ⟨watchdogTrap x.here x.pos.m0, rfl, rfl, rfl, rfl, rfl, watchdog_barrier hp hpark hlife hlate⟩,
    fun s p x hp hlife hcur hreqs => ?_⟩
  · refine ⟨_, exec_lanePick_first hcur hkeys hp hlane hready hgive hrest hfirst, rfl, countGaps_mem .., ?_⟩
    rw [wake_party?]
    exact congrArg (Option.map _) (countGaps_lane hkeys hp hlane hready)
  · refine ⟨_, _, debugHalt_halts hp hlife hcur hreqs, (wake_party? ..).trans (congrArg (Option.map _) (party?_setParty_same ..)), rfl, rfl, (SameView.notify ..).mem, rfl⟩

end Sys2Proof.Proofs
end

section
/-! PROOFS. Grids from queue to end (R31, R230, R312, R345, R346): O39. -/

namespace Sys2Proof.Proofs

open Sys2Proof Sys2Proof.Machine Sys2Proof.Says

/-! ### The distributor tree splits without loss (R346) -/

theorem length_splitBy (n : Nat) (ws : List Nat) : (splitBy n ws).length = ws.length := by simp [splitBy]

/-- The shares that the division gives, against what is split. -/
theorem sum_floor_bounds (n : Nat) {T : Nat} (hT : 0 < T) (ws : List Nat) :
    T * (ws.map fun w => n * w / T).sum ≤ n * ws.sum ∧ n * ws.sum ≤ T * (ws.map fun w => n * w / T).sum + (T - 1) * ws.length := by
  induction ws with
  | nil => simp
  | cons w ws ih =>
    obtain ⟨hle, hge⟩ := ih
    have hdiv := Nat.div_add_mod (n * w) T
    have hmod := Nat.mod_lt (n * w) hT
    rw [List.map_cons, List.sum_cons, List.sum_cons, List.length_cons, Nat.mul_add, Nat.mul_add, Nat.mul_add]
    omega

/-- What the division leaves goes to the lower shares, one each. -/
theorem sum_bumped (left : Nat) (l : List Nat) (k : Nat) :
    ((l.zipIdx k).map fun e => if e.2 < left then e.1 + 1 else e.1).sum = l.sum + (min left (k + l.length) - k) := by
  induction l generalizing k with
  | nil => simp
  | cons a l ih =>
    rw [List.zipIdx_cons, List.map_cons, List.sum_cons, ih, List.sum_cons, List.length_cons]
    dsimp only
    split
    · omega
    · omega

theorem sum_splitBy (n : Nat) {ws : List Nat} (hpos : 0 < ws.sum) : (splitBy n ws).sum = n := by
  obtain ⟨hle, hge⟩ := sum_floor_bounds n hpos ws
  have hlen : 0 < ws.length := by
    cases ws with
    | nil => exact absurd hpos (lt_irrefl 0)
    | cons w ws => exact Nat.succ_pos _
  unfold splitBy
  dsimp only
  rw [sum_bumped, List.length_map]
  generalize (ws.map fun w => n * w / ws.sum).sum = S at *
  have hS : S ≤ n := Nat.le_of_mul_le_mul_left (by rwa [Nat.mul_comm n] at hle) hpos
  have hn : n < S + ws.length := by
    refine Nat.lt_of_mul_lt_mul_left (a := ws.sum) ?_
    calc ws.sum * n = n * ws.sum := Nat.mul_comm ..
      _ ≤ ws.sum * S + (ws.sum - 1) * ws.length := hge
      _ < ws.sum * S + ws.sum * ws.length := by
        have := Nat.mul_lt_mul_of_pos_right (Nat.sub_one_lt_of_lt hpos) hlen
        omega
      _ = ws.sum * (S + ws.length) := (Nat.mul_add ..).symm
  omega

theorem mem_onDie {l : Lodging} {d q : Nat} : q ∈ l.onDie d ↔ q ∈ l.quads ∧ dieOfQuad q = d := by simp [Lodging.onDie]

theorem sum_ones {α : Type} (l : List α) : (l.map fun _ => 1).sum = l.length := by simp

/-- The dies of a lodging. -/
def diesOf (l : Lodging) : List Nat := (List.range 4).filter fun d => !(l.onDie d).isEmpty

/-- The shares of the quads of a die. -/
def dieShares (l : Lodging) (e : Nat × Nat) : List (Nat × Nat) := (l.onDie e.1).zip (splitBy e.2 ((l.onDie e.1).map fun _ => 1))

theorem sum_dieShares {l : Lodging} {e : Nat × Nat} (h : e.1 ∈ diesOf l) : ((dieShares l e).map (·.2)).sum = e.2 := by
  have hne : (l.onDie e.1) ≠ [] := by simpa using (List.mem_filter.1 h).2
  have hpos : 0 < ((l.onDie e.1).map fun _ => 1).sum := by rw [sum_ones]; exact List.length_pos_iff.2 hne
  rw [dieShares, List.map_snd_zip (by rw [length_splitBy, List.length_map])]
  exact sum_splitBy _ hpos

theorem sum_flatMap_dieShares {l : Lodging} (es : List (Nat × Nat)) (h : ∀ e ∈ es, e.1 ∈ diesOf l) :
    ((es.flatMap (dieShares l)).map (·.2)).sum = (es.map (·.2)).sum := by
  induction es with
  | nil => rfl
  | cons e es ih =>
    obtain ⟨he, hes⟩ := List.forall_mem_cons.1 h
    rw [List.flatMap_cons, List.map_append, List.sum_append, sum_dieShares he, ih hes, List.map_cons, List.sum_cons]

theorem shares_eq (l : Lodging) (n : Nat) :
    l.shares n = ((diesOf l).zip (splitBy n ((diesOf l).map fun d => (l.onDie d).length))).flatMap (dieShares l) := rfl

theorem sum_shares {l : Lodging} (hnq : 1 ≤ l.nq) (hquads : l.qb + l.nq ≤ 128) (n : Nat) : ((l.shares n).map (·.2)).sum = n := by
  have hquad : l.qb ∈ l.onDie (dieOfQuad l.qb) := mem_onDie.2 ⟨List.mem_map.2 ⟨0, List.mem_range.2 hnq, rfl⟩, rfl⟩
  have hdie : dieOfQuad l.qb ∈ diesOf l := by
    refine List.mem_filter.2 ⟨List.mem_range.2 ?_, ?_⟩
    · unfold dieOfQuad
      omega
    · have := List.ne_nil_of_mem hquad
      simpa using this
  have hpos : 0 < ((diesOf l).map fun d => (l.onDie d).length).sum := by
    refine lt_of_lt_of_le (List.length_pos_of_mem hquad) ?_
    exact List.single_le_sum (fun _ _ => Nat.zero_le _) _ (List.mem_map.2 ⟨_, hdie, rfl⟩)
  rw [shares_eq, sum_flatMap_dieShares _ fun e he => (List.of_mem_zip he).1, List.map_snd_zip (by rw [length_splitBy, List.length_map])]
  exact sum_splitBy n hpos

theorem quad_of_mem_shares {l : Lodging} {n : Nat} {e : Nat × Nat} (he : e ∈ l.shares n) : e.1 ∈ l.quads := by
  rw [shares_eq, List.mem_flatMap] at he
  obtain ⟨d, -, hd⟩ := he
  exact (mem_onDie.1 (List.of_mem_zip hd).1).1

/-! ### The ranges of a launch -/

theorem rangesFrom_low {lo : Nat} {ps : List (Nat × Nat)} {u : Nat × Nat × Nat} (hu : u ∈ rangesFrom lo ps) : lo ≤ u.2.1 := by
  induction ps generalizing lo with
  | nil => cases hu
  | cons p ps ih =>
    obtain rfl | hu := List.mem_cons.1 hu
    · exact le_rfl
    · exact (Nat.le_add_right lo p.2).trans (ih hu)

/-- Every number of the whole range lies in one part. -/
theorem rangesFrom_unique {ps : List (Nat × Nat)} {lo j : Nat} (hlo : lo ≤ j) (hj : j < lo + (ps.map (·.2)).sum) :
    ∃! u, u ∈ rangesFrom lo ps ∧ u.2.1 ≤ j ∧ j < u.2.1 + u.2.2 := by
  induction ps generalizing lo with
  | nil => exact absurd hj (by simpa using hlo)
  | cons p ps ih =>
    rw [List.map_cons, List.sum_cons] at hj
    by_cases hfirst : j < lo + p.2
    · refine ⟨(p.1, lo, p.2), ⟨List.mem_cons_self, hlo, hfirst⟩, ?_⟩
      rintro u ⟨hu, hlow, hhigh⟩
      obtain rfl | hu := List.mem_cons.1 hu
      · rfl
      · have := rangesFrom_low hu
        omega
    · obtain ⟨u, ⟨hu, hlow, hhigh⟩, honly⟩ := ih (lo := lo + p.2) (by omega) (by omega)
      refine ⟨u, ⟨List.mem_cons_of_mem _ hu, hlow, hhigh⟩, ?_⟩
      rintro v ⟨hv, hlow', hhigh'⟩
      obtain rfl | hv := List.mem_cons.1 hv
      · exact absurd hhigh' hfirst
      · exact honly v ⟨hv, hlow', hhigh'⟩

theorem quad_of_mem_rangesFrom {ps : List (Nat × Nat)} {lo : Nat} {u : Nat × Nat × Nat} (hu : u ∈ rangesFrom lo ps) : ∃ p ∈ ps, u.1 = p.1 := by
  induction ps generalizing lo with
  | nil => cases hu
  | cons p ps ih =>
    obtain rfl | hu := List.mem_cons.1 hu
    · exact ⟨p, List.mem_cons_self, rfl⟩
    · obtain ⟨q, hq, heq⟩ := ih hu
      exact ⟨q, List.mem_cons_of_mem _ hq, heq⟩

theorem sum_nonzero (ps : List (Nat × Nat)) : ((ps.filter fun e => e.2 != 0).map (·.2)).sum = (ps.map (·.2)).sum := by
  induction ps with
  | nil => rfl
  | cons p ps ih =>
    by_cases hp : p.2 = 0
    · rw [List.filter_cons_of_neg (by simpa using hp), ih, List.map_cons, List.sum_cons, hp, Nat.zero_add]
    · rw [List.filter_cons_of_pos (by simpa using hp), List.map_cons, List.sum_cons, ih, List.map_cons, List.sum_cons]

/-- The launch of a grid of `l`. -/
def launchOf (fe : Nat) (g : GridRec) (l : Lodging) : Launch :=
  ⟨fe, g.desc, g.packet, rangesFrom 0 ((l.shares g.desc.count).filter fun e => e.2 != 0), g.desc.count, g.desc.scope != 0, [], false⟩

theorem launchOf_covers {l : Lodging} (hnq : 1 ≤ l.nq) (hquads : l.qb + l.nq ≤ 128) (fe : Nat) (g : GridRec) {j : Nat} (hj : j < g.desc.count) :
    ∃! u, u ∈ (launchOf fe g l).unplaced ∧ u.2.1 ≤ j ∧ j < u.2.1 + u.2.2 ∧ u.1 ∈ l.quads := by
  obtain ⟨u, ⟨hu, hlow, hhigh⟩, honly⟩ := rangesFrom_unique (ps := (l.shares g.desc.count).filter fun e => e.2 != 0) (Nat.zero_le j)
    (by rw [sum_nonzero, sum_shares hnq hquads, Nat.zero_add]; exact hj)
  obtain ⟨q, hq, heq⟩ := quad_of_mem_rangesFrom hu
  have hquad : u.1 ∈ l.quads := heq ▸ quad_of_mem_shares (List.mem_filter.1 hq).1
  exact ⟨u, ⟨hu, hlow, hhigh, hquad⟩, fun v hv => honly v ⟨hv.1, hv.2.1, hv.2.2.1⟩⟩

/-! ### The steps of a grid -/

theorem gridPlacement_places {s : State} {fe : Nat} {g : GridRec} {l' : Lodging} (hst : (s.lod fe).st = .running) (hopen : s.openLaunch fe = none)
    (hnext : (s.lod fe).nextGrid = some (g, l')) : exec (.gridPlacement fe) s = .next (s.placeGrid fe g l').wake := by
  rw [exec_gridPlacement, execGridPlacement]
  refine congrArg State.event ?_
  dsimp only
  rw [if_neg (by rw [hst]; decide), hopen]
  dsimp only
  rw [hnext]

theorem lod_placeGrid (s : State) (fe : Nat) (g : GridRec) (l : Lodging) : (s.placeGrid fe g l).lod fe = l :=
  (lod_onLod _ fe (fun _ => l) fe).trans (if_pos rfl)

theorem deferred_enters {s : State} {fe : Nat} {g : GridRec} {gs : List GridRec} (hdeferred : (s.lod fe).deferred = g :: gs)
    (hroom : (s.lod fe).launchQ.length < 4096) :
    exec (.deferredLaunchEnqueue fe) s = .next (s.onLod fe fun l => { l with deferred := gs, launchQ := l.launchQ ++ [g] }).wake := by
  rw [exec_deferredLaunchEnqueue, execDeferredLaunchEnqueue]
  refine congrArg State.event ?_
  dsimp only
  rw [hdeferred]
  exact if_neg (by omega)

/-- The state without a grid. -/
def gridGone (s : State) (g : Nat) : State :=
  { s with launches := sdrop s.launches g, crews := s.crews.filter fun (e : Nat × Crew) => e.2.grid != some g }

/-- The state in which the grid's packet is complete. -/
def packetDone (s : State) : Option Nat → State
  | none => s
  | some k => match sfind s.packets k with
    | none => s
    | some q => { s with packets := sput s.packets k { q with stage := .complete } }

theorem gridEndFlush_ends {s : State} {g : Nat} {l : Launch} (hl : sfind s.launches g = some l) (halive : l.alive = 0) (hunplaced : l.unplaced = [])
    (hflushed : ∀ e ∈ s.reqs, e.2.openWrite = true → ∀ k ∈ s.crews, k.2.grid = some g → e.2.party ∉ k.2.parties) :
    exec (.gridEndFlush g) s = .next (packetDone (gridGone s g) l.packet).wake := by
  have hshut : (s.reqs.any fun e => (((s.crewsOf g).flatMap fun e => e.2.parties).contains e.2.party && e.2.openWrite && !e.2.win &&
      (l.desc.podFlush || e.2.pieces.all fun q => q.1 / 2 ^ 44 == s.pkg.number))) = false := by
    rw [List.any_eq_false]
    intro e he hopen
    simp only [Bool.and_eq_true, List.contains_iff_mem, List.mem_flatMap] at hopen
    obtain ⟨⟨⟨⟨k, hk, hparty⟩, hwrite⟩, -⟩, -⟩ := hopen
    obtain ⟨hcrew, hgrid⟩ := List.mem_filter.1 hk
    exact hflushed e he hwrite k hcrew (by simpa using hgrid) hparty
  rw [exec_gridEndFlush, execGridEndFlush]
  refine congrArg State.event ?_
  rw [hl]
  dsimp only
  rw [hshut, if_neg (by rw [halive, hunplaced]; decide)]
  cases l.packet <;> rfl

theorem packetDone_frame (s : State) (k : Option Nat) : (packetDone s k).launches = s.launches ∧ (packetDone s k).crews = s.crews ∧ (packetDone s k).mem = s.mem := by
  unfold packetDone
  split
  · exact ⟨rfl, rfl, rfl⟩
  · split
    · exact ⟨rfl, rfl, rfl⟩
    · exact ⟨rfl, rfl, rfl⟩

theorem packetDone_packet {s : State} {k : Nat} {q : Packet} (hq : sfind s.packets k = some q) :
    sfind (packetDone s (some k)).packets k = some { q with stage := .complete } := by
  simp only [packetDone, hq]
  exact sfind_sput_same ..

/-- Settles O39: placement, the deferred queue, and the end of a grid. -/
theorem gridsFromQueueToEnd : Obligations.GridsFromQueueToEnd := by
  refine ⟨fun s fe g l' hst hopen hnext => ?_, fun s fe g gs hdeferred hroom => ⟨_, deferred_enters hdeferred hroom,
      fun j => lod_onLod s fe (fun l => { l with deferred := gs, launchQ := l.launchQ ++ [g] }) j⟩,
    fun s g l hl halive hunplaced hflushed => ?_⟩
  · refine ⟨_, launchOf fe g l', gridPlacement_places hst hopen hnext, sfind_sput_same .., lod_placeGrid s fe g l', rfl, rfl, rfl, rfl, rfl, rfl, ?_, rfl,
      fun hnq hquads j hj => launchOf_covers hnq hquads fe g hj⟩
    show (g.desc.scope != 0) = decide (g.desc.scope ≠ 0)
    by_cases h : g.desc.scope = 0 <;> simp [h]
  · obtain ⟨hlaunches, hcrews, hmem⟩ := packetDone_frame (gridGone s g) l.packet
    refine ⟨_, gridEndFlush_ends hl halive hunplaced hflushed, ?_, fun k hk => ?_, hmem, fun k q hk hq => ?_⟩
    · exact (congrArg (fun m : Sparse Launch => sfind m g) hlaunches).trans (sfind_sdrop_same ..)
    · have hk' : k ∈ (gridGone s g).crews := hcrews ▸ hk
      simpa using (List.mem_filter.1 hk').2
    · rw [hk]
      exact packetDone_packet (s := gridGone s g) hq

end Sys2Proof.Proofs
end

section
/-! PROOFS. Crews come to their cores (R30, R177, R346, R347, R351, R353, R370): O40. -/

namespace Sys2Proof.Proofs

open Sys2Proof Sys2Proof.Machine Sys2Proof.Says

/-! ### Seating (R30, R264, R346) -/

/-- A party seated on lane `l`. -/
def seatedParty (s : State) (l : Nat) (x : Party) : Party :=
  { x with
    lane := l
    rslot := s.freeSlotOn l
    life := if x.life == .halted then .halted else .resident
    age := s.now
    gap := 0
    giveWay := false
    hold := false
    parkedAt := s.now
    cycSince := some s.now }

theorem seat_eq (s : State) (p l : Nat) : s.seat p l = s.onParty p (seatedParty s l) := rfl

theorem seat_frame (s : State) (p l : Nat) :
    (s.seat p l).now = s.now ∧ (s.seat p l).mem = s.mem ∧ (s.seat p l).cores = s.cores ∧ (s.seat p l).crews = s.crews := by
  rw [seat_eq, State.onParty]
  split <;> exact ⟨rfl, rfl, rfl, rfl⟩

theorem seatAll_frame (es : List (Nat × Nat)) (s : State) :
    (s.seatAll es).now = s.now ∧ (s.seatAll es).mem = s.mem ∧ (s.seatAll es).cores = s.cores ∧ (s.seatAll es).crews = s.crews := by
  induction es generalizing s with
  | nil => exact ⟨rfl, rfl, rfl, rfl⟩
  | cons e es ih =>
    obtain ⟨hnow, hmem, hcores, hcrews⟩ := ih (s.seat e.1 e.2)
    obtain ⟨hnow', hmem', hcores', hcrews'⟩ := seat_frame s e.1 e.2
    exact ⟨hnow.trans hnow', hmem.trans hmem', hcores.trans hcores', hcrews.trans hcrews'⟩

theorem seatAll_other {es : List (Nat × Nat)} {p : Nat} (hp : p ∉ es.map (·.1)) (s : State) : (s.seatAll es).party? p = s.party? p := by
  induction es generalizing s with
  | nil => rfl
  | cons e es ih =>
    rw [List.map_cons, List.mem_cons, not_or] at hp
    exact (ih hp.2 _).trans (onParty_party?_ne s hp.1 _)

/-- `y` is `x` on lane `l` since `now`: a party that has not halted is resident there. -/
def SeatedOn (now l : Nat) (x y : Party) : Prop :=
  (x.life ≠ .halted → y.life = .resident) ∧ y.lane = l ∧ y.age = now ∧ y.cycSince = some now ∧ y.regs = x.regs ∧ y.tpc = x.tpc

theorem seatedOn_seatedParty (s : State) (l : Nat) (x : Party) : SeatedOn s.now l x (seatedParty s l x) :=
  ⟨fun h => if_neg (by simpa using h), rfl, rfl, rfl, rfl, rfl⟩

/-- Each party of a list goes to its lane. -/
theorem seatAll_seats {es : List (Nat × Nat)} (hnodup : (es.map (·.1)).Nodup) {p l : Nat} (he : (p, l) ∈ es) {s : State} {x : Party}
    (hp : s.party? p = some x) : ∃ y, (s.seatAll es).party? p = some y ∧ SeatedOn s.now l x y := by
  induction es generalizing s with
  | nil => cases he
  | cons e es ih =>
    obtain ⟨hfirst, hnodup⟩ := List.nodup_cons.1 hnodup
    obtain rfl | he := List.mem_cons.1 he
    · refine ⟨seatedParty s l x, (seatAll_other hfirst _).trans ?_, seatedOn_seatedParty s l x⟩
      rw [seat_eq, onParty_of_some hp]
      exact party?_setParty_same ..
    · have hne : p ≠ e.1 := by
        rintro rfl
        exact hfirst (List.mem_map.2 ⟨(e.1, l), he, rfl⟩)
      obtain ⟨y, hy, hseated⟩ := ih hnodup he (s := s.seat e.1 e.2) ((onParty_party?_ne s hne _).trans hp)
      rw [(seat_frame s e.1 e.2).1] at hseated
      exact ⟨y, hy, hseated⟩

/-! ### Admission (R347, R370) -/

theorem handOver_fe (k : Core) (fe : Nat) : (k.handOver fe).fe = some fe := by
  unfold Core.handOver
  split
  · rfl
  · next f hf =>
    split
    · next h => rw [hf, h]
    · rfl

theorem takeTokens_frame (s : State) (c : Nat) : (s.takeTokens c).now = s.now ∧ (s.takeTokens c).mem = s.mem ∧ (s.takeTokens c).parties = s.parties ∧
    (s.takeTokens c).crews = s.crews ∧ ((s.takeTokens c).core c).fe = (s.core c).fe := by
  unfold State.takeTokens
  split
  · exact ⟨rfl, rfl, rfl, rfl, rfl⟩
  · refine ⟨rfl, rfl, rfl, rfl, ?_⟩
    have hcore := (core_onCore s c (fun k => { k with tokens := true }) c).trans (if_pos rfl)
    exact (congrArg Core.fe hcore).trans rfl

/-- The state in which a crew's parties have been seated on core `c`. -/
def seatedState (s : State) (k : Crew) (c : Nat) : State :=
  ((s.onCore c fun x => { x.handOver k.fe with idleSince := none }).takeTokens c).seatAll
    ((s.crewAlive k).zip (fillLanes (s.crewWords k) 8 (s.crewAlive k).length (s.rooms c)))

/-- The crew no longer waits in the FIFO of a die. -/
def leftFifo (s : State) (crew : Nat) : State :=
  { s with dieFifo := (s.dieFifo.map fun (e : Nat × List Nat) => (e.1, e.2.filter (· != crew))).filter fun (e : Nat × List Nat) => !e.2.isEmpty }

theorem admitCrew_eq {s : State} {crew : Nat} {k : Crew} (hk : s.crew? crew = some k) {c : Nat} {v : State} (hv : seatedState s k c = v) :
    s.admitCrew crew c = (leftFifo v crew).onCrew crew fun k => { k with core := some c, life := .resident, since := v.now } := by
  unfold seatedState at hv
  unfold State.admitCrew
  rw [hk]
  dsimp only
  rw [hv]
  rfl

theorem onCrew_frame (s : State) (c : Nat) (f : Crew → Crew) : (s.onCrew c f).mem = s.mem ∧ (s.onCrew c f).cores = s.cores ∧ (s.onCrew c f).parties = s.parties := by
  unfold State.onCrew
  split <;> exact ⟨rfl, rfl, rfl⟩

theorem nodup_fst_zip {l : List Nat} (hl : l.Nodup) (r : List Nat) : ((l.zip r).map (·.1)).Nodup := by
  induction l generalizing r with
  | nil => exact List.nodup_nil
  | cons a l ih =>
    cases r with
    | nil => exact List.nodup_nil
    | cons b r =>
      obtain ⟨ha, hl⟩ := List.nodup_cons.1 hl
      refine List.nodup_cons.2 ⟨fun h => ha ?_, ih hl r⟩
      obtain ⟨e, he, heq⟩ := List.mem_map.1 h
      exact (show e.1 = a from heq) ▸ (List.of_mem_zip he).1

theorem seated_admitCrew {s : State} {crew : Nat} {k : Crew} (hk : s.crew? crew = some k) (hnodup : k.parties.Nodup) (c : Nat) :
    Seated s crew k c (s.admitCrew crew c).wake := by
  obtain ⟨hnow, hmem, hparties, hcrews, hfe⟩ := takeTokens_frame (s.onCore c fun x => { x.handOver k.fe with idleSince := none }) c
  have hcorefe := hfe.trans ((congrArg Core.fe (core_onCore s c (fun x => { x.handOver k.fe with idleSince := none }) c)).trans
    ((congrArg Core.fe (if_pos rfl)).trans (handOver_fe (s.core c) k.fe)))
  obtain ⟨v, hv⟩ : ∃ v, seatedState s k c = v := ⟨_, rfl⟩
  rw [admitCrew_eq hk hv]
  unfold seatedState at hv
  generalize (s.onCore c fun x => { x.handOver k.fe with idleSince := none }).takeTokens c = u at hnow hmem hparties hcrews hfe hcorefe hv
  subst hv
  have hseats : ∀ (i p : Nat) x l, (s.crewAlive k)[i]? = some p → s.party? p = some x →
      (fillLanes (s.crewWords k) 8 (s.crewAlive k).length (s.rooms c))[i]? = some l →
      ∃ y, (u.seatAll ((s.crewAlive k).zip (fillLanes (s.crewWords k) 8 (s.crewAlive k).length (s.rooms c)))).party? p = some y ∧
        SeatedOn u.now l x y := fun i p x l hi hp hl => by
    refine seatAll_seats (nodup_fst_zip (hnodup.filter _) _) (List.mem_of_getElem? (i := i) ?_)
      ((congrArg (fun m : Sparse Party => sfind m p) hparties).trans hp)
    rw [List.getElem?_zip_eq_some]
    exact ⟨hi, hl⟩
  obtain ⟨hnow', hmem', hcores', hcrews'⟩ := seatAll_frame ((s.crewAlive k).zip (fillLanes (s.crewWords k) 8 (s.crewAlive k).length (s.rooms c))) u
  generalize u.seatAll ((s.crewAlive k).zip (fillLanes (s.crewWords k) 8 (s.crewAlive k).length (s.rooms c))) = v at *
  have hcrew : (leftFifo v crew).crew? crew = some k := (congrArg (fun m : Sparse Crew => sfind m crew) (hcrews'.trans hcrews)).trans hk
  obtain ⟨hmem'', hcores'', hparties''⟩ := onCrew_frame (leftFifo v crew) crew fun k => { k with core := some c, life := .resident, since := v.now }
  refine ⟨?_, hmem''.trans (hmem'.trans hmem), ?_, fun i p x l hi hp hlife hl => ?_⟩
  · refine ((crew?_onCrew ..).trans (if_pos rfl)).trans ?_
    rw [hcrew, Option.map_some, hnow', hnow]
    rfl
  · exact (congrArg (fun m => (sget Core.reset m c).fe) (hcores''.trans hcores')).trans hcorefe
  · obtain ⟨y, hy, hres, hlane, hage, hcyc, hregs, htpc⟩ := hseats i p x l hi hp hl
    refine ⟨{ y with hold := false }, ?_, hres hlife, hlane, hage.trans hnow, hcyc.trans (congrArg some hnow), hregs, htpc⟩
    rw [wake_party?]
    exact congrArg (Option.map _) ((congrArg (fun m : Sparse Party => sfind m p) hparties'').trans hy)

theorem crewAdmission_admits {s : State} {crew : Nat} {k : Crew} (hk : s.crew? crew = some k) (hst : (s.lod k.fe).st = .running) {c : Nat}
    (hc : s.coreFor k = some c) (hlife : k.life = .pending) (hgang : k.gang = false) :
    exec (.crewAdmission crew) s = .next (s.admitCrew crew c).wake := by
  rw [exec_crewAdmission, execCrewAdmission]
  refine congrArg State.event ?_
  rw [hk]
  dsimp only
  rw [if_neg (by rw [hlife, hst]; decide), hgang, if_neg Bool.false_ne_true, hc]

theorem restoration_admits {s : State} {crew : Nat} {k : Crew} (hk : s.crew? crew = some k) (hst : (s.lod k.fe).st = .running) {c : Nat}
    (hc : s.coreFor k = some c) (hlife : k.life = .switchedOut ∨ k.life = .evicted) :
    exec (.restoration crew) s = .next (s.admitCrew crew c).wake := by
  have hback : ((k.life == .switchedOut || k.life == .evicted) && (s.lod k.fe).st == .running) = true := by
    rw [hst]
    obtain h | h := hlife <;> rw [h] <;> rfl
  rw [exec_restoration, execRestoration]
  refine congrArg State.event ?_
  rw [hk]
  dsimp only
  rw [if_pos hback, hc]

/-! ### Tokens (R351) -/

theorem tokenReturn_returns {s : State} {c since : Nat} (htokens : (s.core c).tokens = true) (hidle : (s.core c).idleSince = some since)
    (hperiod : since + 20000 ≤ s.now) (hmx : ∀ e ∈ (s.core c).mx, e.2.owner = none) (hcrews : ∀ e ∈ s.crews, e.2.core = some c → e.2.life ≠ .resident) :
    exec (.tokenReturn c) s = .next
      ((s.onCore c fun k => { k with tokens := false }).onPkg fun k => { k with tokensHeld := k.tokensHeld - 2 }).wake := by
  have hall : ((s.core c).mx.all fun e => e.2.owner.isNone) = true := List.all_eq_true.2 fun e he => by rw [hmx e he]; rfl
  have hnone : (s.crews.any fun e => e.2.core == some c && e.2.life == .resident) = false := by
    rw [List.any_eq_false]
    intro e he h
    simp only [Bool.and_eq_true, beq_iff_eq] at h
    exact hcrews e he h.1 h.2
  rw [exec_tokenReturn, execTokenReturn]
  refine congrArg State.event ?_
  dsimp only
  rw [htokens, hidle, hall, hnone]
  exact if_pos (by simpa using hperiod)

/-! ### The period (R177, R353) -/

/-- A party whose nap, if it has one, ends. -/
def napEnds (_ : Nat) (x : Party) : Party := match x.park with | .nap _ _ _ _ => { x with park := .none } | _ => x

/-- The state after the naps have ended. -/
def periodState (s : State) : State := (s.onPkg fun k => { k with periods := s.now / 20000 }).mapParties napEnds

theorem periodState_party? {s : State} {p : Nat} {x : Party} (hp : s.party? p = some x) :
    (periodState s).party? p = some { x with park := match x.park with | .nap _ _ _ _ => .none | k => k } := by
  refine (sfind_map napEnds s.parties p).trans ?_
  rw [show sfind s.parties p = some x from hp, Option.map_some, napEnds]
  cases h : x.park with
  | nap _ _ _ _ => rfl
  | none => exact congrArg (fun k => some { x with park := k }) h
  | timeline _ _ => exact congrArg (fun k => some { x with park := k }) h
  | mbxStore => exact congrArg (fun k => some { x with park := k }) h
  | mailbox => exact congrArg (fun k => some { x with park := k }) h
  | barrier _ _ => exact congrArg (fun k => some { x with park := k }) h

theorem rotateCore_idle {s : State} (hidle : ∀ e ∈ s.crews, e.2.life = .resident ∨ e.2.life = .retired) (c : Nat) : s.rotateCore c = s := by
  have hnone : s.waitingFor c = [] := by
    rw [State.waitingFor, List.filter_eq_nil_iff]
    intro e he
    obtain h | h := hidle e he <;> rw [h] <;> simp
  rw [State.rotateCore, hnone]
  rfl

theorem rotateCores_idle {s : State} (hidle : ∀ e ∈ s.crews, e.2.life = .resident ∨ e.2.life = .retired) (cs : List Nat) :
    cs.foldl (fun s c => s.rotateCore c) s = s := by
  induction cs with
  | nil => rfl
  | cons c cs ih => rw [List.foldl_cons, rotateCore_idle hidle, ih]

theorem rotateGangs_idle {s : State} (es : List (Nat × Crew)) (hidle : ∀ e ∈ es, ∃ k, s.crew? e.1 = some k ∧ (k.life = .resident ∨ k.life = .retired)) :
    s.rotateGangs es = s := by
  induction es with
  | nil => rfl
  | cons e es ih =>
    obtain ⟨⟨k, hk, hlife⟩, hes⟩ := List.forall_mem_cons.1 hidle
    obtain ⟨crew, k'⟩ := e
    have hnot : (k.life == .pending) = false := by obtain h | h := hlife <;> rw [h] <;> rfl
    unfold State.rotateGangs
    refine (congrArg (fun s : State => s.rotateGangs es) (if_neg fun h => ?_)).trans (ih hes)
    simp only [hk, hnot, Bool.and_false, Bool.false_and, Bool.false_eq_true] at h

theorem periodBoundary_ends {s : State} (hdue : (s.pkg.periods + 1) * 20000 ≤ s.now) (hbetween : s.betweenGroups = true)
    (hidle : ∀ e ∈ s.crews, e.2.life = .resident ∨ e.2.life = .retired) (hkeys : ∀ e ∈ s.crews, s.crew? e.1 = some e.2) :
    exec .periodBoundary s = .next (periodState s).wake := by
  have hcores := rotateCores_idle (s := periodState s) hidle (List.range 512)
  have hgangs := rotateGangs_idle (s := periodState s) s.crews fun e he => ⟨e.2, hkeys e he, hidle e he⟩
  rw [exec_periodBoundary, execPeriodBoundary]
  refine congrArg State.event ((if_neg (by rw [hbetween]; simpa using hdue)).trans ?_)
  refine Eq.trans ?_ hgangs
  exact congrArg (fun u : State => u.rotateGangs u.crews) hcores

/-- Settles O40: admission, restoration, the return of tokens, and the period boundary. -/
theorem crewsComeToTheirCores : Obligations.CrewsComeToTheirCores := by
  refine ⟨fun s crew k c hk hst hc hnodup => ⟨fun hlife hgang => ⟨_, crewAdmission_admits hk hst hc hlife hgang, seated_admitCrew hk hnodup c⟩,
      fun hlife => ⟨_, restoration_admits hk hst hc hlife, seated_admitCrew hk hnodup c⟩⟩,
    fun s c since htokens hidle hperiod hmx hcrews => ⟨_, tokenReturn_returns htokens hidle hperiod hmx hcrews,
      fun j => core_onCore s c (fun k => { k with tokens := false }) j, rfl, rfl⟩,
    fun s hdue hbetween hidle hkeys => ⟨_, periodBoundary_ends hdue hbetween hidle hkeys, rfl, rfl, rfl, fun p x hp => ?_⟩⟩
  rw [wake_party?]
  exact congrArg (Option.map _) (periodState_party? hp)

end Sys2Proof.Proofs
end

section
/-! PROOFS. What the host writes, and power, budgets and ports (R354, R356, R358, R364, R382, R385, R393, R394, R398): O41. -/

namespace Sys2Proof.Proofs

open Sys2Proof Sys2Proof.Machine Sys2Proof.Says

/-! ### Streams, packages and the Logbook -/

theorem streamIs_onStream (s : State) (fe : Nat) (f : Stream → Stream) : StreamIs s fe (f (s.lod fe).stream) (s.onStream fe f).wake :=
  ⟨rfl, fun j => lod_onLod s fe (fun l => { l with stream := f l.stream }) j⟩

theorem pkgIs_onPkg (s : State) (f : Package → Package) : PkgIs s (f s.pkg) (s.onPkg f).wake := rfl

theorem raised_eq (m : Msix) (v : Nat) : (if m.enabled && !m.masked.getLsbD v then { m with sent := m.sent ++ [v] }
    else { m with pending := m.pending ||| BitVec.ofNat 32 (2 ^ v) }) = raised m v := by
  unfold raised
  cases m.enabled <;> cases m.masked.getLsbD v <;> rfl

theorem msix_eq (s : State) (fe v : Nat) : s.msix fe v = s.onStream fe fun st => { st with msix := raised st.msix v } := by
  unfold State.msix
  simp only [raised_eq]

/-- A record of the Logbook: the ring takes it, and the PF's vector 5 is raised. -/
theorem log_eq {s : State} (hlen : s.pkg.log.length ≤ 4096) (code lodging unit : Nat) (detail : BitVec 128) : s.log code lodging unit detail =
    (s.onPkg fun k => logged k s.now code lodging unit detail).onStream 0 fun st => { st with msix := raised st.msix 5 } := by
  have hring : ∀ r : LogRec, (if 4096 < (s.pkg.log ++ [r]).length then (s.pkg.log ++ [r]).drop 1 else s.pkg.log ++ [r]) =
      (s.pkg.log ++ [r]).drop ((s.pkg.log ++ [r]).length - 4096) := fun r => by
    have hl : (s.pkg.log ++ [r]).length = s.pkg.log.length + 1 := List.length_append
    split
    · rw [show (s.pkg.log ++ [r]).length - 4096 = 1 by omega]
    · rw [show (s.pkg.log ++ [r]).length - 4096 = 0 by omega, List.drop_zero]
  have hpkg : (s.onPkg fun k =>
      let l := k.log ++ [⟨s.clk, code, lodging, unit, k.logSeq % 2 ^ 32, detail⟩]
      { k with log := if 4096 < l.length then l.drop 1 else l, logSeq := (k.logSeq + 1) % 2 ^ 32 }) =
      s.onPkg fun k => logged k s.now code lodging unit detail :=
    congrArg (fun l : List LogRec => { s with pkg := { s.pkg with log := l, logSeq := (s.pkg.logSeq + 1) % 2 ^ 32 } }) (hring _)
  unfold State.log
  rw [msix_eq, hpkg]

/-- A record after a change of the package's registers, which leaves the Logbook as it is. -/
theorem logIs_log (s : State) {f : Package → Package} (hlog : (f s.pkg).log = s.pkg.log) (code lodging unit : Nat) (detail : BitVec 128) :
    LogIs s (f s.pkg) code lodging unit detail ((s.onPkg f).log code lodging unit detail).wake := by
  intro hlen
  have hlen' : (s.onPkg f).pkg.log.length ≤ 4096 := by rw [onPkg_pkg, hlog]; exact hlen
  rw [log_eq hlen']
  obtain ⟨-, hlods⟩ := streamIs_onStream ((s.onPkg f).onPkg fun k => logged k (s.onPkg f).now code lodging unit detail) 0 fun st => { st with msix := raised st.msix 5 }
  exact ⟨rfl, hlods⟩

/-! ### The registers of a stream (R358, R385) -/

theorem doorbell_moves {s : State} {fe : Nat} {tail : DWord} (hfe : fe ≤ 31) (halign : tail.toNat % 64 = 0) (hin : tail.toNat < (s.lod fe).stream.ringSize) :
    exec (.doorbell fe tail) s = .next (s.onStream fe fun st => { st with tail := tail.toNat }).wake := by
  rw [exec_doorbell, execDoorbell]
  refine congrArg State.event (if_neg ?_)
  simp [halign, hin]
  omega

theorem doorbell_ignored {s : State} {fe : Nat} {tail : DWord} (h : 31 < fe ∨ tail.toNat % 64 ≠ 0 ∨ (s.lod fe).stream.ringSize ≤ tail.toNat) :
    exec (.doorbell fe tail) s = .next s.wake := by
  rw [exec_doorbell, execDoorbell]
  refine congrArg State.event (if_pos ?_)
  simpa [or_assoc] using h

theorem doorbell_spec (s : State) (fe : Nat) (tail : DWord) : ∃ t, exec (.doorbell fe tail) s = .next t ∧
    (fe ≤ 31 → tail.toNat % 64 = 0 → tail.toNat < (s.lod fe).stream.ringSize → StreamIs s fe { (s.lod fe).stream with tail := tail.toNat } t) ∧
    (31 < fe ∨ tail.toNat % 64 ≠ 0 ∨ (s.lod fe).stream.ringSize ≤ tail.toNat → t = s.wake) := by
  by_cases h : 31 < fe ∨ tail.toNat % 64 ≠ 0 ∨ (s.lod fe).stream.ringSize ≤ tail.toNat
  · exact ⟨_, doorbell_ignored h, fun hfe halign hin => by omega, fun _ => rfl⟩
  · have h' : fe ≤ 31 ∧ tail.toNat % 64 = 0 ∧ tail.toNat < (s.lod fe).stream.ringSize := by omega
    exact ⟨_, doorbell_moves h'.1 h'.2.1 h'.2.2, fun _ _ _ => streamIs_onStream .., fun hbad => absurd hbad h⟩

/-- A write to an offset that is aligned, of a function that exists. -/
theorem exec_barWrite {s : State} {fe off : Nat} (hfe : fe ≤ 31) (hoff : off % 8 = 0) (v : DWord) {t : State}
    (h : (if off = 8 then
        if v.toNat % 4096 != 0 then s else s.onStream fe (fun st => { st with ringBase := v, prefetched := [] })
      else if off = 0x10 then
        if (s.lod fe).stream.status != 0 || !ringSizeOk (v.toNat % 2 ^ 32) then s
        else s.onStream fe (fun st => { st with ringSize := v.toNat % 2 ^ 32, prefetched := [] })
      else if fe = 0 && 0x200 ≤ off && off < 0x2000 then
        s.onPkg (fun k => { k with mailbox := (List.range 8).foldl (fun m i => sset 0 m (off + i) (v.extractLsb' (8 * i) 8)) k.mailbox })
      else if 0x10000 ≤ off && off < 0x10200 then s.onStream fe (fun st => { st with msix := st.msix.write (off - 0x10000) v })
      else if off = 0x20000 then s.onStream fe (fun st => { st with msix := ({ st.msix with enabled := v.getLsbD 15 }).flushAll })
      else s) = t) : exec (.barRegisterWrite fe off v) s = .next t.wake := by
  rw [exec_barRegisterWrite, execBarRegisterWrite]
  refine congrArg State.event ((if_neg ?_).trans h)
  simp [hoff]
  omega

theorem ringBase_write {s : State} {fe : Nat} {v : DWord} (hfe : fe ≤ 31) (halign : v.toNat % 4096 = 0) :
    exec (.barRegisterWrite fe 0x08 v) s = .next (s.onStream fe fun st => { st with ringBase := v, prefetched := [] }).wake :=
  exec_barWrite hfe rfl v ((if_pos rfl).trans (if_neg (by simp [halign])))

theorem ringSizeOk_pow {k : Nat} (h12 : 12 ≤ k) (h26 : k ≤ 26) : ringSizeOk (2 ^ k) = true :=
  List.any_eq_true.2 ⟨k - 12, List.mem_range.2 (by omega), by rw [show 12 + (k - 12) = k by omega]; exact beq_self_eq_true _⟩

theorem ringSize_write {s : State} {fe k : Nat} {v : DWord} (hfe : fe ≤ 31) (hidle : (s.lod fe).stream.status = 0) (hv : v.toNat % 2 ^ 32 = 2 ^ k)
    (h12 : 12 ≤ k) (h26 : k ≤ 26) :
    exec (.barRegisterWrite fe 0x10 v) s = .next (s.onStream fe fun st => { st with ringSize := 2 ^ k, prefetched := [] }).wake := by
  refine exec_barWrite hfe rfl v ((if_neg (by decide)).trans ((if_pos rfl).trans ?_))
  rw [hv, hidle, ringSizeOk_pow h12 h26]
  exact if_neg (by decide)

theorem mailbox_bytes (off : Nat) (v : DWord) (m : Sparse Byte) (n a : Nat) :
    sget 0 ((List.range n).foldl (fun m i => sset 0 m (off + i) (v.extractLsb' (8 * i) 8)) m) a =
      if off ≤ a ∧ a < off + n then v.extractLsb' (8 * (a - off)) 8 else sget 0 m a := by
  induction n with
  | zero => rw [if_neg (by omega)]; rfl
  | succ n ih =>
    rw [List.range_succ, List.foldl_append, List.foldl_cons, List.foldl_nil, sget_sset, ih]
    by_cases ha : a = off + n
    · rw [if_pos ha, if_pos (by omega), ha, Nat.add_sub_cancel_left]
    · rw [if_neg ha]
      by_cases hin : off ≤ a ∧ a < off + n
      · rw [if_pos hin, if_pos (by omega)]
      · rw [if_neg hin, if_neg (by omega)]

theorem mailbox_write {s : State} {off : Nat} (v : DWord) (hoff : off % 8 = 0) (hlow : 0x200 ≤ off) (hhigh : off < 0x2000) :
    exec (.barRegisterWrite 0 off v) s = .next (s.onPkg fun k =>
      { k with mailbox := (List.range 8).foldl (fun m i => sset 0 m (off + i) (v.extractLsb' (8 * i) 8)) k.mailbox }).wake :=
  exec_barWrite (by decide) hoff v ((if_neg (by omega)).trans ((if_neg (by omega)).trans (if_pos (by simp [hlow, hhigh]))))

theorem msixTable_write {s : State} {fe off : Nat} (v : DWord) (hfe : fe ≤ 31) (hoff : off % 8 = 0) (hlow : 0x10000 ≤ off) (hhigh : off < 0x10200) :
    exec (.barRegisterWrite fe off v) s = .next (s.onStream fe fun st => { st with msix := st.msix.write (off - 0x10000) v }).wake :=
  exec_barWrite hfe hoff v ((if_neg (by omega)).trans ((if_neg (by omega)).trans ((if_neg (by simp; omega)).trans (if_pos (by simp [hlow, hhigh])))))

theorem msixControl_write {s : State} {fe : Nat} (v : DWord) (hfe : fe ≤ 31) :
    exec (.barRegisterWrite fe 0x20000 v) s = .next (s.onStream fe fun st => { st with msix := ({ st.msix with enabled := v.getLsbD 15 }).flushAll }).wake :=
  exec_barWrite hfe rfl v ((if_neg (by decide)).trans ((if_neg (by decide)).trans ((if_neg (by simp)).trans ((if_neg (by decide)).trans (if_pos rfl)))))

theorem barWrite_ignored {s : State} {fe off : Nat} {v : DWord}
    (h : 31 < fe ∨ off % 8 ≠ 0 ∨ 0x10200 ≤ off ∧ off ≠ 0x20000 ∨ (fe ≠ 0 ∧ 0x18 ≤ off ∧ off < 0x10000)) :
    exec (.barRegisterWrite fe off v) s = .next s.wake := by
  by_cases hreach : 31 < fe ∨ off % 8 ≠ 0
  · rw [exec_barRegisterWrite, execBarRegisterWrite]
    exact congrArg State.event (if_pos (by simpa using hreach))
  · have hno : ¬ (decide (fe = 0) && decide (0x200 ≤ off) && decide (off < 0x2000)) = true := by simp; omega
    have hnoTable : ¬ (decide (0x10000 ≤ off) && decide (off < 0x10200)) = true := by simp; omega
    exact exec_barWrite (by omega) (by omega) v ((if_neg (by omega)).trans ((if_neg (by omega)).trans ((if_neg hno).trans ((if_neg hnoTable).trans
      (if_neg (by omega))))))

/-! ### MSI-X (R358) -/

theorem getLsbD_vector {v j : Nat} (hj : j < 32) : (BitVec.ofNat 32 (2 ^ v)).getLsbD j = decide (j = v) := by
  rw [BitVec.getLsbD_ofNat, decide_eq_true hj, Bool.true_and, Nat.testBit_two_pow]
  simp [eq_comm]

theorem flush_frame (m : Msix) (v : Nat) : (m.flush v).enabled = m.enabled ∧ (m.flush v).masked = m.masked ∧ (m.flush v).table = m.table := by
  unfold Msix.flush
  split <;> exact ⟨rfl, rfl, rfl⟩

theorem flush_pending (m : Msix) (v : Nat) {j : Nat} (hj : j < 32) :
    (m.flush v).pending.getLsbD j = (m.pending.getLsbD j && !(decide (j = v) && m.enabled && !m.masked.getLsbD j)) := by
  unfold Msix.flush
  split
  · next h =>
    simp only [Bool.and_eq_true, Bool.not_eq_true'] at h
    dsimp only
    rw [BitVec.getLsbD_and, BitVec.getLsbD_not, getLsbD_vector hj, decide_eq_true hj, Bool.true_and]
    by_cases hv : j = v
    · rw [hv, h.1.1, h.1.2]
      simp
    · simp [hv]
  · next h =>
    by_cases hv : j = v
    · subst hv
      simp only [Bool.and_eq_true, Bool.not_eq_true', not_and, Bool.not_eq_true] at h
      cases hp : m.pending.getLsbD j <;> cases he : m.enabled <;> cases hm : m.masked.getLsbD j <;> simp_all
    · simp [hv]

theorem flushAll_spec (m : Msix) : m.flushAll.enabled = m.enabled ∧ m.flushAll.masked = m.masked ∧ m.flushAll.table = m.table ∧
    ∀ j < 32, m.flushAll.pending.getLsbD j = (m.pending.getLsbD j && !(m.enabled && !m.masked.getLsbD j)) := by
  have hfold : ∀ n ≤ 32, let k := (List.range n).foldl (fun m v => Msix.flush m v) m
      k.enabled = m.enabled ∧ k.masked = m.masked ∧ k.table = m.table ∧
        ∀ j < 32, k.pending.getLsbD j = (m.pending.getLsbD j && !(decide (j < n) && m.enabled && !m.masked.getLsbD j)) := by
    intro n hn
    induction n with
    | zero => exact ⟨rfl, rfl, rfl, fun j _ => by simp⟩
    | succ n ih =>
      obtain ⟨henabled, hmasked, htable, hpending⟩ := ih (by omega)
      rw [List.range_succ, List.foldl_append, List.foldl_cons, List.foldl_nil]
      obtain ⟨he, hm, ht⟩ := flush_frame ((List.range n).foldl (fun m v => Msix.flush m v) m) n
      refine ⟨he.trans henabled, hm.trans hmasked, ht.trans htable, fun j hj => ?_⟩
      rw [flush_pending _ _ hj, hpending j hj, henabled, hmasked]
      by_cases hjn : j = n
      · simp [hjn]
      · have hlt : j < n + 1 ↔ j < n := by omega
        simp [hjn, hlt]
  obtain ⟨henabled, hmasked, htable, hpending⟩ := hfold 32 le_rfl
  refine ⟨henabled, hmasked, htable, fun j hj => (hpending j hj).trans ?_⟩
  rw [decide_eq_true hj, Bool.true_and]

theorem setMask_frame (m : Msix) (v : Nat) (b : Bool) : (m.setMask v b).enabled = m.enabled ∧ (m.setMask v b).table = m.table := by
  unfold Msix.setMask
  cases b
  · exact ⟨(flush_frame ..).1, (flush_frame ..).2.2⟩
  · exact ⟨rfl, rfl⟩

theorem setMask_masked (m : Msix) (v : Nat) (b : Bool) {j : Nat} (hj : j < 32) :
    (m.setMask v b).masked.getLsbD j = if j = v then b else m.masked.getLsbD j := by
  unfold Msix.setMask
  cases b
  · refine (congrArg (fun k : BitVec 32 => k.getLsbD j) (flush_frame ..).2.1).trans ?_
    show (m.masked &&& ~~~ BitVec.ofNat 32 (2 ^ v)).getLsbD j = _
    rw [BitVec.getLsbD_and, BitVec.getLsbD_not, getLsbD_vector hj, decide_eq_true hj]
    by_cases hv : j = v <;> simp [hv]
  · show (m.masked ||| BitVec.ofNat 32 (2 ^ v)).getLsbD j = _
    rw [BitVec.getLsbD_or, getLsbD_vector hj]
    by_cases hv : j = v <;> simp [hv]

theorem write_table (m : Msix) (off : Nat) (v : DWord) (j : Nat) : sget 0 (m.write off v).table j = if j = off / 8 then v else sget 0 m.table j := by
  unfold Msix.write
  dsimp only
  split
  · rw [(setMask_frame ..).2]
    exact sget_sset ..
  · exact sget_sset ..

theorem write_masked (m : Msix) (off : Nat) (v : DWord) {j : Nat} (hj : j < 32) :
    (m.write off v).masked.getLsbD j = if off % 16 = 8 ∧ j = off / 16 then v.getLsbD 32 else m.masked.getLsbD j := by
  unfold Msix.write
  dsimp only
  by_cases hoff : off % 16 = 8
  · rw [if_pos hoff, setMask_masked _ _ _ hj]
    simp only [hoff, true_and]
  · rw [if_neg hoff, if_neg fun h => hoff h.1]

theorem unmask_sent (m : Msix) {v : Nat} (hv : v ≤ 31) :
    (m.setMask v false).sent = m.sent ++ (if m.enabled = true ∧ m.pending.getLsbD v = true then [v] else []) := by
  have hclear : (m.masked &&& ~~~ BitVec.ofNat 32 (2 ^ v)).getLsbD v = false := by
    rw [BitVec.getLsbD_and, BitVec.getLsbD_not, getLsbD_vector (by omega)]
    simp
  unfold Msix.setMask Msix.flush
  simp only [Bool.false_eq_true, if_false, hclear, Bool.not_false, Bool.and_true, Bool.and_eq_true]
  split
  · rfl
  · rw [List.append_nil]

theorem unmask_pending (m : Msix) {v j : Nat} (hj : j < 32) :
    (m.setMask v false).pending.getLsbD j = (m.pending.getLsbD j && !(decide (j = v) && m.enabled)) := by
  unfold Msix.setMask
  simp only [Bool.false_eq_true, if_false]
  rw [flush_pending _ _ hj]
  by_cases hv : j = v
  · have hclear : (m.masked &&& ~~~ BitVec.ofNat 32 (2 ^ v)).getLsbD j = false := by
      rw [BitVec.getLsbD_and, BitVec.getLsbD_not, getLsbD_vector hj]
      simp [hv]
    rw [hclear, Bool.not_false, Bool.and_true]
  · simp [hv]

theorem msixUnmask_step {s : State} {fe v : Nat} (hfe : fe ≤ 31) (hv : v ≤ 31) :
    exec (.msixUnmask fe v) s = .next (s.onStream fe fun st => { st with msix := st.msix.setMask v false }).wake := by
  rw [exec_msixUnmask, execMsixUnmask]
  exact congrArg State.event (if_neg (by simp; omega))

/-! ### The status register (R385, R393) -/

/-- A stream after a write of its status. -/
def resumed (st : Stream) : Stream :=
  if st.failed then
    let st := if st.skip = 0 then st
      else (st.forget ((List.range (st.skip / 64)).map (fun i => st.unitAt (64 * i)))).advance st.skip
    { st with failed := false, code := 0, item := false, skip := 0 }
  else { st with item := false }

theorem statusResume_step (s : State) {fe : Nat} (hfe : fe ≤ 31) : exec (.statusResume fe) s = .next (s.onStream fe resumed).wake := by
  rw [exec_statusResume, execStatusResume]
  exact congrArg State.event (if_neg (by omega))

theorem advance_head {st : Stream} (hlevels : st.levels = []) (hloop : st.looping = none) (n : Nat) :
    (st.advance n).head = (st.head + n) % st.ringSize := by
  simp only [Stream.advance, Stream.inLoop, hloop, Stream.move, hlevels]

theorem resumed_item {st : Stream} (h : st.failed = false) : resumed st = { st with item := false } := by
  rw [resumed, if_neg (by rw [h]; exact Bool.false_ne_true)]

theorem resumed_failed {st : Stream} (h : st.failed = true) : (resumed st).failed = false ∧ (resumed st).item = false ∧ (resumed st).code = 0 ∧
    (resumed st).skip = 0 ∧ (st.levels = [] → st.looping = none → st.skip ≠ 0 → (resumed st).head = (st.head + st.skip) % st.ringSize) := by
  rw [resumed, if_pos h]
  refine ⟨rfl, rfl, rfl, rfl, fun hlevels hloop hskip => ?_⟩
  dsimp only
  rw [if_neg hskip]
  exact advance_head (st := st.forget ((List.range (st.skip / 64)).map fun i => st.unitAt (64 * i))) hlevels hloop st.skip

/-! ### Power, budgets and ports (R354, R364, R398) -/

theorem powerCap_taken {s : State} {w : BitVec 16} (hlow : 1200 ≤ w.toNat) (hhigh : w.toNat ≤ 3200) : exec (.powerCap w) s =
    .next (s.onPkg fun k => { k with
      cap := w.toNat
      pool := if k.lowering then min k.pool (1024 * w.toNat / 3200) else 1024 * w.toNat / 3200 }).wake := by
  rw [exec_powerCap, execPowerCap]
  exact congrArg State.event (if_neg (by simp; omega))

theorem powerCap_ignored {s : State} {w : BitVec 16} (h : w.toNat < 1200 ∨ 3200 < w.toNat) : exec (.powerCap w) s = .next s.wake := by
  rw [exec_powerCap, execPowerCap]
  exact congrArg State.event (if_pos (by simpa using h))

theorem low_iff (k : Package) (a : Nat) : (k.cap < a || (k.lowering && k.cap ≤ a) : Bool) = true ↔ k.cap < a ∨ k.lowering = true ∧ a = k.cap := by
  simp only [Bool.or_eq_true, decide_eq_true_eq, Bool.and_eq_true]
  constructor
  · rintro (h | ⟨hl, h⟩)
    · exact Or.inl h
    · obtain h | h := Nat.lt_or_eq_of_le h
      · exact Or.inl h
      · exact Or.inr ⟨hl, h.symm⟩
  · rintro (h | ⟨hl, h⟩)
    · exact Or.inl h
    · exact Or.inr ⟨hl, h.ge⟩

theorem budgetPeriod_step {s : State} (hdue : (s.pkg.budgetPeriods + 1) * 20000 ≤ s.now) :
    exec .budgetPeriod s = .next (s.onPkg fun k => { k with spent := [], noticed := [], budgetPeriods := s.now / 20000 }).wake := by
  rw [exec_budgetPeriod, execBudgetPeriod]
  exact congrArg State.event (if_neg (by omega))

theorem portFailure_step {s : State} {p : Nat} (hp : p ≤ 127) (hup : p ∉ s.pkg.portsDown) :
    exec (.portFailure p) s = .next ((s.onPkg fun k => { k with portsDown := k.portsDown ++ [p] }).log 0x44 0xFF p 0).wake := by
  rw [exec_portFailure, execPortFailure]
  refine congrArg State.event (if_neg ?_)
  simp [hup]
  omega

theorem failedFlit_step {s : State} {p : Nat} (hp : p ≤ 127) :
    exec (.failedFlit p) s = .next (s.onPkg fun k => { k with flitRepeats := k.flitRepeats + 1 }).wake := by
  rw [exec_failedFlit, execFailedFlit]
  exact congrArg State.event (if_neg (by omega))

theorem hostWritesRegisters : Says.HostWritesRegisters := by
  refine ⟨doorbell_spec, fun s fe v hfe halign => ⟨_, ringBase_write hfe halign, streamIs_onStream ..⟩,
    fun s fe v k hfe hidle hv h12 h26 => ⟨_, ringSize_write hfe hidle hv h12 h26, streamIs_onStream ..⟩,
    fun s off v hoff hlow hhigh => ⟨_, _, mailbox_write v hoff hlow hhigh, pkgIs_onPkg .., mailbox_bytes off v s.pkg.mailbox 8⟩,
    fun s fe off v hfe hoff hlow hhigh => ?_, fun s fe v hfe => ?_, fun s fe off v h => barWrite_ignored h, fun s fe v hfe hv => ?_, fun s fe hfe => ?_,
    fun s w => ⟨fun hlow hhigh => ⟨_, powerCap_taken hlow hhigh, pkgIs_onPkg ..⟩, powerCap_ignored⟩⟩
  · refine ⟨_, _, msixTable_write v hfe hoff hlow hhigh, streamIs_onStream .., fun j => write_table .., fun j hj => ?_⟩
    rw [write_masked _ _ _ hj, show (off - 0x10000) % 16 = off % 16 by omega]
  · obtain ⟨henabled, hmasked, htable, hpending⟩ := flushAll_spec { (s.lod fe).stream.msix with enabled := v.getLsbD 15 }
    refine ⟨_, _, msixControl_write v hfe, streamIs_onStream .., henabled, hmasked, htable, fun j hj => ?_⟩
    rw [hpending j hj, henabled, hmasked]
  · obtain ⟨henabled, -⟩ := setMask_frame (s.lod fe).stream.msix v false
    refine ⟨_, _, msixUnmask_step hfe hv, streamIs_onStream .., fun j hj => ?_, ?_, fun j hj => ?_⟩
    · rw [setMask_masked _ _ _ hj]
      by_cases hjv : j = v <;> simp [hjv]
    · rw [henabled, unmask_sent _ hv]
    · rw [henabled, unmask_pending _ hj]
  · refine ⟨_, resumed (s.lod fe).stream, statusResume_step s hfe, streamIs_onStream s fe resumed, ?_, ?_, resumed_item, fun hfailed => ?_⟩
    · cases h : (s.lod fe).stream.failed
      · rw [resumed_item h]; exact h
      · exact (resumed_failed h).1
    · cases h : (s.lod fe).stream.failed
      · rw [resumed_item h]
      · exact (resumed_failed h).2.1
    · obtain ⟨-, -, hcode, hskip, hhead⟩ := resumed_failed hfailed
      exact ⟨hcode, hskip, hhead⟩

theorem powerBudgetsAndPorts : Says.PowerBudgetsAndPorts := by
  refine ⟨fun s w a => ⟨_, _, rfl, low_iff s.pkg a, rfl⟩, fun s hdue => ⟨_, budgetPeriod_step hdue, pkgIs_onPkg ..⟩,
    fun s p hp hup => ⟨_, portFailure_step hp hup, logIs_log s (f := fun k => { k with portsDown := k.portsDown ++ [p] }) rfl 0x44 0xFF p 0⟩,
    fun s p hp => ⟨_, failedFlit_step hp, pkgIs_onPkg ..⟩⟩

/-- Settles O41: the registers that the host writes, and the package's power, budgets and ports. -/
theorem hostWritesAndPackage : Obligations.HostWritesAndPackage := ⟨hostWritesRegisters, powerBudgetsAndPorts⟩

end Sys2Proof.Proofs
end

section
/-! PROOFS. The front ends' state: streams, packets, and the addresses a front end reaches (R386, R387, R391, R393). -/

namespace Sys2Proof.Proofs

open Sys2Proof Sys2Proof.Machine Sys2Proof.Says

/-! ### Streams -/

theorem lod_onStream (s : State) (fe : Nat) (f : Stream → Stream) (j : Nat) :
    (s.onStream fe f).lod j = if j = fe then { s.lod fe with stream := f (s.lod fe).stream } else s.lod j :=
  lod_onLod s fe (fun l => { l with stream := f l.stream }) j

theorem stream_onStream (s : State) (fe : Nat) (f : Stream → Stream) : ((s.onStream fe f).lod fe).stream = f (s.lod fe).stream := by
  rw [lod_onStream, if_pos rfl]

/-- A field of every lodging that no stream holds. -/
theorem onStream_lodField {α : Type} (g : Lodging → α) (hg : ∀ l st, g { l with stream := st } = g l) (s : State) (fe : Nat) (f : Stream → Stream)
    (j : Nat) : g ((s.onStream fe f).lod j) = g (s.lod j) := by
  rw [lod_onStream]
  split
  · next h => rw [h, hg]
  · rfl

/-- A chain of changes of one stream. -/
theorem StreamIs.of_onStream {s t : State} {fe : Nat} {st : Stream} {f : Stream → Stream} (h : StreamIs s fe st t.wake) :
    StreamIs s fe (f st) (t.onStream fe f).wake := by
  obtain ⟨hstate, hlods⟩ := h
  refine ⟨congrArg (fun u : State => { u with lods := (t.onStream fe f).lods }) hstate, fun j => ?_⟩
  have hlod : ∀ k, t.lod k = if k = fe then { s.lod fe with stream := st } else s.lod k := hlods
  refine (lod_onStream t fe f j).trans ?_
  rw [hlod fe, if_pos rfl]
  split
  · rfl
  · next hj => rw [hlod j, if_neg hj]

theorem failStream_eq (s : State) (fe code skip : Nat) (packet : DWord) : s.failStream fe code skip packet =
    (s.onStream fe fun st => { st with
      failed := true, code := code, item := true, faultPacket := packet, skip := skip, blockedAt := none, noticed := false }).onStream fe
      fun st => { st with msix := raised st.msix 0 } := msix_eq ..

theorem stream_failStream (s : State) (fe code skip : Nat) (packet : DWord) : ((s.failStream fe code skip packet).lod fe).stream =
    { failed (s.lod fe).stream code skip packet with cur := (s.lod fe).stream.cur } := by
  rw [failStream_eq, stream_onStream, stream_onStream]
  rfl

theorem streamIs_failStream {s : State} {fe : Nat} (hcur : (s.lod fe).stream.cur = none) (code skip : Nat) (packet : DWord) :
    StreamIs s fe (failed (s.lod fe).stream code skip packet) (s.failStream fe code skip packet).wake := by
  rw [failStream_eq]
  have h := StreamIs.of_onStream (f := fun st => { st with msix := raised st.msix 0 }) (streamIs_onStream s fe fun st => { st with
      failed := true, code := code, item := true, faultPacket := packet, skip := skip, blockedAt := none, noticed := false })
  have hst : ({ (s.lod fe).stream with
      failed := true, code := code, item := true, faultPacket := packet, skip := skip, blockedAt := none, noticed := false, 
      msix := raised (s.lod fe).stream.msix 0 } : Stream) = failed (s.lod fe).stream code skip packet := by
    rw [failed, ← hcur]
  exact hst ▸ h

/-! ### Packets -/

theorem sfind_onPacket (s : State) (n : Nat) (f : Packet → Packet) (m : Nat) :
    sfind (s.onPacket n f).packets m = if m = n then (sfind s.packets n).map f else sfind s.packets m := by
  unfold State.onPacket
  split
  · next k hk =>
    by_cases h : m = n
    · rw [if_pos h, h, hk]; exact sfind_sput_same ..
    · rw [if_neg h]; exact sfind_sput_ne _ _ h
  · next hk =>
    by_cases h : m = n
    · rw [if_pos h, h, hk]; rfl
    · rw [if_neg h]

open Classical in
/-- A packet whose inner packets are gone is complete (R391). -/
noncomputable def settled (s : State) (n : Nat) (k : Packet) : Packet :=
  if k.stage = .closing ∧ ∀ c ∈ s.packets, c.2.parent ≠ some n then { k with stage := .complete } else k

theorem sfind_settlePackets (s : State) (n : Nat) : sfind s.settlePackets.packets n = (sfind s.packets n).map (settled s n) := by
  refine Eq.trans ?_ (sfind_map (settled s) s.packets n)
  refine congrArg (fun m => sfind m n) (List.map_congr_left fun e _ => ?_)
  unfold settled
  by_cases h : e.2.stage = .closing ∧ ∀ c ∈ s.packets, c.2.parent ≠ some e.1
  · rw [if_pos h, if_pos]
    simpa using h
  · rw [if_neg h, if_neg]
    simpa using h

/-- Settling changes no packet's parent. -/
theorem exists_parent_settlePackets (s : State) (n : Nat) :
    (∃ c ∈ s.settlePackets.packets, c.2.parent = some n) ↔ ∃ c ∈ s.packets, c.2.parent = some n := by
  have hparent : ∀ e : Nat × Packet, (if e.2.stage == .closing && !s.packets.any (fun c => c.2.parent == some e.1)
      then (e.1, { e.2 with stage := .complete }) else e).2.parent = e.2.parent := fun e => by split <;> rfl
  constructor
  · rintro ⟨c, hc, hn⟩
    obtain ⟨e, he, rfl⟩ := List.mem_map.1 hc
    exact ⟨e, he, (hparent e).symm.trans hn⟩
  · rintro ⟨e, he, hn⟩
    exact ⟨_, List.mem_map.2 ⟨e, he, rfl⟩, (hparent e).trans hn⟩

/-- A failure of the packet that has started (R393): the packet is gone, and the stream has failed. -/
theorem failCur_spec (s : State) (fe n : Nat) (k : Packet) (code bytes : Nat) : (s.failCur fe n k code bytes).packets = sdrop s.packets n ∧
    ((s.failCur fe n k code bytes).lod fe).stream = failed (s.lod fe).stream code bytes k.addr := by
  constructor
  · simp only [State.failCur, failStream_eq, onStream_packets]
  · unfold State.failCur
    dsimp only
    rw [stream_failStream, stream_onStream]
    rfl

theorem failCur_mem (s : State) (fe n : Nat) (k : Packet) (code bytes : Nat) : (s.failCur fe n k code bytes).mem = s.mem := by
  simp only [State.failCur, failStream_eq, onStream_mem]

theorem failCur_parties (s : State) (fe n : Nat) (k : Packet) (code bytes : Nat) : (s.failCur fe n k code bytes).parties = s.parties := by
  simp only [State.failCur, failStream_eq, onStream_parties]

/-! ### What a front end reaches -/

/-- `t` gives front end `fe` the addresses that `s` gives it. -/
structure SameReach (fe : Nat) (s t : State) : Prop where
  tables : SameTables fe s t
  desc : (t.lod fe).desc = (s.lod fe).desc
  pod : t.pkg.podPackages = s.pkg.podPackages
  absent : t.pkg.absentRemote = s.pkg.absentRemote

namespace SameReach

variable {fe : Nat} {s t u : State}

theorem refl (fe : Nat) (s : State) : SameReach fe s s := ⟨.refl fe s, rfl, rfl, rfl⟩

theorem trans (h : SameReach fe s t) (h' : SameReach fe t u) : SameReach fe s u :=
  ⟨h.tables.trans h'.tables, h'.desc.trans h.desc, h'.pod.trans h.pod, h'.absent.trans h.absent⟩

theorem onStream (fe : Nat) (s : State) (j : Nat) (f : Stream → Stream) : SameReach fe s (s.onStream j f) :=
  ⟨.onLod fe s j (fun _ => rfl) fun _ => rfl, onStream_lodField (·.desc) (fun _ _ => rfl) s j f fe, rfl, rfl⟩

theorem fePa (h : SameReach fe s t) (w : Bool) (c : AccClass) (va : DWord) : t.fePa fe w c va = s.fePa fe w c va := by
  have hunmapped : ∀ a, t.unmapped a = s.unmapped a := fun a => by
    simp only [State.unmapped, h.tables.number, h.tables.service, h.pod, h.absent]
  have hqb : (t.lod fe).qb = (s.lod fe).qb := by rw [Lodging.qb, h.desc]; rfl
  simp only [State.fePa, h.tables.reach, h.tables.pageKind, hunmapped, hqb]

theorem feRead (h : SameReach fe s t) (va : DWord) (n : Nat) : t.feRead fe va n = s.feRead fe va n := by
  induction n generalizing va with
  | zero => rfl
  | succ n ih => simp only [State.feRead, h.fePa, ih, h.tables.bytes]

theorem feWritable (h : SameReach fe s t) (va : DWord) (n : Nat) : t.feWritable fe va n = s.feWritable fe va n := by
  induction n generalizing va with
  | zero => rfl
  | succ n ih => simp only [State.feWritable, h.fePa, ih]

end SameReach

theorem loadN_bytesIn (s : State) (pa n : Nat) : s.loadN pa n = littleEndian ((bytesIn [(pa, n)]).map s.byteAt) := by
  rw [loadN_eq_littleEndian]
  exact congrArg (fun l => littleEndian (l.map s.byteAt)) (List.append_nil _).symm

end Sys2Proof.Proofs
end

section
/-! PROOFS. How packets start and depend (R307, R358, R386, R387, R390, R391, R393): O42. -/

namespace Sys2Proof.Proofs

open Sys2Proof Sys2Proof.Machine Sys2Proof.Says

/-! ### Fetching ahead -/

/-- `t` is `s` after units were fetched ahead for front end `fe`: what the stream holds fetched is the only change that a start sees. -/
structure Ahead (fe : Nat) (s t : State) : Prop where
  mem : t.mem = s.mem
  parties : t.parties = s.parties
  packets : t.packets = s.packets
  nextId : t.nextId = s.nextId
  reach : SameReach fe s t
  stream : ∃ b, (t.lod fe).stream = { (s.lod fe).stream with prefetched := b }

theorem Ahead.trans {fe : Nat} {s t u : State} (h : Ahead fe s t) (h' : Ahead fe t u) : Ahead fe s u := by
  obtain ⟨b, hb⟩ := h.stream
  obtain ⟨c, hc⟩ := h'.stream
  exact ⟨h'.mem.trans h.mem, h'.parties.trans h.parties, h'.packets.trans h.packets, h'.nextId.trans h.nextId, h.reach.trans h'.reach,
    c, by rw [hc, hb]⟩

theorem ahead_freeWord (fe : Nat) (s : State) : Ahead fe s s.freeWord.2 := ⟨rfl, rfl, rfl, rfl, ⟨⟨fun _ => rfl, rfl, rfl, rfl, rfl, rfl, rfl, rfl⟩, rfl, rfl, rfl⟩, _, rfl⟩

theorem ahead_fetchAhead (s : State) (fe : Nat) (a : DWord) : Ahead fe s (s.fetchAhead fe a) := by
  unfold State.fetchAhead
  split
  · exact ⟨rfl, rfl, rfl, rfl, .refl fe s, _, rfl⟩
  · split
    · exact ⟨rfl, rfl, rfl, rfl, .refl fe s, _, rfl⟩
    · exact ⟨rfl, rfl, rfl, rfl, .onStream .., _, stream_onStream ..⟩

theorem ahead_foldl (fe : Nat) (as : List DWord) (s : State) : Ahead fe s (as.foldl (fun (s : State) a => s.fetchAhead fe a) s) := by
  induction as generalizing s with
  | nil => exact ⟨rfl, rfl, rfl, rfl, .refl fe s, _, rfl⟩
  | cons a as ih => exact (ahead_fetchAhead s fe a).trans (ih _)

/-! ### The start of a packet (R386, R387) -/

/-- A front end that is free to start the packet at its place, outside every buffer and loop. -/
structure FreeAt (s : State) (fe : Nat) (h : List Byte) : Prop where
  running : (s.lod fe).st = .running
  unfailed : (s.lod fe).stream.failed = false
  free : (s.lod fe).stream.cur = none
  levels : (s.lod fe).stream.levels = []
  looping : (s.lod fe).stream.looping = none
  avail : (s.lod fe).stream.avail ≠ 0
  unit : s.unit fe ((s.lod fe).stream.unitAt 0) = some h

/-- The units of the packet at the place. -/
def packetUnits (st : Stream) (n : Nat) : List DWord := (List.range n).map fun i => st.unitAt (64 * i)

theorem inLoop_none {st : Stream} (h : st.looping = none) : st.inLoop = none := by rw [Stream.inLoop, h]

theorem exec_packetStart_free {s : State} {fe : Nat} {h : List Byte} (hfree : FreeAt s fe h) :
    exec (.packetStart fe) s = .next (s.startPacket fe).wake := by
  rw [exec_packetStart, execPacketStart]
  refine congrArg State.event ?_
  have hbusy : ¬ ((s.lod fe).st != .running || (s.lod fe).stream.failed || (s.lod fe).stream.cur.isSome) = true := by
    simp [hfree.running, hfree.unfailed, hfree.free]
  dsimp only
  rw [inLoop_none hfree.looping]
  exact (if_neg hbusy).trans (if_pos (by simpa using hfree.avail))

theorem startPacket_short {s : State} {fe : Nat} {h : List Byte} (hfree : FreeAt s fe h)
    (hshort : (s.lod fe).stream.avail < 64 * unitsOf (numOf h)) :
    StreamIs s fe (failed (s.lod fe).stream 0x02 (s.lod fe).stream.avail (s.lod fe).stream.place) (s.startPacket fe).wake := by
  have hstart : s.startPacket fe = s.failStart fe 0x02 (s.lod fe).stream.avail := by
    unfold State.startPacket
    dsimp only
    rw [hfree.unit]
    exact if_pos hshort
  rw [hstart]
  exact streamIs_failStream hfree.free ..

section Fetched

variable {s : State} {fe : Nat} {h bs : List Byte} (hfree : FreeAt s fe h) (hroom : ¬ (s.lod fe).stream.avail < 64 * unitsOf (numOf h))
  (hbs : s.units fe (packetUnits (s.lod fe).stream (unitsOf (numOf h))) = some bs)
include hfree hroom hbs

theorem startPacket_bad {c : Nat} (hcode : packetCode (numOf bs) = some c) :
    StreamIs s fe (failed (s.lod fe).stream c (64 * unitsOf (numOf h)) (s.lod fe).stream.place) (s.startPacket fe).wake := by
  rw [packetUnits] at hbs
  have hstart : s.startPacket fe = s.failStart fe c (64 * unitsOf (numOf h)) := by
    unfold State.startPacket
    dsimp only
    rw [hfree.unit]
    dsimp only
    rw [if_neg hroom, hbs]
    dsimp only
    rw [hcode]
  rw [hstart]
  exact streamIs_failStream hfree.free ..

/-- The packet as it stands once it is fetched. -/
def fetched (s : State) (fe : Nat) (bs : List Byte) : Packet := ⟨fe, (s.lod fe).stream.place, bs, .wait, none, none⟩

omit hfree hroom hbs in
/-- What the start of a packet leaves before its wait or its predicate. -/
structure FetchedIn (s : State) (fe : Nat) (bs : List Byte) (t : State) : Prop where
  mem : t.mem = s.mem
  parties : t.parties = s.parties
  packet : sfind t.packets s.nextId = some (fetched s fe bs)
  reach : SameReach fe s t
  stream : ∃ b, (t.lod fe).stream = { (s.lod fe).stream with prefetched := b, cur := some s.nextId }

theorem startPacket_fetched (hcode : packetCode (numOf bs) = none) : ∃ t, FetchedIn s fe bs t ∧
    s.startPacket fe = if (fetched s fe bs).flag 10 then t else t.started fe s.nextId (fetched s fe bs) := by
  rw [packetUnits] at hbs
  have hparent : (s.lod fe).stream.parent = none := by rw [Stream.parent, inLoop_none hfree.looping, hfree.levels]; rfl
  let ahead := (List.range (min (s.freeWord.1.toNat % 65) ((s.lod fe).stream.avail / 64 - unitsOf (numOf h)))).map fun i =>
    (s.lod fe).stream.unitAt (64 * (unitsOf (numOf h) + i))
  obtain ⟨hmem, hparties, hpackets, hid, hreach, b, hb⟩ :=
    (ahead_freeWord fe s).trans (ahead_foldl fe ahead s.freeWord.2)
  generalize hu : ahead.foldl (fun (s : State) a => s.fetchAhead fe a) s.freeWord.2 = u at hmem hparties hpackets hid hreach hb
  let w : State := { u.fresh.2 with packets := sput u.packets u.nextId (fetched s fe bs) }
  refine ⟨w.onStream fe fun st =>
    { st.forget (packetUnits (s.lod fe).stream (unitsOf (numOf h))) with cur := some u.nextId }, ⟨hmem, hparties, ?_, ?_, ?_⟩, ?_⟩
  · show sfind (sput u.packets u.nextId (fetched s fe bs)) s.nextId = _
    rw [hid]
    exact sfind_sput_same ..
  · have hsame : SameReach fe u w := ⟨⟨fun _ => rfl, rfl, rfl, rfl, rfl, rfl, rfl, rfl⟩, rfl, rfl, rfl⟩
    exact (hreach.trans hsame).trans (.onStream ..)
  · refine ⟨((u.lod fe).stream.forget (packetUnits (s.lod fe).stream (unitsOf (numOf h)))).prefetched, (stream_onStream ..).trans ?_⟩
    show { (u.lod fe).stream.forget _ with cur := some u.nextId } = _
    rw [hb, hid]
    rfl
  · unfold State.startPacket
    dsimp only
    rw [hfree.unit]
    dsimp only
    rw [if_neg hroom, hbs]
    dsimp only
    rw [hcode]
    dsimp only
    rw [hparent, hu, hid.symm]
    rfl

end Fetched

/-! ### The predicate (R387) -/

/-- The packet has started: its place is behind the front end, and its body comes or is skipped. -/
def startedAs (s : State) (fe n : Nat) (k : Packet) (body : Bool) : State :=
  (s.onPacket n fun q => { q with stage := if body then PktStage.body else PktStage.complete, waitReq := none }).onStream fe fun st =>
    { st.advance k.bytes.length with cur := if body then (st.advance k.bytes.length).cur else none, blockedAt := none, noticed := false }

theorem started_plain {k : Packet} (hflag : k.flag 12 = false) (s : State) (fe n : Nat) : s.started fe n k = startedAs s fe n k true := by
  simp only [State.started, startedAs, hflag, Bool.not_false, if_true]

theorem started_test {k : Packet} (hflag : k.flag 12 = true) {s : State} {fe pa : Nat} (hpa : s.fePa fe false .plain (k.dword 0x18) = some pa) (n : Nat) :
    s.started fe n k = startedAs s fe n k (k.test (littleEndian ((bytesIn [(pa, 8)]).map s.byteAt))) := by
  rw [← loadN_bytesIn s pa 8]
  simp only [State.started, startedAs, hflag, hpa, Bool.not_true, Bool.false_eq_true, if_false]

/-- A predicate that cannot be read fails the packet, and changes no byte and no party. -/
theorem started_unreached {k : Packet} (hflag : k.flag 12 = true) {s : State} {fe : Nat} (hpa : s.fePa fe false .plain (k.dword 0x18) = none) (n : Nat) :
    (s.started fe n k).mem = s.mem ∧ (s.started fe n k).parties = s.parties := by
  have hfail : s.started fe n k = s.failCur fe n k 0x03 k.bytes.length := by
    simp only [State.started, hflag, hpa, Bool.not_true, Bool.false_eq_true, if_false]
  rw [hfail]
  exact ⟨failCur_mem .., failCur_parties ..⟩

theorem advance_plain {st : Stream} (hlevels : st.levels = []) (hloop : st.looping = none) (n : Nat) :
    st.advance n = { st with head := (st.head + n) % st.ringSize } := by
  rw [Stream.advance, inLoop_none hloop]
  dsimp only
  rw [Stream.move, hlevels]

theorem startedAs_mem (s : State) (fe n : Nat) (k : Packet) (body : Bool) : (startedAs s fe n k body).mem = s.mem := onPacket_mem ..

theorem startedAs_parties (s : State) (fe n : Nat) (k : Packet) (body : Bool) : (startedAs s fe n k body).parties = s.parties := onPacket_parties ..

theorem sfind_startedAs (s : State) (fe n : Nat) (k : Packet) (body : Bool) : sfind (startedAs s fe n k body).packets n =
    (sfind s.packets n).map fun q => { q with stage := if body then PktStage.body else PktStage.complete, waitReq := none } :=
  (sfind_onPacket ..).trans (if_pos rfl)

theorem stream_startedAs (s : State) (fe n : Nat) (k : Packet) (body : Bool) : ((startedAs s fe n k body).lod fe).stream =
    { (s.lod fe).stream.advance k.bytes.length with
      cur := if body then ((s.lod fe).stream.advance k.bytes.length).cur else none, blockedAt := none, noticed := false } := by
  have hlod : ((s.onPacket n fun q => { q with stage := if body then PktStage.body else PktStage.complete, waitReq := none }).lod fe) = s.lod fe := by
    rw [State.lod, onPacket_lods]; rfl
  rw [startedAs, stream_onStream, hlod]

theorem advance_cur (st : Stream) (n : Nat) : (st.advance n).cur = st.cur := by
  unfold Stream.advance Stream.move
  split <;> dsimp only <;> split <;> rfl

theorem startPacket_spec {s : State} {fe : Nat} {h bs : List Byte} (hfree : FreeAt s fe h) (hroom : ¬ (s.lod fe).stream.avail < 64 * unitsOf (numOf h))
    (hbs : s.units fe (packetUnits (s.lod fe).stream (unitsOf (numOf h))) = some bs) (hcode : packetCode (numOf bs) = none) :
    let st := (s.lod fe).stream
    let k := fetched s fe bs
    let t := (s.startPacket fe).wake
    t.mem = s.mem ∧ t.parties = s.wake.parties ∧
      (k.flag 10 = true → sfind t.packets s.nextId = some k ∧ (t.lod fe).stream.cur = some s.nextId ∧ (t.lod fe).stream.head = st.head) ∧
      (k.flag 10 = false → k.flag 12 = false → sfind t.packets s.nextId = some { k with stage := .body } ∧
        (t.lod fe).stream.cur = some s.nextId ∧ (t.lod fe).stream.head = (st.head + bs.length) % st.ringSize) ∧
      (∀ pa, k.flag 10 = false → k.flag 12 = true → s.fePa fe false .plain (k.dword 0x18) = some pa →
        let go := k.test (littleEndian ((bytesIn [(pa, 8)]).map s.byteAt))
        sfind t.packets s.nextId = some { k with stage := if go then .body else .complete } ∧
        (t.lod fe).stream.cur = (if go then some s.nextId else none) ∧ (t.lod fe).stream.head = (st.head + bs.length) % st.ringSize) := by
  obtain ⟨u, ⟨hmem, hparties, hpacket, hreach, b, hb⟩, hstart⟩ := startPacket_fetched hfree hroom hbs hcode
  dsimp only
  rw [hstart]
  have hadvance : (u.lod fe).stream.advance bs.length =
      { (u.lod fe).stream with head := ((s.lod fe).stream.head + bs.length) % (s.lod fe).stream.ringSize } := by
    rw [advance_plain (by rw [hb]; exact hfree.levels) (by rw [hb]; exact hfree.looping), hb]
  have hgo : ∀ body, let t := (startedAs u fe s.nextId (fetched s fe bs) body).wake
      sfind t.packets s.nextId = some { fetched s fe bs with stage := if body then .body else .complete } ∧
      (t.lod fe).stream.cur = (if body then some s.nextId else none) ∧
      (t.lod fe).stream.head = ((s.lod fe).stream.head + bs.length) % (s.lod fe).stream.ringSize := fun body => by
    refine ⟨(sfind_startedAs u fe s.nextId (fetched s fe bs) body).trans (by rw [hpacket]; rfl), ?_, ?_⟩
    · refine (congrArg Stream.cur (stream_startedAs ..)).trans ?_
      dsimp only
      rw [advance_cur, hb]
    · refine (congrArg Stream.head (stream_startedAs ..)).trans ?_
      exact congrArg Stream.head hadvance
  have hparties' : ∀ body, (startedAs u fe s.nextId (fetched s fe bs) body).wake.parties = s.wake.parties := fun body =>
    congrArg (List.map _) ((startedAs_parties ..).trans hparties)
  by_cases hwait : (fetched s fe bs).flag 10 = true
  · rw [if_pos hwait]
    exact ⟨hmem, congrArg (List.map _) hparties, fun _ => ⟨hpacket, (congrArg Stream.cur hb : (u.lod fe).stream.cur = _), (congrArg Stream.head hb : (u.lod fe).stream.head = _)⟩,
      fun hno => absurd hwait (by simp [hno]), fun _ hno => absurd hwait (by simp [hno])⟩
  · rw [if_neg hwait]
    by_cases htest : (fetched s fe bs).flag 12 = true
    · cases hpa : u.fePa fe false .plain ((fetched s fe bs).dword 0x18) with
      | none =>
        obtain ⟨hmem', hparties''⟩ := started_unreached htest hpa s.nextId
        exact ⟨hmem'.trans hmem, congrArg (List.map _) (hparties''.trans hparties), fun hno => absurd hno hwait,
          fun _ hno => absurd htest (by simp [hno]), fun pa' _ _ hpa' => by rw [← hreach.fePa, hpa] at hpa'; cases hpa'⟩
      | some pa =>
        rw [started_test htest hpa]
        refine ⟨(startedAs_mem u fe s.nextId (fetched s fe bs) _).trans hmem, hparties' _, fun hno => absurd hno hwait, fun _ hno => absurd htest (by simp [hno]), fun pa' _ _ hpa' => ?_⟩
        have he : pa' = pa := Option.some.inj (hpa'.symm.trans ((hreach.fePa ..).symm.trans hpa))
        subst he
        have hbytes : (bytesIn [(pa', 8)]).map u.byteAt = (bytesIn [(pa', 8)]).map s.byteAt :=
          List.map_congr_left fun a _ => byteAt_of_mem hmem a
        rw [hbytes]
        exact hgo _
    · have hplain : (fetched s fe bs).flag 12 = false := by simpa using htest
      rw [started_plain hplain]
      exact ⟨(startedAs_mem u fe s.nextId (fetched s fe bs) true).trans hmem, hparties' _, fun hno => absurd hno hwait, fun _ _ => hgo true, fun _ _ hno => absurd hno htest⟩

/-! ### The end of a buffer and of a pass (R391) -/

theorem exec_packetStart_bufferEnd {s : State} {fe : Nat} {l : StreamLevel} {ls : List StreamLevel} (hrun : (s.lod fe).st = .running)
    (hok : (s.lod fe).stream.failed = false) (hcur : (s.lod fe).stream.cur = none) (hlevels : (s.lod fe).stream.levels = l :: ls)
    (hloop : (s.lod fe).stream.looping = none) (hend : l.next = l.limit) : exec (.packetStart fe) s =
      .next (((s.onStream fe fun st => { st with levels := ls }).onPacket l.packet fun k => { k with stage := .closing }).settlePackets).wake := by
  rw [exec_packetStart, execPacketStart]
  refine congrArg State.event ?_
  have hbusy : ¬ ((s.lod fe).st != .running || (s.lod fe).stream.failed || (s.lod fe).stream.cur.isSome) = true := by simp [hrun, hok, hcur]
  have havail : ¬ ((s.lod fe).stream.avail != 0) = true := by
    rw [Stream.avail, hlevels]
    simp [hend]
  dsimp only
  rw [inLoop_none hloop]
  refine (if_neg hbusy).trans ((if_neg havail).trans ?_)
  rw [hlevels]

theorem bufferEnd_spec {s : State} {fe : Nat} {l : StreamLevel} (ls : List StreamLevel) {k : Packet} (hk : sfind s.packets l.packet = some k) :
    let t := (((s.onStream fe fun st => { st with levels := ls }).onPacket l.packet fun k => { k with stage := .closing }).settlePackets).wake
    (t.lod fe).stream = { (s.lod fe).stream with levels := ls } ∧ t.mem = s.mem ∧
      sfind t.packets l.packet = some { k with stage := if (∃ c ∈ t.packets, c.2.parent = some l.packet) then .closing else .complete } := by
  dsimp only
  let u := (s.onStream fe fun st => { st with levels := ls }).onPacket l.packet fun k => { k with stage := .closing }
  have hu : sfind u.packets l.packet = some { k with stage := .closing } := by
    refine (sfind_onPacket ..).trans ((if_pos rfl).trans ?_)
    rw [show sfind (s.onStream fe fun st => { st with levels := ls }).packets l.packet = some k from hk]
    rfl
  have hlods : u.lods = (s.onStream fe fun st => { st with levels := ls }).lods := onPacket_lods ..
  refine ⟨?_, (onPacket_mem .. : u.mem = _), ?_⟩
  · exact (congrArg (fun ls => (sget Lodging.reset ls fe).stream) hlods).trans (stream_onStream ..)
  · refine (sfind_settlePackets u l.packet).trans ?_
    rw [hu]
    have hparents : (∃ c ∈ u.settlePackets.wake.packets, c.2.parent = some l.packet) ↔ ∃ c ∈ u.packets, c.2.parent = some l.packet :=
      exists_parent_settlePackets u l.packet
    refine congrArg some ?_
    unfold settled
    by_cases hnone : ∀ c ∈ u.packets, c.2.parent ≠ some l.packet
    · have hno : ¬ ∃ c ∈ u.settlePackets.wake.packets, c.2.parent = some l.packet := fun h => by
        obtain ⟨c, hc, hp⟩ := hparents.1 h
        exact hnone c hc hp
      rw [if_pos ⟨rfl, hnone⟩, if_neg hno]
    · have hsome : ∃ c ∈ u.settlePackets.wake.packets, c.2.parent = some l.packet := hparents.2 (by simpa using hnone)
      rw [if_neg fun h => hnone h.2, if_pos hsome]

theorem exec_packetStart_passEnd {s : State} {fe : Nat} {l : StreamLoop} (hrun : (s.lod fe).st = .running)
    (hok : (s.lod fe).stream.failed = false) (hcur : (s.lod fe).stream.cur = none) (hlevels : (s.lod fe).stream.levels = [])
    (hloop : (s.lod fe).stream.looping = some l) (hdepth : l.depth = 0) (hleft : l.left = 0) :
    exec (.packetStart fe) s = .next (s.nextPass fe l).wake := by
  rw [exec_packetStart, execPacketStart]
  refine congrArg State.event ?_
  have hbusy : ¬ ((s.lod fe).st != .running || (s.lod fe).stream.failed || (s.lod fe).stream.cur.isSome) = true := by simp [hrun, hok, hcur]
  have hin : (s.lod fe).stream.inLoop = some l := by
    rw [Stream.inLoop, hloop, hlevels]
    exact if_pos hdepth
  dsimp only
  rw [hin]
  exact (if_neg hbusy).trans (if_pos hleft)

theorem nextPass_spec {s : State} {fe : Nat} {l : StreamLoop} (hlevels : (s.lod fe).stream.levels = []) :
    (s.nextPass fe l).wake.mem = s.mem ∧
      (1 < l.passes → StreamIs s fe { (s.lod fe).stream with
        head := (l.first - (s.lod fe).stream.ringBase).toNat
        looping := some { l with left := l.bodyLen, passes := l.passes - 1 } } (s.nextPass fe l).wake) ∧
      (l.passes ≤ 1 → ((s.nextPass fe l).wake.lod fe).stream = { (s.lod fe).stream with looping := none }) := by
  unfold State.nextPass
  by_cases hp : 1 < l.passes
  · rw [if_pos hp]
    refine ⟨rfl, fun _ => ?_, fun hle => absurd hp (by omega)⟩
    have hjump : (s.lod fe).stream.jump l.first = { (s.lod fe).stream with head := (l.first - (s.lod fe).stream.ringBase).toNat } := by
      simp only [Stream.jump, hlevels]
    have h := streamIs_onStream s fe fun st => { st.jump l.first with looping := some { l with left := l.bodyLen, passes := l.passes - 1 } }
    dsimp only at h
    rw [hjump] at h
    exact h
  · rw [if_neg hp]
    refine ⟨(onPacket_mem ..).trans rfl, fun hlt => absurd hlt hp, fun _ => ?_⟩
    have hlods : ((s.onStream fe fun st => { st with looping := none }).onPacket l.packet fun k => { k with stage := .closing }).lods =
        (s.onStream fe fun st => { st with looping := none }).lods := onPacket_lods ..
    exact (congrArg (fun ls => (sget Lodging.reset ls fe).stream) hlods).trans (stream_onStream ..)

theorem packetsStart : Says.PacketsStart := by
  refine ⟨fun s fe h st hst hrun hok hcur hlevels hloop havail hunit => ?_, fun s fe l ls k hrun hok hcur hlevels hloop hend hk => ?_,
    fun s fe l hrun hok hcur hlevels hloop hdepth hleft => ?_⟩
  · subst hst
    have hfree : FreeAt s fe h := ⟨hrun, hok, hcur, hlevels, hloop, havail, hunit⟩
    refine ⟨_, exec_packetStart_free hfree, startPacket_short hfree, fun hroom bs hbs => ?_⟩
    have hroom' : ¬ (s.lod fe).stream.avail < 64 * unitsOf (numOf h) := by omega
    exact ⟨fun c hcode => startPacket_bad hfree hroom' hbs hcode, fun hcode => startPacket_spec hfree hroom' hbs hcode⟩
  · exact ⟨_, exec_packetStart_bufferEnd hrun hok hcur hlevels hloop hend, bufferEnd_spec ls hk⟩
  · exact ⟨_, exec_packetStart_passEnd hrun hok hcur hlevels hloop hdepth hleft, nextPass_spec hlevels⟩

/-! ### Waiting (R307, R390) -/

/-- A packet of a running, unfailed stream stands at its wait. -/
structure AtWait (s : State) (fe n : Nat) (k : Packet) : Prop where
  cur : (s.lod fe).stream.cur = some n
  packet : sfind s.packets n = some k
  stage : k.stage = .wait
  running : (s.lod fe).st = .running
  unfailed : (s.lod fe).stream.failed = false

theorem AtWait.goes {s : State} {fe n : Nat} {k : Packet} (h : AtWait s fe n k) :
    ¬ (k.stage != .wait || (s.lod fe).st != .running || (s.lod fe).stream.failed) = true := by
  simp [h.stage, h.running, h.unfailed]

/-- A packet without a predicate starts once its wait is over. -/
theorem startedAs_waited {s t : State} {fe n : Nat} {k : Packet} (h : AtWait s fe n k) (hpackets : t.packets = s.packets) (hlods : t.lods = s.lods) :
    let u := (startedAs t fe n k true).wake
    sfind u.packets n = some { k with stage := .body, waitReq := none } ∧ (u.lod fe).stream.cur = some n ∧ (u.lod fe).stream.blockedAt = none ∧
      ((s.lod fe).stream.levels = [] → (s.lod fe).stream.looping = none →
        (u.lod fe).stream.head = ((s.lod fe).stream.head + k.bytes.length) % (s.lod fe).stream.ringSize) := by
  have hlod : t.lod fe = s.lod fe := congrArg (fun m => sget Lodging.reset m fe) hlods
  have hstream : ((startedAs t fe n k true).wake.lod fe).stream = _ := stream_startedAs t fe n k true
  rw [hlod] at hstream
  refine ⟨(sfind_startedAs t fe n k true).trans (by rw [hpackets, h.packet]; rfl), ?_, ?_, fun hlevels hloop => ?_⟩
  · rw [hstream]
    exact (advance_cur ..).trans h.cur
  · rw [hstream]
  · rw [hstream, advance_plain hlevels hloop]

theorem packetWait_full {s : State} {fe n pa : Nat} {k : Packet} (h : AtWait s fe n k) (hnew : k.waitReq = none)
    (hpa : s.fePa fe true .mailbox (k.dword 0x08) = some pa) (hfull : s.isFull pa = true) (hflag : k.flag 12 = false) :
    exec (.packetWait fe) s = .next (startedAs (s.setFull pa false) fe n k true).wake := by
  rw [← started_plain hflag, exec_packetWait, execPacketWait]
  refine congrArg State.event ?_
  rw [h.cur]
  dsimp only
  rw [h.packet]
  dsimp only
  rw [hnew]
  dsimp only
  rw [hpa]
  exact (if_neg h.goes).trans (if_pos hfull)

/-- The front end's packet takes its place in the FIFO of its wait word. -/
def blockedOn (s : State) (fe n pa : Nat) (k : Packet) : State :=
  (({ s.fresh.2 with reqs := sput s.reqs s.nextId (feReq fe (k.dword 0x08) pa .mbxLd s.now) }).onPacket n fun q =>
    { q with waitReq := some s.nextId }).onStream fe fun st => { st with blockedAt := some s.now }

theorem packetWait_empty {s : State} {fe n pa : Nat} {k : Packet} (h : AtWait s fe n k) (hnew : k.waitReq = none)
    (hpa : s.fePa fe true .mailbox (k.dword 0x08) = some pa) (hempty : s.isFull pa = false) :
    exec (.packetWait fe) s = .next (blockedOn s fe n pa k).wake := by
  rw [exec_packetWait, execPacketWait]
  refine congrArg State.event ?_
  rw [h.cur]
  dsimp only
  rw [h.packet]
  dsimp only
  rw [hnew]
  dsimp only
  rw [hpa]
  exact (if_neg h.goes).trans (if_neg (by simp [hempty]))

theorem blockedOn_spec {s : State} {fe n pa : Nat} {k : Packet} (hk : sfind s.packets n = some k) :
    let t := (blockedOn s fe n pa k).wake
    t.mem = s.mem ∧ sfind t.reqs s.nextId = some (feReq fe (k.dword 0x08) pa .mbxLd s.now) ∧
      sfind t.packets n = some { k with waitReq := some s.nextId } ∧
      StreamIs { s with packets := t.packets, reqs := t.reqs, nextId := t.nextId } fe { (s.lod fe).stream with blockedAt := some s.now } t := by
  let w : State := { s.fresh.2 with reqs := sput s.reqs s.nextId (feReq fe (k.dword 0x08) pa .mbxLd s.now) }
  have hpackets : sfind (w.onPacket n fun q => { q with waitReq := some s.nextId }).packets n = some { k with waitReq := some s.nextId } := by
    refine (sfind_onPacket ..).trans ((if_pos rfl).trans ?_)
    rw [show sfind w.packets n = some k from hk]
    rfl
  have hon : w.onPacket n (fun q => { q with waitReq := some s.nextId }) =
      { w with packets := (w.onPacket n fun q => { q with waitReq := some s.nextId }).packets } := by
    unfold State.onPacket
    split <;> rfl
  generalize (w.onPacket n fun q => { q with waitReq := some s.nextId }).packets = ps at hpackets hon
  have hblocked : blockedOn s fe n pa k = ({ w with packets := ps }).onStream fe fun st => { st with blockedAt := some s.now } := by
    rw [← hon]
    rfl
  rw [hblocked]
  exact ⟨rfl, sfind_sput_same .., hpackets, streamIs_onStream { w with packets := ps } fe fun st => { st with blockedAt := some s.now }⟩

theorem packetWait_answered {s : State} {fe n r v : Nat} {k : Packet} {q : Req} (h : AtWait s fe n k) (hreq : k.waitReq = some r)
    (hq : sfind s.reqs r = some q) (hphase : q.phase = .reply v) (hflag : k.flag 12 = false) :
    exec (.packetWait fe) s = .next (startedAs (s.dropReq r) fe n k true).wake := by
  rw [← started_plain hflag, exec_packetWait, execPacketWait]
  refine congrArg State.event ?_
  rw [h.cur]
  dsimp only
  rw [h.packet]
  dsimp only
  rw [hreq]
  dsimp only
  rw [hq]
  dsimp only
  rw [hphase]
  exact if_neg h.goes

theorem startedAs_reqs (s : State) (fe n : Nat) (k : Packet) (body : Bool) : (startedAs s fe n k body).reqs = s.reqs := onPacket_reqs ..

/-! ### Signals (R358, R384, R387, R390) -/

theorem blockedOnDependence_spec {s : State} {fe since : Nat} (hsince : (s.lod fe).stream.blockedAt = some since) (hlong : since + 2000000 ≤ s.now)
    (hnew : (s.lod fe).stream.noticed = false) : ∃ t, exec (.blockedOnDependence fe) s = .next t ∧
      StreamIs s fe { (s.lod fe).stream with noticed := true, msix := raised (s.lod fe).stream.msix 2 } t := by
  refine ⟨((s.onStream fe fun st => { st with noticed := true }).msix fe 2).wake, ?_, ?_⟩
  · rw [exec_blockedOnDependence, execBlockedOnDependence]
    refine congrArg State.event ?_
    rw [hsince]
    refine if_neg ?_
    simp [hnew]
    omega
  · rw [msix_eq]
    exact StreamIs.of_onStream (streamIs_onStream s fe fun st => { st with noticed := true })

theorem finishPacket_frame (s : State) (n : Nat) (k : Packet) : (s.finishPacket n k).mem = s.mem ∧ (s.finishPacket n k).reqs = s.reqs ∧
    (s.finishPacket n k).parties = s.parties ∧ (s.finishPacket n k).tags = s.tags ∧ sfind (s.finishPacket n k).packets n = none ∧
    (s.finishPacket n k).pkg = { s.pkg with checkpoint := s.pkg.checkpoint + 1 } ∧
    ((s.finishPacket n k).lod k.fe).stream.msix = if k.flag 15 then raised (s.lod k.fe).stream.msix 1 else (s.lod k.fe).stream.msix := by
  let u := ({ s with packets := sdrop s.packets n }).onPkg fun p => { p with checkpoint := p.checkpoint + 1 }
  have hgone : ∀ v : State, v.packets = u.packets → sfind v.settlePackets.packets n = none := fun v hv => by
    rw [sfind_settlePackets, hv, show sfind u.packets n = none from sfind_sdrop_same ..]
    rfl
  have hfinish : s.finishPacket n k = (if k.flag 15 then u.onStream k.fe fun st => { st with msix := raised st.msix 1 } else u).settlePackets := by
    rw [← msix_eq]
    rfl
  rw [hfinish]
  cases k.flag 15 with
  | true =>
    rw [if_pos rfl, if_pos rfl]
    exact ⟨rfl, rfl, rfl, rfl, hgone _ rfl, rfl, congrArg Stream.msix (stream_onStream u k.fe fun st => { st with msix := raised st.msix 1 })⟩
  | false =>
    rw [if_neg (by decide), if_neg (by decide)]
    exact ⟨rfl, rfl, rfl, rfl, hgone _ rfl, rfl, rfl⟩

theorem packetSignal_plain {s : State} {n : Nat} {k : Packet} (hk : sfind s.packets n = some k) (hstage : k.stage = .complete)
    (hflag : k.flag 11 = false) : exec (.packetSignal n) s = .next (s.finishPacket n k).wake := by
  rw [exec_packetSignal, execPacketSignal]
  refine congrArg State.event ?_
  rw [hk]
  exact (if_neg (by simp [hstage])).trans (if_pos (by simp [hflag]))

theorem packetSignal_fills {s : State} {n pa : Nat} {k : Packet} (hk : sfind s.packets n = some k) (hstage : k.stage = .complete)
    (hflag : k.flag 11 = true) (hnew : k.waitReq = none) (hpa : s.fePa k.fe true .mailbox (k.dword 0x10) = some pa) (hempty : s.isFull pa = false)
    (hfirst : s.oldestSt pa = none) : exec (.packetSignal n) s = .next ((s.fill pa (k.field 0x28 8)).finishPacket n k).wake := by
  rw [exec_packetSignal, execPacketSignal]
  refine congrArg State.event ?_
  rw [hk]
  refine (if_neg (by simp [hstage])).trans ((if_neg (by simp [hflag])).trans ?_)
  rw [hpa]
  dsimp only
  rw [hfirst, hnew]
  exact if_pos (by simp [hempty])

theorem dword_toNat (k : Packet) (off : Nat) : (k.dword off).toNat = k.field off 8 := by
  rw [Packet.dword, BitVec.toNat_ofNat]
  exact Nat.mod_eq_of_lt (Nat.mod_lt _ (by decide))

theorem answered_finishPacket (s : State) (n : Nat) (k : Packet) : Answered 0 s (s.finishPacket n k).wake := by
  obtain ⟨hmem, hreqs, hparties, htags, -, -, -⟩ := finishPacket_frame s n k
  refine ⟨hmem, htags, .of_eq hreqs, fun q x _ hx => ⟨{ x with hold := false }, ?_, rfl⟩⟩
  have hq : (s.finishPacket n k).party? q = some x := by rw [State.party?, hparties]; exact hx
  rw [wake_party?, hq]
  rfl

theorem packetDependences : Says.PacketDependences := by
  refine ⟨fun s fe n k pa hcur hk hstage hnew hrun hok hpa => ?_, fun s fe n k r q v hcur hk hstage hreq hrun hok hq hphase hflag => ?_,
    fun s fe since hsince hlong hnew => blockedOnDependence_spec hsince hlong hnew, fun s n k hk hstage hflag => ?_,
    fun s n k pa hk hstage hflag hnew hpa hempty hfirst hunwatched => ?_⟩
  · have hat : AtWait s fe n k := ⟨hcur, hk, hstage, hrun, hok⟩
    refine ⟨fun hfull hflag => ?_, fun hempty => ?_⟩
    · obtain ⟨hpacket, hcur', -, hhead⟩ := startedAs_waited (t := s.setFull pa false) hat rfl rfl
      have hmem : (startedAs (s.setFull pa false) fe n k true).wake.mem = (s.setFull pa false).mem := startedAs_mem (s.setFull pa false) fe n k true
      refine ⟨_, packetWait_full hat hnew hpa hfull hflag, (isFull_of_mem hmem pa).trans (setFull_isFull ..), fun a => byteAt_of_mem (s := s.setFull pa false) hmem a, ?_, hcur', hhead⟩
      exact hpacket.trans (congrArg (fun w => some { k with stage := .body, waitReq := w }) hnew.symm)
    · obtain ⟨hmem, hr, hpacket, hstream⟩ := blockedOn_spec (fe := fe) (pa := pa) hk
      exact ⟨_, _, packetWait_empty hat hnew hpa hempty, hmem, hr, rfl, rfl, rfl, rfl, hpacket, hstream⟩
  · have hat : AtWait s fe n k := ⟨hcur, hk, hstage, hrun, hok⟩
    obtain ⟨hpacket, -, hblocked, -⟩ := startedAs_waited (t := s.dropReq r) hat rfl rfl
    refine ⟨_, packetWait_answered hat hreq hq hphase hflag, startedAs_mem (s.dropReq r) fe n k true, ?_, hpacket, hblocked⟩
    exact (congrArg (fun m => sfind m r) (startedAs_reqs (s.dropReq r) fe n k true)).trans (sfind_sdrop_same ..)
  · obtain ⟨hmem, -, -, -, hgone, hpkg, hmsix⟩ := finishPacket_frame s n k
    exact ⟨_, packetSignal_plain hk hstage hflag, hgone, hmem, hpkg, hmsix⟩
  · obtain ⟨-, -, -, -, hgone, -, -⟩ := finishPacket_frame (s.fill pa (k.field 0x28 8)) n k
    refine ⟨_, packetSignal_fills hk hstage hflag hnew hpa hempty hfirst, hgone, fills_fill hunwatched ?_⟩
    rw [dword_toNat]
    exact answered_finishPacket ..

/-- Settles O42: the start of a packet clause by clause (its end before the valid packets, its code, its wait, its predicate), the ends of
buffers and passes, and the waits and signals as moves of mailbox words. -/
theorem packetsStartAndDepend : Obligations.PacketsStartAndDepend := ⟨packetsStart, packetDependences⟩

end Sys2Proof.Proofs
end

section
/-! PROOFS. What the bodies of packets do (R184, R334, R345, R363, R365, R366, R388 to R392, R397): O43. -/

namespace Sys2Proof.Proofs

open Sys2Proof Sys2Proof.Machine Sys2Proof.Says

/-! ### Performing a body -/

/-- A body that was performed: the packet is complete or its work runs on, and the front end is free. -/
def bodyEnd (t : State) (fe n : Nat) (done : Bool) : State :=
  (t.onPacket n fun q => { q with stage := if done then PktStage.complete else PktStage.running }).onStream fe fun st => { st with cur := none }

section Bodies

variable {s t : State} {fe n op : Nat} {k : Packet} {go : Nat → Packet → Except Nat (State × Bool)}

theorem atBody_performs (h : AtBody s fe n op k) {done : Bool} (hgo : go n k = .ok (t, done)) : s.body fe op go = .next (bodyEnd t fe n done).wake := by
  obtain ⟨hrun, hcur, hpacket, hstage, hop, -⟩ := h
  rw [State.body]
  refine congrArg State.event ?_
  rw [hcur]
  dsimp only
  rw [hpacket]
  dsimp only
  rw [hgo]
  exact if_neg (by simp [hstage, hop, hrun])

theorem atBody_fails (h : AtBody s fe n op k) {c : Nat} (hgo : go n k = .error c) : s.body fe op go = .next (s.failCur fe n k c 0).wake := by
  obtain ⟨hrun, hcur, hpacket, hstage, hop, -⟩ := h
  rw [State.body]
  refine congrArg State.event ?_
  rw [hcur]
  dsimp only
  rw [hpacket]
  dsimp only
  rw [hgo]
  exact if_neg (by simp [hstage, hop, hrun])

theorem atBody_packet (h : AtBody s fe n op k) : sfind s.packets n = some k := h.2.2.1

theorem bodyFails_failCur (s : State) (fe n : Nat) (k : Packet) (c : Nat) : BodyFails s fe n k c (s.failCur fe n k c 0).wake := by
  obtain ⟨hpackets, hstream⟩ := failCur_spec s fe n k c 0
  refine ⟨?_, hstream, fun a => ?_⟩
  · exact (congrArg (fun m => sfind m n) hpackets).trans (sfind_sdrop_same ..)
  · exact byteAt_of_mem (t := (s.failCur fe n k c 0).wake) (failCur_mem s fe n k c 0) a

theorem lod_bodyEnd (t : State) (fe n : Nat) (done : Bool) :
    (bodyEnd t fe n done).wake.lod fe = { t.lod fe with stream := { (t.lod fe).stream with cur := none } } := by
  have hlod : (t.onPacket n fun q => { q with stage := if done then PktStage.complete else PktStage.running }).lod fe = t.lod fe := by
    rw [State.lod, onPacket_lods]
    rfl
  rw [← hlod]
  exact (lod_onStream _ fe (fun st => { st with cur := none }) fe).trans (if_pos rfl)

theorem bodyDone_bodyEnd (h : AtBody s fe n op k) (hpackets : t.packets = s.packets) (done : Bool) : BodyDone fe n k done (bodyEnd t fe n done).wake := by
  refine ⟨(sfind_onPacket t n _ n).trans ?_, congrArg (fun l : Lodging => l.stream.cur) (lod_bodyEnd t fe n done)⟩
  rw [if_pos rfl, hpackets, atBody_packet h]
  rfl

theorem bodyEnd_mem (t : State) (fe n : Nat) (done : Bool) : (bodyEnd t fe n done).wake.mem = t.mem := onPacket_mem ..

theorem bodyEnd_nextState (t : State) (fe n : Nat) (done : Bool) : (bodyEnd t fe n done).wake.invals = t.invals ∧
    (bodyEnd t fe n done).wake.colls = t.colls ∧ (bodyEnd t fe n done).wake.msgsOut = t.msgsOut :=
  ⟨onPacket_invals .., onPacket_colls .., onPacket_msgsOut ..⟩

end Bodies

/-! ### Writing a range (R388) -/

theorem mem_storeN_frame (m : Mem) (a v n : Nat) : m.storeN a v n = { m with bytes := (m.storeN a v n).bytes } := by
  induction n generalizing m a v with
  | zero => rfl
  | succ n ih =>
    rw [storeN_bytes_succ, ih]
    rfl

theorem cover_frame (m : Mem) (a n : Nat) : m.cover a n = { m with poison := (m.cover a n).poison, badTag := (m.cover a n).badTag } := by
  unfold Mem.cover
  dsimp only
  split
  · rfl
  · split <;> rfl

/-- A store changes bytes, marks of errors and the cellar, and nothing else of memory. -/
theorem storeN_mem (s : State) (a v n : Nat) : ∃ bs p b c, (s.storeN a v n).mem = { s.mem with bytes := bs, poison := p, badTag := b, cellar := c } := by
  unfold State.storeN
  dsimp only
  rw [cover_frame, mem_storeN_frame]
  exact ⟨_, _, _, _, rfl⟩

theorem storeN_owner (s : State) (a v n : Nat) : (s.storeN a v n).mem.owner = s.mem.owner := by
  obtain ⟨_, _, _, _, h⟩ := storeN_mem s a v n
  rw [h]

theorem storeN_windows (s : State) (a v n : Nat) : (s.storeN a v n).mem.windows = s.mem.windows := by
  obtain ⟨_, _, _, _, h⟩ := storeN_mem s a v n
  rw [h]

theorem storeN_host (s : State) (a v n : Nat) : (s.storeN a v n).mem.host = s.mem.host := by
  obtain ⟨_, _, _, _, h⟩ := storeN_mem s a v n
  rw [h]

theorem storeN_regions (s : State) (a v n : Nat) : (s.storeN a v n).mem.regions = s.mem.regions := by
  obtain ⟨_, _, _, _, h⟩ := storeN_mem s a v n
  rw [h]

/-- `u` differs from `s` in no table, and in no byte but those that front end `fe` writes at a range. -/
structure Along (s : State) (fe : Nat) (va : DWord) (n : Nat) (u : State) : Prop where
  lods : u.lods = s.lods
  quads : u.quads = s.quads
  pkg : u.pkg = s.pkg
  owner : u.mem.owner = s.mem.owner
  windows : u.mem.windows = s.mem.windows
  bytes : ∀ a, (∀ i < n, s.fePa fe true .plain (va + BitVec.ofNat 64 i) ≠ some a) → u.byteAt a = s.byteAt a

theorem Along.reaches {s u : State} {fe : Nat} {va : DWord} {n : Nat} (h : Along s fe va n u) {word : Option DWord} (hstand : TablesStand s fe va n word) :
    (∀ i < n, u.fePa fe true .plain (va + BitVec.ofNat 64 i) = s.fePa fe true .plain (va + BitVec.ofNat 64 i)) ∧
      ∀ w, word = some w → u.fePa fe true .mailbox w = s.fePa fe true .mailbox w :=
  hstand u (fun j => by rw [State.lod, h.lods]; exact ⟨rfl, rfl, rfl⟩) h.quads (by rw [h.pkg]) (by rw [h.pkg]) (by rw [h.pkg]) (by rw [h.pkg]) h.owner
    h.windows h.bytes

theorem Along.storeN {s u : State} {fe : Nat} {va : DWord} {n : Nat} (h : Along s fe va n u) {i pa : Nat} (hi : i < n)
    (hpa : s.fePa fe true .plain (va + BitVec.ofNat 64 i) = some pa) (v : Nat) : Along s fe va n (u.storeN pa v 1) := by
  refine ⟨h.lods, h.quads, h.pkg, (storeN_owner ..).trans h.owner, (storeN_windows ..).trans h.windows, fun a ha => ?_⟩
  have hne : a ≠ pa := fun he => ha i hi (he ▸ hpa)
  rw [storeN_byteAt_ne u (by omega)]
  exact h.bytes a ha

/-- The rest of a range, written after its first bytes. -/
theorem feWrite_rest {s : State} {fe : Nat} {va : DWord} {n : Nat} {word : Option DWord} (hstand : TablesStand s fe va n word) (rest : List Byte) (j : Nat)
    (hj : j + rest.length = n) {u : State} (hu : Along s fe va n u) :
    let t := u.feWrite fe (va + BitVec.ofNat 64 j) rest
    Along s fe va n t ∧
      (∀ a, (∀ i < rest.length, s.fePa fe true .plain (va + BitVec.ofNat 64 (j + i)) ≠ some a) → t.byteAt a = u.byteAt a) ∧
      ∀ i a, i < rest.length → s.fePa fe true .plain (va + BitVec.ofNat 64 (j + i)) = some a →
        (∀ m < rest.length, m ≠ i → s.fePa fe true .plain (va + BitVec.ofNat 64 (j + m)) ≠ some a) → t.byteAt a = rest.getD i 0 := by
  induction rest generalizing j u with
  | nil => exact ⟨hu, fun _ _ => rfl, fun i a hi => absurd hi (Nat.not_lt_zero i)⟩
  | cons b rest ih =>
    rw [List.length_cons] at hj
    have hnext : va + BitVec.ofNat 64 j + 1 = va + BitVec.ofNat 64 (j + 1) := add_ofNat_add va j 1
    have hshift : ∀ i, j + 1 + i = j + (i + 1) := fun i => by omega
    have hreach : u.fePa fe true .plain (va + BitVec.ofNat 64 j) = s.fePa fe true .plain (va + BitVec.ofNat 64 j) :=
      (hu.reaches hstand).1 j (by omega)
    simp only [State.feWrite, hreach, hnext]
    cases hpa : s.fePa fe true .plain (va + BitVec.ofNat 64 j) with
    | none =>
      obtain ⟨halong, hframe, hbyte⟩ := ih (j + 1) (by omega) hu
      refine ⟨halong, fun a ha => hframe a fun i hi => ?_, fun i a hi hia hother => ?_⟩
      · rw [hshift]
        exact ha (i + 1) (by simpa using hi)
      · cases i with
        | zero => rw [Nat.add_zero, hpa] at hia; cases hia
        | succ i =>
          rw [List.getD_cons_succ]
          refine hbyte i a (by simpa using hi) (by rw [hshift]; exact hia) fun m hm hne => ?_
          rw [hshift]
          exact hother (m + 1) (by simpa using hm) (by omega)
    | some pa =>
      obtain ⟨halong, hframe, hbyte⟩ := ih (j + 1) (by omega) (hu.storeN (by omega) hpa b.toNat)
      refine ⟨halong, fun a ha => ?_, fun i a hi hia hother => ?_⟩
      · have hne : a ≠ pa := fun he => ha 0 (Nat.zero_lt_succ _) (by rw [Nat.add_zero, hpa, he])
        refine (hframe a fun i hi => ?_).trans (storeN_byteAt_ne u (by omega))
        rw [hshift]
        exact ha (i + 1) (by simpa using hi)
      · cases i with
        | zero =>
          rw [Nat.add_zero, hpa] at hia
          obtain rfl := Option.some.inj hia
          refine (hframe pa fun i hi => ?_).trans ?_
          · rw [hshift]
            exact hother (i + 1) (by simpa using hi) (by omega)
          · rw [storeN_byteAt, if_pos ⟨le_rfl, Nat.lt_succ_self pa⟩, Nat.sub_self, pow_zero, Nat.div_one]
            exact BitVec.ofNat_toNat ..
        | succ i =>
          rw [List.getD_cons_succ]
          refine hbyte i a (by simpa using hi) (by rw [hshift]; exact hia) fun m hm hne => ?_
          rw [hshift]
          exact hother (m + 1) (by simpa using hm) (by omega)

theorem feWrite_along {s : State} {fe : Nat} {va : DWord} {bs : List Byte} {word : Option DWord} (hstand : TablesStand s fe va bs.length word) :
    Along s fe va bs.length (s.feWrite fe va bs) ∧ FeWritten s fe va bs (s.feWrite fe va bs) := by
  have h := feWrite_rest hstand bs 0 (Nat.zero_add _) (u := s) ⟨rfl, rfl, rfl, rfl, rfl, fun _ _ => rfl⟩
  simp only [Nat.zero_add, show va + BitVec.ofNat 64 0 = va from BitVec.add_zero va] at h
  obtain ⟨halong, hframe, hbyte⟩ := h
  exact ⟨halong, fun i a hia hi hother => hbyte i a hi hia hother, hframe⟩

theorem feWrite_keeps (s : State) (fe : Nat) (va : DWord) (bs : List Byte) :
    (s.feWrite fe va bs).packets = s.packets ∧ (s.feWrite fe va bs).mem.host = s.mem.host := by
  induction bs generalizing s va with
  | nil => exact ⟨rfl, rfl⟩
  | cons b bs ih =>
    simp only [State.feWrite]
    split
    · next pa _ =>
      obtain ⟨hpackets, hhost⟩ := ih (s.storeN pa b.toNat 1) (va + 1)
      exact ⟨hpackets, hhost.trans (storeN_host ..)⟩
    · exact ih ..

theorem setBytes_get (m : Sparse Byte) (a : Nat) (bs : List Byte) (j : Nat) :
    sget 0 (setBytes m a bs) j = if a ≤ j ∧ j < a + bs.length then bs.getD (j - a) 0 else sget 0 m j := by
  induction bs generalizing m a with
  | nil => exact (if_neg (by simp)).symm
  | cons b bs ih =>
    rw [setBytes, ih, sget_sset, List.length_cons]
    by_cases hj : j = a
    · subst hj
      rw [if_neg (by omega), if_pos rfl, if_pos (by omega), Nat.sub_self]
      rfl
    · by_cases hin : a + 1 ≤ j ∧ j < a + 1 + bs.length
      · rw [if_pos hin, if_pos (by omega), show j - a = j - (a + 1) + 1 by omega, List.getD_cons_succ]
      · rw [if_neg hin, if_neg hj, if_neg (by omega)]

/-! ### The plain packets (R388, R391, R392) -/

section Plain

variable {s : State} {fe n : Nat} {k : Packet}

theorem nop_spec (h : AtBody s fe n 0x00 k) : ∃ t, exec (.nopPacket fe) s = .next t ∧ BodyDone fe n k true t ∧ t.mem = s.mem ∧
    (t.lod fe).stream = { (s.lod fe).stream with cur := none } :=
  ⟨(bodyEnd s fe n true).wake, atBody_performs (go := fun _ _ => .ok (s, true)) h rfl, bodyDone_bodyEnd (t := s) h rfl true, bodyEnd_mem .., congrArg Lodging.stream (lod_bodyEnd s fe n true)⟩

theorem grid_spec (h : AtBody s fe n 0x01 k) : ∃ t, exec (.grid fe) s = .next t ∧
    (∀ d, s.gridDesc fe (k.field 0x40 64) = some d → BodyDone fe n k false t ∧ t.mem = s.mem ∧
      (t.lod fe).queue = (s.lod fe).queue ++ [⟨d, some n⟩]) ∧
    (s.gridDesc fe (k.field 0x40 64) = none → BodyFails s fe n k 0x02 t) := by
  rw [exec_grid, execGrid]
  cases hd : s.gridDesc fe (k.field 0x40 64) with
  | none => exact ⟨_, atBody_fails h (by simp only [hd]), fun d hno => (by cases hno), fun _ => bodyFails_failCur ..⟩
  | some d =>
    let u := s.onLod fe fun l => { l with queue := l.queue ++ [⟨d, some n⟩] }
    refine ⟨(bodyEnd u fe n false).wake, atBody_performs h (by simp only [hd]; rfl), fun e he => ?_, fun hno => by cases hno⟩
    obtain rfl := Option.some.inj he
    refine ⟨bodyDone_bodyEnd (t := u) h rfl false, bodyEnd_mem u .., ?_⟩
    refine (congrArg Lodging.queue (lod_bodyEnd u fe n false)).trans ?_
    exact congrArg Lodging.queue ((lod_onLod s fe (fun l => { l with queue := l.queue ++ [⟨d, some n⟩] }) fe).trans (if_pos rfl))

theorem copyOut_spec (h : AtBody s fe n 0x02 k) {bs : List Byte} (hdir : k.field 0x48 1 % 2 = 0)
    (htake : s.feTake fe (k.dword 0x30) (k.field 0x40 8) = some (bs, s)) : ∃ t, exec (.copy fe) s = .next t ∧
      BodyDone fe n k true t ∧ t.mem = { s.mem with host := t.mem.host } ∧
      ∀ a, sget 0 t.mem.host a = if (k.dword 0x38).toNat ≤ a ∧ a < (k.dword 0x38).toNat + bs.length then bs.getD (a - (k.dword 0x38).toNat) 0
        else sget 0 s.mem.host a := by
  rw [exec_copy, execCopy]
  let u : State := { s with mem := { s.mem with host := setBytes s.mem.host (k.dword 0x38).toNat bs } }
  have hmem : (bodyEnd u fe n true).wake.mem = u.mem := bodyEnd_mem ..
  refine ⟨(bodyEnd u fe n true).wake, atBody_performs h ?_, bodyDone_bodyEnd (t := u) h rfl true, by rw [hmem], fun a => ?_⟩
  · have hno : ¬ k.field 0x48 1 % 2 = 1 := by omega
    dsimp only
    rw [if_neg hno, htake]
  · rw [hmem]
    exact setBytes_get ..

theorem copyIn_spec (h : AtBody s fe n 0x02 k) (hdir : k.field 0x48 1 % 2 = 1) (hwritable : s.feWritable fe (k.dword 0x38) (k.field 0x40 8) = true)
    (hstand : TablesStand s fe (k.dword 0x38) (k.field 0x40 8) none) : ∃ t, exec (.copy fe) s = .next t ∧ BodyDone fe n k true t ∧
      t.mem.host = s.mem.host ∧
      FeWritten s fe (k.dword 0x38) ((List.range (k.field 0x40 8)).map (fun i => sget 0 s.mem.host ((k.dword 0x30).toNat + i))) t := by
  rw [exec_copy, execCopy]
  have hlen : (s.hostBytes (k.dword 0x30).toNat (k.field 0x40 8)).length = k.field 0x40 8 := by rw [State.hostBytes, List.length_map, List.length_range]
  rw [← hlen] at hstand
  obtain ⟨-, hframe⟩ := feWrite_along hstand
  obtain ⟨hpackets, hhost⟩ := feWrite_keeps s fe (k.dword 0x38) (s.hostBytes (k.dword 0x30).toNat (k.field 0x40 8))
  generalize hu : s.feWrite fe (k.dword 0x38) (s.hostBytes (k.dword 0x30).toNat (k.field 0x40 8)) = u at hframe hpackets hhost
  have hmem : (bodyEnd u fe n true).wake.mem = u.mem := bodyEnd_mem ..
  have hbyte : ∀ a, (bodyEnd u fe n true).wake.byteAt a = u.byteAt a := byteAt_of_mem hmem
  refine ⟨(bodyEnd u fe n true).wake, atBody_performs h ?_, bodyDone_bodyEnd h hpackets true, by rw [hmem]; exact hhost, ?_, ?_⟩
  · dsimp only
    rw [if_pos hdir, if_pos hwritable, hu]
  · exact fun i a hia hi hother => (hbyte a).trans (hframe.1 i a hia hi hother)
  · exact fun a ha => (hbyte a).trans (hframe.2 a ha)

theorem copyIn_fails (h : AtBody s fe n 0x02 k) (hdir : k.field 0x48 1 % 2 = 1) (hno : s.feWritable fe (k.dword 0x38) (k.field 0x40 8) = false) :
    ∃ t, exec (.copy fe) s = .next t ∧ BodyFails s fe n k 0x03 t := by
  rw [exec_copy, execCopy]
  refine ⟨_, atBody_fails h ?_, bodyFails_failCur s fe n k 0x03⟩
  dsimp only
  rw [if_pos hdir, if_neg (by simp [hno])]

theorem ib_spec (h : AtBody s fe n 0x03 k) : ∃ t, exec (.ib fe) s = .next t ∧
    ((s.lod fe).stream.levels.length < 2 → BodyDone fe n k false t ∧ t.mem = s.mem ∧ (t.lod fe).stream = { (s.lod fe).stream with
      cur := none, levels := ⟨n, k.dword 0x30, k.dword 0x30 + k.dword 0x38⟩ :: (s.lod fe).stream.levels }) ∧
    (2 ≤ (s.lod fe).stream.levels.length → BodyFails s fe n k 0x04 t) := by
  rw [exec_ib, execIb]
  by_cases hdeep : 2 ≤ (s.lod fe).stream.levels.length
  · exact ⟨_, atBody_fails h (if_pos hdeep), fun hlt => absurd hdeep (by omega), fun _ => bodyFails_failCur ..⟩
  · let u := s.onStream fe fun st => { st with levels := ⟨n, k.dword 0x30, k.dword 0x30 + k.dword 0x38⟩ :: st.levels }
    refine ⟨(bodyEnd u fe n false).wake, atBody_performs h (if_neg hdeep), fun _ => ⟨bodyDone_bodyEnd (t := u) h rfl false, bodyEnd_mem u .., ?_⟩,
      fun hle => absurd hle hdeep⟩
    refine (congrArg Lodging.stream (lod_bodyEnd u fe n false)).trans ?_
    exact congrArg (fun st : Stream => { st with cur := none })
      (stream_onStream s fe fun st => { st with levels := ⟨n, k.dword 0x30, k.dword 0x30 + k.dword 0x38⟩ :: st.levels })

/-- The loop that a LOOP packet opens. -/
def loopOf (st : Stream) (n : Nat) (k : Packet) : StreamLoop := ⟨n, st.levels.length, st.place, k.field 0x38 8, k.field 0x38 8, k.field 0x30 8⟩

theorem loop_spec (h : AtBody s fe n 0x04 k) : ∃ t, exec (.loopPacket fe) s = .next t ∧
    ((s.lod fe).stream.looping = none → BodyDone fe n k false t ∧ t.mem = s.mem ∧ (t.lod fe).stream = { (s.lod fe).stream with
      cur := none
      looping := some ⟨n, (s.lod fe).stream.levels.length, (s.lod fe).stream.place, k.field 0x38 8, k.field 0x38 8, k.field 0x30 8⟩ }) ∧
    ((s.lod fe).stream.looping ≠ none → BodyFails s fe n k 0x04 t) := by
  rw [exec_loopPacket, execLoopPacket]
  by_cases hloop : (s.lod fe).stream.looping.isSome = true
  · refine ⟨_, atBody_fails h (if_pos hloop), fun hno => ?_, fun _ => bodyFails_failCur s fe n k 0x04⟩
    rw [hno] at hloop
    cases hloop
  · let u := s.onStream fe fun st => { st with looping := some (loopOf st n k) }
    refine ⟨(bodyEnd u fe n false).wake, atBody_performs h (if_neg hloop), fun _ => ⟨bodyDone_bodyEnd (t := u) h rfl false, bodyEnd_mem u .., ?_⟩,
      fun hsome => absurd (Option.isSome_iff_ne_none.2 hsome) hloop⟩
    refine (congrArg Lodging.stream (lod_bodyEnd u fe n false)).trans ?_
    exact congrArg (fun st : Stream => { st with cur := none }) (stream_onStream s fe fun st => { st with looping := some (loopOf st n k) })

theorem ffence_spec (h : AtBody s fe n 0x05 k) : ∃ t, exec (.ffence fe) s = .next t ∧ BodyDone fe n k true t ∧ t.mem = s.mem ∧
    (t.lod fe).stream = { (s.lod fe).stream with cur := none, prefetched := [] } := by
  let u := s.onStream fe fun st => { st with prefetched := [] }
  refine ⟨(bodyEnd u fe n true).wake, atBody_performs (go := fun _ _ => .ok (u, true)) h rfl, bodyDone_bodyEnd (t := u) h rfl true, bodyEnd_mem u .., ?_⟩
  refine (congrArg Lodging.stream (lod_bodyEnd u fe n true)).trans ?_
  exact congrArg (fun st : Stream => { st with cur := none }) (stream_onStream s fe fun st => { st with prefetched := [] })

theorem inval_spec {pa : Nat} (h : AtBody s fe n 0x06 k)
    (hstage : k.field 0x30 1 = 1 ∧ k.field 0x31 1 = 0 ∨ k.field 0x30 1 = 2 ∧ fe = 0 ∧ k.field 0x31 1 ≤ 31)
    (hpa : s.fePa fe true .mailbox (k.dword 0x48) = some pa) : ∃ t, exec (.inval fe) s = .next t ∧ BodyDone fe n k false t ∧ t.mem = s.mem ∧
    sfind t.invals s.nextId = some ⟨fe, if k.field 0x30 1 = 1 then fe else k.field 0x31 1, k.field 0x30 1, k.field 0x38 8, k.field 0x40 8,
      k.dword 0x48, n, [], []⟩ := by
  rw [exec_inval, execInval]
  let i : Inval := ⟨fe, if k.field 0x30 1 = 1 then fe else k.field 0x31 1, k.field 0x30 1, k.field 0x38 8, k.field 0x40 8, k.dword 0x48, n, [], []⟩
  let u : State := { s.fresh.2 with invals := sput s.invals s.nextId i }
  refine ⟨(bodyEnd u fe n false).wake, atBody_performs h ?_, bodyDone_bodyEnd (t := u) h rfl false, bodyEnd_mem u .., ?_⟩
  · dsimp only
    rw [if_neg, hpa]
    · rfl
    · rcases hstage with ⟨h1, h0⟩ | ⟨h2, hfe, hle⟩
      · simp [h1, h0]
      · simp [h2, hfe]
        omega
  · rw [(bodyEnd_nextState u fe n false).1]
    exact sfind_sput_same ..

theorem msg_spec {bs : List Byte} (h : AtBody s fe n 0x08 k) (htake : s.feTake fe (k.dword 0x48) (k.field 0x50 8) = some (bs, s)) :
    ∃ t, exec (.msg fe) s = .next t ∧ BodyDone fe n k true t ∧ t.mem = s.mem ∧
      t.msgsOut = s.msgsOut ++ [⟨k.field 0x30 8, k.field 0x38 8, k.dword 0x40, bs, fe⟩] := by
  rw [exec_msg, execMsg]
  let u : State := { s with msgsOut := s.msgsOut ++ [⟨k.field 0x30 8, k.field 0x38 8, k.dword 0x40, bs, fe⟩] }
  refine ⟨(bodyEnd u fe n true).wake, atBody_performs h ?_, bodyDone_bodyEnd (t := u) h rfl true, bodyEnd_mem u .., (bodyEnd_nextState u fe n true).2.2⟩
  rw [htake]

theorem coll_spec {pa : Nat} {bs : List Byte} (h : AtBody s fe n 0x07 k) (hms : s.pkg.number ∈ sget [] s.pkg.groups (k.field 0x30 4))
    (hty : k.field 0x34 1 = 0 ∧ k.field 0x35 1 ≤ 2 ∨ k.field 0x34 1 = 1 ∧ (k.field 0x35 1 = 0 ∨ k.field 0x35 1 = 2) ∨
      (k.field 0x34 1 = 2 ∨ k.field 0x34 1 = 3) ∧ k.field 0x35 1 = 3)
    (hroot : k.field 0x36 2 < (sget [] s.pkg.groups (k.field 0x30 4)).length) (hlen : k.field 0x48 8 % collSize (k.field 0x35 1) = 0)
    (hword : k.field 0x50 8 % 8 = 0) (htake : s.feTake fe (k.dword 0x38) (k.field 0x48 8) = some (bs, s))
    (hpa : s.fePa fe true .mailbox (k.dword 0x50) = some pa)
    (hout : s.feWritable fe (k.dword 0x40) (if k.field 0x34 1 = 3 then k.field 0x48 8 * (sget [] s.pkg.groups (k.field 0x30 4)).length
      else k.field 0x48 8) = true) : ∃ t, exec (.coll fe) s = .next t ∧ BodyDone fe n k false t ∧ t.mem = s.mem ∧
      sfind t.colls s.nextId = some ⟨fe, n, k.field 0x30 4, k.field 0x34 1, k.field 0x35 1, k.field 0x36 2, k.dword 0x38, k.dword 0x40, k.field 0x48 8,
        k.dword 0x50, sput [] ((sget [] s.pkg.groups (k.field 0x30 4)).idxOf s.pkg.number) bs⟩ := by
  rw [exec_coll, execColl]
  let c : Collective := ⟨fe, n, k.field 0x30 4, k.field 0x34 1, k.field 0x35 1, k.field 0x36 2, k.dword 0x38, k.dword 0x40, k.field 0x48 8,
    k.dword 0x50, sput [] ((sget [] s.pkg.groups (k.field 0x30 4)).idxOf s.pkg.number) bs⟩
  let u : State := { s.fresh.2 with colls := sput s.colls s.nextId c }
  refine ⟨(bodyEnd u fe n false).wake, atBody_performs h ?_, bodyDone_bodyEnd (t := u) h rfl false, bodyEnd_mem u .., ?_⟩
  · have htypes : k.field 0x35 1 ∈ collTypes (k.field 0x34 1) := by
      rcases hty with ⟨ho, ht⟩ | ⟨ho, ht⟩ | ⟨ho | ho, ht⟩ <;> rw [ho]
      · simp only [collTypes, List.mem_cons, List.not_mem_nil, or_false]
        omega
      · simpa [collTypes] using ht
      · simp [collTypes, ht]
      · simp [collTypes, ht]
    have hwithin : ¬ (!(s.groupOf (k.field 0x30 4)).contains s.pkg.number || !(collTypes (k.field 0x34 1)).contains (k.field 0x35 1) ||
        decide ((s.groupOf (k.field 0x30 4)).length ≤ k.field 0x36 2) || k.field 0x48 8 % collSize (k.field 0x35 1) != 0 || k.field 0x50 8 % 8 != 0) = true := by
      simp [State.groupOf, hms, htypes, hlen, hword, Nat.not_le.2 hroot]
    dsimp only
    rw [if_neg hwithin, htake, hpa]
    exact if_neg (by simp only [State.groupOf, hout]; decide)
  · rw [(bodyEnd_nextState u fe n false).2.1]
    exact sfind_sput_same ..

end Plain

/-! ### The agent area (R184, R389) -/

theorem freeRecords_keeps {fe : Nat} (hs : List Nat) {s t : State} (h : s.freeRecords fe hs = some t) : t.lods = s.lods ∧ t.packets = s.packets := by
  induction hs generalizing s with
  | nil => cases h; exact ⟨rfl, rfl⟩
  | cons a hs ih =>
    rw [State.freeRecords] at h
    split at h
    · cases h
    · obtain ⟨hlods, hpackets⟩ := ih h
      exact ⟨hlods, hpackets⟩

theorem freeBlocks_keeps {fe : Nat} (n : Nat) {va : DWord} {s t : State} (h : s.freeBlocks fe va n = some t) :
    t.lods = s.lods ∧ t.packets = s.packets := by
  induction n generalizing s va with
  | zero => cases h; exact ⟨rfl, rfl⟩
  | succ n ih =>
    rw [State.freeBlocks] at h
    split at h
    · cases h
    · obtain ⟨hlods, hpackets⟩ := ih h
      exact ⟨hlods, hpackets⟩

/-- The free handles of a quad, ascending. -/
def freeHandles (l : Lodging) (hmax q : Nat) : List Nat := ((List.range hmax).map (· + 1)).filter fun h => l.agentHome h == q

theorem chained_lod (u : State) (fe q : Nat) (e : Nat × Nat) : (u.onLod fe fun l => { l with heads := sset (0, 0) l.heads q e }).lod fe =
    { u.lod fe with heads := sset (0, 0) (u.lod fe).heads q e } :=
  (lod_onLod u fe (fun l => { l with heads := sset (0, 0) l.heads q e }) fe).trans (if_pos rfl)

theorem freeChains_spec {fe hmax : Nat} (qs : List Nat) (hqs : qs.Nodup) {s t : State} (h : s.freeChains fe hmax qs = some t) :
    t.packets = s.packets ∧ (∃ hd, t.lod fe = { s.lod fe with heads := hd }) ∧ (∀ q, q ∉ qs → sget (0, 0) (t.lod fe).heads q = sget (0, 0) (s.lod fe).heads q) ∧
      ∀ q ∈ qs, sget (0, 0) (t.lod fe).heads q = ((freeHandles (s.lod fe) hmax q).headD 0, (freeHandles (s.lod fe) hmax q).getLastD 0) := by
  induction qs generalizing s with
  | nil => cases h; exact ⟨rfl, ⟨_, rfl⟩, fun _ _ => rfl, fun q hq => by cases hq⟩
  | cons q qs ih =>
    obtain ⟨hq, hrest⟩ := List.nodup_cons.1 hqs
    rw [State.freeChains] at h
    dsimp only at h
    split at h
    · cases h
    · next u hu =>
      obtain ⟨hlods, hpackets⟩ := freeRecords_keeps _ hu
      have hlod : u.lod fe = s.lod fe := congrArg (fun m => sget Lodging.reset m fe) hlods
      obtain ⟨hpackets', ⟨hd, hhd⟩, hother, hmine⟩ := ih hrest h
      have hset := fun e => chained_lod u fe q e
      rw [hlod] at hset
      refine ⟨hpackets'.trans hpackets, ⟨hd, hhd.trans (congrArg (fun l : Lodging => { l with heads := hd }) (hset _))⟩, fun j hj => ?_, fun j hj => ?_⟩
      · rw [List.mem_cons, not_or] at hj
        refine (hother j hj.2).trans ((congrArg (fun l : Lodging => sget (0, 0) l.heads j) (hset _)).trans ?_)
        exact (sget_sset ..).trans (if_neg hj.1)
      · by_cases hjq : j = q
        · subst hjq
          refine (hother j hq).trans ((congrArg (fun l : Lodging => sget (0, 0) l.heads j) (hset _)).trans ?_)
          refine (sget_sset_same ..).trans ?_
          show (match freeHandles (s.lod fe) hmax j with | [] => (0, 0) | a :: _ => (a, (freeHandles (s.lod fe) hmax j).getLastD 0)) = _
          cases freeHandles (s.lod fe) hmax j <;> rfl
        · refine (hmine j ((List.mem_cons.1 hj).resolve_left hjq)).trans ?_
          exact (congrArg (fun l : Lodging => ((freeHandles l hmax j).headD 0, (freeHandles l hmax j).getLastD 0)) (hset _)).trans rfl

section Agents

variable {s : State} {fe n : Nat} {k : Packet}

theorem agents_refused (h : AtBody s fe n 0x0A k) (hbusy : s.anyAgent fe = true ∨ (s.lod fe).poolUsed ≠ 0) : ∃ t, exec (.agents fe) s = .next t ∧
    BodyFails s fe n k 0x02 t := by
  rw [exec_agents, execAgents]
  refine ⟨_, atBody_fails h (if_pos ?_), bodyFails_failCur s fe n k 0x02⟩
  rcases hbusy with hany | hpool
  · simp [hany]
  · simp [hpool]

/-- The agent area's fields of a lodging, before the chains are written. -/
def agentArea (k : Packet) (l : Lodging) : Lodging :=
  { l with
    agentBase := k.dword 0x30, hmax := k.field 0x38 8, heads := [], poolBase := k.dword 0x40, poolCount := k.field 0x48 8
    poolHead := k.dword 0x40, poolUsed := 0 }

theorem quads_nodup (l : Lodging) : l.quads.Nodup := by
  rw [Lodging.quads]
  exact List.Nodup.map (fun a b hab => Nat.add_left_cancel hab) List.nodup_range

theorem agents_spec {u v : State} (h : AtBody s fe n 0x0A k) (hnone : s.anyAgent fe = false) (hpool : (s.lod fe).poolUsed = 0)
    (hbase : (k.dword 0x30).toNat % 4096 = 0) (hlow : 1 ≤ k.field 0x38 8) (hhigh : k.field 0x38 8 ≤ 16777215) (hpbase : (k.dword 0x40).toNat % 4096 = 0)
    (hcount : 1 ≤ k.field 0x48 8) (hcount' : k.field 0x48 8 < 2 ^ 32)
    (hu : (s.onLod fe (agentArea k)).freeChains fe (k.field 0x38 8) (s.lod fe).quads = some u)
    (hv : u.freeBlocks fe (k.dword 0x40) (k.field 0x48 8) = some v) : ∃ t, exec (.agents fe) s = .next t ∧ BodyDone fe n k true t ∧ t.mem = v.mem ∧
      (t.lod fe).agentBase = k.dword 0x30 ∧ (t.lod fe).hmax = k.field 0x38 8 ∧ (t.lod fe).poolBase = k.dword 0x40 ∧
      (t.lod fe).poolHead = k.dword 0x40 ∧ (t.lod fe).poolUsed = 0 ∧
      ∀ q ∈ (s.lod fe).quads, sget (0, 0) (t.lod fe).heads q =
        ((freeHandles (s.lod fe) (k.field 0x38 8) q).headD 0, (freeHandles (s.lod fe) (k.field 0x38 8) q).getLastD 0) := by
  rw [exec_agents, execAgents]
  have harea : (s.onLod fe (agentArea k)).lod fe = agentArea k (s.lod fe) := (lod_onLod s fe (agentArea k) fe).trans (if_pos rfl)
  obtain ⟨hpackets, ⟨hd, hhd⟩, -, hheads⟩ := freeChains_spec _ (quads_nodup _) hu
  obtain ⟨hlods, hpackets'⟩ := freeBlocks_keeps _ hv
  have hvlod : v.lod fe = { agentArea k (s.lod fe) with heads := hd } := by
    rw [State.lod, hlods, ← harea]
    exact hhd
  have hlod : (bodyEnd v fe n true).wake.lod fe = _ := lod_bodyEnd v fe n true
  rw [hvlod] at hlod
  have hulod : (u.lod fe).heads = hd := by rw [hhd]
  refine ⟨(bodyEnd v fe n true).wake, atBody_performs h ?_, bodyDone_bodyEnd h (hpackets'.trans hpackets) true, bodyEnd_mem .., by rw [hlod]; rfl, by rw [hlod]; rfl,
    by rw [hlod]; rfl, by rw [hlod]; rfl, by rw [hlod]; rfl, fun q hq => ?_⟩
  · have hwithin : ¬ (s.anyAgent fe || (s.lod fe).poolUsed != 0 || (k.dword 0x30).toNat % 4096 != 0 || decide (k.field 0x38 8 = 0) ||
        decide (16777215 < k.field 0x38 8) || (k.dword 0x40).toNat % 4096 != 0 || decide (k.field 0x48 8 = 0) || decide (2 ^ 32 ≤ k.field 0x48 8)) = true := by
      simp only [hnone, hpool, hbase, hpbase, Bool.or_eq_true, decide_eq_true_eq]
      simp
      omega
    refine (if_neg hwithin).trans ?_
    have hquads : ((s.onLod fe (agentArea k)).lod fe).quads = (s.lod fe).quads := by rw [harea]; rfl
    have hu' : (s.onLod fe (agentArea k)).freeChains fe (k.field 0x38 8) ((s.onLod fe (agentArea k)).lod fe).quads = some u := by rw [hquads]; exact hu
    show (match (s.onLod fe (agentArea k)).freeChains fe (k.field 0x38 8) ((s.onLod fe (agentArea k)).lod fe).quads with
      | none => Except.error 0x03
      | some t => match t.freeBlocks fe (k.dword 0x40) (k.field 0x48 8) with
        | none => Except.error 0x03
        | some t => Except.ok (t, true)) = _
    rw [hu']
    dsimp only
    rw [hv]
  · rw [hlod]
    have := hheads q hq
    rw [hulod, harea] at this
    exact this

end Agents

theorem plainBodies : Says.PlainBodies := by
  refine ⟨fun s fe n k h => nop_spec h, fun s fe n k h => grid_spec h,
    fun s fe n k h => ⟨fun bs hdir htake => copyOut_spec h hdir htake, fun hdir hw hstand => copyIn_spec h hdir hw hstand,
      fun hdir hno => copyIn_fails h hdir hno⟩,
    fun s fe n k h => ib_spec h, fun s fe n k h => loop_spec h, fun s fe n k h => ffence_spec h, fun s fe n k pa h hstage hpa => inval_spec h hstage hpa,
    fun s fe n k pa bs h hms hty hroot hlen hword htake hpa hout => ?_, fun s fe n k bs h htake => msg_spec h htake,
    fun s fe n k h hbusy => agents_refused h hbusy,
    fun s fe n k u v h hnone hpool hbase hlow hhigh hpbase hcount hcount' hu hv =>
      agents_spec h hnone hpool hbase hlow hhigh hpbase hcount hcount' hu hv⟩
  obtain ⟨t, hexec, hdone, hmem, hc⟩ := coll_spec h hms hty hroot hlen hword htake hpa hout
  exact ⟨t, hexec, hdone, hmem, _, hc, rfl, rfl, rfl, rfl, rfl, rfl, rfl, rfl, rfl, if_pos rfl⟩

/-! ### Region packets (R334, R397) -/

section Regions

variable {s : State} {fe n : Nat} {k : Packet}

theorem exec_regionCreate_body (h : AtBody s fe n 0x09 k) (hop : k.field 0x30 8 = 0) {t : State}
    (hbody : s.body fe 0x09 (fun _ k =>
      let d := k.dword 0x38
      let size := k.field 0x40 8
      let ps := s.regionPlaces fe size
      let reduced := s.pkg.service == .reduced && d.extractLsb' 0 2 != 0
      if !layoutOk d size || reduced || ps.isEmpty then .error 0x05
      else match s.fePa fe true .plain (k.dword 0x48) with
      | none => .error 0x03
      | some pa =>
        let f := s.freeWord
        let base := ps.getD (f.1.toNat % ps.length) 0
        let s := f.2.storeN pa base 8
        .ok ({ s with mem := { s.mem with regions := s.mem.regions ++ [⟨fe, base, size, d⟩] } }, true)) = .next t) :
    exec (.regionCreate fe) s = .next t := by
  obtain ⟨-, hcur, hpacket, -, -, -⟩ := h
  rw [exec_regionCreate, execRegionCreate]
  refine (if_neg fun hno => ?_).trans hbody
  rw [hcur] at hno
  dsimp only at hno
  rw [hpacket] at hno
  simp [hop] at hno

theorem reduced_iff (d : DWord) : (d.extractLsb' 0 2 != 0) = decide (d.toNat % 4 ≠ 0) := by
  rw [bne, Bool.eq_iff_iff]
  simp only [Bool.not_eq_true', beq_eq_false_iff_ne, decide_eq_true_eq, ne_eq, ← BitVec.toNat_inj, BitVec.extractLsb'_toNat, Nat.shiftRight_zero]
  exact Iff.rfl

/-- The state after a region has been created. -/
def regionMade (s : State) (fe pa base : Nat) (k : Packet) : State :=
  let u := s.freeWord.2.storeN pa base 8
  { u with mem := { u.mem with regions := u.mem.regions ++ [⟨fe, base, k.field 0x40 8, k.dword 0x38⟩] } }

theorem regionCreate_spec {pa : Nat} (h : AtBody s fe n 0x09 k) (hop : k.field 0x30 8 = 0) (hlayout : layoutOk (k.dword 0x38) (k.field 0x40 8) = true)
    (hservice : s.pkg.service ≠ .reduced ∨ (k.dword 0x38).toNat % 4 = 0) (hplaces : s.regionPlaces fe (k.field 0x40 8) ≠ [])
    (hpa : s.fePa fe true .plain (k.dword 0x48) = some pa) : ∃ t base, exec (.regionCreate fe) s = .next t ∧ BodyDone fe n k true t ∧
    s.regionFree fe base (k.field 0x40 8) = true ∧ t.mem.regions = s.mem.regions ++ [⟨fe, base, k.field 0x40 8, k.dword 0x38⟩] ∧
    Stored s (bytesIn [(pa, 8)]) base t := by
  let ps := s.regionPlaces fe (k.field 0x40 8)
  have hpos : 0 < ps.length := List.length_pos_iff.2 hplaces
  let base := ps.getD (s.freeWord.1.toNat % ps.length) 0
  have hbase : base ∈ ps := by
    have hlt : s.freeWord.1.toNat % ps.length < ps.length := Nat.mod_lt _ hpos
    have hget : base = ps[s.freeWord.1.toNat % ps.length] := List.getD_eq_getElem ps 0 hlt
    rw [hget]
    exact List.getElem_mem hlt
  have hmem : (bodyEnd (regionMade s fe pa base k) fe n true).wake.mem = (regionMade s fe pa base k).mem := bodyEnd_mem ..
  refine ⟨(bodyEnd (regionMade s fe pa base k) fe n true).wake, base, exec_regionCreate_body h hop (atBody_performs h ?_),
    bodyDone_bodyEnd (t := regionMade s fe pa base k) h rfl true, (List.mem_filter.1 hbase).2, ?_, ?_⟩
  · have hok : ¬ (!layoutOk (k.dword 0x38) (k.field 0x40 8) || (s.pkg.service == .reduced && (k.dword 0x38).extractLsb' 0 2 != 0) ||
        (s.regionPlaces fe (k.field 0x40 8)).isEmpty) = true := by
      rw [reduced_iff]
      rcases hservice with hs | hs <;> simp [hlayout, hplaces, hs]
    dsimp only
    rw [if_neg hok, hpa]
    rfl
  · rw [hmem]
    exact congrArg (· ++ [_]) (storeN_regions s.freeWord.2 pa base 8)
  · exact stored_of_byteAt (stored_storeN s pa base 8) fun a => byteAt_of_mem (t := (bodyEnd (regionMade s fe pa base k) fe n true).wake)
      (s := regionMade s fe pa base k) hmem a

theorem regionCreate_fails (h : AtBody s fe n 0x09 k) (hop : k.field 0x30 8 = 0)
    (hbad : layoutOk (k.dword 0x38) (k.field 0x40 8) = false ∨ s.regionPlaces fe (k.field 0x40 8) = [] ∨
      s.pkg.service = .reduced ∧ (k.dword 0x38).toNat % 4 ≠ 0) : ∃ t, exec (.regionCreate fe) s = .next t ∧ BodyFails s fe n k 0x05 t := by
  refine ⟨_, exec_regionCreate_body h hop (atBody_fails h (if_pos ?_)), bodyFails_failCur s fe n k 0x05⟩
  rw [reduced_iff]
  rcases hbad with hl | hp | ⟨hs, hd⟩
  · simp [hl]
  · simp [hp]
  · simp [hs, hd]

theorem exec_regionDestroy_body (h : AtBody s fe n 0x09 k) (hop : k.field 0x30 8 = 1) {t : State}
    (hbody : s.body fe 0x09 (fun _ k => match s.fePa fe false .plain (k.dword 0x48) with
      | none => .error 0x03
      | some pa =>
        let base := s.loadN pa 8
        if !s.mem.regions.any (fun r => r.fe == fe && r.base == base) then .error 0x05
        else .ok ({ s with mem := { s.mem with regions := s.mem.regions.filter (fun r => !(r.fe == fe && r.base == base)) } }, true)) = .next t) :
    exec (.regionDestroy fe) s = .next t := by
  obtain ⟨-, hcur, hpacket, -, -, -⟩ := h
  rw [exec_regionDestroy, execRegionDestroy]
  refine (if_neg fun hno => ?_).trans hbody
  rw [hcur] at hno
  dsimp only at hno
  rw [hpacket] at hno
  simp [hop] at hno

theorem regionDestroy_spec {pa : Nat} (h : AtBody s fe n 0x09 k) (hop : k.field 0x30 8 = 1) (hpa : s.fePa fe false .plain (k.dword 0x48) = some pa) :
    let base := littleEndian ((bytesIn [(pa, 8)]).map s.byteAt)
    ∃ t, exec (.regionDestroy fe) s = .next t ∧
      ((∃ r ∈ s.mem.regions, r.fe = fe ∧ r.base = base) → BodyDone fe n k true t ∧ (∀ a, t.byteAt a = s.byteAt a) ∧
        ∀ r, r ∈ t.mem.regions ↔ r ∈ s.mem.regions ∧ ¬ (r.fe = fe ∧ r.base = base)) ∧
      ((∀ r ∈ s.mem.regions, r.fe = fe → r.base ≠ base) → BodyFails s fe n k 0x05 t) := by
  dsimp only
  rw [← loadN_bytesIn s pa 8]
  generalize hbase : s.loadN pa 8 = base
  by_cases hany : ∃ r ∈ s.mem.regions, r.fe = fe ∧ r.base = base
  · let u : State := { s with mem := { s.mem with regions := s.mem.regions.filter fun r => !(r.fe == fe && r.base == base) } }
    have hmem : (bodyEnd u fe n true).wake.mem = u.mem := bodyEnd_mem ..
    refine ⟨(bodyEnd u fe n true).wake, exec_regionDestroy_body h hop (atBody_performs h ?_), fun _ => ⟨bodyDone_bodyEnd (t := u) h rfl true, fun a => ?_, fun r => ?_⟩,
      fun hno => ?_⟩
    · have hgo : ¬ (!s.mem.regions.any fun r => r.fe == fe && r.base == base) = true := by simpa using hany
      rw [hpa]
      dsimp only
      rw [hbase, if_neg hgo]
    · exact byteAt_of_mem (s := u) hmem a
    · rw [hmem]
      refine List.mem_filter.trans (and_congr_right fun _ => ?_)
      rw [Bool.not_eq_true', ← Bool.not_eq_true, Bool.and_eq_true, beq_iff_eq, beq_iff_eq]
    · obtain ⟨r, hr, hfe, hb⟩ := hany
      exact absurd hb (hno r hr hfe)
  · refine ⟨_, exec_regionDestroy_body h hop (atBody_fails h (c := 0x05) ?_), fun hsome => absurd hsome hany, fun _ => bodyFails_failCur s fe n k 0x05⟩
    rw [hpa]
    dsimp only
    rw [hbase]
    refine if_pos ?_
    simpa using hany

end Regions

theorem regionPackets : Says.RegionPackets :=
  ⟨fun s fe n k pa h hop hlayout hservice hplaces hpa => regionCreate_spec h hop hlayout hservice hplaces hpa,
    fun s fe n k h hop hbad => regionCreate_fails h hop hbad, fun s fe n k pa h hop hpa => regionDestroy_spec h hop hpa⟩

/-- Settles O43: a body is performed or fails once for every opcode, and each packet says what it leaves; the ranges that COPY writes are
followed byte by byte, and the agent area quad by quad. -/
theorem packetBodies : Obligations.PacketBodies := ⟨plainBodies, regionPackets⟩

end Sys2Proof.Proofs
end

section
/-! PROOFS. Translations and work that completes later (R354, R362, R363, R365, R366): O44. -/

namespace Sys2Proof.Proofs

open Sys2Proof Sys2Proof.Machine Sys2Proof.Says

/-! ### Translation caches (R362, R363) -/

theorem quad_onQuad (s : State) (q : Nat) (f : Quad → Quad) (j : Nat) : (s.onQuad q f).quad j = if j = q then f (s.quad q) else s.quad j :=
  sget_sset ..

/-- The entry that a walk leaves in a translation cache. -/
def walked (fe : Nat) (va : DWord) (w : Translated) : TlbEntry :=
  ⟨fe, va.toNat % 2 ^ 57 / 2 ^ 16, w.walk.pa - va.toNat % 2 ^ 16, w.walk.kind, w.walk.w, w.walk.u, w.walk.x, w.w2, w.x2⟩

theorem pageWalk_spec {s : State} {quad fe : Nat} {va : DWord} {w : Translated} (hquad : quad ∈ (s.lod fe).quads) (hva : canonical va = true)
    (hw : s.walk fe va = .ok w) (hle : va.toNat % 2 ^ 16 ≤ w.walk.pa) : ∃ t, exec (.pageWalk quad fe va) s = .next t ∧
      t = { s.wake with quads := t.quads } ∧ (∀ q, q ≠ quad → t.quad q = s.quad q) ∧ t.translate fe quad va = .ok w := by
  let f : Quad → Quad := fun q =>
    { q with tlb := walked fe va w :: q.tlb.filter fun e => !(e.fe == fe && e.page == va.toNat % 2 ^ 57 / 2 ^ 16) }
  let u := s.onQuad quad f
  refine ⟨u.wake, ?_, rfl, fun q hq => (quad_onQuad s quad f q).trans (if_neg hq), ?_⟩
  · rw [exec_pageWalk, execPageWalk]
    refine congrArg State.event ?_
    rw [hw]
    refine if_neg ?_
    simp [hquad, hva]
  · have htlb : (u.wake.quad quad).tlb = _ := congrArg Quad.tlb ((quad_onQuad s quad f quad).trans (if_pos rfl))
    unfold State.translate
    dsimp only
    rw [htlb, List.find?_cons_of_pos (by simp [walked])]
    have hpa : w.walk.pa - va.toNat % 2 ^ 16 + va.toNat % 2 ^ 16 = w.walk.pa := Nat.sub_add_cancel hle
    simp only [walked, hpa]

theorem covers_iff (i : Inval) (e : TlbEntry) :
    i.covers e = true ↔ e.fe = i.target ∧ (i.stage = 2 ∨ i.count = 0 ∨ i.first ≤ e.page ∧ e.page < i.first + i.count) := by
  simp [Inval.covers, or_assoc]

theorem invalidationArrival_spec {s : State} {n quad : Nat} {i : Inval} (hi : sfind s.invals n = some i) (hnew : quad ∉ i.arrived)
    (hquad : quad ∈ (s.lod i.target).quads) : ∃ t, exec (.invalidationArrival n quad) s = .next t ∧ t.mem = s.mem ∧
    (∀ e ∈ (t.quad quad).tlb, e ∈ (s.quad quad).tlb ∧ ¬ (e.fe = i.target ∧ (i.stage = 2 ∨ i.count = 0 ∨ i.first ≤ e.page ∧ e.page < i.first + i.count))) ∧
    (∀ q, q ≠ quad → t.quad q = s.quad q) ∧
    ∃ older, sfind t.invals n = some { i with arrived := i.arrived ++ [quad], older := i.older ++ older } := by
  let f : Quad → Quad := fun q => { q with tlb := q.tlb.filter fun e => !i.covers e }
  let u := s.onQuad quad f
  let older := u.sentFrom i.target quad
  let t : State := { u with invals := sput s.invals n { i with arrived := i.arrived ++ [quad], older := i.older ++ older } }
  refine ⟨t.wake, ?_, rfl, fun e he => ?_, fun q hq => (quad_onQuad s quad f q).trans (if_neg hq), older, sfind_sput_same ..⟩
  · rw [exec_invalidationArrival, execInvalidationArrival]
    refine congrArg State.event ?_
    rw [hi]
    refine if_neg ?_
    simp [hnew, hquad]
  · have htlb : (t.wake.quad quad).tlb = _ := congrArg Quad.tlb ((quad_onQuad s quad f quad).trans (if_pos rfl))
    rw [htlb] at he
    obtain ⟨hmem, hno⟩ := List.mem_filter.1 he
    refine ⟨hmem, fun h => ?_⟩
    rw [(covers_iff i e).2 h] at hno
    cases hno

/-! ### Completion words (R365, R366) -/

/-- What a fill of an unwatched word leaves of the lists of work, and of the bytes beyond the word. -/
theorem fill_keeps {s : State} {pa : Nat} (h : Unwatched s pa) (v : Nat) : (s.fill pa v).packets = s.packets ∧ (s.fill pa v).invals = s.invals ∧
    (s.fill pa v).colls = s.colls ∧ (s.fill pa v).msgsIn = s.msgsIn ∧ ∀ a, a ∉ bytesIn [(pa, 8)] → (s.fill pa v).byteAt a = s.byteAt a := by
  have hbytes : ∀ a, a ∉ bytesIn [(pa, 8)] → (s.fill pa v).byteAt a = s.byteAt a := fun a ha =>
    ((filledAs_filled h v).bytes a).trans ((stored_storeN s pa v 8).2 a ha)
  have hrest : (filled s pa v).packets = s.packets ∧ (filled s pa v).invals = s.invals ∧ (filled s pa v).colls = s.colls ∧
      (filled s pa v).msgsIn = s.msgsIn := by
    unfold filled
    split
    · unfold State.acquire
      split <;> simp only [onReq_packets, onReq_invals, onReq_colls, onReq_msgsIn, onParty_packets, onParty_invals, onParty_colls, onParty_msgsIn] <;>
        exact ⟨rfl, rfl, rfl, rfl⟩
    · have hwake : ((s.storeN pa v 8).setFull pa true).wakeMailbox pa = (s.storeN pa v 8).setFull pa true := wakeMailbox_unwatched h
      rw [hwake]
      exact ⟨rfl, rfl, rfl, rfl⟩
  obtain ⟨hpackets, hinvals, hcolls, hmsgs⟩ := hrest
  exact ⟨hpackets, hinvals, hcolls, hmsgs, hbytes⟩

/-- The state after two draws of free words. -/
def twoDrawn (s : State) : State := s.freeWord.2.freeWord.2

theorem fillDone_fills {s : State} {fe pa : Nat} {word : DWord} (hpa : s.fePa fe true .mailbox word = some pa) (hempty : s.isFull pa = false)
    (hfirst : s.oldestSt pa = none) : ∃ v : DWord, s.fillDone fe word = some ((twoDrawn s).fill pa v.toNat) := by
  have hlt : s.freeWord.1.toNat + 2 ^ 32 * s.freeWord.2.freeWord.1.toNat < 2 ^ 64 := by
    have h1 := s.freeWord.1.isLt
    have h2 := s.freeWord.2.freeWord.1.isLt
    omega
  refine ⟨BitVec.ofNat 64 (s.freeWord.1.toNat + 2 ^ 32 * s.freeWord.2.freeWord.1.toNat), ?_⟩
  rw [BitVec.toNat_ofNat, Nat.mod_eq_of_lt hlt, State.fillDone, hpa]
  exact if_neg (by simp [hempty, hfirst])

theorem answered_wake {s t : State} (hmem : t.mem = s.mem) (htags : t.tags = s.tags) (hreqs : t.reqs = s.reqs) (hparties : t.parties = s.parties) :
    Answered 0 s t.wake := by
  refine ⟨hmem, htags, .of_eq hreqs, fun q x _ hx => ⟨{ x with hold := false }, ?_, rfl⟩⟩
  have hq : t.party? q = some x := by rw [State.party?, hparties]; exact hx
  rw [wake_party?, hq]
  rfl

theorem sfind_completed {s : State} {n : Nat} {k : Packet} (hk : sfind s.packets n = some k) :
    sfind (s.onPacket n fun k => { k with stage := .complete }).packets n = some { k with stage := .complete } := by
  rw [sfind_onPacket, if_pos rfl, hk]
  rfl

theorem invalidationComplete_spec {s : State} {n pa : Nat} {i : Inval} {k : Packet} (hi : sfind s.invals n = some i)
    (harrived : ∀ q ∈ (s.lod i.target).quads, q ∈ i.arrived) (holder : ∀ m ∈ i.older, ∀ r, sfind s.reqs m = some r → r.phase ≠ .sent)
    (hpa : s.fePa i.fe true .mailbox i.word = some pa) (hempty : s.isFull pa = false) (hfirst : s.oldestSt pa = none) (hw : Unwatched s pa)
    (hk : sfind s.packets i.packet = some k) : ∃ t v, exec (.invalidationComplete n) s = .next t ∧ sfind t.invals n = none ∧
      sfind t.packets i.packet = some { k with stage := .complete } ∧ Fills s 0 pa v t := by
  obtain ⟨v, hv⟩ := fillDone_fills hpa hempty hfirst
  have hw' : Unwatched (twoDrawn s) pa := hw
  obtain ⟨hpackets, hinvals, -, -, -⟩ := fill_keeps hw' v.toNat
  generalize hu : (twoDrawn s).fill pa v.toNat = u at hv hpackets hinvals
  let w : State := { u with invals := sdrop u.invals n }
  let t := w.onPacket i.packet fun k => { k with stage := .complete }
  refine ⟨t.wake, v, ?_, ?_, sfind_completed (s := w) (by rw [show w.packets = s.packets from hpackets]; exact hk), ?_⟩
  · rw [exec_invalidationComplete, execInvalidationComplete]
    refine congrArg State.event ?_
    rw [hi]
    have hclosed : ¬ (i.older.any (fun m => match sfind s.reqs m with | some r => r.phase == .sent | none => false) ||
        !(s.lod i.target).quads.all fun q => i.arrived.contains q) = true := by
      intro h
      rcases Bool.or_eq_true _ _ ▸ h with hopen | hmissing
      · obtain ⟨m, hm, hsent⟩ := List.any_eq_true.1 hopen
        cases hr : sfind s.reqs m with
        | none => rw [hr] at hsent; cases hsent
        | some r => rw [hr] at hsent; exact holder m hm r hr (by simpa using hsent)
      · simp only [Bool.not_eq_true', List.all_eq_false, List.contains_eq_mem, decide_eq_true_eq] at hmissing
        obtain ⟨q, hq, hno⟩ := hmissing
        exact hno (harrived q hq)
    refine (if_neg hclosed).trans ?_
    rw [hv]
  · rw [show t.wake.invals = w.invals from onPacket_invals ..]
    exact sfind_sdrop_same ..
  · have hans : Answered 0 u t.wake := answered_wake (t := t) (onPacket_mem ..) (onPacket_tags ..) (onPacket_reqs ..) (onPacket_parties ..)
    exact fills_fill (s := twoDrawn s) hw' (hu.symm ▸ hans)

/-! ### A write, then a completion word -/

/-- A range's bytes are written in memory, and no full bit changes. -/
theorem feWrite_frame (s : State) (fe : Nat) (va : DWord) (bs : List Byte) :
    s.feWrite fe va bs = { s with mem := (s.feWrite fe va bs).mem } ∧ (s.feWrite fe va bs).mem.full = s.mem.full := by
  induction bs generalizing s va with
  | nil => exact ⟨rfl, rfl⟩
  | cons b bs ih =>
    simp only [State.feWrite]
    split
    · next pa _ =>
      obtain ⟨hstate, hfull⟩ := ih (s.storeN pa b.toNat 1) (va + 1)
      refine ⟨hstate.trans rfl, hfull.trans ?_⟩
      obtain ⟨_, _, _, _, hmem⟩ := storeN_mem s pa b.toNat 1
      rw [hmem]
    · exact ih ..

/-- `t` is `s` after measuring: the package's registers, and the streams where firmware is told. -/
structure Measured (s t : State) : Prop where
  state : t = { s with pkg := t.pkg, lods := t.lods }
  lod : ∀ j, ∃ st, t.lod j = { s.lod j with stream := st }

theorem Measured.trans {s t u : State} (h : Measured s t) (h' : Measured t u) : Measured s u := by
  refine ⟨h'.state.trans (congrArg (fun v : State => { v with pkg := u.pkg, lods := u.lods }) h.state), fun j => ?_⟩
  obtain ⟨st, hst⟩ := h.lod j
  obtain ⟨st', hst'⟩ := h'.lod j
  exact ⟨st', hst'.trans (congrArg (fun l : Lodging => { l with stream := st' }) hst)⟩

theorem measured_onPkg (s : State) (f : Package → Package) : Measured s (s.onPkg f) := ⟨rfl, fun j => ⟨(s.lod j).stream, rfl⟩⟩

theorem measured_msix (s : State) (fe v : Nat) : Measured s (s.msix fe v) := by
  refine ⟨rfl, fun j => ?_⟩
  rw [msix_eq, lod_onStream]
  split
  · next h => exact ⟨_, by rw [h]⟩
  · exact ⟨(s.lod j).stream, rfl⟩

theorem measured_notify (s : State) (c : Nat) : Measured s (s.notify c) := by
  unfold State.notify
  split
  · exact (measured_onPkg s _).trans (measured_msix ..)
  · exact measured_onPkg s _

theorem measured_spend (s : State) (a : Activity) (fe n : Nat) : Measured s (s.spend a fe n) := by
  unfold State.spend
  dsimp only
  split
  · exact ((measured_onPkg s _).trans (measured_onPkg _ _)).trans (measured_notify ..)
  · exact measured_onPkg s _

theorem sameReach_spend (s : State) (a : Activity) (fe n j : Nat) : SameReach j s (s.spend a fe n) := by
  have hview := SameView.spend s a fe n
  obtain ⟨st, hst⟩ := (measured_spend s a fe n).lod j
  exact ⟨hview.tables j, by rw [hst], hview.pod, hview.absent⟩

theorem unwatched_spend {s : State} {pa : Nat} (h : Unwatched s pa) (a : Activity) (fe n : Nat) : Unwatched (s.spend a fe n) pa := fun j w hw => by
  obtain ⟨st, hst⟩ := (measured_spend s a fe n).lod j
  rw [hst] at hw
  exact h j w hw

theorem oldestSt_congr {s t : State} (h : t.reqs = s.reqs) (pa : Nat) : t.oldestSt pa = s.oldestSt pa := by
  rw [State.oldestSt, h]
  rfl

section Completion

variable {s : State} {fe pa : Nat} {va word : DWord} {bs : List Byte} (hpa : s.fePa fe true .mailbox word = some pa) (hempty : s.isFull pa = false)
  (hfirst : s.oldestSt pa = none) (hw : Unwatched s pa) (hstand : TablesStand s fe va bs.length (some word))
include hpa hempty hfirst hw hstand

/-- A range is written and its activity measured, then the word is filled: the bytes beyond the word are those written. -/
theorem written_then_filled (m : Option (Activity × Nat × Nat)) : ∃ t : State, (match m with
      | none => s.feWrite fe va bs
      | some (a, f, n) => (s.feWrite fe va bs).spend a f n).fillDone fe word = some t ∧
    FeWritten s fe va bs (s.feWrite fe va bs) ∧ t.packets = s.packets ∧ t.colls = s.colls ∧ t.msgsIn = s.msgsIn ∧
    ∀ a, a ∉ bytesIn [(pa, 8)] → t.byteAt a = (s.feWrite fe va bs).byteAt a := by
  obtain ⟨halong, hwritten⟩ := feWrite_along hstand
  obtain ⟨hframe, hfull⟩ := feWrite_frame s fe va bs
  have hreach : (s.feWrite fe va bs).fePa fe true .mailbox word = some pa := ((halong.reaches hstand).2 word rfl).trans hpa
  generalize s.feWrite fe va bs = u at *
  have hu : u.isFull pa = false := by
    rw [State.isFull, hfull]
    exact hempty
  have hureqs : u.reqs = s.reqs := by rw [hframe]
  have huw : Unwatched u pa := by rw [hframe]; exact hw
  have hdone : ∀ v : State, SameReach fe u v → v.mem = u.mem → v.reqs = u.reqs → Unwatched v pa → v.packets = u.packets → v.colls = u.colls →
      v.msgsIn = u.msgsIn → ∃ t, v.fillDone fe word = some t ∧ t.packets = s.packets ∧ t.colls = s.colls ∧ t.msgsIn = s.msgsIn ∧
        ∀ a, a ∉ bytesIn [(pa, 8)] → t.byteAt a = u.byteAt a := by
    intro v hsame hmem hreqs hvw hpackets hcolls hmsgs
    obtain ⟨x, hx⟩ := fillDone_fills (s := v) (fe := fe) (word := word) ((hsame.fePa ..).trans hreach) ((isFull_of_mem hmem pa).trans hu)
      ((oldestSt_congr (hreqs.trans hureqs) pa).trans hfirst)
    have hdw : Unwatched (twoDrawn v) pa := hvw
    obtain ⟨hp, -, hc, hm, hb⟩ := fill_keeps hdw x.toNat
    refine ⟨_, hx, hp.trans (hpackets.trans (by rw [hframe])), hc.trans (hcolls.trans (by rw [hframe])), hm.trans (hmsgs.trans (by rw [hframe])), fun a ha => ?_⟩
    exact (hb a ha).trans (byteAt_of_mem (t := twoDrawn v) (s := u) hmem a)
  cases m with
  | none =>
    obtain ⟨t, ht, hp, hc, hm, hb⟩ := hdone u (.refl fe u) rfl rfl huw rfl rfl rfl
    exact ⟨t, ht, hwritten, hp, hc, hm, hb⟩
  | some e =>
    obtain ⟨a, f, n⟩ := e
    have hspend := (measured_spend u a f n).state
    obtain ⟨t, ht, hp, hc, hm, hb⟩ := hdone (u.spend a f n) (sameReach_spend ..) (by rw [hspend]) (by rw [hspend]) (unwatched_spend huw a f n)
      (by rw [hspend]) (by rw [hspend]) (by rw [hspend])
    exact ⟨t, ht, hwritten, hp, hc, hm, hb⟩

end Completion

theorem collectiveComplete_spec {s : State} {n pa : Nat} {c : Collective} {k : Packet} (hc : sfind s.colls n = some c)
    (hready : c.ready (sget [] s.pkg.groups c.group).length = true) (hbudget : s.throttled .collectives 0 = false)
    (hpa : s.fePa c.fe true .mailbox c.word = some pa) (hempty : s.isFull pa = false) (hfirst : s.oldestSt pa = none) (hw : Unwatched s pa)
    (hk : sfind s.packets c.packet = some k)
    (hstand : TablesStand s c.fe c.dst (c.result (sget [] s.pkg.groups c.group).length).length (some c.word)) : ∃ t u,
      exec (.collectiveComplete n) s = .next t ∧ sfind t.colls n = none ∧ sfind t.packets c.packet = some { k with stage := .complete } ∧
      FeWritten s c.fe c.dst (c.result (sget [] s.pkg.groups c.group).length) u ∧ ∀ a, a ∉ bytesIn [(pa, 8)] → t.byteAt a = u.byteAt a := by
  obtain ⟨t, ht, hwritten, hpackets, -, -, hbytes⟩ := written_then_filled hpa hempty hfirst hw hstand
    (some (.collectives, 0, (c.result (sget [] s.pkg.groups c.group).length).length))
  let w : State := { t with colls := sdrop t.colls n }
  have hmem : (w.onPacket c.packet fun k => { k with stage := .complete }).wake.mem = t.mem := onPacket_mem ..
  refine ⟨(w.onPacket c.packet fun k => { k with stage := .complete }).wake, _, ?_, ?_,
    sfind_completed (s := w) (by rw [show w.packets = s.packets from hpackets]; exact hk), hwritten, fun a ha => (byteAt_of_mem hmem a).trans (hbytes a ha)⟩
  · rw [exec_collectiveComplete, execCollectiveComplete]
    refine congrArg State.event ?_
    rw [hc]
    have hgo : ¬ (!c.ready (s.groupOf c.group).length || s.throttled .collectives 0) = true := by
      rw [State.groupOf, hready, hbudget]
      decide
    refine (if_neg hgo).trans ?_
    dsimp only at ht ⊢
    rw [State.groupOf, ht]
  · rw [show (w.onPacket c.packet fun k => { k with stage := .complete }).wake.colls = w.colls from onPacket_colls ..]
    exact sfind_sdrop_same ..

theorem messageReceive_spec {s : State} {n : Nat} {m : Message} (hm : sfind s.msgsIn n = some m) :
    (s.fePa m.fe true .mailbox m.ringWord = none → ∃ t, exec (.messageReceive n) s = .next t ∧ sfind t.msgsIn n = none ∧ t.mem = s.mem) ∧
    (∀ pa, s.fePa m.fe true .mailbox m.ringWord = some pa → s.isFull pa = false → s.oldestSt pa = none → Unwatched s pa →
      TablesStand s m.fe (m.ringWord + 8) m.payload.length (some m.ringWord) → ∃ t u, exec (.messageReceive n) s = .next t ∧
      sfind t.msgsIn n = none ∧ FeWritten s m.fe (m.ringWord + 8) m.payload u ∧ ∀ a, a ∉ bytesIn [(pa, 8)] → t.byteAt a = u.byteAt a) := by
  rw [exec_messageReceive, execMessageReceive, hm]
  refine ⟨fun hnone => ⟨State.wake { s with msgsIn := sdrop s.msgsIn n }, congrArg State.event (if_pos (by rw [hnone]; rfl)), sfind_sdrop_same .., rfl⟩,
    fun pa hpa hempty hfirst hw hstand => ?_⟩
  obtain ⟨t, ht, hwritten, -, -, hmsgs, hbytes⟩ := written_then_filled hpa hempty hfirst hw hstand none
  refine ⟨State.wake { t with msgsIn := sdrop t.msgsIn n }, _, congrArg State.event ((if_neg (by rw [hpa]; exact Bool.false_ne_true)).trans ?_), sfind_sdrop_same .., hwritten, hbytes⟩
  dsimp only at ht ⊢
  rw [ht]

/-! ### Results of collectives (R366) -/

theorem numOf_bytesOf (v n : Nat) : numOf (bytesOf v n) = v % 256 ^ n := by
  induction n generalizing v with
  | zero => rw [pow_zero, Nat.mod_one]; rfl
  | succ n ih =>
    have hhead : bytesOf v (n + 1) = BitVec.ofNat 8 v :: bytesOf (v / 256) n := by
      rw [bytesOf, List.range_succ_eq_map, List.map_cons, List.map_map, pow_zero, Nat.div_one]
      refine congrArg (BitVec.ofNat 8 v :: ·) (List.map_congr_left fun k _ => ?_)
      rw [Function.comp_apply, Nat.div_div_eq_div_mul, Nat.succ_eq_add_one, pow_succ, Nat.mul_comm]
    rw [hhead]
    show (BitVec.ofNat 8 v).toNat + 256 * numOf (bytesOf (v / 256) n) = _
    rw [ih, BitVec.toNat_ofNat, pow_succ 256, Nat.mul_comm (256 ^ n), Nat.mod_mul]

theorem take_drop_flatMap {f : Nat → List Byte} {m : Nat} (hf : ∀ i, (f i).length = m) (n : Nat) {i : Nat} (hi : i < n) :
    (((List.range n).flatMap f).drop (m * i)).take m = f i := by
  induction n with
  | zero => omega
  | succ n ih =>
    have hlen : ((List.range n).flatMap f).length = m * n := by
      rw [List.length_flatMap]
      simp [hf, Nat.mul_comm]
    rw [List.range_succ, List.flatMap_append, List.flatMap_cons, List.flatMap_nil, List.append_nil]
    by_cases hlt : i < n
    · have hroom : m * i + m ≤ m * n := by
        calc m * i + m = m * (i + 1) := by ring
          _ ≤ m * n := Nat.mul_le_mul_left m hlt
      rw [List.drop_append_of_le_length (by rw [hlen]; omega), List.take_append_of_le_length (by rw [List.length_drop, hlen]; omega)]
      exact ih hlt
    · obtain rfl : i = n := by omega
      rw [← hlen, List.drop_left, ← hf i, List.take_length]

theorem treeJoin_two (f : Nat → Nat → Nat) (a b : Nat) : treeJoin f 2 [a, b] = f a b := by
  simp [treeJoin, Nat.mod_one]

theorem result_spec (c : Collective) (n : Nat) : (c.op = 2 → c.result n = sget [] c.contrib c.root) ∧
    (c.op = 3 → c.result n = (List.range n).flatMap (sget [] c.contrib)) ∧
    (c.op = 0 → c.ty = 2 → n = 2 → ∀ i < c.len / 4, numOf (((c.result n).drop (4 * i)).take 4) =
      (numOf (((sget [] c.contrib 0).drop (4 * i)).take 4) + numOf (((sget [] c.contrib 1).drop (4 * i)).take 4)) % 2 ^ 32) := by
  refine ⟨fun hop => ?_, fun hop => ?_, fun hop hty hn i hi => ?_⟩
  · rw [Collective.result, hop] <;> rfl
  · rw [Collective.result, hop] <;> rfl
  · subst hn
    have hresult : c.result 2 = (List.range (c.len / 4)).flatMap fun i =>
        bytesOf (treeJoin (collJoin 0 2) 2 [elemOf (sget [] c.contrib 0) 4 i, elemOf (sget [] c.contrib 1) 4 i]) 4 := by
      rw [Collective.result, hop, hty]
      rfl
    have hlen : ∀ v, (bytesOf v 4).length = 4 := fun v => by rw [bytesOf, List.length_map, List.length_range]
    rw [hresult, take_drop_flatMap (fun _ => hlen _) _ hi, numOf_bytesOf, treeJoin_two]
    exact Nat.mod_mod ..

/-- Settles O44: a walk's entry is found first; an arrival filters its quad's cache; a completion fills its word behind what it has written, and
a result is joined element by element. -/
theorem walksInvalidationsAndCollectives : Obligations.WalksInvalidationsAndCollectives :=
  ⟨fun s quad fe va w hquad hva hw hle => pageWalk_spec hquad hva hw hle,
    fun s n i quad hi hnew hquad => invalidationArrival_spec hi hnew hquad,
    fun s n i pa k hi harrived holder hpa hempty hfirst hw hk => invalidationComplete_spec hi harrived holder hpa hempty hfirst hw hk,
    fun s n c pa k hc hready hbudget hpa hempty hfirst hw hk _ hstand => collectiveComplete_spec hc hready hbudget hpa hempty hfirst hw hk hstand,
    fun c n => result_spec c n, fun s n m hm => messageReceive_spec hm⟩

end Sys2Proof.Proofs
end

section
/-! PROOFS. Firmware commands (R317, R318, R330, R349, R369 to R372, R377 to R380, R397): O45. -/

namespace Sys2Proof.Proofs

open Sys2Proof Sys2Proof.Machine Sys2Proof.Says

/-! ### Stores by key -/

theorem sget_filterKeys {α : Type} (d : α) (p : Nat → Bool) (m : Sparse α) (k : Nat) :
    sget d (m.filter fun e => p e.1) k = if p k then sget d m k else d := by
  induction m with
  | nil => exact (ite_self d).symm
  | cons e m ih =>
    obtain ⟨j, v⟩ := e
    by_cases hp : p j = true
    · rw [List.filter_cons_of_pos (p := fun e : Nat × α => p e.1) hp, sget, sget, ih]
      by_cases hj : j = k
      · rw [if_pos hj, if_pos hj, if_pos (hj ▸ hp)]
      · rw [if_neg hj, if_neg hj]
    · rw [List.filter_cons_of_neg (p := fun e : Nat × α => p e.1) hp, ih, sget]
      by_cases hj : j = k
      · rw [if_neg (hj ▸ hp), if_neg (hj ▸ hp)]
      · rw [if_neg hj]

theorem sget_outside {α : Type} (d : α) (block per : Nat) (m : Sparse α) (k : Nat) :
    sget d (outside block per m) k = if k / per = block then d else sget d m k := by
  rw [outside, sget_filterKeys d (fun j => j / per != block)]
  by_cases h : k / per = block
  · rw [if_pos h, if_neg (by simp [h])]
  · rw [if_neg h, if_pos (by simpa using h)]

theorem ownerOf_setOwners {s t : State} {m : Mem} {bs : List Nat} {o : Owner} (ht : t.mem.owner = (m.setOwners bs o).owner) (hm : m.owner = s.mem.owner)
    (a : Nat) : t.ownerOf a = if a / 2 ^ 21 ∈ bs then o else s.ownerOf a := by
  rw [State.ownerOf, ht]
  refine (sget_foldl_sset Owner.free o bs m.owner (a / 2 ^ 21)).trans ?_
  rw [hm]
  rfl

theorem mem_blocksIn {base len : Nat} (hbase : base % 2 ^ 21 = 0) (hlen : len % 2 ^ 21 = 0) (a : Nat) :
    a / 2 ^ 21 ∈ blocksIn base len ↔ base ≤ a ∧ a < base + len := by
  simp only [blocksIn, List.mem_map, List.mem_range]
  constructor
  · rintro ⟨i, hi, hia⟩
    omega
  · rintro ⟨hlow, hhigh⟩
    exact ⟨a / 2 ^ 21 - base / 2 ^ 21, by omega, by omega⟩

theorem mem_linesIn {base len : Nat} (hbase : base % 64 = 0) (hlen : len % 64 = 0) (l : Nat) :
    l ∈ linesIn base len ↔ base ≤ 64 * l ∧ 64 * l < base + len := by
  simp only [linesIn, List.mem_map, List.mem_range]
  constructor
  · rintro ⟨i, hi, hil⟩
    omega
  · rintro ⟨hlow, hhigh⟩
    exact ⟨l - base / 64, by omega, by omega⟩

/-! ### Descriptors (R369, R370, R372) -/

theorem bits_nonempty (d : DWord) : (!((List.range 16).filter fun c => d.getLsbD (15 + c)).isEmpty) = true ↔ d.toNat / 2 ^ 15 % 2 ^ 16 ≠ 0 := by
  have hextract : d.toNat / 2 ^ 15 % 2 ^ 16 = (d.extractLsb' 15 16).toNat := by rw [BitVec.extractLsb'_toNat, Nat.shiftRight_eq_div_pow]
  rw [hextract, Bool.not_eq_true', List.isEmpty_eq_false_iff]
  constructor
  · intro hsome hzero
    obtain ⟨c, hc⟩ := List.exists_mem_of_ne_nil _ hsome
    obtain ⟨hlt, hbit⟩ := List.mem_filter.1 hc
    have hx : d.extractLsb' 15 16 = 0 := BitVec.eq_of_toNat_eq hzero
    have hget : (d.extractLsb' 15 16).getLsbD c = true := by
      rw [BitVec.getLsbD_extractLsb', decide_eq_true (List.mem_range.1 hlt), Bool.true_and]
      exact hbit
    rw [hx] at hget
    simp at hget
  · intro hne hempty
    refine hne ((congrArg BitVec.toNat (BitVec.eq_of_getLsbD_eq (y := 0#16) fun i hi => ?_)).trans rfl)
    rw [BitVec.getLsbD_extractLsb', decide_eq_true hi, Bool.true_and, BitVec.getLsbD_zero]
    have hno := List.filter_eq_nil_iff.1 hempty i (List.mem_range.2 hi)
    simpa using hno

theorem qb_desc (l : Lodging) : l.qb = l.desc.toNat % 2 ^ 7 := by
  rw [Lodging.qb, BitVec.extractLsb'_toNat, Nat.shiftRight_zero]

theorem nq_desc (l : Lodging) : l.nq = l.desc.toNat / 2 ^ 7 % 2 ^ 8 := by
  rw [Lodging.nq, BitVec.extractLsb'_toNat, Nat.shiftRight_eq_div_pow]

theorem descWithin_iff (fe : Nat) (d : DWord) : descWithin fe d = true ↔ DescLimits fe d := by
  have hslot : (d.extractLsb' 31 5).toNat = d.toNat / 2 ^ 31 % 2 ^ 5 := by rw [BitVec.extractLsb'_toNat, Nat.shiftRight_eq_div_pow]
  have hhigh : d.extractLsb' 37 27 = 0 ↔ d.toNat / 2 ^ 37 = 0 := by
    rw [← BitVec.toNat_inj, BitVec.extractLsb'_toNat, Nat.shiftRight_eq_div_pow]
    have hlt : d.toNat / 2 ^ 37 < 2 ^ 27 := by have := d.isLt; omega
    rw [Nat.mod_eq_of_lt hlt]
    exact Iff.rfl
  simp only [descWithin, DescLimits, Bool.and_eq_true, decide_eq_true_eq, beq_iff_eq, hslot, hhigh, Lodging.colours, bits_nonempty, qb_desc, nq_desc, and_assoc]

section Descriptor

variable {s : State} {fe : Nat} {d : DWord}

/-- What a descriptor write that the limits allow does. -/
def described (s : State) (fe : Nat) (d : DWord) : State :=
  if !activeBit d then
    if activeBit (s.lod fe).desc then (s.closeWindows (s.windowsOf fe)).onLod fe fun l => { Lodging.reset with
      desc := d, root1 := l.root1, root2 := l.root2, watchdog := l.watchdog, stream := l.stream }
    else s.onLod fe fun l => { l with desc := d }
  else if !s.descApart fe d then s
  else if activeBit (s.lod fe).desc then s.onLod fe fun l => { l with desc := d }
  else s.newLodging fe d

theorem exec_descriptor_refused (h : 31 < fe ∨ s.pkg.service = .recovery ∨ ¬ DescLimits fe d) :
    exec (.lodgingDescriptorWrite fe d) s = .next s.wake := by
  rw [exec_lodgingDescriptorWrite, execLodgingDescriptorWrite]
  refine congrArg State.event (if_pos ?_)
  rcases h with hfe | hservice | hlimits
  · simp [hfe]
  · simp [hservice]
  · have hno : descWithin fe d = false := by rw [← Bool.not_eq_true, descWithin_iff]; exact hlimits
    simp [hno]

theorem exec_descriptor (hfe : fe ≤ 31) (hservice : s.pkg.service ≠ .recovery) (hlimits : DescLimits fe d)
    (hreduced : s.pkg.service = .reduced → d.toNat % 2 ^ 7 + d.toNat / 2 ^ 7 % 2 ^ 8 ≤ 32) : exec (.lodgingDescriptorWrite fe d) s =
      .next (if activeBit (s.lod fe).desc = true ∧ (s.lod fe).st ≠ .saved then s else described s fe d).wake := by
  rw [exec_lodgingDescriptorWrite, execLodgingDescriptorWrite]
  refine congrArg State.event ?_
  have hwithin := (descWithin_iff fe d).2 hlimits
  have hsmall : (s.pkg.service == .reduced && decide (32 < ({ Lodging.reset with desc := d } : Lodging).qb + ({ Lodging.reset with desc := d } : Lodging).nq)) = false := by
    by_cases hr : s.pkg.service = .reduced
    · have hle := hreduced hr
      rw [qb_desc, nq_desc]
      simp [hr]
      omega
    · simp [hr]
  by_cases hbusy : activeBit (s.lod fe).desc = true ∧ (s.lod fe).st ≠ .saved
  · rw [if_pos hbusy]
    exact if_pos (by simp [hbusy])
  · rw [if_neg hbusy]
    refine if_neg ?_
    dsimp only
    rw [hsmall, hwithin]
    simp only [Bool.or_eq_true, decide_eq_true_eq, Bool.and_eq_true, bne_iff_ne, beq_iff_eq, Bool.not_true, Bool.false_eq_true, or_false, not_or]
    exact ⟨⟨by omega, hservice⟩, hbusy⟩

theorem newLodging_spec (s : State) (fe : Nat) (d : DWord) : (s.newLodging fe d).mem = s.mem ∧ (s.newLodging fe d).parties = s.parties ∧
    (s.newLodging fe d).pkg = { s.pkg with draws := s.pkg.draws + 2 } ∧ ∀ j, (s.newLodging fe d).lod j = if j = fe then { Lodging.reset with
      desc := d, st := .running, root1 := (s.lod fe).root1, root2 := (s.lod fe).root2, watchdog := (s.lod fe).watchdog
      keyDraw := s.pkg.draws, kemDraw := s.pkg.draws + 1, stream := (s.lod fe).stream } else s.lod j :=
  ⟨rfl, rfl, rfl, fun j => lod_onLod s fe (fun _ => { Lodging.reset with
      desc := d, st := .running, root1 := (s.lod fe).root1, root2 := (s.lod fe).root2, watchdog := (s.lod fe).watchdog
      keyDraw := s.pkg.draws, kemDraw := s.pkg.draws + 1, stream := (s.lod fe).stream }) j⟩

theorem lodIs_onLod (s : State) (fe : Nat) (f : Lodging → Lodging) : LodIs s fe (f (s.lod fe)) (s.onLod fe f).wake := ⟨rfl, lod_onLod s fe f⟩

theorem descriptor_spec (hfe : fe ≤ 31) (hservice : s.pkg.service ≠ .recovery) (hlimits : DescLimits fe d)
    (hreduced : s.pkg.service = .reduced → d.toNat % 2 ^ 7 + d.toNat / 2 ^ 7 % 2 ^ 8 ≤ 32) : ∃ t, exec (.lodgingDescriptorWrite fe d) s = .next t ∧
    (d.getLsbD 36 = true → s.descApart fe d = true → (s.lod fe).desc.getLsbD 36 = false → t.mem = s.mem ∧ t.parties = s.wake.parties ∧
      t.pkg = { s.pkg with draws := s.pkg.draws + 2 } ∧ ∀ j, t.lod j = if j = fe then { Lodging.reset with
        desc := d, st := .running, root1 := (s.lod fe).root1, root2 := (s.lod fe).root2, watchdog := (s.lod fe).watchdog
        keyDraw := s.pkg.draws, kemDraw := s.pkg.draws + 1, stream := (s.lod fe).stream } else s.lod j) ∧
    (d.getLsbD 36 = true → s.descApart fe d = true → (s.lod fe).desc.getLsbD 36 = true → (s.lod fe).st = .saved →
      LodIs s fe { s.lod fe with desc := d } t) ∧
    (d.getLsbD 36 = false → (s.lod fe).desc.getLsbD 36 = true → (s.lod fe).st = .saved → s.windowsOf fe = [] →
      LodIs s fe { Lodging.reset with
        desc := d, root1 := (s.lod fe).root1, root2 := (s.lod fe).root2, watchdog := (s.lod fe).watchdog, stream := (s.lod fe).stream } t) ∧
    (d.getLsbD 36 = false → (s.lod fe).desc.getLsbD 36 = false → LodIs s fe { s.lod fe with desc := d } t) ∧
    ((s.lod fe).desc.getLsbD 36 = true → (s.lod fe).st ≠ .saved → t = s.wake) ∧
    (d.getLsbD 36 = true → s.descApart fe d = false → t = s.wake) := by
  refine ⟨_, exec_descriptor hfe hservice hlimits hreduced, fun hd hapart hwas => ?_, fun hd hapart hwas hsaved => ?_, fun hd hwas hsaved hwin => ?_,
    fun hd hwas => ?_, fun hwas hst => ?_, fun hd hapart => ?_⟩
  · have hfree : ¬ (activeBit (s.lod fe).desc = true ∧ (s.lod fe).st ≠ .saved) := fun h => Bool.false_ne_true (hwas.symm.trans h.1)
    have hgo : described s fe d = s.newLodging fe d := by
      have hd' : activeBit d = true := hd
      have hwas' : activeBit (s.lod fe).desc = false := hwas
      simp [described, hd', hapart, hwas']
    rw [if_neg hfree, hgo]
    obtain ⟨hmem, hparties, hpkg, hlods⟩ := newLodging_spec s fe d
    exact ⟨hmem, congrArg (List.map _) hparties, hpkg, hlods⟩
  · have hfree : ¬ (activeBit (s.lod fe).desc = true ∧ (s.lod fe).st ≠ .saved) := fun h => h.2 hsaved
    have hgo : described s fe d = s.onLod fe fun l => { l with desc := d } := by
      have hd' : activeBit d = true := hd
      have hwas' : activeBit (s.lod fe).desc = true := hwas
      simp [described, hd', hapart, hwas']
    rw [if_neg hfree, hgo]
    exact lodIs_onLod s fe fun l => { l with desc := d }
  · have hfree : ¬ (activeBit (s.lod fe).desc = true ∧ (s.lod fe).st ≠ .saved) := fun h => h.2 hsaved
    have hgo : described s fe d = s.onLod fe fun l => { Lodging.reset with
        desc := d, root1 := l.root1, root2 := l.root2, watchdog := l.watchdog, stream := l.stream } := by
      have hd' : activeBit d = false := hd
      have hwas' : activeBit (s.lod fe).desc = true := hwas
      simp [described, hd', hwas', hwin, State.closeWindows]
    rw [if_neg hfree, hgo]
    exact lodIs_onLod s fe fun l => { Lodging.reset with desc := d, root1 := l.root1, root2 := l.root2, watchdog := l.watchdog, stream := l.stream }
  · have hfree : ¬ (activeBit (s.lod fe).desc = true ∧ (s.lod fe).st ≠ .saved) := fun h => Bool.false_ne_true (hwas.symm.trans h.1)
    have hgo : described s fe d = s.onLod fe fun l => { l with desc := d } := by
      have hd' : activeBit d = false := hd
      have hwas' : activeBit (s.lod fe).desc = false := hwas
      simp [described, hd', hwas']
    rw [if_neg hfree, hgo]
    exact lodIs_onLod s fe fun l => { l with desc := d }
  · rw [if_pos ⟨hwas, hst⟩]
  · have hgo : described s fe d = s := by
      have hd' : activeBit d = true := hd
      simp [described, hd', hapart]
    rw [hgo, ite_self]

end Descriptor

/-! ### Blocks and libraries (R349, R361, R371) -/

theorem blockAssign_spec {s : State} {b : Nat} {o : Owner} (hwin : ∀ w, sget Owner.free s.mem.owner b ≠ .window w)
    (ho : o = .free ∨ ∃ n, n < 32 ∧ o = .key n) (hhere : 2 ^ 21 * b / 2 ^ 44 = s.pkg.number) (hbacked : s.backed (2 ^ 21 * b % 2 ^ 44) = true) :
    ∃ t, exec (.blockAssign b o) s = .next t ∧ t = { s.wake with mem := t.mem } ∧ ∀ a, t.ownerOf a = (if a / 2 ^ 21 = b then o else s.ownerOf a) ∧
      t.byteAt a = (if a / 2 ^ 21 = b then 0 else s.byteAt a) ∧ (a / 2 ^ 21 = b → t.isFull a = false) ∧
      (a / 2 ^ 21 ≠ b → t.isFull a = s.isFull a) := by
  let u : State := { s with mem := (s.mem.zeroBlock b).setOwners [b] o }
  have hfull : ∀ a, u.isFull a = if a / 2 ^ 21 = b then false else s.isFull a := fun a => by
    refine (sget_outside false b (2 ^ 18) s.mem.full (a / 8)).trans ?_
    rw [Nat.div_div_eq_div_mul]
    rfl
  refine ⟨u.wake, ?_, rfl, fun a => ⟨?_, sget_outside 0 b (2 ^ 21) s.mem.bytes a, fun h => (hfull a).trans (if_pos h), fun h => (hfull a).trans (if_neg h)⟩⟩
  · rw [exec_blockAssign]
    unfold execBlockAssign
    refine congrArg State.event ?_
    refine if_neg fun h => ?_
    simp only [Bool.or_eq_true, Bool.not_eq_true', bne_iff_ne, ne_eq] at h
    rcases h with ((h | h) | h) | h
    · cases hb : sget Owner.free s.mem.owner b with
      | window w => exact hwin w hb
      | free => simp [hb] at h
      | key n => simp [hb] at h
    · rcases ho with rfl | ⟨n, hn, rfl⟩
      · cases h
      · simp [hn] at h
    · exact h hhere
    · exact Bool.false_ne_true (h.symm.trans hbacked)
  · refine (ownerOf_setOwners (t := u.wake) (s := s) (m := s.mem.zeroBlock b) rfl rfl a).trans ?_
    simp only [List.mem_singleton]

theorem blockAssign_refused {s : State} {b : Nat} {o : Owner} {w : Nat} (h : sget Owner.free s.mem.owner b = .window w) :
    exec (.blockAssign b o) s = .next s.wake := by
  rw [exec_blockAssign]
  unfold execBlockAssign
  refine congrArg State.event (if_pos ?_)
  simp [h]

theorem libAt_congr {s t : State} {fe : Nat} (h : SameTables fe s t) (hmem : t.mem = s.mem) (quad : Nat) (base : DWord) (off n : Nat) :
    t.libAt fe quad base off n = s.libAt fe quad base off n := by
  simp only [State.libAt, State.stewardPa, h.reach, hmem, h.loadN]

theorem libraryInstall_spec {s : State} {fe : Nat} {base : DWord} {shape : Nat} (prio : BitVec 4) (hactive : (s.lod fe).desc.getLsbD 36 = true)
    (hshape : s.libAt fe (s.lod fe).qb base 0x30 4 = some shape) (hw : shape % 4 ≠ 3) (hlow : 1 ≤ shape / 2 ^ 8 % 128) (hhigh : shape / 2 ^ 8 % 128 ≤ 64)
    (hfits : 16 * 2 ^ (shape % 4) * (16 * (shape / 2 ^ 8 % 128)) ≤ 8192) : ∃ t, exec (.libraryInstall fe base prio) s = .next t ∧
      LodIs s fe { s.lod fe with lib := some base, planPrio := prio.toNat } t := by
  let f : Lodging → Lodging := fun l => { l with lib := some base, planPrio := prio.toNat }
  let u := s.onLod fe f
  refine ⟨u.wake, ?_, lodIs_onLod s fe f⟩
  have hlib : (u.lod fe).lib = some base := congrArg Lodging.lib ((lod_onLod s fe f fe).trans (if_pos rfl))
  have hat : u.libAt fe (s.lod fe).qb base 0x30 4 = some shape :=
    (libAt_congr (.onLod fe s fe (f := f) (fun _ => rfl) fun _ => rfl) rfl ..).trans hshape
  have hread : (u.library fe (s.lod fe).qb).shape = shape := by
    unfold State.library
    rw [hlib]
    dsimp only
    rw [hat]
    rfl
  rw [exec_libraryInstall, execLibraryInstall]
  refine congrArg State.event (if_neg fun h => ?_)
  simp only [Bool.or_eq_true, Bool.not_eq_true', beq_iff_eq, decide_eq_true_eq] at h
  rw [show (s.onLod fe fun l => { l with lib := some base, planPrio := prio.toNat }) = u from rfl] at h
  simp only [Lib.rt, Lib.width, hread] at h
  rcases h with ((((h | h) | h) | h) | h) | h
  · exact Bool.false_ne_true (h.symm.trans hactive)
  · rw [hat] at h
    cases h
  · exact hw h
  · omega
  · omega
  · omega

theorem descriptorsBlocksAndLibraries : Says.DescriptorsBlocksAndLibraries :=
  ⟨fun s fe d hfe hservice hlimits hreduced => descriptor_spec hfe hservice hlimits hreduced, fun s fe d h => exec_descriptor_refused h,
    fun s b o hwin ho hhere hbacked => blockAssign_spec hwin ho hhere hbacked, fun s b o w h => blockAssign_refused h,
    fun s fe base prio shape hactive hshape hw hlow hhigh hfits => libraryInstall_spec prio hactive hshape hw hlow hhigh hfits⟩

end Sys2Proof.Proofs
end

section
/-! PROOFS. Windows, pinned lines and reports (R317, R318, R330, R371, R372, R377, R378, R380): O45. -/

namespace Sys2Proof.Proofs

open Sys2Proof Sys2Proof.Machine Sys2Proof.Says

/-! ### Lines that are written back (R329, R374) -/

/-- `t` is `s` after lines were written or sealed again: of memory, counters, stored forms and marks of cellar lines differ, and no pin. -/
structure LinesSealed (s t : State) : Prop where
  mem : t.mem = { s.mem with counters := t.mem.counters, nodes := t.mem.nodes, dram := t.mem.dram, cellar := t.mem.cellar }
  pins : ∀ l, (sget none t.mem.cellar l).map (·.pinned) = (sget none s.mem.cellar l).map (·.pinned)

namespace LinesSealed

theorem of_mem {s t : State} (h : t.mem = s.mem) : LinesSealed s t := ⟨by rw [h], fun l => by rw [h]⟩

theorem refl (s : State) : LinesSealed s s := .of_mem rfl

theorem trans {s t u : State} (h : LinesSealed s t) (h' : LinesSealed t u) : LinesSealed s u := by
  refine ⟨h'.mem.trans ?_, fun l => (h'.pins l).trans (h.pins l)⟩
  rw [h.mem]

theorem foldl {α : Type} {f : State → α → State} (hf : ∀ s a, LinesSealed s (f s a)) (l : List α) (s : State) : LinesSealed s (l.foldl f s) := by
  induction l generalizing s with
  | nil => exact refl s
  | cons a l ih => exact (hf s a).trans (ih _)

theorem putDram (s : State) (line major minor : Nat) : LinesSealed s (s.putDram line major minor) := ⟨rfl, fun _ => rfl⟩

theorem counted (s : State) (c : Sparse Counters) (n : Sparse Counters) : LinesSealed s { s with mem := { s.mem with counters := c, nodes := n } } :=
  ⟨rfl, fun _ => rfl⟩

theorem reseal (s : State) (block line : Nat) (b : Counters × Bool) :
    LinesSealed s (if b.2 then (List.range 64).foldl (fun (s : State) i => s.putDram (64 * block + i) b.1.major 0) s
      else s.putDram line b.1.major (sget 0 b.1.minor (line % 64))) := by
  split
  · exact foldl (fun s i => putDram s _ _ _) _ _
  · exact putDram ..

theorem markClean (s : State) (line : Nat) :
    LinesSealed s (match sget none s.mem.cellar line with
      | some c => { s with mem := { s.mem with cellar := sset none s.mem.cellar line (some { c with dirty := false }) } }
      | none => s) := by
  cases hc : sget none s.mem.cellar line with
  | none => exact refl s
  | some c =>
    refine ⟨rfl, fun l => ?_⟩
    show (sget none (sset none s.mem.cellar line (some { c with dirty := false })) l).map (·.pinned) = _
    rw [sget_sset]
    split
    · next h => rw [h, hc]; rfl
    · rfl

theorem charge (s : State) (a : Nat) :
    LinesSealed s (match s.ownerOf a with
      | .key n => (s.spend .tenant n 64).spend .counters 0 1
      | _ => s.spend .counters 0 1) := by
  have hspend : ∀ (s : State) a fe n, LinesSealed s (s.spend a fe n) := fun s a fe n => .of_mem (SameView.spend s a fe n).mem
  cases s.ownerOf a with
  | key n => exact (hspend _ _ _ _).trans (hspend _ _ _ _)
  | free => exact hspend _ _ _ _
  | window w => exact hspend _ _ _ _

theorem lineWrite (s : State) (line : Nat) : LinesSealed s (s.lineWrite line) := by
  unfold State.lineWrite
  split
  · exact refl s
  · extract_lets block b nodes m₁ s₁ s₂ m₂ s₃
    have h₁ : LinesSealed s s₁ := counted s _ _
    have h₂ : LinesSealed s₁ s₂ := reseal s₁ block line b
    have h₃ : LinesSealed s₂ s₃ := markClean s₂ line
    exact (h₁.trans (h₂.trans h₃)).trans (charge s₃ _)

theorem linesWrite (s : State) (ls : List Nat) : LinesSealed s (s.linesWrite ls) := foldl (fun s l => lineWrite s l) ls s

theorem byteAt {s t : State} (h : LinesSealed s t) (a : Nat) : t.byteAt a = s.byteAt a := by
  rw [State.byteAt, h.mem]
  rfl

end LinesSealed

/-! ### Windows (R317, R318, R377, R378) -/

/-- Lines sealed again change the stored forms, and nothing else of the machine. -/
theorem resealRange_frame (s : State) (base len : Nat) : ∃ d, s.resealRange base len = { s with mem := { s.mem with dram := d } } := by
  have hfold : ∀ (es : List (Nat × Option DramLine)) (s : State), ∃ d, es.foldl (fun (s : State) e =>
      let c := sget Counters.reset s.mem.counters (e.1 / 64)
      s.putDram e.1 c.major (sget 0 c.minor (e.1 % 64))) s = { s with mem := { s.mem with dram := d } } := fun es => by
    induction es with
    | nil => exact fun s => ⟨s.mem.dram, rfl⟩
    | cons e es ih =>
      intro s
      obtain ⟨d, hd⟩ := ih (s.putDram e.1 (sget Counters.reset s.mem.counters (e.1 / 64)).major
        (sget 0 (sget Counters.reset s.mem.counters (e.1 / 64)).minor (e.1 % 64)))
      exact ⟨d, hd⟩
  exact hfold _ s

theorem winWithin_aligned {s : State} {q : WinRequest} (h : s.winWithin q = true) : q.base % 2 ^ 21 = 0 ∧ q.len % 2 ^ 21 = 0 := by
  simp only [State.winWithin, Bool.and_eq_true, beq_iff_eq] at h
  obtain ⟨⟨⟨⟨⟨⟨⟨⟨-, hbase⟩, hlen⟩, -⟩, -⟩, -⟩, -⟩, -⟩, -⟩ := h
  exact ⟨hbase, hlen⟩

/-- A window of a request, open under a number, before its lines are sealed again. -/
def opened (s : State) (q : WinRequest) (w : Nat) : State :=
  ({ s with mem := { (s.mem.setOwners (blocksIn q.base q.len) (.window w)) with
    windows := sset none s.mem.windows w (some ⟨q.owner, q.guest, q.base, q.len, q.write, q.tl, s.pkg.draws⟩) } }).onPkg fun k =>
    { k with draws := k.draws + 1 }

theorem winOpen_refused {s : State} {q : WinRequest}
    (h : s.winWithin q = false ∨ ∃ g ∈ s.tags, q.base ≤ 4 * g.granule ∧ 4 * g.granule < q.base + q.len) : exec (.winOpen q) s = .next s.wake := by
  rw [exec_winOpen, execWinOpen]
  refine congrArg State.event (if_pos ?_)
  rcases h with h | ⟨g, hg, hlow, hhigh⟩
  · simp [h]
  · have hany : (s.tags.any fun t => q.base ≤ 4 * t.granule && 4 * t.granule < q.base + q.len) = true :=
      List.any_eq_true.2 ⟨g, hg, by simp [hlow, hhigh]⟩
    rw [hany, Bool.or_true]

theorem winOpen_opens {s : State} {q : WinRequest} (hwithin : s.winWithin q = true)
    (hfree : ∀ g ∈ s.tags, 4 * g.granule < q.base ∨ q.base + q.len ≤ 4 * g.granule) (hslot : ∃ w < 64, s.window? w = none) :
    ∃ w < 64, s.window? w = none ∧ exec (.winOpen q) s = .next ((opened s q w).resealRange q.base q.len).wake := by
  have hsome : ((List.range 64).find? fun w => (s.window? w).isNone).isSome = true := by
    obtain ⟨w, hw, hnone⟩ := hslot
    exact List.find?_isSome.2 ⟨w, List.mem_range.2 hw, by rw [hnone]; rfl⟩
  obtain ⟨w, hfind⟩ := Option.isSome_iff_exists.1 hsome
  have hnone : s.window? w = none := by simpa using List.find?_some hfind
  refine ⟨w, List.mem_range.1 (List.mem_of_find?_eq_some hfind), hnone, ?_⟩
  rw [exec_winOpen, execWinOpen]
  refine congrArg State.event ?_
  have hno : ¬ (!s.winWithin q || s.tags.any fun t => q.base ≤ 4 * t.granule && 4 * t.granule < q.base + q.len) = true := by
    rw [hwithin, Bool.not_true, Bool.false_or, Bool.not_eq_true, List.any_eq_false]
    intro g hg
    simp only [Bool.and_eq_true, decide_eq_true_eq, not_and, not_lt]
    intro hlow
    have := hfree g hg
    omega
  refine (if_neg hno).trans ?_
  rw [hfind]
  rfl

theorem opened_spec {s : State} {q : WinRequest} (hbase : q.base % 2 ^ 21 = 0) (hlen : q.len % 2 ^ 21 = 0) (w : Nat) :
    let t := ((opened s q w).resealRange q.base q.len).wake
    (∀ a, t.byteAt a = s.byteAt a) ∧ t.parties = s.wake.parties ∧ t.pkg = { s.pkg with draws := s.pkg.draws + 1 } ∧
      (∀ j, t.window? j = if j = w then some ⟨q.owner, q.guest, q.base, q.len, q.write, q.tl, s.pkg.draws⟩ else s.window? j) ∧
      ∀ a, t.ownerOf a = if q.base ≤ a ∧ a < q.base + q.len then .window w else s.ownerOf a := by
  obtain ⟨d, hd⟩ := resealRange_frame (opened s q w) q.base q.len
  rw [hd]
  refine ⟨fun _ => rfl, rfl, rfl, fun j => sget_sset none (some _) w j s.mem.windows, fun a => ?_⟩
  refine (ownerOf_setOwners (t := opened s q w) (s := s) (m := s.mem) (bs := blocksIn q.base q.len) (o := .window w) rfl rfl a).trans ?_
  exact if_congr (mem_blocksIn hbase hlen a) rfl rfl

/-! ### Closing a window (R318, R378) -/

theorem storePieces_owner (s : State) (v : Nat) (ps : List (Nat × Nat)) : (s.storePieces v ps).mem.owner = s.mem.owner := by
  induction ps generalizing s v with
  | nil => rfl
  | cons q ps ih => exact (ih ..).trans (storeN_owner ..)

/-- The write of a request to a window lands. -/
def landOne (s : State) (e : Nat × Req) : State :=
  let s := match e.2.kind with
    | .store _ data => s.storePieces data e.2.pieces
    | _ => s
  ((s.dropReq e.1).linesWrite (linesOf e.2.pieces)).napWake (linesOf e.2.pieces)

theorem landOne_owner (s : State) (e : Nat × Req) : (landOne s e).mem.owner = s.mem.owner := by
  have hwrite : ∀ u : State, u.mem.owner = s.mem.owner →
      (((u.dropReq e.1).linesWrite (linesOf e.2.pieces)).napWake (linesOf e.2.pieces)).mem.owner = s.mem.owner := fun u hu => by
    refine Eq.trans ?_ hu
    show ((u.dropReq e.1).linesWrite (linesOf e.2.pieces)).mem.owner = _
    rw [(LinesSealed.linesWrite (u.dropReq e.1) (linesOf e.2.pieces)).mem]
    rfl
  unfold landOne
  dsimp only
  split
  · exact hwrite _ (storePieces_owner ..)
  · exact hwrite s rfl

theorem landWindow_owner (s : State) (base len : Nat) : (s.landWindow base len).mem.owner = s.mem.owner := by
  have hfold : ∀ (es : List (Nat × Req)) (s : State), (es.foldl landOne s).mem.owner = s.mem.owner := fun es => by
    induction es with
    | nil => exact fun _ => rfl
    | cons e es ih => exact fun s => (ih _).trans (landOne_owner s e)
  exact hfold _ s

theorem landWindow_none {s : State} (h : ∀ e ∈ s.reqs, e.2.win = true → e.2.phase ≠ .unacked) (base len : Nat) : s.landWindow base len = s := by
  have hnone : (s.reqs.filter fun (e : Nat × Req) => e.2.win && e.2.phase == .unacked &&
      e.2.pieces.any (fun q => base ≤ q.1 && q.1 < base + len)) = [] := by
    refine List.filter_eq_nil_iff.2 fun e he hin => ?_
    simp only [Bool.and_eq_true, beq_iff_eq] at hin
    exact h e he hin.1.1 hin.1.2
  rw [State.landWindow, hnone]
  rfl

theorem dropGuests_mem (s : State) (owner base len : Nat) : (s.dropGuests owner base len).mem = s.mem := by
  have hfold : ∀ (es : List (Nat × Req)) (s : State), (es.foldl (fun (s : State) (e : Nat × Req) => s.refuse e.1 e.2 0x12 0) s).mem = s.mem := fun es => by
    induction es with
    | nil => exact fun _ => rfl
    | cons e es ih => exact fun s => (ih _).trans (refuse_drops s e.1 e.2 0x12 0).mem
  exact hfold _ s

theorem winClose_none {s : State} {w : Nat} (h : s.window? w = none) : exec (.winClose w) s = .next s.wake := by
  rw [exec_winClose, execWinClose, State.closeWindow, h] <;> rfl

/-- A window's blocks are its owner's again. -/
def givenBack (s : State) (w : Nat) (x : Window) : State :=
  { s with mem := { (s.mem.setOwners (blocksIn x.base x.len) (.key x.owner)) with windows := sset none s.mem.windows w none } }

theorem winClose_spec {s : State} {w : Nat} {x : Window} (h : s.window? w = some x) (hbase : x.base % 2 ^ 21 = 0) (hlen : x.len % 2 ^ 21 = 0) :
    ∃ t, exec (.winClose w) s = .next t ∧ t.window? w = none ∧
      (∀ a, t.ownerOf a = if x.base ≤ a ∧ a < x.base + x.len then .key x.owner else s.ownerOf a) ∧
      ((∀ e ∈ s.reqs, e.2.win = true → e.2.phase ≠ .unacked) → ∀ a, t.byteAt a = s.byteAt a) := by
  let u := s.landWindow x.base x.len
  obtain ⟨d, hd⟩ := resealRange_frame (givenBack u w x) x.base x.len
  let t := (((givenBack u w x).resealRange x.base x.len).dropGuests x.owner x.base x.len).wake
  have hmem : t.mem = { (givenBack u w x).mem with dram := d } := by
    refine (dropGuests_mem ((givenBack u w x).resealRange x.base x.len) x.owner x.base x.len).trans ?_
    rw [hd]
  refine ⟨t, ?_, ?_, fun a => ?_, fun hquiet a => ?_⟩
  · rw [exec_winClose, execWinClose, State.closeWindow, h] <;> rfl
  · rw [State.window?, hmem]
    exact sget_sset_same none none w u.mem.windows
  · refine (ownerOf_setOwners (t := t) (s := s) (m := u.mem) (bs := blocksIn x.base x.len) (o := .key x.owner) (by rw [hmem]; rfl)
      (landWindow_owner s x.base x.len) a).trans ?_
    exact if_congr (mem_blocksIn hbase hlen a) rfl rfl
  · have hu : u = s := landWindow_none hquiet x.base x.len
    rw [State.byteAt, hmem]
    show sget 0 u.mem.bytes a = _
    rw [hu]
    rfl

/-! ### Pinned lines (R330) -/

/-- A cellar in which a line is pinned. -/
def pinned (m : Sparse (Option CellarLine)) (l : Nat) : Sparse (Option CellarLine) :=
  sset none m l (some (match sget none m l with | some c => { c with pinned := true } | none => ⟨false, true⟩))

theorem sget_foldl_pinned (ls : List Nat) (m : Sparse (Option CellarLine)) (l : Nat) :
    (l ∈ ls → ∃ c, sget none (ls.foldl pinned m) l = some c ∧ c.pinned = true) ∧ (l ∉ ls → sget none (ls.foldl pinned m) l = sget none m l) := by
  have hkeeps : ∀ (ls : List Nat) (m : Sparse (Option CellarLine)), (∃ c, sget none m l = some c ∧ c.pinned = true) →
      ∃ c, sget none (ls.foldl pinned m) l = some c ∧ c.pinned = true := fun ls => by
    induction ls with
    | nil => exact fun _ h => h
    | cons k ls ih =>
      rintro m ⟨c, hc, hpin⟩
      refine ih _ ?_
      rw [pinned, sget_sset]
      by_cases hk : l = k
      · subst hk
        rw [if_pos rfl, hc]
        exact ⟨_, rfl, rfl⟩
      · rw [if_neg hk]
        exact ⟨c, hc, hpin⟩
  induction ls generalizing m with
  | nil => exact ⟨fun h => absurd h (List.not_mem_nil), fun _ => rfl⟩
  | cons k ls ih =>
    rw [List.foldl_cons]
    have hget : sget none (pinned m k) l = if l = k then some (match sget none m k with | some c => { c with pinned := true } | none => ⟨false, true⟩)
        else sget none m l := sget_sset ..
    refine ⟨fun hl => ?_, fun hl => ?_⟩
    · by_cases hk : l = k
      · refine hkeeps ls _ ?_
        rw [hget, if_pos hk]
        cases hm : sget none m k with
        | none => exact ⟨_, rfl, rfl⟩
        | some c => exact ⟨_, rfl, rfl⟩
      · exact (ih _).1 ((List.mem_cons.1 hl).resolve_left hk)
    · rw [List.mem_cons, not_or] at hl
      rw [(ih _).2 hl.2, hget, if_neg hl.1]

theorem cellarPin_spec {s : State} {fe base len : Nat} (hbase : base % 64 = 0) (hlen : len % 64 = 0) (hdevice : base % 2 ^ 44 < 2 ^ 42)
    (howner : ∀ a, base ≤ a → a < base + len → s.ownerOf a = .key fe) (hfits : s.pinsFit fe (linesIn base len) = true) : ∃ t,
    exec (.cellarPin fe base len) s = .next t ∧ t = { s.wake with mem := { s.mem with cellar := t.mem.cellar } } ∧
    (∀ l, base ≤ 64 * l → 64 * l < base + len → ∃ c, sget none t.mem.cellar l = some c ∧ c.pinned = true) ∧
    ∀ l, 64 * l < base ∨ base + len ≤ 64 * l → sget none t.mem.cellar l = sget none s.mem.cellar l := by
  let u : State := { s with mem := { s.mem with cellar := (linesIn base len).foldl pinned s.mem.cellar } }
  refine ⟨u.wake, ?_, rfl, fun l hlow hhigh => ?_, fun l hout => ?_⟩
  · rw [exec_cellarPin, execCellarPin]
    refine congrArg State.event (if_neg ?_)
    have hall : (linesIn base len).all (fun k => s.ownerOf (64 * k) == .key fe) = true := by
      refine List.all_eq_true.2 fun l hl => ?_
      obtain ⟨hlow, hhigh⟩ := (mem_linesIn hbase hlen l).1 hl
      exact beq_iff_eq.2 (howner _ hlow hhigh)
    rw [hall, hfits]
    simp [hbase, hlen]
    omega
  · exact (sget_foldl_pinned (linesIn base len) s.mem.cellar l).1 ((mem_linesIn hbase hlen l).2 ⟨hlow, hhigh⟩)
  · refine (sget_foldl_pinned (linesIn base len) s.mem.cellar l).2 fun hl => ?_
    obtain ⟨hlow, hhigh⟩ := (mem_linesIn hbase hlen l).1 hl
    omega

/-- A line is pinned no longer. -/
def Unpinned (s : State) (l : Nat) : Prop := ∀ c, sget none s.mem.cellar l = some c → c.pinned = false

theorem unpinned_sealed {s t : State} (h : LinesSealed s t) {l : Nat} (hs : Unpinned s l) : Unpinned t l := fun c hc => by
  have hmap := h.pins l
  rw [hc] at hmap
  cases hsl : sget none s.mem.cellar l with
  | none => rw [hsl] at hmap; cases hmap
  | some c' =>
    rw [hsl] at hmap
    exact (Option.some.inj hmap).trans (hs c' hsl)

theorem unpin_spec (s : State) (k : Nat) : (∀ a, (s.unpin k).byteAt a = s.byteAt a) ∧ Unpinned (s.unpin k) k ∧
    ∀ l, Unpinned s l → Unpinned (s.unpin k) l := by
  unfold State.unpin
  cases hk : sget none s.mem.cellar k with
  | none => exact ⟨fun _ => rfl, fun c hc => (by rw [hk] at hc; cases hc), fun _ h => h⟩
  | some c =>
    dsimp only
    by_cases hpin : c.pinned = true
    · rw [if_pos hpin]
      have hwrite : LinesSealed s (if c.dirty then s.lineWrite k else s) := by
        split
        · exact .lineWrite s k
        · exact .refl s
      generalize (if c.dirty then s.lineWrite k else s) = u at hwrite
      have hget : ∀ l, sget none (sset none u.mem.cellar k (some ⟨false, false⟩)) l = if l = k then some ⟨false, false⟩ else sget none u.mem.cellar l :=
        fun l => sget_sset ..
      refine ⟨hwrite.byteAt, fun c' hc' => ?_, fun l hl c' hc' => ?_⟩
      · obtain rfl := Option.some.inj (hc'.symm.trans ((hget k).trans (if_pos rfl)))
        rfl
      · by_cases hlk : l = k
        · obtain rfl := Option.some.inj (hc'.symm.trans ((hget l).trans (if_pos hlk)))
          rfl
        · exact unpinned_sealed hwrite hl c' (((hget l).trans (if_neg hlk)).symm.trans hc')
    · rw [if_neg hpin]
      refine ⟨fun _ => rfl, fun c' hc' => ?_, fun _ h => h⟩
      obtain rfl := Option.some.inj (hc'.symm.trans hk)
      exact Bool.not_eq_true _ ▸ hpin

theorem unpinAll_spec (ls : List Nat) (s : State) : (∀ a, (ls.foldl (fun (s : State) k => s.unpin k) s).byteAt a = s.byteAt a) ∧
    ∀ l, l ∈ ls ∨ Unpinned s l → Unpinned (ls.foldl (fun (s : State) k => s.unpin k) s) l := by
  induction ls generalizing s with
  | nil => exact ⟨fun _ => rfl, fun l h => h.resolve_left (by simp)⟩
  | cons k ls ih =>
    obtain ⟨hbytes, hpins⟩ := ih (s.unpin k)
    obtain ⟨hbyte, hmine, hkeep⟩ := unpin_spec s k
    refine ⟨fun a => (hbytes a).trans (hbyte a), fun l hl => hpins l ?_⟩
    rcases hl with hl | hl
    · rcases List.mem_cons.1 hl with rfl | hl
      · exact .inr hmine
      · exact .inl hl
    · exact .inr (hkeep l hl)

theorem cellarUnpin_spec (s : State) (fe base len : Nat) : ∃ t, exec (.cellarUnpin fe base len) s = .next t ∧ (∀ a, t.byteAt a = s.byteAt a) ∧
    ∀ l c, l ∈ linesIn base len → s.ownerOf (64 * l) = .key fe → sget none t.mem.cellar l = some c → c.pinned = false := by
  obtain ⟨hbytes, hpins⟩ := unpinAll_spec ((linesIn base len).filter fun k => s.ownerOf (64 * k) == .key fe) s
  refine ⟨State.wake (((linesIn base len).filter fun k => s.ownerOf (64 * k) == .key fe).foldl (fun (s : State) k => s.unpin k) s), ?_, hbytes, fun l c hl howner hc => ?_⟩
  · exact (exec_cellarUnpin fe base len s).trans rfl
  · exact hpins l (.inl (List.mem_filter.2 ⟨hl, beq_iff_eq.2 howner⟩)) c hc

/-! ### Reports (R380) -/

theorem attestationReport_spec {s : State} {fe : Nat} (nonce : BitVec 256) (hactive : (s.lod fe).desc.getLsbD 36 = true) : ∃ t r,
    exec (.attestationReport fe nonce) s = .next t ∧
    LodIs s fe { s.lod fe with report := some r } t ∧ r.nonce = nonce ∧ r.measurement = Config.shake256 s.runningImage ∧
    r.descriptor = (s.lod fe).desc ∧ r.windows = s.windowsOf fe ∧ r.kemKey = Config.kemKey (s.lod fe).kemDraw ∧
    r.identity = Config.identityKey ∧ r.signature = Config.falconSign (reportBody r) := by
  refine ⟨(s.onLod fe fun l => { l with report := some (s.reportFor fe nonce) }).wake, s.reportFor fe nonce, ?_,
    lodIs_onLod s fe fun l => { l with report := some (s.reportFor fe nonce) }, rfl, rfl, rfl, rfl, rfl, rfl, rfl⟩
  rw [exec_attestationReport, execAttestationReport]
  refine congrArg State.event (if_neg ?_)
  rw [activeBit, hactive]
  decide

theorem windowsPinsAndReports : Says.WindowsPinsAndReports := by
  refine ⟨fun s q => ?_, fun s w h => winClose_none h, fun s w x h hbase hlen => winClose_spec h hbase hlen,
    fun s fe base len hbase hlen hdevice howner hfits => cellarPin_spec hbase hlen hdevice howner hfits, fun s fe base len => cellarUnpin_spec s fe base len,
    fun s fe nonce hactive => attestationReport_spec nonce hactive⟩
  by_cases hrefused : s.winWithin q = false ∨ ∃ g ∈ s.tags, q.base ≤ 4 * g.granule ∧ 4 * g.granule < q.base + q.len
  · refine ⟨_, winOpen_refused hrefused, fun _ => rfl, fun _ => rfl, fun hwithin hfree _ => ?_⟩
    rcases hrefused with hno | ⟨g, hg, hlow, hhigh⟩
    · rw [hwithin] at hno
      cases hno
    · have := hfree g hg
      omega
  · obtain ⟨hwithin, htags⟩ := not_or.1 hrefused
    have hwithin' : s.winWithin q = true := by simpa using hwithin
    have hfree : ∀ g ∈ s.tags, 4 * g.granule < q.base ∨ q.base + q.len ≤ 4 * g.granule := fun g hg => by
      by_contra hno
      exact htags ⟨g, hg, by omega, by omega⟩
    by_cases hslot : ∃ w < 64, s.window? w = none
    · obtain ⟨w, hw, hnone, hexec⟩ := winOpen_opens hwithin' hfree hslot
      obtain ⟨hbase, hlen⟩ := winWithin_aligned hwithin'
      exact ⟨_, hexec, fun hno => absurd hno hwithin, fun hno => absurd hno htags, fun _ _ _ => ⟨w, hw, hnone, opened_spec hbase hlen w⟩⟩
    · obtain ⟨t, ht⟩ : ∃ t, exec (.winOpen q) s = .next t := ⟨_, (exec_winOpen q s).trans rfl⟩
      exact ⟨t, ht, fun hno => absurd hno hwithin, fun hno => absurd hno htags, fun _ _ hsome => absurd hsome hslot⟩

/-- Settles O45: the descriptor's cases exclude each other, blocks read 0 under their new owner, a window's blocks go to its key and come back,
pins follow the cellar line by line, and a report measures the state it names. -/
theorem firmwareCommands : Obligations.FirmwareCommands := ⟨descriptorsBlocksAndLibraries, windowsPinsAndReports⟩

end Sys2Proof.Proofs
end

section
/-! PROOFS. Lines between the cellar and memory (R329, R342, R373 to R376): O46. -/

namespace Sys2Proof.Proofs

open Sys2Proof Sys2Proof.Machine Sys2Proof.Says

/-! ### Counters and stored forms (R374, R376) -/

/-- The counter block of a line after a write of it, and whether its major rose. -/
def bumped (s : State) (l : Nat) : Counters × Bool := (sget Counters.reset s.mem.counters (l / 64)).bump (l % 64)

/-- The counters of a line, and the nodes over them, count one write more. -/
def counting (s : State) (l : Nat) : State :=
  { s with mem := { s.mem with
    counters := sset Counters.reset s.mem.counters (l / 64) (bumped s l).1
    nodes := (nodesOver (l / 64)).foldl (fun st e => sset Counters.reset st e.1 (Counters.bump (sget Counters.reset st e.1) e.2).1) s.mem.nodes } }

/-- The line, or after an overflow its whole block, is stored under its counters. -/
def stored (s : State) (l : Nat) (b : Counters × Bool) : State :=
  if b.2 then (List.range 64).foldl (fun (s : State) i => s.putDram (64 * (l / 64) + i) b.1.major 0) s
  else s.putDram l b.1.major (sget 0 b.1.minor (l % 64))

/-- The line's slice holds what memory holds. -/
def cleaned (s : State) (l : Nat) : State :=
  match sget none s.mem.cellar l with
  | some c => { s with mem := { s.mem with cellar := sset none s.mem.cellar l (some { c with dirty := false }) } }
  | none => s

theorem charge_mem (s : State) (a : Nat) : (match s.ownerOf a with
    | .key n => (s.spend .tenant n 64).spend .counters 0 1
    | _ => s.spend .counters 0 1).mem = s.mem := by
  cases s.ownerOf a with
  | key n => exact (SameView.spend _ _ _ _).mem.trans (SameView.spend _ _ _ _).mem
  | free => exact (SameView.spend _ _ _ _).mem
  | window w => exact (SameView.spend _ _ _ _).mem

theorem lineWrite_mem {s : State} {l : Nat} (hservice : s.pkg.service ≠ .reduced) (hhere : l / 2 ^ 38 = s.pkg.number)
    (hcount : s.countersDone (64 * l) = false) : (s.lineWrite l).mem = (cleaned (stored (counting s l) l (bumped s l)) l).mem := by
  have hgo : ¬ (s.pkg.service == .reduced || l / 2 ^ 38 != s.pkg.number || s.countersDone (64 * l)) = true := by
    simp only [Bool.or_eq_true, beq_iff_eq, bne_iff_ne, not_or, hcount]
    exact ⟨⟨hservice, not_not.2 hhere⟩, Bool.false_ne_true⟩
  unfold State.lineWrite
  rw [if_neg hgo]
  exact charge_mem (cleaned (stored (counting s l) l (bumped s l)) l) (64 * l)

theorem sealedLine_congr {s t : State} (hbytes : t.mem.bytes = s.mem.bytes) (howner : t.mem.owner = s.mem.owner) (hwindows : t.mem.windows = s.mem.windows)
    (hlods : t.lods = s.lods) (line major minor : Nat) : t.sealedLine line major minor = s.sealedLine line major minor := by
  have hplain : t.plainLine line = s.plainLine line := by
    rw [State.plainLine, loadN_congr (t := s) fun b _ _ => by rw [State.byteAt, hbytes]; rfl]
    rfl
  have hown : t.ownerOf (64 * line) = s.ownerOf (64 * line) := by
    rw [State.ownerOf, howner]
    rfl
  have hkey : ∀ o, t.keyDraw o = s.keyDraw o := fun o => by
    cases o with
    | free => rfl
    | key n => rw [State.keyDraw, State.lod, hlods]; rfl
    | window w => rw [State.keyDraw, State.window?, hwindows]; rfl
  rw [State.sealedLine, hown, hkey, hplain]
  rfl

theorem sealedLine_dram (s : State) (d : Sparse (Option DramLine)) (line major minor : Nat) :
    ({ s with mem := { s.mem with dram := d } } : State).sealedLine line major minor = s.sealedLine line major minor := by
  have h := sealedLine_congr (s := s) (t := { s with mem := { s.mem with dram := d } }) rfl rfl rfl rfl line major minor
  exact h

theorem sealedLine_counting (s : State) (l line major minor : Nat) : (counting s l).sealedLine line major minor = s.sealedLine line major minor :=
  sealedLine_congr (s := s) (t := counting s l) rfl rfl rfl rfl line major minor

theorem putDram_eq (s : State) (line major minor : Nat) : s.putDram line major minor =
    { s with mem := { s.mem with dram := sset none s.mem.dram line (s.sealedLine line major minor) } } := rfl

theorem sget_foldl_putDram (s : State) (block major n j : Nat) :
    sget none ((List.range n).foldl (fun (s : State) i => s.putDram (64 * block + i) major 0) s).mem.dram j =
      if 64 * block ≤ j ∧ j < 64 * block + n then s.sealedLine j major 0 else sget none s.mem.dram j := by
  have hframe : ∀ n, ∃ d, (List.range n).foldl (fun (s : State) i => s.putDram (64 * block + i) major 0) s = { s with mem := { s.mem with dram := d } } := by
    intro n
    induction n with
    | zero => exact ⟨s.mem.dram, rfl⟩
    | succ n ih =>
      obtain ⟨d, hd⟩ := ih
      rw [List.range_succ, List.foldl_append, hd, List.foldl_cons, List.foldl_nil, putDram_eq]
      exact ⟨_, rfl⟩
  induction n with
  | zero => exact (if_neg (by omega)).symm
  | succ n ih =>
    obtain ⟨d, hd⟩ := hframe n
    rw [List.range_succ, List.foldl_append, List.foldl_cons, List.foldl_nil]
    rw [hd] at ih ⊢
    rw [putDram_eq, sealedLine_dram]
    refine (sget_sset none _ (64 * block + n) j d).trans ?_
    by_cases hj : j = 64 * block + n
    · rw [if_pos hj, if_pos (by omega), hj]
    · rw [if_neg hj]
      refine Eq.trans ih ?_
      by_cases hin : 64 * block ≤ j ∧ j < 64 * block + n
      · rw [if_pos hin, if_pos (by omega)]
      · rw [if_neg hin, if_neg (by omega)]

theorem stored_frame (s : State) (l : Nat) (b : Counters × Bool) : ∃ d, stored s l b = { s with mem := { s.mem with dram := d } } := by
  have hfold : ∀ (is : List Nat) (s : State), ∃ d, is.foldl (fun (s : State) i => s.putDram (64 * (l / 64) + i) b.1.major 0) s =
      { s with mem := { s.mem with dram := d } } := fun is => by
    induction is with
    | nil => exact fun s => ⟨s.mem.dram, rfl⟩
    | cons i is ih =>
      intro s
      obtain ⟨d, hd⟩ := ih (s.putDram (64 * (l / 64) + i) b.1.major 0)
      rw [List.foldl_cons, hd, putDram_eq]
      exact ⟨d, rfl⟩
  unfold stored
  split
  · exact hfold _ s
  · exact ⟨_, rfl⟩

theorem cleaned_frame (s : State) (l : Nat) : (cleaned s l).mem.dram = s.mem.dram ∧ (cleaned s l).mem.counters = s.mem.counters := by
  unfold cleaned
  split <;> exact ⟨rfl, rfl⟩

theorem lineWrite_cellar {s : State} {l : Nat} {c : CellarLine} (hc : sget none s.mem.cellar l = some c) (hservice : s.pkg.service ≠ .reduced)
    (hhere : l / 2 ^ 38 = s.pkg.number) (hcount : s.countersDone (64 * l) = false) :
    sget none (s.lineWrite l).mem.cellar l = some { c with dirty := false } := by
  rw [lineWrite_mem hservice hhere hcount]
  obtain ⟨d, hd⟩ := stored_frame (counting s l) l (bumped s l)
  rw [hd, cleaned, show sget none ({ counting s l with mem := { (counting s l).mem with dram := d } } : State).mem.cellar l = some c from hc]
  exact sget_sset_same none (some { c with dirty := false }) l s.mem.cellar

theorem lineWrite_counters {s : State} {l : Nat} (hservice : s.pkg.service ≠ .reduced) (hhere : l / 2 ^ 38 = s.pkg.number)
    (hcount : s.countersDone (64 * l) = false) : sget Counters.reset (s.lineWrite l).mem.counters (l / 64) = (bumped s l).1 := by
  rw [lineWrite_mem hservice hhere hcount, (cleaned_frame ..).2]
  obtain ⟨d, hd⟩ := stored_frame (counting s l) l (bumped s l)
  rw [hd]
  exact sget_sset_same (α := Counters) ..

theorem lineWrite_dram {s : State} {l : Nat} (hservice : s.pkg.service ≠ .reduced) (hhere : l / 2 ^ 38 = s.pkg.number)
    (hcount : s.countersDone (64 * l) = false) (j : Nat) : sget none (s.lineWrite l).mem.dram j =
      if (bumped s l).2 then (if j / 64 = l / 64 then s.sealedLine j (bumped s l).1.major 0 else sget none s.mem.dram j)
      else (if j = l then s.sealedLine l (bumped s l).1.major (sget 0 (bumped s l).1.minor (l % 64)) else sget none s.mem.dram j) := by
  rw [lineWrite_mem hservice hhere hcount, (cleaned_frame ..).1, stored]
  split
  · refine (sget_foldl_putDram (counting s l) (l / 64) (bumped s l).1.major 64 j).trans ?_
    rw [sealedLine_counting]
    refine if_congr ?_ rfl rfl
    omega
  · rw [putDram_eq, sealedLine_counting]
    exact sget_sset none _ l j s.mem.dram

theorem bump_low {c : Counters} {i : Nat} (h : sget 0 c.minor i < 127) : c.bump i = ({ c with minor := sset 0 c.minor i (sget 0 c.minor i + 1) }, false) :=
  if_pos h

theorem bump_high {c : Counters} {i : Nat} (h : 127 ≤ sget 0 c.minor i) : c.bump i = (⟨c.major + 1, []⟩, true) := if_neg (Nat.not_lt.2 h)

theorem lineWriteMemory_spec {s : State} {l : Nat} {c : CellarLine} (hc : sget none s.mem.cellar l = some c) (hdirty : c.dirty = true)
    (hservice : s.pkg.service ≠ .reduced) (hhere : l / 2 ^ 38 = s.pkg.number) (hcount : s.countersDone (64 * l) = false) : ∃ t,
      exec (.lineWriteMemory l) s = .next t ∧ (∀ a, t.byteAt a = s.byteAt a) ∧ sget none t.mem.cellar l = some { c with dirty := false } ∧
    let old := sget Counters.reset s.mem.counters (l / 64)
    let new := sget Counters.reset t.mem.counters (l / 64)
    (sget 0 old.minor (l % 64) < 127 → new.major = old.major ∧
      (∀ i, sget 0 new.minor i = if i = l % 64 then sget 0 old.minor i + 1 else sget 0 old.minor i) ∧
      sget none t.mem.dram l = s.sealedLine l old.major (sget 0 old.minor (l % 64) + 1) ∧
      ∀ j, j ≠ l → sget none t.mem.dram j = sget none s.mem.dram j) ∧
    (127 ≤ sget 0 old.minor (l % 64) → new.major = old.major + 1 ∧ (∀ i, sget 0 new.minor i = 0) ∧
      ∀ j, j / 64 = l / 64 → sget none t.mem.dram j = s.sealedLine j (old.major + 1) 0) := by
  have hcounters : sget Counters.reset (s.lineWrite l).wake.mem.counters (l / 64) = (bumped s l).1 := lineWrite_counters hservice hhere hcount
  have hdram : ∀ j, sget none (s.lineWrite l).wake.mem.dram j = _ := lineWrite_dram hservice hhere hcount
  refine ⟨(s.lineWrite l).wake, ?_, (LinesSealed.lineWrite s l).byteAt, lineWrite_cellar hc hservice hhere hcount, fun hlow => ?_, fun hhigh => ?_⟩
  · rw [exec_lineWriteMemory, execLineWriteMemory]
    refine congrArg State.event ?_
    rw [hc]
    exact if_pos hdirty
  · rw [hcounters]
    have hbump : bumped s l = _ := bump_low hlow
    rw [hbump] at hdram ⊢
    dsimp only at hdram ⊢
    refine ⟨rfl, fun i => ?_, ?_, fun j hj => ?_⟩
    · rw [sget_sset]
      split
      · next h => rw [h]
      · rfl
    · rw [hdram, if_neg Bool.false_ne_true, if_pos rfl, sget_sset_same]
    · rw [hdram, if_neg Bool.false_ne_true, if_neg hj]
  · rw [hcounters]
    have hbump : bumped s l = _ := bump_high hhigh
    rw [hbump] at hdram ⊢
    dsimp only at hdram ⊢
    refine ⟨rfl, fun _ => rfl, fun j hj => ?_⟩
    rw [hdram, if_pos rfl, if_pos hj]

/-! ### Lines that leave and lines that come (R329, R373) -/

theorem lineWriteback_spec {s : State} {l : Nat} {c : CellarLine} (hc : sget none s.mem.cellar l = some c) (hheld : s.lineHeld l = false) : ∃ t,
    exec (.lineWriteback l) s = .next t ∧ sget none t.mem.cellar l = none ∧ ∀ a, t.byteAt a = s.byteAt a := by
  have hwrite : LinesSealed s (if c.dirty then s.lineWrite l else s) := by
    split
    · exact .lineWrite s l
    · exact .refl s
  let u : State := if c.dirty then s.lineWrite l else s
  refine ⟨State.wake { u with mem := { u.mem with cellar := sset none u.mem.cellar l none } }, ?_, sget_sset_same none none l u.mem.cellar, hwrite.byteAt⟩
  rw [exec_lineWriteback, execLineWriteback]
  refine congrArg State.event ?_
  rw [hc]
  exact if_neg (by simp [hheld])

theorem lineWriteback_held {s : State} {l : Nat} {c : CellarLine} (hc : sget none s.mem.cellar l = some c) (hheld : s.lineHeld l = true) :
    exec (.lineWriteback l) s = .next s.wake := by
  rw [exec_lineWriteback, execLineWriteback]
  refine congrArg State.event ?_
  rw [hc]
  exact if_pos hheld

/-- A line stands in its slice, its tag checked. -/
def lineRead (s : State) (l : Nat) : State :=
  let m := if s.tagGood l then s.mem else { s.mem with badTag := sset false s.mem.badTag l true }
  { s with mem := { m with cellar := sset none m.cellar l (some ⟨false, false⟩) }, upset := .none }

theorem lineRead_spec (s : State) (l : Nat) : sget none (lineRead s l).mem.cellar l = some ⟨false, false⟩ ∧ (∀ a, (lineRead s l).byteAt a = s.byteAt a) ∧
    sget false (lineRead s l).mem.badTag l = (sget false s.mem.badTag l || !s.tagGood l) := by
  cases htag : s.tagGood l with
  | true =>
    have hread : lineRead s l = { s with mem := { s.mem with cellar := sset none s.mem.cellar l (some ⟨false, false⟩) }, upset := .none } := by
      simp only [lineRead, htag, if_true]
    rw [hread]
    exact ⟨sget_sset_same none (some ⟨false, false⟩) l s.mem.cellar, fun _ => rfl, (Bool.or_false _).symm⟩
  | false =>
    have hread : lineRead s l = { s with mem := { s.mem with
        badTag := sset false s.mem.badTag l true, cellar := sset none s.mem.cellar l (some ⟨false, false⟩) }, upset := .none } := by
      simp only [lineRead, htag, Bool.false_eq_true, if_false]
    rw [hread]
    refine ⟨sget_sset_same none (some ⟨false, false⟩) l s.mem.cellar, fun _ => rfl, ?_⟩
    rw [Bool.not_false, Bool.or_true]
    exact sget_sset_same false true l s.mem.badTag

theorem lineReadMemory_spec {s : State} {l : Nat} (hc : sget none s.mem.cellar l = none) (hupset : s.upset = .none) : ∃ t,
    exec (.lineReadMemory l) s = .next t ∧ sget none t.mem.cellar l = some ⟨false, false⟩ ∧ (∀ a, t.byteAt a = s.byteAt a) ∧
    sget false t.mem.badTag l = (sget false s.mem.badTag l || !s.tagGood l) := by
  let t : State := match (lineRead s l).ownerOf (64 * l) with
    | .key n => (lineRead s l).spend .tenant n 64
    | _ => lineRead s l
  have hmem : t.mem = (lineRead s l).mem := by
    show (match (lineRead s l).ownerOf (64 * l) with
      | .key n => (lineRead s l).spend .tenant n 64
      | _ => lineRead s l).mem = _
    cases (lineRead s l).ownerOf (64 * l) with
    | key n => exact (SameView.spend _ _ _ _).mem
    | free => rfl
    | window w => rfl
  obtain ⟨hcellar, hbytes, htag⟩ := lineRead_spec s l
  refine ⟨t.wake, ?_, by rw [wake_mem, hmem]; exact hcellar, fun a => (byteAt_of_mem (s := lineRead s l) hmem a).trans (hbytes a), by rw [wake_mem, hmem]; exact htag⟩
  rw [exec_lineReadMemory, execLineReadMemory]
  refine congrArg State.event ?_
  rw [hc]
  dsimp only
  rw [hupset] <;> rfl

/-! ### The scrubber (R342, R354) -/

theorem notify_accounts (s : State) (c : Nat) : (∃ ns, (s.notify c).pkg = { s.pkg with notices := ns }) ∧ (s.notify c).now = s.now := by
  unfold State.notify
  split
  · exact ⟨⟨_, rfl⟩, rfl⟩
  · exact ⟨⟨_, rfl⟩, rfl⟩

theorem spend_accounts (s : State) (a : Activity) (fe n : Nat) : (s.spend a fe n).pkg.log = s.pkg.log ∧
    (s.spend a fe n).now = s.now ∧ sget 0 (s.spend a fe n).pkg.spent (a.key fe) = sget 0 s.pkg.spent (a.key fe) + n := by
  have hspent : sget 0 (sset 0 s.pkg.spent (a.key fe) (sget 0 s.pkg.spent (a.key fe) + n)) (a.key fe) = sget 0 s.pkg.spent (a.key fe) + n :=
    sget_sset_same ..
  unfold State.spend
  dsimp only
  split
  · obtain ⟨⟨ns, hpkg⟩, hnow⟩ := notify_accounts ((s.onPkg fun p => { p with spent := sset 0 p.spent (a.key fe) (sget 0 p.spent (a.key fe) + n) }).onPkg
      fun p => { p with noticed := p.noticed ++ [a.key fe] }) 0x34
    rw [hpkg, hnow]
    exact ⟨rfl, rfl, hspent⟩
  · exact ⟨rfl, rfl, hspent⟩

theorem logged_last (k : Package) (now code lodging unit : Nat) (detail : BitVec 128) : (logged k now code lodging unit detail).log.getLast? =
    some ⟨now / 2, code, lodging, unit, k.logSeq % 2 ^ 32, detail⟩ := by
  unfold logged
  dsimp only
  rw [List.getLast?_drop, if_neg, List.getLast?_concat]
  rw [List.length_append, List.length_singleton]
  omega

theorem logged_spent (k : Package) (now code lodging unit : Nat) (detail : BitVec 128) : (logged k now code lodging unit detail).spent = k.spent := by
  rw [logged]

theorem poisonLine_spec (s : State) (code fe unit l : Nat) (hlen : s.pkg.log.length ≤ 4096) :
    sget none (s.poisonLine code fe unit l).mem.poison l = some 0 ∧ (s.poisonLine code fe unit l).pkg.spent = s.pkg.spent ∧
      ∃ q, (s.poisonLine code fe unit l).pkg.log.getLast? = some ⟨s.now / 2, code, fe, unit, q, BitVec.ofNat 128 (64 * l)⟩ := by
  let u : State := { s with mem := { s.mem with poison := sset none s.mem.poison l (some 0) } }
  have hlog := log_eq (s := u) hlen code fe unit (BitVec.ofNat 128 (64 * l))
  have hpoison : s.poisonLine code fe unit l = u.log code fe unit (BitVec.ofNat 128 (64 * l)) := rfl
  rw [hpoison, hlog]
  generalize BitVec.ofNat 128 (64 * l) = detail
  refine ⟨sget_sset_same none (some 0) l s.mem.poison, logged_spent u.pkg u.now code fe unit detail, s.pkg.logSeq % 2 ^ 32, ?_⟩
  exact logged_last u.pkg u.now code fe unit detail

theorem patrolScrub_spec {s : State} {l : Nat} (hbudget : s.throttled .scrub 0 = false) (hupset : s.upset = .none) : ∃ t,
    exec (.patrolScrub l) s = .next t ∧
    (sget false s.mem.badCells l = false ∨ sget none s.mem.poison l ≠ none → t.mem = s.mem ∧ t.pkg.log = s.pkg.log) ∧
    (sget false s.mem.badCells l = true → sget none s.mem.poison l = none → s.pkg.log.length ≤ 4096 →
      sget none t.mem.poison l = some 0 ∧ ∃ q, t.pkg.log.getLast? = some ⟨s.now / 2, 0x14, 0xFF, 0, q, BitVec.ofNat 128 (64 * l)⟩) ∧
    sget 0 t.pkg.spent 128 = sget 0 s.pkg.spent 128 + 1 := by
  have hmem : (s.spend .scrub 0 1).mem = s.mem := (SameView.spend ..).mem
  obtain ⟨hlog, hnow, hspent⟩ := spend_accounts s .scrub 0 1
  have hup : (s.spend .scrub 0 1).upset = .none := by rw [(measured_spend s .scrub 0 1).state]; exact hupset
  generalize hu : s.spend .scrub 0 1 = u at hmem hlog hnow hspent hup
  have hexec : exec (.patrolScrub l) s = .next (if sget false s.mem.badCells l && (sget none s.mem.poison l).isNone then u.poisonLine 0x14 0xFF 0 l else u).wake := by
    rw [exec_patrolScrub, execPatrolScrub]
    refine congrArg State.event ((if_neg (by rw [hbudget]; decide)).trans ?_)
    dsimp only
    rw [hu, hup]
    dsimp only
    rw [hmem]
  by_cases hbad : sget false s.mem.badCells l = true ∧ sget none s.mem.poison l = none
  · have hpos : (sget false s.mem.badCells l && (sget none s.mem.poison l).isNone) = true := by simp [hbad]
    rw [if_pos hpos] at hexec
    refine ⟨_, hexec, fun hno => ?_, fun _ _ hlen => ?_, ?_⟩
    · rcases hno with hno | hno
      · rw [hbad.1] at hno; cases hno
      · exact absurd hbad.2 hno
    · obtain ⟨hpoison, -, q, hq⟩ := poisonLine_spec u 0x14 0xFF 0 l (by rw [hlog]; exact hlen)
      exact ⟨hpoison, q, by rw [← hnow]; exact hq⟩
    · exact hspent
  · have hneg : ¬ (sget false s.mem.badCells l && (sget none s.mem.poison l).isNone) = true := by simpa using hbad
    rw [if_neg hneg] at hexec
    exact ⟨_, hexec, fun _ => ⟨hmem, hlog⟩, fun h h' _ => absurd ⟨h, h'⟩ hbad, hspent⟩

/-- Settles O46: a written line's counters and stored form follow the bump of its minor counter; the other steps change marks and slices only. -/
theorem linesAndMemory : Obligations.LinesAndMemory :=
  ⟨fun s l c hc hdirty hservice hhere hcount => lineWriteMemory_spec hc hdirty hservice hhere hcount,
    fun s l c hc hheld => lineWriteback_spec hc hheld, fun s l c hc hheld => lineWriteback_held hc hheld,
    fun s l hc hupset => lineReadMemory_spec hc hupset, fun s l hbudget hupset => patrolScrub_spec hbudget hupset⟩

end Sys2Proof.Proofs
end

section
/-! PROOFS. Lodgings taken out of the machine, and resets (R268, R279, R281, R357, R379, R382): O47. -/

namespace Sys2Proof.Proofs

open Sys2Proof Sys2Proof.Machine Sys2Proof.Says

/-! ### Passes over a list -/

/-- A pass over a list marks every item of it, while an invariant stands and marks stay. -/
theorem foldl_marks {α β : Type} {F : α → β → α} (I : α → Prop) (P : β → α → Prop) (hI : ∀ s b, I s → I (F s b)) (hmark : ∀ s b, I s → P b (F s b))
    (hkeep : ∀ s b j, I s → P j s → P j (F s b)) (bs : List β) (s : α) (hs : I s) :
    I (bs.foldl F s) ∧ ∀ j, j ∈ bs ∨ P j s → P j (bs.foldl F s) := by
  induction bs generalizing s with
  | nil => exact ⟨hs, fun j hj => hj.resolve_left (List.not_mem_nil)⟩
  | cons b bs ih =>
    obtain ⟨hinv, hall⟩ := ih (F s b) (hI s b hs)
    refine ⟨hinv, fun j hj => hall j ?_⟩
    rcases hj with hj | hj
    · rcases List.mem_cons.1 hj with rfl | hj
      · exact .inr (hmark s j hs)
      · exact .inl hj
    · exact .inr (hkeep s b j hs hj)

theorem sfind_filterVals {α : Type} {p : α → Bool} {m : Sparse α} {k : Nat} {v : α} (h : sfind m k = some v) (hp : p v = true) :
    sfind (m.filter fun e => p e.2) k = some v := by
  induction m with
  | nil => cases h
  | cons e m ih =>
    obtain ⟨j, w⟩ := e
    by_cases hj : j = k
    · obtain rfl : w = v := by simpa [sfind, hj] using h
      rw [List.filter_cons_of_pos (p := fun e : Nat × α => p e.2) hp]
      simp [sfind, hj]
    · have hrest : sfind m k = some v := by simpa [sfind, hj] using h
      rw [List.filter_cons]
      split
      · simpa [sfind, hj] using ih hrest
      · exact ih hrest

/-! ### A lodging leaves (R279, R281) -/

theorem absent_collect (s : State) (fe : Nat) : Absent fe (s.collect fe).2 := by
  have hfilter : ∀ {α : Type} {f : α → Nat} {m : Sparse α}, ∀ e ∈ m.filter (fun e : Nat × α => f e.2 != fe), f e.2 ≠ fe := fun e he => by
    simpa using (List.mem_filter.1 he).2
  refine ⟨hfilter (f := Party.fe), hfilter (f := Crew.fe), hfilter (f := Launch.fe), fun g hg => ?_⟩
  simpa using (List.mem_filter.1 hg).2

theorem collect_party? {s : State} {fe p : Nat} {x : Party} (hx : s.party? p = some x) (hfe : x.fe ≠ fe) : (s.collect fe).2.party? p = some x :=
  sfind_filterVals (p := fun x : Party => x.fe != fe) hx (by simpa using hfe)

theorem absent_of_filter {s t : State} {fe : Nat} (h : Absent fe s) (hparties : ∀ e ∈ t.parties, e ∈ s.parties) (hcrews : ∀ e ∈ t.crews, e ∈ s.crews)
    (hlaunches : ∀ e ∈ t.launches, e ∈ s.launches) (htags : ∀ g ∈ t.tags, g ∈ s.tags) : Absent fe t :=
  ⟨fun e he => h.1 e (hparties e he), fun e he => h.2.1 e (hcrews e he), fun e he => h.2.2.1 e (hlaunches e he), fun g hg => h.2.2.2 g (htags g hg)⟩

theorem absent_collect_other {s : State} {fe : Nat} (h : Absent fe s) (fe' : Nat) : Absent fe (s.collect fe').2 :=
  absent_of_filter h (fun _ he => List.mem_of_mem_filter he) (fun _ he => List.mem_of_mem_filter he) (fun _ he => List.mem_of_mem_filter he)
    fun _ hg => List.mem_of_mem_filter hg

theorem absent_wake {s : State} {fe : Nat} (h : Absent fe s) : Absent fe s.wake := by
  refine ⟨fun e he => ?_, h.2.1, h.2.2.1, h.2.2.2⟩
  obtain ⟨e', he', rfl⟩ := List.mem_map.1 he
  exact h.1 e' he'

/-! ### Resets (R281, R357) -/

/-- A lodging as a reset leaves it, before the host is told. -/
def asReset (l : Lodging) : Lodging :=
  { Lodging.reset with
    desc := l.desc, st := if activeBit l.desc then .running else .none, root1 := l.root1, root2 := l.root2, watchdog := l.watchdog
    keyDraw := l.keyDraw, kemDraw := l.kemDraw }

/-- The machine after a reset of a lodging without a window, before the host is told. -/
def withoutLodging (s : State) (fe : Nat) : State :=
  let u := ((s.collect fe).2).dropStream fe
  ({ u with tags := u.tags.filter fun t => t.fe != fe }).onLod fe asReset

theorem resetLodging_eq {s : State} {fe : Nat} (h : s.windowsOf fe = []) :
    s.resetLodging fe = (withoutLodging s fe).onStream fe fun st => { st with msix := raised st.msix 3 } := by
  rw [← msix_eq, State.resetLodging, h]
  rfl

theorem resetLodging_frame {s : State} {fe : Nat} (h : s.windowsOf fe = []) : (s.resetLodging fe).mem = s.mem ∧ (s.resetLodging fe).pkg = s.pkg ∧
    (s.resetLodging fe).now = s.now ∧ (s.resetLodging fe).parties = s.parties.filter (fun e => e.2.fe != fe) := by
  rw [resetLodging_eq h]
  exact ⟨rfl, rfl, rfl, rfl⟩

theorem resetLodging_lod {s : State} {fe : Nat} (h : s.windowsOf fe = []) (j : Nat) : (s.resetLodging fe).lod j =
    if j = fe then { asReset (s.lod fe) with stream := { Stream.reset with msix := raised Msix.reset 3 } } else s.lod j := by
  rw [resetLodging_eq h, lod_onStream]
  have hlod : ∀ j, (withoutLodging s fe).lod j = if j = fe then asReset (s.lod fe) else s.lod j := fun j =>
    lod_onLod (((s.collect fe).2).dropStream fe) fe asReset j
  rw [hlod fe, if_pos rfl]
  split
  · rfl
  · next hj => rw [hlod j, if_neg hj]

theorem resetLodging_sub {s : State} {fe : Nat} (h : s.windowsOf fe = []) : (∀ e ∈ (s.resetLodging fe).parties, e ∈ s.parties ∧ e.2.fe ≠ fe) ∧
    (∀ e ∈ (s.resetLodging fe).crews, e ∈ s.crews ∧ e.2.fe ≠ fe) ∧ (∀ e ∈ (s.resetLodging fe).launches, e ∈ s.launches ∧ e.2.fe ≠ fe) ∧
    (∀ g ∈ (s.resetLodging fe).tags, g ∈ s.tags ∧ g.fe ≠ fe) ∧ (∀ e ∈ (s.resetLodging fe).packets, e.2.fe ≠ fe) ∧
    ∀ e ∈ (s.resetLodging fe).reqs, e.2.fe ≠ fe := by
  rw [resetLodging_eq h]
  refine ⟨fun e he => ?_, fun e he => ?_, fun e he => ?_, fun g hg => ?_, fun e he => ?_, fun e he => ?_⟩
  · obtain ⟨hm, hn⟩ := List.mem_filter.1 he
    exact ⟨hm, by simpa using hn⟩
  · obtain ⟨hm, hn⟩ := List.mem_filter.1 he
    exact ⟨hm, by simpa using hn⟩
  · obtain ⟨hm, hn⟩ := List.mem_filter.1 he
    exact ⟨hm, by simpa using hn⟩
  · obtain ⟨hm, hn⟩ := List.mem_filter.1 hg
    exact ⟨List.mem_of_mem_filter hm, by simpa using hn⟩
  · obtain ⟨-, hn⟩ := List.mem_filter.1 he
    simpa using hn
  · obtain ⟨-, hn⟩ := List.mem_filter.1 he
    simpa using hn

theorem absent_resetLodging {s : State} {fe : Nat} (h : s.windowsOf fe = []) : Absent fe (s.resetLodging fe) := by
  obtain ⟨hp, hc, hl, ht, -, -⟩ := resetLodging_sub h
  exact ⟨fun e he => (hp e he).2, fun e he => (hc e he).2, fun e he => (hl e he).2, fun g hg => (ht g hg).2⟩

theorem absent_resetLodging_other {s : State} {fe fe' : Nat} (h : s.windowsOf fe' = []) (ha : Absent fe s) : Absent fe (s.resetLodging fe') := by
  obtain ⟨hp, hc, hl, ht, -, -⟩ := resetLodging_sub h
  exact absent_of_filter ha (fun e he => (hp e he).1) (fun e he => (hc e he).1) (fun e he => (hl e he).1) fun g hg => (ht g hg).1

theorem functionLevelReset_spec {s : State} {fe : Nat} (hlow : 1 ≤ fe) (hhigh : fe ≤ 31) (h : s.windowsOf fe = []) : ∃ t,
    exec (.functionLevelReset fe) s = .next t ∧ Absent fe t ∧
    OthersStand s fe t ∧ t.mem = s.mem ∧ t.pkg = s.pkg ∧ (∀ e ∈ t.packets, e.2.fe ≠ fe) ∧ (∀ e ∈ t.reqs, e.2.fe ≠ fe) ∧
    t.lod fe = { Lodging.reset with
      desc := (s.lod fe).desc, st := if (s.lod fe).desc.getLsbD 36 then .running else .none, root1 := (s.lod fe).root1
      root2 := (s.lod fe).root2, watchdog := (s.lod fe).watchdog, keyDraw := (s.lod fe).keyDraw, kemDraw := (s.lod fe).kemDraw
      stream := { Stream.reset with msix := raised Msix.reset 3 } } := by
  obtain ⟨hmem, hpkg, -, hparties⟩ := resetLodging_frame h
  obtain ⟨-, -, -, -, hpackets, hreqs⟩ := resetLodging_sub h
  refine ⟨(s.resetLodging fe).wake, ?_, absent_wake (absent_resetLodging h), fun p x hx hfe => ?_, hmem, hpkg, hpackets, hreqs,
    (resetLodging_lod h fe).trans (if_pos rfl)⟩
  · rw [exec_functionLevelReset, execFunctionLevelReset]
    refine congrArg State.event (if_neg ?_)
    simp
    omega
  · have hkept : (s.resetLodging fe).party? p = some x := by
      rw [State.party?, hparties]
      exact sfind_filterVals (p := fun x : Party => x.fe != fe) hx (by simpa using hfe)
    rw [wake_party?, hkept]
    rfl

theorem functionLevelReset_ignored {s : State} {fe : Nat} (h : fe = 0 ∨ 31 < fe) : exec (.functionLevelReset fe) s = .next s.wake := by
  rw [exec_functionLevelReset, execFunctionLevelReset]
  refine congrArg State.event (if_pos ?_)
  simpa using h

/-! ### Warm and cold resets (R357, R394) -/

/-- No window is open: what resets one lodging after another keeps. -/
structure Restarting (s t : State) : Prop where
  mem : t.mem = s.mem
  pkg : t.pkg = s.pkg
  now : t.now = s.now
  desc : ∀ j, (t.lod j).desc = (s.lod j).desc

theorem windowsOf_nil {s : State} (h : s.mem.windows = []) (fe : Nat) : s.windowsOf fe = [] := by
  rw [State.windowsOf, h]
  rfl

theorem Restarting.resetLodging {s t : State} (h : Restarting s t) (hwin : s.mem.windows = []) (fe : Nat) : Restarting s (t.resetLodging fe) := by
  have hnone : t.windowsOf fe = [] := windowsOf_nil (by rw [h.mem]; exact hwin) fe
  obtain ⟨hmem, hpkg, hnow, -⟩ := resetLodging_frame hnone
  refine ⟨hmem.trans h.mem, hpkg.trans h.pkg, hnow.trans h.now, fun j => ?_⟩
  rw [resetLodging_lod hnone]
  split
  · next hj => rw [hj]; exact h.desc fe
  · exact h.desc j

/-- Nothing of a lodging runs or is queued. -/
def Cleared (fe : Nat) (t : State) : Prop := Absent fe t ∧ (t.lod fe).queue = [] ∧ (t.lod fe).image = none

theorem cleared_resets {s : State} (hwin : s.mem.windows = []) (fes : List Nat) :
    Restarting s (fes.foldl (fun (s : State) fe => s.resetLodging fe) s) ∧
      ∀ fe ∈ fes, Cleared fe (fes.foldl (fun (s : State) fe => s.resetLodging fe) s) := by
  have hnone : ∀ {t : State}, Restarting s t → ∀ fe, t.windowsOf fe = [] := fun ht fe => windowsOf_nil (by rw [ht.mem]; exact hwin) fe
  have h := foldl_marks (F := fun (s : State) fe => s.resetLodging fe) (Restarting s) Cleared (fun t fe ht => ht.resetLodging hwin fe)
    (fun t fe ht => ⟨absent_resetLodging (hnone ht fe), by rw [resetLodging_lod (hnone ht fe), if_pos rfl]; rfl,
      by rw [resetLodging_lod (hnone ht fe), if_pos rfl]; rfl⟩)
    (fun t fe j ht hj => by
      refine ⟨absent_resetLodging_other (hnone ht fe) hj.1, ?_⟩
      rw [resetLodging_lod (hnone ht fe)]
      split
      · exact ⟨rfl, rfl⟩
      · exact hj.2) fes s ⟨rfl, rfl, rfl, fun _ => rfl⟩
  exact ⟨h.1, fun fe hfe => h.2 fe (.inl hfe)⟩

theorem warm_spec {s : State} (hwin : s.mem.windows = []) : s.warm.mem = s.mem ∧ s.warm.now = s.now ∧ s.warm.pkg = { s.pkg with
      service := .recovery, running := none, cap := 3200, pool := 1024, lowering := false, mismatchAt := none, mailbox := [] } ∧
    ∀ e ∈ s.lods, Absent e.1 s.warm ∧ (s.warm.lod e.1).queue = [] ∧ (s.warm.lod e.1).image = none ∧ (s.warm.lod e.1).desc = (s.lod e.1).desc := by
  obtain ⟨⟨hmem, hpkg, hnow, hdesc⟩, hclear⟩ := cleared_resets hwin s.frontEnds
  unfold State.warm
  generalize s.frontEnds.foldl (fun (s : State) fe => s.resetLodging fe) s = u at hmem hpkg hnow hdesc hclear
  refine ⟨hmem, hnow, ?_, fun e he => ?_⟩
  · show ({ u.pkg with
      service := .recovery, running := none, cap := 3200, pool := 1024, lowering := false, mismatchAt := none, mailbox := [] } : Package) = _
    rw [hpkg]
  · obtain ⟨habsent, hqueue, himage⟩ := hclear e.1 (List.mem_map.2 ⟨e, he, rfl⟩)
    exact ⟨habsent, hqueue, himage, hdesc e.1⟩

/-- Settles O47: a reset of one lodging is followed field by field, a warm reset is a pass of such resets, and a cold reset is read off. -/
theorem resets : Obligations.Resets := by
  refine ⟨fun s fe hlow hhigh h => functionLevelReset_spec hlow hhigh h, fun s fe h => functionLevelReset_ignored h, fun s i hi hwin => ?_, fun s => ?_⟩
  · obtain ⟨hmem, hnow, hpkg, hall⟩ := warm_spec hwin
    have hexec : exec i s = .next s.warm.wake := by rcases hi with rfl | rfl <;> rfl
    exact ⟨s.warm.wake, hexec, hmem, hnow, hpkg, fun e he => ⟨absent_wake (hall e he).1, (hall e he).2⟩⟩
  · exact ⟨_, rfl, rfl, rfl, rfl, rfl, rfl, fun _ => ⟨rfl, rfl⟩, rfl, rfl, rfl, rfl, rfl, rfl, rfl, rfl, rfl⟩

end Sys2Proof.Proofs
end

section
/-! PROOFS. What the shared operations keep (R351, R382, R385, R394, R398): memory and host memory canonical, the Logbook a ring, the cap, the
pool and the firmware slots. -/

namespace Sys2Proof.Proofs

open Sys2Proof Sys2Proof.Machine Sys2Proof.Says

/-- `t` keeps what `s` has of the invariant, and the firmware slots. -/
structure KeepsInv (s t : State) : Prop where
  memory : Memory.wf s.mem.bytes = true → Memory.wf t.mem.bytes = true
  host : Memory.wf s.mem.host = true → Memory.wf t.mem.host = true
  logbook : s.pkg.log.length ≤ 4096 → t.pkg.log.length ≤ 4096
  cap : t.pkg.cap = s.pkg.cap
  pool : t.pkg.pool = s.pkg.pool
  slots : t.pkg.slots = s.pkg.slots

namespace KeepsInv

theorem refl (s : State) : KeepsInv s s := ⟨id, id, id, rfl, rfl, rfl⟩

theorem trans {s t u : State} (h : KeepsInv s t) (h' : KeepsInv t u) : KeepsInv s u :=
  ⟨h'.memory ∘ h.memory, h'.host ∘ h.host, h'.logbook ∘ h.logbook, h'.cap.trans h.cap, h'.pool.trans h.pool, h'.slots.trans h.slots⟩

/-- Changes outside memory and the package's registers. -/
theorem of_eq {s t : State} (hmem : t.mem = s.mem) (hpkg : t.pkg = s.pkg) : KeepsInv s t := by
  refine ⟨?_, ?_, ?_, ?_, ?_, ?_⟩ <;> simp only [hmem, hpkg, imp_self]

/-- Changes of memory that leave its bytes and the host's. -/
theorem of_bytes {s t : State} (hbytes : t.mem.bytes = s.mem.bytes) (hhost : t.mem.host = s.mem.host) (hpkg : t.pkg = s.pkg) : KeepsInv s t := by
  refine ⟨?_, ?_, ?_, ?_, ?_, ?_⟩ <;> simp only [hbytes, hhost, hpkg, imp_self]

/-- A change of bytes that keeps their canonical form. -/
theorem of_wf {s t : State} (hwf : Memory.wf s.mem.bytes = true → Memory.wf t.mem.bytes = true) (hhost : t.mem.host = s.mem.host)
    (hpkg : t.pkg = s.pkg) : KeepsInv s t := by
  refine ⟨hwf, ?_, ?_, ?_, ?_, ?_⟩ <;> simp only [hhost, hpkg, imp_self]

/-- A change of the package's other registers. -/
theorem onPkg (s : State) {f : Package → Package} (hlog : (f s.pkg).log = s.pkg.log) (hcap : (f s.pkg).cap = s.pkg.cap)
    (hpool : (f s.pkg).pool = s.pkg.pool) (hslots : (f s.pkg).slots = s.pkg.slots) : KeepsInv s (s.onPkg f) :=
  ⟨id, id, fun h => hlog.symm ▸ h, hcap, hpool, hslots⟩

theorem foldl {α : Type} {f : State → α → State} (hf : ∀ s a, KeepsInv s (f s a)) (l : List α) (s : State) : KeepsInv s (l.foldl f s) := by
  induction l generalizing s with
  | nil => exact refl s
  | cons a l ih => exact (hf s a).trans (ih _)

theorem ite {s t u : State} {c : Prop} [Decidable c] (ht : KeepsInv s t) (hu : KeepsInv s u) : KeepsInv s (if c then t else u) := by
  split
  · exact ht
  · exact hu

theorem option {α : Type} {s t : State} (o : Option α) {f : α → State} (hf : ∀ a, KeepsInv s (f a)) (ht : KeepsInv s t) :
    KeepsInv s (match o with | some a => f a | none => t) := by
  cases o with
  | none => exact ht
  | some a => exact hf a

/-! ### Parties, crews, streams -/

theorem setParty (s : State) (p : Nat) (x : Party) : KeepsInv s (s.setParty p x) := of_eq rfl rfl

theorem onParty (s : State) (p : Nat) (f : Party → Party) : KeepsInv s (s.onParty p f) := of_eq (onParty_mem ..) (onParty_pkg ..)

theorem onLaunch (s : State) (g : Nat) (f : Launch → Launch) : KeepsInv s (s.onLaunch g f) := of_eq (onLaunch_mem ..) (onLaunch_pkg ..)

theorem onCrew (s : State) (c : Nat) (f : Crew → Crew) : KeepsInv s (s.onCrew c f) := of_eq (onCrew_mem ..) (onCrew_pkg ..)

theorem onCore (s : State) (c : Nat) (f : Core → Core) : KeepsInv s (s.onCore c f) := of_eq rfl rfl

theorem onLod (s : State) (fe : Nat) (f : Lodging → Lodging) : KeepsInv s (s.onLod fe f) := of_eq rfl rfl

theorem onStream (s : State) (fe : Nat) (f : Stream → Stream) : KeepsInv s (s.onStream fe f) := of_eq rfl rfl

theorem wake (s : State) : KeepsInv s s.wake := of_eq rfl rfl

theorem withCur (s : State) (c : Option Nat) : KeepsInv s { s with cur := c } := of_eq rfl rfl

theorem msix (s : State) (fe v : Nat) : KeepsInv s (s.msix fe v) := of_eq rfl rfl

theorem notify (s : State) (c : Nat) : KeepsInv s (s.notify c) := by
  have hnote : KeepsInv s (s.onPkg fun k => { k with notices := k.notices ++ [c] }) := onPkg s rfl rfl rfl rfl
  unfold State.notify
  exact ite (hnote.trans (msix ..)) hnote

theorem spend (s : State) (a : Activity) (fe n : Nat) : KeepsInv s (s.spend a fe n) := by
  unfold State.spend
  exact ite (((onPkg s rfl rfl rfl rfl).trans (onPkg _ rfl rfl rfl rfl)).trans (notify ..)) (onPkg s rfl rfl rfl rfl)

/-- A record: the Logbook stays a ring of 4,096. -/
theorem log (s : State) (code lodging unit : Nat) (detail : BitVec 128) : KeepsInv s (s.log code lodging unit detail) := by
  have hring : ∀ (l : List LogRec) (r : LogRec), l.length ≤ 4096 → (if 4096 < (l ++ [r]).length then (l ++ [r]).drop 1 else l ++ [r]).length ≤ 4096 :=
    fun l r hl => by
      split
      · rw [List.length_drop, List.length_append, List.length_singleton]
        omega
      · omega
  have hpkg : KeepsInv s (s.onPkg fun k =>
      let l := k.log ++ [⟨s.clk, code, lodging, unit, k.logSeq % 2 ^ 32, detail⟩]
      { k with log := if 4096 < l.length then l.drop 1 else l, logSeq := (k.logSeq + 1) % 2 ^ 32 }) := ⟨id, id, hring _ _, rfl, rfl, rfl⟩
  exact hpkg.trans (msix ..)

/-! ### Memory -/

theorem storeN (s : State) (a v n : Nat) : KeepsInv s (s.storeN a v n) := of_wf (storeN_wf a v n) (storeN_host ..) rfl

theorem storePieces (s : State) (v : Nat) (ps : List (Nat × Nat)) : KeepsInv s (s.storePieces v ps) := by
  induction ps generalizing s v with
  | nil => exact refl s
  | cons q ps ih => exact (storeN ..).trans (ih ..)

theorem putDram (s : State) (line major minor : Nat) : KeepsInv s (s.putDram line major minor) := of_bytes rfl rfl rfl

theorem lineWrite (s : State) (line : Nat) : KeepsInv s (s.lineWrite line) := by
  unfold State.lineWrite
  refine ite (refl s) ?_
  extract_lets block b nodes m₁ s₁ s₂ m₂ s₃
  have h₁ : KeepsInv s s₁ := of_bytes rfl rfl rfl
  have h₂ : KeepsInv s₁ s₂ := ite (foldl (fun s i => putDram s _ _ _) _ _) (putDram ..)
  have h₃ : KeepsInv s₂ s₃ := by
    unfold s₃
    split
    · exact of_bytes rfl rfl rfl
    · exact refl s₂
  refine (h₁.trans (h₂.trans h₃)).trans ?_
  split
  · exact (spend ..).trans (spend ..)
  · exact spend ..

theorem linesWrite (s : State) (ls : List Nat) : KeepsInv s (s.linesWrite ls) := foldl (fun s l => lineWrite s l) ls s

theorem resealRange (s : State) (base len : Nat) : KeepsInv s (s.resealRange base len) := by
  obtain ⟨d, hd⟩ := resealRange_frame s base len
  rw [hd]
  exact of_bytes rfl rfl rfl

theorem napWake (s : State) (ls : List Nat) : KeepsInv s (s.napWake ls) := of_eq rfl rfl

theorem dropReq (s : State) (n : Nat) : KeepsInv s (s.dropReq n) := of_eq rfl rfl

end KeepsInv

/-! ### Sparse stores -/

theorem mem_sput {α : Type} {m : Sparse α} {k : Nat} {v : α} {e : Nat × α} (h : e ∈ sput m k v) : e = (k, v) ∨ e ∈ m := by
  induction m with
  | nil => exact .inl (List.mem_singleton.1 h)
  | cons a m ih =>
    obtain ⟨j, w⟩ := a
    unfold sput at h
    split at h
    · rcases List.mem_cons.1 h with h | h
      · exact .inl h
      · exact .inr (List.mem_cons_of_mem _ h)
    split at h
    · exact List.mem_cons.1 h
    · rcases List.mem_cons.1 h with h | h
      · exact .inr (h ▸ List.mem_cons_self)
      · exact (ih h).imp_right (List.mem_cons_of_mem _)

theorem keys_sput {α : Type} (m : Sparse α) (k : Nat) (v : α) {j : Nat} (h : j = k ∨ j ∈ m.map (fun e => e.1)) : j ∈ (sput m k v).map (fun e => e.1) := by
  induction m with
  | nil =>
    rcases h with rfl | h
    · exact List.mem_singleton.2 rfl
    · cases h
  | cons a m ih =>
    obtain ⟨i, w⟩ := a
    unfold sput
    split
    · next hik =>
      rcases h with h | h
      · exact List.mem_cons.2 (.inl h)
      · exact (List.mem_cons.1 h).elim (fun hj => List.mem_cons.2 (.inl (hj.trans hik))) fun hj => List.mem_cons_of_mem _ hj
    split
    · exact h.elim (fun h => List.mem_cons.2 (.inl h)) fun h => List.mem_cons_of_mem _ h
    · rcases h with h | h
      · exact List.mem_cons_of_mem _ (ih (.inl h))
      · exact (List.mem_cons.1 h).elim (fun hj => List.mem_cons.2 (.inl hj)) fun hj => List.mem_cons_of_mem _ (ih (.inr hj))

/-! ### Front ends that hold something -/

theorem frontEnds_onLod (s : State) (fe : Nat) {f : Lodging → Lodging} (hf : f (s.lod fe) ≠ Lodging.reset) {j : Nat} (h : j = fe ∨ j ∈ s.frontEnds) :
    j ∈ (s.onLod fe f).frontEnds := by
  show j ∈ (sset Lodging.reset s.lods fe (f (s.lod fe))).map (fun e => e.1)
  rw [sset, if_neg hf]
  exact keys_sput _ _ _ h

/-- `t` holds the lodgings of `s`, but for messages to the host. -/
structure Rung (s t : State) : Prop where
  lod : ∀ j, ∃ m, t.lod j = { s.lod j with stream := { (s.lod j).stream with msix := m } }
  keys : ∀ j ∈ s.frontEnds, j ∈ t.frontEnds

namespace Rung

theorem of_lods {s t : State} (h : t.lods = s.lods) : Rung s t :=
  ⟨fun j => ⟨(s.lod j).stream.msix, by rw [State.lod, h]; rfl⟩, fun j hj => by rw [State.frontEnds, h]; exact hj⟩

theorem trans {s t u : State} (h : Rung s t) (h' : Rung t u) : Rung s u := by
  refine ⟨fun j => ?_, fun j hj => h'.keys j (h.keys j hj)⟩
  obtain ⟨m, hm⟩ := h.lod j
  obtain ⟨m', hm'⟩ := h'.lod j
  exact ⟨m', hm'.trans (by rw [hm])⟩

theorem raised_ne (m : Msix) {v : Nat} (hv : v < 32) : raised m v ≠ Msix.reset := fun h => by
  unfold raised at h
  split at h
  · have hsent : m.sent ++ [v] = [] := congrArg Msix.sent h
    simp at hsent
  · have hbit : (m.pending ||| BitVec.ofNat 32 (2 ^ v)).getLsbD v = false := by
      rw [show m.pending ||| BitVec.ofNat 32 (2 ^ v) = 0 from congrArg Msix.pending h]
      exact BitVec.getLsbD_zero
    rw [BitVec.getLsbD_or, BitVec.getLsbD_ofNat, Nat.testBit_two_pow_self, decide_eq_true hv] at hbit
    simp at hbit

theorem msix (s : State) (fe : Nat) {v : Nat} (hv : v < 32) : Rung s (s.msix fe v) := by
  rw [msix_eq]
  refine ⟨fun j => ?_, fun j hj => frontEnds_onLod (f := fun l => { l with stream := { l.stream with msix := raised l.stream.msix v } }) s fe ?_ (.inr hj)⟩
  · rw [lod_onStream]
    split
    · next h => exact ⟨_, by rw [h]⟩
    · exact ⟨_, rfl⟩
  · exact fun h => raised_ne (s.lod fe).stream.msix hv (congrArg (fun l : Lodging => l.stream.msix) h)

theorem onPkg (s : State) (f : Package → Package) : Rung s (s.onPkg f) := of_lods rfl

theorem log (s : State) (code lodging unit : Nat) (detail : BitVec 128) : Rung s (s.log code lodging unit detail) := by
  unfold State.log
  exact (onPkg s _).trans (msix _ 0 (by omega))

theorem notify (s : State) (c : Nat) : Rung s (s.notify c) := by
  unfold State.notify
  split
  · exact (onPkg s _).trans (msix _ 0 (by omega))
  · exact onPkg s _

theorem spend (s : State) (a : Activity) (fe n : Nat) : Rung s (s.spend a fe n) := by
  unfold State.spend
  dsimp only
  split
  · exact ((onPkg s _).trans (onPkg _ _)).trans (notify ..)
  · exact onPkg s _

end Rung

/-- `t` keeps the invariant of `s` and its lodgings, but for messages to the host. -/
structure Calm (s t : State) : Prop where
  keeps : KeepsInv s t
  rung : Rung s t

namespace Calm

theorem of_eq {s t : State} (hmem : t.mem = s.mem) (hpkg : t.pkg = s.pkg) (hlods : t.lods = s.lods) : Calm s t := ⟨.of_eq hmem hpkg, .of_lods hlods⟩

theorem refl (s : State) : Calm s s := of_eq rfl rfl rfl

theorem trans {s t u : State} (h : Calm s t) (h' : Calm t u) : Calm s u := ⟨h.keeps.trans h'.keeps, h.rung.trans h'.rung⟩

theorem foldl {α : Type} {f : State → α → State} (hf : ∀ s a, Calm s (f s a)) (l : List α) (s : State) : Calm s (l.foldl f s) := by
  induction l generalizing s with
  | nil => exact refl s
  | cons a l ih => exact (hf s a).trans (ih _)

theorem ite {s t u : State} {c : Prop} [Decidable c] (ht : Calm s t) (hu : Calm s u) : Calm s (if c then t else u) := by
  split
  · exact ht
  · exact hu

theorem setParty (s : State) (p : Nat) (x : Party) : Calm s (s.setParty p x) := of_eq rfl rfl rfl

theorem onParty (s : State) (p : Nat) (f : Party → Party) : Calm s (s.onParty p f) := of_eq (onParty_mem ..) (onParty_pkg ..) (onParty_lods ..)

theorem onLaunch (s : State) (g : Nat) (f : Launch → Launch) : Calm s (s.onLaunch g f) := of_eq (onLaunch_mem ..) (onLaunch_pkg ..) (onLaunch_lods ..)

theorem onCrew (s : State) (c : Nat) (f : Crew → Crew) : Calm s (s.onCrew c f) := of_eq (onCrew_mem ..) (onCrew_pkg ..) (onCrew_lods ..)

theorem onCore (s : State) (c : Nat) (f : Core → Core) : Calm s (s.onCore c f) := of_eq rfl rfl rfl

theorem onReq (s : State) (n : Nat) (f : Req → Req) : Calm s (s.onReq n f) := of_eq (onReq_mem ..) (onReq_pkg ..) (onReq_lods ..)

theorem dropReq (s : State) (n : Nat) : Calm s (s.dropReq n) := of_eq rfl rfl rfl

theorem wake (s : State) : Calm s s.wake := of_eq rfl rfl rfl

theorem withCur (s : State) (c : Option Nat) : Calm s { s with cur := c } := of_eq rfl rfl rfl

theorem notify (s : State) (c : Nat) : Calm s (s.notify c) := ⟨.notify .., .notify ..⟩

theorem log (s : State) (code lodging unit : Nat) (detail : BitVec 128) : Calm s (s.log code lodging unit detail) := ⟨.log .., .log ..⟩

/-! ### Traps and the ends of groups -/

theorem takeTrap (s : State) (p : Nat) (r : TrapReq) : Calm s (s.takeTrap p r) := by
  unfold State.takeTrap
  split
  · exact refl s
  · next x _ =>
    have hhalt := (setParty s p (s.stopCyc x.halt)).trans (notify _ 0x3B)
    exact ite (setParty ..) (ite (ite (hhalt.trans (withCur ..)) hhalt) (setParty ..))

theorem barsAfterRetire (s : State) (g p : Nat) : Calm s (s.barsAfterRetire g p) := by
  unfold State.barsAfterRetire
  split
  · exact refl s
  · exact onLaunch ..

theorem retireCrew (s : State) (c : Nat) : Calm s (s.retireCrew c) := by
  unfold State.retireCrew
  split
  · exact refl s
  · next crew _ =>
    have hend : ∀ u : State, Calm s u → Calm s (if crew.grid.isNone then { u with crews := sdrop u.crews c } else
        u.onCrew c fun c => { c with life := .retired }) := fun u hu => ite (hu.trans (of_eq rfl rfl rfl)) (hu.trans (onCrew ..))
    refine hend _ ?_
    split
    · exact refl s
    · exact (onCore ..).trans (foldl (fun s (f : EngFault) => log s ..) _ _)

theorem retireParty (s : State) (p : Nat) : Calm s (s.retireParty p) := by
  unfold State.retireParty
  split
  · exact refl s
  · next x _ =>
    have hdrop : Calm s { s with
        parties := sdrop s.parties p
        sfus := s.sfus.filter (fun (e : Nat × SfuOp) => e.2.party != p)
        cur := if s.cur == some p then none else s.cur } := of_eq rfl rfl rfl
    have hgrid : ∀ u, Calm s u → Calm s (match x.grid with
        | none => u
        | some g => (u.onLaunch g (fun l => { l with alive := l.alive - 1 })).barsAfterRetire g p) := fun u hu => by
      split
      · exact hu
      · exact hu.trans ((onLaunch ..).trans (barsAfterRetire ..))
    have hlast := hgrid _ hdrop
    dsimp only
    split
    · exact hlast
    · exact ite (hlast.trans (retireCrew ..)) hlast

theorem settle (s : State) (p : Nat) : Calm s (s.settle p) := by
  unfold State.settle
  split
  · exact refl s
  · exact ite (retireParty ..) (setParty ..)

theorem finishGroupWith (s : State) (p : Nat) (kept : Option TrapReq) : Calm s (s.finishGroupWith p kept) := by
  unfold State.finishGroupWith
  split
  · exact refl s
  · next x _ =>
    extract_lets m past stepTrap x' place next y s₁ s₂ single
    have hs₂ : Calm s s₂ := ite (((setParty s p y).trans ((settle ..).trans (wake _))).trans (withCur ..)) ((setParty s p y).trans ((settle ..).trans (wake _)))
    split
    · exact ite ((hs₂.trans (ite (withCur ..) (refl s₂))).trans (takeTrap ..)) hs₂
    · exact hs₂

theorem groupDone (s : State) (p : Nat) : Calm s (s.groupDone p) := by
  unfold State.groupDone
  split
  · exact refl s
  · split
    · exact takeTrap ..
    · exact setParty ..
    · exact finishGroupWith s p none

theorem unhold (s : State) (p : Nat) : Calm s (s.unhold p) := of_eq rfl rfl rfl

theorem discardResults (s : State) (p : Nat) : Calm s (s.discardResults p) := by
  unfold State.discardResults
  dsimp only
  split
  · exact of_eq rfl rfl rfl
  · exact of_eq rfl rfl rfl

theorem consumeError (s : State) (p : Nat) (c : BitVec 6) (r : TrapReq) : Calm s (s.consumeError p c r) := by
  unfold State.consumeError
  split
  · exact refl s
  · split
    · exact takeTrap ..
    · exact ite ((setParty ..).trans (takeTrap ..)) ((discardResults ..).trans (onParty ..))

theorem conclude (s : State) (p : Nat) : Calm s (s.conclude p) := by
  unfold State.conclude
  split
  · exact refl s
  · refine ite (refl s) ?_
    dsimp only
    split
    · exact ite ((unhold ..).trans (finishGroupWith ..)) (ite (setParty ..) ((unhold ..).trans (groupDone ..)))
    · exact ite ((unhold ..).trans ((setParty ..).trans (consumeError ..))) ((unhold ..).trans ((setParty ..).trans (takeTrap ..)))

theorem answer (s : State) (r : Req) (fs : List HomeFault) : Calm s (s.answer r fs) := by
  unfold State.answer
  refine ite ?_ (refl s)
  split
  · exact refl s
  · exact (setParty ..).trans (conclude ..)

theorem refuse (s : State) (n : Nat) (r : Req) (c : BitVec 6) (info : DWord) : Calm s (s.refuse n r c info) := by
  unfold State.refuse
  dsimp only
  split
  · exact dropReq ..
  · exact (dropReq ..).trans ((setParty ..).trans (answer ..))

end Calm

namespace KeepsInv

/-! ### Windows and resets -/

theorem landWindow (s : State) (base len : Nat) : KeepsInv s (s.landWindow base len) := by
  have hland : ∀ (s : State) (e : Nat × Req), KeepsInv s (landOne s e) := fun s e => by
    have hwrite : ∀ u : State, KeepsInv s u → KeepsInv s (((u.dropReq e.1).linesWrite (linesOf e.2.pieces)).napWake (linesOf e.2.pieces)) := fun u hu =>
      hu.trans ((dropReq ..).trans ((linesWrite ..).trans (napWake ..)))
    unfold landOne
    dsimp only
    split
    · exact hwrite _ (storePieces ..)
    · exact hwrite s (refl s)
  exact foldl hland _ s

theorem dropGuests (s : State) (owner base len : Nat) : KeepsInv s (s.dropGuests owner base len) :=
  foldl (f := fun (s : State) (e : Nat × Req) => s.refuse e.1 e.2 0x12 0) (fun s e => (Calm.refuse ..).keeps) _ s

theorem closeWindow (s : State) (w : Nat) : KeepsInv s (s.closeWindow w) := by
  unfold State.closeWindow
  split
  · exact refl s
  · next x _ =>
    have hback : KeepsInv (s.landWindow x.base x.len) (givenBack (s.landWindow x.base x.len) w x) := of_bytes rfl rfl rfl
    exact (landWindow ..).trans (hback.trans ((resealRange ..).trans (dropGuests ..)))

theorem closeWindows (s : State) (ws : List Nat) : KeepsInv s (s.closeWindows ws) := foldl (fun s w => closeWindow s w) ws s

theorem resetLodging (s : State) (fe : Nat) : KeepsInv s (s.resetLodging fe) :=
  (closeWindows s (s.windowsOf fe)).trans (of_eq rfl rfl)

end KeepsInv

end Sys2Proof.Proofs
end

section
/-! PROOFS. Lodgings saved and lost (R279, R280, R341, R369): what leaves the machine with a lodging, and what stands. -/

namespace Sys2Proof.Proofs

open Sys2Proof Sys2Proof.Machine Sys2Proof.Says

/-! ### Lines written back (R329, R330) -/

/-- `t` is `s` after lines were written back: accounts, counters, stored forms and marks of lines differ, and messages to the host. -/
structure LinesWritten (s t : State) : Prop where
  state : t = { s with mem := t.mem, pkg := t.pkg, lods := t.lods }
  rung : Rung s t
  pkg : t.pkg = { s.pkg with spent := t.pkg.spent, notices := t.pkg.notices, noticed := t.pkg.noticed }
  bytes : t.mem.bytes = s.mem.bytes
  owner : t.mem.owner = s.mem.owner
  windows : t.mem.windows = s.mem.windows

namespace LinesWritten

theorem of_mem (s : State) {m : Mem} (hbytes : m.bytes = s.mem.bytes) (howner : m.owner = s.mem.owner) (hwin : m.windows = s.mem.windows) :
    LinesWritten s { s with mem := m } := ⟨rfl, .of_lods rfl, rfl, hbytes, howner, hwin⟩

theorem refl (s : State) : LinesWritten s s := of_mem s rfl rfl rfl

theorem trans {s t u : State} (h : LinesWritten s t) (h' : LinesWritten t u) : LinesWritten s u :=
  ⟨h'.state.trans (congrArg (fun v : State => { v with mem := u.mem, pkg := u.pkg, lods := u.lods }) h.state), h.rung.trans h'.rung,
    h'.pkg.trans (by rw [h.pkg]), h'.bytes.trans h.bytes, h'.owner.trans h.owner, h'.windows.trans h.windows⟩

theorem foldl {α : Type} {f : State → α → State} (hf : ∀ s a, LinesWritten s (f s a)) (l : List α) (s : State) : LinesWritten s (l.foldl f s) := by
  induction l generalizing s with
  | nil => exact refl s
  | cons a l ih => exact (hf s a).trans (ih _)

theorem onPkg (s : State) {f : Package → Package}
    (hf : f s.pkg = { s.pkg with spent := (f s.pkg).spent, notices := (f s.pkg).notices, noticed := (f s.pkg).noticed }) : LinesWritten s (s.onPkg f) :=
  ⟨rfl, .onPkg s f, hf, rfl, rfl, rfl⟩

theorem spend (s : State) (a : Activity) (fe n : Nat) : LinesWritten s (s.spend a fe n) := by
  have hstate := (measured_spend s a fe n).state
  have hmem : (s.spend a fe n).mem = s.mem := (SameView.spend s a fe n).mem
  refine ⟨?_, .spend .., ?_, congrArg Mem.bytes hmem, congrArg Mem.owner hmem, congrArg Mem.windows hmem⟩
  · rw [hmem]
    exact hstate
  · unfold State.spend State.notify
    dsimp only
    split
    · rfl
    · rfl

theorem putDram (s : State) (line major minor : Nat) : LinesWritten s (s.putDram line major minor) := of_mem s rfl rfl rfl

theorem lineWrite (s : State) (line : Nat) : LinesWritten s (s.lineWrite line) := by
  have hcharge : ∀ (s : State) a, LinesWritten s (match s.ownerOf a with
      | .key n => (s.spend .tenant n 64).spend .counters 0 1
      | _ => s.spend .counters 0 1) := fun s a => by
    cases s.ownerOf a with
    | key n => exact (spend ..).trans (spend ..)
    | free => exact spend ..
    | window w => exact spend ..
  unfold State.lineWrite
  split
  · exact refl s
  · extract_lets block b nodes m₁ s₁ s₂ m₂ s₃
    have h₁ : LinesWritten s s₁ := of_mem s rfl rfl rfl
    have h₂ : LinesWritten s₁ s₂ := by
      simp only [s₂]
      split
      · exact foldl (fun s i => putDram s _ _ _) _ _
      · exact putDram ..
    have h₃ : LinesWritten s₂ s₃ := by
      simp only [s₃]
      split
      · exact of_mem s₂ rfl rfl rfl
      · exact refl s₂
    exact (h₁.trans (h₂.trans h₃)).trans (hcharge s₃ _)

theorem unpin (s : State) (k : Nat) : LinesWritten s (s.unpin k) := by
  unfold State.unpin
  split
  · split
    · extract_lets s₁
      have h₁ : LinesWritten s s₁ := by
        simp only [s₁]
        split
        · exact lineWrite s k
        · exact refl s
      exact h₁.trans (of_mem s₁ rfl rfl rfl)
    · exact refl s
  · exact refl s

theorem byteAt {s t : State} (h : LinesWritten s t) (a : Nat) : t.byteAt a = s.byteAt a := by
  rw [State.byteAt, h.bytes]
  rfl

end LinesWritten

/-! ### Crews leave their cores (R280) -/

theorem onParty_parties (s : State) (p : Nat) (f : Party → Party) : ∃ ps, s.onParty p f = { s with parties := ps } := by
  unfold State.onParty
  split
  · exact ⟨_, rfl⟩
  · exact ⟨s.parties, rfl⟩

theorem foldl_onParty_parties (ps : List Nat) (s : State) (g : State → Party → Party) :
    ∃ qs, ps.foldl (fun s p => s.onParty p fun x => g s x) s = { s with parties := qs } := by
  induction ps generalizing s with
  | nil => exact ⟨s.parties, rfl⟩
  | cons p ps ih =>
    obtain ⟨qs, hq⟩ := onParty_parties s p fun x => g s x
    obtain ⟨rs, hr⟩ := ih (s.onParty p fun x => g s x)
    exact ⟨rs, by rw [List.foldl_cons, hr, hq]⟩

theorem onCrew_crews (s : State) (c : Nat) (f : Crew → Crew) : ∃ cs, s.onCrew c f = { s with crews := cs } := by
  unfold State.onCrew
  split
  · exact ⟨_, rfl⟩
  · exact ⟨s.crews, rfl⟩

theorem removeCrew_state (s : State) (c : Nat) : ∃ ps cs ks, s.removeCrew c = { s with parties := ps, crews := cs, cores := ks } := by
  unfold State.removeCrew
  split
  · exact ⟨s.parties, s.crews, s.cores, rfl⟩
  · next k hk =>
    extract_lets ps parked next s₁ s₂
    obtain ⟨qs, h₁⟩ := foldl_onParty_parties ps s fun s x => s.unseat x next
    have h₁ : s₁ = { s with parties := qs } := h₁
    have h₂ : ∃ ks, s₂ = { s with parties := qs, cores := ks } := by
      simp only [s₂]
      split
      · exact ⟨_, by rw [h₁]; rfl⟩
      · exact ⟨s.cores, h₁⟩
    obtain ⟨ks, h₂⟩ := h₂
    obtain ⟨cs, h₃⟩ := onCrew_crews s₂ c fun k => { k with life := next, since := s.now, core := if k.pinned then k.core else none }
    have hnow : s₂.now = s.now := by rw [h₂]
    rw [hnow]
    exact ⟨qs, cs, ks, by rw [h₃, h₂]⟩

theorem leaveCores_state (s : State) (fe : Nat) : ∃ ps cs ks, s.leaveCores fe = { s with parties := ps, crews := cs, cores := ks } := by
  unfold State.leaveCores
  generalize s.crews.filter (fun (e : Nat × Crew) => e.2.fe == fe && e.2.life == .resident) = es
  induction es generalizing s with
  | nil => exact ⟨s.parties, s.crews, s.cores, rfl⟩
  | cons e es ih =>
    obtain ⟨ps, cs, ks, h⟩ := removeCrew_state s e.1
    obtain ⟨qs, ds, js, h'⟩ := ih (s.removeCrew e.1)
    exact ⟨qs, ds, js, by rw [List.foldl_cons, h', h]⟩

/-! ### A lodging is saved (R279, R280) -/

/-- The image that saving a lodging keeps. -/
def savedImage (s : State) (fe : Nat) : Image :=
  let img := ((s.leaveCores fe).collect fe).1
  { img with parties := img.parties.map fun e => (e.1, e.2.toSaved) }

/-- `t` is `s` with a lodging saved. -/
structure Saves (s : State) (fe : Nat) (t : State) : Prop where
  lod : ∀ j, ∃ m, t.lod j = { (if j = fe then { s.lod fe with st := .saved, image := some (savedImage s fe) } else s.lod j) with
    stream := { (s.lod j).stream with msix := m } }
  keys : ∀ j ∈ s.frontEnds, j ∈ t.frontEnds
  pkg : t.pkg = { s.pkg with spent := t.pkg.spent, notices := t.pkg.notices, noticed := t.pkg.noticed }
  bytes : t.mem.bytes = s.mem.bytes
  owner : t.mem.owner = s.mem.owner
  windows : t.mem.windows = s.mem.windows
  now : t.now = s.now
  upset : t.upset = s.upset
  caravans : t.caravans = s.caravans
  parties : t.parties = (s.leaveCores fe).parties.filter fun e => e.2.fe != fe
  absent : Absent fe t

theorem save_saves {s : State} (fe : Nat) (h : s.upset ≠ .saveArea) : Saves s fe (s.save fe) := by
  obtain ⟨ps, cs, ks, hleave⟩ := leaveCores_state s fe
  have hsave : s.save fe = ((savedImage s fe).pinned.foldl (fun (s : State) k => s.unpin k) ((s.leaveCores fe).collect fe).2).onLod fe fun l =>
      { l with st := .saved, image := some (savedImage s fe) } := by
    unfold State.save
    split
    · next hu => exact absurd hu h
    · rfl
  rw [hsave]
  have hw := LinesWritten.foldl (fun s k => LinesWritten.unpin s k) (savedImage s fe).pinned ((s.leaveCores fe).collect fe).2
  have habsent := absent_collect (s.leaveCores fe) fe
  have hcollect : ((s.leaveCores fe).collect fe).2.lods = s.lods ∧ ((s.leaveCores fe).collect fe).2.pkg = s.pkg ∧
      ((s.leaveCores fe).collect fe).2.mem = s.mem ∧ ((s.leaveCores fe).collect fe).2.now = s.now ∧
      ((s.leaveCores fe).collect fe).2.upset = s.upset ∧ ((s.leaveCores fe).collect fe).2.caravans = s.caravans ∧
      ((s.leaveCores fe).collect fe).2.parties = (s.leaveCores fe).parties.filter fun e => e.2.fe != fe := by
    rw [hleave]
    exact ⟨rfl, rfl, rfl, rfl, rfl, rfl, rfl⟩
  generalize (savedImage s fe).pinned.foldl (fun (s : State) k => s.unpin k) ((s.leaveCores fe).collect fe).2 = u at hw ⊢
  generalize ((s.leaveCores fe).collect fe).2 = v at hw habsent hcollect
  obtain ⟨hlods, hpkg, hmem, hnow, hupset, hcaravans, hparties⟩ := hcollect
  have hrung : Rung s u := (Rung.of_lods hlods).trans hw.rung
  have hparts : u.parties = v.parties ∧ u.crews = v.crews ∧ u.launches = v.launches ∧ u.tags = v.tags ∧ u.now = v.now ∧ u.upset = v.upset ∧
      u.caravans = v.caravans := by
    rw [hw.state]
    exact ⟨rfl, rfl, rfl, rfl, rfl, rfl, rfl⟩
  obtain ⟨hps, hcs, hls, hts, hn, hu, hc⟩ := hparts
  refine ⟨fun j => ?_, fun j hj => frontEnds_onLod u fe (fun hr => ?_) (.inr (hrung.keys j hj)), hw.pkg.trans (by rw [hpkg]; rfl),
    hw.bytes.trans (by rw [hmem]), hw.owner.trans (by rw [hmem]), hw.windows.trans (by rw [hmem]), hn.trans hnow, hu.trans hupset,
    hc.trans hcaravans, hps.trans hparties, ?_⟩
  · obtain ⟨m, hm⟩ := hrung.lod j
    refine ⟨m, ?_⟩
    rw [lod_onLod]
    split
    · next hj => rw [← hj, hm]
    · exact hm
  · exact absurd (congrArg Lodging.st hr) (by simp [Lodging.reset])
  · exact absent_of_filter habsent (fun e he => hps ▸ he) (fun e he => hcs ▸ he) (fun e he => hls ▸ he) fun g hg => hts ▸ hg

end Sys2Proof.Proofs
end

section
/-! PROOFS. Lodgings pre-empted, restored and lost (R279, R280, R341, R369): O49. -/

namespace Sys2Proof.Proofs

open Sys2Proof Sys2Proof.Machine Sys2Proof.Says

/-! ### Parties of a lodging that leaves (R279, R280) -/

/-- A party as it leaves its lane: of what programs see, nothing differs. -/
structure Unseated (x y : Party) : Prop where
  regs : y.regs = x.regs
  tpc : y.tpc = x.tpc
  csr : y.csr = x.csr
  divs : y.divs = x.divs
  calls : y.calls = x.calls
  shadow : y.shadow = x.shadow
  left : y.left = x.left
  wb : y.wb = x.wb
  fe : y.fe = x.fe
  halted : y.life = .halted ↔ x.life = .halted

namespace Unseated

theorem refl (x : Party) : Unseated x x := ⟨rfl, rfl, rfl, rfl, rfl, rfl, rfl, rfl, rfl, Iff.rfl⟩

theorem trans {x y z : Party} (h : Unseated x y) (h' : Unseated y z) : Unseated x z :=
  ⟨h'.regs.trans h.regs, h'.tpc.trans h.tpc, h'.csr.trans h.csr, h'.divs.trans h.divs, h'.calls.trans h.calls, h'.shadow.trans h.shadow,
    h'.left.trans h.left, h'.wb.trans h.wb, h'.fe.trans h.fe, h'.halted.trans h.halted⟩

theorem unseat (s : State) (x : Party) {next : Life} (hn : next ≠ .halted) : Unseated x (s.unseat x next) := by
  refine ⟨rfl, rfl, rfl, rfl, rfl, rfl, rfl, rfl, rfl, ?_⟩
  show (if x.life == .halted then Life.halted else next) = .halted ↔ _
  cases hx : x.life == Life.halted with
  | true => simpa using hx
  | false => simp [hn, (by simpa using hx : x.life ≠ .halted)]

end Unseated

/-- `t` is `s` with parties of a lodging off their lanes, and of no other. -/
structure Leaves (fe : Nat) (s t : State) : Prop where
  found : ∀ p x, s.party? p = some x → ∃ y, t.party? p = some y ∧ Unseated x y ∧ (x.fe ≠ fe → y = x)
  origin : ∀ e ∈ t.parties, ∃ e' ∈ s.parties, e'.1 = e.1 ∧ e'.2.fe = e.2.fe
  crews : ∀ c k, t.crew? c = some k → ∃ k', s.crew? c = some k' ∧ k'.fe = k.fe ∧ k'.parties = k.parties
  crewsStay : ∀ c k, s.crew? c = some k → ∃ k', t.crew? c = some k' ∧ k'.fe = k.fe ∧ k'.parties = k.parties

namespace Leaves

variable {fe : Nat}

theorem refl (s : State) : Leaves fe s s :=
  ⟨fun _ x hx => ⟨x, hx, .refl x, fun _ => rfl⟩, fun e he => ⟨e, he, rfl, rfl⟩, fun _ k hk => ⟨k, hk, rfl, rfl⟩, fun _ k hk => ⟨k, hk, rfl, rfl⟩⟩

theorem trans {s t u : State} (h : Leaves fe s t) (h' : Leaves fe t u) : Leaves fe s u := by
  refine ⟨fun p x hx => ?_, fun e he => ?_, fun c k hk => ?_, fun c k hk => ?_⟩
  · obtain ⟨y, hy, hxy, heq⟩ := h.found p x hx
    obtain ⟨z, hz, hyz, heq'⟩ := h'.found p y hy
    exact ⟨z, hz, hxy.trans hyz, fun hfe => (heq' (hxy.fe ▸ hfe)).trans (heq hfe)⟩
  · obtain ⟨e', he', hp, hf⟩ := h'.origin e he
    obtain ⟨e'', he'', hp', hf'⟩ := h.origin e' he'
    exact ⟨e'', he'', hp'.trans hp, hf'.trans hf⟩
  · obtain ⟨k', hk', hf, hp⟩ := h'.crews c k hk
    obtain ⟨k'', hk'', hf', hp'⟩ := h.crews c k' hk'
    exact ⟨k'', hk'', hf'.trans hf, hp'.trans hp⟩
  · obtain ⟨k', hk', hf, hp⟩ := h.crewsStay c k hk
    obtain ⟨k'', hk'', hf', hp'⟩ := h'.crewsStay c k' hk'
    exact ⟨k'', hk'', hf'.trans hf, hp'.trans hp⟩

theorem of_eq {s t : State} (hp : t.parties = s.parties) (hc : t.crews = s.crews) : Leaves fe s t :=
  ⟨fun p x hx => ⟨x, by rw [State.party?, hp]; exact hx, .refl x, fun _ => rfl⟩, fun e he => ⟨e, hp ▸ he, rfl, rfl⟩,
    fun c k hk => ⟨k, by rw [State.crew?, ← hc]; exact hk, rfl, rfl⟩, fun c k hk => ⟨k, by rw [State.crew?, hc]; exact hk, rfl, rfl⟩⟩

theorem onParty (s : State) (p : Nat) {f : Party → Party} (hf : ∀ x, Unseated x (f x)) (hfe : ∀ x, s.party? p = some x → x.fe = fe) :
    Leaves fe s (s.onParty p f) := by
  unfold State.onParty
  split
  · next x hx =>
    refine ⟨fun q y hy => ?_, fun e he => ?_, fun _ k hk => ⟨k, hk, rfl, rfl⟩, fun _ k hk => ⟨k, hk, rfl, rfl⟩⟩
    · rw [party?_setParty]
      split
      · next hq =>
        obtain rfl : x = y := Option.some.inj (hx.symm.trans (hq ▸ hy))
        exact ⟨f x, rfl, hf x, fun h => absurd (hfe x hx) h⟩
      · exact ⟨y, hy, .refl y, fun _ => rfl⟩
    · rcases mem_sput he with rfl | he
      · exact ⟨(p, x), mem_of_sfind hx, rfl, ((hf x).fe).symm⟩
      · exact ⟨e, he, rfl, rfl⟩
  · exact refl s

theorem onCrew (s : State) (c : Nat) {f : Crew → Crew} (hf : ∀ k, (f k).fe = k.fe ∧ (f k).parties = k.parties) : Leaves fe s (s.onCrew c f) := by
  have hcrew : ∀ d, (s.onCrew c f).crew? d = if d = c then (s.crew? c).map f else s.crew? d := crew?_onCrew s c f
  obtain ⟨cs, hcs⟩ := onCrew_crews s c f
  refine ⟨(of_eq (by rw [hcs]) rfl : Leaves fe s { s.onCrew c f with crews := s.crews }).found, (of_eq (by rw [hcs]) rfl :
    Leaves fe s { s.onCrew c f with crews := s.crews }).origin, fun d k hk => ?_, fun d k hk => ?_⟩
  · rw [hcrew] at hk
    split at hk
    · next hd =>
      obtain ⟨k', hk', rfl⟩ := Option.map_eq_some_iff.1 hk
      exact ⟨k', hd ▸ hk', (hf k').1.symm, (hf k').2.symm⟩
    · exact ⟨k, hk, rfl, rfl⟩
  · rw [hcrew]
    split
    · next hd => exact ⟨f k, by rw [← hd, hk]; rfl, (hf k).1, (hf k).2⟩
    · exact ⟨k, hk, rfl, rfl⟩

theorem parties (ps : List Nat) (g : State → Party → Party) (hg : ∀ s x, Unseated x (g s x)) (s : State)
    (hfe : ∀ p ∈ ps, ∀ x, s.party? p = some x → x.fe = fe) : Leaves fe s (ps.foldl (fun s p => s.onParty p fun x => g s x) s) := by
  induction ps generalizing s with
  | nil => exact refl s
  | cons p ps ih =>
    have hfirst : Leaves fe s (s.onParty p fun x => g s x) := onParty s p (hg s) (hfe p List.mem_cons_self)
    refine hfirst.trans (ih _ fun q hq y hy => ?_)
    cases hs : s.party? q with
    | none =>
      have hnone : (s.onParty p fun x => g s x).party? q = none := by
        unfold State.onParty
        split
        · next x hx => rw [party?_setParty, if_neg (fun h : q = p => by rw [h, hx] at hs; cases hs)]; exact hs
        · exact hs
      rw [hnone] at hy
      cases hy
    | some x =>
      obtain ⟨z, hz, hxz, -⟩ := hfirst.found q x hs
      obtain rfl : z = y := Option.some.inj (hz.symm.trans hy)
      exact hxz.fe.trans (hfe q (List.mem_cons_of_mem _ hq) x hs)

/-- A crew of a lodging leaves its core. -/
theorem removeCrew {s : State} {c : Nat} (hk : ∀ k, s.crew? c = some k → k.fe = fe ∧ ∀ p ∈ k.parties, ∀ x, s.party? p = some x → x.fe = fe) :
    Leaves fe s (s.removeCrew c) := by
  unfold State.removeCrew
  split
  · exact refl s
  · next k hc =>
    extract_lets ps parked next s₁ s₂
    obtain ⟨-, hfe⟩ := hk k hc
    have hnext : next ≠ .halted := by
      simp only [next]
      split
      · exact Life.noConfusion
      · exact Life.noConfusion
    have h₁ : Leaves fe s s₁ := parties ps (fun s x => s.unseat x next) (fun s x => .unseat s x hnext) s fun p hp => hfe p (List.mem_of_mem_filter hp)
    have h₂ : Leaves fe s₁ s₂ := by
      simp only [s₂]
      split
      · exact of_eq rfl rfl
      · exact refl s₁
    exact (h₁.trans h₂).trans (onCrew s₂ c fun k => ⟨rfl, rfl⟩)

end Leaves

theorem leaveCores_leaves {s : State} (h : Tidy s) (fe : Nat) : Leaves fe s (s.leaveCores fe) := by
  obtain ⟨hkeys, hcrews, -, hparties⟩ := h
  have hall : ∀ (es : List (Nat × Crew)) (t : State), (∀ e ∈ es, ∃ k, s.crew? e.1 = some k ∧ k.fe = fe) → Leaves fe s t →
      Leaves fe s (es.foldl (fun (s : State) e => s.removeCrew e.1) t) := fun es => by
    induction es with
    | nil => exact fun t _ h => h
    | cons e es ih =>
      intro t hes h
      refine ih _ (fun e' he' => hes e' (List.mem_cons_of_mem _ he')) (h.trans (Leaves.removeCrew fun k hk => ?_))
      obtain ⟨k₀, hk₀, hfe⟩ := hes e List.mem_cons_self
      obtain ⟨k', hk', hf, hp⟩ := h.crews e.1 k hk
      obtain rfl : k₀ = k' := Option.some.inj (hk₀.symm.trans hk')
      refine ⟨hf.symm.trans hfe, fun p hp' x hx => ?_⟩
      cases hs : s.party? p with
      | none =>
        obtain ⟨e', he', hp'', hf''⟩ := h.origin (p, x) (mem_of_sfind hx)
        have hsome := sfind_of_mem_nodup hkeys he'
        rw [show e'.1 = p from hp''] at hsome
        exact absurd (hsome.symm.trans hs) (by simp)
      | some y =>
        obtain ⟨z, hz, hyz, -⟩ := h.found p y hs
        obtain rfl : z = x := Option.some.inj (hz.symm.trans hx)
        exact hyz.fe.trans ((hparties e.1 k₀ p y hk₀ (hp ▸ hp') hs).trans hfe)
  refine hall _ s (fun e he => ?_) (.refl s)
  obtain ⟨hmem, hcond⟩ := List.mem_filter.1 he
  simp only [Bool.and_eq_true, beq_iff_eq] at hcond
  exact ⟨e.2, sfind_of_mem_nodup hcrews hmem, hcond.1⟩

/-! ### Pre-emption (R279) -/

theorem preemption_ignored {s : State} {fe : Nat} (h : (s.lod fe).st ≠ .running ∨ s.quiet fe = false) : exec (.preemption fe) s = .next s.wake := by
  rw [exec_preemption, execPreemption]
  refine congrArg State.event (if_neg ?_)
  rcases h with h | h
  · simp [h]
  · simp [h]

theorem preemption_saves {s : State} {fe : Nat} (hst : (s.lod fe).st = .running) (hquiet : s.quiet fe = true) :
    exec (.preemption fe) s = .next (s.save fe).wake := by
  rw [exec_preemption, execPreemption]
  exact congrArg State.event (if_pos (by simp [hst, hquiet]))

theorem save_othersStand {s : State} (htidy : Tidy s) {fe : Nat} (h : s.upset ≠ .saveArea) : OthersStand s fe (s.save fe).wake := by
  intro p x hx hfe
  obtain ⟨y, hy, -, heq⟩ := (leaveCores_leaves htidy fe).found p x hx
  have hkept : (s.save fe).party? p = some x := by
    rw [State.party?, (save_saves fe h).parties]
    exact sfind_filterVals (p := fun x : Party => x.fe != fe) ((heq hfe) ▸ hy) (by simpa using hfe)
  rw [wake_party?, hkept]
  rfl

theorem save_party {s : State} (htidy : Tidy s) {fe : Nat} (h : s.upset ≠ .saveArea) {p : Nat} {x : Party} (hx : s.party? p = some x)
    (hfe : x.fe = fe) : (s.save fe).wake.party? p = none ∧ ∃ y, sfind (savedImage s fe).parties p = some y ∧ y.regs = x.regs ∧ y.tpc = x.tpc ∧
      y.csr = x.csr ∧ y.divs = x.divs ∧ y.calls = x.calls ∧ y.shadow = x.shadow ∧ y.left = x.left ∧ y.wb = x.wb ∧
      (y.life = if x.life = .halted then .halted else .saved) := by
  have hleaves := leaveCores_leaves htidy fe
  obtain ⟨y, hy, hxy, -⟩ := hleaves.found p x hx
  constructor
  · have hnone : (s.save fe).party? p = none := by
      rw [State.party?, (save_saves fe h).parties]
      refine Option.eq_none_iff_forall_ne_some.2 fun z hz => ?_
      obtain ⟨hmem, hne⟩ := List.mem_filter.1 (mem_of_sfind hz)
      obtain ⟨e, he, hep, hef⟩ := hleaves.origin (p, z) hmem
      have hsome := sfind_of_mem_nodup htidy.1 he
      rw [show e.1 = p from hep] at hsome
      obtain rfl : x = e.2 := Option.some.inj (hx.symm.trans hsome)
      rw [show (p, z).2.fe = fe from hef.symm.trans hfe] at hne
      simp at hne
    rw [wake_party?, hnone]
    rfl
  · have hfind : sfind ((s.leaveCores fe).collect fe).1.parties p = some y :=
      sfind_filterVals (p := fun x : Party => x.fe == fe) hy (by rw [hxy.fe, hfe]; exact beq_self_eq_true fe)
    refine ⟨y.toSaved, ?_, hxy.regs, hxy.tpc, hxy.csr, hxy.divs, hxy.calls, hxy.shadow, hxy.left, hxy.wb, ?_⟩
    · show sfind (((s.leaveCores fe).collect fe).1.parties.map fun e => (e.1, e.2.toSaved)) p = _
      rw [sfind_map (fun _ => Party.toSaved), hfind]
      rfl
    · show (if y.life == .halted then Life.halted else .saved) = _
      simp only [beq_iff_eq, hxy.halted]

theorem savedImage_qb (s : State) (fe : Nat) : (savedImage s fe).qb = (s.lod fe).qb ∧
    (savedImage s fe).launches = s.launches.filter fun e => e.2.fe == fe := by
  obtain ⟨ps, cs, ks, hleave⟩ := leaveCores_state s fe
  unfold savedImage
  rw [hleave]
  exact ⟨rfl, rfl⟩

theorem lod_wake (s : State) (j : Nat) : s.wake.lod j = s.lod j := rfl

/-! ### A lodging is lost (R280, R341) -/

/-- `t` is `s` with a lodging lost. -/
structure Loses (s : State) (fe code : Nat) (t : State) : Prop where
  absent : Absent fe t
  absentStays : ∀ j, Absent j s → Absent j t
  lod : (t.lod fe).st = .lost ∧ (t.lod fe).image = none ∧ (t.lod fe).stream.failed = true ∧ (t.lod fe).stream.code = code
  mem : t.mem = s.mem
  now : t.now = s.now
  others : ∀ j, j ≠ fe → ∃ m, t.lod j = { s.lod j with stream := { (s.lod j).stream with msix := m } }

theorem absent_congr {s t : State} {fe : Nat} (h : Absent fe s) (hp : t.parties = s.parties) (hc : t.crews = s.crews) (hl : t.launches = s.launches)
    (ht : t.tags = s.tags) : Absent fe t :=
  absent_of_filter h (fun _ he => hp ▸ he) (fun _ he => hc ▸ he) (fun _ he => hl ▸ he) fun _ hg => ht ▸ hg

/-- A failed stream of a lodging: its own fields, and the others but messages. -/
theorem failStream_lod (s : State) (fe code skip : Nat) (packet : DWord) :
    (∃ st, (s.failStream fe code skip packet).lod fe = { s.lod fe with stream := st } ∧ st.failed = true ∧ st.code = code) ∧
    ∀ j, j ≠ fe → (s.failStream fe code skip packet).lod j = s.lod j := by
  rw [failStream_eq]
  refine ⟨?_, fun j hj => ?_⟩
  · rw [lod_onStream, if_pos rfl, lod_onStream, if_pos rfl]
    exact ⟨_, rfl, rfl, rfl⟩
  · rw [lod_onStream, if_neg hj, lod_onStream, if_neg hj]

theorem loseLodging_loses (s : State) (fe code : Nat) : Loses s fe code (s.loseLodging fe code) := by
  unfold State.loseLodging
  extract_lets u v
  have huv : ∀ j, v.lod j = if j = fe then { s.lod fe with st := .lost, image := none } else s.lod j := fun j =>
    lod_onLod u fe (fun l => { l with st := .lost, image := none }) j
  obtain ⟨⟨st, hst, hfailed, hcode⟩, hothers⟩ := failStream_lod v fe code 0 (v.lod fe).stream.faultPacket
  have hrung : Rung (v.failStream fe code 0 (v.lod fe).stream.faultPacket)
      (((v.failStream fe code 0 (v.lod fe).stream.faultPacket).log code fe 0 0).msix fe 3) := (Rung.log ..).trans (Rung.msix _ _ (by omega))
  generalize (v.lod fe).stream.faultPacket = packet at hst hothers hrung ⊢
  have habsent : ∀ {j}, Absent j u → Absent j (((v.failStream fe code 0 packet).log code fe 0 0).msix fe 3) := fun h => absent_congr h rfl rfl rfl rfl
  refine ⟨habsent (absent_collect s fe), fun j hj => habsent (absent_collect_other hj fe), ?_, rfl, rfl, fun j hj => ?_⟩
  · obtain ⟨m, hm⟩ := hrung.lod fe
    rw [hm, hst, huv, if_pos rfl]
    exact ⟨rfl, rfl, hfailed, hcode⟩
  · obtain ⟨m, hm⟩ := hrung.lod j
    rw [hothers j hj, huv, if_neg hj] at hm
    exact ⟨m, hm⟩

theorem preemption_spec {s : State} {fe : Nat} (htidy : Tidy s) (hst : (s.lod fe).st = .running) (hquiet : s.quiet fe = true) : ∃ t,
    exec (.preemption fe) s = .next t ∧ Absent fe t ∧
    (s.upset = .saveArea → (t.lod fe).st = .lost ∧ (t.lod fe).image = none ∧ (t.lod fe).stream.failed = true ∧
      (t.lod fe).stream.code = 0x32) ∧
    (s.upset ≠ .saveArea → (t.lod fe).st = .saved ∧ (∀ a, t.byteAt a = s.byteAt a) ∧ OthersStand s fe t ∧
      ∃ i, (t.lod fe).image = some i ∧ i.qb = (s.lod fe).qb ∧ i.launches = s.launches.filter (fun e => e.2.fe == fe) ∧
        ∀ p x, s.party? p = some x → x.fe = fe → t.party? p = none ∧ ∃ y, sfind i.parties p = some y ∧ y.regs = x.regs ∧ y.tpc = x.tpc ∧
          y.csr = x.csr ∧ y.divs = x.divs ∧ y.calls = x.calls ∧ y.shadow = x.shadow ∧ y.left = x.left ∧ y.wb = x.wb ∧
          (y.life = if x.life = .halted then .halted else .saved)) := by
  refine ⟨(s.save fe).wake, preemption_saves hst hquiet, ?_⟩
  by_cases hu : s.upset = .saveArea
  · have hlose : s.save fe = ({ s with upset := .none } : State).loseLodging fe 0x32 := by
      unfold State.save
      rw [hu]
    have h := loseLodging_loses { s with upset := .none } fe 0x32
    rw [hlose, lod_wake]
    exact ⟨absent_wake h.absent, fun _ => h.lod, fun hne => absurd hu hne⟩
  · have h := save_saves fe hu
    obtain ⟨m, hm⟩ := h.lod fe
    rw [if_pos rfl] at hm
    have hlod : (s.save fe).wake.lod fe = { s.lod fe with
        st := .saved, image := some (savedImage s fe), stream := { (s.lod fe).stream with msix := m } } := hm
    refine ⟨absent_wake h.absent, fun he => absurd he hu, fun _ => ⟨by rw [hlod], fun a => ?_, save_othersStand htidy hu, savedImage s fe,
      by rw [hlod], (savedImage_qb s fe).1, (savedImage_qb s fe).2, fun p x hx hfe => save_party htidy hu hx hfe⟩⟩
    rw [State.byteAt, show (s.save fe).wake.mem.bytes = s.mem.bytes from h.bytes]
    rfl

/-! ### A lodging returns (R280) -/

theorem sfind_foldl_sput {α β : Type} (f : Nat × α → β) (es : Sparse α) (hes : (es.map fun e => e.1).Nodup) (m : Sparse β) (k : Nat) :
    sfind (es.foldl (fun st e => sput st e.1 (f e)) m) k = match sfind es k with | some v => some (f (k, v)) | none => sfind m k := by
  induction es generalizing m with
  | nil => rfl
  | cons e es ih =>
    obtain ⟨j, v⟩ := e
    obtain ⟨hj, hes⟩ := List.nodup_cons.1 hes
    rw [List.foldl_cons, ih hes]
    by_cases hjk : j = k
    · subst hjk
      have hnone : sfind es j = none := Option.eq_none_iff_forall_ne_some.2 fun w hw => hj (List.mem_map.2 ⟨(j, w), mem_of_sfind hw, rfl⟩)
      simp [hnone, sfind]
    · rw [sfind_sput, if_neg fun h => hjk h.symm]
      simp [sfind, hjk]

/-- The state of the machine that a lodging's return leaves. -/
structure PutBack (s : State) (fe : Nat) (i : Image) (t : State) : Prop where
  pkg : t.pkg = s.pkg
  mem : ∃ c, t.mem = { s.mem with cellar := c }
  lod : ∀ j, t.lod j = if j = fe then { s.lod fe with st := .running, image := none } else s.lod j
  now : t.now = s.now
  upset : t.upset = s.upset
  caravans : t.caravans = s.caravans
  parties : ∃ f : Nat × Party → Party, t.parties = i.parties.foldl (fun st e => sput st e.1 (f e)) s.parties ∧
    ∀ e, ∃ life, f e = { e.2 with life := life } ∧ (e.2.life = .halted → life = .halted)

theorem foldl_returnCore (fe : Nat) (es : Sparse Core) (s : State) : ∃ ks, es.foldl (fun (s : State) e => s.returnCore fe e.1 e.2) s = { s with cores := ks } := by
  induction es generalizing s with
  | nil => exact ⟨s.cores, rfl⟩
  | cons e es ih =>
    obtain ⟨ks, h⟩ := ih (s.returnCore fe e.1 e.2)
    have hone : ∃ ks, s.returnCore fe e.1 e.2 = { s with cores := ks } := by
      unfold State.returnCore
      split
      · exact ⟨_, rfl⟩
      · exact ⟨_, rfl⟩
    obtain ⟨js, hone⟩ := hone
    exact ⟨ks, by rw [List.foldl_cons, h, hone]⟩

theorem foldl_onBank (f : Nat × Bank → Bank → Bank) (es : Sparse Bank) (s : State) : ∃ bs, es.foldl (fun (s : State) e => s.onBank e.1 (f e)) s =
    { s with banks := bs } := by
  induction es generalizing s with
  | nil => exact ⟨s.banks, rfl⟩
  | cons e es ih =>
    obtain ⟨bs, h⟩ := ih (s.onBank e.1 (f e))
    exact ⟨bs, h⟩

theorem foldl_onQuad (es : Sparse Quad) (s : State) : ∃ qs, es.foldl (fun (s : State) e => s.onQuad e.1 fun q => q.back e.2 s.now) s =
    { s with quads := qs } := by
  induction es generalizing s with
  | nil => exact ⟨s.quads, rfl⟩
  | cons e es ih =>
    obtain ⟨qs, h⟩ := ih (s.onQuad e.1 fun q => q.back e.2 s.now)
    exact ⟨qs, h⟩

theorem putBack_putBack (s : State) (fe : Nat) (i : Image) : PutBack s fe i (s.putBack fe i) := by
  unfold State.putBack
  extract_lets parties s₁ s₂ s₃ s₄ put m s₅
  obtain ⟨ks, h₂⟩ := foldl_returnCore fe i.cores s₁
  obtain ⟨bs, h₃⟩ := foldl_onBank (fun e b => b.back e.2) i.banks s₂
  obtain ⟨qs, h₄⟩ := foldl_onQuad i.quads s₃
  have h₄ : s₄ = { s₁ with cores := ks, banks := bs, quads := qs } := h₄.trans (by rw [show s₃ = _ from h₃, show s₂ = _ from h₂])
  have h₅ : s₅ = { s₄ with mem := { s₄.mem with cellar := i.pinned.foldl put s₄.mem.cellar } } := rfl
  have hpkg : s₅.pkg = s.pkg ∧ s₅.mem.bytes = s.mem.bytes := by rw [h₅, h₄]; exact ⟨rfl, rfl⟩
  refine ⟨?_, ?_, fun j => ?_, ?_, ?_, ?_, ?_⟩
  · rw [onLod_pkg]
    exact hpkg.1
  · refine ⟨i.pinned.foldl put s₄.mem.cellar, ?_⟩
    show s₅.mem = _
    rw [h₅, h₄]
  · rw [lod_onLod]
    have hlod : ∀ j, s₅.lod j = s.lod j := fun j => by rw [h₅, h₄]; rfl
    rw [hlod, hlod]
  · show s₅.now = _
    rw [h₅, h₄]
  · show s₅.upset = _
    rw [h₅, h₄]
  · show s₅.caravans = _
    rw [h₅, h₄]
  · refine ⟨fun e => { e.2 with life := if e.2.life == .halted then .halted else (match sfind i.crews e.2.crew with | some k => i.crewLife k | none => e.2.life) },
      ?_, fun e => ⟨_, rfl, fun h => if_pos (by rw [h]; rfl)⟩⟩
    show s₅.parties = _
    rw [h₅, h₄]
    exact List.foldl_map

theorem PutBack.returned {s t : State} {fe : Nat} {i : Image} (h : PutBack s fe i t) (hnodup : (i.parties.map fun e => e.1).Nodup) :
    Returned i t.wake := fun p x hx => by
  obtain ⟨f, hparties, hf⟩ := h.parties
  obtain ⟨life, hlife, hhalted⟩ := hf (p, x)
  refine ⟨{ f (p, x) with hold := false }, ?_, ?_⟩
  · rw [wake_party?, State.party?, hparties, sfind_foldl_sput f _ hnodup, hx]
    rfl
  · rw [hlife]
    exact ⟨rfl, rfl, rfl, rfl, rfl, rfl, rfl, rfl, hhalted⟩

theorem PutBack.stands {s t : State} {fe : Nat} {i : Image} (h : PutBack s fe i t) (hnodup : (i.parties.map fun e => e.1).Nodup)
    (hret : s.canReturn fe i = true) {p : Nat} {x : Party} (hx : s.party? p = some x) : t.wake.party? p = some { x with hold := false } := by
  obtain ⟨f, hparties, -⟩ := h.parties
  have hnone : sfind i.parties p = none := Option.eq_none_iff_forall_ne_some.2 fun y hy => by
    unfold State.canReturn at hret
    simp only [Bool.and_eq_true] at hret
    obtain ⟨⟨⟨⟨-, hp⟩, -⟩, -⟩, -⟩ := hret
    have hfree := List.all_eq_true.1 hp (p, y) (mem_of_sfind hy)
    rw [show s.party? (p, y).1 = some x from hx] at hfree
    cases hfree
  rw [wake_party?, State.party?, hparties, sfind_foldl_sput f _ hnodup, hnone]
  show Option.map _ (s.party? p) = _
  rw [hx]
  rfl

theorem restore_putBack {s : State} {fe : Nat} {i : Image} (himage : (s.lod fe).image = some i)
    (hret : s.canReturn fe (i.move ⟨i.qb, (s.lod fe).qb, fe⟩) = true) : s.restore fe = s.putBack fe (i.move ⟨i.qb, (s.lod fe).qb, fe⟩) := by
  unfold State.restore
  rw [himage]
  exact if_pos hret

theorem keys_move (i : Image) (m : Move) : (i.move m).parties.map (fun e => e.1) = i.parties.map fun e => e.1 := by
  show (i.parties.map _).map _ = _
  rw [List.map_map]
  rfl

theorem lodgingRestore_spec {s : State} {fe : Nat} {i : Image} (hst : (s.lod fe).st = .saved) (hactive : (s.lod fe).desc.getLsbD 36 = true)
    (himage : (s.lod fe).image = some i) (hnodup : (i.parties.map (fun e => e.1)).Nodup)
    (hret : s.canReturn fe (i.move ⟨i.qb, (s.lod fe).qb, fe⟩) = true) : ∃ t,
    exec (.lodgingRestore fe) s = .next t ∧ (t.lod fe) = { s.lod fe with st := .running, image := none } ∧
    Returned (i.move ⟨i.qb, (s.lod fe).qb, fe⟩) t ∧ (∀ a, t.byteAt a = s.byteAt a) ∧
    ∀ p x, s.party? p = some x → t.party? p = some { x with hold := false } := by
  have h := putBack_putBack s fe (i.move ⟨i.qb, (s.lod fe).qb, fe⟩)
  have hkeys : ((i.move ⟨i.qb, (s.lod fe).qb, fe⟩).parties.map fun e => e.1).Nodup := (keys_move ..).symm ▸ hnodup
  refine ⟨(s.putBack fe (i.move ⟨i.qb, (s.lod fe).qb, fe⟩)).wake, ?_, (h.lod fe).trans (if_pos rfl), h.returned hkeys, fun a => ?_,
    fun p x hx => h.stands hkeys hret hx⟩
  · rw [exec_lodgingRestore, execLodgingRestore, ← restore_putBack himage hret]
    exact congrArg State.event (if_pos (by simp [hst, activeBit, hactive]))
  · obtain ⟨c, hc⟩ := h.mem
    show (s.putBack fe (i.move ⟨i.qb, (s.lod fe).qb, fe⟩)).byteAt a = _
    rw [State.byteAt, hc]
    rfl

theorem lodgingRestore_ignored {s : State} {fe : Nat} (h : (s.lod fe).st ≠ .saved) : exec (.lodgingRestore fe) s = .next s.wake := by
  rw [exec_lodgingRestore, execLodgingRestore]
  exact congrArg State.event (if_neg (by simp [h]))

/-! ### Region records lost in both copies (R341) -/

/-- Nothing of a lodging is in the machine, and its front end reports the loss. -/
def Lost (code fe : Nat) (t : State) : Prop :=
  Absent fe t ∧ (t.lod fe).st = .lost ∧ (t.lod fe).stream.failed = true ∧ (t.lod fe).stream.code = code

theorem loseAll_loses (s : State) (code : Nat) (fes : List Nat) :
    ((fes.foldl (fun (s : State) fe => s.loseLodging fe code) s).mem = s.mem ∧ (fes.foldl (fun (s : State) fe => s.loseLodging fe code) s).now = s.now) ∧
      ∀ fe ∈ fes, Lost code fe (fes.foldl (fun (s : State) fe => s.loseLodging fe code) s) := by
  have h := foldl_marks (F := fun (s : State) fe => s.loseLodging fe code) (fun t => t.mem = s.mem ∧ t.now = s.now) (Lost code)
    (fun t fe ht => ⟨(loseLodging_loses t fe code).mem.trans ht.1, (loseLodging_loses t fe code).now.trans ht.2⟩)
    (fun t fe _ => by
      obtain ⟨hst, -, hfailed, hcode⟩ := (loseLodging_loses t fe code).lod
      exact ⟨(loseLodging_loses t fe code).absent, hst, hfailed, hcode⟩)
    (fun t fe j _ hj => by
      have h := loseLodging_loses t fe code
      refine ⟨h.absentStays j hj.1, ?_⟩
      by_cases hjf : j = fe
      · rw [hjf]
        exact ⟨h.lod.1, h.lod.2.2.1, h.lod.2.2.2⟩
      · obtain ⟨m, hm⟩ := h.others j hjf
        rw [hm]
        exact hj.2) fes s ⟨rfl, rfl⟩
  exact ⟨h.1, fun fe hfe => h.2 fe (.inl hfe)⟩

theorem log_last (s : State) (code lodging unit : Nat) (detail : BitVec 128) : ∃ q, (s.log code lodging unit detail).pkg.log.getLast? =
    some ⟨s.now / 2, code, lodging, unit, q, detail⟩ := by
  refine ⟨s.pkg.logSeq % 2 ^ 32, ?_⟩
  show (if 4096 < (s.pkg.log ++ [_]).length then (s.pkg.log ++ [_]).drop 1 else s.pkg.log ++ [_]).getLast? = _
  split
  · next hlong =>
    rw [List.getLast?_drop, if_neg (by omega), List.getLast?_concat]
    rfl
  · rw [List.getLast?_concat]
    rfl

theorem absent_log {s : State} {fe : Nat} (h : Absent fe s) (code lodging unit : Nat) (detail : BitVec 128) :
    Absent fe (s.log code lodging unit detail) := absent_congr h rfl rfl rfl rfl

theorem regionTagLoss_spec : Says.RegionTagLossLosesLodgings := fun s slice set => by
  let hit := ((s.tags.filter fun t => s.tagSet t.fe t.granule == (slice, set)).map fun t => t.fe).dedup
  have hhit : ∀ g ∈ s.tags, s.tagSet g.fe g.granule = (slice, set) → g.fe ∈ hit := fun g hg hset =>
    List.mem_dedup.2 (List.mem_map.2 ⟨g, List.mem_filter.2 ⟨hg, beq_iff_eq.2 hset⟩, rfl⟩)
  obtain ⟨⟨hmem, hnow⟩, hlost⟩ := loseAll_loses s 0x3F hit
  have hexec : exec (.regionTagLoss slice set) s =
      .next ((hit.foldl (fun (s : State) fe => s.loseLodging fe 0x3F) s).log 0x3F 0xFF slice (BitVec.ofNat 128 set)).wake := rfl
  generalize hit.foldl (fun (s : State) fe => s.loseLodging fe 0x3F) s = u at hmem hnow hlost hexec
  refine ⟨_, hexec, fun a => ?_, fun g hg hset => ?_, ?_⟩
  · show u.byteAt a = _
    rw [State.byteAt, hmem]
    rfl
  · obtain ⟨habsent, hst, hfailed, hcode⟩ := hlost g.fe (hhit g hg hset)
    obtain ⟨m, hm⟩ := (Rung.log u 0x3F 0xFF slice (BitVec.ofNat 128 set)).lod g.fe
    refine ⟨absent_wake (absent_log habsent ..), ?_⟩
    rw [lod_wake, hm]
    exact ⟨hst, hfailed, hcode⟩
  · obtain ⟨q, hq⟩ := log_last u 0x3F 0xFF slice (BitVec.ofNat 128 set)
    exact ⟨_, hq, rfl, by rw [hnow], rfl, rfl⟩

/-- Settles O49: what saving takes out is followed crew by crew, and what returns party by party; losing lodgings is a pass that marks each. -/
theorem lodgingsAreSavedRestoredAndLost : Obligations.LodgingsAreSavedRestoredAndLost :=
  ⟨⟨fun _ _ h => preemption_ignored h, fun _ _ htidy hst hq => preemption_spec htidy hst hq,
    fun _ _ _ hst ha hi hn hr => lodgingRestore_spec hst ha hi hn hr, fun _ _ h => lodgingRestore_ignored h⟩, regionTagLoss_spec⟩

end Sys2Proof.Proofs
end

section
/-! PROOFS. Boot, recovery images, full service and mismatches of the Innkeeper pair (R358, R382, R384, R396, R397): O48. -/

namespace Sys2Proof.Proofs

open Sys2Proof Sys2Proof.Machine Sys2Proof.Says

/-! ### Boot (R382, R396) -/

/-- The slot that boots. -/
def bestSlot (s : State) : Option Nat :=
  if s.slotValid 0 && s.slotValid 1 then some (if s.slotVersion 0 < s.slotVersion 1 then 1 else 0)
  else if s.slotValid 0 then some 0 else if s.slotValid 1 then some 1 else none

theorem bestSlot_some {s : State} (h : ∃ k, k ≤ 1 ∧ s.slotValid k = true) : ∃ k, bestSlot s = some k ∧ k ≤ 1 ∧ s.slotValid k = true ∧
    ∀ j, j ≤ 1 → s.slotValid j = true → s.slotVersion j ≤ s.slotVersion k := by
  have hslots : ∀ {P : Nat → Prop}, P 0 → P 1 → ∀ j, j ≤ 1 → P j := fun h0 h1 j hj => by
    rcases (by omega : j = 0 ∨ j = 1) with rfl | rfl
    · exact h0
    · exact h1
  unfold bestSlot
  cases h0 : s.slotValid 0 <;> cases h1 : s.slotValid 1
  · obtain ⟨k, hk, hvalid⟩ := h
    exact absurd (hslots (P := fun k => s.slotValid k = false) h0 h1 k hk) (by simp [hvalid])
  · exact ⟨1, rfl, by omega, h1, hslots (fun h => by simp [h0] at h) fun _ => le_rfl⟩
  · exact ⟨0, rfl, by omega, h0, hslots (fun _ => le_rfl) fun h => by simp [h1] at h⟩
  · by_cases hlt : s.slotVersion 0 < s.slotVersion 1
    · exact ⟨1, congrArg some (if_pos hlt), by omega, h1, hslots (fun _ => hlt.le) fun _ => le_rfl⟩
    · exact ⟨0, congrArg some (if_neg hlt), by omega, h0, hslots (fun _ => le_rfl) fun _ => Nat.le_of_not_lt hlt⟩

theorem bestSlot_none {s : State} (h : ∀ k, k ≤ 1 → s.slotValid k = false) : bestSlot s = none := by
  unfold bestSlot
  rw [h 0 (by omega), h 1 (by omega)]
  rfl

theorem firmwareBoot_eq {s : State} (h : s.pkg.running = none) : exec .firmwareBoot s = State.event (match bestSlot s with
    | some k => s.onPkg fun p => { p with running := some k, service := .reduced }
    | none => (s.frontEnds.foldl (fun (s : State) fe => (s.resetLodging fe).onLod fe fun l => { l with desc := 0, st := .none }) s).onPkg
        fun p => { p with service := .recovery }) := by
  rw [exec_firmwareBoot, execFirmwareBoot, h]
  rfl

theorem firmwareBoot_boots {s : State} (h : s.pkg.running = none) (hvalid : ∃ k, k ≤ 1 ∧ s.slotValid k = true) : ∃ t k,
    exec .firmwareBoot s = .next t ∧ k ≤ 1 ∧ s.slotValid k = true ∧
    (∀ j, j ≤ 1 → s.slotValid j = true → s.slotVersion j ≤ s.slotVersion k) ∧ PkgIs s { s.pkg with running := some k, service := .reduced } t := by
  obtain ⟨k, hbest, hk, hv, hall⟩ := bestSlot_some hvalid
  refine ⟨_, k, ?_, hk, hv, hall, pkgIs_onPkg s fun p => { p with running := some k, service := .reduced }⟩
  rw [firmwareBoot_eq h, hbest]
  rfl

theorem absent_onLod {s : State} {j : Nat} (h : Absent j s) (fe : Nat) (f : Lodging → Lodging) : Absent j (s.onLod fe f) :=
  absent_congr h rfl rfl rfl rfl

/-- Nothing of a lodging is in the machine, and no lodging stands at its front end. -/
def Gone (fe : Nat) (t : State) : Prop := Absent fe t ∧ (t.lod fe).st = .none ∧ (t.lod fe).desc = 0

theorem gone_resets {s : State} (hwin : s.mem.windows = []) (fes : List Nat) :
    ((fes.foldl (fun (s : State) fe => (s.resetLodging fe).onLod fe fun l => { l with desc := 0, st := .none }) s).mem = s.mem ∧
      (fes.foldl (fun (s : State) fe => (s.resetLodging fe).onLod fe fun l => { l with desc := 0, st := .none }) s).pkg = s.pkg) ∧
    ∀ fe ∈ fes, Gone fe (fes.foldl (fun (s : State) fe => (s.resetLodging fe).onLod fe fun l => { l with desc := 0, st := .none }) s) := by
  have hnone : ∀ {t : State}, t.mem = s.mem ∧ t.pkg = s.pkg → ∀ fe, t.windowsOf fe = [] := fun ht fe => windowsOf_nil (by rw [ht.1]; exact hwin) fe
  have h := foldl_marks (F := fun (s : State) fe => (s.resetLodging fe).onLod fe fun l => { l with desc := 0, st := .none })
    (fun t => t.mem = s.mem ∧ t.pkg = s.pkg) Gone
    (fun t fe ht => by
      obtain ⟨hmem, hpkg, -, -⟩ := resetLodging_frame (hnone ht fe)
      exact ⟨hmem.trans ht.1, hpkg.trans ht.2⟩)
    (fun t fe ht => by
      refine ⟨absent_onLod (absent_resetLodging (hnone ht fe)) .., ?_⟩
      rw [lod_onLod, if_pos rfl]
      exact ⟨rfl, rfl⟩)
    (fun t fe j ht hj => by
      refine ⟨absent_onLod (absent_resetLodging_other (hnone ht fe) hj.1) .., ?_⟩
      rw [lod_onLod]
      split
      · exact ⟨rfl, rfl⟩
      · next hne =>
        rw [resetLodging_lod (hnone ht fe), if_neg hne]
        exact hj.2) fes s ⟨rfl, rfl⟩
  exact ⟨h.1, fun fe hfe => h.2 fe (.inl hfe)⟩

theorem firmwareBoot_none {s : State} (h : s.pkg.running = none) (hvalid : ∀ k, k ≤ 1 → s.slotValid k = false) (hwin : s.mem.windows = []) : ∃ t,
    exec .firmwareBoot s = .next t ∧ t.pkg.service = .recovery ∧ t.pkg.running = none ∧
    ∀ e ∈ s.lods, Absent e.1 t ∧ (t.lod e.1).st = .none ∧ (t.lod e.1).desc = 0 := by
  obtain ⟨⟨-, hpkg⟩, hgone⟩ := gone_resets hwin s.frontEnds
  have hexec := firmwareBoot_eq h
  rw [bestSlot_none hvalid] at hexec
  generalize s.frontEnds.foldl (fun (s : State) fe => (s.resetLodging fe).onLod fe fun l => { l with desc := 0, st := .none }) s = u at hpkg hgone hexec
  refine ⟨_, hexec, rfl, ?_, fun e he => ?_⟩
  · show u.pkg.running = none
    rw [hpkg, h]
  · obtain ⟨habsent, hst, hdesc⟩ := hgone e.1 (List.mem_map.2 ⟨e, he, rfl⟩)
    exact ⟨absent_wake (absent_congr habsent rfl rfl rfl rfl), hst, hdesc⟩

theorem firmwareBoot_running {s : State} {k : Nat} (h : s.pkg.running = some k) : exec .firmwareBoot s = .next s.wake := by
  rw [exec_firmwareBoot, execFirmwareBoot, h]
  rfl

/-! ### Recovery images (R358, R382) -/

/-- The host is told that a recovery image was taken or discarded. -/
def imageDone (s : State) : State := (s.onPkg fun k => { k with mailboxDone := k.mailboxDone + 1 }).msix 0 7

theorem recoveryImage_discarded {s : State} {i : FwImage} (h : Config.falconVerify i.body i.signature = false ∨ i.version < s.pkg.antiRollback) :
    exec (.recoveryImage i) s = .next (imageDone s).wake := by
  rw [exec_recoveryImage, execRecoveryImage]
  refine congrArg State.event (if_neg ?_)
  rcases h with h | h
  · simp [h]
  · simp [h]

theorem recoveryImage_taken {s : State} {i : FwImage} (hsig : Config.falconVerify i.body i.signature = true) (hver : s.pkg.antiRollback ≤ i.version) :
    exec (.recoveryImage i) s = .next (imageDone ((s.onPkg fun k => { k with
      slots := k.slots.set (if s.slotVersion 1 < s.slotVersion 0 then 1 else 0) ⟨some i⟩ }).warm)).wake := by
  rw [exec_recoveryImage, execRecoveryImage]
  exact congrArg State.event (if_pos (by simp [hsig, hver]))

theorem warm_pkg (s : State) : s.warm.pkg.slots = s.pkg.slots ∧ s.warm.pkg.running = none ∧ s.warm.pkg.service = .recovery :=
  ⟨(KeepsInv.foldl (fun s fe => KeepsInv.resetLodging s fe) s.frontEnds s).slots, rfl, rfl⟩

theorem recoveryImage_spec (s : State) (i : FwImage) : ∃ t, exec (.recoveryImage i) s = .next t ∧
    (Config.falconVerify i.body i.signature = false ∨ i.version < s.pkg.antiRollback → t.pkg = { s.pkg with mailboxDone := s.pkg.mailboxDone + 1 } ∧
      (t.lod 0).stream.msix = raised (s.lod 0).stream.msix 7 ∧ t.parties = s.wake.parties) ∧
    (Config.falconVerify i.body i.signature = true → s.pkg.antiRollback ≤ i.version → ∃ k, k ≤ 1 ∧ s.slotVersion k ≤ s.slotVersion (1 - k) ∧
      t.pkg.slots = s.pkg.slots.set k ⟨some i⟩ ∧ t.pkg.running = none ∧ t.pkg.service = .recovery) := by
  by_cases h : Config.falconVerify i.body i.signature = false ∨ i.version < s.pkg.antiRollback
  · refine ⟨_, recoveryImage_discarded h, fun _ => ⟨rfl, ?_, rfl⟩, fun hsig hver => ?_⟩
    · rw [lod_wake, imageDone, msix_eq, stream_onStream]
      rfl
    · rcases h with h | h
      · exact absurd (hsig.symm.trans h) (by simp)
      · exact absurd hver (by omega)
  · simp only [not_or, Bool.not_eq_false, Nat.not_lt] at h
    obtain ⟨hsig, hver⟩ := h
    refine ⟨_, recoveryImage_taken hsig hver, fun hbad => ?_, fun _ _ => ?_⟩
    · rcases hbad with hbad | hbad
      · exact absurd (hsig.symm.trans hbad) (by simp)
      · exact absurd hver (by omega)
    · obtain ⟨hslots, hrunning, hservice⟩ := warm_pkg (s.onPkg fun k => { k with
        slots := k.slots.set (if s.slotVersion 1 < s.slotVersion 0 then 1 else 0) ⟨some i⟩ })
      refine ⟨if s.slotVersion 1 < s.slotVersion 0 then 1 else 0, ?_, ?_, hslots, hrunning, hservice⟩
      · split <;> omega
      · split
        · next hlt => exact hlt.le
        · next hle => exact Nat.le_of_not_lt hle

/-! ### Every running lodging saved (R384, R397) -/

/-- A pass that saves every running lodging of a list. -/
def saveRunning (fes : List Nat) (s : State) : State :=
  fes.foldl (fun (s : State) fe => if (s.lod fe).st == .running then s.save fe else s) s

/-- What a pass of saves keeps: bytes, the lodgings known, and each as it stood or saved. -/
structure Saving (s t : State) : Prop where
  bytes : t.mem.bytes = s.mem.bytes
  upset : t.upset = .none
  keys : ∀ j ∈ s.frontEnds, j ∈ t.frontEnds
  lod : ∀ j, (t.lod j).st = (s.lod j).st ∨ (t.lod j).st = .saved

theorem Saves.st_self {s t : State} {fe : Nat} (h : Saves s fe t) : (t.lod fe).st = .saved := by
  obtain ⟨m, hm⟩ := h.lod fe
  rw [hm, if_pos rfl]

theorem Saves.st_other {s t : State} {fe : Nat} (h : Saves s fe t) {j : Nat} (hj : j ≠ fe) : (t.lod j).st = (s.lod j).st := by
  obtain ⟨m, hm⟩ := h.lod j
  rw [hm, if_neg hj]

theorem Saving.save {s t : State} (h : Saving s t) (fe : Nat) : Saving s (t.save fe) := by
  have hs := save_saves fe (by rw [h.upset]; exact Upset.noConfusion : t.upset ≠ .saveArea)
  refine ⟨hs.bytes.trans h.bytes, hs.upset.trans h.upset, fun j hj => hs.keys j (h.keys j hj), fun j => ?_⟩
  by_cases hj : j = fe
  · rw [hj]
    exact .inr hs.st_self
  · rw [hs.st_other hj]
    exact h.lod j

theorem saveRunning_saves {s : State} (hup : s.upset = .none) (fes : List Nat) : Saving s (saveRunning fes s) ∧
    ∀ fe ∈ fes, (s.lod fe).st = .running → ((saveRunning fes s).lod fe).st = .saved := by
  have h := foldl_marks (F := fun (s : State) fe => if (s.lod fe).st == .running then s.save fe else s) (Saving s)
    (fun j t => (s.lod j).st = .running → (t.lod j).st = .saved)
    (fun t fe ht => by
      split
      · exact ht.save fe
      · exact ht)
    (fun t fe ht hrun => by
      split
      · exact (save_saves fe (by rw [ht.upset]; exact Upset.noConfusion)).st_self
      · next hst =>
        refine (ht.lod fe).resolve_left fun hsame => hst ?_
        rw [hsame, hrun]
        rfl)
    (fun t fe j ht hj hrun => by
      split
      · have hs := save_saves fe (by rw [ht.upset]; exact Upset.noConfusion : t.upset ≠ .saveArea)
        by_cases hjf : j = fe
        · rw [hjf]
          exact hs.st_self
        · rw [hs.st_other hjf]
          exact hj hrun
      · exact hj hrun) fes s ⟨rfl, hup, fun _ hj => hj, fun _ => .inl rfl⟩
  exact ⟨h.1, fun fe hfe => h.2 fe (.inl hfe)⟩

/-! ### Full service (R396, R397) -/

theorem toHbm_bytes (s : State) : s.toHbm.mem.bytes = s.mem.bytes :=
  (LinesWritten.foldl (fun s k => LinesWritten.putDram s k 0 0) _ _).bytes

theorem restore_keeps (s : State) (fe : Nat) : (s.restore fe).mem.bytes = s.mem.bytes ∧ (s.restore fe).pkg = s.pkg := by
  unfold State.restore
  split
  · exact ⟨rfl, rfl⟩
  · next i _ =>
    dsimp only
    split
    · have h := putBack_putBack s fe (i.move ⟨i.qb, (s.lod fe).qb, fe⟩)
      obtain ⟨c, hc⟩ := h.mem
      exact ⟨by rw [hc], h.pkg⟩
    · exact ⟨rfl, rfl⟩

theorem restoreAll_keeps (fes : List Nat) (s : State) : (fes.foldl (fun (s : State) fe => s.restore fe) s).mem.bytes = s.mem.bytes ∧
    (fes.foldl (fun (s : State) fe => s.restore fe) s).pkg = s.pkg := by
  induction fes generalizing s with
  | nil => exact ⟨rfl, rfl⟩
  | cons fe fes ih =>
    obtain ⟨hbytes, hpkg⟩ := restore_keeps s fe
    exact ⟨(ih (s.restore fe)).1.trans hbytes, (ih (s.restore fe)).2.trans hpkg⟩

theorem foldl_onLod_keeps (f : Lodging → Lodging) (fes : List Nat) (s : State) : (fes.foldl (fun (s : State) fe => s.onLod fe f) s).mem = s.mem ∧
    (fes.foldl (fun (s : State) fe => s.onLod fe f) s).pkg = s.pkg := by
  induction fes generalizing s with
  | nil => exact ⟨rfl, rfl⟩
  | cons fe fes ih => exact ih (s.onLod fe f)

/-- The memory of a lodging's image holds no pinned line any more. -/
def unpinImage (l : Lodging) : Lodging := { l with image := l.image.map fun i => { i with pinned := [] } }

/-- The device in full service, its lodgings saved. -/
def inFull (s : State) : State := (s.saveAll.toHbm).onPkg fun k => { k with service := .full }

theorem fullService_moves {s : State} (hservice : s.pkg.service = .reduced) (hup : s.upset = .none) (hquiet : s.allQuiet = true) :
    exec .fullServiceTransition s = .next ((s.frontEnds.filter fun fe => (s.lod fe).st == .running).foldl (fun (s : State) fe => s.restore fe)
      ((inFull s).frontEnds.foldl (fun (s : State) fe => s.onLod fe unpinImage) (inFull s))).wake := by
  rw [exec_fullServiceTransition, execFullServiceTransition, if_neg (by rw [hservice]; decide), hup, hquiet]
  rfl

theorem fullService_spec {s : State} (hservice : s.pkg.service = .reduced) (hup : s.upset = .none) (hquiet : s.allQuiet = true) : ∃ t,
    exec .fullServiceTransition s = .next t ∧ t.pkg.service = .full ∧ ∀ a, t.byteAt a = s.byteAt a := by
  have hexec := fullService_moves hservice hup hquiet
  obtain ⟨hbytes, hpkg⟩ := restoreAll_keeps (s.frontEnds.filter fun fe => (s.lod fe).st == .running)
    ((inFull s).frontEnds.foldl (fun (s : State) fe => s.onLod fe unpinImage) (inFull s))
  obtain ⟨hmem, hpkg'⟩ := foldl_onLod_keeps unpinImage (inFull s).frontEnds (inFull s)
  have hsave : s.saveAll.mem.bytes = s.mem.bytes := (saveRunning_saves hup s.frontEnds).1.bytes
  refine ⟨_, hexec, ?_, fun a => ?_⟩
  · show (List.foldl _ _ _ : State).pkg.service = _
    rw [hpkg, hpkg']
    rfl
  · show (List.foldl _ _ _ : State).byteAt a = _
    rw [State.byteAt, hbytes, hmem, show (inFull s).mem.bytes = s.mem.bytes from (toHbm_bytes _).trans hsave]
    rfl

theorem fullService_training {s : State} (hservice : s.pkg.service = .reduced) (hup : s.upset = .training) : ∃ t,
    exec .fullServiceTransition s = .next t ∧ LogIs { s with upset := .none } s.pkg 0x41 0xFF 0 0 t := by
  refine ⟨_, ?_, logIs_log { s with upset := .none } (f := id) rfl 0x41 0xFF 0 0⟩
  rw [exec_fullServiceTransition, execFullServiceTransition, if_neg (by rw [hservice]; decide), hup]
  rfl

theorem fullService_ignored {s : State} (h : s.pkg.service ≠ .reduced) : exec .fullServiceTransition s = .next s.wake := by
  rw [exec_fullServiceTransition, execFullServiceTransition]
  exact congrArg State.event (if_pos (by simpa using h))

/-! ### The Innkeeper pair (R384) -/

theorem mismatch_first {s : State} (h : ∀ u, s.pkg.mismatchAt = some u → 200000000 < s.now - u) : ∃ t, exec .innkeeperMismatch s = .next t ∧
    LogIs s { s.pkg with mismatchAt := some s.now } 0x42 0xFF 0 0 t := by
  refine ⟨((s.onPkg fun k => { k with mismatchAt := some s.now }).log 0x42 0xFF 0 0).wake, ?_,
    logIs_log s (f := fun k => { k with mismatchAt := some s.now }) rfl 0x42 0xFF 0 0⟩
  rw [exec_innkeeperMismatch, execInnkeeperMismatch]
  refine congrArg State.event ((if_neg ?_).trans rfl)
  cases hm : s.pkg.mismatchAt with
  | none => simp
  | some u =>
    have hlong := h u hm
    simp
    omega

/-- A pass that fails the stream of every front end of a list with one code. -/
def failStreams (code : Nat) (fes : List Nat) (s : State) : State :=
  fes.foldl (fun (s : State) fe => s.failStream fe code 0 (s.lod fe).stream.faultPacket) s

theorem failStreams_fails (code : Nat) (fes : List Nat) (s : State) : (∀ j, ((failStreams code fes s).lod j).st = (s.lod j).st) ∧
    ∀ fe ∈ fes, ((failStreams code fes s).lod fe).stream.failed = true ∧ ((failStreams code fes s).lod fe).stream.code = code := by
  have hst : ∀ (t : State) fe j, ((t.failStream fe code 0 (t.lod fe).stream.faultPacket).lod j).st = (t.lod j).st := fun t fe j => by
    obtain ⟨⟨st, hst, -⟩, hother⟩ := failStream_lod t fe code 0 (t.lod fe).stream.faultPacket
    by_cases hj : j = fe
    · rw [hj, hst]
    · rw [hother j hj]
  have h := foldl_marks (F := fun (s : State) fe => s.failStream fe code 0 (s.lod fe).stream.faultPacket)
    (fun t => ∀ j, (t.lod j).st = (s.lod j).st) (fun j t => (t.lod j).stream.failed = true ∧ (t.lod j).stream.code = code)
    (fun t fe ht j => (hst t fe j).trans (ht j))
    (fun t fe _ => by
      obtain ⟨⟨st, hlod, hfailed, hcode⟩, -⟩ := failStream_lod t fe code 0 (t.lod fe).stream.faultPacket
      rw [hlod]
      exact ⟨hfailed, hcode⟩)
    (fun t fe j _ hj => by
      obtain ⟨⟨st, hlod, hfailed, hcode⟩, hother⟩ := failStream_lod t fe code 0 (t.lod fe).stream.faultPacket
      by_cases hjf : j = fe
      · rw [hjf, hlod]
        exact ⟨hfailed, hcode⟩
      · rw [hother j hjf]
        exact hj) fes s (fun _ => rfl)
  exact ⟨h.1, fun fe hfe => h.2 fe (.inl hfe)⟩

theorem mismatch_second {s : State} {u : Nat} (hm : s.pkg.mismatchAt = some u) (hsoon : s.now - u ≤ 200000000) (hquiet : s.allQuiet = true)
    (hup : s.upset = .none) : ∃ t, exec .innkeeperMismatch s = .next t ∧ t.pkg.service = .recovery ∧ t.pkg.running = none ∧ ∀ e ∈ s.lods,
      ((s.lod e.1).st = .running → (t.lod e.1).st = .saved) ∧ (t.lod e.1).stream.failed = true ∧ (t.lod e.1).stream.code = 0x3F := by
  have hrung := Rung.log s 0x42 0xFF 0 0
  have hexec : exec .innkeeperMismatch s = .next ((failStreams 0x3F (s.log 0x42 0xFF 0 0).saveAll.frontEnds (s.log 0x42 0xFF 0 0).saveAll).restart).wake := by
    rw [exec_innkeeperMismatch, execInnkeeperMismatch]
    refine congrArg State.event ((if_pos ?_).trans ((if_neg ?_).trans rfl))
    · rw [hm]
      exact decide_eq_true hsoon
    · rw [hquiet]
      decide
  have hlogup : (s.log 0x42 0xFF 0 0).upset = .none := hup
  generalize s.log 0x42 0xFF 0 0 = v at hrung hexec hlogup
  obtain ⟨hsaving, hsaved⟩ := saveRunning_saves hlogup v.frontEnds
  have hall : saveRunning v.frontEnds v = v.saveAll := rfl
  rw [hall] at hsaving hsaved
  obtain ⟨hst, hfail⟩ := failStreams_fails 0x3F v.saveAll.frontEnds v.saveAll
  generalize failStreams 0x3F v.saveAll.frontEnds v.saveAll = w at hst hfail hexec
  refine ⟨_, hexec, rfl, rfl, fun e he => ?_⟩
  have hkey : e.1 ∈ v.frontEnds := hrung.keys _ (List.mem_map.2 ⟨e, he, rfl⟩)
  obtain ⟨hfailed, hcode⟩ := hfail e.1 (hsaving.keys _ hkey)
  refine ⟨fun hrun => (hst e.1).trans (hsaved e.1 hkey ?_), hfailed, hcode⟩
  obtain ⟨m, hlod⟩ := hrung.lod e.1
  rw [hlod]
  exact hrun

/-- Settles O48: the slot that boots is picked by cases, and saves, failures and resets of all lodgings are passes that mark each. -/
theorem bootAndService : Obligations.BootAndService :=
  ⟨fun _ h hv => firmwareBoot_boots h hv, fun _ h hv hw => firmwareBoot_none h hv hw, fun _ _ h => firmwareBoot_running h, recoveryImage_spec,
    fun _ h hu => fullService_training h hu, fun _ h hu hq => fullService_spec h hu hq, fun _ h => fullService_ignored h, fun _ h => mismatch_first h,
    fun _ _ hm hs hq hu => mismatch_second hm hs hq hu⟩

end Sys2Proof.Proofs
end

section
/-! PROOFS. Caravans and migration (R282, R347, R367, R368, R379 to R381): O50. -/

namespace Sys2Proof.Proofs

open Sys2Proof Sys2Proof.Machine Sys2Proof.Says

/-! ### Slices (R367) -/

theorem sfind_onCaravan {s : State} {c : Nat} {x : Caravan} (h : sfind s.caravans c = some x) (f : Caravan → Caravan) :
    sfind (s.onCaravan c f).caravans c = some (f x) := by
  rw [State.onCaravan, h]
  exact sfind_sput_same ..

theorem onCaravan_lod (s : State) (c : Nat) (f : Caravan → Caravan) (j : Nat) : (s.onCaravan c f).lod j = s.lod j := by
  unfold State.onCaravan
  split <;> rfl

theorem onCaravan_lods (s : State) (c : Nat) (f : Caravan → Caravan) : (s.onCaravan c f).lods = s.lods := by
  unfold State.onCaravan
  split <;> rfl

/-- A pass that saves every lodging of a list. -/
theorem saveList_saves {s : State} (hup : s.upset = .none) (fes : List Nat) :
    ((fes.foldl (fun (s : State) fe => s.save fe) s).upset = .none ∧ (fes.foldl (fun (s : State) fe => s.save fe) s).caravans = s.caravans) ∧
      ∀ fe ∈ fes, ((fes.foldl (fun (s : State) fe => s.save fe) s).lod fe).st = .saved := by
  have hs : ∀ {t : State} (fe : Nat), t.upset = .none → Saves t fe (t.save fe) := fun fe ht => save_saves fe (by rw [ht]; exact Upset.noConfusion)
  have h := foldl_marks (F := fun (s : State) fe => s.save fe) (fun t => t.upset = .none ∧ t.caravans = s.caravans) (fun j t => (t.lod j).st = .saved)
    (fun t fe ht => ⟨(hs fe ht.1).upset.trans ht.1, (hs fe ht.1).caravans.trans ht.2⟩)
    (fun t fe ht => (hs fe ht.1).st_self)
    (fun t fe j ht hj => by
      by_cases hjf : j = fe
      · rw [hjf]
        exact (hs fe ht.1).st_self
      · rw [(hs fe ht.1).st_other hjf]
        exact hj) fes s ⟨hup, rfl⟩
  exact ⟨h.1, fun fe hfe => h.2 fe (.inl hfe)⟩

theorem restore_others (s : State) (fe : Nat) : (s.restore fe).caravans = s.caravans ∧ ∀ j, j ≠ fe → (s.restore fe).lod j = s.lod j := by
  unfold State.restore
  split
  · exact ⟨rfl, fun _ _ => rfl⟩
  · next i _ =>
    dsimp only
    split
    · have h := putBack_putBack s fe (i.move ⟨i.qb, (s.lod fe).qb, fe⟩)
      exact ⟨h.caravans, fun j hj => (h.lod j).trans (if_neg hj)⟩
    · exact ⟨rfl, fun _ _ => rfl⟩

theorem restoreList_others (fes : List Nat) (s : State) : (fes.foldl (fun (s : State) fe => s.restore fe) s).caravans = s.caravans ∧
    ∀ j, j ∉ fes → (fes.foldl (fun (s : State) fe => s.restore fe) s).lod j = s.lod j := by
  induction fes generalizing s with
  | nil => exact ⟨rfl, fun _ _ => rfl⟩
  | cons fe fes ih =>
    obtain ⟨hcar, hlod⟩ := restore_others s fe
    obtain ⟨hcar', hlod'⟩ := ih (s.restore fe)
    exact ⟨hcar'.trans hcar, fun j hj => (hlod' j (List.not_mem_of_not_mem_cons hj)).trans (hlod j (List.ne_of_not_mem_cons hj))⟩

/-- The state after the free value of a step was drawn. -/
def drew (s : State) : State := { s with freeCtr := s.freeCtr + 1 }

theorem drew_lod (s : State) (j : Nat) : (drew s).lod j = s.lod j := rfl

/-- The lodgings that a slice pre-empts. -/
def preempted (s : State) (x : Caravan) : List Nat := x.lodgings.filter fun fe => (s.lod fe).st == .running && fe != x.member

/-- The machine with a slice's quads free for its member. -/
def sliceRuns (s : State) (x : Caravan) : State :=
  let u := (preempted s x).foldl (fun (s : State) fe => s.save fe) s
  if (u.lod x.member).st == .saved then u.restore x.member else u

theorem sliceStart_eq {s : State} {c : Nat} {x : Caravan} (hx : sfind s.caravans c = some x) (hrun : x.running = false) (hdue : x.start ≤ s.now / 2) :
    exec (.caravanSliceStart c) s = State.event (
      if (x.lodgings.all fun fe => (s.lod fe).st != .running || s.quiet fe) && s.freeWord.1.getLsbD 0 then
        (sliceRuns (drew s) x).onCaravan c fun k => { k with running := true, moved := false, saved := preempted (drew s) x }
      else if !x.moved then (drew s).onCaravan c fun k => { k with moved := true, start := k.start + 50000 }
      else
        let u := x.saved.foldl (fun (s : State) fe => s.restore fe) (drew s)
        ({ u with caravans := sdrop u.caravans c }).log 0x43 x.member 0 (BitVec.ofNat 128 c)) := by
  rw [exec_caravanSliceStart, execCaravanSliceStart, hx]
  have hnot : decide (s.clk < x.start) = false := decide_eq_false (Nat.not_lt.2 hdue)
  refine congrArg State.event ((if_neg ?_).trans rfl)
  simp [hrun, hnot]

theorem sliceStart_spec {s : State} {c : Nat} {x : Caravan} (hx : sfind s.caravans c = some x) (hrun : x.running = false)
    (hdue : x.start ≤ s.now / 2) (hup : s.upset = .none) : ∃ t,
    exec (.caravanSliceStart c) s = .next t ∧
    (((∀ fe ∈ x.lodgings, (s.lod fe).st = .running → s.quiet fe = true) ∧
        (∃ y, sfind t.caravans c = some y ∧ y.running = true ∧ y.start = x.start ∧ y.length = x.length ∧ y.member = x.member ∧
          y.saved = x.lodgings.filter (fun fe => (s.lod fe).st == .running && fe != x.member)) ∧
        ∀ fe ∈ x.lodgings, fe ≠ x.member → (s.lod fe).st = .running → (t.lod fe).st = .saved) ∨
      (x.moved = false ∧ sfind t.caravans c = some { x with moved := true, start := x.start + 50000 } ∧ t.lods = s.lods) ∨
      (x.moved = true ∧ sfind t.caravans c = none)) := by
  have hexec := sliceStart_eq hx hrun hdue
  split at hexec
  · next hgo =>
    refine ⟨_, hexec, .inl ⟨?_, ?_, fun fe hfe hne hrunning => ?_⟩⟩
    · simp only [Bool.and_eq_true, List.all_eq_true, Bool.or_eq_true, bne_iff_ne] at hgo
      exact fun fe hfe hst => (hgo.1 fe hfe).resolve_left (absurd hst)
    · obtain ⟨⟨-, hcar⟩, -⟩ := saveList_saves (s := drew s) hup (preempted (drew s) x)
      have hslice : sfind (sliceRuns (drew s) x).caravans c = some x := by
        unfold sliceRuns
        dsimp only
        split
        · rw [(restore_others ..).1, hcar]
          exact hx
        · rw [hcar]
          exact hx
      exact ⟨_, sfind_onCaravan hslice _, rfl, rfl, rfl, rfl, rfl⟩
    · obtain ⟨-, hsaved⟩ := saveList_saves (s := drew s) hup (preempted (drew s) x)
      have hmine := hsaved fe (List.mem_filter.2 ⟨hfe, by simpa [hne, drew_lod] using hrunning⟩)
      rw [lod_wake, onCaravan_lod]
      unfold sliceRuns
      dsimp only
      split
      · rw [(restore_others ..).2 fe hne]
        exact hmine
      · exact hmine
  · split at hexec
    · next hmoved =>
      exact ⟨_, hexec, .inr (.inl ⟨by simpa using hmoved, sfind_onCaravan (s := drew s) hx _, onCaravan_lods ..⟩)⟩
    · next hmoved =>
      refine ⟨_, hexec, .inr (.inr ⟨by simpa using hmoved, ?_⟩)⟩
      exact sfind_sdrop_same ..

theorem sliceEnd_spec {s : State} {c : Nat} {x : Caravan} (hx : sfind s.caravans c = some x) (hrun : x.running = true)
    (hdue : x.start + x.length ≤ s.now / 2) (hup : s.upset = .none) (hquiet : (s.lod x.member).st ≠ .running ∨ s.quiet x.member = true) : ∃ t,
    exec (.caravanSliceEnd c) s = .next t ∧ sfind t.caravans c = some { x with running := false, saved := [] } ∧
    ((s.lod x.member).st = .running → x.member ∉ x.saved → (t.lod x.member).st = .saved) := by
  let u := if (s.lod x.member).st == .running then s.save x.member else s
  have hexec : exec (.caravanSliceEnd c) s =
      .next (((x.saved.foldl (fun (s : State) fe => s.restore fe) u).onCaravan c fun k => { k with running := false, saved := [] }).wake) := by
    rw [exec_caravanSliceEnd, execCaravanSliceEnd, hx]
    have hnot : decide (s.clk < x.start + x.length) = false := decide_eq_false (Nat.not_lt.2 hdue)
    refine congrArg State.event ((if_neg ?_).trans rfl)
    rcases hquiet with hst | hq
    · simp [hrun, hnot, hst]
    · simp [hrun, hnot, hq]
  have hs := save_saves (s := s) x.member (by rw [hup]; exact Upset.noConfusion)
  have hu : u.caravans = s.caravans ∧ ((s.lod x.member).st = .running → (u.lod x.member).st = .saved) := by
    simp only [u]
    split
    · exact ⟨hs.caravans, fun _ => hs.st_self⟩
    · next hst => exact ⟨rfl, fun h => absurd (beq_iff_eq.2 h) hst⟩
  obtain ⟨hcar, hlod⟩ := restoreList_others x.saved u
  refine ⟨_, hexec, sfind_onCaravan (by rw [hcar, hu.1]; exact hx) _, fun hst hnot => ?_⟩
  rw [lod_wake, onCaravan_lod, hlod _ hnot]
  exact hu.2 hst

/-! ### The loss of a member's core (R282) -/

theorem caravanParties_found {s : State} (htidy : Tidy s) {x : Caravan} {p : Nat} (hp : p ∈ s.caravanParties x) : ∃ y, s.party? p = some y := by
  obtain ⟨e, he, rfl⟩ := List.mem_map.1 hp
  exact ⟨e.2, sfind_of_mem_nodup htidy.1 (List.mem_of_mem_filter he)⟩

theorem caravanParties_nodup {s : State} (htidy : Tidy s) (x : Caravan) : (s.caravanParties x).Nodup :=
  htidy.1.sublist (List.Sublist.map _ List.filter_sublist)

/-- Every member of a Caravan takes 0x33. -/
def membersLost (ps : List Nat) (s : State) : State :=
  ps.foldl (fun (s : State) q => match s.party? q with
    | some z => (s.setParty q { z with park := .none }).takeTrap q z.lossTrap
    | none => s) s

theorem membersLost_mem (ps : List Nat) (s : State) : (membersLost ps s).mem = s.mem := by
  induction ps generalizing s with
  | nil => rfl
  | cons p ps ih =>
    refine (ih _).trans ?_
    dsimp only
    split
    · exact (Beside.takeTrap p _ _).mem
    · rfl

/-- A member that enters its handler. -/
def lossEntered (s : State) (y : Party) : Party := { ({ y with park := .none } : Party).enter (s.lod y.fe).tvec y.lossTrap with parkedAt := s.now }

theorem membersLost_party (ps : List Nat) (hps : ps.Nodup) (s : State) (hready : ∀ p ∈ ps, ∃ y, s.party? p = some y ∧ y.busyFlags = false ∧
      y.waitReqs = 0 ∧ y.shadow.length < 2 ∧ (s.lod y.fe).tvec ≠ 0) {p : Nat} {y : Party} (hy : s.party? p = some y) :
    (membersLost ps s).party? p = some (if p ∈ ps then lossEntered s y else y) := by
  induction ps generalizing s y with
  | nil => exact hy
  | cons q ps ih =>
    obtain ⟨hq, hps⟩ := List.nodup_cons.1 hps
    obtain ⟨z, hz, hbusy, hreqs, hlevel, htvec⟩ := hready q List.mem_cons_self
    have hfirst : (match s.party? q with
        | some z => (s.setParty q { z with park := .none }).takeTrap q z.lossTrap
        | none => s) = (s.setParty q { z with park := .none }).setParty q (lossEntered s z) := by
      rw [hz]
      exact takeTrap_enters (s := s.setParty q { z with park := .none }) (x := { z with park := .none }) (party?_setParty_same ..) hbusy hreqs htvec hlevel _
    have hnext : ∀ r, ((s.setParty q { z with park := .none }).setParty q (lossEntered s z)).party? r = if r = q then some (lossEntered s z) else s.party? r :=
      fun r => by
        rw [party?_setParty, party?_setParty]
        split
        · rfl
        · rfl
    have hrest := ih hps ((s.setParty q { z with park := .none }).setParty q (lossEntered s z)) (fun r hr => by
      obtain ⟨w, hw, hall⟩ := hready r (List.mem_cons_of_mem _ hr)
      exact ⟨w, by rw [hnext, if_neg (ne_of_mem_of_not_mem hr hq)]; exact hw, hall⟩) (y := if p = q then lossEntered s z else y) (by
      rw [hnext]
      split
      · rfl
      · exact hy)
    unfold membersLost
    rw [List.foldl_cons, hfirst]
    refine hrest.trans (congrArg some ?_)
    by_cases hpq : p = q
    · obtain rfl : z = y := Option.some.inj (hz.symm.trans (hpq ▸ hy))
      rw [if_neg fun h => hq (hpq ▸ h), if_pos hpq, if_pos (hpq ▸ List.mem_cons_self)]
    · rw [if_neg hpq]
      by_cases hmem : p ∈ ps
      · rw [if_pos hmem, if_pos (List.mem_cons_of_mem _ hmem)]
        rfl
      · rw [if_neg hmem, if_neg fun h => hmem ((List.mem_cons.1 h).resolve_left hpq)]

/-- A member that its restart entry starts again. -/
theorem consumeError_restarts {s : State} {p : Nat} {y : Party} {a : DWord} (hy : s.party? p = some y) (ha : y.idempc = some a) (hrc : y.rc < 2)
    (c : BitVec 6) (r : TrapReq) : ∃ z, (s.consumeError p c r).party? p = some z ∧ z.rc = y.rc + 1 ∧
      ∀ u ∈ threadsOf y.width y.alive, z.pcOf u = a := by
  have hdiscard : (s.discardResults p).party? p = some { y with flags := [] } := by
    unfold State.discardResults
    dsimp only
    split
    · next hnone => exact absurd (hy.symm.trans hnone) (by simp)
    · next x hx =>
      obtain rfl : y = x := Option.some.inj (hy.symm.trans hx)
      exact party?_setParty_same ..
  unfold State.consumeError
  rw [hy]
  dsimp only
  rw [ha]
  dsimp only
  rw [if_neg (by omega)]
  unfold State.onParty
  rw [hdiscard]
  refine ⟨_, party?_setParty_same .., rfl, fun u hu => ?_⟩
  exact (pcOf_setPc { y with flags := [] } y.alive a u).trans (if_pos hu)

/-- The member that is lost. -/
def lostMember (s : State) (x : Caravan) : Nat := (s.caravanParties x).getD (s.freeWord.1.toNat % (s.caravanParties x).length) 0

theorem lostMember_mem {s : State} {x : Caravan} (h : s.caravanParties x ≠ []) : lostMember s x ∈ s.caravanParties x := by
  have hlt := Nat.mod_lt s.freeWord.1.toNat (List.length_pos_iff.2 h)
  rw [lostMember, List.getD_eq_getElem?_getD, List.getElem?_eq_getElem hlt]
  exact List.getElem_mem hlt

theorem memberLoss_eq {s : State} {c : Nat} {x : Caravan} (hx : sfind s.caravans c = some x) (hrun : x.running = true) (hbetween : s.betweenGroups = true)
    (hsome : s.caravanParties x ≠ []) {y : Party} (hy : s.party? (lostMember s x) = some y) : exec (.caravanMemberLoss c) s = State.event (
      if y.idempc.isSome then (drew s).consumeError (lostMember s x) 0x14 y.lossTrap else membersLost (s.caravanParties x) (drew s)) := by
  rw [exec_caravanMemberLoss, execCaravanMemberLoss, hx]
  dsimp only
  rw [if_neg (by simp [hrun, hbetween, hsome])]
  show State.event (match s.party? (lostMember s x) with | none => _ | some y => _) = _
  rw [hy]
  rfl

theorem memberLoss_spec {s : State} {c : Nat} {x : Caravan} (hx : sfind s.caravans c = some x) (hrun : x.running = true)
    (hbetween : s.betweenGroups = true) (htidy : Tidy s) (hsome : s.caravanParties x ≠ []) :
    ∃ t, exec (.caravanMemberLoss c) s = .next t ∧ t.mem = s.mem ∧
    ((∀ p ∈ s.caravanParties x, ∀ y, s.party? p = some y → ∃ a, y.idempc = some a ∧ y.rc < 2) → ∃ p ∈ s.caravanParties x, ∃ y z a,
      s.party? p = some y ∧ y.idempc = some a ∧ t.party? p = some z ∧ z.rc = y.rc + 1 ∧ ∀ u ∈ threadsOf y.width y.alive, z.pcOf u = a) ∧
    ((∀ p ∈ s.caravanParties x, ∀ y, s.party? p = some y → y.idempc = none ∧ y.busyFlags = false ∧ y.shadow.length < 2 ∧
        (s.lod y.fe).tvec ≠ 0) → ∀ p ∈ s.caravanParties x, ∀ y, s.party? p = some y → ∃ z r, t.party? p = some z ∧ r.cause = 0x33 ∧
      Entered { y with park := .none } (s.lod y.fe).tvec r z) := by
  have hmem := lostMember_mem hsome
  obtain ⟨y, hy⟩ := caravanParties_found htidy hmem
  have hexec := memberLoss_eq hx hrun hbetween hsome hy
  cases hid : y.idempc with
  | some a =>
    rw [hid] at hexec
    refine ⟨_, hexec, (drops_consumeError (drew s) _ _ _).mem, fun hall => ?_, fun hall => ?_⟩
    · obtain ⟨b, -, hrc⟩ := hall _ hmem y hy
      obtain ⟨z, hz, hzrc, hpc⟩ := consumeError_restarts (s := drew s) hy hid hrc 0x14 y.lossTrap
      refine ⟨_, hmem, y, { z with hold := false }, a, hy, hid, ?_, hzrc, hpc⟩
      rw [wake_party?]
      exact congrArg _ hz
    · exact absurd ((hall _ hmem y hy).1.symm.trans hid) (by simp)
  | none =>
    rw [hid] at hexec
    refine ⟨_, hexec, membersLost_mem ..,fun hall => ?_, fun hall p hp z hz => ?_⟩
    · obtain ⟨a, ha, -⟩ := hall _ hmem y hy
      exact absurd (ha.symm.trans hid) (by simp)
    · have hready : ∀ q ∈ s.caravanParties x, ∃ w, (drew s).party? q = some w ∧ w.busyFlags = false ∧ w.waitReqs = 0 ∧ w.shadow.length < 2 ∧
          ((drew s).lod w.fe).tvec ≠ 0 := fun q hq => by
        obtain ⟨w, hw⟩ := caravanParties_found htidy hq
        obtain ⟨-, hbusy, hlevel, htvec⟩ := hall q hq w hw
        have hresting := List.all_eq_true.1 (Bool.and_eq_true_iff.1 hbetween).2 (q, w) (mem_of_sfind hw)
        simp only [Bool.and_eq_true, beq_iff_eq] at hresting
        exact ⟨w, hw, hbusy, hresting.1.1, hlevel, htvec⟩
      have hlost := membersLost_party (s.caravanParties x) (caravanParties_nodup htidy x) (drew s) hready (y := z) hz
      rw [if_pos hp] at hlost
      refine ⟨{ lossEntered (drew s) z with hold := false }, z.lossTrap, ?_, ?_, ?_⟩
      · rw [wake_party?]
        exact congrArg _ hlost
      · unfold Party.lossTrap
        split <;> rfl
      · exact entered_enter { z with park := .none } (s.lod z.fe).tvec z.lossTrap s.now

theorem caravans : Says.Caravans :=
  ⟨fun _ _ _ hx hr hd hu => sliceStart_spec hx hr hd hu, fun _ _ _ hx hr hd hu hq => sliceEnd_spec hx hr hd hu hq,
    fun _ _ _ hx hr hb ht hs => memberLoss_spec hx hr hb ht hs⟩

/-! ### Migration (R368, R379 to R381) -/

theorem migration_refused {s : State} {fe : Nat} {r : Report} (h : s.windowsOf fe ≠ [] ∨ Config.falconVerify (reportBody r) r.signature = false) :
    exec (.migration fe r) s = .next s.wake := by
  rw [exec_migration, execMigration]
  refine congrArg State.event (if_pos ?_)
  rcases h with h | h
  · simp [h]
  · simp [h]

/-- The stream that a saved lodging leaves as. -/
def streamFor (s : State) (fe : Nat) (r : Report) : Stream2 :=
  let mk := Config.drawKey (3 * s.pkg.draws)
  let e := Config.kemEncap r.kemKey s.pkg.draws
  let k := (s.lod fe).keyDraw
  let keys := bytes256 (keysOf k).1 ++ bytes256 (keysOf k).2.1 ++ bytesOf (keysOf k).2.2.toNat 8 ++ bytes256 mk
  let p : Passport := ⟨s.nextId, Config.shake256 r.identity, (s.lod fe).nq, (s.lod fe).colours.length, (s.lod fe).poolCount, 0⟩
  { fe := fe, passport := { p with tag := Config.shake256 (passportBody mk p) }, ciphertext := e.1
    wrapped := Config.wrapKey (Config.shake256 (bytes256 e.2)) keys, lod := s.lod fe
    bytes := s.mem.bytes.filter fun b => s.ownerOf b.1 == .key fe, full := s.mem.full.filter fun b => s.ownerOf (8 * b.1) == .key fe
    regions := s.mem.regions.filter fun r => r.fe == fe }

/-- The machine with a lodging's stream on its way, before it is accounted. -/
def streaming (s : State) (fe : Nat) (r : Report) : State :=
  (({ s with nextId := s.nextId + 1, streamsOut := sput s.streamsOut s.nextId (streamFor s fe r) } : State).onPkg fun k =>
    { k with draws := k.draws + 1 }).onLod fe fun l => { l with scrubOnAck := true }

theorem migration_leaves {s : State} {fe : Nat} {r : Report} (hst : (s.lod fe).st = .saved) (hactive : (s.lod fe).desc.getLsbD 36 = true)
    (hwin : s.windowsOf fe = []) (hroom : s.throttled .migration 0 = false) (hsig : Config.falconVerify (reportBody r) r.signature = true) :
    exec (.migration fe r) s =
      .next (((streaming s fe r).spend .migration 0 (streamFor s fe r).bytes.length).msix fe 4).wake := by
  rw [exec_migration, execMigration]
  refine congrArg State.event ((if_neg ?_).trans ?_)
  · simp [hst, activeBit, hactive, hwin, hroom, hsig]
  · dsimp only
    rw [if_neg (by rw [hst]; decide : ¬((s.lod fe).st == LodgingSt.running) = true)]
    exact (if_neg (by rw [hst]; decide)).trans rfl

theorem migration_spec {s : State} {fe : Nat} {r : Report} (hst : (s.lod fe).st = .saved) (hactive : (s.lod fe).desc.getLsbD 36 = true)
    (hwin : s.windowsOf fe = []) (hroom : s.throttled .migration 0 = false) (hsig : Config.falconVerify (reportBody r) r.signature = true) :
    ∃ t x, exec (.migration fe r) s = .next t ∧ t.mem = s.mem ∧
    sfind t.streamsOut s.nextId = some x ∧ x.fe = fe ∧ x.lod = s.lod fe ∧ x.passport.stream = s.nextId ∧
    x.passport.destination = Config.shake256 r.identity ∧ (∀ e, e ∈ x.bytes ↔ e ∈ s.mem.bytes ∧ s.ownerOf e.1 = .key fe) ∧
    (t.lod fe).scrubOnAck = true ∧ (t.lod fe).st = .saved := by
  have hexec := migration_leaves hst hactive hwin hroom hsig
  have hmeasured := (measured_spend (streaming s fe r) .migration 0 (streamFor s fe r).bytes.length).trans (measured_msix _ fe 4)
  generalize ((streaming s fe r).spend .migration 0 (streamFor s fe r).bytes.length).msix fe 4 = u at hexec hmeasured
  have hkeep : u.mem = s.mem ∧ u.streamsOut = sput s.streamsOut s.nextId (streamFor s fe r) := by
    rw [hmeasured.state]
    exact ⟨rfl, rfl⟩
  refine ⟨_, streamFor s fe r, hexec, hkeep.1, ?_, rfl, rfl, rfl, rfl, fun e => ?_, ?_⟩
  · show sfind u.streamsOut _ = _
    rw [hkeep.2]
    exact sfind_sput_same ..
  · exact List.mem_filter.trans (and_congr_right' beq_iff_eq)
  · obtain ⟨st, hlod⟩ := hmeasured.lod fe
    rw [lod_wake, hlod, streaming, lod_onLod, if_pos rfl]
    exact ⟨rfl, hst⟩

theorem passport_unknown {s : State} (fe : Nat) {p : Passport} (h : s.streamOf p = none) : ∃ t, exec (.passportAccept fe p) s = .next t ∧
    StreamIs s fe { (s.lod fe).stream with msix := raised (s.lod fe).stream.msix 4 } t := by
  refine ⟨(s.msix fe 4).wake, ?_, ?_⟩
  · rw [exec_passportAccept, execPassportAccept, h]
    rfl
  · rw [msix_eq]
    exact streamIs_onStream ..

/-- A stream's memory in its place at the destination. -/
def memoryOf (s : State) (fe : Nat) (x : Stream2) : State := { s with mem := { s.mem with
  bytes := x.bytes.foldl (fun st (b : Nat × Byte) => sset 0 st b.1 b.2) s.mem.bytes
  full := x.full.foldl (fun st (b : Nat × Bool) => sset false st b.1 b.2) s.mem.full
  regions := s.mem.regions ++ x.regions.map fun (r : Region) => { r with fe := fe } } }

/-- The lodging of a stream at its front end. -/
def lodgingOf (s : State) (fe : Nat) (x : Stream2) (i : Image) (l : Lodging) : Lodging :=
  { x.lod with
    desc := l.desc, root2 := l.root2, kemDraw := l.kemDraw, stream := l.stream, scrubOnAck := false
    heads := x.lod.heads.map fun (h : Nat × (Nat × Nat)) => ((⟨i.qb, (s.lod fe).qb, fe⟩ : Move).quad h.1, h.2) }

theorem sget_foldl_pairs {α : Type} [DecidableEq α] (d : α) (es : Sparse α) (hes : (es.map fun e => e.1).Nodup) (m : Sparse α) :
    (∀ e ∈ es, sget d (es.foldl (fun st e => sset d st e.1 e.2) m) e.1 = e.2) ∧
    ∀ k, (∀ e ∈ es, e.1 ≠ k) → sget d (es.foldl (fun st e => sset d st e.1 e.2) m) k = sget d m k := by
  induction es generalizing m with
  | nil => exact ⟨fun e he => absurd he List.not_mem_nil, fun _ _ => rfl⟩
  | cons e es ih =>
    obtain ⟨he, hes⟩ := List.nodup_cons.1 hes
    obtain ⟨hmem, hother⟩ := ih hes (sset d m e.1 e.2)
    refine ⟨fun e' he' => ?_, fun k hk => ?_⟩
    · rcases List.mem_cons.1 he' with rfl | he'
      · refine (hother e'.1 fun e'' he'' h => he (List.mem_map.2 ⟨e'', he'', h⟩)).trans ?_
        rw [sget_sset, if_pos rfl]
      · exact hmem e' he'
    · refine (hother k fun e' he' => hk e' (List.mem_cons_of_mem _ he')).trans ?_
      rw [sget_sset, if_neg fun h => hk e List.mem_cons_self h.symm]

theorem passport_accepted {s : State} {fe : Nat} {p : Passport} {x : Stream2} {i : Image} (hx : s.streamOf p = some x) (hi : x.lod.image = some i)
    (hdest : p.destination = Config.shake256 Config.identityKey) (hpass : x.passport = p) (hactive : (s.lod fe).desc.getLsbD 36 = true)
    (hquads : (s.lod fe).nq = p.quads) (hcolours : (s.lod fe).colours.length = p.colours) (hst : (s.lod fe).st = .running)
    (hparties : ∀ e ∈ s.parties, e.2.fe ≠ fe) (hcrews : ∀ e ∈ s.crews, e.2.fe ≠ fe) (hroom : ∀ e ∈ x.bytes, s.ownerOf e.1 = .key fe)
    (hret : s.canReturn fe (i.move ⟨i.qb, (s.lod fe).qb, fe⟩) = true) : exec (.passportAccept fe p) s =
      .next (((((memoryOf s fe x).onLod fe (lodgingOf s fe x i)).putBack fe (i.move ⟨i.qb, (s.lod fe).qb, fe⟩)).msix fe 4).wake) := by
  rw [exec_passportAccept, execPassportAccept, hx]
  dsimp only
  have hempty : (s.parties.all fun e => e.2.fe != fe) = true ∧ (s.crews.all fun e => e.2.fe != fe) = true ∧
      (x.bytes.all fun b => s.ownerOf b.1 == .key fe) = true :=
    ⟨List.all_eq_true.2 fun e he => by simpa using hparties e he, List.all_eq_true.2 fun e he => by simpa using hcrews e he,
      List.all_eq_true.2 fun e he => by simpa using hroom e he⟩
  rw [hempty.1, hempty.2.1, hempty.2.2, if_neg (by simp [hdest, Stream2.authentic, hpass, activeBit, hactive, hst, hquads, hcolours]), hi]
  refine congrArg State.event ((if_neg (by rw [hret]; decide)).trans ?_)
  unfold memoryOf lodgingOf
  simp only [hi]

theorem passport_spec {s : State} {fe : Nat} {p : Passport} {x : Stream2} {i : Image} (hx : s.streamOf p = some x) (hi : x.lod.image = some i)
    (hdest : p.destination = Config.shake256 Config.identityKey) (hpass : x.passport = p) (hactive : (s.lod fe).desc.getLsbD 36 = true)
    (hquads : (s.lod fe).nq = p.quads) (hcolours : (s.lod fe).colours.length = p.colours) (hst : (s.lod fe).st = .running)
    (hparties : ∀ e ∈ s.parties, e.2.fe ≠ fe) (hcrews : ∀ e ∈ s.crews, e.2.fe ≠ fe) (hroom : ∀ e ∈ x.bytes, s.ownerOf e.1 = .key fe)
    (hbytes : (x.bytes.map (fun e => e.1)).Nodup) (hkeys : (i.parties.map (fun e => e.1)).Nodup)
    (hret : s.canReturn fe (i.move ⟨i.qb, (s.lod fe).qb, fe⟩) = true) : ∃ t, exec (.passportAccept fe p) s = .next t ∧
    (t.lod fe).st = .running ∧ (t.lod fe).image = none ∧ (t.lod fe).desc = (s.lod fe).desc ∧ (t.lod fe).tvec = x.lod.tvec ∧
    Returned (i.move ⟨i.qb, (s.lod fe).qb, fe⟩) t ∧ (∀ e ∈ x.bytes, t.byteAt e.1 = e.2) ∧
    ∀ a, (∀ e ∈ x.bytes, e.1 ≠ a) → t.byteAt a = s.byteAt a := by
  have hexec := passport_accepted hx hi hdest hpass hactive hquads hcolours hst hparties hcrews hroom hret
  have hput := putBack_putBack ((memoryOf s fe x).onLod fe (lodgingOf s fe x i)) fe (i.move ⟨i.qb, (s.lod fe).qb, fe⟩)
  have hlod : ((memoryOf s fe x).onLod fe (lodgingOf s fe x i)).lod fe = lodgingOf s fe x i (s.lod fe) := (lod_onLod ..).trans (if_pos rfl)
  have hmem : ((memoryOf s fe x).onLod fe (lodgingOf s fe x i)).mem.bytes = x.bytes.foldl (fun st (b : Nat × Byte) => sset 0 st b.1 b.2) s.mem.bytes := rfl
  generalize (memoryOf s fe x).onLod fe (lodgingOf s fe x i) = u at hexec hput hlod hmem
  generalize hv : u.putBack fe (i.move ⟨i.qb, (s.lod fe).qb, fe⟩) = v at hexec hput
  have hback := hput.returned ((keys_move i ⟨i.qb, (s.lod fe).qb, fe⟩).symm ▸ hkeys)
  have hself : ((v.msix fe 4).lod fe) = { lodgingOf s fe x i (s.lod fe) with
      st := .running, image := none, stream := { (s.lod fe).stream with msix := raised (s.lod fe).stream.msix 4 } } := by
    rw [msix_eq, lod_onStream, if_pos rfl, hput.lod, if_pos rfl, hlod]
    rfl
  have hbyte : ∀ a, (v.msix fe 4).wake.byteAt a = sget 0 (x.bytes.foldl (fun st (b : Nat × Byte) => sset 0 st b.1 b.2) s.mem.bytes) a := fun a => by
    obtain ⟨c, hc⟩ := hput.mem
    show sget 0 v.mem.bytes a = _
    rw [hc, ← hmem]
  obtain ⟨hin, hout⟩ := sget_foldl_pairs (0 : Byte) x.bytes hbytes s.mem.bytes
  refine ⟨_, hexec, ?_, ?_, ?_, ?_, ?_, fun e he => (hbyte _).trans (hin e he), fun a ha => (hbyte a).trans (hout a ha)⟩
  · rw [lod_wake, hself]
  · rw [lod_wake, hself]
  · rw [lod_wake, hself]
    rfl
  · rw [lod_wake, hself]
    rfl
  · exact hback

/-! ### The source scrubs (R368) -/

theorem foldl_zeroBlock (bs : List Nat) (m : Mem) : (bs.foldl (fun (m : Mem) b => m.zeroBlock b) m).owner = m.owner ∧
    ∀ a, sget 0 (bs.foldl (fun (m : Mem) b => m.zeroBlock b) m).bytes a = if a / 2 ^ 21 ∈ bs then 0 else sget 0 m.bytes a := by
  induction bs generalizing m with
  | nil => exact ⟨rfl, fun a => (if_neg List.not_mem_nil).symm⟩
  | cons b bs ih =>
    obtain ⟨howner, hbytes⟩ := ih (m.zeroBlock b)
    refine ⟨howner, fun a => (hbytes a).trans ?_⟩
    have hzero : sget 0 (m.zeroBlock b).bytes a = if a / 2 ^ 21 = b then 0 else sget 0 m.bytes a := sget_outside ..
    rw [hzero]
    by_cases hmem : a / 2 ^ 21 ∈ bs
    · rw [if_pos hmem, if_pos (List.mem_cons_of_mem _ hmem)]
    · rw [if_neg hmem]
      by_cases hb : a / 2 ^ 21 = b
      · rw [if_pos hb, if_pos (hb ▸ List.mem_cons_self)]
      · rw [if_neg hb, if_neg fun h => hmem ((List.mem_cons.1 h).resolve_left hb)]

/-- The blocks of a lodging. -/
def blocksOfLodging (s : State) (fe : Nat) : List Nat := (s.mem.owner.filter fun e => e.2 == .key fe).map fun e => e.1

theorem sget_eq_sfind {α : Type} (d : α) (m : Sparse α) (k : Nat) : sget d m k = (sfind m k).getD d := by
  induction m with
  | nil => rfl
  | cons e m ih =>
    obtain ⟨j, v⟩ := e
    by_cases hj : j = k
    · simp [sget, sfind, hj]
    · simp [sget, sfind, hj, ih]

theorem mem_blocksOfLodging {s : State} (h : (s.mem.owner.map (fun e => e.1)).Nodup) (fe a : Nat) :
    a / 2 ^ 21 ∈ blocksOfLodging s fe ↔ s.ownerOf a = .key fe := by
  constructor
  · intro hmem
    obtain ⟨e, he, hblock⟩ := List.mem_map.1 hmem
    obtain ⟨hin, hkey⟩ := List.mem_filter.1 he
    have hfind := sfind_of_mem_nodup h hin
    rw [hblock] at hfind
    rw [State.ownerOf, sget_eq_sfind, hfind]
    exact beq_iff_eq.1 hkey
  · intro howner
    cases hfind : sfind s.mem.owner (a / 2 ^ 21) with
    | none =>
      rw [State.ownerOf, sget_eq_sfind, hfind] at howner
      cases howner
    | some o =>
      rw [State.ownerOf, sget_eq_sfind, hfind] at howner
      exact List.mem_map.2 ⟨(a / 2 ^ 21, o), List.mem_filter.2 ⟨mem_of_sfind hfind, beq_iff_eq.2 howner⟩, rfl⟩

theorem restoreAcknowledged_spec {s : State} {fe : Nat} (hscrub : (s.lod fe).scrubOnAck = true) (hnodup : (s.mem.owner.map (fun e => e.1)).Nodup) :
    ∃ t, exec (.restoreAcknowledged fe) s = .next t ∧ t.lod fe = { Lodging.reset with stream := (s.lod fe).stream } ∧ ∀ a,
      (s.ownerOf a = .key fe → t.byteAt a = 0 ∧ t.ownerOf a = .free) ∧
      (s.ownerOf a ≠ .key fe → t.byteAt a = s.byteAt a ∧ t.ownerOf a = s.ownerOf a) := by
  let m := ((blocksOfLodging s fe).foldl (fun (m : Mem) b => m.zeroBlock b) s.mem).setOwners (blocksOfLodging s fe) .free
  let u : State := { s with
    mem := { m with regions := m.regions.filter fun r => r.fe != fe }
    streamsOut := s.streamsOut.filter fun (e : Nat × Stream2) => e.2.fe != fe }
  have hexec : exec (.restoreAcknowledged fe) s = .next ((u.onLod fe fun l => { Lodging.reset with stream := l.stream }).wake) := by
    rw [exec_restoreAcknowledged, execRestoreAcknowledged]
    exact congrArg State.event ((if_neg (by rw [hscrub]; decide)).trans rfl)
  obtain ⟨howner, hbytes⟩ := foldl_zeroBlock (blocksOfLodging s fe) s.mem
  have hbyte : ∀ a, u.byteAt a = if a / 2 ^ 21 ∈ blocksOfLodging s fe then 0 else s.byteAt a := hbytes
  have hown : ∀ a, u.ownerOf a = if a / 2 ^ 21 ∈ blocksOfLodging s fe then .free else s.ownerOf a := fun a =>
    ownerOf_setOwners (m := (blocksOfLodging s fe).foldl (fun (m : Mem) b => m.zeroBlock b) s.mem) rfl howner a
  refine ⟨_, hexec, ?_, fun a => ⟨fun ha => ?_, fun ha => ?_⟩⟩
  · rw [lod_wake, lod_onLod, if_pos rfl]
    rfl
  · have hmem := (mem_blocksOfLodging hnodup fe a).2 ha
    exact ⟨(hbyte a).trans (if_pos hmem), (hown a).trans (if_pos hmem)⟩
  · have hmem := fun h => ha ((mem_blocksOfLodging hnodup fe a).1 h)
    exact ⟨(hbyte a).trans (if_neg hmem), (hown a).trans (if_neg hmem)⟩

theorem restoreAcknowledged_ignored {s : State} {fe : Nat} (h : (s.lod fe).scrubOnAck = false) : exec (.restoreAcknowledged fe) s = .next s.wake := by
  rw [exec_restoreAcknowledged, execRestoreAcknowledged]
  exact congrArg State.event (if_pos (by rw [h]; rfl))

theorem migration : Says.Migration :=
  ⟨fun _ _ _ h => migration_refused h, fun _ _ _ hst ha hw hr hs => migration_spec hst ha hw hr hs, fun _ fe _ h => passport_unknown fe h,
    fun _ _ _ _ _ hx hi hd hp ha hq hc hst hps hcs hr hb hk hret => passport_spec hx hi hd hp ha hq hc hst hps hcs hr hb hk hret,
    fun _ _ h hn => restoreAcknowledged_spec h hn, fun _ _ h => restoreAcknowledged_ignored h⟩

/-- Settles O50: slices are passes of saves and restores, the members that take 0x33 are a pass of traps, and a stream's bytes are put one by one. -/
theorem caravansAndMigration : Obligations.CaravansAndMigration := ⟨caravans, migration⟩

end Sys2Proof.Proofs
end

section
/-! PROOFS. What Stewards do with requests on allocated agents (R184 to R189, R197, R203, R204): O51. -/

namespace Sys2Proof.Proofs

open Sys2Proof Sys2Proof.Machine Sys2Proof.Says

/-! ### Agent records in memory (R184, R185) -/

theorem loadN_lt (s : State) (a n : Nat) : s.loadN a n < 256 ^ n := by
  induction n generalizing a with
  | zero => exact Nat.one_pos
  | succ n ih =>
    have hrest := ih (a + 1)
    have hbyte := (s.byteAt a).isLt
    simp only [State.loadN, pow_succ]
    omega

theorem zeroRange_byteAt (s : State) (lo n b : Nat) : (s.zeroRange lo n).byteAt b = if lo ≤ b ∧ b < lo + n then 0 else s.byteAt b := by
  refine (sget_filterKeys (0 : Byte) (fun j => !(decide (lo ≤ j) && decide (j < lo + n))) s.mem.bytes b).trans ?_
  by_cases h : lo ≤ b ∧ b < lo + n
  · rw [if_pos h, if_neg (by simp [h])]
  · rw [if_neg h, if_pos]
    · rfl
    · simp only [Bool.not_eq_true', Bool.and_eq_false_iff, decide_eq_false_iff_not]
      omega

theorem zeroRange_byteAt_ne (s : State) {lo n b : Nat} (h : b < lo ∨ lo + n ≤ b) : (s.zeroRange lo n).byteAt b = s.byteAt b := by
  rw [zeroRange_byteAt, if_neg (by omega)]

theorem recF_setRec (s : State) (a : Ag) (off n v : Nat) : (s.setRec a off n v).recF a off n = v % 256 ^ n := loadN_storeN ..

theorem recF_setRec_ne (s : State) (a : Ag) {off n v k m : Nat} (h : k + m ≤ off ∨ off + n ≤ k) : (s.setRec a off n v).recF a k m = s.recF a k m :=
  loadN_storeN_ne s (by omega)

theorem setRec_byteAt_ne (s : State) (a : Ag) {off n v b : Nat} (h : b < a.pa + off ∨ a.pa + off + n ≤ b) :
    (s.setRec a off n v).byteAt b = s.byteAt b := storeN_byteAt_ne s h

theorem recF_congr {s t : State} {a : Ag} (h : ∀ b, t.byteAt b = s.byteAt b) (off n : Nat) : t.recF a off n = s.recF a off n :=
  loadN_congr fun b _ _ => h b

theorem goals_congr {s t : State} {a : Ag} (h : ∀ b, t.byteAt b = s.byteAt b) : t.goals a = s.goals a := by
  simp only [State.goals, recF_congr h]

/-- Goal entries written from the k-th on. -/
theorem putGoals_spec (a : Ag) (gs : List DWord) (s : State) (k : Nat) :
    (∀ b, (b < a.pa + (0x40 + 8 * k) ∨ a.pa + (0x40 + 8 * (k + gs.length)) ≤ b) → (s.putGoals a k gs).byteAt b = s.byteAt b) ∧
    ∀ j g, gs[j]? = some g → (s.putGoals a k gs).recF a (0x40 + 8 * (k + j)) 8 = g.toNat := by
  induction gs generalizing s k with
  | nil => exact ⟨fun _ _ => rfl, fun j g hg => by cases hg⟩
  | cons g gs ih =>
    obtain ⟨hout, hin⟩ := ih (s.setRec a (0x40 + 8 * k) 8 g.toNat) (k + 1)
    refine ⟨fun b hb => ?_, fun j g' hg => ?_⟩
    · rw [List.length_cons] at hb
      exact (hout b (by omega)).trans (setRec_byteAt_ne s a (by omega))
    · cases j with
      | zero =>
        obtain rfl : g = g' := by simpa using hg
        have hkeep : (s.putGoals a k (g :: gs)).recF a (0x40 + 8 * k) 8 = (s.setRec a (0x40 + 8 * k) 8 g.toNat).recF a (0x40 + 8 * k) 8 :=
          loadN_congr fun b _ hhigh => hout b (by omega)
        rw [Nat.add_zero, hkeep, recF_setRec]
        exact Nat.mod_eq_of_lt g.isLt
      | succ j =>
        have hrest := hin j g' (by simpa using hg)
        rwa [show k + 1 + j = k + (j + 1) by omega] at hrest

/-- A goal queue written (R185): the queue is the list, and of the record the count and the entries change. -/
theorem setGoals_spec (s : State) (a : Ag) {gs : List DWord} (hlen : gs.length ≤ 16) : (s.setGoals a gs).goals a = gs ∧
    ∀ b, (b < a.pa + 0x40 ∨ a.pa + 0xC0 ≤ b) → b ≠ a.pa + 0x13 → (s.setGoals a gs).byteAt b = s.byteAt b := by
  obtain ⟨hout, hin⟩ := putGoals_spec a gs (s.zeroRange (a.pa + 0x40) 128) 0
  constructor
  · have hcount : (s.setGoals a gs).recF a 0x13 1 = gs.length := by
      rw [State.setGoals, recF_setRec]
      exact Nat.mod_eq_of_lt (by omega)
    refine List.ext_getElem? fun j => ?_
    rw [State.goals, hcount, List.getElem?_map, upto]
    by_cases hj : j < gs.length
    · have hentry := hin j gs[j] (List.getElem?_eq_getElem hj)
      rw [Nat.zero_add] at hentry
      rw [List.getElem?_range hj, List.getElem?_eq_getElem hj, Option.map_some, State.setGoals, recF_setRec_ne _ a (by omega), hentry,
        BitVec.ofNat_toNat, BitVec.setWidth_eq]
    · rw [List.getElem?_eq_none (by simpa using hj), List.getElem?_eq_none (by omega)]
      rfl
  · intro b hb hne
    exact (setRec_byteAt_ne _ a (by omega)).trans ((hout b (by omega)).trans (zeroRange_byteAt_ne s (by omega)))

/-! ### Requests served (R181, R348) -/

theorem finishAgent_mem (s : State) (n : Nat) : (s.finishAgent n).mem = s.mem := by
  unfold State.finishAgent
  split
  · rfl
  · split
    · split
      · rfl
      · split
        · exact (drops_answer ..).mem.trans (onParty_mem ..)
        · exact (drops_answer ..).mem.trans (onReq_mem ..)
    · rfl

theorem queueWork_mem (s : State) (q n : Nat) (r : Req) (v h : Nat) (work : List SelWork) : (s.queueWork q n r v h work).mem = s.mem := by
  unfold State.queueWork
  split
  · exact (finishAgent_mem ..).trans (onReq_mem ..)
  · exact (onReq_mem ..).trans (onReq_mem ..)

/-- A request with its reply to come. -/
def replied (r : Req) (v : Nat) : Req := { r with phase := .reply v }

theorem sfind_replied {s : State} {n : Nat} {r : Req} (hn : sfind s.reqs n = some r) (v : Nat) :
    sfind (s.onReq n fun r => replied r v).reqs n = some (replied r v) := by
  rw [sfind_onReq, if_pos rfl, hn]
  rfl

theorem finishAgent_reply {s : State} {n v : Nat} {r : Req} {op : AgentOp} {h w : Word} (hn : sfind s.reqs n = some r) (hkind : r.kind = .agent op h w)
    (hphase : r.phase = .reply v) : s.finishAgent n = if r.isEnd then s.dropReq n
      else if op.leaves then ((s.dropReq n).onParty r.party fun x => x.leave (bitMask r.thread)).answer r []
      else s.accept n r (.reply v) := by
  unfold State.finishAgent
  rw [hn]
  dsimp only
  rw [hkind, hphase]

theorem queueWork_nil (s : State) (q n : Nat) (r : Req) (v h : Nat) :
    s.queueWork q n r v h [] = (s.onReq n fun r => replied r v).finishAgent n := rfl

/-- A request without selections to make has its reply. -/
theorem queueWork_replies {s : State} {n : Nat} {r : Req} {op : AgentOp} {h w : Word} (hn : sfind s.reqs n = some r) (hkind : r.kind = .agent op h w)
    (hend : r.isEnd = false) (hstays : op.leaves = false) (hu : Unfaulted s r) (q v hn' : Nat) :
    Goes s n r (.reply v) (s.queueWork q n r v hn' []) := by
  have hreq := sfind_replied hn v
  have hend' : (replied r v).isEnd = false := hend
  rw [queueWork_nil, finishAgent_reply hreq hkind rfl, if_neg (by rw [hend']; decide), if_neg (by rw [hstays]; decide)]
  obtain ⟨-, -, hmine, hothers⟩ := accept_spec hreq (fun x hx => hu x (by rw [State.party?, onReq_parties] at hx; exact hx)) (.reply v)
  refine ⟨hmine, fun k p hk hp => hothers k p hk ?_⟩
  rw [sfind_onReq, if_neg hk]
  exact hp

theorem extract_handle (h : Word) : (h.extractLsb' 0 24).toNat = h.toNat % 2 ^ 24 := by
  rw [BitVec.extractLsb'_toNat, Nat.shiftRight_zero]

/-- The step of a Steward. -/
theorem homeAcceptance_agent {s : State} {n : Nat} {r : Req} {op : AgentOp} {h w : Word} (hat : AtHome s n r) (hend : r.isEnd = false)
    (hkind : r.kind = .agent op h w) (hfree : s.stewardFree (s.reqHome r) (h.toNat % 2 ^ 24) r.fe = true) :
    exec (.homeAcceptance n) s = .next ((match s.serve r op h w with
      | .no c => s.refuse n r c 0
      | .yes t v work => t.queueWork (s.reqHome r) n r v (h.toNat % 2 ^ 24) (t.workOf r.fe h work))).wake := by
  obtain ⟨hn, hphase, hfirst⟩ := hat
  have hready : (r.phase != .sent || r.isEnd || !s.firstAtHome n r) = false := by
    rw [hphase, hend, hfirst]
    rfl
  rw [exec_homeAcceptance, execHomeAcceptance, hn]
  dsimp only
  rw [hready, hkind]
  dsimp only
  unfold State.acceptAgent
  rw [extract_handle]
  dsimp only
  rw [hfree]
  rfl

theorem serve_on {s : State} {r : Req} {op : AgentOp} {h : Word} {a : Ag} (hnew : ∀ f, op ≠ .agtNew f) (hagent : s.agentOf r.fe h = .ok a)
    (halloc : s.allocated a = true) (w : Word) : s.serve r op h w = s.serveOn a r op w := by
  unfold State.serve
  split
  · next f => exact absurd rfl (hnew f)
  · rw [hagent]
    dsimp only
    rw [halloc, if_pos rfl]

theorem workOf_idle {s : State} {fe : Nat} {h : Word} {a : Ag} (hagent : s.agentOf fe h = .ok a) (hgoals : s.goals a = []) (work : List SelWork) :
    s.workOf fe h work = work := by
  unfold State.workOf
  rw [hagent]
  dsimp only
  rw [hgoals, if_neg (by simp)]

/-- A request that reads an agent without queued goals has its reply, and memory stands. -/
theorem steward_reads {s : State} {n : Nat} {r : Req} {op : AgentOp} {h w : Word} {a : Ag} (hat : AtSteward s n r op h w a) (hu : Unfaulted s r)
    (hgoals : s.goals a = []) (hnew : ∀ f, op ≠ .agtNew f) (hstays : op.leaves = false) {v : Nat} (hserve : s.serveOn a r op w = .yes s v []) :
    ∃ t, exec (.homeAcceptance n) s = .next t ∧ t.mem = s.mem ∧ Goes s n r (.reply v) t := by
  obtain ⟨hhome, hend, hkind, hfree, hagent, halloc⟩ := hat
  have hexec := homeAcceptance_agent hhome hend hkind hfree
  rw [serve_on hnew hagent halloc, hserve] at hexec
  dsimp only at hexec
  rw [workOf_idle hagent hgoals] at hexec
  exact ⟨_, hexec, queueWork_mem .., goes_wake (queueWork_replies hhome.1 hkind hend hstays hu ..)⟩

/-! ### Beliefs (R188, R189) -/

theorem facts_toNat (s : State) (a : Ag) : (s.facts a).toNat = s.recF a 8 8 := by
  rw [State.facts, BitVec.toNat_ofNat]
  exact Nat.mod_eq_of_lt (loadN_lt s (a.pa + 8) 8)

theorem present_fact (s : State) (a : Ag) {key : Nat} (hkey : key < 64) : (if s.present a key then 1 else 0) = s.recF a 8 8 / 2 ^ key % 2 := by
  rw [State.present, if_pos hkey, ← facts_toNat, BitVec.getLsbD, Nat.testBit_eq_decide_div_mod_eq]
  rcases Nat.mod_two_eq_zero_or_one ((s.facts a).toNat / 2 ^ key) with h | h
  · rw [h]; rfl
  · rw [h]; rfl

theorem belief_absent {s : State} {a : Ag} {key : Nat} (hkey : 64 ≤ key) (h : ∀ k < 192, s.recF a (0x300 + 16 * k) 2 ≠ key) : (s.belief a key).toNat = 0 := by
  have hnone : s.beliefAt a key = none := List.find?_eq_none.2 fun k hk => by simpa using h k (List.mem_range.1 hk)
  rw [State.belief, if_neg (by omega), hnone]
  rfl

theorem belief_first {s : State} {a : Ag} {key k : Nat} (hkey : 64 ≤ key) (hk : k < 192) (hmine : s.recF a (0x300 + 16 * k) 2 = key)
    (hfirst : ∀ j < k, s.recF a (0x300 + 16 * j) 2 ≠ key) : (s.belief a key).toNat = s.recF a (0x308 + 16 * k) 8 := by
  have hfound : s.beliefAt a key = some k := by
    rw [State.beliefAt, upto, List.find?_range_eq_some]
    exact ⟨by simpa using hmine, List.mem_range.2 hk, fun j hj => by simpa using hfirst j hj⟩
  rw [State.belief, if_neg (by omega), hfound]
  exact (BitVec.toNat_ofNat ..).trans (Nat.mod_eq_of_lt (loadN_lt s (a.pa + (0x308 + 16 * k)) 8))

/-! ### Goals (R185, R197) -/

theorem goalFields_zero (g : DWord) : g.extractLsb' 20 12 = 0 ↔ g.toNat / 2 ^ 20 % 2 ^ 12 = 0 := by
  rw [← BitVec.toNat_inj, BitVec.extractLsb'_toNat, Nat.shiftRight_eq_div_pow]
  rfl

theorem goalAdd_spec {s : State} {n : Nat} {r : Req} {g : DWord} {h w : Word} {a : Ag} (hat : AtSteward s n r (.goalAdd g) h w a) (_ : Unfaulted s r) :
    ∃ t, exec (.homeAcceptance n) s = .next t ∧
    (g.toNat / 2 ^ 20 % 2 ^ 12 ≠ 0 ∨ 16 ≤ (s.goals a).length → Refused s n r 0x2A 0 t) ∧
    (g.toNat / 2 ^ 20 % 2 ^ 12 = 0 → (s.goals a).length < 16 → t.goals a = s.goals a ++ [g] ∧
      ∀ b, (b < a.pa + 0x40 ∨ a.pa + 0xC0 ≤ b) → b ≠ a.pa + 0x13 → t.byteAt b = s.byteAt b) := by
  obtain ⟨hhome, hend, hkind, hfree, hagent, halloc⟩ := hat
  have hexec := homeAcceptance_agent hhome hend hkind hfree
  rw [serve_on (fun f => AgentOp.noConfusion) hagent halloc, show s.serveOn a r (.goalAdd g) w = s.addGoal a g from rfl, State.addGoal] at hexec
  by_cases hbad : g.toNat / 2 ^ 20 % 2 ^ 12 ≠ 0 ∨ 16 ≤ (s.goals a).length
  · rw [if_pos] at hexec
    · exact ⟨_, hexec, fun _ => refused_refuse s n r 0x2A 0, fun hz hlen => absurd hbad (by omega)⟩
    · simp only [Bool.or_eq_true, bne_iff_ne, decide_eq_true_eq]
      exact hbad.imp_left (mt (goalFields_zero g).1)
  · obtain ⟨hz, hlen⟩ := not_or.1 hbad
    rw [if_neg (by simp [(goalFields_zero g).2 (not_not.1 hz), hlen])] at hexec
    have hqueue : (s.goals a ++ [g]).length ≤ 16 := by
      rw [List.length_append, List.length_singleton]
      omega
    obtain ⟨hgoals, hbytes⟩ := setGoals_spec s a hqueue
    have hbyte : ∀ b, ((s.setGoals a (s.goals a ++ [g])).queueWork (s.reqHome r) n r 0 (h.toNat % 2 ^ 24)
        ((s.setGoals a (s.goals a ++ [g])).workOf r.fe h [])).wake.byteAt b = (s.setGoals a (s.goals a ++ [g])).byteAt b := fun b =>
      byteAt_of_mem (queueWork_mem ..) b
    exact ⟨_, hexec, fun h => absurd h hbad, fun _ _ => ⟨(goals_congr hbyte).trans hgoals, fun b hb hne => (hbyte b).trans (hbytes b hb hne)⟩⟩

/-! ### New agents (R204) -/

theorem workOf_null (s : State) (fe : Nat) (work : List SelWork) : s.workOf fe 0 work = work := rfl

/-- A new agent's record written (R204). -/
def writtenRecord (s : State) (a : Ag) (hd : Nat) (f : DWord) : State := ((s.zeroRange a.pa 4096).setRec a 0 4 (hd + 2 ^ 24)).setRec a 8 8 f.toNat

theorem writtenRecord_frame (s : State) (a : Ag) (hd : Nat) (f : DWord) :
    (writtenRecord s a hd f).reqs = s.reqs ∧ (writtenRecord s a hd f).parties = s.parties ∧ (writtenRecord s a hd f).lods = s.lods := by
  unfold writtenRecord State.setRec
  exact ⟨(storeN_reqs ..).trans (storeN_reqs ..), (storeN_parties ..).trans (storeN_parties ..), (storeN_lods ..).trans (storeN_lods ..)⟩

theorem writtenRecord_spec (s : State) {hd : Nat} (a : Ag) (f : DWord) (hlt : hd < 2 ^ 24) : (writtenRecord s a hd f).recF a 3 1 = 1 ∧
    (writtenRecord s a hd f).facts a = f ∧ ∀ b, (b < a.pa ∨ a.pa + 4096 ≤ b) → (writtenRecord s a hd f).byteAt b = s.byteAt b := by
  refine ⟨?_, ?_, fun b hb => ?_⟩
  · rw [writtenRecord, recF_setRec_ne _ a (by omega)]
    refine (loadN_storeN_aux (s.zeroRange a.pa 4096) (a.pa + 0) (hd + 2 ^ 24) 3 1 4 (by omega)).trans ?_
    omega
  · rw [State.facts, writtenRecord, recF_setRec, show f.toNat % 256 ^ 8 = f.toNat from Nat.mod_eq_of_lt f.isLt, BitVec.ofNat_toNat, BitVec.setWidth_eq]
  · rw [writtenRecord, setRec_byteAt_ne _ a (by omega), setRec_byteAt_ne _ a (by omega), zeroRange_byteAt_ne s hb]

/-- The free list of a quad with its head taken. -/
def nextHeads (s : State) (q : Nat) (a : Ag) (l : Lodging) : Lodging :=
  { l with heads := sset (0, 0) l.heads q (s.recF a 4 4 % 2 ^ 24, if s.recF a 4 4 % 2 ^ 24 = 0 then 0 else (sget (0, 0) l.heads q).2) }

theorem newAgent_gives {s : State} {fe q hd : Nat} {a : Ag} (hhead : (sget (0, 0) (s.lod fe).heads q).1 = hd) (hsome : hd ≠ 0)
    (hagent : s.agent fe hd = .ok a) (f : DWord) : ∃ g : Lodging → Lodging,
      s.newAgent fe q f = .yes ((writtenRecord s a hd f).onLod fe g) hd [] ∧
        (sget (0, 0) (g (s.lod fe)).heads q).1 = s.recF a 4 4 % 2 ^ 24 := by
  refine ⟨fun l => { l with heads := sset (0, 0) l.heads q (s.recF a 4 4 % 2 ^ 24, if s.recF a 4 4 % 2 ^ 24 = 0 then 0 else
    (sget (0, 0) (s.lod fe).heads q).2) }, ?_, congrArg Prod.fst (sget_sset_same ..)⟩
  unfold State.newAgent
  dsimp only
  rw [hhead, if_neg hsome, hagent]
  rfl

theorem calm_finishAgent (s : State) (n : Nat) : Calm s (s.finishAgent n) := by
  unfold State.finishAgent
  split
  · exact .refl s
  · split
    · exact .ite (.dropReq ..) (.ite ((Calm.dropReq ..).trans ((Calm.onParty ..).trans (.answer ..))) ((Calm.onReq ..).trans (.answer ..)))
    · exact .refl s

theorem calm_queueWork (s : State) (q n : Nat) (r : Req) (v h : Nat) (work : List SelWork) : Calm s (s.queueWork q n r v h work) := by
  unfold State.queueWork
  split
  · exact (Calm.onReq ..).trans (calm_finishAgent ..)
  · exact (Calm.onReq ..).trans ((Calm.onReq ..).trans (.of_eq rfl rfl rfl))

theorem agtNew_spec {s : State} {n : Nat} {r : Req} {f : DWord} {w : Word} (hat : AtHome s n r) (hend : r.isEnd = false)
    (hkind : r.kind = .agent (.agtNew f) 0 w) (hu : Unfaulted s r) (hfree : s.stewardFree (s.reqHome r) 0 r.fe = true) :
    ∃ t, exec (.homeAcceptance n) s = .next t ∧
    let q := quadOfCore (coreOfLane r.lane)
    let hd := (sget (0, 0) (s.lod r.fe).heads q).1
    (hd = 0 → t.mem = s.mem ∧ Goes s n r (.reply 0) t) ∧
    (∀ a, hd ≠ 0 → hd < 2 ^ 24 → s.agent r.fe hd = .ok a → Goes s n r (.reply hd) t ∧ t.allocated a = true ∧ t.facts a = f ∧
      (sget (0, 0) (t.lod r.fe).heads q).1 = s.recF a 4 4 % 2 ^ 24 ∧
      ∀ b, (b < a.pa ∨ a.pa + 4096 ≤ b) → t.byteAt b = s.byteAt b) := by
  have hexec := homeAcceptance_agent hat hend hkind hfree
  rw [show s.serve r (.agtNew f) 0 w = s.newAgent r.fe (quadOfCore (coreOfLane r.lane)) f from rfl] at hexec
  refine ⟨_, hexec, ?_⟩
  dsimp only
  generalize hhead : (sget (0, 0) (s.lod r.fe).heads (quadOfCore (coreOfLane r.lane))).1 = hd
  refine ⟨fun hz => ?_, fun a hsome hlt hagent => ?_⟩
  · have hnone : s.newAgent r.fe (quadOfCore (coreOfLane r.lane)) f = .yes s 0 [] := by
      unfold State.newAgent
      exact if_pos (hhead.trans hz)
    rw [hnone]
    exact ⟨queueWork_mem .., goes_wake (queueWork_replies hat.1 hkind hend rfl hu ..)⟩
  · obtain ⟨g, hgives, hheads⟩ := newAgent_gives hhead hsome hagent f
    obtain ⟨halloc, hfacts, hbytes⟩ := writtenRecord_spec s a f hlt
    obtain ⟨hreqs, hparties, hlods⟩ := writtenRecord_frame s a hd f
    rw [hgives]
    dsimp only
    rw [workOf_null]
    generalize writtenRecord s a hd f = u at halloc hfacts hbytes hreqs hparties hlods ⊢
    have hgoes := queueWork_replies (s := u.onLod r.fe g) (show sfind u.reqs n = some r from hreqs.symm ▸ hat.1) hkind hend rfl
      (unfaulted_of_parties hu hparties) (s.reqHome r) hd ((0 : Word).toNat % 2 ^ 24)
    have hbyte : ∀ b, ((u.onLod r.fe g).queueWork (s.reqHome r) n r hd ((0 : Word).toNat % 2 ^ 24) []).wake.byteAt b = u.byteAt b :=
      byteAt_of_mem (queueWork_mem ..)
    have hcalm := calm_queueWork (u.onLod r.fe g) (s.reqHome r) n r hd ((0 : Word).toNat % 2 ^ 24) []
    refine ⟨goes_wake (goes_congr hgoes hreqs), ?_, ?_, ?_, fun b hb => (hbyte b).trans (hbytes b hb)⟩
    · rw [State.allocated, recF_congr hbyte, halloc]
      rfl
    · rw [State.facts, recF_congr hbyte]
      exact hfacts
    · obtain ⟨m, hm⟩ := hcalm.rung.lod r.fe
      rw [lod_wake, hm, lod_onLod, if_pos rfl, State.lod, hlods]
      exact hheads

/-! ### End requests (R203) -/

theorem freeBlock_reqs (s : State) (a : Ag) (b : DWord) : (s.freeBlock a b).reqs = s.reqs := rfl

theorem freeFrames_reqs (a : Ag) (n : Nat) (s : State) (b : DWord) : (s.freeFrames a b n).reqs = s.reqs := by
  induction n generalizing s b with
  | zero => rfl
  | succ n ih =>
    unfold State.freeFrames
    split
    · rfl
    · exact (ih ..).trans (freeBlock_reqs s a b)

theorem byteAt_onLod (s : State) (fe : Nat) (f : Lodging → Lodging) (b : Nat) : (s.onLod fe f).byteAt b = s.byteAt b := rfl

theorem zeroRange_reqs (s : State) (lo n : Nat) : (s.zeroRange lo n).reqs = s.reqs := rfl

theorem freeSlot_spec (s : State) (a : Ag) (i : Nat) : (s.freeSlot a i).reqs = s.reqs ∧ ∀ k < 64, (s.freeSlot a i).byteAt (a.pa + slotOff i + k) = 0 := by
  refine ⟨?_, fun k hk => ?_⟩
  · rw [State.freeSlot, onLod_reqs, zeroRange_reqs, freeFrames_reqs]
  · rw [State.freeSlot, byteAt_onLod, zeroRange_byteAt, if_pos (by omega)]

theorem status_word (x : Status) (hstate : x.state < 8) (hdepth : x.depth < 8) (hkind : x.kind < 4) (hcause : x.cause < 4) (hplan : x.plan < 65536) :
    x.word < 256 ^ 4 ∧ statusOf x.word = x := by
  obtain ⟨state, valid, depth, adopted, kind, cause, plan⟩ := x
  dsimp only at hstate hdepth hkind hcause hplan
  have hvalid : (if valid = true then 8 else 0) = 8 * valid.toNat := by cases valid <;> rfl
  have hadopted : (if adopted = true then 128 else 0) = 128 * adopted.toNat := by cases adopted <;> rfl
  have hv := valid.toNat_lt
  have ha := adopted.toNat_lt
  have hbit : ∀ (b : Bool) (n : Nat), n = b.toNat → (n == 1) = b := fun b n h => by cases b <;> simp [h]
  simp only [statusOf, Status.word, hvalid, hadopted, Status.mk.injEq]
  exact ⟨by omega, by omega, hbit _ _ (by omega), by omega, hbit _ _ (by omega), by omega, by omega, by omega⟩

theorem statusOf_bounds (w : Nat) : (statusOf w).state < 8 ∧ (statusOf w).depth < 8 ∧ (statusOf w).kind < 4 ∧ (statusOf w).cause < 4 ∧
    (statusOf w).plan < 65536 :=
  ⟨Nat.mod_lt _ (by omega), Nat.mod_lt _ (by omega), Nat.mod_lt _ (by omega), Nat.mod_lt _ (by omega), Nat.mod_lt _ (by omega)⟩

theorem status_setStatus (s : State) (a : Ag) (i : Nat) {x : Status} (hstate : x.state < 8) (hdepth : x.depth < 8) (hkind : x.kind < 4)
    (hcause : x.cause < 4) (hplan : x.plan < 65536) : (s.setStatus a i x).status a i = x := by
  obtain ⟨hlt, hword⟩ := status_word x hstate hdepth hkind hcause hplan
  rw [State.status, State.setStatus, recF_setRec, Nat.mod_eq_of_lt hlt, hword]

theorem status_markFailed (s : State) (a : Ag) (i : Nat) {cause : Nat} (hcause : cause < 4) :
    (s.markFailed a i cause).status a i = { s.status a i with state := 4, cause := cause } := by
  obtain ⟨-, hdepth, hkind, -, hplan⟩ := statusOf_bounds (s.recF a (slotOff i) 4)
  exact status_setStatus s a i (x := { s.status a i with state := 4, cause := cause }) (by decide : 4 < 8) hdepth hkind hcause hplan

theorem applyFailure_dropped (s : State) (a : Ag) (i : Nat) (hcause : (s.status a i).cause = 3) : s.applyFailure a i = (s.freeSlot a i, []) := by
  unfold State.applyFailure
  dsimp only
  rw [hcause] <;> rfl

theorem dropped_spec (s : State) (a : Ag) (i : Nat) : (s.markFailed a i 3).applyFailure a i = (((s.markFailed a i 3).freeSlot a i), []) :=
  applyFailure_dropped _ a i (by rw [status_markFailed s a i (by omega)])

theorem exitEnd_step {s : State} {n : Nat} {r : Req} {h w : Word} (hn : sfind s.reqs n = some r) (hkind : r.kind = .agent .exitEnd h w)
    (hphase : r.phase = .sent) (hacked : s.threadAcked r.party r.thread = true)
    (hfree : s.stewardFree (s.reqHome r) (h.toNat % 2 ^ 24) r.fe = true) : exec (.exitEndRequest n) s =
      .next (((s.serveEnd r h w).1.queueWork (s.reqHome r) n r 0 (h.toNat % 2 ^ 24)
        ((s.serveEnd r h w).1.workOf r.fe h (s.serveEnd r h w).2)).wake) := by
  rw [exec_exitEndRequest, execExitEndRequest, hn]
  dsimp only
  rw [hkind]
  dsimp only
  rw [extract_handle, hphase, hacked, hfree]
  rfl

/-- An end request is gone, or waits for its selections. -/
theorem queueWork_ends {s : State} {n : Nat} {r : Req} {h w : Word} (hn : sfind s.reqs n = some r) (hkind : r.kind = .agent .exitEnd h w)
    (q v hn' : Nat) (work : List SelWork) : (work = [] → sfind (s.queueWork q n r v hn' work).reqs n = none) ∧
    (sfind (s.queueWork q n r v hn' work).reqs n = none ∨ ∃ p, sfind (s.queueWork q n r v hn' work).reqs n = some p ∧ p.phase = .selecting) := by
  have hreq := sfind_replied hn v
  cases work with
  | nil =>
    have hend : (replied r v).isEnd = true := by
      unfold Req.isEnd
      rw [show (replied r v).kind = .agent .exitEnd h w from hkind]
    have hgone : sfind (s.queueWork q n r v hn' []).reqs n = none := by
      rw [queueWork_nil, finishAgent_reply hreq hkind rfl, if_pos hend]
      exact sfind_sdrop_same ..
    exact ⟨fun _ => hgone, .inl hgone⟩
  | cons x xs =>
    refine ⟨fun h => absurd h (List.cons_ne_nil x xs), .inr ⟨{ replied r v with phase := .selecting }, ?_, rfl⟩⟩
    show sfind ((s.onReq n fun r => replied r v).onReq n fun r => { r with phase := .selecting }).reqs n = _
    rw [sfind_onReq, if_pos rfl, hreq]
    rfl

theorem exitEnd_spec {s : State} {n : Nat} {r : Req} {h w : Word} (hn : sfind s.reqs n = some r) (hkind : r.kind = .agent .exitEnd h w)
    (hphase : r.phase = .sent) (hacked : s.threadAcked r.party r.thread = true)
    (hfree : s.stewardFree (s.reqHome r) (h.toNat % 2 ^ 24) r.fe = true) : ∃ t, exec (.exitEndRequest n) s = .next t ∧
    (∀ c, s.agentOf r.fe h = .error c → t.mem = s.mem ∧ sfind t.reqs n = none) ∧
    (∀ a, s.agentOf r.fe h = .ok a → s.allocated a = true → s.ranBy a (intentSlot w) r.party r.thread = true →
      ((s.status a (intentSlot w)).state = 1 ∨ (s.status a (intentSlot w)).state = 2) →
      (∀ k < 64, t.byteAt (a.pa + slotOff (intentSlot w) + k) = 0) ∧
      (sfind t.reqs n = none ∨ ∃ q, sfind t.reqs n = some q ∧ q.phase = .selecting)) := by
  refine ⟨_, exitEnd_step hn hkind hphase hacked hfree, fun c hc => ?_, fun a ha halloc hran hst => ?_⟩
  · have hend : s.serveEnd r h w = (s, []) := by
      unfold State.serveEnd
      rw [hc]
    have hwork : s.workOf r.fe h [] = [] := by
      unfold State.workOf
      rw [hc]
    rw [hend, hwork]
    exact ⟨queueWork_mem .., (queueWork_ends hn hkind _ _ _ _).1 rfl⟩
  · have hend : s.serveEnd r h w = ((s.markFailed a (intentSlot w) 3).freeSlot a (intentSlot w), []) := by
      rw [← dropped_spec]
      unfold State.serveEnd
      rw [ha]
      dsimp only
      rw [halloc, hran, if_neg (by decide), if_neg (by omega), if_pos]
      simpa using hst
    obtain ⟨hreqs, hzero⟩ := freeSlot_spec (s.markFailed a (intentSlot w) 3) a (intentSlot w)
    rw [hend]
    dsimp only
    have hn' : sfind ((s.markFailed a (intentSlot w) 3).freeSlot a (intentSlot w)).reqs n = some r := by
      rw [hreqs]
      exact hn
    generalize (s.markFailed a (intentSlot w) 3).freeSlot a (intentSlot w) = u at hn' hzero
    exact ⟨fun k hk => (byteAt_of_mem (queueWork_mem ..) _).trans (hzero k hk), (queueWork_ends hn' hkind _ _ _ _).2⟩

/-- Settles O51: a Steward's step is its service followed by the request's end, and each service is read in the record's bytes. -/
theorem stewardsServe : Obligations.StewardsServe := by
  refine ⟨fun s n r h w a hat hu hg => ?_, fun s n r key h w a hat hu hg hkey => ?_, fun s n r key h w a hat hu hg hkey => ?_,
    fun s n r g h w a hat hu => goalAdd_spec hat hu, fun s n r f w hat hend hkind hu hfree => agtNew_spec hat hend hkind hu hfree,
    fun s n r h w hn hkind hphase hacked hfree => exitEnd_spec hn hkind hphase hacked hfree⟩
  · rw [← loadN_bytesIn]
    exact steward_reads hat hu hg (fun f => AgentOp.noConfusion) rfl (congrArg (Served.yes s · []) (facts_toNat s a))
  · exact steward_reads hat hu hg (fun f => AgentOp.noConfusion) rfl (congrArg (Served.yes s · []) (present_fact s a hkey))
  · obtain ⟨t, hexec, hmem, hgoes⟩ := steward_reads hat hu hg (fun f => AgentOp.noConfusion) rfl (rfl : s.serveOn a r (.belGet key) w = _)
    refine ⟨t, hexec, hmem, fun habsent => ?_, fun k hk hmine hfirst => ?_⟩
    · rw [belief_absent hkey habsent] at hgoes
      exact hgoes
    · rw [belief_first hkey hk hmine hfirst] at hgoes
      exact hgoes

end Sys2Proof.Proofs
end

section
/-! PROOFS. What the deliberation unit selects (R190 to R192, R348): O52. -/

namespace Sys2Proof.Proofs

open Sys2Proof Sys2Proof.Machine Sys2Proof.Says

/-! ### A selection of a belief event (R191, R192) -/

theorem keepFault_frame (s : State) (fe q : Nat) (req : Option (Nat × Nat)) (c : BitVec 6) : (s.keepFault fe q req c).quads = s.quads ∧
    (s.keepFault fe q req c).mem = s.mem := by
  have hlog : (s.log c.toNat fe q 0).quads = s.quads ∧ (s.log c.toNat fe q 0).mem = s.mem := ⟨rfl, rfl⟩
  unfold State.keepFault
  generalize s.log c.toNat fe q 0 = u at hlog
  have hif : ∀ (c : Bool) p f, (if c = true then u.onParty p f else u).quads = s.quads ∧ (if c = true then u.onParty p f else u).mem = s.mem := fun c p f => by
    split
    · exact ⟨(onParty_quads ..).trans hlog.1, (onParty_mem ..).trans hlog.2⟩
    · exact hlog
  dsimp only
  split
  · exact hlog
  · split
    · exact hlog
    · exact hif _ _ _

theorem selectBelief_more (s : State) (a : Ag) (k : EvKind) (key : Nat) (v : DWord) : (s.selectBelief a k key v).more = [] := by
  unfold State.selectBelief
  dsimp only
  split
  · rfl
  · rfl
  · split
    · rfl
    · split <;> rfl

/-- The state after a selection, its fault recorded. -/
def selectedState (r : Selected) (q : Nat) (i : SelItem) (rest : List SelItem) : State :=
  match r.kept with
  | some c => (r.s.onQuad q fun k => { k with fifo := rest }).keepFault i.fe q i.req c
  | none => r.s.onQuad q fun k => { k with fifo := rest }

/-- What follows a selection: the FIFO without it, its fault, and the end of a request whose last it was. -/
def afterSelection (q : Nat) (i : SelItem) (is : List SelItem) (r : Selected) : State :=
  let rest := r.more.map (fun w => { i with work := w }) ++ is
  let s := selectedState r q i rest
  match i.req with
  | none => s
  | some (n, v) => if rest.any (fun j => j.req == i.req) then s else (s.onReq n fun r => { r with phase := .reply v }).finishAgent n

theorem afterSelection_waits (q : Nat) {i : SelItem} {is : List SelItem} {r : Selected} (hmore : r.more = [])
    (hreq : i.req = none ∨ ∃ j ∈ is, j.req = i.req) : afterSelection q i is r = selectedState r q i is := by
  unfold afterSelection
  rw [hmore, List.map_nil, List.nil_append]
  dsimp only
  split
  · rfl
  · next m w hr =>
    have hwaits : (is.any fun j => j.req == some (m, w)) = true := by
      rcases hreq with hnone | ⟨j, hj, hje⟩
      · rw [hr] at hnone
        cases hnone
      · exact List.any_eq_true.2 ⟨j, hj, beq_iff_eq.2 (hje.trans hr)⟩
    rw [hr, hwaits, if_pos rfl]

theorem planSelection_event {s : State} {q : Nat} {i : SelItem} {is : List SelItem} {a : Ag} {k : EvKind} {key : Nat} {v : DWord}
    (hfifo : (s.quad q).fifo = i :: is) (hidle : (s.quad q).emitted = []) (hagent : s.agent i.fe i.handle = .ok a) (hwork : i.work = .event k key v)
    (hreq : i.req = none ∨ ∃ j ∈ is, j.req = i.req) :
    exec (.planSelection q) s = .next (selectedState (s.selectBelief a k key v) q i is).wake := by
  have hsel : s.doSelect a i.work = s.selectBelief a k key v := by
    rw [hwork]
    rfl
  rw [← afterSelection_waits q (selectBelief_more s a k key v) hreq, ← hsel, exec_planSelection, execPlanSelection, hfifo]
  dsimp only
  rw [hidle, if_neg (by decide), hagent]
  exact congrArg State.event rfl

theorem selectedState_quads (r : Selected) (q : Nat) (i : SelItem) (rest : List SelItem) :
    (selectedState r q i rest).quads = (r.s.onQuad q fun k => { k with fifo := rest }).quads ∧ (selectedState r q i rest).mem = r.s.mem := by
  unfold selectedState
  split
  · obtain ⟨hquads, hmem⟩ := keepFault_frame (r.s.onQuad q fun k => { k with fifo := rest }) i.fe q i.req ‹BitVec 6›
    exact ⟨hquads, hmem⟩
  · exact ⟨rfl, rfl⟩

/-! ### A plan adopted (R191, R192) -/

theorem takeBlock_frame {s u : State} {a : Ag} {b : DWord} (h : s.takeBlock a = .ok b u) : u.quads = s.quads := by
  unfold State.takeBlock at h
  dsimp only at h
  split at h
  · cases h
  · split at h
    · cases h
    · obtain ⟨-, rfl⟩ := Taken.ok.inj h
      rfl

/-- A slot's status as a plan adopted for an event leaves it. -/
def adopted (p : PlanEntry) : Status := ⟨1, false, 0, false, 0, 0, p.id⟩

/-- The frame and the slot of a plan adopted for an event, before its status. -/
def framed (u : State) (a : Ag) (j : Nat) (b : DWord) (p : PlanEntry) : State :=
  let s := u.setFrame a b 0 8 (u.nodeCode (u.library a.fe a.quad) p.node).toNat
  let s := s.setFrame a b 8 8 (0 : DWord).toNat
  let s := s.setFrame a b 0x10 8 (0 : DWord).toNat
  let s := s.setFrame a b 0x18 4 p.id
  let s := s.setFrame a b 0x1C 4 p.node
  let s := s.setRec a (slotOff j + 0x20) 8 b.toNat
  let s := s.setRec a (slotOff j + 8) 8 (0 : DWord).toNat
  let s := s.setRec a (slotOff j + 0x10) 8 p.required.toNat
  s.setRec a (slotOff j + 0x18) 8 p.forbidden.toNat

theorem framed_frame (u : State) (a : Ag) (j : Nat) (b : DWord) (p : PlanEntry) : (framed u a j b p).quads = u.quads ∧ (framed u a j b p).lods = u.lods := by
  simp only [framed, State.setRec, State.setFrame, storeN_quads, storeN_lods, and_self]

theorem pushFrame_root (u : State) (a : Ag) (j : Nat) (b : DWord) (p : PlanEntry) (args : List Word) :
    u.pushFrame a j 0 b none p false args = ((framed u a j b p).setStatus a j (adopted p)).emit a j args := by
  simp only [State.pushFrame, framed, adopted, Option.getD_none, Option.isSome_none, if_true, Bool.false_eq_true, if_false]

theorem status_emit (x : State) (a : Ag) (j : Nat) (args : List Word) : (x.emit a j args).status a j = x.status a j := rfl

/-- The activation of a slot's top frame. -/
def emission (x : State) (a : Ag) (j : Nat) (args : List Word) : Activation :=
  ⟨a.fe, a.h, j, (x.status a j).depth, (x.status a j).plan, x.frame a (x.top a j) 0x1C 4 % 4096, args, x.savedRun a (x.top a j), x.top a j + 0x80,
    false, 0, 0, 0⟩

theorem emit_quad (x : State) (a : Ag) (j : Nat) (args : List Word) :
    ((x.emit a j args).quad a.quad).emitted = (x.quad a.quad).emitted ++ [emission x a j args] := by
  have hemit : x.emit a j args = x.onQuad a.quad fun q => { q with emitted := q.emitted ++ [emission x a j args] } := rfl
  rw [hemit, quad_onQuad, if_pos rfl]

/-- A plan adopted for an event: the slot runs it, and its activation goes to the Coach. -/
theorem pushFrame_adopts (u : State) (a : Ag) (j : Nat) (b : DWord) {p : PlanEntry} (args : List Word) (hid : p.id < 65536) :
    (u.pushFrame a j 0 b none p false args).status a j = adopted p ∧
    ((u.pushFrame a j 0 b none p false args).lod a.fe).poolHead = (u.lod a.fe).poolHead ∧
    ∃ act, ((u.pushFrame a j 0 b none p false args).quad a.quad).emitted = (u.quad a.quad).emitted ++ [act] ∧
      act.fe = a.fe ∧ act.handle = a.h ∧ act.slot = j ∧ act.plan = p.id ∧ act.depth = 0 ∧ act.args = args := by
  obtain ⟨hquads, hlods⟩ := framed_frame u a j b p
  rw [pushFrame_root]
  generalize framed u a j b p = x at hquads hlods ⊢
  have hstatus : (x.setStatus a j (adopted p)).status a j = adopted p :=
    status_setStatus x a j (by decide : 1 < 8) (by decide : 0 < 8) (by decide : 0 < 4) (by decide : 0 < 4) hid
  have hlod : (x.setStatus a j (adopted p)).lods = u.lods := hlods
  have hquad : (x.setStatus a j (adopted p)).quads = u.quads := hquads
  generalize x.setStatus a j (adopted p) = y at hstatus hlod hquad ⊢
  refine ⟨hstatus, ?_, emission y a j args, (emit_quad ..).trans ?_, rfl, rfl, rfl, congrArg Status.plan hstatus, congrArg Status.depth hstatus, rfl⟩
  · show (y.lod a.fe).poolHead = _
    rw [State.lod, hlod]
    rfl
  · rw [State.quad, hquad]
    rfl

theorem emitted_afterSelection (r : Selected) (q : Nat) (i : SelItem) (rest : List SelItem) (j : Nat) :
    ((selectedState r q i rest).wake.quad j).emitted = (r.s.quad j).emitted := by
  show (sget Quad.reset (selectedState r q i rest).quads j).emitted = _
  rw [(selectedState_quads r q i rest).1]
  show ((r.s.onQuad q fun k => { k with fifo := rest }).quad j).emitted = _
  rw [quad_onQuad]
  split
  · next h => rw [h]
  · rfl

theorem fifo_afterSelection (r : Selected) (q : Nat) (i : SelItem) (rest : List SelItem) :
    ((selectedState r q i rest).wake.quad q).fifo = rest := by
  show (sget Quad.reset (selectedState r q i rest).quads q).fifo = _
  rw [(selectedState_quads r q i rest).1]
  show ((r.s.onQuad q fun k => { k with fifo := rest }).quad q).fifo = _
  rw [quad_onQuad, if_pos rfl]

theorem selectBelief_plan {s : State} {a : Ag} {k : EvKind} {key : Nat} {v : DWord} {p : PlanEntry}
    (h : s.select a (if k = .put then 2 else 3) key = .plan p) : s.selectBelief a k key v = match s.freeSlots a with
      | [] => ⟨s.loseEvent a, none, []⟩
      | i :: _ => match s.takeBlock a with
        | .none => ⟨s.loseEvent a, none, []⟩
        | .fault c => ⟨s.loseEvent a, some c, []⟩
        | .ok b s => ⟨s.pushFrame a i 0 b none p false [v.extractLsb' 0 32, v.extractLsb' 32 32, BitVec.ofNat 32 (if k = .put then 2 else 3),
            BitVec.ofNat 32 key], none, []⟩ := by
  unfold State.selectBelief
  dsimp only
  rw [h] <;> rfl

/-- Settles O52: the step is one selection, whose result is read off where no plan applies, none has room, or one is adopted. -/
theorem selectionsActivatePlans : Obligations.SelectionsActivatePlans := by
  intro s q i is a k key v hfifo hidle hagent hwork hreq
  refine ⟨_, planSelection_event hfifo hidle hagent hwork hreq, fifo_afterSelection .., fun hnone => ?_, fun p hplan hfull b hb => ?_,
    fun p j js b u hplan hfree htake hid => ?_⟩
  · have hsel : s.selectBelief a k key v = ⟨s, none, []⟩ := by
      unfold State.selectBelief
      dsimp only
      rw [hnone]
    rw [hsel]
    exact ⟨rfl, rfl, (emitted_afterSelection ..).trans hidle⟩
  · have hsel : s.selectBelief a k key v = ⟨s.loseEvent a, none, []⟩ := by
      rw [selectBelief_plan hplan, hfull]
    rw [hsel]
    show (s.loseEvent a).byteAt b = _
    exact setRec_byteAt_ne s a (by omega)
  · have hsel : s.selectBelief a k key v = ⟨u.pushFrame a j 0 b none p false [v.extractLsb' 0 32, v.extractLsb' 32 32,
        BitVec.ofNat 32 (if k = .put then 2 else 3), BitVec.ofNat 32 key], none, []⟩ := by
      rw [selectBelief_plan hplan, hfree]
      dsimp only
      rw [htake]
    rw [hsel]
    obtain ⟨hstatus, hpool, act, hemitted, hact⟩ := pushFrame_adopts u a j b (p := p) [v.extractLsb' 0 32, v.extractLsb' 32 32,
      BitVec.ofNat 32 (if k = .put then 2 else 3), BitVec.ofNat 32 key] hid
    have hquads : u.quad a.quad = s.quad a.quad := congrArg (fun m => sget Quad.reset m a.quad) (takeBlock_frame htake)
    rw [hquads] at hemitted
    generalize u.pushFrame a j 0 b none p false [v.extractLsb' 0 32, v.extractLsb' 32 32, BitVec.ofNat 32 (if k = .put then 2 else 3),
      BitVec.ofNat 32 key] = y at hstatus hpool hemitted ⊢
    exact ⟨hstatus, hpool, act, (emitted_afterSelection ..).trans hemitted, hact⟩

end Sys2Proof.Proofs
end

section
/-! PROOFS. The Coach: records enter their buckets, and parties depart and are placed (R18, R192, R349, R350): O53. -/

namespace Sys2Proof.Proofs

open Sys2Proof Sys2Proof.Machine Sys2Proof.Says

/-! ### What a quad's lists have no part in -/

section QuadLists

variable (s : State) (q : Nat) {f : Quad → Quad}

theorem onQuad_loadN (a n : Nat) : (s.onQuad q f).loadN a n = s.loadN a n := loadN_congr fun _ _ _ => rfl

theorem onQuad_walk2 (table ia : Nat) (w x : Bool) (level : Nat) : (s.onQuad q f).walk2 table ia w x level = s.walk2 table ia w x level := by
  induction level generalizing table w x with
  | zero => simp only [State.walk2, onQuad_loadN]
  | succ level ih => simp only [State.walk2, onQuad_loadN, ih]

theorem onQuad_stage2 (l : Lodging) (ia : Nat) : (s.onQuad q f).stage2 l ia = s.stage2 l ia := by
  have hbacked : ∀ a, (s.onQuad q f).backed a = s.backed a := fun _ => rfl
  simp only [State.stage2, onQuad_walk2, onQuad_pkg, hbacked]

theorem onQuad_walk1 (l : Lodging) (table va : Nat) (w u x : Bool) (level : Nat) :
    (s.onQuad q f).walk1 l table va w u x level = s.walk1 l table va w u x level := by
  induction level generalizing table w u x with
  | zero => simp only [State.walk1, onQuad_stage2, onQuad_loadN]
  | succ level ih => simp only [State.walk1, onQuad_stage2, onQuad_loadN, ih]

theorem onQuad_lod (fe : Nat) : (s.onQuad q f).lod fe = s.lod fe := rfl

theorem onQuad_walk (fe : Nat) (va : DWord) : (s.onQuad q f).walk fe va = s.walk fe va := by
  simp only [State.walk, onQuad_walk1, onQuad_stage2, onQuad_lod]

variable (hf : ∀ k, (f k).tlb = k.tlb)
include hf

theorem onQuad_tlb (j : Nat) : ((s.onQuad q f).quad j).tlb = (s.quad j).tlb := by
  rw [quad_onQuad]
  split
  · next h => rw [hf, h]
  · rfl

theorem onQuad_reach (fe j : Nat) (w : Want) (va : DWord) : (s.onQuad q f).reach fe j w va = s.reach fe j w va := by
  have howned : ∀ t, (s.onQuad q f).owned fe t = s.owned fe t := fun _ => rfl
  simp only [State.reach, State.translate, onQuad_tlb s q hf, onQuad_walk, howned]

theorem onQuad_stewardPa (fe j : Nat) (w : Bool) (va : DWord) : (s.onQuad q f).stewardPa fe j w va = s.stewardPa fe j w va := by
  rw [State.stewardPa, onQuad_reach s q hf]
  rfl

theorem onQuad_libAt (fe j : Nat) (base : DWord) (off n : Nat) : (s.onQuad q f).libAt fe j base off n = s.libAt fe j base off n := by
  simp only [State.libAt, onQuad_stewardPa s q hf, onQuad_loadN]

theorem onQuad_library (fe j : Nat) : (s.onQuad q f).library fe j = s.library fe j := by
  simp only [State.library, onQuad_libAt s q hf, onQuad_lod]

theorem onQuad_readNode (fe j node : Nat) : (s.onQuad q f).readNode fe j node = s.readNode fe j node := by
  simp only [State.readNode, onQuad_library s q hf, onQuad_libAt s q hf]

end QuadLists

/-! ### Entry (R349) -/

/-- The oldest record has left its Steward. -/
def taken (s : State) (q : Nat) (as : List Activation) : State := s.onQuad q fun k => { k with emitted := as }

theorem taken_quad (s : State) (q : Nat) (as : List Activation) : (taken s q as).quad q = { s.quad q with emitted := as } := by
  rw [taken, quad_onQuad, if_pos rfl]

/-- A bucket of a quad holds records. -/
def bucketed (key : Nat) (rs : List Activation) (k : Quad) : Quad := { k with buckets := sset [] k.buckets key rs }

/-- The records of a bucket with one more, its node read. -/
def joined (s : State) (q : Nat) (a : Activation) (c : DWord) (timer : Nat) : List Activation :=
  sget [] (s.quad q).buckets (bucketKey a.fe a.node) ++ [{ a with code := c, timer := timer, arrived := s.now }]

/-- What follows a record's entry in its bucket. -/
def afterEntry (s : State) (q : Nat) (a : Activation) (rs : List Activation) : State :=
  let w := (s.library a.fe q).width
  let r := splitBucket w rs
  if r.1.length = w && (s.lod a.fe).st == .running then s.departBucket q (bucketKey a.fe a.node) r.1 r.2 else s

/-- What follows a record that leaves its Steward. -/
def afterTaken (s : State) (q : Nat) (a : Activation) : State :=
  match s.readNode a.fe q a.node with
  | none => if a.owned then (s.log 0x2D a.fe a.node 0).dropRecord a else s.log 0x2D a.fe a.node 0
  | some (c, timer) =>
    afterEntry (s.onQuad q (bucketed (bucketKey a.fe a.node) (joined s q a c timer))) q a (joined s q a c timer)

theorem activationEntry_eq {s : State} {q : Nat} {a : Activation} {as : List Activation} (hemitted : (s.quad q).emitted = a :: as)
    (hroom : ((s.quad q).buckets.map (fun e => e.2.length)).sum < 262144) :
    exec (.activationEntry q) s = State.event (afterTaken (taken s q as) q a) := by
  rw [exec_activationEntry, execActivationEntry, hemitted]
  dsimp only
  rw [if_neg (Nat.not_le.2 hroom)]
  exact congrArg State.event rfl

theorem afterTaken_unreadable {s : State} {q : Nat} {a : Activation} (hnone : s.readNode a.fe q a.node = none) (hdet : a.detached = true) :
    afterTaken s q a = s.log 0x2D a.fe a.node 0 := by
  unfold afterTaken
  rw [hnone]
  exact if_neg (by simp [Activation.owned, hdet])

theorem afterTaken_waits {s : State} {q : Nat} {a : Activation} {c : DWord} {timer : Nat} (hsome : s.readNode a.fe q a.node = some (c, timer))
    (hstay : (splitBucket (s.library a.fe q).width (joined s q a c timer)).1.length ≠ (s.library a.fe q).width ∨ (s.lod a.fe).st ≠ .running) :
    afterTaken s q a = s.onQuad q (bucketed (bucketKey a.fe a.node) (joined s q a c timer)) := by
  have hlib := onQuad_library s q (f := bucketed (bucketKey a.fe a.node) (joined s q a c timer)) (fun _ => rfl) a.fe q
  unfold afterTaken
  rw [hsome]
  refine if_neg ?_
  rw [hlib]
  rcases hstay with h | h
  · simp [h]
  · simp [onQuad_lod, h]

theorem activationEntry_spec {s : State} {q : Nat} {a : Activation} {as : List Activation} (hemitted : (s.quad q).emitted = a :: as)
    (hroom : ((s.quad q).buckets.map (fun e => e.2.length)).sum < 262144) : ∃ t,
    exec (.activationEntry q) s = .next t ∧
    (s.readNode a.fe q a.node = none → a.detached = true → (t.quad q).emitted = as ∧ (t.quad q).buckets = (s.quad q).buckets ∧
      LogIs { s with quads := t.quads } s.pkg 0x2D a.fe a.node 0 t) ∧
    (∀ c timer, s.readNode a.fe q a.node = some (c, timer) →
      let key := a.fe * 4096 + a.node
      let rs := sget [] (s.quad q).buckets key ++ [{ a with code := c, timer := timer, arrived := s.now }]
      let w := (s.library a.fe q).width
      (splitBucket w rs).1.length ≠ w ∨ (s.lod a.fe).st ≠ .running →
      t = { s.wake with quads := t.quads } ∧ (t.quad q).emitted = as ∧ (∀ j, j ≠ q → t.quad j = s.quad j) ∧
      ∀ j, sget [] (t.quad q).buckets j = if j = key then rs else sget [] (s.quad q).buckets j) := by
  have hnode : ∀ {v}, s.readNode a.fe q a.node = v → (taken s q as).readNode a.fe q a.node = v := fun h =>
    (onQuad_readNode s q (f := fun k => { k with emitted := as }) (fun _ => rfl) ..).trans h
  refine ⟨_, activationEntry_eq hemitted hroom, fun hnone hdet => ?_, fun c timer hsome => ?_⟩
  · rw [afterTaken_unreadable (hnode hnone) hdet]
    have hlog := logIs_log (taken s q as) (f := id) rfl 0x2D a.fe a.node 0
    generalize hu : ((taken s q as).log 0x2D a.fe a.node 0).wake = u
    have hquads : u.quads = (taken s q as).quads := by
      rw [← hu]
      rfl
    have hquad : u.quad q = { s.quad q with emitted := as } := by
      rw [State.quad, hquads]
      exact taken_quad ..
    rw [hquad, hquads, ← hu]
    exact ⟨rfl, rfl, hlog⟩
  · intro key rs w hstay
    have hbuckets : ((taken s q as).quad q).buckets = (s.quad q).buckets := by
      rw [taken_quad]
    have hrs : joined (taken s q as) q a c timer = rs := by
      rw [joined, hbuckets]
      rfl
    have hlib : (taken s q as).library a.fe q = s.library a.fe q := onQuad_library s q (f := fun k => { k with emitted := as }) (fun _ => rfl) ..
    have hwait := afterTaken_waits (hnode hsome) (by rw [hrs, hlib]; exact hstay)
    rw [hwait, hrs]
    have hquad : ∀ j, ((taken s q as).onQuad q (bucketed key rs)).wake.quad j = if j = q then bucketed key rs { s.quad q with emitted := as } else s.quad j :=
      fun j => by
        refine (quad_onQuad ..).trans ?_
        rw [taken_quad]
        split
        · rfl
        · next hj => rw [taken, quad_onQuad, if_neg hj]
    refine ⟨rfl, ?_, fun j hj => (hquad j).trans (if_neg hj), fun j => ?_⟩
    · exact congrArg Quad.emitted ((hquad q).trans (if_pos rfl))
    · refine (congrArg (fun k : Quad => sget [] k.buckets j) ((hquad q).trans (if_pos rfl))).trans ?_
      exact sget_sset ..

/-! ### What threads of a plan party hold (R18, R192) -/

/-- Values of a list in the registers of a thread from 4 on. -/
theorem vNow_args (t : Nat) (vs : List Word) (n : Nat) (x : Party) (hn : n + vs.length ≤ 1020) {u r : Nat} (hr : r < 1024) :
    ((vs.zipIdx n).foldl (fun p e => p.setV t (4 + e.2) e.1) x).vNow u r =
      if u = t ∧ 4 + n ≤ r then (vs[r - (4 + n)]?).getD (x.vNow u r) else x.vNow u r := by
  induction vs generalizing n x with
  | nil =>
    rw [List.zipIdx_nil, List.getElem?_nil]
    exact (ite_self _).symm
  | cons v vs ih =>
    rw [List.length_cons] at hn
    rw [List.zipIdx_cons, List.foldl_cons, ih (n + 1) _ (by omega), vNow_setV]
    by_cases hin : u = t ∧ 4 + n ≤ r
    · rw [if_pos hin]
      by_cases hhere : r = 4 + n
      · rw [if_neg (by omega), if_pos (by omega), hhere, Nat.sub_self, List.getElem?_cons_zero]
        rfl
      · rw [if_pos (by omega), if_neg (by omega), show r - (4 + n) = r - (4 + (n + 1)) + 1 by omega, List.getElem?_cons_succ]
    · rw [if_neg hin, if_neg (by omega), if_neg (by omega)]

/-- A party with other registers. -/
def OnlyRegs (x y : Party) : Prop := ∃ g, y = { x with regs := g }

theorem OnlyRegs.refl (x : Party) : OnlyRegs x x := ⟨x.regs, rfl⟩

theorem OnlyRegs.trans {x y z : Party} (h : OnlyRegs x y) (h' : OnlyRegs y z) : OnlyRegs x z := by
  obtain ⟨g, rfl⟩ := h
  obtain ⟨g', rfl⟩ := h'
  exact ⟨g', rfl⟩

theorem OnlyRegs.foldl {α : Type} {f : Party → α → Party} (hf : ∀ x a, OnlyRegs x (f x a)) (l : List α) (x : Party) : OnlyRegs x (l.foldl f x) := by
  induction l generalizing x with
  | nil => exact .refl x
  | cons a l ih => exact (hf x a).trans (ih _)

theorem onlyRegs_setV (x : Party) (t r : Nat) (w : Word) : OnlyRegs x (x.setV t r w) := ⟨_, rfl⟩

theorem onlyRegs_setU (x : Party) (n : Nat) (v : DWord) : OnlyRegs x (x.setU n v) := by
  unfold Party.setU
  split
  · exact .refl x
  · exact ⟨_, rfl⟩

theorem onlyRegs_setRun (x : Party) (t r v n : Nat) : OnlyRegs x (x.setRun t r v n) := by
  induction n generalizing x r v with
  | zero => exact .refl x
  | succ n ih => exact (onlyRegs_setV ..).trans (ih ..)

theorem onlyRegs_startThread (x : Party) (t : Nat) (a : Activation) : OnlyRegs x (x.startThread t a) :=
  (((onlyRegs_setV ..).trans (onlyRegs_setV ..)).trans (onlyRegs_setRun ..)).trans
    ((OnlyRegs.foldl (fun x (e : Word × Nat) => onlyRegs_setV x t (4 + e.2) e.1) _ _).trans (OnlyRegs.foldl (fun x (e : Nat × Word) => onlyRegs_setV x t e.1 e.2) _ _))

/-- A record without a saved run, and with the arguments an activation has. -/
def Fresh (a : Activation) : Prop := a.run = [] ∧ a.args.length ≤ 4

/-- What a thread starts with: its agent, and its arguments. -/
def Starts (x : Party) (t : Nat) (a : Activation) : Prop :=
  x.vNow t 0 = BitVec.ofNat 32 a.handle ∧ ∀ j v, a.args[j]? = some v → x.vNow t (4 + j) = v

theorem startThread_spec {a : Activation} (ha : Fresh a) (x : Party) (t : Nat) : Starts (x.startThread t a) t a ∧
    ∀ u r, r < 1024 → u ≠ t → (x.startThread t a).vNow u r = x.vNow u r := by
  obtain ⟨hrun, hargs⟩ := ha
  obtain ⟨v1, v2, heq⟩ : ∃ v1 v2, x.startThread t a = (a.args.zipIdx 0).foldl (fun p e => p.setV t (4 + e.2) e.1)
      (((x.setV t 0 (BitVec.ofNat 32 a.handle)).setV t 1 v1).setRun t 2 v2 2) := by
    unfold Party.startThread
    rw [hrun]
    exact ⟨_, _, rfl⟩
  refine ⟨⟨?_, fun j v hj => ?_⟩, fun u r hr hu => ?_⟩
  · rw [heq, vNow_args t _ 0 _ (by omega) (by omega), if_neg (by omega), vNow_setRun (by omega) (by omega), if_neg (by omega), vNow_setV,
      if_neg (by omega), vNow_setV, if_pos rfl]
  · have hlt := (List.getElem?_eq_some_iff.1 hj).1
    rw [heq, vNow_args t _ 0 _ (by omega) (by omega), if_pos (by omega), show 4 + j - (4 + 0) = j by omega, hj]
    rfl
  · rw [heq, vNow_args t _ 0 _ (by omega) hr, if_neg (by omega), vNow_setRun hr (by omega), if_neg (by omega), vNow_setV, if_neg (by omega), vNow_setV,
      if_neg (by omega)]

theorem startThreads_spec (rs : List Activation) (hrs : ∀ a ∈ rs, Fresh a) (n : Nat) (x : Party) :
    (∀ i a, rs[i]? = some a → Starts ((rs.zipIdx n).foldl (fun x e => x.startThread e.2 e.1) x) (n + i) a) ∧
    ∀ u r, r < 1024 → u < n → ((rs.zipIdx n).foldl (fun x e => x.startThread e.2 e.1) x).vNow u r = x.vNow u r := by
  induction rs generalizing n x with
  | nil => exact ⟨fun i a h => by simp at h, fun _ _ _ _ => rfl⟩
  | cons a rs ih =>
    obtain ⟨hstart, hkeep⟩ := startThread_spec (hrs a List.mem_cons_self) x n
    obtain ⟨hrest, hbefore⟩ := ih (fun b hb => hrs b (List.mem_cons_of_mem _ hb)) (n + 1) (x.startThread n a)
    rw [List.zipIdx_cons, List.foldl_cons]
    refine ⟨fun i b hi => ?_, fun u r hr hu => (hbefore u r hr (by omega)).trans (hkeep u r hr (by omega))⟩
    cases i with
    | zero =>
      obtain rfl : a = b := by simpa using hi
      obtain ⟨hhandle, hargs⟩ := hstart
      refine ⟨(hbefore n 0 (by omega) (by omega)).trans hhandle, fun j v hj => ?_⟩
      have hlt := (List.getElem?_eq_some_iff.1 hj).1
      have hfour := (hrs a List.mem_cons_self).2
      exact (hbefore n (4 + j) (by omega) (by omega)).trans (hargs j v hj)
    | succ i =>
      have hnext := hrest i b (by simpa using hi)
      rwa [show n + 1 + i = n + (i + 1) by omega] at hnext

theorem planParty_spec (fe crew : Nat) (l : Lib) (rs : List Activation) : (planParty fe crew l rs).width = l.width ∧ (planParty fe crew l rs).rt = l.rt ∧
    (planParty fe crew l rs).left = (planParty fe crew l rs).all &&& ~~~ lowMask rs.length ∧
    ((∀ a ∈ rs, Fresh a) → ∀ i a, rs[i]? = some a → Starts (planParty fe crew l rs) i a) ∧
    ∀ r rest, rs = r :: rest → ∀ i < 64, i < l.width → (planParty fe crew l rs).pcOf i = r.code := by
  let first := rs.headD ⟨fe, 0, 0, 0, 0, 0, [], [], 0, false, 0, 0, 0⟩
  let x := ((Party.blank fe crew none l.width l.rt first.code).setU 1 l.base).setU 2 (BitVec.ofNat 64 first.node)
  let y := (rs.zipIdx 0).foldl (fun x e => x.startThread e.2 e.1) x
  have honly : OnlyRegs (Party.blank fe crew none l.width l.rt first.code) y :=
    ((onlyRegs_setU ..).trans (onlyRegs_setU ..)).trans (OnlyRegs.foldl (fun x (e : Activation × Nat) => onlyRegs_startThread x e.2 e.1) _ _)
  have hplan : planParty fe crew l rs = { y with
      left := y.all &&& ~~~ lowMask rs.length
      prio := 0
      runs := (rs.zipIdx).filterMap (fun e => if e.1.detached then none else some (e.2, e.1.handle, e.1.slot + e.1.depth * 16 + e.1.plan * 2 ^ 16))
      detached := (rs.zipIdx).foldl (fun m e => setBit m e.2 e.1.detached) 0 } := rfl
  have hregs := (startThreads_spec rs · 0 x)
  have hy : y = (rs.zipIdx 0).foldl (fun x e => x.startThread e.2 e.1) x := rfl
  rw [← hy] at hregs
  generalize y = z at honly hplan hregs
  obtain ⟨g, hg⟩ := honly
  rw [hplan]
  refine ⟨?_, ?_, rfl, fun hfresh i a hi => ?_, fun r rest hrs i hi hw => ?_⟩
  · rw [hg]; rfl
  · rw [hg]; rfl
  · have hstart := (hregs hfresh).1 i a hi
    rw [Nat.zero_add] at hstart
    exact hstart
  · have hfirst : first.code = r.code := by
      simp only [first, hrs, List.headD_cons]
    have hpc : ∀ c, ((Party.blank fe crew none l.width l.rt c).pcOf i) = c := fun c => by
      unfold Party.blank
      refine (pcOf_setPc ..).trans (if_pos ?_)
      rw [mem_threadsOf]
      exact ⟨hw, (bitOf_lowMask hi).trans (decide_eq_true hw)⟩
    rw [hg]
    exact (hpc first.code).trans hfirst

/-! ### Parties placed (R350) -/

/-- A party on a lane: of what its threads hold and execute, nothing differs. -/
structure Housed (x y : Party) : Prop where
  width : y.width = x.width
  rt : y.rt = x.rt
  left : y.left = x.left
  regs : y.regs = x.regs
  tpc : y.tpc = x.tpc

/-- `t` is `s` with parties on lanes: the quads' lists, the crews and the parties stand. -/
structure Placed (s t : State) : Prop where
  quads : t.quads = s.quads
  crews : ∀ c k, s.crew? c = some k → ∃ k', t.crew? c = some k' ∧ k'.fe = k.fe ∧ k'.parties = k.parties
  parties : ∀ p x, s.party? p = some x → ∃ y, t.party? p = some y ∧ Housed x y

namespace Placed

theorem of_eq {s t : State} (hquads : t.quads = s.quads) (hcrews : t.crews = s.crews) (hparties : t.parties = s.parties) : Placed s t :=
  ⟨hquads, fun c k hk => ⟨k, by rw [State.crew?, hcrews]; exact hk, rfl, rfl⟩,
    fun p x hx => ⟨x, by rw [State.party?, hparties]; exact hx, rfl, rfl, rfl, rfl, rfl⟩⟩

theorem refl (s : State) : Placed s s := of_eq rfl rfl rfl

theorem trans {s t u : State} (h : Placed s t) (h' : Placed t u) : Placed s u := by
  refine ⟨h'.quads.trans h.quads, fun c k hk => ?_, fun p x hx => ?_⟩
  · obtain ⟨k', hk', hfe, hps⟩ := h.crews c k hk
    obtain ⟨k'', hk'', hfe', hps'⟩ := h'.crews c k' hk'
    exact ⟨k'', hk'', hfe'.trans hfe, hps'.trans hps⟩
  · obtain ⟨y, hy, hxy⟩ := h.parties p x hx
    obtain ⟨z, hz, hyz⟩ := h'.parties p y hy
    exact ⟨z, hz, hyz.width.trans hxy.width, hyz.rt.trans hxy.rt, hyz.left.trans hxy.left, hyz.regs.trans hxy.regs, hyz.tpc.trans hxy.tpc⟩

theorem foldl {α : Type} {f : State → α → State} (hf : ∀ s a, Placed s (f s a)) (l : List α) (s : State) : Placed s (l.foldl f s) := by
  induction l generalizing s with
  | nil => exact refl s
  | cons a l ih => exact (hf s a).trans (ih _)

theorem onCrew (s : State) (c : Nat) {f : Crew → Crew} (hf : ∀ k, (f k).fe = k.fe ∧ (f k).parties = k.parties) : Placed s (s.onCrew c f) := by
  obtain ⟨cs, hcs⟩ := onCrew_crews s c f
  refine ⟨by rw [hcs], fun d k hk => ?_, (of_eq (by rw [hcs]) rfl (by rw [hcs]) : Placed s { s.onCrew c f with crews := s.crews }).parties⟩
  have hcrew : (s.onCrew c f).crew? d = if d = c then (s.crew? c).map f else s.crew? d := crew?_onCrew s c f d
  rw [hcrew]
  split
  · next hd => exact ⟨f k, by rw [← hd, hk]; rfl, (hf k).1, (hf k).2⟩
  · exact ⟨k, hk, rfl, rfl⟩

theorem onParty (s : State) (p : Nat) {f : Party → Party} (hf : ∀ x, Housed x (f x)) : Placed s (s.onParty p f) := by
  unfold State.onParty
  split
  · next x hx =>
    refine ⟨rfl, fun _ k hk => ⟨k, hk, rfl, rfl⟩, fun q y hy => ?_⟩
    rw [party?_setParty]
    split
    · next hq =>
      obtain rfl : x = y := Option.some.inj (hx.symm.trans (hq ▸ hy))
      exact ⟨f x, rfl, hf x⟩
    · exact ⟨y, hy, rfl, rfl, rfl, rfl, rfl⟩
  · exact refl s

theorem takeTokens (s : State) (c : Nat) : Placed s (s.takeTokens c) := by
  unfold State.takeTokens
  split
  · exact refl s
  · exact of_eq rfl rfl rfl

theorem seat (s : State) (p l : Nat) : Placed s (s.seat p l) := by
  unfold State.seat
  exact onParty _ _ fun _ => ⟨rfl, rfl, rfl, rfl, rfl⟩

theorem seatAll (es : List (Nat × Nat)) (s : State) : Placed s (s.seatAll es) := by
  induction es generalizing s with
  | nil => exact refl s
  | cons e es ih => exact (seat s e.1 e.2).trans (ih _)

theorem admitCrew (s : State) (crew c : Nat) : Placed s (s.admitCrew crew c) := by
  cases hk : s.crew? crew with
  | none =>
    unfold State.admitCrew
    rw [hk]
    exact refl s
  | some k =>
    rw [admitCrew_eq hk rfl]
    have hseated : Placed s (seatedState s k c) := (of_eq rfl rfl rfl : Placed s (s.onCore c _)).trans ((takeTokens ..).trans (seatAll ..))
    have hleft : Placed (seatedState s k c) (leftFifo (seatedState s k c) crew) := of_eq rfl rfl rfl
    refine (hseated.trans hleft).trans ?_
    exact onCrew _ _ fun _ => ⟨rfl, rfl⟩

theorem placePlan (s : State) (crew : Nat) : Placed s (s.placePlan crew) := by
  unfold State.placePlan
  split
  · exact refl s
  · dsimp only
    split
    · exact admitCrew ..
    · refine trans ?_ (admitCrew ..)
      exact onCrew _ _ fun _ => ⟨rfl, rfl⟩
    · exact of_eq rfl rfl rfl

theorem setRecIf (s : State) (c : Prop) [Decidable c] (g : Ag) (off n v : Nat) : Placed s (if c then s.setRec g off n v else s) := by
  split
  · exact of_eq (storeN_quads ..) (storeN_crews ..) (storeN_parties ..)
  · exact refl s

theorem depart (s : State) (p lane t : Nat) (a : Activation) : Placed s (s.depart p lane t a) := by
  unfold State.depart
  split
  · exact refl s
  · split
    · exact refl s
    · next g _ =>
      dsimp only
      exact (setRecIf ..).trans (setRecIf ..)

theorem wake (s : State) : Placed s s.wake := by
  refine ⟨rfl, fun _ k hk => ⟨k, hk, rfl, rfl⟩, fun p x hx => ⟨{ x with hold := false }, ?_, rfl, rfl, rfl, rfl, rfl⟩⟩
  rw [wake_party?, hx]
  rfl

end Placed

/-! ### Departure (R349) -/

/-- The party and the crew of a departing bucket, before they are placed. -/
def departing (s : State) (q key : Nat) (go stay : List Activation) : State :=
  let fe := key / 4096
  let k : Crew := ⟨fe, none, q, none, [s.nextId + 1], .pending, false, (s.lod fe).planPrio, false, s.now, 0⟩
  let u : State := { s with
    nextId := s.nextId + 1 + 1
    parties := sput s.parties (s.nextId + 1) (planParty fe s.nextId (s.library fe q) go)
    crews := sput s.crews s.nextId k }
  u.onQuad q (bucketed key stay)

theorem departBucket_placed (s : State) (q key : Nat) (go stay : List Activation) : Placed (departing s q key go stay) (s.departBucket q key go stay) := by
  unfold State.departBucket
  refine (show Placed (departing s q key go stay) ((departing s q key go stay).placePlan s.nextId) from .placePlan ..).trans ?_
  exact Placed.foldl (fun s (e : Activation × Nat) => Placed.depart s ..) _ _

theorem splitBucket_codes {w : Nat} {r : Activation} {rs : List Activation} {a : Activation} (ha : a ∈ (splitBucket w (r :: rs)).1) : a.code = r.code := by
  have hmem : a ∈ ((r :: rs).filter fun a => a.code == r.code).take w := ha
  exact beq_iff_eq.1 (List.mem_filter.1 (List.mem_of_mem_take hmem)).2

theorem coachTimer_departs {s : State} {q key : Nat} {r : Activation} {rs : List Activation} (hbucket : sget [] (s.quad q).buckets key = r :: rs)
    (hst : (s.lod r.fe).st = .running) (hdue : (splitBucket (s.library r.fe q).width (r :: rs)).1.length = (s.library r.fe q).width ∨
      r.arrived + 2 * r.timer ≤ s.now) : exec (.coachTimerDeparture q key) s =
      .next (s.departBucket q key (splitBucket (s.library r.fe q).width (r :: rs)).1 (splitBucket (s.library r.fe q).width (r :: rs)).2).wake := by
  rw [exec_coachTimerDeparture, execCoachTimerDeparture, hbucket]
  refine congrArg State.event (if_pos ?_)
  simpa [hst] using hdue

theorem coachTimer_spec {s : State} {q key : Nat} {r : Activation} {rs : List Activation} (hbucket : sget [] (s.quad q).buckets key = r :: rs)
    (hkey : key = r.fe * 4096 + r.node) (hnode : r.node < 4096) (hst : (s.lod r.fe).st = .running)
    (hdue : (splitBucket (s.library r.fe q).width (r :: rs)).1.length = (s.library r.fe q).width ∨ r.arrived + 2 * r.timer ≤ s.now) :
    ∃ t y k, exec (.coachTimerDeparture q key) s = .next t ∧
    let go := (splitBucket (s.library r.fe q).width (r :: rs)).1
    sget [] (t.quad q).buckets key = (splitBucket (s.library r.fe q).width (r :: rs)).2 ∧
    t.crew? s.nextId = some k ∧ k.fe = r.fe ∧ k.parties = [s.nextId + 1] ∧ t.party? (s.nextId + 1) = some y ∧
    y.width = (s.library r.fe q).width ∧ y.rt = (s.library r.fe q).rt ∧ y.left = y.all &&& ~~~ lowMask go.length ∧
    ((∀ a ∈ go, a.run = [] ∧ a.args.length ≤ 4) → ∀ i a, go[i]? = some a → i < 64 → y.vNow i 0 = BitVec.ofNat 32 a.handle ∧
      (i < y.width → y.pcOf i = r.code) ∧ ∀ j v, a.args[j]? = some v → y.vNow i (4 + j) = v) := by
  have hexec := coachTimer_departs hbucket hst hdue
  have hcodes := fun a => @splitBucket_codes (s.library r.fe q).width r rs a
  generalize (splitBucket (s.library r.fe q).width (r :: rs)).1 = go at hexec hcodes ⊢
  generalize (splitBucket (s.library r.fe q).width (r :: rs)).2 = stay at hexec ⊢
  have hfe : key / 4096 = r.fe := by omega
  have hplaced := (departBucket_placed s q key go stay).trans (.wake _)
  generalize (s.departBucket q key go stay).wake = t at hexec hplaced
  obtain ⟨k, hk, hkfe, hkps⟩ := hplaced.crews s.nextId _ (sfind_sput_same ..)
  obtain ⟨y, hy, hwidth, hrt, hleft, hregs, htpc⟩ := hplaced.parties (s.nextId + 1) _ (sfind_sput_same ..)
  rw [hfe] at hkfe hwidth hrt hleft hregs htpc
  obtain ⟨pwidth, prt, pleft, pstarts, pcode⟩ := planParty_spec r.fe s.nextId (s.library r.fe q) go
  refine ⟨t, y, k, hexec, ?_, hk, hkfe, hkps, hy, hwidth.trans pwidth, hrt.trans prt, ?_, fun hfresh i a hi hlt => ?_⟩
  · rw [State.quad, hplaced.quads]
    show sget [] ((departing s q key go stay).quad q).buckets key = stay
    rw [departing, quad_onQuad, if_pos rfl]
    exact sget_sset_same ..
  · rw [hleft, pleft, Party.all, Party.all, hwidth]
  · have hnow : ∀ u c, y.vNow u c = (planParty r.fe s.nextId (s.library r.fe q) go).vNow u c := fun u c => by rw [Party.vNow, hregs]; rfl
    obtain ⟨hhandle, hargs⟩ := pstarts hfresh i a hi
    refine ⟨(hnow ..).trans hhandle, fun hw => ?_, fun j v hj => (hnow ..).trans (hargs j v hj)⟩
    cases go with
    | nil => simp at hi
    | cons b rest =>
      have hpc := pcode b rest rfl i hlt (hwidth.trans pwidth ▸ hw)
      rw [Party.pcOf, htpc]
      exact hpc.trans (hcodes b List.mem_cons_self)

/-! ### The FIFO of a die (R350) -/

theorem not_mem_leftFifo (s : State) (crew d : Nat) : crew ∉ sget [] (leftFifo s crew).dieFifo d := by
  have hall : ∀ m : Sparse (List Nat), (∀ e ∈ m, crew ∉ e.2) → crew ∉ sget [] m d := fun m hm => by
    rw [sget_eq_sfind]
    cases h : sfind m d with
    | none => exact List.not_mem_nil
    | some v => exact hm (d, v) (mem_of_sfind h)
  refine hall _ fun e he => ?_
  obtain ⟨e', -, rfl⟩ := List.mem_map.1 (List.mem_filter.1 he).1
  simp

theorem admitCrew_fifo {s : State} {crew : Nat} {k : Crew} (hk : s.crew? crew = some k) (c d : Nat) : crew ∉ sget [] (s.admitCrew crew c).dieFifo d := by
  rw [admitCrew_eq hk rfl]
  rw [onCrew_dieFifo]
  exact not_mem_leftFifo _ crew d

theorem dieFifo_gone {s : State} {die crew : Nat} {rest : List Nat} (hfifo : sget [] s.dieFifo die = crew :: rest) (hnone : s.crew? crew = none) :
    ∃ t, exec (.dieFifoPlacement die) s = .next t ∧ sget [] t.dieFifo die = rest ∧ t.mem = s.mem := by
  have hexec : exec (.dieFifoPlacement die) s = .next ({ s with dieFifo := sset [] s.dieFifo die rest } : State).wake := by
    rw [exec_dieFifoPlacement, execDieFifoPlacement, hfifo]
    dsimp only
    rw [hnone]
    rfl
  exact ⟨_, hexec, sget_sset_same .., rfl⟩

theorem dieFifo_places {s : State} {die crew : Nat} {rest : List Nat} (hfifo : sget [] s.dieFifo die = crew :: rest) {k : Crew} {q c : Nat}
    (hk : s.crew? crew = some k) (hst : (s.lod k.fe).st = .running) (hcore : s.planCore k = some (q, c)) (hnodup : k.parties.Nodup) : ∃ t,
      exec (.dieFifoPlacement die) s = .next t ∧ Seated (s.onCrew crew (fun k => { k with quad := q })) crew { k with quad := q } c t ∧
      ∀ d, crew ∉ sget [] t.dieFifo d := by
  have hexec : exec (.dieFifoPlacement die) s = .next ((s.onCrew crew fun k => { k with quad := q }).admitCrew crew c).wake := by
    rw [exec_dieFifoPlacement, execDieFifoPlacement, hfifo]
    dsimp only
    rw [hk]
    dsimp only
    rw [hst, if_neg (by decide), hcore]
    rfl
  have hk' : (s.onCrew crew fun k => { k with quad := q }).crew? crew = some { k with quad := q } := by
    refine (crew?_onCrew s crew (fun k => { k with quad := q }) crew).trans ((if_pos rfl).trans ?_)
    rw [hk]
    rfl
  exact ⟨_, hexec, seated_admitCrew hk' hnodup c, fun d => admitCrew_fifo hk' c d⟩

/-- Settles O53: entry, departure and placement are followed through the quad's lists, the new party's threads and the lanes. -/
theorem coachDepartsParties : Obligations.CoachDepartsParties :=
  ⟨fun _ _ _ _ he hr => activationEntry_spec he hr, fun _ _ _ _ _ hb hk hn hst hd => coachTimer_spec hb hk hn hst hd,
    fun _ _ _ _ hf => ⟨fun hn => dieFifo_gone hf hn, fun _ _ _ hk hst hc hn => dieFifo_places hf hk hst hc hn⟩⟩

end Sys2Proof.Proofs
end

section
/-! PROOFS. What every step keeps (O59), said of a state's memory and package registers alone: the rules of the shared operations. -/

namespace Sys2Proof.Proofs

open Sys2Proof Sys2Proof.Machine Sys2Proof.Says

/-- What the invariant asks of memory, host memory, the Logbook, the power cap and the token pool. -/
structure Sound (bytes host : Sparse Byte) (logbook : List LogRec) (cap pool : Nat) : Prop where
  memory : Memory.wf bytes = true
  host : Memory.wf host = true
  logbook : logbook.length ≤ 4096
  capLow : 1200 ≤ cap
  capHigh : cap ≤ 3200
  pool : pool ≤ 1024

/-- A state in which the invariant holds. A change that leaves these five parts keeps it by definition. -/
def Kept (s : State) : Prop := Sound s.mem.bytes s.mem.host s.pkg.log s.pkg.cap s.pkg.pool

theorem kept_iff (s : State) : Kept s ↔ Inv s :=
  ⟨fun ⟨hm, hh, hl, hc, hc', hp⟩ => ⟨hm, hh, hl, hc, hc', hp⟩, fun ⟨hm, hh, hl, hc, hc', hp⟩ => ⟨hm, hh, hl, hc, hc', hp⟩⟩

namespace Kept

theorem of_keeps {s t : State} (h : Kept s) (k : KeepsInv s t) : Kept t := by
  obtain ⟨hmem, hhost, hlog, hlow, hhigh, hpool⟩ := h
  exact ⟨k.memory hmem, k.host hhost, k.logbook hlog, k.cap ▸ hlow, k.cap ▸ hhigh, k.pool ▸ hpool⟩

variable {s : State}

theorem ite {c : Prop} [Decidable c] {t u : State} (ht : Kept t) (hu : Kept u) : Kept (if c then t else u) := by
  split
  · exact ht
  · exact hu

theorem foldl {α : Type} {f : State → α → State} (hf : ∀ s a, Kept s → Kept (f s a)) (l : List α) (h : Kept s) : Kept (l.foldl f s) := by
  induction l generalizing s with
  | nil => exact h
  | cons a l ih => exact ih (hf s a h)

theorem setParty (h : Kept s) (p : Nat) (x : Party) : Kept (s.setParty p x) := h

theorem wake (h : Kept s) : Kept s.wake := h

theorem onCore (h : Kept s) (c : Nat) (f : Core → Core) : Kept (s.onCore c f) := h

theorem onQuad (h : Kept s) (q : Nat) (f : Quad → Quad) : Kept (s.onQuad q f) := h

theorem onBank (h : Kept s) (e : Nat) (f : Bank → Bank) : Kept (s.onBank e f) := h

theorem onLod (h : Kept s) (fe : Nat) (f : Lodging → Lodging) : Kept (s.onLod fe f) := h

theorem onStream (h : Kept s) (fe : Nat) (f : Stream → Stream) : Kept (s.onStream fe f) := h

theorem msix (h : Kept s) (fe v : Nat) : Kept (s.msix fe v) := h

theorem dropReq (h : Kept s) (n : Nat) : Kept (s.dropReq n) := h

theorem setFull (h : Kept s) (pa : Nat) (b : Bool) : Kept (s.setFull pa b) := h

theorem napWake (h : Kept s) (ls : List Nat) : Kept (s.napWake ls) := h

theorem withCur (h : Kept s) (c : Option Nat) : Kept { s with cur := c } := h

theorem onParty (h : Kept s) (p : Nat) (f : Party → Party) : Kept (s.onParty p f) := h.of_keeps (.onParty ..)

theorem onLaunch (h : Kept s) (g : Nat) (f : Launch → Launch) : Kept (s.onLaunch g f) := h.of_keeps (.onLaunch ..)

theorem onCrew (h : Kept s) (c : Nat) (f : Crew → Crew) : Kept (s.onCrew c f) := h.of_keeps (.onCrew ..)

theorem onReq (h : Kept s) (n : Nat) (f : Req → Req) : Kept (s.onReq n f) := h.of_keeps (Calm.onReq ..).keeps

theorem notify (h : Kept s) (c : Nat) : Kept (s.notify c) := h.of_keeps (.notify ..)

theorem spend (h : Kept s) (a : Activity) (fe n : Nat) : Kept (s.spend a fe n) := h.of_keeps (.spend ..)

theorem log (h : Kept s) (code lodging unit : Nat) (detail : BitVec 128) : Kept (s.log code lodging unit detail) := h.of_keeps (.log ..)

theorem storeN (h : Kept s) (a v n : Nat) : Kept (s.storeN a v n) := h.of_keeps (.storeN ..)

theorem storePieces (h : Kept s) (v : Nat) (ps : List (Nat × Nat)) : Kept (s.storePieces v ps) := h.of_keeps (.storePieces ..)

/-! ### Reading lines (R374) -/

theorem poisonLine (h : Kept s) (code fe unit line : Nat) : Kept (s.poisonLine code fe unit line) := by
  unfold State.poisonLine
  exact log (by exact h) ..

theorem readLine (h : Kept s) (fe unit line : Nat) : Kept (s.readLine fe unit line).1 := by
  unfold State.readLine
  extract_lets hit corrected u
  have hu : Kept u := ite (log (by exact h) ..) h
  clear_value u
  split_ifs
  · exact hu
  · exact hu
  · exact hu
  · exact poisonLine (by exact hu) ..
  · exact hu
  · exact hu.poisonLine ..
  · exact hu

theorem readLines (h : Kept s) (fe unit : Nat) (ls : List Nat) : Kept (s.readLines fe unit ls).1 := by
  induction ls generalizing s with
  | nil => exact h
  | cons l ls ih =>
    have hline := h.readLine fe unit l
    unfold State.readLines
    generalize s.readLine fe unit l = r at hline
    obtain ⟨u, c⟩ := r
    cases c with
    | some c => exact hline
    | none => exact ih hline

/-! ### Regions and traps -/

theorem endRegion (h : Kept s) (p t : Nat) : Kept (s.endRegion p t) := by
  unfold State.endRegion
  split
  · exact h
  · exact ite h h

theorem endRegions (h : Kept s) (p : Nat) (ts : List Nat) : Kept (s.endRegions p ts) := foldl (fun _ t hu => endRegion hu p t) ts h

theorem takeTrap (h : Kept s) (p : Nat) (r : TrapReq) : Kept (s.takeTrap p r) := h.of_keeps (Calm.takeTrap ..).keeps

theorem raise (h : Kept s) (p : Nat) (r : TrapReq) : Kept (s.raise p r) := by
  unfold State.raise
  split
  · exact h
  · exact ite (ite h h) (h.takeTrap p r)

theorem raiseHere (h : Kept s) (p : Nat) (c : BitVec 6) (m : Mask) (info : DWord) : Kept (s.raiseHere p c m info) := by
  unfold State.raiseHere
  split
  · exact h
  · exact h.raise ..

theorem alloc (h : Kept s) {go : State} (hgo : Kept go) (p : Nat) (x : Party) (m : Mods) (regs : List (Reg × Nat)) : Kept (s.alloc p x m regs go) := by
  unfold State.alloc
  refine ite hgo ?_
  split
  · exact h.raiseHere ..
  · exact hgo

theorem stall (h : Kept s) (p : Nat) : Kept (s.stall p) := h.onParty ..

theorem deliverFp (h : Kept s) {go : State} (hgo : Kept go) (p : Nat) (x : Party) : Kept (s.deliverFp p x go) := by
  unfold State.deliverFp
  exact ite (h.stall p) (ite (h.raiseHere ..) hgo)

/-! ### The ends of groups, parties and crews -/

theorem arrive (h : Kept s) (g i p : Nat) : Kept (s.arrive g i p) := h.onLaunch ..

theorem retireParty (h : Kept s) (p : Nat) : Kept (s.retireParty p) := h.of_keeps (Calm.retireParty ..).keeps

theorem settle (h : Kept s) (p : Nat) : Kept (s.settle p) := h.of_keeps (Calm.settle ..).keeps

theorem consumeError (h : Kept s) (p : Nat) (c : BitVec 6) (r : TrapReq) : Kept (s.consumeError p c r) := h.of_keeps (Calm.consumeError ..).keeps

theorem endRequest (h : Kept s) (p : Nat) (x : Party) (t : Nat) : Kept (s.endRequest p x t) := by
  unfold State.endRequest
  split
  · exact h
  · exact ite h h

theorem whenSynced (h : Kept s) {go : State} (hgo : Kept go) (p : Nat) (x : Party) (ts : List Nat) (rel pod : Bool) :
    Kept (s.whenSynced p x ts rel pod go) := by
  unfold State.whenSynced
  exact ite h (ite (h.stall p) hgo)

theorem callTo (h : Kept s) (p : Nat) (x : Party) (ts : List (Nat × DWord)) : Kept (s.callTo p x ts) := by
  unfold State.callTo
  exact ite h (h.raiseHere ..)

theorem arriveOrdinary (h : Kept s) (p : Nat) (x : Party) (b : BarAt) (scope : Nat) : Kept (s.arriveOrdinary p x b scope) := by
  unfold State.arriveOrdinary
  exact endRegions (s := s.setParty p _) h p _

theorem barrierDone (h : Kept s) (p key : Nat) : Kept (s.barrierDone p key) := by
  unfold State.barrierDone
  split
  · exact h
  · exact endRegions (by exact h) ..

theorem parkAt (h : Kept s) (p : Nat) (b : BarAt) (phase : Nat) : Kept (s.parkAt p b phase) := h.onParty ..

theorem raiseLane (h : Kept s) (p : Nat) (x : Party) (uniform write : Bool) (bad : List (Nat × DWord × Nat × BitVec 6)) :
    Kept (s.raiseLane p x uniform write bad) := by
  unfold State.raiseLane
  split
  · exact h
  · exact h.raise ..

end Kept

/-! ### Outcomes -/

/-- Where the outcome is a next state, the invariant holds in it. -/
def KeptBy (o : Host.Outcome State Fault Refusal) : Prop := ∀ t, o = .next t → Kept t

namespace KeptBy

variable {s : State}

theorem next (h : Kept s) : KeptBy (.next s) := fun _ ht => Host.Outcome.next.inj ht ▸ h

theorem event (h : Kept s) : KeptBy s.event := next (by exact h)

theorem issue {f : Nat → Party → State} (hf : ∀ p x, Kept (f p x)) : KeptBy (s.issue f) := by
  intro t ht
  unfold State.issue at ht
  split at ht
  · cases ht
  · split at ht
    · cases ht
    · exact next (hf _ _) t ht

/-! ### Operand executors -/

theorem vecOp (h : Kept s) {m : Mods} {d : Reg} {regs : List (Reg × Nat)} {f : Party → Nat → Nat → Word} : KeptBy (s.vecOp m d regs f) :=
  issue fun p x => match d with
    | .s _ => h
    | .v _ => h.alloc (by exact h) ..

theorem vecOp64 (h : Kept s) {m : Mods} {d : Reg} {regs : List (Reg × Nat)} {f : Party → Nat → DWord} : KeptBy (s.vecOp64 m d regs f) :=
  issue fun p x => match d with
    | .s _ => h
    | .v _ => h.alloc (by exact h) ..

theorem maskOp (h : Kept s) {m : Mods} {d : MaskReg} {regs : List (Reg × Nat)} {f : Party → Nat → Nat → Bool} : KeptBy (s.maskOp m d regs f) :=
  issue fun _ _ => h.alloc (by exact h) ..

theorem fcmpOp (h : Kept s) {m : Mods} {d : MaskReg} {regs : List (Reg × Nat)} {f : Party → Nat → Nat → Bool → Bool × FpFlags} :
    KeptBy (s.fcmpOp m d regs f) := issue fun _ _ => h.alloc (by exact h) ..

/-- A shadow check takes the upset or leaves the state (R118). -/
theorem shadowed (h : Kept s) {go : State} (hgo : Kept go) (c : Prop) [Decidable c] (p : Nat) (x : Party) (m : Mods) (uniform : Bool) :
    Kept (match (if c then s.shadowUpset else none) with
      | some (s, e) => s.shadowTrap p x m uniform e
      | none => go) := by
  split
  · next u e hu =>
    have hkept : Kept u := by
      split at hu
      · unfold State.shadowUpset at hu
        split at hu
        · cases hu
          exact h
        · cases hu
      · cases hu
    exact hkept.raiseHere ..
  · exact hgo

theorem fpOp (h : Kept s) {m : Mods} {d : Reg} {regs : List (Reg × Nat)} {draws : Nat} {checked : Bool} {f : Party → Nat → Nat → FpFn} :
    KeptBy (s.fpOp m d regs draws checked f) := by
  unfold State.fpOp
  refine issue fun p x => ?_
  cases d with
  | s n => exact shadowed h (by exact h) ..
  | v n => exact h.alloc (shadowed h (by exact h) ..) ..

theorem branch (h : Kept s) {n : Nat} {off : BitVec n} {f : Party → Mask} : KeptBy (s.branch off f) := issue fun _ _ => h

theorem barrier (h : Kept s) (scope : BitVec 3) (num : BitVec 4) (sync : Bool) {go : Nat → Party → BarAt → State} (hgo : ∀ p x b, Kept (go p x b)) :
    KeptBy (s.barrier scope num sync go) := by
  unfold State.barrier
  refine issue fun p x => h.deliverFp ?_ ..
  split
  · exact h.raiseHere ..
  · exact Kept.ite (h.raiseHere ..) (Kept.ite h (hgo ..))

end KeptBy

end Sys2Proof.Proofs
end

section
/-! PROOFS. Accesses, homes and the ends of groups keep the invariant (O59). -/

namespace Sys2Proof.Proofs

open Sys2Proof Sys2Proof.Machine Sys2Proof.Says

namespace Kept

variable {s : State}

/-! ### Requests leave the lane -/

theorem send (h : Kept s) (p : Nat) (f : Send) (t : Nat) (uniform : Bool) (va : DWord) (pieces : List (Nat × Nat)) (win : Bool) (kind : ReqKind)
    (dest : Dest) : Kept (s.send p f t uniform va pieces win kind dest) := by
  unfold State.send
  split
  · exact h
  · exact h

theorem sendAll (h : Kept s) (p : Nat) (f : Send) (uniform : Bool) (kind : Nat → Bool → ReqKind) (dest : Dest) (es : List (Nat × DWord × Checked)) :
    Kept (s.sendAll p f uniform kind dest es) := by
  induction es generalizing s with
  | nil => exact h
  | cons e es ih =>
    obtain ⟨t, va, c⟩ := e
    cases c with
    | ok ps win remote => exact ih (h.send ..)
    | bad n c => exact ih h

theorem narrow (h : Kept s) {go : State → State} (hgo : ∀ s, Kept s → Kept (go s)) (p : Nat) (x : Party) (acts : Bool) (m : Mods) :
    Kept (s.narrow p x acts m go) := by
  unfold State.narrow
  exact ite (ite (h.raiseHere ..) (hgo _ (by exact h))) (hgo s h)

theorem endSync (h : Kept s) (p : Nat) (ts : List Nat) (dropCopies : Bool) : Kept (s.endSync p ts dropCopies) := (h.onParty ..).endRegions ..

theorem prefetch (h : Kept s) (pa : Nat) : Kept (s.prefetch pa) := by
  unfold State.prefetch
  refine ite h ?_
  split
  · exact h
  · exact h

/-! ### Lines -/

theorem lineWrite (h : Kept s) (line : Nat) : Kept (s.lineWrite line) := h.of_keeps (.lineWrite ..)

theorem linesWrite (h : Kept s) (ls : List Nat) : Kept (s.linesWrite ls) := h.of_keeps (.linesWrite ..)

theorem fetchLine (h : Kept s) (p : Party) (a : DWord) : Kept (s.fetchLine p a).1 := by
  unfold State.fetchLine
  split
  · exact h
  · dsimp only
    split
    · exact h
    · next t _ =>
      have hline := h.readLine p.fe p.lane (t.pa / 64)
      generalize s.readLine p.fe p.lane (t.pa / 64) = r at hline
      obtain ⟨u, c⟩ := r
      split
      · cases c with
        | some c => exact hline
        | none => exact hline
      · cases c with
        | some c => exact hline
        | none => exact hline
      · exact h
      · exact h
      · exact h

/-! ### Groups -/

theorem finishGroupWith (h : Kept s) (p : Nat) (kept : Option TrapReq) : Kept (s.finishGroupWith p kept) :=
  h.of_keeps (Calm.finishGroupWith ..).keeps

theorem finishGroup (h : Kept s) (p : Nat) : Kept (s.finishGroup p) := h.finishGroupWith p none

theorem conclude (h : Kept s) (p : Nat) : Kept (s.conclude p) := h.of_keeps (Calm.conclude ..).keeps

theorem answer (h : Kept s) (r : Req) (fs : List HomeFault) : Kept (s.answer r fs) := h.of_keeps (Calm.answer ..).keeps

theorem refuse (h : Kept s) (n : Nat) (r : Req) (c : BitVec 6) (info : DWord) : Kept (s.refuse n r c info) := h.of_keeps (Calm.refuse ..).keeps

theorem accept (h : Kept s) (n : Nat) (r : Req) (ph : Phase) : Kept (s.accept n r ph) := (h.onReq ..).answer ..

theorem unissued (h : Kept s) (p : Nat) : Kept (if s.cur == some p then { s with cur := none } else s) := ite h h

/-- After a group the step's state goes on, or the state before it is taken back. -/
theorem retire {old : State} (hold : Kept old) (h : Kept s) (p : Nat) : Kept (State.retire old s p) := by
  unfold State.retire
  have haged := h.onParty p fun x => if x.ctl == .stall || x.pos.begun then x else { x with age := s.now }
  generalize (s.onParty p fun x => if x.ctl == .stall || x.pos.begun then x else { x with age := s.now }) = u at haged
  dsimp only
  split
  · exact haged
  · refine ite (haged.unissued p) ?_
    split
    · exact ite (unissued (takeTrap (settle (by exact haged) p) ..) p) (unissued (takeTrap (hold.onParty ..) ..) p)
    · exact haged.unissued p
    · refine ite (unissued (by exact haged) p) (ite (unissued (hold.onParty ..) p) (ite (unissued (by exact ite (conclude (by exact haged) p) haged) p) ?_))
      split
      · exact haged.finishGroup p
      · exact unissued (haged.finishGroup p) p
      · exact haged.unissued p
      · exact ite (unissued (hold.onParty ..) p) (haged.unissued p)

/-! ### Homes -/

theorem record (h : Kept s) (r : Req) : Kept (s.record r) := ite h h

theorem releaseRegions (h : Kept s) (p : Nat) (os : List (Nat × Nat)) : Kept (s.releaseRegions p os) := foldl (fun _ _ hu => ite (by exact hu) hu) os h

theorem homeCheck (h : Kept s) (r : Req) : Kept (s.homeCheck r).1 := by
  unfold State.homeCheck
  extract_lets w reads
  split
  · exact h
  · split
    · exact h
    · have hread : Kept (if reads then s.readLines r.fe r.lane (linesOf r.pieces) else (s, none)).1 := by
        split
        · exact h.readLines ..
        · exact h
      generalize (if reads then s.readLines r.fe r.lane (linesOf r.pieces) else (s, none)) = q at hread
      obtain ⟨u, c⟩ := q
      cases c with
      | some c => exact hread
      | none =>
        dsimp only
        split
        · exact hread
        · exact hread

theorem deliver (h : Kept s) (n : Nat) (r : Req) (v : Nat) : Kept (s.deliver n r v) := by
  unfold State.deliver
  dsimp only
  split
  · exact h
  · exact h

theorem acquire (h : Kept s) (r : Req) : Kept (s.acquire r) := ite (h.onParty ..) h

theorem enqueue (h : Kept s) (n : Nat) (r : Req) : Kept (s.enqueue n r) := by
  unfold State.enqueue
  exact answer (by exact h) r []

end Kept

namespace KeptBy

variable {s : State}

theorem access (h : Kept s) (m : Mods) (uniform : Bool) (regs : List (Reg × Nat)) (a : Acc) (va : Party → Nat → DWord)
    {go : Nat → Party → List (Nat × DWord × Checked) → State} (hgo : ∀ p x cs, Kept (go p x cs)) : KeptBy (s.access m uniform regs a va go) :=
  issue fun _ _ => h.alloc (Kept.ite (hgo ..) (h.raiseLane ..)) ..

theorem load (h : Kept s) {m : Mods} {d a : Reg} {off : Off} {size unit : Nat} {aligned : Bool} {kind : Bool → ReqKind} :
    KeptBy (s.load m d a off size unit aligned kind) := access h _ _ _ _ _ fun _ _ _ => Kept.sendAll (by exact h) ..

theorem store (h : Kept s) {m : Mods} {d a : Reg} {off : Off} {size : Nat} {aligned : Bool} : KeptBy (s.store m d a off size aligned) :=
  access h _ _ _ _ _ fun _ _ _ => h.sendAll ..

theorem atomic (h : Kept s) {m : Mods} {uniform : Bool} {regs : List (Reg × Nat)} {a : Reg} {size : Nat} {flag : Party → Option Nat}
    {kind : Party → Nat → ReqKind} {dest : Party → Dest} : KeptBy (s.atomic m uniform regs a size flag kind dest) :=
  access h _ _ _ _ _ fun _ _ _ => h.narrow (fun _ hu => Kept.ite (hu.sendAll ..) (hu.whenSynced ((hu.endSync ..).sendAll ..) ..)) ..

theorem mailbox (h : Kept s) {m : Mods} {d a : Reg} {off : Off} {n : Nat} {write acts : Bool} {flag : Party → Option Nat}
    {kind : Party → Nat → ReqKind} {dest : Party → Dest} : KeptBy (s.mailbox m d a off n write acts flag kind dest) :=
  access h _ _ _ _ _ fun _ _ _ => h.narrow (fun _ hu => hu.whenSynced ((hu.endSync ..).sendAll ..) ..) ..

end KeptBy

end Sys2Proof.Proofs
end

section
/-! PROOFS. The Steward's services and the steps of homes keep the invariant (O59). -/

namespace Sys2Proof.Proofs

open Sys2Proof Sys2Proof.Machine Sys2Proof.Says

namespace Kept

variable {s : State}

/-! ### Records, frames and slots -/

theorem setRec (h : Kept s) (a : Ag) (off n v : Nat) : Kept (s.setRec a off n v) := h.storeN ..

theorem setFrame (h : Kept s) (a : Ag) (b : DWord) (off n v : Nat) : Kept (s.setFrame a b off n v) := h.storeN ..

theorem setStatus (h : Kept s) (a : Ag) (i : Nat) (x : Status) : Kept (s.setStatus a i x) := h.storeN ..

theorem zeroRange (h : Kept s) (lo n : Nat) : Kept (s.zeroRange lo n) := { h with memory := zeroRange_wf lo n h.memory }

theorem freeBlock (h : Kept s) (a : Ag) (b : DWord) : Kept (s.freeBlock a b) := by
  exact (h.setFrame ..).onLod ..

theorem freeFrames (h : Kept s) (a : Ag) (b : DWord) (n : Nat) : Kept (s.freeFrames a b n) := by
  induction n generalizing s b with
  | zero => exact h
  | succ n ih => exact ite h (ih (h.freeBlock a b) _)

theorem freeSlot (h : Kept s) (a : Ag) (i : Nat) : Kept (s.freeSlot a i) := by
  unfold State.freeSlot
  exact ((h.freeFrames ..).zeroRange ..).onLod ..

theorem putGoals (h : Kept s) (a : Ag) (k : Nat) (gs : List DWord) : Kept (s.putGoals a k gs) := by
  induction gs generalizing s k with
  | nil => exact h
  | cons g gs ih => exact ih (h.setRec ..) _

theorem setGoals (h : Kept s) (a : Ag) (gs : List DWord) : Kept (s.setGoals a gs) := ((h.zeroRange ..).putGoals ..).setRec ..

theorem emit (h : Kept s) (a : Ag) (i : Nat) (args : List Word) : Kept (s.emit a i args) := h

theorem wakeSlot (h : Kept s) (a : Ag) (i : Nat) (args : List Word) : Kept (s.wakeSlot a i args) := by
  unfold State.wakeSlot
  exact (((h.onLod ..).setFrame ..).setStatus ..).emit ..

theorem pushFrame (h : Kept s) (a : Ag) (i depth : Nat) (b : DWord) (goal : Option DWord) (p : PlanEntry) (failed : Bool) (args : List Word) :
    Kept (s.pushFrame a i depth b goal p failed args) := by
  unfold State.pushFrame
  extract_lets l parent s₁ s₂ s₃ s₄ s₅ s₆ st s₇ s₈ s₉ s₁₀ s₁₁
  have h₅ : Kept s₅ := ((((h.setFrame ..).setFrame ..).setFrame ..).setFrame ..).setFrame ..
  have h₆ : Kept s₆ := h₅.setRec ..
  have h₉ : Kept s₉ := ((h₆.setRec ..).setRec ..).setRec ..
  have h₁₀ : Kept s₁₀ := ite (h₉.setStatus ..) (h₆.setStatus ..)
  have h₁₁ : Kept s₁₁ := ite (h₁₀.onLod ..) h₁₀
  exact h₁₁.emit ..

theorem markFailed (h : Kept s) (a : Ag) (i cause : Nat) : Kept (s.markFailed a i cause) := h.setStatus ..

theorem originRule (h : Kept s) (a : Ag) (g : DWord) : Kept (s.originRule a g) := by
  unfold State.originRule
  split
  · exact h.wakeSlot ..
  · exact (h.setRec ..).setRec ..

theorem applyFailure (h : Kept s) (a : Ag) (i : Nat) : Kept (s.applyFailure a i).1 := by
  unfold State.applyFailure
  dsimp only
  split
  · split_ifs
    · exact h.freeSlot a i
    · exact (h.freeSlot a i).setGoals ..
    · exact h.freeSlot a i
  · split_ifs
    · exact h.freeSlot a i
    · exact h.freeSlot a i
    · exact ((h.freeBlock ..).setRec ..).setStatus ..
  · exact h.freeSlot a i

theorem failSlot (h : Kept s) (a : Ag) (i cause : Nat) : Kept (s.failSlot a i cause).1 := by
  unfold State.failSlot
  dsimp only
  split
  · exact (h.markFailed ..).applyFailure ..
  · exact h.markFailed ..

theorem testWatches (h : Kept s) (a : Ag) (is : List Nat) : Kept (s.testWatches a is).1 := by
  induction is generalizing s with
  | nil => exact h
  | cons i is ih =>
    unfold State.testWatches
    dsimp only
    split
    · exact ih (h.markFailed ..)
    · exact ih h

theorem applyAll (h : Kept s) (a : Ag) (is : List Nat) : Kept (s.applyAll a is).1 := by
  induction is generalizing s with
  | nil => exact h
  | cons i is ih => exact ih (h.applyFailure a i)

theorem wakeFacts (h : Kept s) (a : Ag) (key : Nat) (new : Bool) (is : List Nat) : Kept (s.wakeFacts a key new is) := by
  induction is generalizing s with
  | nil => exact h
  | cons i is ih => exact ite (ih (h.wakeSlot ..)) (ih h)

theorem factChanged (h : Kept s) (a : Ag) (key : Nat) (old new : Bool) : Kept (s.factChanged a key old new).1 := by
  have happlied := (h.testWatches a (upto 8)).applyAll a (s.testWatches a (upto 8)).2
  exact ite (happlied.wakeFacts ..) happlied

theorem saveFrame (h : Kept s) (a : Ag) (i node : Nat) (run : List (Nat × Word)) (suspended : Bool) : Kept (s.saveFrame a i node run suspended) := by
  unfold State.saveFrame
  exact (((h.setFrame ..).setFrame ..).setFrame ..).setFrame ..

theorem serveEnd (h : Kept s) (r : Req) (x w : Word) : Kept (s.serveEnd r x w).1 := by
  unfold State.serveEnd
  split
  · exact h
  · dsimp only
    split_ifs
    · exact h
    · exact h.applyFailure ..
    · exact (h.markFailed ..).applyFailure ..
    · exact h

theorem loseEvent (h : Kept s) (a : Ag) : Kept (s.loseEvent a) := h.setRec ..

theorem takeBlock (h : Kept s) {a : Ag} {b : DWord} {u : State} (hu : s.takeBlock a = .ok b u) : Kept u := by
  unfold State.takeBlock at hu
  dsimp only at hu
  split at hu
  · cases hu
  · split at hu
    · cases hu
    · obtain ⟨-, rfl⟩ := Taken.ok.inj hu
      exact (h.zeroRange ..).onLod ..

end Kept

/-! ### Services (R181 to R204) -/

/-- A request served leaves a state in which the invariant holds. -/
def KeptServed : Machine.Served → Prop
  | .no _ => True
  | .yes s _ _ => Kept s

namespace KeptServed

variable {s : State}

theorem ite {c : Prop} [Decidable c] {a b : Machine.Served} (ha : KeptServed a) (hb : KeptServed b) : KeptServed (if c then a else b) := by
  split
  · exact ha
  · exact hb

theorem yes (h : Kept s) (v : Nat) (work : List SelWork) : KeptServed (.yes s v work) := h

theorem withFrames {go : Machine.Served} (hgo : KeptServed go) (a : Ag) (is : List Nat) : KeptServed (s.withFrames a is go) := by
  unfold State.withFrames
  split
  · trivial
  · exact hgo

theorem putFact (h : Kept s) (a : Ag) (key : Nat) (new : Bool) : KeptServed (s.putFact a key new) := by
  unfold State.putFact
  exact withFrames (yes ((h.setRec ..).factChanged ..) ..) ..

theorem putBelief (h : Kept s) (a : Ag) (key : Nat) (v : DWord) : KeptServed (s.putBelief a key v) := by
  unfold State.putBelief
  split
  · exact h.setRec ..
  · dsimp only
    split
    · trivial
    · split
      · trivial
      · exact ((h.setRec ..).setRec ..).setRec ..

theorem dropBelief (h : Kept s) (a : Ag) (key : Nat) : KeptServed (s.dropBelief a key) := by
  unfold State.dropBelief
  split
  · exact h
  · exact (h.zeroRange ..).setRec ..

theorem addGoal (h : Kept s) (a : Ag) (g : DWord) : KeptServed (s.addGoal a g) := ite trivial (h.setGoals ..)

theorem doneGoals (h : Kept s) (a : Ag) (gid : Nat) : KeptServed (s.doneGoals a gid) := h.setGoals ..

theorem failBy (h : Kept s) (a : Ag) (w : Word) (cause : Nat) : KeptServed (s.failBy a w cause) := ite trivial (withFrames (yes (h.failSlot ..) ..) ..)

theorem adopt (h : Kept s) (a : Ag) (spec : DWord) : KeptServed (s.adopt a spec) := by
  unfold State.adopt
  refine ite trivial ?_
  split
  · trivial
  · refine ite trivial (ite h ?_)
    split
    · trivial
    · split
      · trivial
      · trivial
      · next b u hu => exact (h.takeBlock hu).pushFrame ..

theorem resume (h : Kept s) (a : Ag) (w arg : Word) : KeptServed (s.resume a w arg) := ite (withFrames (yes (h.wakeSlot ..) ..) ..) h

theorem suspend (h : Kept s) (a : Ag) (i : Nat) (ctl : Word) (wake : DWord) (run : List (Nat × Word)) : KeptServed (s.suspend a i ctl wake run) := by
  unfold State.suspend
  have hgo : ∀ x, Kept (((s.saveFrame a i (nodeOf ctl) run true).setRec a (slotOff i + 0x28) 8 wake.toNat).setStatus a i x) :=
    fun x => ((h.saveFrame ..).setRec ..).setStatus ..
  dsimp only
  refine ite trivial ?_
  split
  · refine ite trivial ?_
    split
    · trivial
    · split
      · exact ite (yes ((hgo _).wakeSlot ..) ..) (yes ((hgo _).onLod ..) ..)
      · exact ite (yes ((hgo _).wakeSlot ..) ..) (yes ((hgo _).onLod ..) ..)
      · trivial
      · trivial
  · exact ite trivial (yes (hgo _) ..)
  · exact yes (hgo _) ..

theorem subgoal (h : Kept s) (a : Ag) (i : Nat) (ctl : Word) (g : DWord) (run : List (Nat × Word)) : KeptServed (s.subgoal a i ctl g run) := by
  unfold State.subgoal
  refine ite trivial (ite trivial (ite trivial (ite trivial ?_)))
  split
  · trivial
  · trivial
  · next b u hu => exact ((h.takeBlock hu).saveFrame ..).setStatus ..

theorem planReturn (h : Kept s) (a : Ag) (i : Nat) (v : Word) : KeptServed (s.planReturn a i v) :=
  ite (h.freeSlot ..) ((((h.freeBlock ..).setRec ..).setStatus ..).wakeSlot ..)

theorem stepTo (h : Kept s) (a : Ag) (i : Nat) (node : Word) : KeptServed (s.stepTo a i node) :=
  ite trivial (((h.saveFrame ..).setStatus ..).emit ..)

theorem leaveBy (h : Kept s) (a : Ag) (r : Req) (w : Word) {go : Nat → Machine.Served} (hgo : ∀ i, KeptServed (go i)) : KeptServed (s.leaveBy a r w go) :=
  ite trivial (withFrames (ite (yes (h.applyFailure ..) ..) (hgo _)) ..)

theorem newAgent (h : Kept s) (fe quad : Nat) (facts : DWord) : KeptServed (s.newAgent fe quad facts) := by
  unfold State.newAgent
  refine ite h ?_
  split
  · trivial
  · exact (((h.zeroRange ..).setRec ..).setRec ..).onLod ..

theorem freeAgent (h : Kept s) (a : Ag) : KeptServed (s.freeAgent a) := by
  unfold State.freeAgent
  refine withFrames ?_ ..
  extract_lets s₁ s₂ s₃ hd s₄
  have h₁ : Kept s₁ := Kept.foldl (fun s i hs => Kept.ite hs (hs.freeSlot a i)) _ h
  have h₂ : Kept s₂ := h₁.zeroRange ..
  have h₃ : Kept s₃ := h₂.setRec ..
  have h₄ : Kept s₄ := by
    refine Kept.ite h₃ ?_
    split
    · exact h₃.setRec ..
    · exact h₃
  exact yes (h₄.onLod ..) ..

theorem intent {go : Machine.Served} (hgo : KeptServed go) (w : Word) : KeptServed (if intentOk w then go else .no 0x2C) := ite hgo trivial

theorem serveOn (h : Kept s) (a : Ag) (r : Req) (op : AgentOp) (w : Word) : KeptServed (s.serveOn a r op w) := by
  cases op with
  | belPut key v => exact ite (putFact h ..) (putBelief h ..)
  | belRet key => exact ite (putFact h ..) (dropBelief h ..)
  | belGet key => exact h
  | belFacts => exact h
  | belTst key => exact h
  | goalAdd g => exact addGoal h ..
  | goalDone gid => exact doneGoals h ..
  | goalFail => exact intent (failBy h ..) w
  | intAdopt spec => exact adopt h ..
  | intDrop => exact intent (failBy h ..) w
  | intSusp c wake run => exact intent (leaveBy h _ _ _ fun _ => suspend h ..) w
  | intResm arg => exact intent (resume h ..) w
  | planSub c g run => exact intent (leaveBy h _ _ _ fun _ => subgoal h ..) w
  | planRet v => exact intent (leaveBy h _ _ _ fun _ => planReturn h ..) w
  | step n => exact intent (leaveBy h _ _ _ fun _ => stepTo h ..) w
  | intInfo => exact intent (show KeptServed (s.info a w) from h) w
  | agtNew f => trivial
  | agtFree => exact freeAgent h a
  | exitEnd => trivial

theorem serve (h : Kept s) (r : Req) (op : AgentOp) (x w : Word) : KeptServed (s.serve r op x w) := by
  unfold State.serve
  split
  · exact newAgent h ..
  · split
    · exact ite h trivial
    · exact ite (serveOn h ..) (ite h trivial)

end KeptServed

/-! ### Selections (R190, R191, R193) -/

namespace Kept

variable {s : State}

theorem selectBelief (h : Kept s) (a : Ag) (kind : EvKind) (key : Nat) (v : DWord) : Kept (s.selectBelief a kind key v).s := by
  unfold State.selectBelief
  dsimp only
  split
  · exact h
  · exact h
  · split
    · exact h.loseEvent a
    · split
      · exact h.loseEvent a
      · exact h.loseEvent a
      · next b u hu => exact (h.takeBlock hu).pushFrame ..

theorem serveQueue (h : Kept s) (a : Ag) : Kept (s.serveQueue a).s := by
  unfold State.serveQueue
  dsimp only
  split
  · split
    · exact h.setGoals ..
    · exact h.setGoals ..
    · split
      · exact h
      · exact h
      · next b u hu => exact ((h.takeBlock hu).setGoals ..).pushFrame ..
  · exact h

theorem goalFailed (h : Kept s) (a : Ag) (g : DWord) (adopted : Bool) : Kept (s.goalFailed a g adopted).s := by
  unfold State.goalFailed
  split
  · exact h.originRule ..
  · split
    · exact h
    · exact h.originRule ..
    · dsimp only
      split
      · exact h.originRule ..
      · split
        · exact h.originRule ..
        · exact h.originRule ..
        · next b u hu => exact (h.takeBlock hu).pushFrame ..

theorem selectSub (h : Kept s) (a : Ag) (g b : DWord) : Kept (s.selectSub a g b).s := by
  unfold State.selectSub
  split
  · exact h.pushFrame ..
  · exact h.freeBlock ..
  · exact h.freeBlock ..

theorem doSelect (h : Kept s) (a : Ag) (w : SelWork) : Kept (s.doSelect a w).s := by
  cases w with
  | event k key v => exact h.selectBelief ..
  | serve => exact h.serveQueue a
  | goalFailed g adopted => exact h.goalFailed ..
  | subgoal g b => exact h.selectSub ..

/-! ### Acceptance -/

theorem finishAgent (h : Kept s) (n : Nat) : Kept (s.finishAgent n) := h.of_keeps (calm_finishAgent ..).keeps

theorem queueWork (h : Kept s) (q n : Nat) (r : Req) (v x : Nat) (work : List SelWork) : Kept (s.queueWork q n r v x work) :=
  h.of_keeps (calm_queueWork ..).keeps

theorem acceptAgent (h : Kept s) (n : Nat) (r : Req) (op : AgentOp) (x w : Word) : Kept (s.acceptAgent n r op x w) := by
  unfold State.acceptAgent
  refine ite h ?_
  have hserved := KeptServed.serve h r op x w
  split
  · exact h.refuse ..
  · next u v work hu =>
    rw [hu] at hserved
    exact queueWork (show Kept u from hserved) ..

theorem wakeWaiters (h : Kept s) (fe : Nat) (ws : List (Nat × Nat × Nat)) : Kept (s.wakeWaiters fe ws) := by
  induction ws generalizing s with
  | nil => exact h
  | cons w ws ih =>
    refine ih ?_
    split
    · exact h.wakeSlot ..
    · exact h

theorem wakeMailbox (h : Kept s) (pa : Nat) : Kept (s.wakeMailbox pa) := foldl (fun _ fe hu => hu.wakeWaiters fe _) _ h

theorem fill (h : Kept s) (pa v : Nat) : Kept (s.fill pa v) := by
  have hstored := h.storeN pa v 8
  unfold State.fill
  generalize s.storeN pa v 8 = u at hstored
  have hwoken : Kept (match u.oldestLd pa with
      | some (n, r) => ((u.setFull pa false).acquire r).onReq n (fun q => { q with phase := .reply v })
      | none => (u.setFull pa true).wakeMailbox pa) := by
    split
    · exact ((hstored.setFull ..).acquire _).onReq ..
    · exact (hstored.setFull ..).wakeMailbox pa
  exact hwoken.napWake _

theorem logAppend (h : Kept s) (n : Nat) (r : Req) (pa : Nat) (words : List Word) : Kept (s.logAppend n r pa words) := by
  unfold State.logAppend
  refine ite (h.refuse ..) ?_
  dsimp only
  split
  · exact h.refuse ..
  · split
    · exact h.refuse ..
    · exact (((h.storeN ..).storeN ..).napWake _).accept ..

theorem emitDetached (h : Kept s) (n : Nat) (r : Req) (act : Activation) : Kept (s.emitDetached n r act) := by
  unfold State.emitDetached
  dsimp only
  split
  · exact h.refuse ..
  · exact ite (h.refuse ..) (ite (h.refuse ..) ((h.onQuad ..).accept ..))

theorem acceptRc (h : Kept s) (n : Nat) (r : Req) (pa : Nat) : Kept (s.acceptRc n r pa) := by
  unfold State.acceptRc
  have hcheck : Kept (s.freeWord.2.homeCheck r).1 := homeCheck (by exact h) r
  dsimp only
  split
  · exact accept (by exact h) ..
  · generalize s.freeWord.2.homeCheck r = q at hcheck
    obtain ⟨u, c⟩ := q
    cases c with
    | some c => exact refuse (by exact hcheck) ..
    | none => exact (onParty (by exact hcheck) ..).accept ..

theorem winWrote (h : Kept s) (r : Req) : Kept (s.winWrote r) := h.onParty ..

theorem perform (h : Kept s) (n : Nat) (r : Req) (pa : Nat) : Kept (s.perform n r pa) := by
  unfold State.perform
  split
  · exact (h.record r).accept ..
  · exact (ite ((h.record r).winWrote r) ((h.record r).storePieces ..)).accept ..
  · have hstored : ∀ op old b c n8, Kept (((s.storeN pa (atomNew op old b c) n8).lineWrite (pa / 64)).acquire r) := fun op old b c n8 =>
      ((h.storeN ..).lineWrite ..).acquire r
    exact ite ((hstored ..).accept ..) (((hstored ..).napWake _).accept ..)
  · exact ite (((h.setFull ..).acquire r).accept ..) (h.enqueue ..)
  · exact ite (h.enqueue ..) (((h.dropReq _).fill ..).answer ..)
  · exact h.accept ..
  · exact h.logAppend ..
  · exact h.acceptRc ..
  · exact h
  · exact h

theorem keepFault (h : Kept s) (fe quad : Nat) (req : Option (Nat × Nat)) (c : BitVec 6) : Kept (s.keepFault fe quad req c) := by
  have hlog := h.log c.toNat fe quad 0
  unfold State.keepFault
  dsimp only
  split
  · exact hlog
  · split
    · exact hlog
    · exact ite (hlog.onParty ..) hlog

end Kept

/-! ### The steps of homes and Stewards -/

namespace KeptBy

variable {s : State}

theorem homeAcceptance (h : Kept s) (n : Nat) : KeptBy (execHomeAcceptance n s) := by
  refine event ?_
  split
  · exact h
  · next r _ =>
    refine Kept.ite h ?_
    split
    · exact h.acceptAgent ..
    · exact h.emitDetached ..
    · exact h.acceptRc ..
    · refine Kept.ite h ?_
      have hcheck := h.homeCheck r
      generalize s.homeCheck r = q at hcheck
      obtain ⟨u, c⟩ := q
      cases c with
      | some c => exact Kept.refuse (by exact hcheck) ..
      | none => exact Kept.perform (by exact hcheck) ..

theorem mailboxStorePerform (h : Kept s) (n : Nat) : KeptBy (execMailboxStorePerform n s) := by
  refine event ?_
  split
  · exact h
  · split
    · split
      · exact Kept.ite ((h.dropReq _).fill ..) h
      · exact h
    · exact h

theorem loadResultWrite (h : Kept s) (n : Nat) : KeptBy (execLoadResultWrite n s) := by
  refine event ?_
  split
  · exact h
  · split
    · exact Kept.ite h (h.deliver ..)
    · exact h

theorem stewardReply (h : Kept s) (n : Nat) : KeptBy (execStewardReply n s) := by
  refine event ?_
  split
  · exact h
  · split
    · exact Kept.ite (h.deliver ..) h
    · exact h

theorem writeAcknowledged (h : Kept s) (n : Nat) : KeptBy (execWriteAcknowledged n s) := by
  refine event ?_
  split
  · exact h
  · next r _ =>
    refine Kept.ite h ?_
    have hstored : Kept (match r.win, r.kind with
        | true, .store _ data => s.storePieces data r.pieces
        | _, _ => s) := by
      split
      · exact h.storePieces ..
      · exact h
    exact (((hstored.dropReq _).linesWrite _).napWake _).releaseRegions ..

theorem fabricTimeout (h : Kept s) (n : Nat) : KeptBy (execFabricTimeout n s) := by
  refine event ?_
  split
  · exact h
  · exact Kept.ite (h.refuse ..) h

theorem exitEndRequest (h : Kept s) (n : Nat) : KeptBy (execExitEndRequest n s) := by
  refine event ?_
  split
  · exact h
  · split
    · exact Kept.ite h ((h.serveEnd ..).queueWork ..)
    · exact h

theorem planSelection (h : Kept s) (q : Nat) : KeptBy (execPlanSelection q s) := by
  refine event ?_
  split
  · exact h
  · next i is _ =>
    refine Kept.ite h ?_
    extract_lets r rest s₁ s₂
    have hr : Kept r.s := by
      unfold r
      split
      · exact h.doSelect ..
      · exact h
    have h₂ : Kept s₂ := by
      unfold s₂
      split
      · exact (hr.onQuad ..).keepFault ..
      · exact hr.onQuad ..
    clear_value s₂
    split
    · exact h₂
    · exact Kept.ite h₂ ((h₂.onReq ..).finishAgent _)

theorem agentOps (h : Kept s) {m : Mods} {regs : List (Reg × Nat)} {leaves flagged : Bool} {lane : Party → Nat → Option (BitVec 6)}
    {req : Party → Nat → Word × Word × AgentOp} {dest : Party → Dest} : KeptBy (s.agentOps m regs leaves flagged lane req dest) := by
  refine issue fun p x => h.alloc (Kept.ite (h.whenSynced (Kept.foldl (fun s t hs => hs.send ..) _ ?_) ..) (h.raiseLane ..)) ..
  exact Kept.ite ((h.endSync ..).onParty ..) (h.endSync ..)

end KeptBy

end Sys2Proof.Proofs
end

section
/-! PROOFS. Placement of crews and grids keeps the invariant (O59). -/

namespace Sys2Proof.Proofs

open Sys2Proof Sys2Proof.Machine Sys2Proof.Says

namespace Kept

variable {s : State}

/-! ### Crews and cores -/

theorem takeTokens (h : Kept s) (c : Nat) : Kept (s.takeTokens c) := by
  unfold State.takeTokens
  exact ite h h

theorem seatAll (h : Kept s) (es : List (Nat × Nat)) : Kept (s.seatAll es) := by
  induction es generalizing s with
  | nil => exact h
  | cons e es ih => exact ih (h.onParty ..)

theorem admitCrew (h : Kept s) (crew c : Nat) : Kept (s.admitCrew crew c) := by
  cases hk : s.crew? crew with
  | none =>
    unfold State.admitCrew
    rw [hk]
    exact h
  | some k =>
    rw [admitCrew_eq hk rfl]
    have hseated : Kept (seatedState s k c) := ((h.onCore ..).takeTokens c).seatAll _
    have hleft : Kept (leftFifo (seatedState s k c) crew) := hseated
    exact hleft.onCrew ..

theorem removeCrew (h : Kept s) (crew : Nat) : Kept (s.removeCrew crew) := by
  unfold State.removeCrew
  split
  · exact h
  · extract_lets ps parked next s₁ s₂
    have h₁ : Kept s₁ := foldl (fun s p hs => hs.onParty ..) _ h
    have h₂ : Kept s₂ := by
      unfold s₂
      split
      · exact h₁.onCore ..
      · exact h₁
    exact h₂.onCrew ..

theorem makeRoom (h : Kept s) (k : Crew) (c : Nat) (may : State → Nat × Crew → Bool) (n : Nat) {t : State} (ht : s.makeRoom k c may n = some t) :
    Kept t := by
  induction n generalizing s with
  | zero => cases ht
  | succ n ih =>
    unfold State.makeRoom at ht
    split at ht
    · exact Option.some.inj ht ▸ h
    · split at ht
      · cases ht
      · exact ih (h.removeCrew _) ht

theorem roomOn (h : Kept s) (k : Crew) (may : State → Nat × Crew → Bool) (cs : List Nat) {r : State × Nat} (hr : s.roomOn k may cs = some r) :
    Kept r.1 := by
  induction cs with
  | nil => cases hr
  | cons c cs ih =>
    unfold State.roomOn at hr
    split at hr
    · next t ht => exact Option.some.inj hr ▸ h.makeRoom _ _ _ _ ht
    · exact ih hr

theorem roomNow (h : Kept s) (k : Crew) {r : State × Nat} (hr : s.roomNow k = some r) : Kept r.1 := by
  unfold State.roomNow at hr
  split at hr
  · exact Option.some.inj hr ▸ h
  · cases hr

theorem admitAll (h : Kept s) {room : State → Crew → Option (State × Nat)} (hroom : ∀ s k r, Kept s → room s k = some r → Kept r.1) (cs : List Nat)
    {t : State} (ht : s.admitAll room cs = some t) : Kept t := by
  induction cs generalizing s with
  | nil => exact Option.some.inj ht ▸ h
  | cons c cs ih =>
    unfold State.admitAll at ht
    split at ht
    · exact ih h ht
    · next k _ =>
      split at ht
      · cases ht
      · next u core hu => exact ih ((hroom s k (u, core) h hu).admitCrew ..) ht

theorem getD (h : Kept s) {o : Option State} (ho : ∀ t, o = some t → Kept t) : Kept (o.getD s) := by
  cases o with
  | none => exact h
  | some t => exact ho t rfl

theorem rotateCore (h : Kept s) (c : Nat) : Kept (s.rotateCore c) := by
  unfold State.rotateCore
  split
  · exact h
  · split
    · next t ht => exact (h.makeRoom _ _ _ _ ht).admitCrew ..
    · exact h

theorem roomRotating {k : Crew} {r : State × Nat} (h : Kept s)
    (hr : (match s.roomNow k with | some r => some r | none => s.roomOn k (mayRotate k) k.cores) = some r) : Kept r.1 := by
  split at hr
  · next hnow => exact h.roomNow k (hnow.trans hr)
  · exact h.roomOn _ _ _ hr

theorem rotateGangs (h : Kept s) (es : List (Nat × Crew)) : Kept (s.rotateGangs es) := by
  induction es generalizing s with
  | nil => exact h
  | cons e es ih =>
    refine ih (ite (h.getD fun t ht => h.admitAll (fun u k r hu hr => ?_) _ ht) h)
    exact hu.roomRotating hr

/-! ### Grids -/

theorem addParties (h : Kept s) (fe crew g : Nat) (d : GridDesc) (lo n : Nat) : Kept (s.addParties fe crew g d lo n).2 := by
  induction n with
  | zero => exact h
  | succ n ih => exact ih

theorem cutCrew (h : Kept s) (g : Nat) (l : Launch) (q : Nat) : Kept (s.cutCrew g l q) := by
  unfold State.cutCrew
  split
  · exact h
  · extract_lets w c size f r src u
    have hr : Kept r.2 := addParties (s := f.2) h ..
    have hu : Kept u := hr
    exact hu.onLaunch ..

theorem distribute (h : Kept s) (g : Nat) (l : Launch) {t : State} (ht : s.distribute g l = some t) : Kept t := by
  unfold State.distribute at ht
  dsimp only at ht
  split at ht
  · exact Option.some.inj ht ▸ h.cutCrew ..
  · split at ht
    · cases ht
    · split at ht
      · exact Option.some.inj ht ▸ (h.onLaunch ..).cutCrew ..
      · cases ht

theorem placeGrid (h : Kept s) (fe : Nat) (g : GridRec) (l : Lodging) : Kept (s.placeGrid fe g l) := h

theorem launchOne (h : Kept s) (x : Party) (va : DWord) {t : State} {b : Bool} (ht : s.launchOne x va = .ok t b) : Kept t := by
  unfold State.launchOne at ht
  split at ht
  · cases ht
  · next ps _ _ _ =>
    have hread := h.readLines x.fe x.lane (linesOf ps)
    generalize s.readLines x.fe x.lane (linesOf ps) = q at ht hread
    obtain ⟨u, c⟩ := q
    have hu : Kept u := hread
    cases c with
    | some c => cases ht
    | none =>
      dsimp only at ht
      split at ht
      · cases ht
      · split at ht
        · obtain ⟨rfl, -⟩ := Launched.ok.inj ht
          exact hu.onLod ..
        · split at ht
          · cases ht
          · split at ht
            · cases ht
            · obtain ⟨rfl, -⟩ := Launched.ok.inj ht
              exact (hu.onLod ..).onCrew ..

theorem launchAll (h : Kept s) (x : Party) (va : Nat → DWord) (ts : List Nat) : Kept (s.launchAll x va ts).1 := by
  induction ts generalizing s with
  | nil => exact h
  | cons t ts ih =>
    unfold State.launchAll
    split
    · exact ih h
    · next ht => exact ih (h.launchOne x _ ht)

end Kept

/-! ### The steps -/

namespace KeptBy

variable {s : State}

theorem crewAdmission (h : Kept s) (crew : Nat) : KeptBy (execCrewAdmission crew s) := by
  refine event ?_
  split
  · exact h
  · next k _ =>
    refine Kept.ite h (Kept.ite (Kept.ite h (h.getD fun t ht => h.admitAll (fun u k r hu hr => hu.roomNow k hr) _ ht)) ?_)
    split
    · exact h.admitCrew ..
    · split
      · next ht => exact (h.roomOn _ _ _ ht).admitCrew ..
      · exact h

theorem restoration (h : Kept s) (crew : Nat) : KeptBy (execRestoration crew s) := by
  refine event ?_
  split
  · exact h
  · refine Kept.ite ?_ h
    split
    · exact h.admitCrew ..
    · exact h

theorem tokenReturn (h : Kept s) (c : Nat) : KeptBy (execTokenReturn c s) := event (Kept.ite (by exact h) h)

theorem periodBoundary (h : Kept s) : KeptBy (execPeriodBoundary s) :=
  event (Kept.ite h (Kept.rotateGangs (Kept.foldl (fun _ c hu => hu.rotateCore c) _ (by exact h)) _))

theorem gridPlacement (h : Kept s) (fe : Nat) : KeptBy (execGridPlacement fe s) := by
  refine event ?_
  have hnext : Kept (match (s.lod fe).nextGrid with | some (g, l') => s.placeGrid fe g l' | none => s) := by
    split
    · exact h.placeGrid ..
    · exact h
  refine Kept.ite h ?_
  dsimp only
  split
  · exact hnext
  · refine Kept.ite hnext ?_
    split
    · next ht => exact h.distribute _ _ ht
    · exact hnext

theorem deferredLaunchEnqueue (h : Kept s) (fe : Nat) : KeptBy (execDeferredLaunchEnqueue fe s) := by
  refine event ?_
  dsimp only
  split
  · exact h
  · exact Kept.ite h (h.onLod ..)

theorem gridEndFlush (h : Kept s) (g : Nat) : KeptBy (execGridEndFlush g s) := by
  refine event ?_
  split
  · exact h
  · refine Kept.ite h ?_
    dsimp only
    split
    · exact h
    · split
      · exact h
      · exact h

end KeptBy

end Sys2Proof.Proofs
end

section
/-! PROOFS. Engine words and the Porter keep the invariant (O59). -/

namespace Sys2Proof.Proofs

open Sys2Proof Sys2Proof.Machine Sys2Proof.Says

namespace Kept

variable {s : State}

/-! ### Engine words at the lane -/

theorem giveU (h : Kept s) (p : Nat) (d : Reg) (v : DWord) : Kept (s.giveU p d v) := by
  cases d with
  | s n => exact h.onParty ..
  | v n => exact h

theorem raiseAddr (h : Kept s) (p : Nat) (x : Party) (c : BitVec 6) (a : DWord) (write : Bool) : Kept (s.raiseAddr p x c a write) := h.raise ..

theorem refuseCmd (h : Kept s) (p : Nat) (x : Party) (c : BitVec 6) : Kept (s.refuseCmd p x c) := h.raiseHere ..

theorem setCore (h : Kept s) (c : Nat) (k : Core) : Kept (s.setCore c k) := h

theorem withSlots (h : Kept s) (p : Nat) (x : Party) (c : Nat) (us : List (Nat × SlotUse)) {go : Core → State} (hgo : ∀ k, Kept (go k)) :
    Kept (s.withSlots p x c us go) := by
  unfold State.withSlots
  split
  · exact h.refuseCmd ..
  · exact h.stall p
  · exact hgo _

theorem queueCp (h : Kept s) (p : Nat) (x : Party) (c : Nat) (k : Core) (d : Reg) (ctx : Nat) (a : DWord) (op : CpOp) :
    Kept (s.queueCp p x c k d ctx a op) := (h.setCore ..).giveU ..

theorem onCtx (h : Kept s) (p : Nat) (x : Party) (c d : Nat) {go : Core → MxCtx → State} (hgo : ∀ k m, Kept (go k m)) : Kept (s.onCtx p x c d go) :=
  ite (h.refuseCmd ..) (hgo _ _)

theorem deliverEngine (h : Kept s) (p : Nat) (x : Party) (c : Nat) (f : EngFault) : Kept (s.deliverEngine p x c f) := (h.onCore ..).raise ..

/-! ### Engine accesses -/

theorem engRead (h : Kept s) (g : Eng) (es : List (DWord × Nat)) : Kept (s.engRead g es).1 := by
  induction es generalizing s with
  | nil => exact h
  | cons e es ih =>
    obtain ⟨va, n⟩ := e
    unfold State.engRead
    split
    · exact h
    · next pa _ =>
      have hline := h.readLine g.fe g.quad (pa / 64)
      generalize s.readLine g.fe g.quad (pa / 64) = q at hline
      obtain ⟨u, c⟩ := q
      cases c with
      | some c => exact hline
      | none =>
        have hrest := ih (s := u) hline
        dsimp only
        generalize u.engRead g es = q at hrest
        obtain ⟨v, r⟩ := q
        cases r with
        | ok bs => exact hrest
        | error e => exact hrest

theorem engWrite (h : Kept s) (bs : List Byte) (ps : List (Nat × Nat)) : Kept (s.engWrite bs ps) := by
  induction ps generalizing s bs with
  | nil => exact h
  | cons q ps ih => exact ih (h.storeN ..) _

theorem engStore (h : Kept s) (g : Eng) (rows : List (DWord × List Byte)) {t : State} (ht : s.engStore g rows = .ok t) : Kept t := by
  unfold State.engStore at ht
  split at ht
  · cases ht
  · exact Except.ok.inj ht ▸ h.engWrite ..

theorem engFault (h : Kept s) (c fe : Nat) (f : EngFault) : Kept (s.engFault c fe f) := by
  unfold State.engFault
  split
  · exact ite (h.log ..) (h.onCore ..)
  · exact h.log ..

/-! ### The Porter -/

theorem fillFault (h : Kept s) (c fe slot : Nat) (follow : Option Nat) : Kept (s.fillFault c fe slot follow) := by
  unfold State.fillFault
  exact foldl (fun s e hs => hs.engFault ..) _ (foldl (fun s e hs => hs.engFault ..) _ (h.setCore ..))

theorem cpDone (h : Kept s) (c ctx : Nat) (q : CpCmd) : Kept (s.cpDone c ctx q) := h.onCore ..

theorem cpFault (h : Kept s) (c ctx : Nat) (q : CpCmd) (e : BitVec 6 × DWord) : Kept (s.cpFault c ctx q e) := by
  have hfault := h.engFault c q.fe ⟨q.crew, q.party, e.1, e.2, ctx, q.ticket, 12⟩
  unfold State.cpFault
  refine cpDone ?_ ..
  split
  · exact hfault.fillFault ..
  · exact hfault.onCore ..
  · exact hfault.onCore ..
  · exact hfault

theorem cpNext (h : Kept s) (c ctx : Nat) (q : CpCmd) (pos : Nat) : Kept (s.cpNext c ctx q pos) := h.onCore ..

theorem fillRows (h : Kept s) (g : Eng) (c : Nat) (q : CpCmd) (slot fmt : Nat) (sp : Bool) (stride : Nat) (rs : List Nat) :
    Kept (s.fillRows g c q slot fmt sp stride rs).1 := by
  induction rs generalizing s with
  | nil => exact h
  | cons r rs ih =>
    unfold State.fillRows
    dsimp only
    have hread := h.engRead g (segmentsOf (q.row stride r) ((rowSizes fmt sp).1 + (rowSizes fmt sp).2))
    generalize s.engRead g (segmentsOf (q.row stride r) ((rowSizes fmt sp).1 + (rowSizes fmt sp).2)) = y at hread
    obtain ⟨u, b⟩ := y
    cases b with
    | error e => exact hread
    | ok bs =>
      dsimp only
      split
      · exact hread
      · exact ih (onCore (show Kept u from hread) ..)

theorem tileError (h : Kept s) (c slot : Nat) : Kept (s.tileError c slot).1 := by
  unfold State.tileError
  split
  · exact h
  · exact h

theorem outRows (h : Kept s) (g : Eng) (c ctx : Nat) (q : CpCmd) (pos rowBytes : Nat) (row : Nat → DWord × List Byte) (fin : Core → Core) :
    Kept (s.outRows g c ctx q pos rowBytes row fin) := by
  unfold State.outRows
  extract_lets rs u
  have hu : Kept u := h.spend ..
  split
  · exact hu.cpFault ..
  · next t ht =>
    have hstored := hu.engStore g _ ht
    exact ite (hstored.cpNext ..) ((hstored.onCore ..).cpDone ..)

end Kept

/-! ### The steps and the words -/

namespace KeptBy

variable {s : State}

theorem engine (h : Kept s) {go : State → Nat → Party → Nat → State} (hgo : ∀ s p x c, Kept s → Kept (go s p x c)) : KeptBy (s.engine go) :=
  issue fun p x => hgo _ p x _ (h.onCrew ..)

theorem porterChunk (h : Kept s) (c ctx : Nat) : KeptBy (execPorterChunk c ctx s) := by
  refine event ?_
  split
  · exact h
  · next q _ _ =>
    refine Kept.ite h ?_
    split
    · next slot fmt sp stride follow _ =>
      extract_lets sz rs u
      have hrows : Kept (u.fillRows ⟨q.fe, quadOfCore c, q.user⟩ c q slot fmt sp stride rs).1 := (h.spend ..).fillRows ..
      generalize u.fillRows ⟨q.fe, quadOfCore c, q.user⟩ c q slot fmt sp stride rs = y at hrows
      obtain ⟨v, e⟩ := y
      cases e with
      | some e => exact Kept.cpFault (show Kept v from hrows) ..
      | none => exact Kept.ite (Kept.cpNext (show Kept v from hrows) ..) (Kept.cpDone (Kept.onCore (show Kept v from hrows) ..) ..)
    · next slot fmt _ stride _ =>
      have htile := h.tileError c slot
      generalize s.tileError c slot = y at htile
      obtain ⟨v, e⟩ := y
      cases e with
      | true => exact Kept.cpFault (show Kept v from htile) ..
      | false => exact Kept.outRows (show Kept v from htile) ..
    · dsimp only
      split
      · exact Kept.ite (h.outRows ..) h
      · exact h
    · next src len _ =>
      extract_lets n off u
      have hread : Kept (u.engRead ⟨q.fe, quadOfCore c, q.user⟩ (segmentsOf (src + off) n)).1 := (h.spend ..).engRead ..
      generalize u.engRead ⟨q.fe, quadOfCore c, q.user⟩ (segmentsOf (src + off) n) = y at hread
      obtain ⟨v, e⟩ := y
      have hv : Kept v := hread
      cases e with
      | error e => exact hv.cpFault ..
      | ok bs =>
        dsimp only
        split
        · exact hv.cpFault ..
        · next t ht => exact Kept.ite ((hv.engStore _ _ ht).cpNext ..) ((hv.engStore _ _ ht).cpDone ..)

theorem followOnIssue (h : Kept s) (c x : Nat) : KeptBy (execFollowOnIssue c x s) := by
  refine event ?_
  dsimp only
  split
  · split
    · exact Kept.ite (h.setCore ..) h
    · exact h
  · exact h

end KeptBy

end Sys2Proof.Proofs
end

section
/-! PROOFS. The special-function, matrix, bank and envelope units and the Coach keep the invariant (O59). -/

namespace Sys2Proof.Proofs

open Sys2Proof Sys2Proof.Machine Sys2Proof.Says

namespace Kept

variable {s : State}

/-! ### Matrix contexts -/

theorem engResult (h : Kept s) (p flag : Nat) (uniform : Bool) (vs : List (Nat × Dest × Nat)) : Kept (s.engResult p flag uniform vs) := h.onParty ..

theorem mxDone (h : Kept s) (c x : Nat) (q : MxCmd) : Kept (s.mxDone c x q) := h.onCore ..

theorem product (h : Kept s) (c x a b : Nat) (q : MxCmd) : Kept (s.product c x a b q) := by
  have htiles := (h.tileError c a).tileError c b
  unfold State.product
  extract_lets fe u v s₁ k fault s₂
  have hv : Kept s₁ := htiles
  have h₂ : Kept s₂ := by
    refine ite (hv.engFault ..) ?_
    split
    · exact engFault (by exact hv) ..
    · exact hv.setCore ..
  exact h₂.onCore ..

/-! ### Bank engines -/

theorem freeKeys (h : Kept s) (k : Nat) (st : Sparse Word) (n : Nat) : Kept (s.freeKeys k st n).2 := by
  induction n generalizing s k st with
  | zero => exact h
  | succ n ih => exact ih (s := s.freeWord.2) h _ _

theorem freeBytes (h : Kept s) (a n : Nat) : Kept (s.freeBytes a n) := by
  induction n generalizing s a with
  | zero => exact h
  | succ n ih => exact ih (storeN (s := s.freeWord.2) h ..) _

theorem blur (h : Kept s) (e : Nat) (t : BankTouch) : Kept (s.blur e t) := by
  unfold State.blur
  split
  · exact (h.freeKeys ..).onBank ..
  · exact (h.freeKeys ..).onBank ..
  · exact h.freeBytes ..
  · exact h

theorem bankDo (h : Kept s) (e : Nat) (bs : List Byte) (ps : List (Nat × Nat)) (op : BankOp) : Kept (s.bankDo e bs ps op) := by
  cases op with
  | bend => exact h
  | bsync => exact h
  | bvec _ _ => exact h.onBank ..
  | bmv _ _ _ _ _ => exact h.onBank ..
  | bclr _ _ => exact h.onBank ..
  | bout _ _ _ _ => exact h.engWrite ..

theorem listDone (h : Kept s) (e : Nat) (l : BankList) : Kept (s.listDone e l) := (h.onBank ..).onCore ..

theorem listFault (h : Kept s) (e : Nat) (l : BankList) (c : BitVec 6) (a : DWord) : Kept (s.listFault e l c a) := (h.engFault ..).listDone ..

theorem readAll (h : Kept s) (fe unit : Nat) (es : List ((DWord × Nat) × (Nat × Nat))) : Kept (s.readAll fe unit es).1 := by
  induction es generalizing s with
  | nil => exact h
  | cons e es ih =>
    obtain ⟨⟨va, n⟩, pa, k⟩ := e
    unfold State.readAll
    have hline := h.readLine fe unit (pa / 64)
    generalize s.readLine fe unit (pa / 64) = q at hline
    obtain ⟨u, c⟩ := q
    cases c with
    | some c => exact hline
    | none => exact ih hline

theorem ofPair {α : Type} {r : State × α} (h : Kept r.1) {u : State} {a : α} (hr : r = (u, a)) : Kept u := by
  subst hr
  exact h

theorem blurAll (h : Kept s) (e : Nat) (ts : List BankTouch) : Kept (ts.foldl (fun (s : State) t => s.blur e t) s) :=
  foldl (fun _ t hs => hs.blur e t) ts h

theorem bankExec (h : Kept s) (g : Eng) (e : Nat) (l : BankList) (op : BankOp) : Kept (s.bankExec g e l op) := by
  unfold State.bankExec
  split
  · exact h.listFault ..
  · split
    · next hq => exact (ofPair (h.readAll ..) hq).listFault ..
    · next u hq =>
      have hu : Kept u := ofPair (h.readAll ..) hq
      extract_lets ts before clash s₁ s₂ s₃
      have h₁ : Kept s₁ := ite (hu.blurAll ..) hu
      have h₂ : Kept s₂ := h₁.bankDo ..
      have h₃ : Kept s₃ := ite (h₂.blurAll ..) h₂
      split
      · exact h₃.listDone ..
      · exact h₃.onBank ..

theorem bankStep (h : Kept s) (e code : Nat) : Kept (s.bankStep e code) := by
  unfold State.bankStep
  split
  · exact h
  · next l _ =>
    refine ite (h.listFault ..) ?_
    dsimp only
    have hread := h.engRead ⟨l.fe, quadOfCore l.core, l.user⟩ (segmentsOf (l.desc + BitVec.ofNat 64 (16 * (s.bank e).next)) 16)
    generalize s.engRead ⟨l.fe, quadOfCore l.core, l.user⟩ (segmentsOf (l.desc + BitVec.ofNat 64 (16 * (s.bank e).next)) 16) = q at hread
    obtain ⟨u, r⟩ := q
    have hu : Kept u := hread
    cases r with
    | error f => exact hu.listFault ..
    | ok bs =>
      dsimp only
      split
      · exact ite (hu.listFault ..) h
      · exact ite (hu.bankExec ..) h

/-! ### The Coach -/

theorem dropRecord (h : Kept s) (a : Activation) : Kept (s.dropRecord a) := by
  unfold State.dropRecord
  split
  · exact h
  · next g _ =>
    extract_lets st r work
    have hr : Kept r.1 := by
      unfold r
      split_ifs
      · exact h.applyFailure ..
      · exact (h.markFailed ..).applyFailure ..
      · exact h
    exact hr.onQuad ..

theorem placePlan (h : Kept s) (crew : Nat) : Kept (s.placePlan crew) := by
  unfold State.placePlan
  split
  · exact h
  · dsimp only
    split
    · exact h.admitCrew ..
    · exact (h.onCrew ..).admitCrew ..
    · exact h

theorem depart (h : Kept s) (p lane t : Nat) (a : Activation) : Kept (s.depart p lane t a) := by
  unfold State.depart
  refine ite h ?_
  split
  · exact h
  · exact ite ((ite (h.setStatus ..) h).setRec ..) (ite (h.setStatus ..) h)

theorem departBucket (h : Kept s) (q key : Nat) (go stay : List Activation) : Kept (s.departBucket q key go stay) := by
  unfold State.departBucket
  exact foldl (fun u e hu => hu.depart ..) _ (placePlan (s := departing s q key go stay) h _)

/-! ### Envelope words and their execution -/

theorem queueEnv (h : Kept s) (p : Nat) (x : Party) (c : Nat) (k : Core) (counted : Bool) (op : EnvOp) (dest : Dest) (after : List Nat) :
    Kept (s.queueEnv p x c k counted op dest after) := by
  unfold State.queueEnv
  exact ite (h.stall p) ((h.setCore ..).onParty ..)

theorem envRead (h : Kept s) (g : Eng) (va : DWord) (n : Nat) : Kept (s.envRead g va n).1 := by
  unfold State.envRead
  split
  · exact h
  · have hread := h.engRead g (segmentsOf va n)
    generalize s.engRead g (segmentsOf va n) = q at hread
    obtain ⟨u, r⟩ := q
    cases r with
    | error f => exact hread
    | ok bs => exact hread

theorem envLoad (h : Kept s) (g : Eng) (ad : DWord) : Kept (s.envLoad g ad).1 := by
  unfold State.envLoad
  have hhead := h.envRead g ad 64
  generalize s.envRead g ad 64 = q at hhead
  obtain ⟨u, r⟩ := q
  have hu : Kept u := hhead
  cases r with
  | error f => exact hu
  | ok w =>
    dsimp only
    split
    · exact hu
    · have hbody := hu.envRead g (ad + 64) (16 * (w.getD 0 0 % 2 ^ 10))
      generalize u.envRead g (ad + 64) (16 * (w.getD 0 0 % 2 ^ 10)) = q at hbody
      obtain ⟨v, r⟩ := q
      have hv : Kept v := hbody
      cases r with
      | error f => exact hv
      | ok ws =>
        dsimp only
        split_ifs
        · exact hv
        · exact hv
        · exact hv

theorem envError (h : Kept s) (c : Nat) (q : EnvCmd) {t : State} (ht : s.envError c q = some t) : Kept t := by
  unfold State.envError at ht
  split at ht
  · exact Option.some.inj ht ▸ h
  · cases ht

theorem envDone (h : Kept s) (c : Nat) (q : EnvCmd) (flagOpen : Bool) : Kept (s.envDone c q flagOpen) := ite ((h.onCore ..).onParty ..) (h.onCore ..)

end Kept

/-- What the envelope unit does leaves a state in which the invariant holds. -/
def KeptEnv : EnvDone → Prop
  | .done s => Kept s
  | _ => True

namespace KeptEnv

theorem isSet (a : Option Env) {f : Env → EnvDone} (hf : ∀ e, KeptEnv (f e)) : KeptEnv (Machine.isSet a f) := by
  cases a with
  | none => trivial
  | some e => exact hf e

theorem bothSet (a b : Option Env) {f : Env → Env → EnvDone} (hf : ∀ x y, KeptEnv (f x y)) : KeptEnv (Machine.bothSet a b f) := by
  unfold Machine.bothSet
  split
  · exact hf ..
  · trivial

theorem ite {c : Prop} [Decidable c] {a b : EnvDone} (ha : KeptEnv a) (hb : KeptEnv b) : KeptEnv (if c then a else b) := by
  split
  · exact ha
  · exact hb

theorem result (q : EnvCmd) (d : Nat) (r : Except (BitVec 6) Env) : KeptEnv (q.result d r) := by
  unfold EnvCmd.result
  split
  · trivial
  · split
    · trivial
    · trivial

theorem envDo {s : State} (h : Kept s) (c : Nat) (q : EnvCmd) : KeptEnv (s.envDo c q) := by
  unfold State.envDo
  dsimp only
  split
  · exact (Kept.ite (h.onCore ..) h).engResult ..
  · exact h.onCore ..
  · exact h.onCore ..
  · exact ite trivial trivial
  · exact isSet _ fun _ => result ..
  · exact bothSet _ _ fun _ _ => ite trivial (ite trivial (ite (result ..) trivial))
  · exact bothSet _ _ fun _ _ => ite trivial (result ..)
  · exact bothSet _ _ fun _ _ => result ..
  · exact isSet _ fun _ => result ..
  · exact isSet _ fun _ => ite trivial (result ..)
  · exact isSet _ fun _ => trivial
  · exact isSet _ fun _ => trivial
  · exact isSet _ fun _ => trivial
  · trivial
  · split
    · next hq => exact (Kept.ofPair (h.envLoad ..) hq).engFault ..
    · next hq => exact (Kept.ofPair (h.envLoad ..) hq).onCore ..
  · split
    · trivial
    · split
      · trivial
      · next ht => exact h.engStore _ _ ht

end KeptEnv

/-! ### The steps -/

namespace KeptBy

variable {s : State}

theorem sfu (h : Kept s) {m : Mods} {fn : Nat} {d a : Reg} {b : Src} : KeptBy (s.sfu m fn d a b) := by
  unfold State.sfu
  refine issue fun p x => ?_
  cases d with
  | s n => exact h
  | v n => exact h.alloc (Kept.ite (h.setParty ..) (by exact h)) ..

theorem specialFunctionResult (h : Kept s) (n : Nat) : KeptBy (execSpecialFunctionResult n s) := by
  refine event ?_
  split
  · exact h
  · split
    · exact h
    · dsimp only
      split
      · exact Kept.ite (by exact h) (Kept.takeTrap (Kept.log (by exact h) ..) ..)
      · exact h

theorem matrixCommandExecute (h : Kept s) (c x : Nat) : KeptBy (execMatrixCommandExecute c x s) := by
  refine event ?_
  dsimp only
  split
  · exact h
  · refine Kept.ite h ?_
    split
    · exact h
    · exact Kept.ite (h.mxDone ..) h
    · exact (h.product ..).mxDone ..
    · exact (h.setCore ..).mxDone ..
    · exact (h.engResult ..).mxDone ..
    · exact (h.setCore ..).mxDone ..

theorem bankListStart (h : Kept s) (e : Nat) : KeptBy (execBankListStart e s) := by
  refine event ?_
  dsimp only
  split
  · exact Kept.ite (h.onBank ..) h
  · exact h

theorem activationEntry (h : Kept s) (q : Nat) : KeptBy (execActivationEntry q s) := by
  refine event ?_
  split
  · exact h
  · next a as _ =>
    refine Kept.ite h ?_
    have hpopped := h.onQuad q fun k => { k with emitted := as }
    generalize (s.onQuad q fun k => { k with emitted := as }) = u at hpopped
    dsimp only
    split
    · exact Kept.ite ((hpopped.log ..).dropRecord a) (hpopped.log ..)
    · exact Kept.ite ((hpopped.onQuad ..).departBucket ..) (hpopped.onQuad ..)

theorem coachTimerDeparture (h : Kept s) (q key : Nat) : KeptBy (execCoachTimerDeparture q key s) := by
  refine event ?_
  split
  · exact h
  · exact Kept.ite (h.departBucket ..) h

theorem dieFifoPlacement (h : Kept s) (die : Nat) : KeptBy (execDieFifoPlacement die s) := by
  refine event ?_
  split
  · exact h
  · split
    · exact h
    · refine Kept.ite h ?_
      split
      · exact (h.onCrew ..).admitCrew ..
      · exact h

theorem envelopeExecute (h : Kept s) (c : Nat) : KeptBy (execEnvelopeExecute c s) := by
  refine event ?_
  split
  · exact h
  · next q _ _ =>
    refine Kept.ite h ?_
    split
    · next ht => exact ((h.envError c q ht).engFault ..).envDone ..
    · have hdo := KeptEnv.envDo h c q
      split
      · exact (h.engFault ..).envDone ..
      · exact (h.onCore ..).envDone ..
      · exact (h.engResult ..).envDone ..
      · next hd =>
        rw [hd] at hdo
        exact Kept.envDone (show Kept _ from hdo) ..

theorem envIssue (h : Kept s) (slots : Party → List Nat) {go : State → Nat → Party → Nat → Core → State}
    (hgo : ∀ s p x c k, Kept s → Kept (go s p x c k)) : KeptBy (s.envIssue slots go) :=
  engine h fun _ p x c hu => Kept.ite (hgo _ p x c _ hu) (hu.refuseCmd ..)

end KeptBy

end Sys2Proof.Proofs
end

section
/-! PROOFS. Control registers and the steps of a lane keep the invariant (O59). -/

namespace Sys2Proof.Proofs

open Sys2Proof Sys2Proof.Machine Sys2Proof.Says

namespace Kept

variable {s : State}

theorem csrWrite (h : Kept s) (p : Nat) (x : Party) (v : DWord) (a : Csr) {t : State} (ht : s.csrWrite p x v a = some t) : Kept t := by
  have hparty : ∀ y, some (s.setParty p y) = some t → Kept t := fun y hy => Option.some.inj hy ▸ h
  have hlod : ∀ f, some (s.onLod x.fe f) = some t → Kept t := fun f hf => Option.some.inj hf ▸ h
  cases a with
  | fpctl =>
    simp only [State.csrWrite] at ht
    split at ht
    · cases ht
    · exact hparty _ ht
  | mxctl =>
    simp only [State.csrWrite] at ht
    split at ht
    · cases ht
    · exact hparty _ ht
  | tvec =>
    simp only [State.csrWrite] at ht
    split at ht
    · cases ht
    · exact hlod _ ht
  | scopepol => exact hlod _ ht
  | injaddr => exact Option.some.inj ht ▸ h
  | injarm => exact Option.some.inj ht ▸ h
  | taddr => cases ht
  | cyc => cases ht
  | fpsum | envtol | envctl | tcause | tepc | tmprev | tmfault | tinfo | pinfo => exact hparty _ ht

theorem softTrap (h : Kept s) (p : Nat) (x : Party) (c : BitVec 6) (v : Word) : Kept (s.softTrap p x c v) := h.raise ..

theorem winTick (h : Kept s) (w : Nat) : Kept (s.winTick w) := by
  unfold State.winTick
  split
  · exact h
  · split
    · exact h
    · exact h.onCore ..

theorem unhold (h : Kept s) (p : Nat) : Kept (s.unhold p) := h

theorem rouse (h : Kept s) (p : Nat) : Kept (s.rouse p) := by
  unfold State.rouse
  split
  · exact h
  · refine ite h ?_
    split
    · exact h
    · exact h
    · exact ite (h.setParty ..) h
    · exact ite h (h.setParty ..)
    · exact ite h (((h.setParty ..).unhold p).finishGroup p)
    · split
      · exact h
      · exact ite h (((h.setParty ..).barrierDone ..).finishGroup p)

theorem withdrawLoads (h : Kept s) (p : Nat) : Kept (s.withdrawLoads p) := foldl (fun _ _ hu => (hu.dropReq _).onParty ..) _ h

theorem ofSome {α : Type} (h : Kept s) {q r : α} {t : State} (ht : some (s, q) = some (t, r)) : Kept t := by
  cases ht
  exact h

theorem watchdogAt (h : Kept s) (p : Nat) (x : Party) {t : State} {r : TrapReq} (ht : s.watchdogAt p x = some (t, r)) : Kept t := by
  unfold State.watchdogAt at ht
  dsimp only at ht
  split at ht
  · split at ht
    · exact h.ofSome ht
    · cases ht
  · exact h.ofSome ht
  · exact h.ofSome ht
  · exact (((h.setParty ..).withdrawLoads p).unhold p).ofSome ht
  · exact h.ofSome ht
  · cases ht
  · split at ht
    · split at ht
      · exact h.ofSome ht
      · cases ht
    · split at ht
      · exact h.ofSome ht
      · cases ht

end Kept

namespace KeptBy

variable {s : State}

theorem csrChange (h : Kept s) {a : Csr} {d : Option Reg} {f : Party → DWord → DWord} : KeptBy (s.csrChange a d f) := by
  refine issue fun p x => ?_
  refine Kept.ite (h.raiseHere ..) ?_
  dsimp only
  split
  · exact h.raiseHere ..
  · next ht => exact (h.csrWrite _ _ _ _ ht).onParty ..
  · next ht _ => exact h.csrWrite _ _ _ _ ht

theorem csrRd (h : Kept s) (m : Mods) (d : Reg) (a : Csr) : KeptBy (execCsrRd m d a s) := by
  refine issue fun p x => Kept.ite (h.raiseHere ..) ?_
  cases d with
  | s n => exact h.setParty ..
  | v n => exact h.alloc (h.setParty ..) ..

theorem tret (h : Kept s) (m : Mods) : KeptBy (execTret m s) := by
  refine issue fun p x => Kept.ite (h.raiseHere ..) ?_
  split
  · exact h.raiseHere ..
  · split
    · exact h.raiseHere ..
    · exact h.setParty ..

theorem clk (h : Kept s) (m : Mods) (d : Reg) : KeptBy (execClk m d s) := by
  refine issue fun p x => ?_
  cases d with
  | s n => exact h.setParty ..
  | v n => exact h.alloc (h.setParty ..) ..

theorem fenceWin (h : Kept s) (m : Mods) : KeptBy (execFenceWin m s) := by
  refine issue fun p x => h.deliverFp (h.whenSynced (Kept.ite (h.stall p) ?_) ..) ..
  exact Kept.foldl (fun _ w hu => hu.winTick w) _ ((h.endSync ..).onParty ..)

/-! ### The steps of a lane -/

theorem clauseEntry (h : Kept s) (p : Nat) : KeptBy (execClauseEntry p s) := by
  refine event ?_
  split
  · exact h
  · next x _ =>
    split
    · exact h
    · next q _ =>
      refine Kept.ite h ?_
      split
      · next hq => exact (Kept.ofPair (h.fetchLine ..) hq).takeTrap ..
      · next hq =>
        have ht := Kept.ofPair (h.fetchLine ..) hq
        refine Kept.ite h ?_
        dsimp only
        split
        · exact ht.setParty ..
        · exact (ht.onCore ..).takeTrap ..

theorem lanePick (h : Kept s) (lane : Nat) : KeptBy (execLanePick lane s) := by
  refine event (Kept.ite h ?_)
  have hroused := Kept.foldl (f := fun (s : State) p => s.rouse p) (fun _ p hu => hu.rouse p) (s.onLane lane) h
  exact Kept.withCur (Kept.foldl (fun _ p hu => hu.onParty ..) _ (Kept.foldl (fun _ p hu => hu.onParty ..) _ hroused)) _

theorem trapEntry (h : Kept s) (p : Nat) : KeptBy (execTrapEntry p s) := by
  refine event ?_
  split
  · exact h
  · split
    · exact h
    · exact Kept.ite h (h.takeTrap ..)

theorem napTimeout (h : Kept s) (p : Nat) : KeptBy (execNapTimeout p s) := by
  refine event ?_
  split
  · exact h
  · split
    · exact Kept.ite (h.setParty ..) h
    · exact h

theorem watchdogExpiry (h : Kept s) (p : Nat) : KeptBy (execWatchdogExpiry p s) := by
  refine event ?_
  split
  · exact h
  · refine Kept.ite h ?_
    split
    · exact h
    · next ht => exact ((h.watchdogAt _ _ ht).onParty ..).takeTrap ..

theorem debugHalt (h : Kept s) (p : Nat) : KeptBy (execDebugHalt p s) := by
  refine event ?_
  split
  · exact h
  · exact Kept.ite h ((h.setParty ..).notify _)

end KeptBy

end Sys2Proof.Proofs
end

section
/-! PROOFS. Firmware's commands, resets, and lodgings saved, restored and moved keep the invariant (O59). -/

namespace Sys2Proof.Proofs

open Sys2Proof Sys2Proof.Machine Sys2Proof.Says

namespace Kept

variable {s : State}

/-! ### Windows, pins and blocks -/

theorem resealRange (h : Kept s) (base len : Nat) : Kept (s.resealRange base len) := h.of_keeps (.resealRange ..)

theorem closeWindow (h : Kept s) (w : Nat) : Kept (s.closeWindow w) := h.of_keeps (.closeWindow ..)

theorem closeWindows (h : Kept s) (ws : List Nat) : Kept (s.closeWindows ws) := h.of_keeps (.closeWindows ..)

theorem unpin (h : Kept s) (line : Nat) : Kept (s.unpin line) := by
  unfold State.unpin
  split
  · exact ite (by exact ite (h.lineWrite line) h) h
  · exact h

theorem newLodging (h : Kept s) (fe : Nat) (d : DWord) : Kept (s.newLodging fe d) := h

theorem zeroBlock (h : Kept s) (b : Nat) (o : Owner) : Kept { s with mem := (s.mem.zeroBlock b).setOwners [b] o } :=
  { h with memory := zeroBlock_wf b h.memory }

/-! ### Lodgings -/

theorem collect (h : Kept s) (fe : Nat) : Kept (s.collect fe).2 := h

theorem leaveCores (h : Kept s) (fe : Nat) : Kept (s.leaveCores fe) := foldl (fun _ e hu => hu.removeCrew e.1) _ h

theorem failStream (h : Kept s) (fe code skip : Nat) (packet : DWord) : Kept (s.failStream fe code skip packet) := h

theorem loseLodging (h : Kept s) (fe code : Nat) : Kept (s.loseLodging fe code) := by
  unfold State.loseLodging
  exact ((((h.collect fe).onLod ..).failStream ..).log ..).msix ..

theorem save (h : Kept s) (fe : Nat) : Kept (s.save fe) := by
  unfold State.save
  split
  · exact loseLodging (by exact h) ..
  · exact (foldl (fun _ k hu => hu.unpin k) _ ((h.leaveCores fe).collect fe)).onLod ..

theorem returnCore (h : Kept s) (fe c : Nat) (k : Core) : Kept (s.returnCore fe c k) := ite (h.onCore ..) (h.onCore ..)

theorem putBack (h : Kept s) (fe : Nat) (i : Image) : Kept (s.putBack fe i) := by
  unfold State.putBack
  extract_lets parties s₁ s₂ s₃ s₄ put src s₅
  have h₁ : Kept s₁ := h
  have h₂ : Kept s₂ := foldl (fun _ e hu => hu.returnCore ..) _ h₁
  have h₃ : Kept s₃ := foldl (fun _ e hu => hu.onBank ..) _ h₂
  have h₄ : Kept s₄ := foldl (fun _ e hu => hu.onQuad ..) _ h₃
  have h₅ : Kept s₅ := h₄
  exact h₅.onLod ..

theorem restore (h : Kept s) (fe : Nat) : Kept (s.restore fe) := by
  unfold State.restore
  split
  · exact h
  · exact ite (h.putBack ..) h

/-! ### Resets -/

theorem resetLodging (h : Kept s) (fe : Nat) : Kept (s.resetLodging fe) := h.of_keeps (.resetLodging ..)

/-- The device restarts with the cap and the pool of R351. -/
theorem restart (h : Kept s) : Kept s.restart := by
  obtain ⟨hmem, hhost, hlog, -, -, -⟩ := h
  exact ⟨hmem, hhost, hlog, (by decide : 1200 ≤ 3200), (by decide : 3200 ≤ 3200), (by decide : 1024 ≤ 1024)⟩

theorem resetLodgings (h : Kept s) (fes : List Nat) : Kept (fes.foldl (fun (s : State) fe => s.resetLodging fe) s) :=
  foldl (fun _ fe hu => hu.resetLodging fe) fes h

theorem warm (h : Kept s) : Kept s.warm := (h.resetLodgings s.frontEnds).restart

theorem saveAll (h : Kept s) : Kept s.saveAll := foldl (fun _ fe hu => ite (hu.save fe) hu) _ h

theorem restoreAll (h : Kept s) (fes : List Nat) : Kept (fes.foldl (fun (s : State) fe => s.restore fe) s) := foldl (fun _ fe hu => hu.restore fe) fes h

theorem toHbm (h : Kept s) : Kept s.toHbm := by
  unfold State.toHbm
  extract_lets inside lines m u
  have hu : Kept u := h
  exact foldl (fun _ _ hv => by exact hv) _ hu

theorem onCaravan (h : Kept s) (c : Nat) (f : Caravan → Caravan) : Kept (s.onCaravan c f) := by
  unfold State.onCaravan
  split
  · exact h
  · exact h

theorem poolBound_le {cap : Nat} (h : cap ≤ 3200) : poolBound cap ≤ 1024 := by
  unfold poolBound
  omega

end Kept

namespace KeptBy

variable {s : State}

/-! ### Firmware's commands -/

theorem winOpen (h : Kept s) (q : WinRequest) : KeptBy (execWinOpen q s) := by
  refine event (Kept.ite h ?_)
  split
  · exact h
  · exact Kept.resealRange (by exact h) ..

theorem lodgingDescriptorWrite (h : Kept s) (fe : Nat) (d : DWord) : KeptBy (execLodgingDescriptorWrite fe d s) :=
  event (Kept.ite h (Kept.ite (Kept.ite ((h.closeWindows _).onLod ..) (h.onLod ..)) (Kept.ite h (Kept.ite (h.onLod ..) (h.newLodging ..)))))

theorem blockAssign (h : Kept s) (b : Nat) (o : Owner) : KeptBy (execBlockAssign b o s) := event (Kept.ite h (h.zeroBlock ..))

theorem libraryInstall (h : Kept s) (fe : Nat) (base : DWord) (prio : BitVec 4) : KeptBy (execLibraryInstall fe base prio s) :=
  event (Kept.ite h (h.onLod ..))

theorem cellarPin (h : Kept s) (fe base len : Nat) : KeptBy (execCellarPin fe base len s) := event (Kept.ite h (by exact h))

theorem cellarUnpin (h : Kept s) (fe base len : Nat) : KeptBy (execCellarUnpin fe base len s) := event (Kept.foldl (fun _ k hu => hu.unpin k) _ h)

theorem attestationReport (h : Kept s) (fe : Nat) (nonce : BitVec 256) : KeptBy (execAttestationReport fe nonce s) := event (Kept.ite h (h.onLod ..))

/-! ### Saving, restoring and resets -/

theorem preemption (h : Kept s) (fe : Nat) : KeptBy (execPreemption fe s) := event (Kept.ite (h.save fe) h)

theorem lodgingRestore (h : Kept s) (fe : Nat) : KeptBy (execLodgingRestore fe s) := event (Kept.ite (h.restore fe) h)

theorem functionLevelReset (h : Kept s) (fe : Nat) : KeptBy (execFunctionLevelReset fe s) := event (Kept.ite h (h.resetLodging fe))

theorem coldReset (h : Kept s) : KeptBy (execColdReset s) :=
  event ⟨rfl, h.host, (by decide : 0 ≤ 4096), (by decide : 1200 ≤ 3200), (by decide : 3200 ≤ 3200), (by decide : 1024 ≤ 1024)⟩

theorem firmwareBoot (h : Kept s) : KeptBy (execFirmwareBoot s) := by
  refine event (Kept.ite h ?_)
  dsimp only
  split
  · exact h
  · exact Kept.foldl (fun _ fe hu => (hu.resetLodging fe).onLod ..) _ h

theorem recoveryImage (h : Kept s) (image : FwImage) : KeptBy (execRecoveryImage image s) := by
  have hdone : ∀ u, Kept u → Kept ((u.onPkg fun k => { k with mailboxDone := k.mailboxDone + 1 }).msix 0 7) := fun u hu => hu
  exact event (Kept.ite (hdone _ (Kept.warm (by exact h))) (hdone s h))

theorem fullServiceTransition (h : Kept s) : KeptBy (execFullServiceTransition s) := by
  refine event (Kept.ite h ?_)
  split
  · exact Kept.log (by exact h) ..
  · refine Kept.ite h (Kept.restoreAll (Kept.foldl (fun _ fe hu => hu.onLod ..) _ ?_) _)
    exact h.saveAll.toHbm

theorem innkeeperMismatch (h : Kept s) : KeptBy (execInnkeeperMismatch s) := by
  refine event (Kept.ite (Kept.ite h (Kept.restart (Kept.foldl (fun _ fe hu => hu.failStream ..) _ ?_))) ?_)
  · exact (h.log ..).saveAll
  · exact h.log 0x42 0xFF 0 0

theorem regionTagLoss (h : Kept s) (slice set : Nat) : KeptBy (execRegionTagLoss slice set s) :=
  event ((Kept.foldl (fun _ fe hu => hu.loseLodging ..) _ h).log ..)

/-! ### Caravans and migration -/

theorem caravanSliceStart (h : Kept s) (c : Nat) : KeptBy (execCaravanSliceStart c s) := by
  refine event ?_
  split
  · exact h
  · next x _ =>
    refine Kept.ite h ?_
    extract_lets here f u
    have hu : Kept u := h
    clear_value u
    have hsaved : ∀ fes : List Nat, Kept (fes.foldl (fun (s : State) fe => s.save fe) u) := fun fes => Kept.foldl (fun _ fe hv => hv.save fe) fes hu
    refine Kept.ite ?_ (Kept.ite (hu.onCaravan ..) (Kept.log (by exact hu.restoreAll _) ..))
    exact Kept.onCaravan (Kept.ite ((hsaved _).restore _) (hsaved _)) ..

theorem caravanSliceEnd (h : Kept s) (c : Nat) : KeptBy (execCaravanSliceEnd c s) := by
  refine event ?_
  split
  · exact h
  · exact Kept.ite h (((Kept.ite (h.save _) h).restoreAll _).onCaravan ..)

theorem caravanMemberLoss (h : Kept s) (c : Nat) : KeptBy (execCaravanMemberLoss c s) := by
  refine event ?_
  split
  · exact h
  · next x _ =>
    refine Kept.ite h ?_
    extract_lets f u p
    have hu : Kept u := h
    clear_value u
    split
    · exact hu
    · refine Kept.ite (hu.consumeError ..) (Kept.foldl (fun v q hv => ?_) _ hu)
      split
      · exact (hv.setParty ..).takeTrap ..
      · exact hv

theorem migration (h : Kept s) (fe : Nat) (report : Report) : KeptBy (execMigration fe report s) := by
  refine event (Kept.ite h ?_)
  have hsaved : Kept (if (s.lod fe).st == .running then s.save fe else s) := Kept.ite (h.save fe) h
  generalize (if (s.lod fe).st == .running then s.save fe else s) = u at hsaved
  exact Kept.ite hsaved (Kept.msix (Kept.spend (by exact hsaved) ..) ..)

theorem passportAccept (h : Kept s) (fe : Nat) (p : Passport) : KeptBy (execPassportAccept fe p s) := by
  refine event ?_
  dsimp only
  split
  · exact h.msix ..
  · next x _ =>
    refine Kept.ite (h.msix ..) ?_
    split
    · exact h.msix ..
    · refine Kept.ite (h.msix ..) (Kept.msix (Kept.putBack (Kept.onLod ?_ ..) ..) ..)
      have hbytes : ∀ (bs m : Sparse Byte), Memory.wf m = true → Memory.wf (bs.foldl (fun st (b : Nat × Byte) => sset 0 st b.1 b.2) m) = true := by
        intro bs
        induction bs with
        | nil => exact fun m hm => hm
        | cons b bs ih => exact fun m hm => ih _ (swf_sset hm)
      exact { h with memory := hbytes x.bytes s.mem.bytes h.memory }

theorem restoreAcknowledged (h : Kept s) (fe : Nat) : KeptBy (execRestoreAcknowledged fe s) := by
  have hzero : ∀ (bs : List Nat) (m : Mem), Memory.wf m.bytes = true → Memory.wf m.host = true →
      Memory.wf (bs.foldl (fun (m : Mem) b => m.zeroBlock b) m).bytes = true ∧ Memory.wf (bs.foldl (fun (m : Mem) b => m.zeroBlock b) m).host = true := by
    intro bs
    induction bs with
    | nil => exact fun m hm hh => ⟨hm, hh⟩
    | cons b bs ih => exact fun m hm hh => ih _ (zeroBlock_wf b hm) hh
  refine event (Kept.ite h (Kept.onLod ?_ ..))
  obtain ⟨hmem, hhost⟩ := hzero ((s.mem.owner.filter fun e => e.2 == .key fe).map fun e => e.1) s.mem h.memory h.host
  exact { h with memory := hmem, host := hhost }

/-! ### Ports and power -/

theorem portFailure (h : Kept s) (port : Nat) : KeptBy (execPortFailure port s) := event (Kept.ite h (Kept.log (by exact h) ..))

theorem failedFlit (h : Kept s) (port : Nat) : KeptBy (execFailedFlit port s) := event (Kept.ite h (by exact h))

/-- A cap within its limits is taken with a pool within its bound (R398). -/
theorem powerCap (h : Kept s) (watts : BitVec 16) : KeptBy (execPowerCap watts s) := by
  refine event ?_
  split
  · exact h
  · next hw =>
    have hin : ¬ (watts.toNat < 1200 ∨ 3200 < watts.toNat) := by simpa using hw
    have hbound : poolBound watts.toNat ≤ 1024 := Kept.poolBound_le (by omega)
    refine { h with capLow := (by omega : 1200 ≤ watts.toNat), capHigh := (by omega : watts.toNat ≤ 3200), pool := ?_ }
    show (if s.pkg.lowering then min s.pkg.pool (poolBound watts.toNat) else poolBound watts.toNat) ≤ 1024
    split
    · exact (Nat.min_le_right ..).trans hbound
    · exact hbound

/-- A sample lowers the pool, or raises it to its bound (R398). -/
theorem powerSample (h : Kept s) (watts average : Nat) : KeptBy (execPowerSample watts average s) := by
  have hbound : poolBound s.pkg.cap ≤ 1024 := Kept.poolBound_le h.capHigh
  have hpool := h.pool
  refine event { h with pool := ?_ }
  show (if s.pkg.cap < average || (s.pkg.lowering && s.pkg.cap ≤ average) then s.pkg.pool - 32 else min (poolBound s.pkg.cap) (s.pkg.pool + 32)) ≤ 1024
  split
  · omega
  · exact (Nat.min_le_left ..).trans hbound

end KeptBy

end Sys2Proof.Proofs
end

section
/-! PROOFS. The front ends' packets keep the invariant (O59). -/

namespace Sys2Proof.Proofs

open Sys2Proof Sys2Proof.Machine Sys2Proof.Says

namespace Kept

variable {s : State}

/-! ### What front ends read and write -/

theorem feWrite (h : Kept s) (fe : Nat) (va : DWord) (bs : List Byte) : Kept (s.feWrite fe va bs) := by
  induction bs generalizing s va with
  | nil => exact h
  | cons b bs ih =>
    unfold State.feWrite
    split
    · exact ih (h.storeN ..) _
    · exact ih h _

theorem feTake (h : Kept s) (fe : Nat) (va : DWord) (n : Nat) {r : List Byte × State} (hr : s.feTake fe va n = some r) : Kept r.2 := by
  unfold State.feTake at hr
  split at hr
  · cases hr
  · split at hr
    · next hq => exact Option.some.inj hr ▸ ofPair (h.readLines ..) hq
    · next hq =>
      have hu := ofPair (h.readLines ..) hq
      obtain rfl := Option.some.inj hr
      exact hu

theorem fetchAhead (h : Kept s) (fe : Nat) (a : DWord) : Kept (s.fetchAhead fe a) := by
  unfold State.fetchAhead
  refine ite h ?_
  split
  · exact h
  · exact h.onStream ..

/-! ### Packets -/

theorem onPacket (h : Kept s) (n : Nat) (f : Packet → Packet) : Kept (s.onPacket n f) := by
  unfold State.onPacket
  split
  · exact h
  · exact h

theorem settlePackets (h : Kept s) : Kept s.settlePackets := h

theorem failStart (h : Kept s) (fe code bytes : Nat) : Kept (s.failStart fe code bytes) := h.failStream ..

theorem failCur (h : Kept s) (fe n : Nat) (k : Packet) (code bytes : Nat) : Kept (s.failCur fe n k code bytes) :=
  failStream (onStream (by exact h) ..) ..

theorem finishPacket (h : Kept s) (n : Nat) (k : Packet) : Kept (s.finishPacket n k) := by
  unfold State.finishPacket
  exact settlePackets (ite (by exact h) (by exact h))

theorem started (h : Kept s) (fe n : Nat) (k : Packet) : Kept (s.started fe n k) := by
  unfold State.started
  refine ite ((h.onPacket ..).onStream ..) ?_
  split
  · exact h.failCur ..
  · exact (h.onPacket ..).onStream ..

theorem nextPass (h : Kept s) (fe : Nat) (l : StreamLoop) : Kept (s.nextPass fe l) :=
  ite (h.onStream ..) ((h.onStream ..).onPacket ..).settlePackets

theorem startPacket (h : Kept s) (fe : Nat) : Kept (s.startPacket fe) := by
  unfold State.startPacket
  extract_lets st f
  split
  · exact h.failStart ..
  · extract_lets n as ahead u g src
    refine ite (h.failStart ..) ?_
    split
    · exact h.failStart ..
    · split
      · exact h.failStart ..
      · extract_lets k v w
        have hu : Kept u := foldl (fun _ a hv => hv.fetchAhead fe a) _ h
        have hv : Kept v := hu
        have hw : Kept w := hv.onStream ..
        exact ite hw (hw.started ..)

theorem fillDone (h : Kept s) (fe : Nat) (word : DWord) {t : State} (ht : s.fillDone fe word = some t) : Kept t := by
  unfold State.fillDone at ht
  split at ht
  · exact Option.some.inj ht ▸ h
  · split at ht
    · cases ht
    · exact Option.some.inj ht ▸ fill (s := s.freeWord.2.freeWord.2) h ..

/-! ### The agent area (R389) -/

theorem freeRecords (h : Kept s) (fe : Nat) (hs : List Nat) {t : State} (ht : s.freeRecords fe hs = some t) : Kept t := by
  induction hs generalizing s with
  | nil => exact Option.some.inj ht ▸ h
  | cons a as ih =>
    unfold State.freeRecords at ht
    split at ht
    · cases ht
    · exact ih (((h.zeroRange ..).setRec ..).setRec ..) ht

theorem freeChains (h : Kept s) (fe hmax : Nat) (qs : List Nat) {t : State} (ht : s.freeChains fe hmax qs = some t) : Kept t := by
  induction qs generalizing s with
  | nil => exact Option.some.inj ht ▸ h
  | cons q qs ih =>
    unfold State.freeChains at ht
    dsimp only at ht
    split at ht
    · cases ht
    · next hu => exact ih ((h.freeRecords fe _ hu).onLod ..) ht

theorem freeBlocks (h : Kept s) (fe : Nat) (va : DWord) (n : Nat) {t : State} (ht : s.freeBlocks fe va n = some t) : Kept t := by
  induction n generalizing s va with
  | zero => exact Option.some.inj ht ▸ h
  | succ n ih =>
    unfold State.freeBlocks at ht
    split at ht
    · cases ht
    · exact ih (h.storeN ..) _ ht

theorem given (h : Kept s) (g : Given) : Kept (s.given g) := by
  cases g with
  | root fe two t => exact ite (h.onLod ..) (h.onLod ..)
  | watchdog fe ns => exact ite h (h.onLod ..)
  | hostByte a b => exact { h with host := swf_sset h.host }
  | contribution c r bs =>
    unfold State.given
    dsimp only
    split
    · exact h
    · exact h
  | budget | pod | group | caravan | message | stream => exact h

theorem ofOk (h : Kept s) {b : Bool} {r : State × Bool} (hr : (.ok (s, b) : Except Nat (State × Bool)) = .ok r) : Kept r.1 :=
  Except.ok.inj hr ▸ h

end Kept

namespace KeptBy

variable {s : State}

/-! ### What the host writes -/

theorem msixUnmask (h : Kept s) (fe v : Nat) : KeptBy (execMsixUnmask fe v s) := event (Kept.ite h (h.onStream ..))

theorem doorbell (h : Kept s) (fe : Nat) (tail : DWord) : KeptBy (execDoorbell fe tail s) := event (Kept.ite h (h.onStream ..))

theorem barRegisterWrite (h : Kept s) (fe off : Nat) (value : DWord) : KeptBy (execBarRegisterWrite fe off value s) :=
  event (Kept.ite h (Kept.ite (Kept.ite h (h.onStream ..)) (Kept.ite (Kept.ite h (h.onStream ..)) (Kept.ite (by exact h)
    (Kept.ite (h.onStream ..) (Kept.ite (h.onStream ..) h))))))

theorem statusResume (h : Kept s) (fe : Nat) : KeptBy (execStatusResume fe s) := event (Kept.ite h (h.onStream ..))

/-! ### Packets and their dependences -/

theorem packetStart (h : Kept s) (fe : Nat) : KeptBy (execPacketStart fe s) := by
  refine event (Kept.ite h ?_)
  split
  · exact Kept.ite (h.nextPass ..) (Kept.ite (Kept.failStream (Kept.onStream (by exact h) ..) ..) (h.startPacket fe))
  · refine Kept.ite (h.startPacket fe) ?_
    split
    · exact h
    · exact ((h.onStream ..).onPacket ..).settlePackets

theorem packetWait (h : Kept s) (fe : Nat) : KeptBy (execPacketWait fe s) := by
  refine event ?_
  split
  · exact h
  · split
    · exact h
    · refine Kept.ite h ?_
      split
      · split
        · exact h.failCur ..
        · split
          · exact (h.dropReq _).started ..
          · exact h
      · split
        · exact h.failCur ..
        · exact Kept.ite ((h.setFull ..).started ..) (Kept.onStream (Kept.onPacket (by exact h) ..) ..)

theorem blockedOnDependence (h : Kept s) (fe : Nat) : KeptBy (execBlockedOnDependence fe s) := by
  refine event ?_
  split
  · exact Kept.ite h (by exact h)
  · exact h

theorem packetSignal (h : Kept s) (n : Nat) : KeptBy (execPacketSignal n s) := by
  refine event ?_
  split
  · exact h
  · next k _ =>
    refine Kept.ite h (Kept.ite (h.finishPacket ..) ?_)
    split
    · exact h
    · have hdropped : Kept (match k.waitReq with | some q => s.dropReq q | none => s) := by
        split
        · exact h.dropReq _
        · exact h
      exact Kept.ite ((hdropped.fill ..).finishPacket ..) (Kept.ite h (Kept.onPacket (by exact h) ..))

/-! ### Bodies -/

theorem ite {c : Prop} [Decidable c] {a b : Host.Outcome State Fault Refusal} (ha : KeptBy a) (hb : KeptBy b) : KeptBy (if c then a else b) := by
  split
  · exact ha
  · exact hb

theorem body (h : Kept s) (fe op : Nat) {go : Nat → Packet → Except Nat (State × Bool)} (hgo : ∀ n k r, go n k = .ok r → Kept r.1) :
    KeptBy (s.body fe op go) := by
  refine event ?_
  split
  · exact h
  · split
    · exact h
    · refine Kept.ite h ?_
      split
      · exact h.failCur ..
      · next ht => exact ((hgo _ _ _ ht).onPacket ..).onStream ..

theorem nopPacket (h : Kept s) (fe : Nat) : KeptBy (execNopPacket fe s) := body h _ _ fun _ _ _ hr => h.ofOk hr

theorem grid (h : Kept s) (fe : Nat) : KeptBy (execGrid fe s) := by
  refine body h _ _ fun n k r hr => ?_
  split at hr
  · cases hr
  · exact (h.onLod ..).ofOk hr

theorem copy (h : Kept s) (fe : Nat) : KeptBy (execCopy fe s) := by
  refine body h _ _ fun n k r hr => ?_
  dsimp only at hr
  split at hr
  · split at hr
    · exact (h.feWrite ..).ofOk hr
    · cases hr
  · split at hr
    · cases hr
    · next bs u hu =>
      have hu : Kept u := h.feTake _ _ _ hu
      have hcopied : ∀ a, Kept { u with mem := { u.mem with host := setBytes u.mem.host a bs } } := fun a =>
        { hu with host := setBytes_wf a bs hu.host }
      exact (hcopied _).ofOk hr

theorem ib (h : Kept s) (fe : Nat) : KeptBy (execIb fe s) := by
  refine body h _ _ fun n k r hr => ?_
  dsimp only at hr
  split at hr
  · cases hr
  · exact (h.onStream ..).ofOk hr

theorem loopPacket (h : Kept s) (fe : Nat) : KeptBy (execLoopPacket fe s) := by
  refine body h _ _ fun n k r hr => ?_
  dsimp only at hr
  split at hr
  · cases hr
  · exact (h.onStream ..).ofOk hr

theorem ffence (h : Kept s) (fe : Nat) : KeptBy (execFfence fe s) := body h _ _ fun _ _ _ hr => (h.onStream ..).ofOk hr

theorem inval (h : Kept s) (fe : Nat) : KeptBy (execInval fe s) := by
  refine body h _ _ fun n k r hr => ?_
  extract_lets stage target at hr
  split at hr
  · cases hr
  · split at hr
    · cases hr
    · exact Kept.ofOk (by exact h) hr

theorem coll (h : Kept s) (fe : Nat) : KeptBy (execColl fe s) := by
  refine body h _ _ fun n k r hr => ?_
  extract_lets g op ty root len ms out at hr
  split at hr
  · cases hr
  · split at hr
    · next hu _ =>
      have hv := h.feTake _ _ _ hu
      split at hr
      · cases hr
      · exact Kept.ofOk (by exact hv) hr
    · cases hr

theorem msg (h : Kept s) (fe : Nat) : KeptBy (execMsg fe s) := by
  refine body h _ _ fun n k r hr => ?_
  split at hr
  · cases hr
  · next hu =>
    have hv := h.feTake _ _ _ hu
    exact Kept.ofOk (by exact hv) hr

theorem regionCreate (h : Kept s) (fe : Nat) : KeptBy (execRegionCreate fe s) := by
  refine ite (event h) (body h _ _ fun n k r hr => ?_)
  dsimp only at hr
  split at hr
  · cases hr
  · split at hr
    · cases hr
    · have hfree : Kept s.freeWord.2 := h
      exact Kept.ofOk (by exact hfree.storeN ..) hr

theorem regionDestroy (h : Kept s) (fe : Nat) : KeptBy (execRegionDestroy fe s) := by
  refine ite (event h) (body h _ _ fun n k r hr => ?_)
  split at hr
  · cases hr
  · dsimp only at hr
    split at hr
    · cases hr
    · exact Kept.ofOk (by exact h) hr

theorem agents (h : Kept s) (fe : Nat) : KeptBy (execAgents fe s) := by
  refine body h _ _ fun n k r hr => ?_
  dsimp only at hr
  split at hr
  · cases hr
  · split at hr
    · cases hr
    · next hc =>
      split at hr
      · cases hr
      · next hb => exact ((Kept.freeChains (h.onLod ..) _ _ _ hc).freeBlocks _ _ _ hb).ofOk hr

/-! ### Work that completes later -/

theorem pageWalk (h : Kept s) (quad fe : Nat) (va : DWord) : KeptBy (execPageWalk quad fe va s) := by
  refine event (Kept.ite h ?_)
  split
  · exact h
  · exact h.onQuad ..

theorem invalidationArrival (h : Kept s) (inv quad : Nat) : KeptBy (execInvalidationArrival inv quad s) := by
  refine event ?_
  split
  · exact h
  · exact Kept.ite h (by exact h)

theorem invalidationComplete (h : Kept s) (inv : Nat) : KeptBy (execInvalidationComplete inv s) := by
  refine event ?_
  split
  · exact h
  · refine Kept.ite h ?_
    split
    · exact h
    · next ht =>
      have hu := h.fillDone _ _ ht
      exact Kept.onPacket (by exact hu) ..

theorem collectiveComplete (h : Kept s) (c : Nat) : KeptBy (execCollectiveComplete c s) := by
  refine event ?_
  split
  · exact h
  · refine Kept.ite h ?_
    dsimp only
    split
    · exact h
    · next ht =>
      have hu := ((h.feWrite ..).spend ..).fillDone _ _ ht
      exact Kept.onPacket (by exact hu) ..

theorem messageReceive (h : Kept s) (message : Nat) : KeptBy (execMessageReceive message s) := by
  refine event ?_
  split
  · exact h
  · refine Kept.ite (by exact h) ?_
    split
    · exact h
    · next ht =>
      have hu := (h.feWrite ..).fillDone _ _ ht
      exact hu

end KeptBy

end Sys2Proof.Proofs
end

section
/-! PROOFS. The words that no shared executor covers, and the steps of lines, keep the invariant (O59). -/

namespace Sys2Proof.Proofs

open Sys2Proof Sys2Proof.Machine Sys2Proof.Says

namespace KeptBy

variable {s : State}

/-! ### Registers and masks -/

theorem movi (h : Kept s) (m : Mods) (d : Reg) (imm : BitVec 14) : KeptBy (execMovi m d imm s) := by
  unfold execMovi
  cases d with
  | s n => exact issue fun _ _ => h
  | v n => exact vecOp h

theorem bcast (h : Kept s) (m : Mods) (d a : Reg) (b : Src) : KeptBy (execBcast m d a b s) := by
  unfold execBcast
  cases d with
  | s n => exact issue fun _ _ => h.alloc (h.setParty ..) ..
  | v n => exact vecOp h

theorem cmpr (h : Kept s) (m : Mods) (d a : Reg) : KeptBy (execCmpr m d a s) := by
  cases d with
  | s n => exact issue fun _ _ => h
  | v n => exact issue fun _ _ => h.alloc (h.setParty ..) ..

theorem gather (h : Kept s) {m : Mods} {d a : Reg} {f : Party → Nat → List Nat → List Word × FpFlags × Word} : KeptBy (s.gather m d a f) := by
  refine issue fun p x => h.alloc ?_ ..
  cases d with
  | s n => exact Kept.ite h (h.setParty ..)
  | v n => exact h.setParty ..

theorem indexed (h : Kept s) {go : State} (hgo : Kept go) (p : Nat) (x : Party) (m : Mods) (a : Reg) : Kept (s.indexed p x m a go) := by
  unfold State.indexed
  split
  · exact hgo
  · exact h.raiseHere ..

theorem ixr (h : Kept s) (m : Mods) (d a : Reg) : KeptBy (execIxr m d a s) := by
  cases d with
  | s n => exact issue fun _ _ => h
  | v n => exact issue fun _ _ => h.alloc (indexed h (h.setParty ..) ..) ..

theorem ixw (h : Kept s) (m : Mods) (a : Reg) (b : Src) : KeptBy (execIxw m a b s) :=
  issue fun _ _ => h.alloc (indexed h (h.setParty ..) ..) ..

theorem win (h : Kept s) (m : Mods) (b : Src) : KeptBy (execWin m b s) := issue fun _ _ => Kept.ite (h.raiseHere ..) (h.setParty ..)

theorem tid (h : Kept s) (m : Mods) (d : Reg) (b : BitVec 7) : KeptBy (execTid m d b s) := by
  refine issue fun p x => h.alloc ?_ ..
  have hpinned : Kept (if b.toNat = 3 then s.onCrew x.crew (fun c => { c with pinned := true }) else s) := Kept.ite (h.onCrew ..) h
  cases d with
  | s n => exact hpinned.setParty ..
  | v n => exact hpinned.setParty ..

/-! ### Memory words -/

theorem pf (h : Kept s) (m : Mods) (a : Reg) (b : Off) : KeptBy (execPf m a b s) := by
  refine issue fun p x => h.alloc (Kept.foldl (fun u t hu => ?_) _ h) ..
  split
  · exact hu.prefetch _
  · exact hu

theorem fence (h : Kept s) (m : Mods) : KeptBy (execFence m s) :=
  issue fun _ _ => h.deliverFp (h.narrow (fun _ hu => hu.whenSynced (hu.endSync ..) ..) ..) ..

theorem nap (h : Kept s) (m : Mods) (a : Reg) (b : Src) : KeptBy (execNap m a b s) :=
  access h _ _ _ _ _ fun _ _ _ => Kept.ite h (h.whenSynced ((h.endSync ..).onParty ..) ..)

/-! ### Control flow -/

theorem brx (h : Kept s) (m : Mods) (d : BitVec 7) (a b : Reg) : KeptBy (execBrx m d a b s) :=
  issue fun _ _ => h.alloc (Kept.ite (h.setParty ..) (h.raiseHere ..)) ..

theorem call (h : Kept s) (m : Mods) (off : BitVec 21) : KeptBy (execCall m off s) := issue fun _ _ => h.callTo ..

theorem callX (h : Kept s) (m : Mods) (a : Reg) : KeptBy (execCallX m a s) := issue fun _ _ => h.alloc (h.callTo ..) ..

theorem ret (h : Kept s) (m : Mods) : KeptBy (execRet m s) := issue fun _ _ => Kept.ite (h.setParty ..) (h.raiseHere ..)

theorem div (h : Kept s) (m : Mods) (off : BitVec 18) : KeptBy (execDiv m off s) := issue fun _ _ => Kept.ite (h.raiseHere ..) (h.setParty ..)

theorem join (h : Kept s) (m : Mods) : KeptBy (execJoin m s) := issue fun _ _ => Kept.ite (h.setParty ..) (h.raiseHere ..)

theorem exit (h : Kept s) (m : Mods) : KeptBy (execExit m s) :=
  issue fun _ _ => Kept.endRegions (Kept.setParty (Kept.foldl (fun _ t hu => hu.endRequest ..) _ h) ..) ..

theorem syncP (h : Kept s) (m : Mods) (a : Reg) : KeptBy (execSyncP m a s) :=
  issue fun _ _ => h.alloc (Kept.ite (h.whenSynced ((h.setParty ..).endRegions ..) ..) (h.raiseHere ..)) ..

theorem idem (h : Kept s) (m : Mods) : KeptBy (execIdem m s) := issue fun _ _ => h.setParty ..

theorem loop (h : Kept s) (m : Mods) (c : BitVec 3) (off : BitVec 18) : KeptBy (execLoop m c off s) := issue fun _ _ => h.setParty ..

theorem barArr (h : Kept s) (m : Mods) (scope : BitVec 3) (num : BitVec 4) : KeptBy (execBarArr m scope num s) :=
  barrier h _ _ _ fun _ _ _ => Kept.ite (h.raiseHere ..) (h.arriveOrdinary ..)

theorem barArrRlx (h : Kept s) (m : Mods) (scope : BitVec 3) (num : BitVec 4) : KeptBy (execBarArrRlx m scope num s) :=
  barrier h _ _ _ fun _ _ _ => Kept.ite (h.raiseHere ..) ((h.setParty ..).arrive ..)

theorem barWait (h : Kept s) (m : Mods) (scope : BitVec 3) (num : BitVec 4) : KeptBy (execBarWait m scope num s) := by
  refine barrier h _ _ _ fun p x b => ?_
  split
  · exact h.raiseHere ..
  · exact Kept.ite (h.parkAt ..) (h.barrierDone ..)

theorem barSync (h : Kept s) (m : Mods) (scope : BitVec 3) (num : BitVec 4) : KeptBy (execBarSync m scope num s) :=
  barrier h _ _ _ fun _ _ _ => Kept.ite (h.raiseHere ..) ((h.arriveOrdinary ..).parkAt ..)

theorem barrierArrivalCount (h : Kept s) (n : Nat) : KeptBy (execBarrierArrivalCount n s) := by
  refine event ?_
  split
  · exact h
  · split
    · exact h
    · refine Kept.ite h ?_
      split
      · exact h
      · exact Kept.arrive (by exact h) ..

/-! ### Tiles and the Porter -/

theorem tileClaim (h : Kept s) (m : Mods) (d : Reg) (b : Src) : KeptBy (execTileClaim m d b s) := by
  refine engine h fun u p x c hu => Kept.ite (hu.refuseCmd ..) ?_
  dsimp only
  split
  · exact hu.giveU ..
  · exact (hu.onCore ..).giveU ..

theorem tileRel (h : Kept s) (m : Mods) (a : SlotRef) (b : Src) : KeptBy (execTileRel m a b s) :=
  engine h fun _ _ _ _ hu => Kept.ite (hu.refuseCmd ..) (Kept.ite (hu.stall _) (hu.onCore ..))

theorem tileSt (h : Kept s) (m : Mods) (d : Reg) (a : SlotRef) : KeptBy (execTileSt m d a s) :=
  engine h fun _ _ _ _ hu => Kept.ite (hu.refuseCmd ..) (hu.giveU ..)

theorem cpIn (h : Kept s) (m : Mods) (d a : Reg) (b : Src) : KeptBy (execCpIn m d a b s) :=
  engine h fun _ _ _ _ hu => Kept.ite (hu.refuseCmd ..) (Kept.ite (hu.raiseAddr ..) (Kept.ite (hu.refuseCmd ..)
    (hu.withSlots _ _ _ _ fun _ => hu.queueCp ..)))

theorem cpOut (h : Kept s) (m : Mods) (d a : Reg) (b : Src) : KeptBy (execCpOut m d a b s) :=
  engine h fun _ _ _ _ hu => Kept.ite (hu.refuseCmd ..) (Kept.ite (hu.raiseAddr ..) (Kept.ite (hu.refuseCmd ..)
    (Kept.ite (Kept.ite (hu.refuseCmd ..) (hu.queueCp ..)) (hu.withSlots _ _ _ _ fun _ => Kept.ite (hu.queueCp ..) (hu.refuseCmd ..)))))

theorem cpMem (h : Kept s) (m : Mods) (d a : Reg) (b : Src) : KeptBy (execCpMem m d a b s) :=
  engine h fun _ _ _ _ hu => Kept.ite (hu.refuseCmd ..) (Kept.ite (hu.raiseAddr ..) (Kept.ite (hu.raiseAddr ..) (hu.queueCp ..)))

theorem cpInMx (h : Kept s) (m : Mods) (d a : Reg) (b : Src) : KeptBy (execCpInMx m d a b s) :=
  engine h fun _ _ _ _ hu => Kept.ite (hu.refuseCmd ..) (Kept.ite (hu.raiseAddr ..) (Kept.ite (hu.refuseCmd ..)
    (hu.onCtx _ _ _ _ fun _ _ => hu.withSlots _ _ _ _ fun _ => Kept.ite (hu.refuseCmd ..) (hu.queueCp ..))))

/-! ### Matrix contexts -/

theorem mxMma (h : Kept s) (m : Mods) (d : Fin 2) (a b : SlotRef) : KeptBy (execMxMma m d a b s) :=
  engine h fun _ _ _ _ hu => hu.onCtx _ _ _ _ fun _ _ => hu.withSlots _ _ _ _ fun _ => Kept.ite (hu.refuseCmd ..) (hu.setCore ..)

theorem mxSm (h : Kept s) (m : Mods) (d : Fin 2) (a : SlotRef) (b : Src) : KeptBy (execMxSm m d a b s) :=
  engine h fun _ _ _ _ hu => hu.onCtx _ _ _ _ fun _ _ => Kept.ite (hu.refuseCmd ..) (Kept.ite (hu.refuseCmd ..)
    (hu.withSlots _ _ _ _ fun _ => hu.setCore ..))

theorem mxRd (h : Kept s) (m : Mods) (d : Reg) (a : Fin 2) (b : Src) : KeptBy (execMxRd m d a b s) :=
  engine h fun _ _ _ _ hu => hu.onCtx _ _ _ _ fun _ _ => hu.alloc (Kept.ite (hu.refuseCmd ..) (Kept.ite (hu.refuseCmd ..)
    ((hu.setCore ..).onParty ..))) ..

theorem mxClr (h : Kept s) (m : Mods) (d : Fin 2) : KeptBy (execMxClr m d s) :=
  engine h fun _ _ _ _ hu => hu.onCtx _ _ _ _ fun _ _ => hu.setCore ..

theorem mxCtlClaim (h : Kept s) (m : Mods) (d : Fin 2) : KeptBy (execMxCtlClaim m d s) := by
  refine engine h fun u p x c hu => Kept.ite (hu.refuseCmd ..) ?_
  split
  · exact hu.refuseCmd ..
  · exact Kept.ite (hu.stall _) ((hu.takeTokens _).onCore ..)

theorem mxCtlBind (h : Kept s) (m : Mods) (d : Fin 2) : KeptBy (execMxCtlBind m d s) := by
  refine engine h fun u p x c hu => hu.onCtx _ _ _ _ fun k t => ?_
  split
  · exact hu.refuseCmd ..
  · exact hu.setCore ..

theorem mxCtlRelease (h : Kept s) (m : Mods) (d : Fin 2) : KeptBy (execMxCtlRelease m d s) :=
  engine h fun _ _ _ _ hu => hu.onCtx _ _ _ _ fun _ _ => Kept.ite (hu.setCore ..) (hu.stall _)

/-! ### Timelines, lists and launches -/

theorem tlWait (h : Kept s) (m : Mods) (a : Fin 16) (b : Src) : KeptBy (execTlWait m a b s) := by
  refine engine h fun u p x c hu => Kept.ite (hu.refuseCmd ..) ?_
  dsimp only
  split
  · exact hu.deliverEngine ..
  · exact hu.whenSynced (Kept.ite (hu.endSync ..) (hu.setParty ..)) ..

theorem tlRd (h : Kept s) (m : Mods) (d : Reg) (a : Fin 16) (b : Fin 2) : KeptBy (execTlRd m d a b s) := by
  refine engine h fun u p x c hu => hu.alloc ?_ ..
  dsimp only
  split
  · exact hu.deliverEngine ..
  · cases d with
    | s n => exact hu.giveU ..
    | v n => exact hu.onParty ..

theorem tlInc (h : Kept s) (m : Mods) (d : Reg) (a : Fin 16) (b : Src) : KeptBy (execTlInc m d a b s) :=
  engine h fun _ _ _ _ hu => hu.whenSynced (Kept.ite (hu.stall _) (((hu.endSync ..).onCore ..).giveU ..)) ..

theorem bankCmd (h : Kept s) (m : Mods) (d a : Reg) (b : Src) : KeptBy (execBankCmd m d a b s) :=
  engine h fun _ _ _ _ hu => Kept.ite (hu.refuseCmd ..) (Kept.ite (hu.raiseAddr ..) (((hu.setCore ..).onBank ..).giveU ..))

theorem launch (h : Kept s) (m : Mods) (d : MaskReg) (a : Reg) : KeptBy (execLaunch m d a s) := by
  refine engine h fun u p x c hu => hu.alloc (hu.whenSynced ?_ ..) ..
  have hlaunched := (hu.endSync p (threadsOf x.width x.m0) false).launchAll x (fun t => x.reg64 t a) (threadsOf x.width x.m0)
  dsimp only
  split
  · exact hlaunched.onParty ..
  · exact (hlaunched.onParty ..).onParty ..

theorem recEmit (h : Kept s) (m : Mods) (d a : Reg) (b : Src) : KeptBy (execRecEmit m d a b s) :=
  engine h fun _ _ _ _ hu => hu.alloc (Kept.ite (hu.raiseLane ..) (Kept.foldl (fun _ _ hv => hv.send ..) _ hu)) ..

theorem logApp (h : Kept s) (m : Mods) (d a b : Reg) : KeptBy (execLogApp m d a b s) :=
  engine h fun _ _ _ _ hu => hu.alloc (Kept.ite (hu.raiseLane ..) (hu.sendAll ..)) ..

/-! ### Envelopes -/

theorem envClaim (h : Kept s) (m : Mods) (d : Reg) (b : Src) : KeptBy (execEnvClaim m d b s) := by
  refine engine h fun u p x c hu => Kept.ite (hu.refuseCmd ..) (Kept.ite (hu.stall _) ?_)
  split
  · exact hu.queueEnv ..
  · exact hu.queueEnv ..

theorem envRel (h : Kept s) (m : Mods) (a : EnvRef) (b : Src) : KeptBy (execEnvRel m a b s) :=
  engine h fun _ _ _ _ hu => Kept.ite (hu.refuseCmd ..) (Kept.ite (hu.stall _) (hu.queueEnv ..))

theorem envQueued (h : Kept s) {slots : Party → List Nat} {counted : Bool} {op : Party → EnvOp} {dest : Party → Dest} {after : List Nat} :
    KeptBy (s.envIssue slots fun s p x c k => s.queueEnv p x c k counted (op x) (dest x) after) := envIssue h _ fun _ _ _ _ _ hu => hu.queueEnv ..

theorem envIns (h : Kept s) (m : Mods) (d : EnvRef) (a : Reg) (b : Src) : KeptBy (execEnvIns m d a b s) :=
  envIssue h _ fun _ _ _ _ _ hu => hu.alloc (Kept.ite (hu.raiseHere ..) (hu.queueEnv ..)) ..

theorem envEval (h : Kept s) (m : Mods) (d : Reg) (a : EnvRef) (b : Src) : KeptBy (execEnvEval m d a b s) :=
  envIssue h _ fun _ _ _ _ _ hu => hu.alloc (hu.queueEnv ..) ..

theorem envSlope (h : Kept s) (m : Mods) (d : Reg) (a : EnvRef) (b : Src) : KeptBy (execEnvSlope m d a b s) :=
  envIssue h _ fun _ _ _ _ _ hu => hu.alloc (hu.queueEnv ..) ..

theorem envRd (h : Kept s) (m : Mods) (d : Reg) (a : EnvRef) (b : Src) : KeptBy (execEnvRd m d a b s) :=
  envIssue h _ fun _ _ _ _ _ hu => hu.alloc (Kept.ite (hu.refuseCmd ..) (hu.queueEnv ..)) ..

theorem envCnt (h : Kept s) (m : Mods) (d : Reg) (a : EnvRef) : KeptBy (execEnvCnt m d a s) :=
  envIssue h _ fun _ _ _ _ _ hu => hu.alloc (hu.queueEnv ..) ..

theorem envLd (h : Kept s) (m : Mods) (d : EnvRef) (a : Reg) : KeptBy (execEnvLd m d a s) :=
  envIssue h _ fun _ _ _ _ _ hu => Kept.ite (hu.raiseAddr ..) (hu.queueEnv ..)

theorem envSt (h : Kept s) (m : Mods) (d : EnvRef) (a : Reg) : KeptBy (execEnvSt m d a s) :=
  envIssue h _ fun _ _ _ _ _ hu => Kept.ite (hu.raiseAddr ..) (hu.queueEnv ..)

/-! ### Lines and budgets -/

theorem lineWriteMemory (h : Kept s) (line : Nat) : KeptBy (execLineWriteMemory line s) := by
  refine event ?_
  split
  · exact Kept.ite (h.lineWrite line) h
  · exact h

theorem lineWriteback (h : Kept s) (line : Nat) : KeptBy (execLineWriteback line s) := by
  refine event ?_
  split
  · exact h
  · next c _ =>
    have hclean : Kept (if c.dirty then s.lineWrite line else s) := Kept.ite (h.lineWrite line) h
    exact Kept.ite h (by exact hclean)

theorem lineReadMemory (h : Kept s) (line : Nat) : KeptBy (execLineReadMemory line s) := by
  refine event ?_
  split
  · exact h
  · extract_lets _ m src u
    have hm : m.bytes = s.mem.bytes ∧ m.host = s.mem.host := by
      unfold m
      split
      · exact ⟨rfl, rfl⟩
      · exact ⟨rfl, rfl⟩
      · split
        · exact ⟨rfl, rfl⟩
        · exact ⟨rfl, rfl⟩
    obtain ⟨hbytes, hhost⟩ := hm
    have hu : Kept u := ⟨(congrArg Memory.wf hbytes).trans h.memory, (congrArg Memory.wf hhost).trans h.host, h.logbook, h.capLow, h.capHigh, h.pool⟩
    split
    · exact hu.spend ..
    · exact hu

theorem patrolScrub (h : Kept s) (line : Nat) : KeptBy (execPatrolScrub line s) := by
  refine event (Kept.ite h ?_)
  have hspent := h.spend .scrub 0 1
  generalize s.spend .scrub 0 1 = u at hspent
  have hbad : Kept (match u.upset with
      | .cells => { u with upset := .none, mem := { u.mem with badCells := sset false u.mem.badCells line true } }
      | _ => u) := by
    split
    · exact hspent
    · exact hspent
  exact Kept.ite (hbad.poisonLine ..) hbad

theorem budgetPeriod (h : Kept s) : KeptBy (execBudgetPeriod s) := event (Kept.ite h (by exact h))

end KeptBy

end Sys2Proof.Proofs
end

section
/-! PROOFS. Every instruction, and so every step of the machine, keeps the invariant (O59). -/

namespace Sys2Proof.Proofs

open Sys2Proof Sys2Proof.Machine Sys2Proof.Says

namespace KeptBy

variable {s : State}

/-! ### The operand executors by format -/

section

variable (h : Kept s) {m : Mods} {d a : Reg} {b c : Src} {mask : MaskReg} {regs : List (Reg × Nat)}

include h

theorem alu1 {f : Word → Word} : KeptBy (s.alu1 m d a f) := vecOp h

theorem alu2 {f : Word → Word → Word} : KeptBy (s.alu2 m d a b f) := vecOp h

theorem alu3 {f : Word → Word → Word → Word} : KeptBy (s.alu3 m d a b f) := vecOp h

theorem aluI {f : Word → Word} : KeptBy (s.aluI m d a f) := alu1 h

theorem lea {sc : Nat} : KeptBy (s.lea m d a b sc) := vecOp64 h

theorem permute {u : Nat → Nat → Nat → Nat} : KeptBy (s.permute m d a b u) := vecOp h

theorem cmp2 {f : Word → Word → Bool} : KeptBy (s.cmp2 m mask a b f) := maskOp h

theorem maskFn {f : Party → Mask} : KeptBy (s.maskFn m mask regs f) := maskOp h

theorem fpCmp {un any : Bool} {rel : Int → Bool} : KeptBy (s.fpCmp m mask a b un any rel) := fcmpOp h

theorem fp1 {draws : Nat} {checked : Bool} {f : BitVec 3 → Bool → Nat → Nat → Nat × FpFlags} : KeptBy (s.fp1 m d a draws checked f) := fpOp h

theorem fp2 {draws : Nat} {f : BitVec 3 → Bool → Nat → Word → Word → Nat × FpFlags} : KeptBy (s.fp2 m d a b draws f) := fpOp h

theorem fp3 {f : BitVec 3 → Bool → Nat → Word → Word → Word → Nat × FpFlags} : KeptBy (s.fp3 m d a b f) := fpOp h

theorem fpPair {draws : Nat} {f : BitVec 3 → Bool → Nat → Nat → Nat → Nat → Nat × FpFlags} : KeptBy (s.fpPair m d a b draws f) := fpOp h

theorem fpDot {f : Fmt} {w n : Nat} : KeptBy (s.fpDot m d a b f w n) := fp3 h

theorem cvtPack {f : Fmt} : KeptBy (s.cvtPack m d a b f) := fpOp h

theorem atom32 {op : AtomOp} : KeptBy (s.atom32 m op d a b c) := atomic h

theorem redm {op : AtomOp} : KeptBy (s.redm m op a b) := atomic h

theorem byHandle {op : Party → Nat → AgentOp} {dest : Party → Dest} : KeptBy (s.byHandle m regs a op dest) := agentOps h

theorem byIntent {op : Party → Nat → AgentOp} {dest : Party → Dest} : KeptBy (s.byIntent m regs a op dest) := agentOps h

theorem leaving {run : Party → Nat → Bool} {op : Party → Nat → AgentOp} : KeptBy (s.leaving m regs a run op) := agentOps h

end

/-! ### Every instruction -/

/-- Each instruction by the rule of its executor. -/
theorem exec (h : Kept s) (i : Instr) : KeptBy (Machine.exec i s) := by
  cases i with
  | add m d a b => exact (alu2 h : KeptBy (execAdd m d a b s))
  | sub m d a b => exact (alu2 h : KeptBy (execSub m d a b s))
  | addi m d a b => exact (aluI h : KeptBy (execAddi m d a b s))
  | mul m d a b => exact (alu2 h : KeptBy (execMul m d a b s))
  | mulhI m d a b => exact (alu2 h : KeptBy (execMulhI m d a b s))
  | mulhN m d a b => exact (alu2 h : KeptBy (execMulhN m d a b s))
  | mad m d a b => exact (alu3 h : KeptBy (execMad m d a b s))
  | minI m d a b => exact (alu2 h : KeptBy (execMinI m d a b s))
  | maxI m d a b => exact (alu2 h : KeptBy (execMaxI m d a b s))
  | minN m d a b => exact (alu2 h : KeptBy (execMinN m d a b s))
  | maxN m d a b => exact (alu2 h : KeptBy (execMaxN m d a b s))
  | abs m d a => exact (alu1 h : KeptBy (execAbs m d a s))
  | neg m d a => exact (alu1 h : KeptBy (execNeg m d a s))
  | and m d a b => exact (alu2 h : KeptBy (execAnd m d a b s))
  | or m d a b => exact (alu2 h : KeptBy (execOr m d a b s))
  | xor m d a b => exact (alu2 h : KeptBy (execXor m d a b s))
  | andn m d a b => exact (alu2 h : KeptBy (execAndn m d a b s))
  | not m d a => exact (alu1 h : KeptBy (execNot m d a s))
  | shl m d a b => exact (alu2 h : KeptBy (execShl m d a b s))
  | shr m d a b => exact (alu2 h : KeptBy (execShr m d a b s))
  | sar m d a b => exact (alu2 h : KeptBy (execSar m d a b s))
  | rot m d a b => exact (alu2 h : KeptBy (execRot m d a b s))
  | shli m d a b => exact (aluI h : KeptBy (execShli m d a b s))
  | shri m d a b => exact (aluI h : KeptBy (execShri m d a b s))
  | sari m d a b => exact (aluI h : KeptBy (execSari m d a b s))
  | clz m d a => exact (alu1 h : KeptBy (execClz m d a s))
  | popc m d a => exact (alu1 h : KeptBy (execPopc m d a s))
  | brev m d a => exact (alu1 h : KeptBy (execBrev m d a s))
  | bfeI m d a b => exact (alu2 h : KeptBy (execBfeI m d a b s))
  | bfeN m d a b => exact (alu2 h : KeptBy (execBfeN m d a b s))
  | bfi m d a b => exact (alu3 h : KeptBy (execBfi m d a b s))
  | sel m d a b k => exact (vecOp h : KeptBy (execSel m d a b k s))
  | cmpEq m d a b => exact (cmp2 h : KeptBy (execCmpEq m d a b s))
  | cmpNe m d a b => exact (cmp2 h : KeptBy (execCmpNe m d a b s))
  | cmpLtI m d a b => exact (cmp2 h : KeptBy (execCmpLtI m d a b s))
  | cmpLeI m d a b => exact (cmp2 h : KeptBy (execCmpLeI m d a b s))
  | cmpLtN m d a b => exact (cmp2 h : KeptBy (execCmpLtN m d a b s))
  | cmpLeN m d a b => exact (cmp2 h : KeptBy (execCmpLeN m d a b s))
  | cmpiEq m d a b => exact (cmp2 h : KeptBy (execCmpiEq m d a b s))
  | cmpiLtI m d a b => exact (cmp2 h : KeptBy (execCmpiLtI m d a b s))
  | cmpiLtN m d a b => exact (cmp2 h : KeptBy (execCmpiLtN m d a b s))
  | mov m d a => exact (alu1 h : KeptBy (execMov m d a s))
  | movi m d imm => exact movi h m d imm
  | leaB m d a b => exact (lea h : KeptBy (execLeaB m d a b s))
  | leaH m d a b => exact (lea h : KeptBy (execLeaH m d a b s))
  | leaW m d a b => exact (lea h : KeptBy (execLeaW m d a b s))
  | leaD m d a b => exact (lea h : KeptBy (execLeaD m d a b s))
  | add64 m d a b => exact (vecOp64 h : KeptBy (execAdd64 m d a b s))
  | sub64 m d a b => exact (vecOp64 h : KeptBy (execSub64 m d a b s))
  | mulW m d a b => exact (vecOp64 h : KeptBy (execMulW m d a b s))
  | mulWn m d a b => exact (vecOp64 h : KeptBy (execMulWn m d a b s))
  | divI m d a b => exact (alu2 h : KeptBy (execDivI m d a b s))
  | divN m d a b => exact (alu2 h : KeptBy (execDivN m d a b s))
  | remI m d a b => exact (alu2 h : KeptBy (execRemI m d a b s))
  | remN m d a b => exact (alu2 h : KeptBy (execRemN m d a b s))
  | adds m d a b => exact (alu2 h : KeptBy (execAdds m d a b s))
  | subs m d a b => exact (alu2 h : KeptBy (execSubs m d a b s))
  | dot4Ii m d a b => exact (alu3 h : KeptBy (execDot4Ii m d a b s))
  | dot4Ni m d a b => exact (alu3 h : KeptBy (execDot4Ni m d a b s))
  | sad m d a b => exact (alu3 h : KeptBy (execSad m d a b s))
  | fadd m d a b => exact (fp2 h : KeptBy (execFadd m d a b s))
  | fsub m d a b => exact (fp2 h : KeptBy (execFsub m d a b s))
  | fmul m d a b => exact (fp2 h : KeptBy (execFmul m d a b s))
  | fma m d a b => exact (fp3 h : KeptBy (execFma m d a b s))
  | fmin m d a b => exact (fp2 h : KeptBy (execFmin m d a b s))
  | fmax m d a b => exact (fp2 h : KeptBy (execFmax m d a b s))
  | fabs m d a => exact (fp1 h : KeptBy (execFabs m d a s))
  | fneg m d a => exact (fp1 h : KeptBy (execFneg m d a s))
  | fcmpEq m d a b => exact (fpCmp h : KeptBy (execFcmpEq m d a b s))
  | fcmpLt m d a b => exact (fpCmp h : KeptBy (execFcmpLt m d a b s))
  | fcmpLe m d a b => exact (fpCmp h : KeptBy (execFcmpLe m d a b s))
  | fcmpUn m d a b => exact (fpCmp h : KeptBy (execFcmpUn m d a b s))
  | frnd m d a => exact (fp1 h : KeptBy (execFrnd m d a s))
  | fclass m d a => exact (fp1 h : KeptBy (execFclass m d a s))
  | fscale m d a b => exact (fp2 h : KeptBy (execFscale m d a b s))
  | fcopysign m d a b => exact (fp2 h : KeptBy (execFcopysign m d a b s))
  | hadd2Bf m d a b => exact (fpPair h : KeptBy (execHadd2Bf m d a b s))
  | hadd2Hf m d a b => exact (fpPair h : KeptBy (execHadd2Hf m d a b s))
  | hmul2Bf m d a b => exact (fpPair h : KeptBy (execHmul2Bf m d a b s))
  | hmul2Hf m d a b => exact (fpPair h : KeptBy (execHmul2Hf m d a b s))
  | hfma2Bf m d a b => exact (fpPair h : KeptBy (execHfma2Bf m d a b s))
  | hfma2Hf m d a b => exact (fpPair h : KeptBy (execHfma2Hf m d a b s))
  | hmin2Bf m d a b => exact (fpPair h : KeptBy (execHmin2Bf m d a b s))
  | hmax2Bf m d a b => exact (fpPair h : KeptBy (execHmax2Bf m d a b s))
  | hdot2Bf m d a b => exact (fpDot h : KeptBy (execHdot2Bf m d a b s))
  | hdot2Hf m d a b => exact (fpDot h : KeptBy (execHdot2Hf m d a b s))
  | f8dot4E4 m d a b => exact (fpDot h : KeptBy (execF8dot4E4 m d a b s))
  | f8dot4E5 m d a b => exact (fpDot h : KeptBy (execF8dot4E5 m d a b s))
  | fminP m d a b => exact (fp2 h : KeptBy (execFminP m d a b s))
  | fmaxP m d a b => exact (fp2 h : KeptBy (execFmaxP m d a b s))
  | rcp m d a => exact (sfu h : KeptBy (execRcp m d a s))
  | rsq m d a => exact (sfu h : KeptBy (execRsq m d a s))
  | sqrt m d a => exact (sfu h : KeptBy (execSqrt m d a s))
  | ex2 m d a => exact (sfu h : KeptBy (execEx2 m d a s))
  | lg2 m d a => exact (sfu h : KeptBy (execLg2 m d a s))
  | sinT m d a => exact (sfu h : KeptBy (execSinT m d a s))
  | cosT m d a => exact (sfu h : KeptBy (execCosT m d a s))
  | tanh m d a => exact (sfu h : KeptBy (execTanh m d a s))
  | sigm m d a => exact (sfu h : KeptBy (execSigm m d a s))
  | fdiv m d a b => exact (sfu h : KeptBy (execFdiv m d a b s))
  | cvtFI m d a => exact (fp1 h : KeptBy (execCvtFI m d a s))
  | cvtFN m d a => exact (fp1 h : KeptBy (execCvtFN m d a s))
  | cvtIF m d a => exact (fp1 h : KeptBy (execCvtIF m d a s))
  | cvtNF m d a => exact (fp1 h : KeptBy (execCvtNF m d a s))
  | cvt2Bf m d a b => exact (cvtPack h : KeptBy (execCvt2Bf m d a b s))
  | cvt2Hf m d a b => exact (cvtPack h : KeptBy (execCvt2Hf m d a b s))
  | cvtFBfl m d a => exact (fp1 h : KeptBy (execCvtFBfl m d a s))
  | cvtFBfh m d a => exact (fp1 h : KeptBy (execCvtFBfh m d a s))
  | cvtFHfl m d a => exact (fp1 h : KeptBy (execCvtFHfl m d a s))
  | cvtFHfh m d a => exact (fp1 h : KeptBy (execCvtFHfh m d a s))
  | cvtE4 m d a => exact (fp1 h : KeptBy (execCvtE4 m d a s))
  | cvtE5 m d a => exact (fp1 h : KeptBy (execCvtE5 m d a s))
  | cvtFE4 m d a => exact (fp1 h : KeptBy (execCvtFE4 m d a s))
  | cvtFE5 m d a => exact (fp1 h : KeptBy (execCvtFE5 m d a s))
  | swp m d a b => exact (permute h : KeptBy (execSwp m d a b s))
  | shfl m d a b => exact (permute h : KeptBy (execShfl m d a b s))
  | rotw m d a b => exact (permute h : KeptBy (execRotw m d a b s))
  | bcast m d a b => exact bcast h m d a b
  | voteAll m d a => exact (maskOp h : KeptBy (execVoteAll m d a s))
  | voteAny m d a => exact (maskOp h : KeptBy (execVoteAny m d a s))
  | ballot m d a => exact (vecOp64 h : KeptBy (execBallot m d a s))
  | cmpr m d a => exact cmpr h m d a
  | expd m d a => exact (vecOp h : KeptBy (execExpd m d a s))
  | scanAdd m d a => exact (gather h : KeptBy (execScanAdd m d a s))
  | scanFadd m d a => exact (gather h : KeptBy (execScanFadd m d a s))
  | redAdd m d a => exact (gather h : KeptBy (execRedAdd m d a s))
  | redFadd m d a => exact (gather h : KeptBy (execRedFadd m d a s))
  | redMinI m d a => exact (gather h : KeptBy (execRedMinI m d a s))
  | redMaxI m d a => exact (gather h : KeptBy (execRedMaxI m d a s))
  | redFmax m d a => exact (gather h : KeptBy (execRedFmax m d a s))
  | redFmin m d a => exact (gather h : KeptBy (execRedFmin m d a s))
  | ixr m d a => exact ixr h m d a
  | ixw m a b => exact ixw h m a b
  | win m b => exact win h m b
  | tid m d b => exact tid h m d b
  | mand m d a b => exact (maskFn h : KeptBy (execMand m d a b s))
  | mor m d a b => exact (maskFn h : KeptBy (execMor m d a b s))
  | mxor m d a b => exact (maskFn h : KeptBy (execMxor m d a b s))
  | mnot m d a => exact (maskFn h : KeptBy (execMnot m d a s))
  | m2v m d a => exact (vecOp h : KeptBy (execM2v m d a s))
  | v2m m d a => exact (maskOp h : KeptBy (execV2m m d a s))
  | ld8 m d a b => exact (load h : KeptBy (execLd8 m d a b s))
  | ld8s m d a b => exact (load h : KeptBy (execLd8s m d a b s))
  | ld16 m d a b => exact (load h : KeptBy (execLd16 m d a b s))
  | ld16s m d a b => exact (load h : KeptBy (execLd16s m d a b s))
  | ld32 m d a b => exact (load h : KeptBy (execLd32 m d a b s))
  | ld64 m d a b => exact (load h : KeptBy (execLd64 m d a b s))
  | ld128 m d a b => exact (load h : KeptBy (execLd128 m d a b s))
  | st8 m d a b => exact (store h : KeptBy (execSt8 m d a b s))
  | st16 m d a b => exact (store h : KeptBy (execSt16 m d a b s))
  | st32 m d a b => exact (store h : KeptBy (execSt32 m d a b s))
  | st64 m d a b => exact (store h : KeptBy (execSt64 m d a b s))
  | st128 m d a b => exact (store h : KeptBy (execSt128 m d a b s))
  | ldU m d a b => exact (load h : KeptBy (execLdU m d a b s))
  | stU m d a b => exact (store h : KeptBy (execStU m d a b s))
  | ldRc m d a b => exact (load h : KeptBy (execLdRc m d a b s))
  | pf m a b => exact pf h m a b
  | atomAdd m d a b => exact (atom32 h : KeptBy (execAtomAdd m d a b s))
  | atomMinI m d a b => exact (atom32 h : KeptBy (execAtomMinI m d a b s))
  | atomMaxI m d a b => exact (atom32 h : KeptBy (execAtomMaxI m d a b s))
  | atomMinN m d a b => exact (atom32 h : KeptBy (execAtomMinN m d a b s))
  | atomMaxN m d a b => exact (atom32 h : KeptBy (execAtomMaxN m d a b s))
  | atomAnd m d a b => exact (atom32 h : KeptBy (execAtomAnd m d a b s))
  | atomOr m d a b => exact (atom32 h : KeptBy (execAtomOr m d a b s))
  | atomXor m d a b => exact (atom32 h : KeptBy (execAtomXor m d a b s))
  | atomXch m d a b => exact (atom32 h : KeptBy (execAtomXch m d a b s))
  | atomCas m d a b c => exact (atom32 h : KeptBy (execAtomCas m d a b c s))
  | atomFadd m d a b => exact (atom32 h : KeptBy (execAtomFadd m d a b s))
  | atomAdd64 m d a b => exact (atomic h : KeptBy (execAtomAdd64 m d a b s))
  | redmAdd m a b => exact (redm h : KeptBy (execRedmAdd m a b s))
  | redmFadd m a b => exact (redm h : KeptBy (execRedmFadd m a b s))
  | redmMax m a b => exact (redm h : KeptBy (execRedmMax m a b s))
  | fence m => exact fence h m
  | nap m a b => exact nap h m a b
  | mbxLd m d a b => exact (mailbox h : KeptBy (execMbxLd m d a b s))
  | mbxSt m d a b => exact (mailbox h : KeptBy (execMbxSt m d a b s))
  | mbxTst m d a b => exact (mailbox h : KeptBy (execMbxTst m d a b s))
  | br m off => exact (branch h : KeptBy (execBr m off s))
  | brC m k off => exact (branch h : KeptBy (execBrC m k off s))
  | brAny m k off => exact (branch h : KeptBy (execBrAny m k off s))
  | brAll m k off => exact (branch h : KeptBy (execBrAll m k off s))
  | brx m d a b => exact brx h m d a b
  | call m off => exact call h m off
  | callX m a => exact callX h m a
  | ret m => exact ret h m
  | div m off => exact div h m off
  | join m => exact join h m
  | exit m => exact exit h m
  | barArr m scope num => exact barArr h m scope num
  | barArrRlx m scope num => exact barArrRlx h m scope num
  | barWait m scope num => exact barWait h m scope num
  | barSync m scope num => exact barSync h m scope num
  | syncP m a => exact syncP h m a
  | idem m => exact idem h m
  | nop m => exact issue fun _ _ => h
  | loop m c off => exact loop h m c off
  | belPut m d a b => exact (byHandle h : KeptBy (execBelPut m d a b s))
  | belRet m d a => exact (byHandle h : KeptBy (execBelRet m d a s))
  | belGet m d a b => exact (byHandle h : KeptBy (execBelGet m d a b s))
  | belFacts m d a => exact (byHandle h : KeptBy (execBelFacts m d a s))
  | belTst m d a b => exact (byHandle h : KeptBy (execBelTst m d a b s))
  | goalAdd m a b => exact (byHandle h : KeptBy (execGoalAdd m a b s))
  | goalDone m d a b => exact (byHandle h : KeptBy (execGoalDone m d a b s))
  | goalFail m a => exact (byIntent h : KeptBy (execGoalFail m a s))
  | intAdopt m d a b => exact (byHandle h : KeptBy (execIntAdopt m d a b s))
  | intDrop m a => exact (byIntent h : KeptBy (execIntDrop m a s))
  | intSusp m d a b => exact (leaving h : KeptBy (execIntSusp m d a b s))
  | intResm m d a b => exact (byIntent h : KeptBy (execIntResm m d a b s))
  | planSub m d a b => exact (leaving h : KeptBy (execPlanSub m d a b s))
  | planRet m a b => exact (leaving h : KeptBy (execPlanRet m a b s))
  | step m a b => exact (leaving h : KeptBy (execStep m a b s))
  | intInfo m d a => exact (byIntent h : KeptBy (execIntInfo m d a s))
  | agtNew m d b => exact (agentOps h : KeptBy (execAgtNew m d b s))
  | agtFree m a => exact (byHandle h : KeptBy (execAgtFree m a s))
  | tileClaim m d b => exact tileClaim h m d b
  | tileRel m a b => exact tileRel h m a b
  | tileSt m d a => exact tileSt h m d a
  | cpIn m d a b => exact cpIn h m d a b
  | cpOut m d a b => exact cpOut h m d a b
  | cpMem m d a b => exact cpMem h m d a b
  | cpInMx m d a b => exact cpInMx h m d a b
  | mxMma m d a b => exact mxMma h m d a b
  | mxSm m d a b => exact mxSm h m d a b
  | mxRd m d a b => exact mxRd h m d a b
  | mxClr m d => exact mxClr h m d
  | mxCtlClaim m d => exact mxCtlClaim h m d
  | mxCtlBind m d => exact mxCtlBind h m d
  | mxCtlRelease m d => exact mxCtlRelease h m d
  | tlWait m a b => exact tlWait h m a b
  | tlRd m d a b => exact tlRd h m d a b
  | tlInc m d a b => exact tlInc h m d a b
  | bankCmd m d a b => exact bankCmd h m d a b
  | launch m d a => exact launch h m d a
  | recEmit m d a b => exact recEmit h m d a b
  | logApp m d a b => exact logApp h m d a b
  | envClaim m d b => exact envClaim h m d b
  | envRel m a b => exact envRel h m a b
  | envClr m d b => exact (envQueued h : KeptBy (execEnvClr m d b s))
  | envIns m d a b => exact envIns h m d a b
  | envSum m d a b => exact (envQueued h : KeptBy (execEnvSum m d a b s))
  | envMax m d a b => exact (envQueued h : KeptBy (execEnvMax m d a b s))
  | envIcv m d a b => exact (envQueued h : KeptBy (execEnvIcv m d a b s))
  | envConj m d a b => exact (envQueued h : KeptBy (execEnvConj m d a b s))
  | envSimp m d a => exact (envQueued h : KeptBy (execEnvSimp m d a s))
  | envEval m d a b => exact envEval h m d a b
  | envSlope m d a b => exact envSlope h m d a b
  | envRd m d a b => exact envRd h m d a b
  | envCnt m d a => exact envCnt h m d a
  | envLd m d a => exact envLd h m d a
  | envSt m d a => exact envSt h m d a
  | csrRd m d a => exact csrRd h m d a
  | csrWr m a b => exact (csrChange h : KeptBy (execCsrWr m a b s))
  | csrSet m d a b => exact (csrChange h : KeptBy (execCsrSet m d a b s))
  | csrClr m d a b => exact (csrChange h : KeptBy (execCsrClr m d a b s))
  | trap m b => exact issue fun _ _ => h.softTrap ..
  | tret m => exact tret h m
  | brk m b => exact issue fun _ _ => h.softTrap ..
  | clk m d => exact clk h m d
  | fenceWin m => exact fenceWin h m
  | specialFunctionResult op => exact specialFunctionResult h op
  | mailboxStorePerform req => exact mailboxStorePerform h req
  | homeAcceptance req => exact homeAcceptance h req
  | loadResultWrite req => exact loadResultWrite h req
  | writeAcknowledged req => exact writeAcknowledged h req
  | gridEndFlush grid => exact gridEndFlush h grid
  | barrierArrivalCount arr => exact barrierArrivalCount h arr
  | stewardReply req => exact stewardReply h req
  | exitEndRequest req => exact exitEndRequest h req
  | planSelection quad => exact planSelection h quad
  | activationEntry quad => exact activationEntry h quad
  | coachTimerDeparture quad node => exact coachTimerDeparture h quad node
  | dieFifoPlacement die => exact dieFifoPlacement h die
  | porterChunk core ctx => exact porterChunk h core ctx
  | followOnIssue core x => exact followOnIssue h core x
  | matrixCommandExecute core x => exact matrixCommandExecute h core x
  | bankListStart engine => exact bankListStart h engine
  | bend engine => exact event (h.bankStep ..)
  | bvec engine => exact event (h.bankStep ..)
  | bmv engine => exact event (h.bankStep ..)
  | bclr engine => exact event (h.bankStep ..)
  | bout engine => exact event (h.bankStep ..)
  | bsync engine => exact event (h.bankStep ..)
  | deferredLaunchEnqueue fe => exact deferredLaunchEnqueue h fe
  | envelopeExecute core => exact envelopeExecute h core
  | clauseEntry party => exact clauseEntry h party
  | lanePick lane => exact lanePick h lane
  | trapEntry party => exact trapEntry h party
  | napTimeout party => exact napTimeout h party
  | periodBoundary => exact periodBoundary h
  | tokenReturn core => exact tokenReturn h core
  | watchdogExpiry party => exact watchdogExpiry h party
  | gridPlacement fe => exact gridPlacement h fe
  | crewAdmission crew => exact crewAdmission h crew
  | restoration crew => exact restoration h crew
  | preemption fe => exact preemption h fe
  | lodgingRestore fe => exact lodgingRestore h fe
  | caravanMemberLoss caravan => exact caravanMemberLoss h caravan
  | functionLevelReset fe => exact functionLevelReset h fe
  | pfReset => exact event h.warm
  | warmReset => exact event h.warm
  | coldReset => exact coldReset h
  | firmwareBoot => exact firmwareBoot h
  | recoveryImage image => exact recoveryImage h image
  | fullServiceTransition => exact fullServiceTransition h
  | innkeeperMismatch => exact innkeeperMismatch h
  | doorbell fe tail => exact doorbell h fe tail
  | statusResume fe => exact statusResume h fe
  | powerCap watts => exact powerCap h watts
  | barRegisterWrite fe off value => exact barRegisterWrite h fe off value
  | packetStart fe => exact packetStart h fe
  | packetWait fe => exact packetWait h fe
  | packetSignal pkt => exact packetSignal h pkt
  | msixUnmask fe vector => exact msixUnmask h fe vector
  | nopPacket fe => exact nopPacket h fe
  | grid fe => exact grid h fe
  | copy fe => exact copy h fe
  | ib fe => exact ib h fe
  | loopPacket fe => exact loopPacket h fe
  | ffence fe => exact ffence h fe
  | inval fe => exact inval h fe
  | invalidationArrival inv quad => exact invalidationArrival h inv quad
  | invalidationComplete inv => exact invalidationComplete h inv
  | pageWalk quad fe va => exact pageWalk h quad fe va
  | coll fe => exact coll h fe
  | collectiveComplete coll => exact collectiveComplete h coll
  | msg fe => exact msg h fe
  | messageReceive message => exact messageReceive h message
  | regionCreate fe => exact regionCreate h fe
  | regionDestroy fe => exact regionDestroy h fe
  | agents fe => exact agents h fe
  | libraryInstall fe base prio => exact libraryInstall h fe base prio
  | lodgingDescriptorWrite fe desc => exact lodgingDescriptorWrite h fe desc
  | blockAssign block owner => exact blockAssign h block owner
  | winOpen req => exact winOpen h req
  | winClose window => exact event (h.closeWindow window)
  | cellarPin fe base len => exact cellarPin h fe base len
  | cellarUnpin fe base len => exact cellarUnpin h fe base len
  | attestationReport fe nonce => exact attestationReport h fe nonce
  | migration fe report => exact migration h fe report
  | passportAccept fe passport => exact passportAccept h fe passport
  | caravanSliceStart caravan => exact caravanSliceStart h caravan
  | lineWriteMemory line => exact lineWriteMemory h line
  | lineReadMemory line => exact lineReadMemory h line
  | lineWriteback line => exact lineWriteback h line
  | patrolScrub line => exact patrolScrub h line
  | regionTagLoss slice set => exact regionTagLoss h slice set
  | fabricTimeout req => exact fabricTimeout h req
  | portFailure port => exact portFailure h port
  | budgetPeriod => exact budgetPeriod h
  | powerSample watts average => exact powerSample h watts average
  | blockedOnDependence fe => exact blockedOnDependence h fe
  | caravanSliceEnd caravan => exact caravanSliceEnd h caravan
  | debugHalt party => exact debugHalt h party
  | restoreAcknowledged fe => exact restoreAcknowledged h fe
  | failedFlit port => exact failedFlit h port

theorem fault (f : Fault) : KeptBy (.fault f) := fun _ ht => nomatch ht

theorem refused (r : Refusal) : KeptBy (.refused r) := fun _ ht => nomatch ht

theorem execAll (h : Kept s) (is : List Instr) : KeptBy (Machine.execAll is s) := by
  induction is generalizing s with
  | nil => exact next h
  | cons i is ih =>
    have hi := exec h i
    unfold Machine.execAll
    split
    · next t ht => exact ih (hi t ht)
    · exact fault _
    · exact refused _

end KeptBy

/-! ### Groups and steps -/

/-- The state in which starting a group leaves the machine, whether or not there is a group to execute. -/
def startedState : Started → State
  | .over s => s
  | .group s _ => s

namespace Kept

variable {s : State}

theorem startGroup (h : Kept s) (p : Nat) : Kept (startedState (s.startGroup p)) := by
  unfold State.startGroup
  split
  · exact h
  · next x hx =>
    split
    · exact h
    · next pos hpos =>
      extract_lets x go
      have hgo (u : State) (hu : Kept u) (y : Party) (ws : List Word) : Kept (startedState (go u y ws)) := by
        unfold go
        split
        · exact takeTrap (by exact hu) ..
        · split
          · exact takeTrap (by exact hu) ..
          · exact hu
      split
      · exact hgo s h _ _
      · have hline := h.fetchLine x pos.pkt
        split
        · next hf =>
          rw [hf] at hline
          exact takeTrap (by exact hline) ..
        · next hf =>
          rw [hf] at hline
          exact hgo _ hline _ _

end Kept

/-- Each entry of the schedule, each group and each pending event keeps the invariant; so does time. -/
theorem KeptBy.step {s : State} (h : Kept s) : KeptBy (Machine.step s) := by
  unfold Machine.step
  split
  · exact exec (by exact h) _
  · exact next (by exact h)
  · exact next (by exact h)
  · exact next (Kept.given (by exact h) _)
  · split
    · next p _ =>
      have hstart := h.startGroup p
      split
      · next hg =>
        rw [hg] at hstart
        exact next hstart
      · next t g hg =>
        rw [hg] at hstart
        split
        · next u hu => exact next (Kept.retire hstart (execAll hstart _ u hu) p)
        · exact fault _
        · exact refused _
    · split
      · exact exec h _
      · exact next (by exact h)

/-- Settles O59: the invariant speaks of five parts of the state, and no step breaks what it asks of them. -/
theorem stepKeepsTheInvariant : Obligations.StepKeepsTheInvariant := by
  intro s t hs hstep
  exact (kept_iff t).1 (KeptBy.step ((kept_iff s).2 hs) t hstep)

end Sys2Proof.Proofs
end
